-- ==== Sys2Proof/Word.lean ====
section
/-! DEFINITION. The machine's word types (R38, R86, R41). -/

namespace Sys2Proof

/-- A 64-bit scalar register, base, address or bundle address. -/
abbrev Word := BitVec 64

/-- One byte of memory. -/
abbrev Byte := BitVec 8

/-- A parcel of code (R86), also one lane of a vector register (R41). -/
abbrev Parcel := BitVec 32

/-- One lane of a vector register (R41). -/
abbrev Lane := BitVec 32

/-- A vector register: 64 lanes (R38). -/
abbrev Vec := Vector Lane 64

end Sys2Proof
end

