-- ==== Sys2Proof/Syntax.lean ====
section
/-! DEFINITION. The syntax: register names, the small operand types, and Instr, one constructor for each row of
spec/opcode_table.json. A slot operation carries the fields of its form (R106–R116) as decoding numbers them; its
path tag (R98) belongs to the bundle, not to the operation. The device steps
(spec/95) come last and have no fields: their operands are an Input. -/

namespace Sys2Proof

abbrev SR := Fin 32
abbrev AR := Fin 16
abbrev PR := Fin 16
abbrev BR := Fin 8
abbrev VR := Fin 32
abbrev MR := Fin 8
abbrev WR := Fin 8
abbrev TR := Fin 16
abbrev KR := Fin 32
abbrev CR := Fin 64
abbrev RG := Fin 16

/-- Global logical core of a compute core: 4 × cluster + core (R20). -/
abbrev CoreId := Fin 384
/-- Global logical cluster (R18). -/
abbrev ClusterId := Fin 96
/-- Device number in the load-store domain (R18). -/
abbrev DevId := Fin 64
/-- Domain port (R475). -/
abbrev PortId := Fin 12

/-- The contexts of the device (R14, R351). -/
inductive CtxId where
  | user (k : CoreId) (x : Fin 4)
  | ctl (g : ClusterId)
  | sys (n : Fin 8) (i : Fin 4)
deriving DecidableEq, Repr

/-- The header parcel's fields (R88). -/
structure Header where
  p : BitVec 8
  g : Fin 16
  i : Fin 4
  l : Fin 8
  sp : Bool
  lx : BitVec 13
deriving DecidableEq, Repr

/-- The token fields of R114. -/
structure Tokens where
  pv : Bool
  prod : KR
  c0 : KR
  c1 : KR
  c2 : KR
  nc : Fin 4
deriving DecidableEq, Repr

/-- The E, B and ab fields of a copy or gather (R113, R275). -/
structure EngOpt where
  e : Bool
  b : Bool
  ab : AR
deriving DecidableEq, Repr

/-- One test of a branch tree with its leaf register (R144). -/
structure BTest where
  v : Bool
  n : Bool
  p : PR
  leaf : BR
deriving DecidableEq, Repr

/-- What Lantern's two passes find (R437). -/
inductive Verdict where
  | primary | shadow | neither | passesDiffer
deriving DecidableEq, Repr

/-- What the hardware of an audit replay makes of it (R441, R444): what its contexts have computed; on faulty hardware another write set,
with its signature and its line count, or a fault. -/
inductive ReplayOutcome where
  | computed | ran (sig : BitVec 64) (lines : Nat) | faulted
deriving DecidableEq, Repr

/-- What a code or parity finds in stored data (R429). -/
inductive StoredFault where
  | clean | correctable | uncorrectable
deriving DecidableEq, Repr

/-- A channel element (R282): a vector of 64 words or a 64-bit scalar. -/
inductive ChElem where
  | vec (x : Vec)
  | scalar (x : Word)
deriving DecidableEq, Repr

/-- A flooded link-state update (R446). -/
structure LinkUpdate where
  origin : DevId
  port : PortId
  up : Bool
  epoch : Nat
  via : PortId
deriving DecidableEq, Repr

/-- A request of another device as it is delivered here (R446, R273); bad: the bytes of a store are poisoned (R430). -/
structure RemoteReq where
  src : DevId
  seq : Nat
  asid : BitVec 16
  va : Nat
  store : Option (List Byte)
  len : Nat
  bad : Bool := false
deriving DecidableEq, Repr

/-- What a device step concerns and what the outside world decides of it: the operands of the Instr constructors
that are device steps. (They stand in State.input, not in the constructor; log 5.) -/
structure Input where
  ctx : CtxId := .sys 0 0
  core : CoreId := 0
  clu : ClusterId := 0
  die : Fin 8 := 0
  port : PortId := 0
  dev : DevId := 0
  host : Fin 4 := 0
  reg : RG := 0
  ch : CR := 0
  task : BitVec 32 := 0
  num : Nat := 0
  num2 : Nat := 0
  good : Bool := true
  verdict : Verdict := .primary
  outcome : ReplayOutcome := .computed
  stored : StoredFault := .clean
  elem : Option ChElem := none
  bytes : Option (List Byte) := none
  list : List Nat := []
  update : LinkUpdate := ⟨0, 0, true, 0, 0⟩
  req : RemoteReq := ⟨0, 0, 0, 0, none, 0, false⟩
deriving DecidableEq, Repr

/-- One constructor for each row of the opcode table. -/
inductive Instr where
  /-- GAP_BUNDLE: a header with P = 0 (R91) -/
  | gapBundle (h : Header)
  /-- SKIPPED_BUNDLE: a flagged bundle on another iteration (R89) -/
  | skippedBundle (h : Header)
  /-- ADD: R122 -/
  | add (d a b : SR)
  /-- SUB: R122 -/
  | sub (d a b : SR)
  /-- AND: R122 -/
  | andS (d a b : SR)
  /-- OR: R122 -/
  | orS (d a b : SR)
  /-- XOR: R122 -/
  | xorS (d a b : SR)
  /-- ANDN: R122 -/
  | andn (d a b : SR)
  /-- SHL: R122 -/
  | shl (d a b : SR)
  /-- SHR: R122 -/
  | shr (d a b : SR)
  /-- SHA: R122 -/
  | sha (d a b : SR)
  /-- ROTL: R122 -/
  | rotl (d a b : SR)
  /-- MIN: R122 -/
  | minS (d a b : SR)
  /-- MAX: R122 -/
  | maxS (d a b : SR)
  /-- MINZ: R122 -/
  | minz (d a b : SR)
  /-- MAXZ: R122 -/
  | maxz (d a b : SR)
  /-- MUL: R122 -/
  | mul (d a b : SR)
  /-- MULH: R122 -/
  | mulh (d a b : SR)
  /-- MULHZ: R122 -/
  | mulhz (d a b : SR)
  /-- DIV: R122 -/
  | divS (d a b : SR)
  /-- DIVZ: R122 -/
  | divz (d a b : SR)
  /-- REM: R122 -/
  | remS (d a b : SR)
  /-- REMZ: R122 -/
  | remz (d a b : SR)
  /-- CLZ: R122, R124 -/
  | clz (d a : SR)
  /-- CTZ: R122, R124 -/
  | ctz (d a : SR)
  /-- POPC: R122, R124 -/
  | popc (d a : SR)
  /-- SEXTB: R122, R124 -/
  | sextb (d a : SR)
  /-- SEXTH: R122, R124 -/
  | sexth (d a : SR)
  /-- SEXTW: R122, R124 -/
  | sextw (d a : SR)
  /-- ADDI: R125 -/
  | addi (d a : SR) (imm : BitVec 12)
  /-- ANDI: R125 -/
  | andi (d a : SR) (imm : BitVec 12)
  /-- ORI: R125 -/
  | ori (d a : SR) (imm : BitVec 12)
  /-- XORI: R125 -/
  | xori (d a : SR) (imm : BitVec 12)
  /-- SHLI: R125 -/
  | shli (d a : SR) (n : BitVec 6)
  /-- SHRI: R125 -/
  | shri (d a : SR) (n : BitVec 6)
  /-- SHAI: R125 -/
  | shai (d a : SR) (n : BitVec 6)
  /-- LI: R126 -/
  | li (d : SR) (imm : BitVec 17)
  /-- LIS: R126 -/
  | lis (d : SR) (imm : BitVec 17)
  /-- CMP: R127 -/
  | cmp (cond : Fin 8) (pd : PR) (a b : SR)
  /-- CMPI: R127 -/
  | cmpi (cond : Fin 8) (pd : PR) (a : SR) (imm : BitVec 10)
  /-- PAND: R129 -/
  | pand (pd pa pb : PR)
  /-- POR: R129 -/
  | por (pd pa pb : PR)
  /-- PXOR: R129 -/
  | pxor (pd pa pb : PR)
  /-- PANDN: R129 -/
  | pandn (pd pa pb : PR)
  /-- PNOT: R129 -/
  | pnot (pd pa : PR)
  /-- PMOV: R129 -/
  | pmov (pd pa : PR)
  /-- SEL: R130 -/
  | sel (d a b : SR) (p : PR)
  /-- AADD: R131 -/
  | aadd (ad aa : AR) (s : SR)
  /-- ASUB: R131 -/
  | asub (ad aa : AR) (s : SR)
  /-- AMOVS: R131 -/
  | amovs (ad : AR) (s : SR)
  /-- SMOVA: R131 -/
  | smova (d : SR) (aa : AR)
  /-- AADDI: R132 -/
  | aaddi (ad aa : AR) (imm : BitVec 12)
  /-- ASTRIDE: R133 -/
  | astride (a : AR) (level : Fin 8) (imm : BitVec 15)
  /-- MOVX: R136, R48 -/
  | movx (d : SR) (sel : Fin 16)
  /-- FADD: R137 -/
  | fadd (d a b : SR)
  /-- FSUB: R137 -/
  | fsub (d a b : SR)
  /-- FMUL: R137 -/
  | fmul (d a b : SR)
  /-- FDIV: R137 -/
  | fdiv (d a b : SR)
  /-- FMIN: R137 -/
  | fmin (d a b : SR)
  /-- FMAX: R137 -/
  | fmax (d a b : SR)
  /-- FSQRT: R137 -/
  | fsqrt (d a : SR)
  /-- FCVTIF: R137 -/
  | fcvtif (d a : SR)
  /-- FCVTFI: R137 -/
  | fcvtfi (d a : SR)
  /-- FCMP: R128 -/
  | fcmp (cond : Fin 8) (pd : PR) (a b : SR)
  /-- BTGT: R139 -/
  | btgt (b : BR) (imm : BitVec 19)
  /-- BTGTA: R140 -/
  | btgta (b : BR) (aa : AR)
  /-- LDB: R174 -/
  | ldb (d : SR) (a : AR) (post : Bool) (off : BitVec 12)
  /-- LDBZ: R174 -/
  | ldbz (d : SR) (a : AR) (post : Bool) (off : BitVec 12)
  /-- LDH: R174 -/
  | ldh (d : SR) (a : AR) (post : Bool) (off : BitVec 12)
  /-- LDHZ: R174 -/
  | ldhz (d : SR) (a : AR) (post : Bool) (off : BitVec 12)
  /-- LDW: R174 -/
  | ldw (d : SR) (a : AR) (post : Bool) (off : BitVec 12)
  /-- LDWZ: R174 -/
  | ldwz (d : SR) (a : AR) (post : Bool) (off : BitVec 12)
  /-- LDD: R174 -/
  | ldd (d : SR) (a : AR) (post : Bool) (off : BitVec 12)
  /-- LDV: R175 -/
  | ldv (d : VR) (a : AR) (post : Bool) (off : BitVec 12)
  /-- LDVS: R175 -/
  | ldvs (d : VR) (a : AR) (post : Bool) (s : SR) (off : BitVec 7)
  /-- LDVX: R176 -/
  | ldvx (d : VR) (a : AR) (vi : VR) (sc : Fin 4)
  /-- LDVB: R175 -/
  | ldvb (d : VR) (a : AR) (post : Bool) (off : BitVec 12)
  /-- LDM: R178 -/
  | ldm (d : MR) (a : AR) (post : Bool) (off : BitVec 12)
  /-- LDWT: R178, R236 -/
  | ldwt (d : WR) (a : AR) (post : Bool) (off : BitVec 12)
  /-- LDG: R180 -/
  | ldg (d : SR) (a : AR) (size : Fin 8) (off : BitVec 10)
  /-- LDGV: R180 -/
  | ldgv (d : VR) (a : AR) (post : Bool) (off : BitVec 12)
  /-- LDAQ: R187 -/
  | ldaq (d : SR) (a : AR) (size : Fin 8) (scope : Fin 8)
  /-- STB: R174 -/
  | stb (s : SR) (a : AR) (post : Bool) (off : BitVec 12)
  /-- STH: R174 -/
  | sth (s : SR) (a : AR) (post : Bool) (off : BitVec 12)
  /-- STW: R174 -/
  | stw (s : SR) (a : AR) (post : Bool) (off : BitVec 12)
  /-- STD: R174 -/
  | std (s : SR) (a : AR) (post : Bool) (off : BitVec 12)
  /-- STV: R175 -/
  | stv (v : VR) (a : AR) (post : Bool) (off : BitVec 12)
  /-- STVM: R177 -/
  | stvm (v : VR) (a : AR) (post : Bool) (m : MR) (off : BitVec 9)
  /-- STVS: R175 -/
  | stvs (v : VR) (a : AR) (post : Bool) (s : SR) (off : BitVec 7)
  /-- STVX: R176 -/
  | stvx (v : VR) (a : AR) (vi : VR) (sc : Fin 4)
  /-- STWT: R178, R235 -/
  | stwt (w : WR) (a : AR) (post : Bool) (off : BitVec 12)
  /-- STM: R178 -/
  | stm (m : MR) (a : AR) (post : Bool) (off : BitVec 12)
  /-- STG: R180 -/
  | stg (s : SR) (a : AR) (size : Fin 8) (off : BitVec 10)
  /-- STGV: R180 -/
  | stgv (v : VR) (a : AR) (post : Bool) (off : BitVec 12)
  /-- STRL: R187 -/
  | strl (s : SR) (a : AR) (size : Fin 8) (scope : Fin 8)
  /-- ATOM_ADD: R188 -/
  | atomAdd (d : SR) (a : AR) (s : SR) (g z : Bool) (oc : Fin 4)
  /-- ATOM_AND: R188 -/
  | atomAnd (d : SR) (a : AR) (s : SR) (g z : Bool) (oc : Fin 4)
  /-- ATOM_OR: R188 -/
  | atomOr (d : SR) (a : AR) (s : SR) (g z : Bool) (oc : Fin 4)
  /-- ATOM_XOR: R188 -/
  | atomXor (d : SR) (a : AR) (s : SR) (g z : Bool) (oc : Fin 4)
  /-- ATOM_MIN: R188 -/
  | atomMin (d : SR) (a : AR) (s : SR) (g z : Bool) (oc : Fin 4)
  /-- ATOM_MAX: R188 -/
  | atomMax (d : SR) (a : AR) (s : SR) (g z : Bool) (oc : Fin 4)
  /-- ATOM_MINZ: R188 -/
  | atomMinz (d : SR) (a : AR) (s : SR) (g z : Bool) (oc : Fin 4)
  /-- ATOM_MAXZ: R188 -/
  | atomMaxz (d : SR) (a : AR) (s : SR) (g z : Bool) (oc : Fin 4)
  /-- ATOM_XCHG: R188 -/
  | atomXchg (d : SR) (a : AR) (s : SR) (g z : Bool) (oc : Fin 4)
  /-- ATOM_FADD: R188 -/
  | atomFadd (d : SR) (a : AR) (s : SR) (g z : Bool) (oc : Fin 4)
  /-- ACAS: R189 -/
  | acas (d : SR) (a : AR) (s : SR) (g z : Bool) (oc : Fin 4)
  /-- FENCE: R191 -/
  | fence (kind : Fin 4) (scope : Fin 8)
  /-- CMO: R192 -/
  | cmo (op level : Fin 4) (a : AR) (s : SR)
  /-- RGSET: R193 -/
  | rgset (rg : RG) (a : AR) (s s2 : SR) (mode : Fin 8)
  /-- RGWB: R196 -/
  | rgwb (rg : RG)
  /-- RGDROP: R196 -/
  | rgdrop (rg : RG)
  /-- VADD: R205 -/
  | vadd (d a b : VR) (m : MR) (ty : Fin 16)
  /-- VSUB: R205 -/
  | vsub (d a b : VR) (m : MR) (ty : Fin 16)
  /-- VMIN: R205 -/
  | vmin (d a b : VR) (m : MR) (ty : Fin 16)
  /-- VMAX: R205 -/
  | vmax (d a b : VR) (m : MR) (ty : Fin 16)
  /-- VABS: R205 -/
  | vabs (d a : VR) (m : MR) (ty : Fin 16)
  /-- VNEG: R205 -/
  | vneg (d a : VR) (m : MR) (ty : Fin 16)
  /-- VAND: R205 -/
  | vand (d a b : VR) (m : MR)
  /-- VOR: R205 -/
  | vor (d a b : VR) (m : MR)
  /-- VXOR: R205 -/
  | vxor (d a b : VR) (m : MR)
  /-- VSHL: R205 -/
  | vshl (d a b : VR) (m : MR) (ty : Fin 16)
  /-- VSHR: R205 -/
  | vshr (d a b : VR) (m : MR) (ty : Fin 16)
  /-- VSHA: R205 -/
  | vsha (d a b : VR) (m : MR) (ty : Fin 16)
  /-- VCMP: R208 -/
  | vcmp (cond : Fin 8) (md : MR) (a b : VR) (ty : Fin 16)
  /-- VSEL: R209 -/
  | vsel (d a b : VR) (m : MR)
  /-- VMOV: R205 -/
  | vmov (d a : VR) (m : MR)
  /-- VBC: R206 -/
  | vbc (d : VR) (a : SR) (m : MR) (ty : Fin 16)
  /-- VPERM: R211 -/
  | vperm (d a b : VR)
  /-- VSHUF: R211 -/
  | vshuf (d a : VR) (k : Fin 32)
  /-- VCVT: R213 -/
  | vcvt (d a : VR) (dty : Fin 16) (rnd : Fin 8) (sat : Bool) (sty : Fin 16)
  /-- VPACK: R215 -/
  | vpack (d a b : VR) (ty : Fin 16)
  /-- VUNPK: R215 -/
  | vunpk (d a : VR) (h : Fin 32) (ty : Fin 16)
  /-- VRED: R216 -/
  | vred (d a : VR) (g : Fin 32) (ty : Fin 16)
  /-- VEXT: R212 -/
  | vext (d : SR) (a : VR) (s : SR)
  /-- VINS: R212 -/
  | vins (d : VR) (a s : SR)
  /-- VIOTA: R212 -/
  | viota (d : VR) (a : SR)
  /-- MAND: R210 -/
  | mand (md ma mb : MR)
  /-- MOR: R210 -/
  | mor (md ma mb : MR)
  /-- MXOR: R210 -/
  | mxor (md ma mb : MR)
  /-- MANDN: R210 -/
  | mandn (md ma mb : MR)
  /-- MNOT: R210 -/
  | mnot (md ma : MR)
  /-- MMOV: R210 -/
  | mmov (md ma : MR)
  /-- MPOP: R210 -/
  | mpop (d : SR) (ma : MR)
  /-- MFIRST: R210 -/
  | mfirst (d : SR) (ma : MR)
  /-- MLAST: R210 -/
  | mlast (d : SR) (ma : MR)
  /-- VMUL: R205 -/
  | vmul (d a b : VR) (m : MR) (ty : Fin 16)
  /-- VFMA: R205 -/
  | vfma (d a b : VR) (m : MR) (ty : Fin 16)
  /-- VFNMA: R205 -/
  | vfnma (d a b : VR) (m : MR) (ty : Fin 16)
  /-- VRCP: R207 -/
  | vrcp (d a : VR) (m : MR) (ty : Fin 16)
  /-- VRSQ: R207 -/
  | vrsq (d a : VR) (m : MR) (ty : Fin 16)
  /-- VSQRT: R207 -/
  | vsqrt (d a : VR) (m : MR) (ty : Fin 16)
  /-- VEXP2: R207 -/
  | vexp2 (d a : VR) (m : MR) (ty : Fin 16)
  /-- VLOG2: R207 -/
  | vlog2 (d a : VR) (m : MR) (ty : Fin 16)
  /-- VDIV: R205 -/
  | vdiv (d a b : VR) (m : MR) (ty : Fin 16)
  /-- VSCL: R205 -/
  | vscl (d a b : VR) (m : MR) (ty : Fin 16)
  /-- VRNG: R217 -/
  | vrng (d a : VR) (s : SR)
  /-- VQNT: R218–R220 -/
  | vqnt (d a : VR) (rnd : Fin 8) (ty : Fin 16)
  /-- VDQNT: R218–R220 -/
  | vdqnt (d a : VR) (rnd : Fin 8) (ty : Fin 16)
  /-- VMAXW: R226 -/
  | vmaxw (d a : VR) (n : Fin 32) (w : WR) (ty : Fin 16)
  /-- VMINW: R226 -/
  | vminw (d a : VR) (n : Fin 32) (w : WR) (ty : Fin 16)
  /-- VMEDW: R226 -/
  | vmedw (d a : VR) (n : Fin 32) (w : WR) (ty : Fin 16)
  /-- VCLPW: R226, R229 -/
  | vclpw (d a b : VR) (w : WR) (ty : Fin 16)
  /-- VSSMW: R226 -/
  | vssmw (d a : VR) (n : Fin 32) (w : WR) (ty : Fin 16)
  /-- VRMAXW: R226 -/
  | vrmaxw (d a : VR) (n : Fin 32) (w : WR) (ty : Fin 16)
  /-- VRMINW: R226 -/
  | vrminw (d a : VR) (n : Fin 32) (w : WR) (ty : Fin 16)
  /-- VADJ: R231 -/
  | vadj (d g : VR) (s : SR) (w : WR) (last : Bool) (gf : Fin 8)
  /-- WTAG: R234 -/
  | wtag (d : SR) (w : WR)
  /-- WCLR: R234 -/
  | wclr (w : WR)
  /-- MMA: R253 -/
  | mma (td : TR) (aA aB aS : AR) (z : Bool) (tok : Tokens)
  /-- TZERO: R254 -/
  | tzero (td : TR)
  /-- TST: R256 -/
  | tst (td : TR) (a : AR) (s : SR) (dty : Fin 16) (rnd : Fin 8) (h : Bool) (tok : Tokens)
  /-- TLD: R255 -/
  | tld (td : TR) (a : AR) (tok : Tokens)
  /-- TRD: R258 -/
  | trd (vd : VR) (td : TR) (s : SR)
  /-- TWR: R258 -/
  | twr (td : TR) (v : VR) (s : SR)
  /-- TSTAT: R259 -/
  | tstat (d : SR) (td : TR) (c : Bool)
  /-- TSIG: R259 -/
  | tsig (d : SR) (td : TR) (sel : Fin 16)
  /-- CPY: R275 -/
  | cpy (ad aS : AR) (s : SR) (dsp ssp : Fin 8) (opt : EngOpt) (tok : Tokens)
  /-- CPYX: R276 -/
  | cpyx (ad aS : AR) (s : SR) (dsp ssp : Fin 8) (opt : EngOpt) (tok : Tokens)
  /-- GATH: R277 -/
  | gath (ad aT aI : AR) (s : SR) (rl : Fin 32) (opt : EngOpt) (tok : Tokens)
  /-- SEND: R284 -/
  | send (v : VR) (c : CR)
  /-- RECV: R284 -/
  | recv (v : VR) (c : CR)
  /-- RECVADD: R284 -/
  | recvadd (v : VR) (c : CR)
  /-- RECVMAX: R284 -/
  | recvmax (v : VR) (c : CR)
  /-- SENDS: R284 -/
  | sends (s : SR) (c : CR)
  /-- RECVS: R284 -/
  | recvs (s : SR) (c : CR)
  /-- CHQ: R284 -/
  | chq (s : SR) (c : CR)
  /-- CHCLOSE: R284, R288 -/
  | chclose (c : CR)
  /-- BTREE: R144 -/
  | btree (t0 t1 t2 t3 : BTest)
  /-- JMP: R146 -/
  | jmp (off : BitVec 26)
  /-- CALL: R146 -/
  | call (off : BitVec 26)
  /-- JMPB: R147 -/
  | jmpb (b : BR)
  /-- RETB: R147 -/
  | retb (b : BR)
  /-- LOOP: R149 -/
  | loop (s : SR) (endOff : BitVec 19)
  /-- LBRK: R155 -/
  | lbrk (level : Fin 8) (n : Bool) (p : PR)
  /-- FMTW: R157 -/
  | fmtw (s : SR)
  /-- WAITK: R159 -/
  | waitk (tok : Tokens)
  /-- BAR: R161 -/
  | bar (id : Fin 64)
  /-- BARA: R161 -/
  | bara (id : Fin 64)
  /-- CBWAIT: R163 -/
  | cbwait (d : SR) (a : AR) (s : SR)
  /-- FEAT: R164 -/
  | feat (d : SR) (word : Fin 4)
  /-- TRAP: R165 -/
  | trap (imm : BitVec 16)
  /-- SYSC: R165 -/
  | sysc (imm : BitVec 16)
  /-- EXIT: R166 -/
  | exit
  /-- YIELD: R167 -/
  | yield
  /-- SEEDP: R168 -/
  | seedp (s : SR)
  /-- SEEDO: R168 -/
  | seedo
  /-- SEEDF: R168 -/
  | seedf (imm : BitVec 16)
  /-- SEEDR: R168 -/
  | seedr (d : SR)
  /-- GETSYS: R359 -/
  | getsys (d t : SR) (sel : BitVec 12)
  /-- SETSYS: R359 -/
  | setsys (s t : SR) (sel : BitVec 12)
  /-- SETSYS_THRESH_WINDOW: R432 -/
  | setsysThreshWindow (s t : SR) (sel : BitVec 12)
  /-- SETSYS_FEATACK: R363 -/
  | setsysFeatack (s t : SR) (sel : BitVec 12)
  /-- ERET: R359 -/
  | eret
  /-- TLAUNCH: R359, R374 -/
  | tlaunch (d : SR) (a : AR)
  /-- TCOMMIT: R384 -/
  | tcommit (s : SR)
  /-- TABORT_RERUN: R384 -/
  | tabortRerun (s : SR)
  /-- TABORT_KILL: R384; k = 2, 3 raise protection (R356) -/
  | tabortKill (s : SR) (k : Fin 4)
  /-- JCBADD: R384 -/
  | jcbadd (a : AR) (s : SR)
  /-- JCBPOST: R384 -/
  | jcbpost (a : AR) (s : SR)
  /-- EQPOP: R359 -/
  | eqpop (pd : PR) (d : SR)
  /-- CTXSTART: R382 -/
  | ctxstart (t : SR) (a : AR)
  /-- CTXSTART_RESTORE: R398 -/
  | ctxstartRestore (t : SR) (a : AR)
  /-- CTXSTART_CONTROL_CORE: R357 -/
  | ctxstartControlCore (t : SR) (a : AR)
  /-- CTXSTART_R: R359 -/
  | ctxstartR (t : SR)
  /-- CTXSTOP_SAFE: R394 -/
  | ctxstopSafe (t : SR)
  /-- CTXSTOP_KILL: R394; K = 2, 3 raise protection (R356) -/
  | ctxstopKill (t : SR) (k : Fin 4)
  /-- TLBINV_RANGE: R408 -/
  | tlbinvRange (a : AR) (s q : SR)
  /-- TLBINV_ASID: R408 -/
  | tlbinvAsid (a : AR) (s q : SR)
  /-- TLBINV_ALL: R408; kind 3 raises protection (R356) -/
  | tlbinvAll (kind : Fin 4) (a : AR) (s q : SR)
  /-- WFI: R359 -/
  | wfi
  /-- BIND: R455, R456 -/
  | bind (d s : SR)
  /-- BIND_FENCE: R455, R456 -/
  | bindFence (d s : SR)
  /-- BIND_UNFENCE: R455, R456 -/
  | bindUnfence (d s : SR)
  /-- BIND_MICROCODE: R455, R456 -/
  | bindMicrocode (d s : SR)
  /-- BIND_QUERY: R455, R456 -/
  | bindQuery (d s : SR)
  /-- BIND_BREAK: R455, R456 -/
  | bindBreak (d s : SR)
  /-- BIND_WATCH: R455, R456 -/
  | bindWatch (d s : SR)
  /-- BIND_TRACE: R455, R456 -/
  | bindTrace (d s : SR)
  /-- BIND_PROFILE: R455, R456 -/
  | bindProfile (d s : SR)
  /-- BIND_DUMPCTX: R455, R456 -/
  | bindDumpctx (d s : SR)
  /-- BIND_EXTRACT: R455, R456 -/
  | bindExtract (d s : SR)
  /-- LDWT_IMAGE_CHECK: R236; operands ctx -/
  | ldwtImageCheck
  /-- REGION_FILL: R194; operands core -/
  | regionFill
  /-- REGION_WRITE_BACK: R195; operands ctx, reg, num -/
  | regionWriteBack
  /-- SIDE_LOG_REPLAY: R185; operands core -/
  | sideLogReplay
  /-- DEFERRED_ACCESS_FAULT: R483; operands ctx -/
  | deferredAccessFault
  /-- RESULT_LANDING: R53; operands ctx -/
  | resultLanding
  /-- ENGINE_OPERATION_START: R239; operands core -/
  | engineOperationStart
  /-- ROW_GROUP_CHECK: R244; operands core, good -/
  | rowGroupCheck
  /-- ENGINE_OPERATION_COMPLETION: R244; operands core -/
  | engineOperationCompletion
  /-- LANTERN_ARBITRATION: R247, R437; operands clu, verdict -/
  | lanternArbitration
  /-- THRESHOLD_EXCEEDED: R433; operands ctx -/
  | thresholdExceeded
  /-- TST_DRAIN_START: R248; operands core -/
  | tstDrainStart
  /-- TST_ROW_GROUP_COMPARE: R248; operands core, good -/
  | tstRowGroupCompare
  /-- TST_COMMIT: R248; operands core -/
  | tstCommit
  /-- ENGINE_FAULT: R250; operands ctx -/
  | engineFault
  /-- COPY_START: R272; operands clu, num -/
  | copyStart
  /-- CPYX_ATTEMPT: R276; operands clu, num, good -/
  | cpyxAttempt
  /-- COPY_ARRIVAL: R269; operands clu, num -/
  | copyArrival
  /-- EVENT_RECORD_POST: R270; operands clu -/
  | eventRecordPost
  /-- CLAIM_FILL: R286; operands ctx, ch, elem -/
  | claimFill
  /-- CHANNEL_WATCHDOG: R32; operands ctx -/
  | channelWatchdog
  /-- COLLECTIVE_TIMEOUT: R291; operands ctx -/
  | collectiveTimeout
  /-- INTERRUPT: R360; operands ctx -/
  | interrupt
  /-- SINGLE_STEP: R464; operands ctx -/
  | singleStep
  /-- CONTEXT_SWITCH: R28 -/
  | contextSwitch
  /-- QUANTUM_EXPIRY: R28 -/
  | quantumExpiry
  /-- PREEMPTION: R394; operands ctx -/
  | preemption
  /-- SAVE_AREA_WRITE: R396; operands ctx -/
  | saveAreaWrite
  /-- PREEMPTION_LIMIT: R395; operands ctx -/
  | preemptionLimit
  /-- DISPATCH: R380; operands die -/
  | dispatch
  /-- TASK_AGING: R377; operands die, task -/
  | taskAging
  /-- TASK_BLOCKING: R380; operands die, task -/
  | taskBlocking
  /-- TASK_COMPLETION: R383; operands task -/
  | taskCompletion
  /-- AUDIT_REPLAY: R443; operands task, outcome -/
  | auditReplay
  /-- AUDIT_VOTE: R444; operands task, vote -/
  | auditVote
  /-- AUDIT_PLACEMENT_LIMIT: R441; operands task -/
  | auditPlacementLimit
  /-- SUMP_INFLATION: R424; operands die -/
  | sumpInflation
  /-- SUMP_CTL_EN: R422; operands die -/
  | sumpCtlEn
  /-- SUMP_CTL_RETRY: R422; operands die -/
  | sumpCtlRetry
  /-- SUMP_LPTR_TAIL: R423; operands die, num -/
  | sumpLptrTail
  /-- SUMP_DEFL: R425; operands die, num -/
  | sumpDefl
  /-- SUMP_STAT_OOS_CLEAR: R422; operands die -/
  | sumpStatOosClear
  /-- SCRUB: R429; operands num, stored -/
  | scrub
  /-- LINK_RETRY: R445; operands port -/
  | linkRetry
  /-- LINK_DEATH: R445; operands port -/
  | linkDeath
  /-- LINK_STATE_UPDATE: R446; operands update -/
  | linkStateUpdate
  /-- LINK_DRAIN_ROUND: R446; operands dev, num -/
  | linkDrainRound
  /-- REQUEST_DECLARE_DEAD: R476 -/
  | requestDeclareDead
  /-- REQUEST_BRING_UP: R476 -/
  | requestBringUp
  /-- REQUEST_PCAP: R476 -/
  | requestPcap
  /-- HOST_MESSAGE: R479; operands host, bytes -/
  | hostMessage
  /-- HOST_ACCESS: R478; operands host, num, bytes -/
  | hostAccess
  /-- CLOCK_ADJUST: R481; operands num, list -/
  | clockAdjust
  /-- PROFILE_SAMPLE: R468; operands core, num -/
  | profileSample
  /-- PANIC: R469 -/
  | panic
  /-- DEVNO_SUPPLY: R474; operands dev -/
  | devnoSupply
  /-- RESET: R480 -/
  | reset
  /-- REMOTE_REQUEST: R446; operands req -/
  | remoteRequest
  /-- LINK_TRAINED: R475; operands port, dev, num -/
  | linkTrained
  /-- RECEIVER_LOSES_LOCK: R445; operands port -/
  | receiverLosesLock
  /-- POWER_REMOVED: R481 -/
  | powerRemoved
  /-- CRITICAL_TEMPERATURE: R481; operands die, num -/
  | criticalTemperature
  /-- PCIE_LINK_STATE_CHANGE: R478; operands host, good -/
  | pcieLinkStateChange
  /-- ETHERNET_PORT_STATE_CHANGE: R473; operands num, good, num2 -/
  | ethernetPortStateChange
deriving DecidableEq, Repr

/-- A device step with its operands. -/
structure Event where
  op : Instr
  arg : Input := {}
deriving DecidableEq, Repr

end Sys2Proof
end

