-- ==== Sys2Proof/WellFormed.lean ====
section
/-! DEFINITION. Which instructions the encodings can write: the conditions that the structural checks of R101 put on
the fields of a form (R88, R114, R116, R144, R256, R275, R353, R355). A device step is always well formed. -/

namespace Sys2Proof

/-- R88: I = 3 is illegal, L must be below 6 when I ≠ 0, LX must be 0 without SP. -/
def Header.ok (h : Header) : Bool :=
  decide (h.i ≠ 3) && (decide (h.i = 0) || decide (h.l.val < 6)) && (h.sp || decide (h.lx = 0))

/-- R114: consumed fields at or beyond nc are 0, and the produced field when PV = 0. -/
def Tokens.ok (t : Tokens) : Bool :=
  (t.pv || decide (t.prod = 0)) && (decide (0 < t.nc.val) || decide (t.c0 = 0)) &&
    (decide (1 < t.nc.val) || decide (t.c1 = 0)) && (decide (2 < t.nc.val) || decide (t.c2 = 0))

/-- R275: ab must be 0 when B = 0. -/
def EngOpt.ok (o : EngOpt) : Bool := o.b || decide (o.ab = 0)

/-- R144: a test with V = 0 has N, predicate and leaf 0. -/
def BTest.ok (t : BTest) : Bool := t.v || (!t.n && decide (t.p = 0) && decide (t.leaf = 0))

/-- Selectors of SYS_FEATACK0–3 (R353). -/
def isFeatack (sel : BitVec 12) : Bool := decide (0x014 ≤ sel.toNat) && decide (sel.toNat ≤ 0x017)

/-- Selectors of SYS_THRESH and SYS_WINDOW (R353). -/
def isThreshWindow (sel : BitVec 12) : Bool := decide (0x040 ≤ sel.toNat) && decide (sel.toNat ≤ 0x05F)

def wellFormed : Instr → Bool
  | .gapBundle h => h.ok && decide (h.p = 0)
  | .skippedBundle h => h.ok && decide (h.p ≠ 0) && decide (h.i ≠ 0)
  | .add _ _ _ => true
  | .sub _ _ _ => true
  | .andS _ _ _ => true
  | .orS _ _ _ => true
  | .xorS _ _ _ => true
  | .andn _ _ _ => true
  | .shl _ _ _ => true
  | .shr _ _ _ => true
  | .sha _ _ _ => true
  | .rotl _ _ _ => true
  | .minS _ _ _ => true
  | .maxS _ _ _ => true
  | .minz _ _ _ => true
  | .maxz _ _ _ => true
  | .mul _ _ _ => true
  | .mulh _ _ _ => true
  | .mulhz _ _ _ => true
  | .divS _ _ _ => true
  | .divz _ _ _ => true
  | .remS _ _ _ => true
  | .remz _ _ _ => true
  | .clz _ _ => true
  | .ctz _ _ => true
  | .popc _ _ => true
  | .sextb _ _ => true
  | .sexth _ _ => true
  | .sextw _ _ => true
  | .addi _ _ _ => true
  | .andi _ _ _ => true
  | .ori _ _ _ => true
  | .xori _ _ _ => true
  | .shli _ _ _ => true
  | .shri _ _ _ => true
  | .shai _ _ _ => true
  | .li _ _ => true
  | .lis _ _ => true
  | .cmp _ _ _ _ => true
  | .cmpi _ _ _ _ => true
  | .pand _ _ _ => true
  | .por _ _ _ => true
  | .pxor _ _ _ => true
  | .pandn _ _ _ => true
  | .pnot _ _ => true
  | .pmov _ _ => true
  | .sel _ _ _ _ => true
  | .aadd _ _ _ => true
  | .asub _ _ _ => true
  | .amovs _ _ => true
  | .smova _ _ => true
  | .aaddi _ _ _ => true
  | .astride _ _ _ => true
  | .movx _ _ => true
  | .fadd _ _ _ => true
  | .fsub _ _ _ => true
  | .fmul _ _ _ => true
  | .fdiv _ _ _ => true
  | .fmin _ _ _ => true
  | .fmax _ _ _ => true
  | .fsqrt _ _ => true
  | .fcvtif _ _ => true
  | .fcvtfi _ _ => true
  | .fcmp _ _ _ _ => true
  | .btgt _ _ => true
  | .btgta _ _ => true
  | .ldb _ _ _ _ => true
  | .ldbz _ _ _ _ => true
  | .ldh _ _ _ _ => true
  | .ldhz _ _ _ _ => true
  | .ldw _ _ _ _ => true
  | .ldwz _ _ _ _ => true
  | .ldd _ _ _ _ => true
  | .ldv _ _ _ _ => true
  | .ldvs _ _ _ _ _ => true
  | .ldvx _ _ _ _ => true
  | .ldvb _ _ _ _ => true
  | .ldm _ _ _ _ => true
  | .ldwt _ _ _ _ => true
  | .ldwtImageCheck => true
  | .ldg _ _ _ _ => true
  | .ldgv _ _ _ _ => true
  | .ldaq _ _ _ _ => true
  | .stb _ _ _ _ => true
  | .sth _ _ _ _ => true
  | .stw _ _ _ _ => true
  | .std _ _ _ _ => true
  | .stv _ _ _ _ => true
  | .stvm _ _ _ _ _ => true
  | .stvs _ _ _ _ _ => true
  | .stvx _ _ _ _ => true
  | .stwt _ _ _ _ => true
  | .stm _ _ _ _ => true
  | .stg _ _ _ _ => true
  | .stgv _ _ _ _ => true
  | .strl _ _ _ _ => true
  | .atomAdd _ _ _ _ _ _ => true
  | .atomAnd _ _ _ _ _ _ => true
  | .atomOr _ _ _ _ _ _ => true
  | .atomXor _ _ _ _ _ _ => true
  | .atomMin _ _ _ _ _ _ => true
  | .atomMax _ _ _ _ _ _ => true
  | .atomMinz _ _ _ _ _ _ => true
  | .atomMaxz _ _ _ _ _ _ => true
  | .atomXchg _ _ _ _ _ _ => true
  | .atomFadd _ _ _ _ _ _ => true
  | .acas _ _ _ _ _ _ => true
  | .fence _ _ => true
  | .cmo _ _ _ _ => true
  | .rgset _ _ _ _ _ => true
  | .rgwb _ => true
  | .rgdrop _ => true
  | .regionFill => true
  | .regionWriteBack => true
  | .sideLogReplay => true
  | .deferredAccessFault => true
  | .resultLanding => true
  | .vadd _ _ _ _ _ => true
  | .vsub _ _ _ _ _ => true
  | .vmin _ _ _ _ _ => true
  | .vmax _ _ _ _ _ => true
  | .vabs _ _ _ _ => true
  | .vneg _ _ _ _ => true
  | .vand _ _ _ _ => true
  | .vor _ _ _ _ => true
  | .vxor _ _ _ _ => true
  | .vshl _ _ _ _ _ => true
  | .vshr _ _ _ _ _ => true
  | .vsha _ _ _ _ _ => true
  | .vcmp _ _ _ _ _ => true
  | .vsel _ _ _ _ => true
  | .vmov _ _ _ => true
  | .vbc _ _ _ _ => true
  | .vperm _ _ _ => true
  | .vshuf _ _ _ => true
  | .vcvt _ _ _ _ _ _ => true
  | .vpack _ _ _ _ => true
  | .vunpk _ _ _ _ => true
  | .vred _ _ _ _ => true
  | .vext _ _ _ => true
  | .vins _ _ _ => true
  | .viota _ _ => true
  | .mand _ _ _ => true
  | .mor _ _ _ => true
  | .mxor _ _ _ => true
  | .mandn _ _ _ => true
  | .mnot _ _ => true
  | .mmov _ _ => true
  | .mpop _ _ => true
  | .mfirst _ _ => true
  | .mlast _ _ => true
  | .vmul _ _ _ _ _ => true
  | .vfma _ _ _ _ _ => true
  | .vfnma _ _ _ _ _ => true
  | .vrcp _ _ _ _ => true
  | .vrsq _ _ _ _ => true
  | .vsqrt _ _ _ _ => true
  | .vexp2 _ _ _ _ => true
  | .vlog2 _ _ _ _ => true
  | .vdiv _ _ _ _ _ => true
  | .vscl _ _ _ _ _ => true
  | .vrng _ _ _ => true
  | .vqnt _ _ _ _ => true
  | .vdqnt _ _ _ _ => true
  | .vmaxw _ _ _ _ _ => true
  | .vminw _ _ _ _ _ => true
  | .vmedw _ _ _ _ _ => true
  | .vclpw _ _ _ _ _ => true
  | .vssmw _ _ _ _ _ => true
  | .vrmaxw _ _ _ _ _ => true
  | .vrminw _ _ _ _ _ => true
  | .vadj _ _ _ _ _ _ => true
  | .wtag _ _ => true
  | .wclr _ => true
  | .mma _ _ _ _ _ tok => tok.ok
  | .tzero _ => true
  | .tst _ _ s _ _ h tok => (h || decide (s = 0)) && tok.ok
  | .tld _ _ tok => tok.ok
  | .trd _ _ _ => true
  | .twr _ _ _ => true
  | .tstat _ _ _ => true
  | .tsig _ _ _ => true
  | .cpy _ _ _ _ _ opt tok => opt.ok && tok.ok
  | .cpyx _ _ _ _ _ opt tok => opt.ok && tok.ok
  | .gath _ _ _ _ _ opt tok => opt.ok && tok.ok
  | .engineOperationStart => true
  | .rowGroupCheck => true
  | .engineOperationCompletion => true
  | .lanternArbitration => true
  | .thresholdExceeded => true
  | .tstDrainStart => true
  | .tstRowGroupCompare => true
  | .tstCommit => true
  | .engineFault => true
  | .copyStart => true
  | .cpyxAttempt => true
  | .copyArrival => true
  | .eventRecordPost => true
  | .send _ _ => true
  | .recv _ _ => true
  | .recvadd _ _ => true
  | .recvmax _ _ => true
  | .sends _ _ => true
  | .recvs _ _ => true
  | .chq _ _ => true
  | .chclose _ => true
  | .claimFill => true
  | .channelWatchdog => true
  | .collectiveTimeout => true
  | .btree t0 t1 t2 t3 => t0.ok && t1.ok && t2.ok && t3.ok
  | .jmp _ => true
  | .call _ => true
  | .jmpb _ => true
  | .retb _ => true
  | .loop _ _ => true
  | .lbrk _ _ _ => true
  | .fmtw _ => true
  | .waitk tok => tok.ok && !tok.pv
  | .bar _ => true
  | .bara _ => true
  | .cbwait _ _ _ => true
  | .feat _ _ => true
  | .trap _ => true
  | .sysc _ => true
  | .exit => true
  | .yield => true
  | .seedp _ => true
  | .seedo => true
  | .seedf _ => true
  | .seedr _ => true
  | .getsys _ _ _ => true
  | .setsys _ _ sel => !isFeatack sel && !isThreshWindow sel
  | .setsysThreshWindow _ _ sel => !isFeatack sel && isThreshWindow sel
  | .setsysFeatack _ _ sel => isFeatack sel
  | .eret => true
  | .tlaunch _ _ => true
  | .tcommit _ => true
  | .tabortRerun _ => true
  | .tabortKill _ k => decide (k ≠ 0)
  | .jcbadd _ _ => true
  | .jcbpost _ _ => true
  | .eqpop _ _ => true
  | .ctxstart _ _ => true
  | .ctxstartRestore _ _ => true
  | .ctxstartControlCore _ _ => true
  | .ctxstartR _ => true
  | .ctxstopSafe _ => true
  | .ctxstopKill _ k => decide (k ≠ 0)
  | .tlbinvRange _ _ _ => true
  | .tlbinvAsid _ _ _ => true
  | .tlbinvAll kind _ _ _ => decide (2 ≤ kind.val)
  | .wfi => true
  | .bind _ _ => true
  | .bindFence _ _ => true
  | .bindUnfence _ _ => true
  | .bindMicrocode _ _ => true
  | .bindQuery _ _ => true
  | .bindBreak _ _ => true
  | .bindWatch _ _ => true
  | .bindTrace _ _ => true
  | .bindProfile _ _ => true
  | .bindDumpctx _ _ => true
  | .bindExtract _ _ => true
  | .interrupt => true
  | .singleStep => true
  | .contextSwitch => true
  | .quantumExpiry => true
  | .preemption => true
  | .saveAreaWrite => true
  | .preemptionLimit => true
  | .dispatch => true
  | .taskAging => true
  | .taskBlocking => true
  | .taskCompletion => true
  | .auditReplay => true
  | .auditVote => true
  | .auditPlacementLimit => true
  | .sumpInflation => true
  | .sumpCtlEn => true
  | .sumpCtlRetry => true
  | .sumpLptrTail => true
  | .sumpDefl => true
  | .sumpStatOosClear => true
  | .scrub => true
  | .linkRetry => true
  | .linkDeath => true
  | .linkStateUpdate => true
  | .linkDrainRound => true
  | .requestDeclareDead => true
  | .requestBringUp => true
  | .requestPcap => true
  | .hostMessage => true
  | .hostAccess => true
  | .clockAdjust => true
  | .profileSample => true
  | .panic => true
  | .devnoSupply => true
  | .reset => true
  | .remoteRequest => true
  | .linkTrained => true
  | .receiverLosesLock => true
  | .powerRemoved => true
  | .criticalTemperature => true
  | .pcieLinkStateChange => true
  | .ethernetPortStateChange => true

end Sys2Proof
end

