-- ==== Sys2Proof/Decode.lean ====
section
/-! DEFINITION. Decoding and encoding (R86–R118, R355). A slot group is one number: its first parcel in bits [31:0],
the second parcel of MX and CT in bits [63:32]. Every failure is rejected by name; decodeBundle lays a bundle out. -/

namespace Sys2Proof

/-! ## Fields -/

/-- A field of log2 n bits from bit lo. -/
def fld (n : Nat) [NeZero n] (w lo : Nat) : Fin n := Fin.ofNat n (w / 2 ^ lo)

/-- An n-bit field from bit lo. -/
def bvf (n w lo : Nat) : BitVec n := BitVec.ofNat n (w / 2 ^ lo)

def flg (w lo : Nat) : Bool := decide (w / 2 ^ lo % 2 = 1)

/-- A reserved field of n bits from bit lo is 0 (R106). -/
def zro (w lo n : Nat) : Bool := decide (w / 2 ^ lo % 2 ^ n = 0)

/-- Fields (value, lowest bit) put together. -/
def pk : List (Nat × Nat) → Nat
  | [] => 0
  | (x, lo) :: rest => x * 2 ^ lo + pk rest

/-- The token fields of R114, in the second parcel. -/
def tokens (w : Nat) : Tokens :=
  { pv := flg w 62, prod := fld 32 w 57, c0 := fld 32 w 52, c1 := fld 32 w 47, c2 := fld 32 w 42, nc := fld 4 w 40 }

def putTokens (t : Tokens) : Nat :=
  pk [(t.pv.toNat, 62), (t.prod.val, 57), (t.c0.val, 52), (t.c1.val, 47), (t.c2.val, 42), (t.nc.val, 40)]

/-- E, B and ab (R113). -/
def engOpt (w : Nat) : EngOpt := { e := flg w 39, b := flg w 38, ab := fld 16 w 34 }

def putEngOpt (o : EngOpt) : Nat :=
  pk [(o.e.toNat, 39), (o.b.toNat, 38), (o.ab.val, 34)]

/-- A test from bit lo with its leaf register from bit leaf (R116). -/
def bTest (w lo leaf : Nat) : BTest :=
  { v := flg w (lo + 5), n := flg w (lo + 4), p := fld 16 w lo, leaf := fld 8 w leaf }

def putBTest (lo leaf : Nat) (t : BTest) : Nat :=
  pk [(t.v.toNat, lo + 5), (t.n.toNat, lo + 4), (t.p.val, lo), (t.leaf.val, leaf)]

/-- off26 of R146: bits [21:0] in parcel 1, bits [25:22] in parcel 2 [3:0]. -/
def off26 (w : Nat) : BitVec 26 := BitVec.ofNat 26 (w % 2 ^ 22 + w / 2 ^ 32 % 16 * 2 ^ 22)

def putOff26 (o : BitVec 26) : Nat := o.toNat % 2 ^ 22 + o.toNat / 2 ^ 22 * 2 ^ 32

/-! ## What decoding refuses -/

/-- Why a bundle or a slot group is no instruction. valueCode is a reserved code that only a slot which is not
annulled raises (R101); the others are structural. -/
inductive Reject where
  | undefinedOpcode | reservedFunction | reservedBits | valueCode
  | startBit | iterationFlags | livenessIndex | lineCrossing | pathTag | branchTreeTag | profile | loopEnd
deriving DecidableEq, Repr

/-- The cause each raises (R101, R102, R362). -/
def Reject.cause : Reject → BitVec 8
  | .undefinedOpcode => 0x02
  | .reservedFunction => 0x02
  | .reservedBits => 0x02
  | .valueCode => 0x02
  | .startBit => 0x01
  | .iterationFlags => 0x01
  | .livenessIndex => 0x01
  | .lineCrossing => 0x01
  | .pathTag => 0x01
  | .branchTreeTag => 0x01
  | .profile => 0x01
  | .loopEnd => 0x01

/-- The instruction i when the reserved fields hold c. -/
def need (c : Bool) (i : Instr) : Except Reject Instr := if c then .ok i else .error .reservedBits

/-! ## The slots -/

/-- The SC slot (R108, R109, R117, R119–R140). -/
def decodeSC (w : Nat) : Except Reject Instr :=
  match w / 2 ^ 22 % 64 with
  | 0x00 => match w / 2 ^ 0 % 128 with
    | 0 => .ok (.add (fld 32 w 17) (fld 32 w 12) (fld 32 w 7))
    | 1 => .ok (.sub (fld 32 w 17) (fld 32 w 12) (fld 32 w 7))
    | 2 => .ok (.andS (fld 32 w 17) (fld 32 w 12) (fld 32 w 7))
    | 3 => .ok (.orS (fld 32 w 17) (fld 32 w 12) (fld 32 w 7))
    | 4 => .ok (.xorS (fld 32 w 17) (fld 32 w 12) (fld 32 w 7))
    | 5 => .ok (.andn (fld 32 w 17) (fld 32 w 12) (fld 32 w 7))
    | 6 => .ok (.shl (fld 32 w 17) (fld 32 w 12) (fld 32 w 7))
    | 7 => .ok (.shr (fld 32 w 17) (fld 32 w 12) (fld 32 w 7))
    | 8 => .ok (.sha (fld 32 w 17) (fld 32 w 12) (fld 32 w 7))
    | 9 => .ok (.rotl (fld 32 w 17) (fld 32 w 12) (fld 32 w 7))
    | 10 => .ok (.minS (fld 32 w 17) (fld 32 w 12) (fld 32 w 7))
    | 11 => .ok (.maxS (fld 32 w 17) (fld 32 w 12) (fld 32 w 7))
    | 12 => .ok (.minz (fld 32 w 17) (fld 32 w 12) (fld 32 w 7))
    | 13 => .ok (.maxz (fld 32 w 17) (fld 32 w 12) (fld 32 w 7))
    | 14 => .ok (.mul (fld 32 w 17) (fld 32 w 12) (fld 32 w 7))
    | 15 => .ok (.mulh (fld 32 w 17) (fld 32 w 12) (fld 32 w 7))
    | 16 => .ok (.mulhz (fld 32 w 17) (fld 32 w 12) (fld 32 w 7))
    | 17 => .ok (.divS (fld 32 w 17) (fld 32 w 12) (fld 32 w 7))
    | 18 => .ok (.divz (fld 32 w 17) (fld 32 w 12) (fld 32 w 7))
    | 19 => .ok (.remS (fld 32 w 17) (fld 32 w 12) (fld 32 w 7))
    | 20 => .ok (.remz (fld 32 w 17) (fld 32 w 12) (fld 32 w 7))
    | 21 => need (zro w 7 5) (.clz (fld 32 w 17) (fld 32 w 12))
    | 22 => need (zro w 7 5) (.ctz (fld 32 w 17) (fld 32 w 12))
    | 23 => need (zro w 7 5) (.popc (fld 32 w 17) (fld 32 w 12))
    | 24 => need (zro w 7 5) (.sextb (fld 32 w 17) (fld 32 w 12))
    | 25 => need (zro w 7 5) (.sexth (fld 32 w 17) (fld 32 w 12))
    | 26 => need (zro w 7 5) (.sextw (fld 32 w 17) (fld 32 w 12))
    | _ => .error .reservedFunction
  | 0x01 => .ok (.addi (fld 32 w 17) (fld 32 w 12) (bvf 12 w 0))
  | 0x02 => .ok (.andi (fld 32 w 17) (fld 32 w 12) (bvf 12 w 0))
  | 0x03 => .ok (.ori (fld 32 w 17) (fld 32 w 12) (bvf 12 w 0))
  | 0x04 => .ok (.xori (fld 32 w 17) (fld 32 w 12) (bvf 12 w 0))
  | 0x05 => need (zro w 6 6) (.shli (fld 32 w 17) (fld 32 w 12) (bvf 6 w 0))
  | 0x06 => need (zro w 6 6) (.shri (fld 32 w 17) (fld 32 w 12) (bvf 6 w 0))
  | 0x07 => need (zro w 6 6) (.shai (fld 32 w 17) (fld 32 w 12) (bvf 6 w 0))
  | 0x08 => .ok (.li (fld 32 w 17) (bvf 17 w 0))
  | 0x09 => .ok (.lis (fld 32 w 17) (bvf 17 w 0))
  | 0x0A => need (zro w 17 1 && zro w 3 4) (.cmp (fld 8 w 0) (fld 16 w 18) (fld 32 w 12) (fld 32 w 7))
  | 0x0B => .ok (.cmpi (fld 8 w 15) (fld 16 w 18) (fld 32 w 10) (bvf 10 w 0))
  | 0x0C => match w / 2 ^ 0 % 8 with
    | 0 => need (zro w 17 1 && zro w 12 1 && zro w 3 5) (.pand (fld 16 w 18) (fld 16 w 13) (fld 16 w 8))
    | 1 => need (zro w 17 1 && zro w 12 1 && zro w 3 5) (.por (fld 16 w 18) (fld 16 w 13) (fld 16 w 8))
    | 2 => need (zro w 17 1 && zro w 12 1 && zro w 3 5) (.pxor (fld 16 w 18) (fld 16 w 13) (fld 16 w 8))
    | 3 => need (zro w 17 1 && zro w 12 1 && zro w 3 5) (.pandn (fld 16 w 18) (fld 16 w 13) (fld 16 w 8))
    | 4 => need (zro w 17 1 && zro w 3 10) (.pnot (fld 16 w 18) (fld 16 w 13))
    | 5 => need (zro w 17 1 && zro w 3 10) (.pmov (fld 16 w 18) (fld 16 w 13))
    | _ => .error .reservedFunction
  | 0x0D => need (zro w 0 3) (.sel (fld 32 w 17) (fld 32 w 12) (fld 32 w 7) (fld 16 w 3))
  | 0x0E => match w / 2 ^ 0 % 4 with
    | 0 => need (zro w 17 1 && zro w 12 1 && zro w 2 5) (.aadd (fld 16 w 18) (fld 16 w 13) (fld 32 w 7))
    | 1 => need (zro w 17 1 && zro w 12 1 && zro w 2 5) (.asub (fld 16 w 18) (fld 16 w 13) (fld 32 w 7))
    | 2 => need (zro w 17 1 && zro w 2 10) (.amovs (fld 16 w 18) (fld 32 w 12))
    | _ => need (zro w 2 11) (.smova (fld 32 w 17) (fld 16 w 13))
  | 0x0F => need (zro w 17 1 && zro w 12 1) (.aaddi (fld 16 w 18) (fld 16 w 13) (bvf 12 w 0))
  | 0x10 => .ok (.astride (fld 16 w 18) (fld 8 w 15) (bvf 15 w 0))
  | 0x11 => need (zro w 4 13) (.movx (fld 32 w 17) (fld 16 w 0))
  | 0x12 => match w / 2 ^ 0 % 128 with
    | 0 => .ok (.fadd (fld 32 w 17) (fld 32 w 12) (fld 32 w 7))
    | 1 => .ok (.fsub (fld 32 w 17) (fld 32 w 12) (fld 32 w 7))
    | 2 => .ok (.fmul (fld 32 w 17) (fld 32 w 12) (fld 32 w 7))
    | 3 => .ok (.fdiv (fld 32 w 17) (fld 32 w 12) (fld 32 w 7))
    | 4 => .ok (.fmin (fld 32 w 17) (fld 32 w 12) (fld 32 w 7))
    | 5 => .ok (.fmax (fld 32 w 17) (fld 32 w 12) (fld 32 w 7))
    | 6 => need (zro w 7 5) (.fsqrt (fld 32 w 17) (fld 32 w 12))
    | 7 => need (zro w 7 5) (.fcvtif (fld 32 w 17) (fld 32 w 12))
    | 8 => need (zro w 7 5) (.fcvtfi (fld 32 w 17) (fld 32 w 12))
    | _ => .error .reservedFunction
  | 0x13 => need (zro w 17 1 && zro w 3 4) (.fcmp (fld 8 w 0) (fld 16 w 18) (fld 32 w 12) (fld 32 w 7))
  | 0x14 => .ok (.btgt (fld 8 w 19) (bvf 19 w 0))
  | 0x15 => need (zro w 17 2 && zro w 0 13) (.btgta (fld 8 w 19) (fld 16 w 13))
  | _ => .error .undefinedOpcode

/-- The LD slot (R110, R117, R174–R187). -/
def decodeLD (w : Nat) : Except Reject Instr :=
  match w / 2 ^ 22 % 64 with
  | 0x00 => .ok (.ldb (fld 32 w 17) (fld 16 w 13) (flg w 12) (bvf 12 w 0))
  | 0x01 => .ok (.ldbz (fld 32 w 17) (fld 16 w 13) (flg w 12) (bvf 12 w 0))
  | 0x02 => .ok (.ldh (fld 32 w 17) (fld 16 w 13) (flg w 12) (bvf 12 w 0))
  | 0x03 => .ok (.ldhz (fld 32 w 17) (fld 16 w 13) (flg w 12) (bvf 12 w 0))
  | 0x04 => .ok (.ldw (fld 32 w 17) (fld 16 w 13) (flg w 12) (bvf 12 w 0))
  | 0x05 => .ok (.ldwz (fld 32 w 17) (fld 16 w 13) (flg w 12) (bvf 12 w 0))
  | 0x06 => .ok (.ldd (fld 32 w 17) (fld 16 w 13) (flg w 12) (bvf 12 w 0))
  | 0x08 => .ok (.ldv (fld 32 w 17) (fld 16 w 13) (flg w 12) (bvf 12 w 0))
  | 0x09 => .ok (.ldvs (fld 32 w 17) (fld 16 w 13) (flg w 12) (fld 32 w 7) (bvf 7 w 0))
  | 0x0A => need (zro w 12 1 && zro w 0 5) (.ldvx (fld 32 w 17) (fld 16 w 13) (fld 32 w 7) (fld 4 w 5))
  | 0x0B => .ok (.ldvb (fld 32 w 17) (fld 16 w 13) (flg w 12) (bvf 12 w 0))
  | 0x0C => need (zro w 20 2) (.ldm (fld 8 w 17) (fld 16 w 13) (flg w 12) (bvf 12 w 0))
  | 0x0D => need (zro w 20 2) (.ldwt (fld 8 w 17) (fld 16 w 13) (flg w 12) (bvf 12 w 0))
  | 0x10 => .ok (.ldg (fld 32 w 17) (fld 16 w 13) (fld 8 w 10) (bvf 10 w 0))
  | 0x11 => .ok (.ldgv (fld 32 w 17) (fld 16 w 13) (flg w 12) (bvf 12 w 0))
  | 0x12 => need (zro w 0 7) (.ldaq (fld 32 w 17) (fld 16 w 13) (fld 8 w 10) (fld 8 w 7))
  | _ => .error .undefinedOpcode

/-- The ST slot (R110, R111, R117, R174–R196). -/
def decodeST (w : Nat) : Except Reject Instr :=
  match w / 2 ^ 22 % 64 with
  | 0x00 => .ok (.stb (fld 32 w 17) (fld 16 w 13) (flg w 12) (bvf 12 w 0))
  | 0x01 => .ok (.sth (fld 32 w 17) (fld 16 w 13) (flg w 12) (bvf 12 w 0))
  | 0x02 => .ok (.stw (fld 32 w 17) (fld 16 w 13) (flg w 12) (bvf 12 w 0))
  | 0x03 => .ok (.std (fld 32 w 17) (fld 16 w 13) (flg w 12) (bvf 12 w 0))
  | 0x04 => .ok (.stv (fld 32 w 17) (fld 16 w 13) (flg w 12) (bvf 12 w 0))
  | 0x05 => .ok (.stvm (fld 32 w 17) (fld 16 w 13) (flg w 12) (fld 8 w 9) (bvf 9 w 0))
  | 0x06 => .ok (.stvs (fld 32 w 17) (fld 16 w 13) (flg w 12) (fld 32 w 7) (bvf 7 w 0))
  | 0x07 => need (zro w 12 1 && zro w 0 5) (.stvx (fld 32 w 17) (fld 16 w 13) (fld 32 w 7) (fld 4 w 5))
  | 0x08 => need (zro w 20 2) (.stwt (fld 8 w 17) (fld 16 w 13) (flg w 12) (bvf 12 w 0))
  | 0x09 => need (zro w 20 2) (.stm (fld 8 w 17) (fld 16 w 13) (flg w 12) (bvf 12 w 0))
  | 0x10 => .ok (.stg (fld 32 w 17) (fld 16 w 13) (fld 8 w 10) (bvf 10 w 0))
  | 0x11 => .ok (.stgv (fld 32 w 17) (fld 16 w 13) (flg w 12) (bvf 12 w 0))
  | 0x12 => need (zro w 0 7) (.strl (fld 32 w 17) (fld 16 w 13) (fld 8 w 10) (fld 8 w 7))
  | 0x13 => match w / 2 ^ 4 % 16 with
    | 0 => .ok (.atomAdd (fld 32 w 17) (fld 16 w 13) (fld 32 w 8) (flg w 3) (flg w 2) (fld 4 w 0))
    | 1 => .ok (.atomAnd (fld 32 w 17) (fld 16 w 13) (fld 32 w 8) (flg w 3) (flg w 2) (fld 4 w 0))
    | 2 => .ok (.atomOr (fld 32 w 17) (fld 16 w 13) (fld 32 w 8) (flg w 3) (flg w 2) (fld 4 w 0))
    | 3 => .ok (.atomXor (fld 32 w 17) (fld 16 w 13) (fld 32 w 8) (flg w 3) (flg w 2) (fld 4 w 0))
    | 4 => .ok (.atomMin (fld 32 w 17) (fld 16 w 13) (fld 32 w 8) (flg w 3) (flg w 2) (fld 4 w 0))
    | 5 => .ok (.atomMax (fld 32 w 17) (fld 16 w 13) (fld 32 w 8) (flg w 3) (flg w 2) (fld 4 w 0))
    | 6 => .ok (.atomMinz (fld 32 w 17) (fld 16 w 13) (fld 32 w 8) (flg w 3) (flg w 2) (fld 4 w 0))
    | 7 => .ok (.atomMaxz (fld 32 w 17) (fld 16 w 13) (fld 32 w 8) (flg w 3) (flg w 2) (fld 4 w 0))
    | 8 => .ok (.atomXchg (fld 32 w 17) (fld 16 w 13) (fld 32 w 8) (flg w 3) (flg w 2) (fld 4 w 0))
    | 9 => .ok (.atomFadd (fld 32 w 17) (fld 16 w 13) (fld 32 w 8) (flg w 3) (flg w 2) (fld 4 w 0))
    | _ => .error .valueCode
  | 0x14 => need (zro w 4 4) (.acas (fld 32 w 17) (fld 16 w 13) (fld 32 w 8) (flg w 3) (flg w 2) (fld 4 w 0))
  | 0x15 => need (zro w 5 17) (.fence (fld 4 w 3) (fld 8 w 0))
  | 0x16 => need (zro w 17 1 && zro w 0 8) (.cmo (fld 4 w 20) (fld 4 w 18) (fld 16 w 13) (fld 32 w 8))
  | 0x17 => need (zro w 17 1) (.rgset (fld 16 w 18) (fld 16 w 13) (fld 32 w 8) (fld 32 w 3) (fld 8 w 0))
  | 0x18 => need (zro w 0 18) (.rgwb (fld 16 w 18))
  | 0x19 => need (zro w 0 18) (.rgdrop (fld 16 w 18))
  | _ => .error .undefinedOpcode

/-- The VA slot (R112, R117, R200–R216). -/
def decodeVA (w : Nat) : Except Reject Instr :=
  match w / 2 ^ 22 % 64 with
  | 0x00 => .ok (.vadd (fld 32 w 17) (fld 32 w 12) (fld 32 w 7) (fld 8 w 4) (fld 16 w 0))
  | 0x01 => .ok (.vsub (fld 32 w 17) (fld 32 w 12) (fld 32 w 7) (fld 8 w 4) (fld 16 w 0))
  | 0x02 => .ok (.vmin (fld 32 w 17) (fld 32 w 12) (fld 32 w 7) (fld 8 w 4) (fld 16 w 0))
  | 0x03 => .ok (.vmax (fld 32 w 17) (fld 32 w 12) (fld 32 w 7) (fld 8 w 4) (fld 16 w 0))
  | 0x04 => need (zro w 7 5) (.vabs (fld 32 w 17) (fld 32 w 12) (fld 8 w 4) (fld 16 w 0))
  | 0x05 => need (zro w 7 5) (.vneg (fld 32 w 17) (fld 32 w 12) (fld 8 w 4) (fld 16 w 0))
  | 0x06 => need (zro w 0 4) (.vand (fld 32 w 17) (fld 32 w 12) (fld 32 w 7) (fld 8 w 4))
  | 0x07 => need (zro w 0 4) (.vor (fld 32 w 17) (fld 32 w 12) (fld 32 w 7) (fld 8 w 4))
  | 0x08 => need (zro w 0 4) (.vxor (fld 32 w 17) (fld 32 w 12) (fld 32 w 7) (fld 8 w 4))
  | 0x09 => .ok (.vshl (fld 32 w 17) (fld 32 w 12) (fld 32 w 7) (fld 8 w 4) (fld 16 w 0))
  | 0x0A => .ok (.vshr (fld 32 w 17) (fld 32 w 12) (fld 32 w 7) (fld 8 w 4) (fld 16 w 0))
  | 0x0B => .ok (.vsha (fld 32 w 17) (fld 32 w 12) (fld 32 w 7) (fld 8 w 4) (fld 16 w 0))
  | 0x0C => need (zro w 4 2) (.vcmp (fld 8 w 16) (fld 8 w 19) (fld 32 w 11) (fld 32 w 6) (fld 16 w 0))
  | 0x0D => need (zro w 0 4) (.vsel (fld 32 w 17) (fld 32 w 12) (fld 32 w 7) (fld 8 w 4))
  | 0x0E => need (zro w 7 5 && zro w 0 4) (.vmov (fld 32 w 17) (fld 32 w 12) (fld 8 w 4))
  | 0x0F => need (zro w 7 5) (.vbc (fld 32 w 17) (fld 32 w 12) (fld 8 w 4) (fld 16 w 0))
  | 0x10 => need (zro w 0 7) (.vperm (fld 32 w 17) (fld 32 w 12) (fld 32 w 7))
  | 0x11 => need (zro w 0 7) (.vshuf (fld 32 w 17) (fld 32 w 12) (fld 32 w 7))
  | 0x12 => .ok (.vcvt (fld 32 w 17) (fld 32 w 12) (fld 16 w 8) (fld 8 w 5) (flg w 4) (fld 16 w 0))
  | 0x13 => need (zro w 4 3) (.vpack (fld 32 w 17) (fld 32 w 12) (fld 32 w 7) (fld 16 w 0))
  | 0x14 => need (zro w 4 3) (.vunpk (fld 32 w 17) (fld 32 w 12) (fld 32 w 7) (fld 16 w 0))
  | 0x15 => need (zro w 4 3) (.vred (fld 32 w 17) (fld 32 w 12) (fld 32 w 7) (fld 16 w 0))
  | 0x16 => need (zro w 0 7) (.vext (fld 32 w 17) (fld 32 w 12) (fld 32 w 7))
  | 0x17 => need (zro w 0 7) (.vins (fld 32 w 17) (fld 32 w 12) (fld 32 w 7))
  | 0x18 => need (zro w 0 12) (.viota (fld 32 w 17) (fld 32 w 12))
  | 0x19 => match w / 2 ^ 0 % 16 with
    | 0 => need (zro w 20 2 && zro w 15 2 && zro w 10 2 && zro w 4 3) (.mand (fld 8 w 17) (fld 8 w 12) (fld 8 w 7))
    | 1 => need (zro w 20 2 && zro w 15 2 && zro w 10 2 && zro w 4 3) (.mor (fld 8 w 17) (fld 8 w 12) (fld 8 w 7))
    | 2 => need (zro w 20 2 && zro w 15 2 && zro w 10 2 && zro w 4 3) (.mxor (fld 8 w 17) (fld 8 w 12) (fld 8 w 7))
    | 3 => need (zro w 20 2 && zro w 15 2 && zro w 10 2 && zro w 4 3) (.mandn (fld 8 w 17) (fld 8 w 12) (fld 8 w 7))
    | 4 => need (zro w 20 2 && zro w 15 2 && zro w 4 8) (.mnot (fld 8 w 17) (fld 8 w 12))
    | 5 => need (zro w 20 2 && zro w 15 2 && zro w 4 8) (.mmov (fld 8 w 17) (fld 8 w 12))
    | _ => .error .reservedFunction
  | 0x1A => match w / 2 ^ 0 % 16 with
    | 0 => need (zro w 15 2 && zro w 4 8) (.mpop (fld 32 w 17) (fld 8 w 12))
    | 1 => need (zro w 15 2 && zro w 4 8) (.mfirst (fld 32 w 17) (fld 8 w 12))
    | 2 => need (zro w 15 2 && zro w 4 8) (.mlast (fld 32 w 17) (fld 8 w 12))
    | _ => .error .reservedFunction
  | _ => .error .undefinedOpcode

/-- The VB slot (R112, R117, R200–R235). -/
def decodeVB (w : Nat) : Except Reject Instr :=
  match w / 2 ^ 22 % 64 with
  | 0x00 => .ok (.vmul (fld 32 w 17) (fld 32 w 12) (fld 32 w 7) (fld 8 w 4) (fld 16 w 0))
  | 0x01 => .ok (.vfma (fld 32 w 17) (fld 32 w 12) (fld 32 w 7) (fld 8 w 4) (fld 16 w 0))
  | 0x02 => .ok (.vfnma (fld 32 w 17) (fld 32 w 12) (fld 32 w 7) (fld 8 w 4) (fld 16 w 0))
  | 0x03 => need (zro w 7 5) (.vrcp (fld 32 w 17) (fld 32 w 12) (fld 8 w 4) (fld 16 w 0))
  | 0x04 => need (zro w 7 5) (.vrsq (fld 32 w 17) (fld 32 w 12) (fld 8 w 4) (fld 16 w 0))
  | 0x05 => need (zro w 7 5) (.vsqrt (fld 32 w 17) (fld 32 w 12) (fld 8 w 4) (fld 16 w 0))
  | 0x06 => need (zro w 7 5) (.vexp2 (fld 32 w 17) (fld 32 w 12) (fld 8 w 4) (fld 16 w 0))
  | 0x07 => need (zro w 7 5) (.vlog2 (fld 32 w 17) (fld 32 w 12) (fld 8 w 4) (fld 16 w 0))
  | 0x08 => .ok (.vdiv (fld 32 w 17) (fld 32 w 12) (fld 32 w 7) (fld 8 w 4) (fld 16 w 0))
  | 0x09 => .ok (.vscl (fld 32 w 17) (fld 32 w 12) (fld 32 w 7) (fld 8 w 4) (fld 16 w 0))
  | 0x0A => need (zro w 0 7) (.vrng (fld 32 w 17) (fld 32 w 12) (fld 32 w 7))
  | 0x0B => need (zro w 10 2 && zro w 4 3) (.vqnt (fld 32 w 17) (fld 32 w 12) (fld 8 w 7) (fld 16 w 0))
  | 0x0C => need (zro w 10 2 && zro w 4 3) (.vdqnt (fld 32 w 17) (fld 32 w 12) (fld 8 w 7) (fld 16 w 0))
  | 0x10 => .ok (.vmaxw (fld 32 w 17) (fld 32 w 12) (fld 32 w 7) (fld 8 w 4) (fld 16 w 0))
  | 0x11 => .ok (.vminw (fld 32 w 17) (fld 32 w 12) (fld 32 w 7) (fld 8 w 4) (fld 16 w 0))
  | 0x12 => .ok (.vmedw (fld 32 w 17) (fld 32 w 12) (fld 32 w 7) (fld 8 w 4) (fld 16 w 0))
  | 0x13 => .ok (.vclpw (fld 32 w 17) (fld 32 w 12) (fld 32 w 7) (fld 8 w 4) (fld 16 w 0))
  | 0x14 => .ok (.vssmw (fld 32 w 17) (fld 32 w 12) (fld 32 w 7) (fld 8 w 4) (fld 16 w 0))
  | 0x15 => .ok (.vrmaxw (fld 32 w 17) (fld 32 w 12) (fld 32 w 7) (fld 8 w 4) (fld 16 w 0))
  | 0x16 => .ok (.vrminw (fld 32 w 17) (fld 32 w 12) (fld 32 w 7) (fld 8 w 4) (fld 16 w 0))
  | 0x17 => .ok (.vadj (fld 32 w 17) (fld 32 w 12) (fld 32 w 7) (fld 8 w 4) (flg w 3) (fld 8 w 0))
  | 0x18 => need (zro w 7 10 && zro w 0 4) (.wtag (fld 32 w 17) (fld 8 w 4))
  | 0x19 => need (zro w 7 15 && zro w 0 4) (.wclr (fld 8 w 4))
  | _ => .error .undefinedOpcode

/-- The MX slot (R113, R114, R117). -/
def decodeMX (w : Nat) : Except Reject Instr :=
  match w / 2 ^ 22 % 64 with
  | 0x00 => need (zro w 0 5 && zro w 32 8 && (tokens w).ok) (.mma (fld 16 w 18) (fld 16 w 14) (fld 16 w 10) (fld 16 w 6) (flg w 5) (tokens w))
  | 0x01 => need (zro w 0 18 && zro w 32 31) (.tzero (fld 16 w 18))
  | 0x02 => need (zro w 0 9 && (tokens w).ok && (flg w 32 || zro w 9 5)) (.tst (fld 16 w 18) (fld 16 w 14) (fld 32 w 9) (fld 16 w 36) (fld 8 w 33) (flg w 32) (tokens w))
  | 0x03 => need (zro w 0 14 && zro w 32 8 && (tokens w).ok) (.tld (fld 16 w 18) (fld 16 w 14) (tokens w))
  | 0x04 => need (zro w 0 8 && zro w 32 31) (.trd (fld 32 w 17) (fld 16 w 13) (fld 32 w 8))
  | 0x05 => need (zro w 17 1 && zro w 0 7 && zro w 32 31) (.twr (fld 16 w 18) (fld 32 w 12) (fld 32 w 7))
  | 0x06 => need (zro w 0 12 && zro w 32 31) (.tstat (fld 32 w 17) (fld 16 w 13) (flg w 12))
  | 0x07 => need (zro w 0 9 && zro w 32 31) (.tsig (fld 32 w 17) (fld 16 w 13) (fld 16 w 9))
  | 0x08 => need (zro w 0 3 && zro w 32 2 && (tokens w).ok && (engOpt w).ok) (.cpy (fld 16 w 18) (fld 16 w 14) (fld 32 w 9) (fld 8 w 6) (fld 8 w 3) (engOpt w) (tokens w))
  | 0x09 => need (zro w 0 3 && zro w 32 2 && (tokens w).ok && (engOpt w).ok) (.cpyx (fld 16 w 18) (fld 16 w 14) (fld 32 w 9) (fld 8 w 6) (fld 8 w 3) (engOpt w) (tokens w))
  | 0x0A => need (zro w 32 2 && (tokens w).ok && (engOpt w).ok) (.gath (fld 16 w 18) (fld 16 w 14) (fld 16 w 10) (fld 32 w 5) (fld 32 w 0) (engOpt w) (tokens w))
  | _ => .error .undefinedOpcode

/-- The CM slot (R115, R117). -/
def decodeCM (w : Nat) : Except Reject Instr :=
  match w / 2 ^ 22 % 64 with
  | 0x00 => need (zro w 0 11) (.send (fld 32 w 17) (fld 64 w 11))
  | 0x01 => need (zro w 0 11) (.recv (fld 32 w 17) (fld 64 w 11))
  | 0x02 => need (zro w 0 11) (.recvadd (fld 32 w 17) (fld 64 w 11))
  | 0x03 => need (zro w 0 11) (.recvmax (fld 32 w 17) (fld 64 w 11))
  | 0x04 => need (zro w 0 11) (.sends (fld 32 w 17) (fld 64 w 11))
  | 0x05 => need (zro w 0 11) (.recvs (fld 32 w 17) (fld 64 w 11))
  | 0x06 => need (zro w 0 11) (.chq (fld 32 w 17) (fld 64 w 11))
  | 0x07 => need (zro w 17 5 && zro w 0 11) (.chclose (fld 64 w 11))
  | _ => .error .undefinedOpcode

/-- The CT slot (R116, R117, R141–R168, R355). -/
def decodeCT (w : Nat) : Except Reject Instr :=
  match w / 2 ^ 22 % 64 with
  | 0x00 => need (zro w 0 4 && zro w 56 1 && zro w 32 12 && (bTest w 16 53).ok && (bTest w 10 50).ok && (bTest w 4 47).ok && (bTest w 57 44).ok) (.btree (bTest w 16 53) (bTest w 10 50) (bTest w 4 47) (bTest w 57 44))
  | 0x01 => need (zro w 36 27) (.jmp (off26 w))
  | 0x02 => need (zro w 36 27) (.call (off26 w))
  | 0x03 => need (zro w 0 19 && zro w 32 31) (.jmpb (fld 8 w 19))
  | 0x04 => need (zro w 0 19 && zro w 32 31) (.retb (fld 8 w 19))
  | 0x05 => need (zro w 0 17 && zro w 51 12) (.loop (fld 32 w 17) (bvf 19 w 32))
  | 0x06 => need (zro w 0 14 && zro w 32 31) (.lbrk (fld 8 w 19) (flg w 18) (fld 16 w 14))
  | 0x07 => need (zro w 0 17 && zro w 32 31) (.fmtw (fld 32 w 17))
  | 0x08 => need (zro w 0 22 && zro w 32 8 && (tokens w).ok && !(tokens w).pv) (.waitk (tokens w))
  | 0x09 => need (zro w 0 16 && zro w 32 31) (.bar (fld 64 w 16))
  | 0x0A => need (zro w 0 16 && zro w 32 31) (.bara (fld 64 w 16))
  | 0x0B => need (zro w 0 8 && zro w 32 31) (.cbwait (fld 32 w 17) (fld 16 w 13) (fld 32 w 8))
  | 0x0C => need (zro w 2 15 && zro w 32 31) (.feat (fld 32 w 17) (fld 4 w 0))
  | 0x0D => need (zro w 16 6 && zro w 32 31) (.trap (bvf 16 w 0))
  | 0x0E => need (zro w 16 6 && zro w 32 31) (.sysc (bvf 16 w 0))
  | 0x0F => need (zro w 0 22 && zro w 32 31) (.exit)
  | 0x10 => need (zro w 0 22 && zro w 32 31) (.yield)
  | 0x12 => need (zro w 0 17 && zro w 32 31) (.seedp (fld 32 w 17))
  | 0x13 => need (zro w 0 22 && zro w 32 31) (.seedo)
  | 0x14 => need (zro w 16 6 && zro w 32 31) (.seedf (bvf 16 w 0))
  | 0x15 => need (zro w 0 17 && zro w 32 31) (.seedr (fld 32 w 17))
  | 0x20 => need (zro w 0 12 && zro w 44 19) (.getsys (fld 32 w 17) (fld 32 w 12) (bvf 12 w 32))
  | 0x21 => if !(zro w 0 12 && zro w 44 19) then .error .reservedBits
    else if isFeatack (bvf 12 w 32) then .ok (.setsysFeatack (fld 32 w 17) (fld 32 w 12) (bvf 12 w 32))
    else if isThreshWindow (bvf 12 w 32) then .ok (.setsysThreshWindow (fld 32 w 17) (fld 32 w 12) (bvf 12 w 32))
    else .ok (.setsys (fld 32 w 17) (fld 32 w 12) (bvf 12 w 32))
  | 0x22 => need (zro w 0 22 && zro w 32 31) (.eret)
  | 0x23 => need (zro w 0 13 && zro w 32 31) (.tlaunch (fld 32 w 17) (fld 16 w 13))
  | 0x24 => need (zro w 0 17 && zro w 32 31) (.tcommit (fld 32 w 17))
  | 0x25 => match w / 2 ^ 0 % 4 with
    | 0 => need (zro w 2 15 && zro w 32 31) (.tabortRerun (fld 32 w 17))
    | _ => need (zro w 2 15 && zro w 32 31) (.tabortKill (fld 32 w 17) (fld 4 w 0))
  | 0x26 => need (zro w 0 13 && zro w 32 31) (.jcbadd (fld 16 w 18) (fld 32 w 13))
  | 0x27 => need (zro w 0 13 && zro w 32 31) (.jcbpost (fld 16 w 18) (fld 32 w 13))
  | 0x28 => need (zro w 0 13 && zro w 32 31) (.eqpop (fld 16 w 13) (fld 32 w 17))
  | 0x29 => match w / 2 ^ 12 % 2 with
    | 0 => need (zro w 0 12 && zro w 32 31) (.ctxstart (fld 32 w 17) (fld 16 w 13))
    | _ => need (zro w 13 4 && zro w 0 12 && zro w 32 31) (.ctxstartR (fld 32 w 17))
  | 0x2A => match w / 2 ^ 15 % 4 with
    | 0 => need (zro w 0 15 && zro w 32 31) (.ctxstopSafe (fld 32 w 17))
    | _ => need (zro w 0 15 && zro w 32 31) (.ctxstopKill (fld 32 w 17) (fld 4 w 15))
  | 0x2B => match w / 2 ^ 20 % 4 with
    | 0 => need (zro w 0 6 && zro w 32 31) (.tlbinvRange (fld 16 w 16) (fld 32 w 11) (fld 32 w 6))
    | 1 => need (zro w 0 6 && zro w 32 31) (.tlbinvAsid (fld 16 w 16) (fld 32 w 11) (fld 32 w 6))
    | _ => need (zro w 0 6 && zro w 32 31) (.tlbinvAll (fld 4 w 20) (fld 16 w 16) (fld 32 w 11) (fld 32 w 6))
  | 0x2C => need (zro w 0 12 && zro w 32 31) (.bind (fld 32 w 17) (fld 32 w 12))
  | 0x2D => need (zro w 0 22 && zro w 32 31) (.wfi)
  | _ => .error .undefinedOpcode

/-- The instruction that slot n reads from the group w. -/
def decodeSlot (n w : Nat) : Except Reject Instr :=
  match n with
  | 0 => decodeSC w
  | 1 => decodeLD w
  | 2 => decodeST w
  | 3 => decodeVA w
  | 4 => decodeVB w
  | 5 => decodeMX w
  | 6 => decodeCM w
  | 7 => decodeCT w
  | _ => .error .undefinedOpcode

/-! ## Headers and bundles -/

/-- The header parcel (R88); none when S = 0. -/
def decodeHeader (w : Nat) : Option Header :=
  if flg w 31 then
    some { p := bvf 8 w 23, g := fld 16 w 19, i := fld 4 w 17, l := fld 8 w 14, sp := flg w 13, lx := bvf 13 w 0 }
  else none

def encodeHeader (h : Header) : Nat :=
  2 ^ 31 + h.p.toNat * 2 ^ 23 + h.g.val * 2 ^ 19 + h.i.val * 2 ^ 17 + h.l.val * 2 ^ 14 + h.sp.toNat * 2 ^ 13
    + h.lx.toNat

/-- The header checks of R88 and R101. -/
def headerReject (h : Header) : Option Reject :=
  if h.i = 3 || (h.i ≠ 0 && 6 ≤ h.l.val) then some .iterationFlags
  else if !h.sp && h.lx ≠ 0 then some .livenessIndex
  else none

/-- Parcels of slot n (R87). -/
def groupLen (n : Nat) : Nat := if n = 5 ∨ n = 7 then 2 else 1

/-- The present slots from slot n upward with their parcel offsets, fuel slots left. -/
def slotsFrom (p : BitVec 8) : Nat → Nat → Nat → List (Nat × Nat)
  | 0, _, _ => []
  | fuel + 1, n, off =>
    if p.getLsbD n then (n, off) :: slotsFrom p fuel (n + 1) (off + groupLen n) else slotsFrom p fuel (n + 1) off

def slotsOf (p : BitVec 8) : List (Nat × Nat) := slotsFrom p 8 0 1

/-- 1 + popcount(P) + P[5] + P[7] (R87). -/
def bundleLen (p : BitVec 8) : Nat := (slotsOf p).foldl (fun n x => n + groupLen x.1) 1

/-- A slot of a bundle: its number, path tag, parcel offset and what it decodes to. -/
structure SlotOp where
  slot : Nat
  tag : Nat
  off : Nat
  op : Except Reject Instr

/-- Slot n at parcel offset off of the parcels f, f 0 being the header, in a bundle of len parcels. The checks that make a
bundle illegal come before those of reserved encodings (R99, R102, R149). -/
def readSlot (len : Nat) (f : Nat → Nat) (n off : Nat) : SlotOp :=
  let w := f off + (if groupLen n = 2 then f (off + 1) * 2 ^ 32 else 0)
  let tag := w / 2 ^ 28 % 8
  let ct (op : Nat) : Bool := n == 7 && w / 2 ^ 22 % 64 == op
  { slot := n, tag := tag, off := off
    op := if flg w 31 || (decide (groupLen n = 2) && flg w 63) then .error .startBit
          else if tag = 7 then .error .pathTag
          else if ct 0x00 && tag != 0 then .error .branchTreeTag
          else if ct 0x05 && decide (w / 2 ^ 32 % 2 ^ 19 < len) then .error .loopEnd
          else decodeSlot n w }

/-- The slots of a bundle whose parcels are f 0, f 1, … -/
def readSlots (p : BitVec 8) (f : Nat → Nat) : List SlotOp := (slotsOf p).map fun x => readSlot (bundleLen p) f x.1 x.2

/-! ## The encoder -/

/-- An encoded instruction: a header parcel, or the group of a slot with its path tag left 0. -/
inductive Code where
  | header (w : Nat)
  | slot (n w : Nat)
deriving DecidableEq, Repr

/-- The words of an instruction, from the tables of R88, R108–R116, R141–R168, R200–R235 and R355. A device step,
and a row that a descriptor or a target selects (R357, R398, R455), has no words of its own. -/
def encode : Instr → Option Code
  | .gapBundle h => some (.header (encodeHeader h))
  | .skippedBundle h => some (.header (encodeHeader h))
  | .add d a b => some (.slot 0 (pk [(d.val, 17), (a.val, 12), (b.val, 7)]))
  | .sub d a b => some (.slot 0 (pk [(d.val, 17), (a.val, 12), (b.val, 7), (1, 0)]))
  | .andS d a b => some (.slot 0 (pk [(d.val, 17), (a.val, 12), (b.val, 7), (2, 0)]))
  | .orS d a b => some (.slot 0 (pk [(d.val, 17), (a.val, 12), (b.val, 7), (3, 0)]))
  | .xorS d a b => some (.slot 0 (pk [(d.val, 17), (a.val, 12), (b.val, 7), (4, 0)]))
  | .andn d a b => some (.slot 0 (pk [(d.val, 17), (a.val, 12), (b.val, 7), (5, 0)]))
  | .shl d a b => some (.slot 0 (pk [(d.val, 17), (a.val, 12), (b.val, 7), (6, 0)]))
  | .shr d a b => some (.slot 0 (pk [(d.val, 17), (a.val, 12), (b.val, 7), (7, 0)]))
  | .sha d a b => some (.slot 0 (pk [(d.val, 17), (a.val, 12), (b.val, 7), (8, 0)]))
  | .rotl d a b => some (.slot 0 (pk [(d.val, 17), (a.val, 12), (b.val, 7), (9, 0)]))
  | .minS d a b => some (.slot 0 (pk [(d.val, 17), (a.val, 12), (b.val, 7), (10, 0)]))
  | .maxS d a b => some (.slot 0 (pk [(d.val, 17), (a.val, 12), (b.val, 7), (11, 0)]))
  | .minz d a b => some (.slot 0 (pk [(d.val, 17), (a.val, 12), (b.val, 7), (12, 0)]))
  | .maxz d a b => some (.slot 0 (pk [(d.val, 17), (a.val, 12), (b.val, 7), (13, 0)]))
  | .mul d a b => some (.slot 0 (pk [(d.val, 17), (a.val, 12), (b.val, 7), (14, 0)]))
  | .mulh d a b => some (.slot 0 (pk [(d.val, 17), (a.val, 12), (b.val, 7), (15, 0)]))
  | .mulhz d a b => some (.slot 0 (pk [(d.val, 17), (a.val, 12), (b.val, 7), (16, 0)]))
  | .divS d a b => some (.slot 0 (pk [(d.val, 17), (a.val, 12), (b.val, 7), (17, 0)]))
  | .divz d a b => some (.slot 0 (pk [(d.val, 17), (a.val, 12), (b.val, 7), (18, 0)]))
  | .remS d a b => some (.slot 0 (pk [(d.val, 17), (a.val, 12), (b.val, 7), (19, 0)]))
  | .remz d a b => some (.slot 0 (pk [(d.val, 17), (a.val, 12), (b.val, 7), (20, 0)]))
  | .clz d a => some (.slot 0 (pk [(d.val, 17), (a.val, 12), (21, 0)]))
  | .ctz d a => some (.slot 0 (pk [(d.val, 17), (a.val, 12), (22, 0)]))
  | .popc d a => some (.slot 0 (pk [(d.val, 17), (a.val, 12), (23, 0)]))
  | .sextb d a => some (.slot 0 (pk [(d.val, 17), (a.val, 12), (24, 0)]))
  | .sexth d a => some (.slot 0 (pk [(d.val, 17), (a.val, 12), (25, 0)]))
  | .sextw d a => some (.slot 0 (pk [(d.val, 17), (a.val, 12), (26, 0)]))
  | .addi d a imm => some (.slot 0 (pk [(1, 22), (d.val, 17), (a.val, 12), (imm.toNat, 0)]))
  | .andi d a imm => some (.slot 0 (pk [(2, 22), (d.val, 17), (a.val, 12), (imm.toNat, 0)]))
  | .ori d a imm => some (.slot 0 (pk [(3, 22), (d.val, 17), (a.val, 12), (imm.toNat, 0)]))
  | .xori d a imm => some (.slot 0 (pk [(4, 22), (d.val, 17), (a.val, 12), (imm.toNat, 0)]))
  | .shli d a n => some (.slot 0 (pk [(5, 22), (d.val, 17), (a.val, 12), (n.toNat, 0)]))
  | .shri d a n => some (.slot 0 (pk [(6, 22), (d.val, 17), (a.val, 12), (n.toNat, 0)]))
  | .shai d a n => some (.slot 0 (pk [(7, 22), (d.val, 17), (a.val, 12), (n.toNat, 0)]))
  | .li d imm => some (.slot 0 (pk [(8, 22), (d.val, 17), (imm.toNat, 0)]))
  | .lis d imm => some (.slot 0 (pk [(9, 22), (d.val, 17), (imm.toNat, 0)]))
  | .cmp cond pd a b => some (.slot 0 (pk [(10, 22), (cond.val, 0), (pd.val, 18), (a.val, 12), (b.val, 7)]))
  | .cmpi cond pd a imm => some (.slot 0 (pk [(11, 22), (cond.val, 15), (pd.val, 18), (a.val, 10), (imm.toNat, 0)]))
  | .pand pd pa pb => some (.slot 0 (pk [(12, 22), (pd.val, 18), (pa.val, 13), (pb.val, 8)]))
  | .por pd pa pb => some (.slot 0 (pk [(12, 22), (pd.val, 18), (pa.val, 13), (pb.val, 8), (1, 0)]))
  | .pxor pd pa pb => some (.slot 0 (pk [(12, 22), (pd.val, 18), (pa.val, 13), (pb.val, 8), (2, 0)]))
  | .pandn pd pa pb => some (.slot 0 (pk [(12, 22), (pd.val, 18), (pa.val, 13), (pb.val, 8), (3, 0)]))
  | .pnot pd pa => some (.slot 0 (pk [(12, 22), (pd.val, 18), (pa.val, 13), (4, 0)]))
  | .pmov pd pa => some (.slot 0 (pk [(12, 22), (pd.val, 18), (pa.val, 13), (5, 0)]))
  | .sel d a b p => some (.slot 0 (pk [(13, 22), (d.val, 17), (a.val, 12), (b.val, 7), (p.val, 3)]))
  | .aadd ad aa s => some (.slot 0 (pk [(14, 22), (ad.val, 18), (aa.val, 13), (s.val, 7)]))
  | .asub ad aa s => some (.slot 0 (pk [(14, 22), (ad.val, 18), (aa.val, 13), (s.val, 7), (1, 0)]))
  | .amovs ad s => some (.slot 0 (pk [(14, 22), (ad.val, 18), (s.val, 12), (2, 0)]))
  | .smova d aa => some (.slot 0 (pk [(14, 22), (d.val, 17), (aa.val, 13), (3, 0)]))
  | .aaddi ad aa imm => some (.slot 0 (pk [(15, 22), (ad.val, 18), (aa.val, 13), (imm.toNat, 0)]))
  | .astride a level imm => some (.slot 0 (pk [(16, 22), (a.val, 18), (level.val, 15), (imm.toNat, 0)]))
  | .movx d sel => some (.slot 0 (pk [(17, 22), (d.val, 17), (sel.val, 0)]))
  | .fadd d a b => some (.slot 0 (pk [(18, 22), (d.val, 17), (a.val, 12), (b.val, 7)]))
  | .fsub d a b => some (.slot 0 (pk [(18, 22), (d.val, 17), (a.val, 12), (b.val, 7), (1, 0)]))
  | .fmul d a b => some (.slot 0 (pk [(18, 22), (d.val, 17), (a.val, 12), (b.val, 7), (2, 0)]))
  | .fdiv d a b => some (.slot 0 (pk [(18, 22), (d.val, 17), (a.val, 12), (b.val, 7), (3, 0)]))
  | .fmin d a b => some (.slot 0 (pk [(18, 22), (d.val, 17), (a.val, 12), (b.val, 7), (4, 0)]))
  | .fmax d a b => some (.slot 0 (pk [(18, 22), (d.val, 17), (a.val, 12), (b.val, 7), (5, 0)]))
  | .fsqrt d a => some (.slot 0 (pk [(18, 22), (d.val, 17), (a.val, 12), (6, 0)]))
  | .fcvtif d a => some (.slot 0 (pk [(18, 22), (d.val, 17), (a.val, 12), (7, 0)]))
  | .fcvtfi d a => some (.slot 0 (pk [(18, 22), (d.val, 17), (a.val, 12), (8, 0)]))
  | .fcmp cond pd a b => some (.slot 0 (pk [(19, 22), (cond.val, 0), (pd.val, 18), (a.val, 12), (b.val, 7)]))
  | .btgt b imm => some (.slot 0 (pk [(20, 22), (b.val, 19), (imm.toNat, 0)]))
  | .btgta b aa => some (.slot 0 (pk [(21, 22), (b.val, 19), (aa.val, 13)]))
  | .ldb d a post off => some (.slot 1 (pk [(d.val, 17), (a.val, 13), (post.toNat, 12), (off.toNat, 0)]))
  | .ldbz d a post off => some (.slot 1 (pk [(1, 22), (d.val, 17), (a.val, 13), (post.toNat, 12), (off.toNat, 0)]))
  | .ldh d a post off => some (.slot 1 (pk [(2, 22), (d.val, 17), (a.val, 13), (post.toNat, 12), (off.toNat, 0)]))
  | .ldhz d a post off => some (.slot 1 (pk [(3, 22), (d.val, 17), (a.val, 13), (post.toNat, 12), (off.toNat, 0)]))
  | .ldw d a post off => some (.slot 1 (pk [(4, 22), (d.val, 17), (a.val, 13), (post.toNat, 12), (off.toNat, 0)]))
  | .ldwz d a post off => some (.slot 1 (pk [(5, 22), (d.val, 17), (a.val, 13), (post.toNat, 12), (off.toNat, 0)]))
  | .ldd d a post off => some (.slot 1 (pk [(6, 22), (d.val, 17), (a.val, 13), (post.toNat, 12), (off.toNat, 0)]))
  | .ldv d a post off => some (.slot 1 (pk [(8, 22), (d.val, 17), (a.val, 13), (post.toNat, 12), (off.toNat, 0)]))
  | .ldvs d a post s off => some (.slot 1 (pk [(9, 22), (d.val, 17), (a.val, 13), (post.toNat, 12), (s.val, 7), (off.toNat, 0)]))
  | .ldvx d a vi sc => some (.slot 1 (pk [(10, 22), (d.val, 17), (a.val, 13), (vi.val, 7), (sc.val, 5)]))
  | .ldvb d a post off => some (.slot 1 (pk [(11, 22), (d.val, 17), (a.val, 13), (post.toNat, 12), (off.toNat, 0)]))
  | .ldm d a post off => some (.slot 1 (pk [(12, 22), (d.val, 17), (a.val, 13), (post.toNat, 12), (off.toNat, 0)]))
  | .ldwt d a post off => some (.slot 1 (pk [(13, 22), (d.val, 17), (a.val, 13), (post.toNat, 12), (off.toNat, 0)]))
  | .ldwtImageCheck => none
  | .ldg d a size off => some (.slot 1 (pk [(16, 22), (d.val, 17), (a.val, 13), (size.val, 10), (off.toNat, 0)]))
  | .ldgv d a post off => some (.slot 1 (pk [(17, 22), (d.val, 17), (a.val, 13), (post.toNat, 12), (off.toNat, 0)]))
  | .ldaq d a size scope => some (.slot 1 (pk [(18, 22), (d.val, 17), (a.val, 13), (size.val, 10), (scope.val, 7)]))
  | .stb s a post off => some (.slot 2 (pk [(s.val, 17), (a.val, 13), (post.toNat, 12), (off.toNat, 0)]))
  | .sth s a post off => some (.slot 2 (pk [(1, 22), (s.val, 17), (a.val, 13), (post.toNat, 12), (off.toNat, 0)]))
  | .stw s a post off => some (.slot 2 (pk [(2, 22), (s.val, 17), (a.val, 13), (post.toNat, 12), (off.toNat, 0)]))
  | .std s a post off => some (.slot 2 (pk [(3, 22), (s.val, 17), (a.val, 13), (post.toNat, 12), (off.toNat, 0)]))
  | .stv v a post off => some (.slot 2 (pk [(4, 22), (v.val, 17), (a.val, 13), (post.toNat, 12), (off.toNat, 0)]))
  | .stvm v a post m off => some (.slot 2 (pk [(5, 22), (v.val, 17), (a.val, 13), (post.toNat, 12), (m.val, 9), (off.toNat, 0)]))
  | .stvs v a post s off => some (.slot 2 (pk [(6, 22), (v.val, 17), (a.val, 13), (post.toNat, 12), (s.val, 7), (off.toNat, 0)]))
  | .stvx v a vi sc => some (.slot 2 (pk [(7, 22), (v.val, 17), (a.val, 13), (vi.val, 7), (sc.val, 5)]))
  | .stwt w a post off => some (.slot 2 (pk [(8, 22), (w.val, 17), (a.val, 13), (post.toNat, 12), (off.toNat, 0)]))
  | .stm m a post off => some (.slot 2 (pk [(9, 22), (m.val, 17), (a.val, 13), (post.toNat, 12), (off.toNat, 0)]))
  | .stg s a size off => some (.slot 2 (pk [(16, 22), (s.val, 17), (a.val, 13), (size.val, 10), (off.toNat, 0)]))
  | .stgv v a post off => some (.slot 2 (pk [(17, 22), (v.val, 17), (a.val, 13), (post.toNat, 12), (off.toNat, 0)]))
  | .strl s a size scope => some (.slot 2 (pk [(18, 22), (s.val, 17), (a.val, 13), (size.val, 10), (scope.val, 7)]))
  | .atomAdd d a s g z oc => some (.slot 2 (pk [(19, 22), (d.val, 17), (a.val, 13), (s.val, 8), (g.toNat, 3), (z.toNat, 2), (oc.val, 0)]))
  | .atomAnd d a s g z oc => some (.slot 2 (pk [(19, 22), (d.val, 17), (a.val, 13), (s.val, 8), (g.toNat, 3), (z.toNat, 2), (oc.val, 0), (1, 4)]))
  | .atomOr d a s g z oc => some (.slot 2 (pk [(19, 22), (d.val, 17), (a.val, 13), (s.val, 8), (g.toNat, 3), (z.toNat, 2), (oc.val, 0), (2, 4)]))
  | .atomXor d a s g z oc => some (.slot 2 (pk [(19, 22), (d.val, 17), (a.val, 13), (s.val, 8), (g.toNat, 3), (z.toNat, 2), (oc.val, 0), (3, 4)]))
  | .atomMin d a s g z oc => some (.slot 2 (pk [(19, 22), (d.val, 17), (a.val, 13), (s.val, 8), (g.toNat, 3), (z.toNat, 2), (oc.val, 0), (4, 4)]))
  | .atomMax d a s g z oc => some (.slot 2 (pk [(19, 22), (d.val, 17), (a.val, 13), (s.val, 8), (g.toNat, 3), (z.toNat, 2), (oc.val, 0), (5, 4)]))
  | .atomMinz d a s g z oc => some (.slot 2 (pk [(19, 22), (d.val, 17), (a.val, 13), (s.val, 8), (g.toNat, 3), (z.toNat, 2), (oc.val, 0), (6, 4)]))
  | .atomMaxz d a s g z oc => some (.slot 2 (pk [(19, 22), (d.val, 17), (a.val, 13), (s.val, 8), (g.toNat, 3), (z.toNat, 2), (oc.val, 0), (7, 4)]))
  | .atomXchg d a s g z oc => some (.slot 2 (pk [(19, 22), (d.val, 17), (a.val, 13), (s.val, 8), (g.toNat, 3), (z.toNat, 2), (oc.val, 0), (8, 4)]))
  | .atomFadd d a s g z oc => some (.slot 2 (pk [(19, 22), (d.val, 17), (a.val, 13), (s.val, 8), (g.toNat, 3), (z.toNat, 2), (oc.val, 0), (9, 4)]))
  | .acas d a s g z oc => some (.slot 2 (pk [(20, 22), (d.val, 17), (a.val, 13), (s.val, 8), (g.toNat, 3), (z.toNat, 2), (oc.val, 0)]))
  | .fence kind scope => some (.slot 2 (pk [(21, 22), (kind.val, 3), (scope.val, 0)]))
  | .cmo op level a s => some (.slot 2 (pk [(22, 22), (op.val, 20), (level.val, 18), (a.val, 13), (s.val, 8)]))
  | .rgset rg a s s2 mode => some (.slot 2 (pk [(23, 22), (rg.val, 18), (a.val, 13), (s.val, 8), (s2.val, 3), (mode.val, 0)]))
  | .rgwb rg => some (.slot 2 (pk [(24, 22), (rg.val, 18)]))
  | .rgdrop rg => some (.slot 2 (pk [(25, 22), (rg.val, 18)]))
  | .regionFill => none
  | .regionWriteBack => none
  | .sideLogReplay => none
  | .deferredAccessFault => none
  | .resultLanding => none
  | .vadd d a b m ty => some (.slot 3 (pk [(d.val, 17), (a.val, 12), (b.val, 7), (m.val, 4), (ty.val, 0)]))
  | .vsub d a b m ty => some (.slot 3 (pk [(1, 22), (d.val, 17), (a.val, 12), (b.val, 7), (m.val, 4), (ty.val, 0)]))
  | .vmin d a b m ty => some (.slot 3 (pk [(2, 22), (d.val, 17), (a.val, 12), (b.val, 7), (m.val, 4), (ty.val, 0)]))
  | .vmax d a b m ty => some (.slot 3 (pk [(3, 22), (d.val, 17), (a.val, 12), (b.val, 7), (m.val, 4), (ty.val, 0)]))
  | .vabs d a m ty => some (.slot 3 (pk [(4, 22), (d.val, 17), (a.val, 12), (m.val, 4), (ty.val, 0)]))
  | .vneg d a m ty => some (.slot 3 (pk [(5, 22), (d.val, 17), (a.val, 12), (m.val, 4), (ty.val, 0)]))
  | .vand d a b m => some (.slot 3 (pk [(6, 22), (d.val, 17), (a.val, 12), (b.val, 7), (m.val, 4)]))
  | .vor d a b m => some (.slot 3 (pk [(7, 22), (d.val, 17), (a.val, 12), (b.val, 7), (m.val, 4)]))
  | .vxor d a b m => some (.slot 3 (pk [(8, 22), (d.val, 17), (a.val, 12), (b.val, 7), (m.val, 4)]))
  | .vshl d a b m ty => some (.slot 3 (pk [(9, 22), (d.val, 17), (a.val, 12), (b.val, 7), (m.val, 4), (ty.val, 0)]))
  | .vshr d a b m ty => some (.slot 3 (pk [(10, 22), (d.val, 17), (a.val, 12), (b.val, 7), (m.val, 4), (ty.val, 0)]))
  | .vsha d a b m ty => some (.slot 3 (pk [(11, 22), (d.val, 17), (a.val, 12), (b.val, 7), (m.val, 4), (ty.val, 0)]))
  | .vcmp cond md a b ty => some (.slot 3 (pk [(12, 22), (cond.val, 16), (md.val, 19), (a.val, 11), (b.val, 6), (ty.val, 0)]))
  | .vsel d a b m => some (.slot 3 (pk [(13, 22), (d.val, 17), (a.val, 12), (b.val, 7), (m.val, 4)]))
  | .vmov d a m => some (.slot 3 (pk [(14, 22), (d.val, 17), (a.val, 12), (m.val, 4)]))
  | .vbc d a m ty => some (.slot 3 (pk [(15, 22), (d.val, 17), (a.val, 12), (m.val, 4), (ty.val, 0)]))
  | .vperm d a b => some (.slot 3 (pk [(16, 22), (d.val, 17), (a.val, 12), (b.val, 7)]))
  | .vshuf d a k => some (.slot 3 (pk [(17, 22), (d.val, 17), (a.val, 12), (k.val, 7)]))
  | .vcvt d a dty rnd sat sty => some (.slot 3 (pk [(18, 22), (d.val, 17), (a.val, 12), (dty.val, 8), (rnd.val, 5), (sat.toNat, 4), (sty.val, 0)]))
  | .vpack d a b ty => some (.slot 3 (pk [(19, 22), (d.val, 17), (a.val, 12), (b.val, 7), (ty.val, 0)]))
  | .vunpk d a h ty => some (.slot 3 (pk [(20, 22), (d.val, 17), (a.val, 12), (h.val, 7), (ty.val, 0)]))
  | .vred d a g ty => some (.slot 3 (pk [(21, 22), (d.val, 17), (a.val, 12), (g.val, 7), (ty.val, 0)]))
  | .vext d a s => some (.slot 3 (pk [(22, 22), (d.val, 17), (a.val, 12), (s.val, 7)]))
  | .vins d a s => some (.slot 3 (pk [(23, 22), (d.val, 17), (a.val, 12), (s.val, 7)]))
  | .viota d a => some (.slot 3 (pk [(24, 22), (d.val, 17), (a.val, 12)]))
  | .mand md ma mb => some (.slot 3 (pk [(25, 22), (md.val, 17), (ma.val, 12), (mb.val, 7)]))
  | .mor md ma mb => some (.slot 3 (pk [(25, 22), (md.val, 17), (ma.val, 12), (mb.val, 7), (1, 0)]))
  | .mxor md ma mb => some (.slot 3 (pk [(25, 22), (md.val, 17), (ma.val, 12), (mb.val, 7), (2, 0)]))
  | .mandn md ma mb => some (.slot 3 (pk [(25, 22), (md.val, 17), (ma.val, 12), (mb.val, 7), (3, 0)]))
  | .mnot md ma => some (.slot 3 (pk [(25, 22), (md.val, 17), (ma.val, 12), (4, 0)]))
  | .mmov md ma => some (.slot 3 (pk [(25, 22), (md.val, 17), (ma.val, 12), (5, 0)]))
  | .mpop d ma => some (.slot 3 (pk [(26, 22), (d.val, 17), (ma.val, 12)]))
  | .mfirst d ma => some (.slot 3 (pk [(26, 22), (d.val, 17), (ma.val, 12), (1, 0)]))
  | .mlast d ma => some (.slot 3 (pk [(26, 22), (d.val, 17), (ma.val, 12), (2, 0)]))
  | .vmul d a b m ty => some (.slot 4 (pk [(d.val, 17), (a.val, 12), (b.val, 7), (m.val, 4), (ty.val, 0)]))
  | .vfma d a b m ty => some (.slot 4 (pk [(1, 22), (d.val, 17), (a.val, 12), (b.val, 7), (m.val, 4), (ty.val, 0)]))
  | .vfnma d a b m ty => some (.slot 4 (pk [(2, 22), (d.val, 17), (a.val, 12), (b.val, 7), (m.val, 4), (ty.val, 0)]))
  | .vrcp d a m ty => some (.slot 4 (pk [(3, 22), (d.val, 17), (a.val, 12), (m.val, 4), (ty.val, 0)]))
  | .vrsq d a m ty => some (.slot 4 (pk [(4, 22), (d.val, 17), (a.val, 12), (m.val, 4), (ty.val, 0)]))
  | .vsqrt d a m ty => some (.slot 4 (pk [(5, 22), (d.val, 17), (a.val, 12), (m.val, 4), (ty.val, 0)]))
  | .vexp2 d a m ty => some (.slot 4 (pk [(6, 22), (d.val, 17), (a.val, 12), (m.val, 4), (ty.val, 0)]))
  | .vlog2 d a m ty => some (.slot 4 (pk [(7, 22), (d.val, 17), (a.val, 12), (m.val, 4), (ty.val, 0)]))
  | .vdiv d a b m ty => some (.slot 4 (pk [(8, 22), (d.val, 17), (a.val, 12), (b.val, 7), (m.val, 4), (ty.val, 0)]))
  | .vscl d a b m ty => some (.slot 4 (pk [(9, 22), (d.val, 17), (a.val, 12), (b.val, 7), (m.val, 4), (ty.val, 0)]))
  | .vrng d a s => some (.slot 4 (pk [(10, 22), (d.val, 17), (a.val, 12), (s.val, 7)]))
  | .vqnt d a rnd ty => some (.slot 4 (pk [(11, 22), (d.val, 17), (a.val, 12), (rnd.val, 7), (ty.val, 0)]))
  | .vdqnt d a rnd ty => some (.slot 4 (pk [(12, 22), (d.val, 17), (a.val, 12), (rnd.val, 7), (ty.val, 0)]))
  | .vmaxw d a n w ty => some (.slot 4 (pk [(16, 22), (d.val, 17), (a.val, 12), (n.val, 7), (w.val, 4), (ty.val, 0)]))
  | .vminw d a n w ty => some (.slot 4 (pk [(17, 22), (d.val, 17), (a.val, 12), (n.val, 7), (w.val, 4), (ty.val, 0)]))
  | .vmedw d a n w ty => some (.slot 4 (pk [(18, 22), (d.val, 17), (a.val, 12), (n.val, 7), (w.val, 4), (ty.val, 0)]))
  | .vclpw d a b w ty => some (.slot 4 (pk [(19, 22), (d.val, 17), (a.val, 12), (b.val, 7), (w.val, 4), (ty.val, 0)]))
  | .vssmw d a n w ty => some (.slot 4 (pk [(20, 22), (d.val, 17), (a.val, 12), (n.val, 7), (w.val, 4), (ty.val, 0)]))
  | .vrmaxw d a n w ty => some (.slot 4 (pk [(21, 22), (d.val, 17), (a.val, 12), (n.val, 7), (w.val, 4), (ty.val, 0)]))
  | .vrminw d a n w ty => some (.slot 4 (pk [(22, 22), (d.val, 17), (a.val, 12), (n.val, 7), (w.val, 4), (ty.val, 0)]))
  | .vadj d g s w last gf => some (.slot 4 (pk [(23, 22), (d.val, 17), (g.val, 12), (s.val, 7), (w.val, 4), (last.toNat, 3), (gf.val, 0)]))
  | .wtag d w => some (.slot 4 (pk [(24, 22), (d.val, 17), (w.val, 4)]))
  | .wclr w => some (.slot 4 (pk [(25, 22), (w.val, 4)]))
  | .mma td aA aB aS z tok => some (.slot 5 (pk [(td.val, 18), (aA.val, 14), (aB.val, 10), (aS.val, 6), (z.toNat, 5), (putTokens tok, 0)]))
  | .tzero td => some (.slot 5 (pk [(1, 22), (td.val, 18)]))
  | .tst td a s dty rnd h tok => some (.slot 5 (pk [(2, 22), (td.val, 18), (a.val, 14), (s.val, 9), (dty.val, 36), (rnd.val, 33), (h.toNat, 32), (putTokens tok, 0)]))
  | .tld td a tok => some (.slot 5 (pk [(3, 22), (td.val, 18), (a.val, 14), (putTokens tok, 0)]))
  | .trd vd td s => some (.slot 5 (pk [(4, 22), (vd.val, 17), (td.val, 13), (s.val, 8)]))
  | .twr td v s => some (.slot 5 (pk [(5, 22), (td.val, 18), (v.val, 12), (s.val, 7)]))
  | .tstat d td c => some (.slot 5 (pk [(6, 22), (d.val, 17), (td.val, 13), (c.toNat, 12)]))
  | .tsig d td sel => some (.slot 5 (pk [(7, 22), (d.val, 17), (td.val, 13), (sel.val, 9)]))
  | .cpy ad aS s dsp ssp opt tok => some (.slot 5 (pk [(8, 22), (ad.val, 18), (aS.val, 14), (s.val, 9), (dsp.val, 6), (ssp.val, 3), (putEngOpt opt, 0), (putTokens tok, 0)]))
  | .cpyx ad aS s dsp ssp opt tok => some (.slot 5 (pk [(9, 22), (ad.val, 18), (aS.val, 14), (s.val, 9), (dsp.val, 6), (ssp.val, 3), (putEngOpt opt, 0), (putTokens tok, 0)]))
  | .gath ad aT aI s rl opt tok => some (.slot 5 (pk [(10, 22), (ad.val, 18), (aT.val, 14), (aI.val, 10), (s.val, 5), (rl.val, 0), (putEngOpt opt, 0), (putTokens tok, 0)]))
  | .engineOperationStart => none
  | .rowGroupCheck => none
  | .engineOperationCompletion => none
  | .lanternArbitration => none
  | .thresholdExceeded => none
  | .tstDrainStart => none
  | .tstRowGroupCompare => none
  | .tstCommit => none
  | .engineFault => none
  | .copyStart => none
  | .cpyxAttempt => none
  | .copyArrival => none
  | .eventRecordPost => none
  | .send v c => some (.slot 6 (pk [(v.val, 17), (c.val, 11)]))
  | .recv v c => some (.slot 6 (pk [(1, 22), (v.val, 17), (c.val, 11)]))
  | .recvadd v c => some (.slot 6 (pk [(2, 22), (v.val, 17), (c.val, 11)]))
  | .recvmax v c => some (.slot 6 (pk [(3, 22), (v.val, 17), (c.val, 11)]))
  | .sends s c => some (.slot 6 (pk [(4, 22), (s.val, 17), (c.val, 11)]))
  | .recvs s c => some (.slot 6 (pk [(5, 22), (s.val, 17), (c.val, 11)]))
  | .chq s c => some (.slot 6 (pk [(6, 22), (s.val, 17), (c.val, 11)]))
  | .chclose c => some (.slot 6 (pk [(7, 22), (c.val, 11)]))
  | .claimFill => none
  | .channelWatchdog => none
  | .collectiveTimeout => none
  | .btree t0 t1 t2 t3 => some (.slot 7 (pk [(putBTest 16 53 t0, 0), (putBTest 10 50 t1, 0), (putBTest 4 47 t2, 0), (putBTest 57 44 t3, 0)]))
  | .jmp off => some (.slot 7 (pk [(1, 22), (putOff26 off, 0)]))
  | .call off => some (.slot 7 (pk [(2, 22), (putOff26 off, 0)]))
  | .jmpb b => some (.slot 7 (pk [(3, 22), (b.val, 19)]))
  | .retb b => some (.slot 7 (pk [(4, 22), (b.val, 19)]))
  | .loop s endOff => some (.slot 7 (pk [(5, 22), (s.val, 17), (endOff.toNat, 32)]))
  | .lbrk level n p => some (.slot 7 (pk [(6, 22), (level.val, 19), (n.toNat, 18), (p.val, 14)]))
  | .fmtw s => some (.slot 7 (pk [(7, 22), (s.val, 17)]))
  | .waitk tok => some (.slot 7 (pk [(8, 22), (putTokens tok, 0)]))
  | .bar id => some (.slot 7 (pk [(9, 22), (id.val, 16)]))
  | .bara id => some (.slot 7 (pk [(10, 22), (id.val, 16)]))
  | .cbwait d a s => some (.slot 7 (pk [(11, 22), (d.val, 17), (a.val, 13), (s.val, 8)]))
  | .feat d word => some (.slot 7 (pk [(12, 22), (d.val, 17), (word.val, 0)]))
  | .trap imm => some (.slot 7 (pk [(13, 22), (imm.toNat, 0)]))
  | .sysc imm => some (.slot 7 (pk [(14, 22), (imm.toNat, 0)]))
  | .exit => some (.slot 7 (pk [(15, 22)]))
  | .yield => some (.slot 7 (pk [(16, 22)]))
  | .seedp s => some (.slot 7 (pk [(18, 22), (s.val, 17)]))
  | .seedo => some (.slot 7 (pk [(19, 22)]))
  | .seedf imm => some (.slot 7 (pk [(20, 22), (imm.toNat, 0)]))
  | .seedr d => some (.slot 7 (pk [(21, 22), (d.val, 17)]))
  | .getsys d t sel => some (.slot 7 (pk [(32, 22), (d.val, 17), (t.val, 12), (sel.toNat, 32)]))
  | .setsys s t sel => some (.slot 7 (pk [(33, 22), (s.val, 17), (t.val, 12), (sel.toNat, 32)]))
  | .setsysThreshWindow s t sel => some (.slot 7 (pk [(33, 22), (s.val, 17), (t.val, 12), (sel.toNat, 32)]))
  | .setsysFeatack s t sel => some (.slot 7 (pk [(33, 22), (s.val, 17), (t.val, 12), (sel.toNat, 32)]))
  | .eret => some (.slot 7 (pk [(34, 22)]))
  | .tlaunch d a => some (.slot 7 (pk [(35, 22), (d.val, 17), (a.val, 13)]))
  | .tcommit s => some (.slot 7 (pk [(36, 22), (s.val, 17)]))
  | .tabortRerun s => some (.slot 7 (pk [(37, 22), (s.val, 17)]))
  | .tabortKill s k => some (.slot 7 (pk [(37, 22), (s.val, 17), (k.val, 0)]))
  | .jcbadd a s => some (.slot 7 (pk [(38, 22), (a.val, 18), (s.val, 13)]))
  | .jcbpost a s => some (.slot 7 (pk [(39, 22), (a.val, 18), (s.val, 13)]))
  | .eqpop pd d => some (.slot 7 (pk [(40, 22), (pd.val, 13), (d.val, 17)]))
  | .ctxstart t a => some (.slot 7 (pk [(41, 22), (t.val, 17), (a.val, 13)]))
  | .ctxstartRestore _ _ => none
  | .ctxstartControlCore _ _ => none
  | .ctxstartR t => some (.slot 7 (pk [(41, 22), (t.val, 17), (1, 12)]))
  | .ctxstopSafe t => some (.slot 7 (pk [(42, 22), (t.val, 17)]))
  | .ctxstopKill t k => some (.slot 7 (pk [(42, 22), (t.val, 17), (k.val, 15)]))
  | .tlbinvRange a s q => some (.slot 7 (pk [(43, 22), (a.val, 16), (s.val, 11), (q.val, 6)]))
  | .tlbinvAsid a s q => some (.slot 7 (pk [(43, 22), (a.val, 16), (s.val, 11), (q.val, 6), (1, 20)]))
  | .tlbinvAll kind a s q => some (.slot 7 (pk [(43, 22), (kind.val, 20), (a.val, 16), (s.val, 11), (q.val, 6)]))
  | .wfi => some (.slot 7 (pk [(45, 22)]))
  | .bind d s => some (.slot 7 (pk [(44, 22), (d.val, 17), (s.val, 12)]))
  | .bindFence _ _ => none
  | .bindUnfence _ _ => none
  | .bindMicrocode _ _ => none
  | .bindQuery _ _ => none
  | .bindBreak _ _ => none
  | .bindWatch _ _ => none
  | .bindTrace _ _ => none
  | .bindProfile _ _ => none
  | .bindDumpctx _ _ => none
  | .bindExtract _ _ => none
  | .interrupt => none
  | .singleStep => none
  | .contextSwitch => none
  | .quantumExpiry => none
  | .preemption => none
  | .saveAreaWrite => none
  | .preemptionLimit => none
  | .dispatch => none
  | .taskAging => none
  | .taskBlocking => none
  | .taskCompletion => none
  | .auditReplay => none
  | .auditVote => none
  | .auditPlacementLimit => none
  | .sumpInflation => none
  | .sumpCtlEn => none
  | .sumpCtlRetry => none
  | .sumpLptrTail => none
  | .sumpDefl => none
  | .sumpStatOosClear => none
  | .scrub => none
  | .linkRetry => none
  | .linkDeath => none
  | .linkStateUpdate => none
  | .linkDrainRound => none
  | .requestDeclareDead => none
  | .requestBringUp => none
  | .requestPcap => none
  | .hostMessage => none
  | .hostAccess => none
  | .clockAdjust => none
  | .profileSample => none
  | .panic => none
  | .devnoSupply => none
  | .reset => none
  | .remoteRequest => none
  | .linkTrained => none
  | .receiverLosesLock => none
  | .powerRemoved => none
  | .criticalTemperature => none
  | .pcieLinkStateChange => none
  | .ethernetPortStateChange => none

/-- A slot group with path tag t (R97). -/
def withTag (t : Fin 8) (w : Nat) : Nat := w + t.val * 2 ^ 28

/-- A header parcel with P = 0 is a gap bundle (R91); a flagged one can be skipped (R89). -/
def decodeHeaderInstr (w : Nat) : Option Instr :=
  match decodeHeader w with
  | none => none
  | some h =>
    if h.ok then (if h.p = 0 then some (.gapBundle h) else if h.i ≠ 0 then some (.skippedBundle h) else none) else none

/-- What the decoder reads from encoded words. -/
def decodeCode : Code → Option Instr
  | .header w => decodeHeaderInstr w
  | .slot n w =>
    match decodeSlot n w with
    | .ok i => some i
    | .error _ => none

/-- The first of these slots in which the group w is a defined encoding. -/
def firstSlot (w : Nat) : List Nat → Option (Nat × Instr)
  | [] => none
  | n :: ns =>
    match decodeSlot n w with
    | .ok i => some (n, i)
    | .error _ => firstSlot w ns

/-- A parcel does not name its slot: w is read in the lowest-numbered slot in which it is defined, one-parcel slots
first when w has one parcel (DESIGN CHOICE, log 14). -/
def tableSlot (nbits w : Nat) : Option (Nat × Instr) :=
  if flg w 63 then none
  else if nbits ≤ 32 then firstSlot w [0, 1, 2, 3, 4, 6, 5, 7] else firstSlot w [5, 7, 0, 1, 2, 3, 4, 6]

/-- The instruction the decoder reads from the bits w, the first parcel lowest (R86, R97). -/
def decodeTableWord (nbits w : Nat) : Option Instr :=
  let w := w % 2 ^ nbits
  if flg w 31 then decodeHeaderInstr (w % 2 ^ 32)
  else if w / 2 ^ 28 % 8 = 7 then none
  else (tableSlot nbits w).map (·.2)

end Sys2Proof
end

