-- ==== Sys2Proof/Config.lean ====
section
/-! DEFINITION. What the manual leaves to an implementation, and the free values: constants without a body, so that
no proof can see what they are (R5). Each is named in the assumption log. -/

namespace Sys2Proof.Config

/-- The free value of one reading: the first argument is the machine's tick, the second the site of the reading
(R5; log 4). -/
opaque free : Nat → Nat → BitVec 64

/-- How many arithmetic cycles beyond the first pass in the step with this tick (R10; log 8). -/
opaque elapse : Nat → Nat

/-- How far the cyc counter of a core is ahead of the clock (R48, R49: counters are not synchronised; log 65). -/
opaque cycOrigin : Nat → Nat

/-- Whether the L1G keeps a clean copy of the line that the load of this tick reads (R181; log 9). -/
opaque l1gKeeps : Nat → Bool

/-- Which free sector an expansion takes: an index into the pool (R422; log 10). -/
opaque pickSector : Nat → Nat

/-- Records that a cluster's event queue holds (R270 gives no depth; log 11). -/
opaque eventQueueDepth : Nat

/-- Lines that a stack's version store can reserve (R379, R388, R389 give no size; log 19). -/
opaque versionRoom : Nat

/-- Whether the domain beyond a port reaches a device while these links (device, port) are dead (R446 names no wiring; log 72). -/
opaque routed : Nat → Nat → List (Nat × Nat) → Bool

/-- Whether the Lantern paths accept the format of a microcode image with this signature (R457; log 20). -/
opaque microcodeFits : BitVec 64 → Bool

end Sys2Proof.Config
end

