-- ==== Sys2Proof/Machine/State.lean ====
section
/-! DEFINITION. The state of one TH9 device as plain data, and its state at reset. INVENTORY.md lists every piece
with the rule that names it. Fields marked MODEL are the model's own: they say which agent moves, which bundle is
being issued and which free value is read next. -/

namespace Sys2Proof.Machine

/-- Why a step has no next state. Both end a run safely: a claim about a next state says nothing of them. -/
inductive Fault where
  /-- The package has no power (R481): no agent moves any more. Raised by step. Safe. -/
  | powerRemoved
deriving DecidableEq, Repr

/-- Why an instruction has no meaning here. -/
inductive Refusal where
  /-- An instruction that is not modelled yet. Raised by an arm of exec; safe: no claim about it can be proved. -/
  | notModelled (mnemonic : String)
deriving DecidableEq, Repr

/-- Memory: (address, byte) pairs, addresses strictly rising, no byte equal to what an unlisted address reads. -/
abbrev Memory := List Host.Cell

/-- A sparse table keyed by number, keys strictly rising. -/
abbrev Tbl (α : Type) := List (Nat × α)

/-! ## A context's registers -/

/-- An address register (R40). -/
structure AReg where
  base : Word
  strides : Vector (BitVec 15) 6
deriving DecidableEq, Repr

/-- A witness register (R42, R221). -/
structure Wit where
  entries : Vector (BitVec 16) 64
  tag : BitVec 32
deriving DecidableEq, Repr

/-- A level of the Slalom loop stack (R15, R149). -/
structure LoopLevel where
  index : Word
  count : Word
  first : Word
  last : Word
deriving DecidableEq, Repr

/-- A set region (R193, R195): filled granules by number and dirty bytes by offset. -/
structure Region where
  lbase : Nat
  gbase : Nat
  len : Nat
  rw : Bool
  filled : List Nat
  dirty : List Nat
deriving DecidableEq, Repr

/-- A register that an operation can write with a bound. -/
inductive RegName where
  | s (r : SR) | a (r : AR) | p (r : PR) | b (r : BR) | v (r : VR) | m (r : MR) | w (r : WR)
deriving DecidableEq, Repr

/-- What lands in a register. -/
inductive RegVal where
  | word (x : Word)
  | base (x : Word)
  | stride (level : Fin 6) (x : BitVec 15)
  | flag (x : Bool)
  | vec (x : Vec)
  | wit (x : Wit)
deriving DecidableEq, Repr

/-- A result in flight (R52–R54): issued at a schedule cycle, due at its bound; ready when its value has arrived;
spoiled when a later write met it inside its bound; shown when a stop has already landed it (R55): its bound stays.
id names the access or claim that fills it; clock is what the context observes as it lands (R289; MODEL). -/
structure Landing where
  reg : RegName
  val : RegVal
  issued : Nat
  due : Nat
  ready : Bool
  spoiled : Bool
  shown : Bool
  id : Nat
  clock : List (Nat × Nat)
deriving DecidableEq, Repr

/-- The identity values of R18, with rank and dispatched mask (R20). -/
structure Ident where
  core : Nat
  clu : Nat
  die : Nat
  dev : Nat
  ctx : Nat
  gang : Nat
  gx : Nat
  rank : Nat
  dmask : Nat
deriving DecidableEq, Repr

/-- A channel of the context (R282, R283). chan is the number of the shared channel in State.chans; sent holds the
schedule cycles of its latest sends (R105). -/
structure ChanBind where
  num : CR
  out : Bool
  shape : Nat
  depth : Nat
  col : Bool
  tmo : Nat
  chan : Nat
  sent : List Nat
deriving DecidableEq, Repr

/-- A fault found after issue, taken before a later bundle (R183, R236, R250, R286, R433, R483). notBefore is the
schedule cycle before which it is not taken; epc is the SYS_EPC where it is not the later bundle's address. -/
inductive LateKind where
  | engine | access | claim | threshold | image | step | collective
deriving DecidableEq, Repr

structure LateFault where
  kind : LateKind
  cause : BitVec 8
  tval : Word
  notBefore : Nat
  epc : Option Word
deriving DecidableEq, Repr

/-- Where a context stands (R25, R351, R360). -/
inductive RunState where
  | free        -- not started, or freed
  | running
  | stalled     -- wants to issue; its bundle could not
  | stopped     -- STATUS.STOP: awaits service
  | waiting     -- WFI
  | saving      -- pre-empted at a safe point: drains before its save area is written
  | retired
  | ended       -- by containment or CTXSTOP K = 1
  | halted      -- double trap or failed boot
deriving DecidableEq, Repr

/-- Words of a v register (what < 32) or of window-relative tile what − 32 that a copy writes (R280): the n words from
lo. They are unpredictable until the context has observed the end of the copy id, by a CBWAIT on key or a WAITK on
tok; ended: the copy is over; spoilt: the context wrote them meanwhile. -/
structure Window where
  what : Nat
  lo : Nat
  n : Nat
  id : Nat
  tok : Option KR
  key : Option Nat
  ended : Bool
  spoilt : Bool
deriving DecidableEq, Repr

/-- One context. asked: the address of a CBWAIT word that it has reported, with the cause; sendWait: on which channel and since
when a SEND has stalled (MODEL). wSpoilt: the witness registers that R54 or R104 has left unpredictable.
arriving: its barrier arrivals that wait for their
release, with the clock they carry (R161, R162). badRegs: the registers whose parity fails (R429, R431). relClock: what its release fences have published, by scope (R294);
readClock: what its plain loads have read of releases, each under its releaser and scope (R294, R295). -/
structure Ctx where
  run : RunState
  pc : Word
  s : Vector Word 32
  a : Vector AReg 16
  p : Vector Bool 16
  b : Vector Word 8
  v : Vector Vec 32
  m : Vector Word 8
  w : Vector Wit 8
  fmtOld : BitVec 32
  fmtNew : List (Nat × BitVec 32)
  seeds : Vector Word 8
  depth : Nat
  wctr : BitVec 16
  wSpoilt : List WR
  badRegs : List RegName
  k : Vector (Option Nat) 32
  loops : List LoopLevel
  sc : Nat
  lands : List Landing
  chans : List ChanBind
  closed : List CR
  regions : Vector (Option Region) 16
  ident : Ident
  tbase : Nat
  tcount : Nat
  soff : Nat
  scr : Nat
  task : Nat
  slotNo : Nat
  saveAt : Nat
  recAt : Nat
  status : Word
  cause : Word
  epc : Word
  tval : Word
  vbase : Word
  ptbase : Word
  asid : BitVec 16
  late : List LateFault
  bara : List (Nat × Nat)
  arriving : List (Nat × List (Nat × Nat))
  preemptAt : Option Nat
  resume : Bool
  fillFrom : Bool
  cameFrom : Option Word
  asked : Option (Nat × BitVec 8)
  sendWait : Option (CR × Nat)
  ibuf : Tbl (List Byte)
  clock : List (Nat × Nat)
  relClock : Tbl (List (Nat × Nat))
  readClock : Tbl (List (Nat × Nat))
  windows : List Window
  started : Nat
deriving DecidableEq, Repr

/-! ## The bundle being issued (MODEL) -/

/-- How the bundle's issue stands: going on; a slot trapped with this rank of R102; a slot stalls before issue; or
a slot has itself ended the bundle (TRAP, SYSC, EXIT). -/
inductive IssueOut where
  | going | trapped (rank : Nat) | stalled | done
deriving DecidableEq, Repr

/-- MODEL. The bundle on the issue port. flow: a transfer that goes on as sequential flow would (R149); cleared: what
the slots wait for has been judged on the state before the bundle (R103). left: the end of the parcels that flow has passed (R151); dup: a register that two of its slots write (R104); hit: the watchpoint and the
address of an access that it has met (R467); judged: the gang's decisions have been compared (R24). -/
structure Frame where
  base : Word
  len : Nat
  next : Word
  left : Nat
  transfer : Bool
  flow : Bool
  cleared : Bool
  gap : Nat
  slot : Nat
  parcel : Word
  out : IssueOut
  yields : Bool
  dup : Option (RegName × Nat)
  hit : Option (Nat × Nat)
  judged : Bool
deriving DecidableEq, Repr

/-! ## Accesses that wait (R182, R194) -/

/-- How the bytes of a load make its result. -/
inductive LoadShape where
  | scalar (bytes : Nat) (signed : Bool)
  | vec
  | bcast
  | mask
  | wit
deriving DecidableEq, Repr

/-- The functions of R188, and compare-and-swap (R189). -/
inductive AtomFn where
  | add | and | or | xor | min | max | minz | maxz | xchg | fadd
  | cas (expect : Word)
deriving DecidableEq, Repr

/-- What waits: a load (acq: an LDAQ's scope), a load or atomic that another device answers, a local store by scratchpad key (rel: an STRL's
scope), a global store with what a release publishes, a read-modify-write with its order code. The answer of another device
stands in bytes: what this device shows of it as the access issues (R297); none for an atomic, whose old value it gives. -/
inductive WaitKind where
  | load (glob : Bool) (d : RegName) (shape : LoadShape) (addrs : List Nat) (acq : Option Nat)
  | remote (dev : Nat) (d : RegName) (shape : LoadShape) (addrs : List Nat) (acq : Option Nat) (bytes : List Byte)
  | store (pieces : List (Nat × List Byte)) (rel : Option Nat)
  | gstore (va : Nat) (bytes : List Byte) (exempt : Bool) (rel : Option (Nat × List (Nat × Nat)))
  | atom (glob : Bool) (fn : AtomFn) (bytes : Nat) (d : SR) (addr : Nat) (v : Word) (oc : Nat)
deriving DecidableEq, Repr

/-- A memory access that has issued and waits for the unit, a page or a granule. task, run, asid and ptbase: the version and
the address space of its issue (R36, R281); seen and fences: what its context had observed, and what its release fences had
published, at its issue (R295; MODEL); first: the address of its first element as the access named it (R236). -/
structure Wait where
  ctx : CtxId
  id : Nat
  bundle : Word
  task : Nat
  run : Nat
  asid : BitVec 16
  ptbase : Word
  seen : List (Nat × Nat)
  fences : Tbl (List (Nat × Nat))
  first : Nat
  kind : WaitKind
deriving DecidableEq, Repr

/-- What a global unit is held for: the context and the bundle of the access, and whether that is a region's fill (R182, R194, R411). -/
structure Held where
  va : Nat
  asid : BitVec 16
  ptbase : Word
  cause : BitVec 8
  who : CtxId
  bundle : Word
  fill : Bool
deriving DecidableEq, Repr

/-- An operation of the side log (R185). -/
inductive LogOp where
  | store
  | reduce (fn : AtomFn) (addr : Nat) (bytes : Nat) (v : Word)
deriving DecidableEq, Repr

/-- One access of the race history (R307, R308): its agent's epoch, and what the agent had observed. -/
structure Touch where
  line : Nat
  who : Nat
  epoch : Nat
  seen : List (Nat × Nat)
  write : Bool
  bundle : Word
deriving DecidableEq, Repr

/-- A load that took a byte of a logged block before its replay (R185 rule 5, R307): its task, whether it is an LDAQ, and
the access, its line by virtual number. -/
structure Reader where
  task : Nat
  exempt : Bool
  access : Touch
deriving DecidableEq, Repr

/-- A side-log entry (R185): one 128-byte block. rel is the scope and the clock of a release that it performs (R187, R294), seen
and fences what its context had observed and its release fences had published at its issue, readers the loads it has served
(R295, R307; MODEL); bad: the addresses of its poisoned bytes (R430). -/
structure LogEntry where
  ctx : CtxId
  task : Nat
  run : Nat
  asid : BitVec 16
  ptbase : Word
  block : Nat
  bytes : List (Nat × Byte)
  op : LogOp
  bundle : Word
  exempt : Bool
  rel : Option (Nat × List (Nat × Nat))
  seen : List (Nat × Nat)
  fences : Tbl (List (Nat × Nat))
  readers : List Reader
  bad : List Nat
  waits : Option (BitVec 8)
deriving DecidableEq, Repr

/-! ## Matrix engines (R238–R257) -/

/-- A tile (R43, R245). engine: the copies that write it (R280); bad: both copies of a word have failed parity (R429). -/
structure Tile where
  rows : Vector Vec 64
  ovf : Bool
  sat : Bool
  nan : Bool
  inv : Bool
  water : Nat
  engine : List Nat
  bad : Bool
deriving DecidableEq, Repr

inductive MatKind where
  | mma (aA aB aS : Nat) (z : Bool) (fmt : BitVec 32)
  | tld (addr : Nat)
deriving DecidableEq, Repr

/-- An operation of the engine queue (R239). clock: what it has observed (R295). spoil: an image has been written since
its issue (R242); issued is the schedule cycle of its bundle (R467). result, flags and events are known from its start on. -/
structure MatOp where
  id : Nat
  ctx : CtxId
  bundle : Word
  kind : MatKind
  tile : Nat
  tok : Option KR
  deps : List Nat
  start : Option Nat
  groups : Nat
  result : Vector Vec 64
  flags : BitVec 4
  events : List Nat
  arb : Bool
  error : Option (BitVec 8)
  clock : List (Nat × Nat)
  spoil : Bool
  issued : Nat
deriving DecidableEq, Repr

/-- A store of the commit buffer (R248). groups counts the row groups compared, arbs those of them that Lantern still
arbitrates; doneAt is the cycle of the latest comparison or verdict; bad: the scratchpad granules whose part of the image is poisoned (R430). -/
structure TileStore where
  id : Nat
  ctx : CtxId
  bundle : Word
  tile : Nat
  core : Nat
  off : Nat
  size : Nat
  dty : Nat
  rnd : Nat
  isInt : Bool
  seed : Word
  s31 : Word
  hist : Option Nat
  tok : Option KR
  deps : List Nat
  start : Option Nat
  groups : Nat
  image : List Byte
  bins : List Nat
  events : List Nat
  arbs : Nat
  doneAt : Nat
  error : Option (BitVec 8)
  clock : List (Nat × Nat)
  bad : List Nat
deriving DecidableEq, Repr

/-- A compute core's shared units (R182, R185, R239, R248, R257, R462, R468). port is the context that its issue port
serves (R28); quantum counts its bundles toward limit, the Q in force since the count last restarted (R28, R393). wback holds
region bytes on their way to global memory, by granule (R195, R196); wbSeen is the granule that has counted its class-14
event (R184). -/
structure Core where
  port : Fin 4
  quantum : Nat
  limit : Nat
  cyc0 : Nat
  tiles : Vector Tile 16
  queue : List MatOp
  stores : List TileStore
  hist : Tbl (Tbl Nat)
  held : Option Held
  waits : List Wait
  sidelog : List LogEntry
  wback : List (Nat × LogEntry)
  wbSeen : Nat
  breaks : List Word
  stepMask : BitVec 4
  profK : Nat
  profTot : Vector Nat 4
  profFrom : Nat
  profSeen : Nat
  lastMat : Option (CtxId × Word × Nat)
deriving DecidableEq, Repr

/-! ## Cluster units -/

inductive CopyKind where
  | cpy | cpyx
  | gath (rl : Nat) (table : Nat)
deriving DecidableEq, Repr

/-- An operation of a copy or gather queue (R272–R278). For a gather, src is the index list. progress counts the bytes
moved; spoilt lists the parts (offset, length) that another write has met (R267); run is the run of the task that issued
it (R281); unsent: words of a CPYX for another device, as (device, address, bytes, poison), which leave once no write of it waits in a ring
(R278; MODEL); index holds the index list that a gather has read at its start (R277); held the words that a CPYX's
destination holds once they match (R276); quiet: its error is a fault raised at task level only (R278); undo: what a CPYX has found where it
wrote, kept while a page of its destination waits for service: the key, whether it is committed memory, and the byte (R278; MODEL). -/
structure CopyOp where
  id : Nat
  ctx : CtxId
  task : Nat
  run : Nat
  asid : BitVec 16
  ptbase : Word
  bundle : Word
  kind : CopyKind
  dsp : Nat
  ssp : Nat
  dst : Nat
  src : Nat
  n : Nat
  evrec : Bool
  cb : Option Nat
  tok : Option KR
  deps : List Nat
  started : Bool
  attempts : Nat
  moved : Bool
  waitsVa : Option (Nat × BitVec 8)
  error : Option (BitVec 8)
  clock : List (Nat × Nat)
  progress : Nat
  spoilt : List (Nat × Nat)
  index : Option (List Nat)
  held : Option (List (Byte × Bool))
  quiet : Bool
  undo : List (Nat × Bool × Option Byte)
  unsent : List (Nat × Nat × List Byte × Bool)
deriving DecidableEq, Repr

/-- A cached leaf translation (R406). -/
structure TlbEntry where
  asid : BitVec 16
  glob : Bool
  level : Nat
  va : Nat
  pte : Word
deriving DecidableEq, Repr

/-- An event-queue record (R270, R360, R381, R411). -/
structure Record where
  lo : Word
  task : Nat
  cluster : Nat
  who : Nat
  kind : Nat
  b14 : BitVec 8
  b15 : BitVec 8
deriving DecidableEq, Repr

/-- A watchpoint (R456, R463). -/
structure Watch where
  addr : Nat
  size : Nat
  reads : Bool
  writes : Bool
  glob : Bool
  cores : BitVec 4
  ctxs : BitVec 4
deriving DecidableEq, Repr

/-- A row group under arbitration (R247). store marks a TST; who, bundle, tile and op (0 MMA, 1 TLD, 2 TST) name its operation, and
sig is the signature of its rows, as it was detected (R437, R442). -/
structure Arb where
  core : Nat
  id : Nat
  store : Bool
  group : Nat
  who : CtxId
  bundle : Word
  tile : Nat
  op : Nat
  sig : Word
deriving DecidableEq, Repr

structure Cluster where
  l1g : Tbl (List Byte)
  tlb : List TlbEntry
  copies : List CopyOp
  gathers : List CopyOp
  events : List Record
  posting : List Record
  watches : List Watch
  arbs : List Arb
deriving DecidableEq, Repr

/-! ## Stack units -/

/-- A page-directory entry (R418); sectors are HBM sector indices. -/
structure DirEnt where
  sectors : List Nat
  n : Nat
  raw : Bool
  ballooned : Bool
  bounce : Bool
deriving DecidableEq, Repr

/-- A bounce entry (R414): ptbase maps its page, pa is its block once the page is mapped, slot its place in the ring; bad: its bytes are poisoned (R279); op is the engine operation that wrote it, who, clock and bundle name its issue (R307; MODEL); age orders the entries of all rings, a
commit making those of its version the youngest committed ones (R415; MODEL). -/
structure Bounce where
  va : Nat
  asid : BitVec 16
  ptbase : Word
  committed : Bool
  valid : Bool
  task : Nat
  pa : Option Nat
  slot : Nat
  bytes : List (Nat × Byte)
  bad : Bool
  op : Nat
  who : CtxId
  clock : List (Nat × Nat)
  bundle : Word
  age : Nat
deriving DecidableEq, Repr

/-- What waits for sectors (R419): the head of a core's side log, its global unit, an entry of a bounce ring, an engine operation that
a full ring keeps out, an arrival, a write of the device itself. -/
inductive Waiter where
  | log (core : Nat) | unit (core : Nat) | ring (n : Fin 8) (slot : Nat) | engine (id : Nat) | arrival (id : Nat) | device (id : Nat)
deriving DecidableEq, Repr

/-- The Sump registers of one stack (R422), the writes that wait for sectors in arrival order (R419), each named by
its unit, and those of them reported as out of space (R426). The pool is every sector past the raw area that no directory entry holds. -/
structure Sump where
  en : Bool
  nom : Nat
  rsv : Nat
  dir : Word
  bnc : Word
  ovf : Word
  hwm : Nat
  lwm : Nat
  list : Word
  tail : Nat
  head : Nat
  skip : Nat
  oos : Bool
  inflating : Bool
  waiting : List Waiter
  told : List Waiter
deriving DecidableEq, Repr

/-- A binding of a logical core (R453). -/
structure Binding where
  fe : Nat
  slab0 : Nat
  slab1 : Nat
deriving DecidableEq, Repr

/-- Trace settings of a stack, and the records lost since its latest type-7 record (R456, R467). -/
structure Trace where
  ring : Nat
  size : Nat
  types : BitVec 7
  cores : Nat
  lost : Nat
deriving DecidableEq, Repr

structure Stack where
  tlb : List TlbEntry
  sump : Sump
  dirs : Tbl DirEnt
  bounce : List Bounce
  fenced : Bool
  binds : Tbl Binding
  badSlabs : List Nat
  badFes : List Nat
  slabCount : Tbl Nat
  microcode : Word
  trace : Trace
deriving DecidableEq, Repr

/-! ## Tasks (R372–R392) -/

structure SlotRec where
  entry : Word
  tiles : Nat
  tbase : Nat
  scr : Nat
  soff : Nat
  save : Nat
deriving DecidableEq, Repr

structure TaskRec where
  flags : BitVec 8
  pri : Nat
  launch : Nat
  ts : Nat
  mask : Nat
  pol : BitVec 8
  vcnt : Nat
  asid : BitVec 16
  image : Nat
  argb : Word
  jcb : Nat
  budget : Nat
  args : List Word
  seed : Word
  preds : List Nat
  cgrp : Nat
  slots : List SlotRec
deriving DecidableEq, Repr

inductive TaskPhase where
  | queued | dispatched | completed
deriving DecidableEq, Repr


/-- A barrier of a task (R160, R161): gone counts the contexts that have ended, later those that count from the next
phase on, since they have arrived at this one. -/
structure Barrier where
  id : Nat
  scope : Nat
  count : Nat
  phase : Nat
  arrived : Nat
  gone : Nat
  later : Nat
  clock : List (Nat × Nat)
  done : List (Nat × List (Nat × Nat))
deriving DecidableEq, Repr

/-- An audit of a task (R440–R444): its replay waits for a placement or runs; after a mismatch its vote does, and the replay's signature,
line count and clusters stay. -/
inductive AuditState where
  | none | sampled | replaying
  | replayed (sig : BitVec 64) (lines mask : Nat)
  | voting (sig : BitVec 64) (lines mask : Nat)
  | passed
deriving DecidableEq, Repr

/-- MODEL. What a saved program carries beside its save area, so that it goes on as if it had not stopped (R15, R21, R29):
bounds still open, witness registers left unpredictable (R54), unobserved parts of copies (R280), outstanding and waiting
barrier arrivals (R161), what it has observed, released and read (R295), its buffered loop bodies (R154), the schedule
cycles of its sends (R105), and whether flow has just passed a fill that holds the innermost E (R151). -/
structure Kept where
  lands : List Landing
  wSpoilt : List WR
  windows : List Window
  bara : List (Nat × Nat)
  arriving : List (Nat × List (Nat × Nat))
  clock : List (Nat × Nat)
  relClock : Tbl (List (Nat × Nat))
  readClock : Tbl (List (Nat × Nat))
  ibuf : Tbl (List Byte)
  chans : List ChanBind
  fillFrom : Bool
deriving DecidableEq, Repr

/-- A known task. lpt and lasid translate its record's address. away names the contexts saved and not restored, moved
the clusters that saved programs have been restored on (R398), times the first start and the last retirement of each
rank (R391). doomed: the version is dropped at completion (R35); dropped: a task-level fault or action has dropped it
already (R317). fault: the cause of the latest fault of its contexts or of its own; kept: what its saved programs carry, by
rank × 16 + slot; gone: contexts that have ended without one to hold them, saved ones or ones never started (MODEL);
retained: the lines that the auditor has retained in a sampled run, with their contents (R441); writers: the context and the bundle that last
stored into a line of another device (R447; MODEL). -/
structure Task where
  id : Nat
  recAt : Nat
  lpt : Word
  lasid : BitVec 16
  record : TaskRec
  phase : TaskPhase
  pri : Nat
  waitFrom : Nat
  blocking : Bool
  dmask : Nat
  runs : Nat
  retries : Nat
  variant : Nat
  away : List Nat
  moved : Tbl Nat
  version : List (Nat × Byte)
  lines : Tbl Nat
  writers : Tbl (CtxId × Word)
  vpoison : List Nat
  reads : List Nat
  touches : List Touch
  doomed : Bool
  dropped : Bool
  fault : Option (BitVec 8)
  kept : Tbl Kept
  gone : List Nat
  error : Option (BitVec 8)
  barriers : List Barrier
  audit : AuditState
  retained : Tbl (List Byte)
  times : List (Nat × Nat × Nat)
deriving DecidableEq, Repr

/-- What a receive makes of its element (R284). -/
inductive RecvFn where
  | move | add | max
deriving DecidableEq, Repr

/-- A claim that waits for its element (R286): the landing it fills, its first operand and when it was made. -/
structure Claim where
  ctx : CtxId
  num : CR
  id : Nat
  reg : RegName
  fn : RecvFn
  isInt : Bool
  v : Vec
  since : Nat
  bundle : Word
deriving DecidableEq, Repr

/-- A channel as its two ends share it (R282–R288); an end on another device is none. -/
structure Chan where
  src : Option CtxId
  dst : Option CtxId
  task : Nat
  dtask : Nat
  credit : Bool
  q : List (ChElem × List (Nat × Nat))
  claims : List Claim
  closed : Bool
  dropped : Nat
deriving DecidableEq, Repr

/-- A kernel of an image: a geometry record of R366 placed. entry and size are its symbol's. -/
structure GeomRec where
  entry : Word
  size : Nat
  contexts : Nat
  tiles : Nat
  gangSafe : Bool
  scratch : Nat
deriving DecidableEq, Repr

structure LiveRec where
  classes : BitVec 16
  ranges : List (Nat × Nat)
deriving DecidableEq, Repr

structure ChanRec where
  bits : BitVec 128
deriving DecidableEq, Repr

/-- A symbol of R366 with its name from the strings section. -/
structure SymRec where
  name : List Byte
  sec : Nat
  kernel : Bool
  data : Bool
  value : Nat
  size : Nat
deriving DecidableEq, Repr

/-- An entry of the line table (R366). -/
structure LineRec where
  off : Nat
  file : List Byte
  line : Nat
deriving DecidableEq, Repr

/-- What the loader made of an image (R365–R368): the code it chose, with the addresses of its bundles and what its
relocations put into it; the code it has translated, where it took the Selus section; and the image's tables. -/
structure Image where
  at_ : Nat
  signature : Word
  codeBase : Nat
  codeLen : Nat
  bundles : List Nat
  patches : List (Nat × List Byte)
  code : List Byte
  syms : List SymRec
  lines : List LineRec
  kernels : List GeomRec
  live : List LiveRec
  chans : List ChanRec
  barriers : List (Nat × Nat × Nat)
  variants : List (List Nat)
  auditable : Bool
deriving DecidableEq, Repr

/-! ## Links, hosts, device -/

/-- A domain port (R445, R446, R475). told: its latest update, if it has had one, says that it is up. -/
structure Port where
  up : Bool
  told : Bool
  peerDev : Nat
  peerPort : Nat
  epoch : Nat
  fails : Nat
  lockLost : Option Nat
  resent : Nat
  failed : Nat
deriving DecidableEq, Repr

/-- A die-to-die mesh edge (R445, R471): declared dead, retransmissions that have failed in a row, when its receiver lost
lock. -/
structure Edge where
  dead : Bool
  fails : Nat
  lockLost : Option Nat
deriving DecidableEq, Repr

/-- The drain of a link-state update (R446); up: the link is up again once it ends. -/
structure Drain where
  origin : Nat
  epoch : Nat
  port : Nat
  up : Bool
  received : Nat
  round : Nat
deriving DecidableEq, Repr

/-- A request sent to another device and not yet acknowledged (R446); task: the task of its context, bad: its bytes are poisoned
(R430, R447). -/
structure OutReq where
  dev : Nat
  seq : Nat
  who : CtxId
  bundle : Word
  asid : BitVec 16
  va : Nat
  bytes : List Byte
  bad : Bool
  task : Nat
deriving DecidableEq, Repr

/-- What a write of the device itself belongs to: a context's save area, a task's record, or neither. -/
inductive OwedFor where
  | area (c : CtxId) | record (task : Nat) | other
deriving DecidableEq, Repr

/-- A write of the device itself that waits for sectors or for the service of its page (R419): its number, the party whose routes it
takes (R472), its tables, its address, its bytes; direct: the address is a physical one, of a host's write (R478). -/
structure Owed where
  id : Nat
  who : CtxId
  use : OwedFor
  direct : Bool
  ptbase : Word
  asid : BitVec 16
  va : Nat
  bytes : List Byte
deriving DecidableEq, Repr

/-- The device. deadLinks: the links (device, port) of other devices that updates have declared dead (R446); clkLog: the changes of the clock so far, newest first: the cycle of each, and the rate before it (R482; MODEL);
owed: writes of the device itself that wait for sectors (R419); supplied: the device number that the next release of reset
takes (R474). -/
structure Dev where
  no : Nat
  supplied : Nat
  powered : Bool
  boot : Nat
  frozen : Bool
  featAck : Vector Word 4
  computeStarted : Bool
  quantum : Nat
  preempt : Nat
  audit : Nat
  errlog : Word
  debug : Word
  watchdog : Nat
  thresh : Vector Word 16
  window : Vector Word 16
  tot : Vector Nat 16
  wc : Vector Nat 16
  wstart : Vector Nat 16
  nextTask : Nat
  irq : Vector Bool 5
  ports : Vector Port 12
  epoch : Nat
  seen : List (Nat × Nat)
  drains : List Drain
  deadLinks : List (Nat × Nat)
  delivered : Tbl Nat
  outreqs : List OutReq
  outseq : Nat
  edges : Vector Edge 10
  hostUp : Vector Bool 4
  ethUp : Vector (Bool × Nat) 5
  temps : Vector Nat 8
  thst : Nat
  pwr : Nat
  pcap : Nat
  clk : Nat
  clkLog : List (Nat × Nat)
  owed : List Owed
  variants : List (Nat × Nat × Nat × List (Nat × Nat))
  started : List Nat
deriving DecidableEq, Repr

/-- A release that stands on a 32-bit word (R295 item 4): home is the task whose version holds the write, 0 for committed memory,
scratchpad words and tokens; who the releasing context's number, clock what it had observed (MODEL). -/
structure Release where
  word : Nat
  home : Nat
  who : Nat
  scope : Nat
  clock : List (Nat × Nat)
deriving DecidableEq, Repr

structure State where
  tick : Nat
  now : Nat
  serial : Nat
  agenda : List Event
  input : Input
  frame : Frame
  who : CtxId
  ctx : Ctx
  parked : List (CtxId × Ctx)
  cores : Tbl Core
  clusters : Tbl Cluster
  dies : Vector Stack 8
  tasks : List Task
  chans : Tbl Chan
  images : List Image
  releases : List Release
  mem : Memory
  spm : Memory
  rom : Memory
  poison : List Nat
  spmPoison : List Nat
  dev : Dev
deriving DecidableEq, Repr

/-! ## Reset -/

def AReg.zero : AReg := ⟨0, Vector.replicate 6 0⟩
def Wit.zero : Wit := ⟨Vector.replicate 64 0, 0⟩
def zeroVec : Vec := Vector.replicate 64 0
def Ident.zero : Ident := ⟨0, 0, 0, 0, 0, 1, 0, 0, 0⟩

/-- A context that nothing has started (R50 gives the registers' values at a start; before one, log 1). -/
def Ctx.blank : Ctx where
  run := .free
  pc := 0
  s := Vector.replicate 32 0
  a := Vector.replicate 16 AReg.zero
  p := Vector.replicate 16 false
  b := Vector.replicate 8 0
  v := Vector.replicate 32 zeroVec
  m := Vector.replicate 8 0
  w := Vector.replicate 8 Wit.zero
  fmtOld := 0x200
  fmtNew := []
  seeds := Vector.replicate 8 0
  depth := 1
  wctr := 0
  wSpoilt := []
  badRegs := []
  k := Vector.replicate 32 none
  loops := []
  sc := 0
  lands := []
  chans := []
  closed := []
  regions := Vector.replicate 16 none
  ident := Ident.zero
  tbase := 0
  tcount := 0
  soff := 0
  scr := 0
  task := 0
  slotNo := 0
  saveAt := 0
  recAt := 0
  status := 0
  cause := 0
  epc := 0
  tval := 0
  vbase := 0
  ptbase := 0
  asid := 0
  late := []
  bara := []
  arriving := []
  preemptAt := none
  resume := false
  fillFrom := false
  cameFrom := none
  asked := none
  sendWait := none
  ibuf := []
  clock := []
  relClock := []
  readClock := []
  windows := []
  started := 0

def Tile.zero : Tile := ⟨Vector.replicate 64 zeroVec, false, false, false, false, 64, [], false⟩

def Core.blank : Core where
  port := 0
  quantum := 0
  limit := 256
  cyc0 := 0
  tiles := Vector.replicate 16 Tile.zero
  queue := []
  stores := []
  hist := []
  held := none
  waits := []
  sidelog := []
  wback := []
  wbSeen := 0
  breaks := []
  stepMask := 0
  profK := 0
  profTot := Vector.replicate 4 0
  profFrom := 0
  profSeen := 0
  lastMat := none

def Cluster.blank : Cluster := ⟨[], [], [], [], [], [], [], []⟩

/-- Sump registers at reset (R422): stack 0 keeps 128 raw sectors. -/
def Sump.reset (n : Nat) : Sump where
  en := false
  nom := 0
  rsv := if n = 0 then 128 else 0
  dir := 0
  bnc := 0
  ovf := 0
  hwm := 0
  lwm := 0
  list := 0
  tail := 0
  head := 0
  skip := 0
  oos := false
  inflating := false
  waiting := []
  told := []

/-- The binding of logical core l at reset: a choice within R453 (log 12). -/
def resetBinding (l : Nat) : Binding :=
  ⟨l / 12 * 13 + l % 12, l / 12 * 26 + 2 * (l % 12), l / 12 * 26 + 2 * (l % 12) + 1⟩

def Stack.reset (n : Nat) : Stack where
  tlb := []
  sump := Sump.reset n
  dirs := []
  bounce := []
  fenced := false
  binds := (List.range 48).map fun l => (l, resetBinding l)
  badSlabs := []
  badFes := []
  slabCount := []
  microcode := 0
  trace := ⟨0, 0, 0, 0, 0⟩

def Port.down : Port := ⟨false, true, 0, 0, 0, 0, none, 0, 0⟩

/-- The device-scope state at reset (R353, R432, R473). -/
def Dev.reset : Dev where
  no := 0
  supplied := 0
  powered := true
  boot := 1
  frozen := false
  featAck := Vector.replicate 4 0
  computeStarted := false
  quantum := 256
  preempt := 0x16E360
  audit := 0
  errlog := 0
  debug := 0
  watchdog := 10000
  thresh := Vector.replicate 16 0
  window := Vector.replicate 16 0
  tot := Vector.replicate 16 0
  wc := Vector.replicate 16 0
  wstart := Vector.replicate 16 0
  nextTask := 1
  irq := Vector.replicate 5 false
  ports := Vector.replicate 12 Port.down
  epoch := 0
  seen := []
  drains := []
  deadLinks := []
  delivered := []
  outreqs := []
  outseq := 0
  edges := Vector.replicate 10 ⟨false, 0, none⟩
  hostUp := Vector.replicate 4 false
  ethUp := Vector.replicate 5 (false, 0)
  temps := Vector.replicate 8 0
  thst := 0
  pwr := 0
  pcap := 3600
  clk := 1500
  clkLog := []
  owed := []
  variants := []
  started := []

def Frame.none : Frame := ⟨0, 0, 0, 0, false, false, false, 0, 0, 0, .going, false, Option.none, Option.none, false⟩

/-- A system core's context right after reset (R351, R354): supervisor mode at the boot ROM. -/
def Ctx.sysReset : Ctx := { Ctx.blank with run := .running, status := 1 }

/-- The other system cores' contexts: waiting in WFI (R480 stage 1). -/
def Ctx.sysWaiting : Ctx := { Ctx.sysReset with run := .waiting }

/-- Every system core but core 0 of stack 0. -/
def otherSys : List CtxId :=
  ((List.finRange 8).flatMap fun n => (List.finRange 4).map fun i => CtxId.sys n i).filter (· ≠ .sys 0 0)

/-- The machine right after reset (R351, R480): system core 0 of stack 0 is about to issue. -/
def State.reset : State where
  tick := 0
  now := 0
  serial := 0
  agenda := []
  input := {}
  frame := Frame.none
  who := .sys 0 0
  ctx := Ctx.sysReset
  parked := otherSys.map fun c => (c, Ctx.sysWaiting)
  cores := []
  clusters := []
  dies := Vector.ofFn fun n => Stack.reset n.val
  tasks := []
  chans := []
  images := []
  releases := []
  mem := []
  spm := []
  rom := []
  poison := []
  spmPoison := []
  dev := Dev.reset

end Sys2Proof.Machine
end

