-- ==== Sys2Proof/Machine/Num.lean ====
section
/-! DEFINITION. Number formats, exact values, the five roundings, conversions and the fixed functions built on them
(R12, R58–R85). A value is exact until it is rounded once. -/

namespace Sys2Proof.Machine

/-! ## Bit helpers (R12) -/

def rotl64 (x : Word) (n : Nat) : Word := (x <<< (n % 64)) ||| (x >>> ((64 - n % 64) % 64))

/-- Fold(S, w) of R12. -/
def foldSig (S : Word) (w : BitVec 32) : Word := rotl64 S 5 ^^^ w.zeroExtend 64

/-- Mix(x) of R12. -/
def mix (x : Word) : Word :=
  let x := x ^^^ (x >>> 31)
  let x := x * 0x9E6C63D0676A9A99
  let x := x ^^^ (x >>> 29)
  let x := x * 0xD6E8FEB86659FD93
  x ^^^ (x >>> 32)

/-- The 32-bit draw of SR and VRNG (R69, R82). -/
def draw (s n : Word) : BitVec 32 := (mix (s + mix n)).extractLsb' 32 32

/-- The value a SEEDF pushes (R83). -/
def forkSeed (t n : Word) : Word := mix (t ^^^ (n * 0x9E3779B97F4A7C15))

/-- Bits [lo + len − 1 : lo] of a number. -/
def bitsAt (x lo len : Nat) : Nat := x / 2 ^ lo % 2 ^ len

/-- The low n bytes of a number, little-endian (R9). -/
def bytesOf : Nat → Nat → List Byte
  | 0, _ => []
  | n + 1, x => BitVec.ofNat 8 x :: bytesOf n (x / 256)

/-- The number that little-endian bytes hold (R9). -/
def natOf : List Byte → Nat
  | [] => 0
  | b :: bs => b.toNat + 256 * natOf bs

/-- Fold of a list of 32-bit words from S (R84). -/
def foldWords (S : Word) (ws : List (BitVec 32)) : Word := ws.foldl foldSig S

/-- Little-endian 32-bit words of a byte range, the last one zero-extended (R85). -/
def wordsOf : Nat → List Byte → List (BitVec 32)
  | 0, _ => []
  | _ + 1, [] => []
  | n + 1, b :: bs => BitVec.ofNat 32 (natOf ((b :: bs).take 4)) :: wordsOf n ((b :: bs).drop 4)

/-- The signature of a byte range (R85). -/
def sigBytes (bs : List Byte) : Word := foldWords 0 (wordsOf (bs.length / 4 + 1) bs)

/-! ## Exact values -/

/-- An operand or an exact result: NaN, an infinity, or (−1)^neg × mant × 2^exp. -/
inductive Num where
  | nan
  | inf (neg : Bool)
  | fin (neg : Bool) (mant : Nat) (exp : Int)
deriving DecidableEq, Repr

/-- An integer as an exact value; zero is +0. -/
def numOfInt (i : Int) : Num := .fin (decide (i < 0)) i.natAbs 0

def Num.isNan : Num → Bool
  | .nan => true
  | _ => false

def Num.isFinite : Num → Bool
  | .fin _ _ _ => true
  | _ => false

def Num.isZero : Num → Bool
  | .fin _ 0 _ => true
  | _ => false

def Num.neg : Num → Num
  | .nan => .nan
  | .inf s => .inf (!s)
  | .fin s m e => .fin (!s) m e

/-- The signed integer m × 2^(e − base) of a finite value, for base ≤ e. -/
def scaled (neg : Bool) (m : Nat) (e base : Int) : Int :=
  let x : Int := (m * 2 ^ (e - base).toNat : Nat)
  if neg then -x else x

/-- The exact sum; an exact zero is −0 only when both addends are −0 (R73). -/
def numAdd : Num → Num → Num
  | .nan, _ => .nan
  | _, .nan => .nan
  | .inf s, .inf t => if s = t then .inf s else .nan
  | .inf s, .fin _ _ _ => .inf s
  | .fin _ _ _, .inf t => .inf t
  | .fin s m e, .fin t n f =>
    let base := min e f
    let x := scaled s m e base + scaled t n f base
    if x = 0 then .fin (m == 0 && n == 0 && s && t) 0 0 else .fin (decide (x < 0)) x.natAbs base

def numMul : Num → Num → Num
  | .nan, _ => .nan
  | _, .nan => .nan
  | .inf s, .inf t => .inf (s != t)
  | .inf s, .fin t n _ => if n = 0 then .nan else .inf (s != t)
  | .fin s m _, .inf t => if m = 0 then .nan else .inf (s != t)
  | .fin s m e, .fin t n f => .fin (s != t) (m * n) (e + f)

/-- a ÷ b to at least 256 leading bits, the last bit standing for what lies below (R73). -/
def numDiv : Num → Num → Num
  | .nan, _ => .nan
  | _, .nan => .nan
  | .inf _, .inf _ => .nan
  | .inf s, .fin t _ _ => .inf (s != t)
  | .fin s _ _, .inf t => .fin (s != t) 0 0
  | .fin s m e, .fin t n f =>
    if n = 0 then (if m = 0 then .nan else .inf (s != t))
    else if m = 0 then .fin (s != t) 0 0
    else
      let k := 256 + n.log2
      let q := m * 2 ^ k / n
      let r := m * 2 ^ k % n
      .fin (s != t) (2 * q + if r = 0 then 0 else 1) (e - f - k - 1)

/-- The integer square root, bit by bit from 2^k. -/
def isqrtFrom : Nat → Nat → Nat → Nat
  | 0, n, r => if (r + 1) * (r + 1) ≤ n then r + 1 else r
  | k + 1, n, r =>
    let c := r + 2 ^ (k + 1)
    if c * c ≤ n then isqrtFrom k n c else isqrtFrom k n r

def isqrt (n : Nat) : Nat := isqrtFrom (n.log2 / 2 + 1) n 0

/-- √x to at least 256 leading bits with a sticky last bit; √(−0) = −0, a negative gives NaN (R137, R207). -/
def numSqrt : Num → Num
  | .nan => .nan
  | .inf s => if s then .nan else .inf false
  | .fin s m e =>
    if m = 0 then .fin s 0 0
    else if s then .nan
    else
      let odd := e % 2 ≠ 0
      let m' := (if odd then 2 * m else m) * 2 ^ 512
      let e' := (if odd then e - 1 else e) - 512
      let r := isqrt m'
      .fin false (2 * r + if r * r = m' then 0 else 1) (e' / 2 - 1)

/-! ## Correctly rounded 2^x and log2 x: 320-bit fixed point (log 24) -/

def fixBits : Nat := 320

/-- Σ z^(2k+1)/(2k+1) in fixed point: artanh z for 0 ≤ z ≤ 1/3. -/
def artanhFrom : Nat → Nat → Nat → Nat → Nat → Nat
  | 0, _, _, _, acc => acc
  | fuel + 1, k, pow, z2, acc =>
    artanhFrom fuel (k + 2) (pow * z2 / 2 ^ fixBits) z2 (acc + pow / k)

def artanhFix (z : Nat) : Nat := artanhFrom 120 1 z (z * z / 2 ^ fixBits) 0

/-- ln 2 in fixed point: 2 artanh(1/3). -/
def ln2Fix : Nat := 2 * artanhFix (2 ^ fixBits / 3)

def expFrom : Nat → Nat → Nat → Nat → Nat → Nat
  | 0, _, _, _, acc => acc
  | fuel + 1, k, term, y, acc =>
    let t := term * y / 2 ^ fixBits / k
    expFrom fuel (k + 1) t y (acc + t)

/-- e^y in fixed point for 0 ≤ y < 1. -/
def expFix (y : Nat) : Nat := expFrom 90 1 (2 ^ fixBits) y (2 ^ fixBits)

/-- 2^x for the finite x = (−1)^s m 2^e. -/
def exp2Fin (s : Bool) (m : Nat) (e : Int) : Num :=
  if m = 0 then .fin false 1 0
  else if 8 < (m.log2 : Int) + e then (if s then .fin false 1 (-2000) else .fin false 1 2000)
  else
    -- x in units of 2^−fixBits, exact since e ≥ −149
    let x : Int := scaled s m e (-(fixBits : Int))
    let n : Int := x / (2 ^ fixBits : Nat)
    let f : Nat := (x % (2 ^ fixBits : Nat)).toNat
    if f = 0 then .fin false 1 n
    else .fin false (2 * expFix (f * ln2Fix / 2 ^ fixBits) + 1) (n - fixBits - 1)

/-- 2^x by the table of R207. -/
def numExp2 : Num → Num
  | .nan => .nan
  | .inf s => if s then .fin false 0 0 else .inf false
  | .fin s m e => exp2Fin s m e

/-- log2 of the positive m 2^e. -/
def log2Fin (m : Nat) (e : Int) : Num :=
  let L := m.log2
  let E : Int := L + e
  if m = 2 ^ L then .fin (decide (E < 0)) E.natAbs 0
  else
    let z := (m - 2 ^ L) * 2 ^ fixBits / (m + 2 ^ L)
    let fr := 2 * artanhFix z * 2 ^ fixBits / ln2Fix
    if 0 ≤ E then .fin false (2 * (E.natAbs * 2 ^ fixBits + fr) + 1) (-(fixBits : Int) - 1)
    else .fin true (2 * (E.natAbs * 2 ^ fixBits - fr) - 1) (-(fixBits : Int) - 1)

/-- log2 x by the table of R207. -/
def numLog2 : Num → Num
  | .nan => .nan
  | .inf s => if s then .nan else .inf false
  | .fin s m e => if m = 0 then .inf true else if s then .nan else log2Fin m e

/-! ## Floating-point formats (R58–R60) -/

inductive FFmt where
  | f32 | f16 | bf16 | e4m3 | e5m2 | e2m1
deriving DecidableEq, Repr

def FFmt.ebits : FFmt → Nat
  | .f32 => 8 | .f16 => 5 | .bf16 => 8 | .e4m3 => 4 | .e5m2 => 5 | .e2m1 => 2

def FFmt.mbits : FFmt → Nat
  | .f32 => 23 | .f16 => 10 | .bf16 => 7 | .e4m3 => 3 | .e5m2 => 2 | .e2m1 => 1

def FFmt.bias : FFmt → Int
  | .f32 => 127 | .f16 => 15 | .bf16 => 127 | .e4m3 => 7 | .e5m2 => 15 | .e2m1 => 1

def FFmt.width (f : FFmt) : Nat := 1 + f.ebits + f.mbits

/-- Exponent of the subnormal step. -/
def FFmt.emin (f : FFmt) : Int := 1 - f.bias - f.mbits

/-- Largest finite magnitude code (R60). -/
def FFmt.maxCode : FFmt → Nat
  | .f32 => 0x7F7FFFFF | .f16 => 0x7BFF | .bf16 => 0x7F7F | .e4m3 => 0x7E | .e5m2 => 0x7B | .e2m1 => 7

/-- Canonical NaN (R58); E2M1 has none and gives +0 (R70). -/
def FFmt.canon : FFmt → Nat
  | .f32 => 0x7FC00000 | .f16 => 0x7E00 | .bf16 => 0x7FC0 | .e4m3 => 0x7F | .e5m2 => 0x7E | .e2m1 => 0

def FFmt.infCode (f : FFmt) : Nat := (2 ^ f.ebits - 1) * 2 ^ f.mbits

/-- Whether a magnitude code is an infinity or a NaN (R58, R59). -/
def specialCode (f : FFmt) (mag : Nat) : Option Num :=
  match f with
  | .e2m1 => none
  | .e4m3 => if mag = 0x7F then some .nan else none
  | _ => if mag < f.infCode then none else if mag = f.infCode then some (.inf false) else some .nan

/-- The value of a code (R59). -/
def decodeF (f : FFmt) (x : Nat) : Num :=
  let mag := x % 2 ^ (f.ebits + f.mbits)
  let s := bitsAt x (f.ebits + f.mbits) 1 == 1
  match specialCode f mag with
  | some .nan => .nan
  | some _ => .inf s
  | none =>
    let e := mag / 2 ^ f.mbits
    let m := mag % 2 ^ f.mbits
    if e = 0 then .fin s m f.emin else .fin s (2 ^ f.mbits + m) ((e : Int) - f.bias - f.mbits)

/-! ## Rounding (R67–R69) -/

inductive RMode where
  | rne | rtz | rup | rdn | sr
deriving DecidableEq, Repr

/-- The rounding field's code; 5–7 are reserved (R67). -/
def rmodeOf (c : Nat) : Option RMode :=
  match c with
  | 0 => some .rne | 1 => some .rtz | 2 => some .rup | 3 => some .rdn | 4 => some .sr | _ => none

/-- Whether the magnitude goes up: rem/2^sh lies above the lower magnitude, whose lowest bit is odd. u is the draw. -/
def roundsUp (mode : RMode) (u : Nat) (neg odd : Bool) (rem sh : Nat) : Bool :=
  if rem = 0 then false
  else match mode with
    | .rne => decide (2 ^ sh < 2 * rem) || (decide (2 * rem = 2 ^ sh) && odd)
    | .rtz => false
    | .rup => !neg
    | .rdn => neg
    | .sr => if neg then !decide (u * 2 ^ sh < (2 ^ sh - rem) * 2 ^ 32) else decide (u * 2 ^ sh < rem * 2 ^ 32)

/-- m 2^e rounded to a multiple of 2^q: the multiplier. -/
def roundAt (mode : RMode) (u : Nat) (neg : Bool) (m : Nat) (e q : Int) : Nat :=
  if q ≤ e then m * 2 ^ (e - q).toNat
  else
    let sh := (q - e).toNat
    let lo := m / 2 ^ sh
    if roundsUp mode u neg (lo % 2 == 1) (m % 2 ^ sh) sh then lo + 1 else lo

/-- Whether the mode rounds a value beyond the range back to its limit (R68 step 3). -/
def towardRange (mode : RMode) (neg : Bool) : Bool :=
  match mode with
  | .rtz => true
  | .rup => neg
  | .rdn => !neg
  | _ => false

/-- A magnitude rounded to a format: its code, or none on overflow (R68). -/
def roundMag (f : FFmt) (mode : RMode) (u : Nat) (neg : Bool) (m : Nat) (e : Int) : Option Nat :=
  if m = 0 then some 0
  else
    let q : Int := max ((m.log2 : Int) + e - f.mbits) f.emin
    let r := roundAt mode u neg m e q
    -- magnitude codes rise with the value, one for each multiple of the step
    let code := ((q - f.emin).toNat) * 2 ^ f.mbits + r
    if code ≤ f.maxCode then some code
    else if towardRange mode neg then some f.maxCode else none

def signBit (f : FFmt) (neg : Bool) : Nat := if neg then 2 ^ (f.ebits + f.mbits) else 0

/-- Round(x, f, mode) with the overflow result of R68: a code and whether it overflowed. -/
def roundF (f : FFmt) (mode : RMode) (u : Nat) : Num → Nat × Bool
  | .nan => (f.canon, false)
  | .inf s => (signBit f s + f.infCode, false)
  | .fin s m e =>
    match roundMag f mode u s m e with
    | some c => (signBit f s + c, false)
    | none => (signBit f s + f.infCode, true)

/-- Round to an integer under a mode (R70, R71): sign and magnitude. -/
def roundInt (mode : RMode) (u : Nat) (neg : Bool) (m : Nat) (e : Int) : Int :=
  let r : Int := roundAt mode u neg m e 0
  if neg then -r else r

/-! ## Types (R63–R66) -/

inductive Ty where
  | int (w : Nat) (signed : Bool)
  | flt (f : FFmt)
  | t2
  | e8m0
deriving DecidableEq, Repr

/-- A 4-bit type code (R64). -/
def tyOf (c : Nat) : Option Ty :=
  match c with
  | 0 => some (.int 8 true) | 1 => some (.int 8 false) | 2 => some (.int 16 true) | 3 => some (.int 16 false)
  | 4 => some (.int 32 true) | 5 => some (.int 32 false) | 6 => some (.flt .f16) | 7 => some (.flt .bf16)
  | 8 => some (.flt .f32) | 9 => some (.flt .e4m3) | 10 => some (.flt .e5m2) | 11 => some (.flt .e2m1)
  | 12 => some .t2 | 13 => some .e8m0 | _ => none

def Ty.width : Ty → Nat
  | .int w _ => w
  | .flt f => f.width
  | .t2 => 2
  | .e8m0 => 8

/-- A w-bit code read as an integer. -/
def intOf (w : Nat) (signed : Bool) (x : Nat) : Int :=
  let x := x % 2 ^ w
  if signed && decide (2 ^ (w - 1) ≤ x) then (x : Int) - (2 ^ w : Nat) else x

/-- The value of an element code, and whether it is an invalid ternary code (R59, R61–R63). -/
def readTy (t : Ty) (x : Nat) : Num × Bool :=
  match t with
  | .int w s => (numOfInt (intOf w s x), false)
  | .flt f => (decodeF f x, false)
  | .t2 => match x % 4 with
    | 1 => (.fin false 1 0, false)
    | 3 => (.fin true 1 0, false)
    | 2 => (.fin false 0 0, true)
    | _ => (.fin false 0 0, false)
  | .e8m0 => if x % 256 = 255 then (.nan, false) else (.fin false 1 ((x % 256 : Nat) - 127 : Int), false)

def intMin (w : Nat) (signed : Bool) : Int := if signed then -(2 ^ (w - 1) : Nat) else 0
def intMax (w : Nat) (signed : Bool) : Int := if signed then (2 ^ (w - 1) : Nat) - 1 else (2 ^ w : Nat) - 1

/-- Sat(x, type) for an integer type (R12). -/
def satInt (w : Nat) (signed : Bool) (x : Int) : Int := max (intMin w signed) (min (intMax w signed) x)

/-- The low w bits of an integer. -/
def wrapInt (w : Nat) (x : Int) : Nat := (x % (2 ^ w : Nat)).toNat

/-- A code and the event classes it counts (R72). -/
abbrev Coded := Nat × List Nat

def convFlt (f : FFmt) (mode : RMode) (u : Nat) (sat : Bool) (x : Num) : Coded :=
  let ovr (s finite : Bool) : Coded :=
    match f with
    | .e2m1 => (signBit f s + f.maxCode, [4])
    | .e4m3 => if sat then (signBit f s + f.maxCode, [4]) else (f.canon, [2])
    | _ => if sat then (signBit f s + f.maxCode, [4])
           else (signBit f s + f.infCode, if finite then [0] else [])
  match x with
  | .nan => (f.canon, if f = .e2m1 then [4] else [])
  | .inf s => ovr s false
  | .fin s m e =>
    match roundMag f mode u s m e with
    | some c => (signBit f s + c, [])
    | none => ovr s true

def clampInt (w : Nat) (signed : Bool) (x : Int) : Coded :=
  let y := satInt w signed x
  (wrapInt w y, if y = x then [] else [4])

/-- A floating-point (or any clamping) source to an integer type (R70). -/
def convInt (w : Nat) (signed : Bool) (mode : RMode) (u : Nat) (x : Num) : Coded :=
  match x with
  | .nan => (0, [4])
  | .inf s => (wrapInt w (if s then intMin w signed else intMax w signed), [4])
  | .fin s m e => clampInt w signed (roundInt mode u s m e)

def convT2 (mode : RMode) (u : Nat) (x : Num) : Coded :=
  match x with
  | .nan => (0, [4])
  | .inf s => (if s then 3 else 1, [4])
  | .fin s m e =>
    let r := roundInt mode u s m e
    let y := max (-1) (min 1 r)
    (wrapInt 2 y, if y = r then [] else [4])

/-- An E8M0 destination: |x| on the grid of powers of two; the RNE tie goes to the even code (R70). -/
def convE8 (mode : RMode) (u : Nat) (sat : Bool) (x : Num) : Coded :=
  let ovr : Coded := if sat then (0xFE, [4]) else (0xFF, [2])
  match x with
  | .nan => (0xFF, [])
  | .inf _ => ovr
  | .fin _ m e =>
    if m = 0 then (0, [4])
    else
      let E : Int := (m.log2 : Int) + e
      if E < -127 then (0, [4])
      else
        let lo := m / 2 ^ m.log2
        let up := roundsUp mode u false (decide ((E + 127) % 2 = 1)) (m % 2 ^ m.log2) m.log2
        let code := (E + 127).toNat + (if up then 1 else 0) + (lo - 1)
        if code ≤ 0xFE then (code, [])
        else if towardRange mode false then (0xFE, []) else ovr

/-- A conversion between types (R70–R72). -/
def convert (sty dty : Ty) (mode : RMode) (u : Nat) (sat : Bool) (x : Nat) : Coded :=
  let (v, bad) := readTy sty x
  let five := if bad then [5] else []
  let r : Coded :=
    match dty with
    | .flt f => convFlt f mode u sat v
    | .t2 => convT2 mode u v
    | .e8m0 => convE8 mode u sat v
    | .int w s =>
      match sty, v with
      | .flt _, _ => convInt w s mode u v
      | _, .fin n m e =>
        let i := roundInt mode u n m e
        if sat then clampInt w s i else (wrapInt w i, [])
      | _, _ => convInt w s mode u v
  (r.1, five ++ r.2)

/-! ## Arithmetic on codes, rounded once by RNE, with the events of R73 -/

/-- A result with its events, given whether all operands were finite and whether any was NaN. -/
def finish (f : FFmt) (allFinite anyNan : Bool) (x : Num) : Coded :=
  match x with
  | .nan => (f.canon, if anyNan then [] else [2])
  | x =>
    let (c, o) := roundF f .rne 0 x
    (c, if allFinite && (o || !x.isFinite) then [0] else [])

def fop2 (f : FFmt) (op : Num → Num → Num) (a b : Nat) : Coded :=
  let x := decodeF f a
  let y := decodeF f b
  finish f (x.isFinite && y.isFinite) (x.isNan || y.isNan) (op x y)

def fop1 (f : FFmt) (op : Num → Num) (a : Nat) : Coded :=
  let x := decodeF f a
  finish f x.isFinite x.isNan (op x)

/-- a × b + c, or c − a × b when minus is set (R205). -/
def ffma (f : FFmt) (minus : Bool) (a b c : Nat) : Coded :=
  let x := decodeF f a
  let y := decodeF f b
  let z := decodeF f c
  let p := numMul x y
  finish f (x.isFinite && y.isFinite && z.isFinite) (x.isNan || y.isNan || z.isNan)
    (numAdd (if minus then p.neg else p) z)

/-- Numeric order of two values that are not NaN; the zeros are equal. -/
def numLt (a b : Num) : Bool :=
  match a, b with
  | .nan, _ => false
  | _, .nan => false
  | .inf s, .inf t => s && !t
  | .inf s, .fin _ _ _ => s
  | .fin _ _ _, .inf t => !t
  | .fin s m e, .fin t n f =>
    let base := min e f
    decide (scaled s m e base < scaled t n f base)

def numEq (a b : Num) : Bool := !a.isNan && !b.isNan && !numLt a b && !numLt b a

/-- The comparisons of R128. -/
def fcond (cond : Nat) (a b : Num) : Bool :=
  let un := a.isNan || b.isNan
  match cond with
  | 0 => numEq a b
  | 1 => !numEq a b
  | 2 => numLt a b
  | 3 => un || numLt a b
  | 4 => !un && !numLt b a
  | 5 => un || !numLt b a
  | 6 => numLt b a
  | _ => un

/-- The total order in which −0 lies below +0 (R137, R205, R224): a key for codes that are not NaN. -/
def orderKey (f : FFmt) (x : Nat) : Int :=
  let mag : Int := (x % 2 ^ (f.ebits + f.mbits) : Nat)
  if bitsAt x (f.ebits + f.mbits) 1 = 1 then -mag - 1 else mag

/-- fmin and fmax: −0 below +0; NaN when either operand is (R137, R205). -/
def fminmax (f : FFmt) (larger : Bool) (a b : Nat) : Nat :=
  if (decodeF f a).isNan || (decodeF f b).isNan then f.canon
  else if decide (orderKey f a < orderKey f b) == larger then b else a

/-- The reduction tree of R80 over a list, level by level; fuel bounds the levels. -/
def treeLevel {α : Type} (op : α → α → α) : List α → List α
  | a :: b :: rest => op a b :: treeLevel op rest
  | l => l

def treeFold {α : Type} (op : α → α → α) : Nat → List α → List α
  | 0, l => l
  | n + 1, l => treeFold op n (treeLevel op l)

def treeReduce {α : Type} (op : α → α → α) (d : α) (l : List α) : α := (treeFold op (l.length.log2 + 1) l).headD d

end Sys2Proof.Machine
end

