-- ==== Sys2Proof/Machine/Ops.lean ====
section
/-! DEFINITION. The named operations over memory, tables, contexts and registers: reading and landing results
(R38–R57, R103–R104), stalls, records, traps and the return from one (R354, R359–R362, R469, R484). -/

namespace Sys2Proof.Machine

/-- What a meaning answers. -/
abbrev Res := Host.Outcome State Fault Refusal

/-! ## Tables and memory -/

def Tbl.get? {α : Type} : Tbl α → Nat → Option α
  | [], _ => none
  | (k, x) :: rest, i => if k = i then some x else Tbl.get? rest i

def Tbl.set {α : Type} : Tbl α → Nat → α → Tbl α
  | [], i, y => [(i, y)]
  | (k, x) :: rest, i, y =>
    if i < k then (i, y) :: (k, x) :: rest
    else if i = k then (i, y) :: rest
    else (k, x) :: Tbl.set rest i y

def Tbl.erase {α : Type} (t : Tbl α) (i : Nat) : Tbl α := t.filter fun e => e.1 ≠ i

/-- What a byte that nothing has written reads as: 0 for nominal pages (R417, R422) and reserved scratchpad (R50),
a choice for the rest (log 2). -/
def unwritten : Byte := 0

def Memory.read : Memory → Nat → Byte
  | [], _ => unwritten
  | (k, b) :: rest, a => if k = a then b else Memory.read rest a

def Memory.write : Memory → Nat → Byte → Memory
  | [], a, b => if b = unwritten then [] else [(a, b)]
  | (k, c) :: rest, a, b =>
    if a < k then (if b = unwritten then (k, c) :: rest else (a, b) :: (k, c) :: rest)
    else if a = k then (if b = unwritten then rest else (a, b) :: rest)
    else (k, c) :: Memory.write rest a b

/-- Addresses rise strictly from lo and no byte is what an unlisted address reads as. -/
def Memory.wfFrom (lo : Nat) : Memory → Bool
  | [] => true
  | (k, b) :: rest => decide (lo ≤ k) && b != unwritten && Memory.wfFrom (k + 1) rest

def Memory.wf (m : Memory) : Bool := Memory.wfFrom 0 m

/-- n bytes from a upward. -/
def Memory.readBytes (m : Memory) : Nat → Nat → List Byte
  | _, 0 => []
  | a, n + 1 => m.read a :: Memory.readBytes m (a + 1) n

def Memory.readNat (m : Memory) (a n : Nat) : Nat := natOf (m.readBytes a n)

def Memory.writeBytes : Memory → Nat → List Byte → Memory
  | m, _, [] => m
  | m, a, b :: bs => Memory.writeBytes (m.write a b) (a + 1) bs

def Memory.writeCells (m : Memory) (cs : List (Nat × Byte)) : Memory := cs.foldl (fun m c => m.write c.1 c.2) m

/-! ## Agents -/

end Sys2Proof.Machine

namespace Sys2Proof

def CtxId.isSys : CtxId → Bool
  | .user _ _ => false
  | _ => true

/-- A number for each context, used by the happens-before clocks. -/
def CtxId.num : CtxId → Nat
  | .user k x => 4 * k.val + x.val
  | .ctl g => 1536 + g.val
  | .sys n i => 1632 + 4 * n.val + i.val

/-- Global logical core of a compute context; past the compute cores for the others. -/
def CtxId.coreNo : CtxId → Nat
  | .user k _ => k.val
  | .ctl g => 384 + g.val
  | .sys n i => 480 + 4 * n.val + i.val

/-- Global logical cluster; a system core counts as in the first cluster of its stack. -/
def CtxId.cluster : CtxId → Nat
  | .user k _ => k.val / 4
  | .ctl g => g.val
  | .sys n _ => 12 * n.val

def CtxId.stack (c : CtxId) : Fin 8 :=
  match c with
  | .sys n _ => n
  | c => ⟨c.cluster / 12 % 8, Nat.mod_lt _ (by decide)⟩

/-- [1:0] core, [3:2] context (R270). -/
def CtxId.who : CtxId → Nat
  | .user k x => k.val % 4 + 4 * x.val
  | _ => 0

end Sys2Proof

namespace Sys2Proof.Machine

def findCtx : List (CtxId × Ctx) → CtxId → Ctx
  | [], _ => Ctx.blank
  | (k, x) :: rest, c => if k = c then x else findCtx rest c

def putCtx : List (CtxId × Ctx) → CtxId → Ctx → List (CtxId × Ctx)
  | [], c, y => [(c, y)]
  | (k, x) :: rest, c, y => if k = c then (c, y) :: rest else (k, x) :: putCtx rest c y

def getCtx (s : State) (c : CtxId) : Ctx := if c = s.who then s.ctx else findCtx s.parked c

def setCtx (s : State) (c : CtxId) (x : Ctx) : State :=
  if c = s.who then { s with ctx := x } else { s with parked := putCtx s.parked c x }

def modCtx (s : State) (c : CtxId) (f : Ctx → Ctx) : State := setCtx s c (f (getCtx s c))

/-- Every context that State lists. -/
def allCtx (s : State) : List (CtxId × Ctx) := (s.who, s.ctx) :: s.parked.filter fun e => e.1 ≠ s.who

/-- Puts another context on the issue port. -/
def switchTo (s : State) (c : CtxId) : State :=
  if c = s.who then s
  else { s with who := c, ctx := findCtx s.parked c,
                parked := (putCtx s.parked s.who s.ctx).filter fun e => e.1 ≠ c }

def coreOf (s : State) (k : Nat) : Core := (Tbl.get? s.cores k).getD Core.blank
def setCore (s : State) (k : Nat) (x : Core) : State := { s with cores := Tbl.set s.cores k x }
def modCore (s : State) (k : Nat) (f : Core → Core) : State := setCore s k (f (coreOf s k))

def clusterOf (s : State) (g : Nat) : Cluster := (Tbl.get? s.clusters g).getD Cluster.blank
def setCluster (s : State) (g : Nat) (x : Cluster) : State := { s with clusters := Tbl.set s.clusters g x }
def modCluster (s : State) (g : Nat) (f : Cluster → Cluster) : State := setCluster s g (f (clusterOf s g))

def stackOf (s : State) (n : Fin 8) : Stack := s.dies[n.val]
def setStack (s : State) (n : Fin 8) (x : Stack) : State := { s with dies := s.dies.set n.val x }
def modStack (s : State) (n : Fin 8) (f : Stack → Stack) : State := setStack s n (f (stackOf s n))

def taskOf (s : State) (id : Nat) : Option Task := s.tasks.find? fun t => t.id = id
def modTask (s : State) (id : Nat) (f : Task → Task) : State :=
  { s with tasks := s.tasks.map fun t => if t.id = id then f t else t }

def modDev (s : State) (f : Dev → Dev) : State := { s with dev := f s.dev }

/-- A fresh number for an access, an operation or a channel (MODEL). -/
def fresh (s : State) : Nat := s.serial + 1
def bump (s : State) : State := { s with serial := s.serial + 1 }

/-! ## Registers: reading (R38–R39, R52–R53, R103) -/

/-- The class codes of R484. -/
def RegName.cls : RegName → Nat
  | .s _ => 0 | .a _ => 1 | .p _ => 2 | .v _ => 3 | .m _ => 4 | .w _ => 5 | .b _ => 8

def RegName.no : RegName → Nat
  | .s r => r.val | .a r => r.val | .p r => r.val | .v r => r.val | .m r => r.val | .w r => r.val | .b r => r.val

/-- The registers that read a constant and ignore writes (R38, R39). -/
def RegName.wired : RegName → Bool
  | .s r => r == 0
  | .p r => r == 0
  | .m r => r == 0
  | _ => false

/-- The value SYS_TVAL holds for a register (R484). -/
def regTval (r : RegName) : Word := BitVec.ofNat 64 (r.cls * 256 + r.no)

/-- An earlier bundle's write of r is still inside its bound (R52, R54). -/
def exposed (s : State) (r : RegName) : Bool :=
  s.ctx.lands.any fun l => l.reg == r && decide (l.issued < s.ctx.sc) && decide (s.ctx.sc < l.due)

/-- r awaits a value after its bound (R53). -/
def interlocked (s : State) (r : RegName) : Bool :=
  s.ctx.lands.any fun l => l.reg == r && decide (l.issued < s.ctx.sc) && decide (l.due ≤ s.ctx.sc) && !l.ready

/-- The free value that a reading of r in this slot finds (R5, R52). -/
def freeAt (s : State) (r : RegName) (lane : Nat) : Word :=
  Config.free s.tick ((((s.who.num * 8 + s.frame.slot) * 16 + r.cls) * 32 + r.no) * 128 + lane)

def freeVec (s : State) (r : RegName) : Vec := Vector.ofFn fun i => (freeAt s r i.val).truncate 32

/-- A free witness; the reserved bits of its tag read 0 (R221). -/
def freeWit (s : State) (r : RegName) : Wit :=
  ⟨Vector.ofFn fun i => (freeAt s r i.val).truncate 16, (freeAt s r 64).truncate 32 &&& 0x0FFFFFFF⟩

/-- What an operation reads of an s register. A free value that it draws acts in it as any other value of the width: an address made from it may
trap, a result of it may count events (DESIGN CHOICE: R5 says that the value itself never traps, and not what a consumer does with it;
log 93). The same holds of the other files below. -/
def rdS (s : State) (r : SR) : Word :=
  if r = 0 then 0 else if exposed s (.s r) then freeAt s (.s r) 0 else s.ctx.s[r.val]

def rdBase (s : State) (r : AR) : Word :=
  if exposed s (.a r) then freeAt s (.a r) 0 else s.ctx.a[r.val].base

def rdStride (s : State) (r : AR) (l : Fin 6) : BitVec 15 :=
  if exposed s (.a r) then (freeAt s (.a r) (l.val + 1)).truncate 15 else s.ctx.a[r.val].strides[l.val]

def rdP (s : State) (r : PR) : Bool :=
  if r = 0 then true else if exposed s (.p r) then (freeAt s (.p r) 0).getLsbD 0 else s.ctx.p[r.val]

def rdB (s : State) (r : BR) : Word := if exposed s (.b r) then freeAt s (.b r) 0 else s.ctx.b[r.val]

/-- Whether word j of what lies in a part that a copy writes and whose end the context has not observed (R280). -/
def inWindow (x : Ctx) (what j : Nat) : Bool :=
  x.windows.any fun w => w.what == what && decide (w.lo ≤ j) && decide (j < w.lo + w.n)

/-- A vector with the unobserved words of register r unpredictable (R280). -/
def veiled (s : State) (x : Ctx) (r : VR) (v : Vec) : Vec :=
  if x.windows.isEmpty then v
  else Vector.ofFn fun i => if inWindow x r.val i.val then (freeAt s (.v r) i.val).truncate 32 else v[i]

def rdV (s : State) (r : VR) : Vec :=
  if exposed s (.v r) then freeVec s (.v r) else veiled s s.ctx r s.ctx.v[r.val]

def rdM (s : State) (r : MR) : Word :=
  if r = 0 then BitVec.allOnes 64 else if exposed s (.m r) then freeAt s (.m r) 0 else s.ctx.m[r.val]

def rdW (s : State) (r : WR) : Wit := if exposed s (.w r) then freeWit s (.w r) else s.ctx.w[r.val]

/-! ## Registers: landing results (R52–R54, R104) -/

/-- A landing of this bundle already names r (R104). -/
def written (s : State) (r : RegName) : Bool :=
  s.ctx.lands.any fun l => l.reg == r && l.issued == s.ctx.sc

/-- Land(reg, val, L), ready or interlocked; a wired register takes nothing (R39, R52, R54, R104). -/
def landWith (reg : RegName) (val : RegVal) (L : Nat) (ready : Bool) (id : Nat) (s : State) : State :=
  if reg.wired then s
  else
    let c := s.ctx.sc
    let meets := exposed s reg || written s reg
    let due := s.ctx.lands.foldl (fun d l => if l.reg == reg && meets then max d l.due else d) (c + L)
    let lands := if meets then s.ctx.lands.map (fun l => if l.reg == reg then { l with spoiled := true } else l)
                 else s.ctx.lands
    { s with
      ctx := { s.ctx with lands := lands ++ [⟨reg, val, c, due, ready, meets, false, id, []⟩] }
      frame := { s.frame with dup := if written s reg then some (reg, s.frame.slot) else s.frame.dup } }

def land (reg : RegName) (val : RegVal) (L : Nat) (s : State) : State := landWith reg val L true 0 s

def setStride (a : AReg) (l : Fin 6) (x : BitVec 15) : AReg := { a with strides := a.strides.set l.val x }

/-- Writes a landed value into the register files. -/
def applyVal (x : Ctx) (reg : RegName) (val : RegVal) : Ctx :=
  match reg, val with
  | .s r, .word y => if r = 0 then x else { x with s := x.s.set r.val y }
  | .a r, .base y => { x with a := x.a.set r.val { x.a[r.val] with base := y } }
  | .a r, .stride l y => { x with a := x.a.set r.val (setStride x.a[r.val] l y) }
  | .p r, .flag y => if r = 0 then x else { x with p := x.p.set r.val y }
  | .b r, .word y => { x with b := x.b.set r.val y }
  | .v r, .vec y => { x with v := x.v.set r.val y }
  | .m r, .word y => if r = 0 then x else { x with m := x.m.set r.val y }
  | .w r, .wit y => { x with w := x.w.set r.val y, wSpoilt := x.wSpoilt.filter (· ≠ r) }
  | _, _ => x

/-- The unpredictable contents of a register (R54, R104); an address register's base and strides alike. -/
def spoil (s : State) (x : Ctx) (reg : RegName) : Ctx :=
  match reg with
  | .s _ | .b _ | .m _ => applyVal x reg (.word (freeAt s reg 100))
  | .p _ => applyVal x reg (.flag ((freeAt s reg 100).getLsbD 0))
  | .v _ => applyVal x reg (.vec (freeVec s reg))
  | .w r =>
    let y := applyVal x reg (.wit (freeWit s reg))
    { y with wSpoilt := y.wSpoilt ++ [r] }
  | .a r =>
    let y : AReg := ⟨freeAt s reg 100, Vector.ofFn fun i => (freeAt s reg (101 + i.val)).truncate 15⟩
    { x with a := x.a.set r.val y }

/-- The larger of each agent's two counts (R295). -/
def clockJoin (a b : List (Nat × Nat)) : List (Nat × Nat) :=
  b.foldl (fun k e => if (Tbl.get? k e.1).getD 0 < e.2 then Tbl.set k e.1 e.2 else k) a

/-- The context observes the copies whose windows satisfy f: what it wrote meanwhile stays unpredictable (R280). -/
def observeWindows (f : Window → Bool) (s : State) : State :=
  let x := s.ctx
  let (done, rest) := x.windows.partition fun w => w.ended && f w
  let lost : Ctx := { x with windows := done.filter (·.spoilt) }
  { s with ctx := { x with windows := rest
                           v := Vector.ofFn fun r => veiled s lost r x.v[r] } }

/-- The context writes a register that a copy writes: those words are unpredictable (R280). -/
def markWindows (x : Ctx) (reg : RegName) : Ctx :=
  match reg with
  | .v r => { x with windows := x.windows.map fun w => if w.what = r.val then { w with spoilt := true } else w }
  | _ => x

/-- One result reaches its register; one that a stop has landed before only ends its bound, unless a write has met it. -/
def applyLanding (s : State) (x : Ctx) (l : Landing) : Ctx :=
  if l.shown && !l.spoiled then x
  else
    let x := markWindows { x with clock := clockJoin x.clock l.clock, badRegs := x.badRegs.filter (· ≠ l.reg) } l.reg
    if l.spoiled then spoil s x l.reg else applyVal x l.reg l.val

/-- Lands every result of the context that has arrived and whose bound has elapsed (R52). -/
def settle (s : State) (x : Ctx) : Ctx :=
  let (now, later) := x.lands.partition fun l => l.ready && decide (l.due ≤ x.sc)
  { now.foldl (applyLanding s) x with lands := later }

/-- The claims of a context: landings that wait for a channel element (R286). -/
def claimIds (s : State) (c : CtxId) : List Nat :=
  s.chans.flatMap fun e => e.2.claims.filterMap fun q => if q.ctx = c then some q.id else none

/-- The result's access or claim has not been performed. -/
def valueAwaited (s : State) (c : CtxId) (l : Landing) : Bool :=
  (coreOf s c.coreNo).waits.any (fun w => w.ctx == c && w.id == l.id) || (claimIds s c).contains l.id

/-- A precise stop or drain of context c lands every result whose value has been found. Their bounds stay: no stop
shortens one (R29, R55). -/
def drain (s : State) (c : CtxId) (x : Ctx) : Ctx :=
  let lands := x.lands.map fun l => if valueAwaited s c l then l else { l with ready := true }
  { (lands.filter (·.ready)).foldl (applyLanding s) x with
    lands := (lands.filter fun l => !l.ready || decide (x.sc < l.due)).map fun l => { l with shown := l.ready } }

/-- Every open FMTW shadow closes (R158). -/
def closeShadows (x : Ctx) : Ctx := { x with fmtOld := (x.fmtNew.getLast?.map (·.2)).getD x.fmtOld, fmtNew := [] }

/-! ## Stalls -/

/-- What a slot waits for is judged on the state before its bundle (R103): past that, the bundle does not wait. -/
def awaits (s : State) (b : Bool) : Bool := b && !s.frame.cleared

/-- The bundle stalls before issue (R28). -/
def stall (s : State) : Res :=
  .next { s with frame := { s.frame with out := .stalled }, ctx := { s.ctx with run := .stalled } }

/-! ## Replays of an audit (R443)

MODEL. A replay run stands among the tasks under a number that no identifier takes: the original's + 2^32, its vote's + 2^33. -/

def replayId (id k : Nat) : Nat := id + k * 2 ^ 32

def isReplay (id : Nat) : Bool := decide (2 ^ 32 ≤ id)

/-- What the auditor has retained of a line, for the replay of a task (R441, R443). -/
def retainedLine (s : State) (id line : Nat) : Option (List Byte) := (taskOf s (id % 2 ^ 32)).bind fun t => Tbl.get? t.retained line

/-! ## Records (R270, R360) -/

def postRecord (s : State) (g : Nat) (r : Record) : State :=
  modCluster s g fun c => { c with posting := c.posting ++ [r] }

/-- A kind-3 record of a context that has left its task, or not yet come to it; the task keeps the cause (R381). -/
def postFault (s : State) (r : Record) : State :=
  postRecord (modTask s r.task fun t => { t with fault := some r.b14 }) r.cluster r

/-- A record of context c in its cluster's event queue; the task keeps the cause of a fault (R381). -/
def postCtx (s : State) (c : CtxId) (lo : Word) (kind : Nat) (b14 b15 : BitVec 8) : State :=
  let id := (getCtx s c).task
  let s := if kind = 3 then modTask s id fun t => { t with fault := some b14 } else s
  postRecord s c.cluster ⟨lo, id, c.cluster, c.who, kind, b14, b15⟩

/-! ## Status fields (R354) -/

def stMODE : Nat := 0
def stPMODE : Nat := 1
def stIE : Nat := 2
def stPIE : Nat := 3
def stTF : Nat := 4
def stSTOP : Nat := 5

def getBit (x : Word) (i : Nat) : Bool := x.getLsbD i
def putBit (x : Word) (i : Nat) (v : Bool) : Word :=
  if v then x ||| (1 <<< i) else x &&& ~~~((1 : Word) <<< i)

def supervisor (x : Ctx) : Bool := getBit x.status stMODE

/-- SYS_CAUSE with its code, flags and slot (R354). -/
def causeWord (code : BitVec 8) (rep eng task int : Bool) (slot : Option Nat) : Word :=
  let f (b : Bool) (i : Nat) : Word := if b then (1 : Word) <<< i else 0
  code.zeroExtend 64 ||| f rep 8 ||| f eng 9 ||| f task 10 ||| f int 11 |||
    (match slot with
     | none => 0
     | some n => ((1 : Word) <<< 19) ||| (BitVec.ofNat 64 (n % 8) <<< 16))

/-! ## The panic (R469) -/

def platformBase : Nat := 0x020000000000

/-- The lowest stack that is not fenced; stack 0 when all are. -/
def lowestStack (s : State) : Fin 8 :=
  ((List.finRange 8).find? fun n => !(stackOf s n).fenced).getD 0

/-- A context that has not ended. -/
def isActive (r : RunState) : Bool := r == .running || r == .stalled || r == .waiting || r == .saving

/-- Every other context stops; the panicking device restarts system core 0 at the crash-kernel entry (R469). -/
def panicFreeze (s : State) : State :=
  let c := CtxId.sys (lowestStack s) 0
  let entry := BitVec.ofNat 64 (s.mem.readNat (platformBase + 0x10) 8)
  let freeze (x : Ctx) : Ctx := if isActive x.run then { x with run := .halted } else x
  let s := { s with ctx := freeze s.ctx, parked := s.parked.map fun e => (e.1, freeze e.2) }
  modDev (modCtx s c fun x => { x with run := .running, status := 1, pc := entry }) fun d => { d with frozen := true }

/-! ## Taking an exception (R55, R354, R360, R362) -/

/-- Entry of a system-profile context into its handler, a trap or an interrupt (R360). -/
def enterHandler (c : CtxId) (epc cause tval : Word) (s : State) : State :=
  let x := drain s c (getCtx s c)
  let x := { x with epc := epc, cause := cause, tval := tval, cameFrom := none }
  if getBit x.status stTF then
    let s := setCtx s c { x with run := .halted }
    modCtx (panicFreeze s) c fun y => if c = .sys (lowestStack s) 0 then y else { y with run := .halted }
  else
    let st := putBit (putBit x.status stPMODE (getBit x.status stMODE)) stPIE (getBit x.status stIE)
    let st := putBit (putBit (putBit st stMODE true) stIE false) stTF true
    setCtx s c { x with status := st, pc := x.vbase, run := .running }

/-- A breakpoint, a watchpoint or a single step (R158, R461–R464). -/
def debugStop (cause : Word) : Bool := cause.truncate 8 == (0x1A : BitVec 8) || cause.truncate 8 == (0x1B : BitVec 8)

/-- A compute context stops: it drains, its frame is written, STOP is set and a kind-3 record is posted (R360). A debug
stop closes the FMTW shadows (R158). -/
def stopCompute (c : CtxId) (epc cause tval : Word) (s : State) : State :=
  let x := drain s c (getCtx s c)
  let x := if debugStop cause then closeShadows x else x
  let s := setCtx s c { x with
    epc := epc, cause := cause, tval := tval, pc := epc, run := .stopped, status := putBit x.status stSTOP true, cameFrom := none, sendWait := none }
  postCtx s c epc 3 (cause.truncate 8) 0

/-- Context c takes an exception: EPC, CAUSE and TVAL as given (R360). -/
def takeTrap (c : CtxId) (epc cause tval : Word) (s : State) : State :=
  if c.isSys then enterHandler c epc cause tval s else stopCompute c epc cause tval s

/-- A precise trap of the slot being issued: no slot of the bundle takes effect, SYS_EPC holds the bundle (R102). -/
def trapAt (rank : Nat) (code : BitVec 8) (tval : Word) (s : State) : Res :=
  let t := takeTrap s.who s.frame.base (causeWord code false false false false (some s.frame.slot)) tval s
  .next { t with frame := { t.frame with out := .trapped rank } }

/-- A reserved encoding found by a value check: SYS_TVAL holds the parcel's address (R101, R102, R362). -/
def reserved (s : State) : Res := trapAt 4 0x02 s.frame.parcel s

/-- Privileged operation (R356, R362). -/
def privileged (s : State) : Res := trapAt 5 0x05 s.frame.parcel s

/-- Illegal bundle from the sequencer (R102 position 7). -/
def illegalSeq (tval : Word) (s : State) : Res := trapAt 7 0x01 tval s

/-- Protection at position 8 of R102: SYS_TVAL holds the parcel's address (R362). -/
def protection (s : State) : Res := trapAt 8 0x0C s.frame.parcel s

/-- The return from an exception: MODE ← PMODE, IE ← PIE, TF ← 0, next ← SYS_EPC (R359). -/
def returnFromTrap (s : State) : State :=
  let st := s.ctx.status
  let st' := putBit (putBit (putBit st stMODE (getBit st stPMODE)) stIE (getBit st stPIE)) stTF false
  { s with ctx := { s.ctx with status := st' }, frame := { s.frame with next := s.ctx.epc, transfer := true } }

/-- A fault found after issue waits for the context's next bundle (R250). -/
def addLate (s : State) (c : CtxId) (f : LateFault) : State := modCtx s c fun x => { x with late := x.late ++ [f] }

/-! ## The guard of every slot operation: hazard, interlock, parity, then the effect (R52–R56, R102, R431) -/

def hazardMode (s : State) : Bool := getBit s.dev.debug 0 && getBit s.dev.featAck[0] 10

/-- The bounds of the registers that an operation reads and writes, in operand order: in debug mode a read or write inside one
raises hazard (R56); an interlocked register stalls the bundle (R53). -/
def guardBounds (rs ws : List RegName) (s : State) (k : State → Res) : Res :=
  match if hazardMode s then (rs ++ ws).find? (fun r => !r.wired && exposed s r) else none with
  | some r => trapAt 11 0x14 (regTval r) s
  | none => if (rs ++ ws).any fun r => !r.wired && interlocked s r then stall s else k s

/-- Checks the registers an operation reads and writes: their bounds, and then its sources, of which one whose parity fails is poison
consumed (R431). -/
def guardRegs (rs ws : List RegName) (s : State) (k : State → Res) : Res :=
  guardBounds rs ws s fun s =>
    match rs.find? fun r => s.ctx.badRegs.contains r with
    | some r => trapAt 12 0x0D (regTval r) s
    | none => k s

end Sys2Proof.Machine
end

