-- ==== Sys2Proof/Machine/Flags.lean ====
section
/-! DEFINITION. Condition codes (R127, R129), event classes with their counters and thresholds (R432, R433), the error
log (R434–R436, R442), messages to host clients (R479) and the fields of the platform block (R473). -/

namespace Sys2Proof.Machine

/-! ## Conditions (R127) -/

/-- Cond(a, b) of R127. -/
def icond (cond : Fin 8) (a b : Word) : Bool :=
  match cond with
  | 0 => a == b
  | 1 => a != b
  | 2 => a.slt b
  | 3 => a.ult b
  | 4 => a.sle b
  | 5 => a.ule b
  | 6 => b.slt a
  | 7 => b.ult a

/-! ## Raw memory that the device itself writes -/

def poke (s : State) (pa n x : Nat) : State := { s with mem := s.mem.writeBytes pa (bytesOf n x) }

/-- Whether a write of the bytes [key, key + len) covers the line numbered l wholly (R430). -/
def wholeLine (l key len : Nat) : Bool := decide (key ≤ 64 * l) && decide (64 * l + 64 ≤ key + len)

/-- Bytes written into committed memory: the lines that they cover wholly lose their poison (R430). -/
def committedStore (key : Nat) (bs : List Byte) (s : State) : State :=
  { s with mem := s.mem.writeBytes key bs, poison := s.poison.filter fun l => !wholeLine l key bs.length }

def peek (s : State) (pa n : Nat) : Nat := s.mem.readNat pa n

/-- A field of the platform block (R473). -/
def platWrite (s : State) (off n x : Nat) : State := poke s (platformBase + off) n x

def platRead (s : State) (off n : Nat) : Nat := peek s (platformBase + off) n

/-- Interrupt number i becomes pending (R361). -/
def raiseIrq (s : State) (i : Fin 5) : State := modDev s fun d => { d with irq := d.irq.set i.val true }

/-! ## Real time (R482; log 8) -/

/-- Units of real time in a microsecond: a cycle at each rate of R481 is a whole number of them. -/
def usUnits : Nat := 18018000

/-- Units of one cycle at a rate in MHz. -/
def cycleUnits (clk : Nat) : Nat := max 1 (usUnits / clk)

/-- Units of real time from reset to cycle t: clk is the rate after the changes listed, newest first. -/
def realTo (t : Nat) : Nat → List (Nat × Nat) → Nat
  | clk, [] => t * cycleUnits clk
  | clk, (at_, old) :: rest =>
    if t ≤ at_ then realTo t old rest else realTo at_ old rest + (t - at_) * cycleUnits clk

def realAt (s : State) (t : Nat) : Nat := realTo t s.dev.clk s.dev.clkLog

/-- Microseconds of real time since cycle t. -/
def usSince (s : State) (t : Nat) : Nat := (realAt s s.now - realAt s t) / usUnits

/-- Nanoseconds since reset (R436). -/
def nsNow (s : State) : Nat := realAt s s.now * 1000 / usUnits

/-- Real time reaches a moment that lies us microseconds after cycle t, at the rate in force. -/
def elapseTo (t us : Nat) (s : State) : State :=
  let u := cycleUnits s.dev.clk
  { s with now := s.now + (realAt s t + us * usUnits - realAt s s.now + u - 1) / u }

/-- The clock changes to a rate (R481). -/
def setClock (clk : Nat) (s : State) : State :=
  if clk = s.dev.clk then s else modDev s fun d => { d with clk := clk, clkLog := (s.now, d.clk) :: d.clkLog }

/-! ## The error log (R434–R436, R442) -/

/-- Physical address of the ring; 0 when the log is disabled. -/
def logBase (s : State) : Nat := s.dev.errlog.toNat

/-- Where a record's matter lies, as far as it has a stack, a cluster and a context (R436). -/
structure Site where
  stack : Nat := 0xFF
  clu : Nat := 0xFF
  who : Nat := 0

/-- The site of a context; none of a matter without one. -/
def siteOf (c : Option CtxId) : Site :=
  match c with
  | some (.user j x) => ⟨(CtxId.user j x).stack.val, (CtxId.user j x).cluster, (CtxId.user j x).who + 16⟩
  | some (.ctl g) => ⟨(CtxId.ctl g).stack.val, g.val, 0⟩
  | some c => ⟨c.stack.val, 0xFF, 0⟩
  | none => {}

/-- The 24 bytes that begin every record (R436). -/
def recHeader (ty k : Nat) (at_ : Site) (task : Nat) (s : State) : List Byte :=
  bytesOf 1 ty ++ bytesOf 1 k ++ bytesOf 1 at_.stack ++ bytesOf 1 at_.clu ++ bytesOf 1 at_.who ++ bytesOf 3 0 ++ bytesOf 4 task ++
    bytesOf 4 0 ++ bytesOf 8 (nsNow s)

/-- Advances a ring slot by k, from slots 3–1,023. -/
def logNext (w k : Nat) : Nat := if w + k < 1024 then w + k else 3

/-- Slots free for records: one before RIDX stays empty (R435). -/
def logFree (w r : Nat) : Nat := (r + 1021 - w + 1020) % 1021

/-- Pad records in the n slots from w (R435). -/
def logPad : Nat → Nat → State → State
  | 0, _, s => s
  | n + 1, w, s => logPad n (w + 1) (committedStore (logBase s + 64 * w) (recHeader 0 1 {} 0 s ++ List.replicate 40 0) s)

/-- Adds one to a saturating 32-bit count of the control block. -/
def logBump (s : State) (off : Nat) : State := poke s (logBase s + off) 4 (min 0xFFFFFFFF (peek s (logBase s + off) 4 + 1))

/-- Writes a record of k slots, its bytes padded with zeros, or counts it in LOST (R435). -/
def logRecord (k : Nat) (bs : List Byte) (s : State) : State :=
  if logBase s = 0 then s
  else
    let w := peek s (logBase s) 4
    let r := peek s (logBase s + 4) 4
    let pads := if 1024 < w + k then 1024 - w else 0
    if logFree w r < k + pads then logBump s 8
    else
      let s := logPad pads w s
      let w := if pads = 0 then w else 3
      let s := committedStore (logBase s + 64 * w) (bs ++ List.replicate (64 * k - bs.length) 0) s
      poke s (logBase s) 4 (logNext w k)

/-- A record with its header. -/
def logEntryAt (ty k : Nat) (at_ : Site) (task : Nat) (body : List Byte) (s : State) : State :=
  logRecord k (recHeader ty k at_ task s ++ body) s

def logEntry (ty k : Nat) (c : Option CtxId) (task : Nat) (body : List Byte) (s : State) : State := logEntryAt ty k (siteOf c) task body s

/-! ## Messages to host clients (R479) -/

/-- Offset of the device-to-host ring of host h. -/
def hostRing (h : Nat) : Nat := 0x1000 + 0x2000 * h + 0x1000

/-- A 64-byte message to host h; a full ring is not written. HEAD and TAIL count the 63 slots from 0 (log 15). -/
def hostSend (h : Fin 4) (msg : List Byte) (s : State) : State :=
  let o := hostRing h.val
  let head := platRead s o 4
  let tail := platRead s (o + 4) 4
  if (tail + 1) % 63 = head % 63 then s
  else
    let s := committedStore (platformBase + o + 64 + 64 * (tail % 63)) ((msg ++ List.replicate 64 0).take 64) s
    platWrite s (o + 4) 4 ((tail + 1) % 63)

/-- A message to every host whose link is up. -/
def hostSendAll (msg : List Byte) (s : State) : State :=
  (List.finRange 4).foldl (fun s h => if s.dev.hostUp[h.val] then hostSend h msg s else s) s

/-! ## Event classes (R432, R433) -/

/-- Classes without events (R353). -/
def deadClass (n : Nat) : Bool := n == 6 || n == 7 || n == 15

/-- The total of class n in the log's control block (R435). -/
def showTotal (n : Fin 16) (s : State) : State :=
  if logBase s = 0 then s else poke s (logBase s + 64 + 8 * n.val) 8 (if deadClass n.val then 0 else s.dev.tot[n.val])

/-- Every total there: what has been counted before the log was set included (R435). -/
def showTotals (s : State) : State := (List.finRange 16).foldl (fun s n => showTotal n s) s

/-- What a crossing of class n by context c does (R433). The message of ACT 2 is the record, whose 64 bytes fill the slot: the message type 1 of
R479 stands in no byte of its own (DESIGN CHOICE; log 102). work: the bundle that issued engine work of the context: where that has
retired, the fault starts at cluster-program level (R250). -/
def crossing (n : Fin 16) (c : Option CtxId) (work : Option Word) (s : State) : State :=
  let th := s.dev.thresh[n.val]
  let act := bitsAt th.toNat 32 2
  let task := match c with | some x => (getCtx s x).task | none => 0
  let body := bytesOf 1 n.val ++ bytesOf 1 act ++ bytesOf 6 0 ++ bytesOf 8 s.dev.tot[n.val] ++
    bytesOf 4 (th.toNat % 2 ^ 32) ++ bytesOf 4 (s.dev.window[n.val].toNat % 2 ^ 32)
  let rec' := recHeader 6 1 (siteOf c) task s ++ body
  let s := showTotal n (logRecord 1 rec' s)
  match act, c with
  | 0, _ => s
  | 1, _ => raiseIrq s 2
  | 2, _ => hostSendAll rec' s
  | _, some x =>
    match work with
    | some b =>
      (match (getCtx s x).run with
       | .retired => postCtx s x b 3 0x1C 2
       | .ended | .halted | .free => s
       | _ => addLate s x ⟨.threshold, 0x1C, BitVec.ofNat 64 n.val, 0, none⟩)
    | none => addLate s x ⟨.threshold, 0x1C, BitVec.ofNat 64 n.val, 0, none⟩
  | _, none => raiseIrq s 2

/-- A numeric event of an audit's replay, which counts in no class (R443). -/
def uncounted (c : Option CtxId) (n : Fin 16) (s : State) : Bool :=
  decide (n.val < 6) && (match c with | some x => isReplay (getCtx s x).task | none => false)

/-- One event of class n at context c, of its engine work where given (R432). -/
def countEvent (c : Option CtxId) (work : Option Word) (n : Fin 16) (s : State) : State :=
  if uncounted c n s then s
  else
  let d := s.dev
  let fresh := d.window[n.val].toNat % 2 ^ 32 ≠ 0 ∧ d.window[n.val].toNat % 2 ^ 32 ≤ usSince s d.wstart[n.val]
  let wc := (if fresh then 0 else d.wc[n.val]) + 1
  let start := if fresh then s.now else d.wstart[n.val]
  let count := d.thresh[n.val].toNat % 2 ^ 32
  let s := { s with dev := { d with tot := d.tot.set n.val (d.tot[n.val] + 1), wc := d.wc.set n.val wc,
                                    wstart := d.wstart.set n.val start } }
  let s := showTotal n s
  if count ≠ 0 ∧ count ≤ wc then
    let s := crossing n c work s
    modDev s fun d => { d with wc := d.wc.set n.val 0, wstart := d.wstart.set n.val s.now }
  else s

/-- The events that a result counts, in order (R72, R73). -/
def countEvents (c : Option CtxId) (ns : List Nat) (s : State) : State :=
  ns.foldl (fun s n => countEvent c none (Fin.ofNat 16 n) s) s

/-- The events of engine work that a bundle of context c has issued (R250, R433). -/
def countWork (c : CtxId) (bundle : Word) (ns : List Nat) (s : State) : State :=
  ns.foldl (fun s n => countEvent (some c) (some bundle) (Fin.ofNat 16 n) s) s

/-- The events of the context on the issue port. -/
def countMine (ns : List Nat) (s : State) : State := countEvents (some s.who) ns s

/-! ## Poison (R430, R442) -/

/-- One class-13 event of an access that a bundle of context c has issued, and a poison record: address or register, level and cause
of R442. -/
def poisonRecord (c : CtxId) (bundle : Word) (addr level cause : Nat) (s : State) : State :=
  logEntry 3 1 (some c) (getCtx s c).task (bytesOf 8 (addr % 2 ^ 56) ++ bytesOf 1 level ++ bytesOf 1 cause) (countWork c bundle [13] s)

end Sys2Proof.Machine
end

