-- ==== Sys2Proof/Machine/Sump.lean ====
section
/-! DEFINITION. The device physical map (R401), compressed pages with their directory (R416–R421) and the free pool and
registers of Sump (R422–R426). Committed contents of nominal and raw space stand in State.mem by physical address. -/

namespace Sys2Proof.Machine

/-! ## The physical map (R401) -/

/-- Where a physical address lies. A page of another device has key (device + 1) × 2^56 + address (R404). -/
inductive Place where
  | nominal (n : Fin 8) (page : Nat)
  | raw (n : Fin 8) (off : Nat)
  | sump (n : Fin 8) (off : Nat)
  | absent
  | remote (d : Nat)
deriving DecidableEq, Repr

def nomBase (n : Nat) : Nat := n * 0x3000000000
def rawBase (n : Nat) : Nat := 0x020000000000 + n * 0x1800000000
def sumpBase (n : Nat) : Nat := 0x030000000000 + n * 0x1000

def placeOf (s : State) (key : Nat) : Place :=
  if 2 ^ 56 ≤ key then .remote (key / 2 ^ 56 - 1)
  else if key < nomBase 8 then
    let n : Fin 8 := Fin.ofNat 8 (key / 0x3000000000)
    let off := key % 0x3000000000
    if (stackOf s n).sump.en && decide (off < (stackOf s n).sump.nom * 4096) then .nominal n (off / 4096) else .absent
  else if rawBase 0 ≤ key ∧ key < rawBase 8 then
    let n : Fin 8 := Fin.ofNat 8 ((key - rawBase 0) / 0x1800000000)
    let off := (key - rawBase 0) % 0x1800000000
    if off < (stackOf s n).sump.rsv * 512 then .raw n off else .absent
  else if sumpBase 0 ≤ key ∧ key < sumpBase 8 then
    .sump (Fin.ofNat 8 ((key - sumpBase 0) / 0x1000)) ((key - sumpBase 0) % 0x1000)
  else .absent

/-! ## Classes and needs (R416–R419) -/

/-- Every word lies within ±2^(bits − 1) of w0 (R416). -/
def deltasFit (bits : Nat) (w0 : Nat) (ws : List Nat) : Bool :=
  ws.all fun w => decide ((w + 2 ^ 32 - w0 + 2 ^ (bits - 1)) % 2 ^ 32 < 2 ^ bits)

/-- The class code of a line of 32 words: the first of R416 that fits. -/
def classOf (ws : List Nat) : Nat :=
  let w0 := ws.headD 0
  if ws.all (· == 0) then 0
  else if ws.all (· == w0) then 1
  else if deltasFit 8 w0 ws then 2
  else if deltasFit 16 w0 ws then 3
  else 4

/-- The stored bytes of a line in a class (R416). -/
def storedForm (code : Nat) (ws : List Nat) : List Byte :=
  let w0 := ws.headD 0
  let deltas (n : Nat) : List Byte := ws.flatMap fun w => bytesOf n ((w + 2 ^ 32 - w0) % 2 ^ 32)
  match code with
  | 0 => []
  | 1 => bytesOf 4 w0
  | 2 => bytesOf 4 w0 ++ deltas 1
  | 3 => bytesOf 4 w0 ++ deltas 2
  | _ => ws.flatMap (bytesOf 4)

/-- How many bytes a class stores (R416); storedForm_length says that storedForm has as many. -/
def classBytes (code : Nat) : Nat :=
  match code with
  | 0 => 0
  | 1 => 4
  | 2 => 36
  | 3 => 68
  | _ => 128

/-- Stored bytes of a line of 32 words. -/
def storedBytes (ws : List Nat) : Nat := classBytes (classOf ws)

def wordsAt (bs : List Byte) : List Nat := (wordsOf 32 bs).map BitVec.toNat

/-- N of R417 from the stored bytes of a page's 32 lines. -/
def sectorsOf (sizes : List Nat) : Nat :=
  let sum := sizes.foldl (· + ·) 0
  if sum = 0 then 0 else if 3584 < 16 + sum then 8 else (16 + sum + 511) / 512

/-- What the sectors of a page hold (R417): the raw bytes of its 32 lines, or a header of their class codes and then
their stored forms, packed in order. A line with a poisoned half is of class U, whatever its words (R430). -/
def pageImage (lines : List (List Nat)) (poisoned : Nat → Bool) : List Byte :=
  let code (j : Nat) : Nat := if poisoned j then 4 else classOf (lines.getD j [])
  let js := List.range 32
  match sectorsOf (js.map fun j => classBytes (code j)) with
  | 0 => []
  | 8 => js.flatMap fun j => storedForm 4 (lines.getD j [])
  | _ => bytesOf 16 ((js.map fun j => code j * 16 ^ j).sum) ++ js.flatMap fun j => storedForm (code j) (lines.getD j [])

/-- The bytes of the 128-byte line at key a under a version's overlay. -/
def overlaid (m : Memory) (ver : List (Nat × Byte)) (a : Nat) : List Byte :=
  (List.range 128).map fun i => match Tbl.get? ver (a + i) with | some b => b | none => m.read (a + i)

/-- The overlay holds a byte in [a, a + len). -/
def covers (ver : List (Nat × Byte)) (a len : Nat) : Bool := ver.any fun e => decide (a ≤ e.1) && decide (e.1 < a + len)

/-- A 64-byte half of the 128-byte line at a is marked (R430). -/
def halfMarked (marks : List Nat) (a : Nat) : Bool := marks.contains (a / 64) || marks.contains (a / 64 + 1)

/-- Stored bytes of a line of these bytes; a poisoned half makes it class U (R430). -/
def lineBytes (bad : Bool) (bs : List Byte) : Nat := if bad then 128 else storedBytes (wordsAt bs)

/-- Stored bytes of the line at a as committed memory holds it. -/
def committedBytes (s : State) (a : Nat) : Nat := lineBytes (halfMarked s.poison a) (s.mem.readBytes a 128)

/-- Stored bytes of the claimed class of the line at a: committed, every uncommitted version copy and, pending, every bounce
entry that waits for it (R419). -/
def claimedBytes (pending : Bool) (s : State) (a : Nat) : Nat :=
  let c := committedBytes s a
  let v := s.tasks.foldl (fun m t =>
    if covers t.version a 128 then max m (lineBytes (halfMarked t.vpoison a) (overlaid s.mem t.version a)) else m) c
  if !pending then v
  else (List.finRange 8).foldl (fun m n => (stackOf s n).bounce.foldl (fun m e =>
    if e.valid && e.pa == some a then
      max m (lineBytes e.bad (overlaid s.mem (e.bytes.map fun x => (a + x.1, x.2)) a))
    else m) m) v

def pageKey (n : Fin 8) (page : Nat) : Nat := nomBase n.val + 4096 * page

def claimedNeed (pending : Bool) (s : State) (n : Fin 8) (page : Nat) : Nat :=
  sectorsOf ((List.range 32).map fun j => claimedBytes pending s (pageKey n page + 128 * j))

def committedNeed (s : State) (n : Fin 8) (page : Nat) : Nat :=
  sectorsOf ((List.range 32).map fun j => committedBytes s (pageKey n page + 128 * j))

/-- What the sectors of a page's committed content hold, each by its place in the page's order (R417). -/
def sectorBytes (s : State) (n : Fin 8) (page : Nat) : List Byte :=
  pageImage ((List.range 32).map fun j => wordsAt (s.mem.readBytes (pageKey n page + 128 * j) 128))
    fun j => halfMarked s.poison (pageKey n page + 128 * j)

/-! ## The directory (R418) -/

def DirEnt.empty : DirEnt := ⟨[], 0, false, false, false⟩

def dirOf (s : State) (n : Fin 8) (page : Nat) : DirEnt := (Tbl.get? (stackOf s n).dirs page).getD DirEnt.empty

/-- The 256 bits of an entry. -/
def dirBits (e : DirEnt) : Nat :=
  (if e.ballooned then 16 else 0) + (if e.raw then 64 else 0) + (if e.bounce then 128 else 0) + e.n * 256 +
    e.sectors.length * 4096 +
    ((List.range 8).foldl (fun x i => x + (e.sectors.getD i 0) * 2 ^ (32 + 28 * i)) 0)

/-- A directory entry changes, in the stack's unit and in the raw area. -/
def setDir (s : State) (n : Fin 8) (page : Nat) (e : DirEnt) : State :=
  let s := modStack s n fun st => { st with dirs := Tbl.set st.dirs page e }
  poke s (rawBase n.val + (stackOf s n).sump.dir.toNat + 32 * page) 32 (dirBits e)

def ballooned (s : State) (n : Fin 8) (page : Nat) : Bool := (dirOf s n page).ballooned

/-! ## The pool (R422) -/

def stackSectors : Nat := 201326592

/-- Sectors in the pool. -/
def freeSectors (st : Stack) : Nat :=
  if st.sump.en then stackSectors - st.sump.rsv - (st.dirs.foldl (fun n e => n + e.2.sectors.length) 0) else 0

def insertNat (x : Nat) : List Nat → List Nat
  | [] => [x]
  | y :: ys => if x ≤ y then x :: y :: ys else y :: insertNat x ys

def sortNats (l : List Nat) : List Nat := l.foldr insertNat []

/-- The x-th number that the rising list does not hold. -/
def skipTaken : Nat → List Nat → Nat
  | x, [] => x
  | x, a :: rest => if a ≤ x then skipTaken (x + 1) rest else skipTaken x rest

/-- A free sector: any of the pool (R422). -/
def pickFree (st : Stack) (seed : Nat) : Nat :=
  let taken := sortNats (st.dirs.flatMap fun e => e.2.sectors)
  skipTaken (st.sump.rsv + Config.pickSector seed % freeSectors st) taken

/-- k sectors of the pool go to a page. -/
def allocate (n : Fin 8) (page : Nat) : Nat → State → State
  | 0, s => s
  | k + 1, s =>
    let e := dirOf s n page
    let x := pickFree (stackOf s n) (s.tick * 8 + k)
    allocate n page k (setDir s n page { e with sectors := e.sectors ++ [x] })

/-- Sump starts to inflate when FREE falls below LWM or a write waits (R424). -/
def kickSump (s : State) (n : Fin 8) : State :=
  let st := stackOf s n
  if freeSectors st < st.sump.lwm || !st.sump.waiting.isEmpty then
    modStack s n fun st => { st with sump := { st.sump with inflating := true } }
  else s

def dropWaiter (unit : Waiter) (s : State) (n : Fin 8) : State :=
  modStack s n fun st => { st with sump := { st.sump with waiting := st.sump.waiting.filter (· ≠ unit)
                                                          told := st.sump.told.filter (· ≠ unit) } }

def dropWaiters (unit : Waiter) (s : State) : State := (List.finRange 8).foldl (fun s n => dropWaiter unit s n) s

/-- A waiter goes on under another name, in its place (R419). -/
def renameWaiter (old new : Waiter) (s : State) : State :=
  (List.finRange 8).foldl (fun s n =>
    if (stackOf s n).sump.waiting.contains old then
      modStack s n fun st => { st with sump := { st.sump with waiting := st.sump.waiting.map fun u => if u = old then new else u
                                                              told := st.sump.told.filter (· ≠ old) } }
    else s) s

/-- A write to a nominal page by a unit: with is the state in which the write has been made. A write that does not raise
the need past what is allocated, entries that wait in a bounce ring apart, never waits (R420). Another stands if the pool
serves the shortfall and no earlier write of the stack waits; else none, and the unit waits (R419, R420). -/
def expandFor (unit : Waiter) (n : Fin 8) (page : Nat) (s with' : State) : Except State State :=
  let al := (dirOf s n page).sectors.length
  if claimedNeed false with' n page ≤ al then .ok (if (stackOf with' n).sump.waiting.contains unit then dropWaiter unit with' n else with')
  else
    let need := claimedNeed true with' n page
    let st := stackOf s n
    let first := match st.sump.waiting with | [] => true | u :: _ => u == unit
    if first && decide (need - al ≤ freeSectors st) then
      .ok (kickSump (dropWaiter unit (allocate n page (need - al) with') n) n)
    else
      let s := if st.sump.waiting.contains unit then s
        else modStack s n fun st => { st with sump := { st.sump with waiting := st.sump.waiting ++ [unit] } }
      .error (kickSump s n)

/-- After a commit, a discard or a bounce application: surplus sectors return to the pool, the content keeping the
lowest-numbered of the page's own; raw storage is left once the claimed size allows it (R421). -/
def recompute (s : State) (n : Fin 8) (page : Nat) : State :=
  let e := dirOf s n page
  if e.ballooned then s
  else
    let need := claimedNeed true s n page
    let c := committedNeed s n page
    let raw := c == 8 || (e.raw && need == 8)
    setDir s n page { e with sectors := (if need < e.sectors.length then (sortNats e.sectors).take need else e.sectors),
                             n := if raw then 8 else c, raw := raw }

/-- recompute for whatever page a key lies in. -/
def recomputeKey (s : State) (key : Nat) : State :=
  match placeOf s key with
  | .nominal n page => recompute s n page
  | _ => s

/-! ## Inflation and deflation (R424, R425) -/

def listEmpty (u : Sump) : Bool := u.head == u.tail

/-- Sump goes on inflating (R424). -/
def inflates (st : Stack) : Bool :=
  st.sump.inflating && !listEmpty st.sump && (decide (freeSectors st < st.sump.hwm) || !st.sump.waiting.isEmpty)

/-- The page has no claim beyond its committed content and no pending bounce entry (R424). -/
def unclaimed (s : State) (n : Fin 8) (page : Nat) : Bool :=
  let a := pageKey n page
  s.tasks.all (fun t => !covers t.version a 4096) && !(dirOf s n page).bounce

/-- Sump consumes one balloon-list entry (R423, R424). -/
def inflateOne (s : State) (n : Fin 8) : State :=
  let u := (stackOf s n).sump
  let e := peek s (u.list.toNat + 8 * u.head) 8
  let s := modStack s n fun st => { st with sump := { st.sump with head := (st.sump.head + 1) % 4096 } }
  let skip := modStack s n fun st => { st with sump := { st.sump with skip := min 0xFFFF (st.sump.skip + 1) } }
  match (if e % 2 = 1 then placeOf s (bitsAt e 12 44 * 4096) else .absent) with
  | .nominal m page =>
    if m = n ∧ ¬ ballooned s n page ∧ unclaimed s n page then
      setDir s n page { dirOf s n page with sectors := [], n := 0, raw := false, ballooned := true }
    else skip
  | _ => skip

/-- Zeroes n bytes from a, which lose their poison with their contents (R425: every line becomes Z). -/
def clearBytes (s : State) (a n : Nat) : State :=
  { s with mem := s.mem.filter fun e => !(decide (a ≤ e.1) && decide (e.1 < a + n))
           poison := s.poison.filter fun l => !(decide (a ≤ 64 * l) && decide (64 * l < a + n)) }

/-- A write of a page address to SUMP_DEFL (R425). -/
def deflate (s : State) (n : Fin 8) (pa : Nat) : State :=
  match placeOf s pa with
  | .nominal m page =>
    if m = n ∧ ballooned s n page then setDir (clearBytes s (pageKey n page) 4096) n page DirEnt.empty else s
  | _ => s

/-! ## The registers (R422) -/

/-- Entries of the bounce ring: 256 bytes each (R414). -/
def bounceRoom (u : Sump) : Nat := bitsAt u.bnc.toNat 44 20 * 16

/-- The slot that the next entry takes. -/
def bounceNext (st : Stack) : Nat :=
  match st.bounce.getLast? with
  | some e => (e.slot + 1) % bounceRoom st.sump
  | none => 0

def bounceFull (st : Stack) : Bool := bounceRoom st.sump == 0 || st.bounce.any fun e => e.valid && e.slot == bounceNext st

/-- The 256 bytes of an entry (R414). -/
def bounceImage (e : Bounce) : List Byte :=
  bytesOf 8 e.va ++ bytesOf 2 e.asid.toNat ++ bytesOf 2 ((if e.committed then 1 else 0) + if e.valid then 2 else 0) ++ bytesOf 4 e.task ++
    bytesOf 16 ((List.range 128).foldl (fun m i => if (Tbl.get? e.bytes i).isSome then m + 2 ^ i else m) 0) ++
    (List.range 128).map (fun i => (Tbl.get? e.bytes i).getD 0) ++ List.replicate 96 0

def writeBounce (n : Fin 8) (e : Bounce) (s : State) : State :=
  let a := rawBase n.val + bitsAt (stackOf s n).sump.bnc.toNat 12 25 * 4096 + 256 * e.slot
  committedStore a (bounceImage e) s

/-- The directory flag BP of the page of an entry that may have gone (R415, R418). -/
def refreshBp (s : State) (e : Bounce) : State :=
  match e.pa.map (placeOf s) with
  | some (.nominal m page) =>
    let left := (stackOf s m).bounce.any fun x => x.valid && x.pa.map (· / 4096) == e.pa.map (· / 4096)
    if (dirOf s m page).bounce = left then s else setDir s m page { dirOf s m page with bounce := left }
  | _ => s

/-- Every entry of a ring changes by f; the raw area follows; entries that are no longer valid leave the list. -/
def mapBounce (n : Fin 8) (f : Bounce → Bounce) (s : State) : State :=
  let es := (stackOf s n).bounce
  if es.isEmpty then s
  else
    let s := es.foldl (fun s e => if f e = e then s else writeBounce n (f e) s) s
    let s := modStack s n fun st => { st with bounce := (es.map f).filter (·.valid) }
    (es.filter fun e => !(f e).valid).foldl refreshBp s

/-- A new entry at the end of a ring that has room. -/
def addBounce (n : Fin 8) (e : Bounce) (s : State) : State :=
  let e := { e with slot := bounceNext (stackOf s n) }
  modStack (writeBounce n e s) n fun st => { st with bounce := st.bounce ++ [e] }

def sumpStat (st : Stack) : Nat :=
  st.sump.skip * 2 ^ 32 + (if bounceFull st && decide (0 < bounceRoom st.sump) then 8 else 0) + (if listEmpty st.sump then 4 else 0) +
    (if freeSectors st < st.sump.lwm then 2 else 0) + (if st.sump.oos then 1 else 0)

/-- The 64-bit register at an offset. -/
def sumpRead (st : Stack) (off : Nat) : Nat :=
  match off with
  | 0x00 => if st.sump.en then 1 else 0
  | 0x08 => st.sump.nom
  | 0x10 => st.sump.rsv
  | 0x18 => st.sump.dir.toNat
  | 0x20 => st.sump.bnc.toNat
  | 0x28 => st.sump.ovf.toNat
  | 0x30 => freeSectors st
  | 0x38 => st.sump.hwm * 2 ^ 32 + st.sump.lwm
  | 0x40 => st.sump.list.toNat
  | 0x48 => st.sump.tail * 2 ^ 16 + st.sump.head
  | 0x58 => sumpStat st
  | _ => 0

/-- The bytes that a read of the register space gives. -/
def sumpByte (st : Stack) (off : Nat) : Byte := BitVec.ofNat 8 (sumpRead st (off / 8 * 8) / 2 ^ (8 * (off % 8)))

/-- EN goes 0 → 1: every page resident with N = AL = 0, the pool full (R422). -/
def sumpEnable (s : State) (n : Fin 8) : State :=
  let st := stackOf s n
  let s := clearBytes s (nomBase n.val) (st.sump.nom * 4096)
  let s := clearBytes s (rawBase n.val + st.sump.dir.toNat) (32 * st.sump.nom)
  modStack s n fun st => { st with dirs := [], sump := { st.sump with en := true, waiting := [], told := [] } }

/-- A new TAIL of the balloon list (R423). -/
def sumpTail (s : State) (n : Fin 8) (tail : Nat) : State :=
  let s := modStack s n fun st => { st with sump := { st.sump with tail := tail % 4096 } }
  kickSump s n

def sumpClearOos (s : State) (n : Fin 8) : State := modStack s n fun st => { st with sump := { st.sump with oos := false } }

end Sys2Proof.Machine
end

