-- ==== Sys2Proof/Machine/Mem.lean ====
section
/-! DEFINITION. Global memory: translation (R402–R406), what a party reads (R181, R297, R305, R306), task versions and
their budget (R386–R389), races (R295, R296, R307, R308), poison (R429–R431) and reports (R360, R390, R411). -/

namespace Sys2Proof.Machine

/-! ## Who accesses -/

/-- The party of an access: an issuing context, or an engine operation on its behalf (R307). agent names it in
happens-before; clock is what it has observed, fences what its release fences have published; run names its version (R317). -/
structure Acc where
  who : CtxId
  agent : Nat
  clock : List (Nat × Nat)
  task : Nat
  asid : BitVec 16
  ptbase : Word
  user : Bool
  bundle : Word
  unit : Waiter
  run : Nat := 0
  fences : Tbl (List (Nat × Nat)) := []

/-- Sector-wait names of a core's side log and of its held unit (R419). -/
def logUnit (core : Nat) : Waiter := .log core
def heldUnit (core : Nat) : Waiter := .unit core

/-- RUNS of the task, which names its version (R317). -/
def runOf (s : State) (task : Nat) : Nat := match taskOf s task with | some t => t.runs | none => 0

def accOf (s : State) (c : CtxId) : Acc :=
  let x := getCtx s c
  { who := c, agent := c.num, clock := x.clock, task := x.task, asid := x.asid, ptbase := x.ptbase,
    user := !(supervisor x), bundle := s.frame.base, unit := heldUnit c.coreNo, run := runOf s x.task, fences := x.relClock }

/-! ## Happens-before clocks (R295, R296; log 7) -/

def clockGet (k : List (Nat × Nat)) (i : Nat) : Nat := (Tbl.get? k i).getD 0

/-- The context's next accesses come after everything it has released. -/
def clockTick (x : Ctx) (c : CtxId) : Ctx := { x with clock := Tbl.set x.clock c.num (clockGet x.clock c.num + 1) }

/-- Context c observes a clock published by context p: across clusters only the edges that R296 keeps count. -/
def observe (keep : Bool) (c p : CtxId) (k : List (Nat × Nat)) (s : State) : State :=
  if keep || c.cluster = p.cluster then modCtx s c fun x => { x with clock := clockJoin x.clock k } else s

/-! ## Routes between stacks (R447, R471, R472) -/

/-- The edges of a row from column a to column b. -/
def rowEdges (row a b : Nat) : List Nat := (List.range (max a b - min a b)).map fun i => 3 * row + min a b + i

/-- The edge between the rows at a column, when the rows differ. -/
def crossEdges (r q col : Nat) : List Nat := if r = q then [] else [6 + col]

def edgesAlive (s : State) (es : List Nat) : Bool := es.all fun i => !(s.dev.edges.toList.getD i ⟨false, 0, none⟩).dead

/-- Traffic from stack n to stack m has a route: along the row and then across, or across and then along the row. -/
def routeOpen (s : State) (n m : Nat) : Bool :=
  edgesAlive s (rowEdges (n / 4) (n % 4) (m % 4) ++ crossEdges (n / 4) (m / 4) (m % 4)) ||
    edgesAlive s (crossEdges (n / 4) (m / 4) (n % 4) ++ rowEdges (m / 4) (n % 4) (m % 4))

/-- The home of a place is reached from a stack. -/
def homeOpen (s : State) (n : Fin 8) (p : Place) : Bool :=
  match p with
  | .nominal m _ => routeOpen s n.val m.val
  | .raw m _ => routeOpen s n.val m.val
  | .sump m _ => routeOpen s n.val m.val
  | _ => true

/-! ## Translation (R403–R406) -/

/-- claim: a read-modify-write that may not write (R189): it needs W and leaves D as it is. -/
inductive Kind where
  | read | write | claim | fetch
deriving DecidableEq, Repr

/-- The end of a translation: a physical key and whether the page is a host window, or the reason it failed. -/
inductive Xlat where
  | ok (key : Nat) (hw : Bool)
  | unmapped
  | ballooned
  | prot
  | poison
deriving DecidableEq, Repr

/-- The reserved bits of an entry (R404). -/
def pteReserved (p : Nat) : Bool :=
  bitsAt p 56 1 ≠ 0 || bitsAt p 11 1 ≠ 0 || bitsAt p 2 2 ≠ 0 || (bitsAt p 57 1 == 0 && bitsAt p 58 6 ≠ 0)

/-- A walk's result: a leaf with its level and the entry's address. -/
inductive Walk where
  | leaf (level : Nat) (pte : Nat) (at_ : Nat)
  | fail (x : Xlat)
deriving DecidableEq, Repr

/-- Whether a table page may be read by a walker of stack n (R411, R412, R431); over a closed route it reads poisoned data
(R447, R472). -/
def tableFault (s : State) (n : Fin 8) (pa : Nat) : Option Xlat :=
  let p := placeOf s pa
  match p with
  | .nominal m page =>
    if ballooned s m page then some .prot
    else if s.poison.contains (pa / 64) || !homeOpen s n p then some .poison else none
  | .raw _ _ => if s.poison.contains (pa / 64) || !homeOpen s n p then some .poison else none
  | _ => some .prot

/-- The walk of R403 and R405 by a walker of stack n, from a table at the given level; rd reads an entry, with its poison. -/
def walkBy (rd : Nat → Nat × Bool) (s : State) (n : Fin 8) (va : Nat) : Nat → Nat → Walk
  | 0, base =>
    let a := base + 8 * bitsAt va 12 9
    match (tableFault s n a).orElse fun _ => if (rd a).2 then some .poison else none with
    | some x => .fail x
    | none =>
      let p := (rd a).1
      if p % 2 = 0 then .fail .unmapped else if pteReserved p then .fail .prot else .leaf 0 p a
  | l + 1, base =>
    let a := base + 8 * bitsAt va (12 + 9 * (l + 1)) (if l + 1 = 4 then 8 else 9)
    match (tableFault s n a).orElse fun _ => if (rd a).2 then some .poison else none with
    | some x => .fail x
    | none =>
      let p := (rd a).1
      if p % 2 = 0 then .fail .unmapped
      else if pteReserved p then .fail .prot
      else if bitsAt p 1 1 = 1 then
        if 2 ≤ l then .fail .prot
        else if bitsAt p 12 44 % 2 ^ (9 * (l + 1)) ≠ 0 then .fail .prot
        else .leaf (l + 1) p a
      else walkBy rd s n va l (bitsAt p 12 44 * 4096)

/-- The key that a leaf maps va to. -/
def leafKey (level p va : Nat) : Nat :=
  let size := 2 ^ (12 + 9 * level)
  let pa := bitsAt p 12 44 * 4096 / size * size + va % size
  if bitsAt p 57 1 = 1 then (bitsAt p 58 6 + 1) * 2 ^ 56 + pa else pa

def walkKey (w : Walk) (va : Nat) : Option Nat :=
  match w with
  | .leaf level p _ => some (leafKey level p va)
  | .fail _ => none

/-- The root of an address space's tables. -/
def rootOf (ptbase : Word) : Nat := bitsAt ptbase.toNat 12 44 * 4096

/-! ## Bounce entries by physical address (R415) -/

def ringsEmpty (s : State) : Bool := s.dies.toList.all (·.bounce.isEmpty)

/-- The youngest entry of the rings that f names. -/
def youngest (s : State) (f : Fin 8 → Bounce → Bool) : Option Bounce :=
  let es := (List.finRange 8).flatMap fun n => (stackOf s n).bounce.filter fun e => f n e
  es.foldl (fun (y : Option Bounce) e => match y with | some x => if x.age ≤ e.age then some e else y | none => some e) none

/-- The committed byte at a key, with its poison, as the entries that f puts there leave it. -/
def ringOr (s : State) (f : Fin 8 → Nat → Bounce → Bool) (key : Nat) : Byte × Bool :=
  match (youngest s fun n e => e.committed && f n key e).bind fun e => (Tbl.get? e.bytes (key % 128)).map fun b => (b, e.bad) with
  | some b => b
  | none => (s.mem.read key, false)

/-- Eight bytes of a table, as the entries that f puts there leave them. -/
def tableWord (s : State) (f : Fin 8 → Nat → Bounce → Bool) (a : Nat) : Nat × Bool :=
  if ringsEmpty s then (peek s a 8, false)
  else
    let bs := (List.range 8).map fun i => ringOr s f (a + i)
    (natOf (bs.map (·.1)), bs.any (·.2))

/-- An entry that holds the byte at a key, its page's address known by the entry itself. -/
def entryNames (key : Nat) (e : Bounce) : Bool :=
  e.valid && (Tbl.get? e.bytes (key % 128)).isSome && e.pa == some (key / 128 * 128)

/-- An entry that holds the byte at a key: its page's address is known by the entry, or its own tables map its page there by now. The
tables are read past the entries whose page is still to be found so. -/
def ringEntryAt (s : State) (n : Fin 8) (key : Nat) (e : Bounce) : Bool :=
  e.valid && (Tbl.get? e.bytes (key % 128)).isSome &&
    (match e.pa with
     | some pa => pa == key / 128 * 128
     | none => (walkKey (walkBy (tableWord s fun _ => entryNames) s n e.va 4 (rootOf e.ptbase)) e.va).map (· / 128) == some (key / 128))

/-- The walk of a walker of stack n, which sees committed entries of the rings as at their destination (R403, R405, R415). -/
def walkFrom (s : State) (n : Fin 8) (va level base : Nat) : Walk := walkBy (tableWord s (ringEntryAt s)) s n va level base

/-- Entries lose the bytes that hit names, by their offset in the block. -/
def strikeBy (hit : Fin 8 → Bounce → Nat → Bool) (s : State) : State :=
  if ringsEmpty s then s
  else (List.finRange 8).foldl (fun t d => mapBounce d (fun e =>
    let bs := e.bytes.filter fun b => !hit d e b.1
    if bs = e.bytes then e else { e with bytes := bs, valid := e.valid && !bs.isEmpty }) t) s

/-- A write to n committed bytes at a key takes them out of the committed entries that stand for them (DEDUCED from R279, R415). -/
def strikeAt (key n : Nat) (s : State) : State :=
  strikeBy (fun d e j => e.committed && (List.range n).any fun i => (key + i) % 128 == j && ringEntryAt s d (key + i) e) s

/-- The permission checks of R405 on a leaf. A compare-and-swap needs W = 1 whatever its compare gives: it is translated before
it has read (DESIGN CHOICE: R189 and R405 leave a failed one open; log 70). -/
def permits (user : Bool) (k : Kind) (p : Nat) : Bool :=
  !(user && bitsAt p 4 1 == 0) &&
    (match k with | .read => true | .write | .claim => bitsAt p 5 1 == 1 | .fetch => bitsAt p 6 1 == 1)

/-- The key that the tables map va to for a unit of stack n, whatever the leaf permits. -/
def tableKey (s : State) (n : Fin 8) (ptbase : Word) (va : Nat) : Option Nat := walkKey (walkFrom s n va 4 (rootOf ptbase)) va

/-- A cached leaf that maps va (R406). -/
def tlbFind (t : List TlbEntry) (asid : BitVec 16) (va : Nat) : Option TlbEntry :=
  t.find? fun e => (e.glob || e.asid == asid) && va / 2 ^ (12 + 9 * e.level) == e.va / 2 ^ (12 + 9 * e.level)

/-- What a usable leaf answers. -/
def leafXlat (s : State) (user : Bool) (k : Kind) (level p va : Nat) : Xlat :=
  if permits user k p then
    let key := leafKey level p va
    match placeOf s key with
    | .absent => .prot
    | .nominal n page => if ballooned s n page then .ballooned else .ok key (bitsAt p 10 1 == 1)
    | _ => .ok key (bitsAt p 10 1 == 1)
  else .prot

/-- Translates va for an access, caching the leaf and setting A and D (R405, R406); a map unit that misses refills from its
stack's TLB. A cached leaf may be used or walked anew (R407; eviction is free): where both give the same leaf, the choice shows nothing and is not made. -/
def translate (a : Acc) (k : Kind) (va : Nat) (s : State) : State × Xlat :=
  let g := a.who.cluster
  let n := a.who.stack
  let near := tlbFind (clusterOf s g).tlb a.asid va
  let cached := match near with
    | some e => some e
    | none => tlbFind (stackOf s n).tlb a.asid va
  let walk := walkFrom s n va 4 (rootOf a.ptbase)
  let agrees (e : TlbEntry) : Bool := match walk with
    | .leaf level p _ => level == e.level && p == e.pte.toNat
    | .fail _ => false
  let hit := match cached with
    | some e => if (agrees e || (Config.free s.tick (2 ^ 40 + va)).getLsbD 0) && (k != Kind.write || getBit e.pte 8) then some e else none
    | none => none
  match hit with
  | some e =>
    let s := if near.isSome then s else modCluster s g fun c => { c with tlb := (e :: c.tlb).take 1024 }
    (s, leafXlat s a.user k e.level e.pte.toNat va)
  | none =>
    match walk with
    | .fail x => (s, x)
    | .leaf level p at_ =>
      if permits a.user k p then
        let p' := p ||| 0x80 ||| (if k = Kind.write then 0x100 else 0)
        let s := if p' = p then s else poke (strikeAt at_ 8 s) at_ 8 p'
        let e : TlbEntry := ⟨a.asid, bitsAt p 9 1 == 1, level, va / 4096 * 4096, BitVec.ofNat 64 p'⟩
        let s := modCluster s g fun c => { c with tlb := (e :: c.tlb).take 1024 }
        let s := modStack s n fun st => { st with tlb := (e :: st.tlb).take 32768 }
        (s, leafXlat s a.user k level p' va)
      else (s, .prot)

/-! ## Tasks, lines and poison -/

/-- Any uncommitted version holds the line of key (R181). -/
def lineVersioned (s : State) (key : Nat) : Bool := s.tasks.any fun t => covers t.version (key / 64 * 64) 64

/-- The byte at a key lies in a poisoned granule of a task's view: of its version's line, or, where the version does not hold the byte,
of committed memory (R430, R448). -/
def linePoisoned (s : State) (task : Nat) (key : Nat) : Bool :=
  match taskOf s task with
  | some t => t.vpoison.contains (key / 64) || ((Tbl.get? t.version key).isNone && s.poison.contains (key / 64))
  | none => s.poison.contains (key / 64)

/-- A device's committed byte; the Sump registers read as R422 says. -/
def homeByte (s : State) (key : Nat) : Byte :=
  match placeOf s key with
  | .sump n off => sumpByte (stackOf s n) off
  | _ => s.mem.read key

/-- The byte that a context or engine of a task finds at a key: its version, a clean L1G copy, or committed memory
(R181, R305, R306). -/
def viewByte (s : State) (task : Nat) (l1g : Option (Tbl (List Byte))) (key : Nat) : Byte :=
  let ver := match taskOf s task with | some t => t.version | none => []
  match Tbl.get? ver key with
  | some b => b
  | none =>
    match l1g with
    | none => homeByte s key
    | some t =>
      if lineVersioned s key then homeByte s key
      else match Tbl.get? t (key / 64) with
        | some bs => bs.getD (key % 64) 0
        | none => homeByte s key

/-! ## Bounce entries (R415) -/

/-- An entry of a ring stands for the byte at va, which the tables of its access map to key: by its address, or by the page that
its own tables map by now. -/
def entryHas (s : State) (n : Fin 8) (asid : BitVec 16) (va key : Nat) (e : Bounce) : Bool :=
  e.valid && (Tbl.get? e.bytes (va % 128)).isSome &&
    (match e.pa with
     | some pa => pa == key / 128 * 128
     | none => (e.asid == asid && e.va == va / 128 * 128) || (tableKey s n e.ptbase e.va).map (· / 128) == some (key / 128))

/-- An entry of a task's uncommitted version, or, for task 0, of committed memory. -/
def entryOf (task : Nat) (e : Bounce) : Bool := if task = 0 then e.committed else !e.committed && e.task == task

/-- The byte, with its poison, of the youngest entry that stands for it: of the version, or, for task 0, of committed memory. -/
def ringByte (s : State) (task : Nat) (asid : BitVec 16) (va key : Nat) : Option (Byte × Bool) :=
  (youngest s fun n e => entryOf task e && entryHas s n asid va key e).bind fun e => (Tbl.get? e.bytes (va % 128)).map fun b => (b, e.bad)

/-- What the rings hold of a byte in a task's view: its own entries stand over its version, and that over committed ones. -/
def bounceByte (s : State) (task : Nat) (asid : BitVec 16) (va key : Nat) : Option (Byte × Bool) :=
  match (if task = 0 then none else ringByte s task asid va key) with
  | some b => some b
  | none => if (taskOf s task).any fun t => (Tbl.get? t.version key).isSome then none else ringByte s 0 asid va key

/-- Bytes with what the bounce rings hold over them. -/
def bounced (s : State) (task : Nat) (asid : BitVec 16) (va key : Nat) (bs : List (Byte × Bool)) : List (Byte × Bool) :=
  if ringsEmpty s then bs
  else (List.range bs.length).map fun i => (bounceByte s task asid (va + i) (key + i)).getD (bs.getD i (0, false))

/-- A write that follows, into a version or (task 0) into committed memory, takes its bytes out of the entries of the same that
stand for them (DEDUCED from R279, R415: an entry stands as if at its destination). -/
def strikeBounce (task : Nat) (asid : BitVec 16) (va key n : Nat) (s : State) : State :=
  strikeBy (fun d e j => entryOf task e && (List.range n).any fun i => (va + i) % 128 == j && entryHas s d asid (va + i) (key + i) e) s

/-- n bytes from key. -/
def viewBytes (s : State) (task : Nat) (l1g : Option (Tbl (List Byte))) (key n : Nat) : List Byte :=
  (List.range n).map fun i => viewByte s task l1g (key + i)

/-- The L1G that serves a context's loads; a system core has none (R181). -/
def l1gOf (s : State) (c : CtxId) : Option (Tbl (List Byte)) :=
  match c with
  | .sys _ _ => none
  | c => some (clusterOf s c.cluster).l1g

def l1gDropLine (s : State) (g key : Nat) : State := modCluster s g fun c => { c with l1g := Tbl.erase c.l1g (key / 64) }

/-- An acquire at DIE scope or wider drops every line (R186). -/
def l1gDropAll (s : State) (g : Nat) : State := modCluster s g fun c => { c with l1g := [] }

/-- Lines that the L1G of a cluster can keep: 1 MiB (R4). -/
def l1gLines : Nat := 16384

/-- The L1G may keep a clean copy of the line a load has read (R181); a full one keeps those it has (log 9). -/
def l1gKeep (s : State) (c : CtxId) (key : Nat) : State :=
  match c with
  | .sys _ _ => s
  | c =>
    match placeOf s key with
    | .nominal _ _ | .raw _ _ =>
      if lineVersioned s key then s
      else modCluster s c.cluster fun u =>
        { u with l1g := if Config.l1gKeeps s.tick && (decide (u.l1g.length < l1gLines) || (Tbl.get? u.l1g (key / 64)).isSome) then Tbl.set u.l1g (key / 64) (s.mem.readBytes (key / 64 * 64) 64) else u.l1g }
    | _ => s

/-! ## Conflicts and races (R307, R308) -/

/-- Two tasks whose conflicts are not races: one ordered launch, or one waits for the other (R295, R309). -/
def ordered (t u : Task) : Bool :=
  (getBit (t.record.flags.zeroExtend 64) 0 && getBit (u.record.flags.zeroExtend 64) 0 && t.record.launch == u.record.launch) ||
    t.record.preds.contains u.id || u.record.preds.contains t.id

/-- One of two accesses of a task precedes the other in recognised order (R296). -/
def inOrder (a : Acc) (x : Touch) : Bool :=
  x.who == a.agent || decide (x.epoch ≤ clockGet a.clock x.who) || decide (clockGet a.clock a.agent ≤ clockGet x.seen a.agent)

/-- An earlier access with which an access of a to the line races; those of a replay take no part in races (R443: they are served from
what the auditor has retained). -/
def raceOf (s : State) (a : Acc) (line : Nat) (write : Bool) : Option (Nat × Touch) :=
  match (if isReplay a.task then none else taskOf s a.task) with
  | none => none
  | some t =>
    s.tasks.findSome? fun u =>
      if u.id ≠ t.id && ordered t u then none
      else (u.touches.find? fun x => x.line == line && (x.write || write) && !(u.id == t.id && inOrder a x)).map fun x => (u.id, x)

/-- Records an access for later checks; a read that committed memory served counts for R309. -/
def noteTouch (id : Nat) (x : Touch) (exempt committed : Bool) (s : State) : State :=
  if isReplay id then s
  else modTask s id fun t =>
    { t with touches := if exempt || t.touches.contains x then t.touches else t.touches ++ [x]
             reads := if committed && !t.reads.contains x.line then t.reads ++ [x.line] else t.reads }

/-- The access of a to a line. -/
def touchOf (a : Acc) (line : Nat) (write : Bool) : Touch :=
  ⟨line, a.agent, clockGet a.clock a.agent, a.clock, write, a.bundle⟩

def touch (s : State) (a : Acc) (line : Nat) (write committed : Bool) : State :=
  noteTouch a.task (touchOf a line write) false committed s

/-! ## Reports and task-level faults (R360, R390) -/

/-- A fault that does not stop its context: REP set and a kind-7 record (R360, R411). A context that a trap has stopped keeps
the frame of that trap (DESIGN CHOICE: no rule says that a report may write over it; log 71). -/
def report (c : CtxId) (code : BitVec 8) (va : Nat) (bundle : Word) (s : State) : State :=
  let s := modCtx s c fun x => if x.run = .stopped then x else { x with
    epc := bundle, cause := causeWord code true false false false none, tval := BitVec.ofNat 64 va }
  postCtx s c bundle 7 code 0

/-- The lowest bit of a mask. -/
def lowestBit (mask : Nat) : Nat := ((List.range 96).find? fun i => mask.testBit i).getD 0

/-- A record of R381 to a cluster. -/
def postTask (s : State) (g : Nat) (t : Task) (kind : Nat) (b14 : BitVec 8) : State :=
  postRecord s g ⟨BitVec.ofNat 64 t.recAt, t.id, g, 0, kind, b14, BitVec.ofNat 8 t.runs⟩

/-- The contexts that belong to a task. -/
def ctxsOf (s : State) (id : Nat) : List CtxId :=
  (allCtx s).filterMap fun e => if e.2.task = id ∧ id ≠ 0 then some e.1 else none

/-- A task's version is dropped with its poison, its releases, its bounce entries and its claims (R317, R415, R421, R430). -/
def dropVersion (id : Nat) (s : State) : State :=
  match taskOf s id with
  | none => s
  | some t =>
    let own (e : Bounce) : Bool := decide (e.task = id) && !e.committed
    let claimed := s.dies.toList.flatMap fun st => (st.bounce.filter own).filterMap (·.pa)
    let s := modTask s id fun t => { t with version := [], lines := [], writers := [], vpoison := [], touches := [], reads := [] }
    let s := { s with releases := s.releases.filter fun r => r.home ≠ id ∨ id = 0 }
    let s := (List.finRange 8).foldl (fun s n => mapBounce n (fun e => if own e then { e with valid := false } else e) s) s
    (t.version.map (·.1) ++ claimed).foldl recomputeKey s

/-- A task-level fault: its contexts stop at their bundle boundaries without kind-3 records, its version is dropped,
and a kind-10 record goes to the lead cluster (R308, R390). -/
def taskFault (id : Nat) (code : BitVec 8) (s : State) : State :=
  match taskOf s id with
  | none => s
  | some t =>
    let s := (ctxsOf s id).foldl (fun s c => modCtx s c fun x =>
      if isActive x.run then { drain s c x with run := .stopped, status := putBit x.status stSTOP true, epc := x.pc } else x) s
    let s := if code = 0x18 then s else modTask (dropVersion id s) id fun t => { t with doomed := true, dropped := true }
    let s := modTask s id fun t => { t with fault := some code }
    postTask s (lowestBit t.dmask) t 10 code

/-- The race record of R442. -/
def raceRecord (a : Acc) (va : Nat) (u : Nat) (x : Touch) (s : State) : State :=
  logEntry 4 1 (some a.who) a.task
    (bytesOf 8 (va / 64 * 64) ++ bytesOf 4 u ++ bytesOf 4 0 ++ bytesOf 8 x.bundle.toNat ++ bytesOf 8 a.bundle.toNat) s

/-- A race that an access meets after its bundle has issued: the task-level fault, with the bundle's address in the frame of
its context (R308). -/
def raceAt (a : Acc) (va u : Nat) (x : Touch) (s : State) : State :=
  let active := isActive (getCtx s a.who).run && (getCtx s a.who).task == a.task
  let s := taskFault a.task 0x15 (raceRecord a va u x s)
  if active then
    modCtx s a.who fun y => { y with
      epc := a.bundle, tval := BitVec.ofNat 64 (va / 64 * 64), cause := causeWord 0x15 false false true false none }
  else s

/-! ## Performing an access -/

/-- How an access ends when it is performed. -/
inductive Perf (α : Type) where
  /-- performed -/
  | ok (s : State) (x : α)
  /-- serviced by the supervisor: 0x0A, 0x0B or 0x20 at this address (R411) -/
  | serviced (s : State) (code : BitVec 8) (va : Nat)
  /-- the pool cannot serve it (R420) -/
  | noSectors (s : State) (va : Nat)
  /-- a failure of R483 or poison (R183) -/
  | failed (s : State) (code : BitVec 8) (va : Nat)
  /-- the second access of a race (R308) -/
  | race (s : State) (va : Nat) (task : Nat) (first : Touch)
  /-- the version would exceed its budget (R389) -/
  | overflow (s : State)
  /-- the page lies on another device (R404) -/
  | remote (s : State) (dev : Nat)

/-- Some of n bytes lie neither in the task's version nor in its entries of the bounce rings (R309). -/
def fromMemory (s : State) (a : Acc) (va key : Nat) (own : List (Option Byte)) : Bool :=
  (List.range own.length).any fun i => (own.getD i none).isNone &&
    (ringsEmpty s || a.task == 0 || (ringByte s a.task a.asid (va + i) (key + i)).isNone)

/-- The bytes of an n-byte access at a key that a task's version holds. -/
def ownBytes (s : State) (task key n : Nat) : List (Option Byte) :=
  let own := match taskOf s task with | some t => t.version | none => []
  (List.range n).map fun i => Tbl.get? own (key + i)

/-- What n bytes at va of another device hold: the task's version over free bytes (R297, R446). -/
def remoteBytes (a : Acc) (va n : Nat) (s : State) : List Byte :=
  match (translate a .read va s).2 with
  | .ok key _ => ((ownBytes s a.task key n).zip (List.range n)).map fun e => e.1.getD ((Config.free s.tick (2 ^ 57 + va + e.2)).truncate 8)
  | _ => (List.range n).map fun i => (Config.free s.tick (2 ^ 57 + va + i)).truncate 8

/-! ## What an audit retains (R441) -/

/-- The audit record (R442); mask: the clusters of a replay, which one abandoned before has none of (free bytes; log 85). -/
def auditRecord (t : Task) (verdict reason : Nat) (sig replay : Word) (mask : Option Nat) (s : State) : State :=
  let where_ := (Config.free s.tick (2 ^ 57)).toNat
  let p := match mask with | some m => (lowestBit m / 12, lowestBit m) | none => (where_ % 8, where_ / 8 % 96)
  logEntryAt 2 1 { stack := lowestBit t.dmask / 12, clu := lowestBit t.dmask } t.id
    (bytesOf 12 t.dmask ++ bytesOf 1 p.1 ++ bytesOf 1 p.2 ++ bytesOf 1 verdict ++ bytesOf 1 reason ++ bytesOf 8 0 ++
      bytesOf 8 sig.toNat ++ bytesOf 8 replay.toNat) s

/-- An abandoned audit: a record, with the signatures that are known and the replay's place where it has one, AUDITS + 1, and the task
counts as not sampled (R441). -/
def abandonAudit (t : Task) (reason : Nat) (sig replay : Word) (mask : Option Nat) (s : State) : State :=
  let s := auditRecord t 4 reason sig replay mask s
  let s := if logBase s = 0 then s else logBump s 12
  modTask s t.id fun t => { t with audit := .none, retained := [] }

/-- The task runs as a sampled one. -/
def sampling (s : State) (id : Nat) : Option Task := (taskOf s id).bind fun t => if t.audit = .sampled ∧ t.phase = .dispatched then some t else none

/-- A sampled task's first read of a line that its own version does not serve: its content is retained, while there is room. -/
def retain (id line : Nat) (content : State → List Byte) (s : State) : State :=
  match sampling s id with
  | none => s
  | some t =>
    if (Tbl.get? t.retained line).isSome then s
    else if t.record.budget + 256 ≤ t.retained.length then abandonAudit t 1 0 0 none s
    else modTask s id fun t => { t with retained := Tbl.set t.retained line (content s) }

/-- A sampled task writes a host window. -/
def noteHostWrite (id : Nat) (hw : Bool) (s : State) : State :=
  match (if hw then sampling s id else none) with
  | some t => abandonAudit t 2 0 0 none s
  | none => s

/-- A replay's read of n bytes in one line, wherever it lies: its own writes over what the auditor has retained. A byte of a line that the
original has not read is free: no rule says what it reads as (DESIGN CHOICE, log 92). -/
def replayBytes (a : Acc) (va key n : Nat) (s : State) : List (Byte × Bool) :=
  let own := ownBytes s a.task key n
  let kept := retainedLine s a.task (key / 64)
  (List.range n).map fun i =>
    match (if ringsEmpty s then none else ringByte s a.task a.asid (va + i) (key + i)), own.getD i none, kept with
    | some b, _, _ => b
    | none, some b, _ => (b, linePoisoned s a.task (key + i))
    | none, none, some bs => (bs.getD ((key + i) % 64) 0, false)
    | none, none, none => ((Config.free s.tick (2 ^ 57 + va + i)).truncate 8, false)

/-- Reads n bytes that lie in one line, each with its poison; exempt accesses take no part in races (R307). home: at
the LLC, past the L1G. A line of another device is served here where the task's version holds all of it (R297). The pages of a replay are
not serviced: one that is no longer mapped is a fault of it (R441, R443; DEDUCED, log 92). -/
def readPage (a : Acc) (home exempt : Bool) (va n : Nat) (s : State) : Perf (List (Byte × Bool)) :=
  match translate a .read va s with
  | (s, .unmapped) => if isReplay a.task then .failed s 0x0C va else .serviced s 0x0A va
  | (s, .ballooned) => if isReplay a.task then .failed s 0x0C va else .serviced s 0x20 va
  | (s, .prot) => .failed s 0x0C va
  | (s, .poison) => .failed s 0x0D va
  | (s, .ok key hw) =>
    if isReplay a.task then .ok s (replayBytes a va key n s)
    else if !homeOpen s a.who.stack (placeOf s key) then
      if 100000 ≤ a.agent then .failed s 0x0C va else .failed (poisonRecord a.who a.bundle key 5 2 s) 0x0D va
    else
    match (if hw || exempt then none else raceOf s a (key / 64) false) with
    | some (u, x) => .race s va u x
    | none =>
      let own := ownBytes s a.task key n
      let committed := own.any (·.isNone)
      let s := if hw then s else noteTouch a.task (touchOf a (key / 64) false) exempt (committed && fromMemory s a va key own) s
      let l1g := if home then none else l1gOf s a.who
      let s := if committed then retain a.task (key / 64) (fun s => match placeOf s key with
          | .remote _ => remoteBytes a (va / 64 * 64) 64 s
          | _ => (bounced s 0 a.asid (va / 64 * 64) (key / 64 * 64) ((viewBytes s 0 l1g (key / 64 * 64) 64).map fun b => (b, false))).map (·.1)) s else s
      let poisoned := (List.range n).any fun i => linePoisoned s a.task (key + i)
      match placeOf s key, committed with
      | .remote d, true => .remote s d
      | .remote _, false => .ok s (own.map fun b => (b.getD 0, poisoned))
      | _, _ =>
        let bs := bounced s a.task a.asid va key ((viewBytes s a.task l1g key n).map fun b => (b, poisoned))
        let s := if home then s else l1gKeep s a.who key
        .ok s bs

/-- Bytes left in va's 64-byte line. -/
def lineLeft (va : Nat) : Nat := 64 - va % 64

/-- Reads n bytes line by line, so that each line and each page stands on its own; fuel bounds the lines. -/
def readLines (a : Acc) (home exempt : Bool) : Nat → Nat → Nat → State → Perf (List (Byte × Bool))
  | 0, _, _, s => .ok s []
  | fuel + 1, va, n, s =>
    let k := min n (lineLeft va)
    if k = 0 then .ok s []
    else
      match readPage a home exempt va k s with
      | .ok s bs =>
        match readLines a home exempt fuel (va + k) (n - k) s with
        | .ok s rest => .ok s (bs ++ rest)
        | r => r
      | r => r

/-- n bytes from va with their poison, which no consumer has read yet (R431). -/
def readMarked (a : Acc) (home exempt : Bool) (va n : Nat) (s : State) : Perf (List (Byte × Bool)) :=
  readLines a home exempt (n / 64 + 2) va n s

/-- n bytes from va; a poisoned byte fails, and SYS_TVAL is the first (R183; DESIGN CHOICE, log 53). -/
def readGlobal (a : Acc) (home exempt : Bool) (va n : Nat) (s : State) : Perf (List Byte) :=
  match readMarked a home exempt va n s with
  | .ok s bs =>
    match (List.range n).find? fun i => (bs.getD i (0, false)).2 with
    | some i => .failed s 0x0D (va + i)
    | none => .ok s (bs.map (·.1))
  | .serviced s c v => .serviced s c v
  | .noSectors s v => .noSectors s v
  | .failed s c v => .failed s c v
  | .race s v u x => .race s v u x
  | .overflow s => .overflow s
  | .remote s d => .remote s d

/-- A store into a version (R306, R389, R430). -/
def versionStore (a : Acc) (key va : Nat) (bs : List Byte) (s : State) : State :=
  modTask s a.task fun t =>
    let v := (List.range bs.length).foldl (fun v i => Tbl.set v (key + i) (bs.getD i 0)) t.version
    { t with version := v, lines := Tbl.set t.lines (key / 64) (va / 64)
             writers := if 2 ^ 56 ≤ key then Tbl.set t.writers (key / 64) (a.who, a.bundle) else t.writers
             vpoison := if wholeLine (key / 64) key bs.length then t.vpoison.filter (· ≠ key / 64)
               else if s.poison.contains (key / 64) && !covers t.version (key / 64 * 64) 64 then t.vpoison ++ [key / 64]
               else t.vpoison }

/-- A plain write into a version (home: its task; 0: committed memory) ends the release chain of the words it covers there (R295 item 4). -/
def forgetReleases (home key n : Nat) (s : State) : State :=
  { s with releases := s.releases.filter fun r => !(r.home == home && decide (key ≤ r.word + 3) && decide (r.word < key + n)) }

/-- A store that lies in one Sump register; the device step that it causes moves next (R422–R425; spec/95). -/
def sumpPut (n : Fin 8) (off : Nat) (bs : List Byte) (s : State) : State :=
  let st := stackOf s n
  let o := off / 8 * 8
  let old := bytesOf 8 (if o = 0x58 then 0 else sumpRead st o)
  let v := natOf (old.take (off - o) ++ bs ++ old.drop (off - o + bs.length)) % 2 ^ 64
  let push (s : State) (op : Instr) (num : Nat) : State := { s with agenda := s.agenda ++ [{ op := op, arg := { die := n, num := num } }] }
  let cfg (f : Sump → Sump) : State := modStack s n fun st => { st with sump := f st.sump }
  match o with
  | 0x00 =>
    let s := if v.testBit 0 then (if st.sump.en then s else push s .sumpCtlEn 0) else cfg fun u => { u with en := false }
    if v.testBit 1 then push s .sumpCtlRetry 0 else s
  | 0x08 => if st.sump.en then s else cfg fun u => { u with nom := min (v % 2 ^ 26) 50331648 }
  | 0x10 => if st.sump.en then s else cfg fun u => { u with rsv := v % 2 ^ 28 }
  | 0x18 => cfg fun u => { u with dir := BitVec.ofNat 64 (bitsAt v 12 25 * 4096) }
  | 0x20 => cfg fun u => { u with bnc := BitVec.ofNat 64 (bitsAt v 44 20 * 2 ^ 44 + bitsAt v 12 25 * 4096) }
  | 0x28 => cfg fun u => { u with ovf := BitVec.ofNat 64 (bitsAt v 44 20 * 2 ^ 44 + bitsAt v 12 25 * 4096) }
  | 0x38 => cfg fun u => { u with hwm := bitsAt v 32 28, lwm := bitsAt v 0 28 }
  | 0x40 => cfg fun u => { u with list := BitVec.ofNat 64 (bitsAt v 12 44 * 4096) }
  | 0x48 => push s .sumpLptrTail (bitsAt v 16 12)
  | 0x50 => push s .sumpDefl (bitsAt v 12 44 * 4096)
  | 0x58 => if v.testBit 0 then push s .sumpStatOosClear 0 else s
  | _ => s

/-- A store to the Sump registers that it covers, from the lowest (R422); fuel bounds them. -/
def sumpFrom (n : Fin 8) : Nat → Nat → List Byte → State → State
  | 0, _, _, s => s
  | fuel + 1, off, bs, s =>
    let k := 8 - off % 8
    if bs.isEmpty then s else sumpFrom n fuel (off + k) (bs.drop k) (sumpPut n off (bs.take k) s)

def sumpStore (n : Fin 8) (off : Nat) (bs : List Byte) (s : State) : State := sumpFrom n (bs.length / 8 + 2) off bs s

/-- What a party finds at the home of an address, past every version (R163, R190, R269, R279, R415), or the cause of its
failure (R430, R447, R472). -/
def homeLook (a : Acc) (va key w : Nat) (s : State) : Except (BitVec 8) Nat :=
  let seen := bounced s 0 a.asid va key ((List.range w).map fun i => (homeByte s (key + i), s.poison.contains (key / 64)))
  if !homeOpen s a.who.stack (placeOf s key) then .error 0x0C
  else if seen.any (·.2) then .error 0x0D
  else .ok (natOf (seen.map (·.1)))

/-- A read-modify-write of w bytes in one line at their home, past every version (R190, R269, R384): f gives what it
writes over what it finds; none writes nothing and leaves D as it is (R189, R405), where k is claim. Its answer: what it has
found, and where. -/
def homeRmw (a : Acc) (k : Kind) (va w : Nat) (f : Nat → Option Nat) (s : State) : Perf (Nat × Nat) :=
  match translate a k va s with
  | (s, .unmapped) => .serviced s 0x0B va
  | (s, .ballooned) => .serviced s 0x20 va
  | (s, .prot) => .failed s 0x0C va
  | (s, .poison) => .failed s 0x0D va
  | (s, .ok key _) =>
    match placeOf s key with
    | .remote d => .remote s d
    | p =>
      match homeLook a va key w s with
      | .error c => .failed s c va
      | .ok old =>
        match f old with
        | none => .ok s (old, key)
        | some new =>
          let s := if k = Kind.claim then (translate a .write va s).1 else s
          match p with
          | .sump n off => .ok (sumpStore n off (bytesOf w new) s) (old, key)
          | p =>
            let t := committedStore key (bytesOf w new) (strikeBounce 0 a.asid va key w s)
            match p with
            | .nominal n page =>
              match expandFor a.unit n page s t with
              | .ok t => .ok (l1gDropLine (recompute t n page) a.who.cluster key) (old, key)
              | .error t => .noSectors t va
            | _ => .ok (l1gDropLine t a.who.cluster key) (old, key)

/-- Writes bytes that lie in one line (R181, R306, R389, R419). direct: not into a version (R190, R269). exempt: takes
no part in races (R307). A replay writes into its version alone: a page that is not mapped, or a host window, is a fault of it (R441, R443;
DEDUCED, log 92). -/
def writeLine (a : Acc) (direct exempt : Bool) (va : Nat) (bs : List Byte) (s : State) : Perf Unit :=
  match translate a .write va s with
  | (s, .unmapped) => if isReplay a.task then .failed s 0x0C va else .serviced s 0x0B va
  | (s, .ballooned) => if isReplay a.task then .failed s 0x0C va else .serviced s 0x20 va
  | (s, .prot) => .failed s 0x0C va
  | (s, .poison) => .failed s 0x0D va
  | (s, .ok key hw) =>
    let plain := direct || hw || (taskOf s a.task).isNone
    if isReplay a.task && plain then .failed s 0x0C va
    else if !homeOpen s a.who.stack (placeOf s key) then .failed s 0x0C va
    else
    match placeOf s key with
    | .sump n off => .ok (sumpStore n off bs s) ()
    | p =>
      match (if exempt || plain then none else raceOf s a (key / 64) true) with
      | some (u, x) => .race s va u x
      | none =>
        let full := match taskOf s a.task with
          | some t => !plain && (Tbl.get? t.lines (key / 64)).isNone && decide (t.record.budget ≤ t.lines.length)
          | none => false
        if full then .overflow s
        else
          let s1 := noteHostWrite a.task hw (if exempt || plain then s else touch s a (key / 64) true false)
          let s1 := if exempt then s1 else forgetReleases (if plain then 0 else a.task) key bs.length s1
          let w := strikeBounce (if plain then 0 else a.task) a.asid va key bs.length
            (if plain then committedStore key bs s1 else versionStore a key va bs s1)
          match p with
          | .remote d =>
            if plain then .remote s1 d else .ok w ()
          | .nominal n page =>
            match expandFor a.unit n page s1 w with
            | .ok w => .ok (l1gDropLine (if plain then recompute w n page else w) a.who.cluster key) ()
            | .error s => .noSectors s va
          | _ => .ok (l1gDropLine w a.who.cluster key) ()

/-- Writes bytes line by line; fuel bounds the lines. A part already made stands (R180: each page on its own). -/
def writeLines (a : Acc) (direct exempt : Bool) : Nat → Nat → List Byte → State → Perf Unit
  | 0, _, _, s => .ok s ()
  | fuel + 1, va, bs, s =>
    let k := min bs.length (lineLeft va)
    if k = 0 then .ok s ()
    else
      match writeLine a direct exempt va (bs.take k) s with
      | .ok s _ => writeLines a direct exempt fuel (va + k) (bs.drop k) s
      | r => r

def writeGlobal (a : Acc) (direct exempt : Bool) (va : Nat) (bs : List Byte) (s : State) : Perf Unit :=
  writeLines a direct exempt (bs.length / 64 + 2) va bs s

/-- Marks the line of a page that has taken poisoned bytes (R279, R430). -/
def poisonPiece (a : Acc) (va : Nat) (s : State) : State :=
  match translate a .write va s with
  | (s, .ok key hw) =>
    let l := key / 64
    match (if hw then none else taskOf s a.task) with
    | some _ => modTask s a.task fun t => { t with vpoison := if t.vpoison.contains l then t.vpoison else t.vpoison ++ [l] }
    | none => { s with poison := if s.poison.contains l then s.poison else s.poison ++ [l] }
  | (s, _) => s

end Sys2Proof.Machine
end

