-- ==== Sys2Proof/Machine/Operands.lean ====
section
/-! DEFINITION. Operand forms: effective addresses (R134), local addresses (R169), the checks of R172 and R463, element
types of vectors (R202), loads and stores of the scratchpad with regions and poison, and global accesses with the
held unit (R182) and the side log (R184, R185). -/

namespace Sys2Proof.Machine

/-! ## Features (R118, R364) and profiles (R100, R352) -/

def accepted (s : State) (bit : Nat) : Bool := getBit s.dev.featAck[0] bit

/-- Encodings of a feature that is not accepted are reserved (R118). -/
def needFeature (bit : Nat) (s : State) (k : State → Res) : Res := if accepted s bit then k s else reserved s

/-- A VA, VB or MX slot on a core of the system profile is an illegal bundle (R100). -/
def needCompute (s : State) (k : State → Res) : Res :=
  if s.who.isSys then trapAt 3 0x01 s.frame.parcel s else if accepted s 0 then k s else reserved s

/-- An LD or ST form that names a v, m or w register, which the system profile lacks (R352; log 16). -/
def needFiles (s : State) (k : State → Res) : Res := if s.who.isSys then reserved s else k s

/-! ## Effective addresses (R134) -/

/-- Σ idx(k) × stride[k] over the active levels. -/
def strideSum (s : State) (a : AR) : Word :=
  (List.finRange 6).foldl (fun x l =>
    match s.ctx.loops[l.val]? with
    | some v => x + v.index * (rdStride s a l).signExtend 64
    | none => x) 0

/-- EA for an offset already scaled. -/
def ea (s : State) (a : AR) (off : Word) : Word := rdBase s a + strideSum s a + off

/-- SExt(off) × sz for an n-bit offset field. -/
def offset {n : Nat} (off : BitVec n) (sz : Nat) : Word := off.signExtend 64 * BitVec.ofNat 64 sz

/-! ## Local addresses (R169) -/

def coreBytes : Nat := 8388608

/-- The core and core-local offset that a local address reaches. -/
def localPlace (own addr : Nat) : Option (Nat × Nat) :=
  if addr < coreBytes then some (own, addr)
  else if 0x02000000 ≤ addr ∧ addr < 0x04000000 then
    some (own / 4 * 4 + (addr - 0x02000000) / coreBytes, (addr - 0x02000000) % coreBytes)
  else none

/-- The scratchpad key of a place. -/
def spmKey (p : Nat × Nat) : Nat := p.1 * coreBytes + p.2

/-- The first failing check of global addresses (R170, R171). -/
def globalCheck (align : Nat) : List Word → Option (BitVec 8 × Word)
  | [] => none
  | a :: rest =>
    if 2 ^ 56 ≤ a.toNat then some (0x0C, a)
    else if a.toNat % align ≠ 0 then some (0x08, a)
    else globalCheck align rest

/-- A global range whose top passes 2^56 fails R170 at its first byte past it. -/
def globalRange (a : Word) (n : Nat) : Option (BitVec 8 × Word) :=
  if 2 ^ 56 < a.toNat + n then some (0x0C, if a.toNat < 2 ^ 56 then BitVec.ofNat 64 (2 ^ 56) else a) else none

/-! ## Regions (R193–R195) -/

/-- The set region of context x that holds a core-local offset. -/
def regionAt (x : Ctx) (off : Nat) : Option (Nat × Region) :=
  (List.range 16).findSome? fun i =>
    match x.regions.toList.getD i none with
    | some r => if r.lbase ≤ off ∧ off < r.lbase + r.len then some (i, r) else none
    | none => none

def granuleOf (r : Region) (off : Nat) : Nat := (off - r.lbase) / 4096

/-- The granule that an access at a place by context c must fill first (R194). -/
def needsFill (s : State) (c : CtxId) (p : Nat × Nat) : Option (Nat × Nat) :=
  if p.1 = c.coreNo then
    match regionAt (getCtx s c) p.2 with
    | some (i, r) => if r.filled.contains (granuleOf r p.2) then none else some (i, granuleOf r p.2)
    | none => none
  else none

/-- A store into a read-only region (R194). -/
def readOnly (s : State) (p : Nat × Nat) : Bool :=
  p.1 == s.who.coreNo && (match regionAt s.ctx p.2 with | some (_, r) => !r.rw | none => false)

def setRegion (x : Ctx) (i : Nat) (r : Option Region) : Ctx :=
  { x with regions := x.regions.set (i % 16) r (Nat.mod_lt _ (by decide)) }

/-- Marks a byte that the owning context has stored (R195). -/
def markDirty (c : CtxId) (p : Nat × Nat) (s : State) : State :=
  if p.1 = c.coreNo then
    match regionAt (getCtx s c) p.2 with
    | some (i, r) =>
      if r.rw ∧ ¬ r.dirty.contains (p.2 - r.lbase) then
        modCtx s c fun x => setRegion x i (some { r with dirty := insertNat (p.2 - r.lbase) r.dirty })
      else s
    | none => s
  else s

/-! ## Watchpoints (R463) and the commit buffer (R248) -/

def clusterLocal (p : Nat × Nat) : Nat := p.1 % 4 * coreBytes + p.2

/-- The address that a watchpoint compares for a core: a local one after the reduction of R169. -/
def watchAddr (own : Nat) (w : Watch) : Nat :=
  if w.glob then w.addr else match localPlace own w.addr with
    | some p => clusterLocal p
    | none => 2 ^ 64

/-- The watchpoint met by an n-byte access; addr is the cluster-local or the global address. -/
def watched (s : State) (glob write : Bool) (n addr : Nat) : Option Nat :=
  match s.who with
  | .user k x =>
    let meets (w : Watch) : Bool :=
      w.glob == glob && (if write then w.writes else w.reads) && w.cores.getLsbD (k.val % 4) && w.ctxs.getLsbD x.val &&
        decide (watchAddr k.val w < addr + n) && decide (addr < watchAddr k.val w + 2 ^ w.size)
    if getBit s.dev.debug 1 && !s.ctx.resume then (clusterOf s s.who.cluster).watches.findIdx? meets else none
  | _ => none

/-- The trap of the first access that meets a watchpoint (R463), else k. An access is the address that is compared and the one that
its slot names; kinds: a read (false), a write (true), or both. -/
def watchKinds (glob : Bool) (kinds : List Bool) (n : Nat) (addrs : List (Nat × Nat)) (s : State) (k : Res) : Res :=
  match addrs.findSome? fun a => kinds.findSome? fun w => (watched s glob w n a.1).map fun i => (i, a.2) with
  | some h => trapAt 14 0x1A s.frame.base { s with frame := { s.frame with hit := some h } }
  | none => k

/-- Bytes that the issuing core's commit buffer holds (R248 rule 4). -/
def heldByTst (s : State) (p : Nat × Nat) (n : Nat) : Bool :=
  (coreOf s s.who.coreNo).stores.any fun t =>
    t.core == p.1 && decide (t.off < p.2 + n) && decide (p.2 < t.off + t.size)

/-! ## Scratchpad bytes and poison (R173, R430) -/

def spmRead (s : State) (key n : Nat) : List Byte := s.spm.readBytes key n

def spmPoisoned (s : State) (key n : Nat) : Bool := s.spmPoison.any fun g => decide (8 * g < key + n) && decide (key < 8 * g + 8)

/-- Writes scratchpad bytes; a granule written wholly loses its poison (R430). -/
def spmWrite (key : Nat) (bs : List Byte) (s : State) : State :=
  { s with spm := s.spm.writeBytes key bs
           spmPoison := s.spmPoison.filter fun g => !(decide (key ≤ 8 * g) && decide (8 * g + 8 ≤ key + bs.length)) }

/-- Granules of the scratchpad become poisoned (R430). -/
def markSpm (gs : List Nat) (s : State) : State :=
  { s with spmPoison := gs.foldl (fun l g => if l.contains g then l else l ++ [g]) s.spmPoison }

/-- Words of the scratchpad in the release list lie past every global key. -/
def localWord (key : Nat) : Nat := 2 ^ 64 + key

/-- Whether pieces of (key, bytes) cover a byte. -/
def pieceHas (ps : List (Nat × List Byte)) (k : Nat) : Bool := ps.any fun e => decide (e.1 ≤ k) && decide (k < e.1 + e.2.length)

/-! ## Results of loads -/

/-- Bytes of one element of a shape. -/
def LoadShape.size : LoadShape → Nat
  | .scalar n _ => n
  | .vec => 4
  | .bcast => 4
  | .mask => 8
  | .wit => 136

def wordOfBytes (bs : List Byte) : Word := BitVec.ofNat 64 (natOf bs)

def signExt (n : Nat) (x : Word) : Word :=
  if getBit x (8 * n - 1) then x ||| ~~~(BitVec.ofNat 64 (2 ^ (8 * n) - 1)) else x

/-- The witness that an image holds (R178). -/
def witOf (bs : List Byte) : Wit :=
  ⟨Vector.ofFn fun i => BitVec.ofNat 16 (natOf ((bs.drop (2 * i.val)).take 2)), BitVec.ofNat 32 (natOf ((bs.drop 128).take 4))⟩

/-- The value that the loaded bytes make. -/
def shapeVal (sh : LoadShape) (bs : List Byte) : RegVal :=
  match sh with
  | .scalar n signed => .word (if signed then signExt n (wordOfBytes bs) else wordOfBytes bs)
  | .vec => .vec (Vector.ofFn fun i => BitVec.ofNat 32 (natOf ((bs.drop (4 * i.val)).take 4)))
  | .bcast => .vec (Vector.replicate 64 (BitVec.ofNat 32 (natOf (bs.take 4))))
  | .mask => .word (wordOfBytes bs)
  | .wit => .wit (witOf bs)

/-- The result of an access gets its value; RESULT_LANDING lets it arrive (R53). -/
def fillLanding (c : CtxId) (id : Nat) (val : RegVal) (s : State) : State :=
  modCtx s c fun x => { x with lands := x.lands.map fun l => if l.id = id ∧ ¬ l.ready then { l with val := val } else l }

/-- A destination becomes unpredictable and stops being interlocked (R183, R483). -/
def spoilLanding (c : CtxId) (id : Nat) (s : State) : State :=
  modCtx s c fun x => { x with lands := x.lands.map fun l =>
    if l.id = id ∧ ¬ l.ready then { l with spoiled := true, ready := true } else l }

/-- The register that waits for access id gets a placeholder of its kind. -/
def blankVal : RegName → RegVal
  | .s _ => .word 0
  | .a _ => .base 0
  | .p _ => .flag false
  | .b _ => .word 0
  | .v _ => .vec zeroVec
  | .m _ => .word 0
  | .w _ => .wit Wit.zero

/-- A late fault of an access: poison keeps its own bundle's address (R183), the rest follow R483. -/
def lateAccess (c : CtxId) (code : BitVec 8) (va : Nat) (bundle : Word) (s : State) : State :=
  addLate s c ⟨.access, code, BitVec.ofNat 64 va, 0, if code = 0x0D then some bundle else none⟩

/-- A failure of R483, or poison, at a context: a late fault, a record when it has retired, nothing when it has ended (R250). -/
def failAt (c : CtxId) (code : BitVec 8) (va : Nat) (bundle : Word) (s : State) : State :=
  match (getCtx s c).run with
  | .retired => postCtx s c bundle 3 code 2
  | .ended | .halted | .free => s
  | _ => lateAccess c code va bundle s

/-! ## The release list (R295 item 4), by 32-bit word -/

/-- The words that n bytes from key cover. -/
def wordsIn (key n : Nat) : List Nat := (List.range ((n + 3) / 4)).map fun i => key + 4 * i

/-- The releases that context c puts on a word, by scope: another of its own in the same chain joins what it publishes. -/
def addRelease (w home who : Nat) (k : Nat × List (Nat × Nat)) (l : List Release) : List Release :=
  let same (r : Release) : Bool := r.word == w && r.home == home && r.who == who && r.scope == k.1
  if l.any same then l.map fun r => if same r then { r with clock := clockJoin r.clock k.2 } else r
  else l ++ [⟨w, home, who, k.1, k.2⟩]

/-- What context c publishes, by scope, stands on its words, in committed memory or in a version, beside the releases that their chain
holds already. -/
def putReleases (c : CtxId) (ks : Tbl (List (Nat × Nat))) (home key n : Nat) (s : State) : State :=
  if ks.isEmpty then s
  else { s with releases := (wordsIn key n).foldl (fun l w => ks.foldl (fun l k => addRelease w home c.num k l) l) s.releases }

/-- Which copy of a word a task reads: that of its version (its number), or the committed one (0). -/
def wordHome (s : State) (task w : Nat) : Nat := if (taskOf s task).any fun t => covers t.version w 4 then task else 0

/-- The releases that a task finds on the words that n bytes at a key cover. -/
def releasesOn (s : State) (task key n : Nat) : List Release :=
  s.releases.filter fun r => decide (key ≤ r.word + 3) && decide (r.word < key + n) && r.home == wordHome s task r.word

/-- The commit of a version: its releases stand on the committed words, where they end the chains of what it has written over. -/
def commitReleases (t : Task) (s : State) : State :=
  { s with releases := (s.releases.filter fun r => !(r.home == 0 && covers t.version r.word 4)).map fun r =>
      if r.home = t.id then { r with home := 0 } else r }

/-- A clock joins those published at its scope (R294). -/
def fencedClock (t : Tbl (List (Nat × Nat))) (scope : Nat) (k : List (Nat × Nat)) : Tbl (List (Nat × Nat)) :=
  Tbl.set t scope (clockJoin ((Tbl.get? t scope).getD []) k)

/-- What a write carries: the clocks of the release fences before it, each at its fence's scope, and where it is a release its own
at its own scope (DEDUCED from R191, R294, R295; log 7). -/
def carried (fences : Tbl (List (Nat × Nat))) (rel : Option (Nat × List (Nat × Nat))) : Tbl (List (Nat × Nat)) :=
  match rel with
  | some (scope, k) => fencedClock fences scope k
  | none => fences

/-- Context c releases n bytes at a key at a scope now (R187). -/
def publish (c : CtxId) (scope key n : Nat) (s : State) : State :=
  let x := getCtx s c
  modCtx (putReleases c (carried x.relClock (some (scope, x.clock))) 0 key n s) c fun x => clockTick x c

/-- The scope contains the two contexts, and the edge stays in recognised order (R293, R294, R296): CORE and CLUSTER hold
compute contexts, and control and system cores stand in DEVICE scope and wider. -/
def ordersAcross (c p : Nat) (scope : Nat) : Bool :=
  if c = p then true
  else if 1536 ≤ c ∨ 1536 ≤ p then decide (4 ≤ scope)
  else if c / 4 = p / 4 then decide (1 ≤ scope)
  else decide (c / 16 = p / 16) && decide (2 ≤ scope)

/-- The clocks that context c finds on the words it reads at a scope. -/
def releaseClock (c : CtxId) (scope : Nat) (rs : List Release) : List (Nat × Nat) :=
  rs.foldl (fun k r => if ordersAcross c.num r.who (min scope r.scope) then clockJoin k r.clock else k) []

/-- An acquire that reads words on which these releases stand (R187). -/
def acquireFrom (c : CtxId) (scope : Nat) (rs : List Release) (s : State) : State :=
  let k := releaseClock c scope rs
  if k.isEmpty then s else modCtx s c fun x => { x with clock := clockJoin x.clock k }

/-- An acquire that reads n bytes of committed memory or of a scratchpad (R187). -/
def acquireWord (c : CtxId) (scope key n : Nat) (s : State) : State := acquireFrom c scope (releasesOn s 0 key n) s

/-- A plain load of released words notes each release under its party and scope: a later acquire fence orders it (R295 item 4). -/
def noteReleases (c : CtxId) (rs : List Release) (s : State) : State :=
  let found := rs.filter fun r => ordersAcross c.num r.who r.scope
  if found.isEmpty then s
  else modCtx s c fun x => { x with readClock := found.foldl (fun t r => fencedClock t (r.who + 4096 * r.scope) r.clock) x.readClock }

/-- A plain load of n bytes of committed memory or of a scratchpad. -/
def noteRead (c : CtxId) (key n : Nat) (s : State) : State := noteReleases c (releasesOn s 0 key n) s

/-- What an acquire fence of a scope orders of the releases that earlier loads have read (R294, R295 item 4). -/
def readBefore (c : CtxId) (scope : Nat) (t : Tbl (List (Nat × Nat))) : List (Nat × Nat) :=
  t.foldl (fun k e => if ordersAcross c.num (e.1 % 4096) (min scope (e.1 / 4096)) then clockJoin k e.2 else k) []

/-- The key that an address translates to, for the release list. -/
def keyOf (a : Acc) (va : Nat) (s : State) : Nat :=
  match (translate a .read va s).2 with
  | .ok key _ => key
  | _ => va

/-! ## Images of matrix operations (R240–R242) -/

/-- The rows of a tile whose words are unpredictable. -/
def freeRows (s : State) : Vector Vec 64 :=
  Vector.ofFn fun i => Vector.ofFn fun j => (Config.free s.tick (2 ^ 50 + 64 * i.val + j.val)).truncate 32

def freeFlags (s : State) : BitVec 4 := (Config.free s.tick (2 ^ 50 + 4096)).truncate 4

def setTile (core p : Nat) (f : Tile → Tile) (s : State) : State :=
  modCore s core fun c => { c with tiles := c.tiles.set (p % 16) (f (c.tiles.toList.getD (p % 16) Tile.zero)) (Nat.mod_lt _ (by decide)) }

/-- Bytes of A under a format: 16 KiB in ternary mode (R240). -/
def sizeA (fmt : BitVec 32) : Nat := if bitsAt fmt.toNat 4 4 = 12 then 16384 else 4096

/-- Bytes of the scale block: 512 for E2M1, 256 for the 8-bit formats, 0 without scaling (R240). -/
def sizeScale (fmt : BitVec 32) : Nat :=
  if bitsAt fmt.toNat 12 2 = 0 then 0 else if bitsAt fmt.toNat 0 4 = 11 then 512 else 256

/-- The images of an operation as (core-local offset, length). -/
def imagesOf (k : MatKind) : List (Nat × Nat) :=
  match k with
  | .mma aA aB aS _ fmt => [(aA, sizeA fmt), (aB, 4096)] ++ (if sizeScale fmt = 0 then [] else [(aS, sizeScale fmt)])
  | .tld addr => [(addr, 16384)]

/-- A write of n scratchpad bytes from a key meets the images of operations in flight on that core: the tile becomes
unpredictable. The writes of an operation that was captured are expected (R242). -/
def spoilImages (key n : Nat) (writer : Option Nat) (s : State) : State :=
  let core := key / coreBytes
  let meets (o : MatOp) : Bool :=
    !(writer.any fun i => o.deps.contains i) &&
      (imagesOf o.kind).any fun e => decide (core * coreBytes + e.1 < key + n) && decide (key < core * coreBytes + e.1 + e.2)
  let ops := (coreOf s core).queue.filter meets
  if ops.isEmpty then s
  else
    let mark (o : MatOp) : MatOp := { o with spoil := true, result := if o.start.isSome then freeRows s else o.result }
    let s := modCore s core fun c => { c with queue := c.queue.map fun o => if meets o then mark o else o }
    ops.foldl (fun s o => if o.start.isSome then setTile core o.tile (fun t => { t with rows := freeRows s }) s else s) s

/-! ## Bytes of copies in flight (R267) -/

/-- The part (offset, length) of [lo, lo + len) that n bytes at a meet. -/
def meetRange (lo len a n : Nat) : Option (Nat × Nat) :=
  if lo < a + n ∧ a < lo + len then some (max a lo - lo, min (a + n) (lo + len) - max a lo) else none

/-- Bytes of an operation's destination. -/
def CopyOp.total (o : CopyOp) : Nat := match o.kind with | .gath rl _ => o.n * 2 ^ rl | _ => o.n

def localKey (o : CopyOp) (a : Nat) : Nat := match localPlace o.ctx.coreNo a with | some p => spmKey p | none => 2 ^ 64

/-- Destination parts that a write of n scratchpad bytes from a key disturbs. -/
def meetsLocal (key n : Nat) (o : CopyOp) : List (Nat × Nat) :=
  let d := if o.dsp = 0 then (meetRange (localKey o o.dst) o.total key n).toList else []
  match o.kind with
  | .gath rl _ => d ++ (match meetRange (localKey o o.src) (4 * o.n) key n with
    | some (i, k) => [(i / 4 * 2 ^ rl, ((i + k + 3) / 4 - i / 4) * 2 ^ rl)]
    | none => [])
  | _ => d ++ if o.ssp = 0 then (meetRange (localKey o o.src) o.n key n).toList else []

/-- n bytes at va as (offset, key, length), a page at a time; a page that is not mapped has none. -/
def keySpans (s : State) (n : Fin 8) (ptbase : Word) (va len : Nat) : List (Nat × Nat × Nat) :=
  (List.range ((va + len - 1) / 4096 + 1 - va / 4096)).filterMap fun i =>
    let lo := max va ((va / 4096 + i) * 4096)
    let hi := min (va + len) ((va / 4096 + i + 1) * 4096)
    (tableKey s n ptbase lo).map fun key => (lo - va, key, hi - lo)

/-- Where a write of global bytes goes: its address, its length and its pages. -/
structure Strike where
  asid : BitVec 16
  va : Nat
  n : Nat
  spans : List (Nat × Nat × Nat)
  task : Nat

def strikeOf (s : State) (a : Acc) (va n : Nat) : Strike := ⟨a.asid, va, n, keySpans s a.who.stack a.ptbase va n, a.task⟩

/-- The global ranges of an operation as (offset in its destination, address, length); rows of a gather by its present indices. -/
def globalRanges (s : State) (o : CopyOp) : List (Nat × Nat × Nat) :=
  let glob (sp a : Nat) : Bool := sp == 2 || (sp == 3 && a / 2 ^ 56 == s.dev.no)
  match o.kind with
  | .gath rl table => (List.range o.n).map fun i => (i * 2 ^ rl, table + s.spm.readNat (localKey o o.src + 4 * i) 4 * 2 ^ rl, 2 ^ rl)
  | _ => (if glob o.dsp o.dst then [(0, o.dst % 2 ^ 56, o.n)] else []) ++ (if glob o.ssp o.src then [(0, o.src % 2 ^ 56, o.n)] else [])

/-- Destination parts that a write disturbs: bytes of its address space, or bytes that other pages or address spaces map to the
same place (R267); those of a replay are its own (R443). -/
def meetsGlobal (s : State) (w : Strike) (o : CopyOp) : List (Nat × Nat) :=
  if (isReplay w.task || isReplay o.task) && w.task != o.task then []
  else (globalRanges s o).flatMap fun r =>
    (if o.asid = w.asid then (meetRange r.2.1 r.2.2 w.va w.n).toList.map fun e => (r.1 + e.1, e.2) else []) ++
      (keySpans s o.ctx.stack o.ptbase r.2.1 r.2.2).flatMap fun p => w.spans.flatMap fun q =>
        (meetRange p.2.1 p.2.2 q.2.1 q.2.2).toList.map fun e => (r.1 + p.1 + e.1, e.2)

/-- A write meets the operations of a cluster that neither made it nor waited for it. -/
def spoilCopies (clu : Nat) (parts : CopyOp → List (Nat × Nat)) (writer : Option Nat) (s : State) : State :=
  let u := clusterOf s clu
  if u.copies.isEmpty && u.gathers.isEmpty then s
  else
    let mark (o : CopyOp) : CopyOp :=
      if writer.any fun i => i == o.id || o.deps.contains i then o else { o with spoilt := o.spoilt ++ parts o }
    setCluster s clu { u with copies := u.copies.map mark, gathers := u.gathers.map mark }

/-- A write of scratchpad bytes by a slot or an engine operation meets operations in flight (R242, R267). -/
def meetLocal (key n : Nat) (writer : Option Nat) (s : State) : State :=
  spoilImages key n writer (spoilCopies (key / coreBytes / 4) (meetsLocal key n) writer s)

/-- Copies or gathers are in flight. -/
def copiesAlive (s : State) : Bool := s.clusters.any fun e => !(e.2.copies.isEmpty && e.2.gathers.isEmpty)

/-- A write of global bytes by a meets the copies in flight of every cluster (R267). -/
def meetGlobal (a : Acc) (va n : Nat) (writer : Option Nat) (s : State) : State :=
  if !copiesAlive s then s
  else
    let w := strikeOf s a va n
    s.clusters.foldl (fun s e => spoilCopies e.1 (meetsGlobal s w) writer s) s

/-! ## Stores to the scratchpad -/

/-- A store of context c in pieces of (key, bytes), a later piece over an earlier one, with what it publishes (R174–R178, R195,
R430). -/
def storePieces (c : CtxId) (ps : List (Nat × List Byte)) (ks : Tbl (List (Nat × Nat))) (s : State) : State :=
  let s := ps.foldl (fun s e => putReleases c ks 0 (localWord e.1) e.2.length (forgetReleases 0 (localWord e.1) e.2.length
    { s with spm := s.spm.writeBytes e.1 e.2 })) s
  let s := { s with spmPoison := s.spmPoison.filter fun g => !((List.range 8).all fun i => pieceHas ps (8 * g + i)) }
  ps.foldl (fun s e => (List.range e.2.length).foldl (fun s i =>
    markDirty c ((e.1 + i) / coreBytes, (e.1 + i) % coreBytes) s) s) s

/-- A store of a made: an STRL's publishes, at its scope, what the context had observed at its issue (R187). -/
def performStore (a : Acc) (ps : List (Nat × List Byte)) (rel : Option Nat) (s : State) : State :=
  storePieces a.who ps (carried a.fences (rel.map fun scope => (scope, a.clock))) s

/-! ## The side log (R184, R185) -/

def blockOf (va : Nat) : Nat := va / 128 * 128

/-- The result of an atomic function on w bytes, with the events of FADD (R188). -/
def atomNew (fn : AtomFn) (w old v : Nat) : Coded :=
  let m := 2 ^ (8 * w)
  let o := intOf (8 * w) true old
  let x := intOf (8 * w) true v
  match fn with
  | .add => ((old + v) % m, [])
  | .and => (old &&& v % m, [])
  | .or => (old ||| v % m, [])
  | .xor => (old ^^^ v % m, [])
  | .min => (wrapInt (8 * w) (min o x), [])
  | .max => (wrapInt (8 * w) (max o x), [])
  | .minz => (min old (v % m), [])
  | .maxz => (max old (v % m), [])
  | .xchg => (v % m, [])
  | .fadd => fop2 .f32 numAdd (old % 2 ^ 32) (v % 2 ^ 32)
  | .cas e => (if old = e.toNat % m then v % m else old, [])

/-- The bytes of memory from which bytes are made, below a log entry (R185 rule 5): a store serves its own, a reduction
needs its whole element. -/
def needBelow (e : LogEntry) (need : List Nat) : List Nat :=
  match e.op with
  | .store => need.filter fun a => (Tbl.get? e.bytes a).isNone
  | .reduce _ addr w _ =>
    if need.any fun a => decide (addr ≤ a) && decide (a < addr + w) then
      (List.range w).foldl (fun l i => if l.contains (addr + i) then l else insertNat (addr + i) l) need
    else need

/-- Known bytes as a logged entry leaves them (R185 rule 5); a reduction whose element is not known serves no byte here. -/
def forwardOne (t : Tbl Byte) (e : LogEntry) : Tbl Byte :=
  match e.op with
  | .store => e.bytes.foldl (fun t b => Tbl.set t b.1 b.2) t
  | .reduce fn addr w v =>
    match (List.range w).mapM fun i => Tbl.get? t (addr + i) with
    | some bs =>
      let new := bytesOf w (atomNew fn w (natOf bs) v.toNat).1
      (List.range w).foldl (fun t i => Tbl.set t (addr + i) (new.getD i 0)) t
    | none => t

/-- The entry changes one of these bytes. -/
def touches (e : LogEntry) (need : List Nat) : Bool :=
  match e.op with
  | .store => e.bytes.any fun b => need.contains b.1
  | .reduce _ addr w _ => need.any fun a => decide (addr ≤ a) && decide (a < addr + w)

/-- The entries of a core's log from which n bytes at va are made, oldest first, and the bytes of memory below them: a reduction
brings in the older entries of its whole element (R185 rule 5). -/
def logServes (s : State) (core : Nat) (asid : BitVec 16) (va n : Nat) : List Nat × List LogEntry :=
  ((coreOf s core).sidelog.filter fun e => e.asid == asid).foldr
    (fun e r => if touches e r.1 then (needBelow e r.1, e :: r.2) else r) ((List.range n).map (va + ·), [])

/-- The bytes that a store entry over poisoned ones leaves poisoned: a granule of 8 bytes stays so unless it covers all of it (R430). -/
def storeBad (e : LogEntry) (bad : List Nat) : List Nat :=
  let kept := bad.filter fun a => !((List.range 8).all fun i => (Tbl.get? e.bytes (a / 8 * 8 + i)).isSome)
  kept ++ ((e.bytes.map (·.1)).filter fun a => !kept.contains a && kept.any fun x => x / 8 == a / 8) ++ e.bad

/-- The bytes that entries leave poisoned (R430): a store over whole granules clears them, a reduction spreads them over its element. -/
def badAfter (es : List LogEntry) : List Nat :=
  es.foldl (fun bad e =>
    match e.op with
    | .store => storeBad e bad
    | .reduce _ addr w _ =>
      if !e.bad.isEmpty || bad.any fun a => decide (addr ≤ a) && decide (a < addr + w) then bad ++ (List.range w).map (addr + ·) else bad) []

/-- Entries of a core's log that meet [va, va + n) in an address space. -/
def logMeets (s : State) (core : Nat) (asid : BitVec 16) (va n : Nat) : List LogEntry :=
  (coreOf s core).sidelog.filter fun e => e.asid == asid && decide (e.block < va + n) && decide (va < e.block + 128) &&
    (match e.op with
     | .store => e.bytes.any fun b => decide (va ≤ b.1) && decide (b.1 < va + n)
     | .reduce _ addr w _ => decide (addr < va + n) && decide (va < addr + w))

/-- Rising addresses as runs of (address, length). -/
def spansOf : List Nat → List (Nat × Nat)
  | [] => []
  | a :: rest =>
    match spansOf rest with
    | (c, n) :: more => if c = a + 1 then (a, n + 1) :: more else (a, 1) :: (c, n) :: more
    | [] => [(a, 1)]

/-- Reads spans of bytes, each by its address. -/
def readSpans (a : Acc) (sync : Bool) : List (Nat × Nat) → State → Perf (Tbl Byte)
  | [], s => .ok s []
  | (va, n) :: rest, s =>
    match readGlobal a sync sync va n s with
    | .ok s bs =>
      match readSpans a sync rest s with
      | .ok s more => .ok s (((List.range n).map fun i => (va + i, bs.getD i 0)) ++ more)
      | r => r
    | .serviced s c v => .serviced s c v
    | .noSectors s v => .noSectors s v
    | .failed s c v => .failed s c v
    | .race s v u x => .race s v u x
    | .overflow s => .overflow s
    | .remote s d => .remote s d

/-- The entries that have served a load note it: its line is known when they replay (R307). -/
def noteReader (a : Acc) (sync : Bool) (va : Nat) (es : List LogEntry) (s : State) : State :=
  let r : Reader := ⟨a.task, sync, touchOf a (va / 64) false⟩
  modCore s a.who.coreNo fun c => { c with
    sidelog := c.sidelog.map fun e => if es.contains e && !e.readers.contains r then { e with readers := e.readers ++ [r] } else e }

/-- A context's global load of n bytes, with side-log forwarding (R181, R185 rule 5). sync: an LDAQ, which reads at the
home LLC and takes no part in races (R186, R307). Only the bytes that the log does not supply are read (R309). -/
def readForwarded (a : Acc) (sync : Bool) (va n : Nat) (s : State) : Perf (List Byte) :=
  let (need, es) := if a.who.isSys then ([], []) else logServes s a.who.coreNo a.asid va n
  if es.isEmpty then readGlobal a sync sync va n s
  else
    match readSpans a sync (spansOf need) s with
    | .ok s base =>
      let t := es.foldl forwardOne base
      let s := noteReader a sync va es s
      match (List.range n).find? fun i => (badAfter es).contains (va + i) with
      | some i => .failed s 0x0D (va + i)
      | none => .ok s ((List.range n).map fun i => (Tbl.get? t (va + i)).getD 0)
    | .serviced s c v => .serviced s c v
    | .noSectors s v => .noSectors s v
    | .failed s c v => .failed s c v
    | .race s v u x => .race s v u x
    | .overflow s => .overflow s
    | .remote s d => .remote s d

/-- Reads elements of n bytes at addresses, in order. -/
def readElems (a : Acc) (sync : Bool) (n : Nat) : List Nat → State → Perf (List Byte)
  | [], s => .ok s []
  | va :: rest, s =>
    match readForwarded a sync va n s with
    | .ok s bs =>
      match readElems a sync n rest s with
      | .ok s more => .ok s (bs ++ more)
      | r => r
    | r => r

/-- The bytes of a load that another device answers, as it issues: each as this device shows it, else free (R297, R446; log 66). -/
def readRemote (a : Acc) (sync : Bool) : List Nat → State → Perf (List Byte)
  | [], s => .ok s []
  | va :: rest, s =>
    let here : Perf (List Byte) := match readForwarded a sync va 1 s with
      | .remote s _ => .ok s (remoteBytes a va 1 s)
      | r => r
    match here with
    | .ok s bs =>
      match readRemote a sync rest s with
      | .ok s more => .ok s (bs ++ more)
      | r => r
    | r => r

/-- The elements of a load, and the device that answers where this one does not hold them. -/
def readLoad (a : Acc) (sync : Bool) (n : Nat) (vas : List Nat) (s : State) : Perf (List Byte × Option Nat) :=
  let whole (dev : Option Nat) : Perf (List Byte) → Perf (List Byte × Option Nat)
    | .ok s bs => .ok s (bs, dev)
    | .serviced s c v => .serviced s c v
    | .noSectors s v => .noSectors s v
    | .failed s c v => .failed s c v
    | .race s v u x => .race s v u x
    | .overflow s => .overflow s
    | .remote s d => .remote s d
  match readElems a sync n vas s with
  | .remote s dev => whole (some dev) (readRemote a sync (vas.flatMap fun va => (List.range n).map (va + ·)) s)
  | r => whole none r

/-- A plain store's bytes over those of an entry, with the poison that they leave (R430). -/
def mergeStore (y e : LogEntry) : LogEntry :=
  { y with bytes := e.bytes.foldl (fun t b => Tbl.set t b.1 b.2) y.bytes, bad := storeBad e y.bad }

/-- A write enters the log; a plain store may merge into the youngest entry (R185 rules 1–3). The model merges where the
context has observed and released nothing new between the two (R295). -/
def enterLog (core : Nat) (e : LogEntry) (s : State) : State :=
  modCore s core fun c =>
    match c.sidelog.getLast? with
    | some y =>
      if y.op = .store ∧ e.op = .store ∧ y.block = e.block ∧ y.ctx = e.ctx ∧ y.task = e.task ∧ y.run = e.run ∧ y.asid = e.asid ∧
          !y.exempt ∧ !e.exempt ∧ y.seen = e.seen ∧ y.fences = e.fences then
        { c with sidelog := c.sidelog.dropLast ++ [mergeStore y e] }
      else { c with sidelog := c.sidelog ++ [e] }
    | none => { c with sidelog := [e] }

/-- The blocks of a write's bytes: one entry each (R185 rule 1). -/
def blocksOf (va n : Nat) : List Nat := (List.range ((va + n - 1) / 128 + 1 - va / 128)).map fun i => (va / 128 + i) * 128

def storeEntry (a : Acc) (va : Nat) (bs : List Byte) (exempt : Bool) (rel : Option (Nat × List (Nat × Nat)))
    (waits : Option (BitVec 8)) (b : Nat) : LogEntry :=
  { ctx := a.who, task := a.task, run := a.run, asid := a.asid, ptbase := a.ptbase, block := b
    bytes := (List.range bs.length).filterMap fun i => if blockOf (va + i) = b then some (va + i, bs.getD i 0) else none
    op := .store, bundle := a.bundle, exempt := exempt, rel := rel, seen := a.clock, fences := a.fences, readers := [], bad := []
    waits := waits }

/-- A store enters the log behind the existing entries; only its first block can have been tried (R185 rule 4). -/
def logStore (a : Acc) (va : Nat) (bs : List Byte) (exempt : Bool) (rel : Option (Nat × List (Nat × Nat))) (waits : Option (BitVec 8))
    (s : State) : State :=
  (blocksOf va bs.length).foldl (fun s b =>
    enterLog a.who.coreNo (storeEntry a va bs exempt rel (if b = blockOf va then waits else none) b) s) s

/-- The context has an entry in its core's log, or region bytes on their way to it (R185 rule 9, R196). -/
def inLog (s : State) (c : CtxId) : Bool :=
  (coreOf s c.coreNo).sidelog.any (fun e => e.ctx == c) || (coreOf s c.coreNo).wback.any fun e => e.2.ctx == c

def logLength (s : State) (core : Nat) : Nat := (coreOf s core).sidelog.length

/-- The frame of a bundle that a task-level fault stops, as R102 leaves it (R308, R389). -/
def taskTrap (a : Acc) (code : BitVec 8) (tval : Word) (s : State) : Res :=
  let s := taskFault a.task code s
  let s := modCtx s a.who fun y => { y with
    epc := s.frame.base, tval := tval, pc := s.frame.base, cause := causeWord code false false true false (some s.frame.slot) }
  .next { s with frame := { s.frame with out := .trapped 15 } }

/-- A race stops the bundle and the later task (R308). -/
def raceTrap (a : Acc) (va u : Nat) (x : Touch) (s : State) : Res :=
  taskTrap a 0x15 (BitVec.ofNat 64 (va / 64 * 64)) (raceRecord a va u x s)

/-- A write beyond the budget stops the bundle and the task (R389). -/
def overflowTrap (a : Acc) (s : State) : Res := taskTrap a 0x16 0 s

/-- A domain port carries traffic: it is up, no drain round of an update of it is left, and no update of its peer has declared the
link dead (R446). -/
def carries (s : State) (p : Fin 12) : Bool :=
  let q := s.dev.ports[p.val]
  q.up && !s.dev.deadLinks.contains (q.peerDev, q.peerPort) && !(s.dev.drains.any fun d => d.origin == s.dev.no && d.port == p.val)

/-- Another device of the domain is reached: through a port whose peer it is, or by a route beyond a peer that no dead link
closes (R446; log 72). -/
def reaches (s : State) (d : Nat) : Bool :=
  d != s.dev.no && (List.finRange 12).any fun p =>
    carries s p && (s.dev.ports[p.val].peerDev == d || Config.routed p.val d s.dev.deadLinks)

/-- A remote store of bytes, poisoned or not, leaves for its device, and is kept until that acknowledges it (R430, R446). -/
def sendMarked (bad : Bool) (a : Acc) (dev va : Nat) (bs : List Byte) (s : State) : State :=
  modDev s fun d => { d with outseq := d.outseq + 1
                             outreqs := d.outreqs ++ [⟨dev, d.outseq, a.who, a.bundle, a.asid, va, bs, bad, (getCtx s a.who).task⟩] }

/-- A remote store leaves for its device. -/
def sendRemote (a : Acc) (dev va : Nat) (bs : List Byte) (s : State) : State := sendMarked false a dev va bs s

/-- The trap of a system-profile context whose access needs service or fails (R360, R371). -/
def sysFault (code : BitVec 8) (va : Nat) (s : State) : Res := trapAt 15 code (BitVec.ofNat 64 va) s

/-- A system core's write that no sectors are at hand for waits, its bundle stalled, while Sump can still inflate; with the
balloon list empty it is out of space (R420, R426). -/
def sysShort (a : Acc) (va : Nat) (s : State) : Res :=
  let n := match placeOf s (keyOf a va s) with | .nominal n _ => n | _ => a.who.stack
  if listEmpty (stackOf s n).sump then
    sysFault 0x19 va (dropWaiters a.unit (modStack s n fun st => { st with sump := { st.sump with oos := true } }))
  else stall s

/-! ## The global memory unit (R182, R198, R483) -/

/-- An access of a that waits; first: the address that names it. -/
def newWait (a : Acc) (id first : Nat) (kind : WaitKind) : Wait :=
  ⟨a.who, id, a.bundle, a.task, a.run, a.asid, a.ptbase, a.clock, a.fences, first, kind⟩

def addWait (core : Nat) (w : Wait) (s : State) : State := modCore s core fun c => { c with waits := c.waits ++ [w] }

/-- The core's global unit is held for a failing access and reports it (R182); fill: the access is a region's fill (R194). -/
def hold (fill : Bool) (a : Acc) (code : BitVec 8) (va : Nat) (s : State) : State :=
  report a.who code va a.bundle (modCore s a.who.coreNo fun c => { c with held := some ⟨va, a.asid, a.ptbase, code, a.who, a.bundle, fill⟩ })

/-- The unit is held until sectors are at hand; Sump makes the report (R190, R426). -/
def holdSectors (fill : Bool) (a : Acc) (va : Nat) (s : State) : State :=
  modCore s a.who.coreNo fun c => { c with held := some ⟨va, a.asid, a.ptbase, 0x19, a.who, a.bundle, fill⟩ }

/-- The unit makes no access now: it is held, or earlier global accesses of the core wait (R182, R196). -/
def isHeld (s : State) (c : CtxId) : Bool :=
  let k := coreOf s c.coreNo
  k.held.isSome || !k.wback.isEmpty ||
    k.waits.any fun w => match w.kind with
      | .load g _ _ _ _ => g
      | .gstore _ _ _ _ => true
      | .atom g _ _ _ _ _ _ => g
      | _ => false

/-- Where a store of a lands: in its task's version (the task), or in committed memory (0), and the key. -/
def homeOf (a : Acc) (va : Nat) (s : State) : Nat × Nat :=
  match (translate a .read va s).2 with
  | .ok key hw => (if hw || (taskOf s a.task).isNone then 0 else a.task, key)
  | _ => (0, va)

/-- What a performed store leaves in the release list: it ends the chain of its words, and begins one where it publishes. -/
def storeOrder (a : Acc) (va n : Nat) (rel : Option (Nat × List (Nat × Nat))) (s : State) : State :=
  if rel.isNone && a.fences.isEmpty then s
  else
    let (home, key) := homeOf a va s
    putReleases a.who (carried a.fences rel) home key n (forgetReleases home key n s)

/-- The parts of n bytes at va that lie in one page each (R180). -/
def pageParts (va : Nat) (bs : List Byte) : List (Nat × List Byte) :=
  let k := 4096 - va % 4096
  if bs.length ≤ k then [(va, bs)] else [(va, bs.take k), (va + k, bs.drop k)]

/-- One page's part of a store: made now while the log is empty, else logged; whether it has entered the log (R184). -/
def unitPart (a : Acc) (va : Nat) (bs : List Byte) (exempt : Bool) (rel : Option (Nat × List (Nat × Nat))) (s : State) : Perf Bool :=
  if logLength s a.who.coreNo = 0 then
    match writeGlobal { a with unit := logUnit a.who.coreNo } false exempt va bs s with
    | .ok s _ => .ok (storeOrder a va bs.length rel s) false
    | .serviced s c v => .ok (report a.who c v a.bundle (logStore a va bs exempt rel (some c) s)) true
    | .noSectors s _ => .ok (logStore a va bs exempt rel (some 0x19) s) true
    | .failed s c v => .ok (failAt a.who c v a.bundle s) false
    | .remote s d => .ok (sendRemote a d va bs s) false
    | .race s v u x => .race s v u x
    | .overflow s => .overflow s
  else .ok (logStore a va bs exempt rel none s) true

/-- The parts in order; a store of which one has entered the log counts one class-14 event (R184). -/
def unitParts (a : Acc) (exempt : Bool) (rel : Option (Nat × List (Nat × Nat))) : List (Nat × List Byte) → Bool → State → Perf Unit
  | [], logged, s => .ok (if logged then countWork a.who a.bundle [14] s else s) ()
  | (va, bs) :: rest, logged, s =>
    match unitPart a va bs exempt rel s with
    | .ok s l => unitParts a exempt rel rest (logged || l) s
    | .race s v u x => .race s v u x
    | .overflow s => .overflow s
    | .serviced s c v => .serviced s c v
    | .noSectors s v => .noSectors s v
    | .failed s c v => .failed s c v
    | .remote s d => .remote s d

/-- A store of a compute context that the unit makes now, or that its log takes, each page on its own (R180, R184, R185).
none: the log has no room. -/
def unitStore (a : Acc) (va : Nat) (bs : List Byte) (exempt : Bool) (rel : Option (Nat × List (Nat × Nat))) (s : State) : Option (Perf Unit) :=
  let n := logLength s a.who.coreNo
  if n ≠ 0 ∧ 32 < n + (blocksOf va bs.length).length then none
  else some (unitParts a exempt rel (pageParts va bs) false s)

/-- A global store of the issuing context: a system-profile context writes committed memory and faults precisely
(R306, R360); a compute context's store waits behind a held unit. exempt and rel: an STRL, which publishes at its scope (R187,
R294, R307). Where it stops its bundle nothing of it has been made, nor has it met a copy in flight (R102, R267, R308, R389). -/
def globalStore (va : Nat) (bs : List Byte) (exempt : Bool) (rel : Option (Nat × List (Nat × Nat))) (s : State) (k : State → Res) : Res :=
  let a := accOf s s.who
  let made (t : State) : Res := k (meetGlobal a va bs.length none t)
  if a.who.isSys then
    match writeGlobal a true exempt va bs s with
    | .ok t _ => made (storeOrder a va bs.length rel t)
    | .serviced _ c v => sysFault c v s
    | .noSectors t v => sysShort a v t
    | .failed _ c v => sysFault c v s
    | .race _ v u x => raceTrap a v u x s
    | .overflow _ => overflowTrap a s
    | .remote t d => made (sendRemote a d va bs t)
  else if isHeld s a.who then made (addWait a.who.coreNo (newWait a (fresh s) va (.gstore va bs exempt rel)) (bump s))
  else
    match unitStore a va bs exempt rel s with
    | some (.ok t _) => made t
    | some (.race _ v u x) => raceTrap a v u x s
    | some (.overflow _) => overflowTrap a s
    | _ => stall s

/-- The releases that a load of n bytes at va reads from: those of the log entries that have served its words, a store's in place of
what stands below it and a reduction's beside it, else those of its version or of committed memory (R185 rule 5, R295 item 4). -/
def loadedReleases (a : Acc) (va n : Nat) (s : State) : List Release :=
  let key := keyOf a va s
  let below := releasesOn s a.task key n
  let es := if a.who.isSys then [] else (logServes s a.who.coreNo a.asid va n).2
  es.foldl (fun rs e =>
    let own := (carried e.fences e.rel).map fun k => (⟨key, 0, e.ctx.num, k.1, k.2⟩ : Release)
    match e.op with
    | .store => (rs.filter fun r => !(e.bytes.any fun b => decide (r.word ≤ key + (b.1 - va)) && decide (key + (b.1 - va) < r.word + 4))) ++ own
    | .reduce _ _ _ _ => rs ++ own) below

/-- The order that a load's words carry: an LDAQ acquires at a scope, a plain load notes what it read (R187, R295). -/
def loadOrder (a : Acc) (acq : Option Nat) (n : Nat) (vas : List Nat) (s : State) : State :=
  match acq with
  | some scope =>
    let s := vas.foldl (fun s va => acquireFrom a.who scope (loadedReleases a va n s) s) s
    if 3 ≤ scope then l1gDropAll s a.who.cluster else s
  | none =>
    if s.releases.isEmpty && (coreOf s a.who.coreNo).sidelog.isEmpty then s
    else vas.foldl (fun s va => noteReleases a.who (loadedReleases a va n s) s) s

/-- A 136-byte image's checksum (R235) over its first 132 bytes. -/
def imageSum (bs : List Byte) : BitVec 32 :=
  let f := foldWords 0 ((wordsOf 33 (bs.take 132)))
  f.extractLsb' 0 32 ^^^ f.extractLsb' 32 32

/-- A bad witness image (R236). -/
def badImage (bs : List Byte) : Bool :=
  let tag := natOf ((bs.drop 128).take 4)
  natOf ((bs.drop 132).take 4) != (imageSum bs).toNat || tag / 2 ^ 28 != 0 ||
    (bitsAt tag 16 1 == 1 && (bitsAt tag 24 4 == 0 || decide (7 < bitsAt tag 24 4)))

/-- The value that loaded bytes give d; a bad image leaves unpredictable entries and V = 0 (R236), and here its KIND, CNT,
EW and SEQ are free too (DESIGN CHOICE; log 52). -/
def loadedVal (d : RegName) (sh : LoadShape) (bs : List Byte) (s : State) : RegVal :=
  if sh = .wit ∧ badImage bs then
    let w := freeWit s d
    .wit { w with tag := w.tag &&& 0x0FFEFFFF }
  else shapeVal sh bs

/-- The trap of a bad image waits for schedule cycle c + 5 (R236). -/
def imageFault (c : CtxId) (sh : LoadShape) (bs : List Byte) (addr issued : Nat) (s : State) : State :=
  if sh = .wit ∧ badImage bs then addLate s c ⟨.image, 0x0E, BitVec.ofNat 64 addr, issued + 5, none⟩ else s

/-- A global load of a compute context: performed now unless the unit is held; its result is interlocked (R53, R180). -/
def loadGlobal (d : RegName) (sh : LoadShape) (L : Nat) (vas : List Nat) (acq : Option Nat) (s : State) (k : State → Res) : Res :=
  let a := accOf s s.who
  let id := fresh s
  let s := bump s
  let land' (s : State) (v : RegVal) : State := landWith d v L false id s
  let wait (s : State) : State := addWait a.who.coreNo (newWait a id (vas.headD 0) (.load true d sh vas acq)) s
  if isHeld s a.who then k (wait (land' s (blankVal d)))
  else
    match readLoad a acq.isSome sh.size vas s with
    | .ok s (bs, none) => k (loadOrder a acq sh.size vas (land' s (shapeVal sh bs)))
    | .ok s (bs, some dev) => k (addWait a.who.coreNo (newWait a id (vas.headD 0) (.remote dev d sh vas acq bs)) (land' s (blankVal d)))
    | .serviced s c v => k (wait (hold false a c v (land' s (blankVal d))))
    | .noSectors s v => k (wait (holdSectors false a v (land' s (blankVal d))))
    | .failed s c v => k (lateAccess a.who c v a.bundle (spoilLanding a.who id (land' s (blankVal d))))
    | .race s v u x => raceTrap a v u x s
    | .overflow s => overflowTrap a s
    | .remote s _ => k s

/-- A global load of a system-profile context: faults go to its own handler (R360). -/
def loadSys (d : RegName) (sh : LoadShape) (L : Nat) (vas : List Nat) (acq : Option Nat) (s : State) (k : State → Res) : Res :=
  let a := accOf s s.who
  match readLoad a acq.isSome sh.size vas s with
  | .ok s (bs, none) => k (loadOrder a acq sh.size vas (land d (shapeVal sh bs) L s))
  | .ok s (bs, some dev) =>
    let id := fresh s
    k (addWait a.who.coreNo (newWait a id (vas.headD 0) (.remote dev d sh vas acq bs)) (landWith d (blankVal d) L false id (bump s)))
  | .serviced s c v => sysFault c v s
  | .noSectors s v => sysFault 0x19 v s
  | .failed s c v => sysFault c v s
  | .race s v u x => raceTrap a v u x s
  | .overflow s => overflowTrap a s
  | .remote s _ => k s

/-! ## Local accesses: checks, and the granules they wait for (R169–R172, R179, R194) -/

/-- The first failing check of one lane: its address reaches a scratchpad, is aligned, and may be written. core: where a
contiguous access must stay (R171, R194); an aligned element never leaves a core. A contiguous access of which one word is both
misaligned and crosses its core's end, a witness image or a lane of a vector, raises 0x06 (DESIGN CHOICE; log 53). -/
def laneFault (s : State) (core : Option Nat) (n align : Nat) (write : Bool) (a : Word) : Option (BitVec 8) :=
  match localPlace s.who.coreNo a.toNat with
  | none => some 0x06
  | some p =>
    if core.any fun k => k ≠ p.1 ∨ coreBytes < p.2 + n then some 0x06
    else if a.toNat % align ≠ 0 then some 0x08
    else if write ∧ (readOnly s p ∨ readOnly s (p.1, p.2 + n - 1)) then some 0x0C
    else none

def laneFaults (s : State) (core : Option Nat) (n align : Nat) (write : Bool) : List Word → Option (BitVec 8 × Word)
  | [] => none
  | a :: rest =>
    match laneFault s core n align write a with
    | some c => some (c, a)
    | none => laneFaults s core n align write rest

/-- A synchronising access of the context has not been performed: its later accesses wait (R187). -/
def acquirePending (s : State) : Bool :=
  awaits s ((coreOf s s.who.coreNo).waits.any fun w => w.ctx == s.who &&
    (match w.kind with
     | .load _ _ _ _ (some _) => true
     | .remote _ _ _ _ (some _) _ => true
     | .atom _ _ _ _ _ _ oc => oc != 0
     | _ => false))

/-- The checks and stalls of n-byte accesses at local addresses, then the places (R169–R172, R463, R248). kinds: what a watchpoint
takes the access for, once its places are known. -/
def localTouch (contig : Bool) (n align : Nat) (write : Bool) (kinds : List (Nat × Nat) → List Bool) (addrs : List Word) (s : State)
    (k : List (Nat × Nat) → Res) : Res :=
  let own := s.who.coreNo
  let core := if contig then (addrs.head?.bind fun a => localPlace own a.toNat).map (·.1) else none
  match laneFaults s core n align write addrs with
  | some (c, a) => trapAt 12 c a s
  | none =>
    let ps := addrs.filterMap fun a => localPlace own a.toNat
    watchKinds false (kinds ps) n ((ps.map clusterLocal).zip (addrs.map BitVec.toNat)) s
      (if acquirePending s || awaits s (ps.any fun p => heldByTst s p n) then stall s else k ps)

def localAccess (contig : Bool) (n align : Nat) (write : Bool) (addrs : List Word) (s : State) (k : List (Nat × Nat) → Res) : Res :=
  localTouch contig n align write (fun _ => [write]) addrs s k

/-- Granules of the scratchpad that n bytes from a key touch. -/
def granulesOf (key n : Nat) : List Nat := [key / 4096, (key + n - 1) / 4096]

/-- The granules of a waiting local access. -/
def waitGranules (w : Wait) : List Nat :=
  match w.kind with
  | .load false _ sh keys _ => keys.flatMap fun k => granulesOf k sh.size
  | .store ps _ => ps.flatMap fun e => granulesOf e.1 e.2.length
  | .atom false _ n _ key _ _ => granulesOf key n
  | _ => []

/-- The region granule that must be filled before context c touches n bytes at a key (R194). -/
def unfilled (s : State) (c : CtxId) (key n : Nat) : Option (Nat × Nat) :=
  (needsFill s c (key / coreBytes, key % coreBytes)).orElse fun _ =>
    needsFill s c ((key + n - 1) / coreBytes, (key + n - 1) % coreBytes)

/-- An access of n bytes at each key by context c waits for a fill, or behind an access that does (R194). -/
def mustWait (s : State) (c : CtxId) (n : Nat) (keys : List Nat) : Bool :=
  keys.any fun k => (unfilled s c k n).isSome ||
    (coreOf s c.coreNo).waits.any fun w => (waitGranules w).any fun g => (granulesOf k n).contains g

/-- The local address of a key, as the core own names it. -/
def localName (own key : Nat) : Nat :=
  if key / coreBytes = own then key % coreBytes else 0x02000000 + key % (4 * coreBytes)

/-- What a local load's words carry: an LDAQ acquires at a scope, a plain load notes what it read (R187, R295). -/
def localOrder (c : CtxId) (acq : Option Nat) (n : Nat) (keys : List Nat) (s : State) : State :=
  keys.foldl (fun s k => match acq with
    | some scope => acquireWord c scope (localWord k) n s
    | none => noteRead c (localWord k) n s) s

/-- A local load performed: its result, late when another core's scratchpad served it; poison spoils it (R179, R183). The
SYS_TVAL of poison is the poisoned element's address, in core-local form for the context's own core (DESIGN CHOICE: R183
says "the address"; log 53). -/
def performLocal (c : CtxId) (id : Nat) (d : RegName) (sh : LoadShape) (keys : List Nat) (acq : Option Nat) (bundle : Word) (s : State) : State :=
  let bs := keys.flatMap fun k => spmRead s k sh.size
  let s := localOrder c acq sh.size keys s
  match keys.find? fun k => spmPoisoned s k sh.size with
  | some k => failAt c 0x0D (localName c.coreNo k) bundle (spoilLanding c id s)
  | none => fillLanding c id (loadedVal d sh bs s) s

/-- A local load of d (R174–R178); post: the base register and its step. acq: an LDAQ's scope. -/
def loadLocal (d : RegName) (sh : LoadShape) (L : Nat) (align : Nat) (contig : Bool) (addrs : List Word) (acq : Option Nat) (s : State) (k : State → Res) : Res :=
  localAccess contig sh.size align false addrs s fun ps =>
    let c := s.who
    let id := fresh s
    let keys := ps.map spmKey
    if mustWait s c sh.size keys then
      k (addWait c.coreNo (newWait (accOf s c) id (addrs.headD 0).toNat (.load false d sh keys acq)) (landWith d (blankVal d) L false id (bump s)))
    else
      let near := ps.all (fun p => p.1 == c.coreNo) && !(keys.any fun k => spmPoisoned s k sh.size)
      let bs := keys.flatMap fun k => spmRead s k sh.size
      if near then
        let s := localOrder c acq sh.size keys s
        k (imageFault c sh bs ((addrs.headD 0).toNat) s.ctx.sc (land d (loadedVal d sh bs s) L s))
      else
        k (imageFault c sh bs ((addrs.headD 0).toNat) s.ctx.sc
          (performLocal c id d sh keys acq s.frame.base (landWith d (blankVal d) L false id (bump s))))

/-- A local store of pieces at places (R174–R178). rel: an STRL's scope, published as the store is made (R187). -/
def storeLocal (ps : List ((Nat × Nat) × List Byte)) (n : Nat) (rel : Option Nat) (s : State) (k : State → Res) : Res :=
  let c := s.who
  let pieces := ps.map fun e => (spmKey e.1, e.2)
  let s := pieces.foldl (fun s e => meetLocal e.1 e.2.length none s) s
  if mustWait s c n (pieces.map (·.1)) then
    k (addWait c.coreNo (newWait (accOf s c) (fresh s) ((pieces.map (·.1)).headD 0) (.store pieces rel)) (bump s))
  else k (performStore (accOf s c) pieces rel s)

/-- Post-increment by the access size; a write of the base (R104, R134). -/
def postInc (post : Bool) (a : AR) (step : Nat) (s : State) : State :=
  if post then land (.a a) (.base (rdBase s a + BitVec.ofNat 64 step)) 1 s else s

def postReg (post : Bool) (a : AR) : List RegName := if post then [.a a] else []

/-! ## What a release waits for, and what an acquire does (R186) -/

/-- Every earlier access of the context has reached the point that R186 names for the scope. -/
def releaseReady (s : State) (c : CtxId) (scope : Nat) : Bool :=
  let x := coreOf s c.coreNo
  let waiting (glob : Bool) := x.waits.any fun w => w.ctx == c &&
    (match w.kind with
     | .load g _ _ _ _ => g == glob
     | .remote _ _ _ _ _ _ => glob
     | .store _ _ => !glob
     | .gstore _ _ _ _ => glob
     | .atom g _ _ _ _ _ _ => g == glob)
  !awaits s !((scope = 0 || !waiting false) &&
    (decide (scope < 2) || !(x.stores.any fun t => t.ctx == c)) &&
    (decide (scope < 3) || !(inLog s c || waiting true)) &&
    (decide (scope < 5) || !(s.dev.outreqs.any fun r => r.who == c)))

/-- The waiting access reads memory for its context: a load, or an atomic whose old value it takes (R191). -/
def isRead (w : Wait) : Bool :=
  match w.kind with
  | .load _ _ _ _ _ => true
  | .remote _ _ _ _ _ _ => true
  | .atom glob fn _ d _ _ _ => !(glob && d == 0 && (match fn with | .cas _ => false | _ => true))
  | _ => false

/-- Every earlier read of memory by the context has arrived, those into registers that keep no value among them (R39, R191). -/
def readsLanded (s : State) : Bool :=
  !awaits s !((s.ctx.lands.all fun l => l.ready || (claimIds s s.who).contains l.id) &&
    !((coreOf s s.who.coreNo).waits.any fun w => w.ctx == s.who && isRead w))

/-- The acquire part of a synchronising access at a scope. -/
def acquireAt (c : CtxId) (scope : Nat) (s : State) : State := if 3 ≤ scope then l1gDropAll s c.cluster else s

/-! ## Element types (R64–R66, R202) -/

/-- Type codes that a use allows, else reserved encoding (R65, R204). -/
def needTy (ok : List Nat) (ty : Fin 16) (s : State) (k : State → Res) : Res := if ok.contains ty.val then k s else reserved s

/-- Element e of width w of a register (R66). -/
def elemAt (w : Nat) (x : Vec) (e : Nat) : Nat :=
  let per := 32 / w
  bitsAt (x.toList.getD (e / per) 0).toNat (w * (e % per)) w

/-- A register whose element e of width w is f e. -/
def packVec (w : Nat) (f : Nat → Nat) : Vec :=
  Vector.ofFn fun i => BitVec.ofNat 32 ((List.range (32 / w)).foldl (fun x j => x + f (i.val * (32 / w) + j) % 2 ^ w * 2 ^ (w * j)) 0)

/-- Width of the vector-arithmetic types 2–8. -/
def tyWidth (ty : Fin 16) : Nat := if ty.val = 2 ∨ ty.val = 3 ∨ ty.val = 6 ∨ ty.val = 7 then 16 else 32

def tyFlt (ty : Fin 16) : Option FFmt :=
  match ty.val with
  | 6 => some .f16
  | 7 => some .bf16
  | 8 => some .f32
  | _ => none

def tySigned (ty : Fin 16) : Bool := ty.val == 2 || ty.val == 4

/-- The top of the seed stack (R47). -/
def seedTop (x : Ctx) : Word := x.seeds.toList.getD (x.depth - 1) 0

end Sys2Proof.Machine
end

