-- ==== Sys2Proof/Machine/Unit.lean ====
section
/-! DEFINITION. The global memory unit at work: accesses that waited (R179, R182, R194), region fills and write-back
(R194–R196, R298), the side log's replay (R185) and the retries of R413. -/

namespace Sys2Proof.Machine

/-! ## Atomic accesses performed (R188–R190, R431) -/

def AtomFn.isCas : AtomFn → Bool
  | .cas _ => true
  | _ => false

/-- The events that an atomic counts (R73, R188). -/
def atomEvents (a : Acc) (r : Coded) (s : State) : State := countWork a.who a.bundle r.2 s

/-- A compare-and-swap that fails writes nothing (R189). -/
def casFails (fn : AtomFn) (w old : Nat) : Bool :=
  match fn with
  | .cas e => old != e.toNat % 2 ^ (8 * w)
  | _ => false

/-- A read-modify-write by a keeps the release chain of its words and joins it (R295 item 4): where it is a release it publishes
at its scope what it has observed, its own acquire included, and release fences before it publish with it. One that is performed
after its context has gone on to another task orders nothing there. -/
def atomOrder (a : Acc) (key w oc : Nat) (wrote : Bool) (s : State) : State :=
  let c := a.who
  if (getCtx s c).task ≠ a.task then s
  else if oc = 0 then
    let s := noteRead c key w s
    if wrote then putReleases c a.fences 0 key w s else s
  else
    let seen := clockJoin a.clock (releaseClock c (2 * oc) (releasesOn s 0 key w))
    let s := acquireAt c (2 * oc) (acquireWord c (2 * oc) key w s)
    if wrote then modCtx (putReleases c (carried a.fences (some (2 * oc, seen))) 0 key w s) c fun x => clockTick x c else s

/-- A local atomic at a key (R190). -/
def performAtomLocal (a : Acc) (id : Nat) (fn : AtomFn) (w : Nat) (key : Nat) (v : Word) (oc : Nat) (s : State) : State :=
  let c := a.who
  if spmPoisoned s key w then failAt c 0x0D (localName c.coreNo key) a.bundle (spoilLanding c id s)
  else
    let old := natOf (spmRead s key w)
    let r := atomNew fn w old v.toNat
    let fails := casFails fn w old
    let s := fillLanding c id (.word (BitVec.ofNat 64 old)) s
    if fails then atomOrder a (localWord key) w oc false s
    else
      let s := { s with spm := s.spm.writeBytes key (bytesOf w r.1) }
      let s := (List.range w).foldl (fun s i => markDirty c ((key + i) / coreBytes, (key + i) % coreBytes) s) s
      atomOrder a (localWord key) w oc true (atomEvents a r s)

/-- A global read-modify-write at the home LLC, outside every version (R190): the old value. A compare-and-swap that fails
leaves D as it is (R189, R405). -/
def performAtomGlobal (a : Acc) (fn : AtomFn) (w va : Nat) (v : Word) (oc : Nat) (s : State) : Perf Nat :=
  let new (old : Nat) : Option Nat := if casFails fn w old then none else some (atomNew fn w old v.toNat).1
  match homeRmw a (if fn.isCas then .claim else .write) va w new s with
  | .ok s (old, key) =>
    let wrote := !casFails fn w old
    .ok (atomOrder a key w oc wrote (if wrote then atomEvents a (atomNew fn w old v.toNat) s else s)) old
  | .serviced s k v => .serviced s k v
  | .noSectors s v => .noSectors s v
  | .failed s k v => .failed s k v
  | .race s v u x => .race s v u x
  | .overflow s => .overflow s
  | .remote s d => .remote s d

/-- The report of an atomic that holds the unit: a failed translation is a load page fault (R182, R190, R198). -/
def heldCode (code : BitVec 8) : BitVec 8 := if code = 0x0B then 0x0A else code

/-- A reduction's log entry (R185): rel is what a release publishes at its replay. -/
def reduceEntry (a : Acc) (fn : AtomFn) (w va : Nat) (v : Word) (rel : Option (Nat × List (Nat × Nat))) (why : Option (BitVec 8)) : LogEntry :=
  { ctx := a.who, task := a.task, run := a.run, asid := a.asid, ptbase := a.ptbase, block := blockOf va, bytes := []
    op := .reduce fn va w v, bundle := a.bundle, exempt := true, rel := rel, seen := a.clock, fences := a.fences, readers := [], bad := []
    waits := why }

/-- A reduction that the unit makes now, or that its log takes (R184, R185). none: the log has no room. -/
def unitReduce (a : Acc) (fn : AtomFn) (w va : Nat) (v : Word) (oc : Nat) (s : State) : Option (Perf Unit) :=
  let logged (s : State) (why : Option (BitVec 8)) : State :=
    let e := reduceEntry a fn w va v (if oc = 0 then none else some (2 * oc, a.clock)) why
    let s := countWork a.who a.bundle [14] (enterLog a.who.coreNo e s)
    if oc = 0 then s else acquireAt a.who (2 * oc) (modCtx s a.who fun y => clockTick y a.who)
  if logLength s a.who.coreNo ≠ 0 then
    if 32 ≤ logLength s a.who.coreNo then none else some (.ok (logged s none) ())
  else
    match performAtomGlobal { a with unit := logUnit a.who.coreNo } fn w va v oc s with
    | .ok s _ => some (.ok s ())
    | .serviced s k va => some (.ok (report a.who k va a.bundle (logged s (some k))) ())
    | .noSectors s _ => some (.ok (logged s (some 0x19)) ())
    | .failed s k va => some (.ok (failAt a.who k va a.bundle s) ())
    | .remote s dev =>
      let s := sendRemote a dev va (bytesOf w v.toNat) s
      some (.ok (if oc = 0 then s else acquireAt a.who (2 * oc) (modCtx s a.who fun y => clockTick y a.who)) ())
    | .race s va u t => some (.race s va u t)
    | .overflow s => some (.overflow s)

/-! ## The side log's replay (R185, R483) -/

/-- Who a log entry acts for: its access stands where its bundle issued (R295). -/
def entryAcc (core : Nat) (e : LogEntry) : Acc :=
  { who := e.ctx, agent := e.ctx.num, clock := e.seen, task := e.task, asid := e.asid, ptbase := e.ptbase,
    user := true, bundle := e.bundle, unit := logUnit core, run := e.run, fences := e.fences }

/-- Neighbouring bytes of an entry as runs of (address, bytes). -/
def runsOf : List (Nat × Byte) → List (Nat × List Byte)
  | [] => []
  | (a, b) :: rest =>
    match runsOf rest with
    | (c, bs) :: more => if c = a + 1 then (a, b :: bs) :: more else (a, [b]) :: (c, bs) :: more
    | [] => [(a, [b])]

/-- Writes runs until one does not complete; bad: the addresses of poisoned bytes among them. -/
def writeRuns (bad : List Nat) (a : Acc) (exempt : Bool) (rel : Option (Nat × List (Nat × Nat))) : List (Nat × List Byte) → State → Perf Unit
  | [], s => .ok s ()
  | (va, bs) :: rest, s =>
    match writeGlobal a false exempt va bs s with
    | .ok s _ => writeRuns bad a exempt rel rest (storeOrder a va bs.length rel s)
    | .remote s d => writeRuns bad a exempt rel rest (sendMarked ((List.range bs.length).any fun i => bad.contains (va + i)) a d va bs s)
    | r => r

/-- A logged reduction, with its order code (R188), or store performed; poison goes with the bytes that it marks (R430). -/
def performEntry (core : Nat) (e : LogEntry) (s : State) : Perf Unit :=
  let a := entryAcc core e
  match e.op with
  | .store =>
    match writeRuns e.bad a e.exempt e.rel (runsOf e.bytes) s with
    | .ok s _ => .ok (e.bad.foldl (fun s va => poisonPiece a va s) s) ()
    | r => r
  | .reduce fn addr w v =>
    match performAtomGlobal a fn w addr v ((e.rel.map fun r => r.1 / 2).getD 0) s with
    | .ok s _ =>
      .ok (if e.bad.isEmpty then s else poisonPiece a addr s) ()
    | .serviced s c v => .serviced s c v
    | .noSectors s v => .noSectors s v
    | .failed s c v => .failed s c v
    | .race s v u x => .race s v u x
    | .overflow s => .overflow s
    | .remote s d => .ok (sendMarked (!e.bad.isEmpty) a d addr (bytesOf w v.toNat) s) ()

/-- The version that an access was made in has been dropped (R317). -/
def versionGone (s : State) (task run : Nat) : Bool :=
  task != 0 &&
    (match taskOf s task with
     | some t => t.runs != run || t.dropped
     | none => true)

/-- The entry's version has been dropped, and its store with it (R317). A reduction bypasses versions. -/
def entryDropped (s : State) (e : LogEntry) : Bool := e.op == .store && versionGone s e.task e.run

def dropHead (core : Nat) (s : State) : State := modCore s core fun c => { c with sidelog := c.sidelog.drop 1 }

/-- The loads that an entry has served become known by their line; what another task's entry served counts for R309. -/
def noteReaders (core : Nat) (e : LogEntry) (s : State) : State :=
  e.readers.foldl (fun s r =>
    match (translate (entryAcc core e) .read (64 * r.access.line) s).2 with
    | .ok key hw => if hw then s else noteTouch r.task { r.access with line := key / 64 } r.exempt (r.task != e.task) s
    | _ => s) s

/-- Replays the head of the log: it leaves the log unless it must wait (R185 rule 4). An entry whose version has been dropped is not
made; the loads of other tasks that it has served stand (R309). -/
def replayHead (core : Nat) (s : State) : State :=
  match (coreOf s core).sidelog with
  | [] => s
  | e :: _ =>
    if entryDropped s e then dropHead core (noteReaders core { e with readers := e.readers.filter fun r => r.task ≠ e.task } s)
    else
      match performEntry core e (noteReaders core e s) with
      | .ok s _ => dropHead core s
      | .failed s c v => failAt e.ctx c v e.bundle (dropHead core s)
      | .race s v u x => raceAt (entryAcc core e) v u x (dropHead core s)
      | .overflow s => taskFault e.task 0x16 (dropHead core s)
      | .serviced s c v =>
        report e.ctx c v e.bundle
          (modCore s core fun k => { k with sidelog := { e with waits := some c } :: k.sidelog.drop 1 })
      | .noSectors s _ => modCore s core fun k => { k with sidelog := { e with waits := some 0x19 } :: k.sidelog.drop 1 }
      | .remote s _ => dropHead core s

/-! ## Region write-back (R195, R196, R184) -/

/-- The dirty bytes of a granule as log entries, one for each block, with the poison of the scratchpad (R195, R430). A report of one carries
the address of the bundle that is last on the port, also where no bundle has begun the write-back (DESIGN CHOICE: R195 names none; log 97). -/
def granuleEntries (s : State) (c : CtxId) (r : Region) (g : Nat) : List LogEntry :=
  let a := accOf s c
  let offs := r.dirty.filter fun d => d / 4096 = g
  let key (d : Nat) : Nat := spmKey (c.coreNo, r.lbase + d)
  let cells := offs.map fun d => (r.gbase + d, s.spm.read (key d))
  let bad := (offs.filter fun d => spmPoisoned s (key d) 1).map (r.gbase + ·)
  let blocks := (List.range 32).map fun i => r.gbase / 128 * 128 + g * 4096 + 128 * i
  blocks.filterMap fun b =>
    let bs := cells.filter fun e => blockOf e.1 = b
    if bs.isEmpty then none
    else some { ctx := c, task := a.task, run := a.run, asid := a.asid, ptbase := a.ptbase, block := b, bytes := bs
                op := .store, bundle := s.frame.base, exempt := false, rel := none, seen := a.clock, fences := a.fences, readers := []
                bad := bad.filter fun x => blockOf x = b, waits := none }

/-- A granule's dirty bytes leave for global memory, from the bytes held now; it is then clean (R195). -/
def beginBack (c : CtxId) (rg g : Nat) (s : State) : State :=
  match (getCtx s c).regions.toList.getD rg none with
  | none => s
  | some r =>
    let es := granuleEntries s c r g
    if !r.rw || es.isEmpty then s
    else
      let n := fresh s
      let s := modCore (bump s) c.coreNo fun k => { k with wback := k.wback ++ es.map fun e => (n, e) }
      modCtx s c fun x => setRegion x rg (some { r with dirty := r.dirty.filter fun d => d / 4096 ≠ g })

/-- A write-back block enters the log; a granule counts one class-14 event (R184). -/
def logBack (core : Nat) (g : Nat) (e : LogEntry) (s : State) : State :=
  let s := enterLog core e s
  if (coreOf s core).wbSeen = g then s
  else countWork e.ctx e.bundle [14] (modCore s core fun k => { k with wbSeen := g })

/-- Feeds the write-back blocks that began before the access numbered upto (all of them: none) to memory or to the log,
until the log is full or the unit is held; fuel bounds them. -/
def feedBack (core : Nat) (upto : Option Nat) : Nat → State → State
  | 0, s => s
  | fuel + 1, s =>
    match (coreOf s core).wback with
    | [] => s
    | (g, e) :: _ =>
      let pop (s : State) : State := modCore s core fun k => { k with wback := k.wback.drop 1 }
      if (coreOf s core).held.isSome || upto.any fun i => decide (i ≤ g) then s
      else if entryDropped s e then feedBack core upto fuel (pop s)
      else if (coreOf s core).sidelog.isEmpty then
        match performEntry core e s with
        | .ok s _ => feedBack core upto fuel (pop s)
        | .failed s c v => feedBack core upto fuel (failAt e.ctx c v e.bundle (pop s))
        | .race s v u x => raceAt (entryAcc core e) v u x (pop s)
        | .overflow s => taskFault e.task 0x16 (pop s)
        | .serviced s c v => feedBack core upto fuel (logBack core g { e with waits := some c } (report e.ctx c v e.bundle (pop s)))
        | .noSectors s _ => feedBack core upto fuel (logBack core g { e with waits := some 0x19 } (pop s))
        | .remote s _ => feedBack core upto fuel (pop s)
      else if (coreOf s core).sidelog.length < 32 then feedBack core upto fuel (logBack core g e (pop s))
      else s

/-- A wait for the global unit. -/
def isUnitWait (w : Wait) : Bool :=
  match w.kind with
  | .load g _ _ _ _ => g
  | .gstore _ _ _ _ => true
  | .atom g _ _ _ _ _ _ => g
  | _ => false

/-- Feeds the blocks that began before the first access that waits for the unit (R196, R298). -/
def feed (core : Nat) (s : State) : State :=
  feedBack core (((coreOf s core).waits.find? isUnitWait).map (·.id)) (coreOf s core).wback.length s

/-! ## Waiting accesses -/

/-- Who a waiting access acts for: it stands where its bundle issued, in that version and address space (R295, R297, R317). -/
def waitAcc (s : State) (w : Wait) : Acc :=
  { accOf s w.ctx with
    bundle := w.bundle, clock := w.seen, fences := w.fences, asid := w.asid, ptbase := w.ptbase
    task := if versionGone s w.task w.run then 0 else w.task, run := w.run }

/-- Its context has left the run that made the access: nobody waits for its result, and its plain store is dropped (R36,
R317). -/
def outdated (s : State) (w : Wait) : Bool := versionGone s w.task w.run || (getCtx s w.ctx).task != w.task

/-- A failure of a waiting access at its context. -/
def failWait (w : Wait) (code : BitVec 8) (va : Nat) (s : State) : State :=
  if outdated s w then s else failAt w.ctx code va w.bundle s

/-- What performing a waiting access did: it is done, it still waits, or it has held the unit. -/
inductive Pumped where
  | done (s : State)
  | waits (s : State) (w : Wait)
  | held (s : State) (w : Wait)

/-- The schedule cycle at which a waiting access issued. -/
def issuedAt (s : State) (w : Wait) : Nat :=
  (((getCtx s w.ctx).lands.find? fun l => l.id = w.id).map (·.issued)).getD (getCtx s w.ctx).sc

/-- A local access whose granules are filled. -/
def pumpLocal (w : Wait) (s : State) : State :=
  match w.kind with
  | .load _ d sh keys acq =>
    let bs := keys.flatMap fun k => spmRead s k sh.size
    imageFault w.ctx sh bs w.first (issuedAt s w) (performLocal w.ctx w.id d sh keys acq w.bundle s)
  | .store ps rel => performStore (waitAcc s w) ps rel s
  | .atom _ fn n _ key v oc => performAtomLocal (waitAcc s w) w.id fn n key v oc s
  | _ => s

/-- A waiting load goes on with what its read gave. -/
def loadRead (w : Wait) (d : RegName) (sh : LoadShape) (vas : List Nat) (acq : Option Nat) (r : Perf (List Byte × Option Nat)) : Pumped :=
  match r with
  | .ok s (bs, none) => .done (loadOrder (waitAcc s w) acq sh.size vas (fillLanding w.ctx w.id (shapeVal sh bs) s))
  | .ok s (bs, some dev) => .waits s { w with kind := .remote dev d sh vas acq bs }
  | .serviced s c v => .held (hold false (waitAcc s w) c v s) w
  | .noSectors s v => .held (holdSectors false (waitAcc s w) v s) w
  | .failed s c v => .done (failWait w c v (spoilLanding w.ctx w.id s))
  | .race s v u x => .done (raceAt (waitAcc s w) v u x (spoilLanding w.ctx w.id s))
  | .overflow s => .done (taskFault (waitAcc s w).task 0x16 s)
  | .remote s _ => .waits s w

/-- Another device that is reached answers a load, or an atomic, whose old value is free (R297, R446; log 66). -/
def answerRemote (w : Wait) (s : State) : Pumped :=
  match w.kind with
  | .remote dev _ sh vas acq bs =>
    if !reaches s dev then .waits s w
    else
      let val := if bs.isEmpty then .word (BitVec.ofNat 64 ((Config.free s.tick (2 ^ 57)).toNat % 2 ^ (8 * sh.size))) else shapeVal sh bs
      .done (loadOrder (waitAcc s w) acq sh.size vas (fillLanding w.ctx w.id val s))
  | _ => .waits s w

/-- A global access that the held unit kept (R182). -/
def pumpGlobal (w : Wait) (s : State) : Pumped :=
  let a := waitAcc s w
  let spoiled (s : State) (c : BitVec 8) (v : Nat) : State := failWait w c v (spoilLanding w.ctx w.id s)
  let raced (s : State) (v u : Nat) (x : Touch) : State := raceAt a v u x (spoilLanding w.ctx w.id s)
  match w.kind with
  | .load _ d sh vas acq => if outdated s w then .done s else loadRead w d sh vas acq (readLoad a acq.isSome sh.size vas s)
  | .gstore va bs exempt rel =>
    if versionGone s w.task w.run then .done s
    else
    match unitStore a va bs exempt rel s with
    | some (.race s v u x) => .done (raced s v u x)
    | some (.overflow s) => .done (taskFault a.task 0x16 s)
    | some (.ok s _) => .done s
    | _ => .held s w
  | .atom _ fn n d va v oc =>
    if d = 0 ∧ !fn.isCas then
      match unitReduce a fn n va v oc s with
      | some (.race s v u x) => .done (raced s v u x)
      | some (.overflow s) => .done (taskFault a.task 0x16 s)
      | some (.ok s _) => .done s
      | _ => .held s w
    else
    match performAtomGlobal a fn n va v oc s with
    | .ok s old => .done (fillLanding w.ctx w.id (.word (BitVec.ofNat 64 old)) s)
    | .serviced s c v => .held (hold false a (heldCode c) v s) w
    | .noSectors s v => .held (holdSectors false a v s) w
    | .failed s c v => .done (spoiled s c v)
    | .remote s dev => .waits s { w with kind := .remote dev (.s d) (.scalar n false) [va] (if oc = 0 then none else some (2 * oc)) [] }
    | .race s v u x => .done (raced s v u x)
    | .overflow s => .done (taskFault a.task 0x16 s)
  | _ => .waits s w

def isLocalWait (w : Wait) : Bool :=
  match w.kind with
  | .load g _ _ _ _ => !g
  | .store _ _ => true
  | .atom g _ _ _ _ _ _ => !g
  | _ => false

/-- The bytes of a local wait lie in filled granules. -/
def localReady (s : State) (w : Wait) : Bool :=
  match w.kind with
  | .load _ _ sh keys _ => keys.all fun k => (unfilled s w.ctx k sh.size).isNone
  | .store ps _ => ps.all fun e => (unfilled s w.ctx e.1 e.2.length).isNone
  | .atom _ _ n _ key _ _ => (unfilled s w.ctx key n).isNone
  | _ => true

/-- Goes over the waiting accesses in order; a local one whose context has left its run is dropped (R36, R317): a global one is made while the unit is free, after the write-back that began
before it (R298), a local one when its granules are filled and no earlier one waits on them. blocked: the unit has been held. -/
def pumpList (core : Nat) : List Wait → Bool → State → State
  | [], _, s => s
  | w :: rest, blocked, s =>
    let keep (s : State) (w : Wait) : State := addWait core w s
    if isLocalWait w && outdated s w then pumpList core rest blocked s
    else if isLocalWait w then
      let clash := (coreOf s core).waits.any fun v => (waitGranules v).any fun g => (waitGranules w).contains g
      if localReady s w && !clash then pumpList core rest blocked (pumpLocal w s)
      else pumpList core rest blocked (keep s w)
    else if blocked || !isUnitWait w then pumpList core rest blocked (keep s w)
    else
      let s := feedBack core (some w.id) (coreOf s core).wback.length s
      if (coreOf s core).held.isSome || (coreOf s core).wback.any fun e => decide (e.1 < w.id) then pumpList core rest true (keep s w)
      else
      match pumpGlobal w s with
      | .done s => pumpList core rest false s
      | .waits s w => pumpList core rest false (keep s w)
      | .held s w => pumpList core rest true (keep s w)

/-- Every dirty granule of a region leaves for global memory. -/
def backRegion (c : CtxId) (rg : Nat) (s : State) : State :=
  match (getCtx s c).regions.toList.getD rg none with
  | some r => (List.range (r.len / 4096)).foldl (fun s g => beginBack c rg g s) s
  | none => s

/-- An access of the context waits for a fill of its regions. -/
def fillAwaited (s : State) (c : CtxId) : Bool := (coreOf s c.coreNo).waits.any fun w => w.ctx == c && isLocalWait w

/-- Every region of a context leaves for memory; drop: the regions go, else every granule is unfilled (R197). -/
def leaveRegions (drop : Bool) (c : CtxId) (s : State) : State :=
  let s := (List.range 16).foldl (fun s rg => backRegion c rg s) s
  feed c.coreNo (modCtx s c fun x =>
    { x with regions := if drop then Vector.replicate 16 none else x.regions.map fun r => r.map fun r => { r with filled := [], dirty := [] } })

/-- Contexts of the core that are being saved, or have retired, and whose accesses have been made leave their regions (R197). -/
def leaveSaving (core : Nat) (s : State) : State :=
  (allCtx s).foldl (fun s e =>
    let saving := e.2.run == .saving && e.2.regions.any fun r => r.any fun r => !r.filled.isEmpty
    let retired := e.2.run == .retired && e.2.regions.any (·.isSome)
    if e.1.coreNo = core ∧ (saving ∨ retired) ∧ !fillAwaited s e.1 then leaveRegions retired e.1 s else s) s

/-- The unit and the granules are looked at again. -/
def pump (core : Nat) (s : State) : State :=
  let ws := (coreOf s core).waits
  let s := modCore s core fun c => { c with waits := [] }
  leaveSaving core (feed core (pumpList core ws (coreOf s core).held.isSome s))

/-! ## Region fills (R194) -/

/-- The first granule that a waiting access of the core needs, and that access. -/
def fillWanted (s : State) (core : Nat) : Option (Wait × Nat × Nat) :=
  ((coreOf s core).waits.filter fun w => !outdated s w).findSome? fun w =>
    let want (key n : Nat) : Option (Wait × Nat × Nat) := (unfilled s w.ctx key n).map fun e => (w, e.1, e.2)
    match w.kind with
    | .load false _ sh keys _ => keys.findSome? fun k => want k sh.size
    | .store ps _ => ps.findSome? fun e => want e.1 e.2.length
    | .atom false _ n _ key _ _ => want key n
    | _ => none

/-- Scratchpad bytes with their poison (R279, R430). -/
def putMarked (key : Nat) (bs : List (Byte × Bool)) (s : State) : State :=
  let s := spmWrite key (bs.map (·.1)) s
  markSpm ((List.range bs.length).filterMap fun i => if (bs.getD i (0, false)).2 then some ((key + i) / 8) else none) s

/-- An access that waited on a granule that cannot be filled: it is not performed (R483). -/
def dropWaiting (core : Nat) (c : CtxId) (g : Nat) (s : State) : State :=
  let hit (w : Wait) : Bool := w.ctx == c && isLocalWait w && (waitGranules w).contains g
  let ws := (coreOf s core).waits
  let s := modCore s core fun k => { k with waits := ws.filter fun w => !hit w }
  (ws.filter hit).foldl (fun s w => spoilLanding w.ctx w.id s) s

/-- One fill for the core: 4 KiB from the global range as the task's version shows it, for the access that wants the granule
(R194); a page of another device gives free bytes under the version (R170, R446), poisoned where no route reaches it (R447). -/
def fillGranule (core : Nat) (s : State) : State :=
  if (coreOf s core).held.isSome then s
  else
    match fillWanted s core with
    | none => s
    | some (w, rg, g) =>
      let c := w.ctx
      match (getCtx s c).regions.toList.getD rg none with
      | none => s
      | some r =>
        let a := waitAcc s w
        let local' := spmKey (core, r.lbase + 4096 * g)
        let fill (bs : List (Byte × Bool)) (s : State) : State :=
          pump core (modCtx (putMarked local' bs s) c fun x => setRegion x rg (some { r with filled := insertNat g r.filled }))
        let fail (code : BitVec 8) (v : Nat) (s : State) : State :=
          pump core (failWait w code v (dropWaiting core c (local' / 4096) s))
        match readMarked a false false (r.gbase + 4096 * g) 4096 s with
        | .ok s bs => fill bs s
        | .serviced s code v => hold true a code v s
        | .noSectors s v => holdSectors true a v s
        | .failed s code v => fail code v s
        | .race s v u x => pump core (raceAt a v u x (dropWaiting core c (local' / 4096) s))
        | .overflow s => taskFault a.task 0x16 s
        | .remote s d =>
          let lost := !reaches s d
          let s := if lost then poisonRecord a.who a.bundle (keyOf a (r.gbase + 4096 * g) s) 5 2 s else s
          fill ((remoteBytes a (r.gbase + 4096 * g) 4096 s).map fun b => (b, lost)) s

/-- The unit is free again: a fill that it was held for is made first, then the waiting accesses (R182, R194). -/
def releaseUnit (core : Nat) (s : State) : State :=
  match (coreOf s core).held with
  | some h =>
    let s := modCore s core fun c => { c with held := none }
    let s := if h.fill then fillGranule core s else s
    if (coreOf s core).held.isSome then s else pump core s
  | none => s

end Sys2Proof.Machine
end

