-- ==== Sys2Proof/Machine/Loads.lean ====
section
/-! DEFINITION. The LD slot: loads (R174–R183, R187, R236). On a core of the system profile, which has no scratchpad, a
load's address is global (R169, R170, R352; log 17). -/

namespace Sys2Proof.Machine

/-! ## Shared operations -/

/-- The checks and stalls of n-byte accesses at global addresses (R170–R172, R463). kinds: what a watchpoint takes them for. -/
def globalTouch (n align : Nat) (kinds : List Bool) (addrs : List Word) (s : State) (k : Res) : Res :=
  match globalCheck align addrs with
  | some (c, a) => trapAt 12 c a s
  | none =>
    watchKinds true kinds n (addrs.map fun a => (a.toNat, a.toNat)) s (if acquirePending s then stall s else k)

def globalAccess (n align : Nat) (write : Bool) (addrs : List Word) (s : State) (k : Res) : Res :=
  globalTouch n align [write] addrs s k

/-- A load of d at global addresses, then k. -/
def loadAny (d : RegName) (sh : LoadShape) (L align : Nat) (addrs : List Word) (acq : Option Nat) (s : State) (k : State → Res) : Res :=
  globalAccess sh.size align false addrs s
    (if s.who.isSys then loadSys d sh L (addrs.map BitVec.toNat) acq s k
     else loadGlobal d sh L (addrs.map BitVec.toNat) acq s k)

/-- A load of the scratchpad, or of a system core's global address. -/
def loadNear (d : RegName) (sh : LoadShape) (L align : Nat) (contig : Bool) (addrs : List Word) (s : State) (k : State → Res) : Res :=
  if s.who.isSys then loadAny d sh L align addrs none s k else loadLocal d sh L align contig addrs none s k

/-- LDB to LDD: a scalar of n bytes with an optional post-increment (R174). -/
def loadScalar (n : Nat) (signed : Bool) (d : SR) (a : AR) (post : Bool) (off : BitVec 12) (s : State) : Res :=
  guardRegs [.a a] (.s d :: postReg post a) s fun s =>
    loadNear (.s d) (.scalar n signed) 4 n false [ea s a (offset off n)] s fun s => .next (postInc post a n s)

/-- The 64 lane addresses of a contiguous or strided vector. -/
def laneAddrs (base step : Word) : List Word := (List.range 64).map fun i => base + BitVec.ofNat 64 i * step

/-- The 64 lane addresses of an index vector (R176). -/
def indexAddrs (base : Word) (v : Vec) (sc : Fin 4) : List Word :=
  v.toList.map fun (x : Lane) => base + (BitVec.zeroExtend 64 x <<< sc.val)

/-- The load shape of a size code (R111). -/
def sizeShape (size : Fin 8) : Option LoadShape :=
  match size.val with
  | 0 => some (.scalar 1 true)
  | 1 => some (.scalar 1 false)
  | 2 => some (.scalar 2 true)
  | 3 => some (.scalar 2 false)
  | 4 => some (.scalar 4 true)
  | 5 => some (.scalar 4 false)
  | 6 => some (.scalar 8 true)
  | _ => none

/-! ## The meanings -/

/-- LDB (R174). -/
def execLdb (d : SR) (a : AR) (post : Bool) (off : BitVec 12) (s : State) : Res := loadScalar 1 true d a post off s

/-- LDBZ (R174). -/
def execLdbz (d : SR) (a : AR) (post : Bool) (off : BitVec 12) (s : State) : Res := loadScalar 1 false d a post off s

/-- LDH (R174). -/
def execLdh (d : SR) (a : AR) (post : Bool) (off : BitVec 12) (s : State) : Res := loadScalar 2 true d a post off s

/-- LDHZ (R174). -/
def execLdhz (d : SR) (a : AR) (post : Bool) (off : BitVec 12) (s : State) : Res := loadScalar 2 false d a post off s

/-- LDW (R174). -/
def execLdw (d : SR) (a : AR) (post : Bool) (off : BitVec 12) (s : State) : Res := loadScalar 4 true d a post off s

/-- LDWZ (R174). -/
def execLdwz (d : SR) (a : AR) (post : Bool) (off : BitVec 12) (s : State) : Res := loadScalar 4 false d a post off s

/-- LDD loads all 64 bits (R174). -/
def execLdd (d : SR) (a : AR) (post : Bool) (off : BitVec 12) (s : State) : Res := loadScalar 8 true d a post off s

/-- LDV (R175). -/
def execLdv (d : VR) (a : AR) (post : Bool) (off : BitVec 12) (s : State) : Res :=
  needFiles s fun s => guardRegs [.a a] (.v d :: postReg post a) s fun s =>
    loadLocal (.v d) .vec 5 4 true (laneAddrs (ea s a (offset off 256)) 4) none s fun s => .next (postInc post a 256 s)

/-- LDVS: a signed byte stride in s (R175). -/
def execLdvs (d : VR) (a : AR) (post : Bool) (x : SR) (off : BitVec 7) (s : State) : Res :=
  needFiles s fun s => guardRegs [.a a, .s x] (.v d :: postReg post a) s fun s =>
    loadLocal (.v d) .vec 5 4 false (laneAddrs (ea s a (offset off 256)) (rdS s x)) none s fun s => .next (postInc post a 256 s)

/-- LDVX gathers by an index vector (R176). -/
def execLdvx (d : VR) (a : AR) (vi : VR) (sc : Fin 4) (s : State) : Res :=
  needFiles s fun s => guardRegs [.a a, .v vi] [.v d] s fun s =>
    loadLocal (.v d) .vec 5 4 false (indexAddrs (ea s a 0) (rdV s vi) sc) none s fun s => .next s

/-- LDVB broadcasts one word (R175). -/
def execLdvb (d : VR) (a : AR) (post : Bool) (off : BitVec 12) (s : State) : Res :=
  needFiles s fun s => guardRegs [.a a] (.v d :: postReg post a) s fun s =>
    loadLocal (.v d) .bcast 5 4 false [ea s a (offset off 4)] none s fun s => .next (postInc post a 4 s)

/-- LDM; a load into m0 is made and checked (R178). -/
def execLdm (d : MR) (a : AR) (post : Bool) (off : BitVec 12) (s : State) : Res :=
  needFiles s fun s => guardRegs [.a a] (.m d :: postReg post a) s fun s =>
    loadLocal (.m d) .mask 4 8 false [ea s a (offset off 8)] none s fun s => .next (postInc post a 8 s)

/-- LDWT loads and checks a witness image (R178, R236). -/
def execLdwt (d : WR) (a : AR) (post : Bool) (off : BitVec 12) (s : State) : Res :=
  needFeature 4 s fun s => needFiles s fun s => guardRegs [.a a] (.w d :: postReg post a) s fun s =>
    loadLocal (.w d) .wit 5 8 true [ea s a (offset off 8)] none s fun s => .next (postInc post a 136 s)

/-- LDG; size code 7 is reserved (R111, R180). -/
def execLdg (d : SR) (a : AR) (size : Fin 8) (off : BitVec 10) (s : State) : Res :=
  match sizeShape size with
  | none => reserved s
  | some sh => guardRegs [.a a] [.s d] s fun s =>
      loadAny (.s d) sh 4 sh.size [ea s a (offset off sh.size)] none s fun s => .next s

/-- LDGV (R180). -/
def execLdgv (d : VR) (a : AR) (post : Bool) (off : BitVec 12) (s : State) : Res :=
  needFiles s fun s => guardRegs [.a a] (.v d :: postReg post a) s fun s =>
    loadAny (.v d) .vec 5 4 (laneAddrs (ea s a (offset off 256)) 4) none s fun s => .next (postInc post a 256 s)

/-- LDAQ: size codes 4–6, scopes 0–6; a global one first lets the context's side log replay (R185 rule 7, R187). -/
def execLdaq (d : SR) (a : AR) (size : Fin 8) (scope : Fin 8) (s : State) : Res :=
  match sizeShape size with
  | none => reserved s
  | some sh =>
    if size.val < 4 ∨ scope.val = 7 then reserved s
    else guardRegs [.a a] [.s d] s fun s =>
      let addr := ea s a 0
      if 3 ≤ scope.val ∨ s.who.isSys then
        globalAccess sh.size sh.size false [addr] s
          (if awaits s (inLog s s.who) then stall s
           else loadAny (.s d) sh 4 sh.size [addr] (some scope.val) s fun s => .next s)
      else
        loadLocal (.s d) sh 4 sh.size false [addr] (some scope.val) s fun s => .next s

end Sys2Proof.Machine
end

