-- ==== Sys2Proof/Machine/Stores.lean ====
section
/-! DEFINITION. The ST slot: stores, atomics, fences, cache maintenance and regions (R174–R197). -/

namespace Sys2Proof.Machine

/-! ## Stores -/

/-- The low n bytes of a word. -/
def lowBytes (n : Nat) (x : Word) : List Byte := bytesOf n x.toNat

/-- A plain store of a compute context to the scratchpad, or of a system core to its global address. -/
def storeNear (n align : Nat) (contig : Bool) (pairs : List (Word × List Byte)) (s : State) (k : State → Res) : Res :=
  localAccess contig n align true (pairs.map (·.1)) s fun ps => storeLocal (ps.zip (pairs.map (·.2))) n none s k

/-- A scalar store of n bytes with an optional post-increment (R174). -/
def storeScalar (n : Nat) (x : SR) (a : AR) (post : Bool) (off : BitVec 12) (s : State) : Res :=
  guardRegs [.s x, .a a] (postReg post a) s fun s =>
    let addr := ea s a (offset off n)
    let bs := lowBytes n (rdS s x)
    let k := fun t => .next (postInc post a n t)
    if s.who.isSys then globalAccess n n true [addr] s (globalStore addr.toNat bs false none s k)
    else storeNear n n false [(addr, bs)] s k

/-- STB (R174). -/
def execStb (x : SR) (a : AR) (post : Bool) (off : BitVec 12) (s : State) : Res := storeScalar 1 x a post off s

/-- STH (R174). -/
def execSth (x : SR) (a : AR) (post : Bool) (off : BitVec 12) (s : State) : Res := storeScalar 2 x a post off s

/-- STW (R174). -/
def execStw (x : SR) (a : AR) (post : Bool) (off : BitVec 12) (s : State) : Res := storeScalar 4 x a post off s

/-- STD (R174). -/
def execStd (x : SR) (a : AR) (post : Bool) (off : BitVec 12) (s : State) : Res := storeScalar 8 x a post off s

/-- The bytes of lane i of a vector. -/
def laneBytes (v : Vec) (i : Nat) : List Byte := bytesOf 4 (v.toList.getD i 0).toNat

/-- Lanes at addresses, each as one piece. -/
def lanePairs (addrs : List Word) (v : Vec) : List (Word × List Byte) := (addrs.zip (List.range 64)).map fun e => (e.1, laneBytes v e.2)

/-- STV (R175). -/
def execStv (v : VR) (a : AR) (post : Bool) (off : BitVec 12) (s : State) : Res :=
  needFiles s fun s => guardRegs [.v v, .a a] (postReg post a) s fun s =>
    storeNear 4 4 true (lanePairs (laneAddrs (ea s a (offset off 256)) 4) (rdV s v)) s fun t => .next (postInc post a 256 t)

/-- STVM: the lanes of a clear bit are neither accessed nor checked (R177). -/
def execStvm (v : VR) (a : AR) (post : Bool) (m : MR) (off : BitVec 9) (s : State) : Res :=
  needFiles s fun s => guardRegs [.v v, .a a, .m m] (postReg post a) s fun s =>
    let mask := rdM s m
    let pairs := (lanePairs (laneAddrs (ea s a (offset off 256)) 4) (rdV s v)).zip (List.range 64)
    storeNear 4 4 true ((pairs.filter fun e => getBit mask e.2).map (·.1)) s fun t => .next (postInc post a 256 t)

/-- STVS: a signed byte stride; the higher lane's value remains (R175). -/
def execStvs (v : VR) (a : AR) (post : Bool) (x : SR) (off : BitVec 7) (s : State) : Res :=
  needFiles s fun s => guardRegs [.v v, .a a, .s x] (postReg post a) s fun s =>
    storeNear 4 4 false (lanePairs (laneAddrs (ea s a (offset off 256)) (rdS s x)) (rdV s v)) s fun t =>
      .next (postInc post a 256 t)

/-- STVX scatters by an index vector; the higher lane's value remains (R176). -/
def execStvx (v : VR) (a : AR) (vi : VR) (sc : Fin 4) (s : State) : Res :=
  needFiles s fun s => guardRegs [.v v, .a a, .v vi] [] s fun s =>
    storeNear 4 4 false (lanePairs (indexAddrs (ea s a 0) (rdV s vi) sc) (rdV s v)) s fun t => .next t

/-- The first 132 bytes of a witness image (R178). -/
def witBody (w : Wit) : List Byte := (w.entries.toList.flatMap fun e => bytesOf 2 e.toNat) ++ bytesOf 4 w.tag.toNat

/-- The 136-byte image of a witness (R178, R235). -/
def witImage (w : Wit) : List Byte := witBody w ++ bytesOf 4 (imageSum (witBody w)).toNat

/-- The image of a witness read inside its bound: unpredictable, its checksum too (R52, R235). -/
def freeImage (s : State) (w : WR) : List Byte := (List.range 136).map fun i => (freeAt s (.w w) (i % 128)).extractLsb' (8 * (i / 128)) 8

/-- STWT writes a witness as it stands (R235). -/
def execStwt (w : WR) (a : AR) (post : Bool) (off : BitVec 12) (s : State) : Res :=
  needFeature 4 s fun s => needFiles s fun s => guardRegs [.w w, .a a] (postReg post a) s fun s =>
    storeNear 136 8 true [(ea s a (offset off 8), if exposed s (.w w) then freeImage s w else witImage (rdW s w))] s fun t => .next (postInc post a 136 t)

/-- STM (R178). -/
def execStm (m : MR) (a : AR) (post : Bool) (off : BitVec 12) (s : State) : Res :=
  needFiles s fun s => guardRegs [.m m, .a a] (postReg post a) s fun s =>
    storeNear 8 8 false [(ea s a (offset off 8), lowBytes 8 (rdM s m))] s fun t => .next (postInc post a 8 t)

/-- The size codes of stores (R111). -/
def storeSize (size : Fin 8) : Option Nat :=
  match size.val with
  | 0 => some 1
  | 2 => some 2
  | 4 => some 4
  | 6 => some 8
  | _ => none

/-- STG (R180). -/
def execStg (x : SR) (a : AR) (size : Fin 8) (off : BitVec 10) (s : State) : Res :=
  match storeSize size with
  | none => reserved s
  | some n => guardRegs [.s x, .a a] [] s fun s =>
      let addr := ea s a (offset off n)
      globalAccess n n true [addr] s (globalStore addr.toNat (lowBytes n (rdS s x)) false none s fun t => .next t)

/-- STGV (R180). -/
def execStgv (v : VR) (a : AR) (post : Bool) (off : BitVec 12) (s : State) : Res :=
  needFiles s fun s => guardRegs [.v v, .a a] (postReg post a) s fun s =>
    let addr := ea s a (offset off 256)
    globalAccess 4 4 true (laneAddrs addr 4) s
      (globalStore addr.toNat ((rdV s v).toList.flatMap fun x => bytesOf 4 x.toNat) false none s fun t =>
        .next (postInc post a 256 t))

/-- STRL: sizes 4 and 6; a release store (R187). A global one does not wait for the side log. -/
def execStrl (x : SR) (a : AR) (size : Fin 8) (scope : Fin 8) (s : State) : Res :=
  match (if size.val < 4 then none else storeSize size) with
  | none => reserved s
  | some n =>
    if scope.val = 7 then reserved s
    else guardRegs [.s x, .a a] [] s fun s =>
      let c := s.who
      let addr := ea s a 0
      let bs := lowBytes n (rdS s x)
      if 3 ≤ scope.val ∨ c.isSys then
        let waiting := ((coreOf s c.coreNo).waits.any fun w => w.ctx == c && !isLocalWait w) ||
          (coreOf s c.coreNo).wback.any fun e => e.2.ctx == c
        globalAccess n n true [addr] s
          (if !releaseReady s c 2 || awaits s (waiting || (decide (5 ≤ scope.val) && s.dev.outreqs.any fun r => r.who == c)) then stall s
           else globalStore addr.toNat bs true (some (scope.val, s.ctx.clock)) s fun t => .next (modCtx t c fun y => clockTick y c))
      else
        localAccess false n n true [addr] s fun ps =>
          if !releaseReady s c scope.val then stall s
          else storeLocal (ps.zip [bs]) n (some scope.val) s fun t => .next (modCtx t c fun y => clockTick y c)

/-! ## Atomics (R188–R190) -/

/-- A compare-and-swap that would fail on what the word holds as its bundle issues; one that cannot be read then counts so. -/
def casMisses (fn : AtomFn) (w : Nat) (old : Option Nat) : Bool :=
  match fn, old with
  | .cas e, some x => x != e.toNat % 2 ^ (8 * w)
  | .cas _, none => true
  | _, _ => false

/-- What a watchpoint takes an atomic for: a read, and a write unless its compare fails (R188, R189, R463; DESIGN CHOICE: what the
word holds at the issue decides, log 73). -/
def atomKinds (fn : AtomFn) (w : Nat) (old : Option Nat) : List Bool := if casMisses fn w old then [false] else [false, true]

/-- What the home of a global address holds, where it can be read now. -/
def homeNow (a : Acc) (va w : Nat) (s : State) : Option Nat :=
  match (translate a .read va s).2 with
  | .ok key _ => (homeLook a va key w s).toOption
  | _ => none

/-- A global atomic that another device performs (R188, R404). -/
def remoteAtom (a : Acc) (id dev : Nat) (d : SR) (w va oc : Nat) (s : State) : State :=
  addWait a.who.coreNo (newWait a id va (.remote dev (.s d) (.scalar w false) [va] (if oc = 0 then none else some (2 * oc)) [])) s

/-- A read-modify-write of w = 4 or 8 bytes by the issuing context; one that stops its bundle has not met a copy in flight (R102, R267). OC ≠ 0 first waits as a release (R186, R188). -/
def atomic (fn : AtomFn) (d : SR) (a : AR) (x : SR) (g z : Bool) (oc : Fin 4) (s : State) : Res :=
  let c := s.who
  let w := if z then 8 else 4
  let addr := ea s a 0
  let v := rdS s x
  let reduction := g && d == 0 && !fn.isCas
  let id := fresh s
  let a' := accOf s c
  if g ∨ c.isSys then
    globalTouch w w (atomKinds fn w (if fn.isCas then homeNow a' addr.toNat w s else none)) [addr] s
      (if (oc.val != 0 && !releaseReady s c (2 * oc.val)) || awaits s (!reduction && inLog s c) then stall s
       else
         let at_ := s
         let s := bump s
         let made (s : State) : Res := .next (meetGlobal a' addr.toNat w none s)
         let pend (s : State) : State := landWith (.s d) (.word 0) 4 false id s
         let wait (s : State) : State := addWait c.coreNo (newWait a' id addr.toNat (.atom true fn w d addr.toNat v oc.val)) s
         if c.isSys then
           match performAtomGlobal a' fn w addr.toNat v oc.val s with
           | .ok s old => made (land (.s d) (.word (BitVec.ofNat 64 old)) 4 s)
           | .serviced _ k va => sysFault (heldCode k) va at_
           | .noSectors s va => sysShort a' va s
           | .failed _ k va => sysFault k va at_
           | .race _ va u t => raceTrap a' va u t at_
           | .overflow _ => overflowTrap a' at_
           | .remote s dev => made (remoteAtom a' id dev d w addr.toNat oc.val (pend s))
         else if isHeld s c then made (wait (pend s))
         else if reduction then
           match unitReduce a' fn w addr.toNat v oc.val s with
           | some (.ok s _) => made s
           | some (.race _ va u t) => raceTrap a' va u t at_
           | some (.overflow _) => overflowTrap a' at_
           | _ => stall s
         else
           match performAtomGlobal a' fn w addr.toNat v oc.val s with
           | .ok s old => made (fillLanding c id (.word (BitVec.ofNat 64 old)) (pend s))
           | .serviced s k va => made (wait (hold false a' (heldCode k) va (pend s)))
           | .noSectors s va => made (wait (holdSectors false a' va (pend s)))
           | .failed s k va => .next (lateAccess c k va a'.bundle (spoilLanding c id (pend s)))
           | .race _ va u t => raceTrap a' va u t at_
           | .overflow _ => overflowTrap a' at_
           | .remote s dev => made (remoteAtom a' id dev d w addr.toNat oc.val (pend s)))
  else
    localTouch false w w true (fun ps => atomKinds fn w (ps.head?.map fun p => natOf (spmRead s (spmKey p) w))) [addr] s fun ps =>
      if oc.val != 0 && !releaseReady s c (2 * oc.val) then stall s
      else
        match ps with
        | [] => .next s
        | p :: _ =>
          let key := spmKey p
          let s := meetLocal key w none (landWith (.s d) (.word 0) 4 false id (bump s))
          if mustWait s c w [key] then
            .next (addWait c.coreNo (newWait a' id addr.toNat (.atom false fn w d key v oc.val)) s)
          else
            let s := performAtomLocal a' id fn w key v oc.val s
            .next (if p.1 = c.coreNo then
              modCtx s c fun y => { y with lands := y.lands.map fun l => if l.id = id then { l with ready := true } else l }
              else s)

/-- An ATOM: its registers are checked, then the access is made. -/
def atom (fn : AtomFn) (d : SR) (a : AR) (x : SR) (g z : Bool) (oc : Fin 4) (s : State) : Res :=
  guardRegs [.a a, .s x] [.s d] s fun s => atomic fn d a x g z oc s

/-- ATOM ADD (R188). -/
def execAtomAdd (d : SR) (a : AR) (x : SR) (g z : Bool) (oc : Fin 4) (s : State) : Res := atom .add d a x g z oc s

/-- ATOM AND (R188). -/
def execAtomAnd (d : SR) (a : AR) (x : SR) (g z : Bool) (oc : Fin 4) (s : State) : Res := atom .and d a x g z oc s

/-- ATOM OR (R188). -/
def execAtomOr (d : SR) (a : AR) (x : SR) (g z : Bool) (oc : Fin 4) (s : State) : Res := atom .or d a x g z oc s

/-- ATOM XOR (R188). -/
def execAtomXor (d : SR) (a : AR) (x : SR) (g z : Bool) (oc : Fin 4) (s : State) : Res := atom .xor d a x g z oc s

/-- ATOM MIN, signed (R188). -/
def execAtomMin (d : SR) (a : AR) (x : SR) (g z : Bool) (oc : Fin 4) (s : State) : Res := atom .min d a x g z oc s

/-- ATOM MAX, signed (R188). -/
def execAtomMax (d : SR) (a : AR) (x : SR) (g z : Bool) (oc : Fin 4) (s : State) : Res := atom .max d a x g z oc s

/-- ATOM MINZ, unsigned (R188). -/
def execAtomMinz (d : SR) (a : AR) (x : SR) (g z : Bool) (oc : Fin 4) (s : State) : Res := atom .minz d a x g z oc s

/-- ATOM MAXZ, unsigned (R188). -/
def execAtomMaxz (d : SR) (a : AR) (x : SR) (g z : Bool) (oc : Fin 4) (s : State) : Res := atom .maxz d a x g z oc s

/-- ATOM XCHG (R188). -/
def execAtomXchg (d : SR) (a : AR) (x : SR) (g z : Bool) (oc : Fin 4) (s : State) : Res := atom .xchg d a x g z oc s

/-- ATOM FADD: FP32 only, Z = 1 is reserved (R111, R188). -/
def execAtomFadd (d : SR) (a : AR) (x : SR) (g z : Bool) (oc : Fin 4) (s : State) : Res :=
  if z then reserved s else atom .fadd d a x g z oc s

/-- ACAS compares with d and writes s on equality (R189). -/
def execAcas (d : SR) (a : AR) (x : SR) (g z : Bool) (oc : Fin 4) (s : State) : Res :=
  guardRegs [.s d, .a a, .s x] [.s d] s fun s => atomic (.cas (rdS s d)) d a x g z oc s

/-! ## Fences and cache maintenance (R191, R192) -/

/-- FENCE: kind 3 and scope 7 are reserved (R191). -/
def execFence (kind : Fin 4) (scope : Fin 8) (s : State) : Res :=
  if kind = 3 ∨ scope = 7 then reserved s
  else
    let c := s.who
    let rel := kind != 1
    let acq := kind != 2
    if (rel && !releaseReady s c scope.val) || (acq && !readsLanded s) then stall s
    else
      let s := if acq then
          modCtx (acquireAt c scope.val s) c fun x => { x with clock := clockJoin x.clock (readBefore c scope.val x.readClock) }
        else s
      .next (if rel ∧ 1 ≤ scope.val then modCtx s c fun x => clockTick { x with relClock := fencedClock x.relClock scope.val x.clock } c else s)

/-- Drops the cluster's clean copies of n lines from va; lines that are not mapped are skipped (R192), and so are those of a page that the access
may not read or that is ballooned (DESIGN CHOICE: R192 names no fault for them either; log 96). -/
def dropLines (a : Acc) : Nat → Nat → State → State
  | 0, _, s => s
  | n + 1, va, s =>
    let s := match translate a .read va s with
      | (t, .ok key _) => l1gDropLine t a.who.cluster key
      | (t, _) => t
    dropLines a n (va + 64) s

/-- CMO: op 3 and level 3 are reserved. Committed data stands at its home, so a clean moves nothing that a party can
see; an invalidation drops the cluster's copies (R192). A range that passes 2^56 is cut there and raises nothing (DESIGN
CHOICE: R192 gives no check of its end; log 54). -/
def execCmo (op level : Fin 4) (a : AR) (x : SR) (s : State) : Res :=
  if op = 3 ∨ level = 3 then reserved s
  else guardRegs [.a a, .s x] [] s fun s =>
    let addr := ea s a 0
    let n := (rdS s x).toNat
    match globalCheck 1 [addr] with
    | some (c, v) => trapAt 12 c v s
    | none =>
      if acquirePending s then stall s
      else if op = 0 ∨ n = 0 then .next s
      else
        let hi := min (addr.toNat + n) (2 ^ 56)
        .next (dropLines (accOf s s.who) ((hi + 63) / 64 - addr.toNat / 64) (addr.toNat / 64 * 64) s)

/-! ## Regions (R193, R196) -/

/-- The quantity by which an RGSET fails, or the cause and address of a failing global range (R193). -/
def rgsetFault (s : State) (rg : RG) (lb gb n : Nat) : Option Word :=
  let w (x : Nat) : Option Word := some (BitVec.ofNat 64 x)
  if (s.ctx.regions[rg.val]).isSome then w rg.val
  else if lb % 4096 ≠ 0 then w lb
  else if gb % 4096 ≠ 0 then w gb
  else if n % 4096 ≠ 0 then w n
  else if n < 4096 ∨ coreBytes < n then w n
  else if coreBytes < lb + n then w lb
  else if s.ctx.regions.toList.any (fun r => match r with
      | some r => decide (r.lbase < lb + n) && decide (lb < r.lbase + r.len)
      | none => false) then w lb
  else if 2 ^ 56 < gb + n then w gb
  else none

/-- RGSET: modes 2–7 are reserved (R193). A core of the system profile has no scratchpad to mirror into: no local range
is legal (R169). -/
def execRgset (rg : RG) (a : AR) (x x2 : SR) (mode : Fin 8) (s : State) : Res :=
  if 2 ≤ mode.val ∨ !accepted s 8 then reserved s
  else guardRegs [.a a, .s x, .s x2] [] s fun s =>
    let lb := rdBase s a
    let gb := rdS s x
    let n := rdS s x2
    if s.who.isSys then trapAt 12 0x09 lb s
    else
      match rgsetFault s rg lb.toNat gb.toNat n.toNat with
      | some v => trapAt 12 0x09 v s
      | none =>
        let r : Region := ⟨lb.toNat, gb.toNat, n.toNat, mode = 1, [], []⟩
        .next { s with ctx := { s.ctx with regions := s.ctx.regions.set rg.val (some r) } }

/-- RGWB: the bytes held at its issue (R196, R298). -/
def execRgwb (rg : RG) (s : State) : Res :=
  needFeature 8 s fun s => match s.ctx.regions[rg.val] with
  | none => trapAt 12 0x09 (BitVec.ofNat 64 rg.val) s
  | some _ => if acquirePending s then stall s else .next (feed s.who.coreNo (backRegion s.who rg.val s))

/-- Fills granules while an access waits for one; fuel bounds them. -/
def fillAll (core : Nat) : Nat → State → State
  | 0, s => s
  | fuel + 1, s => if (fillWanted s core).isSome && !(coreOf s core).held.isSome then fillAll core fuel (fillGranule core s) else s

/-- RGDROP unsets the region without writing back; accesses that wait for its fill come first (R194, R196), a load of its
own bundle among them (R103). -/
def execRgdrop (rg : RG) (s : State) : Res :=
  needFeature 8 s fun s => match s.ctx.regions[rg.val] with
  | none => trapAt 12 0x09 (BitVec.ofNat 64 rg.val) s
  | some _ =>
    let awaited := (coreOf s s.who.coreNo).waits.any fun w => w.ctx == s.who && isLocalWait w && !localReady s w
    if awaits s awaited then stall s
    else
      let s := if awaited then fillAll s.who.coreNo 64 s else s
      .next { s with ctx := { s.ctx with regions := s.ctx.regions.set rg.val none } }

end Sys2Proof.Machine
end

