-- ==== Sys2Proof/Machine/Selus.lean ====
section
/-! DEFINITION. Selus code (R367) and its translation into native bundles (R368). An operation is read, its registers
become physical ones, and one bundle is laid out for each operation; what the manual leaves to the translator is log 18's
choice. -/

namespace Sys2Proof.Machine

/-! ## Operations (R367) -/

/-- A register operand: class 0 s, 1 a, 2 p, 3 v, 4 m, 5 w, 6 t, 7 k, and its number. -/
structure SelReg where
  cls : Nat
  num : Nat
deriving DecidableEq, Repr

/-- An operation at a byte offset of its section, with its extension word. -/
structure SelusOp where
  at_ : Nat
  slot : Nat
  opcode : Nat
  fn : Nat
  regs : List SelReg
  ext : Option Nat
deriving DecidableEq, Repr

/-- Registers of each class that a context has. -/
def selFile (cls : Nat) : Nat := [32, 16, 16, 32, 8, 8, 16, 32].getD cls 0

def selReg (w lo : Nat) : SelReg := ⟨bitsAt w (lo + 10) 3, bitsAt w lo 10⟩

/-- The native group of an operation with every register field 0: what its extension word carries, its opcode and its
function code at the place that the form gives it (R108, R109, R116). -/
def fnPlace (slot opcode : Nat) : Nat :=
  match slot, opcode with
  | 0, 0x0B => 15
  | 2, 0x13 => 4
  | 3, 0x0C => 16
  | _, _ => 0

def rawGroup (o : SelusOp) : Nat :=
  let e := o.ext.getD 0
  (bitsAt e 0 22 + bitsAt e 22 31 * 2 ^ 32) ||| o.opcode * 2 ^ 22 ||| o.fn * 2 ^ fnPlace o.slot o.opcode

/-- Token fields in assembly order: the produced token, then the consumed ones (R114). -/
def tokenFields (w : Nat) : List (Nat × Nat) :=
  (if bitsAt w 62 1 = 1 then [(7, 57)] else []) ++ ([(7, 52), (7, 47), (7, 42)].take (bitsAt w 40 2))

/-- The register fields of a native group in the order of its assembly form: class and lowest bit (R108–R116, R122–R259). -/
def regFields (slot opcode fn w : Nat) : List (Nat × Nat) :=
  let cb : List (Nat × Nat) := if bitsAt w 38 1 = 1 then [(1, 34)] else []
  let vvv : List (Nat × Nat) := [(3, 17), (3, 12), (3, 7)]
  match slot, opcode with
  | 0, 0x00 => [(0, 17), (0, 12), (0, 7)].take (if 21 ≤ fn then 2 else 3)
  | 0, 0x08 | 0, 0x09 | 0, 0x11 => [(0, 17)]
  | 0, 0x0A | 0, 0x13 => [(2, 18), (0, 12), (0, 7)]
  | 0, 0x0B => [(2, 18), (0, 10)]
  | 0, 0x0C => [(2, 18), (2, 13), (2, 8)].take (if 4 ≤ fn then 2 else 3)
  | 0, 0x0D => [(0, 17), (2, 3), (0, 12), (0, 7)]
  | 0, 0x0E => if fn < 2 then [(1, 18), (1, 13), (0, 7)] else if fn = 2 then [(1, 18), (0, 12)] else [(0, 17), (1, 13)]
  | 0, 0x0F => [(1, 18), (1, 13)]
  | 0, 0x10 => [(1, 18)]
  | 0, 0x12 => [(0, 17), (0, 12), (0, 7)].take (if 6 ≤ fn then 2 else 3)
  | 0, 0x14 => []
  | 0, 0x15 => [(1, 13)]
  | 0, _ => [(0, 17), (0, 12)]
  | 1, 0x08 | 1, 0x0B | 1, 0x11 => [(3, 17), (1, 13)]
  | 1, 0x09 => [(3, 17), (1, 13), (0, 7)]
  | 1, 0x0A => [(3, 17), (1, 13), (3, 7)]
  | 1, 0x0C => [(4, 17), (1, 13)]
  | 1, 0x0D => [(5, 17), (1, 13)]
  | 1, _ => [(0, 17), (1, 13)]
  | 2, 0x04 | 2, 0x11 => [(3, 17), (1, 13)]
  | 2, 0x05 => [(3, 17), (1, 13), (4, 9)]
  | 2, 0x06 => [(3, 17), (1, 13), (0, 7)]
  | 2, 0x07 => [(3, 17), (1, 13), (3, 7)]
  | 2, 0x08 => [(5, 17), (1, 13)]
  | 2, 0x09 => [(4, 17), (1, 13)]
  | 2, 0x13 | 2, 0x14 => [(0, 17), (1, 13), (0, 8)]
  | 2, 0x15 | 2, 0x18 | 2, 0x19 => []
  | 2, 0x16 => [(1, 13), (0, 8)]
  | 2, 0x17 => [(1, 13), (0, 8), (0, 3)]
  | 2, _ => [(0, 17), (1, 13)]
  | 3, 0x04 | 3, 0x05 | 3, 0x0E => [(3, 17), (3, 12), (4, 4)]
  | 3, 0x0C => [(4, 19), (3, 11), (3, 6)]
  | 3, 0x0F => [(3, 17), (0, 12), (4, 4)]
  | 3, 0x10 | 3, 0x13 => vvv
  | 3, 0x11 | 3, 0x12 | 3, 0x14 | 3, 0x15 => [(3, 17), (3, 12)]
  | 3, 0x16 => [(0, 17), (3, 12), (0, 7)]
  | 3, 0x17 => [(3, 17), (0, 12), (0, 7)]
  | 3, 0x18 => [(3, 17), (0, 12)]
  | 3, 0x19 => [(4, 17), (4, 12), (4, 7)].take (if 4 ≤ fn then 2 else 3)
  | 3, 0x1A => [(0, 17), (4, 12)]
  | 3, _ => vvv ++ [(4, 4)]
  | 4, 0x03 | 4, 0x04 | 4, 0x05 | 4, 0x06 | 4, 0x07 => [(3, 17), (3, 12), (4, 4)]
  | 4, 0x0A => [(3, 17), (3, 12), (0, 7)]
  | 4, 0x0B | 4, 0x0C => [(3, 17), (3, 12)]
  | 4, 0x13 => vvv ++ [(5, 4)]
  | 4, 0x17 => [(3, 17), (3, 12), (0, 7), (5, 4)]
  | 4, 0x18 => [(0, 17), (5, 4)]
  | 4, 0x19 => [(5, 4)]
  | 4, _ => if opcode < 0x10 then vvv ++ [(4, 4)] else [(3, 17), (3, 12), (5, 4)]
  | 5, 0x00 => [(6, 18), (1, 14), (1, 10), (1, 6)] ++ tokenFields w
  | 5, 0x01 => [(6, 18)]
  | 5, 0x02 => [(6, 18), (1, 14), (0, 9)] ++ tokenFields w
  | 5, 0x03 => [(6, 18), (1, 14)] ++ tokenFields w
  | 5, 0x04 => [(3, 17), (6, 13), (0, 8)]
  | 5, 0x05 => [(6, 18), (3, 12), (0, 7)]
  | 5, 0x06 | 5, 0x07 => [(0, 17), (6, 13)]
  | 5, 0x0A => [(1, 18), (1, 14), (1, 10), (0, 5)] ++ cb ++ tokenFields w
  | 5, _ => [(1, 18), (1, 14), (0, 9)] ++ cb ++ tokenFields w
  | 6, 0x07 => []
  | 6, _ => [(if opcode < 4 then 3 else 0, 17)]
  | 7, 0x00 => [(2, 16), (2, 10), (2, 4), (2, 57)].filter fun f => bitsAt w (f.2 + 5) 1 == 1
  | 7, 0x05 | 7, 0x07 | 7, 0x0C | 7, 0x12 | 7, 0x15 => [(0, 17)]
  | 7, 0x06 => [(2, 14)]
  | 7, 0x08 => tokenFields w
  | 7, 0x0B => [(0, 17), (1, 13), (0, 8)]
  | 7, 0x20 | 7, 0x21 | 7, 0x2C => [(0, 17), (0, 12)]
  | 7, 0x23 => [(0, 17), (1, 13)]
  | 7, 0x24 | 7, 0x25 | 7, 0x2A => [(0, 17)]
  | 7, 0x26 | 7, 0x27 => [(1, 18), (0, 13)]
  | 7, 0x28 => [(2, 13), (0, 17)]
  | 7, 0x29 => [(0, 17), (1, 13)].take (if bitsAt w 12 1 = 0 then 2 else 1)
  | 7, 0x2B => if bitsAt w 20 2 = 0 then [(1, 16), (0, 11), (0, 6)] else if bitsAt w 20 2 = 1 then [(0, 6)] else []
  | _, _ => []

/-- Bits of a register field of a class. -/
def selWidth (cls : Nat) : Nat := [5, 4, 4, 5, 3, 3, 4, 5].getD cls 0

/-- The register fields that an operation's own registers fill: tiles are named by number in the extension word (R367). -/
def selFields (o : SelusOp) : List (Nat × Nat) :=
  if o.slot = 8 then (if o.opcode = 0 then [(0, 0)] else if o.opcode = 2 then [(2, 0)] else [])
  else (regFields o.slot o.opcode o.fn (rawGroup o)).filter fun f => f.1 ≠ 6

/-- The operation of the words (address, bits) at the head of a list, with the words that follow it; none where R367 does
not admit it. -/
def selusOp : List (Nat × Nat) → Option (SelusOp × List (Nat × Nat))
  | [] => none
  | (a, w) :: rest =>
    let op (ext : Option Nat) : SelusOp :=
      ⟨a, bitsAt w 56 8, bitsAt w 50 6, bitsAt w 43 7, [selReg w 30, selReg w 17, selReg w 4], ext⟩
    let legal (o : SelusOp) : Bool :=
      decide (o.slot ≤ 8) && (o.slot != 8 || (decide (o.opcode ≤ 5) && o.fn == 0)) && bitsAt w 1 3 == 0 &&
        (o.regs.drop (selFields o).length).all (fun r => r == ⟨0, 0⟩) &&
        (o.slot == 8 || (selFields o).all fun f => bitsAt (rawGroup o) f.2 (selWidth f.1) == 0)
    if w % 2 = 0 then (if legal (op none) then some (op none, rest) else none)
    else match rest with
      | [] => none
      | (_, x) :: rest => if legal (op (some x)) && bitsAt x 53 11 == 0 then some (op (some x), rest) else none

/-- The operations of a section; fuel bounds them. -/
def selusOps : Nat → List (Nat × Nat) → Option (List SelusOp)
  | 0, _ => some []
  | _ + 1, [] => some []
  | fuel + 1, ws =>
    match selusOp ws with
    | some (o, rest) => (selusOps fuel rest).map (o :: ·)
    | none => none

/-! ## Physical registers (R368) -/

/-- The native operation, with every register field 0. -/
def SelusOp.native (o : SelusOp) : Option Instr :=
  if o.slot < 8 then (match decodeSlot o.slot (rawGroup o) with | .ok i => some i | .error _ => none) else none

/-- The operand from which an operation takes a run of registers, and how many: contributors, a pair of bounds, the pair of EQPOP (R226,
R359). A run that begins at a register of the device ends with its file. -/
def SelusOp.run (o : SelusOp) : Option (SelReg × Nat) :=
  let from_ (k n : Nat) : Option (SelReg × Nat) :=
    (o.regs[k]?).map fun r => (r, if r.num < selFile r.cls then min n (selFile r.cls - r.num) else n)
  match o.native with
  | some (.vmaxw _ _ n _ _) | some (.vminw _ _ n _ _) | some (.vmedw _ _ n _ _) | some (.vssmw _ _ n _ _) => from_ 1 n.val
  | some (.vclpw _ _ _ _ _) => from_ 2 2
  | _ => if o.slot = 7 ∧ o.opcode = 0x28 then from_ 1 2 else none

/-- An operation that draws by SR reads s31 (R214, R256). -/
def SelusOp.draws (o : SelusOp) : Bool :=
  match o.native with
  | some (.vcvt _ _ _ rnd _ _) => rnd == 4
  | some (.vqnt _ _ rnd _) | some (.vdqnt _ _ rnd _) => rnd == 4
  | some (.tst _ _ _ _ rnd _ _) => rnd == 4
  | _ => false

/-- The registers that an operation has: those of its fields, of its run, and s31 under SR. -/
def SelusOp.named (o : SelusOp) : List SelReg :=
  o.regs.take (selFields o).length ++
    (match o.run with | some (r, n) => (List.range n).map fun k => ⟨r.cls, r.num + k⟩ | none => []) ++
    (if o.draws then [⟨0, 31⟩] else [])

/-- A signed parcel offset of n bits from an operation, as a byte offset of the section. -/
def selTarget (at_ n x : Nat) : Nat := (Int.ofNat at_ + 4 * intOf n true x).toNat

/-- The index of ENDLOOP for a LOOP whose body is the list; fuel is the list itself. -/
def loopEndAt : List SelusOp → Nat → Nat → Nat
  | [], _, i => i
  | o :: os, depth, i =>
    if o.slot = 8 ∧ o.opcode = 1 then (if depth = 0 then i else loopEndAt os (depth - 1) (i + 1))
    else loopEndAt os (if o.slot = 8 ∧ o.opcode = 0 then depth + 1 else depth) (i + 1)

/-- The stretches of operations, by index, that control may run through again: loops, and whatever lies between a backward
target and a branch; the whole section where a call or a computed target stands in it (log 18). -/
def selRegions (ops : List SelusOp) : List (Nat × Nat) :=
  let index (off : Nat) : Nat := (ops.findIdx? fun o => off ≤ o.at_).getD ops.length
  let branches := (List.range ops.length).filter fun i =>
    match ops[i]? with | some o => o.slot == 7 && (o.opcode == 0 || o.opcode == 3) | none => false
  let back (t i : Nat) : List (Nat × Nat) := if t ≤ i then [(t, i)] else []
  (List.range ops.length).flatMap fun i =>
    match ops[i]? with
    | none => []
    | some o =>
      let raw := rawGroup o
      match o.slot, o.opcode with
      | 8, 0 => [(i, loopEndAt (ops.drop (i + 1)) 0 (i + 1))]
      | 7, 0x05 => [(i, index (o.at_ + 4 * bitsAt raw 32 19))]
      | 7, 0x01 => back (index (selTarget o.at_ 26 (bitsAt raw 0 22 + bitsAt raw 32 4 * 2 ^ 22))) i
      | 0, 0x14 => branches.flatMap fun p => back (index (selTarget o.at_ 19 (bitsAt raw 0 19))) p
      | 0, 0x15 | 7, 0x02 | 7, 0x04 => [(0, ops.length)]
      | _, _ => []

/-- A span of operations with every stretch that it meets. -/
def widen (regions : List (Nat × Nat)) : Nat → Nat × Nat → Nat × Nat
  | 0, x => x
  | fuel + 1, x =>
    widen regions fuel (regions.foldl (fun x r => if r.1 ≤ x.2 ∧ x.1 ≤ r.2 then (min x.1 r.1, max x.2 r.2) else x) x)

/-- The operations over which a register may hold a value that counts: from the first that names it (from the start, for a
register that the device has) to the last, or to the section's end where the last one's result may land late. -/
def liveSpan (ops : List SelusOp) (regions : List (Nat × Nat)) (r : SelReg) : Nat × Nat :=
  let at_ := (List.range ops.length).filter fun i => match ops[i]? with | some o => o.named.contains r | none => false
  let last := at_.getLast?.getD 0
  let late := match ops[last]? with
    | some o => [1, 2, 5, 6].contains o.slot && o.regs.head? == some r
    | none => false
  if r.cls = 7 then (0, ops.length)
  else widen regions regions.length (if r.num < selFile r.cls then 0 else at_.headD 0, if late then ops.length else last)

/-- What each register of a section becomes. -/
abbrev RegMap := List (SelReg × Nat)

/-- The first and last number of the registers that must stay together with one: its own, or those of the runs that meet (log 18). -/
def runWith (ops : List SelusOp) (r : SelReg) : Nat × Nat :=
  let runs := ops.filterMap fun o => match o.run with
    | some (q, n) => if q.cls = r.cls ∧ 0 < n then some (q.num, q.num + n - 1) else none
    | none => none
  widen runs runs.length (r.num, r.num)

/-- A number that its class has stays; each other one takes the lowest register of the class that holds nothing over its
span, and those of a run take consecutive ones, a pair of EQPOP an even and odd pair (R359, R368, log 18). None where no register is
left. -/
def assignRegs (ops : List SelusOp) : Option RegMap :=
  let regions := selRegions ops
  let all := (ops.flatMap SelusOp.named).eraseDups
  let spans := all.map fun r => (r, liveSpan ops regions r)
  let span (r : SelReg) : Nat × Nat := ((spans.find? fun e => e.1 == r).map (·.2)).getD (0, ops.length)
  let meets (r q : SelReg) : Bool := decide ((span r).1 ≤ (span q).2) && decide ((span q).1 ≤ (span r).2)
  let clear (m : RegMap) (r : SelReg) (n : Nat) : Bool :=
    decide (n < selFile r.cls) && (n != 0 || !([0, 2, 4].contains r.cls)) &&
      m.all fun e => !(e.1.cls == r.cls && e.2 == n && meets e.1 r)
  let fixed : RegMap := (all.filter fun r => decide (r.num < selFile r.cls)).map fun r => (r, r.num)
  let high := (all.filter fun r => decide (selFile r.cls ≤ r.num)).map fun r => (r.cls, runWith ops r)
  let wide (e : Nat × Nat × Nat) : Bool := e.2.1 != e.2.2
  (high.filter wide ++ high.filter fun e => !wide e).foldl (fun m e => m.bind fun m =>
    let (cls, lo, hi) := e
    let members := (List.range (hi + 1 - lo)).map fun i => (⟨cls, lo + i⟩ : SelReg)
    if m.any fun e => e.1 == ⟨cls, lo⟩ then some m
    else
      let fits (n : Nat) : Bool := (!wide e || cls != 0 || n % 2 == lo % 2) && members.all fun q => clear m q (n + (q.num - lo))
      ((List.range (selFile cls)).find? fits).map fun n => members.map (fun q => (q, n + (q.num - lo))) ++ m) (some fixed)

def physical (m : RegMap) (r : SelReg) : Option Nat := (m.find? fun e => e.1 == r).map (·.2)

/-- The native group with its registers, operand by operand; none where a class does not fit its field or no register is left. -/
def placeRegs (all : RegMap) : List (Nat × Nat) → List SelReg → Nat → Option Nat
  | f :: fs, r :: rs, w =>
    if f.1 = r.cls then (physical all r).bind fun n => placeRegs all fs rs (w + n * 2 ^ f.2) else none
  | _, _, w => some w

/-! ## Bundles -/

/-- A place in the translated code: where a Selus operation begins, or an end that the translator has named. -/
inductive Mark where
  | op (at_ : Nat) | made (n : Nat)
deriving DecidableEq, Repr

/-- What a bundle's group names by offset: off26 of JMP and CALL, imm19 of BTGT, the end of a LOOP. -/
inductive FixKind where
  | off26 | imm19 | loopEnd
deriving DecidableEq, Repr

/-- A piece of translated code: a mark, or a bundle of one slot with the idle cycles after it. -/
inductive Piece where
  | mark (m : Mark)
  | bundle (slot w gap : Nat) (fix : Option (FixKind × Mark))
  | idle (gap : Nat)
deriving DecidableEq, Repr

/-- An open construct: a loop with its end; an IF with its ELSE and its end. -/
inductive OpenCtl where
  | loop (last : Nat) | cond (other : Nat)
deriving DecidableEq, Repr

/-- The b register that conditions branch through: one that no operation names (log 18). -/
def branchReg (ops : List SelusOp) : Nat :=
  let named := ops.flatMap fun o =>
    let w := rawGroup o
    match o.slot, o.opcode with
    | 0, 0x14 | 0, 0x15 | 7, 0x03 | 7, 0x04 => [bitsAt w 19 3]
    | 7, 0x00 => [bitsAt w 53 3, bitsAt w 50 3, bitsAt w 47 3, bitsAt w 44 3]
    | 7, 0x02 => [7]
    | _, _ => []
  ((List.range 8).reverse.find? fun n => !named.contains n).getD 6

/-- The pieces of one native operation; every result lands before the next bundle issues. -/
def nativePieces (all : RegMap) (o : SelusOp) : Option (List Piece) :=
  let raw := rawGroup o
  (placeRegs all (selFields o) o.regs raw).map fun w =>
    let fix : Option (FixKind × Mark) := match o.slot, o.opcode with
      | 0, 0x14 => some (.imm19, .op (selTarget o.at_ 19 (bitsAt raw 0 19)))
      | 7, 0x01 | 7, 0x02 => some (.off26, .op (selTarget o.at_ 26 (bitsAt raw 0 22 + bitsAt raw 32 4 * 2 ^ 22)))
      | 7, 0x05 => some (.loopEnd, .op (o.at_ + 4 * bitsAt raw 32 19))
      | _, _ => none
    [.bundle o.slot w 15 fix, .idle 2]

/-- The pieces of an operation in its constructs; n numbers the ends. -/
def selusPieces (all : RegMap) (b : Nat) (o : SelusOp) (open_ : List OpenCtl) (n : Nat) : Option (List Piece × List OpenCtl × Nat) :=
  let r : SelReg := o.regs.headD ⟨0, 0⟩
  if o.slot < 8 then (nativePieces all o).map fun ps => (ps, open_, n)
  else match o.opcode, open_ with
    | 0, _ => if r.cls ≠ 0 then none else (physical all r).map fun k =>
        ([.bundle 7 (5 * 2 ^ 22 + k * 2 ^ 17) 0 (some (.loopEnd, .made n))], .loop n :: open_, n + 1)
    | 1, .loop m :: rest => some ([.mark (.made m), .idle 0], rest, n)
    | 2, _ => if r.cls ≠ 2 then none else (physical all r).map fun k =>
        ([.bundle 0 (0x14 * 2 ^ 22 + b * 2 ^ 19) 0 (some (.imm19, .made n)),
          .bundle 7 ((2 ^ 5 + 2 ^ 4 + k) * 2 ^ 16 + b * 2 ^ 53) 0 none], .cond n :: open_, n + 1)
    | 3, .cond m :: rest => some ([.bundle 7 (2 ^ 22) 0 (some (.off26, .made n)), .mark (.made m)], .cond n :: rest, n + 1)
    | 4, .cond m :: rest => some ([.mark (.made m)], rest, n)
    | 5, _ => some ([.bundle 7 (6 * 2 ^ 22 + bitsAt (o.ext.getD 0) 19 3 * 2 ^ 19) 0 none], open_, n)
    | _, _ => none

/-- The pieces of all operations; constructs close in the order in which they open. -/
def allPieces (all : RegMap) (b : Nat) : List SelusOp → List OpenCtl → Nat → Option (List Piece)
  | [], [], _ => some [.idle 0]
  | [], _ :: _, _ => none
  | o :: os, open_, n =>
    match selusPieces all b o open_ n with
    | some (ps, open_, n) => (allPieces all b os open_ n).map fun rest => .mark (.op o.at_) :: ps ++ rest
    | none => none

/-! ## Fetch lines (R92, R93) -/

def Piece.parcels : Piece → Nat
  | .mark _ => 0
  | .bundle slot _ _ _ => if slot = 5 ∨ slot = 7 then 3 else 2
  | .idle _ => 1

/-- Each piece with its parcel number: a bundle that would cross its line begins the next one. -/
def layPieces : List Piece → Nat → List (Nat × Piece)
  | [], _ => []
  | p :: ps, j =>
    let j := if j % 16 + p.parcels ≤ 16 then j else (j / 16 + 1) * 16
    (j, p) :: layPieces ps (j + p.parcels)

/-- The parcel of the first bundle at or after a mark. -/
def markAt (ps : List (Nat × Piece)) (m : Mark) : Nat :=
  match (ps.dropWhile fun e => e.2 != .mark m).find? fun e => decide (0 < e.2.parcels) with
  | some e => e.1
  | none => 0

/-- A group with its offset from the bundle at parcel j. -/
def fixGroup (k : FixKind) (j target w : Nat) : Nat :=
  let d : Int := Int.ofNat target - Int.ofNat j
  match k with
  | .imm19 => w / 2 ^ 19 * 2 ^ 19 + (d % 2 ^ 19).toNat
  | .loopEnd => w / 2 ^ 51 * 2 ^ 51 + w % 2 ^ 32 + (d % 2 ^ 19).toNat * 2 ^ 32
  | .off26 =>
    let x := (d % 2 ^ 26).toNat
    w / 2 ^ 36 * 2 ^ 36 + w / 2 ^ 22 % 2 ^ 10 * 2 ^ 22 + x % 2 ^ 22 + x / 2 ^ 22 * 2 ^ 32

/-- A header: presence mask and gap; every bundle is a safe point with liveness entry 0. -/
def safeHeader (p gap : Nat) : Nat := 2 ^ 31 + p * 2 ^ 23 + gap * 2 ^ 19 + 2 ^ 13

/-- The parcels of a placed piece. -/
def pieceParcels (ps : List (Nat × Piece)) (e : Nat × Piece) : List Nat :=
  match e.2 with
  | .mark _ => []
  | .idle gap => [safeHeader 0 gap]
  | .bundle slot w gap fix =>
    let w := match fix with | some (k, m) => fixGroup k e.1 (markAt ps m) w | none => w
    safeHeader (2 ^ slot) gap :: (w % 2 ^ 32) :: (if slot = 5 ∨ slot = 7 then [w / 2 ^ 32] else [])

/-- Translated code: its parcels with fill, the parcel numbers of its bundles, its operations as native instructions, and
where each Selus operation begins. -/
structure Translated where
  parcels : List Nat
  bundles : List Nat
  instrs : List Instr
  starts : List (Nat × Nat)

/-- Fills up to parcel n. -/
def padTo (n : Nat) (xs : List Nat) : List Nat := xs ++ List.replicate (n - xs.length) 0

/-- The translation of a Selus section's words; none where it holds what R367 does not admit, constructs that do not nest, or
more values at once than the device has registers (log 18). -/
def translateSelus (ws : List Nat) : Option Translated :=
  let at_ := (List.range ws.length).map fun i => 8 * i
  (selusOps ws.length (at_.zip ws)).bind fun ops =>
    ((assignRegs ops).bind fun all => allPieces all (branchReg ops) ops [] 0).map fun pieces =>
      let ps := layPieces pieces 0
      let parcels := ps.foldl (fun xs e => padTo e.1 xs ++ pieceParcels ps e) []
      { parcels := padTo ((parcels.length + 15) / 16 * 16) parcels
        bundles := (ps.filter fun e => decide (0 < e.2.parcels)).map (·.1)
        instrs := ps.filterMap fun e => match e.2 with
          | .bundle slot w _ _ => (match decodeSlot slot w with | .ok i => some i | .error _ => none)
          | _ => none
        starts := ops.map fun o => (o.at_, markAt ps (.op o.at_)) }

end Sys2Proof.Machine
end

