-- ==== Sys2Proof/Machine/Image.lean ====
section
/-! DEFINITION. The Engil image as the loader reads it (R90, R282, R365–R368, R440): its sections, the code it chooses or
translates and the tables of the image. A native section runs where the image lies; where the loader places translated code
the manual does not say (log 18). -/

namespace Sys2Proof.Machine

/-- n bytes of an image from an offset, as a number. -/
def imgNat (bs : List Byte) (off n : Nat) : Nat := natOf ((bs.drop off).take n)

/-- An entry of the section table (R365). -/
structure Section where
  type : Nat
  gen : Nat
  off : Nat
  len : Nat
deriving DecidableEq, Repr

/-- The sections, or none when the header or the table is refused (R365, R368). -/
def sectionsOf (bs : List Byte) : Option (List Section) :=
  let n := imgNat bs 8 4
  let zeroed := bs.take 24 ++ List.replicate 8 0 ++ bs.drop 32
  if imgNat bs 0 4 ≠ 0x4C474E45 ∨ imgNat bs 4 2 ≠ 1 ∨ imgNat bs 6 2 ≠ 0 ∨ imgNat bs 12 4 ≠ 0 ∨ imgNat bs 32 32 ≠ 0 ∨
      n = 0 ∨ 64 < n ∨ bs.length % 64 ≠ 0 ∨ imgNat bs 16 8 ≠ bs.length ∨ bs.length < 64 + 32 * n ∨
      imgNat bs 24 8 ≠ (sigBytes zeroed).toNat then none
  else
    let es : List (Bool × Section) := (List.range n).map fun i =>
      let o := 64 + 32 * i
      ((imgNat bs (o + 3) 5 == 0 && imgNat bs (o + 24) 8 == 0 : Bool),
        (⟨imgNat bs o 2, imgNat bs (o + 2) 1, imgNat bs (o + 8) 8, imgNat bs (o + 16) 8⟩ : Section))
    let ok := es.all fun e => e.1 && decide (1 ≤ e.2.type) && decide (e.2.type ≤ 12) && (e.2.type == 4 || e.2.gen == 0) &&
      decide (e.2.off % 64 = 0) && decide (e.2.off + e.2.len ≤ bs.length)
    let keys : List (Nat × Nat) := es.map fun e => (e.2.type, e.2.gen)
    if ok && decide keys.Nodup then some (es.map (·.2)) else none

def sectionOf (ss : List Section) (type : Nat) : Option Section := ss.find? fun e => e.type = type

/-- Records of k bytes of a section. -/
def recordsOf (bs : List Byte) (sec : Option Section) (k : Nat) : List (List Byte) :=
  match sec with
  | none => []
  | some e => (List.range (e.len / k)).map fun i => (bs.drop (e.off + k * i)).take k

/-- Every feature of the type-1 section is accepted (R366, R368). -/
def featuresMet (s : State) (bs : List Byte) (ss : List Section) : Bool :=
  match sectionOf ss 1 with
  | none => true
  | some e => (List.finRange 4).all fun i =>
      let need := BitVec.ofNat 64 (imgNat bs (e.off + 8 * i.val) 8)
      need &&& ~~~s.dev.featAck[i.val] == 0

/-- The native section of the highest generation that does not exceed 1, with its number, or none (R368). -/
def nativeOf (s : State) (bs : List Byte) (ss : List Section) : Option (Nat × Section) :=
  if featuresMet s bs ss then
    let pick (g : Nat) : Option (Nat × Section) :=
      (ss.zip (List.range ss.length)).findSome? fun e => if e.1.type = 4 ∧ e.1.gen = g then some (e.2, e.1) else none
    (pick 1).or (pick 0)
  else none

/-- An operation that makes a task ineligible for audit: a global ATOM, ACAS, LDAQ or STRL, or a CBWAIT (R440). -/
def unauditable : Instr → Bool
  | .atomAdd _ _ _ g _ _ | .atomAnd _ _ _ g _ _ | .atomOr _ _ _ g _ _ | .atomXor _ _ _ g _ _ | .atomMin _ _ _ g _ _
  | .atomMax _ _ _ g _ _ | .atomMinz _ _ _ g _ _ | .atomMaxz _ _ _ g _ _ | .atomXchg _ _ _ g _ _ | .atomFadd _ _ _ g _ _
  | .acas _ _ _ g _ _ => g
  | .ldaq _ _ _ scope => decide (3 ≤ scope.val)
  | .strl _ _ _ scope => decide (3 ≤ scope.val)
  | .cbwait _ _ _ => true
  | _ => false

/-- A bundle as the loader parses it: its parcel in its line, its header and its operations. -/
abbrev Parsed := Nat × Header × List SlotOp

/-- The bundles of a line as the loader parses it (R90); lim is the number of its parcels that its section holds, and fuel
bounds them. -/
def lineBundles (f : Nat → Nat) (lim : Nat) : Nat → Nat → List Parsed
  | 0, _ => []
  | fuel + 1, j =>
    if lim ≤ j then []
    else match decodeHeader (f j) with
      | none => []
      | some h => (j, h, readSlots h.p fun i => f (j + i)) :: lineBundles f lim fuel (j + bundleLen h.p)

/-- The loader's parse of a native section outside the lines that data symbols cover; the parcel numbers count from the
section's first. -/
def codeBundles (bs : List Byte) (sec : Section) (data : List (Nat × Nat)) : List Parsed :=
  (List.range ((sec.len + 63) / 64)).flatMap fun i =>
    if data.any fun d => decide (d.1 < 64 * i + 64) && decide (64 * i < d.1 + d.2) then []
    else (lineBundles (fun j => imgNat bs (sec.off + 64 * i + 4 * j) 4) (min 16 ((sec.len - 64 * i) / 4)) 16 0).map fun b => (16 * i + b.1, b.2)

/-- A name of the strings section. -/
def nameOf (bs : List Byte) (ss : List Section) (off : Nat) : List Byte :=
  match sectionOf ss 11 with
  | some e => ((bs.drop (e.off + off)).take (e.len - off)).takeWhile (· ≠ 0)
  | none => []

def symsOf (bs : List Byte) (ss : List Section) : List SymRec :=
  (recordsOf bs (sectionOf ss 10) 24).map fun r =>
    { name := nameOf bs ss (imgNat r 0 4), sec := imgNat r 4 2, kernel := imgNat r 6 2 % 2 == 1, data := imgNat r 6 2 / 2 % 2 == 1
      value := imgNat r 8 8, size := imgNat r 16 8 }

def linesOf (bs : List Byte) (ss : List Section) : List LineRec :=
  (recordsOf bs (sectionOf ss 12) 16).map fun r => ⟨imgNat r 0 8, nameOf bs ss (imgNat r 8 4), imgNat r 12 4⟩

/-- The bytes that R366 gives as 0 or reserved are 0 (R368). -/
def recordsZero (bs : List Byte) (ss : List Section) : Bool :=
  let zero (type k : Nat) (f : List Byte → Bool) : Bool := (recordsOf bs (sectionOf ss type) k).all f
  zero 2 16 (fun r => imgNat r 7 1 == 0 && imgNat r 12 4 == 0) && zero 5 40 (fun r => imgNat r 3 5 == 0) &&
    zero 7 8 (fun r => imgNat r 2 2 == 0) && zero 10 24 (fun r => imgNat r 6 2 / 4 == 0)

def liveOf (r : List Byte) : LiveRec :=
  ⟨BitVec.ofNat 16 (imgNat r 0 2), (List.range (min 4 (imgNat r 2 1))).map fun i => (imgNat r (8 + 8 * i) 4, imgNat r (12 + 8 * i) 4)⟩

/-- A channel entry's field (R282). -/
def chField (c : ChanRec) (lo n : Nat) : Nat := bitsAt c.bits.toNat lo n

/-- The channel-table cases that refuse an image (R282). -/
def chansLegal (cs : List ChanRec) : Bool :=
  cs.all (fun c => chField c 96 32 == 0 && chField c 59 5 == 0 && chField c 6 7 == 0 && chField c 50 2 != 3 &&
    (chField c 58 1 == 1 || chField c 64 32 == 0)) &&
  decide ((cs.map fun c => (chField c 13 11, chField c 0 6)).Nodup)

/-- The variants of a section by index, each with its weights; none where a reserved byte is not 0 (R366). -/
def variantsOf : Nat → List Byte → Option (Tbl (List Nat))
  | 0, _ => some []
  | fuel + 1, bs =>
    if bs.length < 8 then some []
    else if imgNat bs 1 1 ≠ 0 then none
    else
      let r := imgNat bs 2 2
      (variantsOf fuel (bs.drop ((4 + 2 * r + 7) / 8 * 8))).map fun rest =>
        (imgNat bs 0 1, (List.range r).map fun i => imgNat bs (4 + 2 * i) 2) :: rest

/-- The address that symbol i stands for: an offset in its section, in the placed code where that is the code's section; an index outside
the table stands for 0 (DESIGN CHOICE, log 91). -/
def symAddr (at_ base code : Nat) (ss : List Section) (syms : List SymRec) (i : Nat) : Nat :=
  match syms[i]? with
  | some y => if y.sec = code then base + y.value else match ss[y.sec]? with | some e => at_ + e.off + y.value | none => y.value
  | none => 0

/-- What a relocation of the code makes: its place in the code and its bytes (R330, R366). headers: the parcel numbers of the
code's bundles, in rising order. An offset that is no multiple of 4 is divided down, a value that does not fit its field is cut to it, and a
kind outside 1–8 makes nothing (DESIGN CHOICE: R330 and R366 name no refusal; log 91). -/
def relocOf (bs : List Byte) (sec : Section) (base : Nat) (headers : List Nat) (target : Nat) (off kind : Nat) : Option (Nat × List Byte) :=
  let word (o : Nat) : Nat := imgNat bs (sec.off + o) 4
  let parcel : Nat := ((headers.filter fun h => decide (4 * h ≤ off)).getLast?).getD 0
  let d : Int := (Int.ofNat target - Int.ofNat (base + 4 * parcel)) / 4
  let imm (lo : Nat) : Option (Nat × List Byte) := some (off, bytesOf 4 (word off / 2 ^ 17 * 2 ^ 17 + bitsAt target lo (if lo = 51 then 13 else 17)))
  match kind with
  | 1 => some (off, bytesOf 4 (word off / 2 ^ 19 * 2 ^ 19 + (d % 2 ^ 19).toNat))
  | 2 =>
    let x := (d % 2 ^ 26).toNat
    some (off, bytesOf 4 (word off / 2 ^ 22 * 2 ^ 22 + x % 2 ^ 22) ++ bytesOf 4 (word (off + 4) / 16 * 16 + x / 2 ^ 22))
  | 3 => some (off, bytesOf 8 target)
  | 4 => some (off, bytesOf 4 target)
  | 5 => imm 51
  | 6 => imm 34
  | 7 => imm 17
  | 8 => imm 0
  | _ => none

/-- The data runs of section i as (value, size). -/
def dataRuns (syms : List SymRec) (i : Nat) : List (Nat × Nat) := (syms.filter fun y => y.sec = i ∧ y.data).map fun y => (y.value, y.size)

/-- Every native section with its number. -/
def nativeSections (ss : List Section) : List (Nat × Section) :=
  ((List.range ss.length).zip ss).filter fun e => e.2.type = 4

/-- The code that the loader takes: which section, its base, its length, its bundles by parcel number with where a symbol's
offset stands, its instructions, what it has translated. -/
structure Chosen where
  sec : Nat
  base : Nat
  len : Nat
  bundles : List Nat
  place : Nat → Nat
  instrs : List Instr
  code : List Byte
  patches : List (Nat × List Byte)

/-- The native section with its relocations (R366, R368). -/
def chooseNative (at_ : Nat) (bs : List Byte) (ss : List Section) (syms : List SymRec) (i : Nat) (sec : Section) : Chosen :=
  let code := codeBundles bs sec (dataRuns syms i)
  let headers := code.map (·.1)
  let base := at_ + sec.off
  { sec := i, base := base, len := sec.len, bundles := headers, place := id, code := []
    instrs := code.flatMap fun b => b.2.2.filterMap fun o => match o.op with | .ok i => some i | .error _ => none
    patches := (recordsOf bs (sectionOf ss 9) 24).filterMap fun r =>
      let target := (Int.ofNat (symAddr at_ base i ss syms (imgNat r 12 4)) + intOf 64 true (imgNat r 16 8)) % 2 ^ 64
      (relocOf bs sec base headers target.toNat (imgNat r 0 8) (imgNat r 8 4)).map fun p => (base + p.1, p.2) }

/-- The Selus section translated (R367, R368). Where the code stands is a free value (log 18). -/
def chooseSelus (s : State) (bs : List Byte) (i : Nat) (sec : Section) : Option Chosen :=
  let base := (Config.free s.tick (2 ^ 56)).toNat % 2 ^ 56 / 64 * 64
  (translateSelus ((List.range (sec.len / 8)).map fun k => imgNat bs (sec.off + 8 * k) 8)).map fun t =>
    { sec := i, base := base, len := 4 * t.parcels.length, bundles := t.bundles, instrs := t.instrs, patches := []
      place := fun v => 4 * ((t.starts.find? fun e => e.1 == v).map (·.2)).getD (t.parcels.length)
      code := t.parcels.flatMap (bytesOf 4) }

/-- The image that lies at an address, or none when the loader refuses it. -/
def imageOf (s : State) (at_ : Nat) (bs : List Byte) : Option Image :=
  match sectionsOf bs with
  | none => none
  | some ss =>
    let syms := symsOf bs ss
    let chans := (recordsOf bs (sectionOf ss 6) 16).map fun r => (⟨BitVec.ofNat 128 (natOf r)⟩ : ChanRec)
    let live := (recordsOf bs (sectionOf ss 5) 40).map liveOf
    let lxOk := (nativeSections ss).all fun e =>
      (codeBundles bs e.2 (dataRuns syms e.1)).all fun b => !b.2.1.sp || decide (b.2.1.lx.toNat < live.length)
    let chosen := match nativeOf s bs ss with
      | some (i, sec) => some (chooseNative at_ bs ss syms i sec)
      | none => ((List.range ss.length).zip ss).findSome? fun (e : Nat × Section) =>
          if e.2.type = 3 then chooseSelus s bs e.1 e.2 else none
    match chosen, (match sectionOf ss 8 with | some e => variantsOf 4 ((bs.drop e.off).take e.len) | none => some []) with
    | some c, some variants =>
      if at_ % 64 ≠ 0 || !chansLegal chans || !lxOk || !recordsZero bs ss then none
      else
        let kernels := (recordsOf bs (sectionOf ss 2) 16).map fun r =>
          let y := syms.getD (imgNat r 0 4) ⟨[], 0, false, false, 0, 0⟩
          let addr (off : Nat) : Nat :=
            if y.sec = c.sec then c.base + c.place off else match ss[y.sec]? with | some e => at_ + e.off + off | none => off
          let first := addr y.value
          (⟨BitVec.ofNat 64 first, addr (y.value + y.size) - first, imgNat r 4 1, imgNat r 5 1, imgNat r 6 1 % 2 == 1,
            imgNat r 8 4⟩ : GeomRec)
        let barriers := (recordsOf bs (sectionOf ss 7) 8).map fun r => (imgNat r 0 1, imgNat r 1 1, imgNat r 4 4)
        let remote := chans.any fun c => chField c 24 8 != 0xFF && chField c 24 8 != s.dev.no
        let scratch := (kernels.map GeomRec.scratch).foldl max 0
        some { at_ := at_, signature := BitVec.ofNat 64 (imgNat bs 24 8), codeBase := c.base, codeLen := c.len
               bundles := c.bundles.map fun j => c.base + 4 * j, patches := c.patches, code := c.code, syms := syms, lines := linesOf bs ss
               kernels := kernels, chans := chans, barriers := barriers
               live := if c.code.isEmpty then live else [⟨0x3FF, if scratch = 0 then [] else [(0, scratch)]⟩]
               variants := if variants.isEmpty then [] else (List.range variants.length).map fun i => (Tbl.get? variants i).getD []
               auditable := !remote && c.instrs.all fun i => !unauditable i }
    | _, _ => none

def imageAt (s : State) (at_ : Nat) : Option Image := s.images.find? fun m => m.at_ = at_

/-- The kernel that holds a bundle address. -/
def kernelAt (m : Image) (entry : Word) : Option GeomRec :=
  m.kernels.find? fun k => decide (k.entry.toNat ≤ entry.toNat) && (k.size == 0 || decide (entry.toNat < k.entry.toNat + k.size))

/-- A bundle address of the image's code (R374). -/
def inCode (m : Image) (entry : Word) : Bool :=
  entry.toNat % 4 == 0 && decide (m.codeBase ≤ entry.toNat) && decide (entry.toNat < m.codeBase + m.codeLen) &&
    m.bundles.contains entry.toNat

/-- A line of code that the loader has translated, where a task's image holds it (R368). -/
def placedLine (s : State) (task line : Nat) : Option (List Byte) :=
  ((taskOf s task).bind fun t => imageAt s t.record.image).bind fun m =>
    if !m.code.isEmpty && decide (m.codeBase ≤ line) && decide (line < m.codeBase + m.codeLen) then
      some ((m.code.drop (line - m.codeBase)).take 64)
    else none

end Sys2Proof.Machine
end

