-- ==== Sys2Proof/Machine/Channel.lean ====
section
/-! DEFINITION. The CM slot: channels (R282–R291) and their claims. -/

namespace Sys2Proof.Machine

/-! ## The two ends -/

def chanOf (s : State) (n : Nat) : Option Chan := Tbl.get? s.chans n
def setChan (s : State) (n : Nat) (c : Chan) : State := { s with chans := Tbl.set s.chans n c }

def bindOf (x : Ctx) (c : CR) : Option ChanBind := x.chans.find? fun b => b.num = c

/-- Elements that no receive has claimed. -/
def Chan.unclaimed (c : Chan) : Nat := c.q.length - c.claims.length

/-- The smallest scope that holds both ends (R289), CLUSTER at least: every SEND waits for the commit buffer (R315). -/
def endScope (a : CtxId) (b : Option CtxId) : Nat :=
  match b with
  | none => 5
  | some b =>
    if a.cluster = b.cluster then 2 else if a.stack = b.stack then 3 else 4

/-- Channel fault, or collective timeout, found with the other value checks: SYS_TVAL holds the channel (R362). -/
def channelFault (c : CR) (s : State) : Res := trapAt 10 0x11 (BitVec.ofNat 64 c.val) s

/-- The larger of two elements by the rank of R224, or as signed integers (R284). -/
def largerOf (isInt : Bool) (a b : Nat) : Nat :=
  if isInt then (if intOf 32 true a < intOf 32 true b then b else a) else fminmax .f32 true a b

/-- What a receive makes of its first operand and an element, with its events (R73, R284). -/
def received (fn : RecvFn) (isInt : Bool) (v : Vec) (e : ChElem) : RegVal × List Nat :=
  match e with
  | .scalar x => (.word x, [])
  | .vec e =>
    match fn with
    | .move => (.vec e, [])
    | .max => (.vec (Vector.ofFn fun i => BitVec.ofNat 32 (largerOf isInt v[i].toNat e[i].toNat)), [])
    | .add =>
      let r := Vector.ofFn fun (i : Fin 64) => fop2 .f32 numAdd v[i].toNat e[i].toNat
      (.vec (r.map fun x => BitVec.ofNat 32 x.1), r.toList.flatMap (·.2))

/-- What the receiver of an element observes in recognised order: nothing of a context of another cluster (R296). -/
def elemClock (c : CtxId) (src : Option CtxId) (k : List (Nat × Nat)) : List (Nat × Nat) :=
  if src.any fun p => p.cluster = c.cluster then k else []

/-- A receive into a register that ignores writes acquires all the same (R39, R289). -/
def acquireUnnamed (c : CtxId) (r : RegName) (k : List (Nat × Nat)) (s : State) : State :=
  if r.wired then modCtx s c fun x => { x with clock := clockJoin x.clock k } else s

/-- The element of a claim arrives: its landing gets the value and what it orders (R286, R289). -/
def fillClaim (q : Claim) (e : ChElem × List (Nat × Nat)) (src : Option CtxId) (s : State) : State :=
  let r := received q.fn q.isInt q.v e.1
  let s := modCtx s q.ctx fun x => { x with lands := x.lands.map fun l =>
    if l.id = q.id ∧ ¬ l.ready then { l with val := r.1, clock := elemClock q.ctx src e.2 } else l }
  countWork q.ctx q.bundle r.2 (acquireAt q.ctx (endScope q.ctx src) (acquireUnnamed q.ctx q.reg (elemClock q.ctx src e.2) s))

/-- A claim ends without an element: its destination is unpredictable, and the fault waits for the context (R286). -/
def failClaim (code : BitVec 8) (q : Claim) (s : State) : State :=
  let s := spoilLanding q.ctx q.id s
  if (getCtx s q.ctx).run = .retired then postCtx s q.ctx q.bundle 3 code 2
  else addLate s q.ctx ⟨if code = 0x12 then .collective else .claim, code, BitVec.ofNat 64 q.num.val, 0, none⟩

/-- Both ends of a channel close: an inbound close discards and counts what is unclaimed, and claims that no element is
left for fail (R286, R288). -/
def closeChan (n : Nat) (inbound : Bool) (s : State) : State :=
  match chanOf s n with
  | none => s
  | some c =>
    if c.closed then s
    else
      let keep := if inbound then min c.q.length c.claims.length else c.q.length
      let lost := c.claims.drop keep
      let c' := { c with closed := true, q := c.q.take keep, claims := c.claims.take keep
                         dropped := min 0xFFFF (c.dropped + (c.q.length - keep)) }
      lost.foldl (fun s q => failClaim 0x11 q s) (setChan s n c')

/-- Every open channel of a context closes as CHCLOSE closes it (R166, R32). -/
def closeAll (c : CtxId) (s : State) : State :=
  let x := getCtx s c
  let s := x.chans.foldl (fun s b => if x.closed.contains b.num then s else closeChan b.chan (!b.out) s) s
  modCtx s c fun x => { x with closed := x.chans.map (·.num) }

/-! ## Sending (R284, R285, R289) -/

/-- A SEND on the channel waits for room or credit (R285). -/
def sendBlocked (b : ChanBind) (ch : Chan) : Bool := ch.unclaimed == b.depth || !ch.credit

/-- Since when, and on which channel, a SEND of context x has stalled; none once the channel has room and credit again (R285). -/
def sendStalled (s : State) (x : Ctx) : Option (CR × Nat) :=
  x.sendWait.filter fun w =>
    match bindOf x w.1 with
    | some b => (match chanOf s b.chan with | some ch => sendBlocked b ch | none => false)
    | none => false

/-- A SEND that stalls for room or credit: since when, for the watchdog (R32, R285). -/
def stallSend (c : CR) (s : State) : Res :=
  let since := match s.ctx.sendWait with
    | some (d, t) => if d = c then t else s.now
    | none => s.now
  stall { s with ctx := { s.ctx with sendWait := some (c, since) } }

/-- The ends of a channel have a route between their stacks (R472). -/
def chanRoute (s : State) (ch : Chan) : Bool :=
  match ch.src, ch.dst with
  | some a, some b => routeOpen s a.stack.val b.stack.val
  | _, _ => true

/-- Sends an element on an outbound channel of a fitting shape; over a closed route it is lost, and both ends close (R447, R472). -/
def sendOn (shapes : List Nat) (c : CR) (r : RegName) (elem : State → ChElem) (s : State) : Res :=
  match bindOf s.ctx c with
  | none => channelFault c s
  | some b =>
    match chanOf s b.chan with
    | none => channelFault c s
    | some ch =>
      if !b.out || !shapes.contains b.shape || ch.closed then channelFault c s
      else
        guardRegs [r] [] s fun s =>
          if sendBlocked b ch then stallSend c s
          else if !releaseReady s s.who (endScope s.who ch.dst) then stall { s with ctx := { s.ctx with sendWait := none } }
          else
            let k := s.ctx.clock
            let b' := { b with sent := (b.sent.filter fun t => s.ctx.sc < t + 2) ++ [s.ctx.sc] }
            let x := { s.ctx with sendWait := none, chans := s.ctx.chans.map fun y => if y.num = c then b' else y }
            let t := { s with ctx := clockTick x s.who }
            .next (if chanRoute s ch then setChan t b.chan { ch with q := ch.q ++ [(elem s, k)] } else closeChan b.chan true t)

/-- SEND: shapes 0 and 1 (R284). -/
def execSend (v : VR) (c : CR) (s : State) : Res := needFiles s fun s => sendOn [0, 1] c (.v v) (fun s => .vec (rdV s v)) s

/-- SENDS: shape 2 (R284). -/
def execSends (x : SR) (c : CR) (s : State) : Res := sendOn [2] c (.s x) (fun s => .scalar (rdS s x)) s

/-! ## Receiving (R284, R286) -/

/-- A receive claims the next unclaimed element: buffered, it lands within the bound; else the destination is
interlocked. rs: the registers it reads. -/
def receiveOn (shapes : List Nat) (c : CR) (r : RegName) (rs : List RegName) (fn : RecvFn) (L : Nat) (v : State → Vec)
    (s : State) : Res :=
  match bindOf s.ctx c with
  | none => channelFault c s
  | some b =>
    match chanOf s b.chan with
    | none => channelFault c s
    | some ch =>
      if b.out || !shapes.contains b.shape || (ch.closed && ch.unclaimed == 0) then channelFault c s
      else
        guardRegs rs [r] s fun s =>
          let isInt := b.shape == 1
          match (if ch.claims.isEmpty then ch.q else []) with
          | e :: rest =>
            let id := fresh s
            let w := received fn isInt (v s) e.1
            let s := landWith r w.1 L false id (bump s)
            let s := { s with ctx := { s.ctx with lands := s.ctx.lands.map fun l =>
              if l.id = id then { l with ready := true, clock := elemClock s.who ch.src e.2 } else l } }
            .next (countMine w.2 (acquireAt s.who (endScope s.who ch.src)
              (acquireUnnamed s.who r (elemClock s.who ch.src e.2) (setChan s b.chan { ch with q := rest }))))
          | [] =>
            let id := fresh s
            let q : Claim := ⟨s.who, c, id, r, fn, isInt, v s, s.now, s.frame.base⟩
            .next (setChan (landWith r (blankVal r) L false id (bump s)) b.chan { ch with claims := ch.claims ++ [q] })

/-- RECV: shapes 0 and 1, bound 3 (R284). -/
def execRecv (v : VR) (c : CR) (s : State) : Res :=
  needFiles s fun s => receiveOn [0, 1] c (.v v) [] .move 3 (fun _ => zeroVec) s

/-- RECVADD: shape 0, bound 6; v read at issue is its first operand (R284). -/
def execRecvadd (v : VR) (c : CR) (s : State) : Res :=
  needFiles s fun s => receiveOn [0] c (.v v) [.v v] .add 6 (fun s => rdV s v) s

/-- RECVMAX: shapes 0 and 1, bound 4 (R284). -/
def execRecvmax (v : VR) (c : CR) (s : State) : Res :=
  needFiles s fun s => receiveOn [0, 1] c (.v v) [.v v] .max 4 (fun s => rdV s v) s

/-- RECVS: shape 2, bound 3 (R284). -/
def execRecvs (x : SR) (c : CR) (s : State) : Res := receiveOn [2] c (.s x) [] .move 3 (fun _ => zeroVec) s

/-! ## State and closing (R287, R288) -/

/-- Elements that CHQ counts: a send counts two schedule cycles after its issue, and may count before (R105). -/
def chqCount (s : State) (b : ChanBind) (ch : Chan) : Nat :=
  let recent := if b.out then (b.sent.filter fun t => s.ctx.sc < t + 2).length else 0
  ch.unclaimed - (freeAt s (.s 0) b.num.val).toNat % (recent + 1)

/-- CHQ (R287). -/
def execChq (x : SR) (c : CR) (s : State) : Res :=
  match bindOf s.ctx c with
  | none => channelFault c s
  | some b =>
    match chanOf s b.chan with
    | none => channelFault c s
    | some ch =>
      guardRegs [] [.s x] s fun s =>
        let w := (if ch.closed then 2 ^ 63 else 0) + ch.dropped * 2 ^ 32 + chqCount s b ch % 128
        .next (land (.s x) (.word (BitVec.ofNat 64 w)) 2 s)

/-- CHCLOSE; a second one has no effect (R288). -/
def execChclose (c : CR) (s : State) : Res :=
  match bindOf s.ctx c with
  | none => channelFault c s
  | some b =>
    let s := { s with ctx := { s.ctx with closed := if s.ctx.closed.contains c then s.ctx.closed else s.ctx.closed ++ [c] } }
    .next (closeChan b.chan (!b.out) s)

/-! ## The channel's own steps (R32, R286, R291) -/

/-- CLAIM_FILL: an element of the channel ch of ctx reaches its end. elem: it comes from another device. On an outbound
channel to another device the peer claims, or first grants credit; good = false says that the peer has closed
(log 5). -/
def execClaimFill (s : State) : Res :=
  let i := s.input
  match bindOf (getCtx s i.ctx) i.ch with
  | none => .next s
  | some b =>
    match chanOf s b.chan with
    | none => .next s
    | some ch =>
      if !i.good then .next (closeChan b.chan b.out s)
      else if b.out && ch.dst.isNone then
        .next (setChan s b.chan (if ch.credit then { ch with q := ch.q.drop 1 } else { ch with credit := true }))
      else
        let ch := match i.elem with
          | none => ch
          | some e => if ch.closed then { ch with dropped := min 0xFFFF (ch.dropped + 1) } else { ch with q := ch.q ++ [(e, [])] }
        match ch.q, ch.claims with
        | e :: rest, q :: more => .next (fillClaim q e ch.src (setChan s b.chan { ch with q := rest, claims := more }))
        | _, _ => .next (setChan s b.chan ch)

/-- The limit in microseconds of a wait on a channel, 0 for none (R353), and its cause (R32, R291). -/
def waitLimit (s : State) (b : ChanBind) : Nat × BitVec 8 :=
  if b.col ∧ b.tmo ≠ 0 then (b.tmo, 0x12) else (s.dev.watchdog, 0x11)

/-- When a wait on a channel that began at cycle t reaches its limit, in units of real time. -/
def waitEnd (s : State) (b : ChanBind) (t : Nat) : Nat := realAt s t + (waitLimit s b).1 * usUnits

/-- The waits of a context that end with this cause, each with its end: claims that no element is at hand for, and the stalled send. -/
def limitedWaits (s : State) (c : CtxId) (code : BitVec 8) : List (Nat × ChanBind × Option Claim) :=
  let x := getCtx s c
  let wanted := x.chans.filter fun b => (waitLimit s b).2 = code && (waitLimit s b).1 ≠ 0
  (wanted.flatMap fun b =>
    match chanOf s b.chan with
    | some ch => ((ch.claims.drop ch.q.length).filter fun q => q.ctx = c).map fun q => (waitEnd s b q.since, b, some q)
    | none => []) ++
    match (if x.run = .stalled then sendStalled s x else none) with
    | some (n, t) => (wanted.filter fun b => b.num = n).map fun b => (waitEnd s b t, b, none)
    | none => []

/-- The one of them whose limit is reached first (R285, R286, R291). -/
def oldestWait (s : State) (c : CtxId) (code : BitVec 8) : Option (ChanBind × Option Claim) :=
  let first (m : Option (Nat × ChanBind × Option Claim)) (w : Nat × ChanBind × Option Claim) : Option (Nat × ChanBind × Option Claim) :=
    match m with
    | some v => if w.1 < v.1 then some w else m
    | none => some w
  ((limitedWaits s c code).foldl first none).map (·.2)

/-- A wait of the context exceeds its limit: a claim fails, a stalled send traps at its bundle (R32, R285, R286, R291). -/
def limitReached (code : BitVec 8) (s : State) : State :=
  let c := s.input.ctx
  match oldestWait s c code with
  | some (b, some q) =>
    let s := elapseTo q.since (waitLimit s b).1 s
    match chanOf s b.chan with
    | some ch => failClaim code q (setChan s b.chan { ch with claims := ch.claims.filter fun y => y.id ≠ q.id })
    | none => s
  | some (b, none) =>
    let x := getCtx s c
    let s := elapseTo ((x.sendWait.map (·.2)).getD s.now) (waitLimit s b).1 s
    takeTrap c x.pc (causeWord code false false false false (some 6)) (BitVec.ofNat 64 b.num.val)
      (modCtx s c fun x => { x with sendWait := none })
  | none => s

/-- CHANNEL_WATCHDOG (R32). -/
def execChannelWatchdog (s : State) : Res := .next (limitReached 0x11 s)

/-- COLLECTIVE_TIMEOUT (R291). -/
def execCollectiveTimeout (s : State) : Res := .next (limitReached 0x12 s)

end Sys2Proof.Machine
end

