-- ==== Sys2Proof/Machine/Issue.lean ====
section
/-! DEFINITION. Fetch lines (R92–R96, R154), sequential flow (R93, R94), the end of an iteration (R150), and what the issue
of a bundle does after its slots: the schedule count, landings and the quantum (R28, R51, R52). -/

namespace Sys2Proof.Machine

/-! ## Fetch lines -/

def lineAddr (a : Word) : Nat := a.toNat / 64 * 64

/-- The 64 bytes of a fetch line as memory and the bounce rings hold them; none on a fetch fault (R96, R415). A system core that has no page
table fetches from the boot ROM (log 3). -/
def readLine (c : CtxId) (line : Nat) (s : State) : State × Option (List Byte) :=
  let x := getCtx s c
  match c, x.ptbase with
  | .sys _ _, 0 => (s, some (s.rom.readBytes line 64))
  | _, _ =>
    if 2 ^ 56 ≤ line then (s, none)
    else
      let a := accOf s c
      match (if c.isSys then none else placedLine s a.task line) with
      | some bs => (s, some bs)
      | none =>
        match translate a .fetch line s with
        | (s, .ok key _) =>
          match placeOf s key with
          | .remote d => if reaches s d then (s, some (remoteBytes a line 64 s)) else (s, none)
          | .absent => (s, none)
          | p =>
            let bad := linePoisoned s a.task key
            let bs := bounced s a.task a.asid line key ((viewBytes s a.task none key 64).map fun b => (b, bad))
            if (bs.any (·.2)) || !homeOpen s c.stack p then (s, none) else (s, some (bs.map (·.1)))
        | (s, _) => (s, none)

/-- A line as the context's instruction buffer holds it, else as memory does (R154). -/
def heldLine (c : CtxId) (line : Nat) (s : State) : State × Option (List Byte) :=
  match Tbl.get? (getCtx s c).ibuf line with
  | some bs => (s, some bs)
  | none => readLine c line s

/-- The body ends at most 1,024 parcels after F, the bundle at E included (R154). -/
def fitsBuffer (s : State) (l : LoopLevel) : Bool :=
  let room := l.first.toNat + 4096
  if l.last.toNat + 44 ≤ room then true
  else if room ≤ l.last.toNat then false
  else match (heldLine s.who (lineAddr l.last) s).2 with
    | some bs =>
      match decodeHeader (natOf ((bs.drop (l.last.toNat % 64)).take 4)) with
      | some h => decide (l.last.toNat + 4 * bundleLen h.p ≤ room)
      | none => true
    | none => true

/-- A loop level whose body is replayed from the instruction buffer and covers a line (R154). The buffer holds whole lines, so the parcels before F
and after the bundle at E in the body's own lines are served from it too (DESIGN CHOICE: R154 speaks of the body only; log 94). -/
def buffered (s : State) (line : Nat) : Bool :=
  s.ctx.loops.any fun l => decide (l.first.toNat / 64 * 64 ≤ line) && decide (line ≤ l.last.toNat) && fitsBuffer s l

/-- The line that the context on the port fetches, through its instruction buffer (R154). -/
def fetchLine (line : Nat) (s : State) : State × Option (List Byte) :=
  match (if buffered s line then Tbl.get? s.ctx.ibuf line else none) with
  | some bs => (s, some bs)
  | none =>
    match readLine s.who line s with
    | (s, some bs) =>
      (if buffered s line then { s with ctx := { s.ctx with ibuf := Tbl.set s.ctx.ibuf line bs } } else s, some bs)
    | r => r

/-- Parcel j of a line. -/
def parcelOf (bs : List Byte) (j : Nat) : Nat := natOf ((bs.drop (4 * j)).take 4)

def parcelNo (a : Word) : Nat := a.toNat % 64 / 4

/-- The address after a bundle of len parcels at base: the next line when fill follows (R93, R94). -/
def seqNext (bs : List Byte) (base : Word) (len : Nat) : Word :=
  let a := base + BitVec.ofNat 64 (4 * len)
  if parcelNo base + len < 16 ∧ parcelOf bs (parcelNo base + len) = 0 then BitVec.ofNat 64 (lineAddr base + 64) else a

/-- The lowest line of lo or above, and below hi, that holds one of these addresses; hi when none does. -/
def laterLine (lo hi : Nat) (xs : List Nat) : Nat := xs.foldl (fun m x => if lo ≤ x / 64 * 64 ∧ x / 64 * 64 < m then x / 64 * 64 else m) hi

/-- Physical addresses at which what a line of the context holds can change: bytes and poison that memory, the context's version or
a bounce ring lists, ballooned pages, and the ends of the nominal and raw areas. -/
def keyMarks (s : State) : List Nat :=
  let t := taskOf s s.ctx.task
  s.mem.map (·.1) ++ s.poison.map (64 * ·) ++ (match t with | some t => t.version.map (·.1) ++ t.vpoison.map (64 * ·) | none => []) ++
    (List.finRange 8).flatMap fun n =>
      let st := stackOf s n
      (st.bounce.flatMap fun e => match e.pa with | some pa => [pa, pa + 64] | none => []) ++
        (st.dirs.filterMap fun d => if d.2.ballooned then some (pageKey n d.1) else none) ++
        [nomBase n.val + st.sump.nom * 4096, nomBase (n.val + 1), rawBase n.val + st.sump.rsv * 512, rawBase (n.val + 1)]

/-- Virtual addresses at which it can change: buffered lines, cached translations, bounced blocks, translated code. -/
def vaMarks (s : State) : List Nat :=
  s.ctx.ibuf.map (·.1) ++ (clusterOf s s.who.cluster).tlb.map (·.va) ++ (stackOf s s.who.stack).tlb.map (·.va) ++
    (s.dies.toList.flatMap fun st => st.bounce.flatMap fun e => [e.va, e.va + 64]) ++ s.images.map (·.codeBase)

/-- The next line past a line of fill that can be anything else; none where the boot ROM holds nothing more. -/
def nextLook (s : State) (line : Nat) : Option Nat :=
  match s.who, s.ctx.ptbase with
  | .sys _ _, 0 => (s.rom.find? fun e => decide (line + 64 ≤ e.1) && decide (e.1 % 64 < 4)).map fun e => e.1 / 64 * 64
  | _, _ =>
    let a := accOf s s.who
    match walkFrom s a.who.stack line 4 (bitsAt a.ptbase.toNat 12 44 * 4096), (translate a .fetch line s).2 with
    | .leaf level p _, .ok key _ =>
      let size := 2 ^ (12 + 9 * level)
      let plain := match placeOf s key with | .nominal _ _ | .raw _ _ => key == leafKey level p line | _ => false
      if plain then
        some (laterLine (line + 64) ((line / size + 1) * size)
          ((keyMarks s).filterMap (fun k => if key ≤ k then some (line + (k - key)) else none) ++ vaMarks s))
      else some (line + 64)
    | _, _ => some (line + 64)

/-- The first line from this one on that does not begin with fill (R93); none where all are fill. Fuel bounds the lines that are
looked at. -/
def pastFill (s : State) : Nat → Nat → Option Nat
  | 0, _ => none
  | fuel + 1, line =>
    match (fetchLine line s).2 with
    | some bs => if parcelOf bs 0 = 0 then (nextLook s line).bind (pastFill s fuel) else some line
    | none => some line

/-- Where sequential flow takes its next header (R93, R94): lines of fill are passed, however many. Where nothing but fill follows,
which R93 leaves open, the address stays at the first such line (DESIGN CHOICE; log 55). -/
def nextHeader (s : State) (a : Word) : Word :=
  if a.toNat % 64 = 0 then ((pastFill s (2 ^ 50) a.toNat).map (BitVec.ofNat 64)).getD a else a

/-- The parcel of the first fill of a line, parsed from parcel j (R90, R93); fuel bounds the bundles. -/
def fillFrom (bs : List Byte) : Nat → Nat → Option Nat
  | 0, _ => none
  | fuel + 1, j =>
    if 16 ≤ j then none
    else if parcelOf bs j = 0 then some j
    else match decodeHeader (parcelOf bs j) with
      | some h => fillFrom bs fuel (j + bundleLen h.p)
      | none => none

/-- "The sequential successor of the bundle at E" (R149). Where the line of E cannot be read flow goes on at E, whose fetch then
faults (DESIGN CHOICE: no rule says where it goes; log 74). -/
def successorAt (e : Word) (s : State) : State × Word :=
  match fetchLine (lineAddr e) s with
  | (s, none) => (s, e)
  | (s, some bs) =>
    match decodeHeader (parcelOf bs (parcelNo e)) with
    | some h => (s, nextHeader s (seqNext bs e (bundleLen h.p)))
    | none =>
      match fillFrom bs 16 0 with
      | some j => (s, if j ≤ parcelNo e then nextHeader s (BitVec.ofNat 64 (lineAddr e + 64)) else e)
      | none => (s, e)

/-- The parcel at E is no header: flow goes on as sequential flow, which R93 judges (R149). -/
def flowsAt (e : Word) (s : State) : Bool :=
  match (fetchLine (lineAddr e) s).2 with
  | some bs => (decodeHeader (parcelOf bs (parcelNo e))).isNone
  | none => false

/-- The end of the parcels that flow passes when it goes on after the bundle at E (R149, R151). -/
def leftAt (e : Word) (s : State) : Nat :=
  match (fetchLine (lineAddr e) s).2 with
  | none => e.toNat
  | some bs =>
    match decodeHeader (parcelOf bs (parcelNo e)) with
    | some h => (e + BitVec.ofNat 64 (4 * bundleLen h.p)).toNat
    | none => e.toNat

/-! ## The end of an iteration (R150) -/

/-- Lines that no active level buffers leave the instruction buffer (R154). -/
def trimBuffer (s : State) : State := { s with ctx := { s.ctx with ibuf := s.ctx.ibuf.filter fun e => buffered s e.1 } }

/-- End processing after the bundle at the innermost E, a level at a time; fuel bounds the levels. -/
def endLoop : Nat → State → State
  | 0, s => s
  | fuel + 1, s =>
    match s.ctx.loops.getLast? with
    | none => s
    | some l =>
      if l.index.ult (l.count - 1) then
        { s with ctx := { s.ctx with loops := s.ctx.loops.dropLast ++ [{ l with index := l.index + 1 }] }
                 frame := { s.frame with next := l.first, transfer := true } }
      else
        let (s, next) := successorAt l.last s
        let s := trimBuffer { s with ctx := { s.ctx with loops := s.ctx.loops.dropLast }
                                     frame := { s.frame with next := next, transfer := true } }
        match s.ctx.loops.getLast? with
        | some m => if m.last = l.last then endLoop fuel s else s
        | none => s

/-- The bundle's header is the E of the innermost active level. -/
def atLoopEnd (s : State) : Bool :=
  match s.ctx.loops.getLast? with
  | some l => l.last == s.frame.base
  | none => false

/-- R150 and R153: end processing unless a control transfer has been taken. atEnd is judged before the slots act. -/
def endIteration (atEnd : Bool) (s : State) : State := if atEnd && !s.frame.transfer then endLoop 6 s else s

/-- Another iteration than the header names (R89, R152). -/
def skips (h : Header) (s : State) : Bool :=
  match s.ctx.loops[h.l.val]? with
  | some l => (h.i == 1 && l.index != 0) || (h.i == 2 && l.index != l.count - 1)
  | none => false

/-! ## After the slots -/

/-- Flow passes a fill parcel that holds the innermost E (R151). -/
def passesFillEnd (s : State) : Bool :=
  match s.ctx.loops.getLast? with
  | some l =>
    let after := s.frame.left
    !s.frame.transfer && decide (s.frame.next.toNat ≠ after) && decide (after ≤ l.last.toNat) &&
      decide (l.last.toNat < s.frame.next.toNat)
  | none => false

/-- The context goes on at frame.next; a transfer's target is judged by R95 against this bundle. -/
def moveOn (s : State) : State :=
  { s with ctx := { s.ctx with
      pc := s.frame.next
      cameFrom := if s.frame.transfer && !s.frame.flow then some s.frame.base else none
      fillFrom := passesFillEnd s
      resume := false } }

/-- The schedule count advances by 1 + G and results land (R51, R52); the core counts toward Q (R393). -/
def advance (s : State) : State :=
  let x := { s.ctx with sc := s.ctx.sc + 1 + s.frame.gap, run := if s.ctx.run = .stalled then .running else s.ctx.run }
  let s := { s with ctx := settle s x }
  modCore s s.who.coreNo fun c => { c with quantum := c.quantum + 1 }

/-- The single step that follows a bundle (R464). -/
def stepFault (s : State) : State :=
  match s.who with
  | .user k x =>
    if getBit s.dev.debug 2 && (coreOf s k.val).stepMask.getLsbD x.val then
      addLate s s.who ⟨.step, 0x1B, s.frame.base, 0, none⟩
    else s
  | _ => s

/-- The bundle has pushed a level whose body the instruction buffer holds: its lines are taken now, and a later write to
them acts once the level is popped (R154). -/
def captureBody (s : State) : State :=
  match s.ctx.loops.getLast? with
  | some l =>
    if l.index = 0 && l.first == s.frame.next && !s.frame.transfer && fitsBuffer s l then
      let lines := (List.range ((l.last.toNat - lineAddr l.first) / 64 + 1)).map fun i => lineAddr l.first + 64 * i
      let keep (t : Tbl (List Byte)) (line : Nat) : Tbl (List Byte) :=
        match (fetchLine line s).2 with
        | some bs => Tbl.set t line bs
        | none => t
      { s with ctx := { s.ctx with ibuf := lines.foldl keep s.ctx.ibuf } }
    else s
  | none => s

/-- A bundle has issued: its count, its landings, its end of iteration, and where the context goes on. -/
def finishBundle (atEnd : Bool) (s : State) : State :=
  stepFault (moveOn (endIteration atEnd (captureBody (advance s))))

end Sys2Proof.Machine
end

