-- ==== Sys2Proof/Machine/Control.lean ====
section
/-! DEFINITION. The CT slot's user instructions: branch trees, jumps, Slalom loops, fmt, waits, barriers, traps, EXIT and
the seed stack (R141–R168), with the end of a context (R31, R161, R166, R288, R360). -/

namespace Sys2Proof.Machine

/-! ## Transfers -/

/-- The bundle's next is a target, which R95 judges (R142). -/
def transferTo (target : Word) (s : State) : State := { s with frame := { s.frame with next := target, transfer := true } }

/-- The leaf that a branch tree chooses, 4 when none of its tests holds (R144); read as slot 7 reads. -/
def leafOf (s : State) (ts : List BTest) : Nat :=
  let s := { s with frame := { s.frame with slot := 7 } }
  (ts.findIdx? fun t => t.v && (rdP s t.p != t.n)).getD 4

/-- BTREE reads its predicates and leaf registers at issue (R144, R145). -/
def execBtree (t0 t1 t2 t3 : BTest) (s : State) : Res :=
  let ts := [t0, t1, t2, t3]
  guardRegs ((ts.filter (·.v)).flatMap fun t => [.p t.p, .b t.leaf]) [] s fun s =>
    match ts[leafOf s ts]? with
    | some t => .next (transferTo (rdB s t.leaf) s)
    | none => .next s

/-- The target of JMP and CALL (R146). -/
def jumpTarget (s : State) (off : BitVec 26) : Word := s.frame.base + off.signExtend 64 * 4

/-- JMP (R146). -/
def execJmp (off : BitVec 26) (s : State) : Res := .next (transferTo (jumpTarget s off) s)

/-- CALL writes the return address to b7 (R146). -/
def execCall (off : BitVec 26) (s : State) : Res :=
  guardRegs [] [.b 7] s fun s => .next (transferTo (jumpTarget s off) (land (.b 7) (.word s.frame.next) 1 s))

/-- JMPB (R147). -/
def execJmpb (b : BR) (s : State) : Res := guardRegs [.b b] [] s fun s => .next (transferTo (rdB s b) s)

/-- RETB (R147). -/
def execRetb (b : BR) (s : State) : Res := guardRegs [.b b] [] s fun s => .next (transferTo (rdB s b) s)

/-! ## Slalom loops (R149, R153, R155) -/

/-- LOOP: depth 6, or the end bundle of the innermost level, is an illegal bundle (R149, R153). -/
def execLoop (x : SR) (endOff : BitVec 19) (s : State) : Res :=
  if 6 ≤ s.ctx.loops.length ∨ atLoopEnd s then illegalSeq s.frame.parcel s
  else
    guardRegs [.s x] [] s fun s =>
      let count := rdS s x
      let e := s.frame.base + endOff.zeroExtend 64 * 4
      if count = 0 then
        let left := leftAt e s
        let (s, next) := successorAt e s
        .next { s with frame := { s.frame with next := next, left := left } }
      else .next { s with ctx := { s.ctx with loops := s.ctx.loops ++ [⟨0, count, s.frame.next, e⟩] } }

/-- LBRK: levels 6 and 7 are reserved, an inactive level is an illegal bundle (R155). -/
def execLbrk (level : Fin 8) (n : Bool) (p : PR) (s : State) : Res :=
  if 6 ≤ level.val then reserved s
  else
    match s.ctx.loops[level.val]? with
    | none => illegalSeq s.frame.parcel s
    | some l =>
      guardRegs [.p p] [] s fun s =>
        if rdP s p != n then
          let flow := flowsAt l.last s
          let (s, next) := successorAt l.last s
          let s := { s with frame := { s.frame with flow := flow } }
          .next (transferTo next (trimBuffer { s with ctx := { s.ctx with loops := s.ctx.loops.take level.val } }))
        else .next s

/-! ## The matrix format (R74, R157, R158) -/

/-- The fmt in force for an operation that issues now: an FMTW acts after four schedule cycles (R158). -/
def fmtNow (x : Ctx) : BitVec 32 :=
  ((x.fmtNew.filter fun e => decide (e.1 ≤ x.sc)).getLast?.map (·.2)).getD x.fmtOld

/-- A value that FMTW may write (R74); SCL = 1 belongs to feature 3 (R364). Type codes 14 and 15 of AT and BT are written;
the MMA that uses them raises (DESIGN CHOICE between R65 and R74, R157; log 57). -/
def fmtLegal (s : State) (v : BitVec 32) : Bool :=
  v.toNat < 2 ^ 14 && decide (bitsAt v.toNat 12 2 < 2) && decide (bitsAt v.toNat 8 4 < 5) &&
    (bitsAt v.toNat 12 2 == 0 || accepted s 3)

/-- FMTW (R157); a core of the system profile has no fmt (R352; log 16). -/
def execFmtw (x : SR) (s : State) : Res :=
  if s.who.isSys then reserved s
  else
    guardRegs [.s x] [] s fun s =>
      let v := (rdS s x).truncate 32
      if fmtLegal s v then
        .next { s with ctx := { s.ctx with fmtOld := fmtNow s.ctx
                                           fmtNew := s.ctx.fmtNew.filter (fun e => s.ctx.sc < e.1) ++ [(s.ctx.sc + 4, v)] } }
      else reserved s

/-! ## Tokens (R159, R263–R266, R313) -/

/-- Where the clock of a token's last operation stands in the release list. -/
def tokenKey (c : CtxId) (k : Nat) : Nat := 2 ^ 70 + c.num * 32 + k

/-- Where the clocks of a completion word's arrivals stand. -/
def arrivalKey (key : Nat) : Nat := 2 ^ 80 + key

def noteClock (key : Nat) (who : CtxId) (k : List (Nat × Nat)) (s : State) : State :=
  { s with releases := s.releases.filter (fun r => r.word ≠ key) ++ [⟨key, 0, who.num, 0, k⟩] }

def clockAt (s : State) (key : Nat) : Option (List (Nat × Nat)) := (s.releases.find? fun r => r.word = key).map (·.clock)

/-- An observation of an engine operation's completion: an acquire at DIE scope (R295 item 5, R313). -/
def observeKey (key : Nat) (s : State) : State :=
  match clockAt s key with
  | some k => l1gDropAll { s with ctx := { s.ctx with clock := clockJoin s.ctx.clock k } } s.who.cluster
  | none => s

/-- The consumed tokens below nc. -/
def consumed (t : Tokens) : List KR := [t.c0, t.c1, t.c2].take t.nc.val

/-- The token fault of R266. -/
def tokenFault (t : Tokens) : Bool := !(consumed t).Nodup || (t.pv && (consumed t).contains t.prod)

/-- A token that the bundle finds pending at its issue. -/
def pendingTok (s : State) (k : KR) : Bool := awaits s (s.ctx.k[k.val]).isSome

/-- WAITK (R159, R266). -/
def execWaitk (tok : Tokens) (s : State) : Res :=
  if s.who.isSys ∧ consumed tok ≠ [] then reserved s
  else if tokenFault tok then trapAt 9 0x10 s.frame.parcel s
  else if (consumed tok).any (pendingTok s) then stall s
  else .next ((consumed tok).foldl (fun s k =>
    observeWindows (fun w => 32 ≤ w.what && w.tok == some k) (observeKey (tokenKey s.who k.val) s)) s)

/-! ## Barriers (R160–R162) -/

def barrierOf (s : State) (task id : Nat) : Option Barrier := (taskOf s task).bind fun t => t.barriers.find? fun b => b.id = id

def modBarrier (task id : Nat) (f : Barrier → Barrier) (s : State) : State :=
  modTask s task fun t => { t with barriers := t.barriers.map fun b => if b.id = id then f b else b }

/-- The phase completes when every participant has arrived or ended (R161). -/
def Barrier.settle (b : Barrier) : Barrier :=
  if b.count ≤ b.arrived + b.gone then
    { b with phase := b.phase + 1, arrived := 0, gone := b.gone + b.later, later := 0, clock := [], done := b.done ++ [(b.phase, b.clock)] }
  else b

/-- An arrival counts, with what it releases (R161, R162). -/
def countArrival (task id : Nat) (k : List (Nat × Nat)) (s : State) : State :=
  modBarrier task id (fun b => Barrier.settle { b with arrived := b.arrived + 1, clock := clockJoin b.clock k }) s

/-- The issuing context's arrival is outstanding at the present phase. -/
def recordArrival (b : Barrier) (x : Ctx) (c : CtxId) : Ctx := clockTick { x with bara := x.bara ++ [(b.id, b.phase)] } c

/-- An arrival of the issuing context, recorded as outstanding; a release (R161, R162). -/
def arriveAt (b : Barrier) (s : State) : State :=
  let s' := countArrival s.ctx.task b.id s.ctx.clock s
  { s' with ctx := recordArrival b s'.ctx s.who }

/-- A BARA issues at once; while its release is not done, the arrival waits for it before it counts (R161, R162). -/
def arriveLater (b : Barrier) (s : State) : State :=
  { s with ctx := { recordArrival b s.ctx s.who with arriving := s.ctx.arriving ++ [(b.id, s.ctx.clock)] } }

/-- The phase that the context awaits has completed. -/
def phaseDone (s : State) (id phase : Nat) : Bool :=
  match barrierOf s s.ctx.task id with
  | some b => decide (phase < b.phase)
  | none => true

/-- The end of a wait: an acquire at the barrier's scope; the outstanding record clears (R161, R162). -/
def endWait (b : Barrier) (phase : Nat) (s : State) : State :=
  let k := match barrierOf s s.ctx.task b.id with
    | some b => ((b.done.find? fun e => e.1 = phase).map (·.2)).getD []
    | none => []
  acquireAt s.who b.scope { s with ctx := { s.ctx with clock := clockJoin s.ctx.clock k, bara := s.ctx.bara.filter fun e => e.1 ≠ b.id } }

/-- What an arrival waits for: the commit buffer at any scope (R162, R248 rule 6). -/
def arrivalReady (s : State) (b : Barrier) : Bool := releaseReady s s.who (max 2 b.scope)

def outstanding (s : State) (id : Nat) : Option Nat := (s.ctx.bara.find? fun e => e.1 = id).map (·.2)

/-- BAR (R160, R161). -/
def execBar (id : Fin 64) (s : State) : Res :=
  match barrierOf s s.ctx.task id.val with
  | none => protection s
  | some b =>
    match outstanding s id.val with
    | some p => if phaseDone s id.val p then .next (endWait b p s) else stall s
    | none =>
      if !arrivalReady s b then stall s
      else
        let t := arriveAt b s
        if phaseDone t id.val b.phase then .next (endWait b b.phase t) else stall t

/-- BARA (R160, R161). -/
def execBara (id : Fin 64) (s : State) : Res :=
  let arrive (b : Barrier) (s : State) : Res := .next (if arrivalReady s b then arriveAt b s else arriveLater b s)
  match barrierOf s s.ctx.task id.val with
  | none => protection s
  | some b =>
    match outstanding s id.val with
    | some p =>
      if phaseDone s id.val p then
        let s := endWait b p s
        arrive ((barrierOf s s.ctx.task id.val).getD b) s
      else stall s
    | none => arrive b s

/-- The arrivals of a context whose release is done count (R162). -/
def settleArrivals (c : CtxId) (s : State) : State :=
  (getCtx s c).arriving.foldl (fun s e =>
    let x := getCtx s c
    match barrierOf s x.task e.1 with
    | some b =>
      if releaseReady s c (max 2 b.scope) then
        modCtx (countArrival x.task e.1 e.2 s) c fun x => { x with arriving := x.arriving.filter fun a => a.1 ≠ e.1 }
      else s
    | none => s) s

/-! ## CBWAIT (R163) -/

/-- The context has an atomic of its own that is not yet performed (R297). -/
def atomicsPending (s : State) : Bool :=
  let c := coreOf s s.who.coreNo
  c.waits.any (fun w => w.ctx == s.who && (match w.kind with | .atom true _ _ _ _ _ _ => true | .remote _ _ _ _ _ bs => bs.isEmpty | _ => false)) ||
    c.sidelog.any fun e => e.ctx == s.who && e.op != .store

/-- A CBWAIT whose word cannot be translated asks for service, once until it can be translated or the cause is another, and stalls. -/
def askService (code : BitVec 8) (va : Nat) (s : State) : Res :=
  if s.who.isSys then sysFault code va s
  else if s.ctx.asked = some (va, code) then stall s
  else stall (report s.who code va s.frame.base { s with ctx := { s.ctx with asked := some (va, code) } })

/-- CBWAIT reads the word at its home, outside every version, as the bounce rings leave it (R163, R268, R415); over a closed route, or
from a device that is not reached, it reads poisoned data (R447, R472). -/
def execCbwait (d : SR) (a : AR) (x : SR) (s : State) : Res :=
  guardRegs [.a a, .s x] [.s d] s fun s =>
    let addr := ea s a 0
    match globalCheck 8 [addr] with
    | some (c, v) => trapAt 12 c v s
    | none =>
      if acquirePending s || awaits s (atomicsPending s) then stall s
      else
        let go (s : State) (w : Nat) (key : Nat) : Res :=
          if (rdS s x).toNat % 2 ^ 31 ≤ w % 2 ^ 31 ∨ 2 ^ 31 ≤ w then
            .next (land (.s d) (.word (BitVec.ofNat 64 w)) 4
              (observeWindows (fun w => w.key == some key)
                (observeKey (arrivalKey key) s)))
          else stall s
        match translate (accOf s s.who) .read addr.toNat s with
        | (s, .unmapped) => askService 0x0A addr.toNat s
        | (s, .ballooned) => askService 0x20 addr.toNat s
        | (s, .prot) => trapAt 15 0x0C addr s
        | (s, .poison) => trapAt 15 0x0D addr s
        | (s, .ok key _) =>
          let s := { s with ctx := { s.ctx with asked := none } }
          let lost (s : State) : Res := trapAt 15 0x0D addr (poisonRecord s.who s.frame.base key 5 2 s)
          match placeOf s key with
          | .remote dev => if reaches s dev then go s ((Config.free s.tick (2 ^ 41)).toNat % 2 ^ 32) key else lost s
          | _ =>
            match homeLook (accOf s s.who) addr.toNat key 4 s with
            | .ok w => go s w key
            | .error c => if c = 0x0C then lost s else trapAt 15 0x0D addr s

/-! ## Features and traps (R164, R165) -/

/-- FEAT (R164). -/
def execFeat (d : SR) (word : Fin 4) (s : State) : Res :=
  guardRegs [] [.s d] s fun s => .next (land (.s d) (.word s.dev.featAck[word.val]) 1 s)

/-- TRAP and SYSC: the bundle has issued and ends; SYS_EPC is its sequential successor (R165). Its trap replaces the single step
(R464). -/
def enterSupervisor (code : BitVec 8) (imm : BitVec 16) (s : State) : State :=
  let next := s.frame.next
  let t := finishBundle (atLoopEnd s) s
  let t := { t with ctx := { t.ctx with late := t.ctx.late.filter fun f => f.kind ≠ .step } }
  let t := takeTrap s.who next (causeWord code false false false false (some s.frame.slot)) (imm.zeroExtend 64) t
  { t with frame := { t.frame with out := .done } }

/-- TRAP (R165). -/
def execTrap (imm : BitVec 16) (s : State) : Res := .next (enterSupervisor 0x1E imm s)

/-- SYSC (R165). -/
def execSysc (imm : BitVec 16) (s : State) : Res := .next (enterSupervisor 0x1D imm s)

/-! ## The end of a context (R31, R161, R166, R197, R288) -/

/-- A context that has ended counts as arrived, at this phase and at every later one (R31, R161). -/
def leaveBarriers (c : CtxId) (s : State) : State :=
  let x := getCtx s c
  let leave (b : Barrier) : Barrier :=
    let pending := x.arriving.find? fun e => e.1 = b.id
    Barrier.settle
      (if x.bara.contains (b.id, b.phase) && pending.isNone then { b with later := b.later + 1 }
       else { b with gone := b.gone + 1, clock := clockJoin b.clock ((pending.map (·.2)).getD []) })
  modTask s x.task fun t => { t with barriers := t.barriers.map leave }

/-- Every set read-write region is written back and dropped, once the accesses that wait for its fills have been made (R194,
R197). -/
def dropRegions (c : CtxId) (s : State) : State := if fillAwaited s c then s else leaveRegions true c s

/-- The last retirement of a rank so far (R391). -/
def noteEnd (c : CtxId) (s : State) : State :=
  let x := getCtx s c
  modTask s x.task fun t => { t with times := t.times.map fun e => if e.1 = x.ident.rank then (e.1, e.2.1, s.now) else e }

/-- The faults of a context that are found in its last bundle start at cluster-program level once it has retired (R250,
R286, R433, R483). The bad image of an LDWT in EXIT's own bundle, which cannot wait for its own load, is dropped without a trap or a record
(DESIGN CHOICE: R236 speaks of an EXIT that the context reaches after the LDWT; log 100). -/
def postLate (c : CtxId) (bundle : Word) (s : State) : State :=
  (getCtx s c).late.foldl (fun s f =>
    match f.kind with
    | .engine | .access | .claim | .collective | .threshold => postCtx s c (f.epc.getD bundle) 3 f.cause 2
    | .image | .step => s) s

/-- A context stops for good: retired (kind 5) or ended (kind 4) (R166, R360). -/
def endContext (c : CtxId) (run : RunState) (kind : Nat) (lo : Word) (s : State) : State :=
  let s := modCtx (leaveBarriers c s) c fun x => { x with run := run }
  let s := closeAll c (if run = .retired then postLate c lo s else s)
  let s := if run = .retired then dropRegions c s else s
  let s := modCtx s c fun x => { x with run := run, loops := [], late := [], bara := [], arriving := [], preemptAt := none, sendWait := none }
  let s := if run = .retired then noteEnd c s else s
  if c.isSys then s else postCtx s c lo kind 0 0

/-- EXIT retires the context after the other slots of its bundle (R166). -/
def execExit (s : State) : Res :=
  let t := endContext s.who .retired 5 s.frame.base (finishBundle (atLoopEnd s) s)
  .next { t with frame := { t.frame with out := .done } }

/-- YIELD acts on the selector at the next bundle boundary (R167). -/
def execYield (s : State) : Res := .next { s with frame := { s.frame with yields := true } }

/-! ## The seed stack (R168) -/

def pushSeed (v : Word) (s : State) : State :=
  { s with ctx := { s.ctx with seeds := s.ctx.seeds.set (s.ctx.depth % 8) v (Nat.mod_lt _ (by decide)), depth := s.ctx.depth + 1 } }

/-- SEEDP; a push at depth 8 is protection (R168). -/
def execSeedp (x : SR) (s : State) : Res :=
  if 8 ≤ s.ctx.depth then protection s else guardRegs [.s x] [] s fun s => .next (pushSeed (rdS s x) s)

/-- SEEDO; a pop at depth 1 is protection (R168). -/
def execSeedo (s : State) : Res :=
  if s.ctx.depth ≤ 1 then protection s else .next { s with ctx := { s.ctx with depth := s.ctx.depth - 1 } }

/-- SEEDF pushes a forked seed (R83, R168). -/
def execSeedf (imm : BitVec 16) (s : State) : Res :=
  if 8 ≤ s.ctx.depth then protection s else .next (pushSeed (forkSeed (seedTop s.ctx) (imm.zeroExtend 64)) s)

/-- SEEDR (R168). -/
def execSeedr (d : SR) (s : State) : Res :=
  guardRegs [] [.s d] s fun s => .next (land (.s d) (.word (seedTop s.ctx)) 1 s)

end Sys2Proof.Machine
end

