-- ==== Sys2Proof/Machine/Engine.lean ====
section
/-! DEFINITION. What matrix, copy and gather operations share: tile windows (R43), tokens and captures (R263–R266), the
end of an operation, engine faults (R250) and the records of disagreements (R438, R442). -/

namespace Sys2Proof.Machine

/-! ## Issue checks -/

/-- The physical tile of a name, or protection (R43). -/
def needTile (t : TR) (s : State) (k : Nat → Res) : Res :=
  if t.val < s.ctx.tcount then k (s.ctx.tbase + t.val) else protection s

/-- The token fault of an engine instruction (R266). -/
def needTokens (tok : Tokens) (s : State) (k : Res) : Res := if tokenFault tok then trapAt 9 0x10 s.frame.parcel s else k

/-- The produced token is still pending (R263). -/
def tokenBusy (tok : Tokens) (s : State) : Bool := tok.pv && pendingTok s tok.prod

/-- What an operation of the context still waits for. -/
def depsOf (s : State) (id : Nat) : List Nat :=
  let u := coreOf s s.who.coreNo
  let c := clusterOf s s.who.cluster
  (u.queue.filter (·.id = id)).flatMap (·.deps) ++ (u.stores.filter (·.id = id)).flatMap (·.deps) ++
    ((c.copies ++ c.gathers).filter (·.id = id)).flatMap (·.deps)

/-- The operations that hold the consumed tokens (R264), with what those wait for. -/
def captures (tok : Tokens) (s : State) : List Nat :=
  (consumed tok).flatMap fun k => match s.ctx.k[k.val] with
    | some id => id :: depsOf s id
    | none => []

/-- The produced token becomes pending (R263). -/
def produceTok (tok : Tokens) (id : Nat) (s : State) : State :=
  if tok.pv then { s with ctx := { s.ctx with k := s.ctx.k.set tok.prod.val (some id) } } else s

def tokOf (tok : Tokens) : Option KR := if tok.pv then some tok.prod else none

/-- The agent number of an engine operation in happens-before. -/
def engineAgent (id : Nat) : Nat := 100000 + id

/-- What an operation has observed at its issue (R295). -/
def opClock (id : Nat) (s : State) : List (Nat × Nat) := Tbl.set s.ctx.clock (engineAgent id) 1

/-! ## Ends -/

/-- An engine fault is taken before the next bundle of its context; a retired context's starts at cluster-program level;
an ended one's is dropped (R250). -/
def engineFault (c : CtxId) (cause : BitVec 8) (bundle : Word) (s : State) : State :=
  match (getCtx s c).run with
  | .retired => postCtx s c bundle 3 cause 2
  | .ended | .halted | .free => s
  | _ => addLate s c ⟨.engine, cause, bundle, 0, none⟩

/-- The produced token clears; its next observers observe the operation (R263, R313). -/
def clearTok (c : CtxId) (tok : Option KR) (id : Nat) (clock : List (Nat × Nat)) (s : State) : State :=
  match tok with
  | none => s
  | some k =>
    if (getCtx s c).k[k.val] = some id then
      modCtx (noteClock (tokenKey c k.val) c clock s) c fun x => { x with k := x.k.set k.val none }
    else s

/-- What the end of a captured operation does to an operation that waits for it. -/
def released {α : Type} (id : Nat) (err : Option (BitVec 8)) (clock : List (Nat × Nat))
    (deps : α → List Nat) (put : α → List Nat → Option (BitVec 8) → List (Nat × Nat) → α) (error : α → Option (BitVec 8))
    (clk : α → List (Nat × Nat)) (o : α) : α :=
  if (deps o).contains id then
    put o ((deps o).filter (· ≠ id)) ((error o).orElse fun _ => err) (clockJoin (clk o) clock)
  else o

def releasedMat (id : Nat) (err : Option (BitVec 8)) (clock : List (Nat × Nat)) : MatOp → MatOp :=
  released id err clock (·.deps) (fun o d e k => { o with deps := d, error := e, clock := k }) (·.error) (·.clock)

def releasedStore (id : Nat) (err : Option (BitVec 8)) (clock : List (Nat × Nat)) : TileStore → TileStore :=
  released id err clock (·.deps) (fun o d e k => { o with deps := d, error := e, clock := k }) (·.error) (·.clock)

def releasedCopy (id : Nat) (err : Option (BitVec 8)) (clock : List (Nat × Nat)) : CopyOp → CopyOp :=
  released id err clock (·.deps) (fun o d e k => { o with deps := d, error := e, clock := k }) (·.error) (·.clock)

/-- The end of an operation of context c: its captors go on, with its error (R264). -/
def endOp (c : CtxId) (id : Nat) (err : Option (BitVec 8)) (clock : List (Nat × Nat)) (s : State) : State :=
  let s := modCore s c.coreNo fun u =>
    { u with queue := u.queue.map (releasedMat id err clock), stores := u.stores.map (releasedStore id err clock) }
  modCluster s c.cluster fun u =>
    { u with copies := u.copies.map (releasedCopy id err clock), gathers := u.gathers.map (releasedCopy id err clock) }

/-! ## Tiles -/

def tileOf (s : State) (core p : Nat) : Tile := (coreOf s core).tiles.toList.getD (p % 16) Tile.zero

/-- A tile is busy: an operation into it has not completed, a TST has not read it, or a copy writes it (R243, R280). -/
def tileBusy (s : State) (core p : Nat) : Bool :=
  let c := coreOf s core
  c.queue.any (fun o => o.tile == p) || c.stores.any (fun t => t.tile == p && decide (t.groups < 8)) || !(tileOf s core p).engine.isEmpty

def flagsOf (t : Tile) : BitVec 4 :=
  (if t.ovf then 1 else 0) ||| (if t.sat then 2 else 0) ||| (if t.nan then 4 else 0) ||| (if t.inv then 8 else 0)

def withFlags (t : Tile) (f : BitVec 4) : Tile :=
  { t with ovf := f.getLsbD 0, sat := f.getLsbD 1, nan := f.getLsbD 2, inv := f.getLsbD 3 }

/-! ## Register windows (R274) -/

/-- A decoded register-window address: core, context, what (v register or 32 + tile), first byte. -/
structure WinAddr where
  core : Nat
  ctx : Nat
  what : Nat
  off : Nat
deriving DecidableEq, Repr

/-- Bytes of one window object. -/
def winSize (what : Nat) : Nat := if what < 32 then 256 else 16384

/-- The layout of R274, apart from the range and the mask. -/
def winAddr (a : Nat) : Option WinAddr :=
  if bitsAt a 40 24 ≠ 0 ∨ 96 ≤ bitsAt a 33 7 then none
  else
    let core := 4 * bitsAt a 33 7 + bitsAt a 31 2
    if bitsAt a 27 2 = 0 ∧ bitsAt a 18 9 = 0 then some ⟨core, bitsAt a 29 2, 32 + bitsAt a 14 4, bitsAt a 0 14⟩
    else if bitsAt a 27 2 = 1 ∧ bitsAt a 13 14 = 0 then some ⟨core, bitsAt a 29 2, bitsAt a 8 5, bitsAt a 0 8⟩
    else none

/-- The cluster where the task's program of logical cluster g stands now (R398). -/
def placeOfCluster (t : Task) (g : Nat) : Nat := (Tbl.get? t.moved g).getD g

/-- The window that an address reaches for a task, on the cluster where its program stands now (R274, R398). -/
def winOf (s : State) (task a : Nat) : Option WinAddr :=
  (winAddr a).map fun w => match taskOf s task with
    | some t => { w with core := 4 * placeOfCluster t (w.core / 4) + w.core % 4 }
    | none => w

/-- A window address and range that the issuing task may name (R274). -/
def winLegal (s : State) (a n : Nat) : Bool :=
  match winAddr a with
  | some w => s.ctx.ident.dmask.testBit (w.core / 4) && decide (w.off + n ≤ winSize w.what)
  | none => false

def winCtx (w : WinAddr) : CtxId := .user (Fin.ofNat 384 w.core) (Fin.ofNat 4 w.ctx)

/-- Physical tile of a window address. -/
def winTile (s : State) (w : WinAddr) : Nat := (getCtx s (winCtx w)).tbase + (w.what - 32)

/-- What a window names on its core: a v register of a context, or a physical tile. -/
def winName (s : State) (w : WinAddr) : Nat := if w.what < 32 then 32 * w.ctx + w.what else 1000 + winTile s w

/-- The parts of a copy's destination that a write of n bytes from byte lo of an object of a core disturbs (R267). sources:
the copies whose sources it disturbs as well. -/
def meetsWindow (s : State) (core name lo n : Nat) (sources : CopyOp → Bool) (o : CopyOp) : List (Nat × Nat) :=
  let part (sp a : Nat) : List (Nat × Nat) :=
    match (if sp = 1 then winOf s o.task a else none) with
    | some w => if w.core = core ∧ winName s w = name then (meetRange w.off o.n lo n).toList else []
    | none => []
  part o.dsp o.dst ++ if sources o then part o.ssp o.src else []

/-- A write into a register or a tile meets the copies in flight of every cluster (R267). -/
def meetWindow (core name lo n : Nat) (sources : CopyOp → Bool) (writer : Option Nat) (s : State) : State :=
  if s.clusters.all fun e => e.2.copies.isEmpty then s
  else s.clusters.foldl (fun s e => spoilCopies e.1 (meetsWindow s core name lo n sources) writer s) s

/-- A slot writes bytes of a physical tile. -/
def meetTile (core p lo n : Nat) (s : State) : State := meetWindow core (1000 + p) lo n (fun _ => true) none s

/-- The bundle of schedule cycle sc of context c has written v registers. -/
def meetRegs (c : CtxId) (sc : Nat) (s : State) : State :=
  if s.clusters.all fun e => e.2.copies.isEmpty then s
  else (getCtx s c).lands.foldl (fun s l => match l.reg with
    | .v r => if l.issued = sc then meetWindow c.coreNo (32 * (c.num % 4) + r.val) 0 256 (fun _ => true) none s else s
    | _ => s) s

/-! ## Signatures (R84) and disagreement records (R438, R442) -/

/-- The signature of a row group of a tile's words. -/
def groupSig (rows : Vector Vec 64) (g : Nat) : Word :=
  foldWords 0 ((List.range 8).flatMap fun r => (rows.toList.getD (8 * g + r) zeroVec).toList)

/-- The tile signature from its eight row-group signatures. -/
def tileSig (sigs : List Word) : Word :=
  foldWords 0 (sigs.flatMap fun x => [x.extractLsb' 0 32, x.extractLsb' 32 32])

/-- The slab that computes a row group of a logical core (R438). -/
def slabOf (s : State) (core g : Nat) : Option (Fin 8 × Nat × Nat) :=
  let n : Fin 8 := Fin.ofNat 8 (core / 48)
  (Tbl.get? (stackOf s n).binds (core % 48)).map fun b => (n, if g < 4 then b.slab0 else b.slab1, b.fe)

/-- A verdict of Lantern: the count of the named engine's slab and the record. named: R437; op: 0 MMA, 1 TLD, 2 TST. -/
def disagreement (c : CtxId) (bundle : Word) (tile g named op : Nat) (sigP sigS : Word) (s : State) : State :=
  let (n, slab, fe) := (slabOf s c.coreNo g).getD (0, 0, 0)
  let count := (Tbl.get? (stackOf s n).slabCount slab).getD 0
  let count := if named < 2 then min 0xFFFF (count + 1) else count
  let s := modStack s n fun st => { st with slabCount := if named < 2 then Tbl.set st.slabCount slab count else st.slabCount }
  logEntry 1 1 (some c) (getCtx s c).task
    (bytesOf 8 bundle.toNat ++ bytesOf 1 tile ++ bytesOf 1 g ++ bytesOf 1 named ++ bytesOf 1 op ++ bytesOf 2 slab ++
      bytesOf 2 count ++ bytesOf 1 fe ++ bytesOf 7 0 ++ bytesOf 8 sigP.toNat ++ bytesOf 8 sigS.toNat) s

/-- What the signature that differs is. -/
def otherSig (s : State) (k : Nat) : Word := Config.free s.tick (2 ^ 51 + k)

end Sys2Proof.Machine
end

