-- ==== Sys2Proof/Machine/Matrix.lean ====
section
/-! DEFINITION. Matrix operations: MMA, TLD and TST with their arithmetic (R75–R79, R238–R257), TZERO, TRD, TWR, TSTAT
and TSIG (R254–R259), and the engines' own steps up to Lantern's verdict (R244–R248). -/

namespace Sys2Proof.Machine

/-! ## The arithmetic of an MMA (R75–R79) -/

/-- K of a combination, none when R75 has no such row. -/
def fmtK (fmt : BitVec 32) : Option Nat :=
  let a := bitsAt fmt.toNat 0 4
  let b := bitsAt fmt.toNat 4 4
  let acc := bitsAt fmt.toNat 8 4
  let scl := bitsAt fmt.toNat 12 2
  let fl := acc == 0 || acc == 1 || acc == 3 || acc == 4
  if (a = 9 ∨ a = 10) ∧ (b = 9 ∨ b = 10) then (if fl && decide (scl ≤ 1) then some 64 else none)
  else if a = 11 ∧ b = 11 then (if fl && decide (scl ≤ 1) then some 128 else none)
  else if (a = 6 ∧ b = 6) ∨ (a = 7 ∧ b = 7) then (if fl && scl == 0 then some 32 else none)
  else if a ≤ 1 ∧ b ≤ 1 then (if acc == 2 && scl == 0 then some 64 else none)
  else if a ≤ 1 ∧ b = 12 then (if acc == 2 && scl == 0 then some 256 else none)
  else none

/-- The fmt check of an MMA (R75, R364, R369). -/
def fmtUsable (s : State) (fmt : BitVec 32) : Bool :=
  (fmtK fmt).isSome && (bitsAt fmt.toNat 0 4 != 11 || accepted s 1) && (bitsAt fmt.toNat 4 4 != 12 || accepted s 2) &&
    (bitsAt fmt.toNat 12 2 != 1 || accepted s 3)

/-- The elements of a packed row of bytes (R66). -/
def unpack (w n : Nat) (bs : List Byte) : List Nat :=
  let x := natOf bs
  (List.range n).map fun k => bitsAt x (w * k) w

/-- An element's value; an invalid ternary code reads as 0 (R62). -/
def elemVal (code x : Nat) : Num :=
  match tyOf code with
  | some t => (readTy t x).1
  | none => .nan

def codeWidth (code : Nat) : Nat := match tyOf code with | some t => t.width | none => 8

/-- AccRound of R78 on an exact sum: the word, its flags (OVF 1, SAT 2, NAN 4) and its events. -/
def accRound (acc : Nat) (x : Num) : Nat × Nat × List Nat :=
  match x with
  | .nan => (0x7FC00000, 4, [])
  | .inf s => (signBit .f32 s + FFmt.infCode .f32, 0, [])
  | .fin s m e =>
    let narrow (f : FFmt) : Nat × Nat × List Nat :=
      match roundMag f .rne 0 s m e with
      | some c => ((roundF .f32 .rne 0 (decodeF f (signBit f s + c))).1, 0, [])
      | none => ((roundF .f32 .rne 0 (decodeF f (signBit f s + f.maxCode))).1, 2, [1])
    match acc with
    | 0 => let (c, o) := roundF .f32 .rne 0 x; (c, if o then 1 else 0, if o then [0] else [])
    | 1 =>
      if 128 ≤ (m.log2 : Int) + e ∧ m ≠ 0 then (signBit .f32 s + FFmt.infCode .f32, 1, [0])
      else ((roundF .f32 .rtz 0 x).1, 0, [])
    | 2 =>
      let i := roundInt .rtz 0 s m e
      let y := satInt 32 true i
      (wrapInt 32 y, if y = i then 0 else 2, if y = i then [] else [3])
    | 3 => narrow .f16
    | _ => narrow .bf16

/-- One result element: row i of A, row j of Bt, their scales, and C. -/
def mmaElem (fmt : BitVec 32) (a b : List Num) (sa sb : List Num) (c : Nat) : Nat × Nat × List Nat :=
  let acc := bitsAt fmt.toNat 8 4
  let scl := bitsAt fmt.toNat 12 2 = 1
  let cv := if acc = 2 then numOfInt (intOf 32 true c) else decodeF .f32 c
  let terms := (a.zip b).zip (List.range a.length)
  let term (t : (Num × Num) × Nat) : Num :=
    let p := numMul t.1.1 t.1.2
    if scl then numMul p (numMul (sa.getD (t.2 / 32) .nan) (sb.getD (t.2 / 32) .nan)) else p
  let sum := terms.foldl (fun x t => numAdd x (term t)) cv
  let nanIn := cv.isNan || a.any Num.isNan || b.any Num.isNan || (scl && (sa.any Num.isNan || sb.any Num.isNan))
  let (w, f, ev) := accRound acc sum
  (w, f, if f = 4 ∧ !nanIn then [2] else ev)

/-- Rows of an image as values. -/
def imageRows (s : State) (key rb code n : Nat) : List (List Nat) :=
  (List.range 64).map fun i => unpack (codeWidth code) n (spmRead s (key + i * rb) rb)

def scaleRow (s : State) (key q : Nat) : List Num := (spmRead s key q).map fun b => elemVal 13 b.toNat

/-- The result of an MMA on incoming rows C: rows, flags and events (R76–R79). -/
def mmaResult (s : State) (core aA aB aS : Nat) (z : Bool) (fmt : BitVec 32) (C : Vector Vec 64) :
    Vector Vec 64 × BitVec 4 × List Nat :=
  let K := (fmtK fmt).getD 0
  let at_ := bitsAt fmt.toNat 0 4
  let bt := bitsAt fmt.toNat 4 4
  let base := core * coreBytes
  let rawB := imageRows s (base + aB) 64 bt K
  let A := (imageRows s (base + aA) (K * codeWidth at_ / 8) at_ K).map fun r => r.map (elemVal at_)
  let B := rawB.map fun r => r.map (elemVal bt)
  let q := K / 32
  let scl := bitsAt fmt.toNat 12 2 = 1
  let SA := (List.range 64).map fun i => if scl then scaleRow s (base + aS + i * q) q else []
  let SB := (List.range 64).map fun j => if scl then scaleRow s (base + aS + 64 * q + j * q) q else []
  let grid := (List.range 64).map fun i => (List.range 64).map fun j =>
    mmaElem fmt (A.getD i []) (B.getD j []) (SA.getD i []) (SB.getD j [])
      (if z then 0 else ((C.toList.getD i zeroVec).toList.getD j 0).toNat)
  let bad := if bt = 12 then (rawB.flatMap fun r => r.filter (· = 2)).length else 0
  let flat := grid.flatten
  let flags := flat.foldl (fun f e => f ||| e.2.1) (if bad = 0 then 0 else 8)
  (Vector.ofFn fun i => Vector.ofFn fun j => BitVec.ofNat 32 (((grid.getD i.val []).getD j.val (0, 0, [])).1),
    BitVec.ofNat 4 flags, List.replicate bad 5 ++ flat.flatMap fun e => e.2.2)

/-- The rows that a TLD reads (R255). -/
def tldRows (s : State) (core addr : Nat) : Vector Vec 64 :=
  Vector.ofFn fun i => Vector.ofFn fun j =>
    BitVec.ofNat 32 (natOf (spmRead s (core * coreBytes + addr + 256 * i.val + 4 * j.val) 4))

/-! ## The checks of images (R241) -/

/-- The own core-local offset of an image, if it reaches the issuing core and fits (R241). -/
def ownImage (s : State) (a : Word) (n : Nat) : Option Nat :=
  match localPlace s.who.coreNo a.toNat with
  | some p => if p.1 = s.who.coreNo ∧ p.2 + n ≤ coreBytes then some p.2 else none
  | none => none

/-- The first two checks of R241 on images (address, length). Of several images that fail one check the first of A, Bt and the scale
block gives SYS_TVAL, and it is the image's start, also where only its end fails (DESIGN CHOICE: R241 says "the failing address";
log 80). -/
def imageCheck (s : State) (xs : List (Word × Nat)) : Option (BitVec 8 × Word) :=
  match xs.find? fun e => (ownImage s e.1 e.2).isNone with
  | some e => some (0x06, e.1)
  | none => (xs.find? fun e => e.1.toNat % 64 ≠ 0).map fun e => (0x08, e.1)

def bankOf (off : Nat) : Nat := bitsAt off 21 2

/-- The bank-group check of R241. -/
def bankCheck (offA lenA offB : Nat) (a b : Word) : Option Word :=
  if bankOf offA ≠ bankOf (offA + lenA - 1) then some a
  else if bankOf offB ≠ bankOf (offB + 4095) then some b
  else if bankOf offA = bankOf offB then some b
  else none

/-! ## The queue (R239) -/

/-- A row group of the core is under arbitration: its engine queue does not advance (R247). -/
def arbitrating (s : State) (core : Nat) : Bool := (clusterOf s (core / 4)).arbs.any fun b => b.core == core

/-- Entries of the queue that are taken: those that wait, and the one that executes. -/
def queueFull (s : State) (core : Nat) : Bool :=
  let q := (coreOf s core).queue
  let waiting := (q.filter (·.start.isNone)).length
  let running := match (q.filter (·.start.isSome)).getLast? with
    | some o => match o.start with
      | some x => decide (s.now < x + 16) || arbitrating s core
      | none => false
    | none => false
  decide (2 ≤ waiting + if running then 1 else 0)

/-- An operation enters the queue: the tile's watermark is 0 and the token pending (R245, R263). None issues before a synchronising
load of its context has been performed, which its accesses come after (R187, R295 item 5). -/
def enqueue (kind : MatKind) (p : Nat) (tok : Tokens) (s : State) : State :=
  let c := s.who
  let id := fresh s
  let op : MatOp := ⟨id, c, s.frame.base, kind, p, tokOf tok, captures tok s, none, 0, Vector.replicate 64 zeroVec, 0, [], false, none,
    opClock id s, false, s.ctx.sc⟩
  let s := setTile c.coreNo p (fun t => { t with water := 0 }) s
  let s := modCore s c.coreNo fun u => { u with queue := u.queue ++ [op], lastMat := some (c, s.frame.base, s.ctx.sc) }
  produceTok tok id (bump s)

/-! ## MMA and TLD (R253, R255) -/

/-- MMA (R253). -/
def execMma (td : TR) (aA aB aS : AR) (z : Bool) (tok : Tokens) (s : State) : Res :=
  needCompute s fun s =>
  let fmt := fmtNow s.ctx
  if !fmtUsable s fmt then reserved s
  else needTile td s fun p => needTokens tok s <|
    let scl := sizeScale fmt ≠ 0
    guardRegs ([.a aA, .a aB] ++ if scl then [.a aS] else []) [] s fun s =>
      let A := ea s aA 0
      let B := ea s aB 0
      let S := if scl then ea s aS 0 else 0
      match imageCheck s ([(A, sizeA fmt), (B, 4096)] ++ if scl then [(S, sizeScale fmt)] else []) with
      | some (c, v) => trapAt 12 c v s
      | none =>
        let off (x : Word) (n : Nat) : Nat := (ownImage s x n).getD 0
        match bankCheck (off A (sizeA fmt)) (sizeA fmt) (off B 4096) A B with
        | some v => trapAt 12 0x07 v s
        | none =>
          if queueFull s s.who.coreNo || tokenBusy tok s || acquirePending s then stall s
          else .next (enqueue (.mma (off A (sizeA fmt)) (off B 4096) (off S (sizeScale fmt)) z fmt) p tok s)

/-- TLD (R255). -/
def execTld (td : TR) (a : AR) (tok : Tokens) (s : State) : Res :=
  needCompute s fun s => needTile td s fun p => needTokens tok s <|
    guardRegs [.a a] [] s fun s =>
      let A := ea s a 0
      match imageCheck s [(A, 16384)] with
      | some (c, v) => trapAt 12 c v s
      | none =>
        if tileBusy s s.who.coreNo p || queueFull s s.who.coreNo || tokenBusy tok s || acquirePending s then stall s
        else .next (enqueue (.tld ((ownImage s A 16384).getD 0)) p tok s)

/-! ## TST (R248, R256, R257) -/

/-- The histogram bin of a source value (R257). -/
def histBin (isInt : Bool) (x : Nat) : Nat :=
  if isInt then (if x = 0 then 0 else min 30 (1 + (intOf 32 true x).natAbs.log2))
  else
    let e := bitsAt x 23 8
    if e = 0 then 0 else if e = 255 then 31 else min 30 (max 1 (e - 112))

/-- The image of a tile in a destination type, with the events of its conversions (R256). -/
def tstImage (rows : Vector Vec 64) (isInt : Bool) (dty : Nat) (rnd : Nat) (seed s31 : Word) : List Byte × List Nat :=
  let src : Ty := if isInt then .int 32 true else .flt .f32
  match tyOf dty, rmodeOf rnd with
  | some t, some mode =>
    let conv (e : Nat) (x : Lane) : Coded :=
      if t = src then (x.toNat, [])
      else convert src t mode (draw seed (s31 + BitVec.ofNat 64 e)).toNat false x.toNat
    let words := rows.toList.flatMap fun r => r.toList
    let cs := words.zip (List.range 4096) |>.map fun e => conv e.2 e.1
    let per := 32 / t.width
    -- 32-bit groups of elements, each packed from its low end
    let rec pack : Nat → List Coded → List Byte
      | 0, _ => []
      | n + 1, l => bytesOf 4 ((l.take per).foldr (fun c x => c.1 % 2 ^ t.width + 2 ^ t.width * x) 0) ++ pack n (l.drop per)
    (pack (4096 / per) cs, cs.flatMap (·.2))
  | _, _ => ([], [])

/-- TST; H = 1 needs feature 5 (R256, R364). -/
def execTst (td : TR) (a : AR) (x : SR) (dty : Fin 16) (rnd : Fin 8) (h : Bool) (tok : Tokens) (s : State) : Res :=
  needCompute s fun s =>
  if 13 ≤ dty.val ∨ 5 ≤ rnd.val ∨ (!h ∧ x ≠ 0) ∨ (h ∧ !accepted s 5) then reserved s
  else needTile td s fun p => needTokens tok s <|
    guardRegs ([.a a] ++ (if h then [.s x] else []) ++ if rnd = 4 then [.s 31] else []) [] s fun s =>
      let A := ea s a 0
      let size := 512 * (match tyOf dty.val with | some t => t.width | none => 0)
      match localPlace s.who.coreNo A.toNat with
      | none => trapAt 12 0x06 A s
      | some (core, off) =>
        if coreBytes < off + size then trapAt 12 0x06 A s
        else if off % 64 ≠ 0 then trapAt 12 0x08 A s
        else if tileBusy s s.who.coreNo p || decide (4 ≤ (coreOf s s.who.coreNo).stores.length) || tokenBusy tok s || acquirePending s then stall s
        else
          let c := s.who
          let id := fresh s
          let st : TileStore := ⟨id, c, s.frame.base, p, core, off, size, dty.val, rnd.val, bitsAt (fmtNow s.ctx).toNat 8 4 == 2,
            seedTop s.ctx, if rnd = 4 then rdS s 31 else 0, if h then some ((rdS s x).toNat % 32) else none, tokOf tok, captures tok s,
            none, 0, [], [], [], 0, 0, none, opClock id s, []⟩
          let s := modCore s c.coreNo fun u => { u with stores := u.stores ++ [st] }
          .next (produceTok tok id (bump s))

/-! ## TZERO, TRD, TWR, TSTAT, TSIG (R254, R258, R259) -/

/-- TZERO (R254). -/
def execTzero (td : TR) (s : State) : Res :=
  needCompute s fun s => needTile td s fun p =>
    if tileBusy s s.who.coreNo p then stall s
    else .next (meetTile s.who.coreNo p 0 16384 (setTile s.who.coreNo p (fun _ => Tile.zero) s))

/-- A row of a tile; words that a copy writes and whose end the context has not observed are unpredictable (R280). -/
def tileRow (s : State) (core p name r : Nat) : Vec :=
  let row := (tileOf s core p).rows.toList.getD r zeroVec
  if s.ctx.windows.isEmpty then row
  else Vector.ofFn fun j =>
    if inWindow s.ctx (32 + name) (64 * r + j.val) then (Config.free s.tick (2 ^ 52 + j.val)).truncate 32 else row[j]

/-- A tile as SYS_TVAL names it (R484). -/
def tileTval (td : TR) : Word := BitVec.ofNat 64 (6 * 256 + td.val)

/-- TRD (R245, R258). A tile whose both copies fail parity is poison consumed (R429, R431); it stands before s in operand order
(R484). -/
def execTrd (vd : VR) (td : TR) (x : SR) (s : State) : Res :=
  needCompute s fun s => needTile td s fun p => guardBounds [.s x] [.v vd] s fun s =>
    let t := tileOf s s.who.coreNo p
    let r := (rdS s x).toNat % 64
    if t.bad ∧ (r < t.water ∨ s.ctx.badRegs.contains (.s x)) then trapAt 12 0x0D (tileTval td) s
    else guardRegs [.s x] [.v vd] s fun s =>
      if r < t.water then .next (land (.v vd) (.vec (tileRow s s.who.coreNo p td.val r)) 6 s) else stall s

/-- TWR (R258). -/
def execTwr (td : TR) (v : VR) (x : SR) (s : State) : Res :=
  needCompute s fun s => needTile td s fun p => guardRegs [.v v, .s x] [] s fun s =>
    let r := (rdS s x).toNat % 64
    if tileBusy s s.who.coreNo p then stall s
    else .next (meetTile s.who.coreNo p (256 * r) 256
      (setTile s.who.coreNo p (fun t => { t with rows := t.rows.set r (rdV s v) (Nat.mod_lt _ (by decide)) }) s))

/-- TSTAT (R259). -/
def execTstat (d : SR) (td : TR) (c : Bool) (s : State) : Res :=
  needCompute s fun s => needTile td s fun p => guardRegs [] [.s d] s fun s =>
    if tileBusy s s.who.coreNo p then stall s
    else
      let f := flagsOf (tileOf s s.who.coreNo p)
      let s := land (.s d) (.word (f.zeroExtend 64)) 4 s
      .next (if c then setTile s.who.coreNo p (fun t => withFlags t 0) s else s)

/-- TSIG; sel 9–15 are reserved (R259). -/
def execTsig (d : SR) (td : TR) (sel : Fin 16) (s : State) : Res :=
  needCompute s fun s =>
  if 9 ≤ sel.val then reserved s
  else needTile td s fun p => guardRegs [] [.s d] s fun s =>
    if tileBusy s s.who.coreNo p then stall s
    else if (tileOf s s.who.coreNo p).bad then trapAt 12 0x0D (tileTval td) s
    else
      let rows := (tileOf s s.who.coreNo p).rows
      let y := if sel.val = 8 then tileSig ((List.range 8).map (groupSig rows)) else groupSig rows sel.val
      .next (land (.s d) (.word y) 4 s)

/-! ## The engines' steps (R238–R247) -/

def modOp (core id : Nat) (f : MatOp → MatOp) (s : State) : State :=
  modCore s core fun u => { u with queue := u.queue.map fun o => if o.id = id then f o else o }

def modStore (core id : Nat) (f : TileStore → TileStore) (s : State) : State :=
  modCore s core fun u => { u with stores := u.stores.map fun o => if o.id = id then f o else o }

/-- The clock reaches a cycle at which something is due. -/
def reach (t : Nat) (s : State) : State := { s with now := max s.now t }

/-- The operation ahead in the queue. -/
def ahead (q : List MatOp) : Option MatOp := (q.filter (·.start.isSome)).getLast?

/-- An earlier store of the core that has not been made yet touches these scratchpad bytes (R242, R267). -/
def storeAwaited (s : State) (core id key n : Nat) : Bool :=
  (coreOf s core).waits.any fun w => decide (w.id < id) && (match w.kind with
    | .store ps _ => ps.any fun e => decide (e.1 < key + n) && decide (key < e.1 + e.2.length)
    | .atom false _ m _ k _ _ => decide (k < key + n) && decide (key < k + m)
    | _ => false)

/-- The next operation that may start by R239 when its time has come. -/
def startable (s : State) (core : Nat) : Option MatOp :=
  let u := coreOf s core
  match u.queue.find? (·.start.isNone) with
  | some o =>
    let blocked := arbitrating s core || !o.deps.isEmpty || !(tileOf s core o.tile).engine.isEmpty ||
      u.queue.any (fun e => decide (e.id < o.id) && e.tile == o.tile && (match e.kind with | .tld _ => true | _ => false)) ||
      u.stores.any (fun t => t.tile == o.tile && decide (t.id < o.id) && decide (t.groups < 8)) ||
      (imagesOf o.kind).any fun e => storeAwaited s core o.id (core * coreBytes + e.1) e.2
    if blocked then none else some o
  | none => none

/-- Poison in the images of an operation (R250). -/
def poisonedImage (s : State) (core : Nat) (k : MatKind) : Bool :=
  (imagesOf k).any fun e => spmPoisoned s (core * coreBytes + e.1) e.2

/-- The words that the tile will hold when the earlier operations into it end. -/
def incoming (s : State) (core : Nat) (o : MatOp) : Vector Vec 64 × List Nat :=
  match ((coreOf s core).queue.filter fun e => e.tile = o.tile ∧ e.start.isSome).getLast? with
  | some e => (if e.spoil then freeRows s else e.result, [e.id])
  | none => ((tileOf s core o.tile).rows, [])

/-- An MMA adds to a tile whose both copies fail parity (R429). -/
def badOperand (s : State) (core : Nat) (o : MatOp) : Bool :=
  (match o.kind with | .mma _ _ _ z _ => !z | .tld _ => false) && (incoming s core o).2.isEmpty && (tileOf s core o.tile).bad

/-- An operation fails when it starts: its tile becomes unpredictable and its token clears (R250, R264). -/
def failStart (core : Nat) (o : MatOp) (cause : BitVec 8) (s : State) : State :=
  let rows := freeRows s
  let s := modOp core o.id (fun o => { o with start := some s.now, result := rows, flags := freeFlags s, error := some cause }) s
  engineFault o.ctx cause o.bundle (clearTok o.ctx o.tok o.id o.clock s)

/-- ENGINE_OPERATION_START (R239, R242): the images are read; the result is known from here on. -/
def execEngineOperationStart (s : State) : Res :=
  let core := s.input.core.val
  match startable s core with
  | none => .next s
  | some o =>
    let s := reach (match ahead (coreOf s core).queue with | some e => (e.start.getD 0) + 16 | none => 0) s
    match o.error with
    | some cause => .next (failStart core o cause s)
    | none =>
      if poisonedImage s core o.kind || badOperand s core o then .next (failStart core o 0x0D s)
      else
        let (C, dep) := incoming s core o
        let (rows, flags, events) := match o.kind with
          | .mma aA aB aS z fmt => mmaResult s core aA aB aS z fmt C
          | .tld addr => (tldRows s core addr, 0, [])
        let dep := match o.kind with | .mma _ _ _ false _ => dep | _ => []
        let rows := if o.spoil then freeRows s else rows
        .next (modOp core o.id (fun o => { o with start := some s.now, result := rows, flags := flags, events := events, deps := dep }) s)

/-- The rows of a group are written into the tile; the watermark rises for the latest operation into it (R245). -/
def writeGroup (core : Nat) (o : MatOp) (s : State) : State :=
  let latest := ((coreOf s core).queue.filter fun e => e.tile = o.tile).getLast?.map (·.id) = some o.id
  let g := o.groups
  let s := setTile core o.tile (fun t =>
    { t with rows := Vector.ofFn fun i => if i.val / 8 = g then o.result[i] else t.rows[i]
             water := if latest then 8 * (g + 1) else t.water }) s
  let s := meetWindow core (1000 + o.tile) (2048 * g) 2048 (fun c => decide (c.id < o.id)) (some o.id) s
  modOp core o.id (fun o => { o with groups := g + 1, arb := false }) s

/-- The operation whose row groups are checked now. -/
def checking (s : State) (core : Nat) : Option MatOp :=
  ((coreOf s core).queue.find? (·.start.isSome)).bind fun o => if o.groups < 8 ∧ !o.arb ∧ o.error.isNone then some o else none

/-- A row group goes to Lantern, in order of detection (R247). -/
def toLantern (b : Arb) (s : State) : State := modCluster s (b.core / 4) fun u => { u with arbs := u.arbs ++ [b] }

/-- The row group of an MMA or a TLD that its engines disagree on. -/
def arbOfOp (core : Nat) (o : MatOp) : Arb :=
  ⟨core, o.id, false, o.groups, o.ctx, o.bundle, o.tile, (match o.kind with | .mma _ _ _ _ _ => 0 | .tld _ => 1), groupSig o.result o.groups⟩

/-- The row group of a TST that its drain paths disagree on. -/
def arbOfStore (core : Nat) (t : TileStore) : Arb :=
  ⟨core, t.id, true, t.groups, t.ctx, t.bundle, t.tile, 2, sigBytes ((t.image.drop (t.size / 8 * t.groups)).take (t.size / 8))⟩

/-- ROW_GROUP_CHECK: good says that the two engines agree (R244, R246). -/
def execRowGroupCheck (s : State) : Res :=
  let core := s.input.core.val
  match checking s core with
  | none => .next s
  | some o =>
    let s := reach (o.start.getD 0 + 20 + 2 * o.groups) s
    .next (if s.input.good then writeGroup core o s
           else toLantern (arbOfOp core o) (modOp core o.id (fun o => { o with arb := true }) s))

/-- The oldest operation has ended: all its groups are checked, or it is in error. -/
def finished (s : State) (core : Nat) : Option MatOp :=
  ((coreOf s core).queue.find? (·.start.isSome)).bind fun o => if (o.groups = 8 ∨ o.error.isSome) ∧ !o.arb then some o else none

/-- The tile at the end of an operation: flags are sticky, a TLD clears them; an error or a write into its images
leaves all of it unpredictable (R79, R242, R255, R264). -/
def finalTile (s : State) (o : MatOp) (latest : Bool) (t : Tile) : Tile :=
  let t := { t with water := if latest then 64 else t.water, bad := false }
  if o.error.isSome || o.spoil then withFlags { t with rows := freeRows s } (freeFlags s)
  else match o.kind with
    | .tld _ => withFlags t 0
    | .mma _ _ _ _ _ => withFlags t (flagsOf t ||| o.flags)

/-- An operation that has added to a tile which a write into the images of an earlier one leaves unpredictable (R242). -/
def spoilChained (core : Nat) (e : MatOp) (s : State) : State :=
  modOp core e.id (fun e => { e with spoil := true, result := freeRows s }) s

/-- ENGINE_OPERATION_COMPLETION (R79, R244, R263). Operations that have started on its result share what it has become:
an error, with its cause (R238, R264, log 60), or unpredictable words (R242). -/
def execEngineOperationCompletion (s : State) : Res :=
  let core := s.input.core.val
  match finished s core with
  | none => .next s
  | some o =>
    let s := if o.error.isNone then reach (o.start.getD 0 + 36) s else s
    let latest := ((coreOf s core).queue.filter fun e => e.tile = o.tile).getLast?.map (·.id) = some o.id
    let s := setTile core o.tile (finalTile s o latest) s
    let s := modCore s core fun u => { u with queue := u.queue.filter fun e => e.id ≠ o.id }
    let started := (coreOf s core).queue.filter fun e => e.start.isSome && e.deps.contains o.id
    let s := endOp o.ctx o.id o.error o.clock (clearTok o.ctx o.tok o.id o.clock s)
    match o.error with
    | none => .next (countWork o.ctx o.bundle o.events (if o.spoil then started.foldl (fun s e => spoilChained core e s) s else s))
    | some cause => .next (started.foldl (fun s e => failStart core { e with clock := clockJoin e.clock o.clock } cause s) s)

/-! ## TST's steps (R248, R256, R257) -/

/-- TST_DRAIN_START: the tile is read and converted; an operation whose captured one has failed stores nothing. -/
def execTstDrainStart (s : State) : Res :=
  let core := s.input.core.val
  match (coreOf s core).stores.find? fun t => t.start.isNone && t.deps.isEmpty with
  | none => .next s
  | some t =>
    match (if (tileOf s core t.tile).bad ∧ t.error.isNone then some 0x0D else t.error) with
    | some cause =>
      let s := modCore s core fun u => { u with stores := u.stores.filter fun e => e.id ≠ t.id }
      .next (engineFault t.ctx cause t.bundle (endOp t.ctx t.id (some cause) t.clock (clearTok t.ctx t.tok t.id t.clock s)))
    | none =>
      let rows := (tileOf s core t.tile).rows
      let (image, events) := tstImage rows t.isInt t.dty t.rnd t.seed t.s31
      let bins := if t.hist.isSome then rows.toList.flatMap fun r => r.toList.map fun x => histBin t.isInt x.toNat else []
      .next (modStore core t.id (fun t => { t with start := some s.now, image := image, events := events, bins := bins }) s)

/-- TST_ROW_GROUP_COMPARE: good says that the two drain paths agree (R246, R248). An arbitrated row group delays none
that follows it. -/
def execTstRowGroupCompare (s : State) : Res :=
  let core := s.input.core.val
  match (coreOf s core).stores.find? fun t => t.start.isSome && decide (t.groups < 8) with
  | none => .next s
  | some t =>
    let s := reach (t.start.getD 0 + 2 + 2 * t.groups) s
    let s := modStore core t.id (fun t => { t with groups := t.groups + 1, doneAt := s.now }) s
    .next (if s.input.good then s
           else toLantern (arbOfStore core t) (modStore core t.id (fun t => { t with arbs := t.arbs + 1 }) s))

/-- A histogram after one more value in a bin, saturating (R257). -/
def countBin (h : Tbl Nat) (b : Nat) : Tbl Nat := Tbl.set h b (min 0xFFFFFFFF ((Tbl.get? h b).getD 0 + 1))

/-- TST_COMMIT: the oldest store is written; events and histogram count; its token clears (R248, R257). It overwrites the
stores issued before it, so it waits for those that wait for a granule (log 62). Its bytes in a filled granule are no bytes that the context has
stored, so they do not make the granule dirty (DESIGN CHOICE between R195 and R248; log 98). -/
def execTstCommit (s : State) : Res :=
  let core := s.input.core.val
  match (coreOf s core).stores with
  | [] => .next s
  | t :: _ =>
    let key := spmKey (t.core, t.off)
    if t.groups < 8 ∨ t.arbs ≠ 0 ∨ storeAwaited s core t.id key t.size then .next s
    else
      let s := reach (t.doneAt + 2) s
      let s := modCore s core fun u =>
        let h := match t.hist with
          | some n => Tbl.set u.hist n (t.bins.foldl countBin ((Tbl.get? u.hist n).getD []))
          | none => u.hist
        { u with stores := u.stores.drop 1, hist := h }
      let s := meetLocal key t.size (some t.id) (forgetReleases 0 (localWord key) t.size (markSpm t.bad (spmWrite key t.image s)))
      let s := countWork t.ctx t.bundle t.events s
      .next (endOp t.ctx t.id none t.clock (clearTok t.ctx t.tok t.id t.clock s))

/-! ## Lantern (R247, R437, R438) -/

/-- The rows stand: the group is final; later groups of an MMA or TLD follow from this moment (R244, R247). -/
def standing (b : Arb) (s : State) : State :=
  if b.store then
    modStore b.core b.id (fun t => { t with arbs := t.arbs - 1, doneAt := s.now }) s
  else
    match (coreOf s b.core).queue.find? fun o => o.id = b.id with
    | none => s
    | some o => modOp b.core b.id (fun o => { o with start := some (s.now - (20 + 2 * b.group)) }) (writeGroup b.core o s)

/-- The row group is unresolved: a tile becomes unpredictable, a held store never commits, and the fault is raised, for each such group of a
TST too (R247). -/
def unresolved (b : Arb) (s : State) : State :=
  if b.store then
    let spoilt (s : State) : State := setTile b.core b.tile (fun x => { x with rows := freeRows s }) s
    match (coreOf s b.core).stores.find? fun t => t.id = b.id with
    | none => engineFault b.who 0x17 b.bundle (spoilt s)
    | some t =>
      let s := spoilt (modCore s b.core fun u => { u with stores := u.stores.filter fun e => e.id ≠ b.id })
      engineFault b.who 0x17 b.bundle (endOp t.ctx t.id (some 0x17) t.clock (clearTok t.ctx t.tok t.id t.clock s))
  else
    match (coreOf s b.core).queue.find? fun o => o.id = b.id with
    | none => s
    | some o =>
      let s := modOp b.core b.id (fun o => { o with arb := false, error := some 0x17, result := freeRows s }) s
      let s := setTile b.core o.tile (fun x => { x with rows := freeRows s }) s
      engineFault o.ctx 0x17 o.bundle (clearTok o.ctx o.tok o.id o.clock s)

/-- LANTERN_ARBITRATION: the verdict on the row group detected first (R247, R437). One of a TST that an earlier group has left
unresolved gets its verdict too, and its record. -/
def execLanternArbitration (s : State) : Res :=
  let clu := s.input.clu.val
  match (clusterOf s clu).arbs with
  | [] => .next s
  | b :: rest =>
    let s := modCluster { s with now := s.now + 7500 } clu fun u => { u with arbs := rest }
    let record (named : Nat) (p q : Word) (s : State) : State := disagreement b.who b.bundle b.tile b.group named b.op p q s
    match s.input.verdict with
    | .primary => .next (record 1 b.sig (otherSig s 0) (countWork b.who b.bundle [10] (standing b s)))
    | .shadow => .next (record 0 (otherSig s 0) b.sig (countWork b.who b.bundle [10] (standing b s)))
    | .neither => .next (record 2 (otherSig s 0) (otherSig s 1) (unresolved b s))
    | .passesDiffer => .next (record 3 (otherSig s 0) (otherSig s 1) (unresolved b s))

end Sys2Proof.Machine
end

