-- ==== Sys2Proof/Machine/Copy.lean ====
section
/-! DEFINITION. Copy and gather operations (R263–R281): CPY, CPYX and GATH, their checks at issue, the movement of their
bytes, arrivals at completion barriers, records, and writes into the bounce region (R279, R415). -/

namespace Sys2Proof.Machine

/-! ## Register windows (R274) -/

/-- The words of a window object. -/
def winWords (s : State) (w : WinAddr) : List Lane :=
  if w.what < 32 then ((getCtx s (winCtx w)).v.toList.getD w.what zeroVec).toList
  else (tileOf s w.core (winTile s w)).rows.toList.flatMap fun r => r.toList

/-- The object holds a poisoned word: its parity fails wherever it is read (R279, R429, R431; log 64). -/
def winBad (s : State) (w : WinAddr) : Bool :=
  if w.what < 32 then (getCtx s (winCtx w)).badRegs.any (fun r => match r with | .v i => i.val == w.what | _ => false)
  else (tileOf s w.core (winTile s w)).bad

def winRead (s : State) (w : WinAddr) (n : Nat) : List (Byte × Bool) :=
  ((((winWords s w).drop (w.off / 4)).take (n / 4)).flatMap fun x => bytesOf 4 x.toNat).map fun b => (b, winBad s w)

/-- Words ws replace the words of a vector from word lo on; base is the number of the vector's first word. -/
def putWords (lo : Nat) (ws : List Lane) (base : Nat) (v : Vec) : Vec :=
  Vector.ofFn fun j => if lo ≤ base + j.val then ws.getD (base + j.val - lo) v[j] else v[j]

/-- Poison that a copy has brought marks its object; a copy of the whole object without poison clears it (log 64). -/
def markWin (w : WinAddr) (bad whole : Bool) (s : State) : State :=
  if w.what < 32 then
    let r : RegName := .v (Fin.ofNat 32 w.what)
    let others (x : Ctx) : List RegName := x.badRegs.filter (· ≠ r)
    modCtx s (winCtx w) fun x => { x with badRegs := if bad then r :: others x else if whole then others x else x.badRegs }
  else setTile w.core (winTile s w) (fun t => { t with bad := bad || (t.bad && !whole) }) s

def winWrite (w : WinAddr) (bs : List (Byte × Bool)) (s : State) : State :=
  let ws := wordsOf (bs.length / 4 + 1) (bs.map (·.1))
  let s := markWin w (bs.any (·.2)) (bs.length == winSize w.what) s
  if w.what < 32 then
    modCtx s (winCtx w) fun x => { x with v := Vector.ofFn fun r => if r.val = w.what then putWords (w.off / 4) ws 0 x.v[r] else x.v[r] }
  else
    setTile w.core (winTile s w) (fun t =>
      { t with rows := Vector.ofFn fun i => putWords (w.off / 4) ws (64 * i.val) t.rows[i] }) s

/-! ## Issue checks (R269, R273–R277) -/

/-- A space code of R113; 3 belongs to feature 6 (R364). -/
def spaceUsable (s : State) (sp : Fin 8) : Bool := sp.val < 3 || (sp.val == 3 && accepted s 6)

/-- The issue check of an address in a space (R273). -/
def spaceFault (s : State) (sp : Nat) (a : Word) (n : Nat) : Option (BitVec 8) :=
  match sp with
  | 0 => match localPlace s.who.coreNo a.toNat with
    | some p => if p.2 + n ≤ coreBytes then none else some 0x06
    | none => some 0x06
  | 1 => if winLegal s a.toNat n then none else some 0x0C
  | 2 => if a.toNat < 2 ^ 56 then none else some 0x0C
  | _ => if a.toNat < 2 ^ 62 then none else some 0x0C

/-- The check of the barrier's address (R269). -/
def barrierFault (a : Word) : Option (BitVec 8) :=
  if 2 ^ 56 ≤ a.toNat then some 0x0C else if a.toNat % 8 ≠ 0 then some 0x08 else none

/-- The checks of CPY and CPYX in order (R275, R276). -/
def copyFault (s : State) (exact : Bool) (D S n : Word) (dsp ssp : Nat) (cb : Option Word) : Option (BitVec 8 × Word) :=
  if D.toNat % 4 ≠ 0 then some (0x08, D)
  else if S.toNat % 4 ≠ 0 then some (0x08, S)
  else if n.toNat % 4 ≠ 0 then some (0x08, n)
  else if 2 ^ 30 < n.toNat ∨ (exact ∧ 262144 < n.toNat) then some (0x0C, n)
  else match spaceFault s dsp D n.toNat with
    | some c => some (c, D)
    | none => match spaceFault s ssp S n.toNat with
      | some c => some (c, S)
      | none => cb.bind fun a => (barrierFault a).map fun c => (c, a)

/-- The checks of GATH in order (R277). -/
def gatherFault (s : State) (D X TB n : Word) (w : Nat) (cb : Option Word) : Option (BitVec 8 × Word) :=
  let fits (a : Word) (len : Nat) : Bool :=
    match localPlace s.who.coreNo a.toNat with
    | some p => decide (p.2 + len ≤ coreBytes)
    | none => false
  if 65536 < n.toNat then some (0x0C, n)
  else if 2 ^ 56 ≤ TB.toNat then some (0x0C, TB)
  else if D.toNat % 4 ≠ 0 then some (0x08, D)
  else if X.toNat % 4 ≠ 0 then some (0x08, X)
  else if TB.toNat % 4 ≠ 0 then some (0x08, TB)
  else if !fits D (n.toNat * w) then some (0x06, D)
  else if !fits X (4 * n.toNat) then some (0x06, X)
  else cb.bind fun a => (barrierFault a).map fun c => (c, a)

/-- The window that a copy's destination opens in the target context (R280). -/
def windowOf (w : WinAddr) (id n : Nat) (tok : Option KR) : Window := ⟨w.what, w.off / 4, n / 4, id, tok, none, false, false⟩

def openWindow (id : Nat) (tok : Option KR) (D n : Nat) (s : State) : State :=
  match winOf s s.ctx.task D with
  | none => s
  | some w =>
    let c := winCtx w
    modCtx s c fun x =>
      if x.task = s.ctx.task then { x with windows := x.windows ++ [windowOf w id n (if c = s.who then tok else none)] } else x

/-- The windows of the copies in flight that write into a context which a task starts or restores now (R280). -/
def windowsInto (s : State) (task : Nat) (c : CtxId) : List Window :=
  s.clusters.flatMap fun e => e.2.copies.filterMap fun o =>
    match (if o.task = task ∧ o.dsp = 1 then winOf s task o.dst else none) with
    | some w => if winCtx w = c then some (windowOf w o.id o.n none) else none
    | none => none

/-- The operation enters its cluster's queue (R263, R264, R272), once a synchronising load of its context that is not performed yet
has been: its accesses come after that (R187, R295 item 5). -/
def enterCopy (kind : CopyKind) (dsp ssp : Nat) (D S n : Word) (opt : EngOpt) (cb : Option Word) (tok : Tokens) (s : State) : State :=
  let c := s.who
  let id := fresh s
  let op : CopyOp := ⟨id, c, s.ctx.task, runOf s s.ctx.task, s.ctx.asid, s.ctx.ptbase, s.frame.base, kind, dsp, ssp, D.toNat, S.toNat, n.toNat, opt.e,
    cb.map BitVec.toNat, tokOf tok, captures tok s, false, 0, false, none, none, opClock id s, 0, [], none, none, false, [], []⟩
  let s := match kind with
    | .gath _ _ => modCluster s c.cluster fun u => { u with gathers := u.gathers ++ [op] }
    | _ => modCluster s c.cluster fun u => { u with copies := u.copies ++ [op] }
  let s := if dsp = 1 then openWindow id (tokOf tok) D.toNat n.toNat s else s
  let s := produceTok tok id (bump s)
  { s with ctx := clockTick s.ctx c }

/-- CPY and CPYX at issue. -/
def issueCopy (kind : CopyKind) (ad as_ : AR) (x : SR) (dsp ssp : Fin 8) (opt : EngOpt) (tok : Tokens) (s : State) : Res :=
  needCompute s fun s =>
  if !spaceUsable s dsp || !spaceUsable s ssp || (!opt.b && opt.ab != 0) then reserved s
  else needTokens tok s <| guardRegs ([.a ad, .a as_, .s x] ++ if opt.b then [.a opt.ab] else []) [] s fun s =>
    let D := ea s ad 0
    let S := ea s as_ 0
    let n := rdS s x
    let cb := if opt.b then some (ea s opt.ab 0) else none
    match copyFault s (kind == .cpyx) D S n dsp.val ssp.val cb with
    | some (c, v) => trapAt 12 c v s
    | none =>
      if 32 ≤ (clusterOf s s.who.cluster).copies.length ∨ tokenBusy tok s ∨ acquirePending s then stall s
      else .next (enterCopy kind dsp.val ssp.val D S n opt cb tok s)

/-- CPY (R275). -/
def execCpy (ad aS : AR) (x : SR) (dsp ssp : Fin 8) (opt : EngOpt) (tok : Tokens) (s : State) : Res :=
  issueCopy .cpy ad aS x dsp ssp opt tok s

/-- CPYX (R276). -/
def execCpyx (ad aS : AR) (x : SR) (dsp ssp : Fin 8) (opt : EngOpt) (tok : Tokens) (s : State) : Res :=
  issueCopy .cpyx ad aS x dsp ssp opt tok s

/-- GATH; rl outside 2–14 is reserved (R113, R277). -/
def execGath (ad aT aI : AR) (x : SR) (rl : Fin 32) (opt : EngOpt) (tok : Tokens) (s : State) : Res :=
  needCompute s fun s =>
  if rl.val < 2 ∨ 14 < rl.val ∨ (!opt.b ∧ opt.ab ≠ 0) then reserved s
  else needTokens tok s <| guardRegs ([.a ad, .a aT, .a aI, .s x] ++ if opt.b then [.a opt.ab] else []) [] s fun s =>
    let D := ea s ad 0
    let X := ea s aI 0
    let TB := ea s aT 0
    let n := rdS s x
    let cb := if opt.b then some (ea s opt.ab 0) else none
    match gatherFault s D X TB n (2 ^ rl.val) cb with
    | some (c, v) => trapAt 12 c v s
    | none =>
      if 16 ≤ (clusterOf s s.who.cluster).gathers.length ∨ tokenBusy tok s ∨ acquirePending s then stall s
      else .next (enterCopy (.gath rl.val TB.toNat) 0 0 D X n opt cb tok s)

/-! ## The operation at work -/

def findCopy (s : State) (clu id : Nat) : Option CopyOp :=
  ((clusterOf s clu).copies ++ (clusterOf s clu).gathers).find? fun o => o.id = id

def modCopy (clu id : Nat) (f : CopyOp → CopyOp) (s : State) : State :=
  let g (o : CopyOp) : CopyOp := if o.id = id then f o else o
  modCluster s clu fun u => { u with copies := u.copies.map g, gathers := u.gathers.map g }

/-- The operation belongs to a run whose version has been discarded: its global writes are dropped (R281). -/
def outlived (s : State) (o : CopyOp) : Bool := versionGone s o.task o.run

/-- The target is a started context of the operation's run, a tile lies in its window, and it is reached (R278, R472). -/
def winReady (s : State) (o : CopyOp) (w : WinAddr) : Bool :=
  let x := getCtx s (winCtx w)
  x.task == o.task && runOf s o.task == o.run && (isActive x.run || x.run == .stopped) &&
    (decide (w.what < 32) || decide (w.what - 32 < x.tcount)) && routeOpen s o.ctx.stack.val (winCtx w).stack.val

/-- Sector-wait names of an entry of a bounce ring and of an arrival (R419). -/
def ringUnit (n : Fin 8) (slot : Nat) : Waiter := .ring n slot
def arrivalUnit (id : Nat) : Waiter := .arrival id

/-- Who an engine operation's accesses count for (R307, R312). -/
def copyAcc (s : State) (o : CopyOp) : Acc :=
  { who := o.ctx, agent := engineAgent o.id, clock := o.clock, task := if outlived s o then 0 else o.task, asid := o.asid
    ptbase := o.ptbase, user := true, bundle := o.bundle, unit := arrivalUnit o.id, run := o.run }

/-- How a piece of a transfer ends: made; to be tried again; waiting for the pager; ended in error; ended by a
task-level fault. -/
inductive Moved (α : Type) where
  | ok (s : State) (x : α)
  | later (s : State)
  | waits (s : State) (va : Nat) (code : BitVec 8)
  | fails (s : State) (code : BitVec 8)
  | task (s : State) (fault : State → State) (code : BitVec 8)

/-- The task-level faults of an engine access (R278, R308, R389). -/
def raceOn (o : CopyOp) (a : Acc) (va u : Nat) (x : Touch) (s : State) : State := taskFault o.task 0x15 (raceRecord a va u x s)

/-- A kind-11 record of an engine operation (R411). -/
def postEngine (o : CopyOp) (va : Nat) (code : BitVec 8) (s : State) : State :=
  postRecord s o.ctx.cluster ⟨BitVec.ofNat 64 va, o.task, o.ctx.cluster, o.ctx.who, 11, code, 0⟩

/-- Writes of a core to global memory that are still to be made: those that wait and were issued before the operation numbered
before, region bytes and log entries; each as its address space, its tables, its address and its length. -/
def pendingWrites (s : State) (core before : Nat) : List (BitVec 16 × Word × Nat × Nat) :=
  let u := coreOf s core
  let ofEntry (e : LogEntry) : List (BitVec 16 × Word × Nat × Nat) := match e.op with
    | .store => e.bytes.map fun b => (e.asid, e.ptbase, b.1, 1)
    | .reduce _ addr w _ => [(e.asid, e.ptbase, addr, w)]
  ((u.waits.filter fun w => decide (w.id < before)).flatMap fun w => match w.kind with
    | .gstore va bs _ _ => [(w.asid, w.ptbase, va, bs.length)]
    | .atom true _ n _ va _ _ => [(w.asid, w.ptbase, va, n)]
    | .remote _ _ sh vas _ [] => [(w.asid, w.ptbase, vas.headD 0, sh.size)]
    | _ => []) ++ (u.wback.flatMap fun e => ofEntry e.2) ++ u.sidelog.flatMap ofEntry

/-- Loads of a core that wait and were issued before the operation numbered before, in the same form. -/
def pendingReads (s : State) (core before : Nat) : List (BitVec 16 × Word × Nat × Nat) :=
  ((coreOf s core).waits.filter fun w => decide (w.id < before)).flatMap fun w => match w.kind with
    | .load true _ sh vas _ => vas.map fun va => (w.asid, w.ptbase, va, sh.size)
    | _ => []

/-- One of these accesses meets k bytes at va, under whatever name. -/
def accessMeets (s : State) (o : CopyOp) (va k : Nat) (ps : List (BitVec 16 × Word × Nat × Nat)) : Bool :=
  ps.any fun p =>
    (p.1 == o.asid && (meetRange va k p.2.2.1 p.2.2.2).isSome) ||
      (keySpans s o.ctx.stack o.ptbase va k).any fun q =>
        (keySpans s o.ctx.stack p.2.1 p.2.2.1 p.2.2.2).any fun r => (meetRange q.2.1 q.2.2 r.2.1 r.2.2).isSome

/-- An earlier write of the operation's core to k bytes at va has not been made yet (R267, R295, R314). -/
def globalAwaited (s : State) (o : CopyOp) (va k : Nat) : Bool := accessMeets s o va k (pendingWrites s o.ctx.coreNo o.id)

/-- An earlier load of the operation's core from k bytes at va has not been made yet: it has its value of the time of its issue (R297). -/
def loadAwaited (s : State) (o : CopyOp) (va k : Nat) : Bool := accessMeets s o va k (pendingReads s o.ctx.coreNo o.id)

/-- An earlier local access of the core to n scratchpad bytes from a key has not been made yet (R297). -/
def localAwaited (s : State) (core id key n : Nat) : Bool :=
  storeAwaited s core id key n || (coreOf s core).waits.any fun w => decide (w.id < id) && (match w.kind with
    | .load false _ sh keys _ => keys.any fun k => decide (k < key + n) && decide (key < k + sh.size)
    | _ => false)

def clean (bs : List Byte) : List (Byte × Bool) := bs.map fun b => (b, false)

/-- A piece of global memory, read at its home (R312); behind what its core has not stored yet (R267, R314). A range that runs past 2^56
ends the operation with protection where it does (DESIGN CHOICE: R273 judges the start at issue, and no rule speaks of the rest; log 88). -/
def readPiece (o : CopyOp) (va k : Nat) (s : State) : Moved (List (Byte × Bool)) :=
  if 2 ^ 56 < va + k then .fails s 0x0C
  else if globalAwaited s o va k then .later s
  else
    let a := copyAcc s o
    match readMarked a true false va k s with
    | .ok s bs => .ok s bs
    | .serviced s c v => .waits s v c
    | .noSectors s v => .waits s v 0x19
    | .failed s c _ => .fails s c
    | .race s v u x => .task s (raceOn o a v u x) 0x15
    | .overflow s => .task s (taskFault o.task 0x16) 0x16
    | .remote s d => if reaches s d then .ok s (clean (remoteBytes a va k s)) else .fails s 0x0C

/-- The number under which the auditor retains the line of a remote address (R441). -/
def remoteLine (a : Nat) : Nat := (2 ^ 64 + a) / 64

/-- k source bytes at an address of a space; a replay's remote reads are served from what its original has read (R443; log 92). -/
def readSpace (o : CopyOp) (sp a k : Nat) (s : State) : Moved (List (Byte × Bool)) :=
  match sp with
  | 0 =>
    match localPlace o.ctx.coreNo a with
    | none => .fails s 0x06
    | some p =>
      let key := spmKey p
      if storeAwaited s o.ctx.coreNo o.id key k then .later s
      else .ok s ((List.range k).map fun i => (s.spm.read (key + i), spmPoisoned s (key + i) 1))
  | 1 =>
    match winOf s o.task a with
    | none => .fails s 0x0C
    | some w =>
      if !winReady s o w then .fails s 0x0C
      else if 32 ≤ w.what ∧ tileBusy s w.core (winTile s w) then .later s
      else .ok s (winRead s w k)
  | 2 => readPiece o a k s
  | _ =>
    let at_ (a n : Nat) : List Byte := (List.range n).map fun i => (Config.free s.tick (2 ^ 53 + a + i)).truncate 8
    if a / 2 ^ 56 = s.dev.no then readPiece o (a % 2 ^ 56) k s
    else if isReplay o.task then
      .ok s (clean ((List.range k).map fun i => match retainedLine s o.task (remoteLine (a + i)) with
        | some bs => bs.getD ((a + i) % 64) 0
        | none => (at_ (a + i) 1).headD 0))
    else if reaches s (a / 2 ^ 56) then .ok (retain o.task (remoteLine a) (fun _ => at_ (a / 64 * 64) 64) s) (clean (at_ a k))
    else .fails s 0x0C

/-- A write that lands in the bounce region (R279, R415, R420); one to a host window acts at once (R311). A full ring makes it
wait, in its place among the writes that wait for sectors, which the entry takes over (R419). key: where its page maps it; short: only sectors are lacking. -/
def bouncePiece (o : CopyOp) (n : Fin 8) (key : Option Nat) (short hw : Bool) (va : Nat) (bs : List (Byte × Bool)) (s : State) : Moved Unit :=
  let slot := bounceNext (stackOf s n)
  if bounceFull (stackOf s n) then .later s
  else
    let a := copyAcc s o
    let committed := hw || (taskOf s a.task).isNone
    let task := if committed then 0 else a.task
    let pa := if short then key.map fun k => k / 128 * 128 else none
    let e : Bounce := ⟨va / 128 * 128, o.asid, o.ptbase, committed, true, task, pa, 0,
      (List.range bs.length).map fun i => ((va + i) % 128, (bs.getD i (0, false)).1), bs.any (·.2), o.id, o.ctx, o.clock, o.bundle,
      fresh s * 2 ^ 32⟩
    let s := noteHostWrite a.task hw s
    let s := renameWaiter (.engine o.id) (ringUnit n slot) s
    let s := match key with | some k => forgetReleases task k bs.length s | none => s
    let s := addBounce n e (strikeBounce task o.asid va (key.getD (2 ^ 64 * 2 ^ 64)) bs.length (bump s))
    match pa.map (placeOf s) with
    | some (.nominal m page) => .ok (setDir s m page { dirOf s m page with bounce := true }) ()
    | _ => .ok s ()

/-- The operation has bounced off the page of va before. -/
def bouncedBefore (s : State) (o : CopyOp) (va : Nat) : Bool :=
  s.dies.toList.any fun st => st.bounce.any fun e => e.op == o.id && e.pa.isNone && e.va / 4096 == va / 4096

/-- A write of an operation whose run's version is gone has no effect, but on a host window (R281, R311); one of a replay has none (R443). -/
def writeDropped (s : State) (o : CopyOp) (va : Nat) : Bool :=
  outlived s o && (isReplay o.task || match (translate (copyAcc s o) .write va s).2 with | .ok _ hw => !hw | _ => true)

/-- The ring of the home of va, or of the issuing stack where its page is not mapped (R415), and its key. -/
def homeRing (s : State) (o : CopyOp) (va : Nat) : Fin 8 × Option Nat :=
  let key := tableKey s o.ctx.stack o.ptbase va
  match key.map (placeOf s) with
  | some (.nominal n _) => (n, key)
  | _ => (o.ctx.stack, key)

/-- k bytes that lie in one line go to global memory (R279), after what its core has not stored to them or loaded from them yet (R295
items 1 and 5, R297, R312). A range that runs past 2^56 ends the operation there as a read's does (DESIGN CHOICE; log 88). -/
def writePiece (o : CopyOp) (va : Nat) (bs : List (Byte × Bool)) (s : State) : Moved Unit :=
  if 2 ^ 56 < va + bs.length then .fails s 0x0C
  else if writeDropped s o va then .ok s ()
  else if globalAwaited s o va bs.length || loadAwaited s o va bs.length then .later s
  else
    let (n, key) := homeRing s o va
    let a := { copyAcc s o with unit := .engine o.id }
    let plain := bs.map (·.1)
    let s := meetGlobal a va bs.length (some o.id) s
    match writeGlobal a false false va plain s with
    | .ok s _ => .ok (if bs.any (·.2) then poisonPiece a va s else s) ()
    | .serviced s c v =>
      match bouncePiece o n key false false va bs s with
      | .ok t _ => .ok (if bouncedBefore s o va then t else postEngine o v c t) ()
      | r => r
    | .noSectors s _ =>
      match translate a .write va s with
      | (s, .ok _ hw) => bouncePiece o n key true hw va bs s
      | (s, _) => .later s
    | .failed s c _ => .fails s c
    | .race s v u x => .task s (raceOn o a v u x) 0x15
    | .overflow s => .task s (taskFault o.task 0x16) 0x16
    | .remote s d => if reaches s d then .ok (sendMarked (bs.any (·.2)) a d va plain s) () else .fails s 0x0C

/-- k destination bytes at an address of a space; nothing of a replay leaves for another device (R443). -/
def writeSpace (o : CopyOp) (sp a : Nat) (bs : List (Byte × Bool)) (s : State) : Moved Unit :=
  match sp with
  | 0 =>
    match localPlace o.ctx.coreNo a with
    | none => .fails s 0x06
    | some p =>
      let key := spmKey p
      if localAwaited s o.ctx.coreNo o.id key bs.length then .later s
      else .ok (meetLocal key bs.length (some o.id) (forgetReleases 0 (localWord key) bs.length (putMarked key bs s))) ()
  | 1 =>
    match winOf s o.task a with
    | none => .fails s 0x0C
    | some w =>
      if winReady s o w then
        .ok (winWrite w bs (meetWindow w.core (winName s w) w.off bs.length (fun _ => true) (some o.id) s)) ()
      else .fails s 0x0C
  | 2 => writePiece o a bs s
  | _ =>
    if a / 2 ^ 56 = s.dev.no then writePiece o (a % 2 ^ 56) bs s
    else if isReplay o.task then .ok s ()
    else if reaches s (a / 2 ^ 56) then
      .ok (if outlived s o then s else sendMarked (bs.any (·.2)) (copyAcc s o) (a / 2 ^ 56) (a % 2 ^ 56) (bs.map (·.1)) s) ()
    else .fails s 0x0C

/-! ## Shared and disturbed words (R267, R275) -/

/-- Where a byte of a space lies. -/
inductive Loc where
  | local (key : Nat) | window (core name off : Nat) | global (key : Nat) | remote (a : Nat) | nowhere
deriving DecidableEq, Repr

def inRange (a lo n : Nat) : Bool := decide (lo ≤ a) && decide (a < lo + n)

def locOf (s : State) (o : CopyOp) (sp a : Nat) : Loc :=
  let global (va : Nat) : Loc := match (translate (copyAcc s o) .read va s).2 with | .ok key _ => .global key | _ => .nowhere
  match sp with
  | 0 => match localPlace o.ctx.coreNo a with | some p => .local (spmKey p) | none => .nowhere
  | 1 => match winOf s o.task a with | some w => .window w.core (winName s w) w.off | none => .nowhere
  | 2 => global a
  | _ => if a / 2 ^ 56 = s.dev.no then global (a % 2 ^ 56) else .remote a

/-- The n bytes from address a of a space include the byte at a place, under whatever name: own and cluster form, space 2 and
the own device of space 3, two pages of one frame (R275). -/
def holdsByte (s : State) (o : CopyOp) (sp a n : Nat) (x : Loc) : Bool :=
  match x with
  | .nowhere => false
  | .remote k => sp == 3 && a / 2 ^ 56 != s.dev.no && inRange k a n
  | .local k => sp == 0 && (match locOf s o 0 a with | .local b => inRange k b n | _ => false)
  | .window core name off => sp == 1 && (match locOf s o 1 a with | .window c m b => c == core && m == name && inRange off b n | _ => false)
  | .global k =>
    (sp == 2 || (sp == 3 && a / 2 ^ 56 == s.dev.no)) && (List.range (n / 4096 + 2)).any fun i =>
      let lo := max a ((a / 4096 + i) * 4096)
      let hi := min (a + n) ((a / 4096 + i + 1) * 4096)
      decide (lo < hi) && (match locOf s o sp lo with | .global b => inRange k b (hi - lo) | _ => false)

/-- The byte at offset i of a copy is unpredictable: its source and destination ranges share it, or a write has met
the operation there (R267, R275). -/
def disturbed (s : State) (o : CopyOp) (i : Nat) : Bool :=
  let shared := (match o.kind with | .gath _ _ => false | _ => true) &&
    (holdsByte s o o.ssp o.src o.n (locOf s o o.dsp (o.dst + i)) || holdsByte s o o.dsp o.dst o.n (locOf s o o.ssp (o.src + i)))
  shared || o.spoilt.any fun e => inRange i e.1 e.2

def disturb (o : CopyOp) (i : Nat) (bs : List (Byte × Bool)) (s : State) : List (Byte × Bool) :=
  bs.zip (List.range bs.length) |>.map fun e =>
    if disturbed s o (i + e.2) then ((Config.free s.tick (2 ^ 54 + i + e.2)).truncate 8, false) else e.1

/-- Bytes that stay in the lines of both addresses. -/
def pieceLen (d x left : Nat) : Nat := min left (min (64 - d % 64) (64 - x % 64))

/-! ## Moving -/

/-- How a whole transfer stands: finished, or stopped after this many bytes. -/
abbrev Run := State × Nat × Moved Unit

/-- Copies from offset i on, a piece at a time (R275); fuel bounds the pieces. The pieces move in ascending order (DESIGN
CHOICE, log 61). -/
def runCopy (o : CopyOp) : Nat → Nat → State → Nat × Moved Unit
  | 0, i, s => (i, .ok s ())
  | fuel + 1, i, s =>
    let k := pieceLen (o.dst + i) (o.src + i) (o.n - i)
    if o.n ≤ i then (i, .ok s ())
    else
      match readSpace o o.ssp (o.src + i) k s with
      | .ok s bs =>
        match writeSpace o o.dsp (o.dst + i) (disturb o i bs s) s with
        | .ok s _ => runCopy o fuel (i + k) s
        | r => (i, r)
      | .later s => (i, .later s)
      | .waits s v c => (i, .waits s v c)
      | .fails s c => (i, .fails s c)
      | .task s f c => (i, .task s f c)

/-- One row of a gather, from byte j of its w bytes on; row index x (R277). -/
def gatherRow (o : CopyOp) (table w i x : Nat) : Nat → Nat → State → Nat × Moved Unit
  | 0, j, s => (j, .ok s ())
  | fuel + 1, j, s =>
    if w ≤ j then (j, .ok s ())
    else
      let d := o.dst + i * w + j
      let va := table + x * w + j
      let k := pieceLen d va (w - j)
      match (if x = 0xFFFFFFFF then .ok s (clean (List.replicate k 0)) else readPiece o va k s) with
      | .ok s bs =>
        match writeSpace o 0 d (disturb o (i * w + j) bs s) s with
        | .ok s _ => gatherRow o table w i x fuel (j + k) s
        | r => (j, r)
      | .later s => (j, .later s)
      | .waits s v c => (j, .waits s v c)
      | .fails s c => (j, .fails s c)
      | .task s f c => (j, .task s f c)

/-- The rows of a gather from byte p of its destination on, by the index list xs; fuel bounds the rows. They are made in
ascending order (DESIGN CHOICE, log 61). -/
def runGather (o : CopyOp) (table w : Nat) (xs : List Nat) : Nat → Nat → State → Nat × Moved Unit
  | 0, p, s => (p, .ok s ())
  | fuel + 1, p, s =>
    if o.n * w ≤ p then (p, .ok s ())
    else
      let i := p / w
      match gatherRow o table w i (xs.getD i 0) (w / 4 + 1) (p % w) s with
      | (j, .ok s _) => runGather o table w xs fuel (i * w + j) s
      | (j, r) => (i * w + j, r)

/-- The n indices of a gather from index i on (R277); a poisoned one counts as its number (log 61). -/
def readIndex (o : CopyOp) : Nat → Nat → State → Moved (List Nat)
  | 0, _, s => .ok s []
  | n + 1, i, s =>
    match readSpace o 0 (o.src + 4 * i) 4 s with
    | .ok s bs =>
      match readIndex o n (i + 1) s with
      | .ok s xs => .ok s (natOf (bs.map (·.1)) :: xs)
      | r => r
    | .later s => .later s
    | .waits s v c => .waits s v c
    | .fails s c => .fails s c
    | .task s f c => .task s f c

/-- All source bytes of a CPYX (R276). -/
def readAll (o : CopyOp) : Nat → Nat → State → Moved (List (Byte × Bool))
  | 0, _, s => .ok s []
  | fuel + 1, i, s =>
    let k := pieceLen (o.dst + i) (o.src + i) (o.n - i)
    if o.n ≤ i then .ok s []
    else
      match readSpace o o.ssp (o.src + i) k s with
      | .ok s bs =>
        match readAll o fuel (i + k) s with
        | .ok s rest => .ok s (disturb o i bs s ++ rest)
        | r => r
      | r => r

/-- All destination bytes of a CPYX, from offset i on. -/
def writeAll (o : CopyOp) (bs : List (Byte × Bool)) : Nat → Nat → State → Nat × Moved Unit
  | 0, i, s => (i, .ok s ())
  | fuel + 1, i, s =>
    let k := pieceLen (o.dst + i) (o.src + i) (o.n - i)
    if o.n ≤ i then (i, .ok s ())
    else
      match writeSpace o o.dsp (o.dst + i) ((bs.drop i).take k) s with
      | .ok s _ => writeAll o bs fuel (i + k) s
      | r => (i, r)

/-- Pieces that a transfer can need. -/
def pieces (o : CopyOp) : Nat := o.n / 4 + 1

/-- A transfer stands as its run left it (R278, R279). -/
def settleRun (clu : Nat) (o : CopyOp) (r : Nat × Moved Unit) : State :=
  let put (f : CopyOp → CopyOp) (s : State) : State := modCopy clu o.id (fun c => f { c with started := true, progress := r.1 }) s
  match r.2 with
  | .ok s _ => put (fun c => { c with moved := true }) s
  | .later s => put (fun c => c) s
  | .waits s v code => postEngine o v code (put (fun c => { c with waitsVa := some (v, code) }) s)
  | .fails s code => put (fun c => { c with moved := true, error := some code }) s
  | .task s f code => put (fun c => { c with moved := true, error := some code, quiet := true }) (f s)

/-- The tile that a copy writes is busy from its start (R280). -/
def takeTile (o : CopyOp) (w : WinAddr) (s : State) : State :=
  if 32 ≤ w.what then setTile w.core (winTile s w) (fun t => { t with engine := o.id :: t.engine.filter (· ≠ o.id) }) s else s

/-- It is busy with this copy no longer. -/
def leaveTile (o : CopyOp) (s : State) : State :=
  match (if o.dsp = 1 then winOf s o.task o.dst else none) with
  | some w =>
    if 32 ≤ w.what then
      modCore s w.core fun u => { u with tiles := u.tiles.map fun t => { t with engine := t.engine.filter (· ≠ o.id) } }
    else s
  | none => s

/-- A gather starts by reading its indices, and goes on by them (R277). -/
def startGather (clu : Nat) (o : CopyOp) (rl table : Nat) (s : State) : State :=
  match o.index with
  | some xs => settleRun clu o (runGather o table (2 ^ rl) xs (o.n + 1) o.progress s)
  | none =>
    match readIndex o o.n 0 s with
    | .ok s xs =>
      let s := modCopy clu o.id (fun c => { c with index := some xs }) s
      settleRun clu o (runGather o table (2 ^ rl) xs (o.n + 1) o.progress s)
    | .later s => settleRun clu o (0, .later s)
    | .waits s v c => settleRun clu o (0, .waits s v c)
    | .fails s c => settleRun clu o (0, .fails s c)
    | .task s f c => settleRun clu o (0, .task s f c)

/-- COPY_START: an operation whose captured ones have ended starts, or goes on after a wait (R264, R272, R275, R277). -/
def execCopyStart (s : State) : Res :=
  let clu := s.input.clu.val
  match findCopy s clu s.input.num with
  | none => .next s
  | some o =>
    if !o.deps.isEmpty || o.waitsVa.isSome || o.moved then .next s
    else if o.error.isSome then .next (modCopy clu o.id (fun c => { c with started := true, moved := true }) s)
    else
      match (if o.dsp = 1 then winOf s o.task o.dst else none) with
      | some w =>
        if winReady s o w then
          let s := takeTile o w s
          match o.kind with
          | .cpyx => .next (modCopy clu o.id (fun c => { c with started := true }) s)
          | _ => .next (settleRun clu o (runCopy o (pieces o) o.progress s))
        else .next (modCopy clu o.id (fun c => { c with started := true, moved := true, error := some 0x0C }) s)
      | none =>
        match o.kind with
        | .cpy => .next (settleRun clu o (runCopy o (pieces o) o.progress s))
        | .cpyx => .next (modCopy clu o.id (fun c => { c with started := true }) s)
        | .gath rl table => .next (startGather clu o rl table s)

/-- The words of a CPYX's source that are a whole tile, as read, agree with its checked signature (R84, R259, R276). -/
def tileAgrees (s : State) (o : CopyOp) (bs : List Byte) : Bool :=
  match (if o.ssp = 1 then winOf s o.task o.src else none) with
  | some w =>
    if 32 ≤ w.what ∧ w.off = 0 ∧ o.n = 16384 then
      let ws := wordsOf 4097 bs
      tileSig ((List.range 8).map fun g => foldWords 0 ((ws.drop (512 * g)).take 512)) ==
        tileSig ((List.range 8).map (groupSig (tileOf s w.core (winTile s w)).rows))
    else true
  | none => true

/-- A write of the operation waits in a ring for the service of its page. -/
def bouncedOff (s : State) (o : CopyOp) : Bool := s.dies.toList.any fun st => st.bounce.any fun e => e.valid && e.op == o.id && e.pa.isNone

/-- Writes of the operation stand in the rings. -/
def inRings (s : State) (o : CopyOp) : Bool := s.dies.toList.any fun st => st.bounce.any fun e => e.valid && e.op == o.id

/-- What a CPYX finds at its destination in global memory. -/
def undoOf (s : State) (o : CopyOp) : List (Nat × Bool × Option Byte) :=
  let a := copyAcc s o
  if o.dsp = 2 ∨ (o.dsp = 3 ∧ o.dst / 2 ^ 56 = s.dev.no) then
    (List.range o.n).filterMap fun i =>
      match (translate a .write (o.dst % 2 ^ 56 + i) s).2 with
      | .ok key hw =>
        if hw || (taskOf s a.task).isNone then some (key, true, some (s.mem.read key))
        else some (key, false, (taskOf s a.task).bind fun t => Tbl.get? t.version key)
      | _ => none
  else []

/-- A CPYX that ends in error writes nothing: what it found stands again (R278). -/
def undoCopy (o : CopyOp) (s : State) : State :=
  let s := o.undo.foldl (fun s e =>
    if e.2.1 then { s with mem := s.mem.write e.1 (e.2.2.getD 0) }
    else modTask s o.task fun t =>
      { t with version := match e.2.2 with | some b => Tbl.set t.version e.1 b | none => Tbl.erase t.version e.1 }) s
  (o.undo.map fun e => e.1 / 4096 * 4096).eraseDups.foldl recomputeKey s

/-- The place that the operation has taken among the writes which wait for sectors (R419). -/
def keepPlace (o : CopyOp) (t s : State) : State :=
  (List.finRange 8).foldl (fun s n =>
    if (stackOf t n).sump.waiting.contains (.engine o.id) && !(stackOf s n).sump.waiting.contains (.engine o.id) then
      kickSump (modStack s n fun st => { st with sump := { st.sump with waiting := st.sump.waiting ++ [.engine o.id] } }) n
    else s) s

/-- A CPYX whose writes stand in the rings may still end in error: it keeps what it has found, and its words for other devices stay
here until then (R278). -/
def holdBack (clu : Nat) (o : CopyOp) (s t : State) : State :=
  if inRings t o then
    let sent := (t.dev.outreqs.drop s.dev.outreqs.length).map fun r => (r.dev, r.va, r.bytes, r.bad)
    modCopy clu o.id (fun c => { c with undo := undoOf s o, unsent := sent })
      (modDev t fun d => { d with outreqs := s.dev.outreqs, outseq := s.dev.outseq })
  else t

/-- The words that match are written: every one, or none (R276, R278). -/
def writeHeld (clu : Nat) (o : CopyOp) (bs : List (Byte × Bool)) (s : State) : State :=
  let kept (s : State) : State := modCopy clu o.id (fun c => { c with held := some bs }) s
  match writeAll o bs (pieces o) 0 s with
  | (_, .ok t _) => settleRun clu o (o.n, .ok (holdBack clu o s t) ())
  | (_, .later t) => kept (keepPlace o t s)
  | (_, .waits _ v c) => settleRun clu o (0, .waits (kept s) v c)
  | (_, .fails _ c) => settleRun clu o (0, .fails s c)
  | (_, .task _ f c) => settleRun clu o (0, .task s f c)

/-- CPYX_ATTEMPT (R276): bytes, where given, are the words as they arrived; good = false says that a fault has reached the
words or their fold, or the tile's. -/
def execCpyxAttempt (s : State) : Res :=
  let input := s.input
  let clu := input.clu.val
  match findCopy s clu input.num with
  | none => .next s
  | some o =>
    if !o.started || o.moved || o.waitsVa.isSome || o.kind != .cpyx then .next s
    else
      match o.held with
      | some bs => .next (writeHeld clu o bs s)
      | none =>
        match readAll o (pieces o) 0 s with
        | .ok s bs =>
          let sent := bs.map (·.1)
          let arrived := input.bytes.getD sent
          if input.good && tileAgrees s o sent && arrived.length == sent.length && sigBytes arrived == sigBytes sent then
            .next (writeHeld clu o (arrived.zip (bs.map (·.2))) s)
          else
            let s := countWork o.ctx o.bundle [12] s
            if 4 ≤ o.attempts then .next (modCopy clu o.id (fun c => { c with attempts := 5, moved := true, error := some 0x17 }) s)
            else .next (modCopy clu o.id (fun c => { c with attempts := c.attempts + 1 }) s)
        | .later s => .next s
        | .waits s v code => .next (settleRun clu o (0, .waits s v code))
        | .fails s code => .next (settleRun clu o (0, .fails s code))
        | .task s f code => .next (settleRun clu o (0, .task s f code))

/-! ## The end (R269, R270, R278) -/

/-- How an arrival at a completion barrier ends: made at a key; waiting for service, for sectors or for earlier accesses; or not to
be made. -/
inductive Arrived where
  | ok (s : State) (key : Nat)
  | waits (s : State) (code : BitVec 8)
  | later (s : State)
  | denied (s : State) (code : BitVec 8)

/-- A barrier word after an arrival (R268, R269). -/
def arrivedWord (error : Bool) (w : Nat) : Nat :=
  let count := min 0x7FFFFFFF (w % 2 ^ 31 + 1)
  let err := if error then 2 ^ 31 else w / 2 ^ 31 % 2 * 2 ^ 31
  w / 2 ^ 32 * 2 ^ 32 + err + count

/-- Writes of the operation to other devices are not acknowledged yet (R269). -/
def unacknowledged (s : State) (o : CopyOp) : Bool := s.dev.outreqs.any fun r => r.who == o.ctx && r.bundle == o.bundle

/-- The indivisible update of the barrier word, never undone (R269); it meets the other operations in flight (R267). It comes after the operation's writes, and after the earlier
writes of its core to that word (R295 items 1 and 5). That of a replay is suppressed (R443). -/
def arrival (o : CopyOp) (va : Nat) (s : State) : Arrived :=
  let a := copyAcc s o
  if isReplay o.task then .ok s (2 ^ 80 + va)
  else if globalAwaited s o va 8 || unacknowledged s o then .later s
  else
  match homeRmw a .write va 8 (fun w => some (arrivedWord o.error.isSome w)) s with
  | .ok s (_, key) =>
    .ok (meetGlobal a va 8 (some o.id) (noteHostWrite a.task (match (translate a .write va s).2 with | .ok _ hw => hw | _ => false) s)) key
  | .serviced s c _ => .waits s c
  | .noSectors s _ => .waits s 0x19
  | .failed s c _ => .denied s c
  | .race s _ _ _ => .denied s 0x15
  | .overflow s => .denied s 0x16
  | .remote s d => if reaches s d then .ok (sendRemote a d va [] s) (keyOf a va s) else .denied s 0x0C

/-- The operation is over: record, token, captors with its error, and the fault of its context (R264, R270, R278). report: the
cause of an arrival that is not made. -/
def finishCopy (clu : Nat) (o : CopyOp) (arrivedAt : Option Nat) (report : Option (BitVec 8)) (s : State) : State :=
  let kind := match o.kind with | .cpy => 0 | .cpyx => 1 | .gath _ _ => 2
  let error := report.orElse fun _ => o.error
  let s := if o.evrec then postRecord s clu ⟨o.bundle, o.task, o.ctx.cluster, o.ctx.who, kind, error.getD 0, 0⟩ else s
  let s := leaveTile o s
  let s := match (if o.dsp = 1 then winOf s o.task o.dst else none) with
    | some w =>
      let close (v : Window) : Window := { v with ended := true, key := arrivedAt }
      modCtx s (winCtx w) fun x => { x with windows := x.windows.map fun v => if v.id = o.id then close v else v }
    | none => s
  let s := modCluster s clu fun u =>
    { u with copies := u.copies.filter fun c => c.id ≠ o.id, gathers := u.gathers.filter fun c => c.id ≠ o.id }
  let s := dropWaiters (.arrival o.id) (dropWaiters (.engine o.id) s)
  let s := endOp o.ctx o.id error o.clock (clearTok o.ctx o.tok o.id o.clock s)
  match error with
  | some c => if arrivedAt.isSome || (o.quiet && report.isNone) then s else engineFault o.ctx c o.bundle s
  | none => s

/-- Part [lo, lo + n) of a destination gets free bytes; a window by its words, those of which only a part is concerned keeping the
rest. A page that awaits service is left to what has bounced off it. -/
def spoilPart (o : CopyOp) (lo n : Nat) (s : State) : State :=
  let o := { o with spoilt := [] }
  let free (i : Nat) : Byte × Bool := ((Config.free s.tick (2 ^ 55 + i)).truncate 8, false)
  let put (i : Nat) (bs : List (Byte × Bool)) (s : State) : State := match writeSpace o o.dsp (o.dst + i) bs s with | .ok s _ => s | _ => s
  let mapped (i : Nat) : Bool := o.error.isNone || o.dsp < 2 || (match (translate (copyAcc s o) .write ((o.dst + i) % 2 ^ 56) s).2 with | .ok _ _ => true | _ => false)
  match (if o.dsp = 1 then winOf s o.task (o.dst + lo / 4 * 4) else none) with
  | some w =>
    let from_ := lo / 4 * 4
    let len := (lo + n + 3) / 4 * 4 - from_
    let old := winRead s w len
    put from_ ((List.range len).map fun j => if lo ≤ from_ + j ∧ from_ + j < lo + n then free (from_ + j) else old.getD j (0, false)) s
  | none => (List.range n).foldl (fun s j => if mapped (lo + j) then put (lo + j) [free (lo + j)] s else s) s

/-- Bytes that a write met during the operation are unpredictable at its destination (R267). -/
def spoilDest (o : CopyOp) (s : State) : State := o.spoilt.foldl (fun s e => spoilPart o e.1 e.2 s) s

/-- The operation arrives at its barrier (R269, R270, R278). -/
def arriveCopy (clu : Nat) (o : CopyOp) (va : Nat) (s : State) : State :=
  match arrival o va s with
  | .ok s key =>
    let k := clockJoin ((clockAt s (arrivalKey key)).getD []) o.clock
    finishCopy clu o (some key) none (noteClock (arrivalKey key) o.ctx k s)
  | .waits s code =>
    let s := modCopy clu o.id (fun c => { c with waitsVa := some (va, code), spoilt := [] }) s
    if code = 0x19 then s else postEngine o va code s
  | .later s => modCopy clu o.id (fun c => { c with spoilt := [] }) s
  | .denied s code => finishCopy clu o none (some code) s

/-- COPY_ARRIVAL: the operation ends (R269, R270, R278), once what a CPYX has held back for other devices has left. -/
def execCopyArrival (s : State) : Res :=
  let clu := s.input.clu.val
  match findCopy s clu s.input.num with
  | none => .next s
  | some o =>
    if !o.moved || o.waitsVa.isSome then .next s
    else if !o.unsent.isEmpty then
      .next (if inRings s o then s else
        let s := modCopy clu o.id (fun c => { c with unsent := [] }) s
        if outlived s o then s else o.unsent.foldl (fun s e => sendMarked e.2.2.2 (copyAcc s o) e.1 e.2.1 e.2.2.1 s) s)
    else
      let s := spoilDest o s
      match o.cb with
      | none => .next (finishCopy clu o none none s)
      | some va => .next (arriveCopy clu o va s)

/-- The writes of an operation that wait for the service of their page are not made; of a CPYX none is (R278). -/
def dropBounced (o : CopyOp) (s : State) : State :=
  let gone (e : Bounce) : Bool := e.op == o.id && (e.pa.isNone || o.kind == .cpyx)
  undoCopy o ((List.finRange 8).foldl (fun s n => mapBounce n (fun e => if gone e then { e with valid := false } else e) s) s)

/-- The supervisor declines what the operation waits for, or a page that its writes have bounced off: it ends in error; an
arrival that waits is not made (R269, R278, R413). -/
def declineCopy (clu : Nat) (o : CopyOp) (s : State) : State :=
  let fail (code : BitVec 8) (s : State) : State :=
    modCopy clu o.id (fun c => { c with waitsVa := none, moved := true, error := some code, undo := [], unsent := [] }) s
  match o.waitsVa with
  | some _ => if o.moved then finishCopy clu { o with waitsVa := none } none (some 0x0B) s else fail 0x0A s
  | none => if o.error.isNone && bouncedOff s o then fail 0x0B (dropBounced o s) else s

/-- An engine write that is made from a ring ends its operation with a fault: at task level (quiet), or at its context; of a CPYX no
other write stands (R278). -/
def failOp (c : CtxId) (id : Nat) (quiet : Bool) (code : BitVec 8) (s : State) : State :=
  let s := match findCopy s c.cluster id with
    | some o => if o.kind == .cpyx then dropBounced o s else s
    | none => s
  modCopy c.cluster id (fun o => { o with
    waitsVa := none, moved := true, error := some (o.error.getD code), quiet := o.quiet || quiet, undo := [], unsent := [] }) s

/-- EVENT_RECORD_POST: the oldest record that waits enters the event queue when it has room (R270); it makes the
control core's interrupt pending (R361). Those of a replay are suppressed (R443). -/
def execEventRecordPost (s : State) : Res :=
  let clu := s.input.clu.val
  match (clusterOf s clu).posting with
  | [] => .next s
  | r :: rest =>
    if isReplay r.task then .next (modCluster s clu fun u => { u with posting := rest })
    else if (clusterOf s clu).events ≠ [] ∧ Config.eventQueueDepth ≤ (clusterOf s clu).events.length then .next s
    else .next (modCluster s clu fun u => { u with posting := rest, events := u.events ++ [r] })

end Sys2Proof.Machine
end

