-- ==== Sys2Proof/Machine/Retry.lean ====
section
/-! DEFINITION. Retries: what a TLBINV lets go on (R413), bounce entries applied (R415), waiting writes served and
reported when sectors are short (R419, R424, R426), and the device steps of Sump (R422–R425). -/

namespace Sys2Proof.Machine

/-! ## Bounce entries applied (R415) -/

/-- Who an entry acts for: the engine operation that wrote it (R307). -/
def bounceAcc (s : State) (n : Fin 8) (e : Bounce) : Acc :=
  { who := e.who, agent := engineAgent e.op, clock := e.clock, task := if e.committed then 0 else e.task, asid := e.asid
    ptbase := e.ptbase, user := true, bundle := e.bundle, unit := ringUnit n e.slot, run := runOf s e.task }

/-- Runs of an entry's bytes, each inside one line of 64. -/
def bounceRuns (e : Bounce) : List (Nat × List Byte) :=
  runsOf (e.bytes.filter fun b => b.1 < 64) ++ runsOf (e.bytes.filter fun b => 64 ≤ b.1)

def dropEntry (n : Fin 8) (e : Bounce) (s : State) : State :=
  mapBounce n (fun x => if x.slot = e.slot then { x with valid := false } else x) s

/-- The bytes of an entry in committed memory or in its version. -/
def putEntry (a : Acc) (plain : Bool) (block : Nat) (e : Bounce) (s : State) : State :=
  (bounceRuns e).foldl (fun s r =>
    let l := (block + r.1) / 64
    if plain then
      let s := committedStore (block + r.1) r.2 s
      if e.bad && !s.poison.contains l then { s with poison := s.poison ++ [l] } else s
    else
      let s := versionStore a (block + r.1) (e.va + r.1) r.2 s
      if e.bad then modTask s a.task fun t => { t with vpoison := if t.vpoison.contains l then t.vpoison else t.vpoison ++ [l] } else s) s

/-- No L1G keeps a copy of a line that an applied entry changes (R181). -/
def forgetBlock (block : Nat) (s : State) : State :=
  { s with clusters := s.clusters.map fun c => (c.1, { c.2 with l1g := Tbl.erase (Tbl.erase c.2.l1g (block / 64)) (block / 64 + 1) }) }

/-- A race that an entry's bytes meet as they reach their lines (R307, R308). -/
def entryRace (a : Acc) (block : Nat) (e : Bounce) (s : State) : Option (Nat × Nat × Touch) :=
  (bounceRuns e).findSome? fun r => (raceOf s a ((block + r.1) / 64) true).map fun x => (e.va + r.1, x)

/-- The lines that an entry writes take part in later races (R307). -/
def touchEntry (a : Acc) (block : Nat) (e : Bounce) (s : State) : State :=
  (bounceRuns e).foldl (fun (s : State) (r : Nat × List Byte) => touch s a ((block + r.1) / 64) true false) s

/-- Applies one entry; one that cannot be applied yet stays in the ring, and one whose page denies the write leaves it (R278). -/
def applyEntry (n : Fin 8) (e : Bounce) (s : State) : State :=
  let a := bounceAcc s n e
  match translate a .write e.va s with
  | (s, .ok key hw) =>
    let block := key / 128 * 128
    let plain := e.committed || hw || (taskOf s e.task).isNone
    let full := match taskOf s e.task with
      | some t => !plain && decide (t.record.budget < t.lines.length + ((bounceRuns e).filter fun (r : Nat × List Byte) => (Tbl.get? t.lines ((block + r.1) / 64)).isNone).length)
      | none => false
    match (if plain then none else entryRace a block e s) with
    | some (va, u, x) => taskFault e.task 0x15 (raceRecord a va u x (failOp e.who e.op true 0x15 (dropEntry n e s)))
    | none =>
    if full then taskFault e.task 0x16 (failOp e.who e.op true 0x16 (dropEntry n e s))
    else
      let s := if plain then s else touchEntry a block e s
      let w := forgetBlock block (putEntry a plain block e s)
      match placeOf s key with
      | .nominal m page =>
        match expandFor a.unit m page s w with
        | .ok w =>
          recompute (dropEntry n e w) m page
        | .error s =>
          let s := mapBounce n (fun x => if x.slot = e.slot then { x with pa := some block } else x) s
          if (dirOf s m page).bounce then s else setDir s m page { dirOf s m page with bounce := true }
      | .remote d =>
        dropEntry n e (if plain then (bounceRuns e).foldl (fun (s : State) (r : Nat × List Byte) => sendMarked e.bad a d (e.va + r.1) r.2 s) s else w)
      | _ => dropEntry n e w
  | (s, .prot) => failOp e.who e.op false 0x0C (dropEntry n e s)
  | (s, .poison) => failOp e.who e.op false 0x0D (dropEntry n e s)
  | (s, _) => s

/-- Applies, in ring order, the entries of a ring that f names. -/
def applyEntries (n : Fin 8) (f : Bounce → Bool) (s : State) : State :=
  ((stackOf s n).bounce.filter f).foldl (fun s e => applyEntry n e s) s

/-! ## Waiting writes (R419, R424, R426) -/

/-- The engine operation of a number, with its cluster. -/
def opOf (s : State) (id : Nat) : Option (Nat × CopyOp) :=
  s.clusters.findSome? fun e => ((e.2.copies ++ e.2.gathers).find? fun o => o.id = id).map fun o => (e.1, o)

/-- The entry that a slot of a ring holds, where it waits for sectors. -/
def shortEntry (s : State) (n : Fin 8) (slot : Nat) : Option Bounce :=
  (stackOf s n).bounce.find? fun e => e.valid && e.slot == slot && e.pa.isSome

/-- A system-profile context of a core stalls: it makes its write itself, when its turn has come. -/
def sysStalls (s : State) (core : Nat) : Bool := (allCtx s).any fun e => e.1.isSys && e.1.coreNo == core && e.2.run == .stalled

/-! ## Physical memory of the device (R455, R456, R478) -/

/-- A unit writes bytes that lie in one line at a physical address, over what committed entries of the rings hold there (R415); else the
state in which it waits for sectors (R419). -/
def physLine (unit : Waiter) (pa : Nat) (bs : List Byte) (s : State) : Except State State :=
  match placeOf s pa with
  | .nominal n page => (expandFor unit n page s (committedStore pa bs (strikeAt pa bs.length s))).map fun w => recompute w n page
  | .raw _ _ => .ok (committedStore pa bs (strikeAt pa bs.length s))
  | .sump n off => .ok (sumpStore n off bs s)
  | _ => .ok s

/-- Writes bytes at a physical address; fuel bounds the lines. -/
def physWrite (unit : Waiter) : Nat → Nat → List Byte → State → Except State State
  | 0, _, _, s => .ok s
  | fuel + 1, pa, bs, s =>
    let k := min bs.length (lineLeft pa)
    if k = 0 then .ok s
    else match physLine unit pa (bs.take k) s with
      | .ok s => physWrite unit fuel (pa + k) (bs.drop k) s
      | .error s => .error s

def physPut (unit : Waiter) (pa : Nat) (bs : List Byte) (s : State) : Except State State := physWrite unit (bs.length / 64 + 2) pa bs s

/-- Committed bytes at a physical address, as the rings leave them (R415). -/
def physRead (s : State) (pa n : Nat) : List Byte :=
  (List.range n).map fun i =>
    if ringsEmpty s then homeByte s (pa + i)
    else match placeOf s (pa + i) with
      | .sump _ _ => homeByte s (pa + i)
      | _ => (ringOr s (ringEntryAt s) (pa + i)).1

/-- The home of each line of n bytes at a physical address is reached from a stack (R472). -/
def physOpen (s : State) (from_ : Fin 8) (pa n : Nat) : Bool :=
  (List.range ((pa % 64 + n + 63) / 64)).all fun i => homeOpen s from_ (placeOf s (pa / 64 * 64 + 64 * i))

/-- A line of n bytes at a physical address is poisoned (R430). -/
def physPoisoned (s : State) (pa n : Nat) : Bool :=
  (List.range ((pa % 64 + n + 63) / 64)).any fun i => s.poison.contains (pa / 64 + i)

/-- A party that translates through the tables of a launch and acts for no task, on the routes of who (R472). -/
def deviceAcc (who : CtxId) (pt : Word) (asid : BitVec 16) (unit : Waiter) : Acc :=
  { who := who, agent := 0, clock := [], task := 0, asid := asid, ptbase := pt, user := false, bundle := 0, unit := unit }

/-- Committed bytes that the device itself writes through tables (R384, R422), or a host at a physical address. -/
def deviceTry (w : Owed) (s : State) : Perf Unit :=
  if w.direct then
    if physOpen s w.who.stack w.va w.bytes.length then
      match physPut (.device w.id) w.va w.bytes s with | .ok s => .ok s () | .error s => .noSectors s w.va
    else .failed s 0x0C w.va
  else writeGlobal (deviceAcc w.who w.ptbase w.asid (.device w.id)) true true w.va w.bytes s

/-- Two writes of the device meet on a page, so the later one waits behind the earlier (R419). -/
def owedMeets (v w : Owed) : Bool :=
  v.direct == w.direct && decide (v.va / 4096 ≤ (w.va + w.bytes.length) / 4096) && decide (w.va / 4096 ≤ (v.va + v.bytes.length) / 4096)

/-- A write of the device waits behind an earlier one: it takes its place among the writes of its stack (R419). -/
def joinQueue (w : Owed) (s : State) : State :=
  let key := if w.direct then w.va else keyOf (deviceAcc w.who w.ptbase w.asid (.device w.id)) w.va s
  match placeOf s key with
  | .nominal n _ => kickSump (modStack s n fun st => { st with sump := { st.sump with waiting := st.sump.waiting ++ [.device w.id] } }) n
  | _ => s

/-- The device writes bytes into unversioned memory. A write that finds no sectors waits, and one whose page is not mapped or ballooned
waits for its service, without a report (DESIGN CHOICE: R411 names no cluster for it; log 89); one that its page denies is not made. -/
def deviceWrite (use : OwedFor) (who : CtxId) (direct : Bool) (pt : Word) (asid : BitVec 16) (va : Nat) (bs : List Byte) (s : State) : State :=
  let w : Owed := ⟨fresh s, who, use, direct, pt, asid, va, bs⟩
  let owe (s : State) : State := modDev (bump s) fun d => { d with owed := d.owed ++ [w] }
  if s.dev.owed.any fun v => owedMeets v w then owe (joinQueue w s)
  else
    match deviceTry w s with
    | .noSectors s _ => owe s
    | .serviced s _ _ => owe s
    | .remote s d => sendRemote (deviceAcc who pt asid (.device w.id)) d va bs s
    | .ok s _ => s
    | .failed s _ _ => s
    | .race s _ _ _ => s
    | .overflow s => s

/-- Owed writes that f names are tried again, in order, and those that have waited behind them; none goes ahead of an earlier one to its
page. kept: those that go on waiting; made: those made now. -/
def tryOwed (f : Owed → Bool) : List Owed → List Owed → List Owed → State → State
  | [], kept, _, s => modDev s fun d => { d with owed := kept }
  | w :: rest, kept, made, s =>
    if (kept.any fun v => owedMeets v w) || !(f w || made.any fun v => owedMeets v w) then tryOwed f rest (kept ++ [w]) made s
    else
      match deviceTry w s with
      | .noSectors s _ => tryOwed f rest (kept ++ [w]) made s
      | .serviced s _ _ => tryOwed f rest (kept ++ [w]) made s
      | .remote s d => tryOwed f rest kept (made ++ [w]) (sendRemote (deviceAcc w.who w.ptbase w.asid (.device w.id)) d w.va w.bytes s)
      | .ok s _ => tryOwed f rest kept (made ++ [w]) s
      | .failed s _ _ => tryOwed f rest kept (made ++ [w]) s
      | .race s _ _ _ => tryOwed f rest kept (made ++ [w]) s
      | .overflow s => tryOwed f rest kept (made ++ [w]) s

def retryOwed (f : Owed → Bool) (s : State) : State := if s.dev.owed.isEmpty then s else tryOwed f s.dev.owed [] [] s

/-- A write that belongs to this is still owed. -/
def owes (s : State) (use : OwedFor) : Bool := s.dev.owed.any fun w => w.use == use

/-- An arrival that waits for sectors is tried again (R269, R419). -/
def retryArrival (g : Nat) (o : CopyOp) (s : State) : State :=
  match o.cb with
  | some va => arriveCopy g o va (modCopy g o.id (fun c => { c with waitsVa := none }) s)
  | none => s

/-- The unit still waits for sectors. -/
def stillWaits (s : State) (u : Waiter) : Bool :=
  match u with
  | .log core => (coreOf s core).sidelog.head?.any fun e => e.waits == some 0x19
  | .unit core => (coreOf s core).held.any (fun h => h.cause == 0x19) || sysStalls s core
  | .ring n slot => (shortEntry s n slot).isSome
  | .engine id => (opOf s id).any fun e => !e.2.moved
  | .arrival id => (opOf s id).any fun e => e.2.waitsVa.any fun w => w.2 == 0x19
  | .device id => s.dev.owed.any fun w => w.id == id

/-- The unit tries again; an engine operation that a full ring keeps out, and a system core, do so in their own step. -/
def retryUnit (u : Waiter) (s : State) : State :=
  match u with
  | .log core => replayHead core s
  | .unit core => releaseUnit core s
  | .ring n slot => match shortEntry s n slot with | some e => applyEntry n e s | none => s
  | .engine _ => s
  | .arrival id => match opOf s id with | some (g, o) => retryArrival g o s | none => s
  | .device id => retryOwed (fun w => w.id == id) s

/-- The waiting writes of a stack in arrival order, up to the first that still cannot be made; fuel bounds them. A unit that goes on to
wait with its next write has a place behind the others, and keeps it (R419). -/
def serve (n : Fin 8) : Nat → State → State
  | 0, s => s
  | fuel + 1, s =>
    match (stackOf s n).sump.waiting with
    | [] => s
    | u :: _ =>
      let s := if stillWaits s u then retryUnit u s else s
      if !stillWaits s u then serve n fuel (dropWaiter u s n)
      else if (stackOf s n).sump.waiting.head? == some u then s
      else serve n fuel s

def serveStack (s : State) (n : Fin 8) : State := serve n (64 * (stackOf s n).sump.waiting.length) s

def serveAll (s : State) : State := (List.finRange 8).foldl serveStack s

/-- A waiting write is reported as out of space, one of an engine to the cluster of the operation, once for each page that it meets
(R411, R426). -/
def tellShort (n : Fin 8) (u : Waiter) (s : State) : State :=
  let s := modStack s n fun st => { st with sump := { st.sump with told := st.sump.told ++ [u] } }
  match u with
  | .log core =>
    match (coreOf s core).sidelog with
    | e :: _ => report e.ctx 0x19 (match e.op with | .store => (e.bytes.headD (e.block, 0)).1 | .reduce _ addr _ _ => addr) e.bundle s
    | [] => s
  | .unit core =>
    match (coreOf s core).held with
    | some h => report h.who 0x19 h.va h.bundle s
    | none => s
  | .engine _ => s
  | .ring m slot =>
    match shortEntry s m slot with
    | some e =>
      let before := ((stackOf s n).sump.told.filter (· ≠ u)).any fun v => match v with
        | .ring k i => (shortEntry s k i).any fun x => x.op == e.op && x.pa.map (· / 4096) == e.pa.map (· / 4096)
        | _ => false
      if before then s
      else postRecord s e.who.cluster ⟨BitVec.ofNat 64 (e.va + (e.bytes.headD (0, 0)).1), if e.task = 0 then (getCtx s e.who).task else e.task, e.who.cluster, e.who.who, 11, 0x19, 0⟩
    | none => s
  | .arrival id => match opOf s id with | some (_, o) => postEngine o (o.cb.getD 0) 0x19 s | none => s
  | .device _ => s

/-- SUMP_INFLATION: the next balloon-list entry is consumed and the waiting writes retry; with the list empty and the
pool short, the waiting writes are out of space (R424, R426). -/
def execSumpInflation (s : State) : Res :=
  let n := s.input.die
  if inflates (stackOf s n) then .next (serveStack (inflateOne s n) n)
  else
    let s := serveStack s n
    let st := stackOf s n
    match st.sump.waiting.find? fun u => !st.sump.told.contains u with
    | some u =>
      if listEmpty st.sump then
        .next (tellShort n u (modStack s n fun st => { st with sump := { st.sump with oos := true } }))
      else .next s
    | none => .next (if st.sump.waiting.isEmpty then modStack s n fun st => { st with sump := { st.sump with inflating := false } } else s)

/-- SUMP_CTL.EN goes 0 → 1 (R422). -/
def execSumpCtlEn (s : State) : Res :=
  if (stackOf s s.input.die).sump.en then .next s else .next (sumpEnable s s.input.die)

/-- SUMP_CTL.RETRY: every write that waits for sectors retries (R413, R422), but on a frozen device (R469). -/
def execSumpCtlRetry (s : State) : Res :=
  let n := s.input.die
  if s.dev.frozen then .next s else
  .next (serveStack (modStack s n fun st => { st with sump := { st.sump with told := [] } }) n)

/-- A new TAIL of the balloon list (R423, R424). -/
def execSumpLptrTail (s : State) : Res := .next (sumpTail s s.input.die s.input.num)

/-- A write of a page address to SUMP_DEFL (R425). -/
def execSumpDefl (s : State) : Res := .next (deflate s s.input.die s.input.num)

/-- A 1 written to SUMP_STAT.OOS (R422). -/
def execSumpStatOosClear (s : State) : Res := .next (sumpClearOos s s.input.die)

/-! ## Retries after a TLBINV (R413) -/

/-- The service covers an address that is awaited: f asid ptbase va. -/
abbrev Covers := BitVec 16 → Word → Nat → Bool

/-- Held units that f covers make their access again. -/
def retryHeld (f : Covers) (s : State) : State :=
  s.cores.foldl (fun s e =>
    match (coreOf s e.1).held with
    | some h => if f h.asid h.ptbase h.va then releaseUnit e.1 s else s
    | none => s) s

/-- Side-log heads that f covers replay again. -/
def retryLogs (f : Covers) (s : State) : State :=
  s.cores.foldl (fun s e =>
    match (coreOf s e.1).sidelog with
    | h :: rest =>
      if h.waits.isSome && f h.asid h.ptbase h.block then modCore s e.1 fun c => { c with sidelog := { h with waits := none } :: rest } else s
    | [] => s) s

/-- Engine accesses that f covers go on, and the bounce entries of the pages are applied. -/
def retryEngines (f : Covers) (s : State) : State :=
  let go (o : CopyOp) : CopyOp := if o.waitsVa.any fun w => f o.asid o.ptbase w.1 then { o with waitsVa := none } else o
  let s := { s with clusters := s.clusters.map fun c => (c.1, { c.2 with copies := c.2.copies.map go, gathers := c.2.gathers.map go }) }
  (List.finRange 8).foldl (fun s n => applyEntries n (fun e => e.valid && f e.asid e.ptbase e.va) s) s

/-- On a frozen device nothing replays and nothing is applied (R469). -/
def retryCovered (f : Covers) (s : State) : State :=
  if s.dev.frozen then s
  else retryOwed (fun w => !w.direct && (List.range (w.bytes.length / 4096 + 2)).any fun i => f w.asid w.ptbase (w.va + 4096 * i))
    (retryEngines f (retryLogs f (retryHeld f s)))

end Sys2Proof.Machine
end

