-- ==== Sys2Proof/Machine/Tasks.lean ====
section
/-! DEFINITION. Tasks (R25, R370–R392): records and their checks, queues, placement and dispatch, completion, commit and
abort and job control blocks. The Echo auditor stands in Audit. -/

namespace Sys2Proof.Machine

/-! ## Privilege (R351, R356) -/

/-- The cores that the last column of R355 names. -/
inductive Runs where
  | control | system | both
deriving DecidableEq, Repr

/-- Supervisor mode on a core that the instruction runs on, else privileged operation (R356). -/
def needPriv (r : Runs) (s : State) (k : State → Res) : Res :=
  let fits := match s.who, r with
    | .user _ _, _ => false
    | .ctl _, .system => false
    | .sys _ _, .control => false
    | _, _ => true
  if fits && supervisor s.ctx then k s else privileged s

/-! ## Access to global memory by a system-profile context -/

/-- A read of the issuing system-profile context: faults go to its own handler (R360, R371). -/
def sysRead (va n : Nat) (s : State) (k : State → List Byte → Res) : Res :=
  match readGlobal (accOf s s.who) false true va n s with
  | .ok s bs => k s bs
  | .serviced s c v => sysFault c v s
  | .noSectors s v => sysFault 0x19 v s
  | .failed s c v => sysFault c v s
  | .race s v _ _ => sysFault 0x15 v s
  | .overflow s => sysFault 0x16 0 s
  | .remote s _ => k s ((List.range n).map fun i => (Config.free s.tick (2 ^ 53 + va + i)).truncate 8)

/-! ## Identifiers and keys (R370, R376) -/

/-- i precedes j in serial order (R370). -/
def precedes (i j : Nat) : Bool :=
  let d := (j + 2 ^ 32 - i % 2 ^ 32) % 2 ^ 32
  decide (1 ≤ d) && decide (d < 2 ^ 31)

/-- The order of the key (TS, identifier) (R376). -/
def keyLt (t u : Task) : Bool := decide (t.record.ts < u.record.ts) || (t.record.ts == u.record.ts && precedes t.id u.id)

/-- The earliest known identifier. -/
def earliestTask (s : State) : Option Nat :=
  (s.tasks.filter fun t => !isReplay t.id).foldl (fun e t => match e with
    | none => some t.id
    | some i => if precedes t.id i then some t.id else some i) none

/-- The stack whose queue takes a task (R376). -/
def queueStack (t : Task) : Nat := lowestBit t.record.mask / 12

def queuedOn (s : State) (n : Nat) : List Task := s.tasks.filter fun t => t.phase == .queued && queueStack t == n

def popcount (x : Nat) : Nat := ((List.range 96).filter fun i => x.testBit i).length

def bitsOf (x : Nat) : List Nat := (List.range 96).filter fun i => x.testBit i

/-! ## The task record (R372–R374) -/

def slotRec (bs : List Byte) (i : Nat) : SlotRec :=
  let o := 512 + 32 * i
  ⟨BitVec.ofNat 64 (imgNat bs o 8), imgNat bs (o + 8) 1, 0, imgNat bs (o + 12) 4, 0, imgNat bs (o + 24) 8⟩

def recordOf (bs : List Byte) : TaskRec :=
  { flags := BitVec.ofNat 8 (imgNat bs 2 1), pri := imgNat bs 3 1, launch := imgNat bs 4 4, ts := imgNat bs 8 8, mask := imgNat bs 16 12
    pol := BitVec.ofNat 8 (imgNat bs 28 1), vcnt := imgNat bs 29 1, asid := BitVec.ofNat 16 (imgNat bs 30 2), image := imgNat bs 32 8
    argb := BitVec.ofNat 64 (imgNat bs 40 8), jcb := imgNat bs 48 8, budget := imgNat bs 56 8
    args := (List.range 8).map fun i => BitVec.ofNat 64 (imgNat bs (64 + 8 * i) 8), seed := BitVec.ofNat 64 (imgNat bs 128 8)
    preds := (List.range 4).map fun i => imgNat bs (136 + 4 * i) 4, cgrp := imgNat bs 168 4, slots := (List.range 16).map (slotRec bs) }

def isOrd (r : TaskRec) : Bool := r.flags.getLsbD 0
def isReloc (r : TaskRec) : Bool := r.flags.getLsbD 1
def isSeedD (r : TaskRec) : Bool := r.flags.getLsbD 2

def usedSlots (r : TaskRec) : List (Nat × SlotRec) := ((List.range r.slots.length).zip r.slots).filter fun e => e.2.entry ≠ 0

/-- Reserved and device fields are 0 (R374). -/
def recordZero (bs : List Byte) : Bool :=
  imgNat bs 2 1 / 8 == 0 && imgNat bs 28 1 / 64 == 0 && imgNat bs 152 16 == 0 && imgNat bs 172 340 == 0 &&
    (List.range 16).all fun i =>
      imgNat bs (512 + 32 * i + 9) 3 == 0 && imgNat bs (512 + 32 * i + 16) 8 == 0

def stackFenced (s : State) (clu : Nat) : Bool := (stackOf s (Fin.ofNat 8 (clu / 12))).fenced

/-- The refusals of R374. -/
def recordRefused (s : State) (img : Option Image) (addr : Nat) (bs : List Byte) (r : TaskRec) : Bool :=
  let used := usedSlots r
  let perCore (c : Nat) (f : SlotRec → Nat) : Nat := ((used.filter fun e => e.1 / 4 = c).map fun e => f e.2).sum
  addr % 64 != 0 || imgNat bs 0 2 != 1 || !recordZero bs || decide (3 < r.pri) || r.mask == 0 ||
    (bitsOf r.mask).any (stackFenced s) || (isOrd r && !accepted s 9) || r.jcb % 32 != 0 || used.isEmpty ||
    ((List.range 4).any fun c => decide (16 < perCore c (·.tiles)) || decide (coreBytes < perCore c (·.scr))) ||
    (r.slots.any fun e => e.save % 4096 != 0) ||
    (match img with
     | none => true
     | some m =>
       decide (m.variants.length < r.vcnt) || decide (4 < r.vcnt) ||
         ((m.variants.take r.vcnt).any fun v => v.length != popcount r.mask || v.contains 0) ||
         used.any fun e => !inCode m e.2.entry ||
           (match kernelAt m e.2.entry with
            | some k => decide (e.2.tiles < k.tiles) || decide (e.2.scr < k.scratch)
            | none => false))

/-- The loader puts what relocations make into the code that it has chosen, wherever their offsets lie; a write that needs sectors waits for
them as any write does, and leaves the state in which the TLAUNCH waits (R366, R419; logs 18, 91). -/
def placePatches (a : Acc) (m : Image) (s : State) : Except State State :=
  (m.patches.flatMap fun p => [(p.1, p.2.take (4096 - p.1 % 4096)), (p.1 + (4096 - p.1 % 4096), p.2.drop (4096 - p.1 % 4096))]).foldlM patch s
where
  /-- A datum goes page by page where it crosses one. -/
  patch (s : State) (p : Nat × List Byte) : Except State State :=
    if p.2.isEmpty then .ok s
    else match translate a .read p.1 s with
      | (s, .ok key _) => physPut a.unit key p.2 s
      | (s, _) => .ok s

/-- The image at an address, as the loader has read it: an image with the same signature is not read again; its relocations
stand in its code (R366, R368). -/
def loadImage (at_ : Nat) (s : State) : Except State (State × Option Image) :=
  let a := accOf s s.who
  match readGlobal a false true at_ 64 s with
  | .ok s head =>
    if imgNat head 0 4 ≠ 0x4C474E45 then .ok (s, none)
    else
      match imageAt s at_ with
      | some m => if m.signature.toNat = imgNat head 24 8 then placed a m s else readImage a head s
      | none => readImage a head s
  | _ => .ok (s, none)
where
  placed (a : Acc) (m : Image) (s : State) : Except State (State × Option Image) := (placePatches a m s).map fun s => (s, some m)
  readImage (a : Acc) (head : List Byte) (s : State) : Except State (State × Option Image) :=
    match readGlobal a false true at_ (imgNat head 16 8) s with
    | .ok s bs =>
      match imageOf s at_ bs with
      | some m => placed a m { s with images := m :: s.images.filter fun x => x.at_ ≠ at_ }
      | none => .ok (s, none)
    | _ => .ok (s, none)

def nextId (i : Nat) : Nat := if i = 0xFFFFFFFF then 1 else i + 1

/-- TLAUNCH (R359, R370, R371, R374, R376). -/
def execTlaunch (d : SR) (a : AR) (s : State) : Res :=
  needPriv .system s fun s => guardRegs [.a a] [.s d] s fun s =>
    let addr := (ea s a 0).toNat
    if 2 ^ 56 < addr + 1024 then trapAt 12 0x0C (BitVec.ofNat 64 addr) s
    else
      sysRead addr 1024 s fun s bs =>
        let r := recordOf bs
        match loadImage r.image s with
        | .error s => stall s
        | .ok (t, img) =>
          if recordRefused t img addr bs r then .next (land (.s d) (.word 0) 1 t)
          else
            let id := s.dev.nextTask
            let stack := lowestBit r.mask / 12
            let tooFar := match earliestTask s with
              | some e => decide (2 ^ 31 ≤ (id + 2 ^ 32 - e) % 2 ^ 32)
              | none => false
            if tooFar || decide (256 ≤ (queuedOn s stack).length) then stall s
            else
              let task : Task :=
                { id := id, recAt := addr, lpt := s.ctx.ptbase, lasid := s.ctx.asid, record := r, phase := .queued, pri := r.pri
                  waitFrom := s.now, blocking := false, dmask := 0, runs := 0, retries := 0, variant := 0, away := [], moved := []
                  version := [], lines := [], writers := [], vpoison := [], reads := [], touches := [], doomed := false, dropped := false, fault := none
                  kept := [], gone := [], error := none, barriers := [], audit := .none, retained := [], times := [] }
              let t := modDev { t with tasks := t.tasks ++ [task] } fun v => { v with nextTask := nextId id }
              .next (land (.s d) (.word (BitVec.ofNat 64 id)) 1 t)

/-! ## Placement (R379, R459) -/

/-- A context of the machine by core number and context. -/
def userCtx (core x : Nat) : CtxId := .user (Fin.ofNat 384 core) (Fin.ofNat 4 x)

/-- Windows and reservations on a core: those of its contexts, and those that dispatch has given out and no context has
taken up yet (R379). -/
def liveOn (s : State) (core : Nat) : List (Nat × Nat × Nat × Nat) :=
  let held := (List.range 4).filterMap fun x =>
    let y := getCtx s (userCtx core x)
    if y.run = .free then none else some (y.tbase, y.tcount, y.soff, y.scr)
  let promised := s.tasks.flatMap fun t =>
    if t.phase = .dispatched ∧ (bitsOf t.dmask).any (fun g => placeOfCluster t g == core / 4) then
      (usedSlots t.record).filterMap fun e =>
        let c := userCtx core (e.1 % 4)
        if e.1 / 4 = core % 4 ∧ ¬ t.away.contains c.num ∧ (getCtx s c).run = .free then some (e.2.tbase, e.2.tiles, e.2.soff, e.2.scr) else none
    else []
  held ++ promised

/-- An engine operation of the context is in flight. -/
def opsInFlight (s : State) (c : CtxId) : Bool :=
  (coreOf s c.coreNo).queue.any (fun o => o.ctx == c) || (coreOf s c.coreNo).stores.any (fun o => o.ctx == c) ||
    ((clusterOf s c.cluster).copies ++ (clusterOf s c.cluster).gathers).any fun o => o.ctx == c

/-- The context of a used slot can be given out. -/
def slotFree (s : State) (core x : Nat) : Bool :=
  let c := userCtx core x
  (getCtx s c).run == .free && !opsInFlight s c &&
    s.tasks.all fun t => !(t.phase == .dispatched && (bitsOf t.dmask).any (fun g => placeOfCluster t g == core / 4) &&
      ((usedSlots t.record).any fun e => e.1 == core % 4 * 4 + x) && !t.away.contains c.num)

/-- Intervals [a, a + n) and [b, b + m) overlap. -/
def overlaps (a n b m : Nat) : Bool := decide (a < b + m) && decide (b < a + n)

/-- The lowest tile base for n tiles beside the taken windows. -/
def lowestBase (n : Nat) (taken : List (Nat × Nat)) : Option Nat :=
  (List.range 17).find? fun b => decide (b + n ≤ 16) && taken.all fun w => !overlaps b n w.1 w.2

/-- The lowest 4 KiB-aligned offset for n bytes beside the taken reservations. -/
def lowestOffset (n : Nat) (taken : List (Nat × Nat)) : Option Nat :=
  let ends := 0 :: taken.map fun w => (w.1 + w.2 + 4095) / 4096 * 4096
  (sortNats ends).find? fun o => decide (o + n ≤ coreBytes) && taken.all fun w => !overlaps o n w.1 w.2

/-- Bases and offsets for the used slots, the same on every cluster (R379). -/
def assignSlots (s : State) (clusters : List Nat) : List (Nat × SlotRec) → List (Nat × SlotRec) → Option (List (Nat × SlotRec))
  | [], acc => some acc
  | (i, r) :: rest, acc =>
    let live := clusters.flatMap fun g => liveOn s (4 * g + i / 4)
    let mine := acc.filter fun e => e.1 / 4 = i / 4
    match lowestBase r.tiles (live.map (fun w => (w.1, w.2.1)) ++ mine.map fun e => (e.2.tbase, e.2.tiles)),
        lowestOffset r.scr (live.map (fun w => (w.2.2.1, w.2.2.2)) ++ mine.map fun e => (e.2.soff, e.2.scr)) with
    | some b, some o => assignSlots s clusters rest (acc ++ [(i, { r with tbase := b, soff := o })])
    | _, _ => none

/-- Two logical cores that one front end drives (R453). -/
def ganged (s : State) (core : Nat) : Bool :=
  let n : Fin 8 := Fin.ofNat 8 (core / 48)
  let b := (stackOf s n).binds
  accepted s 7 && (match Tbl.get? b (core % 48), Tbl.get? b (Nat.xor (core % 48) 1) with
    | some x, some y => x.fe == y.fe
    | _, _ => false)

/-- The conditions of R459 on a cluster. -/
def gangFits (s : State) (m : Option Image) (r : TaskRec) (g : Nat) : Bool :=
  [0, 2].all fun k =>
    !ganged s (4 * g + k) || ((List.range 4).all fun x =>
      let a := r.slots.getD (4 * k + x) ⟨0, 0, 0, 0, 0, 0⟩
      let b := r.slots.getD (4 * (k + 1) + x) ⟨0, 0, 0, 0, 0, 0⟩
      (a.entry == b.entry && a.tiles == b.tiles && a.scr == b.scr && (a.save == 0) == (b.save == 0)) &&
        (a.entry == 0 || (match m.bind fun m => kernelAt m a.entry with | some q => q.gangSafe | none => false)))

/-- Every used slot's context is free on the cluster. -/
def clusterFree (s : State) (r : TaskRec) (g : Nat) : Bool :=
  (usedSlots r).all fun e => slotFree s (4 * g + e.1 / 4) (e.1 % 4)

/-- The placement of a task: MASK, or the lowest free clusters of the same stacks (R379). -/
def placement (s : State) (r : TaskRec) : List Nat :=
  if isReloc r then
    (List.range 8).flatMap fun n =>
      let want := ((bitsOf r.mask).filter fun g => g / 12 = n).length
      (((List.range 12).map fun i => 12 * n + i).filter fun g => clusterFree s r g).take want
  else bitsOf r.mask

/-- Lines that a stack's version store has reserved; a replay version lies there beside them, as the retained lines do (R441; log 92). -/
def reservedLines (s : State) (n : Nat) : Nat :=
  ((s.tasks.filter fun t => t.phase ≠ .queued ∧ ¬ isReplay t.id ∧ lowestBit t.dmask / 12 = n).map fun t => t.record.budget).sum

/-- The placement with its bases and offsets, when it fits (R379, R459). -/
def fitting (s : State) (t : Task) : Option (List Nat × List (Nat × SlotRec)) :=
  let r := t.record
  let gs := placement s r
  if gs.length = popcount r.mask ∧ gs.all (fun g => clusterFree s r g && gangFits s (imageAt s r.image) r g && !stackFenced s g) ∧
      reservedLines s (gs.headD 0 / 12) + r.budget ≤ Config.versionRoom then
    (assignSlots s gs (usedSlots r) []).map fun xs => (gs, xs)
  else none

/-! ## Dispatch (R375–R381, R391, R440) -/

/-- Every predecessor is no longer known (R378). -/
def eligible (s : State) (t : Task) : Bool := t.record.preds.all fun p => p == 0 || (taskOf s p).isNone

/-- Dispatch order: priority, then key. -/
def before (t u : Task) : Bool := decide (t.pri < u.pri) || (t.pri == u.pri && keyLt t u)

def insertTask (t : Task) : List Task → List Task
  | [] => [t]
  | u :: us => if before t u then t :: u :: us else u :: insertTask t us

def sortTasks (ts : List Task) : List Task := ts.foldr insertTask []

/-- The task that the blocking task of a queue keeps from its clusters (R380). -/
def blockedBy (s : State) (n : Nat) (t : Task) (gs : List Nat) : Bool :=
  (queuedOn s n).any fun b => b.blocking && b.id != t.id && before b t && (placement s b.record).any fun g => gs.contains g

/-- The task that a stack dispatches next. -/
def dispatchable (s : State) (n : Nat) : Option (Task × List Nat × List (Nat × SlotRec)) :=
  (sortTasks (queuedOn s n)).findSome? fun t =>
    if eligible s t then
      match fitting s t with
      | some (gs, xs) => if blockedBy s n t gs then none else some (t, gs, xs)
      | none => none
    else none

/-- a/b < c/d. -/
def fracLt (x y : Nat × Nat) : Bool := decide (x.1 * y.2 < y.1 * x.2)

/-- p(v) of R391 as a fraction. -/
def variantCost (ws : List (List Nat)) (u v : Nat) (times : List (Nat × Nat)) : Nat × Nat :=
  let wu := ws.getD u []
  let wv := ws.getD v []
  times.foldl (fun m e =>
    let c := (e.2 * wv.getD e.1 0 * wu.sum, wv.sum * wu.getD e.1 1)
    if fracLt m c then c else m) (0, 1)

/-- The variant that the selector chooses (R391). -/
def chooseVariant (s : State) (t : Task) : Nat :=
  match imageAt s t.record.image, s.dev.variants.find? fun h => h.1 = t.record.image ∧ h.2.1 = t.record.launch with
  | some m, some (_, _, u, times) =>
    let ws := m.variants
    (List.range t.record.vcnt).foldl (fun best v =>
      if fracLt (variantCost ws u v times) (variantCost ws u best times) then v else best) 0
  | _, _ => 0

/-- Audits that the lead stack runs. -/
def auditsOn (s : State) (n : Nat) : Nat :=
  (s.tasks.filter fun t => t.phase ≠ .queued ∧ lowestBit t.dmask / 12 = n ∧ t.audit ≠ .none ∧ t.audit ≠ .passed).length

/-- The auditor's draw (R440). -/
def auditDraw (s : State) (t : Task) (n : Nat) : Bool :=
  let draw := (mix (BitVec.ofNat 64 (t.id ^^^ t.runs * 2 ^ 32))).extractLsb' 48 16
  (match imageAt s t.record.image with | some m => m.auditable | none => false) && decide (draw.toNat < s.dev.audit) &&
    decide (auditsOn s n < 4)

def barriersOf (m : Option Image) : List Barrier :=
  match m with
  | none => []
  | some m => m.barriers.map fun b => ⟨b.1, b.2.1, b.2.2, 0, 0, 0, 0, [], []⟩

/-- Replaces the slots of a record by those with bases and offsets. -/
def putSlots (r : TaskRec) (xs : List (Nat × SlotRec)) : TaskRec :=
  { r with slots := ((List.range r.slots.length).zip r.slots).map fun e => ((xs.find? fun x => x.1 = e.1).map (·.2)).getD e.2 }

/-- The device fields of a record in memory, written over the routes of the lead stack (R375, R472). -/
def writeRecord (t : Task) (s : State) : State :=
  let w (off : Nat) (bs : List Byte) (s : State) : State :=
    deviceWrite (.record t.id) (.sys (Fin.ofNat 8 (lowestBit t.dmask / 12)) 0) false t.lpt t.lasid (t.recAt + off) bs s
  let s := w 152 (bytesOf 12 t.dmask ++ bytesOf 2 t.runs) s
  let s := if 0 < t.record.vcnt then w 120 (bytesOf 8 t.variant) s else s
  (usedSlots t.record).foldl (fun s e =>
    w (512 + 32 * e.1 + 16) (bytesOf 4 e.2.soff) (w (512 + 32 * e.1 + 9) (bytesOf 1 e.2.tbase) s)) s

/-- DISPATCH of the stack's next task (R380). Its record is written first: while a write of it waits for sectors or for its page, the task
is not dispatched and no kind-8 record is posted (R375; DEDUCED, log 89). -/
def execDispatch (s : State) : Res :=
  let n := s.input.die
  match dispatchable s n.val with
  | none => .next s
  | some (t, gs, xs) =>
    let v := if t.record.vcnt = 0 then 0 else chooseVariant s t
    let r := putSlots t.record xs
    let r := if 0 < t.record.vcnt then { r with args := r.args.set 7 (BitVec.ofNat 64 v) } else r
    let lead := gs.headD 0 / 12
    let t' := { t with record := r, phase := .dispatched, blocking := false, variant := v, away := [], moved := []
                       dmask := gs.foldl (fun m g => m + 2 ^ g) 0, barriers := barriersOf (imageAt s r.image), times := []
                       audit := if auditDraw s t lead then .sampled else .none, retained := [] }
    if owes s (.record t.id) then .next s
    else
      let u := writeRecord t' s
      if owes u (.record t.id) then .next u
      else .next (gs.foldl (fun s g => postTask s g t' 8 0) (modTask u t.id fun _ => t'))

/-- TASK_AGING: a task that has waited 2^20 cycles at its priority moves up (R377). -/
def execTaskAging (s : State) : Res :=
  let id := s.input.task.toNat
  match taskOf s id with
  | some t =>
    if t.phase = .queued ∧ 0 < t.pri then
      let s := reach (t.waitFrom + 2 ^ 20) s
      .next (modTask s id fun t => { t with pri := t.pri - 1, waitFrom := s.now })
    else .next s
  | none => .next s

/-- TASK_BLOCKING: 2^22 cycles at priority 0 make the earliest such task blocking (R380). -/
def execTaskBlocking (s : State) : Res :=
  let id := s.input.task.toNat
  match taskOf s id with
  | some t =>
    if t.phase = .queued ∧ t.pri = 0 then
      let n := queueStack t
      let s := reach (t.waitFrom + 2 ^ 22) s
      let waited := (queuedOn s n).filter fun u => u.pri = 0 ∧ u.waitFrom + 2 ^ 22 ≤ s.now
      let first := (sortTasks waited).head?.map (·.id)
      .next { s with tasks := s.tasks.map fun u => if u.phase = .queued ∧ queueStack u = n then { u with blocking := some u.id == first } else u }
    else .next s
  | none => .next s

/-! ## The end of a task (R25, R35, R383, R391, R449) -/

/-- Contexts of the device that carry the task. -/
def taskCtxs (s : State) (id : Nat) : List (CtxId × Ctx) := (allCtx s).filter fun e => e.2.task = id ∧ id ≠ 0 ∧ e.2.run ≠ .free

/-- A context that has retired for the task still awaits results, which land in real time (R27, R55), or leaves its regions (R197). -/
def ending (s : State) (id : Nat) : Bool :=
  (allCtx s).any fun e => e.2.task == id && e.2.run == .retired && (e.2.lands.any (fun l => !l.ready) || e.2.regions.any (·.isSome))

/-- An access, engine operation, held store, log entry or result of the task is in flight (R27, R55, R316). -/
def taskBusy (s : State) (t : Task) : Bool :=
  let mine (c : CtxId) : Bool := (getCtx s c).task == t.id
  s.cores.any (fun e =>
    e.2.sidelog.any (fun l => l.task == t.id) || e.2.wback.any (fun l => l.2.task == t.id) || e.2.queue.any (fun o => mine o.ctx) ||
      e.2.stores.any (fun o => mine o.ctx) || e.2.waits.any fun w => w.task == t.id && w.run == t.runs) ||
  (s.clusters.any fun e => (e.2.copies ++ e.2.gathers).any fun o => o.task == t.id) || ending s t.id

/-- Every record of the task has been posted (R270, R383). -/
def recordsPosted (s : State) (id : Nat) : Bool := s.clusters.all fun e => e.2.posting.all fun r => r.task != id

/-- The contexts of a task, where its programs stand. -/
def placesOf (t : Task) : List CtxId :=
  (bitsOf t.dmask).flatMap fun g => (usedSlots t.record).map fun e => userCtx (4 * placeOfCluster t g + e.1 / 4) (e.1 % 4)

/-- The context has run for the task and ended. -/
def endedFor (s : State) (t : Task) (c : CtxId) : Bool :=
  let x := getCtx s c
  x.task == t.id && (x.run == .retired || x.run == .ended)

/-- Every used slot of every cluster has started in this run and ended, or a kill has ended it elsewhere. -/
def allEnded (s : State) (t : Task) : Bool := (placesOf t).all fun c => t.gone.contains c.num || endedFor s t c

/-- A context gives back what it held; every result that it has got lands (R55). -/
def freeCtx (c : CtxId) (s : State) : State :=
  modCtx s c fun x => { (x.lands.filter (·.ready)).foldl (applyLanding s) x with run := .free, task := 0, lands := [], chans := [] }

/-- Channels of a task are no longer bound: a re-run starts with empty ones (R50). -/
def dropChans (id : Nat) (s : State) : State := { s with chans := s.chans.filter fun e => e.2.task ≠ id }

/-- Histogram records of a core, whose counters then clear (R449). -/
def flushHist (core id : Nat) (s : State) : State :=
  let h := (coreOf s core).hist
  let s := h.foldl (fun s e =>
    if e.2.any fun b => b.2 ≠ 0 then
      logEntry 7 3 (some (userCtx core 0)) id
        (bytesOf 1 e.1 ++ bytesOf 7 0 ++ ((List.range 32).flatMap fun i => bytesOf 4 ((Tbl.get? e.2 i).getD 0)) ++ bytesOf 32 0) s
    else s) s
  if h.isEmpty then s else modCore s core fun c => { c with hist := [] }

/-- The history that the selector keeps (R391). -/
def noteVariant (t : Task) (s : State) : State :=
  let times := t.times.map fun e => (e.1, e.2.2 - e.2.1)
  let others (d : Dev) := d.variants.filter fun h => ¬(h.1 = t.record.image ∧ h.2.1 = t.record.launch)
  modDev s fun d => { d with variants := (t.record.image, t.record.launch, t.variant, times) :: others d }

/-- TASK_COMPLETION (R25, R316, R383): a doomed version is dropped (R35); contexts become free; kind 9 is posted. -/
def execTaskCompletion (s : State) : Res :=
  let id := s.input.task.toNat
  match taskOf s id with
  | none => .next s
  | some t =>
    if t.phase ≠ .dispatched ∨ !allEnded s t ∨ taskBusy s t ∨ !recordsPosted s id then .next s
    else
      let s := if t.doomed then serveAll (dropVersion id s) else s
      let s := s.cores.foldl (fun s e => flushHist e.1 id s) s
      let s := (taskCtxs s id).foldl (fun s e => freeCtx e.1 s) s
      let s := dropChans id (noteVariant t s)
      let audit := if t.audit = .sampled ∧ t.error.isNone ∧ !t.doomed then AuditState.sampled else .none
      let s := modTask s id fun t => { t with phase := .completed, audit := audit, waitFrom := s.now }
      .next (postTask s (lowestBit t.dmask) t 9 (t.error.getD 0))

/-! ## Ends of contexts by containment -/

/-- What a context that ends leaves waiting: its accesses are dropped, a unit held for one of them is released (R182, R413). -/
def dropAccesses (c : CtxId) (s : State) : State :=
  let s := modCore s c.coreNo fun u => { u with waits := u.waits.filter fun w => w.ctx ≠ c }
  if (coreOf s c.coreNo).held.any fun h => h.who == c then releaseUnit c.coreNo s else pump c.coreNo s

/-- The operations of a context that wait for the pager, or for a page they have bounced off, end in error (R278, R413). -/
def declineAll (c : CtxId) (s : State) : State :=
  let u := clusterOf s c.cluster
  ((u.copies ++ u.gathers).filter fun o => o.ctx = c).foldl (fun s o => declineCopy c.cluster o s) s

/-- A context ends before its EXIT: its channels close and it counts as arrived everywhere (R31, R32); post: the bytes
14 and 15 of its kind-4 record (R360). -/
def killCtx (c : CtxId) (post : Option (BitVec 8 × BitVec 8)) (s : State) : State :=
  let x := getCtx s c
  if isActive x.run || x.run == .stopped then
    let s := leaveBarriers c (closeAll c s)
    let ended (x : Ctx) : Ctx := { x with run := .ended, loops := [], late := [], bara := [], arriving := [], sendWait := none }
    let s := modCtx s c fun x => { ended x with preemptAt := none, status := 0 }
    let s := dropAccesses c (declineAll c s)
    match post with
    | some b => postCtx s c x.pc 4 b.1 b.2
    | none => s
  else declineAll c s

/-- The version is discarded at completion and the error bit set (R35). -/
def doom (id : Nat) (code : BitVec 8) (s : State) : State :=
  modTask s id fun t => { t with doomed := true, error := some (t.error.getD code) }

/-- The contexts of a run end and are free for the next one. -/
def clearRun (id : Nat) (post : Option (BitVec 8 × BitVec 8)) (s : State) : State :=
  let s := (taskCtxs s id).foldl (fun s e => freeCtx e.1 (killCtx e.1 post s)) s
  dropChans id s

/-- The replay run number k of a task ends, and its version with it (R443). -/
def dropReplay (id k : Nat) (s : State) : State :=
  let r := replayId id k
  if (taskOf s r).isNone then s
  else
    let s := dropVersion r (clearRun r none s)
    { s with tasks := s.tasks.filter fun t => t.id ≠ r }

def dropReplays (id : Nat) (s : State) : State := dropReplay id 2 (dropReplay id 1 s)

/-- The task goes back to its queue for another run (R36, R386, R387); an audit of the run is over with it. -/
def requeue (id : Nat) (pri : Nat) (retry : Bool) (s : State) : State :=
  let s := dropReplays id (clearRun id (if retry then some (0, 0) else none) (dropVersion id s))
  modTask s id fun t =>
    { t with phase := .queued, pri := pri, waitFrom := s.now, blocking := false, runs := (t.runs + 1) % 65536
             retries := if retry then t.retries + 1 else t.retries, doomed := false, dropped := false, fault := none, kept := [], gone := [], error := none, barriers := []
             away := [], moved := [], audit := .none, retained := [], times := [] }

/-- The task ends with its error bit set, its version dropped at once (R317, R384). Its cause is that of the latest fault of the task,
where it has had one (R400). Contexts that are saved and contexts that never started end where they are. There is nothing left to audit. -/
def killTask (id : Nat) (s : State) : State :=
  match taskOf s id with
  | none => s
  | some t =>
    let s := (taskCtxs s id).foldl (fun s e => killCtx e.1 (some (0, 0)) s) (dropVersion id s)
    let s := if t.phase = .dispatched then modTask s id fun t => { t with gone := ((placesOf t).filter fun c => !endedFor s t c).map CtxId.num } else s
    modTask (doom id (t.fault.getD 0x1E) (dropReplays id s)) id fun t => { t with dropped := true, audit := .none, retained := [] }

/-- TABORT on task id (R36, R384). -/
def abortTask (rerun : Bool) (x : SR) (s : State) : Res :=
  guardRegs [.s x] [] s fun s =>
    let id := (rdS s x).toNat % 2 ^ 32
    match taskOf s id with
    | none => protection s
    | some t =>
      match t.phase with
      | .queued =>
        if rerun then .next s
        else .next (postTask { s with tasks := s.tasks.filter fun u => u.id ≠ id } s.who.cluster t 9 0x1E)
      | _ => if rerun ∧ t.retries < 3 then .next (serveAll (requeue id t.record.pri true s)) else .next (serveAll (killTask id s))

/-- TABORT rerun (R384). -/
def execTabortRerun (x : SR) (s : State) : Res := needPriv .control s fun s => abortTask true x s

/-- TABORT kill; k = 2, 3 raise protection (R356, R384). -/
def execTabortKill (x : SR) (k : Fin 4) (s : State) : Res :=
  needPriv .control s fun s => if 2 ≤ k.val then protection s else abortTask (k.val = 0) x s

/-! ## Commit (R306, R309, R384, R421) -/

/-- The oldest uncommitted task of its launch (R384). -/
def oldestOfLaunch (s : State) (t : Task) : Bool :=
  s.tasks.all fun u => u.id == t.id || !isOrd u.record || u.record.launch != t.record.launch || keyLt t u

/-- The lines of committed memory, or of a version, that an entry of a ring stands for; none where its page is not mapped. -/
def entryLines (s : State) (n : Fin 8) (e : Bounce) : List Nat :=
  match e.pa.orElse fun _ => tableKey s n e.ptbase e.va with
  | some k => (e.bytes.map fun b => (k / 128 * 128 + b.1) / 64).eraseDups
  | none => []

/-- The entries of a version in the bounce rings. -/
def entriesOf' (s : State) (id : Nat) : List (Fin 8 × Bounce) :=
  (List.finRange 8).flatMap fun n => ((stackOf s n).bounce.filter fun e => e.valid && !e.committed && e.task == id).map fun e => (n, e)

/-- A commit of a version's bytes: they take the place of earlier committed entries of the rings, and the version's own entries are
committed and the youngest (R415). -/
def commitBounce (t : Task) (s : State) : State :=
  if ringsEmpty s then s
  else
    let age := fresh s * 2 ^ 32
    (List.finRange 8).foldl (fun s n => mapBounce n (fun e =>
      if !e.committed ∧ e.task = t.id then { e with committed := true, age := age + e.age / 2 ^ 32 }
      else if e.committed then
        match e.pa.orElse fun _ => tableKey s n e.ptbase e.va with
        | some k =>
          let bs := e.bytes.filter fun b => (Tbl.get? t.version (k / 128 * 128 + b.1)).isNone
          if bs = e.bytes then e else { e with bytes := bs, valid := !bs.isEmpty }
        | none => e
      else e) s) (bump s)

/-- The version goes into committed memory at one instant; bytes of other devices leave for them, for the context that stored them last
into their line (R447). -/
def commitBytes (t : Task) (s : State) : State :=
  let s := t.version.foldl (fun s e =>
    if 2 ^ 56 ≤ e.1 then
      let (c, b) := (Tbl.get? t.writers (e.1 / 64)).getD (.sys 0 0, 0)
      let a := { deviceAcc c t.lpt t.record.asid (.device 0) with bundle := b }
      sendMarked (t.vpoison.contains (e.1 / 64)) a (e.1 / 2 ^ 56 - 1) ((Tbl.get? t.lines (e.1 / 64)).getD 0 * 64 + e.1 % 64) [e.2] s
    else { s with mem := s.mem.write e.1 e.2 }) s
  let ls := t.lines.map (·.1)
  -- no L1G keeps a copy older than the commit (R306)
  let s := { s with clusters := s.clusters.map fun (c : Nat × Cluster) => (c.1, { c.2 with l1g := c.2.l1g.filter fun l => !ls.contains l.1 }) }
  let written (l : Nat) : Bool := (List.range 64).all fun i => (Tbl.get? t.version (64 * l + i)).isSome
  { s with poison := (s.poison.filter fun l => !(ls.contains l && (written l || t.vpoison.contains l))) ++ t.vpoison }

/-- Tasks of the launch that have read a line of the commit, the entries that it has in the bounce rings among them (R309). -/
def conflicting (s : State) (t : Task) : List Task :=
  if isOrd t.record then
    let ls := t.lines.map (·.1) ++ (entriesOf' s t.id).flatMap fun e => entryLines s e.1 e.2
    s.tasks.filter fun u => u.id ≠ t.id ∧ isOrd u.record ∧ u.record.launch = t.record.launch ∧ u.phase ≠ .queued ∧ keyLt t u ∧
      ls.any fun l => u.reads.contains l
  else []

/-- An aborted task goes ahead of every task of its queue with a later key (R386). -/
def abortPri (s : State) (t : Task) : Nat :=
  ((queuedOn s (queueStack t)).filter fun u => keyLt t u).foldl (fun p u => min p u.pri) t.record.pri

/-- Inserts a task into a list that falls by key. -/
def insertLate (t : Task) : List Task → List Task
  | [] => [t]
  | u :: us => if keyLt u t then t :: u :: us else u :: insertLate t us

/-- The commit of a completed task. Its victims are queued again from the latest key on, so that each finds those behind it. -/
def commitTask (t : Task) (s : State) : State :=
  let empty := t.error.isSome || t.doomed
  let victims := if empty then [] else (conflicting s t).foldr insertLate []
  let s := if empty then dropVersion t.id s else commitBounce t (commitBytes t (commitReleases t s))
  let s := { s with tasks := s.tasks.filter fun u => u.id ≠ t.id }
  let s := t.lines.foldl (fun s l => recomputeKey s (64 * l.1)) s
  serveAll (victims.foldl (fun s u => requeue u.id (abortPri s u) false s) s)

/-- TCOMMIT (R384); an audit delays it (R443). -/
def execTcommit (x : SR) (s : State) : Res :=
  needPriv .control s fun s => guardRegs [.s x] [] s fun s =>
    match taskOf s ((rdS s x).toNat % 2 ^ 32) with
    | none => protection s
    | some t =>
      if t.phase ≠ .completed then protection s
      else if (isOrd t.record ∧ !oldestOfLaunch s t) ∨ (t.audit ≠ .none ∧ t.audit ≠ .passed) then stall s
      else .next (commitTask t s)

/-! ## Job control blocks (R384, R385) -/

/-- An update of the block at EA(a) through the issuing core's tables. -/
def jcbUpdate (a : AR) (x : SR) (f : Nat → Nat → Nat) (release : Bool) (s : State) : Res :=
  guardRegs [.a a, .s x] [] s fun s =>
    let addr := ea s a 0
    match globalCheck 32 [addr] with
    | some (c, v) => trapAt 12 c v s
    | none =>
      if release ∧ !releaseReady s s.who 6 then stall s
      else
        let v := (rdS s x).toNat
        match homeRmw (accOf s s.who) .write addr.toNat 32 (fun x => some (f v x)) s with
        | .ok s (_, key) => .next (if release then publish s.who 6 key 32 s else s)
        | .serviced s c v => sysFault c v s
        | .noSectors s v => sysShort (accOf s s.who) v s
        | .failed s c v => sysFault c v s
        | .race s v _ _ => sysFault 0x15 v s
        | .overflow s => sysFault 0x16 0 s
        | .remote s d => .next (sendRemote (accOf s s.who) d addr.toNat [] s)

/-- EXP ← EXP + s (R384). -/
def jcbAdded (v block : Nat) : Nat := block / 2 ^ 64 * 2 ^ 64 + (block + v) % 2 ^ 64

/-- POST, ERRS and FAILED after a posting (R384). -/
def jcbPosted (v block : Nat) : Nat :=
  let post := (bitsAt block 64 64 + 1) % 2 ^ 64
  let errs := (bitsAt block 128 64 + v % 2) % 2 ^ 64
  let flags := bitsAt block 192 64 ||| v / 2 % 2
  block % 2 ^ 64 + post * 2 ^ 64 + errs * 2 ^ 128 + flags * 2 ^ 192

/-- JCBADD (R384). -/
def execJcbadd (a : AR) (x : SR) (s : State) : Res := needPriv .both s fun s => jcbUpdate a x jcbAdded false s

/-- JCBPOST: a release at SYSTEM scope (R384). -/
def execJcbpost (a : AR) (x : SR) (s : State) : Res := needPriv .control s fun s => jcbUpdate a x jcbPosted true s

end Sys2Proof.Machine
end

