-- ==== Sys2Proof/Machine/Start.lean ====
section
/-! DEFINITION. Starting, resuming, pre-empting, saving and restoring contexts: CTXSTART and CTXSTOP (R45, R50, R282, R283,
R355–R357, R382, R394–R399) and the device's own steps of a pre-emption. -/

namespace Sys2Proof.Machine

/-! ## Targets (R355, R356) -/

/-- The compute context that t names on a control core, or protection. -/
def needUser (v : Word) (s : State) (k : CtxId → Res) : Res :=
  match s.who with
  | .ctl g => if getBit v 8 then k (userCtx (4 * g.val + bitsAt v.toNat 2 2) (bitsAt v.toNat 0 2)) else protection s
  | _ => protection s

/-- The control core that t names on a system core, or protection. -/
def needCtl (v : Word) (s : State) (k : CtxId → Res) : Res :=
  match s.who with
  | .sys _ _ => if getBit v 9 ∧ bitsAt v.toNat 10 7 ≤ 95 then k (.ctl (Fin.ofNat 96 (bitsAt v.toNat 10 7))) else protection s
  | _ => protection s

/-- The target of an instruction that both kinds of core run. -/
def needTarget (v : Word) (s : State) (k : CtxId → Res) : Res :=
  match s.who with
  | .sys _ _ => needCtl v s k
  | _ => needUser v s k

/-! ## Channels (R45, R282, R283) -/

/-- The number of the channel that the end (task, rank, core, context, NUM) owns. -/
def chanKey (task rank core x num : Nat) : Nat := ((task * 128 + rank) * 16 + 4 * core + x) * 64 + num

/-- The peer fields of c name the owner of d, rank, core, context and number (R282). -/
def namesPeer (c d : ChanRec) : Bool :=
  let f := chField
  f c 32 7 == f d 17 7 && f c 39 2 == f d 15 2 && f c 41 2 == f d 13 2 && f c 43 6 == f d 0 6

/-- The two ends of a matching pair, but for their devices (R283). -/
def matchesPeer (m : Image) (c d : ChanRec) : Bool :=
  let f := chField
  namesPeer c d && namesPeer d c && f c 49 1 != f d 49 1 && f c 52 6 == f d 52 6 && f c 50 2 == f d 50 2 && f c 58 1 == f d 58 1 &&
    f c 64 32 == f d 64 32 && m.chans.contains d

/-- The entry's peer lies on this device. -/
def peerHere (s : State) (c : ChanRec) : Bool := chField c 24 8 == 0xFF || chField c 24 8 == s.dev.no

/-- The task is its channel group's on this device: of two known tasks, the one with the earliest identifier (R283). -/
def leadsGroup (s : State) (t : Task) : Bool :=
  t.record.cgrp != 0 && !(s.tasks.any fun u => u.record.cgrp == t.record.cgrp && precedes u.id t.id)

/-- The peer's entry in the image's own table, if the pair matches: a peer on this device is named by its number or 0xFF,
and names this device so; a peer elsewhere names this device by its number. -/
def peerEntry (s : State) (m : Image) (t : Task) (c : ChanRec) : Option ChanRec :=
  if peerHere s c then m.chans.find? fun d => matchesPeer m c d && peerHere s d
  else if !leadsGroup s t ∨ !accepted s 6 then none
  else m.chans.find? fun d => matchesPeer m c d && chField d 24 8 == s.dev.no

/-- An entry with its matching peer binds one channel of a context (R283): the receiver's arrival gives the sender credit. -/
def bindEntry (c : CtxId) (t : Task) (e d : ChanRec) (s : State) : State :=
  let out := chField e 49 1 = 1
  let o := if out then e else d
  let here := peerHere s e
  let key := (if here then 0 else 2 ^ 80) +
    (if here then chanKey t.id (chField o 17 7) (chField o 15 2) (chField o 13 2) (chField o 0 6)
     else 2 * chanKey t.id (chField e 17 7) (chField e 15 2) (chField e 13 2) (chField e 0 6) + if out then 1 else 0)
  let ch := (chanOf s key).getD ⟨none, none, t.id, if here then t.id else 0, false, [], [], false, 0⟩
  let ch := if out then { ch with src := some c } else { ch with dst := some c, credit := true }
  let b : ChanBind := ⟨Fin.ofNat 64 (chField e 0 6), out, chField e 50 2, chField e 52 6 + 1, chField e 58 1 = 1, chField e 64 32, key, []⟩
  modCtx (setChan s key ch) c fun x => { x with chans := x.chans ++ [b] }

/-- Every channel of the image's table that names the context as owner. -/
def bindChans (c : CtxId) (t : Task) (s : State) : State :=
  match imageAt s t.record.image with
  | none => s
  | some m =>
    let x := (getCtx s c).ident
    let mine := m.chans.filter fun e => chField e 17 7 = x.rank ∧ chField e 15 2 = x.core ∧ chField e 13 2 = x.ctx
    mine.foldl (fun s e => match peerEntry s m t e with
      | some d => bindEntry c t e d s
      | none => s) (modCtx s c fun x => { x with chans := [] })

/-! ## A context's start (R50, R382, R402) -/

/-- The rank of a cluster in a mask (R20). -/
def clusterRank (mask g : Nat) : Nat := ((List.range g).filter fun i => mask.testBit i).length

/-- The context's seed (R382). -/
def startSeed (r : TaskRec) (rank slot : Nat) : Word :=
  if isSeedD r then mix (r.seed ^^^ BitVec.ofNat 64 ((rank * 16 + slot) * 0x9E3779B97F4A7C15)) else r.seed

/-- The identity of compute context c in a task. -/
def startIdent (s : State) (t : Task) (c : CtxId) : Ident :=
  let core := c.coreNo
  let x := match c with | .user _ x => x.val | _ => 0
  { core := core % 4, clu := core / 4 % 12, die := core / 48, dev := s.dev.no, ctx := x, gang := if ganged s core then 2 else 1
    gx := if ganged s core then core % 2 else 0, rank := clusterRank t.dmask (core / 4), dmask := t.dmask }

/-- The state of R50, with the issuing context's root (R402); copies in flight into it have their windows (R280). -/
def startedCtx (s : State) (t : Task) (c : CtxId) (slot : Nat) (r : SlotRec) (old : Ctx) : Ctx :=
  let i := startIdent s t c
  let arg (n : Nat) : Word := t.record.args.getD n 0
  let regs : Vector Word 32 := Vector.ofFn fun n =>
    if n.val = 0 then 0 else if n.val ≤ 8 then arg (n.val - 1)
    else if n.val = 9 then BitVec.ofNat 64 i.rank
    else if n.val = 10 then BitVec.ofNat 64 i.dmask
    else if n.val = 11 then BitVec.ofNat 64 (i.dmask / 2 ^ 64) else 0
  let bases : Vector AReg 16 := Vector.ofFn fun n =>
    if n.val = 0 then { AReg.zero with base := BitVec.ofNat 64 r.soff } else if n.val = 1 then { AReg.zero with base := t.record.argb } else AReg.zero
  { Ctx.blank with
    run := .running, pc := r.entry, s := regs, a := bases
    seeds := (Vector.replicate 8 0).set 0 (startSeed t.record i.rank slot)
    ident := i, tbase := r.tbase, tcount := r.tiles, soff := r.soff, scr := r.scr, task := t.id, slotNo := slot, saveAt := r.save
    recAt := t.recAt, ptbase := s.ctx.ptbase, asid := t.record.asid, clock := [(c.num, clockGet old.clock c.num + 1)]
    windows := windowsInto s t.id c, started := s.now }

/-- A context's tokens and completion clocks of an earlier life are gone. -/
def forgetTokens (c : CtxId) (s : State) : State :=
  { s with releases := s.releases.filter fun r => !((List.range 32).any fun k => r.word == tokenKey c k) }

/-- Its tiles and its reservation are zeroed before its first bundle (R382). -/
def zeroSpace (core tbase tiles soff scr : Nat) (s : State) : State :=
  let s := (List.range tiles).foldl (fun s n => setTile core (tbase + n) (fun _ => Tile.zero) s) s
  let lo := core * coreBytes + soff
  { s with spm := s.spm.filter (fun e => !(decide (lo ≤ e.1) && decide (e.1 < lo + scr)))
           spmPoison := s.spmPoison.filter fun g => !(decide (lo ≤ 8 * g) && decide (8 * g < lo + scr)) }

/-- The first start of a rank (R391). -/
def noteStart (rank : Nat) (s : State) (t : Task) : Task :=
  if t.times.any fun e => e.1 = rank then t else { t with times := t.times ++ [(rank, s.now, s.now)] }

/-- CTXSTART of compute context c from a dispatched task's slot (R382). -/
def startUser (c : CtxId) (t : Task) (slot : Nat) (r : SlotRec) (s : State) : State :=
  let x := startedCtx s t c slot r (getCtx s c)
  let s := setCtx (zeroSpace c.coreNo r.tbase r.tiles r.soff r.scr (forgetTokens c s)) c x
  let s := modTask s t.id fun u => noteStart x.ident.rank s { u with away := u.away.filter (· ≠ c.num) }
  let s := modDev (l1gDropAll s c.cluster) fun d => { d with computeStarted := true }
  bindChans c t s

/-- CTXSTART of a control core (R357). It is core 0, context 0 of a gang of one, and reads 0 as its gx (DESIGN CHOICE: R18 gives these
for logical cores, and R352 and R357 give a control core none; log 83). -/
def startControl (c : CtxId) (entry : Word) (s : State) : State :=
  let old := getCtx s c
  let g := c.cluster
  let x := { Ctx.blank with
    run := .running, pc := entry, status := 1, vbase := old.vbase, ptbase := old.ptbase, asid := old.asid
    s := ((Vector.replicate 32 0).set 1 (BitVec.ofNat 64 g)).set 2 (BitVec.ofNat 64 (g / 12)), started := s.now + 1
    ident := ⟨0, g % 12, g / 12, s.dev.no, 0, 1, 0, 0, 0⟩ }
  modDev (setCtx s c x) fun d => { d with started := d.started ++ [g] }

/-! ## The save area (R396, R397) -/

/-- A class of R366's mask. -/
def cls (m : BitVec 16) (i : Nat) : Bool := m.getLsbD i

/-- n bytes, or zeros where the class is omitted. -/
def ifCls (m : BitVec 16) (i : Nat) (bs : List Byte) : List Byte := if cls m i then bs else List.replicate bs.length 0

def regionImage (r : Option Region) : List Byte :=
  match r with
  | some r => bytesOf 8 r.lbase ++ bytesOf 8 r.gbase ++ bytesOf 4 r.len ++ bytesOf 1 (if r.rw then 1 else 0) ++ bytesOf 1 1 ++ bytesOf 10 0
  | none => bytesOf 32 0

def areaHeader (x : Ctx) (runs : Nat) (mask : BitVec 16) (lx ranges : Nat) : List Byte :=
  bytesOf 4 0x53585443 ++ bytesOf 4 x.task ++ bytesOf 8 x.pc.toNat ++ bytesOf 8 x.sc ++ bytesOf 2 x.wctr.toNat ++ bytesOf 1 x.loops.length ++
    bytesOf 1 x.ident.gang ++ bytesOf 2 lx ++ bytesOf 1 x.tcount ++ bytesOf 1 ranges ++ bytesOf 4 x.scr ++
    bytesOf 1 x.ident.core ++ bytesOf 1 x.ident.clu ++ bytesOf 1 x.ident.die ++ bytesOf 1 x.ident.dev ++ bytesOf 1 x.ident.ctx ++
    bytesOf 1 x.ident.gx ++ bytesOf 2 runs ++ bytesOf 4 0 ++ bytesOf 4 x.soff ++ bytesOf 2 mask.toNat ++ bytesOf 2 0 ++ bytesOf 8 x.recAt

/-- Offsets 0 to 0x42FFF of a save area, its tiles beyond the window 0 (R396). water: DUMPCTX's W values (R466). -/
def areaBody (x : Ctx) (tiles : List Tile) (runs : Nat) (mask : BitVec 16) (lx ranges : Nat) (water : Bool) : List Byte :=
  let words (l : List Word) : List Byte := l.flatMap fun y => bytesOf 8 y.toNat
  let level (i : Nat) : List Byte := match x.loops[i]? with
    | some l => words [l.index, l.count, l.first, l.last]
    | none => bytesOf 32 0
  let areg (r : AReg) : List Byte := bytesOf 8 r.base.toNat ++ (r.strides.toList.flatMap fun y => bytesOf 2 (y.signExtend 16).toNat) ++ bytesOf 12 0
  let pbits := (List.range 16).foldl (fun n i => if i = 0 ∨ x.p.toList.getD i false then n + 2 ^ i else n) 0
  let fmt := (x.fmtNew.getLast?.map (·.2)).getD x.fmtOld
  let closed := x.closed.foldl (fun n c => n + 2 ^ c.val) 0
  let flag (t : Tile) : List Byte := bytesOf 8 ((flagsOf t).toNat + if water then t.water * 256 else 0)
  let pad (n : Nat) (bs : List Byte) : List Byte := (bs ++ List.replicate n 0).take n
  areaHeader x runs mask lx ranges ++ (List.range 6).flatMap level ++
    ifCls mask 0 (words (x.s.set 0 0).toList) ++ ifCls mask 1 (x.a.toList.flatMap areg) ++ ifCls mask 2 (bytesOf 8 pbits) ++
    ifCls mask 3 (words x.b.toList) ++ ifCls mask 5 (words (x.m.set 0 (BitVec.allOnes 64)).toList) ++
    ifCls mask 8 (bytesOf 4 fmt.toNat ++ bytesOf 4 0) ++ ifCls mask 9 (words x.seeds.toList ++ bytesOf 8 x.depth) ++
    bytesOf 8 closed ++ bytesOf 32 0 ++ (x.regions.toList.flatMap regionImage) ++
    ifCls mask 6 (x.w.toList.flatMap witImage) ++ ifCls mask 7 (pad 128 (tiles.flatMap flag)) ++ bytesOf 64 0 ++
    ifCls mask 4 (x.v.toList.flatMap fun v => v.toList.flatMap fun y => bytesOf 4 y.toNat) ++ bytesOf 1024 0 ++
    ifCls mask 7 (pad 262144 (tiles.flatMap fun t => t.rows.toList.flatMap fun v => v.toList.flatMap fun y => bytesOf 4 y.toNat))

/-- The liveness entry of the safe point at which the context stands (R90, R156). -/
def liveAt (s : State) (c : CtxId) (lx : Nat) : LiveRec :=
  match taskOf s (getCtx s c).task with
  | some t => ((imageAt s t.record.image).bind fun m => m.live[lx]?).getD ⟨0, []⟩
  | none => ⟨0, []⟩

/-- The tiles of a context's window. -/
def windowTiles (s : State) (c : CtxId) : List Tile :=
  let x := getCtx s c
  (List.range x.tcount).map fun n => tileOf s c.coreNo (x.tbase + n)

def align64 (n : Nat) : Nat := (n + 63) / 64 * 64

/-- The scratchpad ranges with their places in the save area (R396). -/
def rangePlaces : List (Nat × Nat) → Nat → List (Nat × Nat × Nat)
  | [], _ => []
  | (off, n) :: rest, at_ => (off, n, at_) :: rangePlaces rest (at_ + align64 n)

/-! ## Pre-emption (R30, R156, R394–R397) -/

/-- The context's drain is over: results, accesses, engine operations, claims and stores have ended (R199, R260, R281,
R290), and copies into its register windows as well. -/
def drained (s : State) (c : CtxId) : Bool :=
  let x := getCtx s c
  x.lands.all (·.ready) && !inLog s c && !((coreOf s c.coreNo).waits.any fun w => w.ctx == c) && !opsInFlight s c &&
    !((claimIds s c).any fun _ => true) &&
    s.clusters.all fun e => e.2.copies.all fun o =>
      !(o.dsp == 1 && (match winOf s o.task o.dst with | some w => winCtx w == c | none => false))

/-- PREEMPTION: the request is taken at the safe point that the context has reached; once no access of it waits for a fill,
its dirty granules leave for memory and every granule is unfilled (R156, R197, R394). -/
def beginSave (c : CtxId) (s : State) : State :=
  let x := getCtx s c
  if isActive x.run ∧ x.run ≠ .saving ∧ x.preemptAt.isSome then
    let s := setCtx s c { drain s c x with run := .saving }
    if fillAwaited s c then s else leaveRegions false c s
  else s

/-- The other member of c's gang; none once that one has ended (R35). -/
def gangMate (s : State) (c : CtxId) : Option CtxId :=
  match c with
  | .user k x =>
    let d := CtxId.user (Fin.ofNat 384 (Nat.xor k.val 1)) x
    if (getCtx s c).ident.gang = 2 && (getCtx s d).run != .ended && (getCtx s d).run != .free then some d else none
  | _ => none

/-- The request to save c at a safe point: its own, or its partner's in a gang, whose members are saved at one safe point (R394, R399).
While the partner cannot be saved there, since it has stopped or its slot has no save area, the request stays pending (DESIGN CHOICE; log 86). -/
def saveAsked (s : State) (c : CtxId) : Option Nat :=
  if (gangMate s c).all fun d => isActive (getCtx s d).run && (getCtx s d).run != .saving && (getCtx s d).saveAt != 0 then
    (c :: (gangMate s c).toList).findSome? fun d => (getCtx s d).preemptAt
  else none

/-- The request is taken, by every member of a gang (R394, R399). -/
def beginSaves (c : CtxId) (s : State) : State :=
  match saveAsked s c with
  | some t => (c :: (gangMate s c).toList).foldl (fun s d => beginSave d (modCtx s d fun x => { x with preemptAt := some (x.preemptAt.getD t) })) s
  | none => s

/-- The header at the context's pc, from its instruction buffer where that holds its line (R154). -/
def headerOf (s : State) (c : CtxId) : Option Header :=
  (heldLine c (lineAddr (getCtx s c).pc) s).2.bind fun bs => decodeHeader (parcelOf bs (parcelNo (getCtx s c).pc))

/-- Its LX field. -/
def headerLx (s : State) (c : CtxId) : Nat := match headerOf s c with | some h => if h.sp then h.lx.toNat else 0 | none => 0

/-- The context stands before a safe-point bundle that issues there: its target is aligned (R95), its header and its length pass their
checks, and no R89 skips it (R156). -/
def atSafePoint (s : State) (c : CtxId) : Bool :=
  let x := getCtx s c
  match headerOf s c with
  | some h => h.sp && (headerReject h).isNone && decide (parcelNo x.pc + bundleLen h.p ≤ 16) && !(x.cameFrom.isSome && x.pc.toNat % 4 != 0) &&
      !skips h { s with ctx := x }
  | none => false

/-- PREEMPTION at the safe point before which the context stands (R156, R394). -/
def execPreemption (s : State) : Res :=
  .next (if atSafePoint s s.input.ctx then beginSaves s.input.ctx s else s)

/-- What the save area does not hold. -/
def keptOf (x : Ctx) : Kept :=
  ⟨x.lands, x.wSpoilt, x.windows, x.bara, x.arriving, x.clock, x.relClock, x.readClock, x.ibuf, x.chans, x.fillFrom⟩

/-- Where a program's Kept stands. -/
def keptKey (x : Ctx) : Nat := x.ident.rank * 16 + x.slotNo

/-- SAVE_AREA_WRITE: the drained context is saved and kind 6 posted; a fault found meanwhile is taken first (R250, R260,
R396). Its LX is read from the bundle of the safe point. While a write of the area waits for sectors or for its page, the context goes on
saving, and writes the area anew once that is made (R394; DEDUCED, log 89). -/
def execSaveAreaWrite (s : State) : Res :=
  let c := s.input.ctx
  let x := getCtx s c
  if x.run ≠ .saving then .next s
  else
    match x.late with
    | f :: rest =>
      let x' := { x with late := rest, run := .running }
      .next (takeTrap c (f.epc.getD x.pc) (causeWord f.cause false (f.kind == .engine) false false none) f.tval (setCtx s c x'))
    | [] =>
      if !drained s c || owes s (.area c) then .next s
      else
        let x := closeShadows (drain s c x)
        let lx := headerLx s c
        let live := liveAt s c lx
        let runs := match taskOf s x.task with | some t => t.runs | none => 0
        let body := areaBody x (windowTiles s c) runs live.classes lx live.ranges.length false
        let w (off : Nat) (bs : List Byte) (s : State) : State := deviceWrite (.area c) c false x.ptbase x.asid (x.saveAt + off) bs s
        let s := w 0 body (setCtx s c x)
        let s := (rangePlaces live.ranges 0x43000).foldl (fun s e => w e.2.2 (spmRead s (spmKey (c.coreNo, x.soff + e.1)) e.2.1) s) s
        if owes s (.area c) then .next s else
        let s := modTask s x.task fun t => { t with away := t.away ++ [c.num], kept := Tbl.set t.kept (keptKey x) (keptOf x) }
        let s := postCtx s c x.pc 6 0 0
        .next (modCtx s c fun x => { x with run := .free, task := 0, chans := [], regions := Vector.replicate 16 none, preemptAt := none, late := [], lands := [], arriving := [] })

/-- PREEMPTION_LIMIT: a request that has waited SYS_PREEMPT cycles and has not been taken ends the target (R395). -/
def execPreemptionLimit (s : State) : Res :=
  let c := s.input.ctx
  match (getCtx s c).preemptAt with
  | some t0 =>
    if s.dev.preempt = 0 ∨ (getCtx s c).run = .saving ∨ ¬(isActive (getCtx s c).run ∨ (getCtx s c).run = .stopped) then .next s
    else .next (killCtx c (some (0, 1)) (reach (t0 + s.dev.preempt) s))
  | none => .next s

/-- CTXSTOP K = 0 (R394). -/
def execCtxstopSafe (t : SR) (s : State) : Res :=
  needPriv .control s fun s => guardRegs [.s t] [] s fun s => needUser (rdS s t) s fun c =>
    let x := getCtx s c
    match x.run with
    | .free | .retired | .ended | .halted => .next s
    | _ =>
      if x.saveAt = 0 then protection s
      else .next (modCtx s c fun x => { x with preemptAt := some (x.preemptAt.getD s.now) })

/-- The cause of a kill (R381): the target's frame, if it has stopped; else the latest fault of its task. With neither, as
after a pre-emption that met its limit, TRAP's code stands (DESIGN CHOICE; log 59). -/
def killCause (s : State) (x : Ctx) : BitVec 8 :=
  if x.run = .stopped ∧ x.cause.truncate 8 ≠ (0 : BitVec 8) then x.cause.truncate 8
  else ((taskOf s x.task).bind (·.fault)).getD 0x1E

/-- CTXSTOP K = 1 ends the target as kill self at context level; K = 2, 3 raise protection (R356, R394, R400). -/
def execCtxstopKill (t : SR) (k : Fin 4) (s : State) : Res :=
  needPriv .control s fun s =>
  if 2 ≤ k.val then protection s
  else guardRegs [.s t] [] s fun s => needUser (rdS s t) s fun c =>
    if k = 0 then
      let x := getCtx s c
      match x.run with
      | .free | .retired | .ended | .halted => .next s
      | _ =>
        if x.saveAt = 0 then protection s
        else .next (modCtx s c fun x => { x with preemptAt := some (x.preemptAt.getD s.now) })
    else
      let x := getCtx s c
      if x.run = .free then .next s
      else .next (killCtx c (some (0, 0)) (doom x.task (killCause s x) s))

/-! ## Restore (R19, R398, R399) -/

/-- Registers of a saved class, or unpredictable ones. -/
def savedOr {α : Type} (m : BitVec 16) (i : Nat) (v free : α) : α := if cls m i then v else free

def freeWord (s : State) (k : Nat) : Word := Config.free s.tick (2 ^ 58 + k)

/-- A word of the area. -/
def areaWord (bs : List Byte) (off : Nat) : Word := BitVec.ofNat 64 (imgNat bs off 8)

def areaRegion (bs : List Byte) (i : Nat) : Option Region :=
  let o := 0x500 + 32 * i
  if imgNat bs (o + 21) 1 = 1 then some ⟨imgNat bs o 8, imgNat bs (o + 8) 8, imgNat bs (o + 16) 4, imgNat bs (o + 20) 1 == 1, [], []⟩
  else none

/-- The context that a save area holds, with what its program kept beside it (R399). A bad witness image leaves KIND, CNT, EW
and SEQ as the image has them, and an omitted witness has a tag of 0: the spec says only that they are invalid (DESIGN
CHOICE; log 52). One that was within its producer's bound, or unpredictable, when it was saved is no more so when the mask omits it,
so that its use raises stale (DESIGN CHOICE between R57 and R54, R232; log 82). The reserved bits of fmt read 0 (R6, R74). -/
def restoredCtx (s : State) (t : Task) (c : CtxId) (bs : List Byte) (old : Ctx) : Ctx :=
  let m := BitVec.ofNat 16 (imgNat bs 52 2)
  let fw (k : Nat) : Word := freeWord s k
  let slot := 4 * imgNat bs 36 1 + imgNat bs 40 1
  let rank := clusterRank t.dmask (imgNat bs 38 1 * 12 + imgNat bs 37 1)
  let kept := (Tbl.get? t.kept (rank * 16 + slot)).getD (keptOf Ctx.blank)
  let r := t.record.slots.getD slot ⟨0, 0, 0, 0, 0, 0⟩
  let wit (i : Nat) : Wit :=
    let im := (bs.drop (0x700 + 136 * i)).take 136
    if cls m 6 then
      let w := witOf im
      if badImage im then { w with entries := Vector.ofFn fun j => (fw (3000 + 64 * i + j.val)).truncate 16, tag := w.tag &&& 0x0FFEFFFF } else w
    else ⟨Vector.ofFn fun j => (fw (3000 + 64 * i + j.val)).truncate 16, 0⟩
  { Ctx.blank with
    run := .running, pc := areaWord bs 8
    s := Vector.ofFn fun i => if i.val = 0 then 0 else savedOr m 0 (areaWord bs (0x100 + 8 * i.val)) (fw i.val)
    a := Vector.ofFn fun i => savedOr m 1
      ⟨areaWord bs (0x200 + 32 * i.val), Vector.ofFn fun l => BitVec.ofNat 15 (imgNat bs (0x200 + 32 * i.val + 8 + 2 * l.val) 2)⟩
      ⟨fw (100 + i.val), Vector.ofFn fun l => (fw (200 + 8 * i.val + l.val)).truncate 15⟩
    p := Vector.ofFn fun i => i.val == 0 || savedOr m 2 ((imgNat bs 0x400 8).testBit i.val) ((fw 400).getLsbD i.val)
    b := Vector.ofFn fun i => savedOr m 3 (areaWord bs (0x408 + 8 * i.val)) (fw (410 + i.val))
    v := Vector.ofFn fun i => Vector.ofFn fun j => savedOr m 4 (BitVec.ofNat 32 (imgNat bs (0xC00 + 256 * i.val + 4 * j.val) 4))
      ((fw (500 + 64 * i.val + j.val)).truncate 32)
    m := Vector.ofFn fun i => if i.val = 0 then BitVec.allOnes 64 else savedOr m 5 (areaWord bs (0x448 + 8 * i.val)) (fw (420 + i.val))
    w := Vector.ofFn fun i => wit i.val
    fmtOld := savedOr m 8 (BitVec.ofNat 32 (imgNat bs 0x488 4)) ((fw 430).truncate 32) &&& 0x3FFF
    seeds := Vector.ofFn fun i => savedOr m 9 (areaWord bs (0x490 + 8 * i.val)) (fw (440 + i.val))
    depth := savedOr m 9 (imgNat bs 0x4D0 1) ((fw 450).toNat % 8 + 1)
    wctr := BitVec.ofNat 16 (imgNat bs 24 2)
    loops := (List.range (min 6 (imgNat bs 26 1))).map fun i =>
      ⟨areaWord bs (0x40 + 32 * i), areaWord bs (0x48 + 32 * i), areaWord bs (0x50 + 32 * i), areaWord bs (0x58 + 32 * i)⟩
    sc := imgNat bs 16 8
    closed := (List.finRange 64).filter fun i => (imgNat bs 0x4D8 8).testBit i.val
    regions := Vector.ofFn fun i => areaRegion bs i.val
    ident := { core := imgNat bs 36 1, clu := imgNat bs 37 1, die := imgNat bs 38 1, dev := imgNat bs 39 1, ctx := imgNat bs 40 1
               gang := imgNat bs 27 1, gx := imgNat bs 41 1, rank := rank, dmask := t.dmask }
    tbase := imgNat bs 44 1, tcount := imgNat bs 30 1, soff := imgNat bs 48 4, scr := imgNat bs 32 4, task := t.id, slotNo := slot
    saveAt := r.save, recAt := t.recAt, ptbase := s.ctx.ptbase, asid := t.record.asid
    lands := kept.lands.filter fun l => cls m 6 || (match l.reg with | .w _ => false | _ => true)
    wSpoilt := if cls m 6 then kept.wSpoilt else []
    windows := kept.windows ++ (windowsInto s t.id c).filter fun w => !(kept.windows.any fun v => v.id == w.id)
    bara := kept.bara, arriving := kept.arriving, fillFrom := kept.fillFrom
    ibuf := kept.ibuf, relClock := kept.relClock, readClock := kept.readClock
    clock := Tbl.set kept.clock c.num (max (clockGet kept.clock c.num) (clockGet old.clock c.num) + 1), started := s.now }

/-- The window and reservation of a saved context fit beside the live ones (R398). -/
def areaFits (s : State) (core : Nat) (bs : List Byte) : Bool :=
  let live := liveOn s core
  let tb := imgNat bs 44 1
  let n := imgNat bs 30 1
  decide (tb + n ≤ 16) && live.all fun w => !overlaps tb n w.1 w.2.1 && !overlaps (imgNat bs 48 4) (imgNat bs 32 4) w.2.2.1 w.2.2.2

/-- The saved program may continue on the issuing cluster (R398). -/
def programHere (s : State) (t : Task) (g saved : Nat) : Bool :=
  placeOfCluster t saved == g ||
    (((usedSlots t.record).all fun e => t.away.contains (userCtx (4 * placeOfCluster t saved + e.1 / 4) (e.1 % 4)).num) &&
      !((bitsOf t.dmask).any fun h => placeOfCluster t h == g) && !stackFenced s g)

/-- A saved program moves to cluster g with all its contexts (R398). -/
def moveProgram (t : Task) (saved g : Nat) : Task :=
  let old := placeOfCluster t saved
  if old = g then t
  else
    let rename (n : Nat) : Nat := if n / 16 = old then n % 16 + 16 * g else n
    { t with moved := Tbl.set t.moved saved g, away := t.away.map rename }

/-- The channels of a restored program know its latest sends (R105). -/
def keepSends (c : CtxId) (old : List ChanBind) (s : State) : State :=
  modCtx s c fun x => { x with chans := x.chans.map fun b => { b with sent := ((old.find? fun o => o.num = b.num).map (·.sent)).getD [] } }

/-- The area's registers, tiles and ranges land on the target (R398, R399); area is its address: SYS_TVAL of a bad witness
image holds that image's (R236, R362). -/
def restoreUser (c : CtxId) (t : Task) (area : Nat) (bs : List Byte) (s : State) : State :=
  let g := c.cluster
  let saved := imgNat bs 38 1 * 12 + imgNat bs 37 1
  let m := BitVec.ofNat 16 (imgNat bs 52 2)
  let s := modTask s t.id fun u => let u := moveProgram u saved g; { u with away := u.away.filter (· ≠ c.num) }
  let x := restoredCtx s t c bs (getCtx s c)
  let s := setCtx (forgetTokens c s) c x
  let s := (List.range x.tcount).foldl (fun s n =>
    let rows : Vector Vec 64 := Vector.ofFn fun i => Vector.ofFn fun j =>
      savedOr m 7 (BitVec.ofNat 32 (imgNat bs (0x3000 + 16384 * n + 256 * i.val + 4 * j.val) 4)) ((freeWord s (2 ^ 40 + 4096 * n + 64 * i.val + j.val)).truncate 32)
    setTile c.coreNo (x.tbase + n) (fun _ =>
      withFlags { Tile.zero with rows := rows } (savedOr m 7 (BitVec.ofNat 4 (imgNat bs (0xB40 + 8 * n) 1)) (freeFlags s))) s) s
  let badWit := (List.range 8).filter fun i => cls m 6 && badImage ((bs.drop (0x700 + 136 * i)).take 136)
  let s := badWit.foldl (fun s i => addLate s c ⟨.image, 0x0E, BitVec.ofNat 64 (area + 0x700 + 136 * i), 0, none⟩) s
  let kept := (Tbl.get? t.kept (keptKey x)).getD (keptOf Ctx.blank)
  modTask (keepSends c kept.chans (bindChans c t (l1gDropAll s g))) t.id fun u => { u with kept := Tbl.erase u.kept (keptKey x) }

/-- The scratchpad of the reservation: saved ranges, the rest unpredictable (R30, R399). -/
def restoreRanges (c : CtxId) (ranges : List (Nat × Nat × List Byte)) (soff scr : Nat) (s : State) : State :=
  let base := c.coreNo * coreBytes + soff
  let free : List Byte := (List.range scr).map fun i => (freeWord s (2 ^ 41 + i)).truncate 8
  let s := { s with spm := s.spm.writeBytes base free }
  ranges.foldl (fun s e => spmWrite (base + e.1) e.2.2 s) s

/-! ## CTXSTART (R357, R382, R398) -/

/-- The dispatched task whose record lies at a physical address: the tables of its launch map it there (R382). -/
def taskAt (s : State) (key : Nat) : Option Task :=
  s.tasks.find? fun t => t.phase = .dispatched ∧ ¬ isReplay t.id ∧ tableKey s s.who.stack t.lpt t.recAt = some key

/-- The address that CTXSTART reads. -/
def areaAddr (a : AR) (s : State) (k : Nat → Res) : Res :=
  let addr := (ea s a 0).toNat
  if 2 ^ 56 ≤ addr then trapAt 12 0x0C (BitVec.ofNat 64 addr) s else k addr

/-- Starts compute context c from the record at EA(a), which the issuing core's tables translate (R382). One of which a kill has
ended the slot is not started (log 59). -/
def startFromRecord (c : CtxId) (addr : Nat) (s : State) : Res :=
  sysRead addr 4 s fun s _ =>
    match (tableKey s s.who.stack s.ctx.ptbase addr).bind (taskAt s) with
    | none => protection s
    | some t =>
      let slot := 4 * (c.coreNo % 4) + (match c with | .user _ x => x.val | _ => 0)
      let r := t.record.slots.getD slot ⟨0, 0, 0, 0, 0, 0⟩
      if r.entry = 0 ∨ !((bitsOf t.dmask).contains c.cluster) ∨ (getCtx s c).run ≠ .free ∨ t.gone.contains c.num then protection s
      else .next (startUser c t slot r s)

/-- The saved ranges at an area, each with its place in the reservation: a read that fails faults (R399). -/
def readRanges (area : Nat) : List (Nat × Nat × Nat) → List (Nat × Nat × List Byte) → State → (State → List (Nat × Nat × List Byte) → Res) → Res
  | [], acc, s, k => k s acc
  | e :: rest, acc, s, k => sysRead (area + e.2.2) e.2.1 s fun s bs => readRanges area rest (acc ++ [(e.1, e.2.1, bs)]) s k

/-- Restores compute context c from the save area at EA(a) (R398). -/
def restoreFromArea (c : CtxId) (addr : Nat) (s : State) : Res :=
  sysRead addr 0x43000 s fun s bs =>
    match taskOf s (imgNat bs 4 4) with
    | none => protection s
    | some t =>
      let x := match c with | .user _ x => x.val | _ => 0
      let saved := imgNat bs 38 1 * 12 + imgNat bs 37 1
      if (getCtx s c).run ≠ .free ∨ imgNat bs 36 1 ≠ c.coreNo % 4 ∨ imgNat bs 40 1 ≠ x ∨ t.phase ≠ .dispatched ∨
          t.runs % 65536 ≠ imgNat bs 42 2 ∨ !programHere s t c.cluster saved ∨ !areaFits s c.coreNo bs ∨ t.gone.contains c.num then protection s
      else if imgNat bs 27 1 ≠ (if ganged s c.coreNo then 2 else 1) then
        .next (postFault s ⟨areaWord bs 8, t.id, c.cluster, c.who, 3, 0x1F, 0⟩)
      else
        let live := ((imageAt s t.record.image).bind fun m => m.live[imgNat bs 28 2]?).getD ⟨0, []⟩
        let places := rangePlaces (live.ranges.take (imgNat bs 31 1)) 0x43000
        readRanges addr places [] s fun s read =>
          .next (restoreUser c t addr bs (restoreRanges c read (imgNat bs 48 4) (imgNat bs 32 4) s))

/-- CTXSTART M = 0 from a task record: a compute target starts (R382). -/
def execCtxstart (t : SR) (a : AR) (s : State) : Res :=
  needPriv .both s fun s => guardRegs [.s t] [] s fun s => needTarget (rdS s t) s fun c =>
    if c.isSys then protection s else guardRegs [.a a] [] s fun s => areaAddr a s fun addr => startFromRecord c addr s

/-- CTXSTART M = 0 from a save area, which begins with "CTXS" (R398). -/
def execCtxstartRestore (t : SR) (a : AR) (s : State) : Res :=
  needPriv .both s fun s => guardRegs [.s t] [] s fun s => needTarget (rdS s t) s fun c =>
    if c.isSys then protection s else guardRegs [.a a] [] s fun s => areaAddr a s fun addr => restoreFromArea c addr s

/-- CTXSTART of a control core, once since reset (R357). -/
def execCtxstartControlCore (t : SR) (a : AR) (s : State) : Res :=
  needPriv .both s fun s => guardRegs [.s t] [] s fun s => needTarget (rdS s t) s fun c =>
    match c with
    | .ctl g => guardRegs [.a a] [] s fun s => if s.dev.started.contains g.val then protection s else .next (startControl c (ea s a 0) s)
    | _ => protection s

/-- CTXSTART M = 1 resumes a stopped compute target at its SYS_EPC (R359, R464). -/
def execCtxstartR (t : SR) (s : State) : Res :=
  needPriv .both s fun s => guardRegs [.s t] [] s fun s => needTarget (rdS s t) s fun c =>
    let x := getCtx s c
    if c.isSys ∨ x.run ≠ .stopped then protection s
    else .next (setCtx s c { x with run := .running, pc := x.epc, status := putBit x.status stSTOP false, resume := true, cameFrom := none })

end Sys2Proof.Machine
end

