-- ==== Sys2Proof/Machine/Audit.lean ====
section
/-! DEFINITION. The Echo auditor (R440–R444): the replay of a sampled task, its placement and its end, the signatures that are compared,
and the vote. What a run retains, and how a replay's accesses are served, stands in Mem. -/

namespace Sys2Proof.Machine

/-! ## The write set of a run (R444) -/

/-- The entries of a version in the rings, the youngest last. -/
def ringWrites (s : State) (id : Nat) : List Bounce :=
  let insert (e : Bounce) (es : List Bounce) : List Bounce := es.filter (fun x => decide (x.age ≤ e.age)) ++ [e] ++ es.filter fun x => decide (e.age < x.age)
  ((entriesOf' s id).map (·.2)).foldl (fun es e => insert e es) []

/-- The lines of a version by virtual address, rising, each with the bytes that are written; its entries in the rings stand in it as at their
destination (R415). -/
def writeSet (s : State) (t : Task) : Tbl (List (Option Byte)) :=
  let held := t.lines.foldl (fun (l : Tbl (List (Option Byte))) e => Tbl.set l e.2 ((List.range 64).map fun i => Tbl.get? t.version (64 * e.1 + i))) []
  (ringWrites s t.id).foldl (fun l e => [e.va / 64, e.va / 64 + 1].foldl (fun l line =>
    let new := (List.range 64).map fun i => Tbl.get? e.bytes (64 * (line % 2) + i)
    if new.all (·.isNone) then l
    else
      let old := (Tbl.get? l line).getD (List.replicate 64 none)
      Tbl.set l line ((new.zip old).map fun b => b.1.orElse fun _ => b.2)) l) held

/-- The write-set signature of a run (R444). -/
def writeSetSig (s : State) (t : Task) : Word :=
  (writeSet s t).foldl (fun S e =>
    let va := 64 * e.1
    let mask := (List.range 64).foldl (fun m i => if (e.2.getD i none).isSome then m + 2 ^ i else m) 0
    foldWords S ([BitVec.ofNat 32 va, BitVec.ofNat 32 (va / 2 ^ 32), BitVec.ofNat 32 mask, BitVec.ofNat 32 (mask / 2 ^ 32)] ++
      wordsOf 16 (e.2.map fun b => b.getD 0))) 0

/-! ## A replay's placement and start (R443) -/

/-- Where a replay of a task runs, beside the clusters of earlier runs of the audit: the first stack after the lead stack that can hold it as
RELOC = 1 would place it, else other clusters of the lead stack. Its clusters, lowest first, and its slots. -/
def replayPlace (s : State) (t : Task) (used : Nat) : Option (List Nat × List (Nat × SlotRec)) :=
  let lead := lowestBit t.dmask / 12
  let r := t.record
  (List.range 8).findSome? fun i =>
    let n := (lead + 1 + i) % 8
    let fits (g : Nat) : Bool := !used.testBit g && clusterFree s r g && gangFits s (imageAt s r.image) r g && !stackFenced s g
    let gs := (((List.range 12).map (12 * n + ·)).filter fits).take (popcount r.mask)
    if gs.length = popcount r.mask then (assignSlots s gs (usedSlots r) []).map fun xs => (gs, xs) else none

/-- The run that a replay begins with: the same record but for its place, and an empty version. It belongs to no ordered launch and to no
channel group of other devices, since it neither commits nor meets them (MODEL). -/
def replayTask (s : State) (t : Task) (k : Nat) (gs : List Nat) (xs : List (Nat × SlotRec)) : Task :=
  let r := putSlots t.record xs
  { t with id := replayId t.id k, record := { r with flags := r.flags &&& 0xFE, cgrp := 0 }, phase := .dispatched
           dmask := gs.foldl (fun m g => m + 2 ^ g) 0, barriers := barriersOf (imageAt s r.image), audit := .none, retained := []
           version := [], lines := [], writers := [], vpoison := [], reads := [], touches := [], doomed := false, dropped := false
           fault := none, error := none, kept := [], gone := [], away := [], moved := [], times := [], blocking := false }

/-- Every context of a replay starts as CTXSTART starts it (R382), at the auditor's hand and with the root of the control core that its
rank's cluster had (DEDUCED from R402, R443; log 92). -/
def startReplay (t : Task) (k : Nat) (gs : List Nat) (xs : List (Nat × SlotRec)) (s : State) : State :=
  let u := replayTask s t k gs xs
  ((bitsOf t.dmask).zip gs).foldl (fun s e => (usedSlots u.record).foldl (fun s x =>
    let c := userCtx (4 * e.2 + x.1 / 4) (x.1 % 4)
    let root := (getCtx s (.ctl (Fin.ofNat 96 e.1))).ptbase
    modCtx (startUser c u x.1 x.2 s) c fun y => { y with ptbase := root }) s) { s with tasks := s.tasks ++ [u] }

/-- The cycle from which on a replay that has found no placement is given up (R441). -/
def placeLimit (t : Task) : Nat := t.waitFrom + 2 ^ 20

/-- No placement has been found in time (R441); of a vote, the replay's signature and place are known. -/
def placeLost (t : Task) (s : State) : State :=
  match t.audit with
  | .replayed x _ mask => abandonAudit t 3 (writeSetSig s t) x (some mask) s
  | _ => abandonAudit t 3 (writeSetSig s t) 0 none s

/-- A replay that waits for a placement starts if there is one; next: the audit while it runs. -/
def seekPlace (t : Task) (k used : Nat) (next : AuditState) (s : State) : State :=
  if placeLimit t < s.now then placeLost t s
  else match replayPlace s t used with
    | some (gs, xs) => startReplay t k gs xs (modTask s t.id fun t => { t with audit := next })
    | none => s

/-- Clusters that the next run of an audit may not take: those of its earlier ones. -/
def usedClusters (t : Task) : Nat := match t.audit with | .replayed _ _ mask => t.dmask ||| mask | _ => t.dmask

/-! ## The end of a replay (R441, R444) -/

/-- A replay has met a fault, for any cause, or a context of it has been stopped, ended or saved (R441). -/
def replayFailed (s : State) (r : Task) : Bool :=
  r.fault.isSome || r.dropped || r.doomed || !r.away.isEmpty ||
    (ctxsOf s r.id).any fun c => match (getCtx s c).run with
      | .stopped | .ended | .halted | .saving => true
      | _ => false

/-- How a replay run has ended: by a fault (none), or with a signature and a line count; nothing while it runs. What its hardware makes of
it may differ (input). -/
def replayEnd (s : State) (r : Task) : Option (Option (Word × Nat)) :=
  if replayFailed s r || s.input.outcome == .faulted then some none
  else if allEnded s r && !taskBusy s r then
    match s.input.outcome with
    | .ran sig n => some (some (sig, n))
    | _ => some (some (writeSetSig s r, (writeSet s r).length))
  else none

/-- The audit has passed, or its mismatch has been reported: nothing holds the task's TCOMMIT back. -/
def endAudit (id : Nat) (s : State) : State := modTask s id fun t => { t with audit := .passed, retained := [] }

/-- A replay's run ends: its version is gone and its clusters are free. -/
def leaveReplay (id k : Nat) (s : State) : State := serveAll (dropReplay id k s)

/-- AUDIT_REPLAY: the replay of a completed sampled task finds its placement and starts, and ends. Its signature and its line count are compared
with the original's (R441, R443, R444). -/
def execAuditReplay (s : State) : Res :=
  match taskOf s s.input.task.toNat with
  | none => .next s
  | some t =>
    if t.phase ≠ .completed then .next s
    else match t.audit, taskOf s (replayId t.id 1) with
      | .sampled, _ => .next (seekPlace t 1 (usedClusters t) .replaying s)
      | .replaying, some r =>
        let sig := writeSetSig s t
        match replayEnd s r with
        | none => .next s
        | some none => .next (abandonAudit t 4 sig 0 (some r.dmask) (leaveReplay t.id 1 s))
        | some (some (x, n)) =>
          let u := leaveReplay t.id 1 s
          if x = sig ∧ n = (writeSet s t).length then .next (endAudit t.id u)
          else .next (modTask u t.id fun t => { t with audit := .replayed x n r.dmask, waitFrom := s.now })
      | _, _ => .next s

/-- The verdict of a vote (R442, R444): 1 where it agrees with the original, 2 where with the replay, else 3. -/
def verdictOf (orig replay vote : Word × Nat) : Nat := if vote = orig then 1 else if vote = replay then 2 else 3

/-- AUDIT_VOTE: after a mismatch a third run finds its placement and starts, and ends; the run that it agrees with is named, one class-11 event
counts, and audit mismatch is raised at task level. One that faults abandons the audit as a replay does (R441, R444; DEDUCED, log 92). -/
def execAuditVote (s : State) : Res :=
  match taskOf s s.input.task.toNat with
  | none => .next s
  | some t =>
    if t.phase ≠ .completed then .next s
    else match t.audit, taskOf s (replayId t.id 2) with
      | .replayed x n mask, _ => .next (seekPlace t 2 (usedClusters t) (.voting x n mask) s)
      | .voting x n mask, some r =>
        let orig := (writeSetSig s t, (writeSet s t).length)
        match replayEnd s r with
        | none => .next s
        | some none => .next (abandonAudit t 4 orig.1 x (some mask) (leaveReplay t.id 2 s))
        | some (some vote) =>
          let u := auditRecord t (verdictOf orig (x, n) vote) 0 orig.1 x (some mask) (leaveReplay t.id 2 s)
          .next (taskFault t.id 0x18 (endAudit t.id (countEvents none [11] u)))
      | _, _ => .next s

/-- AUDIT_PLACEMENT_LIMIT: no placement of the replay, or of the vote, has been found within 2^20 cycles (R441, R443). -/
def execAuditPlacementLimit (s : State) : Res :=
  match taskOf s s.input.task.toNat with
  | none => .next s
  | some t =>
    let waiting := match t.audit with | .sampled | .replayed _ _ _ => true | _ => false
    if t.phase ≠ .completed ∨ !waiting ∨ (s.now ≤ placeLimit t ∧ (replayPlace s t (usedClusters t)).isSome) then .next s
    else .next (placeLost t (reach (placeLimit t) s))

end Sys2Proof.Machine
end

