-- ==== Sys2Proof/Machine/Privileged.lean ====
section
/-! DEFINITION. The privileged instructions GETSYS, SETSYS, ERET, EQPOP, WFI and TLBINV (R353–R363, R408–R413), and the
entry of an interrupt (R360, R361). -/

namespace Sys2Proof.Machine

/-! ## The SYS_ registers (R353, R354) -/

/-- Registers of context scope. -/
def ctxScope (sel : Nat) : Bool := decide (sel < 7)

/-- The selectors of R353. -/
def sysListed (sel : Nat) : Bool :=
  ctxScope sel || (decide (0x010 ≤ sel) && decide (sel < 0x018)) || (decide (0x020 ≤ sel) && decide (sel < 0x027)) ||
    (decide (0x040 ≤ sel) && decide (sel < 0x060))

/-- SYS_FEATDEV0–3 (R364). -/
def featDev (i : Nat) : Word := if i = 0 then 0x7FF else 0

/-- SYS_BIND of a stack: bit n is 1 when front end n drives a logical core (R353). -/
def bindMap (st : Stack) : Word := BitVec.ofNat 64 ((List.range 52).foldl (fun m n => if st.binds.any fun b => b.2.fe == n then m + 2 ^ n else m) 0)

/-- A register of context scope. -/
def ctxReg (x : Ctx) (sel : Nat) : Word :=
  match sel with
  | 0 => x.status
  | 1 => x.cause
  | 2 => x.epc
  | 3 => x.tval
  | 4 => x.vbase
  | 5 => x.ptbase
  | _ => x.asid.zeroExtend 64

/-- A register of device or stack scope, as the issuing core's stack sees it. -/
def devReg (s : State) (sel : Nat) : Word :=
  let d := s.dev
  if sel < 0x014 then featDev (sel - 0x010)
  else if sel < 0x018 then d.featAck.toList.getD (sel - 0x014) 0
  else if sel = 0x020 then BitVec.ofNat 64 d.quantum
  else if sel = 0x021 then BitVec.ofNat 64 d.preempt
  else if sel = 0x022 then BitVec.ofNat 64 d.audit
  else if sel = 0x023 then bindMap (stackOf s s.who.stack)
  else if sel = 0x024 then d.errlog
  else if sel = 0x025 then d.debug
  else if sel = 0x026 then BitVec.ofNat 64 d.watchdog
  else if sel < 0x050 then (if deadClass (sel - 0x040) then 0 else d.thresh.toList.getD (sel - 0x040) 0)
  else if deadClass (sel - 0x050) then 0 else d.window.toList.getD (sel - 0x050) 0

def keepBits (v : Word) (lo n : Nat) : Word := BitVec.ofNat 64 (bitsAt v.toNat lo n * 2 ^ lo)

/-- A write of a register of context scope, subject to its reserved and read-only bits; a compute context stays in user
mode (R351, R354). -/
def putCtxReg (c : CtxId) (sel : Nat) (v : Word) (x : Ctx) : Ctx :=
  match sel with
  | 0 => { x with status := (if c.isSys then keepBits v 0 5 else keepBits v 1 4) ||| (x.status &&& 0x20) }
  | 1 => { x with cause := keepBits v 16 4 ||| keepBits v 0 12 }
  | 2 => { x with epc := v }
  | 3 => { x with tval := v }
  | 4 => { x with vbase := keepBits v 6 58 }
  | 5 => { x with ptbase := keepBits v 12 44 }
  | _ => { x with asid := v.truncate 16 }

/-- A write of a register of device scope but THRESH, WINDOW and FEATACK; the read-only ones ignore it (R353, R358). -/
def putDevReg (sel : Nat) (v : Word) (d : Dev) : Dev :=
  match sel with
  | 0x020 => { d with quantum := max 1 (bitsAt v.toNat 0 16) }
  | 0x021 => { d with preempt := bitsAt v.toNat 0 32 }
  | 0x022 => { d with audit := min 4096 (bitsAt v.toNat 0 13) }
  | 0x024 => { d with errlog := keepBits v 12 44 }
  | 0x025 => { d with debug := if getBit d.featAck[0] 10 then keepBits v 0 3 else keepBits v 1 2 }
  | 0x026 => { d with watchdog := bitsAt v.toNat 0 32 }
  | _ => d

/-- A write of SYS_THRESH_n or SYS_WINDOW_n also restarts the class's window (R432). -/
def putWatchReg (sel : Nat) (v : Word) (s : State) : State :=
  let n : Fin 16 := Fin.ofNat 16 sel
  if deadClass n.val then s
  else
    modDev s fun d =>
      let d := { d with wc := d.wc.set n.val 0, wstart := d.wstart.set n.val s.now }
      if sel < 0x050 then { d with thresh := d.thresh.set n.val (keepBits v 0 34) } else { d with window := d.window.set n.val (keepBits v 0 32) }

/-- A write of SYS_FEATACKn before the first start of a compute context (R358, R363). -/
def putFeatReg (sel : Nat) (v : Word) (s : State) : State :=
  let i := (sel - 0x014) % 4
  if s.dev.computeStarted then s
  else modDev s fun d => { d with featAck := d.featAck.set i (v &&& featDev i) (Nat.mod_lt _ (by decide)) }

/-- A targeted access: a register of context scope, then a target that R355 allows (R356). Both are checked before any
register but t is looked at (R102); before: the sources that precede t in operand order, which are named first where t fails (R484). -/
def targeted (t : SR) (sel : Nat) (before : List RegName) (s : State) (k : CtxId → Res) : Res :=
  if t = 0 then k s.who
  else if !ctxScope sel then protection s
  else
    let first := if hazardMode s && exposed s (.s t) then before.filter (exposed s ·)
      else if s.ctx.badRegs.contains (.s t) then before.filter fun r => s.ctx.badRegs.contains r && !interlocked s r else []
    guardRegs (first ++ [.s t]) [] s fun s => needTarget (rdS s t) s k

/-- What GETSYS reads. -/
def sysValue (s : State) (c : CtxId) (sel : Nat) : Word := if ctxScope sel then ctxReg (getCtx s c) sel else devReg s sel

/-- GETSYS (R353–R359). -/
def execGetsys (d t : SR) (sel : BitVec 12) (s : State) : Res :=
  if !sysListed sel.toNat then reserved s
  else needPriv .both s fun s => targeted t sel.toNat [] s fun c => guardRegs [] [.s d] s fun s =>
    .next (land (.s d) (.word (sysValue s c sel.toNat)) 1 s)

/-- SETSYS of every register but THRESH, WINDOW and FEATACK (R353–R359); a new log shows every total so far (R435). -/
def execSetsys (x t : SR) (sel : BitVec 12) (s : State) : Res :=
  if !sysListed sel.toNat then reserved s
  else needPriv .both s fun s => targeted t sel.toNat [.s x] s fun c => guardRegs [.s x] [] s fun s =>
    if ctxScope sel.toNat then .next (modCtx s c (putCtxReg c sel.toNat (rdS s x)))
    else
      let s := modDev s (putDevReg sel.toNat (rdS s x))
      .next (if sel.toNat = 0x024 then showTotals s else s)

/-- SETSYS of SYS_THRESH_n or SYS_WINDOW_n (R353, R432). -/
def execSetsysThreshWindow (x t : SR) (sel : BitVec 12) (s : State) : Res :=
  needPriv .both s fun s => targeted t sel.toNat [.s x] s fun _ => guardRegs [.s x] [] s fun s => .next (putWatchReg sel.toNat (rdS s x) s)

/-- SETSYS of SYS_FEATACK0–3 (R358, R363). -/
def execSetsysFeatack (x t : SR) (sel : BitVec 12) (s : State) : Res :=
  needPriv .both s fun s => targeted t sel.toNat [.s x] s fun _ => guardRegs [.s x] [] s fun s => .next (putFeatReg sel.toNat (rdS s x) s)

/-! ## ERET, EQPOP, WFI (R359) -/

/-- ERET (R359). -/
def execEret (s : State) : Res := needPriv .both s fun s => .next (returnFromTrap s)

/-- Bytes 8–15 of a record (R270). -/
def recordHigh (r : Record) : Word :=
  BitVec.ofNat 64 (r.task % 2 ^ 32 + r.cluster % 256 * 2 ^ 32 + (r.who % 16 + r.kind % 16 * 16) * 2 ^ 40 + r.b14.toNat * 2 ^ 48 + r.b15.toNat * 2 ^ 56)

/-- The register after an even one. -/
def nextReg (d : SR) : SR := Fin.ofNat 32 (d.val + 1)

/-- EQPOP; an odd d is protection (R356, R359). -/
def execEqpop (pd : PR) (d : SR) (s : State) : Res :=
  needPriv .control s fun s =>
    if d.val % 2 = 1 then protection s
    else guardRegs [] [.s d, .s (nextReg d), .p pd] s fun s =>
      let g := s.who.cluster
      let put (lo hi : Word) (some' : Bool) (s : State) : State :=
        land (.p pd) (.flag some') 1 (land (.s (nextReg d)) (.word hi) 1 (land (.s d) (.word lo) 1 s))
      match (clusterOf s g).events with
      | [] => .next (put 0 0 false s)
      | r :: rest => .next (put r.lo (recordHigh r) true (modCluster s g fun u => { u with events := rest }))

/-- The highest-numbered interrupt that is pending at a context (R361). -/
def pendingIrq (s : State) (c : CtxId) : Option (Fin 5) :=
  match c with
  | .ctl g => if (clusterOf s g.val).events.isEmpty then none else some 0
  | .sys n i => if n = 0 ∧ i = 0 then [(4 : Fin 5), 3, 2, 1].find? fun k => s.dev.irq[k.val] else none
  | .user _ _ => none

/-- WFI: the context waits before its next bundle until an interrupt is pending (R359). -/
def execWfi (s : State) : Res :=
  needPriv .both s fun s =>
    if (pendingIrq s s.who).isSome then .next s else .next { s with ctx := { s.ctx with run := .waiting } }

/-! ## Interrupts (R360, R361) -/

/-- Context c takes its highest pending interrupt at a bundle boundary, when its IE is set. -/
def takeIrq (c : CtxId) (s : State) : State :=
  let x := getCtx s c
  match pendingIrq s c with
  | some k =>
    if c.isSys ∧ isActive x.run ∧ getBit x.status stIE then
      let s := enterHandler c x.pc (causeWord (BitVec.ofNat 8 k.val) false false false true none) 0 s
      if k = 0 then s else modDev s fun d => { d with irq := d.irq.set k.val false }
    else s
  | none => s

/-- INTERRUPT (R360, R361). -/
def execInterrupt (s : State) : Res := .next (takeIrq s.input.ctx s)

/-! ## TLBINV (R408–R413) -/

/-- Removes the leaves that f names from every map unit and last-level TLB. -/
def dropLeaves (f : TlbEntry → Bool) (s : State) : State :=
  { s with clusters := s.clusters.map fun c => (c.1, { c.2 with tlb := c.2.tlb.filter fun e => !f e })
           dies := s.dies.map fun st => { st with tlb := st.tlb.filter fun e => !f e } }

/-- A leaf's page meets [va, va + n). -/
def leafMeets (e : TlbEntry) (va n : Nat) : Bool := decide (e.va / 2 ^ (12 + 9 * e.level) * 2 ^ (12 + 9 * e.level) < va + n) &&
  decide (va < e.va / 2 ^ (12 + 9 * e.level) * 2 ^ (12 + 9 * e.level) + 2 ^ (12 + 9 * e.level))

/-- Every entry of every map unit and last-level TLB. -/
def allLeaves (s : State) : List TlbEntry := (s.clusters.flatMap fun c => c.2.tlb) ++ s.dies.toList.flatMap (·.tlb)

/-- An access to another device that an entry which f names has translated is not performed there yet (R409). -/
def unperformed (s : State) (f : TlbEntry → Bool) : Bool :=
  let named := (allLeaves s).filter f
  let through (asid : BitVec 16) (va : Nat) : Bool := (tlbFind named asid va).isSome
  s.cores.any (fun e => e.2.waits.any fun w => match w.kind with | .remote _ _ _ vas _ _ => vas.any (through w.asid) | _ => false) ||
    s.dev.outreqs.any fun r => through r.asid r.va

/-- A TLBINV that removes the leaves which f names: it issues once every unit has acknowledged (R408, R409), and what it covers is
tried again (R413). -/
def invalidate (f : TlbEntry → Bool) (covers : Covers) (s : State) : Res :=
  if awaits s (unperformed s f) then stall s else .next (retryCovered covers (dropLeaves f s))

/-- The leaf that maps an address is a global one. -/
def globalLeaf (s : State) (ptbase : Word) (va : Nat) : Bool :=
  match walkFrom s s.who.stack va 4 (bitsAt ptbase.toNat 12 44 * 4096) with
  | .leaf _ p _ => bitsAt p 9 1 == 1
  | .fail _ => false

/-- TLBINV kind 0 (R408); a range of length 0 covers its own address for the retries (log 17). Its effect covers the G = 1 leaves of
every address space in the range. -/
def execTlbinvRange (a : AR) (x q : SR) (s : State) : Res :=
  needPriv .system s fun s => guardRegs [.a a, .s x, .s q] [] s fun s =>
    let va := (ea s a 0).toNat
    let n := (rdS s x).toNat
    let asid : BitVec 16 := (rdS s q).truncate 16
    invalidate (fun e => n != 0 && (e.glob || e.asid == asid) && leafMeets e va n)
      (fun b pt v => decide (v / 4096 * 4096 < va + max n 1) && decide (va < v / 4096 * 4096 + 4096) && (b == asid || globalLeaf s pt v)) s

/-- TLBINV kind 1 (R408). -/
def execTlbinvAsid (_ : AR) (_ q : SR) (s : State) : Res :=
  needPriv .system s fun s => guardRegs [.s q] [] s fun s =>
    let asid : BitVec 16 := (rdS s q).truncate 16
    invalidate (fun e => !e.glob && e.asid == asid) (fun b _ _ => b == asid) s

/-- TLBINV kind 2; kind 3 is protection (R356, R408). -/
def execTlbinvAll (kind : Fin 4) (_ : AR) (_ _ : SR) (s : State) : Res :=
  needPriv .system s fun s =>
    if kind = 3 then protection s else invalidate (fun _ => true) (fun _ _ _ => true) s

end Sys2Proof.Machine
end

