-- ==== Sys2Proof/Machine/Events.lean ====
section
/-! DEFINITION. Device steps at a core: bundles without slots (R89, R91), the selector (R28, R393), results that arrive
(R53), region fills and write-back (R194–R196), the side log's replay (R185), and the faults found after issue that a
context takes before its next bundle, with the trace ring of the selector's passes (R467; R102, R183, R236, R250, R286, R433, R464, R483). -/

namespace Sys2Proof.Machine

/-! ## Bundles without slots (R89, R91) -/

/-- The bundle has ended itself. -/
def bundleDone (s : State) : State := { s with frame := { s.frame with out := .done } }

/-- GAP_BUNDLE: the schedule count advances by 1 + G (R91). -/
def execGapBundle (h : Header) (s : State) : Res :=
  let s := { s with frame := { s.frame with gap := h.g.val, len := 1 } }
  .next (bundleDone (finishBundle (atLoopEnd s) s))

/-- SKIPPED_BUNDLE: flow passes it, and an iteration may end; nothing advances (R89, R150). -/
def execSkippedBundle (h : Header) (s : State) : Res :=
  let s := { s with frame := { s.frame with len := bundleLen h.p } }
  let resume := s.ctx.resume
  let t := moveOn (endIteration (atLoopEnd s) s)
  .next (bundleDone { t with ctx := { t.ctx with resume := resume, run := if t.ctx.run = .stalled then .running else t.ctx.run } })

/-! ## The trace ring (R467) -/

/-- The byte offset after a record. -/
def traceNext (t : Trace) (w : Nat) : Nat := if w + 64 ≤ t.size then w + 32 else 64

def tracePut (n : Fin 8) (bs : List Byte) (s : State) : State :=
  let t := (stackOf s n).trace
  let w := peek s t.ring 4
  poke { s with mem := s.mem.writeBytes (t.ring + w) bs } t.ring 4 (traceNext t w)

/-- The ring has no room: one record stays empty before RIDX (R435). -/
def traceFull (s : State) (t : Trace) : Bool := traceNext t (peek s t.ring 4) == peek s (t.ring + 4) 4

/-- A 32-byte record. -/
def traceBytes (c : CtxId) (ty a : Nat) (bundle : Word) (sc : Nat) (b : Word) : List Byte :=
  bytesOf 1 ty ++ bytesOf 1 c.who ++ bytesOf 1 c.cluster ++ bytesOf 1 0 ++ bytesOf 4 a ++ bytesOf 8 bundle.toNat ++ bytesOf 8 sc ++ bytesOf 8 b.toNat

/-- Writes a record of an enabled type for a traced core; a full ring loses it, and one type-7 record tells how many were
lost when space returns. -/
def traceRecord (c : CtxId) (ty a : Nat) (bundle : Word) (sc : Nat) (b : Word) (s : State) : State :=
  let n := c.stack
  let t := (stackOf s n).trace
  if c.isSys || t.ring == 0 || !t.cores.testBit (c.coreNo % 48) || !t.types.getLsbD (ty - 1) then s
  else
    let lose (s : State) : State :=
      modStack (poke s (t.ring + 8) 4 (min 0xFFFFFFFF (peek s (t.ring + 8) 4 + 1))) n fun st =>
        { st with trace := { st.trace with lost := st.trace.lost + 1 } }
    if traceFull s t then lose s
    else
      let s := if t.lost = 0 then s else
        let s := if t.types.getLsbD 6 then tracePut n (traceBytes c 7 t.lost bundle sc 0) s else s
        modStack s n fun st => { st with trace := { st.trace with lost := 0 } }
      if traceFull s t then lose s else tracePut n (traceBytes c ty a bundle sc b) s

/-! ## The selector (R28, R167, R393) -/

/-- A context that may try to issue. -/
def canTry (x : Ctx) : Bool := x.run == .running || x.run == .stalled

/-- The contexts of c's core in round-robin order, c last (R28). -/
def roundRobin (c : CtxId) : List CtxId :=
  match c with
  | .user k x => [.user k (x + 1), .user k (x + 2), .user k (x + 3), c]
  | c => [c]

/-- The running count toward Q restarts, with the Q in force now (R393). -/
def restartCount (k : Nat) (s : State) : State := modCore s k fun c => { c with quantum := 0, limit := s.dev.quantum }

/-- The issue port of c's core serves c. -/
def servePort (c : CtxId) (s : State) : State :=
  match c with
  | .user k x => modCore s k.val fun u => { u with port := x }
  | _ => s

/-- The issue port of c's core serves c; a port that moves restarts its count (R393). -/
def takePort (c : CtxId) (s : State) : State :=
  match c with
  | .user k x => if (coreOf s k.val).port = x then s else servePort c (restartCount k.val s)
  | _ => s

/-- The ports that serve a bundle of c: its own core's, and its partner's in a gang (R23). -/
def seatsOf (s : State) (c : CtxId) : List CtxId := c :: (gangMate s c).toList

/-- Issue passes to context c; a port that it does not take from another context goes on counting. -/
def giveIssue (c : CtxId) (s : State) : State := (seatsOf s c).foldl (fun s d => takePort d s) (switchTo s c)

/-- Trace records of the ports that pass to c: what they have served, and c, each as it stands (R467; the bundle is the one at the
context's pc, log 23). -/
def tracePass (c : CtxId) (s : State) : State :=
  (seatsOf s c).foldl (fun s d =>
    match d with
    | .user k x =>
      let old := CtxId.user k (coreOf s k.val).port
      if old = d then s
      else
        let y := getCtx s old
        let z := getCtx s (.user k x)
        traceRecord d 3 0 z.pc z.sc 0 (if y.run = .free then s else traceRecord old 4 0 y.pc y.sc 0 s)
    | _ => s) s

/-- Issue passes to context c, with its trace records (R28, R467). -/
def passIssue (c : CtxId) (s : State) : State := giveIssue c (tracePass c s)

/-- The context that the port of c's core serves. -/
def portOf (s : State) (c : CtxId) : CtxId :=
  match c with
  | .user k _ => .user k (coreOf s k.val).port
  | c => c

/-- The next context of the core that may try. -/
def nextOnCore (s : State) (c : CtxId) : Option CtxId := (roundRobin c).find? fun d => canTry (getCtx s d)

/-- CONTEXT_SWITCH: the port passes to the next ready context of its core (R28); a context of another core in the
input makes the model look at that core's port instead (MODEL; log 5). -/
def execContextSwitch (s : State) : Res :=
  let c := s.input.ctx
  if c.coreNo = s.who.coreNo then
    match nextOnCore s s.who with
    | some d => .next (if d = s.who then restartCount s.who.coreNo s else passIssue d s)
    | none => .next s
  else
    let at_ := portOf s c
    let d := if canTry (getCtx s at_) then at_ else (nextOnCore s at_).getD at_
    .next (passIssue d s)

/-- QUANTUM_EXPIRY: after Q bundles without a stall, the port passes on when another context is ready (R28). -/
def execQuantumExpiry (s : State) : Res :=
  if (coreOf s s.who.coreNo).limit ≤ (coreOf s s.who.coreNo).quantum then
    match nextOnCore s s.who with
    | some d => .next (if d = s.who then s else passIssue d s)
    | none => .next s
  else .next s

/-! ## Results (R53) -/

/-- A wait that another device is to answer. -/
def isRemote (w : Wait) : Bool := match w.kind with | .remote _ _ _ _ _ _ => true | _ => false

/-- The device that answers a wait is reached. -/
def canAnswer (s : State) (w : Wait) : Bool := match w.kind with | .remote dev _ _ _ _ _ => reaches s dev | _ => false

/-- What arrives at a context: the landing of a value that has been found, or a wait that another device answers, whether or not
its register keeps a value (R39, R53). -/
inductive Coming where
  | found (l : Landing) | remote (w : Wait)
deriving DecidableEq, Repr

/-- What may arrive at a context now. -/
def arriving (s : State) (c : CtxId) : List Coming :=
  ((getCtx s c).lands.filter fun l => !l.ready && !valueAwaited s c l).map .found ++
    ((coreOf s c.coreNo).waits.filter fun w => w.ctx == c && canAnswer s w).map .remote

/-- Result id of context c arrives. -/
def arrives (c : CtxId) (id : Nat) (s : State) : State :=
  modCtx s c fun x => settle s { x with lands := x.lands.map fun m => if m.id = id then { m with ready := true } else m }

/-- RESULT_LANDING: the num-th of these results arrives (R53). -/
def execResultLanding (s : State) : Res :=
  let c := s.input.ctx
  match (arriving s c)[s.input.num]? with
  | none => .next s
  | some (.found l) => .next (arrives c l.id s)
  | some (.remote w) =>
    match answerRemote w (modCore s c.coreNo fun k => { k with waits := k.waits.filter (· ≠ w) }) with
    | .done s => .next (arrives c w.id s)
    | .held s w => .next (addWait c.coreNo w s)
    | .waits s w => .next (addWait c.coreNo w s)

/-! ## Regions and the side log -/

/-- REGION_FILL (R194). -/
def execRegionFill (s : State) : Res := .next (fillGranule s.input.core.val s)

/-- REGION_WRITE_BACK: granule num of region reg of a context leaves for global memory (R195). -/
def execRegionWriteBack (s : State) : Res :=
  let c := s.input.ctx
  .next (feed c.coreNo (beginBack c s.input.reg.val s.input.num s))

/-- SIDE_LOG_REPLAY: the head entry, unless it waits for service (R185): one whose version is gone leaves the log all the same
(R317); then blocks of a write-back may enter. -/
def execSideLogReplay (s : State) : Res :=
  let k := s.input.core.val
  match (coreOf s k).sidelog with
  | e :: _ => if e.waits.isSome && !entryDropped s e then .next s else .next (pump k (replayHead k s))
  | [] => .next (feed k s)

/-! ## Faults found after issue -/

/-- The innermost E lies in the bundle's parcels past its header, or in a fill that flow has just passed (R151). -/
def endInside (s : State) : Option Word :=
  match s.ctx.loops.getLast? with
  | some l =>
    if (s.frame.base.toNat < l.last.toNat ∧ l.last.toNat < s.frame.base.toNat + 4 * s.frame.len) ∨ s.ctx.fillFrom then some l.last else none
  | none => none

/-- Flow passes what stands at the pc: a fill parcel, or a bundle of another iteration. Neither is a bundle that issues, before which
a fault found after issue is taken (R89, R93, R236, R250). -/
def passesOver (s : State) : Bool :=
  match (fetchLine (lineAddr s.ctx.pc) s).2 with
  | none => false
  | some bs =>
    let w := parcelOf bs (parcelNo s.ctx.pc)
    match decodeHeader w with
    | some h =>
      let len := bundleLen h.p
      s.ctx.pc.toNat % 4 == 0 && (headerReject h).isNone && decide (parcelNo s.ctx.pc + len ≤ 16) && skips h s &&
        (endInside { s with frame := { s.frame with base := s.ctx.pc, len := len } }).isNone
    | none => w == 0 && s.ctx.cameFrom.isNone

/-- A fault of these kinds that is due; all: whatever its schedule cycle (R236: before EXIT and before a save). -/
def dueLate (x : Ctx) (kinds : List LateKind) (all : Bool) : Option LateFault :=
  x.late.find? fun f => kinds.contains f.kind && (all || decide (f.notBefore ≤ x.sc))

/-- A context that has not ended takes such a fault before its next bundle (R250). -/
def takeLate (c : CtxId) (kinds : List LateKind) (all : Bool) (s : State) : State :=
  let x := getCtx s c
  match dueLate x kinds all with
  | none => s
  | some f =>
    if isActive x.run then
      takeTrap c (f.epc.getD x.pc) (causeWord f.cause false (f.kind == .engine) false false none) f.tval
        (setCtx s c { x with late := x.late.filter fun g => g ≠ f })
    else s

/-- Context c stands at a bundle that issues: there it takes a fault found after issue; one that flow passes comes no bundle before
(R89, R93, R236, R250). -/
def takeLateHere (kinds : List LateKind) (s : State) : Res :=
  .next (if passesOver (switchTo s s.input.ctx) then s else takeLate s.input.ctx kinds false s)

/-- LDWT_IMAGE_CHECK: the check of an image that LDWT has loaded fails (R236). -/
def execLdwtImageCheck (s : State) : Res := takeLateHere [.image] s

/-- DEFERRED_ACCESS_FAULT (R183, R483). -/
def execDeferredAccessFault (s : State) : Res := takeLateHere [.access] s

/-- ENGINE_FAULT, and the faults of claims that are taken like it (R250, R286). -/
def execEngineFault (s : State) : Res := takeLateHere [.engine, .claim, .collective] s

/-- THRESHOLD_EXCEEDED (R433). -/
def execThresholdExceeded (s : State) : Res := takeLateHere [.threshold] s

/-- SINGLE_STEP (R464). -/
def execSingleStep (s : State) : Res := takeLateHere [.step] s

end Sys2Proof.Machine
end

