-- ==== Sys2Proof/Machine/Debug.lean ====
section
/-! DEFINITION. BIND and its operations (R452–R460, R466), breakpoints and watchpoints (R461–R463),
profiling (R262, R468), and the panic with EXTRACT (R469). -/

namespace Sys2Proof.Machine

/-! ## BIND: the shared course (R455–R457) -/

/-- How an operation of BIND stands: over, with a status, the bytes of the descriptor that it writes and what it does once they are
written; or it goes on. -/
inductive Bound where
  | done (s : State) (status : Nat) (out : List (Nat × List Byte)) (after : State → State := id)
  | waits (s : State)

/-- Bytes of a descriptor that no operand or result names are 0. -/
def restZero (d : List Byte) (named : List (Nat × Nat)) : Bool :=
  (List.range 128).all fun i => decide (i < 2) || named.any (fun e => decide (e.1 ≤ i) && decide (i < e.1 + e.2)) || imgNat d i 1 == 0

/-- The core on the port writes at a physical address; else the state in which its bundle waits for sectors. -/
def bindPut (pa : Nat) (bs : List Byte) (s : State) : Except State State := physPut (heldUnit s.who.coreNo) pa bs s

/-- The result bytes, written back with a release at DEVICE scope before d lands (R455). -/
def writeBack (A : Nat) : List (Nat × List Byte) → State → Except State State
  | [], s => .ok s
  | (o, bs) :: rest, s =>
    match bindPut (A + o) bs s with
    | .ok s => writeBack A rest (publish s.who 4 (A + o) bs.length s)
    | .error s => .error s

/-- An operation writes its buffer and ends with result bytes. Over a closed route the store ends in error: protection at the context,
taken as R250 takes engine faults, while the operation ends (R447, R472; DEDUCED, log 90). -/
def fillBuffer (buf : Nat) (bs : List Byte) (out : List (Nat × List Byte)) (s : State) : Bound :=
  if !physOpen s s.who.stack buf bs.length then .done (failAt s.who 0x0C buf s.frame.base s) 0 out
  else
    match bindPut buf bs s with
    | .ok s => .done s 0 out
    | .error s => .waits s

/-- BIND up to the operation and after it. ops: its OP codes; named: its operand and result bytes; fenced: it works on a
fenced stack; f: the operation on the stack and the descriptor. Statuses are looked for in the order 4, 6, then f's (DEDUCED, log 13).
The descriptor is read as a load reads: poisoned or over a closed route, it traps (R447, R472; DEDUCED, log 90). -/
def bindWith (op : Nat) (named : List (Nat × Nat)) (fenced : Bool) (f : Fin 8 → List Byte → State → Bound) (d x : SR) (s : State) : Res :=
  needPriv .system s fun s => guardRegs [.s x] [.s d] s fun s =>
    let A := rdS s x
    if A.toNat % 64 ≠ 0 then trapAt 12 0x08 A s
    else if 2 ^ 56 ≤ A.toNat ∨ placeOf s A.toNat = .absent then trapAt 12 0x0C A s
    else if !physOpen s s.who.stack A.toNat 128 then trapAt 15 0x0D A (poisonRecord s.who s.frame.base A.toNat 5 2 s)
    else if physPoisoned s A.toNat 128 then trapAt 15 0x0D A s
    else
      let D := physRead s A.toNat 128
      let st := imgNat D 1 1
      let n : Fin 8 := Fin.ofNat 8 st
      let status (k : Nat) : Res := .next (land (.s d) (.word (BitVec.ofNat 64 k)) 1 s)
      if imgNat D 0 1 ≠ op ∨ !restZero D named ∨ (8 ≤ st ∧ ¬(op = 4 ∧ st = 0xFF)) then status 4
      else if st < 8 ∧ (stackOf s n).fenced ≠ fenced then status 6
      else
        match f n D s with
        | .waits s => stall s
        | .done t k out after =>
          if k = 0 then
            match writeBack A.toNat out t with
            | .ok t => .next (land (.s d) (.word 0) 1 (after t))
            | .error s => stall s
          else status k

/-! ## Bindings (R452, R453, R458, OP 1) -/

/-- The slab lies in reach of the front end (R452). -/
def inReach (fe slab : Nat) : Bool :=
  fe / 13 == slab / 26 && decide (2 * (fe % 13) ≤ slab % 26 + 2) && decide (slab % 26 ≤ 2 * (fe % 13) + 3)

def bindingOf (st : Stack) (l : Nat) : Binding := (Tbl.get? st.binds l).getD ⟨0, 0, 0⟩

/-- The other core of a pair 2k, 2k + 1. -/
def partnerOf (l : Nat) : Nat := Nat.xor l 1

/-- A unit named is in use: a started or promised context, a queue entry, a held store or a copy in flight (R458). -/
def coreBusy (s : State) (core : Nat) : Bool :=
  (List.range 4).any (fun x => !slotFree s core x) || !(coreOf s core).queue.isEmpty || !(coreOf s core).stores.isEmpty

/-- OP 1: looked for in the order 4, 2, 3, 1. -/
def bindCore (n : Fin 8) (D : List Byte) (s : State) : Bound :=
  let st := stackOf s n
  let l := imgNat D 2 1
  let fe := imgNat D 3 1
  let a := imgNat D 4 1
  let b := imgNat D 5 1
  let old := bindingOf st l
  let others := st.binds.filter fun e => e.1 ≠ l
  let drives := (others.filter fun e => e.2.fe = fe).map (·.1)
  let pair := [partnerOf l].filter fun p => (bindingOf st p).fe = old.fe ∨ (bindingOf st p).fe = fe
  if 48 ≤ l ∨ 52 ≤ fe ∨ 104 ≤ a ∨ 104 ≤ b ∨ a = b then .done s 4 []
  else if !inReach fe a || !inReach fe b then .done s 2 []
  else if st.badFes.contains fe || st.badSlabs.contains a || st.badSlabs.contains b ||
      (others.any fun e => [a, b].contains e.2.slab0 || [a, b].contains e.2.slab1) || (drives.any fun k => k != partnerOf l) then .done s 3 []
  else if coreBusy s (48 * n.val + l) || (pair.any fun p => coreBusy s (48 * n.val + p)) then .done s 1 []
  else
    let fresh := [a, b].filter fun x => x ≠ old.slab0 ∧ x ≠ old.slab1
    .done (modStack s n fun st =>
      { st with binds := Tbl.set st.binds l ⟨fe, a, b⟩, slabCount := st.slabCount.filter fun e => !fresh.contains e.1 }) 0 []

/-- BIND, OP 1 (R458); a descriptor whose OP R456 does not define gives status 4. -/
def execBind (d x : SR) (s : State) : Res := bindWith 1 [(2, 4)] false bindCore d x s

/-! ## Fences and microcode (R439, R460; OP 2, 3, 4) -/

/-- OP 2. -/
def fenceStack (n : Fin 8) (_ : List Byte) (s : State) : Bound :=
  let onStack (g : Nat) : Bool := g / 12 == n.val
  let busy := !(queuedOn s n.val).isEmpty ||
    s.tasks.any fun t => t.phase == .dispatched && (bitsOf t.dmask).any fun g => onStack (placeOfCluster t g)
  if busy then .done s 1 []
  else
    let s := { s with clusters := s.clusters.map fun e => if onStack e.1 then (e.1, { e.2 with tlb := [] }) else e }
    .done (modStack s n fun st => { st with fenced := true, tlb := [] }) 0 []

/-- BIND_FENCE (R460). -/
def execBindFence (d x : SR) (s : State) : Res := bindWith 2 [] false fenceStack d x s

/-- BIND_UNFENCE (R460). -/
def execBindUnfence (d x : SR) (s : State) : Res :=
  bindWith 3 [] true (fun n _ s => .done (modStack s n fun st => { st with fenced := false }) 0 []) d x s

/-- OP 4. An image that cannot be read, poisoned or over a closed route, has no right signature (R447, R472; DEDUCED, log 90). -/
def loadMicrocode (n : Fin 8) (D : List Byte) (s : State) : Bound :=
  let at_ := imgNat D 8 8
  let len := imgNat D 16 4
  let sig := BitVec.ofNat 64 (imgNat D 24 8)
  if at_ % 4096 ≠ 0 ∨ len % 64 ≠ 0 ∨ 262144 < len ∨ placeOf s at_ = .absent ∨ 2 ^ 56 ≤ at_ then .done s 4 []
  else if !physOpen s s.who.stack at_ len ∨ physPoisoned s at_ len then .done s 5 []
  else if sigBytes (physRead s at_ len) ≠ sig ∨ !Config.microcodeFits sig then .done s 5 []
  else
    let put (s : State) (m : Fin 8) : State := modStack s m fun st => { st with microcode := sig }
    .done (if imgNat D 1 1 = 0xFF then (List.finRange 8).foldl put s else put s n) 0 []

/-- BIND_MICROCODE (R439, R460). -/
def execBindMicrocode (d x : SR) (s : State) : Res := bindWith 4 [(8, 8), (16, 4), (24, 8)] false loadMicrocode d x s

/-! ## QUERY, BREAK, WATCH, TRACE, PROFILE (OP 5–9) -/

def bitMap (n : Nat) (f : Nat → Bool) : Nat := (List.range n).foldl (fun m i => if f i then m + 2 ^ i else m) 0

/-- OP 5: usable units are those that the fuse map does not mark (DEDUCED, log 13). -/
def queryCore (n : Fin 8) (D : List Byte) (s : State) : Bound :=
  let st := stackOf s n
  let l := imgNat D 2 1
  if 48 ≤ l then .done s 4 []
  else
    let b := bindingOf st l
    let gang := if (bindingOf st (partnerOf l)).fe = b.fe then partnerOf l else 0xFF
    let low (x : Nat) : List Byte := bytesOf 1 ((Tbl.get? st.slabCount x).getD 0)
    .done s 0 [(3, bytesOf 1 b.fe ++ bytesOf 1 b.slab0 ++ bytesOf 1 b.slab1 ++ bytesOf 1 gang),
      (8, bytesOf 13 (bitMap 104 fun p => !st.badSlabs.contains p)), (24, bytesOf 7 (bitMap 52 fun f => !st.badFes.contains f)),
      (32, low b.slab0 ++ low b.slab1)]

/-- BIND_QUERY (R456). -/
def execBindQuery (d x : SR) (s : State) : Res := bindWith 5 [(2, 5), (8, 13), (24, 7), (32, 2)] false queryCore d x s

/-- OP 6. -/
def setBreaks (n : Fin 8) (D : List Byte) (s : State) : Bound :=
  let l := imgNat D 2 1
  let bs := (List.range 8).map fun i => imgNat D (8 + 8 * i) 8
  if 48 ≤ l ∨ 16 ≤ imgNat D 3 1 ∨ bs.any (fun b => b.testBit 1) then .done s 4 []
  else .done (modCore s (48 * n.val + l) fun c => { c with stepMask := BitVec.ofNat 4 (imgNat D 3 1), breaks := bs.map fun b => BitVec.ofNat 64 b }) 0 []

/-- BIND_BREAK (R456, R462). -/
def execBindBreak (d x : SR) (s : State) : Res := bindWith 6 [(2, 2), (8, 64)] false setBreaks d x s

/-- Watchpoint i of a descriptor. -/
def watchOf (D : List Byte) (i : Nat) : Watch :=
  let o := 8 + 16 * i
  let f := imgNat D (o + 9) 1
  ⟨imgNat D o 8, imgNat D (o + 8) 1, f.testBit 0, f.testBit 1, f.testBit 2, BitVec.ofNat 4 (imgNat D (o + 10) 1), BitVec.ofNat 4 (imgNat D (o + 11) 1)⟩

def watchBad (D : List Byte) (i : Nat) : Bool :=
  let o := 8 + 16 * i
  let w := watchOf D i
  decide (w.size < 2) || decide (12 < w.size) || decide (8 ≤ imgNat D (o + 9) 1) || decide (16 ≤ imgNat D (o + 10) 1) ||
    decide (16 ≤ imgNat D (o + 11) 1) || w.addr % 2 ^ w.size != 0 || imgNat D (o + 12) 4 != 0

/-- OP 7. -/
def setWatches (n : Fin 8) (D : List Byte) (s : State) : Bound :=
  let g := imgNat D 2 1
  if 12 ≤ g ∨ (List.range 4).any (watchBad D) then .done s 4 []
  else .done (modCluster s (12 * n.val + g) fun u => { u with watches := (List.range 4).map (watchOf D) }) 0 []

/-- BIND_WATCH (R456, R463). -/
def execBindWatch (d x : SR) (s : State) : Res := bindWith 7 [(2, 1), (8, 64)] false setWatches d x s

/-- OP 8. -/
def setTrace (n : Fin 8) (D : List Byte) (s : State) : Bound :=
  let ring := imgNat D 8 8
  let size := imgNat D 16 4
  if ring = 0 then .done (modStack s n fun st => { st with trace := ⟨0, 0, 0, 0, 0⟩ }) 0 []
  else if ring % 4096 ≠ 0 ∨ size % 4096 ≠ 0 ∨ size < 8192 ∨ 128 ≤ imgNat D 20 4 ∨ 2 ^ 56 ≤ ring ∨ placeOf s ring = .absent then .done s 4 []
  else .done (modStack s n fun st => { st with trace := ⟨ring, size, BitVec.ofNat 7 (imgNat D 20 4), imgNat D 24 6, 0⟩ }) 0 []

/-- BIND_TRACE (R456, R467). -/
def execBindTrace (d x : SR) (s : State) : Res := bindWith 8 [(8, 8), (16, 4), (20, 4), (24, 6)] false setTrace d x s

/-- The operation that a core's engine pair executes at cycle t: it has started and has not run its 16 cycles (R239). -/
def executing (u : Core) (t : Nat) : Option MatOp :=
  match ahead u.queue with
  | some o => if t < o.start.getD 0 + 16 then some o else none
  | none => none

/-- Why the operation at the head of the queue has not started, as a class of R262, and what it is charged to; a wait that
no row of the table names takes the nearest (log 63). Of several that hold at once, those of the row "blocked on result drain" come
first, then a consumed token, a TLD of its tile, its A bytes, and its Bt or scale bytes (DESIGN CHOICE: R262 has each cycle fall into
one class and gives no precedence; log 81). -/
def waitClass (s : State) (core : Nat) (o : MatOp) : Nat × MatOp :=
  let u := coreOf s core
  let mma := match o.kind with | .mma _ _ _ _ _ => true | .tld _ => false
  let held (id : Nat) : Bool := u.stores.any fun t => t.id == id && decide (8 ≤ t.groups)
  let awaited (xs : List (Nat × Nat)) : Bool := xs.any fun e => storeAwaited s core o.id (core * coreBytes + e.1) e.2
  if arbitrating s core || !(tileOf s core o.tile).engine.isEmpty ||
      u.stores.any (fun t => t.tile == o.tile && decide (t.id < o.id) && decide (t.groups < 8)) || o.deps.any held then (3, o)
  else if !mma then (1, o)
  else if !o.deps.isEmpty then (2, o)
  else match u.queue.find? fun e => decide (e.id < o.id) && e.tile == o.tile && (match e.kind with | .tld _ => true | _ => false) with
    | some e => (1, e)
    | none => if awaited ((imagesOf o.kind).drop 1) && !awaited ((imagesOf o.kind).take 1) then (1, o) else (2, o)

/-- The class of R262 that a cycle t of a core's engine pair falls into as its queue stands, and the operation charged. -/
def pairClass (s : State) (core t : Nat) : Nat × Option MatOp :=
  let u := coreOf s core
  match executing u t with
  | some o => ((match o.kind with | .mma _ _ _ _ _ => 0 | .tld _ => 1), some o)
  | none =>
    match u.queue.find? (·.arb) with
    | some o => (3, some o)
    | none =>
      match u.queue.find? (·.start.isNone) with
      | some o => let c := waitClass s core o; (c.1, some c.2)
      | none => (4, none)

/-- n more cycles of a class; those without command are the rest of the total. -/
def addCycles (k n : Nat) (v : Vector Nat 4) : Vector Nat 4 :=
  if k < 4 then v.set (k % 4) (v.toList.getD k 0 + n) (Nat.mod_lt _ (by decide)) else v

/-- Cycles from a state on in which a core's engine pair executes, of dt. -/
def busyCycles (before : State) (core dt : Nat) : Nat :=
  match executing (coreOf before core) before.now with
  | some o => min dt (o.start.getD 0 + 16 - before.now)
  | none => 0

/-- The type-5 record of a sample at cycle t, of its class and what it is charged to (R262, R467, R468). -/
def writeSample (core : Nat) (cls : Nat × Option MatOp) (s : State) : State :=
  let charged : Option (CtxId × Word × Nat) := match cls.2 with
    | some o => some (o.ctx, o.bundle, o.issued)
    | none => (coreOf s core).lastMat
  let (who, bundle, sc) := charged.getD (userCtx core 0, 0, 0)
  traceRecord who 5 cls.1 bundle sc 0 s

/-- The samples of a core up to this cycle, one for each 2^k cycles since its count began (R468). -/
def takeSamples (before : State) (core : Nat) (s : State) : State :=
  let u := coreOf s core
  if u.profK = 0 then s
  else
    let step := 2 ^ u.profK
    let n := busyCycles before core (s.now - before.now)
    let from_ := max u.profSeen before.now - u.profFrom
    let s := (List.range ((s.now - u.profFrom) / step - from_ / step)).foldl (fun s i =>
      let t := u.profFrom + (from_ / step + 1 + i) * step
      writeSample core (pairClass before core (if t < before.now + n then before.now else before.now + n)) s) s
    modCore s core fun c => { c with profSeen := s.now }

/-- Time passes: each listed core counts its cycles, those of the executing operation first, and samples are written (R262, R468;
log 8). -/
def countCycles (before s : State) : State :=
  let dt := s.now - before.now
  let count (e : Nat × Core) : Nat × Core :=
    let n := busyCycles before e.1 dt
    let tot := addCycles (pairClass before e.1 before.now).1 n e.2.profTot
    (e.1, { e.2 with profTot := addCycles (pairClass before e.1 (before.now + n)).1 (dt - n) tot })
  let s := { s with cores := s.cores.map count }
  s.cores.foldl (fun s e => takeSamples before e.1 s) s

/-- The five totals; the cycles without command are the rest. -/
def profTotals (s : State) (core : Nat) : List Nat :=
  let c := coreOf s core
  c.profTot.toList ++ [s.now - c.profFrom - c.profTot.toList.sum]

/-- OP 9: CLEAR acts once the totals are written (R468). -/
def setProfile (n : Fin 8) (D : List Byte) (s : State) : Bound :=
  let l := imgNat D 2 1
  let k := imgNat D 3 1
  let core := 48 * n.val + l
  if 48 ≤ l ∨ ¬(k = 0 ∨ (10 ≤ k ∧ k ≤ 24)) ∨ 2 ≤ imgNat D 4 1 then .done s 4 []
  else
    let out := (profTotals s core).flatMap (bytesOf 8)
    let clear := imgNat D 4 1 = 1
    .done s 0 [(8, out)] fun s =>
      modCore s core fun c => if clear then { c with profK := k, profTot := Vector.replicate 4 0, profFrom := s.now, profSeen := s.now } else { c with profK := k }

/-- BIND_PROFILE (R262, R456, R468). -/
def execBindProfile (d x : SR) (s : State) : Res := bindWith 9 [(2, 3), (8, 40)] false setProfile d x s

/-- PROFILE_SAMPLE: time goes on to the core's next sample, which is written (R262, R468); those that time passes of itself are
written as it does. -/
def execProfileSample (s : State) : Res :=
  let k := s.input.core.val
  let c := coreOf s k
  if c.profK = 0 then .next s
  else
    let s := reach (c.profFrom + ((s.now - c.profFrom) / 2 ^ c.profK + 1) * 2 ^ c.profK) s
    .next (modCore (writeSample k (pairClass s k s.now) s) k fun c => { c with profSeen := s.now })

/-! ## DUMPCTX (R466, OP 10) -/

/-- A tile as a dump shows it: rows from W upward are 0, unless it has been drained. -/
def dumpTile (drain : Bool) (t : Tile) : Tile :=
  if drain then { t with water := 64 } else { t with rows := Vector.ofFn fun i => if i.val < t.water then t.rows[i] else zeroVec }

/-- A read of the context has not been made: its result cannot be shown yet (R55). -/
def readAwaited (s : State) (c : CtxId) : Bool :=
  (getCtx s c).lands.any fun l => !l.ready && (coreOf s c.coreNo).waits.any fun w => w.ctx == c && w.id == l.id

/-- A context as a dump shows it: outside a panic every result has landed (R55, R469; log 68). -/
def shownCtx (s : State) (c : CtxId) : Ctx := if s.dev.frozen then getCtx s c else drain s c (getCtx s c)

/-- OP 10. -/
def dumpCtx (n : Fin 8) (D : List Byte) (s : State) : Bound :=
  let l := imgNat D 2 1
  let buf := imgNat D 8 8
  if 48 ≤ l ∨ 4 ≤ imgNat D 3 1 ∨ 2 ≤ imgNat D 4 1 ∨ buf % 4096 ≠ 0 ∨ 2 ^ 56 ≤ buf ∨ placeOf s buf = .absent then .done s 4 []
  else
    let c := userCtx (48 * n.val + l) (imgNat D 3 1)
    let drain := imgNat D 4 1 = 1
    if isActive (getCtx s c).run then .done s 1 []
    else if drain ∧ opsInFlight s c then .waits s
    else if !s.dev.frozen && readAwaited s c then .waits s
    else
      let x := shownCtx s c
      let runs := match taskOf s x.task with | some t => t.runs | none => 0
      fillBuffer buf (areaBody x ((windowTiles s c).map (dumpTile drain)) runs 0x03FF (headerLx s c) 0 true) [] s

/-- BIND_DUMPCTX (R466). -/
def execBindDumpctx (d x : SR) (s : State) : Res := bindWith 10 [(2, 3), (8, 8)] false dumpCtx d x s

/-! ## The panic and EXTRACT (R469, OP 11) -/

/-- PANIC: a request from the management port (R469). -/
def execPanic (s : State) : Res := .next (panicFreeze s)

def fnCode : AtomFn → Nat
  | .add => 0 | .and => 1 | .or => 2 | .xor => 3 | .min => 4 | .max => 5 | .minz => 6 | .maxz => 7 | .xchg => 8 | .fadd => 9 | .cas _ => 0

/-- A side-log entry as EXTRACT writes it. -/
def logDump (e : LogEntry) : List Byte :=
  let cells : List (Nat × Byte) := match e.op with
    | .store => e.bytes
    | .reduce _ addr w v => (List.range w).map fun i => (addr + i, (bytesOf w v.toNat).getD i 0)
  let at_ (i : Nat) : Option Byte := (cells.find? fun b => b.1 = e.block + i).map (·.2)
  let x := match e.ctx with | .user _ x => x.val | _ => 0
  bytesOf 8 e.block ++ bytesOf 16 (bitMap 128 fun i => (at_ i).isSome) ++ ((List.range 128).map fun i => (at_ i).getD 0) ++
    bytesOf 1 (match e.op with | .store => 0 | .reduce _ _ _ _ => 1) ++ bytesOf 1 (match e.op with | .store => 0 | .reduce fn _ _ _ => fnCode fn) ++
    bytesOf 1 (4 * x) ++ bytesOf 1 0 ++ bytesOf 4 e.task

/-- A held store: its local address, its image as far as it has been made. -/
def storeDump (s : State) (t : TileStore) : List Byte :=
  bytesOf 8 (localName t.ctx.coreNo (spmKey (t.core, t.off))) ++ bytesOf 4 t.size ++ bytesOf 4 (getCtx s t.ctx).task ++ bytesOf 8 t.bundle.toNat ++
    bytesOf 1 t.groups ++ bytesOf 7 0 ++ ((t.image ++ List.replicate t.size 0).take t.size)

/-- The lines of an uncommitted version. -/
def versionDump (t : Task) : List (List Byte) :=
  t.lines.map fun l =>
    let at_ (i : Nat) : Option Byte := Tbl.get? t.version (64 * l.1 + i)
    bytesOf 8 (64 * l.2) ++ bytesOf 8 (bitMap 64 fun i => (at_ i).isSome) ++ ((List.range 64).map fun i => (at_ i).getD 0) ++ bytesOf 4 t.id ++
      bytesOf 2 t.record.asid.toNat ++ bytesOf 10 0

/-- The records of a kind. -/
def extractRecords (n : Fin 8) (kind l task : Nat) (s : State) : List (List Byte) :=
  match kind with
  | 0 => (coreOf s (48 * n.val + l)).sidelog.map logDump
  | 1 => (coreOf s (48 * n.val + l)).stores.map (storeDump s)
  | 2 => match taskOf s task with | some t => versionDump t | none => []
  | _ => (stackOf s n).bounce.map bounceImage

/-- The records that fit in a buffer, and how many. -/
def fitRecords : List (List Byte) → Nat → List Byte × Nat
  | [], _ => ([], 0)
  | r :: rest, room => if r.length ≤ room then let p := fitRecords rest (room - r.length); (r ++ p.1, p.2 + 1) else ([], 0)

/-- OP 11. -/
def extract (n : Fin 8) (D : List Byte) (s : State) : Bound :=
  let kind := imgNat D 2 1
  let l := imgNat D 3 1
  let buf := imgNat D 8 8
  if 4 ≤ kind ∨ (kind < 2 ∧ 48 ≤ l) ∨ (2 ≤ kind ∧ l ≠ 0) ∨ (kind ≠ 2 ∧ imgNat D 4 4 ≠ 0) ∨ buf % 64 ≠ 0 ∨ 2 ^ 56 ≤ buf ∨ placeOf s buf = .absent then .done s 4 []
  else if !s.dev.frozen then .done s 1 []
  else
    let all := extractRecords n kind l (imgNat D 4 4) s
    let first := imgNat D 20 4
    let p := fitRecords (all.drop first) (imgNat D 16 4)
    fillBuffer buf p.1 [(24, bytesOf 4 p.2 ++ bytesOf 4 (all.length - first - p.2))] s

/-- BIND_EXTRACT (R469). -/
def execBindExtract (d x : SR) (s : State) : Res := bindWith 11 [(2, 30)] false extract d x s

end Sys2Proof.Machine
end

