-- ==== Sys2Proof/Machine/Platform.lean ====
section
/-! DEFINITION. The platform (R471–R482), domain links and their drains (R445–R447), requests of other devices (R446), host
clients (R478, R479), power and clocks (R481), boot (R480), and the errors that codes and parity find (R429–R431). -/

namespace Sys2Proof.Machine

/-! ## Links (R445, R446, R475) -/

def modPort (p : Fin 12) (f : Port → Port) (s : State) : State := modDev s fun d => { d with ports := d.ports.set p.val (f d.ports[p.val]) }

/-- The LINK field of a port in the platform block (R473). -/
def writeLink (p : Fin 12) (s : State) : State :=
  let q := s.dev.ports[p.val]
  let bs := bytesOf 1 (if q.up then 1 else 0) ++ bytesOf 1 q.peerDev ++ bytesOf 1 q.peerPort ++ bytesOf 1 0 ++ bytesOf 4 q.epoch
  { s with mem := s.mem.writeBytes (platformBase + 0x40 + 8 * p.val) bs }

/-- A link record (R442). -/
def linkRecord (port state cause peerPort peerDev epoch resent failed : Nat) (s : State) : State :=
  logEntry 5 1 none 0 (bytesOf 1 port ++ bytesOf 1 state ++ bytesOf 1 cause ++ bytesOf 1 peerPort ++ bytesOf 1 peerDev ++ bytesOf 3 0 ++
    bytesOf 4 epoch ++ bytesOf 4 resent ++ bytesOf 4 failed) s

/-- A change of a port's LINK state: its field, a record and interrupt 3 (R475). -/
def linkChanged (p : Fin 12) (cause : Nat) (s : State) : State :=
  let q := s.dev.ports[p.val]
  raiseIrq (linkRecord p.val (if q.up then 1 else 0) cause q.peerPort q.peerDev q.epoch q.resent q.failed (writeLink p s)) 3

/-- The device floods an update of a port of its own: a new epoch, and its own drain rounds begin (R446). -/
def floodUpdate (p : Fin 12) (up : Bool) (s : State) : State :=
  let e := s.dev.epoch + 1
  let s := modDev s fun d => { d with epoch := e, seen := d.seen ++ [(d.no, e)], drains := d.drains ++ [⟨d.no, e, p.val, up, s.now, 1⟩] }
  modPort p (fun q => { q with epoch := e, told := up }) s

/-- A port that is up is declared dead (R445, R446, R476). -/
def declareDead (p : Fin 12) (cause : Nat) (s : State) : State :=
  if s.dev.ports[p.val].up then
    linkChanged p cause (floodUpdate p false (modPort p (fun q => { q with up := false, fails := 0, lockLost := none }) s))
  else s

/-! ## Mesh edges (R445, R460, R471) -/

def modEdge (i : Nat) (f : Edge → Edge) (s : State) : State :=
  modDev s fun d => { d with edges := d.edges.set (i % 10) (f (d.edges.toList.getD (i % 10) ⟨false, 0, none⟩)) (Nat.mod_lt _ (by decide)) }

/-- The stacks on the two sides of an edge. -/
def edgeEnds (i : Nat) : Fin 8 × Fin 8 :=
  if i < 6 then (Fin.ofNat 8 (i / 3 * 4 + i % 3), Fin.ofNat 8 (i / 3 * 4 + i % 3 + 1)) else (Fin.ofNat 8 (i - 6), Fin.ofNat 8 (i - 2))

/-- A stack is fenced at once; its compute contexts that have not ended do so as CTXSTOP K = 1 ends them (R460). -/
def fenceNow (n : Fin 8) (s : State) : State :=
  let s := modStack s n fun st => { st with fenced := true, tlb := [] }
  let s := { s with clusters := s.clusters.map fun e => if e.1 / 12 = n.val then (e.1, { e.2 with tlb := [] }) else e }
  let closed (r : RunState) : Bool := match r with | .free | .retired | .ended | .halted => true | _ => false
  ((allCtx s).filter fun e => !e.1.isSys && e.1.stack == n && !closed e.2.run).foldl
    (fun s e => killCtx e.1 (some (0, 0)) (doom e.2.task (killCause s e.2) s)) s

/-- Channels whose ends no route joins any more close at both ends; what has arrived stays (R288, R447, R472). -/
def closeCut (s : State) : State := s.chans.foldl (fun s e => if chanRoute s e.2 then s else closeChan e.1 false s) s

def edgeDies (i : Nat) (s : State) : State :=
  if (s.dev.edges.toList.getD (i % 10) ⟨false, 0, none⟩).dead then s
  else
    let ends := edgeEnds (i % 10)
    closeCut (fenceNow ends.2 (fenceNow ends.1 (modEdge i (fun e => { e with dead := true }) s)))

/-- LINK_RETRY: a flit is retransmitted: one class-12 event; good says that its check now passes. num2 = 1: on mesh edge
num (R445). -/
def execLinkRetry (s : State) : Res :=
  let p := s.input.port
  let good := s.input.good
  let bump (n : Nat) : Nat := if good then 0 else n + 1
  let edge := s.input.num2 = 1
  let num := s.input.num
  let s := countEvents none [12] s
  .next (if edge then modEdge num (fun e => { e with fails := bump e.fails }) s else modPort p (fun q => { q with fails := bump q.fails }) s)

/-- RECEIVER_LOSES_LOCK starts the 10 µs; good = false: lock is found again (R445). -/
def execReceiverLosesLock (s : State) : Res :=
  let p := s.input.port
  let t := if s.input.good then some s.now else none
  let put (x : Option Nat) : Option Nat := if t.isNone then none else x.orElse fun _ => t
  .next (if s.input.num2 = 1 then modEdge s.input.num (fun e => { e with lockLost := put e.lockLost }) s
         else modPort p (fun q => { q with lockLost := put q.lockLost }) s)

/-- LINK_DEATH: 16 retransmissions of one flit have failed in a row, or the receiver has been without lock for 10 µs
(R445). -/
def execLinkDeath (s : State) : Res :=
  let p := s.input.port
  if s.input.num2 = 1 then
    let e := s.dev.edges.toList.getD (s.input.num % 10) ⟨false, 0, none⟩
    if 16 ≤ e.fails then .next (edgeDies s.input.num s)
    else match e.lockLost with
      | some t => .next (edgeDies s.input.num (elapseTo t 10 s))
      | none => .next s
  else
    let q := s.dev.ports[p.val]
    if 16 ≤ q.fails then .next (declareDead p 0 s)
    else match q.lockLost with
      | some t => .next (declareDead p 1 (elapseTo t 10 s))
      | none => .next s

/-- LINK_TRAINED: the port comes up, unless its peer reports this device's own number (R474, R475). A link that was declared dead
carries traffic again only after an "up" update, which the device floods now where no request has (R446, R476; log 84). -/
def execLinkTrained (s : State) : Res :=
  let p := s.input.port
  let d := s.input.dev.val
  let n := s.input.num
  if s.dev.ports[p.val].up ∨ d = s.dev.no then .next s
  else
    let s := if s.dev.ports[p.val].told then s else floodUpdate p true s
    .next (linkChanged p 0 (modPort p (fun q => { q with up := true, peerDev := d, peerPort := n, fails := 0, lockLost := none }) s))

/-- LINK_STATE_UPDATE: the first receipt of an (origin, epoch) pair: a link that it declares dead closes the routes through it (R446). A
record names the origin as the peer
(log 21). -/
def execLinkStateUpdate (s : State) : Res :=
  let u := s.input.update
  if s.dev.seen.contains (u.origin.val, u.epoch) then .next s
  else
    let link := (u.origin.val, u.port.val)
    let s := modDev s fun d => { d with seen := d.seen ++ [(u.origin.val, u.epoch)], drains := d.drains ++ [⟨u.origin.val, u.epoch, u.port.val, u.up, s.now, 1⟩]
                                        deadLinks := if u.up || d.deadLinks.contains link then d.deadLinks else d.deadLinks ++ [link] }
    .next (raiseIrq (linkRecord u.port.val (if u.up then 1 else 0) 2 0 u.origin.val u.epoch 0 0 s) 3)

/-! ## The drain rounds (R446, R447) -/

/-- Accesses of a core that wait for a device which no route reaches end: a load's data is poisoned and its consumer faults; an atomic
raises protection (R447). -/
def failRemoteLoads (s : State) : State :=
  let lost (w : Wait) : Bool := match w.kind with | .remote d _ _ _ _ _ => !reaches s d | _ => false
  s.cores.foldl (fun s e =>
    let ws := (coreOf s e.1).waits.filter lost
    let s := modCore s e.1 fun c => { c with waits := c.waits.filter fun w => !lost w }
    ws.foldl (fun s w =>
      let s := spoilLanding w.ctx w.id s
      match w.kind with
      | .remote _ _ _ vas _ bs =>
        let va := vas.headD w.first
        if bs.isEmpty then failAt w.ctx 0x0C va w.bundle s else failAt w.ctx 0x0D va w.bundle (poisonRecord w.ctx w.bundle (keyOf (waitAcc s w) va s) 5 2 s)
      | _ => s) s) s

/-- A request to another device ends in error: of an engine operation, which ends in error, else of its context, which may have retired and
left its task (R250, R278, R447). -/
def failRequest (r : OutReq) (s : State) : State :=
  let c := clusterOf s r.who.cluster
  let op := (c.copies ++ c.gathers).find? fun (o : CopyOp) => o.ctx == r.who && o.bundle == r.bundle && o.moved
  match (if r.who.isSys then none else op) with
  | some o => failOp r.who o.id false 0x0C s
  | none =>
    if (getCtx s r.who).run = .free ∨ (getCtx s r.who).task ≠ r.task then postFault s ⟨r.bundle, r.task, r.who.cluster, r.who.who, 3, 0x0C, 2⟩
    else failAt r.who 0x0C r.va r.bundle s

/-- Channels to or from another device of which elements in flight are lost close at both ends (R288, R447); what has arrived stays
(log 67). -/
def closeRemote (lost : List Nat) (s : State) : State :=
  s.chans.foldl (fun s e => if (e.2.dst.isNone || e.2.src.isNone) && lost.contains e.1 then closeChan e.1 false s else s) s

/-- The action of a round; lost names the channels of which elements in flight are lost. Requests that have a route are sent again
in round 3, each under its number; those that have none end in error in round 4 (R446). -/
def drainAction (lost : List Nat) (round : Nat) (port : Nat) (own : Bool) (s : State) : State :=
  let p : Fin 12 := Fin.ofNat 12 port
  match round with
  | 3 =>
    let k := (s.dev.outreqs.filter fun r => reaches s r.dev).length
    if own then modPort p (fun q => { q with resent := q.resent + k }) s else s
  | 4 =>
    let rs := s.dev.outreqs.filter fun r => !reaches s r.dev
    let s := modDev s fun d => { d with outreqs := d.outreqs.filter fun r => !rs.contains r }
    let s := rs.foldl (fun s r => failRequest r s) s
    let s := if own then modPort p (fun q => { q with failed := q.failed + rs.length }) s else s
    closeRemote lost (failRemoteLoads s)
  | _ => s

/-- The drain of an "up" update is over: the link is dead no longer, unless a later update says so (R446). -/
def revived (d : Drain) (s : State) : State :=
  if d.up && !(s.dev.drains.any fun x => x.origin == d.origin && x.port == d.port && decide (d.epoch < x.epoch) && !x.up) then
    modDev s fun v => { v with deadLinks := v.deadLinks.filter (· ≠ (d.origin, d.port)) }
  else s

/-- LINK_DRAIN_ROUND: the next round of the update (dev, num) begins; after the fourth it is over (R446). -/
def execLinkDrainRound (s : State) : Res :=
  let o := s.input.dev.val
  let e := s.input.num
  match s.dev.drains.find? fun d => d.origin = o ∧ d.epoch = e with
  | none => .next s
  | some d =>
    let s := elapseTo d.received (50 * (d.round - 1)) s
    let s := drainAction s.input.list d.round d.port (d.origin == s.dev.no) s
    let step (x : Drain) : Drain := if x.origin = o ∧ x.epoch = e then { x with round := x.round + 1 } else x
    let ds := (s.dev.drains.map step).filter (·.round < 6)
    let s := if d.round = 5 then revived d s else s
    .next (modDev s fun v => { v with drains := ds })

/-! ## Requests to the device (R476) -/

/-- The head of the request queue: TYPE, PORT, VALUE. -/
def headRequest (s : State) : Option (Nat × Nat × Nat) :=
  let h := platRead s 0x1F0 4 % 64
  if h = platRead s 0x1F4 4 % 64 then none
  else some (platRead s (0x200 + 16 * h) 1, platRead s (0x201 + 16 * h) 1, platRead s (0x204 + 16 * h) 4)

def advanceHead (s : State) : State := platWrite s 0x1F0 4 ((platRead s 0x1F0 4 + 1) % 64)

/-- An entry that the device skips. -/
def requestSkipped (ty port : Nat) : Bool := !(ty == 1 || ty == 2 || ty == 3) || (ty != 3 && decide (11 < port))

/-- Processes the head entry when it is of a type; an entry that is skipped is passed by any of the three. -/
def processRequest (ty : Nat) (act : Fin 12 → Nat → State → State) (s : State) : Res :=
  match headRequest s with
  | none => .next s
  | some (t, port, v) =>
    if requestSkipped t port then .next (advanceHead s)
    else if t = ty then .next (advanceHead (act (Fin.ofNat 12 port) v s)) else .next s

/-- REQUEST_DECLARE_DEAD, cause 3 (R476). -/
def execRequestDeclareDead (s : State) : Res := processRequest 1 (fun p _ => declareDead p 3) s

/-- REQUEST_BRING_UP: floods an "up" update; the port comes up when it is trained (R446, R476). -/
def execRequestBringUp (s : State) : Res :=
  processRequest 2 (fun p _ s => if s.dev.ports[p.val].up then s else writeLink p (floodUpdate p true s)) s

/-- REQUEST_PCAP (R476). -/
def execRequestPcap (s : State) : Res :=
  processRequest 3 (fun _ v s => let c := max 1200 (min 3600 v); platWrite (modDev s fun d => { d with pcap := c }) 0x124 4 c) s

/-! ## Requests of other devices (R273, R446) -/

/-- The tables of an address space that the device knows. -/
def tablesOf (s : State) (asid : BitVec 16) : Word :=
  match (allCtx s).find? fun e => e.2.asid = asid ∧ e.2.ptbase ≠ 0 with
  | some e => e.2.ptbase
  | none => ((s.tasks.find? fun t => t.record.asid = asid).map (·.lpt)).getD 0

/-- A store of another device in committed memory, with its poison (R430). -/
def remoteStore (r : RemoteReq) (bs : List Byte) (s : State) : State :=
  let s := deviceWrite .other (.sys 0 0) false (tablesOf s r.asid) r.asid r.va bs s
  if r.bad then poisonPiece (deviceAcc (.sys 0 0) (tablesOf s r.asid) r.asid (.device 0)) r.va s else s

/-- REMOTE_REQUEST: delivered in sequence order for its source; a store is made in committed memory. -/
def execRemoteRequest (s : State) : Res :=
  let r := s.input.req
  if r.seq ≠ (Tbl.get? s.dev.delivered r.src.val).getD 0 + 1 then .next s
  else
    let s := modDev s fun d => { d with delivered := Tbl.set d.delivered r.src.val r.seq }
    match r.store with
    | some bs => .next (remoteStore r bs s)
    | none => .next s

/-! ## Host clients (R478, R479) -/

/-- HOST_MESSAGE: a host whose link is up posts a message by writing TAIL; a full ring is not written (R479). -/
def execHostMessage (s : State) : Res :=
  let h := s.input.host
  if !s.dev.hostUp[h.val] then .next s
  else
    let o := 0x1000 + 0x2000 * h.val
    let head := platRead s o 4 % 63
    let tail := platRead s (o + 4) 4 % 63
    if (tail + 1) % 63 = head then .next s
    else
      let msg := ((s.input.bytes.getD []) ++ List.replicate 64 0).take 64
      let s := committedStore (platformBase + o + 64 + 64 * tail) msg s
      .next (raiseIrq (platWrite s (o + 4) 4 ((tail + 1) % 63)) 1)

/-- A host's write through BAR0, at an offset of its own ring pair HQn; one that covers the TAIL of its host-to-device ring raises
interrupt 1 (R478, R479). -/
def bar0Write (h : Fin 4) (off : Nat) (bs : List Byte) (s : State) : State :=
  if 8192 < off + bs.length then s
  else
    let s := committedStore (platformBase + 0x1000 + 0x2000 * h.val + off) bs s
    if off < 8 ∧ 4 < off + bs.length then raiseIrq s 1 else s

/-- A page that the supervisor has granted a host, named by an address space and a virtual address: the physical address of va, where
its mapping carries HW = 1 (R404, R478). -/
def grantedKey (c : CtxId) (va n : Nat) (s : State) : Option Nat :=
  match (translate (accOf s c) .write va s).2 with
  | .ok key true => if va % 4096 + n ≤ 4096 ∧ key < 2 ^ 56 then some key else none
  | _ => none

/-- HOST_ACCESS at offset num of BAR0 (num2 = 0) or of BAR2 (else: what the offset maps is the page of address num2 in the tables of
ctx; good says that the grant holds it; log 42). A write takes effect at once (R311, R478), or waits for sectors as the device's own
writes do (R419); any other access reaches no memory. -/
def execHostAccess (s : State) : Res :=
  let i := s.input
  match (if s.dev.hostUp[i.host.val] then i.bytes else none) with
  | some bs =>
    if i.num2 = 0 then .next (bar0Write i.host i.num bs s)
    else
      match (if i.good && decide (i.num + bs.length ≤ 2 ^ 36) then grantedKey i.ctx i.num2 bs.length s else none) with
      | some a => .next (deviceWrite .other (.sys 0 0) true 0 0 a bs s)
      | none => .next s
  | none => .next s

/-- PCIE_LINK_STATE_CHANGE (R478). -/
def execPcieLinkStateChange (s : State) : Res :=
  let h := s.input.host
  let up := s.input.good
  .next (modDev s fun d => { d with hostUp := d.hostUp.set h.val up })

/-- The ETH field of a port in the platform block (R473). -/
def writeEth (p : Fin 5) (s : State) : State :=
  let q := s.dev.ethUp[p.val]
  { s with mem := s.mem.writeBytes (platformBase + 0xA0 + 8 * p.val) (bytesOf 1 (if q.1 then 1 else 0) ++ bytesOf 1 q.2 ++ bytesOf 6 0) }

/-- ETHERNET_PORT_STATE_CHANGE: port num, speed num2 (R473). -/
def execEthernetPortStateChange (s : State) : Res :=
  let p := s.input.num % 5
  let up := s.input.good
  let speed := s.input.num2
  let s := modDev s fun d => { d with ethUp := d.ethUp.set p (up, speed) (Nat.mod_lt _ (by decide)) }
  .next (writeEth (Fin.ofNat 5 p) s)

/-! ## Power, clock and temperature (R481) -/

/-- THST changes: its field and interrupt 4. -/
def putThst (x : Nat) (s : State) : State :=
  if s.dev.thst = x then s else raiseIrq (platWrite (modDev s fun d => { d with thst := x }) 0x110 1 x) 4

def anyTemp (s : State) (limit : Nat) : Bool := s.dev.temps.toList.any fun t => decide (limit < t)

/-- The clock's next step, by power and temperatures in 1/16 °C. -/
def nextClk (s : State) : Nat :=
  let d := s.dev
  if d.pcap < d.pwr || anyTemp s (95 * 16) then max 900 (d.clk - 100)
  else if 100 * d.pwr < 95 * d.pcap && d.temps.toList.all (fun t => decide (t < 90 * 16)) then min 1500 (d.clk + 100)
  else d.clk

def thermal (s : State) : Nat :=
  if s.dev.thst = 2 || s.dev.temps.toList.any (fun t => decide (105 * 16 ≤ t)) then 2 else if s.dev.clk < 1500 then 1 else 0

/-- CLOCK_ADJUST after a millisecond: num is the power, list the temperatures (R481). -/
def execClockAdjust (s : State) : Res :=
  let pwr := s.input.num
  let ts := s.input.list
  let s := elapseTo s.now 1000 s
  let s := modDev s fun d => { d with pwr := pwr, temps := Vector.ofFn fun i => ts.getD i.val 0 }
  let s := setClock (nextClk s) s
  let s := platWrite (platWrite s 0x120 4 pwr) 0x128 4 s.dev.clk
  let s := { s with mem := s.mem.writeBytes (platformBase + 0x100) (s.dev.temps.toList.flatMap (bytesOf 2)) }
  .next (putThst (thermal s) s)

/-- CRITICAL_TEMPERATURE of stack die: num is the temperature, at least 105 °C (R481). -/
def execCriticalTemperature (s : State) : Res :=
  let n := s.input.die
  let t := max s.input.num (105 * 16)
  let s := modDev s fun d => { d with temps := d.temps.set n.val t }
  .next (putThst 2 (platWrite s (0x100 + 2 * n.val) 2 t))

/-- POWER_REMOVED (R481). -/
def execPowerRemoved (s : State) : Res := .next (modDev s fun d => { d with powered := false })

/-! ## Boot (R474, R480) -/

/-- DEVNO_SUPPLY: the number stands from the next release of reset (R474); the boot ROM has not yet written it before stage 2
(log 12). -/
def execDevnoSupply (s : State) : Res :=
  let n := s.input.dev.val
  .next (modDev s fun d => { d with supplied := n, no := if d.boot ≤ 1 then n else d.no })

/-- Release of reset: everything but what reset does not reach: DEVNO, the boot ROM, the fuse map and its bindings, and
memory (log 2, log 12). -/
def releaseReset (s : State) : State :=
  let r := State.reset
  let die (n : Fin 8) : Stack := { Stack.reset n.val with badSlabs := (stackOf s n).badSlabs, badFes := (stackOf s n).badFes }
  { r with tick := s.tick, agenda := s.agenda, rom := s.rom, mem := s.mem, spm := s.spm, dies := Vector.ofFn die, dev := { r.dev with no := s.dev.supplied, supplied := s.dev.supplied } }

/-- What the ROM writes at the end of stage 2 (R473, R480). -/
def platformImage (s : State) : State :=
  let s := { s with mem := s.mem.filter fun e => !(decide (platformBase ≤ e.1) && decide (e.1 < platformBase + 65536)) }
  let s := platWrite (platWrite (platWrite (platWrite s 0 4 0x54414C50) 4 4 1) 8 1 s.dev.no) 0x18 4 2
  let s := platWrite (platWrite s 0x124 4 s.dev.pcap) 0x128 4 s.dev.clk
  let s := { s with mem := s.mem.writeBytes (platformBase + 0x100) (s.dev.temps.toList.flatMap (bytesOf 2)) }
  let s := platWrite (platWrite s 0x110 1 s.dev.thst) 0x120 4 s.dev.pwr
  (List.finRange 5).foldl (fun s p => writeEth p s) ((List.finRange 12).foldl (fun s p => writeLink p s) s)

/-- A stage of boot fails: BSTAT bit 31, and the core that runs it halts (R480). The bit is set whichever stage fails, though R480 lets
only stage 2 train the HBM that holds the block (DESIGN CHOICE; log 87). -/
def failStage (s : State) : State :=
  modCtx (platWrite s 0x18 4 (platRead s 0x18 4 % 2 ^ 31 + 2 ^ 31)) (.sys 0 0) fun x => { x with run := .halted }

/-- RESET: num = 0 releases reset (stage 1); num = 2–5 is that stage of boot, which system core 0 of stack 0 runs, unless an earlier one
has failed; good = false: it fails (R480). Stage 2 writes the platform block at its end, a later one BSTAT before it begins. -/
def execReset (s : State) : Res :=
  let k := s.input.num
  let good := s.input.good
  let ends (s : State) : Res := .next (if good then s else failStage s)
  if k = 0 then ends (releaseReset s)
  else if s.dev.boot + 1 ≠ k ∨ 5 < k ∨ (getCtx s (.sys 0 0)).run = .halted then .next s
  else
    let s := modDev s fun d => { d with boot := k }
    ends (if 2 < k then platWrite s 0x18 4 k else if good then platformImage s else s)

/-! ## Errors that codes and parity find (R429–R431) -/

/-- A register whose words have parity (R429), from its encoding in R484. -/
def parityReg (x : Nat) : Option RegName :=
  let n := x % 64
  match x / 256 with
  | 0 => some (.s (Fin.ofNat 32 n))
  | 1 => some (.a (Fin.ofNat 16 n))
  | 3 => some (.v (Fin.ofNat 32 n))
  | 4 => some (.m (Fin.ofNat 8 n))
  | 5 => some (.w (Fin.ofNat 8 n))
  | 8 => some (.b (Fin.ofNat 8 n))
  | _ => none

def addNat (x : Nat) (l : List Nat) : List Nat := if l.contains x then l else l ++ [x]

/-- Poison is created at an address: its class-13 event and its record, at the task's where a task holds it (R430, R442). -/
def poisonFound (at_ : Site) (task addr level : Nat) (s : State) : State :=
  logEntryAt 3 1 at_ task (bytesOf 8 addr ++ bytesOf 1 level ++ bytesOf 1 0) (countEvents none [13] s)

/-- The stack that holds a physical address. -/
def siteAt (s : State) (pa : Nat) : Site :=
  match placeOf s pa with
  | .nominal n _ | .raw n _ | .sump n _ => { stack := n.val }
  | _ => {}

/-- The core whose store holds the matter. -/
def coreSite (core : Nat) : Site := { stack := core / 48, clu := core / 4 }

/-- An error in what a code protects: corrected in place, with one class-8 event; or found, and marked (R429). -/
def codeFind (f : StoredFault) (found : State → State) (s : State) : Res :=
  match f with
  | .clean => .next s
  | .correctable => .next (countEvents none [8] s)
  | .uncorrectable => .next (found s)

/-- An error in what parity protects: the copy is dropped, with one class-9 event (R429). -/
def parityFind (f : StoredFault) (drop : State → State) (s : State) : Res :=
  if f = .clean then .next s else .next (countEvents none [9] (drop s))

/-- A line of committed memory becomes poisoned, in HBM or as a dirty line of the LLC (level 2). -/
def poisonLine (l level : Nat) (s : State) : State :=
  poisonFound (siteAt s (64 * l)) 0 (64 * l) level { s with poison := addNat l s.poison }

def poisonGranule (g : Nat) (s : State) : State :=
  poisonFound (coreSite (8 * g / coreBytes)) 0 (8 * g) 0 { s with spmPoison := addNat g s.spmPoison }

/-- The part of a held store that stands for scratchpad granule g becomes poisoned. -/
def poisonHeld (core g : Nat) (s : State) : State :=
  match (coreOf s core).stores.find? fun t => decide (spmKey (t.core, t.off) < 8 * g + 8) && decide (8 * g < spmKey (t.core, t.off) + t.size) with
  | some t => poisonFound (coreSite core) (getCtx s t.ctx).task (8 * g) 0 (modStore core t.id (fun t => { t with bad := addNat g t.bad }) s)
  | none => s

/-- Entry i of a core's side log has granule g of its data poisoned. -/
def poisonEntry (core i g : Nat) (s : State) : State :=
  match (coreOf s core).sidelog[i]? with
  | some e =>
    let all : List Nat := match e.op with
      | .store => e.bytes.map fun b => b.1
      | .reduce _ addr w _ => (List.range w).map (addr + ·)
    let hit := all.filter fun a => a / 8 = g
    match hit with
    | [] => s
    | a :: _ =>
      let key := keyOf (entryAcc core e) a s
      poisonFound (coreSite core) e.task key 0
        (modCore s core fun c => { c with sidelog := c.sidelog.modify i fun e => { e with bad := hit.foldl (fun l a => addNat a l) e.bad } })
  | none => s

/-- Line l of a task's version becomes poisoned. -/
def poisonVersion (task l : Nat) (s : State) : State :=
  match taskOf s task with
  | some t =>
    if t.version.any fun e => e.1 / 64 = l then
      poisonFound (siteAt s (64 * l)) task (64 * l) 2 (modTask s task fun t => { t with vpoison := addNat l t.vpoison })
    else s
  | none => s

/-- Entry i of a stack's bounce ring becomes poisoned. -/
def poisonBounce (n : Fin 8) (i : Nat) (s : State) : State :=
  match (stackOf s n).bounce[i]? with
  | some e =>
    poisonFound { stack := n.val } e.task (e.pa.getD e.va) 2
      (modStack s n fun st => { st with bounce := st.bounce.modify i fun e => { e with bad := true } })
  | none => s

/-- A poison record of a register or a tile: level 4; no poison has been created, so no class-13 event (log 22). -/
def registerRecord (at_ : Site) (task reg cause : Nat) (s : State) : State :=
  logEntryAt 3 1 at_ task (bytesOf 8 reg ++ bytesOf 1 4 ++ bytesOf 1 cause) s

/-- SCRUB and the other finds of R429: num2 names the store: 0 HBM line num, 1 scratchpad granule num, 2 line num of the
L1G of clu, 3 register num (R484) of ctx, 4 tile num of core, 5 the commit buffer of core where it stands for granule num, 6 entry
num of core's side log, with i.list's first number the granule, 7 line num of the version of task, 8 dirty line num of the LLC,
9 a clean one, 10 entry num of the bounce ring of die, 11 line num of the instruction buffer of ctx. -/
def execScrub (s : State) : Res :=
  let i := s.input
  match i.num2 with
  | 0 => codeFind i.stored (poisonLine i.num 3) s
  | 1 => codeFind i.stored (poisonGranule i.num) s
  | 2 => parityFind i.stored (fun s => modCluster s i.clu.val fun u => { u with l1g := Tbl.erase u.l1g i.num }) s
  | 5 => codeFind i.stored (poisonHeld i.core.val i.num) s
  | 6 => codeFind i.stored (poisonEntry i.core.val i.num (i.list.headD 0)) s
  | 7 => codeFind i.stored (poisonVersion i.task.toNat i.num) s
  | 8 => codeFind i.stored (poisonLine i.num 2) s
  | 9 => parityFind i.stored id s
  | 10 => codeFind i.stored (poisonBounce i.die i.num) s
  | 11 => parityFind i.stored (fun s => modCtx s i.ctx fun x => { x with ibuf := Tbl.erase x.ibuf (64 * i.num) }) s
  | 3 =>
    match i.stored, parityReg i.num with
    | .uncorrectable, some r =>
      .next (registerRecord (siteOf (some i.ctx)) (getCtx s i.ctx).task i.num 0 (modCtx s i.ctx fun x =>
        { x with badRegs := if r.wired || x.badRegs.contains r then x.badRegs else x.badRegs ++ [r] }))
    | _, _ => .next s
  | _ =>
    match i.stored with
    | .clean => .next s
    | .correctable => .next (countEvents none [9] s)
    | .uncorrectable => .next (registerRecord (coreSite i.core.val) 0 i.num 1 (setTile i.core.val i.num (fun t => { t with bad := true }) s))

end Sys2Proof.Machine
end

