-- ==== Sys2Proof/Machine/Scalar.lean ====
section
/-! DEFINITION. The SC slot: scalar, predicate, address and branch-target instructions (R119–R140). -/

namespace Sys2Proof.Machine

/-! ## Shared operations -/

/-- d ← f(a, b) with bound L (R119, R122). -/
def alu3 (f : Word → Word → Word) (L : Nat) (d a b : SR) (s : State) : Res :=
  guardRegs [.s a, .s b] [.s d] s fun s => .next (land (.s d) (.word (f (rdS s a) (rdS s b))) L s)

/-- d ← f(a) with bound L. -/
def alu2 (f : Word → Word) (L : Nat) (d a : SR) (s : State) : Res :=
  guardRegs [.s a] [.s d] s fun s => .next (land (.s d) (.word (f (rdS s a))) L s)

/-- pd ← f(pa, pb) (R129). -/
def plog3 (f : Bool → Bool → Bool) (pd pa pb : PR) (s : State) : Res :=
  guardRegs [.p pa, .p pb] [.p pd] s fun s => .next (land (.p pd) (.flag (f (rdP s pa) (rdP s pb))) 1 s)

def plog2 (f : Bool → Bool) (pd pa : PR) (s : State) : Res :=
  guardRegs [.p pa] [.p pd] s fun s => .next (land (.p pd) (.flag (f (rdP s pa))) 1 s)

/-- An FP32 result to d[31:0] with its events (R137, R138). -/
def fop3 (f : Nat → Nat → Coded) (L : Nat) (d a b : SR) (s : State) : Res :=
  guardRegs [.s a, .s b] [.s d] s fun s =>
    let r := f ((rdS s a).toNat % 2 ^ 32) ((rdS s b).toNat % 2 ^ 32)
    .next (countMine r.2 (land (.s d) (.word (BitVec.ofNat 64 r.1)) L s))

def fopOne (f : Nat → Coded) (L : Nat) (d a : SR) (s : State) : Res :=
  guardRegs [.s a] [.s d] s fun s =>
    let r := f (rdS s a).toNat
    .next (countMine r.2 (land (.s d) (.word (BitVec.ofNat 64 r.1)) L s))

/-- The bits [127:64] of the signed product (R122). -/
def mulHigh (a b : Word) : Word := BitVec.ofInt 64 (a.toInt * b.toInt / (2 ^ 64 : Nat))

def mulHighZ (a b : Word) : Word := BitVec.ofNat 64 (a.toNat * b.toNat / 2 ^ 64)

/-- The quotients and remainders of R122 with the edge cases of R123. -/
def divSigned (a b : Word) : Word := if b = 0 then BitVec.allOnes 64 else BitVec.ofInt 64 (a.toInt.tdiv b.toInt)
def divUnsigned (a b : Word) : Word := if b = 0 then BitVec.allOnes 64 else a / b
def remSigned (a b : Word) : Word := if b = 0 then a else BitVec.ofInt 64 (a.toInt.tmod b.toInt)
def remUnsigned (a b : Word) : Word := if b = 0 then a else a % b

/-- Number of leading and trailing zero bits, and of one bits (R122). -/
def leadingZeros (a : Word) : Word := if a = 0 then 64 else BitVec.ofNat 64 (63 - a.toNat.log2)
def trailingZeros (a : Word) : Word := BitVec.ofNat 64 (((List.range 64).find? fun i => getBit a i).getD 64)
def onesCount (a : Word) : Word := BitVec.ofNat 64 (((List.range 64).filter fun i => getBit a i).length)

def shamt (b : Word) : Nat := b.toNat % 64

/-- The identity values of the issuing context (R18): a system core stands on its stack. -/
def identOf (s : State) : Ident :=
  match s.who with
  | .sys n _ => { s.ctx.ident with die := n.val, dev := s.dev.no }
  | _ => s.ctx.ident

/-- The special values of R48. -/
def special (s : State) (sel : Fin 16) : Word :=
  let i := identOf s
  let n (x : Nat) : Word := BitVec.ofNat 64 x
  match sel.val with
  | 0 => n i.core
  | 1 => n i.clu
  | 2 => n i.die
  | 3 => n i.dev
  | 4 => n i.ctx
  | 5 => n i.gang
  | 6 => n i.gx
  | 7 => n (s.now + Config.cycOrigin s.who.coreNo - (coreOf s s.who.coreNo).cyc0)
  | 8 => n s.ctx.sc
  | 9 => 64
  | l => match s.ctx.loops[l - 10]? with | some v => v.index | none => 0

/-- ADD (R122). -/
def execAdd (d a b : SR) (s : State) : Res :=
  alu3 (fun a b => a + b) 1 d a b s

/-- SUB (R122). -/
def execSub (d a b : SR) (s : State) : Res :=
  alu3 (fun a b => a - b) 1 d a b s

/-- AND (R122). -/
def execAndS (d a b : SR) (s : State) : Res :=
  alu3 (fun a b => a &&& b) 1 d a b s

/-- OR (R122). -/
def execOrS (d a b : SR) (s : State) : Res :=
  alu3 (fun a b => a ||| b) 1 d a b s

/-- XOR (R122). -/
def execXorS (d a b : SR) (s : State) : Res :=
  alu3 (fun a b => a ^^^ b) 1 d a b s

/-- ANDN (R122). -/
def execAndn (d a b : SR) (s : State) : Res :=
  alu3 (fun a b => a &&& ~~~b) 1 d a b s

/-- SHL (R122). -/
def execShl (d a b : SR) (s : State) : Res :=
  alu3 (fun a b => a <<< shamt b) 1 d a b s

/-- SHR (R122). -/
def execShr (d a b : SR) (s : State) : Res :=
  alu3 (fun a b => a >>> shamt b) 1 d a b s

/-- SHA (R122). -/
def execSha (d a b : SR) (s : State) : Res :=
  alu3 (fun a b => a.sshiftRight (shamt b)) 1 d a b s

/-- ROTL (R122). -/
def execRotl (d a b : SR) (s : State) : Res :=
  alu3 (fun a b => rotl64 a (shamt b)) 1 d a b s

/-- MIN (R122). -/
def execMinS (d a b : SR) (s : State) : Res :=
  alu3 (fun a b => if a.sle b then a else b) 1 d a b s

/-- MAX (R122). -/
def execMaxS (d a b : SR) (s : State) : Res :=
  alu3 (fun a b => if a.sle b then b else a) 1 d a b s

/-- MINZ (R122). -/
def execMinz (d a b : SR) (s : State) : Res :=
  alu3 (fun a b => if a.ule b then a else b) 1 d a b s

/-- MAXZ (R122). -/
def execMaxz (d a b : SR) (s : State) : Res :=
  alu3 (fun a b => if a.ule b then b else a) 1 d a b s

/-- MUL (R122, R123), bound 3 (R105). -/
def execMul (d a b : SR) (s : State) : Res :=
  alu3 (fun a b => a * b) 3 d a b s

/-- MULH (R122, R123), bound 3 (R105). -/
def execMulh (d a b : SR) (s : State) : Res :=
  alu3 (mulHigh) 3 d a b s

/-- MULHZ (R122, R123), bound 3 (R105). -/
def execMulhz (d a b : SR) (s : State) : Res :=
  alu3 (mulHighZ) 3 d a b s

/-- DIVS (R122, R123), bound 18 (R105). -/
def execDivS (d a b : SR) (s : State) : Res :=
  alu3 (divSigned) 18 d a b s

/-- DIVZ (R122, R123), bound 18 (R105). -/
def execDivz (d a b : SR) (s : State) : Res :=
  alu3 (divUnsigned) 18 d a b s

/-- REMS (R122, R123), bound 18 (R105). -/
def execRemS (d a b : SR) (s : State) : Res :=
  alu3 (remSigned) 18 d a b s

/-- REMZ (R122, R123), bound 18 (R105). -/
def execRemz (d a b : SR) (s : State) : Res :=
  alu3 (remUnsigned) 18 d a b s

/-- CLZ (R122, R124). -/
def execClz (d a : SR) (s : State) : Res :=
  alu2 (leadingZeros) 1 d a s

/-- CTZ (R122, R124). -/
def execCtz (d a : SR) (s : State) : Res :=
  alu2 (trailingZeros) 1 d a s

/-- POPC (R122, R124). -/
def execPopc (d a : SR) (s : State) : Res :=
  alu2 (onesCount) 1 d a s

/-- SEXTB (R122, R124). -/
def execSextb (d a : SR) (s : State) : Res :=
  alu2 (fun a => (a.truncate 8).signExtend 64) 1 d a s

/-- SEXTH (R122, R124). -/
def execSexth (d a : SR) (s : State) : Res :=
  alu2 (fun a => (a.truncate 16).signExtend 64) 1 d a s

/-- SEXTW (R122, R124). -/
def execSextw (d a : SR) (s : State) : Res :=
  alu2 (fun a => (a.truncate 32).signExtend 64) 1 d a s

/-- ADDI (R125). -/
def execAddi (d a : SR) (imm : BitVec 12) (s : State) : Res :=
  alu2 (fun a => a + imm.signExtend 64) 1 d a s

/-- ANDI (R125). -/
def execAndi (d a : SR) (imm : BitVec 12) (s : State) : Res :=
  alu2 (fun a => a &&& imm.signExtend 64) 1 d a s

/-- ORI (R125). -/
def execOri (d a : SR) (imm : BitVec 12) (s : State) : Res :=
  alu2 (fun a => a ||| imm.signExtend 64) 1 d a s

/-- XORI (R125). -/
def execXori (d a : SR) (imm : BitVec 12) (s : State) : Res :=
  alu2 (fun a => a ^^^ imm.signExtend 64) 1 d a s

/-- SHLI (R125). -/
def execShli (d a : SR) (n : BitVec 6) (s : State) : Res :=
  alu2 (fun a => a <<< n.toNat) 1 d a s

/-- SHRI (R125). -/
def execShri (d a : SR) (n : BitVec 6) (s : State) : Res :=
  alu2 (fun a => a >>> n.toNat) 1 d a s

/-- SHAI (R125). -/
def execShai (d a : SR) (n : BitVec 6) (s : State) : Res :=
  alu2 (fun a => a.sshiftRight n.toNat) 1 d a s

/-- LI (R126). -/
def execLi (d : SR) (imm : BitVec 17) (s : State) : Res :=
  guardRegs [] [.s d] s fun s => .next (land (.s d) (.word (imm.signExtend 64)) 1 s)

/-- LIS reads d (R126). -/
def execLis (d : SR) (imm : BitVec 17) (s : State) : Res :=
  alu2 (fun x => (x <<< 17) ||| imm.zeroExtend 64) 1 d d s

/-- CMP (R127). -/
def execCmp (cond : Fin 8) (pd : PR) (a b : SR) (s : State) : Res :=
  guardRegs [.s a, .s b] [.p pd] s fun s => .next (land (.p pd) (.flag (icond cond (rdS s a) (rdS s b))) 1 s)

/-- CMPI (R127). -/
def execCmpi (cond : Fin 8) (pd : PR) (a : SR) (imm : BitVec 10) (s : State) : Res :=
  guardRegs [.s a] [.p pd] s fun s => .next (land (.p pd) (.flag (icond cond (rdS s a) (imm.signExtend 64))) 1 s)

/-- AND of PLOG (R129). -/
def execPand (pd pa pb : PR) (s : State) : Res :=
  plog3 (fun a b => a && b) pd pa pb s

/-- OR of PLOG (R129). -/
def execPor (pd pa pb : PR) (s : State) : Res :=
  plog3 (fun a b => a || b) pd pa pb s

/-- XOR of PLOG (R129). -/
def execPxor (pd pa pb : PR) (s : State) : Res :=
  plog3 (fun a b => a != b) pd pa pb s

/-- ANDN of PLOG (R129). -/
def execPandn (pd pa pb : PR) (s : State) : Res :=
  plog3 (fun a b => a && !b) pd pa pb s

/-- NOT of PLOG (R129). -/
def execPnot (pd pa : PR) (s : State) : Res :=
  plog2 (fun a => !a) pd pa s

/-- MOV of PLOG (R129). -/
def execPmov (pd pa : PR) (s : State) : Res :=
  plog2 (fun a => a) pd pa s

/-- SEL reads both operands (R130). -/
def execSel (d a b : SR) (p : PR) (s : State) : Res :=
  guardRegs [.p p, .s a, .s b] [.s d] s fun s => .next (land (.s d) (.word (if rdP s p then rdS s a else rdS s b)) 1 s)

/-- AADD changes a base only (R131). -/
def execAadd (ad aa : AR) (x : SR) (s : State) : Res :=
  guardRegs [.a aa, .s x] [.a ad] s fun s => .next (land (.a ad) (.base (rdBase s aa + rdS s x)) 1 s)

/-- ASUB changes a base only (R131). -/
def execAsub (ad aa : AR) (x : SR) (s : State) : Res :=
  guardRegs [.a aa, .s x] [.a ad] s fun s => .next (land (.a ad) (.base (rdBase s aa - rdS s x)) 1 s)

/-- AMOVS (R131). -/
def execAmovs (ad : AR) (x : SR) (s : State) : Res :=
  guardRegs [.s x] [.a ad] s fun s => .next (land (.a ad) (.base (rdS s x)) 1 s)

/-- SMOVA reads a base only (R131). -/
def execSmova (d : SR) (aa : AR) (s : State) : Res :=
  guardRegs [.a aa] [.s d] s fun s => .next (land (.s d) (.word (rdBase s aa)) 1 s)

/-- AADDI (R132). -/
def execAaddi (ad aa : AR) (imm : BitVec 12) (s : State) : Res :=
  guardRegs [.a aa] [.a ad] s fun s => .next (land (.a ad) (.base (rdBase s aa + imm.signExtend 64)) 1 s)

/-- ASTRIDE; levels 6 and 7 are reserved (R133). -/
def execAstride (a : AR) (level : Fin 8) (imm : BitVec 15) (s : State) : Res :=
  if h : level.val < 6 then
    guardRegs [] [.a a] s fun s => .next (land (.a a) (.stride ⟨level.val, h⟩ imm) 1 s)
  else reserved s

/-- MOVX (R136, R48). -/
def execMovx (d : SR) (sel : Fin 16) (s : State) : Res :=
  guardRegs [] [.s d] s fun s => .next (land (.s d) (.word (special s sel)) 1 s)

/-- FADD (R137, R138). -/
def execFadd (d a b : SR) (s : State) : Res :=
  fop3 (fop2 .f32 numAdd) 4 d a b s

/-- FSUB (R137, R138). -/
def execFsub (d a b : SR) (s : State) : Res :=
  fop3 (fop2 .f32 fun x y => numAdd x y.neg) 4 d a b s

/-- FMUL (R137, R138). -/
def execFmul (d a b : SR) (s : State) : Res :=
  fop3 (fop2 .f32 numMul) 4 d a b s

/-- FDIV, bound 12 (R137, R138). -/
def execFdiv (d a b : SR) (s : State) : Res :=
  fop3 (fop2 .f32 numDiv) 12 d a b s

/-- FMIN: −0 below +0, NaN when an operand is NaN (R137). -/
def execFmin (d a b : SR) (s : State) : Res :=
  fop3 (fun x y => (fminmax .f32 false x y, [])) 4 d a b s

/-- FMAX: −0 below +0, NaN when an operand is NaN (R137). -/
def execFmax (d a b : SR) (s : State) : Res :=
  fop3 (fun x y => (fminmax .f32 true x y, [])) 4 d a b s

/-- FSQRT, bound 12 (R137, R138). -/
def execFsqrt (d a : SR) (s : State) : Res :=
  fopOne (fun x => fop1 .f32 numSqrt (x % 2 ^ 32)) 12 d a s

/-- FCVTIF: INT64 to FP32 by RNE (R137). -/
def execFcvtif (d a : SR) (s : State) : Res :=
  fopOne (fun x => ((roundF .f32 .rne 0 (numOfInt (intOf 64 true x))).1, [])) 4 d a s

/-- FCVTFI: FP32 to INT64 toward zero, clamped (R137, R138). -/
def execFcvtfi (d a : SR) (s : State) : Res :=
  fopOne (fun x => convInt 64 true .rtz 0 (decodeF .f32 (x % 2 ^ 32))) 4 d a s

/-- FCMP counts no event (R128). -/
def execFcmp (cond : Fin 8) (pd : PR) (a b : SR) (s : State) : Res :=
  guardRegs [.s a, .s b] [.p pd] s fun s =>
    .next (land (.p pd) (.flag (fcond cond.val (decodeF .f32 ((rdS s a).toNat % 2 ^ 32)) (decodeF .f32 ((rdS s b).toNat % 2 ^ 32)))) 1 s)

/-- BTGT (R139). -/
def execBtgt (b : BR) (imm : BitVec 19) (s : State) : Res :=
  guardRegs [] [.b b] s fun s => .next (land (.b b) (.word (s.frame.base + imm.signExtend 64 * 4)) 1 s)

/-- BTGTA ignores strides (R140). -/
def execBtgta (b : BR) (aa : AR) (s : State) : Res :=
  guardRegs [.a aa] [.b b] s fun s => .next (land (.b b) (.word (rdBase s aa)) 1 s)

end Sys2Proof.Machine
end

