-- ==== Sys2Proof/Machine/Vector.lean ====
section
/-! DEFINITION. The vector instructions of the VA and VB slots (R200–R220). -/

namespace Sys2Proof.Machine

/-! ## Elements (R202) -/

/-- The elements of width 16 or 32 of a register, in order. -/
def elems (w : Nat) (v : Vec) : List Nat :=
  v.toList.flatMap fun x => if w = 16 then [x.toNat % 2 ^ 16, x.toNat / 2 ^ 16] else [x.toNat]

/-- A register from its elements in order. -/
def ofElems (w : Nat) (l : List Nat) : Vec :=
  Vector.ofFn fun i => BitVec.ofNat 32 (if w = 16 then l.getD (2 * i.val) 0 % 2 ^ 16 + 2 ^ 16 * (l.getD (2 * i.val + 1) 0) else l.getD i.val 0)

/-- Whether each element's lane is computed (R203). -/
def laneBits (w : Nat) (m : Word) : List Bool :=
  (List.range 64).flatMap fun i => if w = 16 then [getBit m i, getBit m i] else [getBit m i]

def maskReg (m : MR) : List RegName := if m = 0 then [] else [.m m]

/-- Result elements with their events; a masked-off lane keeps d and counts nothing (R203). -/
def maskedResults (mask : List Bool) (old : List Nat) (rs : List Coded) : List Coded :=
  ((mask.zip old).zip rs).map fun e => if e.1.1 then e.2 else (e.1.2, [])

/-- d where an operation reads it: it stands first in the assembly form, and so first among the sources (DEDUCED: R484 takes a
slot's sources "in operand order"; log 75). -/
def oldOf (d : VR) (m : MR) (readsD : Bool) : List RegName := if m ≠ 0 ∨ readsD then [.v d] else []

/-- d ← f(a, b, d) for each element of each computed lane (R203, R205). -/
def vector3 (readsD : Bool) (f : Nat → Nat → Nat → Coded) (w L : Nat) (d a b : VR) (m : MR) (s : State) : Res :=
  needCompute s fun s =>
    guardRegs (oldOf d m readsD ++ [.v a, .v b] ++ maskReg m) [.v d] s fun s =>
      let old := elems w (rdV s d)
      let rs := maskedResults (laneBits w (rdM s m)) old
        ((((elems w (rdV s a)).zip (elems w (rdV s b))).zip old).map fun e => f e.1.1 e.1.2 e.2)
      .next (countMine (rs.flatMap (·.2)) (land (.v d) (.vec (ofElems w (rs.map (·.1)))) L s))

/-- d ← f(a) for each element of each computed lane. -/
def vector1 (f : Nat → Coded) (w L : Nat) (d a : VR) (m : MR) (s : State) : Res :=
  needCompute s fun s =>
    guardRegs (oldOf d m false ++ [.v a] ++ maskReg m) [.v d] s fun s =>
      let rs := maskedResults (laneBits w (rdM s m)) (elems w (rdV s d)) ((elems w (rdV s a)).map f)
      .next (countMine (rs.flatMap (·.2)) (land (.v d) (.vec (ofElems w (rs.map (·.1)))) L s))

/-- An unmasked result of whole lanes. -/
def vectorAll (rs : List RegName) (L : Nat) (d : VR) (f : State → Vec) (s : State) : Res :=
  needCompute s fun s => guardRegs rs [.v d] s fun s => .next (land (.v d) (.vec (f s)) L s)

/-! ## Elementwise functions (R205, R207) -/

def eAdd (ty : Fin 16) (a b : Nat) : Coded :=
  match tyFlt ty with
  | some f => fop2 f numAdd a b
  | none => ((a + b) % 2 ^ tyWidth ty, [])

def eSub (ty : Fin 16) (a b : Nat) : Coded :=
  match tyFlt ty with
  | some f => fop2 f (fun x y => numAdd x y.neg) a b
  | none => ((a + 2 ^ tyWidth ty - b) % 2 ^ tyWidth ty, [])

/-- The smaller or larger element (R205). -/
def eMinMax (larger : Bool) (ty : Fin 16) (a b : Nat) : Nat :=
  match tyFlt ty with
  | some f => fminmax f larger a b
  | none => if decide (intOf (tyWidth ty) (tySigned ty) a < intOf (tyWidth ty) (tySigned ty) b) == larger then b else a

def eAbs (ty : Fin 16) (a : Nat) : Nat :=
  match tyFlt ty with
  | some f => if (decodeF f a).isNan then f.canon else a % 2 ^ (f.ebits + f.mbits)
  | none => if tySigned ty then wrapInt (tyWidth ty) (intOf (tyWidth ty) true a).natAbs else a

def eNeg (ty : Fin 16) (a : Nat) : Nat :=
  match tyFlt ty with
  | some f => if (decodeF f a).isNan then f.canon else (a + 2 ^ (f.ebits + f.mbits)) % 2 ^ f.width
  | none => (2 ^ tyWidth ty - a) % 2 ^ tyWidth ty

def eMul (ty : Fin 16) (a b : Nat) : Coded :=
  match tyFlt ty with
  | some f => fop2 f numMul a b
  | none => (a * b % 2 ^ tyWidth ty, [])

/-- a × b + d, or d − a × b (R205). -/
def eFma (minus : Bool) (ty : Fin 16) (a b d : Nat) : Coded :=
  match tyFlt ty with
  | some f => ffma f minus a b d
  | none => (d, [])

/-- a × 2^n exactly, rounded once; beyond ±1,024 a larger |n| changes nothing (R205). -/
def eScl (ty : Fin 16) (a b : Nat) : Coded :=
  match tyFlt ty with
  | some f =>
    let n := max (-1024) (min 1024 (intOf (tyWidth ty) true b))
    fop1 f (fun x => match x with | .fin s m e => .fin s m (e + n) | x => x) a
  | none => (a, [])

def numOne : Num := .fin false 1 0

/-- The conditions of R208 on two elements. -/
def eCond (cond : Fin 8) (ty : Fin 16) (a b : Nat) : Bool :=
  match tyFlt ty with
  | some f => fcond cond.val (decodeF f a) (decodeF f b)
  | none =>
    let x (z : Bool) (v : Nat) : Int := intOf (tyWidth ty) (tySigned ty && !z) v
    match cond with
    | 0 => a == b
    | 1 => a != b
    | 2 => decide (x false a < x false b)
    | 3 => decide (x true a < x true b)
    | 4 => decide (x false a ≤ x false b)
    | 5 => decide (x true a ≤ x true b)
    | 6 => decide (x false b < x false a)
    | 7 => decide (x true b < x true a)

/-! ## The meanings: VA -/

/-- VADD (R205). -/
def execVadd (d a b : VR) (m : MR) (ty : Fin 16) (s : State) : Res :=
  needTy [2, 3, 4, 5, 6, 7, 8] ty s fun s => vector3 false (fun a b _ => eAdd ty a b) (tyWidth ty) 2 d a b m s

/-- VSUB (R205). -/
def execVsub (d a b : VR) (m : MR) (ty : Fin 16) (s : State) : Res :=
  needTy [2, 3, 4, 5, 6, 7, 8] ty s fun s => vector3 false (fun a b _ => eSub ty a b) (tyWidth ty) 2 d a b m s

/-- VMIN counts no event (R205). -/
def execVmin (d a b : VR) (m : MR) (ty : Fin 16) (s : State) : Res :=
  needTy [2, 3, 4, 5, 6, 7, 8] ty s fun s => vector3 false (fun a b _ => (eMinMax false ty a b, [])) (tyWidth ty) 2 d a b m s

/-- VMAX counts no event (R205). -/
def execVmax (d a b : VR) (m : MR) (ty : Fin 16) (s : State) : Res :=
  needTy [2, 3, 4, 5, 6, 7, 8] ty s fun s => vector3 false (fun a b _ => (eMinMax true ty a b, [])) (tyWidth ty) 2 d a b m s

/-- VABS (R205). -/
def execVabs (d a : VR) (m : MR) (ty : Fin 16) (s : State) : Res :=
  needTy [2, 3, 4, 5, 6, 7, 8] ty s fun s => vector1 (fun a => (eAbs ty a, [])) (tyWidth ty) 2 d a m s

/-- VNEG (R205). -/
def execVneg (d a : VR) (m : MR) (ty : Fin 16) (s : State) : Res :=
  needTy [2, 3, 4, 5, 6, 7, 8] ty s fun s => vector1 (fun a => (eNeg ty a, [])) (tyWidth ty) 2 d a m s

/-- VAND, type-free (R205). -/
def execVand (d a b : VR) (m : MR) (s : State) : Res :=
  vector3 false (fun a b _ => (a &&& b, [])) 32 2 d a b m s

/-- VOR, type-free (R205). -/
def execVor (d a b : VR) (m : MR) (s : State) : Res :=
  vector3 false (fun a b _ => (a ||| b, [])) 32 2 d a b m s

/-- VXOR, type-free (R205). -/
def execVxor (d a b : VR) (m : MR) (s : State) : Res :=
  vector3 false (fun a b _ => (a ^^^ b, [])) 32 2 d a b m s

/-- VSHL (R205). -/
def execVshl (d a b : VR) (m : MR) (ty : Fin 16) (s : State) : Res :=
  needTy [2, 3, 4, 5] ty s fun s => vector3 false (fun a b _ => (a * 2 ^ (b % tyWidth ty) % 2 ^ tyWidth ty, [])) (tyWidth ty) 2 d a b m s

/-- VSHR, logical (R205). -/
def execVshr (d a b : VR) (m : MR) (ty : Fin 16) (s : State) : Res :=
  needTy [2, 3, 4, 5] ty s fun s => vector3 false (fun a b _ => (a / 2 ^ (b % tyWidth ty), [])) (tyWidth ty) 2 d a b m s

/-- VSHA, arithmetic (R205). -/
def execVsha (d a b : VR) (m : MR) (ty : Fin 16) (s : State) : Res :=
  needTy [2, 3, 4, 5] ty s fun s => vector3 false (fun a b _ => (wrapInt (tyWidth ty) (intOf (tyWidth ty) true a / (2 ^ (b % tyWidth ty) : Nat)), [])) (tyWidth ty) 2 d a b m s

/-- VCMP writes a mask; a 16-bit lane needs both its elements (R208). -/
def execVcmp (cond : Fin 8) (md : MR) (a b : VR) (ty : Fin 16) (s : State) : Res :=
  needTy [2, 3, 4, 5, 6, 7, 8] ty s fun s => needCompute s fun s => guardRegs [.v a, .v b] [.m md] s fun s =>
    let w := tyWidth ty
    let x := elems w (rdV s a)
    let y := elems w (rdV s b)
    let lane (i : Nat) : Bool :=
      if w = 16 then eCond cond ty (x.getD (2 * i) 0) (y.getD (2 * i) 0) && eCond cond ty (x.getD (2 * i + 1) 0) (y.getD (2 * i + 1) 0)
      else eCond cond ty (x.getD i 0) (y.getD i 0)
    .next (land (.m md) (.word (BitVec.ofNat 64 ((List.range 64).foldl (fun n i => if lane i then n + 2 ^ i else n) 0))) 2 s)

/-- VSEL: m selects values (R209). -/
def execVsel (d a b : VR) (m : MR) (s : State) : Res :=
  vectorAll ([.v a, .v b] ++ maskReg m) 2 d
    (fun s => Vector.ofFn fun i => if getBit (rdM s m) i.val then (rdV s a)[i] else (rdV s b)[i]) s

/-- VMOV moves whole lanes (R205). -/
def execVmov (d a : VR) (m : MR) (s : State) : Res :=
  vector1 (fun a => (a, [])) 32 2 d a m s

/-- VBC broadcasts a scalar (R206). -/
def execVbc (d : VR) (a : SR) (m : MR) (ty : Fin 16) (s : State) : Res :=
  needTy [2, 3, 4, 5, 6, 7, 8] ty s fun s => needCompute s fun s =>
    guardRegs (oldOf d m false ++ [.s a] ++ maskReg m) [.v d] s fun s =>
      let x := (rdS s a).toNat
      let lane : Lane := BitVec.ofNat 32 (if tyWidth ty = 16 then x % 2 ^ 16 + 2 ^ 16 * (x % 2 ^ 16) else x)
      .next (land (.v d) (.vec (Vector.ofFn fun i => if getBit (rdM s m) i.val then lane else (rdV s d)[i])) 2 s)

/-- VPERM (R211). -/
def execVperm (d a b : VR) (s : State) : Res :=
  vectorAll [.v a, .v b] 2 d (fun s => Vector.ofFn fun i => (rdV s a)[(rdV s b)[i].toNat % 64]'(Nat.mod_lt _ (by decide))) s

/-- VSHUF; k from 8 is reserved (R211). -/
def execVshuf (d a : VR) (k : Fin 32) (s : State) : Res :=
  if 8 ≤ k.val then reserved s
  else vectorAll [.v a] 2 d (fun s =>
    let x := (rdV s a).toList
    Vector.ofFn fun i =>
      if k.val < 6 then x.getD (i.val ^^^ 2 ^ k.val) 0
      else if k.val = 6 then x.getD (63 - i.val) 0
      else (x.getD i.val 0).rotateLeft 16) s

/-- VCVT; rnd = 4 also reads s31 (R213, R214), which stands after a among the sources (DESIGN CHOICE: R484 orders operands, and s31 is no written
operand; log 99). -/
def execVcvt (d a : VR) (dty : Fin 16) (rnd : Fin 8) (sat : Bool) (sty : Fin 16) (s : State) : Res :=
  match tyOf sty.val, tyOf dty.val, rmodeOf rnd.val with
  | some st, some dt, some mode =>
    needCompute s fun s => guardRegs ([.v a] ++ (if mode = .sr then [.s 31] else [])) [.v d] s fun s =>
      let u (i : Nat) : Nat := (draw (seedTop s.ctx) (rdS s 31 + BitVec.ofNat 64 i)).toNat
      let rs := (List.range 64).map fun i => convert st dt mode (if mode = .sr then u i else 0) sat (elemAt st.width (rdV s a) i)
      let v := packVec dt.width fun e => if e < 64 then (rs.getD e (0, [])).1 else 0
      .next (countMine (rs.flatMap (·.2)) (land (.v d) (.vec v) 3 s))
  | _, _, _ => reserved s

/-- VPACK saturates INT32 lanes and counts no event (R215). -/
def execVpack (d a b : VR) (ty : Fin 16) (s : State) : Res :=
  needTy [2, 3] ty s fun s => vectorAll [.v a, .v b] 2 d (fun s =>
    let xs := ((rdV s a).toList ++ (rdV s b).toList).map fun (x : Lane) => wrapInt 16 (satInt 16 (tySigned ty) (intOf 32 true x.toNat))
    ofElems 16 xs) s

/-- VUNPK; h from 2 is reserved (R215). -/
def execVunpk (d a : VR) (h : Fin 32) (ty : Fin 16) (s : State) : Res :=
  needTy [2, 3, 6, 7] ty s fun s =>
    if 2 ≤ h.val then reserved s
    else vectorAll [.v a] 2 d (fun s =>
      let xs := (elems 16 (rdV s a)).drop (64 * h.val)
      let widen (x : Nat) : Nat :=
        match tyFlt ty with
        | some f => (roundF .f32 .rne 0 (decodeF f x)).1
        | none => wrapInt 32 (intOf 16 (tySigned ty) x)
      Vector.ofFn fun i => BitVec.ofNat 32 (widen (xs.getD i.val 0))) s

/-- VRED sums segments over the tree of R80; g from 7 is reserved (R216). -/
def execVred (d a : VR) (g : Fin 32) (ty : Fin 16) (s : State) : Res :=
  needTy [4, 5, 8] ty s fun s =>
    if 7 ≤ g.val then reserved s
    else needCompute s fun s => guardRegs [.v a] [.v d] s fun s =>
      let n := 2 ^ g.val
      let x := elems 32 (rdV s a)
      let seg (j : Nat) : List Nat := (x.drop (j * n)).take n
      let sum (l : List Nat) : Coded :=
        match tyFlt ty with
        | none => (treeReduce (fun p q => (p + q) % 2 ^ 32) 0 l, [])
        | some f =>
          let r := treeReduce (fun p q => (fop2 f numAdd p q).1) 0 l
          let v := l.map (decodeF f)
          (r, if (decodeF f r).isNan then (if v.any Num.isNan then [] else [2])
              else if !(decodeF f r).isFinite && v.all Num.isFinite then [0] else [])
      let sums := (List.range (64 / n)).map fun j => sum (seg j)
      let v : Vec := Vector.ofFn fun i => BitVec.ofNat 32 (sums.getD (i.val / n) (0, [])).1
      let events := if n = 1 then [] else sums.flatMap (·.2)
      .next (countMine events (land (.v d) (.vec v) 6 s))

/-- VEXT (R212). -/
def execVext (d : SR) (a : VR) (x : SR) (s : State) : Res :=
  needCompute s fun s => guardRegs [.v a, .s x] [.s d] s fun s =>
    .next (land (.s d) (.word (((rdV s a).toList.getD ((rdS s x).toNat % 64) 0).zeroExtend 64)) 2 s)

/-- VINS; other lanes keep their values at issue (R212). -/
def execVins (d : VR) (a x : SR) (s : State) : Res :=
  vectorAll [.v d, .s a, .s x] 2 d (fun s => (rdV s d).set ((rdS s x).toNat % 64) ((rdS s a).truncate 32) (Nat.mod_lt _ (by decide))) s

/-- VIOTA (R212). -/
def execViota (d : VR) (a : SR) (s : State) : Res :=
  vectorAll [.s a] 2 d (fun s => Vector.ofFn fun i => (rdS s a).truncate 32 + BitVec.ofNat 32 i.val) s

/-! ## Masks (R210) -/

/-- md ← ma op mb. -/
def maskLog (f : Word → Word → Word) (md ma mb : MR) (s : State) : Res :=
  needCompute s fun s => guardRegs [.m ma, .m mb] [.m md] s fun s => .next (land (.m md) (.word (f (rdM s ma) (rdM s mb))) 2 s)

/-- md ← op ma. -/
def maskLog1 (f : Word → Word) (md ma : MR) (s : State) : Res :=
  needCompute s fun s => guardRegs [.m ma] [.m md] s fun s => .next (land (.m md) (.word (f (rdM s ma))) 2 s)

/-- d ← a number found in a mask. -/
def maskCount (f : Word → Nat) (d : SR) (ma : MR) (s : State) : Res :=
  needCompute s fun s => guardRegs [.m ma] [.s d] s fun s => .next (land (.s d) (.word (BitVec.ofNat 64 (f (rdM s ma)))) 2 s)

/-- MAND (R210). -/
def execMand (md ma mb : MR) (s : State) : Res :=
  maskLog (fun a b => a &&& b) md ma mb s

/-- MOR (R210). -/
def execMor (md ma mb : MR) (s : State) : Res :=
  maskLog (fun a b => a ||| b) md ma mb s

/-- MXOR (R210). -/
def execMxor (md ma mb : MR) (s : State) : Res :=
  maskLog (fun a b => a ^^^ b) md ma mb s

/-- MANDN (R210). -/
def execMandn (md ma mb : MR) (s : State) : Res :=
  maskLog (fun a b => a &&& ~~~b) md ma mb s

/-- MNOT (R210). -/
def execMnot (md ma : MR) (s : State) : Res :=
  maskLog1 (fun a => ~~~a) md ma s

/-- MMOV (R210). -/
def execMmov (md ma : MR) (s : State) : Res :=
  maskLog1 (fun a => a) md ma s

/-- MPOP: the count of set bits (R210). -/
def execMpop (d : SR) (ma : MR) (s : State) : Res :=
  maskCount (fun m => ((List.range 64).filter fun i => getBit m i).length) d ma s

/-- MFIRST: the lowest set bit, or 64 (R210). -/
def execMfirst (d : SR) (ma : MR) (s : State) : Res :=
  maskCount (fun m => ((List.range 64).find? fun i => getBit m i).getD 64) d ma s

/-- MLAST: the highest set bit, or 64 (R210). -/
def execMlast (d : SR) (ma : MR) (s : State) : Res :=
  maskCount (fun m => if m = 0 then 64 else m.toNat.log2) d ma s

/-! ## The meanings: VB -/

/-- VMUL (R205). -/
def execVmul (d a b : VR) (m : MR) (ty : Fin 16) (s : State) : Res :=
  needTy [2, 3, 4, 5, 6, 7, 8] ty s fun s => vector3 false (fun a b _ => eMul ty a b) (tyWidth ty) 5 d a b m s

/-- VFMA: a × b + d, one rounding (R205). -/
def execVfma (d a b : VR) (m : MR) (ty : Fin 16) (s : State) : Res :=
  needTy [6, 7, 8] ty s fun s => vector3 true (fun a b d => eFma false ty a b d) (tyWidth ty) 5 d a b m s

/-- VFNMA: d − a × b, one rounding (R205). -/
def execVfnma (d a b : VR) (m : MR) (ty : Fin 16) (s : State) : Res :=
  needTy [6, 7, 8] ty s fun s => vector3 true (fun a b d => eFma true ty a b d) (tyWidth ty) 5 d a b m s

/-- VRCP (R207). -/
def execVrcp (d a : VR) (m : MR) (ty : Fin 16) (s : State) : Res :=
  needTy [8] ty s fun s => vector1 (fop1 .f32 (numDiv numOne)) (tyWidth ty) 8 d a m s

/-- VRSQ (R207). -/
def execVrsq (d a : VR) (m : MR) (ty : Fin 16) (s : State) : Res :=
  needTy [8] ty s fun s => vector1 (fop1 .f32 (fun x => numDiv numOne (numSqrt x))) (tyWidth ty) 8 d a m s

/-- VSQRT (R207). -/
def execVsqrt (d a : VR) (m : MR) (ty : Fin 16) (s : State) : Res :=
  needTy [8] ty s fun s => vector1 (fop1 .f32 numSqrt) (tyWidth ty) 8 d a m s

/-- VEXP2 (R207). -/
def execVexp2 (d a : VR) (m : MR) (ty : Fin 16) (s : State) : Res :=
  needTy [8] ty s fun s => vector1 (fop1 .f32 numExp2) (tyWidth ty) 10 d a m s

/-- VLOG2 (R207). -/
def execVlog2 (d a : VR) (m : MR) (ty : Fin 16) (s : State) : Res :=
  needTy [8] ty s fun s => vector1 (fop1 .f32 numLog2) (tyWidth ty) 10 d a m s

/-- VDIV (R205). -/
def execVdiv (d a b : VR) (m : MR) (ty : Fin 16) (s : State) : Res :=
  needTy [8] ty s fun s => vector3 false (fun a b _ => fop2 .f32 numDiv a b) (tyWidth ty) 14 d a b m s

/-- VSCL (R205). -/
def execVscl (d a b : VR) (m : MR) (ty : Fin 16) (s : State) : Res :=
  needTy [6, 7, 8] ty s fun s => vector3 false (fun a b _ => eScl ty a b) (tyWidth ty) 5 d a b m s

/-- VRNG (R82, R217). -/
def execVrng (d a : VR) (x : SR) (s : State) : Res :=
  vectorAll [.v a, .s x] 5 d (fun s => Vector.ofFn fun i => draw (seedTop s.ctx) (rdS s x + (rdV s a)[i].zeroExtend 64)) s

/-! ## Block quantisation (R218–R220) -/

/-- Element width, elements of a lane and the scale lane of a quantised image (R218). -/
def quantLayout (ty : Fin 16) : Nat × Nat := if ty.val = 11 then (4, 8) else (8, 16)

def quantEmax (ty : Fin 16) : Int :=
  match ty.val with
  | 9 => 8
  | 10 => 15
  | 11 => 2
  | _ => 6

/-- floor(log2 |x|) of a finite nonzero value. -/
def numLog (x : Num) : Option Int :=
  match x with
  | .fin _ m e => if m = 0 then none else some (m.log2 + e)
  | _ => none

def scaleBy (n : Int) (x : Num) : Num :=
  match x with
  | .fin s m e => .fin s m (e + n)
  | x => x

/-- One block of VQNT: the scale code, the 32 element codes and the events (R219). -/
def quantBlock (ty : Fin 16) (dt : Ty) (mode : RMode) (u : Nat → Nat) (xs : List Nat) : Nat × List Nat × List Nat :=
  let v := xs.map (decodeF .f32)
  if v.any fun x => !x.isFinite then (0xFF, List.replicate 32 0, if v.any Num.isNan then [] else [2])
  else
    let e : Nat := match (v.filterMap numLog).max? with
      | none => 127
      | some m => (min 254 (max 0 (m - quantEmax ty + 127))).toNat
    let one (k : Nat) (x : Num) : Coded :=
      let y := scaleBy (127 - (e : Int)) x
      match dt with
      | .flt f => convFlt f mode (u k) true y
      | .int w sg => convInt w sg mode (u k) y
      | _ => (0, [])
    let rs := (v.zip (List.range 32)).map fun q => one q.2 q.1
    (e, rs.map (·.1), rs.flatMap (·.2))

/-- VQNT (R218, R219); s31 stands after a among the sources (log 99). -/
def execVqnt (d a : VR) (rnd : Fin 8) (ty : Fin 16) (s : State) : Res :=
  needTy [0, 9, 10, 11] ty s fun s =>
    match tyOf ty.val, rmodeOf rnd.val with
    | some dt, some mode =>
      needCompute s fun s => guardRegs ([.v a] ++ (if mode = .sr then [.s 31] else [])) [.v d] s fun s =>
        let u (i : Nat) : Nat := if mode = .sr then (draw (seedTop s.ctx) (rdS s 31 + BitVec.ofNat 64 i)).toNat else 0
        let x := elems 32 (rdV s a)
        let b0 := quantBlock ty dt mode u (x.take 32)
        let b1 := quantBlock ty dt mode (fun k => u (32 + k)) (x.drop 32)
        let codes := b0.2.1 ++ b1.2.1
        let (w, sl) := quantLayout ty
        let v := packVec w fun e => if e < 64 then codes.getD e 0 else 0
        let v := v.toList.set sl (BitVec.ofNat 32 (b0.1 + 256 * b1.1))
        .next (countMine (b0.2.2 ++ b1.2.2) (land (.v d) (.vec (Vector.ofFn fun i => v.getD i.val 0)) 5 s))
    | _, _ => reserved s

/-- VDQNT (R218, R220); s31 stands after a among the sources (log 99). -/
def execVdqnt (d a : VR) (rnd : Fin 8) (ty : Fin 16) (s : State) : Res :=
  needTy [0, 9, 10, 11] ty s fun s =>
    match tyOf ty.val, rmodeOf rnd.val with
    | some st, some mode =>
      needCompute s fun s => guardRegs ([.v a] ++ (if mode = .sr then [.s 31] else [])) [.v d] s fun s =>
        let u (i : Nat) : Nat := if mode = .sr then (draw (seedTop s.ctx) (rdS s 31 + BitVec.ofNat 64 i)).toNat else 0
        let x := rdV s a
        let (w, sl) := quantLayout ty
        let one (i : Nat) : Coded :=
          let e := bitsAt (x.toList.getD sl 0).toNat (8 * (i / 32)) 8
          if e = 0xFF then (FFmt.canon .f32, [])
          else convFlt .f32 mode (u i) false (scaleBy ((e : Int) - 127) (readTy st (elemAt w x i)).1)
        let rs := (List.range 64).map one
        .next (countMine (rs.flatMap (·.2)) (land (.v d) (.vec (ofElems 32 (rs.map (·.1)))) 5 s))
    | _, _ => reserved s

end Sys2Proof.Machine
end

