-- ==== Sys2Proof/Machine/Witness.lean ====
section
/-! DEFINITION. Witness producers, VADJ, WTAG and WCLR (R221–R237). -/

namespace Sys2Proof.Machine

/-! ## Tags (R221, R222) -/

/-- A whole tag with V = 1. -/
def witTag (kind cnt : Nat) (ew : Bool) (seq : BitVec 16) : BitVec 32 :=
  BitVec.ofNat 32 (kind * 2 ^ 24 + cnt * 2 ^ 18 + (if ew then 2 ^ 17 else 0) + 2 ^ 16 + seq.toNat)

def tagValid (t : BitVec 32) : Bool := t.getLsbD 16
def tagWide (t : BitVec 32) : Bool := t.getLsbD 17
def tagKind (t : BitVec 32) : Nat := bitsAt t.toNat 24 4
def tagCnt (t : BitVec 32) : Nat := bitsAt t.toNat 18 6

/-! ## Rank (R224, R225) -/

/-- The rank of a contributor, none for NaN, which ranks above all; larger: for max, else the mirrored order of min. -/
def rankOf (ty : Fin 16) (larger : Bool) (x : Nat) : Option Int :=
  let k : Option Int := match tyFlt ty with
    | some f => if (decodeF f x).isNan then none else some (orderKey f x)
    | none => some (intOf (tyWidth ty) (tySigned ty) x)
  if larger then k else k.map fun i => -i

def rankLt (a b : Option Int) : Bool :=
  match a, b with
  | none, _ => false
  | some _, none => true
  | some x, some y => decide (x < y)

/-- Index and code of the lowest-index contributor of highest rank. -/
def winnerFrom (ty : Fin 16) (larger : Bool) : Nat → Nat → Nat → List Nat → Nat × Nat
  | _, bi, bx, [] => (bi, bx)
  | i, bi, bx, x :: rest =>
    if rankLt (rankOf ty larger bx) (rankOf ty larger x) then winnerFrom ty larger (i + 1) i x rest
    else winnerFrom ty larger (i + 1) bi bx rest

def canonOf (ty : Fin 16) : Nat := match tyFlt ty with | some f => f.canon | none => 0

def isNanElem (ty : Fin 16) (x : Nat) : Bool := match tyFlt ty with | some f => (decodeF f x).isNan | none => false

/-- A result element with its index, tie and NaN bits. -/
structure Pick where
  val : Nat
  index : Nat
  tie : Bool
  nan : Bool
deriving DecidableEq, Repr

/-- Another contributor ranks equal to the winner. -/
def tied (ty : Fin 16) (larger : Bool) (xs : List Nat) (x : Nat) : Bool :=
  decide (1 < (xs.filter fun y => rankOf ty larger y == rankOf ty larger x).length)

/-- The winner by R224. A NaN winner gives the canonical NaN, also of a single contributor (DESIGN CHOICE: R228 says that n = 1
copies v(a), R224 that a NaN result is canonical; log 77). -/
def pickWinner (ty : Fin 16) (larger : Bool) (xs : List Nat) : Pick :=
  let w := winnerFrom ty larger 1 0 (xs.headD 0) (xs.drop 1)
  let nan := isNanElem ty w.2
  ⟨if nan then canonOf ty else w.2, w.1, tied ty larger xs w.2, nan⟩

/-- Stable insertion of an indexed contributor into a list that rises by rank. -/
def insertRank (ty : Fin 16) (e : Nat × Nat) : List (Nat × Nat) → List (Nat × Nat)
  | [] => [e]
  | y :: ys => if rankLt (rankOf ty true e.2) (rankOf ty true y.2) then e :: y :: ys else y :: insertRank ty e ys

/-- The median by R225. -/
def pickMedian (ty : Fin 16) (xs : List Nat) : Pick :=
  match xs.findIdx? (isNanElem ty) with
  | some i => ⟨canonOf ty, i, decide (1 < (xs.filter (isNanElem ty)).length), true⟩
  | none =>
    let sorted := ((List.range xs.length).zip xs).foldl (fun l e => insertRank ty e l) []
    let m := sorted.getD ((xs.length - 1) / 2) (0, 0)
    ⟨m.2, m.1, tied ty true xs m.2, false⟩

/-- The entry of a pick: EW = 0, or a half-entry (R223). -/
def pickEntry (ew : Bool) (p : Pick) : Nat :=
  if ew then p.index + (if p.tie then 2 ^ 6 else 0) + (if p.nan then 2 ^ 7 else 0)
  else p.index + (if p.tie then 2 ^ 14 else 0) + (if p.nan then 2 ^ 15 else 0)

/-- Entries of 16 bits from one entry or half-entry for each element (R223). -/
def entriesOf (ew : Bool) (l : List Nat) : Vector (BitVec 16) 64 :=
  Vector.ofFn fun i =>
    BitVec.ofNat 16 (if ew then l.getD (2 * i.val) 0 % 256 + 256 * (l.getD (2 * i.val + 1) 0) else l.getD i.val 0)

/-! ## Producers (R226–R230) -/

/-- Registers a to a + n − 1. -/
def vrun (a : VR) (n : Nat) : List VR := (List.range n).filterMap fun k => if h : a.val + k < 32 then some ⟨a.val + k, h⟩ else none

/-- Writes d and w and takes the next sequence number (R227). -/
def produce (kind cnt : Nat) (ew : Bool) (d : VR) (w : WR) (r : Vec) (entries : Vector (BitVec 16) 64) (events : List Nat)
    (s : State) : Res :=
  let tag := witTag kind cnt ew s.ctx.wctr
  let s := land (.w w) (.wit ⟨entries, tag⟩) 6 (land (.v d) (.vec r) 6 s)
  .next (countMine events { s with ctx := { s.ctx with wctr := s.ctx.wctr + 1 } })

/-- A lane-wise producer over v(a) … v(a + n − 1): f gives an element's result, entry and events from its contributors
(R226, R228). -/
def laneProducer (kind : Nat) (d a : VR) (n : Nat) (w : WR) (ty : Fin 16) (f : Bool → List Nat → Nat × Nat × List Nat)
    (s : State) : Res :=
  if 32 < a.val + n then reserved s
  else needFeature 4 s fun s => needCompute s fun s =>
    let rs := vrun a n
    guardRegs (rs.map .v) [.v d, .w w] s fun s =>
      let wd := tyWidth ty
      let ew := wd == 16
      let xs := rs.map fun r => elems wd (rdV s r)
      let out := (List.range (2048 / wd)).map fun e => f ew (xs.map fun l => l.getD e 0)
      produce kind n ew d w (ofElems wd (out.map (·.1))) (entriesOf ew (out.map (·.2.1))) (out.flatMap (·.2.2)) s

/-- A pick as a producer's result, which counts no event. -/
def pickResult (ew : Bool) (p : Pick) : Nat × Nat × List Nat := (p.val, pickEntry ew p, [])

/-- VMAXW: n from 1 to 16 (R226, R228). -/
def execVmaxw (d a : VR) (n : Fin 32) (w : WR) (ty : Fin 16) (s : State) : Res :=
  needTy [2, 3, 4, 5, 6, 7, 8] ty s fun s =>
    if n.val < 1 ∨ 16 < n.val then reserved s
    else laneProducer 1 d a n.val w ty (fun ew xs => pickResult ew (pickWinner ty true xs)) s

/-- VMINW: n from 1 to 16 (R226, R228). -/
def execVminw (d a : VR) (n : Fin 32) (w : WR) (ty : Fin 16) (s : State) : Res :=
  needTy [2, 3, 4, 5, 6, 7, 8] ty s fun s =>
    if n.val < 1 ∨ 16 < n.val then reserved s
    else laneProducer 2 d a n.val w ty (fun ew xs => pickResult ew (pickWinner ty false xs)) s

/-- VMEDW: n is 3 or 5 (R225, R226). -/
def execVmedw (d a : VR) (n : Fin 32) (w : WR) (ty : Fin 16) (s : State) : Res :=
  needTy [2, 3, 4, 5, 6, 7, 8] ty s fun s =>
    if n ≠ 3 ∧ n ≠ 5 then reserved s
    else laneProducer 3 d a n.val w ty (fun ew xs => pickResult ew (pickMedian ty xs)) s

/-- Clamps one element: its value and code (R229). -/
def clampElem (ty : Fin 16) (x lo hi : Nat) : Nat × Nat :=
  if isNanElem ty x then (canonOf ty, 3)
  else
    let lt (a b : Nat) : Bool :=
      match tyFlt ty with
      | some f => numLt (decodeF f a) (decodeF f b)
      | none => decide (intOf (tyWidth ty) (tySigned ty) a < intOf (tyWidth ty) (tySigned ty) b)
    if lt x lo then (lo, 1) else if lt hi x then (hi, 2) else (x, 0)

/-- VCLPW: bounds v(b) and v(b + 1); b = 31 is reserved (R226, R229). -/
def execVclpw (d a b : VR) (w : WR) (ty : Fin 16) (s : State) : Res :=
  needTy [2, 3, 4, 5, 6, 7, 8] ty s fun s =>
    if h : b.val + 1 < 32 then
      needFeature 4 s fun s => needCompute s fun s =>
        let hi : VR := ⟨b.val + 1, h⟩
        guardRegs [.v a, .v b, .v hi] [.v d, .w w] s fun s =>
          let wd := tyWidth ty
          let out := (((elems wd (rdV s a)).zip (elems wd (rdV s b))).zip (elems wd (rdV s hi))).map fun e => clampElem ty e.1.1 e.1.2 e.2
          produce 4 0 (wd == 16) d w (ofElems wd (out.map (·.1))) (entriesOf (wd == 16) (out.map (·.2))) [] s
    else reserved s

/-- The saturating sum of R228: accumulator, code and index of the first saturation. -/
def satSum (w : Nat) (sg : Bool) : Nat → Int → Nat → Nat → List Nat → Int × Nat × Nat
  | _, acc, code, first, [] => (acc, code, first)
  | k, acc, code, first, x :: rest =>
    let y := acc + intOf w sg x
    let z := satInt w sg y
    if z ≠ y ∧ code = 0 then satSum w sg (k + 1) z (if z < y then 1 else 2) k rest
    else satSum w sg (k + 1) z code first rest

/-- VSSMW: integer types; one class-3 event for each element that saturates (R226, R228). -/
def execVssmw (d a : VR) (n : Fin 32) (w : WR) (ty : Fin 16) (s : State) : Res :=
  needTy [2, 3, 4, 5] ty s fun s =>
    if n.val < 1 ∨ 16 < n.val then reserved s
    else laneProducer 5 d a n.val w ty (fun _ xs =>
      let r := satSum (tyWidth ty) (tySigned ty) 0 0 0 0 xs
      (wrapInt (tyWidth ty) r.1, r.2.1 + 16 * r.2.2, if r.2.1 = 0 then [] else [3])) s

/-- A cross-lane producer over segments of 2^g lanes (R226, R230). -/
def crossProducer (kind : Nat) (larger : Bool) (d a : VR) (g : Fin 32) (w : WR) (ty : Fin 16) (s : State) : Res :=
  needTy [4, 5, 8] ty s fun s =>
    if g.val < 1 ∨ 6 < g.val then reserved s
    else needFeature 4 s fun s => needCompute s fun s => guardRegs [.v a] [.v d, .w w] s fun s =>
      let n := 2 ^ g.val
      let x := elems 32 (rdV s a)
      let picks := (List.range (64 / n)).map fun j => pickWinner ty larger ((x.drop (j * n)).take n)
      produce kind g.val false d w (ofElems 32 (picks.map (·.val))) (entriesOf false (picks.map (pickEntry false))) [] s

/-- VRMAXW (R230). -/
def execVrmaxw (d a : VR) (g : Fin 32) (w : WR) (ty : Fin 16) (s : State) : Res := crossProducer 6 true d a g w ty s

/-- VRMINW (R230). -/
def execVrminw (d a : VR) (g : Fin 32) (w : WR) (ty : Fin 16) (s : State) : Res := crossProducer 7 false d a g w ty s

/-! ## The adjoint (R231–R233) -/

/-- Entry or half-entry of element e. -/
def entryAt (x : Wit) (e : Nat) : Nat :=
  let v := (x.entries.toList.getD (if tagWide x.tag then e / 2 else e) 0).toNat
  if tagWide x.tag then bitsAt v (8 * (e % 2)) 8 else v

/-- The gradient of R233. For an image that no producer makes the pseudocode is followed: an index at or above CNT still
selects, and a target past lane 63 gets nothing (DESIGN CHOICE; log 58). -/
def adjoint (x : Wit) (j : Nat) (g : Vec) : Vec :=
  let wd := if tagWide x.tag then 16 else 32
  let ge := elems wd g
  match tagKind x.tag with
  | 1 | 2 | 3 => ofElems wd ((List.range (2048 / wd)).map fun e => if entryAt x e % 16 = j then ge.getD e 0 else 0)
  | 4 | 5 => ofElems wd ((List.range (2048 / wd)).map fun e => if entryAt x e % 4 = 0 then ge.getD e 0 else 0)
  | 6 | 7 =>
    let n := 2 ^ tagCnt x.tag
    ofElems 32 ((List.range (64 / n)).foldl (fun r j => r.set (j * n + entryAt x j % 64) (ge.getD j 0)) (List.replicate 64 0))
  | _ => zeroVec

/-- The checks of R232 in order: cause. -/
def adjointFault (x : Wit) (c : Word) (gf : Nat) : Option (BitVec 8) :=
  if !tagValid x.tag then some 0x0F
  else if tagKind x.tag ≠ bitsAt c.toNat 8 4 ∨ tagCnt x.tag ≠ bitsAt c.toNat 12 6 then some 0x0E
  else if tagWide x.tag = (gf = 0) ∨ (6 ≤ tagKind x.tag ∧ gf ≠ 0) then some 0x0E
  else none

/-- VADJ; gf from 3 is reserved. A witness within its producer's bound, or left unpredictable, raises neither cause and
gives an unpredictable d; in debug mode its bundle raises hazard (R232). A witness that a poisoned LDWT has left unpredictable
(R183) is taken alike (DESIGN CHOICE: R232 names R52 and R54 only; log 78). Its causes rank before a watchpoint's (DESIGN CHOICE:
both R232 and R463 rank theirs after every cause of R102 and R172; log 79). -/
def execVadj (d g : VR) (x : SR) (w : WR) (last : Bool) (gf : Fin 8) (s : State) : Res :=
  if 3 ≤ gf.val then reserved s
  else needFeature 4 s fun s => needCompute s fun s =>
    if hazardMode s ∧ s.ctx.wSpoilt.contains w ∧ ¬ exposed s (.v g) ∧ ¬ exposed s (.s x) then trapAt 11 0x14 (regTval (.w w)) s
    else guardRegs [.v g, .s x, .w w] (.v d :: if last then [.w w] else []) s fun s =>
      let open' := exposed s (.w w) || s.ctx.wSpoilt.contains w
      let y := rdW s w
      let clear (s : State) : State := if last then land (.w w) (.wit { y with tag := y.tag &&& 0xFFFEFFFF }) 1 s else s
      if open' then .next (clear (land (.v d) (.vec (freeVec s (.v d))) 4 s))
      else
        match adjointFault y (rdS s x) gf.val with
        | some code => trapAt 13 code (y.tag.zeroExtend 64) s
        | none => .next (clear (land (.v d) (.vec (adjoint y (bitsAt (rdS s x).toNat 0 6) (rdV s g))) 4 s))

/-- WTAG (R234). -/
def execWtag (d : SR) (w : WR) (s : State) : Res :=
  needFeature 4 s fun s => needCompute s fun s => guardRegs [.w w] [.s d] s fun s =>
    .next (land (.s d) (.word ((rdW s w).tag.zeroExtend 64)) 2 s)

/-- WCLR (R234). -/
def execWclr (w : WR) (s : State) : Res :=
  needFeature 4 s fun s => needCompute s fun s => guardRegs [] [.w w] s fun s => .next (land (.w w) (.wit Wit.zero) 1 s)

end Sys2Proof.Machine
end

