-- ==== Sys2Proof/Machine/Dispatch.lean ====
section
/-! DEFINITION. What each instruction does: one arm for each constructor, one call of its meaning. -/

namespace Sys2Proof.Machine

def exec (i : Instr) (s : State) : Host.Outcome State Fault Refusal :=
  match i with
  | .gapBundle h => Sys2Proof.Machine.execGapBundle h s
  | .skippedBundle h => Sys2Proof.Machine.execSkippedBundle h s
  | .add d a b => Sys2Proof.Machine.execAdd d a b s
  | .sub d a b => Sys2Proof.Machine.execSub d a b s
  | .andS d a b => Sys2Proof.Machine.execAndS d a b s
  | .orS d a b => Sys2Proof.Machine.execOrS d a b s
  | .xorS d a b => Sys2Proof.Machine.execXorS d a b s
  | .andn d a b => Sys2Proof.Machine.execAndn d a b s
  | .shl d a b => Sys2Proof.Machine.execShl d a b s
  | .shr d a b => Sys2Proof.Machine.execShr d a b s
  | .sha d a b => Sys2Proof.Machine.execSha d a b s
  | .rotl d a b => Sys2Proof.Machine.execRotl d a b s
  | .minS d a b => Sys2Proof.Machine.execMinS d a b s
  | .maxS d a b => Sys2Proof.Machine.execMaxS d a b s
  | .minz d a b => Sys2Proof.Machine.execMinz d a b s
  | .maxz d a b => Sys2Proof.Machine.execMaxz d a b s
  | .mul d a b => Sys2Proof.Machine.execMul d a b s
  | .mulh d a b => Sys2Proof.Machine.execMulh d a b s
  | .mulhz d a b => Sys2Proof.Machine.execMulhz d a b s
  | .divS d a b => Sys2Proof.Machine.execDivS d a b s
  | .divz d a b => Sys2Proof.Machine.execDivz d a b s
  | .remS d a b => Sys2Proof.Machine.execRemS d a b s
  | .remz d a b => Sys2Proof.Machine.execRemz d a b s
  | .clz d a => Sys2Proof.Machine.execClz d a s
  | .ctz d a => Sys2Proof.Machine.execCtz d a s
  | .popc d a => Sys2Proof.Machine.execPopc d a s
  | .sextb d a => Sys2Proof.Machine.execSextb d a s
  | .sexth d a => Sys2Proof.Machine.execSexth d a s
  | .sextw d a => Sys2Proof.Machine.execSextw d a s
  | .addi d a imm => Sys2Proof.Machine.execAddi d a imm s
  | .andi d a imm => Sys2Proof.Machine.execAndi d a imm s
  | .ori d a imm => Sys2Proof.Machine.execOri d a imm s
  | .xori d a imm => Sys2Proof.Machine.execXori d a imm s
  | .shli d a n => Sys2Proof.Machine.execShli d a n s
  | .shri d a n => Sys2Proof.Machine.execShri d a n s
  | .shai d a n => Sys2Proof.Machine.execShai d a n s
  | .li d imm => Sys2Proof.Machine.execLi d imm s
  | .lis d imm => Sys2Proof.Machine.execLis d imm s
  | .cmp cond pd a b => Sys2Proof.Machine.execCmp cond pd a b s
  | .cmpi cond pd a imm => Sys2Proof.Machine.execCmpi cond pd a imm s
  | .pand pd pa pb => Sys2Proof.Machine.execPand pd pa pb s
  | .por pd pa pb => Sys2Proof.Machine.execPor pd pa pb s
  | .pxor pd pa pb => Sys2Proof.Machine.execPxor pd pa pb s
  | .pandn pd pa pb => Sys2Proof.Machine.execPandn pd pa pb s
  | .pnot pd pa => Sys2Proof.Machine.execPnot pd pa s
  | .pmov pd pa => Sys2Proof.Machine.execPmov pd pa s
  | .sel d a b p => Sys2Proof.Machine.execSel d a b p s
  | .aadd ad aa x2 => Sys2Proof.Machine.execAadd ad aa x2 s
  | .asub ad aa x2 => Sys2Proof.Machine.execAsub ad aa x2 s
  | .amovs ad x1 => Sys2Proof.Machine.execAmovs ad x1 s
  | .smova d aa => Sys2Proof.Machine.execSmova d aa s
  | .aaddi ad aa imm => Sys2Proof.Machine.execAaddi ad aa imm s
  | .astride a level imm => Sys2Proof.Machine.execAstride a level imm s
  | .movx d sel => Sys2Proof.Machine.execMovx d sel s
  | .fadd d a b => Sys2Proof.Machine.execFadd d a b s
  | .fsub d a b => Sys2Proof.Machine.execFsub d a b s
  | .fmul d a b => Sys2Proof.Machine.execFmul d a b s
  | .fdiv d a b => Sys2Proof.Machine.execFdiv d a b s
  | .fmin d a b => Sys2Proof.Machine.execFmin d a b s
  | .fmax d a b => Sys2Proof.Machine.execFmax d a b s
  | .fsqrt d a => Sys2Proof.Machine.execFsqrt d a s
  | .fcvtif d a => Sys2Proof.Machine.execFcvtif d a s
  | .fcvtfi d a => Sys2Proof.Machine.execFcvtfi d a s
  | .fcmp cond pd a b => Sys2Proof.Machine.execFcmp cond pd a b s
  | .btgt b imm => Sys2Proof.Machine.execBtgt b imm s
  | .btgta b aa => Sys2Proof.Machine.execBtgta b aa s
  | .ldb d a post off => Sys2Proof.Machine.execLdb d a post off s
  | .ldbz d a post off => Sys2Proof.Machine.execLdbz d a post off s
  | .ldh d a post off => Sys2Proof.Machine.execLdh d a post off s
  | .ldhz d a post off => Sys2Proof.Machine.execLdhz d a post off s
  | .ldw d a post off => Sys2Proof.Machine.execLdw d a post off s
  | .ldwz d a post off => Sys2Proof.Machine.execLdwz d a post off s
  | .ldd d a post off => Sys2Proof.Machine.execLdd d a post off s
  | .ldv d a post off => Sys2Proof.Machine.execLdv d a post off s
  | .ldvs d a post x3 off => Sys2Proof.Machine.execLdvs d a post x3 off s
  | .ldvx d a vi sc => Sys2Proof.Machine.execLdvx d a vi sc s
  | .ldvb d a post off => Sys2Proof.Machine.execLdvb d a post off s
  | .ldm d a post off => Sys2Proof.Machine.execLdm d a post off s
  | .ldwt d a post off => Sys2Proof.Machine.execLdwt d a post off s
  | .ldg d a size off => Sys2Proof.Machine.execLdg d a size off s
  | .ldgv d a post off => Sys2Proof.Machine.execLdgv d a post off s
  | .ldaq d a size scope => Sys2Proof.Machine.execLdaq d a size scope s
  | .stb x0 a post off => Sys2Proof.Machine.execStb x0 a post off s
  | .sth x0 a post off => Sys2Proof.Machine.execSth x0 a post off s
  | .stw x0 a post off => Sys2Proof.Machine.execStw x0 a post off s
  | .std x0 a post off => Sys2Proof.Machine.execStd x0 a post off s
  | .stv v a post off => Sys2Proof.Machine.execStv v a post off s
  | .stvm v a post m off => Sys2Proof.Machine.execStvm v a post m off s
  | .stvs v a post x3 off => Sys2Proof.Machine.execStvs v a post x3 off s
  | .stvx v a vi sc => Sys2Proof.Machine.execStvx v a vi sc s
  | .stwt w a post off => Sys2Proof.Machine.execStwt w a post off s
  | .stm m a post off => Sys2Proof.Machine.execStm m a post off s
  | .stg x0 a size off => Sys2Proof.Machine.execStg x0 a size off s
  | .stgv v a post off => Sys2Proof.Machine.execStgv v a post off s
  | .strl x0 a size scope => Sys2Proof.Machine.execStrl x0 a size scope s
  | .atomAdd d a x2 g z oc => Sys2Proof.Machine.execAtomAdd d a x2 g z oc s
  | .atomAnd d a x2 g z oc => Sys2Proof.Machine.execAtomAnd d a x2 g z oc s
  | .atomOr d a x2 g z oc => Sys2Proof.Machine.execAtomOr d a x2 g z oc s
  | .atomXor d a x2 g z oc => Sys2Proof.Machine.execAtomXor d a x2 g z oc s
  | .atomMin d a x2 g z oc => Sys2Proof.Machine.execAtomMin d a x2 g z oc s
  | .atomMax d a x2 g z oc => Sys2Proof.Machine.execAtomMax d a x2 g z oc s
  | .atomMinz d a x2 g z oc => Sys2Proof.Machine.execAtomMinz d a x2 g z oc s
  | .atomMaxz d a x2 g z oc => Sys2Proof.Machine.execAtomMaxz d a x2 g z oc s
  | .atomXchg d a x2 g z oc => Sys2Proof.Machine.execAtomXchg d a x2 g z oc s
  | .atomFadd d a x2 g z oc => Sys2Proof.Machine.execAtomFadd d a x2 g z oc s
  | .acas d a x2 g z oc => Sys2Proof.Machine.execAcas d a x2 g z oc s
  | .fence kind scope => Sys2Proof.Machine.execFence kind scope s
  | .cmo op level a x3 => Sys2Proof.Machine.execCmo op level a x3 s
  | .rgset rg a x2 s2 mode => Sys2Proof.Machine.execRgset rg a x2 s2 mode s
  | .rgwb rg => Sys2Proof.Machine.execRgwb rg s
  | .rgdrop rg => Sys2Proof.Machine.execRgdrop rg s
  | .vadd d a b m ty => Sys2Proof.Machine.execVadd d a b m ty s
  | .vsub d a b m ty => Sys2Proof.Machine.execVsub d a b m ty s
  | .vmin d a b m ty => Sys2Proof.Machine.execVmin d a b m ty s
  | .vmax d a b m ty => Sys2Proof.Machine.execVmax d a b m ty s
  | .vabs d a m ty => Sys2Proof.Machine.execVabs d a m ty s
  | .vneg d a m ty => Sys2Proof.Machine.execVneg d a m ty s
  | .vand d a b m => Sys2Proof.Machine.execVand d a b m s
  | .vor d a b m => Sys2Proof.Machine.execVor d a b m s
  | .vxor d a b m => Sys2Proof.Machine.execVxor d a b m s
  | .vshl d a b m ty => Sys2Proof.Machine.execVshl d a b m ty s
  | .vshr d a b m ty => Sys2Proof.Machine.execVshr d a b m ty s
  | .vsha d a b m ty => Sys2Proof.Machine.execVsha d a b m ty s
  | .vcmp cond md a b ty => Sys2Proof.Machine.execVcmp cond md a b ty s
  | .vsel d a b m => Sys2Proof.Machine.execVsel d a b m s
  | .vmov d a m => Sys2Proof.Machine.execVmov d a m s
  | .vbc d a m ty => Sys2Proof.Machine.execVbc d a m ty s
  | .vperm d a b => Sys2Proof.Machine.execVperm d a b s
  | .vshuf d a k => Sys2Proof.Machine.execVshuf d a k s
  | .vcvt d a dty rnd sat sty => Sys2Proof.Machine.execVcvt d a dty rnd sat sty s
  | .vpack d a b ty => Sys2Proof.Machine.execVpack d a b ty s
  | .vunpk d a h ty => Sys2Proof.Machine.execVunpk d a h ty s
  | .vred d a g ty => Sys2Proof.Machine.execVred d a g ty s
  | .vext d a x2 => Sys2Proof.Machine.execVext d a x2 s
  | .vins d a x2 => Sys2Proof.Machine.execVins d a x2 s
  | .viota d a => Sys2Proof.Machine.execViota d a s
  | .mand md ma mb => Sys2Proof.Machine.execMand md ma mb s
  | .mor md ma mb => Sys2Proof.Machine.execMor md ma mb s
  | .mxor md ma mb => Sys2Proof.Machine.execMxor md ma mb s
  | .mandn md ma mb => Sys2Proof.Machine.execMandn md ma mb s
  | .mnot md ma => Sys2Proof.Machine.execMnot md ma s
  | .mmov md ma => Sys2Proof.Machine.execMmov md ma s
  | .mpop d ma => Sys2Proof.Machine.execMpop d ma s
  | .mfirst d ma => Sys2Proof.Machine.execMfirst d ma s
  | .mlast d ma => Sys2Proof.Machine.execMlast d ma s
  | .vmul d a b m ty => Sys2Proof.Machine.execVmul d a b m ty s
  | .vfma d a b m ty => Sys2Proof.Machine.execVfma d a b m ty s
  | .vfnma d a b m ty => Sys2Proof.Machine.execVfnma d a b m ty s
  | .vrcp d a m ty => Sys2Proof.Machine.execVrcp d a m ty s
  | .vrsq d a m ty => Sys2Proof.Machine.execVrsq d a m ty s
  | .vsqrt d a m ty => Sys2Proof.Machine.execVsqrt d a m ty s
  | .vexp2 d a m ty => Sys2Proof.Machine.execVexp2 d a m ty s
  | .vlog2 d a m ty => Sys2Proof.Machine.execVlog2 d a m ty s
  | .vdiv d a b m ty => Sys2Proof.Machine.execVdiv d a b m ty s
  | .vscl d a b m ty => Sys2Proof.Machine.execVscl d a b m ty s
  | .vrng d a x2 => Sys2Proof.Machine.execVrng d a x2 s
  | .vqnt d a rnd ty => Sys2Proof.Machine.execVqnt d a rnd ty s
  | .vdqnt d a rnd ty => Sys2Proof.Machine.execVdqnt d a rnd ty s
  | .vmaxw d a n w ty => Sys2Proof.Machine.execVmaxw d a n w ty s
  | .vminw d a n w ty => Sys2Proof.Machine.execVminw d a n w ty s
  | .vmedw d a n w ty => Sys2Proof.Machine.execVmedw d a n w ty s
  | .vclpw d a b w ty => Sys2Proof.Machine.execVclpw d a b w ty s
  | .vssmw d a n w ty => Sys2Proof.Machine.execVssmw d a n w ty s
  | .vrmaxw d a n w ty => Sys2Proof.Machine.execVrmaxw d a n w ty s
  | .vrminw d a n w ty => Sys2Proof.Machine.execVrminw d a n w ty s
  | .vadj d g x2 w last gf => Sys2Proof.Machine.execVadj d g x2 w last gf s
  | .wtag d w => Sys2Proof.Machine.execWtag d w s
  | .wclr w => Sys2Proof.Machine.execWclr w s
  | .mma td aA aB aS z tok => Sys2Proof.Machine.execMma td aA aB aS z tok s
  | .tzero td => Sys2Proof.Machine.execTzero td s
  | .tst td a x2 dty rnd h tok => Sys2Proof.Machine.execTst td a x2 dty rnd h tok s
  | .tld td a tok => Sys2Proof.Machine.execTld td a tok s
  | .trd vd td x2 => Sys2Proof.Machine.execTrd vd td x2 s
  | .twr td v x2 => Sys2Proof.Machine.execTwr td v x2 s
  | .tstat d td c => Sys2Proof.Machine.execTstat d td c s
  | .tsig d td sel => Sys2Proof.Machine.execTsig d td sel s
  | .cpy ad aS x2 dsp ssp opt tok => Sys2Proof.Machine.execCpy ad aS x2 dsp ssp opt tok s
  | .cpyx ad aS x2 dsp ssp opt tok => Sys2Proof.Machine.execCpyx ad aS x2 dsp ssp opt tok s
  | .gath ad aT aI x3 rl opt tok => Sys2Proof.Machine.execGath ad aT aI x3 rl opt tok s
  | .send v c => Sys2Proof.Machine.execSend v c s
  | .recv v c => Sys2Proof.Machine.execRecv v c s
  | .recvadd v c => Sys2Proof.Machine.execRecvadd v c s
  | .recvmax v c => Sys2Proof.Machine.execRecvmax v c s
  | .sends x0 c => Sys2Proof.Machine.execSends x0 c s
  | .recvs x0 c => Sys2Proof.Machine.execRecvs x0 c s
  | .chq x0 c => Sys2Proof.Machine.execChq x0 c s
  | .chclose c => Sys2Proof.Machine.execChclose c s
  | .btree t0 t1 t2 t3 => Sys2Proof.Machine.execBtree t0 t1 t2 t3 s
  | .jmp off => Sys2Proof.Machine.execJmp off s
  | .call off => Sys2Proof.Machine.execCall off s
  | .jmpb b => Sys2Proof.Machine.execJmpb b s
  | .retb b => Sys2Proof.Machine.execRetb b s
  | .loop x0 endOff => Sys2Proof.Machine.execLoop x0 endOff s
  | .lbrk level n p => Sys2Proof.Machine.execLbrk level n p s
  | .fmtw x0 => Sys2Proof.Machine.execFmtw x0 s
  | .waitk tok => Sys2Proof.Machine.execWaitk tok s
  | .bar id => Sys2Proof.Machine.execBar id s
  | .bara id => Sys2Proof.Machine.execBara id s
  | .cbwait d a x2 => Sys2Proof.Machine.execCbwait d a x2 s
  | .feat d word => Sys2Proof.Machine.execFeat d word s
  | .trap imm => Sys2Proof.Machine.execTrap imm s
  | .sysc imm => Sys2Proof.Machine.execSysc imm s
  | .exit => Sys2Proof.Machine.execExit s
  | .yield => Sys2Proof.Machine.execYield s
  | .seedp x0 => Sys2Proof.Machine.execSeedp x0 s
  | .seedo => Sys2Proof.Machine.execSeedo s
  | .seedf imm => Sys2Proof.Machine.execSeedf imm s
  | .seedr d => Sys2Proof.Machine.execSeedr d s
  | .getsys d t sel => Sys2Proof.Machine.execGetsys d t sel s
  | .setsys x0 t sel => Sys2Proof.Machine.execSetsys x0 t sel s
  | .setsysThreshWindow x0 t sel => Sys2Proof.Machine.execSetsysThreshWindow x0 t sel s
  | .setsysFeatack x0 t sel => Sys2Proof.Machine.execSetsysFeatack x0 t sel s
  | .eret => Sys2Proof.Machine.execEret s
  | .tlaunch d a => Sys2Proof.Machine.execTlaunch d a s
  | .tcommit x0 => Sys2Proof.Machine.execTcommit x0 s
  | .tabortRerun x0 => Sys2Proof.Machine.execTabortRerun x0 s
  | .tabortKill x0 k => Sys2Proof.Machine.execTabortKill x0 k s
  | .jcbadd a x1 => Sys2Proof.Machine.execJcbadd a x1 s
  | .jcbpost a x1 => Sys2Proof.Machine.execJcbpost a x1 s
  | .eqpop pd d => Sys2Proof.Machine.execEqpop pd d s
  | .ctxstart t a => Sys2Proof.Machine.execCtxstart t a s
  | .ctxstartRestore t a => Sys2Proof.Machine.execCtxstartRestore t a s
  | .ctxstartControlCore t a => Sys2Proof.Machine.execCtxstartControlCore t a s
  | .ctxstartR t => Sys2Proof.Machine.execCtxstartR t s
  | .ctxstopSafe t => Sys2Proof.Machine.execCtxstopSafe t s
  | .ctxstopKill t k => Sys2Proof.Machine.execCtxstopKill t k s
  | .tlbinvRange a x1 q => Sys2Proof.Machine.execTlbinvRange a x1 q s
  | .tlbinvAsid a x1 q => Sys2Proof.Machine.execTlbinvAsid a x1 q s
  | .tlbinvAll kind a x2 q => Sys2Proof.Machine.execTlbinvAll kind a x2 q s
  | .wfi => Sys2Proof.Machine.execWfi s
  | .bind d x1 => Sys2Proof.Machine.execBind d x1 s
  | .bindFence d x1 => Sys2Proof.Machine.execBindFence d x1 s
  | .bindUnfence d x1 => Sys2Proof.Machine.execBindUnfence d x1 s
  | .bindMicrocode d x1 => Sys2Proof.Machine.execBindMicrocode d x1 s
  | .bindQuery d x1 => Sys2Proof.Machine.execBindQuery d x1 s
  | .bindBreak d x1 => Sys2Proof.Machine.execBindBreak d x1 s
  | .bindWatch d x1 => Sys2Proof.Machine.execBindWatch d x1 s
  | .bindTrace d x1 => Sys2Proof.Machine.execBindTrace d x1 s
  | .bindProfile d x1 => Sys2Proof.Machine.execBindProfile d x1 s
  | .bindDumpctx d x1 => Sys2Proof.Machine.execBindDumpctx d x1 s
  | .bindExtract d x1 => Sys2Proof.Machine.execBindExtract d x1 s
  | .ldwtImageCheck => Sys2Proof.Machine.execLdwtImageCheck s
  | .regionFill => Sys2Proof.Machine.execRegionFill s
  | .regionWriteBack => Sys2Proof.Machine.execRegionWriteBack s
  | .sideLogReplay => Sys2Proof.Machine.execSideLogReplay s
  | .deferredAccessFault => Sys2Proof.Machine.execDeferredAccessFault s
  | .resultLanding => Sys2Proof.Machine.execResultLanding s
  | .engineOperationStart => Sys2Proof.Machine.execEngineOperationStart s
  | .rowGroupCheck => Sys2Proof.Machine.execRowGroupCheck s
  | .engineOperationCompletion => Sys2Proof.Machine.execEngineOperationCompletion s
  | .lanternArbitration => Sys2Proof.Machine.execLanternArbitration s
  | .thresholdExceeded => Sys2Proof.Machine.execThresholdExceeded s
  | .tstDrainStart => Sys2Proof.Machine.execTstDrainStart s
  | .tstRowGroupCompare => Sys2Proof.Machine.execTstRowGroupCompare s
  | .tstCommit => Sys2Proof.Machine.execTstCommit s
  | .engineFault => Sys2Proof.Machine.execEngineFault s
  | .copyStart => Sys2Proof.Machine.execCopyStart s
  | .cpyxAttempt => Sys2Proof.Machine.execCpyxAttempt s
  | .copyArrival => Sys2Proof.Machine.execCopyArrival s
  | .eventRecordPost => Sys2Proof.Machine.execEventRecordPost s
  | .claimFill => Sys2Proof.Machine.execClaimFill s
  | .channelWatchdog => Sys2Proof.Machine.execChannelWatchdog s
  | .collectiveTimeout => Sys2Proof.Machine.execCollectiveTimeout s
  | .interrupt => Sys2Proof.Machine.execInterrupt s
  | .singleStep => Sys2Proof.Machine.execSingleStep s
  | .contextSwitch => Sys2Proof.Machine.execContextSwitch s
  | .quantumExpiry => Sys2Proof.Machine.execQuantumExpiry s
  | .preemption => Sys2Proof.Machine.execPreemption s
  | .saveAreaWrite => Sys2Proof.Machine.execSaveAreaWrite s
  | .preemptionLimit => Sys2Proof.Machine.execPreemptionLimit s
  | .dispatch => Sys2Proof.Machine.execDispatch s
  | .taskAging => Sys2Proof.Machine.execTaskAging s
  | .taskBlocking => Sys2Proof.Machine.execTaskBlocking s
  | .taskCompletion => Sys2Proof.Machine.execTaskCompletion s
  | .auditReplay => Sys2Proof.Machine.execAuditReplay s
  | .auditVote => Sys2Proof.Machine.execAuditVote s
  | .auditPlacementLimit => Sys2Proof.Machine.execAuditPlacementLimit s
  | .sumpInflation => Sys2Proof.Machine.execSumpInflation s
  | .sumpCtlEn => Sys2Proof.Machine.execSumpCtlEn s
  | .sumpCtlRetry => Sys2Proof.Machine.execSumpCtlRetry s
  | .sumpLptrTail => Sys2Proof.Machine.execSumpLptrTail s
  | .sumpDefl => Sys2Proof.Machine.execSumpDefl s
  | .sumpStatOosClear => Sys2Proof.Machine.execSumpStatOosClear s
  | .scrub => Sys2Proof.Machine.execScrub s
  | .linkRetry => Sys2Proof.Machine.execLinkRetry s
  | .linkDeath => Sys2Proof.Machine.execLinkDeath s
  | .linkStateUpdate => Sys2Proof.Machine.execLinkStateUpdate s
  | .linkDrainRound => Sys2Proof.Machine.execLinkDrainRound s
  | .requestDeclareDead => Sys2Proof.Machine.execRequestDeclareDead s
  | .requestBringUp => Sys2Proof.Machine.execRequestBringUp s
  | .requestPcap => Sys2Proof.Machine.execRequestPcap s
  | .hostMessage => Sys2Proof.Machine.execHostMessage s
  | .hostAccess => Sys2Proof.Machine.execHostAccess s
  | .clockAdjust => Sys2Proof.Machine.execClockAdjust s
  | .profileSample => Sys2Proof.Machine.execProfileSample s
  | .panic => Sys2Proof.Machine.execPanic s
  | .devnoSupply => Sys2Proof.Machine.execDevnoSupply s
  | .reset => Sys2Proof.Machine.execReset s
  | .remoteRequest => Sys2Proof.Machine.execRemoteRequest s
  | .linkTrained => Sys2Proof.Machine.execLinkTrained s
  | .receiverLosesLock => Sys2Proof.Machine.execReceiverLosesLock s
  | .powerRemoved => Sys2Proof.Machine.execPowerRemoved s
  | .criticalTemperature => Sys2Proof.Machine.execCriticalTemperature s
  | .pcieLinkStateChange => Sys2Proof.Machine.execPcieLinkStateChange s
  | .ethernetPortStateChange => Sys2Proof.Machine.execEthernetPortStateChange s

end Sys2Proof.Machine
end

