-- ==== Sys2Proof/Machine/Bundle.lean ====
section
/-! DEFINITION. The issue of a bundle: what comes before it (R55, R156, R250, R361), its header and checks (R88–R102, R151, R462),
gangs (R22–R24), its slots (R103), the selector (R28), and which agent moves in a step (log 5). -/

namespace Sys2Proof.Machine

/-! ## Gangs (R22, R23) -/

/-- The context of the other core that issues the same bundles; none once that one has ended (R35). -/
def partner (s : State) : Option CtxId := gangMate s s.who

/-! ## Traps of the front end -/

/-- A trap that the shared front end finds: it stops both cores of a gang (R24, R102, R462). -/
def frontTrap (rank : Nat) (code : BitVec 8) (slot : Option Nat) (tval : Word) (s : State) : State :=
  let stop (s : State) (c : CtxId) : State := takeTrap c s.frame.base (causeWord code false false false false slot) tval s
  let t := (partner s).toList.foldl stop (stop s s.who)
  { t with frame := { t.frame with out := .trapped rank } }

/-- The bundle's address is an enabled breakpoint of its core, or of the other core of a gang (R462, R464). -/
def breakHit (s : State) : Bool :=
  getBit s.dev.debug 1 && !s.ctx.resume && !s.who.isSys &&
    (s.who :: (partner s).toList).any fun c =>
      (coreOf s c.coreNo).breaks.any fun b => getBit b 0 && b.extractLsb' 2 62 == s.frame.base.extractLsb' 2 62

/-! ## Slots: which run, and their structural checks (R98, R99, R101, R118, R364) -/

/-- A trap that a check has found: its rank in R102, its slot and the state that it leaves. -/
abbrev Found := Nat × Nat × State

/-- The lowest rank, then the lowest slot. -/
def firstFound : List Found → Option Found
  | [] => none
  | x :: xs =>
    match firstFound xs with
    | some y => if x.1 < y.1 ∨ (x.1 = y.1 ∧ x.2.1 ≤ y.2.1) then some x else some y
    | none => some x

/-- The frame as slot o sees it. -/
def atSlot (o : SlotOp) (s : State) : State :=
  { s with frame := { s.frame with slot := o.slot, parcel := s.frame.base + BitVec.ofNat 64 (4 * o.off) } }

/-- Encodings of the witness feature: VB opcodes 0x10–0x19, LDWT and STWT. -/
def witnessRow (i : Instr) : Bool :=
  match i with
  | .ldwt _ _ _ _ | .stwt _ _ _ _ | .vmaxw _ _ _ _ _ | .vminw _ _ _ _ _ | .vmedw _ _ _ _ _ | .vclpw _ _ _ _ _ | .vssmw _ _ _ _ _
  | .vrmaxw _ _ _ _ _ | .vrminw _ _ _ _ _ | .vadj _ _ _ _ _ _ | .wtag _ _ | .wclr _ => true
  | _ => false

def regionRow (i : Instr) : Bool :=
  match i with
  | .rgset _ _ _ _ _ | .rgwb _ | .rgdrop _ => true
  | _ => false

/-- The row belongs to a feature that is not accepted, whatever its operands. -/
def featureOff (s : State) (slot : Nat) (i : Instr) : Bool :=
  (decide (3 ≤ slot ∧ slot ≤ 5) && !accepted s 0) || (witnessRow i && !accepted s 4) || (regionRow i && !accepted s 8)

/-- The structural failure of a slot, annulled or not: its rank and cause. -/
def slotReject (len : Nat) (o : SlotOp) (s : State) : Option (Nat × BitVec 8) :=
  if s.who.isSys ∧ 3 ≤ o.slot ∧ o.slot ≤ 5 then some (3, 0x01)
  else
    match o.op with
    | .error .valueCode => none
    | .error r => some (if r.cause = 0x01 then 3 else 4, r.cause)
    | .ok (.loop _ e) => if e.toNat < len then some (3, Reject.loopEnd.cause) else none
    | .ok i => if featureOff s o.slot i then some (4, 0x02) else none

def structural (o : SlotOp) (s : State) : Option Found :=
  (slotReject s.frame.len o s).map fun r => (r.1, o.slot, frontTrap r.1 r.2 (some o.slot) (atSlot o s).frame.parcel (atSlot o s))

/-- The tests of the bundle's branch tree. -/
def treeOf (ops : List SlotOp) : Option (List BTest) :=
  ops.findSome? fun o => match o.op with | .ok (.btree t0 t1 t2 t3) => some [t0, t1, t2, t3] | _ => none

/-- The chosen leaf, 4 without a tree (R99); none while a predicate that it tests is awaited. -/
def chosenLeaf (ops : List SlotOp) (s : State) : Option Nat :=
  match treeOf ops with
  | some ts => if ts.any fun t => t.v && t.p != 0 && interlocked s (.p t.p) then none else some (leafOf s ts)
  | none => some 4

/-- A slot with this tag runs on the chosen leaf (R98). -/
def onLeaf (leaf : Option Nat) (tag : Nat) : Bool :=
  tag == 0 || (match leaf with
    | some l => if tag ≤ 5 then l + 1 == tag else decide (l < 4)
    | none => false)

/-! ## Rows that the operands choose (R357, R398, R455) -/

/-- The row of BIND whose OP the descriptor holds. -/
def bindRow (op : Nat) (d x : SR) : Instr :=
  match op with
  | 2 => .bindFence d x
  | 3 => .bindUnfence d x
  | 4 => .bindMicrocode d x
  | 5 => .bindQuery d x
  | 6 => .bindBreak d x
  | 7 => .bindWatch d x
  | 8 => .bindTrace d x
  | 9 => .bindProfile d x
  | 10 => .bindDumpctx d x
  | 11 => .bindExtract d x
  | _ => .bind d x

/-- EA(a) begins with "CTXS". -/
def holdsArea (a : AR) (s : State) : Bool :=
  match readGlobal (accOf s s.who) false true (ea s a 0).toNat 4 s with
  | .ok _ bs => natOf bs == 0x53585443
  | _ => false

/-- The row that an instruction is, by its descriptor, its target or its area. -/
def rowOf (i : Instr) (s : State) : Instr :=
  match i with
  | .bind d x => bindRow (physRead s (rdS s x).toNat 1 |> natOf) d x
  | .ctxstart t a =>
    match s.who with
    | .sys _ _ => .ctxstartControlCore t a
    | .ctl _ => if (ea s a 0).toNat < 2 ^ 56 ∧ holdsArea a s then .ctxstartRestore t a else .ctxstart t a
    | .user _ _ => .ctxstart t a
  | i => i

/-- The slots that run, with their rows. -/
def liveSlots (ops : List SlotOp) (s : State) : List (SlotOp × Instr) :=
  let leaf := chosenLeaf ops s
  ops.filterMap fun o =>
    match o.op with
    | .ok i => if onLeaf leaf o.tag then some (o, rowOf i (atSlot o s)) else none
    | .error _ => none

/-! ## Gang divergence (R24) -/

/-- What a core of a gang decides in its control slot; none while a register is awaited or nothing can differ. -/
def decision (i : Instr) (s : State) : Option (List Nat) :=
  let known (rs : List RegName) (v : List Nat) : Option (List Nat) := if rs.any (interlocked s) then none else some v
  match i with
  | .btree t0 t1 t2 t3 =>
    let ts := [t0, t1, t2, t3]
    let l := leafOf s ts
    known ((ts.filter (·.v)).flatMap fun t => [.p t.p, .b t.leaf]) [l, match ts[l]? with | some t => (rdB s t.leaf).toNat | none => 0]
  | .jmpb b => known [.b b] [(rdB s b).toNat]
  | .retb b => known [.b b] [(rdB s b).toNat]
  | .loop x _ => known [.s x] [(rdS s x).toNat]
  | .lbrk _ n p => known [.p p] [(rdP s p != n).toNat]
  | _ => none

/-- The two cores decide differently. -/
def diverges (i : Instr) (s : State) : Bool :=
  match partner s with
  | some d => (match decision i s, decision i (switchTo s d) with | some x, some y => x != y | _, _ => false)
  | none => false

/-- Gang divergence, judged on what both cores held before the bundle (R24). -/
def gangFault (e : SlotOp × Instr) (s : State) : Option Found :=
  if !s.frame.judged && diverges e.2 (atSlot e.1 s) then some (6, e.1.slot, frontTrap 6 0x13 (some e.1.slot) (atSlot e.1 s).frame.parcel (atSlot e.1 s)) else none

/-! ## The slots of a bundle (R102, R103) -/

/-- The state after an instruction; no arm of exec faults or refuses. -/
def after (r : Res) (s : State) : State := match r with | .next t => t | _ => s

/-- One slot tried on its own against the state at issue. -/
def probe (e : SlotOp × Instr) (s : State) : State := after (exec e.2 (atSlot e.1 s)) s

def trapFound (e : SlotOp × Instr) (s : State) : Option Found :=
  match (probe e s).frame.out with
  | .trapped r => some (r, e.1.slot, probe e s)
  | _ => none

/-- A reserved code that only a slot which runs raises (R101). -/
def codeFound (leaf : Option Nat) (o : SlotOp) (s : State) : Option Found :=
  match o.op with
  | .error .valueCode => if onLeaf leaf o.tag then some (4, o.slot, after (reserved (atSlot o s)) s) else none
  | _ => none

/-- A load's destination, and the base that it steps (R104). -/
def loadWrites (d : RegName) (a : AR) (post : Bool) : List RegName := d :: postReg post a

/-- The registers that an instruction writes when it issues, those that keep nothing apart (R39, R104). -/
def writesOf (i : Instr) : List RegName :=
  let rs : List RegName := match i with
   | .add d _ _ | .sub d _ _ | .andS d _ _ | .orS d _ _ | .xorS d _ _ | .andn d _ _ | .shl d _ _ | .shr d _ _ | .sha d _ _ | .rotl d _ _
   | .minS d _ _ | .maxS d _ _ | .minz d _ _ | .maxz d _ _ | .mul d _ _ | .mulh d _ _ | .mulhz d _ _ | .divS d _ _ | .divz d _ _
   | .remS d _ _ | .remz d _ _ | .clz d _ | .ctz d _ | .popc d _ | .sextb d _ | .sexth d _ | .sextw d _ | .addi d _ _ | .andi d _ _
   | .ori d _ _ | .xori d _ _ | .shli d _ _ | .shri d _ _ | .shai d _ _ | .li d _ | .lis d _ | .sel d _ _ _ | .smova d _ | .movx d _
   | .fadd d _ _ | .fsub d _ _ | .fmul d _ _ | .fdiv d _ _ | .fmin d _ _ | .fmax d _ _ | .fsqrt d _ | .fcvtif d _ | .fcvtfi d _
   | .ldg d _ _ _ | .ldaq d _ _ _ | .atomAdd d _ _ _ _ _ | .atomAnd d _ _ _ _ _ | .atomOr d _ _ _ _ _ | .atomXor d _ _ _ _ _
   | .atomMin d _ _ _ _ _ | .atomMax d _ _ _ _ _ | .atomMinz d _ _ _ _ _ | .atomMaxz d _ _ _ _ _ | .atomXchg d _ _ _ _ _
   | .atomFadd d _ _ _ _ _ | .acas d _ _ _ _ _ | .vext d _ _ | .mpop d _ | .mfirst d _ | .mlast d _ | .wtag d _ | .tstat d _ _
   | .tsig d _ _ | .recvs d _ | .chq d _ | .cbwait d _ _ | .feat d _ | .seedr d | .getsys d _ _ | .tlaunch d _ | .bind d _ | .bindFence d _
   | .bindUnfence d _ | .bindMicrocode d _ | .bindQuery d _ | .bindBreak d _ | .bindWatch d _ | .bindTrace d _ | .bindProfile d _
   | .bindDumpctx d _ | .bindExtract d _ => [.s d]
   | .cmp _ p _ _ | .cmpi _ p _ _ | .pand p _ _ | .por p _ _ | .pxor p _ _ | .pandn p _ _ | .pnot p _ | .pmov p _ | .fcmp _ p _ _ => [.p p]
   | .eqpop p d => [.s d, .s (nextReg d), .p p]
   | .aadd a _ _ | .asub a _ _ | .amovs a _ | .aaddi a _ _ | .astride a _ _ => [.a a]
   | .btgt r _ | .btgta r _ => [.b r]
   | .call _ => [.b 7]
   | .ldb d a post _ | .ldbz d a post _ | .ldh d a post _ | .ldhz d a post _ | .ldw d a post _ | .ldwz d a post _ | .ldd d a post _ =>
     loadWrites (.s d) a post
   | .ldv d a post _ | .ldvs d a post _ _ | .ldvb d a post _ | .ldgv d a post _ => loadWrites (.v d) a post
   | .ldm d a post _ => loadWrites (.m d) a post
   | .ldwt d a post _ => loadWrites (.w d) a post
   | .stb _ a post _ | .sth _ a post _ | .stw _ a post _ | .std _ a post _ | .stv _ a post _ | .stvm _ a post _ _ | .stvs _ a post _ _
   | .stwt _ a post _ | .stm _ a post _ | .stgv _ a post _ => postReg post a
   | .ldvx d _ _ _ | .vadd d _ _ _ _ | .vsub d _ _ _ _ | .vmin d _ _ _ _ | .vmax d _ _ _ _ | .vabs d _ _ _ | .vneg d _ _ _ | .vand d _ _ _
   | .vor d _ _ _ | .vxor d _ _ _ | .vshl d _ _ _ _ | .vshr d _ _ _ _ | .vsha d _ _ _ _ | .vsel d _ _ _ | .vmov d _ _ | .vbc d _ _ _
   | .vperm d _ _ | .vshuf d _ _ | .vcvt d _ _ _ _ _ | .vpack d _ _ _ | .vunpk d _ _ _ | .vred d _ _ _ | .vins d _ _ | .viota d _
   | .vmul d _ _ _ _ | .vfma d _ _ _ _ | .vfnma d _ _ _ _ | .vrcp d _ _ _ | .vrsq d _ _ _ | .vsqrt d _ _ _ | .vdiv d _ _ _ _
   | .vscl d _ _ _ _ | .vrng d _ _ | .vqnt d _ _ _ | .vdqnt d _ _ _ | .trd d _ _ | .recv d _ | .recvadd d _ | .recvmax d _ => [.v d]
   | .vcmp _ d _ _ _ | .mand d _ _ | .mor d _ _ | .mxor d _ _ | .mandn d _ _ | .mnot d _ | .mmov d _ => [.m d]
   | .vmaxw d _ _ w _ | .vminw d _ _ w _ | .vmedw d _ _ w _ | .vclpw d _ _ w _ | .vssmw d _ _ w _ | .vrmaxw d _ _ w _
   | .vrminw d _ _ w _ => [.v d, .w w]
   | .vadj d _ _ w last _ => .v d :: if last then [.w w] else []
   | .vexp2 d _ _ _ | .vlog2 d _ _ _ => [.v d]
   | .wclr w => [.w w]
   | _ => []
  rs.filter fun r => !r.wired

/-- In debug mode, the first register that two slots write (R104). -/
def twiceWritten : List (Nat × List RegName) → Option (Nat × RegName)
  | [] => none
  | (_, rs) :: rest =>
    match rest.findSome? fun q => (q.2.find? rs.contains).map fun r => (q.1, r) with
    | some f => some f
    | none => twiceWritten rest

def hazardFound (live : List (SlotOp × Instr)) (s : State) : Option Found :=
  if hazardMode s then
    (twiceWritten (live.map fun e => (e.1.slot, writesOf e.2))).map fun f =>
      (11, f.1, after (trapAt 11 0x14 (regTval f.2) { s with frame := { s.frame with slot := f.1 } }) s)
  else none

/-- Every check of the bundle that fails now. -/
def allFound (ops : List SlotOp) (live : List (SlotOp × Instr)) (s : State) : List Found :=
  (ops.filterMap fun o => structural o s) ++ (ops.filterMap fun o => codeFound (chosenLeaf ops s) o s) ++
    (live.filterMap fun e => gangFault e s) ++
    (match endInside s with | some e => [(7, 0, frontTrap 7 0x01 none e s)] | none => []) ++
    (live.filterMap fun e => trapFound e s) ++ (hazardFound live s).toList

/-- A fence, then CBWAIT or BARA, take effect before the other slots; the rest in slot order. So BARA arrives before the writes of its own
bundle, which are no part of its release (DESIGN CHOICE: R162 does not say; log 95); and a scratchpad store of slot 2 is made before an MMA or TLD of
its bundle reads its images, which see it and are not disturbed by it (DESIGN CHOICE: R242 assures stores of earlier bundles and forbids
writes from the issue on; log 101). -/
def issueOrder (live : List (SlotOp × Instr)) : List (SlotOp × Instr) :=
  let early (e : SlotOp × Instr) : Nat := match e.2 with | .fence _ _ => 0 | .cbwait _ _ _ | .bara _ => 1 | _ => 2
  (live.filter fun e => early e = 0) ++ (live.filter fun e => early e = 1) ++ live.filter fun e => early e = 2

def isBara (i : Instr) : Bool := match i with | .bara _ => true | _ => false

/-- The slots take effect one after another; what they write lands after the bundle (R103). What they wait for has been judged, but
for the release of a BARA's arrival, for which its bundle does not wait (R161, R162). -/
def runSlots : List (SlotOp × Instr) → State → State
  | [], s => s
  | e :: rest, s =>
    let t := after (exec e.2 (atSlot e.1 { s with frame := { s.frame with cleared := !isBara e.2 } })) s
    match t.frame.out with
    | .going => runSlots rest t
    | _ => t

/-- The bundle stalls as a whole. -/
def stallAll (s : State) : State := after (stall s) s

/-- A trap that slots meet only together: none of them has taken effect (R102). -/
def trapAgain (rank : Nat) (t s : State) : State :=
  let x := getCtx t s.who
  let u := takeTrap s.who s.frame.base x.cause x.tval s
  { u with frame := { u.frame with out := .trapped rank } }

/-- All checks have passed and no slot stalls: what the slots wait for has been judged on s (R103). -/
def runBundle (live : List (SlotOp × Instr)) (s : State) : State :=
  let t := runSlots (issueOrder live) s
  let t := { t with frame := { t.frame with cleared := false } }
  match t.frame.out with
  | .going => meetRegs s.who s.ctx.sc (finishBundle (atLoopEnd s) t)
  | .done => t
  | .stalled => stallAll s
  | .trapped r => trapAgain r t s

def isExit (i : Instr) : Bool := match i with | .exit => true | _ => false

/-- An image of the context that is still awaited keeps an EXIT from issuing: its check comes first (R236). -/
def exitWaits (s : State) : Bool :=
  (coreOf s s.who.coreNo).waits.any fun w => w.ctx == s.who &&
    (match w.kind with
     | .load false _ sh _ _ => sh == .wit
     | _ => false)

/-- Its context takes the fault of an image at an EXIT, which does not issue, on either core of a gang (R23, R236). -/
def imageAtExit (s : State) : State :=
  let t := takeLate s.who [.image] true s
  { t with frame := { t.frame with out := .trapped 12 } }

/-- The bundle with slots ops, its frame laid out: the first failing check, else a stall, else its effects; before an EXIT the
context's image faults are taken (R236). Of the slots that stall, the lowest is the one that has waited, so a BAR arrives once no
lower slot stalls (DESIGN CHOICE: R161 does not say whether it arrives before; log 76); a SEND among them waits from its own
first stall on (R285). -/
def issueSlots (ops : List SlotOp) (s : State) : State :=
  let live := liveSlots ops s
  match firstFound (allFound ops live s) with
  | some f => f.2.2
  | none =>
    if (live.any fun e => isExit e.2) && (dueLate s.ctx [.image] true).isSome then imageAtExit s
    else if (live.any fun e => isExit e.2) && exitWaits s then stallAll s
    else
      match live.filter fun e => (probe e s).frame.out = .stalled with
      | e :: rest =>
        let t := probe e s
        let x := { t.ctx with sendWait := (e :: rest).findSome? fun e => (probe e s).ctx.sendWait }
        { t with ctx := { x with sendWait := sendStalled s x } }
      | [] => runBundle live s

/-! ## A bundle of a gang (R22, R23) -/

/-- Trace records of what a context has just issued (R467). -/
def traceIssue (s t : State) : State :=
  match t.frame.out, t.frame.hit with
  | .trapped _, some h => traceRecord s.who 6 h.1 s.frame.base s.ctx.sc (BitVec.ofNat 64 h.2) t
  | .trapped _, none => t
  | .stalled, _ => t
  | _, _ => if t.frame.transfer then traceRecord s.who 1 0 s.frame.base s.ctx.sc t.frame.next t else t

/-- The other core issues the same bundle. -/
def onPartner (f : State → State) (d : CtxId) (frame : Frame) (t : State) : State :=
  let u := switchTo { t with frame := frame } d
  traceIssue u (f u)

/-- Both cores of a gang issue, or neither does; their decisions are compared before either has issued (R23, R24). -/
def gangWise (f : State → State) (s : State) : State :=
  let a := traceIssue s (f s)
  let judged := { s.frame with judged := true }
  match partner s with
  | none => a
  | some d =>
    let c := s.who
    match a.frame.out with
    | .trapped _ => a
    | .stalled =>
      let b := onPartner f d s.frame a
      match b.frame.out with
      | .trapped _ | .stalled => switchTo b c
      | _ =>
        let u := switchTo { b with frame := judged } c
        let v := traceIssue u (f u)
        if v.frame.out = .stalled then a else v
    | _ =>
      let b := onPartner f d judged a
      match b.frame.out with
      | .trapped _ | .stalled =>
        let v := onPartner f d s.frame s
        (match v.frame.out with
         | .trapped _ | .stalled => switchTo v c
         | _ => stallAll s)
      | _ => { switchTo b c with frame := a.frame }

/-! ## Headers (R88–R96) -/

/-- Flow passes a fill parcel and goes on at the next line (R93, R151). -/
def passFill (s : State) : State :=
  let next := BitVec.ofNat 64 (lineAddr s.ctx.pc + 64)
  let passed := match s.ctx.loops.getLast? with
    | some l => decide (s.ctx.pc.toNat ≤ l.last.toNat) && decide (l.last.toNat < next.toNat)
    | none => false
  let along (s : State) (d : CtxId) : State :=
    modCtx s d fun x => if x.pc = s.ctx.pc then { x with pc := next, fillFrom := passed || x.fillFrom } else x
  let s := (partner s).toList.foldl along s
  { s with ctx := { s.ctx with pc := next, fillFrom := passed || s.ctx.fillFrom }, frame := { s.frame with out := .done } }

/-- Fetches the bundle at the context's pc as far as its header; k goes on with the header and the line. R102 does not
rank misaligned target (0x03): it comes before a breakpoint and, for a target that is not 4-byte aligned, before the
fetch. A context that starts or resumes at such an address reads the parcel that holds it: R95 speaks of branches, calls
and returns (both DESIGN CHOICE; log 56). -/
def withHeader (s : State) (k : Header → List Byte → State → State) : State :=
  let a := s.ctx.pc
  let s := { s with frame := { Frame.none with base := a, parcel := a } }
  if s.ctx.cameFrom.isSome ∧ a.toNat % 4 ≠ 0 then frontTrap 3 0x03 none (s.ctx.cameFrom.getD 0) s
  else
    match fetchLine (lineAddr a) s with
    | (s, none) => if breakHit s then frontTrap 1 0x1A none a s else frontTrap 2 0x04 none (BitVec.ofNat 64 (lineAddr a)) s
    | (s, some bs) =>
      let w := parcelOf bs (parcelNo a)
      match decodeHeader w with
      | some h => k h bs s
      | none =>
        match s.ctx.cameFrom with
        | some b => frontTrap 3 0x03 none b s
        | none =>
          if w = 0 then passFill s
          else if breakHit s then frontTrap 1 0x1A none a s
          else frontTrap 3 0x01 none a s

/-- The frame of the bundle whose header is h. -/
def layOut (h : Header) (bs : List Byte) (s : State) : State :=
  let len := bundleLen h.p
  { s with frame := { s.frame with
      len := len, gap := h.g.val, next := nextHeader s (seqNext bs s.frame.base len)
      left := (s.frame.base + BitVec.ofNat 64 (4 * len)).toNat } }

/-- The parcels of the bundle at the frame's base. -/
def bundleParcel (bs : List Byte) (s : State) (j : Nat) : Nat := parcelOf bs (parcelNo s.frame.base + j)

/-- The context takes its pre-emption here, a gang that of either member (R156, R399). -/
def saves (h : Header) (s : State) : Bool := h.sp && (saveAsked s s.who).isSome

/-- A bundle without slots, unless the sequencer turns it away (R89, R91, R151). -/
def issueBare (i : Instr) (s : State) : State :=
  match endInside s with
  | some e => frontTrap 7 0x01 none e s
  | none => gangWise (fun s => after (exec i s) s) s

/-- The bundle with this header. -/
def issueHeader (h : Header) (bs : List Byte) (s : State) : State :=
  let s := layOut h bs s
  if (headerReject h).isSome ∨ 16 < parcelNo s.frame.base + s.frame.len then
    (if breakHit s && !skips h s then frontTrap 1 0x1A none s.frame.base s else frontTrap 3 0x01 none s.frame.base s)
  else if skips h s then issueBare (.skippedBundle h) s
  else if saves h s then { beginSaves s.who s with frame := { s.frame with out := .done } }
  else if breakHit s then frontTrap 1 0x1A none s.frame.base s
  else if h.p = 0 then issueBare (.gapBundle h) s
  else gangWise (issueSlots (readSlots h.p (bundleParcel bs s))) s

/-- A core of a gang that its partner holds back: it may only be saved here. -/
def heldHeader (h : Header) (bs : List Byte) (s : State) : State :=
  let s := layOut h bs s
  if saves h s ∧ ¬ skips h s then { beginSaves s.who s with frame := { s.frame with out := .done } } else stallAll s

/-! ## A bundle boundary -/

def lateKinds : List LateKind := [.engine, .access, .claim, .threshold, .image, .step, .collective]

/-- A fault found after issue that the context, or its partner in a gang, takes before its next bundle (R250). -/
def lateAtHead (s : State) : Option CtxId := (s.who :: (partner s).toList).find? fun c => (dueLate (getCtx s c) lateKinds false).isSome

/-- The other member of a gang has not been started or restored: neither issues before both are (R399). -/
def partnerMissing (s : State) : Bool :=
  match s.who with
  | .user k x => s.ctx.ident.gang == 2 && (getCtx s (.user (Fin.ofNat 384 (Nat.xor k.val 1)) x)).run == .free
  | _ => false

/-- Its partner keeps the context from issuing: bundles of a gang issue through the core with gx = 0. -/
def heldBack (s : State) : Bool :=
  partnerMissing s ||
    match partner s with
    | some d => s.ctx.ident.gx != 0 || !canTry (getCtx s d)
    | none => false

/-- A witness image of the context, or of its partner, is still awaited at c + 5 or later: its check comes first (R236). -/
def imageAwaited (s : State) : Bool :=
  (s.who :: (partner s).toList).any fun c => (coreOf s c.coreNo).waits.any fun w => w.ctx == c &&
    (match w.kind with
     | .load false _ sh _ _ => sh == .wit && decide (issuedAt s w + 5 ≤ (getCtx s c).sc)
     | _ => false)

/-- The context on the port has reached a bundle boundary: a late fault, an interrupt, or the bundle at its pc. -/
def attempt (s : State) : State :=
  let s := { s with frame := Frame.none, ctx := { s.ctx with run := if s.ctx.run = .waiting then .running else s.ctx.run } }
  if heldBack s then withHeader s heldHeader
  else
    match lateAtHead s with
    | some c =>
      if passesOver s then withHeader s issueHeader
      else { takeLate c lateKinds false s with frame := { Frame.none with out := .done } }
    | none =>
      if (pendingIrq s s.who).isSome ∧ getBit s.ctx.status stIE then { takeIrq s.who s with frame := { Frame.none with out := .done } }
      else if imageAwaited s && !passesOver s then stallAll s
      else withHeader s issueHeader

/-! ## Which context issues (R28, R167, R359) -/

/-- A context that wants to issue; WFI ends when an interrupt is pending. -/
def ready (s : State) (c : CtxId) : Bool := canTry (getCtx s c) || ((getCtx s c).run == .waiting && (pendingIrq s c).isSome)

/-- A gang holds a context of the pair of cores that c's core belongs to. -/
def gangOnPair (s : State) (c : CtxId) : Bool :=
  match c with
  | .user k _ => (List.finRange 4).any fun x => (gangMate s (.user k x)).isSome
  | _ => false

/-- The seats that take turns with c, c last: the contexts of its core, and those of both cores of a pair that a gang issues
through, since a gang's bundles are bundles of both (R23, R28, R31). -/
def turns (s : State) (c : CtxId) : List CtxId :=
  match c with
  | .user k _ =>
    if gangOnPair s c then
      let seats := (List.finRange 4).flatMap fun y => [CtxId.user (Fin.ofNat 384 (k.val / 2 * 2)) y, .user (Fin.ofNat 384 (k.val / 2 * 2 + 1)) y]
      (seats.dropWhile (· ≠ c)).drop 1 ++ seats.takeWhile (· ≠ c) ++ [c]
    else roundRobin c
  | c => [c]

/-- Q bundles have issued without a stall through a port that serves c (R28, R393). -/
def spent (s : State) (c : CtxId) : Bool := (seatsOf s c).any fun d => decide ((coreOf s d.coreNo).limit ≤ (coreOf s d.coreNo).quantum)

/-- The contexts that take turns with c, which its port serves, in the order in which they may issue. -/
def portOrderOf (s : State) (c : CtxId) : List CtxId := if spent s c then turns s c else c :: (turns s c).dropLast

def portOrder (s : State) : List CtxId := portOrderOf s s.who

/-- The contexts of other cores, each core in its port's order. -/
def otherPorts (s : State) : List CtxId :=
  let heads := ((allCtx s).map fun e => portOf s e.1).filter fun c => c.coreNo ≠ s.who.coreNo
  (heads.foldl (fun l c => if l.contains c then l else l ++ [c]) []).flatMap (portOrderOf s)

/-- A context that was only tried has not been given issue: the ports and counts of its cores stand as they stood; the context
that the port serves has stalled, so the count restarts (R28, R393). -/
def portsBack (c : CtxId) (s t : State) : State :=
  (seatsOf s c).foldl (fun t d =>
    if portOf s d = d then restartCount d.coreNo t
    else modCore t d.coreNo fun k => { k with port := (coreOf s d.coreNo).port, quantum := (coreOf s d.coreNo).quantum, limit := (coreOf s d.coreNo).limit }) t

/-- The first of these contexts that does not stall; the stalls before it stand. The ports pass to it before its bundle (R467). -/
def tryPorts : List CtxId → State → State × Bool
  | [], s => (s, false)
  | c :: rest, s =>
    if ready s c then
      let t := attempt (giveIssue c s)
      if t.frame.out = .stalled then tryPorts rest (portsBack c s t)
      else ((if (seatsOf s c).all fun d => portOf s d = d then t else attempt (passIssue c s)), true)
    else tryPorts rest s

/-- YIELD passes issue on (R167). -/
def afterYield (s : State) : State :=
  if s.frame.yields then
    match nextOnCore s s.who with
    | some d => if d = s.who then restartCount s.who.coreNo s else passIssue d s
    | none => s
  else s

/-! ## The device's own steps (log 5) -/

/-- A device step that changes the state. -/
def tryEvent (e : Event) (s : State) : Option State :=
  match exec e.op { s with input := e.arg } with
  | .next t =>
    let t := { t with input := s.input }
    if t = s then none else some t
  | _ => none

def firstEvent : List Event → State → Option State
  | [], _ => none
  | e :: rest, s =>
    match tryEvent e s with
    | some t => some t
    | none => firstEvent rest s

def coreEvents (k : Nat) : List Event :=
  let arg : Input := { core := Fin.ofNat 384 k }
  ([.regionFill, .sideLogReplay, .engineOperationStart, .rowGroupCheck, .engineOperationCompletion, .tstDrainStart, .tstRowGroupCompare,
    .tstCommit] : List Instr).map fun i => ⟨i, arg⟩

def clusterEvents (g : Nat) (u : Cluster) : List Event :=
  let arg : Input := { clu := Fin.ofNat 96 g }
  let copies := ((u.copies ++ u.gathers).map (·.id)).flatMap fun id =>
    ([.copyStart, .cpyxAttempt, .copyArrival] : List Instr).map fun i => (⟨i, { arg with num := id }⟩ : Event)
  [⟨.lanternArbitration, arg⟩] ++ copies ++ [⟨.eventRecordPost, arg⟩]

def ctxEvents (s : State) (c : CtxId) (x : Ctx) : List Event :=
  (if (arriving s c).isEmpty then [] else [⟨.resultLanding, { ctx := c }⟩]) ++
    (if x.run = .saving then [⟨.saveAreaWrite, { ctx := c }⟩] else []) ++
    (x.chans.filterMap fun b =>
      match chanOf s b.chan with
      | some ch => if ch.q.isEmpty || ch.claims.isEmpty then none else some ⟨.claimFill, { ctx := c, ch := b.num }⟩
      | none => none)

def stackEvents (n : Fin 8) : List Event := [⟨.dispatch, { die := n }⟩, ⟨.sumpInflation, { die := n }⟩]

/-- What the device does of itself, its engines agreeing and its links quiet. -/
def internalEvents (s : State) : List Event :=
  if s.dev.frozen then []
  else
    ((allCtx s).flatMap fun e => ctxEvents s e.1 e.2) ++ (s.cores.flatMap fun e => coreEvents e.1) ++
      (s.clusters.flatMap fun e => clusterEvents e.1 e.2) ++ ((List.finRange 8).flatMap stackEvents) ++
      (s.tasks.flatMap fun t => if isReplay t.id then [] else
        ([.taskCompletion, .auditReplay, .auditVote] : List Instr).map fun i => (⟨i, { task := BitVec.ofNat 32 t.id }⟩ : Event)) ++
      [⟨.requestDeclareDead, {}⟩, ⟨.requestBringUp, {}⟩, ⟨.requestPcap, {}⟩]

/-- Limits that time alone reaches. -/
def timeouts (s : State) : List Event :=
  if s.dev.frozen then []
  else
    ((allCtx s).flatMap fun e =>
      ([.channelWatchdog, .collectiveTimeout, .preemptionLimit] : List Instr).map fun i => (⟨i, { ctx := e.1 }⟩ : Event)) ++
    (s.tasks.flatMap fun t => if isReplay t.id then [] else
      ([.taskAging, .taskBlocking, .auditPlacementLimit] : List Instr).map fun i => (⟨i, { task := BitVec.ofNat 32 t.id }⟩ : Event)) ++
    (s.dev.drains.map fun d => ⟨.linkDrainRound, { dev := Fin.ofNat 64 d.origin, num := d.epoch }⟩)

/-- The limit that is reached first. -/
def earliest : List Event → State → Option State
  | [], _ => none
  | e :: rest, s =>
    match tryEvent e s, earliest rest s with
    | some t, some u => if t.now ≤ u.now then some t else some u
    | some t, none => some t
    | none, r => r

/-- No context of the port's core can issue: the device moves, then other cores, then time. -/
def elsewhere (s : State) : State :=
  match firstEvent (internalEvents s) s with
  | some t => t
  | none =>
    match tryPorts (otherPorts s) s with
    | (t, true) => afterYield t
    | (t, false) => (earliest (timeouts (switchTo t s.who)) (switchTo t s.who)).getD (switchTo t s.who)

/-- The port issues; when it cannot, another agent moves. -/
def portStep (s : State) : State :=
  match tryPorts (portOrder s) s with
  | (t, true) => afterYield t
  | (t, false) => elsewhere (switchTo t s.who)

/-! ## A step -/

/-- The rows of BIND and CTXSTART that a descriptor or a target chooses; no device steps. -/
def chosenRow (i : Instr) : Bool :=
  match i with
  | .bindFence _ _ | .bindUnfence _ _ | .bindMicrocode _ _ | .bindQuery _ _ | .bindBreak _ _ | .bindWatch _ _ | .bindTrace _ _
  | .bindProfile _ _ | .bindDumpctx _ _ | .bindExtract _ _ | .ctxstartRestore _ _ | .ctxstartControlCore _ _ => true
  | _ => false

def deviceStep (i : Instr) : Bool := (encode i).isNone && !chosenRow i

/-- What a frozen device no longer does (R469). -/
def frozenStops (i : Instr) : Bool :=
  match i with
  | .regionFill | .regionWriteBack | .sideLogReplay | .engineOperationStart | .rowGroupCheck | .engineOperationCompletion
  | .lanternArbitration | .tstDrainStart | .tstRowGroupCompare | .tstCommit | .copyStart | .cpyxAttempt | .copyArrival | .eventRecordPost
  | .claimFill | .resultLanding | .saveAreaWrite | .dispatch | .taskAging | .taskBlocking | .taskCompletion | .auditReplay | .auditVote
  | .auditPlacementLimit | .sumpInflation | .channelWatchdog | .collectiveTimeout | .preemptionLimit | .preemption => true
  | _ => false

/-- The next step of the agenda: a device step with its operands. -/
def agendaStep (e : Event) (s : State) : State :=
  if deviceStep e.op && !(s.dev.frozen && frozenStops e.op) then after (exec e.op { s with input := e.arg }) s else s

/-- A device that is reached may acknowledge a request now, or later (R446). -/
def acknowledge (s : State) : State :=
  if s.dev.outreqs.isEmpty then s
  else modDev s fun d => { d with outreqs := d.outreqs.filter fun r => !(reaches s r.dev && (Config.free s.tick (2 ^ 58 + r.seq)).getLsbD 0) }

/-- A SEND whose channel has room and credit again no longer stalls there (R285, R291). -/
def endSendStall (c : CtxId) (s : State) : State :=
  if (getCtx s c).sendWait.isSome && (sendStalled s (getCtx s c)).isNone then modCtx s c fun x => { x with sendWait := none } else s

/-- Barrier arrivals whose release is done count (R162), other devices acknowledge, and time goes on (R10, R468). -/
def passTime (s t : State) : State :=
  let t := (allCtx (acknowledge t)).foldl (fun u e => endSendStall e.1 (if e.2.arriving.isEmpty then u else settleArrivals e.1 u)) (acknowledge t)
  countCycles s { t with tick := s.tick + 1, now := max s.now t.now + 1 + Config.elapse s.tick, input := {} }

/-- Trace records of the contexts that this step has stopped (R467). -/
def traceStops (s t : State) : State :=
  if s.dies.all fun st => st.trace.ring == 0 then t
  else (allCtx t).foldl (fun u e =>
    if e.2.run = .stopped ∧ (getCtx s e.1).run ≠ .stopped then traceRecord e.1 2 (e.2.cause.toNat % 2 ^ 32) e.2.epc e.2.sc e.2.tval u else u) t

/-- One step of the powered device. -/
def oneStep (s : State) : State :=
  let t := match s.agenda with
    | e :: rest => agendaStep e { s with agenda := rest }
    | [] => portStep s
  passTime s (traceStops s t)

/-! ## An instruction placed where the next step fetches it (log 3) -/

/-- Rows that a core of the system profile turns away: they run in a compute context. -/
def needsUser (slot : Nat) (i : Instr) : Bool :=
  decide (3 ≤ slot ∧ slot ≤ 5) || regionRow i || witnessRow i ||
    (match i with
     | .ldv _ _ _ _ | .ldvs _ _ _ _ _ | .ldvx _ _ _ _ | .ldvb _ _ _ _ | .ldm _ _ _ _ | .ldgv _ _ _ _ | .stv _ _ _ _ | .stvm _ _ _ _ _
     | .stvs _ _ _ _ _ | .stvx _ _ _ _ | .stm _ _ _ _ | .stgv _ _ _ _ | .send _ _ | .recv _ _ | .recvadd _ _ | .recvmax _ _ | .fmtw _
     | .waitk _ => true
     | _ => false)

/-- Where a compute context's code and its three page tables stand: in the raw area of stack 0 past the platform block's fields. -/
def userCode : Nat := rawBase 0 + 0xB000
def userTables : Nat := rawBase 0 + 0xC000

/-- A started compute context (core 0, context 0) with a window of 16 tiles, every feature accepted, and 1 GiB at
0x40000000 mapped to the raw area of stack 0. -/
def userStarted (s : State) : State :=
  let put (a x : Nat) (m : Memory) : Memory := m.writeBytes a (bytesOf 8 x)
  let s := { s with mem := put (userTables + 0x2008) (rawBase 0 + 0x1F3) (put (userTables + 0x1000) (userTables + 0x2001)
    (put userTables (userTables + 0x1001) s.mem)) }
  let s := modDev s fun d => { d with featAck := #v[0x7FF, 0, 0, 0], computeStarted := true }
  let x : Ctx := { Ctx.blank with run := .running, pc := 0x4000B000, ptbase := BitVec.ofNat 64 userTables, tcount := 16, scr := coreBytes }
  switchTo (setCtx s (.user 0 0) x) (.user 0 0)

/-- The bundle of one slot group: its header and its parcels. -/
def oneSlot (slot w : Nat) : List Byte := bytesOf 4 (2 ^ 31 + 2 ^ (23 + slot)) ++ bytesOf (4 * groupLen slot) w

/-- Puts code where the boot ROM is fetched from. -/
def romCode (bs : List Byte) (s : State) : State := { s with rom := s.rom.writeBytes s.ctx.pc.toNat bs }

/-- Levels 0 to l of the loop stack on an iteration that is neither the first nor the last. -/
def inLoop (l : Nat) (s : State) : State :=
  { s with ctx := { s.ctx with loops := List.replicate (l + 1) ⟨1, 3, 0, 0x1000⟩ } }

/-- The bits w, bit 0 lowest in the first parcel, at the next fetch. -/
def placeWord (s : State) (nbits w : Nat) : State :=
  let w := w % 2 ^ nbits
  if flg w 31 then
    match decodeHeader w with
    | some h => romCode (bytesOf 4 w) (if h.p ≠ 0 ∧ h.i ≠ 0 then inLoop h.l.val s else s)
    | none => s
  else
    match tableSlot nbits w with
    | some (n, i) =>
      if needsUser n i then { userStarted s with mem := (userStarted s).mem.writeBytes userCode (oneSlot n w) } else romCode (oneSlot n w) s
    | none => romCode (oneSlot 0 w) s

end Sys2Proof.Machine
end

