-- ==== Sys2Proof/Machine/Step.lean ====
section
/-! DEFINITION. The step of the machine, and where the next step fetches. -/

namespace Sys2Proof.Machine

/-- One step: the next device step of the agenda, or the context on the issue port issues a bundle, or, when it cannot,
another agent moves (R28; log 5). A device without power stops (R481). -/
def step (s : State) : Host.Outcome State Fault Refusal :=
  if s.dev.powered then .next (oneStep s) else .fault .powerRemoved

/-- s with the instruction whose bits are w where step fetches its next instruction (log 3). -/
def State.withFetchWord (s : State) (nbits w : Nat) : State := placeWord s nbits w

end Sys2Proof.Machine
end

