-- ==== Sys2Proof/Safety.lean ====
section
/-! DEFINITION. What counts as a safe run, and the terms in which the statements speak of one instruction: what it waits
for, what it lands, and what it leaves alone. -/

namespace Sys2Proof.Machine

/-! ## Runs -/

/-- The machine goes on from s: its step answers a next state. Only a package without power has none (R481). -/
def SafeStep (s : State) : Prop := ∃ t, step s = .next t

/-- The first n steps from s each answer a next state. -/
def SafeRun : Nat → State → Prop
  | 0, _ => True
  | n + 1, s => ∃ t, step s = .next t ∧ SafeRun n t

/-- The three memories are in their canonical form. -/
abbrev MemoriesWf (s : State) : Prop := s.mem.wf = true ∧ s.spm.wf = true ∧ s.rom.wf = true

/-! ## What an instruction waits for -/

/-- An operation that reads rs and writes ws meets no hazard in debug mode, no interlock and no register whose parity
fails (R53, R56, R431). -/
abbrev Ready (rs ws : List RegName) (s : State) : Prop :=
  (hazardMode s = true → ∀ r ∈ rs ++ ws, r.wired = false → exposed s r = false) ∧
  (∀ r ∈ rs ++ ws, r.wired = false → interlocked s r = false) ∧
  ∀ r ∈ rs, r ∉ s.ctx.badRegs

/-- A compute or control core whose feature 0 is accepted: VA, VB and MX slots run (R100, R118). -/
abbrev Computes (s : State) : Prop := s.who.isSys = false ∧ accepted s 0 = true

/-- A tile name lies in the context's window (R43). -/
abbrev InWindow (s : State) (t : TR) : Prop := t.val < s.ctx.tcount

/-- The scratchpad key that a local address of the issuing core reaches; 0 where it reaches none. -/
def keyAt (s : State) (a : Word) : Nat := match localPlace s.who.coreNo a.toNat with | some p => spmKey p | none => 0

/-- The core whose scratchpad a local address reaches. -/
def coreAt (s : State) (a : Word) : Nat := match localPlace s.who.coreNo a.toNat with | some p => p.1 | none => 0

/-- An n-byte local access at a passes the checks of R169–R172 and R194, meets no watchpoint (R463) and no byte of the
commit buffer (R248). -/
def localOk (s : State) (n align : Nat) (write : Bool) (a : Word) : Bool :=
  a.toNat % align == 0 && (localPlace s.who.coreNo a.toNat).any fun p =>
    decide (p.2 + n ≤ coreBytes) && !(write && (readOnly s p || readOnly s (p.1, p.2 + n - 1))) &&
      (watched s false write n (clusterLocal p)).isNone && !heldByTst s p n

/-- Local accesses of n bytes at these addresses go on at once; a contiguous access stays in one core. -/
abbrev LocalReady (s : State) (contig : Bool) (n align : Nat) (write : Bool) (addrs : List Word) : Prop :=
  addrs.all (localOk s n align write) = true ∧
  (contig = true → ∀ a ∈ addrs, coreAt s a = coreAt s (addrs.headD 0)) ∧
  acquirePending s = false ∧ mustWait s s.who n (addrs.map (keyAt s)) = false

/-- Global accesses of n bytes at these addresses pass the checks of R170–R172 and meet no watchpoint (R463). -/
abbrev GlobalReady (s : State) (n align : Nat) (write : Bool) (addrs : List Word) : Prop :=
  (∀ a ∈ addrs, a.toNat < 2 ^ 56 ∧ a.toNat % align = 0) ∧
  (∀ a ∈ addrs, watched s true write n a.toNat = none) ∧ acquirePending s = false

/-! ## What an instruction lands -/

/-- In t, the bundle of s lands v in r with bound L, unless r ignores writes (R39, R52). -/
abbrev Landed (s t : State) (r : RegName) (v : RegVal) (L : Nat) : Prop :=
  r.wired = true ∨ ∃ l ∈ t.ctx.lands, l.reg = r ∧ l.val = v ∧ l.issued = s.ctx.sc ∧
    (exposed s r = false → written s r = false → l.due = s.ctx.sc + L ∧ l.spoiled = false)

/-- The post-increment of R134 lands when the form asks for it. -/
abbrev Stepped (s t : State) (post : Bool) (a : AR) (n : Nat) : Prop :=
  post = true → Landed s t (.a a) (.base (rdBase s a + BitVec.ofNat 64 n)) 1

/-! ## What an instruction leaves alone -/

/-- Every byte of global memory, of the scratchpads and of the boot ROM reads as before. -/
abbrev SameBytes (s t : State) : Prop :=
  ∀ a, t.mem.read a = s.mem.read a ∧ t.spm.read a = s.spm.read a ∧ t.rom.read a = s.rom.read a

/-- The register files hold what they held. -/
abbrev SameFiles (s t : State) : Prop :=
  t.ctx.s = s.ctx.s ∧ t.ctx.a = s.ctx.a ∧ t.ctx.p = s.ctx.p ∧ t.ctx.b = s.ctx.b ∧ t.ctx.v = s.ctx.v ∧ t.ctx.m = s.ctx.m ∧
    t.ctx.w = s.ctx.w

/-- The status register, the registers that a trap writes, the format, the seeds, the tokens, the loop levels and the
schedule count hold what they held. -/
abbrev SameSpecials (s t : State) : Prop :=
  t.ctx.status = s.ctx.status ∧ t.ctx.cause = s.ctx.cause ∧ t.ctx.epc = s.ctx.epc ∧ t.ctx.tval = s.ctx.tval ∧
    t.ctx.vbase = s.ctx.vbase ∧ t.ctx.ptbase = s.ctx.ptbase ∧ t.ctx.asid = s.ctx.asid ∧ t.ctx.fmtOld = s.ctx.fmtOld ∧
    t.ctx.fmtNew = s.ctx.fmtNew ∧ t.ctx.seeds = s.ctx.seeds ∧ t.ctx.depth = s.ctx.depth ∧ t.ctx.k = s.ctx.k ∧
    t.ctx.loops = s.ctx.loops ∧ t.ctx.sc = s.ctx.sc

/-- No landing of t names another register than those of rs but one that s had. -/
abbrev LandsOnly (rs : List RegName) (s t : State) : Prop := ∀ l ∈ t.ctx.lands, l.reg ∉ rs → l ∈ s.ctx.lands

/-- Nothing but the landings of the context (and the frame's note of a second write, MODEL) differs. -/
abbrev OnlyLands (s t : State) : Prop :=
  t = { s with ctx := { s.ctx with lands := t.ctx.lands }, frame := { s.frame with dup := t.frame.dup } }

/-- No landing of t names another register than those of rs but one that s had; a landing that bears the fresh number of
this access is its own. -/
abbrev LandsBut (rs : List RegName) (s t : State) : Prop :=
  ∀ l ∈ t.ctx.lands, l.reg ∉ rs → l.id ≠ fresh s → l ∈ s.ctx.lands

/-- What a load or a store leaves alone: registers, special registers, other landings, the other memories. -/
abbrev MemOpLeaves (rs : List RegName) (s t : State) : Prop :=
  t.who = s.who ∧ SameFiles s t ∧ SameSpecials s t ∧ LandsBut rs s t ∧ t.mem = s.mem ∧ t.rom = s.rom

/-! ## Stored bytes -/

/-- The low n bytes of a number, low byte first. -/
def leBytes (n x : Nat) : List Byte := (List.range n).map fun k => BitVec.ofNat 8 (x / 2 ^ (8 * k))

/-- The byte that the last of these pieces to cover k stores there. -/
def pieceByte (ps : List (Nat × List Byte)) (k : Nat) : Option Byte :=
  ps.foldl (fun r e => if e.1 ≤ k ∧ k < e.1 + e.2.length then some (e.2.getD (k - e.1) 0) else r) none

/-- The scratchpads of t hold the pieces, and every other byte reads as in s. -/
abbrev SpmHolds (ps : List (Nat × List Byte)) (s t : State) : Prop :=
  ∀ k, t.spm.read k = (pieceByte ps k).getD (s.spm.read k)

end Sys2Proof.Machine
end

