-- ==== Sys2Proof/Certificates/Slice0/Obligations.lean ====
section
/-! DEFINITION. The statements for the provers. Each says which rules of spec/ it formalises; OBLIGATIONS.json lists
them. -/

open Sys2Proof Sys2Proof.Machine

/-! ## The SC slot -/

/-- R119, R120, R122, R123: every binary function of ALU lands its result in d, with bound 1, 3 (MUL group) or
18 (DIV group). Results are said in integer arithmetic. -/
def Obligations.ScalarBinaryResults : Prop :=
  ∀ (s : State) (d a b : SR), Ready [.s a, .s b] [.s d] s →
    let x := rdS s a
    let y := rdS s b
    let k := y.toNat % 64
    let gives (i : Instr) (v : Word) (L : Nat) : Prop := exec i s = .next (land (.s d) (.word v) L s)
    gives (.add d a b) (BitVec.ofNat 64 (x.toNat + y.toNat)) 1 ∧
    gives (.sub d a b) (BitVec.ofInt 64 (x.toInt - y.toInt)) 1 ∧
    gives (.andS d a b) (BitVec.ofNat 64 (x.toNat &&& y.toNat)) 1 ∧
    gives (.orS d a b) (BitVec.ofNat 64 (x.toNat ||| y.toNat)) 1 ∧
    gives (.xorS d a b) (BitVec.ofNat 64 (x.toNat ^^^ y.toNat)) 1 ∧
    gives (.andn d a b) (BitVec.ofNat 64 (x.toNat &&& (2 ^ 64 - 1 - y.toNat))) 1 ∧
    gives (.shl d a b) (BitVec.ofNat 64 (x.toNat * 2 ^ k)) 1 ∧
    gives (.shr d a b) (BitVec.ofNat 64 (x.toNat / 2 ^ k)) 1 ∧
    gives (.sha d a b) (BitVec.ofInt 64 (x.toInt / (2 ^ k : Nat))) 1 ∧
    gives (.rotl d a b) (BitVec.ofNat 64 (x.toNat * 2 ^ k % 2 ^ 64 + x.toNat / 2 ^ (64 - k))) 1 ∧
    gives (.minS d a b) (BitVec.ofInt 64 (min x.toInt y.toInt)) 1 ∧
    gives (.maxS d a b) (BitVec.ofInt 64 (max x.toInt y.toInt)) 1 ∧
    gives (.minz d a b) (BitVec.ofNat 64 (min x.toNat y.toNat)) 1 ∧
    gives (.maxz d a b) (BitVec.ofNat 64 (max x.toNat y.toNat)) 1 ∧
    gives (.mul d a b) (BitVec.ofNat 64 (x.toNat * y.toNat)) 3 ∧
    gives (.mulh d a b) (BitVec.ofInt 64 (x.toInt * y.toInt / 2 ^ 64)) 3 ∧
    gives (.mulhz d a b) (BitVec.ofNat 64 (x.toNat * y.toNat / 2 ^ 64)) 3 ∧
    gives (.divS d a b) (if y = 0 then BitVec.ofInt 64 (-1) else BitVec.ofInt 64 (x.toInt.tdiv y.toInt)) 18 ∧
    gives (.divz d a b) (if y = 0 then BitVec.ofInt 64 (-1) else BitVec.ofNat 64 (x.toNat / y.toNat)) 18 ∧
    gives (.remS d a b) (if y = 0 then x else BitVec.ofInt 64 (x.toInt.tmod y.toInt)) 18 ∧
    gives (.remz d a b) (if y = 0 then x else BitVec.ofNat 64 (x.toNat % y.toNat)) 18

/-- (a) R122, R124: the unary functions of ALU land their results with bound 1. (b) R125, R126: the immediate forms;
LIS reads d as a source. -/
def Obligations.ScalarUnaryAndImmediateResults : Prop :=
  (∀ (s : State) (d a : SR), Ready [.s a] [.s d] s →
    let x := rdS s a
    let gives (i : Instr) (v : Word) : Prop := exec i s = .next (land (.s d) (.word v) 1 s)
    (∃ n : Nat, gives (.clz d a) (BitVec.ofNat 64 n) ∧ (x = 0 → n = 64) ∧
      (x ≠ 0 → n < 64 ∧ x.toNat < 2 ^ (64 - n) ∧ 2 ^ (63 - n) ≤ x.toNat)) ∧
    (∃ n : Nat, gives (.ctz d a) (BitVec.ofNat 64 n) ∧ (x = 0 → n = 64) ∧
      (x ≠ 0 → x.toNat % 2 ^ n = 0 ∧ x.toNat / 2 ^ n % 2 = 1)) ∧
    gives (.popc d a) (BitVec.ofNat 64 ((List.range 64).map fun i => x.toNat / 2 ^ i % 2).sum) ∧
    gives (.sextb d a) (BitVec.ofInt 64 (x.truncate 8).toInt) ∧
    gives (.sexth d a) (BitVec.ofInt 64 (x.truncate 16).toInt) ∧
    gives (.sextw d a) (BitVec.ofInt 64 (x.truncate 32).toInt)) ∧
  (∀ (s : State) (d a : SR) (imm : BitVec 12) (n : BitVec 6) (c : BitVec 17),
    let x := rdS s a
    let gives (i : Instr) (v : Word) : Prop := exec i s = .next (land (.s d) (.word v) 1 s)
    (Ready [.s a] [.s d] s →
      gives (.addi d a imm) (BitVec.ofInt 64 (x.toInt + imm.toInt)) ∧
      gives (.andi d a imm) (x &&& BitVec.ofInt 64 imm.toInt) ∧
      gives (.ori d a imm) (x ||| BitVec.ofInt 64 imm.toInt) ∧
      gives (.xori d a imm) (x ^^^ BitVec.ofInt 64 imm.toInt) ∧
      gives (.shli d a n) (BitVec.ofNat 64 (x.toNat * 2 ^ n.toNat)) ∧
      gives (.shri d a n) (BitVec.ofNat 64 (x.toNat / 2 ^ n.toNat)) ∧
      gives (.shai d a n) (BitVec.ofInt 64 (x.toInt / (2 ^ n.toNat : Nat)))) ∧
    (Ready [] [.s d] s → gives (.li d c) (BitVec.ofInt 64 c.toInt)) ∧
    (Ready [.s d] [.s d] s → gives (.lis d c) (BitVec.ofNat 64 ((rdS s d).toNat * 2 ^ 17 + c.toNat))))

/-- R127, R129, R130: comparisons, predicate logic and SEL. -/
def Obligations.ComparisonsAndPredicates : Prop :=
  ∀ (s : State) (d a b : SR) (pd pa pb : PR) (imm : BitVec 10),
    let truth (cond : Fin 8) (x y : Word) : Prop :=
      match cond with
      | 0 => x = y
      | 1 => x ≠ y
      | 2 => x.toInt < y.toInt
      | 3 => x.toNat < y.toNat
      | 4 => x.toInt ≤ y.toInt
      | 5 => x.toNat ≤ y.toNat
      | 6 => y.toInt < x.toInt
      | 7 => y.toNat < x.toNat
    let flags (i : Instr) (f : Bool) : Prop := exec i s = .next (land (.p pd) (.flag f) 1 s)
    let p := rdP s pa
    let q := rdP s pb
    (Ready [.s a, .s b] [.p pd] s → ∀ cond, ∃ f, flags (.cmp cond pd a b) f ∧ (f = true ↔ truth cond (rdS s a) (rdS s b))) ∧
    (Ready [.s a] [.p pd] s → ∀ cond, ∃ f, flags (.cmpi cond pd a imm) f ∧
      (f = true ↔ truth cond (rdS s a) (BitVec.ofInt 64 imm.toInt))) ∧
    (Ready [.p pa, .p pb] [.p pd] s →
      flags (.pand pd pa pb) (p && q) ∧ flags (.por pd pa pb) (p || q) ∧ flags (.pxor pd pa pb) (p != q) ∧
      flags (.pandn pd pa pb) (p && !q)) ∧
    (Ready [.p pa] [.p pd] s → flags (.pnot pd pa) (!p) ∧ flags (.pmov pd pa) p) ∧
    (Ready [.s a, .s b, .p pa] [.s d] s →
      exec (.sel d a b pa) s = .next (land (.s d) (.word (if p = true then rdS s a else rdS s b)) 1 s))

/-- (a) R131, R132, R133, R139, R140: address registers change in their base or in one stride only, and branch
targets are bundle-relative or a base. (b) R18, R48, R136: MOVX reads the identities (a system core's stack and device are
where it stands), the cycle count of the core, from an origin of its own that the model leaves free (log 65), the
schedule count, the lane count and the loop indices; an inactive level reads 0. -/
def Obligations.AddressRegistersAndSpecialValues : Prop :=
  (∀ (s : State) (d x : SR) (ad aa : AR) (b : BR) (imm : BitVec 12) (st : BitVec 15) (off : BitVec 19) (level : Fin 8),
    let base (i : Instr) (v : Word) : Prop := exec i s = .next (land (.a ad) (.base v) 1 s)
    (Ready [.a aa, .s x] [.a ad] s →
      base (.aadd ad aa x) (BitVec.ofNat 64 ((rdBase s aa).toNat + (rdS s x).toNat)) ∧
      base (.asub ad aa x) (BitVec.ofInt 64 ((rdBase s aa).toInt - (rdS s x).toInt))) ∧
    (Ready [.s x] [.a ad] s → base (.amovs ad x) (rdS s x)) ∧
    (Ready [.a aa] [.s d] s → exec (.smova d aa) s = .next (land (.s d) (.word (rdBase s aa)) 1 s)) ∧
    (Ready [.a aa] [.a ad] s → base (.aaddi ad aa imm) (BitVec.ofInt 64 ((rdBase s aa).toInt + imm.toInt))) ∧
    (Ready [] [.a ad] s → ∀ h : level.val < 6,
      exec (.astride ad level st) s = .next (land (.a ad) (.stride ⟨level.val, h⟩ st) 1 s)) ∧
    (6 ≤ level.val → exec (.astride ad level st) s = trapAt 4 0x02 s.frame.parcel s) ∧
    (Ready [] [.b b] s →
      exec (.btgt b off) s = .next (land (.b b) (.word (BitVec.ofInt 64 (s.frame.base.toInt + 4 * off.toInt))) 1 s)) ∧
    (Ready [.a aa] [.b b] s → exec (.btgta b aa) s = .next (land (.b b) (.word (rdBase s aa)) 1 s))) ∧
  (∀ (s : State) (d : SR), Ready [] [.s d] s →
    let i := s.ctx.ident
    let place : Nat × Nat := match s.who with | .sys n _ => (n.val, s.dev.no) | _ => (i.die, i.dev)
    let reads (sel : Fin 16) (n : Nat) : Prop := exec (.movx d sel) s = .next (land (.s d) (.word (BitVec.ofNat 64 n)) 1 s)
    reads 0 i.core ∧ reads 1 i.clu ∧ reads 2 place.1 ∧ reads 3 place.2 ∧ reads 4 i.ctx ∧ reads 5 i.gang ∧ reads 6 i.gx ∧
    reads 7 (s.now + Config.cycOrigin s.who.coreNo - (coreOf s s.who.coreNo).cyc0) ∧ reads 8 s.ctx.sc ∧ reads 9 64 ∧
    ∀ k : Fin 6, reads ⟨10 + k.val, by omega⟩ (match s.ctx.loops[k.val]? with | some v => v.index.toNat | none => 0))

/-- R73, R128, R137, R138: FOP rounds the exact result once to FP32, clears d[63:32] and counts the events of R138; FCMP
counts none. numAdd, numMul, numDiv and numSqrt are the exact operations (Exact, R12; the specials of R68 and R73), and fop1 and fop2 round them. -/
def Obligations.ScalarFloatResults : Prop :=
  ∀ (s : State) (d a b : SR) (pd : PR) (cond : Fin 8),
    let x := (rdS s a).toNat % 2 ^ 32
    let y := (rdS s b).toNat % 2 ^ 32
    let counts (i : Instr) (r : Coded) (L : Nat) : Prop :=
      r.1 < 2 ^ 32 ∧ exec i s = .next (countMine r.2 (land (.s d) (.word (BitVec.ofNat 64 r.1)) L s))
    (Ready [.s a, .s b] [.s d] s →
      counts (.fadd d a b) (fop2 .f32 numAdd x y) 4 ∧
      counts (.fsub d a b) (fop2 .f32 (fun u v => numAdd u v.neg) x y) 4 ∧
      counts (.fmul d a b) (fop2 .f32 numMul x y) 4 ∧
      counts (.fdiv d a b) (fop2 .f32 numDiv x y) 12 ∧
      counts (.fmin d a b) (fminmax .f32 false x y, []) 4 ∧
      counts (.fmax d a b) (fminmax .f32 true x y, []) 4) ∧
    (Ready [.s a] [.s d] s →
      counts (.fsqrt d a) (fop1 .f32 numSqrt x) 12 ∧
      counts (.fcvtif d a) ((roundF .f32 .rne 0 (numOfInt (rdS s a).toInt)).1, []) 4 ∧
      exec (.fcvtfi d a) s =
        (let r := convInt 64 true .rtz 0 (decodeF .f32 x)
         .next (countMine r.2 (land (.s d) (.word (BitVec.ofNat 64 r.1)) 4 s)))) ∧
    (Ready [.s a, .s b] [.p pd] s →
      exec (.fcmp cond pd a b) s = .next (land (.p pd) (.flag (fcond cond.val (decodeF .f32 x) (decodeF .f32 y))) 1 s))

/-! ## Registers and landings -/

/-- (a) R38, R39: s0 reads zero, p0 true and m0 all ones, and a write to one of them changes nothing. (b) R54, R104:
a write inside the bound of an earlier write of its register, or a second write by its bundle, leaves every landing
of that register spoiled, with the later of the bounds. (c) R52, R103: a scalar result with bound L that meets no
other write of its register is not seen by its own bundle, is unpredictable inside its bound, and is the register's
value once the bound has elapsed. -/
def Obligations.RegisterWritesAndBounds : Prop :=
  (∀ (s : State) (v : RegVal) (L : Nat),
    rdS s 0 = 0 ∧ rdP s 0 = true ∧ rdM s 0 = BitVec.ofInt 64 (-1) ∧
    land (.s 0) v L s = s ∧ land (.p 0) v L s = s ∧ land (.m 0) v L s = s) ∧
  (∀ (s : State) (r : RegName) (v : RegVal) (L : Nat), r.wired = false → (exposed s r = true ∨ written s r = true) →
    let t := land r v L s
    (∀ l ∈ t.ctx.lands, l.reg = r → l.spoiled = true) ∧
    ∃ l ∈ t.ctx.lands, l.reg = r ∧ l.issued = s.ctx.sc ∧ s.ctx.sc + L ≤ l.due ∧ ∀ k ∈ s.ctx.lands, k.reg = r → k.due ≤ l.due) ∧
  (∀ (s : State) (d : SR) (v : Word) (L n : Nat), d ≠ 0 → 0 < L → (∀ l ∈ s.ctx.lands, l.reg ≠ .s d) →
    let t := land (.s d) (.word v) L s
    let later (k : Nat) : State := { t with ctx := { t.ctx with sc := s.ctx.sc + k } }
    rdS t d = rdS s d ∧
    (0 < n → n < L → rdS (later n) d = freeAt (later n) (.s d) 0) ∧
    (L ≤ n → (settle (later n) (later n).ctx).s[d.val] = v))

/-- R119: what the SC instructions other than FOP change: nothing but the landings of their destination. Every other
register, the status and the trap registers, and every byte of memory stay. -/
def Obligations.ScalarFrame : Prop :=
  ∀ (s : State) (d a b : SR) (pd pa pb : PR) (ad aa : AR) (r : BR) (i12 : BitVec 12) (i6 : BitVec 6) (i17 : BitVec 17)
    (i10 : BitVec 10) (i15 : BitVec 15) (i19 : BitVec 19) (cond level : Fin 8) (sel : Fin 16),
    let keeps (r : RegName) (is : List Instr) : Prop := ∀ i ∈ is, ∀ t, exec i s = .next t → t.frame.out = .going →
      OnlyLands s t ∧ LandsOnly [r] s t ∧ SameBytes s t
    keeps (.s d) [.add d a b, .sub d a b, .andS d a b, .orS d a b, .xorS d a b, .andn d a b, .shl d a b, .shr d a b,
      .sha d a b, .rotl d a b, .minS d a b, .maxS d a b, .minz d a b, .maxz d a b, .mul d a b, .mulh d a b,
      .mulhz d a b, .divS d a b, .divz d a b, .remS d a b, .remz d a b, .clz d a, .ctz d a, .popc d a, .sextb d a,
      .sexth d a, .sextw d a, .addi d a i12, .andi d a i12, .ori d a i12, .xori d a i12, .shli d a i6, .shri d a i6,
      .shai d a i6, .li d i17, .lis d i17, .sel d a b pa, .smova d aa, .movx d sel] ∧
    keeps (.p pd) [.cmp cond pd a b, .cmpi cond pd a i10, .fcmp cond pd a b, .pand pd pa pb, .por pd pa pb,
      .pxor pd pa pb, .pandn pd pa pb, .pnot pd pa, .pmov pd pa] ∧
    keeps (.a ad) [.aadd ad aa a, .asub ad aa a, .amovs ad a, .aaddi ad aa i12, .astride ad level i15] ∧
    keeps (.b r) [.btgt r i19, .btgta r aa]

/-! ## Taking an exception and returning from one -/

/-- (a) R55, R360: a trap of a compute context lands its results and keeps their bounds, writes its frame, sets STOP, leaves
its mode alone and posts a kind-3 record that holds SYS_EPC and the cause. (b) R360: with TF set a trap of a system-profile context is a double
trap: its core halts, unless it is the core that the panic restarts. -/
def Obligations.TrapsThatStop : Prop :=
  (∀ (s : State) (k : Fin 384) (x : Fin 4) (epc cause tval : Word), s.who = .user k x →
    let t := takeTrap s.who epc cause tval s
    t.who = s.who ∧ t.ctx.epc = epc ∧ t.ctx.cause = cause ∧ t.ctx.tval = tval ∧ t.ctx.run = .stopped ∧
    t.ctx.status = (s.ctx.status ||| 32) ∧ (∀ l ∈ t.ctx.lands, l.shown = l.ready ∧ (l.ready = true → s.ctx.sc < l.due)) ∧
    (clusterOf t s.who.cluster).posting = (clusterOf s s.who.cluster).posting ++
      [⟨epc, s.ctx.task, k.val / 4, k.val % 4 + 4 * x.val, 3, cause.truncate 8, 0⟩] ∧
    t.mem = s.mem ∧ t.spm = s.spm) ∧
  (∀ (s : State) (epc cause tval : Word), s.who.isSys = true → getBit s.ctx.status stTF = true →
    s.who ≠ .sys (lowestStack s) 0 →
    let t := takeTrap s.who epc cause tval s
    t.ctx.run = .halted ∧ t.ctx.epc = epc ∧ t.ctx.cause = cause ∧ t.ctx.tval = tval ∧ t.dev.frozen = true)

/-- R359, R360: a trap of a system-profile context whose TF is clear enters its handler at SYS_VBASE in supervisor mode
with interrupts off, and ERET then restores the mode and the interrupt enable, clears TF and goes on at SYS_EPC. -/
def Obligations.HandlerEntryAndReturn : Prop :=
  ∀ (s : State) (epc cause tval : Word), s.who.isSys = true → getBit s.ctx.status stTF = false →
    let t := takeTrap s.who epc cause tval s
    t.ctx.epc = epc ∧ t.ctx.cause = cause ∧ t.ctx.tval = tval ∧ t.ctx.pc = s.ctx.vbase ∧ t.ctx.run = .running ∧
    getBit t.ctx.status stMODE = true ∧ getBit t.ctx.status stIE = false ∧ getBit t.ctx.status stTF = true ∧
    getBit t.ctx.status stPMODE = getBit s.ctx.status stMODE ∧ getBit t.ctx.status stPIE = getBit s.ctx.status stIE ∧
    ∃ u, exec .eret t = .next u ∧ u.frame.next = epc ∧ u.frame.transfer = true ∧
      getBit u.ctx.status stMODE = getBit s.ctx.status stMODE ∧ getBit u.ctx.status stIE = getBit s.ctx.status stIE ∧
      getBit u.ctx.status stTF = false

/-- (a) R102: a failing check is precise. SYS_EPC holds the bundle's address, the cause its code and slot, the
schedule count does not advance and memory stays; only a system-profile context with TF clear is asked about, and a
compute context. (b) R53, R56, R431: an operation whose registers are not ready is not made: a hazard in debug mode
traps, an interlocked register stalls the bundle, and a register whose parity fails traps as poison consumed. -/
def Obligations.ChecksAndUnreadyOperands : Prop :=
  (∀ (s : State) (rank : Nat) (code : BitVec 8) (tval : Word),
    (s.who.isSys = false ∨ getBit s.ctx.status stTF = false) →
    ∃ t, trapAt rank code tval s = .next t ∧ t.frame.out = .trapped rank ∧ t.ctx.epc = s.frame.base ∧ t.ctx.tval = tval ∧
      t.ctx.sc = s.ctx.sc ∧ t.ctx.cause.truncate 8 = code ∧ getBit t.ctx.cause 19 = true ∧
      bitsAt t.ctx.cause.toNat 16 3 = s.frame.slot % 8 ∧ SameBytes s t) ∧
  (∀ (s : State) (rs ws : List RegName) (k : State → Res),
    (hazardMode s = true → (∃ r ∈ rs ++ ws, r.wired = false ∧ exposed s r = true) →
      ∃ r ∈ rs ++ ws, r.wired = false ∧ exposed s r = true ∧ guardRegs rs ws s k = trapAt 11 0x14 (regTval r) s) ∧
    ((hazardMode s = true → ∀ r ∈ rs ++ ws, r.wired = false → exposed s r = false) →
      ((∃ r ∈ rs ++ ws, r.wired = false ∧ interlocked s r = true) → guardRegs rs ws s k = stall s) ∧
      ((∀ r ∈ rs ++ ws, r.wired = false → interlocked s r = false) → (∃ r ∈ rs, r ∈ s.ctx.badRegs) →
        ∃ r ∈ rs, r ∈ s.ctx.badRegs ∧ guardRegs rs ws s k = trapAt 12 0x0D (regTval r) s)))

/-! ## The LD and ST slots -/

/-- (a) R134, R169: an effective address is the base, plus each active level's index times its stride, plus the
offset, and a local address reaches its own core below 8 MiB and a core of its cluster from 0x02000000 on. (b) R174,
R179: a scalar load of the scratchpad lands its bytes, extended by its form, with bound 4, steps its base, and
changes nothing else. (c) R187: an LDAQ of scope below DIE reads the scratchpad and acquires what a release on that
word has published. -/
def Obligations.AddressesAndScalarLoads : Prop :=
  (∀ (s : State) (a : AR) (o x : Word),
    let index (l : Fin 6) : Int := match s.ctx.loops[l.val]? with | some v => v.index.toInt | none => 0
    ea s a o = BitVec.ofInt 64 ((rdBase s a).toInt + ((List.finRange 6).map fun l => index l * (rdStride s a l).toInt).sum + o.toInt) ∧
    ∀ own : Nat,
      (x.toNat < 0x800000 → localPlace own x.toNat = some (own, x.toNat)) ∧
      (∀ c p, c < 4 → p < 0x800000 → x.toNat = 0x02000000 + c * 0x800000 + p → localPlace own x.toNat = some (own / 4 * 4 + c, p)) ∧
      (0x800000 ≤ x.toNat → (x.toNat < 0x02000000 ∨ 0x04000000 ≤ x.toNat) → localPlace own x.toNat = none)) ∧
  (∀ (s : State) (d : SR) (a : AR) (post : Bool) (off : BitVec 12), s.who.isSys = false → Ready [.a a] (.s d :: postReg post a) s →
    let loads (n : Nat) (i : Instr) (v : Nat → Word) : Prop :=
      let addr := ea s a (offset off n)
      LocalReady s false n n false [addr] → spmPoisoned s (keyAt s addr) n = false →
      ∃ t, exec i s = .next t ∧ Landed s t (.s d) (.word (v (s.spm.readNat (keyAt s addr) n))) 4 ∧ Stepped s t post a n ∧
        t.spm = s.spm ∧ MemOpLeaves (.s d :: postReg post a) s t
    loads 1 (.ldb d a post off) (fun x => BitVec.ofInt 64 (BitVec.ofNat 8 x).toInt) ∧
    loads 1 (.ldbz d a post off) (fun x => BitVec.ofNat 64 x) ∧
    loads 2 (.ldh d a post off) (fun x => BitVec.ofInt 64 (BitVec.ofNat 16 x).toInt) ∧
    loads 2 (.ldhz d a post off) (fun x => BitVec.ofNat 64 x) ∧
    loads 4 (.ldw d a post off) (fun x => BitVec.ofInt 64 (BitVec.ofNat 32 x).toInt) ∧
    loads 4 (.ldwz d a post off) (fun x => BitVec.ofNat 64 x) ∧
    loads 8 (.ldd d a post off) (fun x => BitVec.ofNat 64 x)) ∧
  (∀ (s : State) (d : SR) (a : AR) (size scope : Fin 8), s.who.isSys = false → Ready [.a a] [.s d] s → scope.val < 3 →
    ∀ e ∈ ([(4, 4, true), (5, 4, false), (6, 8, true)] : List (Nat × Nat × Bool)), size.val = e.1 →
      let addr := ea s a 0
      let k := keyAt s addr
      let x := s.spm.readNat k e.2.1
      LocalReady s false e.2.1 e.2.1 false [addr] → spmPoisoned s k e.2.1 = false →
      ∃ t, exec (.ldaq d a size scope) s = .next t ∧
        Landed s t (.s d) (.word (if e.2.2 then BitVec.ofInt 64 (BitVec.ofNat (8 * e.2.1) x).toInt else BitVec.ofNat 64 x)) 4 ∧
        t.ctx.clock = (acquireWord s.who scope.val (localWord k) e.2.1 s).ctx.clock ∧ t.spm = s.spm ∧ MemOpLeaves [.s d] s t)

/-- (a) R175, R176, R178: vector and mask loads of the scratchpad: lane i holds the word at its address. (b) R178,
R235, R236: LDWT lands the entries and the tag of a good image; a bad image leaves V = 0 and a fault 0x0E that waits
five schedule cycles. -/
def Obligations.VectorAndWitnessLoads : Prop :=
  (∀ (s : State) (d vi : VR) (dm : MR) (a : AR) (x : SR) (post : Bool) (off : BitVec 12) (off7 : BitVec 7) (sc : Fin 4),
    s.who.isSys = false →
    let word (addr : Word) : Lane := BitVec.ofNat 32 (s.spm.readNat (keyAt s addr) 4)
    let loads (i : Instr) (contig : Bool) (step : Bool) (r : RegName) (n : Nat) (addrs : List Word) (v : RegVal) (L bytes : Nat) : Prop :=
      LocalReady s contig n n false addrs → (∀ w ∈ addrs, spmPoisoned s (keyAt s w) n = false) →
      ∃ t, exec i s = .next t ∧ Landed s t r v L ∧ Stepped s t step a bytes ∧ t.spm = s.spm ∧ MemOpLeaves (r :: postReg step a) s t
    let lanes (at_ : Fin 64 → Word) : List Word := (List.finRange 64).map at_
    (Ready [.a a] (.v d :: postReg post a) s →
      (let at_ (i : Fin 64) : Word := ea s a (offset off 256) + BitVec.ofNat 64 (4 * i.val)
       loads (.ldv d a post off) true post (.v d) 4 (lanes at_) (.vec (Vector.ofFn fun i => word (at_ i))) 5 256) ∧
      (let at_ : Word := ea s a (offset off 4)
       loads (.ldvb d a post off) true post (.v d) 4 [at_] (.vec (Vector.replicate 64 (word at_))) 5 4)) ∧
    (Ready [.a a, .s x] (.v d :: postReg post a) s →
      let at_ (i : Fin 64) : Word := ea s a (offset off7 256) + BitVec.ofNat 64 i.val * rdS s x
      loads (.ldvs d a post x off7) false post (.v d) 4 (lanes at_) (.vec (Vector.ofFn fun i => word (at_ i))) 5 256) ∧
    (Ready [.a a, .v vi] [.v d] s →
      let at_ (i : Fin 64) : Word := ea s a 0 + BitVec.ofNat 64 ((rdV s vi)[i].toNat * 2 ^ sc.val)
      loads (.ldvx d a vi sc) false false (.v d) 4 (lanes at_) (.vec (Vector.ofFn fun i => word (at_ i))) 5 0) ∧
    (Ready [.a a] (.m dm :: postReg post a) s →
      let at_ : Word := ea s a (offset off 8)
      loads (.ldm dm a post off) true post (.m dm) 8 [at_] (.word (BitVec.ofNat 64 (s.spm.readNat (keyAt s at_) 8))) 4 8)) ∧
  (∀ (s : State) (d : WR) (a : AR) (post : Bool) (off : BitVec 12), s.who.isSys = false → accepted s 4 = true →
    Ready [.a a] (.w d :: postReg post a) s →
    let addr := ea s a (offset off 8)
    let k := keyAt s addr
    let tag := s.spm.readNat (k + 128) 4
    let chk := (imageSum (s.spm.readBytes k 132)).toNat
    let good : Prop := s.spm.readNat (k + 132) 4 = chk ∧ tag < 2 ^ 28 ∧
      (tag / 2 ^ 16 % 2 = 1 → 1 ≤ tag / 2 ^ 24 ∧ tag / 2 ^ 24 ≤ 7)
    LocalReady s true 136 8 false [addr] → spmPoisoned s k 136 = false →
    (good → ∃ t, exec (.ldwt d a post off) s = .next t ∧
      Landed s t (.w d) (.wit ⟨Vector.ofFn fun i => BitVec.ofNat 16 (s.spm.readNat (k + 2 * i.val) 2), BitVec.ofNat 32 tag⟩) 5 ∧
      Stepped s t post a 136 ∧ t.ctx.late = s.ctx.late ∧ t.spm = s.spm ∧ MemOpLeaves (.w d :: postReg post a) s t) ∧
    (¬ good → ∃ t w, exec (.ldwt d a post off) s = .next t ∧ Landed s t (.w d) (.wit w) 5 ∧ w.tag.getLsbD 16 = false ∧
      t.ctx.late = s.ctx.late ++ [⟨.image, 0x0E, addr, s.ctx.sc + 5, none⟩] ∧ t.spm = s.spm ∧ MemOpLeaves (.w d :: postReg post a) s t))

/-- (a) R174–R178, R235: a store of the scratchpad makes its bytes, low byte first, and no other; of lanes that share
a byte the highest remains. (b) R187: an STRL of scope below DIE stores to the scratchpad when the context's earlier
stores are made. -/
def Obligations.LocalStoresAndReleases : Prop :=
  (∀ (s : State) (x : SR) (v vi : VR) (m : MR) (w : WR) (a : AR) (post : Bool) (off : BitVec 12) (off9 : BitVec 9) (off7 : BitVec 7)
    (sc : Fin 4), s.who.isSys = false → s.spm.wf = true →
    let stores (i : Instr) (contig : Bool) (step : Bool) (n align : Nat) (ps : List (Word × List Byte)) (bytes : Nat) : Prop :=
      LocalReady s contig n align true (ps.map (·.1)) →
      ∃ t, exec i s = .next t ∧ SpmHolds (ps.map fun e => (keyAt s e.1, e.2)) s t ∧ Stepped s t step a bytes ∧
        MemOpLeaves (postReg step a) s t
    let scalar (i : Instr) (n : Nat) : Prop := stores i false post n n [(ea s a (offset off n), leBytes n (rdS s x).toNat)] n
    let lane (e : Word) (at_ : Fin 64 → Word) (i : Fin 64) : Word × List Byte := (e + at_ i, leBytes 4 (rdV s v)[i].toNat)
    let contig (i : Fin 64) : Word := BitVec.ofNat 64 (4 * i.val)
    (Ready [.s x, .a a] (postReg post a) s →
      scalar (.stb x a post off) 1 ∧ scalar (.sth x a post off) 2 ∧ scalar (.stw x a post off) 4 ∧ scalar (.std x a post off) 8) ∧
    (Ready [.v v, .a a] (postReg post a) s →
      stores (.stv v a post off) true post 4 4 ((List.finRange 64).map (lane (ea s a (offset off 256)) contig)) 256) ∧
    (Ready [.v v, .a a, .m m] (postReg post a) s →
      stores (.stvm v a post m off9) true post 4 4
        (((List.finRange 64).filter fun i => (rdM s m).getLsbD i.val).map (lane (ea s a (offset off9 256)) contig)) 256) ∧
    (Ready [.v v, .a a, .s x] (postReg post a) s →
      stores (.stvs v a post x off7) false post 4 4
        ((List.finRange 64).map (lane (ea s a (offset off7 256)) fun i => BitVec.ofNat 64 i.val * rdS s x)) 256) ∧
    (Ready [.v v, .a a, .v vi] [] s →
      stores (.stvx v a vi sc) false false 4 4
        ((List.finRange 64).map (lane (ea s a 0) fun i => BitVec.ofNat 64 ((rdV s vi)[i].toNat * 2 ^ sc.val))) 0) ∧
    (Ready [.m m, .a a] (postReg post a) s →
      stores (.stm m a post off) true post 8 8 [(ea s a (offset off 8), leBytes 8 (rdM s m).toNat)] 8) ∧
    (Ready [.w w, .a a] (postReg post a) s → accepted s 4 = true →
      let body := (rdW s w).entries.toList.flatMap (fun e => leBytes 2 e.toNat) ++ leBytes 4 (rdW s w).tag.toNat
      let image (img : List Byte) : Prop := stores (.stwt w a post off) true post 136 8 [(ea s a (offset off 8), img)] 136
      (exposed s (.w w) = false → image (body ++ leBytes 4 (imageSum body).toNat)) ∧
      (exposed s (.w w) = true → ∃ img, img.length = 136 ∧ image img))) ∧
  (∀ (s : State) (x : SR) (a : AR) (size scope : Fin 8), s.who.isSys = false → s.spm.wf = true → Ready [.s x, .a a] [] s →
    scope.val < 3 → ∀ e ∈ ([(4, 4), (6, 8)] : List (Nat × Nat)), size.val = e.1 →
      let addr := ea s a 0
      LocalReady s false e.2 e.2 true [addr] →
      (releaseReady s s.who scope.val = true →
        ∃ t, exec (.strl x a size scope) s = .next t ∧ SpmHolds [(keyAt s addr, leBytes e.2 (rdS s x).toNat)] s t ∧
          MemOpLeaves [] s t ∧ ∃ r ∈ t.releases, r.word = localWord (keyAt s addr) ∧ r.home = 0 ∧ r.who = s.who.num ∧
            r.scope = scope.val ∧ ∀ p, clockGet s.ctx.clock p ≤ clockGet r.clock p) ∧
      (releaseReady s s.who scope.val = false → exec (.strl x a size scope) s = stall s))

/-- R170, R180, R187: global loads of a compute core with a free unit. readElems is what the core's accesses find at the
addresses, u the state after them. -/
def Obligations.GlobalLoads : Prop :=
  ∀ (s u : State) (d : SR) (dv : VR) (a : AR) (size scope : Fin 8) (off : BitVec 10) (off12 : BitVec 12) (post : Bool) (bs : List Byte),
    s.who.isSys = false → isHeld s s.who = false →
    let who := accOf s s.who
    let gives (i : Instr) (r : RegName) (L n : Nat) (addrs : List Word) (acq : Option Nat) (v : RegVal) (k : State → State) : Prop :=
      GlobalReady s n n false addrs → readElems who acq.isSome n (addrs.map BitVec.toNat) (bump s) = .ok u bs →
      exec i s = .next (k (loadOrder who acq n (addrs.map BitVec.toNat) (landWith r v L false (fresh s) u)))
    let ext (n : Nat) (signed : Bool) : Word :=
      if signed then BitVec.ofInt 64 (BitVec.ofNat (8 * n) (natOf bs)).toInt else BitVec.ofNat 64 (natOf bs)
    let sized : List (Nat × Nat × Bool) :=
      [(0, 1, true), (1, 1, false), (2, 2, true), (3, 2, false), (4, 4, true), (5, 4, false), (6, 8, true)]
    (Ready [.a a] [.s d] s → ∀ e ∈ sized, size.val = e.1 →
      gives (.ldg d a size off) (.s d) 4 e.2.1 [ea s a (offset off e.2.1)] none (.word (ext e.2.1 e.2.2)) id ∧
      (4 ≤ size.val → 3 ≤ scope.val → scope.val < 7 → inLog s s.who = false →
        gives (.ldaq d a size scope) (.s d) 4 e.2.1 [ea s a 0] (some scope.val) (.word (ext e.2.1 e.2.2)) id)) ∧
    (Ready [.a a] (.v dv :: postReg post a) s →
      gives (.ldgv dv a post off12) (.v dv) 5 4
        ((List.finRange 64).map fun i => ea s a (offset off12 256) + BitVec.ofNat 64 (4 * i.val)) none
        (.vec (Vector.ofFn fun i => BitVec.ofNat 32 (natOf ((bs.drop (4 * i.val)).take 4)))) (postInc post a 256)) ∧
    (size.val = 7 → exec (.ldg d a size off) s = trapAt 4 0x02 s.frame.parcel s) ∧
    (size.val < 4 ∨ size.val = 7 ∨ scope.val = 7 → exec (.ldaq d a size scope) s = trapAt 4 0x02 s.frame.parcel s)

/-- R180, R184, R187: global stores of a compute core with a free unit: unitStore is what memory or the side log takes of
them; the store made then meets the copies in flight (R267), and a full log stalls the bundle with nothing made; an STRL
publishes, at its scope, what its context has observed. -/
def Obligations.GlobalStores : Prop :=
  ∀ (s u : State) (x : SR) (v : VR) (a : AR) (size scope : Fin 8) (off : BitVec 10) (off12 : BitVec 12) (post : Bool),
    s.who.isSys = false → isHeld s s.who = false →
    let stores (i : Instr) (n : Nat) (addrs : List Word) (bs : List Byte) (exempt : Bool) (rel : Option (Nat × List (Nat × Nat)))
        (k : State → State) : Prop :=
      let who := accOf s s.who
      let va := (addrs.headD 0).toNat
      let r := unitStore who va bs exempt rel s
      GlobalReady s n n true addrs →
      (r = some (.ok u ()) → exec i s = .next (k (meetGlobal who va bs.length none u))) ∧
      (r = none → exec i s = stall s)
    let sized : List (Nat × Nat) := [(0, 1), (2, 2), (4, 4), (6, 8)]
    (Ready [.s x, .a a] [] s → ∀ e ∈ sized, size.val = e.1 →
      stores (.stg x a size off) e.2 [ea s a (offset off e.2)] (leBytes e.2 (rdS s x).toNat) false none id ∧
      (4 ≤ size.val → 3 ≤ scope.val → scope.val < 7 → releaseReady s s.who 2 = true → (coreOf s s.who.coreNo).waits = [] →
        (5 ≤ scope.val → ∀ r ∈ s.dev.outreqs, r.who ≠ s.who) →
        stores (.strl x a size scope) e.2 [ea s a 0] (leBytes e.2 (rdS s x).toNat) true (some (scope.val, s.ctx.clock))
          fun t => modCtx t s.who fun y => clockTick y s.who)) ∧
    (Ready [.v v, .a a] (postReg post a) s →
      stores (.stgv v a post off12) 4 ((List.finRange 64).map fun i => ea s a (offset off12 256) + BitVec.ofNat 64 (4 * i.val))
        ((rdV s v).toList.flatMap fun y => leBytes 4 y.toNat) false none (postInc post a 256)) ∧
    (size.val % 2 = 1 → exec (.stg x a size off) s = trapAt 4 0x02 s.frame.parcel s) ∧
    (size.val < 4 ∨ size.val % 2 = 1 ∨ scope.val = 7 → exec (.strl x a size scope) s = trapAt 4 0x02 s.frame.parcel s)

/-- R169, R170, R352, R360: on a core of the system profile the scalar loads and stores reach global memory, as log 17
(DEDUCED: R170 gives a scalar load or store its local address, and a system core has no scratchpad) takes their addresses,
and an access that needs service traps to its own handler; a store that traps leaves nothing of itself (R102). -/
def Obligations.SystemCoreAccesses : Prop :=
  ∀ (s u : State) (d x : SR) (a : AR) (post : Bool) (off : BitVec 12) (bs : List Byte) (c : BitVec 8) (va : Nat), s.who.isSys = true →
    let who := accOf s s.who
    let loads (i : Instr) (n : Nat) (v : Word) : Prop :=
      let addr := ea s a (offset off n)
      GlobalReady s n n false [addr] →
      (readElems who false n [addr.toNat] s = .ok u bs →
        exec i s = .next (postInc post a n (loadOrder who none n [addr.toNat] (land (.s d) (.word v) 4 u)))) ∧
      (readElems who false n [addr.toNat] s = .serviced u c va → exec i s = trapAt 15 c (BitVec.ofNat 64 va) u)
    let signed (n : Nat) : Word := BitVec.ofInt 64 (BitVec.ofNat (8 * n) (natOf bs)).toInt
    let stores (i : Instr) (n : Nat) : Prop :=
      let addr := ea s a (offset off n)
      let r := writeGlobal who true false addr.toNat (leBytes n (rdS s x).toNat) s
      GlobalReady s n n true [addr] →
      (r = .ok u () → exec i s = .next (postInc post a n (meetGlobal who addr.toNat n none (storeOrder who addr.toNat n none u)))) ∧
      (r = .serviced u c va → exec i s = trapAt 15 c (BitVec.ofNat 64 va) s)
    (Ready [.a a] (.s d :: postReg post a) s →
      loads (.ldb d a post off) 1 (signed 1) ∧ loads (.ldbz d a post off) 1 (BitVec.ofNat 64 (natOf bs)) ∧
      loads (.ldh d a post off) 2 (signed 2) ∧ loads (.ldhz d a post off) 2 (BitVec.ofNat 64 (natOf bs)) ∧
      loads (.ldw d a post off) 4 (signed 4) ∧ loads (.ldwz d a post off) 4 (BitVec.ofNat 64 (natOf bs)) ∧
      loads (.ldd d a post off) 8 (signed 8)) ∧
    (Ready [.s x, .a a] (postReg post a) s →
      stores (.stb x a post off) 1 ∧ stores (.sth x a post off) 2 ∧ stores (.stw x a post off) 4 ∧ stores (.std x a post off) 8)

/-- R188, R189, R190: an atomic of the scratchpad lands the old value with bound 4 and leaves the new one; a compare that
fails writes nothing. A watchpoint of reads and one of writes each meet an atomic (R463). -/
def Obligations.LocalAtomics : Prop :=
  ∀ (s : State) (d x : SR) (a : AR) (z : Bool) (oc : Fin 4), s.who.isSys = false → s.spm.wf = true →
    let w := if z then 8 else 4
    let addr := ea s a 0
    let k := keyAt s addr
    let old := s.spm.readNat k w
    let v := (rdS s x).toNat % 2 ^ (8 * w)
    let expect := (rdS s d).toNat % 2 ^ (8 * w)
    let int (n : Nat) : Int := (BitVec.ofNat (8 * w) n).toInt
    let wrap (i : Int) : Nat := (i % (2 ^ (8 * w) : Nat)).toNat
    let gives (i : Instr) (new : Nat) : Prop :=
      ∃ t, exec i s = .next t ∧ Landed s t (.s d) (.word (BitVec.ofNat 64 old)) 4 ∧ SpmHolds [(k, leBytes w new)] s t ∧
        t.who = s.who ∧ SameFiles s t ∧ SameSpecials s t ∧ LandsBut [.s d] s t ∧ t.rom = s.rom
    LocalReady s false w w true [addr] → LocalReady s false w w false [addr] → spmPoisoned s k w = false → (oc = 0 ∨ releaseReady s s.who (2 * oc.val) = true) →
    (Ready [.a a, .s x] [.s d] s →
      gives (.atomAdd d a x false z oc) ((old + v) % 2 ^ (8 * w)) ∧
      gives (.atomAnd d a x false z oc) (old &&& v) ∧
      gives (.atomOr d a x false z oc) (old ||| v) ∧
      gives (.atomXor d a x false z oc) (old ^^^ v) ∧
      gives (.atomMin d a x false z oc) (wrap (min (int old) (int v))) ∧
      gives (.atomMax d a x false z oc) (wrap (max (int old) (int v))) ∧
      gives (.atomMinz d a x false z oc) (min old v) ∧
      gives (.atomMaxz d a x false z oc) (max old v) ∧
      gives (.atomXchg d a x false z oc) v ∧
      (z = false → gives (.atomFadd d a x false z oc) (fop2 .f32 numAdd old v).1) ∧
      (z = true → exec (.atomFadd d a x false z oc) s = trapAt 4 0x02 s.frame.parcel s)) ∧
    (Ready [.s d, .a a, .s x] [.s d] s → gives (.acas d a x false z oc) (if old = expect then v else old))

/-- R188, R189, R190: a global atomic of a compute core with a free unit: performAtomGlobal is the update at the home, u the
state after it, which then meets the copies in flight (R267); a reduction counts as its core's side log. -/
def Obligations.GlobalAtomics : Prop :=
  ∀ (s u : State) (d x : SR) (a : AR) (z : Bool) (oc : Fin 4) (old : Nat), s.who.isSys = false →
    isHeld s s.who = false →
    let w := if z then 8 else 4
    let addr := ea s a 0
    let who := accOf s s.who
    let gives (i : Instr) (fn : AtomFn) : Prop :=
      let reduction := d = 0 ∧ fn.isCas = false
      let by_ := if reduction then { who with unit := logUnit s.who.coreNo } else who
      (reduction → logLength s s.who.coreNo = 0) → (¬ reduction → inLog s s.who = false) →
      performAtomGlobal by_ fn w addr.toNat (rdS s x) oc.val (bump s) = .ok u old →
      exec i s = .next (meetGlobal who addr.toNat w none (if reduction then u
        else fillLanding s.who (fresh s) (.word (BitVec.ofNat 64 old)) (landWith (.s d) (.word 0) 4 false (fresh s) u)))
    GlobalReady s w w true [addr] → GlobalReady s w w false [addr] → (oc = 0 ∨ releaseReady s s.who (2 * oc.val) = true) →
    (Ready [.a a, .s x] [.s d] s →
      gives (.atomAdd d a x true z oc) .add ∧ gives (.atomAnd d a x true z oc) .and ∧ gives (.atomOr d a x true z oc) .or ∧
      gives (.atomXor d a x true z oc) .xor ∧ gives (.atomMin d a x true z oc) .min ∧ gives (.atomMax d a x true z oc) .max ∧
      gives (.atomMinz d a x true z oc) .minz ∧ gives (.atomMaxz d a x true z oc) .maxz ∧
      gives (.atomXchg d a x true z oc) .xchg ∧ (z = false → gives (.atomFadd d a x true z oc) .fadd)) ∧
    (Ready [.s d, .a a, .s x] [.s d] s → gives (.acas d a x true z oc) (.cas (rdS s d)))

/-- R191, R192: FENCE completes when its stores are made and its reads have landed, else it stalls; from DIE scope on an
acquire drops the cluster's L1G. That an acquire waits for its reads at scope CTX too is log 103 (DEDUCED: the second bullet of
R191 names no scope). A clean changes nothing, an invalidation no register and no scratchpad, wherever the range ends (log 54
for one that runs past 2^56, log 96 for a line whose page may not be read). -/
def Obligations.FencesAndCache : Prop :=
  ∀ (s : State) (kind op level : Fin 4) (scope : Fin 8) (a : AR) (x : SR),
    let rel := kind ≠ 1
    let acq := kind ≠ 2
    let open_ := (rel → releaseReady s s.who scope.val = true) ∧ (acq → readsLanded s = true)
    (kind = 3 ∨ scope = 7 → exec (.fence kind scope) s = trapAt 4 0x02 s.frame.parcel s) ∧
    (kind ≠ 3 → scope ≠ 7 → open_ → ∃ t, exec (.fence kind scope) s = .next t ∧ t.who = s.who ∧ SameBytes s t ∧ SameFiles s t ∧
      SameSpecials s t ∧ t.ctx.lands = s.ctx.lands ∧ (acq → 3 ≤ scope.val → (clusterOf t s.who.cluster).l1g = [])) ∧
    (kind ≠ 3 → scope ≠ 7 → ¬ open_ → exec (.fence kind scope) s = stall s) ∧
    (op = 3 ∨ level = 3 → exec (.cmo op level a x) s = trapAt 4 0x02 s.frame.parcel s) ∧
    (op ≠ 3 → level ≠ 3 → Ready [.a a, .s x] [] s → (ea s a 0).toNat < 2 ^ 56 → acquirePending s = false →
      (op = 0 → exec (.cmo op level a x) s = .next s) ∧
      ∃ t, exec (.cmo op level a x) s = .next t ∧ t.who = s.who ∧ t.ctx = s.ctx ∧ t.spm = s.spm ∧ t.rom = s.rom)

/-- R193, R196: RGSET records a legal region, nothing of it filled or dirty; RGWB sends its dirty granules to global memory
and leaves them clean; RGDROP unsets it and writes nothing. -/
def Obligations.RegionInstructions : Prop :=
  ∀ (s : State) (rg : RG) (a : AR) (x x2 : SR) (mode : Fin 8), s.who.isSys = false → accepted s 8 = true →
    let lb := (rdBase s a).toNat
    let gb := (rdS s x).toNat
    let n := (rdS s x2).toNat
    let clear : Prop := ∀ r ∈ s.ctx.regions.toList, ∀ q, r = some q → ¬(q.lbase < lb + n ∧ lb < q.lbase + q.len)
    (2 ≤ mode.val → exec (.rgset rg a x x2 mode) s = trapAt 4 0x02 s.frame.parcel s) ∧
    (mode.val < 2 → Ready [.a a, .s x, .s x2] [] s → s.ctx.regions[rg.val] = none → lb % 4096 = 0 → gb % 4096 = 0 → n % 4096 = 0 →
      0 < n → lb + n ≤ 0x800000 → clear → gb + n ≤ 2 ^ 56 →
      exec (.rgset rg a x x2 mode) s =
        .next { s with ctx := { s.ctx with regions := s.ctx.regions.set rg.val (some ⟨lb, gb, n, mode == 1, [], []⟩) } }) ∧
    (s.ctx.regions[rg.val] = none →
      exec (.rgwb rg) s = trapAt 12 0x09 (BitVec.ofNat 64 rg.val) s ∧ exec (.rgdrop rg) s = trapAt 12 0x09 (BitVec.ofNat 64 rg.val) s) ∧
    (∀ r, s.ctx.regions[rg.val] = some r →
      (acquirePending s = false → r.gbase % 4096 = 0 → r.len % 4096 = 0 → (∀ b ∈ r.dirty, b < r.len) →
        let t := backRegion s.who rg.val s
        exec (.rgwb rg) s = .next (feed s.who.coreNo t) ∧
        t.ctx.regions[rg.val] = some { r with dirty := if r.rw then [] else r.dirty }) ∧
      ((coreOf s s.who.coreNo).waits = [] →
        exec (.rgdrop rg) s = .next { s with ctx := { s.ctx with regions := s.ctx.regions.set rg.val none } }))

/-- R181, R306, R430: a task's store goes into its version: it reads its own bytes, every other task and committed memory
read as before; a store of no task goes into committed memory. -/
def Obligations.VersionsAndCommittedMemory : Prop :=
  ∀ (s : State) (a : Acc) (t : Task) (key va : Nat) (bs : List Byte), s.mem.wf = true → taskOf s a.task = some t →
    let u := versionStore a key va bs s
    let c := committedStore key bs s
    u.mem = s.mem ∧
    (∀ i, i < bs.length → viewByte u a.task none (key + i) = bs.getD i 0) ∧
    (∀ k, (k < key ∨ key + bs.length ≤ k) → viewByte u a.task none k = viewByte s a.task none k) ∧
    (∀ id k, id ≠ a.task → viewByte u id none k = viewByte s id none k) ∧
    (∀ i, i < bs.length → c.mem.read (key + i) = bs.getD i 0) ∧
    (∀ k, (k < key ∨ key + bs.length ≤ k) → c.mem.read k = s.mem.read k)

/-! ## The VA and VB slots -/

/-- R127, R203, R205, R207: element-wise integer and logical functions, under the mask, with bound 2 (5 for VMUL); no
event counts. -/
def Obligations.VectorIntegerResults : Prop :=
  ∀ (s : State) (d a b : VR) (m : MR) (ty : Fin 16), Computes s →
    let w := tyWidth ty
    let x (e : Nat) : Nat := elemAt w (rdV s a) e
    let y (e : Nat) : Nat := elemAt w (rdV s b) e
    let int (n : Nat) : Int := if ty.val = 2 ∨ ty.val = 4 then (BitVec.ofNat w n).toInt else n
    let sgn (n : Nat) : Int := (BitVec.ofNat w n).toInt
    let ifM : List RegName := maskReg m ++ if m ≠ 0 then [.v d] else []
    let gives (i : Instr) (L w : Nat) (f : Nat → Int) : Prop := ∃ V : Vec, exec i s = .next (land (.v d) (.vec V) L s) ∧
      ∀ e, e < 2048 / w → elemAt w V e =
        if (rdM s m).getLsbD (e * w / 32) then (f e % (2 ^ w : Nat)).toNat else elemAt w (rdV s d) e
    let words (r : VR) (e : Nat) : Nat := elemAt 32 (rdV s r) e
    (Ready (.v a :: .v b :: ifM) [.v d] s →
      gives (.vand d a b m) 2 32 (fun e => (words a e &&& words b e : Nat)) ∧
      gives (.vor d a b m) 2 32 (fun e => (words a e ||| words b e : Nat)) ∧
      gives (.vxor d a b m) 2 32 (fun e => (words a e ^^^ words b e : Nat)) ∧
      (2 ≤ ty.val → ty.val ≤ 5 →
        gives (.vadd d a b m ty) 2 w (fun e => (x e : Int) + y e) ∧
        gives (.vsub d a b m ty) 2 w (fun e => (x e : Int) - y e) ∧
        gives (.vmin d a b m ty) 2 w (fun e => min (int (x e)) (int (y e))) ∧
        gives (.vmax d a b m ty) 2 w (fun e => max (int (x e)) (int (y e))) ∧
        gives (.vmul d a b m ty) 5 w (fun e => (x e : Int) * y e) ∧
        gives (.vshl d a b m ty) 2 w (fun e => (x e : Int) * 2 ^ (y e % w)) ∧
        gives (.vshr d a b m ty) 2 w (fun e => (x e : Int) / 2 ^ (y e % w)) ∧
        gives (.vsha d a b m ty) 2 w (fun e => sgn (x e) / 2 ^ (y e % w)))) ∧
    (Ready (.v a :: ifM) [.v d] s →
      gives (.vmov d a m) 2 32 (fun e => (words a e : Int)) ∧
      (2 ≤ ty.val → ty.val ≤ 5 →
        gives (.vabs d a m ty) 2 w (fun e => if int (x e) < 0 then -int (x e) else int (x e)) ∧
        gives (.vneg d a m ty) 2 w (fun e => -(x e : Int))))

/-- R73, R203, R205, R207: element-wise floating-point functions, under the mask: one rounding of the exact result, its
events counted in element order; the bounds of R105. That vexp2 and vlog2 are rounded correctly is log 24 (DEDUCED). -/
def Obligations.VectorFloatResults : Prop :=
  ∀ (s : State) (d a b : VR) (m : MR) (ty : Fin 16) (f : FFmt), Computes s → tyFlt ty = some f →
    let w := f.width
    let x (e : Nat) : Nat := elemAt w (rdV s a) e
    let y (e : Nat) : Nat := elemAt w (rdV s b) e
    let z (e : Nat) : Nat := elemAt w (rdV s d) e
    let on (e : Nat) : Bool := (rdM s m).getLsbD (e * w / 32)
    let ifM : List RegName := maskReg m ++ if m ≠ 0 then [.v d] else []
    let gives (i : Instr) (L : Nat) (g : Nat → Coded) : Prop := ∃ V : Vec,
      exec i s = .next (countMine ((List.range (2048 / w)).flatMap fun e => if on e then (g e).2 else []) (land (.v d) (.vec V) L s)) ∧
      ∀ e, e < 2048 / w → elemAt w V e = if on e then (g e).1 % 2 ^ w else z e
    let half := 2 ^ (w - 1)
    (Ready (.v a :: .v b :: ifM) [.v d] s →
      gives (.vadd d a b m ty) 2 (fun e => fop2 f numAdd (x e) (y e)) ∧
      gives (.vsub d a b m ty) 2 (fun e => fop2 f (fun p q => numAdd p q.neg) (x e) (y e)) ∧
      gives (.vmin d a b m ty) 2 (fun e => (fminmax f false (x e) (y e), [])) ∧
      gives (.vmax d a b m ty) 2 (fun e => (fminmax f true (x e) (y e), [])) ∧
      gives (.vmul d a b m ty) 5 (fun e => fop2 f numMul (x e) (y e)) ∧
      gives (.vscl d a b m ty) 5 (fun e => eScl ty (x e) (y e)) ∧
      (ty = 8 → gives (.vdiv d a b m ty) 14 (fun e => fop2 f numDiv (x e) (y e)))) ∧
    (Ready (.v a :: .v b :: .v d :: maskReg m) [.v d] s →
      gives (.vfma d a b m ty) 5 (fun e => ffma f false (x e) (y e) (z e)) ∧
      gives (.vfnma d a b m ty) 5 (fun e => ffma f true (x e) (y e) (z e))) ∧
    (Ready (.v a :: ifM) [.v d] s →
      gives (.vabs d a m ty) 2 (fun e => (if (decodeF f (x e)).isNan then f.canon else x e % half, [])) ∧
      gives (.vneg d a m ty) 2 (fun e =>
        (if (decodeF f (x e)).isNan then f.canon else if x e < half then x e + half else x e - half, [])) ∧
      (ty = 8 →
        gives (.vrcp d a m ty) 8 (fun e => fop1 f (numDiv numOne) (x e)) ∧
        gives (.vrsq d a m ty) 8 (fun e => fop1 f (fun p => numDiv numOne (numSqrt p)) (x e)) ∧
        gives (.vsqrt d a m ty) 8 (fun e => fop1 f numSqrt (x e)) ∧
        gives (.vexp2 d a m ty) 10 (fun e => fop1 f numExp2 (x e)) ∧
        gives (.vlog2 d a m ty) 10 (fun e => fop1 f numLog2 (x e))))

/-- (a) R206, R208, R209, R211, R212: comparisons, selections and the movement of lanes. (b) R210: mask logic,
counting and searching. -/
def Obligations.VectorMovesAndMasks : Prop :=
  (∀ (s : State) (d a b : VR) (x k : SR) (m md : MR) (ty : Fin 16) (cond : Fin 8) (n : Fin 32), Computes s →
    let u (r : VR) (i : Nat) : Lane := (rdV s r).toList.getD i 0
    let lanes (i : Instr) (f : Fin 64 → Lane) : Prop := exec i s = .next (land (.v d) (.vec (Vector.ofFn f)) 2 s)
    let w := tyWidth ty
    let truth (e : Nat) : Prop :=
      let p := elemAt w (rdV s a) e
      let q := elemAt w (rdV s b) e
      let int (n : Nat) : Int := if ty.val = 2 ∨ ty.val = 4 then (BitVec.ofNat w n).toInt else n
      match tyFlt ty with
      | some f => fcond cond.val (decodeF f p) (decodeF f q) = true
      | none => match cond with
      | 0 => p = q
      | 1 => p ≠ q
      | 2 => int p < int q
      | 3 => p < q
      | 4 => int p ≤ int q
      | 5 => p ≤ q
      | 6 => int q < int p
      | 7 => q < p
    (Ready [.v a, .v b] [.m md] s → 2 ≤ ty.val → ty.val ≤ 8 →
      ∃ M : Word, exec (.vcmp cond md a b ty) s = .next (land (.m md) (.word M) 2 s) ∧
        ∀ i, i < 64 → (M.getLsbD i = true ↔ ∀ e, e * w / 32 = i → truth e)) ∧
    (Ready ([.v a, .v b] ++ maskReg m) [.v d] s →
      lanes (.vsel d a b m) fun i => if (rdM s m).getLsbD i.val then u a i.val else u b i.val) ∧
    (Ready ([.s x] ++ maskReg m ++ if m ≠ 0 then [.v d] else []) [.v d] s → 2 ≤ ty.val → ty.val ≤ 8 →
      lanes (.vbc d x m ty) fun i => if (rdM s m).getLsbD i.val then
        (if w = 32 then BitVec.ofNat 32 (rdS s x).toNat else BitVec.ofNat 32 ((rdS s x).toNat % 2 ^ 16 * (2 ^ 16 + 1))) else u d i.val) ∧
    (Ready [.v a, .v b] [.v d] s → lanes (.vperm d a b) fun i => u a ((u b i.val).toNat % 64)) ∧
    (Ready [.v a] [.v d] s →
      (n.val < 6 → lanes (.vshuf d a n) fun i => u a (i.val ^^^ 2 ^ n.val)) ∧
      (n.val = 6 → lanes (.vshuf d a n) fun i => u a (63 - i.val)) ∧
      (n.val = 7 → lanes (.vshuf d a n) fun i =>
        BitVec.ofNat 32 ((u a i.val).toNat % 2 ^ 16 * 2 ^ 16 + (u a i.val).toNat / 2 ^ 16))) ∧
    (8 ≤ n.val → exec (.vshuf d a n) s = trapAt 4 0x02 s.frame.parcel s) ∧
    (Ready [.v a, .s k] [.s x] s →
      exec (.vext x a k) s = .next (land (.s x) (.word (BitVec.ofNat 64 (u a ((rdS s k).toNat % 64)).toNat)) 2 s)) ∧
    (Ready [.s x, .s k, .v d] [.v d] s →
      lanes (.vins d x k) fun i => if i.val = (rdS s k).toNat % 64 then BitVec.ofNat 32 (rdS s x).toNat else u d i.val) ∧
    (Ready [.s x] [.v d] s → lanes (.viota d x) fun i => BitVec.ofNat 32 ((rdS s x).toNat + i.val))) ∧
  (∀ (s : State) (d : SR) (md ma mb : MR), Computes s →
    let x := rdM s ma
    let y := rdM s mb
    let gives (i : Instr) (v : Word) : Prop := exec i s = .next (land (.m md) (.word v) 2 s)
    let counts (i : Instr) (P : Nat → Prop) : Prop := ∃ n, exec i s = .next (land (.s d) (.word (BitVec.ofNat 64 n)) 2 s) ∧ P n
    (Ready [.m ma, .m mb] [.m md] s →
      gives (.mand md ma mb) (x &&& y) ∧ gives (.mor md ma mb) (x ||| y) ∧ gives (.mxor md ma mb) (x ^^^ y) ∧
      gives (.mandn md ma mb) (x &&& ~~~y)) ∧
    (Ready [.m ma] [.m md] s → gives (.mnot md ma) (~~~x) ∧ gives (.mmov md ma) x) ∧
    (Ready [.m ma] [.s d] s →
      counts (.mpop d ma) (fun n => n = ((List.range 64).map fun i => x.toNat / 2 ^ i % 2).sum) ∧
      counts (.mfirst d ma) (fun n => (x = 0 → n = 64) ∧ (x ≠ 0 → x.getLsbD n = true ∧ ∀ i, i < n → x.getLsbD i = false)) ∧
      counts (.mlast d ma) (fun n => (x = 0 → n = 64) ∧ (x ≠ 0 → x.getLsbD n = true ∧ ∀ i, n < i → x.getLsbD i = false))))

/-- (a) R82, R204, R213–R217: conversions, packing, unpacking, reductions and the draws of VRNG; a segment of VRED is summed over the
tree of R80. (b) R218–R220: VQNT takes each half of the lanes as one block with a shared scale code; VDQNT is its
inverse reading, one rounding a lane; a block whose code is 0xFF is NaN. -/
def Obligations.VectorConversionsAndQuantisation : Prop :=
  (∀ (s : State) (d a b : VR) (x : SR) (ty sty dty : Fin 16) (rnd : Fin 8) (sat : Bool) (n : Fin 32), Computes s →
    let u (r : VR) (i : Nat) : Lane := (rdV s r).toList.getD i 0
    let lanes (i : Instr) (L : Nat) (f : Fin 64 → Lane) : Prop := exec i s = .next (land (.v d) (.vec (Vector.ofFn f)) L s)
    let int16 (x : Nat) : Int := if ty.val = 2 then (BitVec.ofNat 16 x).toInt else x
    let lo : Int := if ty.val = 2 then -32768 else 0
    let hi : Int := if ty.val = 2 then 32767 else 65535
    (∀ st dt mode, tyOf sty.val = some st → tyOf dty.val = some dt → rmodeOf rnd.val = some mode →
      Ready ([.v a] ++ if mode = .sr then [.s 31] else []) [.v d] s →
      let r (e : Nat) : Coded := convert st dt mode
        (if mode = .sr then (draw (seedTop s.ctx) (rdS s 31 + BitVec.ofNat 64 e)).toNat else 0) sat (elemAt st.width (rdV s a) e)
      ∃ V : Vec, exec (.vcvt d a dty rnd sat sty) s =
          .next (countMine ((List.range 64).flatMap fun e => (r e).2) (land (.v d) (.vec V) 3 s)) ∧
        ∀ e, e < 2048 / dt.width → elemAt dt.width V e = if e < 64 then (r e).1 % 2 ^ dt.width else 0) ∧
    ((tyOf sty.val = none ∨ tyOf dty.val = none ∨ rmodeOf rnd.val = none) →
      exec (.vcvt d a dty rnd sat sty) s = trapAt 4 0x02 s.frame.parcel s) ∧
    (Ready [.v a, .v b] [.v d] s → ty.val = 2 ∨ ty.val = 3 →
      ∃ V : Vec, exec (.vpack d a b ty) s = .next (land (.v d) (.vec V) 2 s) ∧ ∀ e, e < 128 →
        int16 (elemAt 16 V e) = max lo (min hi (if e < 64 then (u a e).toInt else (u b (e - 64)).toInt))) ∧
    (Ready [.v a] [.v d] s →
      (n.val < 2 → ty.val = 2 ∨ ty.val = 3 →
        lanes (.vunpk d a n ty) 2 fun i => BitVec.ofInt 32 (int16 (elemAt 16 (rdV s a) (64 * n.val + i.val)))) ∧
      (n.val < 2 → ∀ f, tyFlt ty = some f → f ≠ .f32 →
        lanes (.vunpk d a n ty) 2 fun i =>
          BitVec.ofNat 32 (roundF .f32 .rne 0 (decodeF f (elemAt 16 (rdV s a) (64 * n.val + i.val)))).1) ∧
      (n.val < 7 → ty.val = 4 ∨ ty.val = 5 →
        lanes (.vred d a n ty) 6 fun i =>
          BitVec.ofNat 32 ((List.range (2 ^ n.val)).map fun j => (u a (i.val / 2 ^ n.val * 2 ^ n.val + j)).toNat).sum) ∧
      (n.val < 7 → ty.val = 8 →
        let seg (j : Nat) : List Nat := (List.range (2 ^ n.val)).map fun i => (u a (j * 2 ^ n.val + i)).toNat
        ∃ evs, exec (.vred d a n ty) s = .next (countMine evs (land (.v d) (.vec (Vector.ofFn fun i =>
          BitVec.ofNat 32 (treeReduce (fun p q => (fop2 .f32 numAdd p q).1) 0 (seg (i.val / 2 ^ n.val))))) 6 s)))) ∧
    (Ready [.v a, .s x] [.v d] s →
      lanes (.vrng d a x) 5 fun i =>
        BitVec.ofNat 32 ((mix (seedTop s.ctx + mix (BitVec.ofNat 64 ((rdS s x).toNat + (u a i.val).toNat)))).toNat / 2 ^ 32))) ∧
  (∀ (s : State) (d a : VR) (rnd : Fin 8) (ty : Fin 16) (t : Ty) (mode : RMode), Computes s → ty.val ∈ [0, 9, 10, 11] →
    tyOf ty.val = some t → rmodeOf rnd.val = some mode → Ready ([.v a] ++ if mode = .sr then [.s 31] else []) [.v d] s →
    let u (e : Nat) : Nat := if mode = .sr then (draw (seedTop s.ctx) (rdS s 31 + BitVec.ofNat 64 e)).toNat else 0
    let w := if ty.val = 11 then 4 else 8
    let lane (V : Vec) (i : Nat) : Nat := (V.toList.getD i 0).toNat
    let block (h : Nat) := quantBlock ty t mode (fun k => u (32 * h + k)) ((List.range 32).map fun i => lane (rdV s a) (32 * h + i))
    (∃ V : Vec, exec (.vqnt d a rnd ty) s = .next (countMine ((block 0).2.2 ++ (block 1).2.2) (land (.v d) (.vec V) 5 s)) ∧
      (∀ e, e < 64 → elemAt w V e = (block (e / 32)).2.1.getD (e % 32) 0 % 2 ^ w) ∧
      lane V (2 * w) = ((block 0).1 + 256 * (block 1).1) % 2 ^ 32) ∧
    (let scale (e : Nat) : Nat := lane (rdV s a) (2 * w) / 2 ^ (8 * (e / 32)) % 256
     let r (e : Nat) : Coded :=
       if scale e = 0xFF then (0x7FC00000, [])
       else convFlt .f32 mode (u e) false (scaleBy ((scale e : Int) - 127) (readTy t (elemAt w (rdV s a) e)).1)
     ∃ V : Vec, exec (.vdqnt d a rnd ty) s =
         .next (countMine ((List.range 64).flatMap fun e => (r e).2) (land (.v d) (.vec V) 5 s)) ∧
       ∀ e, e < 64 → lane V e = (r e).1 % 2 ^ 32))

/-- R222–R230: the witness producers. For every element the result is a contributor that no other outranks, of those the
first, its entry names it and says whether another ranks with it; a NaN becomes the canonical one, for a single contributor too
(log 77, DESIGN CHOICE between R228 and R224). -/
def Obligations.WitnessWinners : Prop :=
  ∀ (s : State) (d a : VR) (n g : Fin 32) (w : WR) (ty : Fin 16), Computes s → accepted s 4 = true → 2 ≤ ty.val → ty.val ≤ 8 →
    let wd := tyWidth ty
    let produces (i : Instr) (kind cnt : Nat) (wide : Bool) (V : Vec) (E : Vector (BitVec 16) 64) : Prop :=
      exec i s = .next { land (.w w) (.wit ⟨E, witTag kind cnt wide s.ctx.wctr⟩) 6 (land (.v d) (.vec V) 6 s) with
        ctx := { (land (.w w) (.wit ⟨E, witTag kind cnt wide s.ctx.wctr⟩) 6 (land (.v d) (.vec V) 6 s)).ctx with wctr := s.ctx.wctr + 1 } }
    let nan (x : Nat) : Bool := isNanElem ty x
    let entry (E : Vector (BitVec 16) 64) (e : Nat) : Nat :=
      if wd = 16 then bitsAt (E.toList.getD (e / 2) 0).toNat (8 * (e % 2)) 8 else (E.toList.getD e 0).toNat
    let picks (larger : Bool) (N : Nat) (X : Nat → Nat) (result ent : Nat) : Prop := ∃ j, j < N ∧
      (∀ k, k < N → rankLt (rankOf ty larger (X j)) (rankOf ty larger (X k)) = false) ∧
      (∀ k, k < j → rankLt (rankOf ty larger (X k)) (rankOf ty larger (X j)) = true) ∧
      result = (if nan (X j) then canonOf ty else X j) ∧ ent % 64 = j ∧
      let hi := if wd = 16 then 6 else 14
      (ent.testBit hi = true ↔ ∃ k, k < N ∧ k ≠ j ∧ rankOf ty larger (X k) = rankOf ty larger (X j)) ∧ ent.testBit (hi + 1) = nan (X j)
    let X (e k : Nat) : Nat := elemAt wd (rdV s (Fin.ofNat 32 (a.val + k))) e
    (1 ≤ n.val → n.val ≤ 16 → a.val + n.val ≤ 32 → Ready ((vrun a n.val).map .v) [.v d, .w w] s →
      (∃ V E, produces (.vmaxw d a n w ty) 1 n.val (wd == 16) V E ∧
        ∀ e, e < 2048 / wd → picks true n.val (X e) (elemAt wd V e) (entry E e)) ∧
      (∃ V E, produces (.vminw d a n w ty) 2 n.val (wd == 16) V E ∧
        ∀ e, e < 2048 / wd → picks false n.val (X e) (elemAt wd V e) (entry E e))) ∧
    (1 ≤ g.val → g.val ≤ 6 → ty.val ∈ [4, 5, 8] → Ready [.v a] [.v d, .w w] s →
      let Y (j k : Nat) : Nat := elemAt 32 (rdV s a) (j * 2 ^ g.val + k)
      (∃ V E, produces (.vrmaxw d a g w ty) 6 g.val false V E ∧
        (∀ j, j < 64 / 2 ^ g.val → picks true (2 ^ g.val) (Y j) (elemAt 32 V j) (E.toList.getD j 0).toNat) ∧
        ∀ j, j < 64 → 64 / 2 ^ g.val ≤ j → elemAt 32 V j = 0 ∧ E.toList.getD j 0 = 0) ∧
      (∃ V E, produces (.vrminw d a g w ty) 7 g.val false V E ∧
        (∀ j, j < 64 / 2 ^ g.val → picks false (2 ^ g.val) (Y j) (elemAt 32 V j) (E.toList.getD j 0).toNat) ∧
        ∀ j, j < 64 → 64 / 2 ^ g.val ≤ j → elemAt 32 V j = 0 ∧ E.toList.getD j 0 = 0)) ∧
    (32 < a.val + n.val → 1 ≤ n.val → n.val ≤ 16 → exec (.vmaxw d a n w ty) s = trapAt 4 0x02 s.frame.parcel s)

/-- R225, R228, R229: the median has as many contributors below it as above; a clamp names the bound it took; a saturating
sum of integers names its first saturation. -/
def Obligations.WitnessMediansClampsAndSums : Prop :=
  ∀ (s : State) (d a b : VR) (n : Fin 32) (w : WR) (ty : Fin 16), Computes s → accepted s 4 = true → 2 ≤ ty.val → ty.val ≤ 8 →
    let wd := tyWidth ty
    let int (x : Nat) : Int := intOf wd (tySigned ty) x
    let wit (kind cnt : Nat) (E : Vector (BitVec 16) 64) : RegVal := .wit ⟨E, witTag kind cnt (wd == 16) s.ctx.wctr⟩
    let done (evs : List Nat) (V : Vec) (W : RegVal) : State :=
      let t := land (.w w) W 6 (land (.v d) (.vec V) 6 s)
      countMine evs { t with ctx := { t.ctx with wctr := s.ctx.wctr + 1 } }
    let entry (E : Vector (BitVec 16) 64) (e : Nat) : Nat :=
      if wd = 16 then bitsAt (E.toList.getD (e / 2) 0).toNat (8 * (e % 2)) 8 else (E.toList.getD e 0).toNat
    let X (e k : Nat) : Nat := elemAt wd (rdV s (Fin.ofNat 32 (a.val + k))) e
    (n.val = 3 ∨ n.val = 5 → a.val + n.val ≤ 32 → Ready ((vrun a n.val).map .v) [.v d, .w w] s →
      ∃ V E, exec (.vmedw d a n w ty) s = .next (done [] V (wit 3 n.val E)) ∧ ∀ e, e < 2048 / wd →
        let r (x : Nat) : Option Int := rankOf ty true x
        let below := (List.range n.val).countP fun k => rankLt (r (X e k)) (r (elemAt wd V e))
        let above := (List.range n.val).countP fun k => rankLt (r (elemAt wd V e)) (r (X e k))
        let j := entry E e % 16
        j < n.val ∧
        ((∀ k, k < n.val → isNanElem ty (X e k) = false) →
          below ≤ (n.val - 1) / 2 ∧ above ≤ (n.val - 1) / 2 ∧ X e j = elemAt wd V e) ∧
        ((∃ k, k < n.val ∧ isNanElem ty (X e k) = true) →
          elemAt wd V e = canonOf ty ∧ isNanElem ty (X e j) = true ∧ ∀ k, k < j → isNanElem ty (X e k) = false)) ∧
    (∀ h : b.val + 1 < 32, Ready [.v a, .v b, .v ⟨b.val + 1, h⟩] [.v d, .w w] s →
      ∃ V E, exec (.vclpw d a b w ty) s = .next (done [] V (wit 4 0 E)) ∧ ∀ e, e < 2048 / wd →
        let x := elemAt wd (rdV s a) e
        let lo := elemAt wd (rdV s b) e
        let hi := elemAt wd (rdV s ⟨b.val + 1, h⟩) e
        let lt (p q : Nat) : Prop := match tyFlt ty with
          | some f => numLt (decodeF f p) (decodeF f q) = true
          | none => int p < int q
        (isNanElem ty x = true → elemAt wd V e = canonOf ty ∧ entry E e = 3) ∧
        (isNanElem ty x = false → lt x lo → elemAt wd V e = lo ∧ entry E e = 1) ∧
        (isNanElem ty x = false → ¬ lt x lo → lt hi x → elemAt wd V e = hi ∧ entry E e = 2) ∧
        (isNanElem ty x = false → ¬ lt x lo → ¬ lt hi x → elemAt wd V e = x ∧ entry E e = 0)) ∧
    (b.val = 31 → exec (.vclpw d a b w ty) s = trapAt 4 0x02 s.frame.parcel s) ∧
    (ty.val ≤ 5 → 1 ≤ n.val → n.val ≤ 16 → a.val + n.val ≤ 32 → Ready ((vrun a n.val).map .v) [.v d, .w w] s →
      ∃ V E evs, exec (.vssmw d a n w ty) s = .next (done evs V (wit 5 n.val E)) ∧ ∀ e, e < 2048 / wd →
        let acc (k : Nat) : Int := ((List.range k).foldl (fun z i => satInt wd (tySigned ty) (z + int (X e i))) 0)
        int (elemAt wd V e) = acc n.val ∧
        (entry E e % 4 = 0 ↔ ∀ k, k < n.val → acc (k + 1) = acc k + int (X e k)) ∧
        (entry E e % 4 ≠ 0 → acc (entry E e / 16 + 1) ≠ acc (entry E e / 16) + int (X e (entry E e / 16)) ∧
          ∀ k, k < entry E e / 16 → acc (k + 1) = acc k + int (X e k)))

/-- R231–R234: VADJ checks its witness, scatters or masks the gradient as the witness says, and may clear it; WTAG reads
and WCLR clears. One that its bound or a double write leaves unpredictable gives an unpredictable d; in debug mode it is a hazard; a witness
loaded from a poisoned image counts as one (log 78, DESIGN CHOICE). In an image that software made, an index at or above CNT matches
as any other (log 58, DESIGN CHOICE: the pseudocode of R233). -/
def Obligations.AdjointAndTags : Prop :=
  ∀ (s : State) (d g : VR) (x q : SR) (w : WR) (last : Bool) (gf : Fin 8), Computes s → accepted s 4 = true →
    let y := rdW s w
    let c := (rdS s x).toNat
    let kind := y.tag.toNat / 2 ^ 24 % 16
    let cnt := y.tag.toNat / 2 ^ 18 % 64
    let wide := y.tag.getLsbD 17
    let j := c % 64
    let clear (t : State) : State := if last then land (.w w) (.wit { y with tag := y.tag &&& 0xFFFEFFFF }) 1 t else t
    (3 ≤ gf.val → exec (.vadj d g x w last gf) s = trapAt 4 0x02 s.frame.parcel s) ∧
    (gf.val < 3 → Ready [.v g, .s x, .w w] (.v d :: if last then [.w w] else []) s → exposed s (.w w) = false → w ∉ s.ctx.wSpoilt →
      (y.tag.getLsbD 16 = false → exec (.vadj d g x w last gf) s = trapAt 13 0x0F (BitVec.ofNat 64 y.tag.toNat) s) ∧
      (y.tag.getLsbD 16 = true → (kind ≠ c / 2 ^ 8 % 16 ∨ cnt ≠ c / 2 ^ 12 % 64) →
        exec (.vadj d g x w last gf) s = trapAt 13 0x0E (BitVec.ofNat 64 y.tag.toNat) s) ∧
      (y.tag.getLsbD 16 = true → (wide = decide (gf = 0) ∨ (6 ≤ kind ∧ gf ≠ 0)) →
        exec (.vadj d g x w last gf) s = trapAt 13 0x0E (BitVec.ofNat 64 y.tag.toNat) s) ∧
      (y.tag.getLsbD 16 = true → kind = c / 2 ^ 8 % 16 → cnt = c / 2 ^ 12 % 64 → (wide = true ↔ gf ≠ 0) → (6 ≤ kind → gf = 0) →
        ∃ V : Vec, exec (.vadj d g x w last gf) s = .next (clear (land (.v d) (.vec V) 4 s)) ∧
          let wd := if wide then 16 else 32
          let entry (e : Nat) : Nat :=
            if wide then bitsAt (y.entries.toList.getD (e / 2) 0).toNat (8 * (e % 2)) 8 else (y.entries.toList.getD e 0).toNat
          let G (e : Nat) : Nat := elemAt wd (rdV s g) e
          (1 ≤ kind → kind ≤ 3 → ∀ e, e < 2048 / wd → elemAt wd V e = if entry e % 16 = j then G e else 0) ∧
          (4 ≤ kind → kind ≤ 5 → ∀ e, e < 2048 / wd → elemAt wd V e = if entry e % 4 = 0 then G e else 0) ∧
          (6 ≤ kind → kind ≤ 7 → cnt ≤ 6 → (∀ k, k < 64 / 2 ^ cnt → entry k % 64 < 2 ^ cnt) → ∀ e, e < 64 →
            elemAt 32 V e = if entry (e / 2 ^ cnt) % 64 = e % 2 ^ cnt then G (e / 2 ^ cnt) else 0))) ∧
    (gf.val < 3 → Ready [.v g, .s x, .w w] (.v d :: if last then [.w w] else []) s → (exposed s (.w w) = true ∨ w ∈ s.ctx.wSpoilt) →
      (hazardMode s = false → exec (.vadj d g x w last gf) s = .next (clear (land (.v d) (.vec (freeVec s (.v d))) 4 s))) ∧
      (hazardMode s = true → exec (.vadj d g x w last gf) s = trapAt 11 0x14 (regTval (.w w)) s)) ∧
    (Ready [.w w] [.s q] s → exec (.wtag q w) s = .next (land (.s q) (.word (BitVec.ofNat 64 y.tag.toNat)) 2 s)) ∧
    (Ready [] [.w w] s → exec (.wclr w) s = .next (land (.w w) (.wit ⟨Vector.replicate 64 0, 0⟩) 1 s))

/-! ## The MX slot and the engines -/

/-- R43, R254, R258, R259: TZERO, TWR, TRD, TSTAT and TSIG on an idle tile of the window; a tile outside it is protection. -/
def Obligations.TileInstructions : Prop :=
  ∀ (s : State) (td : TR) (v : VR) (x d : SR) (c : Bool) (sel : Fin 16), Computes s →
    let k := s.who.coreNo
    let p := s.ctx.tbase + td.val
    let t := tileOf s k p
    let r := (rdS s x).toNat % 64
    let flags : Nat := (if t.ovf then 1 else 0) + (if t.sat then 2 else 0) + (if t.nan then 4 else 0) + if t.inv then 8 else 0
    (¬ InWindow s td →
      exec (.tzero td) s = trapAt 8 0x0C s.frame.parcel s ∧ exec (.twr td v x) s = trapAt 8 0x0C s.frame.parcel s ∧
      exec (.trd v td x) s = trapAt 8 0x0C s.frame.parcel s ∧ exec (.tstat d td c) s = trapAt 8 0x0C s.frame.parcel s) ∧
    (InWindow s td →
      (tileBusy s k p = true → exec (.tzero td) s = stall s) ∧
      (Ready [.s x] [.v v] s → r < t.water → t.bad = false → s.ctx.windows = [] →
        exec (.trd v td x) s = .next (land (.v v) (.vec (t.rows.toList.getD r zeroVec)) 6 s)) ∧
      (Ready [.s x] [.v v] s → t.water ≤ r → exec (.trd v td x) s = stall s) ∧
      (tileBusy s k p = false →
        (∃ u, exec (.tzero td) s = .next u ∧ tileOf u k p = Tile.zero ∧ u.ctx = s.ctx ∧ SameBytes s u ∧
          ∀ q, q % 16 ≠ p % 16 → tileOf u k q = tileOf s k q) ∧
        (Ready [.v v, .s x] [] s → ∃ u, exec (.twr td v x) s = .next u ∧ u.ctx = s.ctx ∧ SameBytes s u ∧
          ∀ i, i < 64 → (tileOf u k p).rows.toList.getD i zeroVec = if i = r then rdV s v else t.rows.toList.getD i zeroVec) ∧
        (Ready [] [.s d] s →
          (∃ u, exec (.tstat d td c) s = .next u ∧ Landed s u (.s d) (.word (BitVec.ofNat 64 flags)) 4 ∧ SameBytes s u ∧
            tileOf u k p = if c then { t with ovf := false, sat := false, nan := false, inv := false } else t) ∧
          (sel.val < 8 → t.bad = false → exec (.tsig d td sel) s = .next (land (.s d) (.word (groupSig t.rows sel.val)) 4 s)) ∧
          (sel.val = 8 → t.bad = false →
            exec (.tsig d td sel) s = .next (land (.s d) (.word (tileSig ((List.range 8).map (groupSig t.rows)))) 4 s))))) ∧
    (9 ≤ sel.val → exec (.tsig d td sel) s = trapAt 4 0x02 s.frame.parcel s)

/-- R239, R241, R248, R253, R255, R256, R263: MMA and TLD enter their core's queue and TST the commit buffer, with the
images' places, and the produced token becomes pending; a full queue stalls. -/
def Obligations.MatrixIssue : Prop :=
  ∀ (s : State) (td : TR) (aA aB aS : AR) (z h : Bool) (tok : Tokens) (x : SR) (dty : Fin 16) (rnd : Fin 8), Computes s → InWindow s td →
    (consumed tok).Nodup → (tok.pv = true → tok.prod ∉ consumed tok) →
    let k := s.who.coreNo
    let p := s.ctx.tbase + td.val
    let fmt := fmtNow s.ctx
    let scl := sizeScale fmt ≠ 0
    let sclR : List RegName := if scl then [.a aS] else []
    let tstR : List RegName := if h then [.s x] else []
    let rndR : List RegName := if rnd = 4 then [.s 31] else []
    let own (a : AR) (n : Nat) : Prop := ∃ q, localPlace k (ea s a 0).toNat = some (k, q) ∧ q + n ≤ 0x800000 ∧ (ea s a 0).toNat % 64 = 0
    let off (a : AR) : Nat := (localPlace k (ea s a 0).toNat).elim 0 (·.2)
    let bank (a : AR) (n : Nat) : Nat := off a / 2 ^ 21 % 4
    let oneBank (a : AR) (n : Nat) : Prop := (off a + n - 1) / 2 ^ 21 % 4 = bank a n
    let enters (i : Instr) (kind : MatKind) : Prop := ∃ (t : State) (op : MatOp), exec i s = .next t ∧ (coreOf t k).queue = (coreOf s k).queue ++ [op] ∧
      op.ctx = s.who ∧ op.bundle = s.frame.base ∧ op.kind = kind ∧ op.tile = p ∧ op.deps = captures tok s ∧ op.start = none ∧
      (tileOf t k p).water = 0 ∧ (tok.pv = true → t.ctx.k[tok.prod.val] = some op.id) ∧ SameBytes s t ∧ SameFiles s t
    (¬ (tok.pv = true ∧ pendingTok s tok.prod = true)) → acquirePending s = false →
    (fmtUsable s fmt = true → Ready (.a aA :: .a aB :: sclR) [] s → own aA (sizeA fmt) → own aB 4096 →
      (scl → own aS (sizeScale fmt)) → oneBank aA (sizeA fmt) → oneBank aB 4096 → bank aA 0 ≠ bank aB 0 →
      (queueFull s k = false → enters (.mma td aA aB aS z tok) (.mma (off aA) (off aB) (if scl then off aS else 0) z fmt)) ∧
      (queueFull s k = true → exec (.mma td aA aB aS z tok) s = stall s)) ∧
    (fmtUsable s fmt = false → exec (.mma td aA aB aS z tok) s = trapAt 4 0x02 s.frame.parcel s) ∧
    (Ready [.a aA] [] s → own aA 16384 → tileBusy s k p = false → queueFull s k = false → enters (.tld td aA tok) (.tld (off aA))) ∧
    (∀ ty mode, tyOf dty.val = some ty → dty.val < 13 → rmodeOf rnd.val = some mode → (h = false → x = 0) → (h = true → accepted s 5 = true) →
      Ready (.a aA :: (tstR ++ rndR)) [] s →
      ∀ core q, localPlace k (ea s aA 0).toNat = some (core, q) → q + 512 * ty.width ≤ 0x800000 → q % 64 = 0 → tileBusy s k p = false →
      (coreOf s k).stores.length < 4 →
      ∃ (t : State) (st : TileStore), exec (.tst td aA x dty rnd h tok) s = .next t ∧ (coreOf t k).stores = (coreOf s k).stores ++ [st] ∧ st.ctx = s.who ∧
        st.tile = p ∧ st.core = core ∧ st.off = q ∧ st.size = 512 * ty.width ∧ st.dty = dty.val ∧ st.rnd = rnd.val ∧ st.start = none ∧
        st.hist = (if h then some ((rdS s x).toNat % 32) else none) ∧ (tok.pv = true → t.ctx.k[tok.prod.val] = some st.id) ∧
        SameBytes s t ∧ SameFiles s t)

/-- R76–R78: with integer elements and an INT32 accumulator that no partial sum leaves, a result element is C plus the
sum of the products; outside the range it saturates and sets SAT. -/
def Obligations.IntegerProducts : Prop :=
  ∀ (fmt : BitVec 32) (xs ys : List Int) (c : BitVec 32), fmt.toNat / 2 ^ 8 % 16 = 2 → fmt.toNat / 2 ^ 12 % 4 = 0 → xs.length = ys.length →
    let sum := c.toInt + ((xs.zip ys).map fun e => e.1 * e.2).sum
    let r := mmaElem fmt (xs.map numOfInt) (ys.map numOfInt) [] [] c.toNat
    (-2 ^ 31 ≤ sum → sum < 2 ^ 31 → r = ((BitVec.ofInt 32 sum).toNat, 0, [])) ∧
    (2 ^ 31 ≤ sum → r = (2 ^ 31 - 1, 2, [3])) ∧ (sum < -2 ^ 31 → r = (2 ^ 31, 2, [3]))

/-- (a) R239, R242, R244–R248, R255–R257: the engines' steps: an operation starts with its images read, its row
groups are checked in order and its end clears its token; a store of the commit buffer is read, compared and
committed. (b) R247, R437, R438: Lantern takes the row groups in the order of detection. A verdict for one engine
lets its rows stand and counts a class-10 event; without a verdict the operation ends in error 0x17. That a commit waits
for earlier stores that await a granule is the model's reading (log 62). -/
def Obligations.EngineAndLanternSteps : Prop :=
  (∀ (s : State) (o : MatOp) (t : TileStore),
    let k := s.input.core.val
    let has (u : State) (o : MatOp) : Prop := o ∈ (coreOf u k).queue
    (startable s k = some o → o.error = none → poisonedImage s k o.kind = false → badOperand s k o = false → o.spoil = false →
      ∃ u, exec .engineOperationStart s = .next u ∧ s.now ≤ u.now ∧ SameBytes s u ∧ u.ctx = s.ctx ∧
        ∀ e ∈ (coreOf u k).queue, e.id = o.id → e.start = some u.now ∧
          e.result = (match o.kind with
            | .mma aA aB aS z fmt => (mmaResult s k aA aB aS z fmt (incoming s k o).1).1
            | .tld addr => tldRows s k addr)) ∧
    (checking s k = some o →
      (s.input.good = true → ∃ u, exec .rowGroupCheck s = .next u ∧ SameBytes s u ∧ u.ctx = s.ctx ∧ u.now = max s.now (o.start.getD 0 + 20 + 2 * o.groups) ∧
        ∀ i, i < 64 → i / 8 = o.groups → (tileOf u k o.tile).rows.toList.getD i zeroVec = o.result.toList.getD i zeroVec) ∧
      (s.input.good = false → ∃ u, exec .rowGroupCheck s = .next u ∧ SameBytes s u ∧ tileOf u k o.tile = tileOf s k o.tile ∧
        (clusterOf u (k / 4)).arbs = (clusterOf s (k / 4)).arbs ++ [arbOfOp k o])) ∧
    (finished s k = some o → o.error = none → o.spoil = false → ∃ u w, exec .engineOperationCompletion s = .next u ∧ u = countWork o.ctx o.bundle o.events w ∧
      (∀ e ∈ (coreOf w o.ctx.coreNo).queue, k = o.ctx.coreNo → e.id ≠ o.id ∧ o.id ∉ e.deps) ∧ (tileOf w k o.tile).bad = false ∧
      ∀ kr, o.tok = some kr → (getCtx w o.ctx).k[kr.val] ≠ some o.id) ∧
    ((coreOf s k).stores.find? (fun t => t.start.isNone && t.deps.isEmpty) = some t → t.error = none → (tileOf s k t.tile).bad = false →
      exec .tstDrainStart s = .next (modStore k t.id (fun x => { x with
        start := some s.now
        image := (tstImage (tileOf s k t.tile).rows t.isInt t.dty t.rnd t.seed t.s31).1
        events := (tstImage (tileOf s k t.tile).rows t.isInt t.dty t.rnd t.seed t.s31).2
        bins := if t.hist.isSome then (tileOf s k t.tile).rows.toList.flatMap fun r => r.toList.map fun y => histBin t.isInt y.toNat else [] }) s)) ∧
    ((coreOf s k).stores.find? (fun t => t.start.isSome && decide (t.groups < 8)) = some t →
      let now' := max s.now (t.start.getD 0 + 2 + 2 * t.groups)
      (s.input.good = true → exec .tstRowGroupCompare s =
        .next (modStore k t.id (fun x => { x with groups := x.groups + 1, doneAt := now' }) { s with now := now' })) ∧
      (s.input.good = false → ∃ u, exec .tstRowGroupCompare s = .next u ∧ SameBytes s u ∧ u.ctx = s.ctx ∧
        (clusterOf u (k / 4)).arbs = (clusterOf s (k / 4)).arbs ++ [arbOfStore k t] ∧
        ∀ e ∈ (coreOf u k).stores, e.id = t.id → ∃ f ∈ (coreOf s k).stores, f.id = t.id ∧
          e.groups = f.groups + 1 ∧ e.arbs = f.arbs + 1)) ∧
    (∀ rest, (coreOf s k).stores = t :: rest → t.groups = 8 → t.arbs = 0 → s.spm.wf = true →
      storeAwaited s k t.id (spmKey (t.core, t.off)) t.size = false →
      ∃ u, exec .tstCommit s = .next u ∧ SpmHolds [(spmKey (t.core, t.off), t.image)] s u ∧
        ∀ kr, t.tok = some kr → (getCtx u t.ctx).k[kr.val] ≠ some t.id)) ∧
  (∀ (s : State) (b : Arb) (rest : List Arb),
    let g := s.input.clu.val
    let t := modCluster { s with now := s.now + 7500 } g fun u => { u with arbs := rest }
    let record (named : Nat) (p q : Word) (u : State) : State := disagreement b.who b.bundle b.tile b.group named b.op p q u
    (clusterOf s g).arbs = b :: rest →
    (s.input.verdict = .primary → ∃ q, exec .lanternArbitration s = .next (record 1 b.sig q (countWork b.who b.bundle [10] (standing b t)))) ∧
    (s.input.verdict = .shadow → ∃ q, exec .lanternArbitration s = .next (record 0 q b.sig (countWork b.who b.bundle [10] (standing b t)))) ∧
    (s.input.verdict = .neither → ∃ q r, exec .lanternArbitration s = .next (record 2 q r (unresolved b t))) ∧
    (s.input.verdict = .passesDiffer → ∃ q r, exec .lanternArbitration s = .next (record 3 q r (unresolved b t))) ∧
    (b.store = false → ∀ o, (coreOf t b.core).queue.find? (fun o => o.id = b.id) = some o → o.ctx.coreNo = b.core →
      ∀ e ∈ (coreOf (unresolved b t) b.core).queue, e.id = b.id → e.error = some 0x17))

/-- R263, R272–R277: CPY, CPYX and GATH that pass their checks enter their cluster's queue, and their token becomes
pending; a full queue stalls; a failing check traps with its operand. -/
def Obligations.CopyIssue : Prop :=
  ∀ (s : State) (ad aS aI : AR) (x : SR) (dsp ssp : Fin 8) (rl : Fin 32) (opt : EngOpt) (tok : Tokens), Computes s →
    (opt.b = false → opt.ab = 0) → (consumed tok).Nodup → (tok.pv = true → tok.prod ∉ consumed tok) →
    let g := s.who.cluster
    let D := ea s ad 0
    let S := ea s aS 0
    let X := ea s aI 0
    let n := rdS s x
    let barrier : Prop := opt.b = true → (ea s opt.ab 0).toNat < 2 ^ 56 ∧ (ea s opt.ab 0).toNat % 8 = 0
    let optR : List RegName := if opt.b then [.a opt.ab] else []
    let idle : Prop := ¬ (tok.pv = true ∧ pendingTok s tok.prod = true) ∧ acquirePending s = false
    let entered (t : State) (op : CopyOp) (kind : CopyKind) (dsp ssp : Nat) (src : Word) : Prop :=
      op.ctx = s.who ∧ op.bundle = s.frame.base ∧ op.kind = kind ∧ op.dsp = dsp ∧ op.ssp = ssp ∧ op.dst = D.toNat ∧ op.src = src.toNat ∧
      op.n = n.toNat ∧ op.evrec = opt.e ∧ op.cb = (if opt.b then some (ea s opt.ab 0).toNat else none) ∧ op.deps = captures tok s ∧
      op.moved = false ∧ op.error = none ∧ (tok.pv = true → t.ctx.k[tok.prod.val] = some op.id) ∧ SameBytes s t ∧ SameFiles s t
    (∀ e ∈ ([(.cpy ad aS x dsp ssp opt tok, .cpy), (.cpyx ad aS x dsp ssp opt tok, .cpyx)] : List (Instr × CopyKind)),
      (spaceUsable s dsp = false ∨ spaceUsable s ssp = false → exec e.1 s = trapAt 4 0x02 s.frame.parcel s) ∧
      (spaceUsable s dsp = true → spaceUsable s ssp = true → Ready (.a ad :: .a aS :: .s x :: optR) [] s →
        (D.toNat % 4 ≠ 0 → exec e.1 s = trapAt 12 0x08 D s) ∧
        (D.toNat % 4 = 0 → S.toNat % 4 = 0 → n.toNat % 4 = 0 → 2 ^ 30 < n.toNat → exec e.1 s = trapAt 12 0x0C n s) ∧
        (D.toNat % 4 = 0 → S.toNat % 4 = 0 → n.toNat % 4 = 0 → n.toNat ≤ (if e.2 = .cpyx then 2 ^ 18 else 2 ^ 30) →
          spaceFault s dsp.val D n.toNat = none → spaceFault s ssp.val S n.toNat = none → barrier → idle →
          ((clusterOf s g).copies.length < 32 → ∃ (t : State) (op : CopyOp), exec e.1 s = .next t ∧ (clusterOf t g).copies = (clusterOf s g).copies ++ [op] ∧
            entered t op e.2 dsp.val ssp.val S) ∧
          (32 ≤ (clusterOf s g).copies.length → exec e.1 s = stall s)))) ∧
    (rl.val < 2 ∨ 14 < rl.val → exec (.gath ad aS aI x rl opt tok) s = trapAt 4 0x02 s.frame.parcel s) ∧
    (2 ≤ rl.val → rl.val ≤ 14 → Ready (.a ad :: .a aS :: .a aI :: .s x :: optR) [] s →
      n.toNat ≤ 65536 → S.toNat < 2 ^ 56 → D.toNat % 4 = 0 → X.toNat % 4 = 0 → S.toNat % 4 = 0 →
      spaceFault s 0 D (n.toNat * 2 ^ rl.val) = none → spaceFault s 0 X (4 * n.toNat) = none → barrier → idle →
      ((clusterOf s g).gathers.length < 16 → ∃ (t : State) (op : CopyOp), exec (.gath ad aS aI x rl opt tok) s = .next t ∧
        (clusterOf t g).gathers = (clusterOf s g).gathers ++ [op] ∧ entered t op (.gath rl.val S.toNat) 0 0 X) ∧
      (16 ≤ (clusterOf s g).gathers.length → exec (.gath ad aS aI x rl opt tok) s = stall s))

/-- (a) R275, R279: a copy inside the scratchpads, its ranges apart and met by no other write, moves every byte and
no other. (b) R84, R263, R270, R276, R278: an attempt of CPYX whose words and folds agree writes them all; a failed one
counts a class-12 event (read with the error log and the class's threshold off) and writes nothing, the fifth ends it in error
0x17; an operation that is over leaves its queue, posts its record and clears its token; a record waits for room. What a CPYX
has for other devices is held back while its writes stand in bounce rings (holdBack, R278); a record of an audit's replay is
suppressed (R443). -/
def Obligations.CopyWorkAndEnds : Prop :=
  (∀ (s : State) (o : CopyOp) (d q : Nat × Nat), findCopy s s.input.clu.val s.input.num = some o → o.kind = .cpy →
    o.deps = [] → o.waitsVa = none → o.moved = false → o.error = none → o.progress = 0 → o.spoilt = [] → o.dsp = 0 → o.ssp = 0 →
    o.dst % 4 = 0 → o.src % 4 = 0 → o.n % 4 = 0 →
    localPlace o.ctx.coreNo o.dst = some d → localPlace o.ctx.coreNo o.src = some q → d.2 + o.n ≤ 0x800000 → q.2 + o.n ≤ 0x800000 →
    (spmKey d + o.n ≤ spmKey q ∨ spmKey q + o.n ≤ spmKey d) → (coreOf s o.ctx.coreNo).waits = [] → s.spm.wf = true →
    ∃ t, exec .copyStart s = .next t ∧ t.mem = s.mem ∧ t.ctx.v = s.ctx.v ∧
      (∀ i, i < o.n → t.spm.read (spmKey d + i) = s.spm.read (spmKey q + i)) ∧
      (∀ k, (k < spmKey d ∨ spmKey d + o.n ≤ k) → t.spm.read k = s.spm.read k) ∧
      ∀ e ∈ (clusterOf t s.input.clu.val).copies ++ (clusterOf t s.input.clu.val).gathers, e.id = o.id → e.moved = true) ∧
  (∀ (s u : State) (o : CopyOp) (bs : List (Byte × Bool)),
    let g := s.input.clu.val
    (findCopy s g s.input.num = some o → o.kind = .cpyx → o.started = true → o.moved = false → o.waitsVa = none → o.held = none →
      readAll o (pieces o) 0 s = .ok u bs →
      (s.input.good = false → ∃ t, exec .cpyxAttempt s = .next t ∧ t.spm = u.spm ∧
        (u.dev.errlog = 0 → u.dev.thresh[12].toNat % 2 ^ 32 = 0 → t.mem = u.mem ∧ t.dev.tot[12] = u.dev.tot[12] + 1) ∧
        ∀ e ∈ (clusterOf t g).copies, e.id = o.id →
          (o.attempts < 4 → ∃ f ∈ (clusterOf u g).copies, e.attempts = f.attempts + 1 ∧ e.moved = f.moved) ∧
          (4 ≤ o.attempts → e.moved = true ∧ e.error = some 0x17)) ∧
      (∀ i v, s.input.good = true → s.input.bytes = none → tileAgrees u o (bs.map (·.1)) = true →
        writeAll o bs (pieces o) 0 u = (i, .ok v ()) → exec .cpyxAttempt s = .next (settleRun g o (o.n, .ok (holdBack g o u v) ())))) ∧
    (findCopy s g s.input.num = some o → o.moved = true → o.waitsVa = none → o.error = none → o.spoilt = [] → o.unsent = [] → o.cb = none →
      ∃ t, exec .copyArrival s = .next t ∧ (∀ e ∈ (clusterOf t g).copies ++ (clusterOf t g).gathers, e.id ≠ o.id) ∧
        (∀ kr, o.tok = some kr → (getCtx t o.ctx).k[kr.val] ≠ some o.id) ∧
        (clusterOf t g).posting = (clusterOf s g).posting ++
          (if o.evrec then [⟨o.bundle, o.task, o.ctx.cluster, o.ctx.who, match o.kind with | .cpy => 0 | .cpyx => 1 | .gath _ _ => 2, 0, 0⟩]
           else [])) ∧
    (∀ r rest, (clusterOf s g).posting = r :: rest → isReplay r.task = false →
      ((clusterOf s g).events.length < Config.eventQueueDepth → ∃ t, exec .eventRecordPost s = .next t ∧ SameBytes s t ∧ t.ctx = s.ctx ∧
        (clusterOf t g).events = (clusterOf s g).events ++ [r] ∧ (clusterOf t g).posting = rest) ∧
      ((clusterOf s g).events ≠ [] → Config.eventQueueDepth ≤ (clusterOf s g).events.length → exec .eventRecordPost s = .next s)))

/-! ## The CM slot -/

/-- (a) R284, R285, R289: SEND and SENDS put their register's value behind the channel's elements; without room,
credit or release they stall; over a closed route both ends close. (b) R105, R287, R288: CHQ reads the channel's state: a send counts from two schedule
cycles on; CHCLOSE closes it at both ends, and on an inbound channel what no receive has claimed is discarded and
counted. -/
def Obligations.ChannelSendsAndState : Prop :=
  (∀ (s : State) (v : VR) (x : SR) (c : CR),
    let instrs : List (Instr × RegName × List Nat × ChElem) :=
      [(.send v c, .v v, [0, 1], .vec (rdV s v)), (.sends x c, .s x, [2], .scalar (rdS s x))]
    ∀ e ∈ instrs, (s.who.isSys = false ∨ e.2.1 = .s x) →
      (bindOf s.ctx c = none → exec e.1 s = trapAt 10 0x11 (BitVec.ofNat 64 c.val) s) ∧
      ∀ b ch, bindOf s.ctx c = some b → chanOf s b.chan = some ch →
        (b.out = false ∨ b.shape ∉ e.2.2.1 ∨ ch.closed = true → exec e.1 s = trapAt 10 0x11 (BitVec.ofNat 64 c.val) s) ∧
        (b.out = true → b.shape ∈ e.2.2.1 → ch.closed = false → Ready [e.2.1] [] s →
          let open_ := ch.unclaimed ≠ b.depth ∧ ch.credit = true ∧ releaseReady s s.who (endScope s.who ch.dst) = true
          (open_ → ∃ t, exec e.1 s = .next t ∧ SameBytes s t ∧
            (chanRoute s ch = true → SameFiles s t ∧ t.ctx.lands = s.ctx.lands ∧ chanOf t b.chan = some { ch with q := ch.q ++ [(e.2.2.2, s.ctx.clock)] }) ∧
            (chanRoute s ch = false → ∃ ch', chanOf t b.chan = some ch' ∧ ch'.closed = true)) ∧
          (¬ open_ → ∃ t, exec e.1 s = .next t ∧ t.frame.out = .stalled ∧ t.chans = s.chans ∧ SameBytes s t ∧ SameFiles s t))) ∧
  (∀ (s : State) (x : SR) (c : CR) (b : ChanBind) (ch : Chan), bindOf s.ctx c = some b → chanOf s b.chan = some ch →
    (Ready [] [.s x] s → ∃ n, exec (.chq x c) s = .next (land (.s x) (.word (BitVec.ofNat 64
        ((if ch.closed then 2 ^ 63 else 0) + ch.dropped * 2 ^ 32 + n % 128))) 2 s) ∧ n ≤ ch.unclaimed ∧
      ((b.out = true → ∀ t ∈ b.sent, t + 2 ≤ s.ctx.sc) → n = ch.unclaimed)) ∧
    (∃ t, exec (.chclose c) s = .next t ∧ c ∈ t.ctx.closed ∧ ∃ ch', chanOf t b.chan = some ch' ∧ ch'.closed = true ∧
      (ch.closed = true → ch' = ch) ∧
      (ch.closed = false → b.out = true → ch'.q = ch.q) ∧
      (ch.closed = false → b.out = false → ch'.q.length = min ch.q.length ch.claims.length ∧
        ch'.dropped = min 0xFFFF (ch.dropped + (ch.q.length - ch.claims.length)))))

/-- (a) R284, R286: a receive takes the oldest element within its bound, or claims the next one, its destination
interlocked; on a closed channel with nothing left it faults. What the sender has published inside the cluster (R289, R296)
is observed as the result lands, or at once where the register ignores writes. (b) R32, R286, R291: an element fills the oldest claim;
a wait that exceeds its limit ends: its claim fails and the fault waits for the context. -/
def Obligations.ChannelReceivesAndSteps : Prop :=
  (∀ (s : State) (v : VR) (x : SR) (c : CR) (b : ChanBind) (ch : Chan), s.who.isSys = false →
    bindOf s.ctx c = some b → chanOf s b.chan = some ch → b.out = false →
    let takes (i : Instr) (shapes : List Nat) (r : RegName) (rs : List RegName) (L : Nat) (val : ChElem → RegVal) (fits : ChElem → Prop) : Prop :=
      b.shape ∈ shapes →
      (ch.closed = true → ch.unclaimed = 0 → exec i s = trapAt 10 0x11 (BitVec.ofNat 64 c.val) s) ∧
      (Ready rs [r] s →
        (∀ e rest, ch.claims = [] → ch.q = e :: rest → fits e.1 → ∃ t, exec i s = .next t ∧ Landed s t r (val e.1) L ∧
          (r.wired = false → (getCtx t s.who).clock = s.ctx.clock ∧
            ∃ l ∈ t.ctx.lands, l.reg = r ∧ l.id = fresh s ∧ l.ready = true ∧ l.clock = elemClock s.who ch.src e.2) ∧
          (r.wired = true → (getCtx t s.who).clock = clockJoin s.ctx.clock (elemClock s.who ch.src e.2)) ∧
          chanOf t b.chan = some { ch with q := rest }) ∧
        ((ch.claims ≠ [] ∨ ch.q = []) → (ch.closed = false ∨ ch.unclaimed ≠ 0) → ∃ t q, exec i s = .next t ∧
          chanOf t b.chan = some { ch with claims := ch.claims ++ [q] } ∧ q.ctx = s.who ∧ q.reg = r ∧ q.since = s.now ∧ SameBytes s t ∧
          (r.wired = false → ∃ l ∈ t.ctx.lands, l.reg = r ∧ l.id = q.id ∧ l.ready = false)))
    let vec (e : ChElem) : Vec := match e with | .vec y => y | .scalar _ => zeroVec
    let isVec (e : ChElem) : Prop := ∃ y, e = .vec y
    let lane (e : Vec) (i : Fin 64) : Nat × Nat := ((rdV s v)[i].toNat, e[i].toNat)
    takes (.recv v c) [0, 1] (.v v) [] 3 (fun e => .vec (vec e)) isVec ∧
    takes (.recvadd v c) [0] (.v v) [.v v] 6
      (fun e => .vec (Vector.ofFn fun i => BitVec.ofNat 32 (fop2 .f32 numAdd (lane (vec e) i).1 (lane (vec e) i).2).1)) isVec ∧
    takes (.recvmax v c) [0, 1] (.v v) [.v v] 4
      (fun e => .vec (Vector.ofFn fun i => BitVec.ofNat 32 (if b.shape = 1 then
          (if (BitVec.ofNat 32 (lane (vec e) i).1).toInt < (BitVec.ofNat 32 (lane (vec e) i).2).toInt then (lane (vec e) i).2 else (lane (vec e) i).1)
        else fminmax .f32 true (lane (vec e) i).1 (lane (vec e) i).2))) isVec ∧
    takes (.recvs x c) [2] (.s x) [] 3 (fun e => .word (match e with | .scalar y => y | .vec _ => 0)) (fun e => ∃ y, e = .scalar y)) ∧
  (∀ (s : State) (b : ChanBind) (ch : Chan) (q : Claim),
    let i := s.input
    (∀ e rest more, bindOf (getCtx s i.ctx) i.ch = some b → chanOf s b.chan = some ch → i.good = true → i.elem = none →
      ch.q = e :: rest → ch.claims = q :: more → (b.out = true → ch.dst ≠ none) →
      ∃ t, exec .claimFill s = .next t ∧ chanOf t b.chan = some { ch with q := rest, claims := more } ∧
        ∀ l ∈ (getCtx t q.ctx).lands, l.id = q.id → l.ready = false → l.val = (received q.fn q.isInt q.v e.1).1) ∧
    (∀ e ∈ ([(.channelWatchdog, 0x11, .claim), (.collectiveTimeout, 0x12, .collective)] : List (Instr × BitVec 8 × LateKind)),
      oldestWait s i.ctx e.2.1 = some (b, some q) → chanOf s b.chan = some ch → (getCtx s q.ctx).run ≠ .retired →
      ∃ t, exec e.1 s = .next t ∧
        realAt s q.since + (waitLimit s b).1 * usUnits ≤ realAt s s.now + (t.now - s.now) * cycleUnits s.dev.clk ∧
        chanOf t b.chan = some { ch with claims := ch.claims.filter fun y => y.id ≠ q.id } ∧
        (getCtx t q.ctx).late = (getCtx s q.ctx).late ++ [⟨e.2.2, e.2.1, BitVec.ofNat 64 q.num.val, 0, none⟩] ∧
        ∀ l ∈ (getCtx t q.ctx).lands, l.id = q.id → l.ready = true) ∧
    (∀ e ∈ ([(.channelWatchdog, 0x11), (.collectiveTimeout, 0x12)] : List (Instr × BitVec 8)), i.ctx.isSys = false →
      oldestWait s i.ctx e.2 = some (b, none) →
      ∃ t, exec e.1 s = .next t ∧ (getCtx t i.ctx).run = .stopped ∧ (getCtx t i.ctx).cause.truncate 8 = e.2 ∧
        (getCtx t i.ctx).epc = (getCtx s i.ctx).pc ∧ (getCtx t i.ctx).tval = BitVec.ofNat 64 b.num.val))

/-! ## The CT slot -/

/-- (a) R142–R147: the transfers of control. A tree goes to the leaf of its first test that holds, or on. (b) R149,
R150, R153, R155: LOOP pushes a level or skips its body; the end of an iteration goes back to F or pops the level;
LBRK ends levels; what the sequencer turns away is an illegal bundle. Where the bundle after E lies when E's line cannot be read is
log 74 (DESIGN CHOICE). -/
def Obligations.TransfersAndLoops : Prop :=
  (∀ (s : State) (t0 t1 t2 t3 : BTest) (off : BitVec 26) (b : BR),
    let goes (t : State) (target : Word) : State := { t with frame := { t.frame with next := target, transfer := true } }
    let target : Word := BitVec.ofInt 64 (s.frame.base.toInt + 4 * off.toInt)
    let ts := [t0, t1, t2, t3]
    let holds (t : BTest) : Prop := t.v = true ∧ rdP { s with frame := { s.frame with slot := 7 } } t.p ≠ t.n
    (exec (.jmp off) s = .next (goes s target)) ∧
    (Ready [] [.b 7] s → exec (.call off) s = .next (goes (land (.b 7) (.word s.frame.next) 1 s) target)) ∧
    (Ready [.b b] [] s → exec (.jmpb b) s = .next (goes s (rdB s b)) ∧ exec (.retb b) s = .next (goes s (rdB s b))) ∧
    (Ready ((ts.filter (·.v)).flatMap fun t => [.p t.p, .b t.leaf]) [] s →
      (∀ (i : Nat) (t : BTest), ts[i]? = some t → holds t → (∀ (j : Nat) (t' : BTest), j < i → ts[j]? = some t' → ¬ holds t') →
        exec (.btree t0 t1 t2 t3) s = .next (goes s (rdB s t.leaf))) ∧
      ((∀ t ∈ ts, ¬ holds t) → exec (.btree t0 t1 t2 t3) s = .next s))) ∧
  (∀ (s : State) (x : SR) (endOff : BitVec 19) (level : Fin 8) (n : Bool) (p : PR) (init : List LoopLevel) (l : LoopLevel),
    let e : Word := BitVec.ofNat 64 (s.frame.base.toNat + 4 * endOff.toNat)
    (6 ≤ s.ctx.loops.length ∨ atLoopEnd s = true → exec (.loop x endOff) s = trapAt 7 0x01 s.frame.parcel s) ∧
    (s.ctx.loops.length < 6 → atLoopEnd s = false → Ready [.s x] [] s →
      (rdS s x ≠ 0 → exec (.loop x endOff) s =
        .next { s with ctx := { s.ctx with loops := s.ctx.loops ++ [⟨0, rdS s x, s.frame.next, e⟩] } }) ∧
      (rdS s x = 0 → ∃ t, exec (.loop x endOff) s = .next t ∧ t.ctx.loops = s.ctx.loops ∧ t.ctx.lands = s.ctx.lands ∧
        t.frame.next = (successorAt e s).2 ∧ t.frame.transfer = s.frame.transfer)) ∧
    (6 ≤ level.val → exec (.lbrk level n p) s = trapAt 4 0x02 s.frame.parcel s) ∧
    (level.val < 6 → s.ctx.loops[level.val]? = none → exec (.lbrk level n p) s = trapAt 7 0x01 s.frame.parcel s) ∧
    (level.val < 6 → s.ctx.loops[level.val]? = some l → Ready [.p p] [] s →
      (rdP s p = n → exec (.lbrk level n p) s = .next s) ∧
      (rdP s p ≠ n → ∃ t, exec (.lbrk level n p) s = .next t ∧ t.ctx.loops = s.ctx.loops.take level.val ∧ t.ctx.lands = s.ctx.lands ∧
        t.frame.next = (successorAt l.last s).2 ∧ t.frame.transfer = true)) ∧
    (s.ctx.loops = init ++ [l] → s.frame.transfer = false →
      (l.index.toNat < (l.count - 1).toNat → endIteration true s = { s with
        ctx := { s.ctx with loops := init ++ [{ l with index := l.index + 1 }] }
        frame := { s.frame with next := l.first, transfer := true } }) ∧
      ((l.count - 1).toNat ≤ l.index.toNat → (∀ m, init.getLast? = some m → m.last ≠ l.last) →
        (endIteration true s).ctx.loops = init ∧ (endIteration true s).frame.next = (successorAt l.last s).2)))

/-- R83, R157–R159, R164, R167, R168: the format takes effect after four schedule cycles; FEAT, YIELD and the seed stack. That FMTW
accepts the element codes 14 and 15 is log 57 (DESIGN CHOICE between R65 and R74, R157). -/
def Obligations.ControlState : Prop :=
  ∀ (s : State) (x : SR) (tok : Tokens) (word : Fin 4) (imm : BitVec 16),
    let v : BitVec 32 := BitVec.ofNat 32 (rdS s x).toNat
    let later (t : State) (n : Nat) : Ctx := { t.ctx with sc := t.ctx.sc + n }
    let top := s.ctx.seeds.toList.getD (s.ctx.depth - 1) 0
    let pushed (t : State) (y : Word) : Prop := t.ctx.depth = s.ctx.depth + 1 ∧ seedTop t.ctx = y ∧
      ∀ i, i < s.ctx.depth → t.ctx.seeds.toList.getD i 0 = s.ctx.seeds.toList.getD i 0
    (s.who.isSys = false → Ready [.s x] [] s →
      let legal := v.toNat < 2 ^ 14 ∧ v.toNat / 2 ^ 12 % 4 < 2 ∧ v.toNat / 2 ^ 8 % 16 < 5 ∧ (v.toNat / 2 ^ 12 % 4 = 1 → accepted s 3 = true)
      (legal → ∃ t, exec (.fmtw x) s = .next t ∧ fmtNow t.ctx = fmtNow s.ctx ∧ (∀ n, 4 ≤ n → fmtNow (later t n) = v) ∧ SameBytes s t ∧
        SameFiles s t ∧ t.ctx.lands = s.ctx.lands) ∧
      (¬ legal → exec (.fmtw x) s = trapAt 4 0x02 s.frame.parcel s)) ∧
    (s.who.isSys = false →
      (¬ (consumed tok).Nodup ∨ (tok.pv = true ∧ tok.prod ∈ consumed tok) → exec (.waitk tok) s = trapAt 9 0x10 s.frame.parcel s) ∧
      ((consumed tok).Nodup → (tok.pv = true → tok.prod ∉ consumed tok) →
        ((∃ k ∈ consumed tok, pendingTok s k = true) → exec (.waitk tok) s = stall s) ∧
        ((∀ k ∈ consumed tok, pendingTok s k = false) → ∃ t, exec (.waitk tok) s = .next t ∧ t.who = s.who ∧ SameBytes s t ∧
          t.ctx.lands = s.ctx.lands ∧ SameSpecials s t))) ∧
    (Ready [] [.s x] s → exec (.feat x word) s = .next (land (.s x) (.word s.dev.featAck[word.val]) 1 s) ∧
      exec (.seedr x) s = .next (land (.s x) (.word top) 1 s)) ∧
    (exec .yield s = .next { s with frame := { s.frame with yields := true } }) ∧
    (8 ≤ s.ctx.depth → exec (.seedp x) s = trapAt 8 0x0C s.frame.parcel s ∧ exec (.seedf imm) s = trapAt 8 0x0C s.frame.parcel s) ∧
    (s.ctx.depth < 8 → (Ready [.s x] [] s → ∃ t, exec (.seedp x) s = .next t ∧ pushed t (rdS s x)) ∧
      ∃ t, exec (.seedf imm) s = .next t ∧ pushed t (mix (top ^^^ BitVec.ofNat 64 (imm.toNat * 0x9E3779B97F4A7C15)))) ∧
    (s.ctx.depth ≤ 1 → exec .seedo s = trapAt 8 0x0C s.frame.parcel s) ∧
    (1 < s.ctx.depth → exec .seedo s = .next { s with ctx := { s.ctx with depth := s.ctx.depth - 1 } })

/-- R160–R163, R268: BAR and BARA arrive once and wait for their phase; a phase ends with its last participant. Where the
release of the arrival is not done yet, BAR stalls and BARA issues: its arrival counts once it is. CBWAIT reads its word at
home, as the bounce rings leave it, until the count or the error bit is there. -/
def Obligations.BarriersAndWaits : Prop :=
  ∀ (s : State) (id : Fin 64) (b : Barrier) (d x : SR) (a : AR),
    let task := s.ctx.task
    (barrierOf s task id.val = none →
      exec (.bar id) s = trapAt 8 0x0C s.frame.parcel s ∧ exec (.bara id) s = trapAt 8 0x0C s.frame.parcel s) ∧
    (barrierOf s task id.val = some b →
      let last := b.count ≤ b.arrived + 1 + b.gone
      let counted (t : State) : Prop := ∃ b', barrierOf t task id.val = some b' ∧ b'.count = b.count ∧
        (last → b'.phase = b.phase + 1 ∧ b'.arrived = 0) ∧ (¬ last → b'.phase = b.phase ∧ b'.arrived = b.arrived + 1)
      (outstanding s id.val = none → arrivalReady s b = true →
        (∃ t, exec (.bara id) s = .next t ∧ counted t ∧ outstanding t id.val = some b.phase ∧ SameBytes s t ∧ SameFiles s t) ∧
        (∃ t, exec (.bar id) s = .next t ∧ counted t ∧ SameBytes s t ∧ SameFiles s t ∧
          (last → t.frame.out = s.frame.out ∧ outstanding t id.val = none) ∧
          (¬ last → t.frame.out = .stalled ∧ outstanding t id.val = some b.phase))) ∧
      (outstanding s id.val = none → arrivalReady s b = false →
        exec (.bar id) s = stall s ∧
        ∃ t, exec (.bara id) s = .next t ∧ barrierOf t task id.val = some b ∧ outstanding t id.val = some b.phase ∧
          (id.val, s.ctx.clock) ∈ t.ctx.arriving ∧ SameBytes s t ∧ SameFiles s t) ∧
      (∀ p, outstanding s id.val = some p →
        (phaseDone s id.val p = true → ∃ t, exec (.bar id) s = .next t ∧ outstanding t id.val = none ∧ SameBytes s t ∧ SameFiles s t) ∧
        (phaseDone s id.val p = false → exec (.bar id) s = stall s ∧ exec (.bara id) s = stall s))) ∧
    (Ready [.a a, .s x] [.s d] s → (ea s a 0).toNat < 2 ^ 56 → (ea s a 0).toNat % 8 = 0 → acquirePending s = false →
      atomicsPending s = false → ∀ u key hw, translate (accOf s s.who) .read (ea s a 0).toNat s = (u, .ok key hw) →
      (∀ dev, placeOf u key ≠ .remote dev) →
      let v : State := { u with ctx := { u.ctx with asked := none } }
      ((∀ q : Fin 8, (stackOf v q).bounce = []) → homeOpen v s.who.stack (placeOf v key) = true → key / 64 ∉ v.poison →
        homeLook (accOf v s.who) (ea s a 0).toNat key 4 v = .ok (natOf ((List.range 4).map fun i => homeByte v (key + i)))) ∧
      ∀ w, homeLook (accOf v s.who) (ea s a 0).toNat key 4 v = .ok w →
      let met := (rdS v x).toNat % 2 ^ 31 ≤ w % 2 ^ 31 ∨ 2 ^ 31 ≤ w
      (met → ∃ t, exec (.cbwait d a x) s = .next t ∧ Landed v t (.s d) (.word (BitVec.ofNat 64 w)) 4 ∧ SameBytes v t) ∧
      (¬ met → exec (.cbwait d a x) s = stall v))

/-- R89, R91, R165, R166, R270, R360: TRAP and SYSC issue their bundle and then stop with its successor in SYS_EPC; EXIT retires its
context and posts a kind-5 record, whose bytes 0 to 7 are the bundle's address (log 30, DEDUCED); a gap bundle advances the schedule count by 1 + G and a skipped one not at all. -/
def Obligations.TrapsExitsAndBareBundles : Prop :=
  ∀ (s : State) (imm : BitVec 16) (h : Header), s.who.isSys = false →
    (∀ e ∈ ([(.trap imm, 0x1E), (.sysc imm, 0x1D)] : List (Instr × BitVec 8)), ∃ t, exec e.1 s = .next t ∧ t.who = s.who ∧
      t.frame.out = .done ∧ t.ctx.run = .stopped ∧ t.ctx.epc = s.frame.next ∧ t.ctx.cause.truncate 8 = e.2 ∧
      t.ctx.tval = BitVec.ofNat 64 imm.toNat ∧ t.ctx.sc = s.ctx.sc + 1 + s.frame.gap ∧ getBit t.ctx.status stSTOP = true) ∧
    (∃ t, exec .exit s = .next t ∧ t.who = s.who ∧ t.frame.out = .done ∧ t.ctx.run = .retired ∧ t.ctx.sc = s.ctx.sc + 1 + s.frame.gap ∧
      t.ctx.loops = [] ∧ (fillAwaited s s.who = false → t.ctx.regions = Vector.replicate 16 none) ∧ (∀ b ∈ t.ctx.chans, b.num ∈ t.ctx.closed) ∧
      (clusterOf t s.who.cluster).posting.getLast? = some ⟨s.frame.base, s.ctx.task, s.who.cluster, s.who.who, 5, 0, 0⟩) ∧
    (∃ t, exec (.gapBundle h) s = .next t ∧ t.frame.out = .done ∧ t.ctx.sc = s.ctx.sc + 1 + h.g.val ∧
      (∀ l ∈ t.ctx.lands, l ∈ s.ctx.lands ∧ (l.ready = true → t.ctx.sc < l.due)) ∧ (atLoopEnd s = false → t.ctx.pc = s.frame.next)) ∧
    (∃ t, exec (.skippedBundle h) s = .next t ∧ t.frame.out = .done ∧ t.ctx.sc = s.ctx.sc ∧ t.ctx.lands = s.ctx.lands ∧ SameFiles s t ∧
      (atLoopEnd s = false → t.ctx.pc = s.frame.next))

/-! ## The system profile -/

/-- R351, R353–R356, R358, R359, R363, R364, R432: GETSYS and SETSYS. In user mode they are privileged; register 0 names the
issuing context; another register must name a context that the core owns, and only registers of context scope. -/
def Obligations.SystemRegisters : Prop :=
  ∀ (s : State) (d x r : SR) (sel : BitVec 12),
    let n := sel.toNat
    let v := rdS s x
    let fits := s.who.isSys = true ∧ getBit s.ctx.status stMODE = true
    let dev := s.dev
    let values : List (Nat × Word) := [(0, s.ctx.status), (1, s.ctx.cause), (2, s.ctx.epc), (3, s.ctx.tval), (4, s.ctx.vbase),
      (5, s.ctx.ptbase), (6, BitVec.ofNat 64 s.ctx.asid.toNat), (0x010, 0x7FF), (0x011, 0), (0x014, dev.featAck[0]), (0x015, dev.featAck[1]),
      (0x020, BitVec.ofNat 64 dev.quantum), (0x021, BitVec.ofNat 64 dev.preempt), (0x022, BitVec.ofNat 64 dev.audit), (0x024, dev.errlog),
      (0x025, dev.debug), (0x026, BitVec.ofNat 64 dev.watchdog), (0x040, dev.thresh[0]), (0x050, dev.window[0]), (0x046, 0), (0x05F, 0)]
    let mine (f : Ctx → Ctx) : State := { s with ctx := f s.ctx }
    let device (f : Dev → Dev) : State := { s with dev := f dev }
    (¬ fits → exec (.setsysThreshWindow x r sel) s = trapAt 5 0x05 s.frame.parcel s ∧
      exec (.setsysFeatack x r sel) s = trapAt 5 0x05 s.frame.parcel s ∧
      (sysListed n = true → exec (.getsys d r sel) s = trapAt 5 0x05 s.frame.parcel s ∧ exec (.setsys x r sel) s = trapAt 5 0x05 s.frame.parcel s)) ∧
    (7 ≤ n → n < 0x010 → exec (.getsys d r sel) s = trapAt 4 0x02 s.frame.parcel s ∧ exec (.setsys x r sel) s = trapAt 4 0x02 s.frame.parcel s) ∧
    (fits → r = 0 → Ready [] [.s d] s → ∀ e ∈ values, n = e.1 → exec (.getsys d r sel) s = .next (land (.s d) (.word e.2) 1 s)) ∧
    (fits → r = 0 → Ready [.s x] [] s →
      (n = 0 → ∃ t, exec (.setsys x r sel) s = .next t ∧ t = mine (fun y => { y with status := t.ctx.status }) ∧
        ∀ i, i < 64 → getBit t.ctx.status i = if i < 5 then getBit v i else if i = 5 then getBit s.ctx.status i else false) ∧
      (n = 2 → exec (.setsys x r sel) s = .next (mine fun y => { y with epc := v })) ∧
      (n = 3 → exec (.setsys x r sel) s = .next (mine fun y => { y with tval := v })) ∧
      (n = 4 → exec (.setsys x r sel) s = .next (mine fun y => { y with vbase := BitVec.ofNat 64 (v.toNat / 64 * 64) })) ∧
      (n = 5 → exec (.setsys x r sel) s = .next (mine fun y => { y with ptbase := BitVec.ofNat 64 (v.toNat % 2 ^ 56 / 4096 * 4096) })) ∧
      (n = 6 → exec (.setsys x r sel) s = .next (mine fun y => { y with asid := BitVec.ofNat 16 v.toNat })) ∧
      (n = 0x020 → exec (.setsys x r sel) s = .next (device fun y => { y with quantum := max 1 (v.toNat % 2 ^ 16) })) ∧
      (n = 0x021 → exec (.setsys x r sel) s = .next (device fun y => { y with preempt := v.toNat % 2 ^ 32 })) ∧
      (n = 0x026 → exec (.setsys x r sel) s = .next (device fun y => { y with watchdog := v.toNat % 2 ^ 32 })) ∧
      (n = 0x010 ∨ n = 0x023 → exec (.setsys x r sel) s = .next s) ∧
      (∀ k : Fin 16, k.val ≠ 6 → k.val ≠ 7 → k.val ≠ 15 →
        (n = 0x040 + k.val → ∃ t, exec (.setsysThreshWindow x r sel) s = .next t ∧ t.dev.thresh[k.val] = BitVec.ofNat 64 (v.toNat % 2 ^ 34) ∧
          t.dev.window = dev.window ∧ t.dev.wc[k.val] = 0 ∧ t.dev.wstart[k.val] = s.now ∧ t.ctx = s.ctx ∧ SameBytes s t) ∧
        (n = 0x050 + k.val → ∃ t, exec (.setsysThreshWindow x r sel) s = .next t ∧ t.dev.window[k.val] = BitVec.ofNat 64 (v.toNat % 2 ^ 32) ∧
          t.dev.thresh = dev.thresh ∧ t.dev.wc[k.val] = 0 ∧ t.dev.wstart[k.val] = s.now ∧ t.ctx = s.ctx ∧ SameBytes s t)) ∧
      (n = 0x046 ∨ n = 0x057 → exec (.setsysThreshWindow x r sel) s = .next s) ∧
      (n = 0x014 → dev.computeStarted = false →
        exec (.setsysFeatack x r sel) s = .next (device fun y => { y with featAck := y.featAck.set 0 (v &&& 0x7FF) })) ∧
      (n = 0x014 → dev.computeStarted = true → exec (.setsysFeatack x r sel) s = .next s)) ∧
    (fits → r ≠ 0 → 0x010 ≤ n → n < 0x018 → exec (.getsys d r sel) s = trapAt 8 0x0C s.frame.parcel s) ∧
    (∀ g, s.who = .ctl g → getBit s.ctx.status stMODE = true → r ≠ 0 → n < 7 →
      let t := (rdS s r).toNat
      let c := userCtx (4 * g.val + t / 4 % 4) (t % 4)
      (t / 256 % 2 = 0 → Ready [.s r] [] s → exec (.getsys d r sel) s = trapAt 8 0x0C s.frame.parcel s) ∧
      (t / 256 % 2 = 1 → n = 2 → Ready [.s r] [] s → Ready [] [.s d] s → exec (.getsys d r sel) s = .next (land (.s d) (.word (getCtx s c).epc) 1 s)) ∧
      (t / 256 % 2 = 1 → n = 2 → Ready [.s x, .s r] [] s → ∃ u, exec (.setsys x r sel) s = .next u ∧ getCtx u c = { getCtx s c with epc := v } ∧
        u.who = s.who ∧ SameBytes s u ∧ ∀ y, y ≠ c → getCtx u y = getCtx s y))

/-- (a) R355, R356, R359–R361, R270: EQPOP takes the head record of the cluster's event queue; WFI waits until an
interrupt is pending; an interrupt enters the handler at a bundle boundary. (b) R355, R356, R406, R408, R409: with no
access (nor a write of the device) waiting for service or on its way to another device, TLBINV removes from every translation buffer the leaves of its kind and nothing else;
kind 3 is protection. -/
def Obligations.EventQueueAndTranslationInvalidation : Prop :=
  (∀ (s : State) (pd : PR) (d : SR) (g : Fin 96) (k : Fin 5),
    let sup := getBit s.ctx.status stMODE = true
    let high (r : Record) : Nat := r.task % 2 ^ 32 + r.cluster % 2 ^ 8 * 2 ^ 32 + r.who % 16 * 2 ^ 40 + r.kind % 16 * 2 ^ 44 +
      r.b14.toNat * 2 ^ 48 + r.b15.toNat * 2 ^ 56
    (s.who.isSys = false ∨ ¬ sup → exec (.eqpop pd d) s = trapAt 5 0x05 s.frame.parcel s ∧ exec .wfi s = trapAt 5 0x05 s.frame.parcel s ∧
      exec .eret s = trapAt 5 0x05 s.frame.parcel s) ∧
    (s.who = .ctl g → sup → d.val % 2 = 1 → exec (.eqpop pd d) s = trapAt 8 0x0C s.frame.parcel s) ∧
    (s.who = .ctl g → sup → ∀ h : d.val % 2 = 0, let e : SR := ⟨d.val + 1, by omega⟩
      Ready [] [.s d, .s e, .p pd] s →
      let puts (lo hi : Word) (f : Bool) (t : State) : State := land (.p pd) (.flag f) 1 (land (.s e) (.word hi) 1 (land (.s d) (.word lo) 1 t))
      ((clusterOf s g.val).events = [] → exec (.eqpop pd d) s = .next (puts 0 0 false s)) ∧
      (∀ r rest, (clusterOf s g.val).events = r :: rest →
        ∃ u, exec (.eqpop pd d) s = .next (puts r.lo (BitVec.ofNat 64 (high r)) true u) ∧ (clusterOf u g.val).events = rest ∧
          u.ctx = s.ctx ∧ SameBytes s u)) ∧
    (s.who = .ctl g → sup →
      ((clusterOf s g.val).events = [] → exec .wfi s = .next { s with ctx := { s.ctx with run := .waiting } }) ∧
      ((clusterOf s g.val).events ≠ [] → exec .wfi s = .next s)) ∧
    (s.who = .sys 0 0 → sup →
      ((∀ i : Fin 5, i ≠ 0 → s.dev.irq[i.val] = false) → exec .wfi s = .next { s with ctx := { s.ctx with run := .waiting } }) ∧
      (k ≠ 0 → s.dev.irq[k.val] = true → exec .wfi s = .next s)) ∧
    (let c := s.input.ctx
     let x := getCtx s c
     (getBit x.status stIE = false → exec .interrupt s = .next s) ∧
     (c = .sys 0 0 → isActive x.run = true → getBit x.status stIE = true → getBit x.status stTF = false → k ≠ 0 → s.dev.irq[k.val] = true →
       (∀ i : Fin 5, k < i → s.dev.irq[i.val] = false) →
       ∃ t, exec .interrupt s = .next t ∧ t.who = s.who ∧ SameBytes s t ∧ t.dev.irq[k.val] = false ∧
         let y := getCtx t c
         y.epc = x.pc ∧ y.cause = BitVec.ofNat 64 (k.val + 2 ^ 11) ∧ y.tval = 0 ∧ y.pc = x.vbase ∧ getBit y.status stMODE = true ∧
         getBit y.status stIE = false ∧ getBit y.status stTF = true ∧ getBit y.status stPMODE = getBit x.status stMODE ∧
         getBit y.status stPIE = true) ∧
     (c = .ctl g → isActive x.run = true → getBit x.status stIE = true → getBit x.status stTF = false → (clusterOf s g.val).events ≠ [] →
       ∃ t, exec .interrupt s = .next t ∧ (getCtx t c).cause = 2 ^ 11 ∧ (getCtx t c).epc = x.pc ∧ (getCtx t c).pc = x.vbase ∧
         clusterOf t g.val = clusterOf s g.val))) ∧
  (∀ (s : State) (a : AR) (x q : SR) (kind : Fin 4) (n : Fin 8) (i : Fin 4),
    let va := (ea s a 0).toNat
    let len := (rdS s x).toNat
    let asid : BitVec 16 := (rdS s q).truncate 16
    let kept (keep : TlbEntry → Bool) : State := { s with
      clusters := s.clusters.map fun c => (c.1, { c.2 with tlb := c.2.tlb.filter keep })
      dies := s.dies.map fun st => { st with tlb := st.tlb.filter keep } }
    let page (e : TlbEntry) : Nat := 2 ^ (12 + 9 * e.level)
    let meets (e : TlbEntry) : Bool := decide (e.va / page e * page e < va + len) && decide (va < e.va / page e * page e + page e)
    (s.who.isSys = false ∨ getBit s.ctx.status stMODE = false →
      exec (.tlbinvRange a x q) s = trapAt 5 0x05 s.frame.parcel s ∧ exec (.tlbinvAsid a x q) s = trapAt 5 0x05 s.frame.parcel s ∧
      exec (.tlbinvAll kind a x q) s = trapAt 5 0x05 s.frame.parcel s) ∧
    (s.who = .sys n i → getBit s.ctx.status stMODE = true →
      (kind = 3 → exec (.tlbinvAll kind a x q) s = trapAt 8 0x0C s.frame.parcel s) ∧
      (kind ≠ 3 → unperformed s (fun _ => true) = true → s.frame.cleared = false → exec (.tlbinvAll kind a x q) s = stall s) ∧
      ((∀ e ∈ s.cores, (coreOf s e.1).held = none ∧ e.2.waits = [] ∧ ∀ l ∈ (coreOf s e.1).sidelog, l.waits = none) → s.dev.outreqs = [] → s.dev.owed = [] →
        (∀ e ∈ s.clusters, ∀ o ∈ e.2.copies ++ e.2.gathers, o.waitsVa = none) → (∀ m : Fin 8, (stackOf s m).bounce = []) →
        (Ready [.a a, .s x, .s q] [] s → 0 < len →
          exec (.tlbinvRange a x q) s = .next (kept fun e => !((e.glob || e.asid == asid) && meets e))) ∧
        (Ready [.s q] [] s → exec (.tlbinvAsid a x q) s = .next (kept fun e => e.glob || e.asid != asid)) ∧
        (kind ≠ 3 → exec (.tlbinvAll kind a x q) s = .next (kept fun _ => false)))))

/-! ## Tasks -/

/-- R359, R370, R371, R374, R376, R384: TLAUNCH refuses a record or queues the task under the next identifier; a record that ends
past the address space raises protection (R170). TCOMMIT commits a completed task, and stalls until the audit of a sampled one has
ended (R443). readGlobal is the read of the record, recordOf its fields and loadImage the loader; where its relocations lack sectors
TLAUNCH stalls (R419). -/
def Obligations.LaunchAndCommit : Prop :=
  ∀ (s u v : State) (d x : SR) (a : AR) (bs : List Byte) (img : Option Image) (n : Fin 8) (i : Fin 4) (g : Fin 96),
    let addr := (ea s a 0).toNat
    let r := recordOf bs
    let id := u.dev.nextTask
    (s.who = .sys n i → getBit s.ctx.status stMODE = true → Ready [.a a] [.s d] s →
      (2 ^ 56 < addr + 1024 → exec (.tlaunch d a) s = trapAt 12 0x0C (BitVec.ofNat 64 addr) s) ∧
      (addr + 1024 ≤ 2 ^ 56 → readGlobal (accOf s s.who) false true addr 1024 s = .ok u bs → loadImage r.image u = .error v →
        exec (.tlaunch d a) s = stall v) ∧
      (addr + 1024 ≤ 2 ^ 56 → readGlobal (accOf s s.who) false true addr 1024 s = .ok u bs → loadImage r.image u = .ok (v, img) →
        (addr % 64 ≠ 0 ∨ imgNat bs 0 2 ≠ 1 ∨ 3 < r.pri ∨ r.mask = 0 ∨ r.jcb % 32 ≠ 0 ∨ img = none →
          exec (.tlaunch d a) s = .next (land (.s d) (.word 0) 1 v)) ∧
        (recordRefused v img addr bs r = false → (∀ e, earliestTask u = some e → (id + 2 ^ 32 - e) % 2 ^ 32 < 2 ^ 31) →
          ((queuedOn u (lowestBit r.mask / 12)).length < 256 →
            ∃ (t : State) (tk : Task), exec (.tlaunch d a) s = .next (land (.s d) (.word (BitVec.ofNat 64 id)) 1 t) ∧ t.tasks = v.tasks ++ [tk] ∧ t.mem = v.mem ∧
              t.ctx = v.ctx ∧ tk.id = id ∧ tk.recAt = addr ∧ tk.record = r ∧ tk.phase = .queued ∧ tk.pri = r.pri ∧ tk.waitFrom = u.now ∧
              t.dev.nextTask = (if id = 2 ^ 32 - 1 then 1 else id + 1)) ∧
          (256 ≤ (queuedOn u (lowestBit r.mask / 12)).length → exec (.tlaunch d a) s = stall u)))) ∧
    (s.who.isSys = false ∨ getBit s.ctx.status stMODE = false →
      exec (.tlaunch d a) s = trapAt 5 0x05 s.frame.parcel s ∧ exec (.tcommit x) s = trapAt 5 0x05 s.frame.parcel s) ∧
    (s.who = .ctl g → getBit s.ctx.status stMODE = true → Ready [.s x] [] s →
      let key := (rdS s x).toNat % 2 ^ 32
      (taskOf s key = none → exec (.tcommit x) s = trapAt 8 0x0C s.frame.parcel s) ∧
      ∀ t : Task, taskOf s key = some t →
        (t.phase ≠ .completed → exec (.tcommit x) s = trapAt 8 0x0C s.frame.parcel s) ∧
        (t.phase = .completed → t.audit ≠ .none → t.audit ≠ .passed → exec (.tcommit x) s = stall s) ∧
        (t.phase = .completed → t.audit = .none ∨ t.audit = .passed → isOrd t.record = false → s.mem.wf = true → (t.version.map (·.1)).Nodup →
          (∀ m : Fin 8, (stackOf s m).bounce = [] ∧ (stackOf s m).sump.waiting = []) →
          (∀ l ∈ t.lines, ∀ m p, placeOf s (64 * l.1) ≠ .nominal m p) → (∀ b ∈ t.version, b.1 < 2 ^ 56 ∧ ∀ m p, placeOf s b.1 ≠ .nominal m p) →
          ∃ w : State, exec (.tcommit x) s = .next w ∧ taskOf w key = none ∧ w.ctx = s.ctx ∧ w.spm = s.spm ∧
            (t.error = none → t.doomed = false → ∀ k, w.mem.read k = (Tbl.get? t.version k).getD (s.mem.read k)) ∧
            (t.error ≠ none ∨ t.doomed = true → w.mem = s.mem)))

/-- (a) R36, R384–R386: TABORT on a task that is queued, or dispatched with no context started, and of which no audit's replay runs: a
re-run goes back to the queue at the priority of its record (log 36, DEDUCED), a kill ends the task with its error bit set, its
cause 0x1E where the task has had no fault (log 59, DESIGN CHOICE). (b) On a control core: R384, R385: JCBADD and JCBPOST update the block at its
home in one indivisible access; JCBPOST waits for the context's stores as a release does. -/
def Obligations.TaskAbortsAndControlBlocks : Prop :=
  (∀ (s : State) (x : SR) (k : Fin 4) (g : Fin 96), s.who = .ctl g → getBit s.ctx.status stMODE = true →
    let id := (rdS s x).toNat % 2 ^ 32
    (2 ≤ k.val → exec (.tabortKill x k) s = trapAt 8 0x0C s.frame.parcel s) ∧
    (Ready [.s x] [] s →
      (taskOf s id = none → exec (.tabortRerun x) s = trapAt 8 0x0C s.frame.parcel s ∧ exec (.tabortKill x 1) s = trapAt 8 0x0C s.frame.parcel s) ∧
      ∀ t, taskOf s id = some t → (∀ k, 0 < k → taskOf s (replayId id k) = none) →
        (t.phase = .queued → exec (.tabortRerun x) s = .next s ∧ ∃ u, exec (.tabortKill x 1) s = .next u ∧ taskOf u id = none ∧ u.ctx = s.ctx ∧
          SameBytes s u ∧ (clusterOf u g.val).posting = (clusterOf s g.val).posting ++
            [⟨BitVec.ofNat 64 t.recAt, t.id, g.val, 0, 9, 0x1E, BitVec.ofNat 8 t.runs⟩]) ∧
        (t.phase = .dispatched → taskCtxs s id = [] → (∀ m : Fin 8, (stackOf s m).bounce = [] ∧ (stackOf s m).sump.waiting = []) →
          (∀ b ∈ t.version, ∀ m p, placeOf s b.1 ≠ .nominal m p) →
          (t.retries < 3 → ∃ u v, exec (.tabortRerun x) s = .next u ∧ taskOf u id = some v ∧ v.phase = .queued ∧ v.pri = t.record.pri ∧
            v.runs = (t.runs + 1) % 2 ^ 16 ∧ v.retries = t.retries + 1 ∧ v.version = [] ∧ v.error = none ∧ SameBytes s u ∧ u.ctx = s.ctx) ∧
          (∃ u v, exec (.tabortKill x 1) s = .next u ∧ taskOf u id = some v ∧ v.doomed = true ∧
            v.error = some (t.error.getD (t.fault.getD 0x1E)) ∧ v.version = [] ∧ v.phase = .dispatched ∧ SameBytes s u)))) ∧
  (∀ (s u : State) (a : AR) (x : SR) (g : Fin 96) (key off : Nat) (hw : Bool) (m : Fin 8), s.who = .ctl g → getBit s.ctx.status stMODE = true →
    let addr := ea s a 0
    let old := natOf ((List.range 32).map fun i => u.mem.read (key + i))
    let field (i : Nat) : Nat := old / 2 ^ (64 * i) % 2 ^ 64
    let v := (rdS s x).toNat
    let holds (t : State) (fields : List Nat) : Prop := (∀ i, i < 32 → t.mem.read (key + i) =
        BitVec.ofNat 8 (fields.getD (i / 8) 0 % 2 ^ 64 / 2 ^ (8 * (i % 8)))) ∧ (∀ k, (k < key ∨ key + 32 ≤ k) → t.mem.read k = u.mem.read k) ∧
      t.who = s.who ∧ t.spm = s.spm ∧ t.ctx.lands = s.ctx.lands
    Ready [.a a, .s x] [] s →
    (addr.toNat % 32 ≠ 0 → addr.toNat < 2 ^ 56 → exec (.jcbadd a x) s = trapAt 12 0x08 addr s ∧ exec (.jcbpost a x) s = trapAt 12 0x08 addr s) ∧
    (addr.toNat % 32 = 0 → addr.toNat < 2 ^ 56 → translate (accOf s s.who) .write addr.toNat s = (u, .ok key hw) → placeOf u key = .raw m off →
      homeOpen u s.who.stack (.raw m off) = true → key / 64 ∉ u.poison → (∀ q : Fin 8, (stackOf u q).bounce = []) → u.mem.wf = true →
      (∃ t, exec (.jcbadd a x) s = .next t ∧ holds t [field 0 + v, field 1, field 2, field 3]) ∧
      (releaseReady s s.who 6 = true → ∃ t, exec (.jcbpost a x) s = .next t ∧
        holds t [field 0, field 1 + 1, field 2 + v % 2, field 3 ||| (v / 2 % 2)]) ∧
      (releaseReady s s.who 6 = false → exec (.jcbpost a x) s = stall s)))

/-! ## Contexts -/

/-- R50, R355, R357, R359, R382, R398, R464: CTXSTART starts a compute context from its dispatched task, whose record EA(a) reaches
through the issuing core's tables (R384, R402; which task it means and what a fault of the record's read raises are log 34, DEDUCED),
restores one from its save area, starts a control core once, or resumes a stopped context at its SYS_EPC. -/
def Obligations.ContextStarts : Prop :=
  ∀ (s u : State) (tr : SR) (a : AR) (g : Fin 96) (n : Fin 8) (i : Fin 4) (bs : List Byte), getBit s.ctx.status stMODE = true →
    let t := (rdS s tr).toNat
    let x := t % 4
    let c := userCtx (4 * g.val + t / 4 % 4) x
    let addr := (ea s a 0).toNat
    (s.who = .ctl g → t / 256 % 2 = 1 →
      (Ready [.s tr, .a a] [] s → addr < 2 ^ 56 →
        (readGlobal (accOf s s.who) false true addr 4 s = .ok u bs → ∀ key, tableKey u u.who.stack u.ctx.ptbase addr = some key →
         (taskAt u key = none → exec (.ctxstart tr a) s = trapAt 8 0x0C u.frame.parcel u) ∧
         (∀ tk, taskAt u key = some tk →
          let slot := 4 * (t / 4 % 4) + x
          let r := tk.record.slots.getD slot ⟨0, 0, 0, 0, 0, 0⟩
          (r.entry = 0 ∨ (getCtx u c).run ≠ .free → exec (.ctxstart tr a) s = trapAt 8 0x0C u.frame.parcel u) ∧
          (r.entry ≠ 0 → g.val ∈ bitsOf tk.dmask → (getCtx u c).run = .free → c.num ∉ tk.gone →
            ∃ w, exec (.ctxstart tr a) s = .next w ∧ w.who = u.who ∧ w.ctx = u.ctx ∧ w.mem = u.mem ∧ w.dev.computeStarted = true ∧
              let y := getCtx w c
              y.run = .running ∧ y.pc = r.entry ∧ y.s[0] = 0 ∧ (∀ k, 1 ≤ k → k ≤ 8 → y.s.toList.getD k 0 = tk.record.args.getD (k - 1) 0) ∧
              y.s[10] = BitVec.ofNat 64 tk.dmask ∧ y.s[12] = 0 ∧ y.a[0].base = BitVec.ofNat 64 r.soff ∧ y.a[1].base = tk.record.argb ∧
              y.v = Vector.replicate 32 zeroVec ∧ y.m = Vector.replicate 8 0 ∧ y.depth = 1 ∧ y.sc = 0 ∧ y.loops = [] ∧ y.lands = [] ∧
              y.fmtOld = 0x200 ∧ y.tcount = r.tiles ∧ y.scr = r.scr ∧ y.task = tk.id ∧ y.ptbase = u.ctx.ptbase ∧ y.asid = tk.record.asid ∧
              ∀ k, r.soff ≤ k → k < r.soff + r.scr → w.spm.read (c.coreNo * 0x800000 + k) = unwritten))) ∧
        (∀ v cause, readGlobal (accOf s s.who) false true addr 4 s = .serviced u cause v → exec (.ctxstart tr a) s = sysFault cause v u) ∧
        (readGlobal (accOf s s.who) false true addr 0x43000 s = .ok u bs → ∀ tk, taskOf u (imgNat bs 4 4) = some tk →
          let saved := imgNat bs 38 1 * 12 + imgNat bs 37 1
          let word (o : Nat) : Word := BitVec.ofNat 64 (imgNat bs o 8)
          let all := BitVec.ofNat 16 (imgNat bs 52 2)
          (getCtx u c).run = .free → imgNat bs 36 1 = t / 4 % 4 → imgNat bs 40 1 = x → tk.phase = .dispatched → c.num ∉ tk.gone →
          tk.runs % 2 ^ 16 = imgNat bs 42 2 → programHere u tk g.val saved = true → areaFits u c.coreNo bs = true →
          imgNat bs 27 1 = (if ganged u c.coreNo then 2 else 1) → imgNat bs 31 1 = 0 →
          ∃ w, exec (.ctxstartRestore tr a) s = .next w ∧ w.who = s.who ∧ w.mem = u.mem ∧
            let y := getCtx w c
            y.run = .running ∧ y.pc = word 8 ∧ y.sc = imgNat bs 16 8 ∧ y.wctr = BitVec.ofNat 16 (imgNat bs 24 2) ∧ y.task = tk.id ∧
            (all.getLsbD 0 = true → ∀ k, 1 ≤ k → k < 32 → y.s.toList.getD k 0 = word (0x100 + 8 * k)) ∧
            (all.getLsbD 3 = true → ∀ k, k < 8 → y.b.toList.getD k 0 = word (0x408 + 8 * k)) ∧
            (all.getLsbD 4 = true → ∀ k l : Nat, k < 32 → l < 64 →
              (y.v.toList.getD k zeroVec).toList.getD l 0 = BitVec.ofNat 32 (imgNat bs (0xC00 + 256 * k + 4 * l) 4)))) ∧
      (Ready [.s tr] [] s →
        ((getCtx s c).run = .stopped → ∃ w, exec (.ctxstartR tr) s = .next w ∧ w.who = s.who ∧ SameBytes s w ∧
          (let y := getCtx w c
           y = { getCtx s c with run := .running, pc := (getCtx s c).epc, status := y.status, resume := true, cameFrom := none } ∧
           ∀ k, k < 64 → getBit y.status k = (decide (k ≠ 5) && getBit (getCtx s c).status k)) ∧ ∀ y, y ≠ c → getCtx w y = getCtx s y) ∧
        ((getCtx s c).run ≠ .stopped → exec (.ctxstartR tr) s = trapAt 8 0x0C s.frame.parcel s))) ∧
    (s.who = .sys n i → t / 512 % 2 = 1 → t / 1024 % 128 = g.val → Ready [.s tr, .a a] [] s →
      (g.val ∉ s.dev.started → ∃ w, exec (.ctxstartControlCore tr a) s = .next w ∧ w.who = s.who ∧ SameBytes s w ∧ g.val ∈ w.dev.started ∧
        let y := getCtx w (.ctl g)
        y.run = .running ∧ y.pc = ea s a 0 ∧ getBit y.status stMODE = true ∧ y.s[1] = BitVec.ofNat 64 g.val ∧ y.s[2] = BitVec.ofNat 64 (g.val / 12) ∧
        y.vbase = (getCtx s (.ctl g)).vbase ∧ y.ptbase = (getCtx s (.ctl g)).ptbase ∧ y.asid = (getCtx s (.ctl g)).asid) ∧
      (g.val ∈ s.dev.started → exec (.ctxstartControlCore tr a) s = trapAt 8 0x0C s.frame.parcel s))

/-- (a) R355, R356, R360, R394, R400: CTXSTOP asks a context to stop at its next safe point, or ends it at once: its
channels close, a kind-4 record is posted, and its task's version is dropped at completion. (b) R28, R167, R393: the
port passes to the next context of its core that may issue, and its count restarts (with no stack tracing: a pass writes trace
records, R467). Bytes 0 to 7 of that record are the context's pc (log 30, DEDUCED). -/
def Obligations.ContextStopsAndSelectors : Prop :=
  (∀ (s : State) (tr : SR) (k : Fin 4) (g : Fin 96), getBit s.ctx.status stMODE = true → s.who = .ctl g →
    let t := (rdS s tr).toNat
    let c := userCtx (4 * g.val + t / 4 % 4) (t % 4)
    let x := getCtx s c
    (2 ≤ k.val → exec (.ctxstopKill tr k) s = trapAt 8 0x0C s.frame.parcel s) ∧
    (Ready [.s tr] [] s →
      (t / 256 % 2 = 0 → exec (.ctxstopSafe tr) s = trapAt 8 0x0C s.frame.parcel s ∧ exec (.ctxstopKill tr 1) s = trapAt 8 0x0C s.frame.parcel s) ∧
      (t / 256 % 2 = 1 →
        (x.run = .free ∨ x.run = .retired ∨ x.run = .ended → exec (.ctxstopSafe tr) s = .next s) ∧
        (isActive x.run = true ∨ x.run = .stopped →
          (x.saveAt = 0 → exec (.ctxstopSafe tr) s = trapAt 8 0x0C s.frame.parcel s) ∧
          (x.saveAt ≠ 0 → ∃ u, exec (.ctxstopSafe tr) s = .next u ∧ u.ctx = s.ctx ∧ SameBytes s u ∧
            getCtx u c = { x with preemptAt := some (x.preemptAt.getD s.now) } ∧ ∀ y, y ≠ c → getCtx u y = getCtx s y) ∧
          ((coreOf s c.coreNo).waits = [] → (coreOf s c.coreNo).wback = [] → (∀ b ∈ x.chans, ∀ ch, chanOf s b.chan = some ch → ch.claims = []) →
            (∀ o ∈ (clusterOf s g.val).copies ++ (clusterOf s g.val).gathers, o.waitsVa = none) → (∀ m : Fin 8, (stackOf s m).bounce = []) →
            (∀ e ∈ allCtx s, e.1.coreNo = c.coreNo → e.2.run = .saving ∨ e.2.run = .retired → e.2.regions = Vector.replicate 16 none) →
            ∃ u, exec (.ctxstopKill tr 1) s = .next u ∧ u.ctx = s.ctx ∧ SameBytes s u ∧
              (getCtx u c).run = .ended ∧ (getCtx u c).loops = [] ∧ (∀ b ∈ x.chans, b.num ∈ (getCtx u c).closed) ∧
              (∀ tk ∈ u.tasks, tk.id = x.task → tk.doomed = true ∧ tk.error ≠ none) ∧
              (clusterOf u g.val).posting = (clusterOf s g.val).posting ++ [⟨x.pc, x.task, g.val, c.who, 4, 0, 0⟩]))))) ∧
  (∀ (s : State) (k : Fin 384) (x : Fin 4), s.who = .user k x →
    let may (y : Fin 4) : Prop := (getCtx s (.user k y)).run = .running ∨ (getCtx s (.user k y)).run = .stalled
    (coreOf s k.val).port = x → (∀ m : Fin 8, (stackOf s m).trace.ring = 0) →
    let passes (i : Instr) (y : Fin 4) : Prop := ∃ t, exec i s = .next t ∧ t.who = .user k y ∧ (coreOf t k.val).port = y ∧
      (coreOf t k.val).quantum = 0 ∧ (coreOf t k.val).limit = s.dev.quantum ∧ (∀ c, getCtx t c = getCtx s c) ∧ SameBytes s t
    (s.input.ctx.coreNo = k.val →
      (may (x + 1) → passes .contextSwitch (x + 1)) ∧
      (¬ may (x + 1) → may (x + 2) → passes .contextSwitch (x + 2)) ∧
      (¬ may (x + 1) → ¬ may (x + 2) → may (x + 3) → passes .contextSwitch (x + 3))) ∧
    ((coreOf s k.val).quantum < (coreOf s k.val).limit → exec .quantumExpiry s = .next s) ∧
    ((coreOf s k.val).limit ≤ (coreOf s k.val).quantum →
      (may (x + 1) → passes .quantumExpiry (x + 1)) ∧
      (¬ may (x + 1) → ¬ may (x + 2) → ¬ may (x + 3) → exec .quantumExpiry s = .next s)))

/-- R53, R102, R183, R236, R250, R286, R433, R464: a result that arrives after its bound lands at once; a fault found after issue
stops its context before its next bundle, with the fault's own SYS_EPC where it has one; a bundle or fill parcel that flow passes
over is no such bundle (R89, R93). -/
def Obligations.ArrivalsAndLateFaults : Prop :=
  ∀ (s : State) (l : Landing) (w : Wait) (d : SR) (v : Word) (f : LateFault),
    let c := s.input.ctx
    let x := getCtx s c
    ((arriving s c)[s.input.num]? = some (.remote w) → ∃ t, exec .resultLanding s = .next t) ∧
    ((arriving s c)[s.input.num]? = none → exec .resultLanding s = .next s) ∧
    ((arriving s c)[s.input.num]? = some (.found l) → ∃ t, exec .resultLanding s = .next t ∧ SameBytes s t ∧
      (x.sc < l.due → { l with ready := true } ∈ (getCtx t c).lands) ∧
      (l.due ≤ x.sc → (∀ m ∈ (getCtx t c).lands, m ≠ { l with ready := true }) ∧
        (l.reg = .s d → d ≠ 0 → l.val = .word v → l.spoiled = false → l.shown = false → (∀ m ∈ x.lands, m.reg = .s d → m = l) → (getCtx t c).s[d.val] = v))) ∧
    (∀ e ∈ ([(.ldwtImageCheck, [.image]), (.deferredAccessFault, [.access]), (.engineFault, [.engine, .claim, .collective]),
        (.thresholdExceeded, [.threshold]), (.singleStep, [.step])] : List (Instr × List LateKind)),
      ((∀ g ∈ x.late, g.kind ∈ e.2 → x.sc < g.notBefore) → exec e.1 s = .next s) ∧
      (passesOver (switchTo s c) = true → exec e.1 s = .next s) ∧
      (passesOver (switchTo s c) = false → x.late.find? (fun g => decide (g.kind ∈ e.2 ∧ g.notBefore ≤ x.sc)) = some f → isActive x.run = true → c.isSys = false →
        ∃ t, exec e.1 s = .next t ∧ SameBytes s t ∧
          let y := getCtx t c
          y.run = .stopped ∧ y.epc = f.epc.getD x.pc ∧ y.tval = f.tval ∧ y.late = x.late.filter (fun g => g ≠ f) ∧
          y.cause = BitVec.ofNat 64 (f.cause.toNat + if f.kind = .engine then 2 ^ 9 else 0) ∧ getBit y.status stSTOP = true))

/-! ## BIND -/

/-- R455–R460, R462, R463, R466–R469: BIND reads its descriptor, refuses a malformed one with its status and else does its
operation with status 0. The order in which refusals are looked for (4, 6, then the operation's own) is log 13 (DEDUCED); that a
descriptor over a closed route or a poisoned one traps as a load does, that an unreadable image has a wrong signature, and that a
buffer over a closed route ends in error after the operation are log 90 (DEDUCED). What DUMPCTX shows of results that have not
landed is the model's reading (log 68). -/
def Obligations.BindOperations : Prop :=
  ∀ (s : State) (d x : SR) (n : Fin 8) (i : Fin 4), s.who = .sys n i → getBit s.ctx.status stMODE = true → Ready [.s x] [.s d] s →
    let A := rdS s x
    let D := physRead s A.toNat 128
    let byte (o : Nat) : Nat := imgNat D o 1
    let m : Fin 8 := Fin.ofNat 8 (byte 1)
    let rows : List (Instr × Nat × List (Nat × Nat)) := [(.bind d x, 1, [(2, 4)]), (.bindFence d x, 2, []), (.bindUnfence d x, 3, []),
      (.bindMicrocode d x, 4, [(8, 8), (16, 4), (24, 8)]), (.bindQuery d x, 5, [(2, 5), (8, 13), (24, 7), (32, 2)]),
      (.bindBreak d x, 6, [(2, 2), (8, 64)]), (.bindWatch d x, 7, [(2, 1), (8, 64)]), (.bindTrace d x, 8, [(8, 8), (16, 4), (20, 4), (24, 6)]),
      (.bindProfile d x, 9, [(2, 3), (8, 40)]), (.bindDumpctx d x, 10, [(2, 3), (8, 8)]), (.bindExtract d x, 11, [(2, 30)])]
    let status (j : Instr) (k : Nat) : Prop := exec j s = .next (land (.s d) (.word (BitVec.ofNat 64 k)) 1 s)
    let ends (j : Instr) (t : State) : Prop := exec j s = .next (land (.s d) (.word 0) 1 t)
    let framed (t : State) : Prop := t.ctx = s.ctx ∧ t.who = s.who ∧ t.mem = s.mem ∧ t.spm = s.spm
    let st := stackOf s m
    let l := byte 2
    let core := 48 * m.val + l
    let reads (p : Nat) (bs : List Byte) (t : State) : Prop := ∀ k, k < bs.length → t.mem.read (p + k) = bs.getD k 0
    let plain (p k : Nat) : Prop := ∀ q, p ≤ q → q < p + k → ∃ mm o, placeOf s q = .raw mm o
    (A.toNat % 64 ≠ 0 → ∀ e ∈ rows, exec e.1 s = trapAt 12 0x08 A s) ∧
    (A.toNat % 64 = 0 → (2 ^ 56 ≤ A.toNat ∨ placeOf s A.toNat = .absent) → ∀ e ∈ rows, exec e.1 s = trapAt 12 0x0C A s) ∧
    (A.toNat % 64 = 0 → A.toNat < 2 ^ 56 → placeOf s A.toNat ≠ .absent →
      (physOpen s s.who.stack A.toNat 128 = false →
        ∀ e ∈ rows, exec e.1 s = trapAt 15 0x0D A (poisonRecord s.who s.frame.base A.toNat 5 2 s)) ∧
      (physOpen s s.who.stack A.toNat 128 = true → physPoisoned s A.toNat 128 = true → ∀ e ∈ rows, exec e.1 s = trapAt 15 0x0D A s)) ∧
    (A.toNat % 64 = 0 → A.toNat < 2 ^ 56 → placeOf s A.toNat ≠ .absent → physOpen s s.who.stack A.toNat 128 = true →
      physPoisoned s A.toNat 128 = false →
      (∀ e ∈ rows, byte 0 ≠ e.2.1 ∨ (8 ≤ byte 1 ∧ byte 1 < 0xFF) ∨ restZero D e.2.2 = false → status e.1 4) ∧
      (∀ e ∈ rows, byte 0 = e.2.1 → byte 1 < 8 → restZero D e.2.2 = true →
        (st.fenced = decide (e.2.1 ≠ 3) → status e.1 6) ∧
        (st.fenced = decide (e.2.1 = 3) →
          (e.2.1 = 1 →
            (48 ≤ l ∨ 52 ≤ byte 3 ∨ byte 4 = byte 5 → status e.1 4) ∧
            (l < 48 → byte 3 < 52 → byte 4 < 104 → byte 5 < 104 → byte 4 ≠ byte 5 →
              (inReach (byte 3) (byte 4) = false → status e.1 2) ∧
              (inReach (byte 3) (byte 4) = true → inReach (byte 3) (byte 5) = true →
                (byte 3 ∈ st.badFes ∨ byte 4 ∈ st.badSlabs ∨ byte 5 ∈ st.badSlabs → status e.1 3) ∧
                (byte 3 ∉ st.badFes → byte 4 ∉ st.badSlabs → byte 5 ∉ st.badSlabs →
                  (∀ b ∈ st.binds, b.1 ≠ l → b.2.slab0 ≠ byte 4 ∧ b.2.slab0 ≠ byte 5 ∧ b.2.slab1 ≠ byte 4 ∧ b.2.slab1 ≠ byte 5 ∧
                    (b.2.fe = byte 3 → b.1 = l ^^^ 1)) →
                  (coreBusy s core = true → status e.1 1) ∧
                  (coreBusy s core = false → coreBusy s (48 * m.val + (l ^^^ 1)) = false → ∃ t, ends e.1 t ∧ framed t ∧
                    Tbl.get? (stackOf t m).binds l = some ⟨byte 3, byte 4, byte 5⟩))))) ∧
          (e.2.1 = 2 → (queuedOn s m.val = [] → (∀ t ∈ s.tasks, t.phase ≠ .dispatched) → ∃ t, ends e.1 t ∧ framed t ∧ (stackOf t m).fenced = true ∧
              (stackOf t m).tlb = [] ∧ ∀ c ∈ t.clusters, c.1 / 12 = m.val → c.2.tlb = []) ∧
            (queuedOn s m.val ≠ [] → status e.1 1)) ∧
          (e.2.1 = 3 → ∃ t, ends e.1 t ∧ framed t ∧ (stackOf t m).fenced = false) ∧
          (e.2.1 = 4 →
            let at_ := imgNat D 8 8
            let len := imgNat D 16 4
            let sig := BitVec.ofNat 64 (imgNat D 24 8)
            (at_ % 4096 ≠ 0 ∨ len % 64 ≠ 0 ∨ 2 ^ 18 < len → status e.1 4) ∧
            (at_ % 4096 = 0 → len % 64 = 0 → len ≤ 2 ^ 18 → at_ < 2 ^ 56 → placeOf s at_ ≠ .absent →
              let readable := physOpen s s.who.stack at_ len && !physPoisoned s at_ len
              (readable = false ∨ sigBytes (physRead s at_ len) ≠ sig → status e.1 5) ∧
              (readable = true → sigBytes (physRead s at_ len) = sig → Config.microcodeFits sig = true → ∃ t, ends e.1 t ∧ framed t ∧ (stackOf t m).microcode = sig))) ∧
          (e.2.1 = 5 → (48 ≤ l → status e.1 4) ∧
            (l < 48 → s.mem.wf = true → plain A.toNat 128 → ∃ t, ends e.1 t ∧ t.spm = s.spm ∧
              reads (A.toNat + 3) (leBytes 1 (bindingOf st l).fe ++ leBytes 1 (bindingOf st l).slab0 ++ leBytes 1 (bindingOf st l).slab1) t)) ∧
          (e.2.1 = 6 → (48 ≤ l ∨ 16 ≤ byte 3 → status e.1 4) ∧
            (l < 48 → byte 3 < 16 → (∀ k, k < 8 → (imgNat D (8 + 8 * k) 8).testBit 1 = false) → ∃ t, ends e.1 t ∧ framed t ∧
              (coreOf t core).stepMask = BitVec.ofNat 4 (byte 3) ∧
              (coreOf t core).breaks = (List.range 8).map fun k => BitVec.ofNat 64 (imgNat D (8 + 8 * k) 8))) ∧
          (e.2.1 = 7 → (12 ≤ l → status e.1 4) ∧
            (l < 12 → (∀ k, k < 4 → watchBad D k = false) → ∃ t, ends e.1 t ∧ framed t ∧
              (clusterOf t (12 * m.val + l)).watches = (List.range 4).map (watchOf D))) ∧
          (e.2.1 = 8 →
            let ring := imgNat D 8 8
            let size := imgNat D 16 4
            (ring = 0 → ∃ t, ends e.1 t ∧ framed t ∧ (stackOf t m).trace = ⟨0, 0, 0, 0, 0⟩) ∧
            (ring ≠ 0 → (ring % 4096 ≠ 0 ∨ size < 8192 ∨ size % 4096 ≠ 0 ∨ 128 ≤ imgNat D 20 4) → status e.1 4) ∧
            (ring ≠ 0 → ring % 4096 = 0 → size % 4096 = 0 → 8192 ≤ size → imgNat D 20 4 < 128 → ring < 2 ^ 56 → placeOf s ring ≠ .absent →
              ∃ t, ends e.1 t ∧ framed t ∧ (stackOf t m).trace = ⟨ring, size, BitVec.ofNat 7 (imgNat D 20 4), imgNat D 24 6, 0⟩)) ∧
          (e.2.1 = 9 → (48 ≤ l ∨ 2 ≤ byte 4 ∨ (1 ≤ byte 3 ∧ byte 3 < 10) ∨ 24 < byte 3 → status e.1 4) ∧
            (l < 48 → byte 4 < 2 → (byte 3 = 0 ∨ (10 ≤ byte 3 ∧ byte 3 ≤ 24)) → s.mem.wf = true → plain A.toNat 128 → ∃ t, ends e.1 t ∧
              t.spm = s.spm ∧ (coreOf t core).profK = byte 3 ∧ reads (A.toNat + 8) ((profTotals s core).flatMap (leBytes 8)) t ∧
              (byte 4 = 1 → (coreOf t core).profTot = Vector.replicate 4 0 ∧ (coreOf t core).profFrom = s.now))) ∧
          (e.2.1 = 10 →
            let buf := imgNat D 8 8
            let c := userCtx core (byte 3)
            (48 ≤ l ∨ 4 ≤ byte 3 ∨ 2 ≤ byte 4 ∨ buf % 4096 ≠ 0 → status e.1 4) ∧
            (l < 48 → byte 3 < 4 → byte 4 < 2 → buf % 4096 = 0 → buf < 2 ^ 56 → placeOf s buf ≠ .absent →
              (isActive (getCtx s c).run = true → status e.1 1) ∧
              (isActive (getCtx s c).run = false → byte 4 = 0 → (s.dev.frozen = true ∨ readAwaited s c = false) →
                let body := areaBody (shownCtx s c) ((windowTiles s c).map (dumpTile false))
                  ((taskOf s (shownCtx s c).task).elim 0 (·.runs)) 0x03FF (headerLx s c) 0 true
                (physOpen s s.who.stack buf body.length = true → ∀ t, bindPut buf body s = .ok t → ends e.1 t) ∧
                (physOpen s s.who.stack buf body.length = false → ends e.1 (failAt s.who 0x0C buf s.frame.base s))) ∧
              (isActive (getCtx s c).run = false → byte 4 = 1 → opsInFlight s c = true → exec e.1 s = stall s))) ∧
          (e.2.1 = 11 →
            let kind := byte 2
            let buf := imgNat D 8 8
            (4 ≤ kind ∨ (kind < 2 ∧ 48 ≤ byte 3) ∨ buf % 64 ≠ 0 → status e.1 4) ∧
            (kind < 4 → byte 3 < 48 → (2 ≤ kind → byte 3 = 0) → (kind ≠ 2 → imgNat D 4 4 = 0) → buf % 64 = 0 → buf < 2 ^ 56 →
              placeOf s buf ≠ .absent →
              (s.dev.frozen = false → status e.1 1) ∧
              (s.dev.frozen = true → s.mem.wf = true → plain A.toNat 128 → plain buf (imgNat D 16 4) →
                (buf + imgNat D 16 4 ≤ A.toNat ∨ A.toNat + 128 ≤ buf) →
                let all := (extractRecords m kind (byte 3) (imgNat D 4 4) s).drop (imgNat D 20 4)
                let p := fitRecords all (imgNat D 16 4)
                physOpen s s.who.stack buf p.1.length = true →
                ∃ t, ends e.1 t ∧ t.spm = s.spm ∧ reads buf p.1 t ∧ reads (A.toNat + 24) (leBytes 4 p.2 ++ leBytes 4 (all.length - p.2)) t))))))

/-! ## The device's own steps -/

/-- (a) R185, R194–R196: a fill puts the granule's bytes in place and the accesses of the core go on; a granule's
dirty bytes leave for memory and are clean; the log's head replays unless it awaits service, and leaves the log when its version is gone, the loads of other tasks that it has
served noted (R309). readMarked is what the
fill finds in memory, performEntry the replay of an entry, after noteReaders has noted the loads that it has served; pump and feed let the core's waiting accesses and
write-backs go on. (b) R429–R431: an error in what a code protects is corrected and counted in class 8, or poisons
its line, granule or entry; an error in the L1G, a clean line or the instruction buffer drops the copy and counts in class 9; one in
a register makes its next reader trap; one in a tile spoils it. Counters are read with thresholds and the error log off. -/
def Obligations.RegionLogAndErrorSteps : Prop :=
  (∀ (s u : State) (w : Wait) (rg g : Nat) (r : Region) (bs : List (Byte × Bool)) (e : LogEntry) (rest : List LogEntry),
    let k := s.input.core.val
    (fillWanted s k = none → exec .regionFill s = .next s) ∧
    ((coreOf s k).held.isSome = true → exec .regionFill s = .next s) ∧
    ((coreOf s k).held = none → fillWanted s k = some (w, rg, g) → (getCtx s w.ctx).regions.toList.getD rg none = some r →
      readMarked (waitAcc s w) false false (r.gbase + 4096 * g) 4096 s = .ok u bs → u.spm.wf = true →
      ∃ t, exec .regionFill s = .next (pump k t) ∧ (∀ i, i < bs.length → t.spm.read (k * 0x800000 + r.lbase + 4096 * g + i) = (bs.getD i (0, false)).1) ∧
        ∃ q, (getCtx t w.ctx).regions.toList.getD rg none = some q ∧ q.lbase = r.lbase ∧ q.gbase = r.gbase ∧ g ∈ q.filled ∧ q.dirty = r.dirty) ∧
    (let c := s.input.ctx
     let n := s.input.num
     (getCtx s c).regions.toList.getD s.input.reg.val none = some r → r.rw = true → r.gbase % 4096 = 0 → r.len % 4096 = 0 → n < r.len / 4096 →
       (∃ d ∈ r.dirty, d / 4096 = n) →
       ∃ t, exec .regionWriteBack s = .next (feed c.coreNo t) ∧
         (getCtx t c).regions.toList.getD s.input.reg.val none = some { r with dirty := r.dirty.filter fun d => d / 4096 ≠ n } ∧ t.spm = s.spm ∧ t.mem = s.mem ∧
         ∃ es, (coreOf t c.coreNo).wback = (coreOf s c.coreNo).wback ++ es ∧
           (∀ d ∈ r.dirty, d / 4096 = n → ∃ w ∈ es, (r.gbase + d, s.spm.read (c.coreNo * 0x800000 + (r.lbase + d))) ∈ w.2.bytes) ∧
           ∀ w ∈ es, w.2.ctx = c ∧ w.2.op = .store ∧ ∀ b ∈ w.2.bytes, ∃ d ∈ r.dirty, d / 4096 = n ∧ b.1 = r.gbase + d) ∧
    ((coreOf s k).sidelog = e :: rest →
      (e.waits.isSome = true → entryDropped s e = false → exec .sideLogReplay s = .next s) ∧
      (entryDropped s e = true → exec .sideLogReplay s = .next (pump k
        (modCore (noteReaders k { e with readers := e.readers.filter fun r => r.task ≠ e.task } s) k fun x => { x with sidelog := x.sidelog.drop 1 }))) ∧
      (e.waits = none → entryDropped s e = false → performEntry k e (noteReaders k e s) = .ok u () →
        exec .sideLogReplay s = .next (pump k (modCore u k fun x => { x with sidelog := x.sidelog.drop 1 }))))) ∧
  (∀ (s : State), s.dev.errlog = 0 → (∀ n : Fin 16, s.dev.thresh[n.val].toNat % 2 ^ 32 = 0) →
    let i := s.input
    let total (t : State) (n : Fin 16) : Prop := t.dev.tot[n.val] = s.dev.tot[n.val] + 1
    let quiet (t : State) : Prop := SameBytes s t ∧ t.who = s.who ∧ SameFiles s t
    (i.stored = .clean → i.num2 < 12 → exec .scrub s = .next s) ∧
    (i.num2 = 0 → i.stored = .correctable → ∃ t, exec .scrub s = .next t ∧ quiet t ∧ total t 8 ∧ t.poison = s.poison) ∧
    (i.num2 = 0 → i.stored = .uncorrectable → ∃ t, exec .scrub s = .next t ∧ quiet t ∧ total t 13 ∧ i.num ∈ t.poison ∧ ∀ l ∈ s.poison, l ∈ t.poison) ∧
    (i.num2 = 1 → i.stored = .uncorrectable → ∃ t, exec .scrub s = .next t ∧ quiet t ∧ total t 13 ∧ i.num ∈ t.spmPoison ∧ t.poison = s.poison) ∧
    (i.num2 ∈ [5, 6, 7, 8, 10] → i.stored = .correctable → ∃ t, exec .scrub s = .next t ∧ quiet t ∧ total t 8 ∧ t.poison = s.poison) ∧
    (i.num2 = 8 → i.stored = .uncorrectable → ∃ t, exec .scrub s = .next t ∧ quiet t ∧ total t 13 ∧ i.num ∈ t.poison ∧ ∀ l ∈ s.poison, l ∈ t.poison) ∧
    (i.num2 = 5 → i.stored = .uncorrectable → ∀ h rest, (coreOf s i.core.val).stores = h :: rest →
      spmKey (h.core, h.off) < 8 * i.num + 8 → 8 * i.num < spmKey (h.core, h.off) + h.size → ∃ t, exec .scrub s = .next t ∧ quiet t ∧ total t 13 ∧
        ∀ x ∈ (coreOf t i.core.val).stores, x.id = h.id → i.num ∈ x.bad) ∧
    (i.num2 = 7 → i.stored = .uncorrectable → ∀ k, taskOf s i.task.toNat = some k → (∃ b ∈ k.version, b.1 / 64 = i.num) →
      ∃ t u, exec .scrub s = .next t ∧ quiet t ∧ total t 13 ∧ taskOf t i.task.toNat = some u ∧ i.num ∈ u.vpoison) ∧
    (i.num2 = 9 → i.stored ≠ .clean → ∃ t, exec .scrub s = .next t ∧ quiet t ∧ total t 9 ∧ t.poison = s.poison) ∧
    (i.num2 = 11 → i.stored ≠ .clean → ∃ t, exec .scrub s = .next t ∧ quiet t ∧ total t 9 ∧ Tbl.get? (getCtx t i.ctx).ibuf (64 * i.num) = none) ∧
    (i.num2 = 2 → i.stored ≠ .clean → ∃ t, exec .scrub s = .next t ∧ quiet t ∧ total t 9 ∧ Tbl.get? (clusterOf t i.clu.val).l1g i.num = none) ∧
    (i.num2 = 3 → i.stored = .uncorrectable → ∀ r : SR, r ≠ 0 → i.num = r.val → ∃ t, exec .scrub s = .next t ∧ quiet t ∧
      .s r ∈ (getCtx t i.ctx).badRegs) ∧
    (i.num2 = 4 → i.stored = .uncorrectable → ∃ t, exec .scrub s = .next t ∧ quiet t ∧ (tileOf t i.core.val i.num).bad = true))

/-- R414–R416, R419–R426: Sump's registers and its own steps: enabling clears the nominal space, a deflated page reads zero,
an inflation takes one balloon-list entry, a retry tries the waiting writes. -/
def Obligations.SumpSteps : Prop :=
  ∀ (s : State), s.mem.wf = true →
    let n := s.input.die
    let u := (stackOf s n).sump
    let base := n.val * 0x3000000000
    let put (f : Sump → Sump) : State := modStack s n fun st => { st with sump := f st.sump }
    let dirBase := rawBase n.val + u.dir.toNat
    (u.en = true → exec .sumpCtlEn s = .next s) ∧
    (u.en = false → ∃ t, exec .sumpCtlEn s = .next t ∧ t.ctx = s.ctx ∧ t.spm = s.spm ∧ (stackOf t n).sump.en = true ∧ (stackOf t n).dirs = [] ∧
      (∀ a, base ≤ a → a < base + u.nom * 4096 → t.mem.read a = unwritten) ∧
      ∀ a, (a < base ∨ base + u.nom * 4096 ≤ a) → (a < dirBase ∨ dirBase + 32 * u.nom ≤ a) → t.mem.read a = s.mem.read a) ∧
    (s.dev.frozen = true → exec .sumpCtlRetry s = .next s) ∧
    (s.dev.frozen = false → u.waiting = [] → exec .sumpCtlRetry s = .next (put fun y => { y with told := [] })) ∧
    (exec .sumpStatOosClear s = .next (put fun y => { y with oos := false })) ∧
    (∃ t, exec .sumpLptrTail s = .next t ∧ (stackOf t n).sump = { u with tail := s.input.num % 4096, inflating := (stackOf t n).sump.inflating } ∧
      ((freeSectors (stackOf s n) < u.lwm ∨ u.waiting ≠ []) → (stackOf t n).sump.inflating = true) ∧ SameBytes s t ∧ t.ctx = s.ctx) ∧
    (∀ p, placeOf s s.input.num = .nominal n p →
      (ballooned s n p = true → ∃ t, exec .sumpDefl s = .next t ∧ ballooned t n p = false ∧ (dirOf t n p).sectors = [] ∧
        (∀ a, base + 4096 * p ≤ a → a < base + 4096 * p + 4096 → (a < dirBase + 32 * p ∨ dirBase + 32 * p + 32 ≤ a) → t.mem.read a = unwritten) ∧
        ∀ a, (a < base + 4096 * p ∨ base + 4096 * p + 4096 ≤ a) → (a < dirBase + 32 * p ∨ dirBase + 32 * p + 32 ≤ a) →
          t.mem.read a = s.mem.read a) ∧
      (ballooned s n p = false → exec .sumpDefl s = .next s)) ∧
    (u.inflating = true → u.head ≠ u.tail → u.waiting = [] → freeSectors (stackOf s n) < u.hwm →
      let e := s.mem.readNat (u.list.toNat + 8 * u.head) 8
      ∃ t, exec .sumpInflation s = .next t ∧ (stackOf t n).sump.head = (u.head + 1) % 4096 ∧ t.ctx = s.ctx ∧ t.spm = s.spm ∧
        (e % 2 = 0 → (stackOf t n).sump.skip = min 0xFFFF (u.skip + 1) ∧ SameBytes s t) ∧
        (∀ p, e % 2 = 1 → placeOf s (e / 2 ^ 12 % 2 ^ 44 * 4096) = .nominal n p → ballooned s n p = false → unclaimed s n p = true →
          ballooned t n p = true ∧ (dirOf t n p).sectors = [] ∧ (stackOf t n).sump.skip = u.skip))

/-- R377, R380, R381, R383, R441, R443, R444: a stack dispatches the first task that fits and announces it to its clusters once
its record is written (R375; what delays that is log 89, DEDUCED); a task ages, may block, and completes when its contexts have
ended. A sampled task's audit waits for a placement and starts its replay, which ends in agreement, in a vote or, after a fault or
without a placement in 2^20 cycles, abandoned; the vote ends with kind 10 and cause 0x18. How a replay's reads are served and how it
is numbered is log 92 (DESIGN CHOICE). -/
def Obligations.TaskSteps : Prop :=
  ∀ (s : State) (t : Task) (gs : List Nat) (xs : List (Nat × SlotRec)) (r : BitVec 64) (lines : Nat) (p : Nat × Nat),
    let id := s.input.task.toNat
    let n := s.input.die
    (dispatchable s n.val = none → exec .dispatch s = .next s) ∧
    (dispatchable s n.val = some (t, gs, xs) → taskOf s t.id = some t → gs.Nodup → (∀ g ∈ gs, g < 96) →
      t.phase = .queued ∧ eligible s t = true ∧
      (owes s (.record t.id) = true → exec .dispatch s = .next s) ∧
      (owes s (.record t.id) = false → ∃ u v, exec .dispatch s = .next u ∧ taskOf u t.id = some v ∧ v.recAt = t.recAt ∧ v.runs = t.runs ∧
        u.spm = s.spm ∧
        (owes u (.record t.id) = true → v.phase = .queued ∧ ∀ g, (clusterOf u g).posting = (clusterOf s g).posting) ∧
        (owes u (.record t.id) = false → v.phase = .dispatched ∧ v.dmask = (gs.map fun g => 2 ^ g).sum ∧
          ∀ g ∈ gs, ∃ rc ∈ (clusterOf u g).posting, rc.kind = 8 ∧ rc.task = t.id ∧ rc.lo = BitVec.ofNat 64 t.recAt ∧ rc.b14 = 0))) ∧
    (taskOf s id = some t →
      (t.phase = .queued → 0 < t.pri → ∃ u v, exec .taskAging s = .next u ∧ taskOf u id = some v ∧ v.pri = t.pri - 1 ∧ t.waitFrom + 2 ^ 20 ≤ u.now ∧
        v.waitFrom = u.now ∧ u.ctx = s.ctx ∧ SameBytes s u) ∧
      (t.phase ≠ .queued ∨ t.pri = 0 → exec .taskAging s = .next s) ∧
      (t.phase = .queued → t.pri = 0 → (∀ v ∈ s.tasks, v.id ≠ id → v.phase ≠ .queued) → ∃ u v, exec .taskBlocking s = .next u ∧ taskOf u id = some v ∧
        v.blocking = true ∧ t.waitFrom + 2 ^ 22 ≤ u.now ∧ u.ctx = s.ctx ∧ SameBytes s u) ∧
      (t.phase ≠ .dispatched ∨ allEnded s t = false ∨ taskBusy s t = true ∨ recordsPosted s id = false → exec .taskCompletion s = .next s) ∧
      ((s.parked.map (·.1)).Nodup → t.phase = .dispatched → allEnded s t = true → taskBusy s t = false → recordsPosted s id = true → t.doomed = false →
        (∀ e ∈ s.cores, (coreOf s e.1).hist = []) →
        ∃ u v, exec .taskCompletion s = .next u ∧ taskOf u id = some v ∧ v.phase = .completed ∧ v.version = t.version ∧ taskCtxs u id = [] ∧
          SameBytes s u ∧ (clusterOf u (lowestBit t.dmask)).posting = (clusterOf s (lowestBit t.dmask)).posting ++
            [⟨BitVec.ofNat 64 t.recAt, t.id, lowestBit t.dmask, 0, 9, t.error.getD 0, BitVec.ofNat 8 t.runs⟩]) ∧
      (t.phase ≠ .completed ∨ t.audit = .none ∨ t.audit = .passed →
        exec .auditReplay s = .next s ∧ exec .auditVote s = .next s ∧ exec .auditPlacementLimit s = .next s) ∧
      (t.phase = .completed →
        let orig := (writeSetSig s t, (writeSet s t).length)
        let starts (i : Instr) (k used : Nat) (a : AuditState) : Prop := s.now ≤ t.waitFrom + 2 ^ 20 →
          (replayPlace s t used = none → exec i s = .next s) ∧
          (replayPlace s t used = some (gs, xs) → taskOf s (replayId id k) = none → ∃ u v w, exec i s = .next u ∧ taskOf u id = some v ∧
            v.audit = a ∧ taskOf u (replayId id k) = some w ∧ w.phase = .dispatched ∧ w.version = [] ∧ w.recAt = t.recAt ∧ u.mem = s.mem)
        let ends (i : Instr) (w : Task) (a : AuditState) : Prop := ∃ u v, exec i s = .next u ∧ taskOf u id = some v ∧ v.audit = a ∧
          taskOf u w.id = none
        let faulted (w : Task) : Prop := replayFailed s w = true ∨ s.input.outcome = .faulted
        let complete (w : Task) : Prop := allEnded s w = true ∧ taskBusy s w = false
        let got (w : Task) : Word × Nat := match s.input.outcome with
          | .ran x y => (x, y)
          | _ => (writeSetSig s w, (writeSet s w).length)
        (t.audit = .sampled → starts .auditReplay 1 t.dmask .replaying) ∧
        (t.audit = .replayed r lines p.1 → starts .auditVote 2 (t.dmask ||| p.1) (.voting r lines p.1)) ∧
        (t.audit = .replaying → ∀ w, taskOf s (replayId id 1) = some w →
          (faulted w → ends .auditReplay w .none) ∧
          (¬ faulted w → ¬ complete w → exec .auditReplay s = .next s) ∧
          (¬ faulted w → complete w → got w = orig → ends .auditReplay w .passed) ∧
          (¬ faulted w → complete w → got w ≠ orig → ends .auditReplay w (.replayed (got w).1 (got w).2 w.dmask))) ∧
        (t.audit = .voting r lines p.1 → ∀ w, taskOf s (replayId id 2) = some w →
          (faulted w → ends .auditVote w .none) ∧
          (¬ faulted w → ¬ complete w → exec .auditVote s = .next s) ∧
          (¬ faulted w → complete w → ends .auditVote w .passed ∧ ∃ u rc, exec .auditVote s = .next u ∧
            (clusterOf u (lowestBit t.dmask)).posting.getLast? = some rc ∧ rc.task = id ∧ rc.kind = 10 ∧ rc.b14 = 0x18)) ∧
        ((t.audit = .sampled ∧ p.2 = t.dmask) ∨ (t.audit = .replayed r lines p.1 ∧ p.2 = t.dmask ||| p.1) →
          (s.now ≤ t.waitFrom + 2 ^ 20 → (replayPlace s t p.2).isSome = true → exec .auditPlacementLimit s = .next s) ∧
          (replayPlace s t p.2 = none ∨ t.waitFrom + 2 ^ 20 < s.now → ∃ u v, exec .auditPlacementLimit s = .next u ∧ taskOf u id = some v ∧
            v.audit = .none ∧ t.waitFrom + 2 ^ 20 ≤ u.now ∧ (s.dev.errlog = 0 → SameBytes s u)))))

/-- R30, R156, R394–R396, R399: a pre-emption is taken before a bundle that marks a safe point and that issues there, by both members of
a gang at once; a drained context is saved and a kind-6 record posted once its area is written (log 89, DEDUCED); a request that is
not met within SYS_PREEMPT cycles ends the context, unless it is being saved. Bytes 0 to 7 of the kind-6 and kind-4 records are the
context's pc (log 30, DEDUCED); while one member of a gang cannot be saved the request stays pending (log 86, DESIGN CHOICE). -/
def Obligations.PreemptionSteps : Prop :=
  ∀ (s : State) (h : Header) (t0 : Nat) (d : CtxId),
    let c := s.input.ctx
    let x := getCtx s c
    let asks (y : Ctx) : Prop := isActive y.run = true ∧ y.run ≠ .saving
    let plain (e : CtxId) : Prop := (∀ k, (getCtx s e).regions.toList.getD k none = none) ∧ (coreOf s e.coreNo).wback = []
    (headerOf s c = some h → h.sp = false → exec .preemption s = .next s) ∧
    (atSafePoint s c = false → exec .preemption s = .next s) ∧
    (atSafePoint s c = true → gangMate s c = none → asks x → x.preemptAt = some t0 → plain c →
      ∃ t, exec .preemption s = .next t ∧ (getCtx t c).run = .saving ∧ (getCtx t c).pc = x.pc ∧ (∀ l ∈ (getCtx t c).lands, l.shown = l.ready) ∧
        SameBytes s t) ∧
    (atSafePoint s c = true → gangMate s c = some d →
      (¬ asks (getCtx s d) ∨ (getCtx s d).saveAt = 0 ∨ (x.preemptAt = none ∧ (getCtx s d).preemptAt = none) → exec .preemption s = .next s) ∧
      (asks x → asks (getCtx s d) → (getCtx s d).saveAt ≠ 0 → (x.preemptAt = some t0 ∨ (getCtx s d).preemptAt = some t0) → plain c → plain d →
        ∃ t, exec .preemption s = .next t ∧ (getCtx t c).run = .saving ∧ (getCtx t d).run = .saving ∧ SameBytes s t)) ∧
    (x.run ≠ .saving → exec .saveAreaWrite s = .next s) ∧
    (x.run = .saving → x.late = [] → (drained s c = false ∨ owes s (.area c) = true) → exec .saveAreaWrite s = .next s) ∧
    (x.run = .saving → x.late = [] → drained s c = true → owes s (.area c) = false → ∃ t, exec .saveAreaWrite s = .next t ∧ t.spm = s.spm ∧
      (owes t (.area c) = true → (getCtx t c).run = .saving) ∧
      (owes t (.area c) = false → (getCtx t c).run = .free ∧ (getCtx t c).preemptAt = none ∧
        (clusterOf t c.cluster).posting.getLast? = some ⟨x.pc, x.task, c.cluster, c.who, 6, 0, 0⟩)) ∧
    (x.preemptAt = none ∨ s.dev.preempt = 0 ∨ x.run = .saving → exec .preemptionLimit s = .next s) ∧
    (x.preemptAt = some t0 → s.dev.preempt ≠ 0 → c.isSys = false → (asks x ∨ x.run = .stopped) →
      (coreOf s c.coreNo).waits = [] → (coreOf s c.coreNo).wback = [] → (∀ b ∈ x.chans, ∀ ch, chanOf s b.chan = some ch → ch.claims = []) →
      (∀ o ∈ (clusterOf s c.cluster).copies ++ (clusterOf s c.cluster).gathers, o.waitsVa = none) → (∀ m : Fin 8, (stackOf s m).bounce = []) →
      (∀ e ∈ allCtx s, e.1.coreNo = c.coreNo → e.2.run = .saving ∨ e.2.run = .retired → e.2.regions = Vector.replicate 16 none) →
      ∃ t, exec .preemptionLimit s = .next t ∧ t0 + s.dev.preempt ≤ t.now ∧ (getCtx t c).run = .ended ∧ SameBytes s t ∧
        (clusterOf t c.cluster).posting = (clusterOf s c.cluster).posting ++ [⟨x.pc, x.task, c.cluster, c.who, 4, 0, 1⟩])

/-- R445–R447, R460, R474–R476: retries, lost lock and death of a link, its training, the flooding of its state, the drain rounds
and the requests of the platform block. Thresholds and the error log are off. -/
def Obligations.LinkSteps : Prop :=
  ∀ (s : State), s.dev.errlog = 0 → (∀ n : Fin 16, s.dev.thresh[n.val].toNat % 2 ^ 32 = 0) → s.mem.wf = true →
    let i := s.input
    let p := i.port
    let q := s.dev.ports[p.val]
    let now (t : State) : Port := t.dev.ports[p.val]
    let keeps (t : State) : Prop := t.ctx = s.ctx ∧ t.who = s.who ∧ t.spm = s.spm
    let linkBytes (t : State) (b : List Nat) : Prop := ∀ k, k < 3 → t.mem.read (platformBase + 0x40 + 8 * p.val + k) = BitVec.ofNat 8 (b.getD k 0)
    let died (t : State) : Prop := keeps t ∧ (now t).up = false ∧ t.dev.epoch = s.dev.epoch + 1 ∧ (now t).epoch = s.dev.epoch + 1 ∧
      (s.dev.no, s.dev.epoch + 1) ∈ t.dev.seen ∧ t.dev.irq[3] = true ∧ linkBytes t [0, q.peerDev, q.peerPort]
    let head := platRead s 0x1F0 4
    let request (ty : Nat) : Prop := head < 64 ∧ head ≠ platRead s 0x1F4 4 % 64 ∧ platRead s (0x200 + 16 * head) 1 = ty ∧
      platRead s (0x201 + 16 * head) 1 = p.val
    let passed (t : State) : Prop := platRead t 0x1F0 4 = (head + 1) % 64
    (i.num2 = 0 → ∃ t, exec .linkRetry s = .next t ∧ keeps t ∧ SameBytes s t ∧ t.dev.tot[12] = s.dev.tot[12] + 1 ∧
      (now t).fails = if i.good then 0 else q.fails + 1) ∧
    (i.num2 = 0 → ∃ t, exec .receiverLosesLock s = .next t ∧ keeps t ∧ SameBytes s t ∧
      (now t).lockLost = if i.good then some (q.lockLost.getD s.now) else none) ∧
    (i.num2 = 0 → q.up = true → 16 ≤ q.fails → ∃ t, exec .linkDeath s = .next t ∧ died t) ∧
    (i.num2 = 0 → q.up = true → q.fails < 16 → ∀ t0, q.lockLost = some t0 → ∃ t, exec .linkDeath s = .next t ∧ died t ∧
      realAt s t0 + 10 * usUnits ≤ realAt s s.now + (t.now - s.now) * cycleUnits s.dev.clk) ∧
    (i.num2 = 0 → q.fails < 16 → q.lockLost = none → exec .linkDeath s = .next s) ∧
    (q.up = true ∨ i.dev.val = s.dev.no → exec .linkTrained s = .next s) ∧
    (q.up = false → i.dev.val ≠ s.dev.no → ∃ t, exec .linkTrained s = .next t ∧ keeps t ∧ (now t).up = true ∧ (now t).peerDev = i.dev.val ∧
      (now t).peerPort = i.num ∧ t.dev.irq[3] = true ∧ linkBytes t [1, i.dev.val, i.num] ∧ (q.told = true → t.dev.epoch = s.dev.epoch)) ∧
    (let u := i.update
     ((u.origin.val, u.epoch) ∈ s.dev.seen → exec .linkStateUpdate s = .next s) ∧
     ((u.origin.val, u.epoch) ∉ s.dev.seen → ∃ t, exec .linkStateUpdate s = .next t ∧ keeps t ∧ t.dev.irq[3] = true ∧
       t.dev.seen = s.dev.seen ++ [(u.origin.val, u.epoch)] ∧ t.dev.drains = s.dev.drains ++ [⟨u.origin.val, u.epoch, u.port.val, u.up, s.now, 1⟩] ∧
       (u.up = false → (u.origin.val, u.port.val) ∈ t.dev.deadLinks))) ∧
    (∀ d ∈ s.dev.drains, d.origin = i.dev.val → d.epoch = i.num → (∀ e ∈ s.dev.drains, e.origin = d.origin → e.epoch = d.epoch → e = d) →
      d.round < 3 → ∃ t, exec .linkDrainRound s = .next t ∧ keeps t ∧ { d with round := d.round + 1 } ∈ t.dev.drains ∧
        realAt s d.received + 50 * (d.round - 1) * usUnits ≤ realAt s s.now + (t.now - s.now) * cycleUnits s.dev.clk) ∧
    (request 1 → q.up = true → ∃ t, exec .requestDeclareDead s = .next t ∧ died t ∧ passed t) ∧
    (request 2 → q.up = false → ∃ t, exec .requestBringUp s = .next t ∧ keeps t ∧ passed t ∧ t.dev.epoch = s.dev.epoch + 1 ∧ (now t).up = false) ∧
    (request 3 → ∃ t, exec .requestPcap s = .next t ∧ keeps t ∧ passed t ∧
      t.dev.pcap = max 1200 (min 3600 (platRead s (0x204 + 16 * head) 4)) ∧ platRead t 0x124 4 = t.dev.pcap)

/-- R446, R468, R469, R473–R475, R478–R482: hosts, other devices, the clock, boot and power. Registers and memory after a release of
reset are logs 1 and 2 (DESIGN CHOICE), the supplied device number log 12, the host ring indices and when a ring is full log 15, the
tables of a remote request log 41, the grant that BAR2 maps log 42, and that a failed stage of boot sets BSTAT bit 31 whichever it is
log 87: the model's choices and readings. -/
def Obligations.PlatformSteps : Prop :=
  ∀ (s : State), s.mem.wf = true →
    let i := s.input
    let h := i.host
    let o := 0x1000 + 0x2000 * h.val
    let tail := platRead s (o + 4) 4 % 63
    let keeps (t : State) : Prop := t.ctx = s.ctx ∧ t.who = s.who ∧ t.spm = s.spm
    let hot := s.dev.temps.toList
    let stopped (t : State) : Prop := ∀ c, c ≠ .sys (lowestStack s) 0 → isActive (getCtx t c).run = false
    (s.dev.hostUp[h.val] = false → exec .hostMessage s = .next s) ∧
    (s.dev.hostUp[h.val] = true → (tail + 1) % 63 = platRead s o 4 % 63 → exec .hostMessage s = .next s) ∧
    (s.dev.hostUp[h.val] = true → (tail + 1) % 63 ≠ platRead s o 4 % 63 → ∀ bs, i.bytes = some bs → bs.length = 64 →
      ∃ t, exec .hostMessage s = .next t ∧ keeps t ∧ t.dev.irq[1] = true ∧ platRead t (o + 4) 4 = (tail + 1) % 63 ∧
        ∀ k, k < 64 → t.mem.read (platformBase + o + 64 + 64 * tail + k) = bs.getD k 0) ∧
    (s.dev.hostUp[h.val] = false ∨ i.bytes = none → exec .hostAccess s = .next s) ∧
    (∀ bs, i.bytes = some bs → s.dev.hostUp[h.val] = true →
      let writes (t : State) (a : Nat) : Prop := keeps t ∧ (∀ k, k < bs.length → t.mem.read (a + k) = bs.getD k 0) ∧
        ∀ b, (b < a ∨ a + bs.length ≤ b) → t.mem.read b = s.mem.read b
      (i.num2 = 0 →
        (8192 < i.num + bs.length → exec .hostAccess s = .next s) ∧
        (i.num + bs.length ≤ 8192 → ∃ t, exec .hostAccess s = .next t ∧ writes t (platformBase + o + i.num) ∧
          (i.num < 8 → 4 < i.num + bs.length → t.dev.irq[1] = true))) ∧
      (i.num2 ≠ 0 →
        (i.good = false ∨ 2 ^ 36 < i.num + bs.length ∨ grantedKey i.ctx i.num2 bs.length s = none → exec .hostAccess s = .next s) ∧
        (∀ a, i.good = true → i.num + bs.length ≤ 2 ^ 36 → grantedKey i.ctx i.num2 bs.length s = some a → s.dev.owed = [] →
          (∀ k, k < bs.length → ∃ m f, placeOf s (a + k) = .raw m f) → physOpen s 0 a bs.length = true →
          ∃ t, exec .hostAccess s = .next t ∧ writes t a))) ∧
    (∃ t, exec .pcieLinkStateChange s = .next t ∧ keeps t ∧ SameBytes s t ∧ t.dev.hostUp[h.val] = i.good) ∧
    (∃ t, exec .ethernetPortStateChange s = .next t ∧ keeps t ∧ t.dev.ethUp.toList.getD (i.num % 5) (false, 0) = (i.good, i.num2) ∧
      t.mem.read (platformBase + 0xA0 + 8 * (i.num % 5)) = (if i.good then 1 else 0) ∧
      t.mem.read (platformBase + 0xA1 + 8 * (i.num % 5)) = BitVec.ofNat 8 i.num2) ∧
    (i.req.seq ≠ (Tbl.get? s.dev.delivered i.req.src.val).getD 0 + 1 → exec .remoteRequest s = .next s) ∧
    (i.req.seq = (Tbl.get? s.dev.delivered i.req.src.val).getD 0 + 1 → ∃ t u, exec .remoteRequest s = .next t ∧ keeps u ∧ u.mem = s.mem ∧
      Tbl.get? u.dev.delivered i.req.src.val = some i.req.seq ∧
      (i.req.store = none → t = u) ∧ (∀ bs, i.req.store = some bs → t = remoteStore i.req bs u ∧
        (i.req.bad = false → t = deviceWrite .other (.sys 0 0) false (tablesOf u i.req.asid) i.req.asid i.req.va bs u))) ∧
    (let pwr := i.num
     let ts := (List.range 8).map fun k => i.list.getD k 0
     ∃ t, exec .clockAdjust s = .next t ∧ keeps t ∧ 1000 * usUnits ≤ (t.now - s.now) * cycleUnits s.dev.clk ∧ t.dev.pwr = pwr ∧ t.dev.temps.toList = ts ∧
       ((s.dev.pcap < pwr ∨ ∃ x ∈ ts, 95 * 16 < x) → t.dev.clk = max 900 (s.dev.clk - 100)) ∧
       (100 * pwr < 95 * s.dev.pcap → (∀ x ∈ ts, x < 90 * 16) → t.dev.clk = min 1500 (s.dev.clk + 100)) ∧
       (95 * s.dev.pcap ≤ 100 * pwr → pwr ≤ s.dev.pcap → (∀ x ∈ ts, x ≤ 95 * 16) → t.dev.clk = s.dev.clk) ∧
       (s.dev.thst ≠ 2 → (∀ x ∈ ts, x < 105 * 16) → t.dev.thst = if t.dev.clk < 1500 then 1 else 0)) ∧
    (∃ t, exec .criticalTemperature s = .next t ∧ keeps t ∧ t.dev.thst = 2 ∧ 105 * 16 ≤ t.dev.temps[i.die.val] ∧
      (s.dev.thst ≠ 2 → t.dev.irq[4] = true)) ∧
    (exec .powerRemoved s = .next { s with dev := { s.dev with powered := false } } ∧ ∃ f, step { s with dev := { s.dev with powered := false } } = .fault f) ∧
    (exec .devnoSupply s = .next { s with dev := { s.dev with supplied := i.dev.val, no := if s.dev.boot ≤ 1 then i.dev.val else s.dev.no } }) ∧
    (i.num = 0 → i.good = true → ∃ t, exec .reset s = .next t ∧ t.who = State.reset.who ∧ t.ctx = State.reset.ctx ∧ t.parked = State.reset.parked ∧ t.tasks = [] ∧
      t.mem = s.mem ∧ t.dev = { State.reset.dev with no := s.dev.supplied, supplied := s.dev.supplied }) ∧
    (i.num = 0 ∨ (2 ≤ i.num ∧ i.num ≤ 5 ∧ s.dev.boot + 1 = i.num ∧ (getCtx s (.sys 0 0)).run ≠ .halted) → i.good = false →
      ∃ t, exec .reset s = .next t ∧ (getCtx t (.sys 0 0)).run = .halted ∧ 2 ^ 31 ≤ platRead t 0x18 4) ∧
    (2 ≤ i.num → (getCtx s (.sys 0 0)).run = .halted → exec .reset s = .next s) ∧
    (2 ≤ i.num → i.num ≤ 5 → s.dev.boot + 1 = i.num → (getCtx s (.sys 0 0)).run ≠ .halted → i.good = true → ∃ t, exec .reset s = .next t ∧ t.dev.boot = i.num ∧ t.ctx = s.ctx ∧
      platRead t 0x18 4 = i.num ∧ (i.num = 2 → platRead t 0 4 = 0x54414C50 ∧ platRead t 8 1 = s.dev.no % 256)) ∧
    (∃ t, exec .panic s = .next t ∧ t.dev.frozen = true ∧ t.mem = s.mem ∧ t.spm = s.spm ∧ stopped t ∧
      let y := getCtx t (.sys (lowestStack s) 0)
      y.run = .running ∧ y.status = 1 ∧ y.pc = BitVec.ofNat 64 (s.mem.readNat (platformBase + 0x10) 8)) ∧
    (let c := coreOf s i.core.val
     (c.profK = 0 → exec .profileSample s = .next s) ∧
     (c.profK ≠ 0 → (∀ n : Fin 8, (stackOf s n).trace.ring = 0) → ∃ t, exec .profileSample s = .next t ∧ SameBytes s t ∧ t.ctx = s.ctx ∧
       (s.now ≤ t.now ∧ (c.profFrom ≤ s.now → t.now ≤ s.now + 2 ^ c.profK))))

/-! ## Reset, decoding, and the step -/

/-- R351, R353, R354, R422, R432, R480: the state at reset, as far as the spec gives it. (Register values that it does not give
are choices of log 1 and not part of this.) -/
def Obligations.ResetValues : Prop :=
  let s := State.reset
  let d := s.dev
  s.who = .sys 0 0 ∧ MemoriesWf s ∧
  (∀ (n : Fin 8) (i : Fin 4),
    let x := getCtx s (.sys n i)
    x.run = (if n = 0 ∧ i = 0 then .running else .waiting) ∧ x.status = 1 ∧ x.cause = 0 ∧ x.epc = 0 ∧ x.tval = 0 ∧ x.vbase = 0 ∧
      x.ptbase = 0 ∧ x.asid = 0) ∧
  (∀ k : Fin 96, (getCtx s (.ctl k)).run = .free ∧ (getCtx s (.ctl k)).status = 0) ∧
  (∀ (k : Fin 384) (x : Fin 4), (getCtx s (.user k x)).run = .free ∧ (getCtx s (.user k x)).status = 0) ∧
  d.featAck = Vector.replicate 4 0 ∧ d.quantum = 256 ∧ d.preempt = 0x16E360 ∧ d.audit = 0 ∧ d.errlog = 0 ∧ d.debug = 0 ∧
  d.watchdog = 10000 ∧ (∀ n : Fin 16, d.thresh[n] = 0 ∧ d.window[n] = 0 ∧ d.tot[n] = 0) ∧
  ∀ n : Fin 8,
    let u := (stackOf s n).sump
    u.en = false ∧ u.nom = 0 ∧ u.rsv = (if n = 0 then 128 else 0) ∧ u.dir = 0 ∧ u.bnc = 0 ∧ u.ovf = 0 ∧ u.hwm = 0 ∧ u.lwm = 0 ∧
      u.list = 0 ∧ u.tail = 0 ∧ u.head = 0 ∧ u.skip = 0 ∧ u.oos = false

/-- R86, R97, R108–R117, R355: words that the spec writes out decode to the instructions that they stand for, one or more of
each slot; a word with a reserved bit set, or an opcode that the tables do not hold, decodes to none. -/
def Obligations.DecodeWords : Prop :=
  let reads (slot w : Nat) (i : Instr) : Prop := decodeCode (.slot slot w) = some i
  reads 0 0x004A5FFF (.addi 5 5 (-1)) ∧
  reads 0 0x02C58C64 (.cmpi 3 1 3 100) ∧
  reads 1 0x020E1002 (.ldv 7 0 true 2) ∧
  reads 1 0x04883980 (.ldaq 4 1 6 3) ∧
  reads 2 0x04C6450E (.atomAdd 3 2 5 true true 2) ∧
  reads 2 0x05C8A849 (.rgset 2 5 8 9 1) ∧
  reads 3 0x00061108 (.vadd 3 1 2 0 8) ∧
  reads 4 0x05D642A8 (.vadj 11 4 5 2 true 0) ∧
  reads 5 0x4400005C02114C10 (.cpy 4 5 6 0 2 ⟨false, true, 7⟩ ⟨true, 2, 0, 0, 0, 0⟩) ∧
  reads 7 0x0000000F007FFFF0 (.jmp (-16)) ∧
  reads 7 0x0000000208089000 (.getsys 4 9 2) ∧
  decodeCode (.slot 0 0x03486111) = none ∧
  decodeCode (.slot 7 0x04400000) = none

/-- R86, R91, R97, R101–R103: a step at whose pc a bundle with one slot stands, whose group decodes to i, is exec of i on the
slot's state, the end of the bundle (R51, R52) added unless i has ended it, and time passed; a gap bundle is its own row. i is
judged on the state before the bundle, and runs with the mark that what it waits for is over (R103), but for a BARA, whose
arrival its bundle does not wait for (R161, R162). The premises rule out
what comes first by the spec: a late fault, an interrupt, an awaited image or, before an EXIT, an awaited store, the
quantum's end, a partner in a gang, a loop level, a debug setting, a pre-emption request. The agenda is the model's (log 5):
with none, the context on the port issues. -/
def Obligations.StepRunsDecodedInstruction : Prop :=
  ∀ (s u : State) (h : Header) (bs : List Byte),
    let f := layOut h bs u
    let at_ := parcelNo s.ctx.pc
    let quiet (x : State) : Prop := ∀ st ∈ x.dies.toList, st.trace.ring = 0
    let mark (b : Bool) (x : State) : State := { x with frame := { x.frame with cleared := b } }
    s.dev.powered = true → s.agenda = [] → partner s = none → partnerMissing s = false → s.ctx.run = .running → s.ctx.late = [] → s.ctx.loops = [] →
    s.ctx.preemptAt = none → s.dev.debug = 0 → portOf s s.who = s.who → pendingIrq s s.who = none → imageAwaited s = false →
    (coreOf s s.who.coreNo).quantum < (coreOf s s.who.coreNo).limit → quiet s → s.ctx.pc.toNat % 4 = 0 →
    fetchLine (lineAddr s.ctx.pc) { s with frame := { Frame.none with base := s.ctx.pc, parcel := s.ctx.pc } } = (u, some bs) →
    decodeHeader (parcelOf bs at_) = some h → headerReject h = none → at_ + bundleLen h.p ≤ 16 →
    (∀ o i v w, h.p ≠ 0 → readSlots h.p (bundleParcel bs f) = [o] → o.op = .ok i → o.tag = 0 → slotReject f.frame.len o f = none →
      (isExit i = true → exitWaits f = false) →
      let row := rowOf i (atSlot o f)
      exec row (atSlot o f) = .next v → v.frame.out ≠ .stalled → (∀ r, v.frame.out ≠ .trapped r) →
      exec row (atSlot o (mark (!isBara i) f)) = .next w → w.who = s.who → w.frame.yields = false →
      (w.frame.out = .going ∨ w.frame.out = .done) →
      let t := if w.frame.out = .going then meetRegs s.who u.ctx.sc (finishBundle false (mark false w)) else mark false w
      quiet t → step s = .next (passTime s t)) ∧
    (∀ v, h.p = 0 → exec (.gapBundle h) f = .next v → v.who = s.who → v.frame.yields = false → v.frame.out ≠ .stalled → quiet v →
      step s = .next (passTime s v))

/-- R86–R116, R355: for every well-formed instruction with words of its own, decoding them gives it back, whatever its
operands. -/
def Obligations.RoundTrip : Prop := ∀ (i : Instr) (c : Code), encode i = some c → wellFormed i = true → decodeCode c = some i

/-- From any state in which the memories have their canonical form (addresses rising, no byte listed that equals what an
unlisted address reads as), every step keeps it. This is the model's own invariant, and no rule of the spec. -/
def Obligations.MemoryInvariant : Prop := ∀ s t : State, MemoriesWf s → step s = .next t → MemoriesWf t

/-! ## Steps of queues and of Sump -/

/-- R263, R264, R270, R275, R276, R278, R422–R426: the steps of the copy queues, of the event queue's waiting records and of
Sump complete in every state. A copy starts once its captured operations have ended: with the error of one it ends at once, a
window that it cannot write ends it in error 0x0C, and an attempt or an arrival waits for its start or its end. Sump's steps
leave in its registers what these rules say. A record of an audit's replay leaves without being posted (R443). -/
def Obligations.QueueAndSumpStepsComplete : Prop :=
  ∀ s : State,
    let g := s.input.clu.val
    let id := s.input.num
    let n := s.input.die
    let u := (stackOf s n).sump
    let copySteps : List Instr := [.copyStart, .cpyxAttempt, .copyArrival]
    let sumpSteps : List Instr := [.sumpInflation, .sumpCtlEn, .sumpCtlRetry, .sumpLptrTail, .sumpDefl, .sumpStatOosClear]
    let becomes (o : CopyOp) : Prop := ∃ t, exec .copyStart s = .next t ∧ findCopy t g id = some o ∧ t.ctx = s.ctx ∧ SameBytes s t
    let others (t : State) : Prop := t.ctx = s.ctx ∧ t.parked = s.parked ∧ t.spm = s.spm ∧ ∀ m, m ≠ n → stackOf t m = stackOf s m
    (∀ i ∈ copySteps ++ [.eventRecordPost] ++ sumpSteps, ∃ t, exec i s = .next t) ∧
    (findCopy s g id = none → ∀ i ∈ copySteps, exec i s = .next s) ∧
    (∀ o, findCopy s g id = some o →
      (o.deps ≠ [] ∨ o.waitsVa ≠ none ∨ o.moved = true → exec .copyStart s = .next s) ∧
      (o.started = false ∨ o.moved = true ∨ o.waitsVa ≠ none ∨ o.kind ≠ .cpyx → exec .cpyxAttempt s = .next s) ∧
      (o.moved = false ∨ o.waitsVa ≠ none → exec .copyArrival s = .next s) ∧
      (o.deps = [] → o.waitsVa = none → o.moved = false →
        (o.error ≠ none → becomes { o with started := true, moved := true }) ∧
        (o.error = none → o.kind = .cpyx → o.dsp ≠ 1 → becomes { o with started := true }) ∧
        (∀ w, o.error = none → o.dsp = 1 → winOf s o.task o.dst = some w → winReady s o w = false →
          becomes { o with started := true, moved := true, error := some 0x0C }))) ∧
    ((clusterOf s g).posting = [] → exec .eventRecordPost s = .next s) ∧
    (∀ r rest, (clusterOf s g).posting = r :: rest → isReplay r.task = true → ∃ t, exec .eventRecordPost s = .next t ∧
      (clusterOf t g).events = (clusterOf s g).events ∧ (clusterOf t g).posting = rest ∧ t.ctx = s.ctx ∧ SameBytes s t) ∧
    (∀ r rest, (clusterOf s g).posting = r :: rest → isReplay r.task = false → ((clusterOf s g).events = [] ∨ (clusterOf s g).events.length < Config.eventQueueDepth) →
      ∃ t, exec .eventRecordPost s = .next t ∧ (clusterOf t g).events = (clusterOf s g).events ++ [r] ∧ (clusterOf t g).posting = rest ∧
        t.ctx = s.ctx ∧ SameBytes s t) ∧
    (u.en = false → ∃ t, exec .sumpCtlEn s = .next t ∧ others t ∧ (stackOf t n).sump = { u with en := true, waiting := [], told := [] }) ∧
    (u.waiting = [] → s.dev.frozen = false → ∃ t, exec .sumpCtlRetry s = .next t ∧ others t ∧ t.mem = s.mem ∧ (stackOf t n).sump = { u with told := [] }) ∧
    (∃ t, exec .sumpLptrTail s = .next t ∧ others t ∧ t.mem = s.mem ∧ (stackOf t n).sump.tail = id % 4096 ∧ (stackOf t n).sump.head = u.head) ∧
    (∃ t, exec .sumpDefl s = .next t ∧ others t ∧ (stackOf t n).sump = u ∧ ∀ p, placeOf s id = .nominal n p → ballooned t n p = false) ∧
    (∃ t, exec .sumpStatOosClear s = .next t ∧ others t ∧ t.mem = s.mem ∧ (stackOf t n).sump = { u with oos := false }) ∧
    (u.waiting = [] →
      (inflates (stackOf s n) = false → ∃ t, exec .sumpInflation s = .next t ∧ others t ∧ t.mem = s.mem ∧ (stackOf t n).sump = { u with inflating := false }) ∧
      (inflates (stackOf s n) = true → ∃ t, exec .sumpInflation s = .next t ∧ others t ∧ (stackOf t n).sump.head = (u.head + 1) % 4096))
end

