-- ==== Sys2Proof/Laws/Memory.lean ====
section
/-! SUPPORT. The laws of memory and of tables: what is read after a write, that every operation keeps the canonical form,
and that memories in it are equal when every byte reads the same. -/

namespace Sys2Proof.Machine

/-! ## Tables -/

@[simp] theorem tbl_get_nil {α : Type} (i : Nat) : Tbl.get? ([] : Tbl α) i = none := rfl

theorem tbl_get_set {α : Type} (t : Tbl α) (i j : Nat) (x : α) :
    Tbl.get? (Tbl.set t i x) j = if j = i then some x else Tbl.get? t j := by
  induction t with
  | nil => by_cases h : i = j <;> simp [Tbl.set, Tbl.get?, h, Ne.symm]
  | cons e t ih =>
    obtain ⟨k, y⟩ := e
    simp only [Tbl.set]
    split
    · by_cases h : j = i
      · simp [Tbl.get?, h]
      · simp [Tbl.get?, h, Ne.symm h]
    · split
      · subst_vars
        by_cases h : j = k
        · simp [Tbl.get?, h]
        · simp [Tbl.get?, h, Ne.symm h]
      · simp only [Tbl.get?, ih]
        by_cases h : k = j
        · have : j ≠ i := by omega
          simp [h, this]
        · simp [h]

@[simp] theorem tbl_get_set_self {α : Type} (t : Tbl α) (i : Nat) (x : α) : Tbl.get? (Tbl.set t i x) i = some x := by
  simp [tbl_get_set]

theorem tbl_get_set_other {α : Type} (t : Tbl α) {i j : Nat} (x : α) (h : j ≠ i) : Tbl.get? (Tbl.set t i x) j = Tbl.get? t j := by
  simp [tbl_get_set, h]

/-! ## The canonical form -/

theorem wfFrom_mono {m : Memory} {lo hi : Nat} (h : lo ≤ hi) (w : m.wfFrom hi = true) : m.wfFrom lo = true := by
  cases m with
  | nil => rfl
  | cons e m =>
    simp only [Memory.wfFrom, Bool.and_eq_true, decide_eq_true_eq] at w ⊢
    exact ⟨⟨by omega, w.1.2⟩, w.2⟩

theorem wf_of_wfFrom {m : Memory} {lo : Nat} (w : m.wfFrom lo = true) : m.wf = true := wfFrom_mono (Nat.zero_le lo) w

@[simp] theorem wf_nil : Memory.wf [] = true := rfl

/-- Below its first address a memory reads as unwritten. -/
theorem read_below {m : Memory} {lo a : Nat} (w : m.wfFrom lo = true) (h : a < lo) : m.read a = unwritten := by
  induction m generalizing lo with
  | nil => rfl
  | cons e m ih =>
    simp only [Memory.wfFrom, Bool.and_eq_true, decide_eq_true_eq] at w
    have : e.1 ≠ a := by omega
    simpa [Memory.read, this] using ih w.2 (by omega)

theorem write_wfFrom {m : Memory} {lo a : Nat} (b : Byte) (h : lo ≤ a) (w : m.wfFrom lo = true) : (m.write a b).wfFrom lo = true := by
  induction m generalizing lo with
  | nil => by_cases hb : b = unwritten <;> simp [Memory.write, Memory.wfFrom, hb, h]
  | cons e m ih =>
    simp only [Memory.wfFrom, Bool.and_eq_true, decide_eq_true_eq, bne_iff_ne, ne_eq] at w
    obtain ⟨⟨h1, h2⟩, h3⟩ := w
    simp only [Memory.write]
    split
    · by_cases hb : b = unwritten
      · simp [hb, Memory.wfFrom, h1, h2, h3]
      · simp [hb, Memory.wfFrom, h, h2, h3]; omega
    · split
      · by_cases hb : b = unwritten
        · simpa [hb] using wfFrom_mono (by omega) h3
        · simp only [hb, if_false, Memory.wfFrom, Bool.and_eq_true, decide_eq_true_eq, bne_iff_ne, ne_eq, not_false_eq_true, and_true]
          exact ⟨h, wfFrom_mono (by omega) h3⟩
      · simp only [Memory.wfFrom, Bool.and_eq_true, decide_eq_true_eq, bne_iff_ne, ne_eq]
        exact ⟨⟨h1, h2⟩, ih (by omega) h3⟩

/-- A write keeps the canonical form. -/
theorem write_wf {m : Memory} (a : Nat) (b : Byte) (w : m.wf = true) : (m.write a b).wf = true :=
  write_wfFrom b (Nat.zero_le a) w

theorem writeBytes_wf {m : Memory} (a : Nat) (bs : List Byte) (w : m.wf = true) : (m.writeBytes a bs).wf = true := by
  induction bs generalizing m a with
  | nil => exact w
  | cons b bs ih => exact ih (a + 1) (write_wf a b w)

theorem writeCells_wf {m : Memory} (cs : List (Nat × Byte)) (w : m.wf = true) : (m.writeCells cs).wf = true := by
  induction cs generalizing m with
  | nil => exact w
  | cons c cs ih => exact ih (write_wf c.1 c.2 w)

theorem filter_wfFrom (p : Nat × Byte → Bool) {m : Memory} {lo : Nat} (w : m.wfFrom lo = true) :
    Memory.wfFrom lo (m.filter p) = true := by
  induction m generalizing lo with
  | nil => rfl
  | cons e m ih =>
    simp only [Memory.wfFrom, Bool.and_eq_true, decide_eq_true_eq] at w
    by_cases h : p e
    · simp only [h, List.filter_cons_of_pos, Memory.wfFrom, Bool.and_eq_true, decide_eq_true_eq]
      exact ⟨w.1, ih w.2⟩
    · simp only [h, Bool.false_eq_true, not_false_eq_true, List.filter_cons_of_neg]
      exact wfFrom_mono (by omega) (ih w.2)

/-- Dropping entries keeps the canonical form. -/
theorem filter_wf (p : Nat × Byte → Bool) {m : Memory} (w : m.wf = true) : Memory.wf (m.filter p) = true := filter_wfFrom p w

/-! ## Reading after writing -/

theorem read_write_from {m : Memory} {lo : Nat} (w : m.wfFrom lo = true) (a : Nat) (b : Byte) (k : Nat) :
    (m.write a b).read k = if k = a then b else m.read k := by
  induction m generalizing lo with
  | nil =>
    by_cases hb : b = unwritten <;> by_cases h : k = a <;> simp [Memory.write, Memory.read, hb, h, eq_comm]
    intro e; exact absurd e.symm h
  | cons e m ih =>
    obtain ⟨j, c⟩ := e
    simp only [Memory.wfFrom, Bool.and_eq_true, decide_eq_true_eq] at w
    have below : a < j → Memory.read m a = unwritten := fun h => read_below w.2 (by omega)
    have here : Memory.read m j = unwritten := read_below w.2 (by omega)
    simp only [Memory.write]
    split
    · by_cases hb : b = unwritten <;> by_cases h : k = a
      · subst h; simp [hb, Memory.read, show j ≠ k by omega, below ‹_›]
      · simp [hb, h]
      · subst h; simp [hb, Memory.read]
      · simp [hb, h, Memory.read, Ne.symm h]
    · split
      · subst_vars
        by_cases hb : b = unwritten <;> by_cases h : k = j
        · subst h; simp [hb, here]
        · simp [hb, h, Memory.read, Ne.symm h]
        · subst h; simp [hb, Memory.read]
        · simp [hb, h, Memory.read, Ne.symm h]
      · simp only [Memory.read, ih w.2]
        by_cases h : j = k
        · simp [h, show k ≠ a by omega]
        · simp [h]

/-- A write to one address changes that byte and no other. -/
theorem read_write {m : Memory} (w : m.wf = true) (a : Nat) (b : Byte) (k : Nat) :
    (m.write a b).read k = if k = a then b else m.read k := read_write_from w a b k

/-- Bytes written from a upward are read back; every other byte reads as before. -/
theorem read_writeBytes {m : Memory} (w : m.wf = true) (a : Nat) (bs : List Byte) (k : Nat) :
    (m.writeBytes a bs).read k = if a ≤ k ∧ k < a + bs.length then bs.getD (k - a) 0 else m.read k := by
  induction bs generalizing m a with
  | nil => simp [Memory.writeBytes]
  | cons b bs ih =>
    rw [Memory.writeBytes, ih (write_wf a b w), read_write w]
    by_cases h : a + 1 ≤ k ∧ k < a + 1 + bs.length
    · have e : k - a = (k - (a + 1)) + 1 := by omega
      rw [if_pos h, if_pos (by simp; omega), e, List.getD_cons_succ]
    · rw [if_neg h]
      by_cases h0 : k = a
      · subst h0; simp
      · rw [if_neg h0, if_neg (by simp; omega)]

theorem readBytes_length (m : Memory) (a n : Nat) : (m.readBytes a n).length = n := by
  induction n generalizing a with
  | zero => rfl
  | succ n ih => simp [Memory.readBytes, ih]

theorem readBytes_congr {m m' : Memory} (a n : Nat) (h : ∀ k, a ≤ k → k < a + n → m'.read k = m.read k) :
    m'.readBytes a n = m.readBytes a n := by
  induction n generalizing a with
  | zero => rfl
  | succ n ih =>
    simp only [Memory.readBytes, h a (by omega) (by omega)]
    rw [ih (a + 1) fun k h1 h2 => h k (by omega) (by omega)]

/-! ## Equal memories are equal data -/

theorem read_head {e : Nat × Byte} {m : Memory} {lo : Nat} (w : Memory.wfFrom lo (e :: m) = true) :
    Memory.read (e :: m) e.1 ≠ unwritten ∧ ∀ k, k < e.1 → Memory.read (e :: m) k = unwritten := by
  simp only [Memory.wfFrom, Bool.and_eq_true, decide_eq_true_eq, bne_iff_ne, ne_eq] at w
  refine ⟨by simpa [Memory.read] using w.1.2, fun k h => ?_⟩
  simpa [Memory.read, show e.1 ≠ k by omega] using read_below w.2 (show k < e.1 + 1 by omega)

theorem ext_from {m n : Memory} {lo : Nat} (wm : m.wfFrom lo = true) (wn : n.wfFrom lo = true) (h : ∀ k, m.read k = n.read k) :
    m = n := by
  induction m generalizing n lo with
  | nil =>
    cases n with
    | nil => rfl
    | cons f n => exact absurd (h f.1).symm (read_head wn).1
  | cons e m ih =>
    cases n with
    | nil => exact absurd (h e.1) (read_head wm).1
    | cons f n =>
      have hm := read_head wm
      have hn := read_head wn
      have key : e.1 = f.1 := by
        rcases Nat.lt_trichotomy e.1 f.1 with l | l | l
        · exact absurd (by rw [h e.1]; exact hn.2 _ l) hm.1
        · exact l
        · exact absurd (by rw [← h f.1]; exact hm.2 _ l) hn.1
      have val : e.2 = f.2 := by simpa [Memory.read, key] using h e.1
      have he : e = f := Prod.ext key val
      subst he
      simp only [Memory.wfFrom, Bool.and_eq_true, decide_eq_true_eq] at wm wn
      congr 1
      refine ih wm.2 wn.2 fun k => ?_
      by_cases hk : e.1 = k
      · subst hk; rw [read_below wm.2 (by omega), read_below wn.2 (by omega)]
      · simpa [Memory.read, hk] using h k

/-- Memories in canonical form whose bytes read the same are equal. -/
theorem memory_ext {m n : Memory} (wm : m.wf = true) (wn : n.wf = true) (h : ∀ k, m.read k = n.read k) : m = n := ext_from wm wn h

end Sys2Proof.Machine
end

