-- ==== Sys2Proof/Laws/State.lean ====
section
/-! SUPPORT. What the named updates of the state leave as it was, one lemma for each field, and what the units' accessors read
after them. -/

namespace Sys2Proof.Machine

/-! ## modDev -/

@[simp] theorem modDev_tick (s : State) (f : Dev → Dev) : (modDev s f).tick = s.tick := rfl
@[simp] theorem modDev_now (s : State) (f : Dev → Dev) : (modDev s f).now = s.now := rfl
@[simp] theorem modDev_serial (s : State) (f : Dev → Dev) : (modDev s f).serial = s.serial := rfl
@[simp] theorem modDev_agenda (s : State) (f : Dev → Dev) : (modDev s f).agenda = s.agenda := rfl
@[simp] theorem modDev_input (s : State) (f : Dev → Dev) : (modDev s f).input = s.input := rfl
@[simp] theorem modDev_frame (s : State) (f : Dev → Dev) : (modDev s f).frame = s.frame := rfl
@[simp] theorem modDev_who (s : State) (f : Dev → Dev) : (modDev s f).who = s.who := rfl
@[simp] theorem modDev_ctx (s : State) (f : Dev → Dev) : (modDev s f).ctx = s.ctx := rfl
@[simp] theorem modDev_parked (s : State) (f : Dev → Dev) : (modDev s f).parked = s.parked := rfl
@[simp] theorem modDev_cores (s : State) (f : Dev → Dev) : (modDev s f).cores = s.cores := rfl
@[simp] theorem modDev_clusters (s : State) (f : Dev → Dev) : (modDev s f).clusters = s.clusters := rfl
@[simp] theorem modDev_dies (s : State) (f : Dev → Dev) : (modDev s f).dies = s.dies := rfl
@[simp] theorem modDev_tasks (s : State) (f : Dev → Dev) : (modDev s f).tasks = s.tasks := rfl
@[simp] theorem modDev_chans (s : State) (f : Dev → Dev) : (modDev s f).chans = s.chans := rfl
@[simp] theorem modDev_images (s : State) (f : Dev → Dev) : (modDev s f).images = s.images := rfl
@[simp] theorem modDev_releases (s : State) (f : Dev → Dev) : (modDev s f).releases = s.releases := rfl
@[simp] theorem modDev_mem (s : State) (f : Dev → Dev) : (modDev s f).mem = s.mem := rfl
@[simp] theorem modDev_spm (s : State) (f : Dev → Dev) : (modDev s f).spm = s.spm := rfl
@[simp] theorem modDev_rom (s : State) (f : Dev → Dev) : (modDev s f).rom = s.rom := rfl
@[simp] theorem modDev_poison (s : State) (f : Dev → Dev) : (modDev s f).poison = s.poison := rfl
@[simp] theorem modDev_spmPoison (s : State) (f : Dev → Dev) : (modDev s f).spmPoison = s.spmPoison := rfl

/-! ## committedStore: bytes of committed memory and the poison of the lines that they cover -/

@[simp] theorem committedStore_tick (k : Nat) (bs : List Byte) (s : State) : (committedStore k bs s).tick = s.tick := rfl
@[simp] theorem committedStore_now (k : Nat) (bs : List Byte) (s : State) : (committedStore k bs s).now = s.now := rfl
@[simp] theorem committedStore_serial (k : Nat) (bs : List Byte) (s : State) : (committedStore k bs s).serial = s.serial := rfl
@[simp] theorem committedStore_agenda (k : Nat) (bs : List Byte) (s : State) : (committedStore k bs s).agenda = s.agenda := rfl
@[simp] theorem committedStore_input (k : Nat) (bs : List Byte) (s : State) : (committedStore k bs s).input = s.input := rfl
@[simp] theorem committedStore_frame (k : Nat) (bs : List Byte) (s : State) : (committedStore k bs s).frame = s.frame := rfl
@[simp] theorem committedStore_who (k : Nat) (bs : List Byte) (s : State) : (committedStore k bs s).who = s.who := rfl
@[simp] theorem committedStore_ctx (k : Nat) (bs : List Byte) (s : State) : (committedStore k bs s).ctx = s.ctx := rfl
@[simp] theorem committedStore_parked (k : Nat) (bs : List Byte) (s : State) : (committedStore k bs s).parked = s.parked := rfl
@[simp] theorem committedStore_cores (k : Nat) (bs : List Byte) (s : State) : (committedStore k bs s).cores = s.cores := rfl
@[simp] theorem committedStore_clusters (k : Nat) (bs : List Byte) (s : State) : (committedStore k bs s).clusters = s.clusters := rfl
@[simp] theorem committedStore_dies (k : Nat) (bs : List Byte) (s : State) : (committedStore k bs s).dies = s.dies := rfl
@[simp] theorem committedStore_tasks (k : Nat) (bs : List Byte) (s : State) : (committedStore k bs s).tasks = s.tasks := rfl
@[simp] theorem committedStore_chans (k : Nat) (bs : List Byte) (s : State) : (committedStore k bs s).chans = s.chans := rfl
@[simp] theorem committedStore_images (k : Nat) (bs : List Byte) (s : State) : (committedStore k bs s).images = s.images := rfl
@[simp] theorem committedStore_releases (k : Nat) (bs : List Byte) (s : State) : (committedStore k bs s).releases = s.releases := rfl
@[simp] theorem committedStore_spm (k : Nat) (bs : List Byte) (s : State) : (committedStore k bs s).spm = s.spm := rfl
@[simp] theorem committedStore_rom (k : Nat) (bs : List Byte) (s : State) : (committedStore k bs s).rom = s.rom := rfl
@[simp] theorem committedStore_spmPoison (k : Nat) (bs : List Byte) (s : State) : (committedStore k bs s).spmPoison = s.spmPoison := rfl
@[simp] theorem committedStore_dev (k : Nat) (bs : List Byte) (s : State) : (committedStore k bs s).dev = s.dev := rfl
@[simp] theorem committedStore_mem (k : Nat) (bs : List Byte) (s : State) : (committedStore k bs s).mem = s.mem.writeBytes k bs := rfl

/-- A store that covers no line wholly leaves every line's poison as it was (R430). -/
theorem committedStore_poison_part {k : Nat} {bs : List Byte} (h : bs.length < 64) (s : State) : (committedStore k bs s).poison = s.poison := by
  refine List.filter_eq_self.2 fun l _ => ?_
  simp only [wholeLine, Bool.not_eq_true', Bool.and_eq_false_iff, decide_eq_false_iff_not]
  omega

/-! ## setClock -/

@[simp] theorem setClock_tick (c : Nat) (s : State) : (setClock c s).tick = s.tick := by unfold setClock; split <;> rfl
@[simp] theorem setClock_now (c : Nat) (s : State) : (setClock c s).now = s.now := by unfold setClock; split <;> rfl
@[simp] theorem setClock_serial (c : Nat) (s : State) : (setClock c s).serial = s.serial := by unfold setClock; split <;> rfl
@[simp] theorem setClock_agenda (c : Nat) (s : State) : (setClock c s).agenda = s.agenda := by unfold setClock; split <;> rfl
@[simp] theorem setClock_input (c : Nat) (s : State) : (setClock c s).input = s.input := by unfold setClock; split <;> rfl
@[simp] theorem setClock_frame (c : Nat) (s : State) : (setClock c s).frame = s.frame := by unfold setClock; split <;> rfl
@[simp] theorem setClock_who (c : Nat) (s : State) : (setClock c s).who = s.who := by unfold setClock; split <;> rfl
@[simp] theorem setClock_ctx (c : Nat) (s : State) : (setClock c s).ctx = s.ctx := by unfold setClock; split <;> rfl
@[simp] theorem setClock_parked (c : Nat) (s : State) : (setClock c s).parked = s.parked := by unfold setClock; split <;> rfl
@[simp] theorem setClock_cores (c : Nat) (s : State) : (setClock c s).cores = s.cores := by unfold setClock; split <;> rfl
@[simp] theorem setClock_clusters (c : Nat) (s : State) : (setClock c s).clusters = s.clusters := by unfold setClock; split <;> rfl
@[simp] theorem setClock_dies (c : Nat) (s : State) : (setClock c s).dies = s.dies := by unfold setClock; split <;> rfl
@[simp] theorem setClock_tasks (c : Nat) (s : State) : (setClock c s).tasks = s.tasks := by unfold setClock; split <;> rfl
@[simp] theorem setClock_chans (c : Nat) (s : State) : (setClock c s).chans = s.chans := by unfold setClock; split <;> rfl
@[simp] theorem setClock_images (c : Nat) (s : State) : (setClock c s).images = s.images := by unfold setClock; split <;> rfl
@[simp] theorem setClock_releases (c : Nat) (s : State) : (setClock c s).releases = s.releases := by unfold setClock; split <;> rfl
@[simp] theorem setClock_spm (c : Nat) (s : State) : (setClock c s).spm = s.spm := by unfold setClock; split <;> rfl
@[simp] theorem setClock_rom (c : Nat) (s : State) : (setClock c s).rom = s.rom := by unfold setClock; split <;> rfl
@[simp] theorem setClock_spmPoison (c : Nat) (s : State) : (setClock c s).spmPoison = s.spmPoison := by unfold setClock; split <;> rfl
@[simp] theorem setClock_mem (c : Nat) (s : State) : (setClock c s).mem = s.mem := by unfold setClock; split <;> rfl
@[simp] theorem setClock_poison (c : Nat) (s : State) : (setClock c s).poison = s.poison := by unfold setClock; split <;> rfl

/-- The clock's rate after a change (R481). -/
@[simp] theorem setClock_clk (c : Nat) (s : State) : (setClock c s).dev.clk = c := by
  unfold setClock
  split
  · rename_i h; exact h.symm
  · rfl

/-! ## setCore -/

@[simp] theorem setCore_tick (s : State) (k : Nat) (x : Core) : (setCore s k x).tick = s.tick := rfl
@[simp] theorem setCore_now (s : State) (k : Nat) (x : Core) : (setCore s k x).now = s.now := rfl
@[simp] theorem setCore_serial (s : State) (k : Nat) (x : Core) : (setCore s k x).serial = s.serial := rfl
@[simp] theorem setCore_agenda (s : State) (k : Nat) (x : Core) : (setCore s k x).agenda = s.agenda := rfl
@[simp] theorem setCore_input (s : State) (k : Nat) (x : Core) : (setCore s k x).input = s.input := rfl
@[simp] theorem setCore_frame (s : State) (k : Nat) (x : Core) : (setCore s k x).frame = s.frame := rfl
@[simp] theorem setCore_who (s : State) (k : Nat) (x : Core) : (setCore s k x).who = s.who := rfl
@[simp] theorem setCore_ctx (s : State) (k : Nat) (x : Core) : (setCore s k x).ctx = s.ctx := rfl
@[simp] theorem setCore_parked (s : State) (k : Nat) (x : Core) : (setCore s k x).parked = s.parked := rfl
@[simp] theorem setCore_clusters (s : State) (k : Nat) (x : Core) : (setCore s k x).clusters = s.clusters := rfl
@[simp] theorem setCore_dies (s : State) (k : Nat) (x : Core) : (setCore s k x).dies = s.dies := rfl
@[simp] theorem setCore_tasks (s : State) (k : Nat) (x : Core) : (setCore s k x).tasks = s.tasks := rfl
@[simp] theorem setCore_chans (s : State) (k : Nat) (x : Core) : (setCore s k x).chans = s.chans := rfl
@[simp] theorem setCore_images (s : State) (k : Nat) (x : Core) : (setCore s k x).images = s.images := rfl
@[simp] theorem setCore_releases (s : State) (k : Nat) (x : Core) : (setCore s k x).releases = s.releases := rfl
@[simp] theorem setCore_mem (s : State) (k : Nat) (x : Core) : (setCore s k x).mem = s.mem := rfl
@[simp] theorem setCore_spm (s : State) (k : Nat) (x : Core) : (setCore s k x).spm = s.spm := rfl
@[simp] theorem setCore_rom (s : State) (k : Nat) (x : Core) : (setCore s k x).rom = s.rom := rfl
@[simp] theorem setCore_poison (s : State) (k : Nat) (x : Core) : (setCore s k x).poison = s.poison := rfl
@[simp] theorem setCore_spmPoison (s : State) (k : Nat) (x : Core) : (setCore s k x).spmPoison = s.spmPoison := rfl
@[simp] theorem setCore_dev (s : State) (k : Nat) (x : Core) : (setCore s k x).dev = s.dev := rfl

/-! ## modCore -/

@[simp] theorem modCore_tick (s : State) (k : Nat) (f : Core → Core) : (modCore s k f).tick = s.tick := rfl
@[simp] theorem modCore_now (s : State) (k : Nat) (f : Core → Core) : (modCore s k f).now = s.now := rfl
@[simp] theorem modCore_serial (s : State) (k : Nat) (f : Core → Core) : (modCore s k f).serial = s.serial := rfl
@[simp] theorem modCore_agenda (s : State) (k : Nat) (f : Core → Core) : (modCore s k f).agenda = s.agenda := rfl
@[simp] theorem modCore_input (s : State) (k : Nat) (f : Core → Core) : (modCore s k f).input = s.input := rfl
@[simp] theorem modCore_frame (s : State) (k : Nat) (f : Core → Core) : (modCore s k f).frame = s.frame := rfl
@[simp] theorem modCore_who (s : State) (k : Nat) (f : Core → Core) : (modCore s k f).who = s.who := rfl
@[simp] theorem modCore_ctx (s : State) (k : Nat) (f : Core → Core) : (modCore s k f).ctx = s.ctx := rfl
@[simp] theorem modCore_parked (s : State) (k : Nat) (f : Core → Core) : (modCore s k f).parked = s.parked := rfl
@[simp] theorem modCore_clusters (s : State) (k : Nat) (f : Core → Core) : (modCore s k f).clusters = s.clusters := rfl
@[simp] theorem modCore_dies (s : State) (k : Nat) (f : Core → Core) : (modCore s k f).dies = s.dies := rfl
@[simp] theorem modCore_tasks (s : State) (k : Nat) (f : Core → Core) : (modCore s k f).tasks = s.tasks := rfl
@[simp] theorem modCore_chans (s : State) (k : Nat) (f : Core → Core) : (modCore s k f).chans = s.chans := rfl
@[simp] theorem modCore_images (s : State) (k : Nat) (f : Core → Core) : (modCore s k f).images = s.images := rfl
@[simp] theorem modCore_releases (s : State) (k : Nat) (f : Core → Core) : (modCore s k f).releases = s.releases := rfl
@[simp] theorem modCore_mem (s : State) (k : Nat) (f : Core → Core) : (modCore s k f).mem = s.mem := rfl
@[simp] theorem modCore_spm (s : State) (k : Nat) (f : Core → Core) : (modCore s k f).spm = s.spm := rfl
@[simp] theorem modCore_rom (s : State) (k : Nat) (f : Core → Core) : (modCore s k f).rom = s.rom := rfl
@[simp] theorem modCore_poison (s : State) (k : Nat) (f : Core → Core) : (modCore s k f).poison = s.poison := rfl
@[simp] theorem modCore_spmPoison (s : State) (k : Nat) (f : Core → Core) : (modCore s k f).spmPoison = s.spmPoison := rfl
@[simp] theorem modCore_dev (s : State) (k : Nat) (f : Core → Core) : (modCore s k f).dev = s.dev := rfl

/-! ## setCluster -/

@[simp] theorem setCluster_tick (s : State) (g : Nat) (x : Cluster) : (setCluster s g x).tick = s.tick := rfl
@[simp] theorem setCluster_now (s : State) (g : Nat) (x : Cluster) : (setCluster s g x).now = s.now := rfl
@[simp] theorem setCluster_serial (s : State) (g : Nat) (x : Cluster) : (setCluster s g x).serial = s.serial := rfl
@[simp] theorem setCluster_agenda (s : State) (g : Nat) (x : Cluster) : (setCluster s g x).agenda = s.agenda := rfl
@[simp] theorem setCluster_input (s : State) (g : Nat) (x : Cluster) : (setCluster s g x).input = s.input := rfl
@[simp] theorem setCluster_frame (s : State) (g : Nat) (x : Cluster) : (setCluster s g x).frame = s.frame := rfl
@[simp] theorem setCluster_who (s : State) (g : Nat) (x : Cluster) : (setCluster s g x).who = s.who := rfl
@[simp] theorem setCluster_ctx (s : State) (g : Nat) (x : Cluster) : (setCluster s g x).ctx = s.ctx := rfl
@[simp] theorem setCluster_parked (s : State) (g : Nat) (x : Cluster) : (setCluster s g x).parked = s.parked := rfl
@[simp] theorem setCluster_cores (s : State) (g : Nat) (x : Cluster) : (setCluster s g x).cores = s.cores := rfl
@[simp] theorem setCluster_dies (s : State) (g : Nat) (x : Cluster) : (setCluster s g x).dies = s.dies := rfl
@[simp] theorem setCluster_tasks (s : State) (g : Nat) (x : Cluster) : (setCluster s g x).tasks = s.tasks := rfl
@[simp] theorem setCluster_chans (s : State) (g : Nat) (x : Cluster) : (setCluster s g x).chans = s.chans := rfl
@[simp] theorem setCluster_images (s : State) (g : Nat) (x : Cluster) : (setCluster s g x).images = s.images := rfl
@[simp] theorem setCluster_releases (s : State) (g : Nat) (x : Cluster) : (setCluster s g x).releases = s.releases := rfl
@[simp] theorem setCluster_mem (s : State) (g : Nat) (x : Cluster) : (setCluster s g x).mem = s.mem := rfl
@[simp] theorem setCluster_spm (s : State) (g : Nat) (x : Cluster) : (setCluster s g x).spm = s.spm := rfl
@[simp] theorem setCluster_rom (s : State) (g : Nat) (x : Cluster) : (setCluster s g x).rom = s.rom := rfl
@[simp] theorem setCluster_poison (s : State) (g : Nat) (x : Cluster) : (setCluster s g x).poison = s.poison := rfl
@[simp] theorem setCluster_spmPoison (s : State) (g : Nat) (x : Cluster) : (setCluster s g x).spmPoison = s.spmPoison := rfl
@[simp] theorem setCluster_dev (s : State) (g : Nat) (x : Cluster) : (setCluster s g x).dev = s.dev := rfl

/-! ## modCluster -/

@[simp] theorem modCluster_tick (s : State) (g : Nat) (f : Cluster → Cluster) : (modCluster s g f).tick = s.tick := rfl
@[simp] theorem modCluster_now (s : State) (g : Nat) (f : Cluster → Cluster) : (modCluster s g f).now = s.now := rfl
@[simp] theorem modCluster_serial (s : State) (g : Nat) (f : Cluster → Cluster) : (modCluster s g f).serial = s.serial := rfl
@[simp] theorem modCluster_agenda (s : State) (g : Nat) (f : Cluster → Cluster) : (modCluster s g f).agenda = s.agenda := rfl
@[simp] theorem modCluster_input (s : State) (g : Nat) (f : Cluster → Cluster) : (modCluster s g f).input = s.input := rfl
@[simp] theorem modCluster_frame (s : State) (g : Nat) (f : Cluster → Cluster) : (modCluster s g f).frame = s.frame := rfl
@[simp] theorem modCluster_who (s : State) (g : Nat) (f : Cluster → Cluster) : (modCluster s g f).who = s.who := rfl
@[simp] theorem modCluster_ctx (s : State) (g : Nat) (f : Cluster → Cluster) : (modCluster s g f).ctx = s.ctx := rfl
@[simp] theorem modCluster_parked (s : State) (g : Nat) (f : Cluster → Cluster) : (modCluster s g f).parked = s.parked := rfl
@[simp] theorem modCluster_cores (s : State) (g : Nat) (f : Cluster → Cluster) : (modCluster s g f).cores = s.cores := rfl
@[simp] theorem modCluster_dies (s : State) (g : Nat) (f : Cluster → Cluster) : (modCluster s g f).dies = s.dies := rfl
@[simp] theorem modCluster_tasks (s : State) (g : Nat) (f : Cluster → Cluster) : (modCluster s g f).tasks = s.tasks := rfl
@[simp] theorem modCluster_chans (s : State) (g : Nat) (f : Cluster → Cluster) : (modCluster s g f).chans = s.chans := rfl
@[simp] theorem modCluster_images (s : State) (g : Nat) (f : Cluster → Cluster) : (modCluster s g f).images = s.images := rfl
@[simp] theorem modCluster_releases (s : State) (g : Nat) (f : Cluster → Cluster) : (modCluster s g f).releases = s.releases := rfl
@[simp] theorem modCluster_mem (s : State) (g : Nat) (f : Cluster → Cluster) : (modCluster s g f).mem = s.mem := rfl
@[simp] theorem modCluster_spm (s : State) (g : Nat) (f : Cluster → Cluster) : (modCluster s g f).spm = s.spm := rfl
@[simp] theorem modCluster_rom (s : State) (g : Nat) (f : Cluster → Cluster) : (modCluster s g f).rom = s.rom := rfl
@[simp] theorem modCluster_poison (s : State) (g : Nat) (f : Cluster → Cluster) : (modCluster s g f).poison = s.poison := rfl
@[simp] theorem modCluster_spmPoison (s : State) (g : Nat) (f : Cluster → Cluster) : (modCluster s g f).spmPoison = s.spmPoison := rfl
@[simp] theorem modCluster_dev (s : State) (g : Nat) (f : Cluster → Cluster) : (modCluster s g f).dev = s.dev := rfl

/-! ## setStack -/

@[simp] theorem setStack_tick (s : State) (n : Fin 8) (x : Stack) : (setStack s n x).tick = s.tick := rfl
@[simp] theorem setStack_now (s : State) (n : Fin 8) (x : Stack) : (setStack s n x).now = s.now := rfl
@[simp] theorem setStack_serial (s : State) (n : Fin 8) (x : Stack) : (setStack s n x).serial = s.serial := rfl
@[simp] theorem setStack_agenda (s : State) (n : Fin 8) (x : Stack) : (setStack s n x).agenda = s.agenda := rfl
@[simp] theorem setStack_input (s : State) (n : Fin 8) (x : Stack) : (setStack s n x).input = s.input := rfl
@[simp] theorem setStack_frame (s : State) (n : Fin 8) (x : Stack) : (setStack s n x).frame = s.frame := rfl
@[simp] theorem setStack_who (s : State) (n : Fin 8) (x : Stack) : (setStack s n x).who = s.who := rfl
@[simp] theorem setStack_ctx (s : State) (n : Fin 8) (x : Stack) : (setStack s n x).ctx = s.ctx := rfl
@[simp] theorem setStack_parked (s : State) (n : Fin 8) (x : Stack) : (setStack s n x).parked = s.parked := rfl
@[simp] theorem setStack_cores (s : State) (n : Fin 8) (x : Stack) : (setStack s n x).cores = s.cores := rfl
@[simp] theorem setStack_clusters (s : State) (n : Fin 8) (x : Stack) : (setStack s n x).clusters = s.clusters := rfl
@[simp] theorem setStack_tasks (s : State) (n : Fin 8) (x : Stack) : (setStack s n x).tasks = s.tasks := rfl
@[simp] theorem setStack_chans (s : State) (n : Fin 8) (x : Stack) : (setStack s n x).chans = s.chans := rfl
@[simp] theorem setStack_images (s : State) (n : Fin 8) (x : Stack) : (setStack s n x).images = s.images := rfl
@[simp] theorem setStack_releases (s : State) (n : Fin 8) (x : Stack) : (setStack s n x).releases = s.releases := rfl
@[simp] theorem setStack_mem (s : State) (n : Fin 8) (x : Stack) : (setStack s n x).mem = s.mem := rfl
@[simp] theorem setStack_spm (s : State) (n : Fin 8) (x : Stack) : (setStack s n x).spm = s.spm := rfl
@[simp] theorem setStack_rom (s : State) (n : Fin 8) (x : Stack) : (setStack s n x).rom = s.rom := rfl
@[simp] theorem setStack_poison (s : State) (n : Fin 8) (x : Stack) : (setStack s n x).poison = s.poison := rfl
@[simp] theorem setStack_spmPoison (s : State) (n : Fin 8) (x : Stack) : (setStack s n x).spmPoison = s.spmPoison := rfl
@[simp] theorem setStack_dev (s : State) (n : Fin 8) (x : Stack) : (setStack s n x).dev = s.dev := rfl

/-! ## modStack -/

@[simp] theorem modStack_tick (s : State) (n : Fin 8) (f : Stack → Stack) : (modStack s n f).tick = s.tick := rfl
@[simp] theorem modStack_now (s : State) (n : Fin 8) (f : Stack → Stack) : (modStack s n f).now = s.now := rfl
@[simp] theorem modStack_serial (s : State) (n : Fin 8) (f : Stack → Stack) : (modStack s n f).serial = s.serial := rfl
@[simp] theorem modStack_agenda (s : State) (n : Fin 8) (f : Stack → Stack) : (modStack s n f).agenda = s.agenda := rfl
@[simp] theorem modStack_input (s : State) (n : Fin 8) (f : Stack → Stack) : (modStack s n f).input = s.input := rfl
@[simp] theorem modStack_frame (s : State) (n : Fin 8) (f : Stack → Stack) : (modStack s n f).frame = s.frame := rfl
@[simp] theorem modStack_who (s : State) (n : Fin 8) (f : Stack → Stack) : (modStack s n f).who = s.who := rfl
@[simp] theorem modStack_ctx (s : State) (n : Fin 8) (f : Stack → Stack) : (modStack s n f).ctx = s.ctx := rfl
@[simp] theorem modStack_parked (s : State) (n : Fin 8) (f : Stack → Stack) : (modStack s n f).parked = s.parked := rfl
@[simp] theorem modStack_cores (s : State) (n : Fin 8) (f : Stack → Stack) : (modStack s n f).cores = s.cores := rfl
@[simp] theorem modStack_clusters (s : State) (n : Fin 8) (f : Stack → Stack) : (modStack s n f).clusters = s.clusters := rfl
@[simp] theorem modStack_tasks (s : State) (n : Fin 8) (f : Stack → Stack) : (modStack s n f).tasks = s.tasks := rfl
@[simp] theorem modStack_chans (s : State) (n : Fin 8) (f : Stack → Stack) : (modStack s n f).chans = s.chans := rfl
@[simp] theorem modStack_images (s : State) (n : Fin 8) (f : Stack → Stack) : (modStack s n f).images = s.images := rfl
@[simp] theorem modStack_releases (s : State) (n : Fin 8) (f : Stack → Stack) : (modStack s n f).releases = s.releases := rfl
@[simp] theorem modStack_mem (s : State) (n : Fin 8) (f : Stack → Stack) : (modStack s n f).mem = s.mem := rfl
@[simp] theorem modStack_spm (s : State) (n : Fin 8) (f : Stack → Stack) : (modStack s n f).spm = s.spm := rfl
@[simp] theorem modStack_rom (s : State) (n : Fin 8) (f : Stack → Stack) : (modStack s n f).rom = s.rom := rfl
@[simp] theorem modStack_poison (s : State) (n : Fin 8) (f : Stack → Stack) : (modStack s n f).poison = s.poison := rfl
@[simp] theorem modStack_spmPoison (s : State) (n : Fin 8) (f : Stack → Stack) : (modStack s n f).spmPoison = s.spmPoison := rfl
@[simp] theorem modStack_dev (s : State) (n : Fin 8) (f : Stack → Stack) : (modStack s n f).dev = s.dev := rfl

/-! ## modTask -/

@[simp] theorem modTask_tick (s : State) (id : Nat) (f : Task → Task) : (modTask s id f).tick = s.tick := rfl
@[simp] theorem modTask_now (s : State) (id : Nat) (f : Task → Task) : (modTask s id f).now = s.now := rfl
@[simp] theorem modTask_serial (s : State) (id : Nat) (f : Task → Task) : (modTask s id f).serial = s.serial := rfl
@[simp] theorem modTask_agenda (s : State) (id : Nat) (f : Task → Task) : (modTask s id f).agenda = s.agenda := rfl
@[simp] theorem modTask_input (s : State) (id : Nat) (f : Task → Task) : (modTask s id f).input = s.input := rfl
@[simp] theorem modTask_frame (s : State) (id : Nat) (f : Task → Task) : (modTask s id f).frame = s.frame := rfl
@[simp] theorem modTask_who (s : State) (id : Nat) (f : Task → Task) : (modTask s id f).who = s.who := rfl
@[simp] theorem modTask_ctx (s : State) (id : Nat) (f : Task → Task) : (modTask s id f).ctx = s.ctx := rfl
@[simp] theorem modTask_parked (s : State) (id : Nat) (f : Task → Task) : (modTask s id f).parked = s.parked := rfl
@[simp] theorem modTask_cores (s : State) (id : Nat) (f : Task → Task) : (modTask s id f).cores = s.cores := rfl
@[simp] theorem modTask_clusters (s : State) (id : Nat) (f : Task → Task) : (modTask s id f).clusters = s.clusters := rfl
@[simp] theorem modTask_dies (s : State) (id : Nat) (f : Task → Task) : (modTask s id f).dies = s.dies := rfl
@[simp] theorem modTask_chans (s : State) (id : Nat) (f : Task → Task) : (modTask s id f).chans = s.chans := rfl
@[simp] theorem modTask_images (s : State) (id : Nat) (f : Task → Task) : (modTask s id f).images = s.images := rfl
@[simp] theorem modTask_releases (s : State) (id : Nat) (f : Task → Task) : (modTask s id f).releases = s.releases := rfl
@[simp] theorem modTask_mem (s : State) (id : Nat) (f : Task → Task) : (modTask s id f).mem = s.mem := rfl
@[simp] theorem modTask_spm (s : State) (id : Nat) (f : Task → Task) : (modTask s id f).spm = s.spm := rfl
@[simp] theorem modTask_rom (s : State) (id : Nat) (f : Task → Task) : (modTask s id f).rom = s.rom := rfl
@[simp] theorem modTask_poison (s : State) (id : Nat) (f : Task → Task) : (modTask s id f).poison = s.poison := rfl
@[simp] theorem modTask_spmPoison (s : State) (id : Nat) (f : Task → Task) : (modTask s id f).spmPoison = s.spmPoison := rfl
@[simp] theorem modTask_dev (s : State) (id : Nat) (f : Task → Task) : (modTask s id f).dev = s.dev := rfl

/-! ## bump -/

@[simp] theorem bump_tick (s : State) : (bump s).tick = s.tick := rfl
@[simp] theorem bump_now (s : State) : (bump s).now = s.now := rfl
@[simp] theorem bump_agenda (s : State) : (bump s).agenda = s.agenda := rfl
@[simp] theorem bump_input (s : State) : (bump s).input = s.input := rfl
@[simp] theorem bump_frame (s : State) : (bump s).frame = s.frame := rfl
@[simp] theorem bump_who (s : State) : (bump s).who = s.who := rfl
@[simp] theorem bump_ctx (s : State) : (bump s).ctx = s.ctx := rfl
@[simp] theorem bump_parked (s : State) : (bump s).parked = s.parked := rfl
@[simp] theorem bump_cores (s : State) : (bump s).cores = s.cores := rfl
@[simp] theorem bump_clusters (s : State) : (bump s).clusters = s.clusters := rfl
@[simp] theorem bump_dies (s : State) : (bump s).dies = s.dies := rfl
@[simp] theorem bump_tasks (s : State) : (bump s).tasks = s.tasks := rfl
@[simp] theorem bump_chans (s : State) : (bump s).chans = s.chans := rfl
@[simp] theorem bump_images (s : State) : (bump s).images = s.images := rfl
@[simp] theorem bump_releases (s : State) : (bump s).releases = s.releases := rfl
@[simp] theorem bump_mem (s : State) : (bump s).mem = s.mem := rfl
@[simp] theorem bump_spm (s : State) : (bump s).spm = s.spm := rfl
@[simp] theorem bump_rom (s : State) : (bump s).rom = s.rom := rfl
@[simp] theorem bump_poison (s : State) : (bump s).poison = s.poison := rfl
@[simp] theorem bump_spmPoison (s : State) : (bump s).spmPoison = s.spmPoison := rfl
@[simp] theorem bump_dev (s : State) : (bump s).dev = s.dev := rfl

/-! ## poke -/

@[simp] theorem poke_tick (s : State) (a n x : Nat) : (poke s a n x).tick = s.tick := rfl
@[simp] theorem poke_now (s : State) (a n x : Nat) : (poke s a n x).now = s.now := rfl
@[simp] theorem poke_serial (s : State) (a n x : Nat) : (poke s a n x).serial = s.serial := rfl
@[simp] theorem poke_agenda (s : State) (a n x : Nat) : (poke s a n x).agenda = s.agenda := rfl
@[simp] theorem poke_input (s : State) (a n x : Nat) : (poke s a n x).input = s.input := rfl
@[simp] theorem poke_frame (s : State) (a n x : Nat) : (poke s a n x).frame = s.frame := rfl
@[simp] theorem poke_who (s : State) (a n x : Nat) : (poke s a n x).who = s.who := rfl
@[simp] theorem poke_ctx (s : State) (a n x : Nat) : (poke s a n x).ctx = s.ctx := rfl
@[simp] theorem poke_parked (s : State) (a n x : Nat) : (poke s a n x).parked = s.parked := rfl
@[simp] theorem poke_cores (s : State) (a n x : Nat) : (poke s a n x).cores = s.cores := rfl
@[simp] theorem poke_clusters (s : State) (a n x : Nat) : (poke s a n x).clusters = s.clusters := rfl
@[simp] theorem poke_dies (s : State) (a n x : Nat) : (poke s a n x).dies = s.dies := rfl
@[simp] theorem poke_tasks (s : State) (a n x : Nat) : (poke s a n x).tasks = s.tasks := rfl
@[simp] theorem poke_chans (s : State) (a n x : Nat) : (poke s a n x).chans = s.chans := rfl
@[simp] theorem poke_images (s : State) (a n x : Nat) : (poke s a n x).images = s.images := rfl
@[simp] theorem poke_releases (s : State) (a n x : Nat) : (poke s a n x).releases = s.releases := rfl
@[simp] theorem poke_spm (s : State) (a n x : Nat) : (poke s a n x).spm = s.spm := rfl
@[simp] theorem poke_rom (s : State) (a n x : Nat) : (poke s a n x).rom = s.rom := rfl
@[simp] theorem poke_poison (s : State) (a n x : Nat) : (poke s a n x).poison = s.poison := rfl
@[simp] theorem poke_spmPoison (s : State) (a n x : Nat) : (poke s a n x).spmPoison = s.spmPoison := rfl
@[simp] theorem poke_dev (s : State) (a n x : Nat) : (poke s a n x).dev = s.dev := rfl

/-! ## postRecord -/

@[simp] theorem postRecord_tick (s : State) (g : Nat) (r : Record) : (postRecord s g r).tick = s.tick := rfl
@[simp] theorem postRecord_now (s : State) (g : Nat) (r : Record) : (postRecord s g r).now = s.now := rfl
@[simp] theorem postRecord_serial (s : State) (g : Nat) (r : Record) : (postRecord s g r).serial = s.serial := rfl
@[simp] theorem postRecord_agenda (s : State) (g : Nat) (r : Record) : (postRecord s g r).agenda = s.agenda := rfl
@[simp] theorem postRecord_input (s : State) (g : Nat) (r : Record) : (postRecord s g r).input = s.input := rfl
@[simp] theorem postRecord_frame (s : State) (g : Nat) (r : Record) : (postRecord s g r).frame = s.frame := rfl
@[simp] theorem postRecord_who (s : State) (g : Nat) (r : Record) : (postRecord s g r).who = s.who := rfl
@[simp] theorem postRecord_ctx (s : State) (g : Nat) (r : Record) : (postRecord s g r).ctx = s.ctx := rfl
@[simp] theorem postRecord_parked (s : State) (g : Nat) (r : Record) : (postRecord s g r).parked = s.parked := rfl
@[simp] theorem postRecord_cores (s : State) (g : Nat) (r : Record) : (postRecord s g r).cores = s.cores := rfl
@[simp] theorem postRecord_dies (s : State) (g : Nat) (r : Record) : (postRecord s g r).dies = s.dies := rfl
@[simp] theorem postRecord_tasks (s : State) (g : Nat) (r : Record) : (postRecord s g r).tasks = s.tasks := rfl
@[simp] theorem postRecord_chans (s : State) (g : Nat) (r : Record) : (postRecord s g r).chans = s.chans := rfl
@[simp] theorem postRecord_images (s : State) (g : Nat) (r : Record) : (postRecord s g r).images = s.images := rfl
@[simp] theorem postRecord_releases (s : State) (g : Nat) (r : Record) : (postRecord s g r).releases = s.releases := rfl
@[simp] theorem postRecord_mem (s : State) (g : Nat) (r : Record) : (postRecord s g r).mem = s.mem := rfl
@[simp] theorem postRecord_spm (s : State) (g : Nat) (r : Record) : (postRecord s g r).spm = s.spm := rfl
@[simp] theorem postRecord_rom (s : State) (g : Nat) (r : Record) : (postRecord s g r).rom = s.rom := rfl
@[simp] theorem postRecord_poison (s : State) (g : Nat) (r : Record) : (postRecord s g r).poison = s.poison := rfl
@[simp] theorem postRecord_spmPoison (s : State) (g : Nat) (r : Record) : (postRecord s g r).spmPoison = s.spmPoison := rfl
@[simp] theorem postRecord_dev (s : State) (g : Nat) (r : Record) : (postRecord s g r).dev = s.dev := rfl

@[simp] theorem modDev_dev (s : State) (f : Dev → Dev) : (modDev s f).dev = f s.dev := rfl
@[simp] theorem bump_serial (s : State) : (bump s).serial = s.serial + 1 := rfl
@[simp] theorem poke_mem (s : State) (a n x : Nat) : (poke s a n x).mem = s.mem.writeBytes a (bytesOf n x) := rfl

/-! ## Contexts -/

@[simp] theorem setCtx_tick (s : State) (c : CtxId) (x : Ctx) : (setCtx s c x).tick = s.tick := by unfold setCtx; split <;> rfl
@[simp] theorem setCtx_now (s : State) (c : CtxId) (x : Ctx) : (setCtx s c x).now = s.now := by unfold setCtx; split <;> rfl
@[simp] theorem setCtx_serial (s : State) (c : CtxId) (x : Ctx) : (setCtx s c x).serial = s.serial := by unfold setCtx; split <;> rfl
@[simp] theorem setCtx_agenda (s : State) (c : CtxId) (x : Ctx) : (setCtx s c x).agenda = s.agenda := by unfold setCtx; split <;> rfl
@[simp] theorem setCtx_input (s : State) (c : CtxId) (x : Ctx) : (setCtx s c x).input = s.input := by unfold setCtx; split <;> rfl
@[simp] theorem setCtx_frame (s : State) (c : CtxId) (x : Ctx) : (setCtx s c x).frame = s.frame := by unfold setCtx; split <;> rfl
@[simp] theorem setCtx_who (s : State) (c : CtxId) (x : Ctx) : (setCtx s c x).who = s.who := by unfold setCtx; split <;> rfl
@[simp] theorem setCtx_cores (s : State) (c : CtxId) (x : Ctx) : (setCtx s c x).cores = s.cores := by unfold setCtx; split <;> rfl
@[simp] theorem setCtx_clusters (s : State) (c : CtxId) (x : Ctx) : (setCtx s c x).clusters = s.clusters := by unfold setCtx; split <;> rfl
@[simp] theorem setCtx_dies (s : State) (c : CtxId) (x : Ctx) : (setCtx s c x).dies = s.dies := by unfold setCtx; split <;> rfl
@[simp] theorem setCtx_tasks (s : State) (c : CtxId) (x : Ctx) : (setCtx s c x).tasks = s.tasks := by unfold setCtx; split <;> rfl
@[simp] theorem setCtx_chans (s : State) (c : CtxId) (x : Ctx) : (setCtx s c x).chans = s.chans := by unfold setCtx; split <;> rfl
@[simp] theorem setCtx_images (s : State) (c : CtxId) (x : Ctx) : (setCtx s c x).images = s.images := by unfold setCtx; split <;> rfl
@[simp] theorem setCtx_releases (s : State) (c : CtxId) (x : Ctx) : (setCtx s c x).releases = s.releases := by unfold setCtx; split <;> rfl
@[simp] theorem setCtx_mem (s : State) (c : CtxId) (x : Ctx) : (setCtx s c x).mem = s.mem := by unfold setCtx; split <;> rfl
@[simp] theorem setCtx_spm (s : State) (c : CtxId) (x : Ctx) : (setCtx s c x).spm = s.spm := by unfold setCtx; split <;> rfl
@[simp] theorem setCtx_rom (s : State) (c : CtxId) (x : Ctx) : (setCtx s c x).rom = s.rom := by unfold setCtx; split <;> rfl
@[simp] theorem setCtx_poison (s : State) (c : CtxId) (x : Ctx) : (setCtx s c x).poison = s.poison := by unfold setCtx; split <;> rfl
@[simp] theorem setCtx_spmPoison (s : State) (c : CtxId) (x : Ctx) : (setCtx s c x).spmPoison = s.spmPoison := by unfold setCtx; split <;> rfl
@[simp] theorem setCtx_dev (s : State) (c : CtxId) (x : Ctx) : (setCtx s c x).dev = s.dev := by unfold setCtx; split <;> rfl

@[simp] theorem modCtx_tick (s : State) (c : CtxId) (f : Ctx → Ctx) : (modCtx s c f).tick = s.tick := setCtx_tick _ _ _
@[simp] theorem modCtx_now (s : State) (c : CtxId) (f : Ctx → Ctx) : (modCtx s c f).now = s.now := setCtx_now _ _ _
@[simp] theorem modCtx_serial (s : State) (c : CtxId) (f : Ctx → Ctx) : (modCtx s c f).serial = s.serial := setCtx_serial _ _ _
@[simp] theorem modCtx_agenda (s : State) (c : CtxId) (f : Ctx → Ctx) : (modCtx s c f).agenda = s.agenda := setCtx_agenda _ _ _
@[simp] theorem modCtx_input (s : State) (c : CtxId) (f : Ctx → Ctx) : (modCtx s c f).input = s.input := setCtx_input _ _ _
@[simp] theorem modCtx_frame (s : State) (c : CtxId) (f : Ctx → Ctx) : (modCtx s c f).frame = s.frame := setCtx_frame _ _ _
@[simp] theorem modCtx_who (s : State) (c : CtxId) (f : Ctx → Ctx) : (modCtx s c f).who = s.who := setCtx_who _ _ _
@[simp] theorem modCtx_cores (s : State) (c : CtxId) (f : Ctx → Ctx) : (modCtx s c f).cores = s.cores := setCtx_cores _ _ _
@[simp] theorem modCtx_clusters (s : State) (c : CtxId) (f : Ctx → Ctx) : (modCtx s c f).clusters = s.clusters := setCtx_clusters _ _ _
@[simp] theorem modCtx_dies (s : State) (c : CtxId) (f : Ctx → Ctx) : (modCtx s c f).dies = s.dies := setCtx_dies _ _ _
@[simp] theorem modCtx_tasks (s : State) (c : CtxId) (f : Ctx → Ctx) : (modCtx s c f).tasks = s.tasks := setCtx_tasks _ _ _
@[simp] theorem modCtx_chans (s : State) (c : CtxId) (f : Ctx → Ctx) : (modCtx s c f).chans = s.chans := setCtx_chans _ _ _
@[simp] theorem modCtx_images (s : State) (c : CtxId) (f : Ctx → Ctx) : (modCtx s c f).images = s.images := setCtx_images _ _ _
@[simp] theorem modCtx_releases (s : State) (c : CtxId) (f : Ctx → Ctx) : (modCtx s c f).releases = s.releases := setCtx_releases _ _ _
@[simp] theorem modCtx_mem (s : State) (c : CtxId) (f : Ctx → Ctx) : (modCtx s c f).mem = s.mem := setCtx_mem _ _ _
@[simp] theorem modCtx_spm (s : State) (c : CtxId) (f : Ctx → Ctx) : (modCtx s c f).spm = s.spm := setCtx_spm _ _ _
@[simp] theorem modCtx_rom (s : State) (c : CtxId) (f : Ctx → Ctx) : (modCtx s c f).rom = s.rom := setCtx_rom _ _ _
@[simp] theorem modCtx_poison (s : State) (c : CtxId) (f : Ctx → Ctx) : (modCtx s c f).poison = s.poison := setCtx_poison _ _ _
@[simp] theorem modCtx_spmPoison (s : State) (c : CtxId) (f : Ctx → Ctx) : (modCtx s c f).spmPoison = s.spmPoison := setCtx_spmPoison _ _ _
@[simp] theorem modCtx_dev (s : State) (c : CtxId) (f : Ctx → Ctx) : (modCtx s c f).dev = s.dev := setCtx_dev _ _ _

@[simp] theorem findCtx_putCtx_self (l : List (CtxId × Ctx)) (c : CtxId) (x : Ctx) : findCtx (putCtx l c x) c = x := by
  induction l with
  | nil => simp [putCtx, findCtx]
  | cons e l ih =>
    obtain ⟨k, y⟩ := e
    unfold putCtx
    split <;> rename_i h <;> simp [findCtx, h, ih]

theorem findCtx_putCtx_other (l : List (CtxId × Ctx)) {c d : CtxId} (x : Ctx) (h : d ≠ c) : findCtx (putCtx l c x) d = findCtx l d := by
  induction l with
  | nil => simp [putCtx, findCtx, Ne.symm h]
  | cons e l ih =>
    obtain ⟨k, y⟩ := e
    unfold putCtx
    split <;> rename_i g
    · subst g; simp [findCtx, Ne.symm h]
    · simp [findCtx, ih]

@[simp] theorem getCtx_setCtx_self (s : State) (c : CtxId) (x : Ctx) : getCtx (setCtx s c x) c = x := by
  unfold setCtx getCtx
  split <;> simp_all

theorem getCtx_setCtx_other (s : State) {c d : CtxId} (x : Ctx) (h : d ≠ c) : getCtx (setCtx s c x) d = getCtx s d := by
  unfold setCtx getCtx
  split <;> rename_i g
  · simp [g ▸ h]
  · simp [findCtx_putCtx_other _ _ h]

@[simp] theorem getCtx_modCtx_self (s : State) (c : CtxId) (f : Ctx → Ctx) : getCtx (modCtx s c f) c = f (getCtx s c) :=
  getCtx_setCtx_self _ _ _

theorem getCtx_modCtx_other (s : State) {c d : CtxId} (f : Ctx → Ctx) (h : d ≠ c) : getCtx (modCtx s c f) d = getCtx s d :=
  getCtx_setCtx_other _ _ h

/-- The context on the port is itself. -/
@[simp] theorem getCtx_who (s : State) : getCtx s s.who = s.ctx := by simp [getCtx]

@[simp] theorem setCtx_who_ctx (s : State) (x : Ctx) : (setCtx s s.who x).ctx = x := by simp [setCtx]

theorem setCtx_other_ctx (s : State) {c : CtxId} (x : Ctx) (h : c ≠ s.who) : (setCtx s c x).ctx = s.ctx := by simp [setCtx, h]

/-! ## Cores, clusters, stacks, tasks -/

@[simp] theorem coreOf_setCore_self (s : State) (k : Nat) (x : Core) : coreOf (setCore s k x) k = x := by simp [coreOf, setCore]

theorem coreOf_setCore_other (s : State) {k j : Nat} (x : Core) (h : j ≠ k) : coreOf (setCore s k x) j = coreOf s j := by
  simp [coreOf, setCore, tbl_get_set_other _ _ h]

@[simp] theorem coreOf_modCore_self (s : State) (k : Nat) (f : Core → Core) : coreOf (modCore s k f) k = f (coreOf s k) :=
  coreOf_setCore_self _ _ _

theorem coreOf_modCore_other (s : State) {k j : Nat} (f : Core → Core) (h : j ≠ k) : coreOf (modCore s k f) j = coreOf s j :=
  coreOf_setCore_other _ _ h

@[simp] theorem clusterOf_setCluster_self (s : State) (g : Nat) (x : Cluster) : clusterOf (setCluster s g x) g = x := by
  simp [clusterOf, setCluster]

theorem clusterOf_setCluster_other (s : State) {g j : Nat} (x : Cluster) (h : j ≠ g) : clusterOf (setCluster s g x) j = clusterOf s j := by
  simp [clusterOf, setCluster, tbl_get_set_other _ _ h]

@[simp] theorem clusterOf_modCluster_self (s : State) (g : Nat) (f : Cluster → Cluster) : clusterOf (modCluster s g f) g = f (clusterOf s g) :=
  clusterOf_setCluster_self _ _ _

theorem clusterOf_modCluster_other (s : State) {g j : Nat} (f : Cluster → Cluster) (h : j ≠ g) : clusterOf (modCluster s g f) j = clusterOf s j :=
  clusterOf_setCluster_other _ _ h

@[simp] theorem stackOf_modStack_self (s : State) (n : Fin 8) (f : Stack → Stack) : stackOf (modStack s n f) n = f (stackOf s n) := by
  simp [stackOf, modStack, setStack]

theorem stackOf_modStack_other (s : State) {n m : Fin 8} (f : Stack → Stack) (h : m ≠ n) : stackOf (modStack s n f) m = stackOf s m := by
  have : n.val ≠ m.val := fun e => h (Fin.ext e.symm)
  simp [stackOf, modStack, setStack, Vector.getElem_set_ne, this]

/-- A task that keeps its number under f. -/
theorem taskOf_modTask_self {s : State} {id : Nat} {t : Task} {f : Task → Task} (h : taskOf s id = some t) (k : ∀ u, (f u).id = u.id) :
    taskOf (modTask s id f) id = some (f t) := by
  unfold taskOf modTask at *
  rw [List.find?_map]
  have : ((fun t : Task => decide (t.id = id)) ∘ fun t => if t.id = id then f t else t) = fun t => decide (t.id = id) := by
    funext u; by_cases e : u.id = id <;> simp [e, k]
  rw [this, h]
  have := List.find?_some h
  simp_all

theorem taskOf_modTask_other {s : State} {id j : Nat} {f : Task → Task} (h : j ≠ id) (k : ∀ u, (f u).id = u.id) :
    taskOf (modTask s id f) j = taskOf s j := by
  unfold taskOf modTask
  rw [List.find?_map]
  have : ((fun t : Task => decide (t.id = j)) ∘ fun t => if t.id = id then f t else t) = fun t => decide (t.id = j) := by
    funext u; by_cases e : u.id = id <;> simp [e, k]
  rw [this]
  cases e : s.tasks.find? (fun t => decide (t.id = j)) with
  | none => rfl
  | some t =>
    have := List.find?_some e
    simp at this
    simp [this, h]

end Sys2Proof.Machine
end

