-- ==== Sys2Proof/Laws/Ops.lean ====
section
/-! SUPPORT. What the shared operations of a slot can do: the guard of its registers, landing a result, stalling, trapping and
returning, counting events, and storing into the scratchpads. -/

namespace Sys2Proof.Machine

/-! ## The guard -/

/-- An operation whose registers are ready goes on. -/
theorem guardRegs_ready {rs ws : List RegName} {s : State} (h : Ready rs ws s) (k : State → Res) : guardRegs rs ws s k = k s := by
  obtain ⟨hz, il, bad⟩ := h
  have n : (if hazardMode s then (rs ++ ws).find? (fun r => !r.wired && exposed s r) else none) = none := by
    split
    · rename_i g
      exact List.find?_eq_none.2 fun r m => by cases w : r.wired <;> simp [hz g r m, w]
    · rfl
  have a : ((rs ++ ws).any fun r => !r.wired && interlocked s r) = false :=
    List.any_eq_false.2 fun r m => by cases w : r.wired <;> simp [il r m, w]
  have b : (rs.find? fun r => s.ctx.badRegs.contains r) = none := List.find?_eq_none.2 fun r m => by simpa using bad r m
  unfold guardRegs guardBounds
  rw [n, a]
  dsimp only
  rw [b]
  rfl

/-- What the guard can do: go on, stall before issue, or trap at the position of its check. -/
theorem guardRegs_cases (rs ws : List RegName) (s : State) (k : State → Res) :
    guardRegs rs ws s k = k s ∨ guardRegs rs ws s k = stall s ∨ (∃ r ∈ rs ++ ws, guardRegs rs ws s k = trapAt 11 0x14 (regTval r) s) ∨
      ∃ r ∈ rs, guardRegs rs ws s k = trapAt 12 0x0D (regTval r) s := by
  unfold guardRegs guardBounds
  split
  · rename_i r e
    split at e
    · exact .inr (.inr (.inl ⟨r, List.mem_of_find?_eq_some e, rfl⟩))
    · cases e
  · split
    · exact .inr (.inl rfl)
    · dsimp only
      split
      · rename_i r e; exact .inr (.inr (.inr ⟨r, List.mem_of_find?_eq_some e, rfl⟩))
      · exact .inl rfl

/-! ## Landing a result -/

theorem landWith_wired {r : RegName} (h : r.wired = true) (v : RegVal) (L : Nat) (d : Bool) (i : Nat) (s : State) : landWith r v L d i s = s := by
  simp [landWith, h]

theorem land_wired {r : RegName} (h : r.wired = true) (v : RegVal) (L : Nat) (s : State) : land r v L s = s := landWith_wired h v L true 0 s

@[simp] theorem landWith_tick (r : RegName) (v : RegVal) (L : Nat) (d : Bool) (i : Nat) (s : State) : (landWith r v L d i s).tick = s.tick := by unfold landWith; split <;> rfl
@[simp] theorem landWith_now (r : RegName) (v : RegVal) (L : Nat) (d : Bool) (i : Nat) (s : State) : (landWith r v L d i s).now = s.now := by unfold landWith; split <;> rfl
@[simp] theorem landWith_serial (r : RegName) (v : RegVal) (L : Nat) (d : Bool) (i : Nat) (s : State) : (landWith r v L d i s).serial = s.serial := by unfold landWith; split <;> rfl
@[simp] theorem landWith_agenda (r : RegName) (v : RegVal) (L : Nat) (d : Bool) (i : Nat) (s : State) : (landWith r v L d i s).agenda = s.agenda := by unfold landWith; split <;> rfl
@[simp] theorem landWith_input (r : RegName) (v : RegVal) (L : Nat) (d : Bool) (i : Nat) (s : State) : (landWith r v L d i s).input = s.input := by unfold landWith; split <;> rfl
@[simp] theorem landWith_who (r : RegName) (v : RegVal) (L : Nat) (d : Bool) (i : Nat) (s : State) : (landWith r v L d i s).who = s.who := by unfold landWith; split <;> rfl
@[simp] theorem landWith_parked (r : RegName) (v : RegVal) (L : Nat) (d : Bool) (i : Nat) (s : State) : (landWith r v L d i s).parked = s.parked := by unfold landWith; split <;> rfl
@[simp] theorem landWith_cores (r : RegName) (v : RegVal) (L : Nat) (d : Bool) (i : Nat) (s : State) : (landWith r v L d i s).cores = s.cores := by unfold landWith; split <;> rfl
@[simp] theorem landWith_clusters (r : RegName) (v : RegVal) (L : Nat) (d : Bool) (i : Nat) (s : State) : (landWith r v L d i s).clusters = s.clusters := by unfold landWith; split <;> rfl
@[simp] theorem landWith_dies (r : RegName) (v : RegVal) (L : Nat) (d : Bool) (i : Nat) (s : State) : (landWith r v L d i s).dies = s.dies := by unfold landWith; split <;> rfl
@[simp] theorem landWith_tasks (r : RegName) (v : RegVal) (L : Nat) (d : Bool) (i : Nat) (s : State) : (landWith r v L d i s).tasks = s.tasks := by unfold landWith; split <;> rfl
@[simp] theorem landWith_chans (r : RegName) (v : RegVal) (L : Nat) (d : Bool) (i : Nat) (s : State) : (landWith r v L d i s).chans = s.chans := by unfold landWith; split <;> rfl
@[simp] theorem landWith_images (r : RegName) (v : RegVal) (L : Nat) (d : Bool) (i : Nat) (s : State) : (landWith r v L d i s).images = s.images := by unfold landWith; split <;> rfl
@[simp] theorem landWith_releases (r : RegName) (v : RegVal) (L : Nat) (d : Bool) (i : Nat) (s : State) : (landWith r v L d i s).releases = s.releases := by unfold landWith; split <;> rfl
@[simp] theorem landWith_mem (r : RegName) (v : RegVal) (L : Nat) (d : Bool) (i : Nat) (s : State) : (landWith r v L d i s).mem = s.mem := by unfold landWith; split <;> rfl
@[simp] theorem landWith_spm (r : RegName) (v : RegVal) (L : Nat) (d : Bool) (i : Nat) (s : State) : (landWith r v L d i s).spm = s.spm := by unfold landWith; split <;> rfl
@[simp] theorem landWith_rom (r : RegName) (v : RegVal) (L : Nat) (d : Bool) (i : Nat) (s : State) : (landWith r v L d i s).rom = s.rom := by unfold landWith; split <;> rfl
@[simp] theorem landWith_poison (r : RegName) (v : RegVal) (L : Nat) (d : Bool) (i : Nat) (s : State) : (landWith r v L d i s).poison = s.poison := by unfold landWith; split <;> rfl
@[simp] theorem landWith_spmPoison (r : RegName) (v : RegVal) (L : Nat) (d : Bool) (i : Nat) (s : State) : (landWith r v L d i s).spmPoison = s.spmPoison := by unfold landWith; split <;> rfl
@[simp] theorem landWith_dev (r : RegName) (v : RegVal) (L : Nat) (d : Bool) (i : Nat) (s : State) : (landWith r v L d i s).dev = s.dev := by unfold landWith; split <;> rfl

@[simp] theorem landWith_ctx_run (r : RegName) (v : RegVal) (L : Nat) (d : Bool) (i : Nat) (s : State) : (landWith r v L d i s).ctx.run = s.ctx.run := by unfold landWith; split <;> rfl
@[simp] theorem landWith_ctx_pc (r : RegName) (v : RegVal) (L : Nat) (d : Bool) (i : Nat) (s : State) : (landWith r v L d i s).ctx.pc = s.ctx.pc := by unfold landWith; split <;> rfl
@[simp] theorem landWith_ctx_s (r : RegName) (v : RegVal) (L : Nat) (d : Bool) (i : Nat) (s : State) : (landWith r v L d i s).ctx.s = s.ctx.s := by unfold landWith; split <;> rfl
@[simp] theorem landWith_ctx_a (r : RegName) (v : RegVal) (L : Nat) (d : Bool) (i : Nat) (s : State) : (landWith r v L d i s).ctx.a = s.ctx.a := by unfold landWith; split <;> rfl
@[simp] theorem landWith_ctx_p (r : RegName) (v : RegVal) (L : Nat) (d : Bool) (i : Nat) (s : State) : (landWith r v L d i s).ctx.p = s.ctx.p := by unfold landWith; split <;> rfl
@[simp] theorem landWith_ctx_b (r : RegName) (v : RegVal) (L : Nat) (d : Bool) (i : Nat) (s : State) : (landWith r v L d i s).ctx.b = s.ctx.b := by unfold landWith; split <;> rfl
@[simp] theorem landWith_ctx_v (r : RegName) (v : RegVal) (L : Nat) (d : Bool) (i : Nat) (s : State) : (landWith r v L d i s).ctx.v = s.ctx.v := by unfold landWith; split <;> rfl
@[simp] theorem landWith_ctx_m (r : RegName) (v : RegVal) (L : Nat) (d : Bool) (i : Nat) (s : State) : (landWith r v L d i s).ctx.m = s.ctx.m := by unfold landWith; split <;> rfl
@[simp] theorem landWith_ctx_w (r : RegName) (v : RegVal) (L : Nat) (d : Bool) (i : Nat) (s : State) : (landWith r v L d i s).ctx.w = s.ctx.w := by unfold landWith; split <;> rfl
@[simp] theorem landWith_ctx_fmtOld (r : RegName) (v : RegVal) (L : Nat) (d : Bool) (i : Nat) (s : State) : (landWith r v L d i s).ctx.fmtOld = s.ctx.fmtOld := by unfold landWith; split <;> rfl
@[simp] theorem landWith_ctx_fmtNew (r : RegName) (v : RegVal) (L : Nat) (d : Bool) (i : Nat) (s : State) : (landWith r v L d i s).ctx.fmtNew = s.ctx.fmtNew := by unfold landWith; split <;> rfl
@[simp] theorem landWith_ctx_seeds (r : RegName) (v : RegVal) (L : Nat) (d : Bool) (i : Nat) (s : State) : (landWith r v L d i s).ctx.seeds = s.ctx.seeds := by unfold landWith; split <;> rfl
@[simp] theorem landWith_ctx_depth (r : RegName) (v : RegVal) (L : Nat) (d : Bool) (i : Nat) (s : State) : (landWith r v L d i s).ctx.depth = s.ctx.depth := by unfold landWith; split <;> rfl
@[simp] theorem landWith_ctx_wctr (r : RegName) (v : RegVal) (L : Nat) (d : Bool) (i : Nat) (s : State) : (landWith r v L d i s).ctx.wctr = s.ctx.wctr := by unfold landWith; split <;> rfl
@[simp] theorem landWith_ctx_wSpoilt (r : RegName) (v : RegVal) (L : Nat) (d : Bool) (i : Nat) (s : State) : (landWith r v L d i s).ctx.wSpoilt = s.ctx.wSpoilt := by unfold landWith; split <;> rfl
@[simp] theorem landWith_ctx_badRegs (r : RegName) (v : RegVal) (L : Nat) (d : Bool) (i : Nat) (s : State) : (landWith r v L d i s).ctx.badRegs = s.ctx.badRegs := by unfold landWith; split <;> rfl
@[simp] theorem landWith_ctx_k (r : RegName) (v : RegVal) (L : Nat) (d : Bool) (i : Nat) (s : State) : (landWith r v L d i s).ctx.k = s.ctx.k := by unfold landWith; split <;> rfl
@[simp] theorem landWith_ctx_loops (r : RegName) (v : RegVal) (L : Nat) (d : Bool) (i : Nat) (s : State) : (landWith r v L d i s).ctx.loops = s.ctx.loops := by unfold landWith; split <;> rfl
@[simp] theorem landWith_ctx_sc (r : RegName) (v : RegVal) (L : Nat) (d : Bool) (i : Nat) (s : State) : (landWith r v L d i s).ctx.sc = s.ctx.sc := by unfold landWith; split <;> rfl
@[simp] theorem landWith_ctx_chans (r : RegName) (v : RegVal) (L : Nat) (d : Bool) (i : Nat) (s : State) : (landWith r v L d i s).ctx.chans = s.ctx.chans := by unfold landWith; split <;> rfl
@[simp] theorem landWith_ctx_closed (r : RegName) (v : RegVal) (L : Nat) (d : Bool) (i : Nat) (s : State) : (landWith r v L d i s).ctx.closed = s.ctx.closed := by unfold landWith; split <;> rfl
@[simp] theorem landWith_ctx_regions (r : RegName) (v : RegVal) (L : Nat) (d : Bool) (i : Nat) (s : State) : (landWith r v L d i s).ctx.regions = s.ctx.regions := by unfold landWith; split <;> rfl
@[simp] theorem landWith_ctx_ident (r : RegName) (v : RegVal) (L : Nat) (d : Bool) (i : Nat) (s : State) : (landWith r v L d i s).ctx.ident = s.ctx.ident := by unfold landWith; split <;> rfl
@[simp] theorem landWith_ctx_tbase (r : RegName) (v : RegVal) (L : Nat) (d : Bool) (i : Nat) (s : State) : (landWith r v L d i s).ctx.tbase = s.ctx.tbase := by unfold landWith; split <;> rfl
@[simp] theorem landWith_ctx_tcount (r : RegName) (v : RegVal) (L : Nat) (d : Bool) (i : Nat) (s : State) : (landWith r v L d i s).ctx.tcount = s.ctx.tcount := by unfold landWith; split <;> rfl
@[simp] theorem landWith_ctx_soff (r : RegName) (v : RegVal) (L : Nat) (d : Bool) (i : Nat) (s : State) : (landWith r v L d i s).ctx.soff = s.ctx.soff := by unfold landWith; split <;> rfl
@[simp] theorem landWith_ctx_scr (r : RegName) (v : RegVal) (L : Nat) (d : Bool) (i : Nat) (s : State) : (landWith r v L d i s).ctx.scr = s.ctx.scr := by unfold landWith; split <;> rfl
@[simp] theorem landWith_ctx_task (r : RegName) (v : RegVal) (L : Nat) (d : Bool) (i : Nat) (s : State) : (landWith r v L d i s).ctx.task = s.ctx.task := by unfold landWith; split <;> rfl
@[simp] theorem landWith_ctx_slotNo (r : RegName) (v : RegVal) (L : Nat) (d : Bool) (i : Nat) (s : State) : (landWith r v L d i s).ctx.slotNo = s.ctx.slotNo := by unfold landWith; split <;> rfl
@[simp] theorem landWith_ctx_saveAt (r : RegName) (v : RegVal) (L : Nat) (d : Bool) (i : Nat) (s : State) : (landWith r v L d i s).ctx.saveAt = s.ctx.saveAt := by unfold landWith; split <;> rfl
@[simp] theorem landWith_ctx_recAt (r : RegName) (v : RegVal) (L : Nat) (d : Bool) (i : Nat) (s : State) : (landWith r v L d i s).ctx.recAt = s.ctx.recAt := by unfold landWith; split <;> rfl
@[simp] theorem landWith_ctx_status (r : RegName) (v : RegVal) (L : Nat) (d : Bool) (i : Nat) (s : State) : (landWith r v L d i s).ctx.status = s.ctx.status := by unfold landWith; split <;> rfl
@[simp] theorem landWith_ctx_cause (r : RegName) (v : RegVal) (L : Nat) (d : Bool) (i : Nat) (s : State) : (landWith r v L d i s).ctx.cause = s.ctx.cause := by unfold landWith; split <;> rfl
@[simp] theorem landWith_ctx_epc (r : RegName) (v : RegVal) (L : Nat) (d : Bool) (i : Nat) (s : State) : (landWith r v L d i s).ctx.epc = s.ctx.epc := by unfold landWith; split <;> rfl
@[simp] theorem landWith_ctx_tval (r : RegName) (v : RegVal) (L : Nat) (d : Bool) (i : Nat) (s : State) : (landWith r v L d i s).ctx.tval = s.ctx.tval := by unfold landWith; split <;> rfl
@[simp] theorem landWith_ctx_vbase (r : RegName) (v : RegVal) (L : Nat) (d : Bool) (i : Nat) (s : State) : (landWith r v L d i s).ctx.vbase = s.ctx.vbase := by unfold landWith; split <;> rfl
@[simp] theorem landWith_ctx_ptbase (r : RegName) (v : RegVal) (L : Nat) (d : Bool) (i : Nat) (s : State) : (landWith r v L d i s).ctx.ptbase = s.ctx.ptbase := by unfold landWith; split <;> rfl
@[simp] theorem landWith_ctx_asid (r : RegName) (v : RegVal) (L : Nat) (d : Bool) (i : Nat) (s : State) : (landWith r v L d i s).ctx.asid = s.ctx.asid := by unfold landWith; split <;> rfl
@[simp] theorem landWith_ctx_late (r : RegName) (v : RegVal) (L : Nat) (d : Bool) (i : Nat) (s : State) : (landWith r v L d i s).ctx.late = s.ctx.late := by unfold landWith; split <;> rfl
@[simp] theorem landWith_ctx_bara (r : RegName) (v : RegVal) (L : Nat) (d : Bool) (i : Nat) (s : State) : (landWith r v L d i s).ctx.bara = s.ctx.bara := by unfold landWith; split <;> rfl
@[simp] theorem landWith_ctx_arriving (r : RegName) (v : RegVal) (L : Nat) (d : Bool) (i : Nat) (s : State) : (landWith r v L d i s).ctx.arriving = s.ctx.arriving := by unfold landWith; split <;> rfl
@[simp] theorem landWith_ctx_preemptAt (r : RegName) (v : RegVal) (L : Nat) (d : Bool) (i : Nat) (s : State) : (landWith r v L d i s).ctx.preemptAt = s.ctx.preemptAt := by unfold landWith; split <;> rfl
@[simp] theorem landWith_ctx_resume (r : RegName) (v : RegVal) (L : Nat) (d : Bool) (i : Nat) (s : State) : (landWith r v L d i s).ctx.resume = s.ctx.resume := by unfold landWith; split <;> rfl
@[simp] theorem landWith_ctx_fillFrom (r : RegName) (v : RegVal) (L : Nat) (d : Bool) (i : Nat) (s : State) : (landWith r v L d i s).ctx.fillFrom = s.ctx.fillFrom := by unfold landWith; split <;> rfl
@[simp] theorem landWith_ctx_cameFrom (r : RegName) (v : RegVal) (L : Nat) (d : Bool) (i : Nat) (s : State) : (landWith r v L d i s).ctx.cameFrom = s.ctx.cameFrom := by unfold landWith; split <;> rfl
@[simp] theorem landWith_ctx_asked (r : RegName) (v : RegVal) (L : Nat) (d : Bool) (i : Nat) (s : State) : (landWith r v L d i s).ctx.asked = s.ctx.asked := by unfold landWith; split <;> rfl
@[simp] theorem landWith_ctx_sendWait (r : RegName) (v : RegVal) (L : Nat) (d : Bool) (i : Nat) (s : State) : (landWith r v L d i s).ctx.sendWait = s.ctx.sendWait := by unfold landWith; split <;> rfl
@[simp] theorem landWith_ctx_ibuf (r : RegName) (v : RegVal) (L : Nat) (d : Bool) (i : Nat) (s : State) : (landWith r v L d i s).ctx.ibuf = s.ctx.ibuf := by unfold landWith; split <;> rfl
@[simp] theorem landWith_ctx_clock (r : RegName) (v : RegVal) (L : Nat) (d : Bool) (i : Nat) (s : State) : (landWith r v L d i s).ctx.clock = s.ctx.clock := by unfold landWith; split <;> rfl
@[simp] theorem landWith_ctx_relClock (r : RegName) (v : RegVal) (L : Nat) (d : Bool) (i : Nat) (s : State) : (landWith r v L d i s).ctx.relClock = s.ctx.relClock := by unfold landWith; split <;> rfl
@[simp] theorem landWith_ctx_readClock (r : RegName) (v : RegVal) (L : Nat) (d : Bool) (i : Nat) (s : State) : (landWith r v L d i s).ctx.readClock = s.ctx.readClock := by unfold landWith; split <;> rfl
@[simp] theorem landWith_ctx_windows (r : RegName) (v : RegVal) (L : Nat) (d : Bool) (i : Nat) (s : State) : (landWith r v L d i s).ctx.windows = s.ctx.windows := by unfold landWith; split <;> rfl
@[simp] theorem landWith_ctx_started (r : RegName) (v : RegVal) (L : Nat) (d : Bool) (i : Nat) (s : State) : (landWith r v L d i s).ctx.started = s.ctx.started := by unfold landWith; split <;> rfl

@[simp] theorem landWith_frame_base (r : RegName) (v : RegVal) (L : Nat) (d : Bool) (i : Nat) (s : State) : (landWith r v L d i s).frame.base = s.frame.base := by unfold landWith; split <;> rfl
@[simp] theorem landWith_frame_len (r : RegName) (v : RegVal) (L : Nat) (d : Bool) (i : Nat) (s : State) : (landWith r v L d i s).frame.len = s.frame.len := by unfold landWith; split <;> rfl
@[simp] theorem landWith_frame_next (r : RegName) (v : RegVal) (L : Nat) (d : Bool) (i : Nat) (s : State) : (landWith r v L d i s).frame.next = s.frame.next := by unfold landWith; split <;> rfl
@[simp] theorem landWith_frame_left (r : RegName) (v : RegVal) (L : Nat) (d : Bool) (i : Nat) (s : State) : (landWith r v L d i s).frame.left = s.frame.left := by unfold landWith; split <;> rfl
@[simp] theorem landWith_frame_transfer (r : RegName) (v : RegVal) (L : Nat) (d : Bool) (i : Nat) (s : State) : (landWith r v L d i s).frame.transfer = s.frame.transfer := by unfold landWith; split <;> rfl
@[simp] theorem landWith_frame_flow (r : RegName) (v : RegVal) (L : Nat) (d : Bool) (i : Nat) (s : State) : (landWith r v L d i s).frame.flow = s.frame.flow := by unfold landWith; split <;> rfl
@[simp] theorem landWith_frame_cleared (r : RegName) (v : RegVal) (L : Nat) (d : Bool) (i : Nat) (s : State) : (landWith r v L d i s).frame.cleared = s.frame.cleared := by unfold landWith; split <;> rfl
@[simp] theorem landWith_frame_gap (r : RegName) (v : RegVal) (L : Nat) (d : Bool) (i : Nat) (s : State) : (landWith r v L d i s).frame.gap = s.frame.gap := by unfold landWith; split <;> rfl
@[simp] theorem landWith_frame_slot (r : RegName) (v : RegVal) (L : Nat) (d : Bool) (i : Nat) (s : State) : (landWith r v L d i s).frame.slot = s.frame.slot := by unfold landWith; split <;> rfl
@[simp] theorem landWith_frame_parcel (r : RegName) (v : RegVal) (L : Nat) (d : Bool) (i : Nat) (s : State) : (landWith r v L d i s).frame.parcel = s.frame.parcel := by unfold landWith; split <;> rfl
@[simp] theorem landWith_frame_out (r : RegName) (v : RegVal) (L : Nat) (d : Bool) (i : Nat) (s : State) : (landWith r v L d i s).frame.out = s.frame.out := by unfold landWith; split <;> rfl
@[simp] theorem landWith_frame_yields (r : RegName) (v : RegVal) (L : Nat) (d : Bool) (i : Nat) (s : State) : (landWith r v L d i s).frame.yields = s.frame.yields := by unfold landWith; split <;> rfl
@[simp] theorem landWith_frame_hit (r : RegName) (v : RegVal) (L : Nat) (d : Bool) (i : Nat) (s : State) : (landWith r v L d i s).frame.hit = s.frame.hit := by unfold landWith; split <;> rfl

@[simp] theorem land_tick (r : RegName) (v : RegVal) (L : Nat) (s : State) : (land r v L s).tick = s.tick := landWith_tick ..
@[simp] theorem land_now (r : RegName) (v : RegVal) (L : Nat) (s : State) : (land r v L s).now = s.now := landWith_now ..
@[simp] theorem land_serial (r : RegName) (v : RegVal) (L : Nat) (s : State) : (land r v L s).serial = s.serial := landWith_serial ..
@[simp] theorem land_agenda (r : RegName) (v : RegVal) (L : Nat) (s : State) : (land r v L s).agenda = s.agenda := landWith_agenda ..
@[simp] theorem land_input (r : RegName) (v : RegVal) (L : Nat) (s : State) : (land r v L s).input = s.input := landWith_input ..
@[simp] theorem land_who (r : RegName) (v : RegVal) (L : Nat) (s : State) : (land r v L s).who = s.who := landWith_who ..
@[simp] theorem land_parked (r : RegName) (v : RegVal) (L : Nat) (s : State) : (land r v L s).parked = s.parked := landWith_parked ..
@[simp] theorem land_cores (r : RegName) (v : RegVal) (L : Nat) (s : State) : (land r v L s).cores = s.cores := landWith_cores ..
@[simp] theorem land_clusters (r : RegName) (v : RegVal) (L : Nat) (s : State) : (land r v L s).clusters = s.clusters := landWith_clusters ..
@[simp] theorem land_dies (r : RegName) (v : RegVal) (L : Nat) (s : State) : (land r v L s).dies = s.dies := landWith_dies ..
@[simp] theorem land_tasks (r : RegName) (v : RegVal) (L : Nat) (s : State) : (land r v L s).tasks = s.tasks := landWith_tasks ..
@[simp] theorem land_chans (r : RegName) (v : RegVal) (L : Nat) (s : State) : (land r v L s).chans = s.chans := landWith_chans ..
@[simp] theorem land_images (r : RegName) (v : RegVal) (L : Nat) (s : State) : (land r v L s).images = s.images := landWith_images ..
@[simp] theorem land_releases (r : RegName) (v : RegVal) (L : Nat) (s : State) : (land r v L s).releases = s.releases := landWith_releases ..
@[simp] theorem land_mem (r : RegName) (v : RegVal) (L : Nat) (s : State) : (land r v L s).mem = s.mem := landWith_mem ..
@[simp] theorem land_spm (r : RegName) (v : RegVal) (L : Nat) (s : State) : (land r v L s).spm = s.spm := landWith_spm ..
@[simp] theorem land_rom (r : RegName) (v : RegVal) (L : Nat) (s : State) : (land r v L s).rom = s.rom := landWith_rom ..
@[simp] theorem land_poison (r : RegName) (v : RegVal) (L : Nat) (s : State) : (land r v L s).poison = s.poison := landWith_poison ..
@[simp] theorem land_spmPoison (r : RegName) (v : RegVal) (L : Nat) (s : State) : (land r v L s).spmPoison = s.spmPoison := landWith_spmPoison ..
@[simp] theorem land_dev (r : RegName) (v : RegVal) (L : Nat) (s : State) : (land r v L s).dev = s.dev := landWith_dev ..
@[simp] theorem land_ctx_run (r : RegName) (v : RegVal) (L : Nat) (s : State) : (land r v L s).ctx.run = s.ctx.run := landWith_ctx_run ..
@[simp] theorem land_ctx_pc (r : RegName) (v : RegVal) (L : Nat) (s : State) : (land r v L s).ctx.pc = s.ctx.pc := landWith_ctx_pc ..
@[simp] theorem land_ctx_s (r : RegName) (v : RegVal) (L : Nat) (s : State) : (land r v L s).ctx.s = s.ctx.s := landWith_ctx_s ..
@[simp] theorem land_ctx_a (r : RegName) (v : RegVal) (L : Nat) (s : State) : (land r v L s).ctx.a = s.ctx.a := landWith_ctx_a ..
@[simp] theorem land_ctx_p (r : RegName) (v : RegVal) (L : Nat) (s : State) : (land r v L s).ctx.p = s.ctx.p := landWith_ctx_p ..
@[simp] theorem land_ctx_b (r : RegName) (v : RegVal) (L : Nat) (s : State) : (land r v L s).ctx.b = s.ctx.b := landWith_ctx_b ..
@[simp] theorem land_ctx_v (r : RegName) (v : RegVal) (L : Nat) (s : State) : (land r v L s).ctx.v = s.ctx.v := landWith_ctx_v ..
@[simp] theorem land_ctx_m (r : RegName) (v : RegVal) (L : Nat) (s : State) : (land r v L s).ctx.m = s.ctx.m := landWith_ctx_m ..
@[simp] theorem land_ctx_w (r : RegName) (v : RegVal) (L : Nat) (s : State) : (land r v L s).ctx.w = s.ctx.w := landWith_ctx_w ..
@[simp] theorem land_ctx_fmtOld (r : RegName) (v : RegVal) (L : Nat) (s : State) : (land r v L s).ctx.fmtOld = s.ctx.fmtOld := landWith_ctx_fmtOld ..
@[simp] theorem land_ctx_fmtNew (r : RegName) (v : RegVal) (L : Nat) (s : State) : (land r v L s).ctx.fmtNew = s.ctx.fmtNew := landWith_ctx_fmtNew ..
@[simp] theorem land_ctx_seeds (r : RegName) (v : RegVal) (L : Nat) (s : State) : (land r v L s).ctx.seeds = s.ctx.seeds := landWith_ctx_seeds ..
@[simp] theorem land_ctx_depth (r : RegName) (v : RegVal) (L : Nat) (s : State) : (land r v L s).ctx.depth = s.ctx.depth := landWith_ctx_depth ..
@[simp] theorem land_ctx_wctr (r : RegName) (v : RegVal) (L : Nat) (s : State) : (land r v L s).ctx.wctr = s.ctx.wctr := landWith_ctx_wctr ..
@[simp] theorem land_ctx_wSpoilt (r : RegName) (v : RegVal) (L : Nat) (s : State) : (land r v L s).ctx.wSpoilt = s.ctx.wSpoilt := landWith_ctx_wSpoilt ..
@[simp] theorem land_ctx_badRegs (r : RegName) (v : RegVal) (L : Nat) (s : State) : (land r v L s).ctx.badRegs = s.ctx.badRegs := landWith_ctx_badRegs ..
@[simp] theorem land_ctx_k (r : RegName) (v : RegVal) (L : Nat) (s : State) : (land r v L s).ctx.k = s.ctx.k := landWith_ctx_k ..
@[simp] theorem land_ctx_loops (r : RegName) (v : RegVal) (L : Nat) (s : State) : (land r v L s).ctx.loops = s.ctx.loops := landWith_ctx_loops ..
@[simp] theorem land_ctx_sc (r : RegName) (v : RegVal) (L : Nat) (s : State) : (land r v L s).ctx.sc = s.ctx.sc := landWith_ctx_sc ..
@[simp] theorem land_ctx_chans (r : RegName) (v : RegVal) (L : Nat) (s : State) : (land r v L s).ctx.chans = s.ctx.chans := landWith_ctx_chans ..
@[simp] theorem land_ctx_closed (r : RegName) (v : RegVal) (L : Nat) (s : State) : (land r v L s).ctx.closed = s.ctx.closed := landWith_ctx_closed ..
@[simp] theorem land_ctx_regions (r : RegName) (v : RegVal) (L : Nat) (s : State) : (land r v L s).ctx.regions = s.ctx.regions := landWith_ctx_regions ..
@[simp] theorem land_ctx_ident (r : RegName) (v : RegVal) (L : Nat) (s : State) : (land r v L s).ctx.ident = s.ctx.ident := landWith_ctx_ident ..
@[simp] theorem land_ctx_tbase (r : RegName) (v : RegVal) (L : Nat) (s : State) : (land r v L s).ctx.tbase = s.ctx.tbase := landWith_ctx_tbase ..
@[simp] theorem land_ctx_tcount (r : RegName) (v : RegVal) (L : Nat) (s : State) : (land r v L s).ctx.tcount = s.ctx.tcount := landWith_ctx_tcount ..
@[simp] theorem land_ctx_soff (r : RegName) (v : RegVal) (L : Nat) (s : State) : (land r v L s).ctx.soff = s.ctx.soff := landWith_ctx_soff ..
@[simp] theorem land_ctx_scr (r : RegName) (v : RegVal) (L : Nat) (s : State) : (land r v L s).ctx.scr = s.ctx.scr := landWith_ctx_scr ..
@[simp] theorem land_ctx_task (r : RegName) (v : RegVal) (L : Nat) (s : State) : (land r v L s).ctx.task = s.ctx.task := landWith_ctx_task ..
@[simp] theorem land_ctx_slotNo (r : RegName) (v : RegVal) (L : Nat) (s : State) : (land r v L s).ctx.slotNo = s.ctx.slotNo := landWith_ctx_slotNo ..
@[simp] theorem land_ctx_saveAt (r : RegName) (v : RegVal) (L : Nat) (s : State) : (land r v L s).ctx.saveAt = s.ctx.saveAt := landWith_ctx_saveAt ..
@[simp] theorem land_ctx_recAt (r : RegName) (v : RegVal) (L : Nat) (s : State) : (land r v L s).ctx.recAt = s.ctx.recAt := landWith_ctx_recAt ..
@[simp] theorem land_ctx_status (r : RegName) (v : RegVal) (L : Nat) (s : State) : (land r v L s).ctx.status = s.ctx.status := landWith_ctx_status ..
@[simp] theorem land_ctx_cause (r : RegName) (v : RegVal) (L : Nat) (s : State) : (land r v L s).ctx.cause = s.ctx.cause := landWith_ctx_cause ..
@[simp] theorem land_ctx_epc (r : RegName) (v : RegVal) (L : Nat) (s : State) : (land r v L s).ctx.epc = s.ctx.epc := landWith_ctx_epc ..
@[simp] theorem land_ctx_tval (r : RegName) (v : RegVal) (L : Nat) (s : State) : (land r v L s).ctx.tval = s.ctx.tval := landWith_ctx_tval ..
@[simp] theorem land_ctx_vbase (r : RegName) (v : RegVal) (L : Nat) (s : State) : (land r v L s).ctx.vbase = s.ctx.vbase := landWith_ctx_vbase ..
@[simp] theorem land_ctx_ptbase (r : RegName) (v : RegVal) (L : Nat) (s : State) : (land r v L s).ctx.ptbase = s.ctx.ptbase := landWith_ctx_ptbase ..
@[simp] theorem land_ctx_asid (r : RegName) (v : RegVal) (L : Nat) (s : State) : (land r v L s).ctx.asid = s.ctx.asid := landWith_ctx_asid ..
@[simp] theorem land_ctx_late (r : RegName) (v : RegVal) (L : Nat) (s : State) : (land r v L s).ctx.late = s.ctx.late := landWith_ctx_late ..
@[simp] theorem land_ctx_bara (r : RegName) (v : RegVal) (L : Nat) (s : State) : (land r v L s).ctx.bara = s.ctx.bara := landWith_ctx_bara ..
@[simp] theorem land_ctx_arriving (r : RegName) (v : RegVal) (L : Nat) (s : State) : (land r v L s).ctx.arriving = s.ctx.arriving := landWith_ctx_arriving ..
@[simp] theorem land_ctx_preemptAt (r : RegName) (v : RegVal) (L : Nat) (s : State) : (land r v L s).ctx.preemptAt = s.ctx.preemptAt := landWith_ctx_preemptAt ..
@[simp] theorem land_ctx_resume (r : RegName) (v : RegVal) (L : Nat) (s : State) : (land r v L s).ctx.resume = s.ctx.resume := landWith_ctx_resume ..
@[simp] theorem land_ctx_fillFrom (r : RegName) (v : RegVal) (L : Nat) (s : State) : (land r v L s).ctx.fillFrom = s.ctx.fillFrom := landWith_ctx_fillFrom ..
@[simp] theorem land_ctx_cameFrom (r : RegName) (v : RegVal) (L : Nat) (s : State) : (land r v L s).ctx.cameFrom = s.ctx.cameFrom := landWith_ctx_cameFrom ..
@[simp] theorem land_ctx_asked (r : RegName) (v : RegVal) (L : Nat) (s : State) : (land r v L s).ctx.asked = s.ctx.asked := landWith_ctx_asked ..
@[simp] theorem land_ctx_sendWait (r : RegName) (v : RegVal) (L : Nat) (s : State) : (land r v L s).ctx.sendWait = s.ctx.sendWait := landWith_ctx_sendWait ..
@[simp] theorem land_ctx_ibuf (r : RegName) (v : RegVal) (L : Nat) (s : State) : (land r v L s).ctx.ibuf = s.ctx.ibuf := landWith_ctx_ibuf ..
@[simp] theorem land_ctx_clock (r : RegName) (v : RegVal) (L : Nat) (s : State) : (land r v L s).ctx.clock = s.ctx.clock := landWith_ctx_clock ..
@[simp] theorem land_ctx_relClock (r : RegName) (v : RegVal) (L : Nat) (s : State) : (land r v L s).ctx.relClock = s.ctx.relClock := landWith_ctx_relClock ..
@[simp] theorem land_ctx_readClock (r : RegName) (v : RegVal) (L : Nat) (s : State) : (land r v L s).ctx.readClock = s.ctx.readClock := landWith_ctx_readClock ..
@[simp] theorem land_ctx_windows (r : RegName) (v : RegVal) (L : Nat) (s : State) : (land r v L s).ctx.windows = s.ctx.windows := landWith_ctx_windows ..
@[simp] theorem land_ctx_started (r : RegName) (v : RegVal) (L : Nat) (s : State) : (land r v L s).ctx.started = s.ctx.started := landWith_ctx_started ..
@[simp] theorem land_frame_base (r : RegName) (v : RegVal) (L : Nat) (s : State) : (land r v L s).frame.base = s.frame.base := landWith_frame_base ..
@[simp] theorem land_frame_len (r : RegName) (v : RegVal) (L : Nat) (s : State) : (land r v L s).frame.len = s.frame.len := landWith_frame_len ..
@[simp] theorem land_frame_next (r : RegName) (v : RegVal) (L : Nat) (s : State) : (land r v L s).frame.next = s.frame.next := landWith_frame_next ..
@[simp] theorem land_frame_left (r : RegName) (v : RegVal) (L : Nat) (s : State) : (land r v L s).frame.left = s.frame.left := landWith_frame_left ..
@[simp] theorem land_frame_transfer (r : RegName) (v : RegVal) (L : Nat) (s : State) : (land r v L s).frame.transfer = s.frame.transfer := landWith_frame_transfer ..
@[simp] theorem land_frame_flow (r : RegName) (v : RegVal) (L : Nat) (s : State) : (land r v L s).frame.flow = s.frame.flow := landWith_frame_flow ..
@[simp] theorem land_frame_cleared (r : RegName) (v : RegVal) (L : Nat) (s : State) : (land r v L s).frame.cleared = s.frame.cleared := landWith_frame_cleared ..
@[simp] theorem land_frame_gap (r : RegName) (v : RegVal) (L : Nat) (s : State) : (land r v L s).frame.gap = s.frame.gap := landWith_frame_gap ..
@[simp] theorem land_frame_slot (r : RegName) (v : RegVal) (L : Nat) (s : State) : (land r v L s).frame.slot = s.frame.slot := landWith_frame_slot ..
@[simp] theorem land_frame_parcel (r : RegName) (v : RegVal) (L : Nat) (s : State) : (land r v L s).frame.parcel = s.frame.parcel := landWith_frame_parcel ..
@[simp] theorem land_frame_out (r : RegName) (v : RegVal) (L : Nat) (s : State) : (land r v L s).frame.out = s.frame.out := landWith_frame_out ..
@[simp] theorem land_frame_yields (r : RegName) (v : RegVal) (L : Nat) (s : State) : (land r v L s).frame.yields = s.frame.yields := landWith_frame_yields ..
@[simp] theorem land_frame_hit (r : RegName) (v : RegVal) (L : Nat) (s : State) : (land r v L s).frame.hit = s.frame.hit := landWith_frame_hit ..

/-- Where no other landing of r stands in its way, the landings gain exactly this one. -/
theorem landWith_lands {r : RegName} (w : r.wired = false) (v : RegVal) (L : Nat) (d : Bool) (i : Nat) {s : State}
    (e : exposed s r = false) (x : written s r = false) :
    (landWith r v L d i s).ctx.lands = s.ctx.lands ++ [⟨r, v, s.ctx.sc, s.ctx.sc + L, d, false, false, i, []⟩] := by
  have f : s.ctx.lands.foldl (fun (d : Nat) (_ : Landing) => d) (s.ctx.sc + L) = s.ctx.sc + L := by
    generalize s.ctx.lands = l
    induction l with
    | nil => rfl
    | cons _ _ ih => exact ih
  simp [landWith, w, e, x, f]

/-- A landing of landWith is one that s had, one of r that s had and that is spoiled now, or the new one. -/
theorem landWith_landing {r : RegName} {v : RegVal} {L : Nat} {d : Bool} {i : Nat} {s : State} {l : Landing}
    (h : l ∈ (landWith r v L d i s).ctx.lands) :
    l ∈ s.ctx.lands ∨ (∃ m ∈ s.ctx.lands, m.reg = r ∧ l = { m with spoiled := true }) ∨
      (l.reg = r ∧ l.val = v ∧ l.issued = s.ctx.sc ∧ l.ready = d ∧ l.id = i ∧ l.clock = []) := by
  unfold landWith at h
  split at h
  · exact .inl h
  · rcases List.mem_append.1 h with m | m
    · split at m
      · obtain ⟨q, hq, rfl⟩ := List.mem_map.1 m
        split
        · rename_i g; exact .inr (.inl ⟨q, hq, by simpa using g, rfl⟩)
        · exact .inl hq
      · exact .inl m
    · rw [List.mem_singleton.1 m]; exact .inr (.inr ⟨rfl, rfl, rfl, rfl, rfl, rfl⟩)

/-- A landing of another register stays (R52). -/
theorem landWith_keeps {r : RegName} {v : RegVal} {L : Nat} {d : Bool} {i : Nat} {s : State} {l : Landing} (h : l ∈ s.ctx.lands)
    (o : l.reg ≠ r) : l ∈ (landWith r v L d i s).ctx.lands := by
  unfold landWith
  split
  · exact h
  · refine List.mem_append.2 (.inl ?_)
    split
    · exact List.mem_map.2 ⟨l, h, by simp [o]⟩
    · exact h

theorem landWith_landed (r : RegName) (v : RegVal) (L : Nat) (d : Bool) (i : Nat) (s : State) : Landed s (landWith r v L d i s) r v L := by
  cases w : r.wired
  · right
    by_cases u : exposed s r = false ∧ written s r = false
    · refine ⟨⟨r, v, s.ctx.sc, s.ctx.sc + L, d, false, false, i, []⟩, ?_, rfl, rfl, rfl, fun _ _ => ⟨rfl, rfl⟩⟩
      rw [landWith_lands w v L d i u.1 u.2]
      exact List.mem_append.2 (.inr (List.mem_singleton.2 rfl))
    · unfold landWith
      rw [w, if_neg Bool.false_ne_true]
      exact ⟨_, List.mem_append.2 (.inr (List.mem_singleton.2 rfl)), rfl, rfl, rfl, fun e x => absurd ⟨e, x⟩ u⟩
  · exact .inl w

theorem land_landed (r : RegName) (v : RegVal) (L : Nat) (s : State) : Landed s (land r v L s) r v L := landWith_landed r v L true 0 s

theorem land_landsOnly (r : RegName) (v : RegVal) (L : Nat) (s : State) : LandsOnly [r] s (land r v L s) := by
  intro l m n
  have n : l.reg ≠ r := by simpa using n
  rcases landWith_landing m with h | ⟨q, _, e, rfl⟩ | h
  · exact h
  · exact absurd e n
  · exact absurd h.1 n

theorem land_onlyLands (r : RegName) (v : RegVal) (L : Nat) (s : State) : OnlyLands s (land r v L s) := by
  unfold OnlyLands land landWith
  split <;> rfl

/-- A register that r is not keeps its readiness. -/
theorem exposed_landWith {r q : RegName} (h : q ≠ r) (v : RegVal) (L : Nat) (d : Bool) (i : Nat) (s : State) :
    exposed (landWith r v L d i s) q = exposed s q := by
  apply Bool.eq_iff_iff.2
  simp only [exposed, List.any_eq_true, landWith_ctx_sc]
  constructor
  · rintro ⟨l, m, e⟩
    have : l.reg = q := by simp at e; exact e.1.1
    rcases landWith_landing m with g | ⟨x, _, g, rfl⟩ | g
    · exact ⟨l, g, e⟩
    · exact absurd (this.symm.trans g) h
    · exact absurd (this.symm.trans g.1) h
  · rintro ⟨l, m, e⟩
    have : l.reg = q := by simp at e; exact e.1.1
    exact ⟨l, landWith_keeps m (this ▸ h), e⟩

/-- A landing of this bundle exposes nothing: its bound begins with the next (R52). -/
theorem exposed_landWith_self (r : RegName) (v : RegVal) (L : Nat) (d : Bool) (i : Nat) (s : State) :
    exposed (landWith r v L d i s) r = exposed s r := by
  apply Bool.eq_iff_iff.2
  unfold landWith
  split
  · rfl
  · simp only [exposed, List.any_append, Bool.or_eq_true, List.any_cons, List.any_nil, Nat.lt_irrefl, decide_false, Bool.and_false, Bool.false_and,
      Bool.or_false]
    split
    · rw [List.any_map]
      simp only [List.any_eq_true, Function.comp_apply]
      constructor <;> rintro ⟨l, m, e⟩ <;> refine ⟨l, m, ?_⟩ <;> revert e <;> split <;> exact id
    · rfl

/-! ## Stalls, traps, returns -/

theorem stall_next (s : State) :
    stall s = .next { s with frame := { s.frame with out := .stalled }, ctx := { s.ctx with run := .stalled } } := rfl

@[simp] theorem panicFreeze_mem (s : State) : (panicFreeze s).mem = s.mem := by simp [panicFreeze]
@[simp] theorem panicFreeze_spm (s : State) : (panicFreeze s).spm = s.spm := by simp [panicFreeze]
@[simp] theorem panicFreeze_rom (s : State) : (panicFreeze s).rom = s.rom := by simp [panicFreeze]
@[simp] theorem panicFreeze_who (s : State) : (panicFreeze s).who = s.who := by simp [panicFreeze]
@[simp] theorem panicFreeze_tasks (s : State) : (panicFreeze s).tasks = s.tasks := by simp [panicFreeze]
@[simp] theorem panicFreeze_cores (s : State) : (panicFreeze s).cores = s.cores := by simp [panicFreeze]

/-- Two lists of tasks that differ at most in the causes of faults they keep (R381). -/
def SameTasks (s t : State) : Prop := (t.tasks.map fun k => { k with fault := none }) = s.tasks.map fun k => { k with fault := none }

theorem sameTasks_mod (s : State) (id : Nat) (b : Option (BitVec 8)) : SameTasks s (modTask s id fun t => { t with fault := b }) := by
  unfold SameTasks modTask
  rw [List.map_map]
  refine List.map_congr_left fun t _ => ?_
  simp only [Function.comp_apply]
  split <;> rfl

/-- A trap touches no memory and no other core, and of a task only the cause it keeps, whoever takes it (R55, R360). -/
theorem takeTrap_leaves (c : CtxId) (e k v : Word) (s : State) :
    (takeTrap c e k v s).mem = s.mem ∧ (takeTrap c e k v s).spm = s.spm ∧ (takeTrap c e k v s).rom = s.rom ∧ (takeTrap c e k v s).who = s.who ∧
      SameTasks s (takeTrap c e k v s) ∧ (takeTrap c e k v s).cores = s.cores := by
  unfold takeTrap
  split
  · unfold enterHandler
    dsimp only
    split <;> simp [SameTasks]
  · unfold stopCompute postCtx
    simp only [↓reduceIte]
    refine ⟨?_, ?_, ?_, ?_, ?_, ?_⟩
    case refine_5 =>
      refine Eq.trans (sameTasks_mod (setCtx s c _) _ _) ?_
      simp
    all_goals simp

/-- A trap is a next state whose frame says at which position it was found (R102). -/
theorem trapAt_next (rank : Nat) (code : BitVec 8) (tval : Word) (s : State) :
    ∃ t, trapAt rank code tval s = .next t ∧ t.frame.out = .trapped rank ∧ t.mem = s.mem ∧ t.spm = s.spm ∧ t.rom = s.rom ∧ t.who = s.who ∧
      SameTasks s t ∧ t.cores = s.cores :=
  ⟨_, rfl, rfl, takeTrap_leaves _ _ _ _ _⟩

@[simp] theorem returnFromTrap_pc (s : State) : (returnFromTrap s).ctx.pc = s.ctx.pc := rfl
@[simp] theorem returnFromTrap_next (s : State) : (returnFromTrap s).frame.next = s.ctx.epc := rfl
@[simp] theorem returnFromTrap_transfer (s : State) : (returnFromTrap s).frame.transfer = true := rfl

/-- A return changes the status register and where the context goes on, and nothing else (R359). -/
theorem returnFromTrap_only (s : State) : ∃ st, returnFromTrap s =
    { s with ctx := { s.ctx with status := st }, frame := { s.frame with next := s.ctx.epc, transfer := true } } := ⟨_, rfl⟩

/-! ## Events -/

/-- Counting changes memory (the error log and the platform block) with the poison of the lines that it writes wholly, the device's
counters, and the contexts' late faults. -/
def OnlyCounts (s t : State) : Prop :=
  t = { s with mem := t.mem, poison := t.poison, dev := t.dev, parked := t.parked, ctx := { s.ctx with late := t.ctx.late } }

theorem onlyCounts_refl (s : State) : OnlyCounts s s := rfl

theorem onlyCounts_trans {s t u : State} (h : OnlyCounts s t) (g : OnlyCounts t u) : OnlyCounts s u := by
  unfold OnlyCounts at *
  rw [g, h]

theorem onlyCounts_mk (s : State) (m : Memory) (d : Dev) : OnlyCounts s { s with mem := m, dev := d } := rfl

theorem onlyCounts_mem (s : State) (m : Memory) : OnlyCounts s { s with mem := m } := onlyCounts_mk s m s.dev

theorem onlyCounts_committedStore (key : Nat) (bs : List Byte) (s : State) : OnlyCounts s (committedStore key bs s) := rfl

theorem onlyCounts_poke (s : State) (a n x : Nat) : OnlyCounts s (poke s a n x) := onlyCounts_mem _ _

theorem onlyCounts_modDev (s : State) (f : Dev → Dev) : OnlyCounts s (modDev s f) := onlyCounts_mk s s.mem _

theorem onlyCounts_ite {s t u : State} {p : Prop} [Decidable p] (h : OnlyCounts s t) (g : OnlyCounts s u) : OnlyCounts s (if p then t else u) := by
  split
  · exact h
  · exact g

theorem onlyCounts_addLate (s : State) (c : CtxId) (f : LateFault) : OnlyCounts s (addLate s c f) := by
  unfold OnlyCounts addLate modCtx setCtx getCtx
  split <;> rfl

theorem onlyCounts_logPad (n w : Nat) (s : State) : OnlyCounts s (logPad n w s) := by
  induction n generalizing w s with
  | zero => exact onlyCounts_refl s
  | succ n ih => exact onlyCounts_trans (onlyCounts_committedStore _ _ s) (ih _ _)

theorem onlyCounts_logRecord (k : Nat) (bs : List Byte) (s : State) : OnlyCounts s (logRecord k bs s) := by
  unfold logRecord
  split
  · exact onlyCounts_refl s
  · exact onlyCounts_ite (onlyCounts_poke s _ _ _)
      (onlyCounts_trans (onlyCounts_trans (onlyCounts_logPad _ _ s) (onlyCounts_committedStore _ _ _)) (onlyCounts_poke ..))

theorem onlyCounts_hostSend (h : Fin 4) (m : List Byte) (s : State) : OnlyCounts s (hostSend h m s) := by
  unfold hostSend
  exact onlyCounts_ite (onlyCounts_refl s) (onlyCounts_trans (onlyCounts_committedStore _ _ s) (onlyCounts_poke ..))

theorem onlyCounts_hostSendAll (m : List Byte) (s : State) : OnlyCounts s (hostSendAll m s) := by
  unfold hostSendAll
  generalize List.finRange 4 = l
  induction l generalizing s with
  | nil => exact onlyCounts_refl s
  | cons h l ih =>
    rw [List.foldl_cons]
    refine onlyCounts_trans ?_ (ih _)
    split
    · exact onlyCounts_hostSend ..
    · exact onlyCounts_refl s

theorem onlyCounts_showTotal (n : Fin 16) (s : State) : OnlyCounts s (showTotal n s) :=
  onlyCounts_ite (onlyCounts_refl s) (onlyCounts_poke ..)

/-- A crossing by an event that no engine work of a retired context brings about. -/
theorem onlyCounts_crossing (n : Fin 16) (c : Option CtxId) (s : State) : OnlyCounts s (crossing n c none s) := by
  unfold crossing
  dsimp only
  generalize hr : showTotal n (logRecord _ _ s) = q
  have b : OnlyCounts s q := hr ▸ onlyCounts_trans (onlyCounts_logRecord _ _ s) (onlyCounts_showTotal n _)
  split
  · exact b
  · exact onlyCounts_trans b (onlyCounts_modDev ..)
  · exact onlyCounts_trans b (onlyCounts_hostSendAll ..)
  · exact onlyCounts_trans b (onlyCounts_addLate ..)
  · exact onlyCounts_trans b (onlyCounts_modDev ..)

theorem onlyCounts_countEvent (c : Option CtxId) (n : Fin 16) (s : State) : OnlyCounts s (countEvent c none n s) := by
  unfold countEvent
  dsimp only
  refine onlyCounts_ite (onlyCounts_refl s) ?_
  refine onlyCounts_ite (onlyCounts_trans (onlyCounts_trans ?_ (onlyCounts_crossing _ _ _)) (onlyCounts_modDev _ _)) ?_ <;>
    exact onlyCounts_trans (onlyCounts_mk s s.mem _) (onlyCounts_showTotal ..)

/-- What an operation that only counts leaves as it was. -/
theorem onlyCounts_congr {s t : State} (h : OnlyCounts s t) {α : Type} (f : State → α) :
    f t = f { s with mem := t.mem, poison := t.poison, dev := t.dev, parked := t.parked, ctx := { s.ctx with late := t.ctx.late } } := congrArg f h

/-- What counting events can do (R432, R433). -/
theorem countEvents_only (c : Option CtxId) (ns : List Nat) (s : State) : OnlyCounts s (countEvents c ns s) := by
  unfold countEvents
  induction ns generalizing s with
  | nil => exact onlyCounts_refl s
  | cons n ns ih => exact onlyCounts_trans (onlyCounts_countEvent _ _ _) (ih _)

@[simp] theorem countEvents_spm (c : Option CtxId) (ns : List Nat) (s : State) : (countEvents c ns s).spm = s.spm := onlyCounts_congr (countEvents_only c ns s) State.spm
@[simp] theorem countMine_spm (ns : List Nat) (s : State) : (countMine ns s).spm = s.spm := countEvents_spm ..
@[simp] theorem countEvents_rom (c : Option CtxId) (ns : List Nat) (s : State) : (countEvents c ns s).rom = s.rom := onlyCounts_congr (countEvents_only c ns s) State.rom
@[simp] theorem countMine_rom (ns : List Nat) (s : State) : (countMine ns s).rom = s.rom := countEvents_rom ..
@[simp] theorem countEvents_who (c : Option CtxId) (ns : List Nat) (s : State) : (countEvents c ns s).who = s.who := onlyCounts_congr (countEvents_only c ns s) State.who
@[simp] theorem countMine_who (ns : List Nat) (s : State) : (countMine ns s).who = s.who := countEvents_who ..
@[simp] theorem countEvents_cores (c : Option CtxId) (ns : List Nat) (s : State) : (countEvents c ns s).cores = s.cores := onlyCounts_congr (countEvents_only c ns s) State.cores
@[simp] theorem countMine_cores (ns : List Nat) (s : State) : (countMine ns s).cores = s.cores := countEvents_cores ..
@[simp] theorem countEvents_clusters (c : Option CtxId) (ns : List Nat) (s : State) : (countEvents c ns s).clusters = s.clusters := onlyCounts_congr (countEvents_only c ns s) State.clusters
@[simp] theorem countMine_clusters (ns : List Nat) (s : State) : (countMine ns s).clusters = s.clusters := countEvents_clusters ..
@[simp] theorem countEvents_dies (c : Option CtxId) (ns : List Nat) (s : State) : (countEvents c ns s).dies = s.dies := onlyCounts_congr (countEvents_only c ns s) State.dies
@[simp] theorem countMine_dies (ns : List Nat) (s : State) : (countMine ns s).dies = s.dies := countEvents_dies ..
@[simp] theorem countEvents_tasks (c : Option CtxId) (ns : List Nat) (s : State) : (countEvents c ns s).tasks = s.tasks := onlyCounts_congr (countEvents_only c ns s) State.tasks
@[simp] theorem countMine_tasks (ns : List Nat) (s : State) : (countMine ns s).tasks = s.tasks := countEvents_tasks ..
@[simp] theorem countEvents_chans (c : Option CtxId) (ns : List Nat) (s : State) : (countEvents c ns s).chans = s.chans := onlyCounts_congr (countEvents_only c ns s) State.chans
@[simp] theorem countMine_chans (ns : List Nat) (s : State) : (countMine ns s).chans = s.chans := countEvents_chans ..
@[simp] theorem countEvents_images (c : Option CtxId) (ns : List Nat) (s : State) : (countEvents c ns s).images = s.images := onlyCounts_congr (countEvents_only c ns s) State.images
@[simp] theorem countMine_images (ns : List Nat) (s : State) : (countMine ns s).images = s.images := countEvents_images ..
@[simp] theorem countEvents_frame (c : Option CtxId) (ns : List Nat) (s : State) : (countEvents c ns s).frame = s.frame := onlyCounts_congr (countEvents_only c ns s) State.frame
@[simp] theorem countMine_frame (ns : List Nat) (s : State) : (countMine ns s).frame = s.frame := countEvents_frame ..
@[simp] theorem countEvents_now (c : Option CtxId) (ns : List Nat) (s : State) : (countEvents c ns s).now = s.now := onlyCounts_congr (countEvents_only c ns s) State.now
@[simp] theorem countMine_now (ns : List Nat) (s : State) : (countMine ns s).now = s.now := countEvents_now ..
@[simp] theorem countEvents_tick (c : Option CtxId) (ns : List Nat) (s : State) : (countEvents c ns s).tick = s.tick := onlyCounts_congr (countEvents_only c ns s) State.tick
@[simp] theorem countMine_tick (ns : List Nat) (s : State) : (countMine ns s).tick = s.tick := countEvents_tick ..
@[simp] theorem countEvents_serial (c : Option CtxId) (ns : List Nat) (s : State) : (countEvents c ns s).serial = s.serial := onlyCounts_congr (countEvents_only c ns s) State.serial
@[simp] theorem countMine_serial (ns : List Nat) (s : State) : (countMine ns s).serial = s.serial := countEvents_serial ..
@[simp] theorem countEvents_agenda (c : Option CtxId) (ns : List Nat) (s : State) : (countEvents c ns s).agenda = s.agenda := onlyCounts_congr (countEvents_only c ns s) State.agenda
@[simp] theorem countMine_agenda (ns : List Nat) (s : State) : (countMine ns s).agenda = s.agenda := countEvents_agenda ..
@[simp] theorem countEvents_input (c : Option CtxId) (ns : List Nat) (s : State) : (countEvents c ns s).input = s.input := onlyCounts_congr (countEvents_only c ns s) State.input
@[simp] theorem countMine_input (ns : List Nat) (s : State) : (countMine ns s).input = s.input := countEvents_input ..
@[simp] theorem countEvents_spmPoison (c : Option CtxId) (ns : List Nat) (s : State) : (countEvents c ns s).spmPoison = s.spmPoison := onlyCounts_congr (countEvents_only c ns s) State.spmPoison
@[simp] theorem countMine_spmPoison (ns : List Nat) (s : State) : (countMine ns s).spmPoison = s.spmPoison := countEvents_spmPoison ..
@[simp] theorem countEvents_releases (c : Option CtxId) (ns : List Nat) (s : State) : (countEvents c ns s).releases = s.releases := onlyCounts_congr (countEvents_only c ns s) State.releases
@[simp] theorem countMine_releases (ns : List Nat) (s : State) : (countMine ns s).releases = s.releases := countEvents_releases ..
@[simp] theorem countMine_ctx_run (ns : List Nat) (s : State) : (countMine ns s).ctx.run = s.ctx.run := onlyCounts_congr (countEvents_only _ ns s) fun t => t.ctx.run
@[simp] theorem countMine_ctx_pc (ns : List Nat) (s : State) : (countMine ns s).ctx.pc = s.ctx.pc := onlyCounts_congr (countEvents_only _ ns s) fun t => t.ctx.pc
@[simp] theorem countMine_ctx_s (ns : List Nat) (s : State) : (countMine ns s).ctx.s = s.ctx.s := onlyCounts_congr (countEvents_only _ ns s) fun t => t.ctx.s
@[simp] theorem countMine_ctx_a (ns : List Nat) (s : State) : (countMine ns s).ctx.a = s.ctx.a := onlyCounts_congr (countEvents_only _ ns s) fun t => t.ctx.a
@[simp] theorem countMine_ctx_p (ns : List Nat) (s : State) : (countMine ns s).ctx.p = s.ctx.p := onlyCounts_congr (countEvents_only _ ns s) fun t => t.ctx.p
@[simp] theorem countMine_ctx_b (ns : List Nat) (s : State) : (countMine ns s).ctx.b = s.ctx.b := onlyCounts_congr (countEvents_only _ ns s) fun t => t.ctx.b
@[simp] theorem countMine_ctx_v (ns : List Nat) (s : State) : (countMine ns s).ctx.v = s.ctx.v := onlyCounts_congr (countEvents_only _ ns s) fun t => t.ctx.v
@[simp] theorem countMine_ctx_m (ns : List Nat) (s : State) : (countMine ns s).ctx.m = s.ctx.m := onlyCounts_congr (countEvents_only _ ns s) fun t => t.ctx.m
@[simp] theorem countMine_ctx_w (ns : List Nat) (s : State) : (countMine ns s).ctx.w = s.ctx.w := onlyCounts_congr (countEvents_only _ ns s) fun t => t.ctx.w
@[simp] theorem countMine_ctx_fmtOld (ns : List Nat) (s : State) : (countMine ns s).ctx.fmtOld = s.ctx.fmtOld := onlyCounts_congr (countEvents_only _ ns s) fun t => t.ctx.fmtOld
@[simp] theorem countMine_ctx_fmtNew (ns : List Nat) (s : State) : (countMine ns s).ctx.fmtNew = s.ctx.fmtNew := onlyCounts_congr (countEvents_only _ ns s) fun t => t.ctx.fmtNew
@[simp] theorem countMine_ctx_seeds (ns : List Nat) (s : State) : (countMine ns s).ctx.seeds = s.ctx.seeds := onlyCounts_congr (countEvents_only _ ns s) fun t => t.ctx.seeds
@[simp] theorem countMine_ctx_depth (ns : List Nat) (s : State) : (countMine ns s).ctx.depth = s.ctx.depth := onlyCounts_congr (countEvents_only _ ns s) fun t => t.ctx.depth
@[simp] theorem countMine_ctx_wctr (ns : List Nat) (s : State) : (countMine ns s).ctx.wctr = s.ctx.wctr := onlyCounts_congr (countEvents_only _ ns s) fun t => t.ctx.wctr
@[simp] theorem countMine_ctx_wSpoilt (ns : List Nat) (s : State) : (countMine ns s).ctx.wSpoilt = s.ctx.wSpoilt := onlyCounts_congr (countEvents_only _ ns s) fun t => t.ctx.wSpoilt
@[simp] theorem countMine_ctx_badRegs (ns : List Nat) (s : State) : (countMine ns s).ctx.badRegs = s.ctx.badRegs := onlyCounts_congr (countEvents_only _ ns s) fun t => t.ctx.badRegs
@[simp] theorem countMine_ctx_k (ns : List Nat) (s : State) : (countMine ns s).ctx.k = s.ctx.k := onlyCounts_congr (countEvents_only _ ns s) fun t => t.ctx.k
@[simp] theorem countMine_ctx_loops (ns : List Nat) (s : State) : (countMine ns s).ctx.loops = s.ctx.loops := onlyCounts_congr (countEvents_only _ ns s) fun t => t.ctx.loops
@[simp] theorem countMine_ctx_sc (ns : List Nat) (s : State) : (countMine ns s).ctx.sc = s.ctx.sc := onlyCounts_congr (countEvents_only _ ns s) fun t => t.ctx.sc
@[simp] theorem countMine_ctx_chans (ns : List Nat) (s : State) : (countMine ns s).ctx.chans = s.ctx.chans := onlyCounts_congr (countEvents_only _ ns s) fun t => t.ctx.chans
@[simp] theorem countMine_ctx_closed (ns : List Nat) (s : State) : (countMine ns s).ctx.closed = s.ctx.closed := onlyCounts_congr (countEvents_only _ ns s) fun t => t.ctx.closed
@[simp] theorem countMine_ctx_regions (ns : List Nat) (s : State) : (countMine ns s).ctx.regions = s.ctx.regions := onlyCounts_congr (countEvents_only _ ns s) fun t => t.ctx.regions
@[simp] theorem countMine_ctx_ident (ns : List Nat) (s : State) : (countMine ns s).ctx.ident = s.ctx.ident := onlyCounts_congr (countEvents_only _ ns s) fun t => t.ctx.ident
@[simp] theorem countMine_ctx_tbase (ns : List Nat) (s : State) : (countMine ns s).ctx.tbase = s.ctx.tbase := onlyCounts_congr (countEvents_only _ ns s) fun t => t.ctx.tbase
@[simp] theorem countMine_ctx_tcount (ns : List Nat) (s : State) : (countMine ns s).ctx.tcount = s.ctx.tcount := onlyCounts_congr (countEvents_only _ ns s) fun t => t.ctx.tcount
@[simp] theorem countMine_ctx_soff (ns : List Nat) (s : State) : (countMine ns s).ctx.soff = s.ctx.soff := onlyCounts_congr (countEvents_only _ ns s) fun t => t.ctx.soff
@[simp] theorem countMine_ctx_scr (ns : List Nat) (s : State) : (countMine ns s).ctx.scr = s.ctx.scr := onlyCounts_congr (countEvents_only _ ns s) fun t => t.ctx.scr
@[simp] theorem countMine_ctx_task (ns : List Nat) (s : State) : (countMine ns s).ctx.task = s.ctx.task := onlyCounts_congr (countEvents_only _ ns s) fun t => t.ctx.task
@[simp] theorem countMine_ctx_slotNo (ns : List Nat) (s : State) : (countMine ns s).ctx.slotNo = s.ctx.slotNo := onlyCounts_congr (countEvents_only _ ns s) fun t => t.ctx.slotNo
@[simp] theorem countMine_ctx_saveAt (ns : List Nat) (s : State) : (countMine ns s).ctx.saveAt = s.ctx.saveAt := onlyCounts_congr (countEvents_only _ ns s) fun t => t.ctx.saveAt
@[simp] theorem countMine_ctx_recAt (ns : List Nat) (s : State) : (countMine ns s).ctx.recAt = s.ctx.recAt := onlyCounts_congr (countEvents_only _ ns s) fun t => t.ctx.recAt
@[simp] theorem countMine_ctx_status (ns : List Nat) (s : State) : (countMine ns s).ctx.status = s.ctx.status := onlyCounts_congr (countEvents_only _ ns s) fun t => t.ctx.status
@[simp] theorem countMine_ctx_cause (ns : List Nat) (s : State) : (countMine ns s).ctx.cause = s.ctx.cause := onlyCounts_congr (countEvents_only _ ns s) fun t => t.ctx.cause
@[simp] theorem countMine_ctx_epc (ns : List Nat) (s : State) : (countMine ns s).ctx.epc = s.ctx.epc := onlyCounts_congr (countEvents_only _ ns s) fun t => t.ctx.epc
@[simp] theorem countMine_ctx_tval (ns : List Nat) (s : State) : (countMine ns s).ctx.tval = s.ctx.tval := onlyCounts_congr (countEvents_only _ ns s) fun t => t.ctx.tval
@[simp] theorem countMine_ctx_vbase (ns : List Nat) (s : State) : (countMine ns s).ctx.vbase = s.ctx.vbase := onlyCounts_congr (countEvents_only _ ns s) fun t => t.ctx.vbase
@[simp] theorem countMine_ctx_ptbase (ns : List Nat) (s : State) : (countMine ns s).ctx.ptbase = s.ctx.ptbase := onlyCounts_congr (countEvents_only _ ns s) fun t => t.ctx.ptbase
@[simp] theorem countMine_ctx_asid (ns : List Nat) (s : State) : (countMine ns s).ctx.asid = s.ctx.asid := onlyCounts_congr (countEvents_only _ ns s) fun t => t.ctx.asid
@[simp] theorem countMine_ctx_bara (ns : List Nat) (s : State) : (countMine ns s).ctx.bara = s.ctx.bara := onlyCounts_congr (countEvents_only _ ns s) fun t => t.ctx.bara
@[simp] theorem countMine_ctx_arriving (ns : List Nat) (s : State) : (countMine ns s).ctx.arriving = s.ctx.arriving := onlyCounts_congr (countEvents_only _ ns s) fun t => t.ctx.arriving
@[simp] theorem countMine_ctx_preemptAt (ns : List Nat) (s : State) : (countMine ns s).ctx.preemptAt = s.ctx.preemptAt := onlyCounts_congr (countEvents_only _ ns s) fun t => t.ctx.preemptAt
@[simp] theorem countMine_ctx_resume (ns : List Nat) (s : State) : (countMine ns s).ctx.resume = s.ctx.resume := onlyCounts_congr (countEvents_only _ ns s) fun t => t.ctx.resume
@[simp] theorem countMine_ctx_fillFrom (ns : List Nat) (s : State) : (countMine ns s).ctx.fillFrom = s.ctx.fillFrom := onlyCounts_congr (countEvents_only _ ns s) fun t => t.ctx.fillFrom
@[simp] theorem countMine_ctx_cameFrom (ns : List Nat) (s : State) : (countMine ns s).ctx.cameFrom = s.ctx.cameFrom := onlyCounts_congr (countEvents_only _ ns s) fun t => t.ctx.cameFrom
@[simp] theorem countMine_ctx_asked (ns : List Nat) (s : State) : (countMine ns s).ctx.asked = s.ctx.asked := onlyCounts_congr (countEvents_only _ ns s) fun t => t.ctx.asked
@[simp] theorem countMine_ctx_sendWait (ns : List Nat) (s : State) : (countMine ns s).ctx.sendWait = s.ctx.sendWait := onlyCounts_congr (countEvents_only _ ns s) fun t => t.ctx.sendWait
@[simp] theorem countMine_ctx_ibuf (ns : List Nat) (s : State) : (countMine ns s).ctx.ibuf = s.ctx.ibuf := onlyCounts_congr (countEvents_only _ ns s) fun t => t.ctx.ibuf
@[simp] theorem countMine_ctx_clock (ns : List Nat) (s : State) : (countMine ns s).ctx.clock = s.ctx.clock := onlyCounts_congr (countEvents_only _ ns s) fun t => t.ctx.clock
@[simp] theorem countMine_ctx_relClock (ns : List Nat) (s : State) : (countMine ns s).ctx.relClock = s.ctx.relClock := onlyCounts_congr (countEvents_only _ ns s) fun t => t.ctx.relClock
@[simp] theorem countMine_ctx_readClock (ns : List Nat) (s : State) : (countMine ns s).ctx.readClock = s.ctx.readClock := onlyCounts_congr (countEvents_only _ ns s) fun t => t.ctx.readClock
@[simp] theorem countMine_ctx_windows (ns : List Nat) (s : State) : (countMine ns s).ctx.windows = s.ctx.windows := onlyCounts_congr (countEvents_only _ ns s) fun t => t.ctx.windows
@[simp] theorem countMine_ctx_started (ns : List Nat) (s : State) : (countMine ns s).ctx.started = s.ctx.started := onlyCounts_congr (countEvents_only _ ns s) fun t => t.ctx.started
@[simp] theorem countMine_ctx_lands (ns : List Nat) (s : State) : (countMine ns s).ctx.lands = s.ctx.lands := onlyCounts_congr (countEvents_only _ ns s) fun t => t.ctx.lands

/-! ## The scratchpads -/

@[simp] theorem spmWrite_spm (k : Nat) (bs : List Byte) (s : State) : (spmWrite k bs s).spm = s.spm.writeBytes k bs := rfl
@[simp] theorem spmWrite_mem (k : Nat) (bs : List Byte) (s : State) : (spmWrite k bs s).mem = s.mem := rfl
@[simp] theorem spmWrite_ctx (k : Nat) (bs : List Byte) (s : State) : (spmWrite k bs s).ctx = s.ctx := rfl

/-- A store into the scratchpads: its bytes, and every other byte as it was. -/
theorem spmWrite_read {s : State} (w : s.spm.wf = true) (k : Nat) (bs : List Byte) (a : Nat) :
    (spmWrite k bs s).spm.read a = if k ≤ a ∧ a < k + bs.length then bs.getD (a - k) 0 else s.spm.read a := by
  rw [spmWrite_spm, read_writeBytes w]

theorem spmWrite_wf {s : State} (w : s.spm.wf = true) (k : Nat) (bs : List Byte) : (spmWrite k bs s).spm.wf = true := writeBytes_wf _ _ w

/-! ## Copies at a bundle's end -/

/-- While no copy is on its way, the registers that a bundle writes disturb none (R267). -/
theorem meetRegs_idle {s : State} (h : (s.clusters.all fun e => e.2.copies.isEmpty) = true) (c : CtxId) (sc : Nat) : meetRegs c sc s = s := by
  simp [meetRegs, h]

end Sys2Proof.Machine
end

