-- ==== Sys2Proof/Laws/PerInstr.lean ====
section
/-! SUPPORT. Decoding the words of an instruction gives it back: the family RoundTrip, one lemma per constructor. -/

namespace Sys2Proof.Laws.RoundTrip

/-- The words of a well-formed instruction decode to it (R86–R116, R355). -/
def Statement (i : Instr) : Prop := ∀ c, encode i = some c → wellFormed i = true → decodeCode c = some i

/-! ## Fields -/

theorem none_of {i : Instr} (h : encode i = none) : Statement i := by
  intro c e
  simp [h] at e

/-! ## Words as digits: (value, modulus, width), the lowest first -/

def cat : List (Nat × Nat × Nat) → Nat
  | [] => 0
  | (v, m, _) :: r => v + m * cat r

def fits : List (Nat × Nat × Nat) → Prop
  | [] => True
  | (v, m, n) :: r => (v < m ∧ m = 2 ^ n) ∧ fits r

def place : List (Nat × Nat × Nat) → Nat → Nat
  | [], _ => 0
  | _, 0 => 0
  | (_, _, n) :: r, k + 1 => n + place r k

def modulus : List (Nat × Nat × Nat) → Nat → Nat
  | [], _ => 1
  | (_, m, _) :: _, 0 => m
  | _ :: r, k + 1 => modulus r k

def digit : List (Nat × Nat × Nat) → Nat → Nat
  | [], _ => 0
  | (v, _, _) :: _, 0 => v
  | _ :: r, k + 1 => digit r k

/-- Digit k stands at its place. -/
theorem cat_at (D : List (Nat × Nat × Nat)) (h : fits D) (k : Nat) : cat D / 2 ^ place D k % modulus D k = digit D k := by
  induction D generalizing k with
  | nil => simp [cat, place, modulus, digit]
  | cons e D ih =>
    obtain ⟨v, m, n⟩ := e
    obtain ⟨⟨h1, h2⟩, h3⟩ := h
    cases k with
    | zero => simp [cat, place, modulus, digit, Nat.mod_eq_of_lt h1]
    | succ k =>
      simp only [cat, place, modulus, digit]
      rw [Nat.pow_add, ← Nat.div_div_eq_div_mul, ← h2, Nat.add_mul_div_left _ _ (by omega), Nat.div_eq_of_lt h1, Nat.zero_add]
      exact ih h3 k

theorem ofSC {x : Nat} {i : Instr} (D : List (Nat × Nat × Nat)) (e : cat D = x) (hf : fits D)
    (h : ∀ w, (∀ k, w / 2 ^ place D k % modulus D k = digit D k) → decodeSC w = .ok i) : decodeCode (.slot 0 x) = some i := by
  subst e
  simp only [decodeCode, decodeSlot, h _ (cat_at D hf)]

theorem ofLD {x : Nat} {i : Instr} (D : List (Nat × Nat × Nat)) (e : cat D = x) (hf : fits D)
    (h : ∀ w, (∀ k, w / 2 ^ place D k % modulus D k = digit D k) → decodeLD w = .ok i) : decodeCode (.slot 1 x) = some i := by
  subst e
  simp only [decodeCode, decodeSlot, h _ (cat_at D hf)]

theorem ofST {x : Nat} {i : Instr} (D : List (Nat × Nat × Nat)) (e : cat D = x) (hf : fits D)
    (h : ∀ w, (∀ k, w / 2 ^ place D k % modulus D k = digit D k) → decodeST w = .ok i) : decodeCode (.slot 2 x) = some i := by
  subst e
  simp only [decodeCode, decodeSlot, h _ (cat_at D hf)]

theorem ofVA {x : Nat} {i : Instr} (D : List (Nat × Nat × Nat)) (e : cat D = x) (hf : fits D)
    (h : ∀ w, (∀ k, w / 2 ^ place D k % modulus D k = digit D k) → decodeVA w = .ok i) : decodeCode (.slot 3 x) = some i := by
  subst e
  simp only [decodeCode, decodeSlot, h _ (cat_at D hf)]

theorem ofVB {x : Nat} {i : Instr} (D : List (Nat × Nat × Nat)) (e : cat D = x) (hf : fits D)
    (h : ∀ w, (∀ k, w / 2 ^ place D k % modulus D k = digit D k) → decodeVB w = .ok i) : decodeCode (.slot 4 x) = some i := by
  subst e
  simp only [decodeCode, decodeSlot, h _ (cat_at D hf)]

theorem ofMX {x : Nat} {i : Instr} (D : List (Nat × Nat × Nat)) (e : cat D = x) (hf : fits D)
    (h : ∀ w, (∀ k, w / 2 ^ place D k % modulus D k = digit D k) → decodeMX w = .ok i) : decodeCode (.slot 5 x) = some i := by
  subst e
  simp only [decodeCode, decodeSlot, h _ (cat_at D hf)]

theorem ofCM {x : Nat} {i : Instr} (D : List (Nat × Nat × Nat)) (e : cat D = x) (hf : fits D)
    (h : ∀ w, (∀ k, w / 2 ^ place D k % modulus D k = digit D k) → decodeCM w = .ok i) : decodeCode (.slot 6 x) = some i := by
  subst e
  simp only [decodeCode, decodeSlot, h _ (cat_at D hf)]

theorem ofCT {x : Nat} {i : Instr} (D : List (Nat × Nat × Nat)) (e : cat D = x) (hf : fits D)
    (h : ∀ w, (∀ k, w / 2 ^ place D k % modulus D k = digit D k) → decodeCT w = .ok i) : decodeCode (.slot 7 x) = some i := by
  subst e
  simp only [decodeCode, decodeSlot, h _ (cat_at D hf)]

theorem wordSC {x : Nat} {i : Instr} (h : ∀ w, x = w → decodeSC w = .ok i) : decodeCode (.slot 0 x) = some i := by
  simp only [decodeCode, decodeSlot, h x rfl]

theorem wordMX {x : Nat} {i : Instr} (h : ∀ w, x = w → decodeMX w = .ok i) : decodeCode (.slot 5 x) = some i := by
  simp only [decodeCode, decodeSlot, h x rfl]

theorem wordCT {x : Nat} {i : Instr} (h : ∀ w, x = w → decodeCT w = .ok i) : decodeCode (.slot 7 x) = some i := by
  simp only [decodeCode, decodeSlot, h x rfl]

theorem need_of {c : Bool} {i j : Instr} (h : c = true) (e : i = j) : need c i = .ok j := by
  simp [need, h, e]

theorem fld_of {n : Nat} [NeZero n] {w lo : Nat} {x : Fin n} (h : w / 2 ^ lo % n = x.val) : fld n w lo = x := Fin.ext h

theorem bvf_of {n w lo : Nat} {x : BitVec n} (h : w / 2 ^ lo % 2 ^ n = x.toNat) : bvf n w lo = x :=
  BitVec.eq_of_toNat_eq (by simpa [bvf] using h)

theorem flg_of {w lo : Nat} {b : Bool} (h : w / 2 ^ lo % 2 = b.toNat) : flg w lo = b := by
  cases b <;> simp [flg, h]

theorem op_of {w n : Nat} (h : w / 2 ^ 22 % 64 = n) : w / 2 ^ 22 % 64 = n := h

theorem fn_of {w lo m n : Nat} (h : w / 2 ^ lo % m = n) : w / 2 ^ lo % m = n := h

theorem zro_of {w lo n : Nat} (h : w / 2 ^ lo % 2 ^ n = 0) : zro w lo n = true := by simp [zro, h]

theorem and_of {a b : Bool} (ha : a = true) (hb : b = true) : (a && b) = true := by simp [ha, hb]

theorem tokens_of {w : Nat} {t : Tokens} (h : w / 2 ^ 40 = putTokens t / 2 ^ 40) : tokens w = t := by
  obtain ⟨pv, prod, c0, c1, c2, nc⟩ := t
  have := pv.toNat_lt
  simp only [putTokens, pk] at h
  simp only [tokens, Tokens.mk.injEq]
  exact ⟨flg_of (by omega), fld_of (by omega), fld_of (by omega), fld_of (by omega), fld_of (by omega), fld_of (by omega)⟩

theorem engOpt_of {w : Nat} {o : EngOpt} (h : w / 2 ^ 34 % 2 ^ 6 = putEngOpt o / 2 ^ 34) : engOpt w = o := by
  obtain ⟨e, b, ab⟩ := o
  have := e.toNat_lt
  have := b.toNat_lt
  simp only [putEngOpt, pk] at h
  simp only [engOpt, EngOpt.mk.injEq]
  exact ⟨flg_of (by omega), flg_of (by omega), fld_of (by omega)⟩

/-- A token field lies in bits 40 and up; bit 63 is none of it. -/
theorem putTokens_lt (t : Tokens) : putTokens t < 2 ^ 63 := by
  have := t.pv.toNat_lt
  simp only [putTokens, pk]
  omega

theorem putTokens_low (t : Tokens) : putTokens t % 2 ^ 40 = 0 := by
  simp only [putTokens, pk]
  omega

theorem putEngOpt_lt (o : EngOpt) : putEngOpt o < 2 ^ 40 := by
  have := o.e.toNat_lt
  have := o.b.toNat_lt
  simp only [putEngOpt, pk]
  omega

theorem putEngOpt_low (o : EngOpt) : putEngOpt o % 2 ^ 34 = 0 := by
  simp only [putEngOpt, pk]
  omega

theorem off26_of {w : Nat} {o : BitVec 26} (h : w % 2 ^ 22 + w / 2 ^ 32 % 16 * 2 ^ 22 = o.toNat) : off26 w = o :=
  BitVec.eq_of_toNat_eq (by simp only [off26, h, BitVec.toNat_ofNat]; omega)

theorem bTest_of {w lo leaf : Nat} {t : BTest} (h : w / 2 ^ lo % 64 = t.v.toNat * 32 + t.n.toNat * 16 + t.p.val)
    (hl : w / 2 ^ leaf % 8 = t.leaf.val) : bTest w lo leaf = t := by
  obtain ⟨v, n, p, l⟩ := t
  have := v.toNat_lt
  have := n.toNat_lt
  simp only at h hl
  simp only [bTest, BTest.mk.injEq]
  refine ⟨flg_of ?_, flg_of ?_, fld_of ?_, fld_of hl⟩
  · rw [Nat.pow_add, ← Nat.div_div_eq_div_mul]; omega
  · rw [Nat.pow_add, ← Nat.div_div_eq_div_mul]; omega
  · omega

/-- The header parcel gives its fields back. -/
theorem header_of (h : Header) : decodeHeader (encodeHeader h) = some h := by
  have hx : ∀ w, encodeHeader h = w → decodeHeader w = some h := by
    intro w hw
    obtain ⟨p, g, i, l, sp, lx⟩ := h
    simp only [encodeHeader] at hw
    have := sp.toNat_lt
    have hs : flg w 31 = true := flg_of (b := true) (by simp only [Bool.toNat_true]; omega)
    simp only [decodeHeader, hs, if_true, Option.some.injEq, Header.mk.injEq]
    exact ⟨bvf_of (by omega), fld_of (by omega), fld_of (by omega), fld_of (by omega), flg_of (by omega), bvf_of (by omega)⟩
  exact hx _ rfl

theorem header_row {h : Header} {i : Instr} (k : ∀ w, decodeHeader w = some h → decodeHeaderInstr w = some i) :
    decodeCode (.header (encodeHeader h)) = some i := k _ (header_of h)

/-! ## One lemma per constructor -/

theorem gapBundle (hd : Header) : Statement (.gapBundle hd) := by
  intro code hc wf
  obtain rfl := Option.some.inj hc
  replace wf : (hd.ok && decide (hd.p = 0)) = true := wf
  simp only [Bool.and_eq_true, decide_eq_true_eq] at wf
  exact header_row fun _ e => by simp [decodeHeaderInstr, e, wf]

theorem skippedBundle (hd : Header) : Statement (.skippedBundle hd) := by
  intro code hc wf
  obtain rfl := Option.some.inj hc
  replace wf : (hd.ok && decide (hd.p ≠ 0) && decide (hd.i ≠ 0)) = true := wf
  simp only [Bool.and_eq_true, decide_eq_true_eq] at wf
  exact header_row fun _ e => by simp only [decodeHeaderInstr, e, wf.1.1, wf.1.2, wf.2, if_true, if_false, ne_eq, not_false_eq_true]

theorem add (d : SR) (a : SR) (b : SR) : Statement (.add d a b) := by
  intro code hc _
  obtain rfl := Option.some.inj hc
  refine ofSC [(0, 128, 7), (b.val, 32, 5), (a.val, 32, 5), (d.val, 32, 5), (0, 64, 6)] (by simp only [cat, pk]; ring)
    ⟨⟨by decide, rfl⟩, ⟨b.isLt, rfl⟩, ⟨a.isLt, rfl⟩, ⟨d.isLt, rfl⟩, ⟨by decide, rfl⟩, trivial⟩ fun w at_ => ?_
  have h1 : w / 2 ^ 22 % 64 = 0 := at_ 4
  have h2 : w / 2 ^ 0 % 128 = 0 := at_ 0
  have e0 : fld 32 w 17 = d := fld_of (at_ 3)
  have e1 : fld 32 w 12 = a := fld_of (at_ 2)
  have e2 : fld 32 w 7 = b := fld_of (at_ 1)
  unfold decodeSC
  rw [h1, h2]
  exact congrArg Except.ok (by rw [e0, e1, e2])

theorem sub (d : SR) (a : SR) (b : SR) : Statement (.sub d a b) := by
  intro code hc _
  obtain rfl := Option.some.inj hc
  refine ofSC [(1, 128, 7), (b.val, 32, 5), (a.val, 32, 5), (d.val, 32, 5), (0, 64, 6)] (by simp only [cat, pk]; ring)
    ⟨⟨by decide, rfl⟩, ⟨b.isLt, rfl⟩, ⟨a.isLt, rfl⟩, ⟨d.isLt, rfl⟩, ⟨by decide, rfl⟩, trivial⟩ fun w at_ => ?_
  have h1 : w / 2 ^ 22 % 64 = 0 := at_ 4
  have h2 : w / 2 ^ 0 % 128 = 1 := at_ 0
  have e0 : fld 32 w 17 = d := fld_of (at_ 3)
  have e1 : fld 32 w 12 = a := fld_of (at_ 2)
  have e2 : fld 32 w 7 = b := fld_of (at_ 1)
  unfold decodeSC
  rw [h1, h2]
  exact congrArg Except.ok (by rw [e0, e1, e2])

theorem andS (d : SR) (a : SR) (b : SR) : Statement (.andS d a b) := by
  intro code hc _
  obtain rfl := Option.some.inj hc
  refine ofSC [(2, 128, 7), (b.val, 32, 5), (a.val, 32, 5), (d.val, 32, 5), (0, 64, 6)] (by simp only [cat, pk]; ring)
    ⟨⟨by decide, rfl⟩, ⟨b.isLt, rfl⟩, ⟨a.isLt, rfl⟩, ⟨d.isLt, rfl⟩, ⟨by decide, rfl⟩, trivial⟩ fun w at_ => ?_
  have h1 : w / 2 ^ 22 % 64 = 0 := at_ 4
  have h2 : w / 2 ^ 0 % 128 = 2 := at_ 0
  have e0 : fld 32 w 17 = d := fld_of (at_ 3)
  have e1 : fld 32 w 12 = a := fld_of (at_ 2)
  have e2 : fld 32 w 7 = b := fld_of (at_ 1)
  unfold decodeSC
  rw [h1, h2]
  exact congrArg Except.ok (by rw [e0, e1, e2])

theorem orS (d : SR) (a : SR) (b : SR) : Statement (.orS d a b) := by
  intro code hc _
  obtain rfl := Option.some.inj hc
  refine ofSC [(3, 128, 7), (b.val, 32, 5), (a.val, 32, 5), (d.val, 32, 5), (0, 64, 6)] (by simp only [cat, pk]; ring)
    ⟨⟨by decide, rfl⟩, ⟨b.isLt, rfl⟩, ⟨a.isLt, rfl⟩, ⟨d.isLt, rfl⟩, ⟨by decide, rfl⟩, trivial⟩ fun w at_ => ?_
  have h1 : w / 2 ^ 22 % 64 = 0 := at_ 4
  have h2 : w / 2 ^ 0 % 128 = 3 := at_ 0
  have e0 : fld 32 w 17 = d := fld_of (at_ 3)
  have e1 : fld 32 w 12 = a := fld_of (at_ 2)
  have e2 : fld 32 w 7 = b := fld_of (at_ 1)
  unfold decodeSC
  rw [h1, h2]
  exact congrArg Except.ok (by rw [e0, e1, e2])

theorem xorS (d : SR) (a : SR) (b : SR) : Statement (.xorS d a b) := by
  intro code hc _
  obtain rfl := Option.some.inj hc
  refine ofSC [(4, 128, 7), (b.val, 32, 5), (a.val, 32, 5), (d.val, 32, 5), (0, 64, 6)] (by simp only [cat, pk]; ring)
    ⟨⟨by decide, rfl⟩, ⟨b.isLt, rfl⟩, ⟨a.isLt, rfl⟩, ⟨d.isLt, rfl⟩, ⟨by decide, rfl⟩, trivial⟩ fun w at_ => ?_
  have h1 : w / 2 ^ 22 % 64 = 0 := at_ 4
  have h2 : w / 2 ^ 0 % 128 = 4 := at_ 0
  have e0 : fld 32 w 17 = d := fld_of (at_ 3)
  have e1 : fld 32 w 12 = a := fld_of (at_ 2)
  have e2 : fld 32 w 7 = b := fld_of (at_ 1)
  unfold decodeSC
  rw [h1, h2]
  exact congrArg Except.ok (by rw [e0, e1, e2])

theorem andn (d : SR) (a : SR) (b : SR) : Statement (.andn d a b) := by
  intro code hc _
  obtain rfl := Option.some.inj hc
  refine ofSC [(5, 128, 7), (b.val, 32, 5), (a.val, 32, 5), (d.val, 32, 5), (0, 64, 6)] (by simp only [cat, pk]; ring)
    ⟨⟨by decide, rfl⟩, ⟨b.isLt, rfl⟩, ⟨a.isLt, rfl⟩, ⟨d.isLt, rfl⟩, ⟨by decide, rfl⟩, trivial⟩ fun w at_ => ?_
  have h1 : w / 2 ^ 22 % 64 = 0 := at_ 4
  have h2 : w / 2 ^ 0 % 128 = 5 := at_ 0
  have e0 : fld 32 w 17 = d := fld_of (at_ 3)
  have e1 : fld 32 w 12 = a := fld_of (at_ 2)
  have e2 : fld 32 w 7 = b := fld_of (at_ 1)
  unfold decodeSC
  rw [h1, h2]
  exact congrArg Except.ok (by rw [e0, e1, e2])

theorem shl (d : SR) (a : SR) (b : SR) : Statement (.shl d a b) := by
  intro code hc _
  obtain rfl := Option.some.inj hc
  refine ofSC [(6, 128, 7), (b.val, 32, 5), (a.val, 32, 5), (d.val, 32, 5), (0, 64, 6)] (by simp only [cat, pk]; ring)
    ⟨⟨by decide, rfl⟩, ⟨b.isLt, rfl⟩, ⟨a.isLt, rfl⟩, ⟨d.isLt, rfl⟩, ⟨by decide, rfl⟩, trivial⟩ fun w at_ => ?_
  have h1 : w / 2 ^ 22 % 64 = 0 := at_ 4
  have h2 : w / 2 ^ 0 % 128 = 6 := at_ 0
  have e0 : fld 32 w 17 = d := fld_of (at_ 3)
  have e1 : fld 32 w 12 = a := fld_of (at_ 2)
  have e2 : fld 32 w 7 = b := fld_of (at_ 1)
  unfold decodeSC
  rw [h1, h2]
  exact congrArg Except.ok (by rw [e0, e1, e2])

theorem shr (d : SR) (a : SR) (b : SR) : Statement (.shr d a b) := by
  intro code hc _
  obtain rfl := Option.some.inj hc
  refine ofSC [(7, 128, 7), (b.val, 32, 5), (a.val, 32, 5), (d.val, 32, 5), (0, 64, 6)] (by simp only [cat, pk]; ring)
    ⟨⟨by decide, rfl⟩, ⟨b.isLt, rfl⟩, ⟨a.isLt, rfl⟩, ⟨d.isLt, rfl⟩, ⟨by decide, rfl⟩, trivial⟩ fun w at_ => ?_
  have h1 : w / 2 ^ 22 % 64 = 0 := at_ 4
  have h2 : w / 2 ^ 0 % 128 = 7 := at_ 0
  have e0 : fld 32 w 17 = d := fld_of (at_ 3)
  have e1 : fld 32 w 12 = a := fld_of (at_ 2)
  have e2 : fld 32 w 7 = b := fld_of (at_ 1)
  unfold decodeSC
  rw [h1, h2]
  exact congrArg Except.ok (by rw [e0, e1, e2])

theorem sha (d : SR) (a : SR) (b : SR) : Statement (.sha d a b) := by
  intro code hc _
  obtain rfl := Option.some.inj hc
  refine ofSC [(8, 128, 7), (b.val, 32, 5), (a.val, 32, 5), (d.val, 32, 5), (0, 64, 6)] (by simp only [cat, pk]; ring)
    ⟨⟨by decide, rfl⟩, ⟨b.isLt, rfl⟩, ⟨a.isLt, rfl⟩, ⟨d.isLt, rfl⟩, ⟨by decide, rfl⟩, trivial⟩ fun w at_ => ?_
  have h1 : w / 2 ^ 22 % 64 = 0 := at_ 4
  have h2 : w / 2 ^ 0 % 128 = 8 := at_ 0
  have e0 : fld 32 w 17 = d := fld_of (at_ 3)
  have e1 : fld 32 w 12 = a := fld_of (at_ 2)
  have e2 : fld 32 w 7 = b := fld_of (at_ 1)
  unfold decodeSC
  rw [h1, h2]
  exact congrArg Except.ok (by rw [e0, e1, e2])

theorem rotl (d : SR) (a : SR) (b : SR) : Statement (.rotl d a b) := by
  intro code hc _
  obtain rfl := Option.some.inj hc
  refine ofSC [(9, 128, 7), (b.val, 32, 5), (a.val, 32, 5), (d.val, 32, 5), (0, 64, 6)] (by simp only [cat, pk]; ring)
    ⟨⟨by decide, rfl⟩, ⟨b.isLt, rfl⟩, ⟨a.isLt, rfl⟩, ⟨d.isLt, rfl⟩, ⟨by decide, rfl⟩, trivial⟩ fun w at_ => ?_
  have h1 : w / 2 ^ 22 % 64 = 0 := at_ 4
  have h2 : w / 2 ^ 0 % 128 = 9 := at_ 0
  have e0 : fld 32 w 17 = d := fld_of (at_ 3)
  have e1 : fld 32 w 12 = a := fld_of (at_ 2)
  have e2 : fld 32 w 7 = b := fld_of (at_ 1)
  unfold decodeSC
  rw [h1, h2]
  exact congrArg Except.ok (by rw [e0, e1, e2])

theorem minS (d : SR) (a : SR) (b : SR) : Statement (.minS d a b) := by
  intro code hc _
  obtain rfl := Option.some.inj hc
  refine ofSC [(10, 128, 7), (b.val, 32, 5), (a.val, 32, 5), (d.val, 32, 5), (0, 64, 6)] (by simp only [cat, pk]; ring)
    ⟨⟨by decide, rfl⟩, ⟨b.isLt, rfl⟩, ⟨a.isLt, rfl⟩, ⟨d.isLt, rfl⟩, ⟨by decide, rfl⟩, trivial⟩ fun w at_ => ?_
  have h1 : w / 2 ^ 22 % 64 = 0 := at_ 4
  have h2 : w / 2 ^ 0 % 128 = 10 := at_ 0
  have e0 : fld 32 w 17 = d := fld_of (at_ 3)
  have e1 : fld 32 w 12 = a := fld_of (at_ 2)
  have e2 : fld 32 w 7 = b := fld_of (at_ 1)
  unfold decodeSC
  rw [h1, h2]
  exact congrArg Except.ok (by rw [e0, e1, e2])

theorem maxS (d : SR) (a : SR) (b : SR) : Statement (.maxS d a b) := by
  intro code hc _
  obtain rfl := Option.some.inj hc
  refine ofSC [(11, 128, 7), (b.val, 32, 5), (a.val, 32, 5), (d.val, 32, 5), (0, 64, 6)] (by simp only [cat, pk]; ring)
    ⟨⟨by decide, rfl⟩, ⟨b.isLt, rfl⟩, ⟨a.isLt, rfl⟩, ⟨d.isLt, rfl⟩, ⟨by decide, rfl⟩, trivial⟩ fun w at_ => ?_
  have h1 : w / 2 ^ 22 % 64 = 0 := at_ 4
  have h2 : w / 2 ^ 0 % 128 = 11 := at_ 0
  have e0 : fld 32 w 17 = d := fld_of (at_ 3)
  have e1 : fld 32 w 12 = a := fld_of (at_ 2)
  have e2 : fld 32 w 7 = b := fld_of (at_ 1)
  unfold decodeSC
  rw [h1, h2]
  exact congrArg Except.ok (by rw [e0, e1, e2])

theorem minz (d : SR) (a : SR) (b : SR) : Statement (.minz d a b) := by
  intro code hc _
  obtain rfl := Option.some.inj hc
  refine ofSC [(12, 128, 7), (b.val, 32, 5), (a.val, 32, 5), (d.val, 32, 5), (0, 64, 6)] (by simp only [cat, pk]; ring)
    ⟨⟨by decide, rfl⟩, ⟨b.isLt, rfl⟩, ⟨a.isLt, rfl⟩, ⟨d.isLt, rfl⟩, ⟨by decide, rfl⟩, trivial⟩ fun w at_ => ?_
  have h1 : w / 2 ^ 22 % 64 = 0 := at_ 4
  have h2 : w / 2 ^ 0 % 128 = 12 := at_ 0
  have e0 : fld 32 w 17 = d := fld_of (at_ 3)
  have e1 : fld 32 w 12 = a := fld_of (at_ 2)
  have e2 : fld 32 w 7 = b := fld_of (at_ 1)
  unfold decodeSC
  rw [h1, h2]
  exact congrArg Except.ok (by rw [e0, e1, e2])

theorem maxz (d : SR) (a : SR) (b : SR) : Statement (.maxz d a b) := by
  intro code hc _
  obtain rfl := Option.some.inj hc
  refine ofSC [(13, 128, 7), (b.val, 32, 5), (a.val, 32, 5), (d.val, 32, 5), (0, 64, 6)] (by simp only [cat, pk]; ring)
    ⟨⟨by decide, rfl⟩, ⟨b.isLt, rfl⟩, ⟨a.isLt, rfl⟩, ⟨d.isLt, rfl⟩, ⟨by decide, rfl⟩, trivial⟩ fun w at_ => ?_
  have h1 : w / 2 ^ 22 % 64 = 0 := at_ 4
  have h2 : w / 2 ^ 0 % 128 = 13 := at_ 0
  have e0 : fld 32 w 17 = d := fld_of (at_ 3)
  have e1 : fld 32 w 12 = a := fld_of (at_ 2)
  have e2 : fld 32 w 7 = b := fld_of (at_ 1)
  unfold decodeSC
  rw [h1, h2]
  exact congrArg Except.ok (by rw [e0, e1, e2])

theorem mul (d : SR) (a : SR) (b : SR) : Statement (.mul d a b) := by
  intro code hc _
  obtain rfl := Option.some.inj hc
  refine ofSC [(14, 128, 7), (b.val, 32, 5), (a.val, 32, 5), (d.val, 32, 5), (0, 64, 6)] (by simp only [cat, pk]; ring)
    ⟨⟨by decide, rfl⟩, ⟨b.isLt, rfl⟩, ⟨a.isLt, rfl⟩, ⟨d.isLt, rfl⟩, ⟨by decide, rfl⟩, trivial⟩ fun w at_ => ?_
  have h1 : w / 2 ^ 22 % 64 = 0 := at_ 4
  have h2 : w / 2 ^ 0 % 128 = 14 := at_ 0
  have e0 : fld 32 w 17 = d := fld_of (at_ 3)
  have e1 : fld 32 w 12 = a := fld_of (at_ 2)
  have e2 : fld 32 w 7 = b := fld_of (at_ 1)
  unfold decodeSC
  rw [h1, h2]
  exact congrArg Except.ok (by rw [e0, e1, e2])

theorem mulh (d : SR) (a : SR) (b : SR) : Statement (.mulh d a b) := by
  intro code hc _
  obtain rfl := Option.some.inj hc
  refine ofSC [(15, 128, 7), (b.val, 32, 5), (a.val, 32, 5), (d.val, 32, 5), (0, 64, 6)] (by simp only [cat, pk]; ring)
    ⟨⟨by decide, rfl⟩, ⟨b.isLt, rfl⟩, ⟨a.isLt, rfl⟩, ⟨d.isLt, rfl⟩, ⟨by decide, rfl⟩, trivial⟩ fun w at_ => ?_
  have h1 : w / 2 ^ 22 % 64 = 0 := at_ 4
  have h2 : w / 2 ^ 0 % 128 = 15 := at_ 0
  have e0 : fld 32 w 17 = d := fld_of (at_ 3)
  have e1 : fld 32 w 12 = a := fld_of (at_ 2)
  have e2 : fld 32 w 7 = b := fld_of (at_ 1)
  unfold decodeSC
  rw [h1, h2]
  exact congrArg Except.ok (by rw [e0, e1, e2])

theorem mulhz (d : SR) (a : SR) (b : SR) : Statement (.mulhz d a b) := by
  intro code hc _
  obtain rfl := Option.some.inj hc
  refine ofSC [(16, 128, 7), (b.val, 32, 5), (a.val, 32, 5), (d.val, 32, 5), (0, 64, 6)] (by simp only [cat, pk]; ring)
    ⟨⟨by decide, rfl⟩, ⟨b.isLt, rfl⟩, ⟨a.isLt, rfl⟩, ⟨d.isLt, rfl⟩, ⟨by decide, rfl⟩, trivial⟩ fun w at_ => ?_
  have h1 : w / 2 ^ 22 % 64 = 0 := at_ 4
  have h2 : w / 2 ^ 0 % 128 = 16 := at_ 0
  have e0 : fld 32 w 17 = d := fld_of (at_ 3)
  have e1 : fld 32 w 12 = a := fld_of (at_ 2)
  have e2 : fld 32 w 7 = b := fld_of (at_ 1)
  unfold decodeSC
  rw [h1, h2]
  exact congrArg Except.ok (by rw [e0, e1, e2])

theorem divS (d : SR) (a : SR) (b : SR) : Statement (.divS d a b) := by
  intro code hc _
  obtain rfl := Option.some.inj hc
  refine ofSC [(17, 128, 7), (b.val, 32, 5), (a.val, 32, 5), (d.val, 32, 5), (0, 64, 6)] (by simp only [cat, pk]; ring)
    ⟨⟨by decide, rfl⟩, ⟨b.isLt, rfl⟩, ⟨a.isLt, rfl⟩, ⟨d.isLt, rfl⟩, ⟨by decide, rfl⟩, trivial⟩ fun w at_ => ?_
  have h1 : w / 2 ^ 22 % 64 = 0 := at_ 4
  have h2 : w / 2 ^ 0 % 128 = 17 := at_ 0
  have e0 : fld 32 w 17 = d := fld_of (at_ 3)
  have e1 : fld 32 w 12 = a := fld_of (at_ 2)
  have e2 : fld 32 w 7 = b := fld_of (at_ 1)
  unfold decodeSC
  rw [h1, h2]
  exact congrArg Except.ok (by rw [e0, e1, e2])

theorem divz (d : SR) (a : SR) (b : SR) : Statement (.divz d a b) := by
  intro code hc _
  obtain rfl := Option.some.inj hc
  refine ofSC [(18, 128, 7), (b.val, 32, 5), (a.val, 32, 5), (d.val, 32, 5), (0, 64, 6)] (by simp only [cat, pk]; ring)
    ⟨⟨by decide, rfl⟩, ⟨b.isLt, rfl⟩, ⟨a.isLt, rfl⟩, ⟨d.isLt, rfl⟩, ⟨by decide, rfl⟩, trivial⟩ fun w at_ => ?_
  have h1 : w / 2 ^ 22 % 64 = 0 := at_ 4
  have h2 : w / 2 ^ 0 % 128 = 18 := at_ 0
  have e0 : fld 32 w 17 = d := fld_of (at_ 3)
  have e1 : fld 32 w 12 = a := fld_of (at_ 2)
  have e2 : fld 32 w 7 = b := fld_of (at_ 1)
  unfold decodeSC
  rw [h1, h2]
  exact congrArg Except.ok (by rw [e0, e1, e2])

theorem remS (d : SR) (a : SR) (b : SR) : Statement (.remS d a b) := by
  intro code hc _
  obtain rfl := Option.some.inj hc
  refine ofSC [(19, 128, 7), (b.val, 32, 5), (a.val, 32, 5), (d.val, 32, 5), (0, 64, 6)] (by simp only [cat, pk]; ring)
    ⟨⟨by decide, rfl⟩, ⟨b.isLt, rfl⟩, ⟨a.isLt, rfl⟩, ⟨d.isLt, rfl⟩, ⟨by decide, rfl⟩, trivial⟩ fun w at_ => ?_
  have h1 : w / 2 ^ 22 % 64 = 0 := at_ 4
  have h2 : w / 2 ^ 0 % 128 = 19 := at_ 0
  have e0 : fld 32 w 17 = d := fld_of (at_ 3)
  have e1 : fld 32 w 12 = a := fld_of (at_ 2)
  have e2 : fld 32 w 7 = b := fld_of (at_ 1)
  unfold decodeSC
  rw [h1, h2]
  exact congrArg Except.ok (by rw [e0, e1, e2])

theorem remz (d : SR) (a : SR) (b : SR) : Statement (.remz d a b) := by
  intro code hc _
  obtain rfl := Option.some.inj hc
  refine ofSC [(20, 128, 7), (b.val, 32, 5), (a.val, 32, 5), (d.val, 32, 5), (0, 64, 6)] (by simp only [cat, pk]; ring)
    ⟨⟨by decide, rfl⟩, ⟨b.isLt, rfl⟩, ⟨a.isLt, rfl⟩, ⟨d.isLt, rfl⟩, ⟨by decide, rfl⟩, trivial⟩ fun w at_ => ?_
  have h1 : w / 2 ^ 22 % 64 = 0 := at_ 4
  have h2 : w / 2 ^ 0 % 128 = 20 := at_ 0
  have e0 : fld 32 w 17 = d := fld_of (at_ 3)
  have e1 : fld 32 w 12 = a := fld_of (at_ 2)
  have e2 : fld 32 w 7 = b := fld_of (at_ 1)
  unfold decodeSC
  rw [h1, h2]
  exact congrArg Except.ok (by rw [e0, e1, e2])

theorem clz (d : SR) (a : SR) : Statement (.clz d a) := by
  intro code hc _
  obtain rfl := Option.some.inj hc
  refine ofSC [(21, 128, 7), (0, 2 ^ 5, 5), (a.val, 32, 5), (d.val, 32, 5), (0, 64, 6)] (by simp only [cat, pk]; ring)
    ⟨⟨by decide, rfl⟩, ⟨by decide, rfl⟩, ⟨a.isLt, rfl⟩, ⟨d.isLt, rfl⟩, ⟨by decide, rfl⟩, trivial⟩ fun w at_ => ?_
  have h1 : w / 2 ^ 22 % 64 = 0 := at_ 4
  have h2 : w / 2 ^ 0 % 128 = 21 := at_ 0
  have e0 : fld 32 w 17 = d := fld_of (at_ 3)
  have e1 : fld 32 w 12 = a := fld_of (at_ 2)
  unfold decodeSC
  rw [h1, h2]
  exact need_of (zro_of (at_ 1)) (by rw [e0, e1])

theorem ctz (d : SR) (a : SR) : Statement (.ctz d a) := by
  intro code hc _
  obtain rfl := Option.some.inj hc
  refine ofSC [(22, 128, 7), (0, 2 ^ 5, 5), (a.val, 32, 5), (d.val, 32, 5), (0, 64, 6)] (by simp only [cat, pk]; ring)
    ⟨⟨by decide, rfl⟩, ⟨by decide, rfl⟩, ⟨a.isLt, rfl⟩, ⟨d.isLt, rfl⟩, ⟨by decide, rfl⟩, trivial⟩ fun w at_ => ?_
  have h1 : w / 2 ^ 22 % 64 = 0 := at_ 4
  have h2 : w / 2 ^ 0 % 128 = 22 := at_ 0
  have e0 : fld 32 w 17 = d := fld_of (at_ 3)
  have e1 : fld 32 w 12 = a := fld_of (at_ 2)
  unfold decodeSC
  rw [h1, h2]
  exact need_of (zro_of (at_ 1)) (by rw [e0, e1])

theorem popc (d : SR) (a : SR) : Statement (.popc d a) := by
  intro code hc _
  obtain rfl := Option.some.inj hc
  refine ofSC [(23, 128, 7), (0, 2 ^ 5, 5), (a.val, 32, 5), (d.val, 32, 5), (0, 64, 6)] (by simp only [cat, pk]; ring)
    ⟨⟨by decide, rfl⟩, ⟨by decide, rfl⟩, ⟨a.isLt, rfl⟩, ⟨d.isLt, rfl⟩, ⟨by decide, rfl⟩, trivial⟩ fun w at_ => ?_
  have h1 : w / 2 ^ 22 % 64 = 0 := at_ 4
  have h2 : w / 2 ^ 0 % 128 = 23 := at_ 0
  have e0 : fld 32 w 17 = d := fld_of (at_ 3)
  have e1 : fld 32 w 12 = a := fld_of (at_ 2)
  unfold decodeSC
  rw [h1, h2]
  exact need_of (zro_of (at_ 1)) (by rw [e0, e1])

theorem sextb (d : SR) (a : SR) : Statement (.sextb d a) := by
  intro code hc _
  obtain rfl := Option.some.inj hc
  refine ofSC [(24, 128, 7), (0, 2 ^ 5, 5), (a.val, 32, 5), (d.val, 32, 5), (0, 64, 6)] (by simp only [cat, pk]; ring)
    ⟨⟨by decide, rfl⟩, ⟨by decide, rfl⟩, ⟨a.isLt, rfl⟩, ⟨d.isLt, rfl⟩, ⟨by decide, rfl⟩, trivial⟩ fun w at_ => ?_
  have h1 : w / 2 ^ 22 % 64 = 0 := at_ 4
  have h2 : w / 2 ^ 0 % 128 = 24 := at_ 0
  have e0 : fld 32 w 17 = d := fld_of (at_ 3)
  have e1 : fld 32 w 12 = a := fld_of (at_ 2)
  unfold decodeSC
  rw [h1, h2]
  exact need_of (zro_of (at_ 1)) (by rw [e0, e1])

theorem sexth (d : SR) (a : SR) : Statement (.sexth d a) := by
  intro code hc _
  obtain rfl := Option.some.inj hc
  refine ofSC [(25, 128, 7), (0, 2 ^ 5, 5), (a.val, 32, 5), (d.val, 32, 5), (0, 64, 6)] (by simp only [cat, pk]; ring)
    ⟨⟨by decide, rfl⟩, ⟨by decide, rfl⟩, ⟨a.isLt, rfl⟩, ⟨d.isLt, rfl⟩, ⟨by decide, rfl⟩, trivial⟩ fun w at_ => ?_
  have h1 : w / 2 ^ 22 % 64 = 0 := at_ 4
  have h2 : w / 2 ^ 0 % 128 = 25 := at_ 0
  have e0 : fld 32 w 17 = d := fld_of (at_ 3)
  have e1 : fld 32 w 12 = a := fld_of (at_ 2)
  unfold decodeSC
  rw [h1, h2]
  exact need_of (zro_of (at_ 1)) (by rw [e0, e1])

theorem sextw (d : SR) (a : SR) : Statement (.sextw d a) := by
  intro code hc _
  obtain rfl := Option.some.inj hc
  refine ofSC [(26, 128, 7), (0, 2 ^ 5, 5), (a.val, 32, 5), (d.val, 32, 5), (0, 64, 6)] (by simp only [cat, pk]; ring)
    ⟨⟨by decide, rfl⟩, ⟨by decide, rfl⟩, ⟨a.isLt, rfl⟩, ⟨d.isLt, rfl⟩, ⟨by decide, rfl⟩, trivial⟩ fun w at_ => ?_
  have h1 : w / 2 ^ 22 % 64 = 0 := at_ 4
  have h2 : w / 2 ^ 0 % 128 = 26 := at_ 0
  have e0 : fld 32 w 17 = d := fld_of (at_ 3)
  have e1 : fld 32 w 12 = a := fld_of (at_ 2)
  unfold decodeSC
  rw [h1, h2]
  exact need_of (zro_of (at_ 1)) (by rw [e0, e1])

theorem addi (d : SR) (a : SR) (imm : BitVec 12) : Statement (.addi d a imm) := by
  intro code hc _
  obtain rfl := Option.some.inj hc
  refine ofSC [(imm.toNat, 2 ^ 12, 12), (a.val, 32, 5), (d.val, 32, 5), (1, 64, 6)] (by simp only [cat, pk]; ring)
    ⟨⟨imm.isLt, rfl⟩, ⟨a.isLt, rfl⟩, ⟨d.isLt, rfl⟩, ⟨by decide, rfl⟩, trivial⟩ fun w at_ => ?_
  have h1 : w / 2 ^ 22 % 64 = 1 := at_ 3
  have e0 : fld 32 w 17 = d := fld_of (at_ 2)
  have e1 : fld 32 w 12 = a := fld_of (at_ 1)
  have e2 : bvf 12 w 0 = imm := bvf_of (at_ 0)
  unfold decodeSC
  rw [h1]
  exact congrArg Except.ok (by rw [e0, e1, e2])

theorem andi (d : SR) (a : SR) (imm : BitVec 12) : Statement (.andi d a imm) := by
  intro code hc _
  obtain rfl := Option.some.inj hc
  refine ofSC [(imm.toNat, 2 ^ 12, 12), (a.val, 32, 5), (d.val, 32, 5), (2, 64, 6)] (by simp only [cat, pk]; ring)
    ⟨⟨imm.isLt, rfl⟩, ⟨a.isLt, rfl⟩, ⟨d.isLt, rfl⟩, ⟨by decide, rfl⟩, trivial⟩ fun w at_ => ?_
  have h1 : w / 2 ^ 22 % 64 = 2 := at_ 3
  have e0 : fld 32 w 17 = d := fld_of (at_ 2)
  have e1 : fld 32 w 12 = a := fld_of (at_ 1)
  have e2 : bvf 12 w 0 = imm := bvf_of (at_ 0)
  unfold decodeSC
  rw [h1]
  exact congrArg Except.ok (by rw [e0, e1, e2])

theorem ori (d : SR) (a : SR) (imm : BitVec 12) : Statement (.ori d a imm) := by
  intro code hc _
  obtain rfl := Option.some.inj hc
  refine ofSC [(imm.toNat, 2 ^ 12, 12), (a.val, 32, 5), (d.val, 32, 5), (3, 64, 6)] (by simp only [cat, pk]; ring)
    ⟨⟨imm.isLt, rfl⟩, ⟨a.isLt, rfl⟩, ⟨d.isLt, rfl⟩, ⟨by decide, rfl⟩, trivial⟩ fun w at_ => ?_
  have h1 : w / 2 ^ 22 % 64 = 3 := at_ 3
  have e0 : fld 32 w 17 = d := fld_of (at_ 2)
  have e1 : fld 32 w 12 = a := fld_of (at_ 1)
  have e2 : bvf 12 w 0 = imm := bvf_of (at_ 0)
  unfold decodeSC
  rw [h1]
  exact congrArg Except.ok (by rw [e0, e1, e2])

theorem xori (d : SR) (a : SR) (imm : BitVec 12) : Statement (.xori d a imm) := by
  intro code hc _
  obtain rfl := Option.some.inj hc
  refine ofSC [(imm.toNat, 2 ^ 12, 12), (a.val, 32, 5), (d.val, 32, 5), (4, 64, 6)] (by simp only [cat, pk]; ring)
    ⟨⟨imm.isLt, rfl⟩, ⟨a.isLt, rfl⟩, ⟨d.isLt, rfl⟩, ⟨by decide, rfl⟩, trivial⟩ fun w at_ => ?_
  have h1 : w / 2 ^ 22 % 64 = 4 := at_ 3
  have e0 : fld 32 w 17 = d := fld_of (at_ 2)
  have e1 : fld 32 w 12 = a := fld_of (at_ 1)
  have e2 : bvf 12 w 0 = imm := bvf_of (at_ 0)
  unfold decodeSC
  rw [h1]
  exact congrArg Except.ok (by rw [e0, e1, e2])

theorem shli (d : SR) (a : SR) (n : BitVec 6) : Statement (.shli d a n) := by
  intro code hc _
  obtain rfl := Option.some.inj hc
  refine ofSC [(n.toNat, 2 ^ 6, 6), (0, 2 ^ 6, 6), (a.val, 32, 5), (d.val, 32, 5), (5, 64, 6)] (by simp only [cat, pk]; ring)
    ⟨⟨n.isLt, rfl⟩, ⟨by decide, rfl⟩, ⟨a.isLt, rfl⟩, ⟨d.isLt, rfl⟩, ⟨by decide, rfl⟩, trivial⟩ fun w at_ => ?_
  have h1 : w / 2 ^ 22 % 64 = 5 := at_ 4
  have e0 : fld 32 w 17 = d := fld_of (at_ 3)
  have e1 : fld 32 w 12 = a := fld_of (at_ 2)
  have e2 : bvf 6 w 0 = n := bvf_of (at_ 0)
  unfold decodeSC
  rw [h1]
  exact need_of (zro_of (at_ 1)) (by rw [e0, e1, e2])

theorem shri (d : SR) (a : SR) (n : BitVec 6) : Statement (.shri d a n) := by
  intro code hc _
  obtain rfl := Option.some.inj hc
  refine ofSC [(n.toNat, 2 ^ 6, 6), (0, 2 ^ 6, 6), (a.val, 32, 5), (d.val, 32, 5), (6, 64, 6)] (by simp only [cat, pk]; ring)
    ⟨⟨n.isLt, rfl⟩, ⟨by decide, rfl⟩, ⟨a.isLt, rfl⟩, ⟨d.isLt, rfl⟩, ⟨by decide, rfl⟩, trivial⟩ fun w at_ => ?_
  have h1 : w / 2 ^ 22 % 64 = 6 := at_ 4
  have e0 : fld 32 w 17 = d := fld_of (at_ 3)
  have e1 : fld 32 w 12 = a := fld_of (at_ 2)
  have e2 : bvf 6 w 0 = n := bvf_of (at_ 0)
  unfold decodeSC
  rw [h1]
  exact need_of (zro_of (at_ 1)) (by rw [e0, e1, e2])

theorem shai (d : SR) (a : SR) (n : BitVec 6) : Statement (.shai d a n) := by
  intro code hc _
  obtain rfl := Option.some.inj hc
  refine ofSC [(n.toNat, 2 ^ 6, 6), (0, 2 ^ 6, 6), (a.val, 32, 5), (d.val, 32, 5), (7, 64, 6)] (by simp only [cat, pk]; ring)
    ⟨⟨n.isLt, rfl⟩, ⟨by decide, rfl⟩, ⟨a.isLt, rfl⟩, ⟨d.isLt, rfl⟩, ⟨by decide, rfl⟩, trivial⟩ fun w at_ => ?_
  have h1 : w / 2 ^ 22 % 64 = 7 := at_ 4
  have e0 : fld 32 w 17 = d := fld_of (at_ 3)
  have e1 : fld 32 w 12 = a := fld_of (at_ 2)
  have e2 : bvf 6 w 0 = n := bvf_of (at_ 0)
  unfold decodeSC
  rw [h1]
  exact need_of (zro_of (at_ 1)) (by rw [e0, e1, e2])

theorem li (d : SR) (imm : BitVec 17) : Statement (.li d imm) := by
  intro code hc _
  obtain rfl := Option.some.inj hc
  refine ofSC [(imm.toNat, 2 ^ 17, 17), (d.val, 32, 5), (8, 64, 6)] (by simp only [cat, pk]; ring)
    ⟨⟨imm.isLt, rfl⟩, ⟨d.isLt, rfl⟩, ⟨by decide, rfl⟩, trivial⟩ fun w at_ => ?_
  have h1 : w / 2 ^ 22 % 64 = 8 := at_ 2
  have e0 : fld 32 w 17 = d := fld_of (at_ 1)
  have e1 : bvf 17 w 0 = imm := bvf_of (at_ 0)
  unfold decodeSC
  rw [h1]
  exact congrArg Except.ok (by rw [e0, e1])

theorem lis (d : SR) (imm : BitVec 17) : Statement (.lis d imm) := by
  intro code hc _
  obtain rfl := Option.some.inj hc
  refine ofSC [(imm.toNat, 2 ^ 17, 17), (d.val, 32, 5), (9, 64, 6)] (by simp only [cat, pk]; ring)
    ⟨⟨imm.isLt, rfl⟩, ⟨d.isLt, rfl⟩, ⟨by decide, rfl⟩, trivial⟩ fun w at_ => ?_
  have h1 : w / 2 ^ 22 % 64 = 9 := at_ 2
  have e0 : fld 32 w 17 = d := fld_of (at_ 1)
  have e1 : bvf 17 w 0 = imm := bvf_of (at_ 0)
  unfold decodeSC
  rw [h1]
  exact congrArg Except.ok (by rw [e0, e1])

theorem cmp (cond : Fin 8) (pd : PR) (a : SR) (b : SR) : Statement (.cmp cond pd a b) := by
  intro code hc _
  obtain rfl := Option.some.inj hc
  refine ofSC [(cond.val, 8, 3), (0, 2 ^ 4, 4), (b.val, 32, 5), (a.val, 32, 5), (0, 2 ^ 1, 1), (pd.val, 16, 4), (10, 64, 6)] (by simp only [cat, pk]; ring)
    ⟨⟨cond.isLt, rfl⟩, ⟨by decide, rfl⟩, ⟨b.isLt, rfl⟩, ⟨a.isLt, rfl⟩, ⟨by decide, rfl⟩, ⟨pd.isLt, rfl⟩, ⟨by decide, rfl⟩, trivial⟩ fun w at_ => ?_
  have h1 : w / 2 ^ 22 % 64 = 10 := at_ 6
  have e0 : fld 8 w 0 = cond := fld_of (at_ 0)
  have e1 : fld 16 w 18 = pd := fld_of (at_ 5)
  have e2 : fld 32 w 12 = a := fld_of (at_ 3)
  have e3 : fld 32 w 7 = b := fld_of (at_ 2)
  unfold decodeSC
  rw [h1]
  exact need_of (and_of (zro_of (at_ 4)) (zro_of (at_ 1))) (by rw [e0, e1, e2, e3])

theorem cmpi (cond : Fin 8) (pd : PR) (a : SR) (imm : BitVec 10) : Statement (.cmpi cond pd a imm) := by
  intro code hc _
  obtain rfl := Option.some.inj hc
  refine ofSC [(imm.toNat, 2 ^ 10, 10), (a.val, 32, 5), (cond.val, 8, 3), (pd.val, 16, 4), (11, 64, 6)] (by simp only [cat, pk]; ring)
    ⟨⟨imm.isLt, rfl⟩, ⟨a.isLt, rfl⟩, ⟨cond.isLt, rfl⟩, ⟨pd.isLt, rfl⟩, ⟨by decide, rfl⟩, trivial⟩ fun w at_ => ?_
  have h1 : w / 2 ^ 22 % 64 = 11 := at_ 4
  have e0 : fld 8 w 15 = cond := fld_of (at_ 2)
  have e1 : fld 16 w 18 = pd := fld_of (at_ 3)
  have e2 : fld 32 w 10 = a := fld_of (at_ 1)
  have e3 : bvf 10 w 0 = imm := bvf_of (at_ 0)
  unfold decodeSC
  rw [h1]
  exact congrArg Except.ok (by rw [e0, e1, e2, e3])

theorem pand (pd : PR) (pa : PR) (pb : PR) : Statement (.pand pd pa pb) := by
  intro code hc _
  obtain rfl := Option.some.inj hc
  refine ofSC [(0, 8, 3), (0, 2 ^ 5, 5), (pb.val, 16, 4), (0, 2 ^ 1, 1), (pa.val, 16, 4), (0, 2 ^ 1, 1), (pd.val, 16, 4), (12, 64, 6)] (by simp only [cat, pk]; ring)
    ⟨⟨by decide, rfl⟩, ⟨by decide, rfl⟩, ⟨pb.isLt, rfl⟩, ⟨by decide, rfl⟩, ⟨pa.isLt, rfl⟩, ⟨by decide, rfl⟩, ⟨pd.isLt, rfl⟩, ⟨by decide, rfl⟩, trivial⟩ fun w at_ => ?_
  have h1 : w / 2 ^ 22 % 64 = 12 := at_ 7
  have h2 : w / 2 ^ 0 % 8 = 0 := at_ 0
  have e0 : fld 16 w 18 = pd := fld_of (at_ 6)
  have e1 : fld 16 w 13 = pa := fld_of (at_ 4)
  have e2 : fld 16 w 8 = pb := fld_of (at_ 2)
  unfold decodeSC
  rw [h1, h2]
  exact need_of (and_of (and_of (zro_of (at_ 5)) (zro_of (at_ 3))) (zro_of (at_ 1))) (by rw [e0, e1, e2])

theorem por (pd : PR) (pa : PR) (pb : PR) : Statement (.por pd pa pb) := by
  intro code hc _
  obtain rfl := Option.some.inj hc
  refine ofSC [(1, 8, 3), (0, 2 ^ 5, 5), (pb.val, 16, 4), (0, 2 ^ 1, 1), (pa.val, 16, 4), (0, 2 ^ 1, 1), (pd.val, 16, 4), (12, 64, 6)] (by simp only [cat, pk]; ring)
    ⟨⟨by decide, rfl⟩, ⟨by decide, rfl⟩, ⟨pb.isLt, rfl⟩, ⟨by decide, rfl⟩, ⟨pa.isLt, rfl⟩, ⟨by decide, rfl⟩, ⟨pd.isLt, rfl⟩, ⟨by decide, rfl⟩, trivial⟩ fun w at_ => ?_
  have h1 : w / 2 ^ 22 % 64 = 12 := at_ 7
  have h2 : w / 2 ^ 0 % 8 = 1 := at_ 0
  have e0 : fld 16 w 18 = pd := fld_of (at_ 6)
  have e1 : fld 16 w 13 = pa := fld_of (at_ 4)
  have e2 : fld 16 w 8 = pb := fld_of (at_ 2)
  unfold decodeSC
  rw [h1, h2]
  exact need_of (and_of (and_of (zro_of (at_ 5)) (zro_of (at_ 3))) (zro_of (at_ 1))) (by rw [e0, e1, e2])

theorem pxor (pd : PR) (pa : PR) (pb : PR) : Statement (.pxor pd pa pb) := by
  intro code hc _
  obtain rfl := Option.some.inj hc
  refine ofSC [(2, 8, 3), (0, 2 ^ 5, 5), (pb.val, 16, 4), (0, 2 ^ 1, 1), (pa.val, 16, 4), (0, 2 ^ 1, 1), (pd.val, 16, 4), (12, 64, 6)] (by simp only [cat, pk]; ring)
    ⟨⟨by decide, rfl⟩, ⟨by decide, rfl⟩, ⟨pb.isLt, rfl⟩, ⟨by decide, rfl⟩, ⟨pa.isLt, rfl⟩, ⟨by decide, rfl⟩, ⟨pd.isLt, rfl⟩, ⟨by decide, rfl⟩, trivial⟩ fun w at_ => ?_
  have h1 : w / 2 ^ 22 % 64 = 12 := at_ 7
  have h2 : w / 2 ^ 0 % 8 = 2 := at_ 0
  have e0 : fld 16 w 18 = pd := fld_of (at_ 6)
  have e1 : fld 16 w 13 = pa := fld_of (at_ 4)
  have e2 : fld 16 w 8 = pb := fld_of (at_ 2)
  unfold decodeSC
  rw [h1, h2]
  exact need_of (and_of (and_of (zro_of (at_ 5)) (zro_of (at_ 3))) (zro_of (at_ 1))) (by rw [e0, e1, e2])

theorem pandn (pd : PR) (pa : PR) (pb : PR) : Statement (.pandn pd pa pb) := by
  intro code hc _
  obtain rfl := Option.some.inj hc
  refine ofSC [(3, 8, 3), (0, 2 ^ 5, 5), (pb.val, 16, 4), (0, 2 ^ 1, 1), (pa.val, 16, 4), (0, 2 ^ 1, 1), (pd.val, 16, 4), (12, 64, 6)] (by simp only [cat, pk]; ring)
    ⟨⟨by decide, rfl⟩, ⟨by decide, rfl⟩, ⟨pb.isLt, rfl⟩, ⟨by decide, rfl⟩, ⟨pa.isLt, rfl⟩, ⟨by decide, rfl⟩, ⟨pd.isLt, rfl⟩, ⟨by decide, rfl⟩, trivial⟩ fun w at_ => ?_
  have h1 : w / 2 ^ 22 % 64 = 12 := at_ 7
  have h2 : w / 2 ^ 0 % 8 = 3 := at_ 0
  have e0 : fld 16 w 18 = pd := fld_of (at_ 6)
  have e1 : fld 16 w 13 = pa := fld_of (at_ 4)
  have e2 : fld 16 w 8 = pb := fld_of (at_ 2)
  unfold decodeSC
  rw [h1, h2]
  exact need_of (and_of (and_of (zro_of (at_ 5)) (zro_of (at_ 3))) (zro_of (at_ 1))) (by rw [e0, e1, e2])

theorem pnot (pd : PR) (pa : PR) : Statement (.pnot pd pa) := by
  intro code hc _
  obtain rfl := Option.some.inj hc
  refine ofSC [(4, 8, 3), (0, 2 ^ 10, 10), (pa.val, 16, 4), (0, 2 ^ 1, 1), (pd.val, 16, 4), (12, 64, 6)] (by simp only [cat, pk]; ring)
    ⟨⟨by decide, rfl⟩, ⟨by decide, rfl⟩, ⟨pa.isLt, rfl⟩, ⟨by decide, rfl⟩, ⟨pd.isLt, rfl⟩, ⟨by decide, rfl⟩, trivial⟩ fun w at_ => ?_
  have h1 : w / 2 ^ 22 % 64 = 12 := at_ 5
  have h2 : w / 2 ^ 0 % 8 = 4 := at_ 0
  have e0 : fld 16 w 18 = pd := fld_of (at_ 4)
  have e1 : fld 16 w 13 = pa := fld_of (at_ 2)
  unfold decodeSC
  rw [h1, h2]
  exact need_of (and_of (zro_of (at_ 3)) (zro_of (at_ 1))) (by rw [e0, e1])

theorem pmov (pd : PR) (pa : PR) : Statement (.pmov pd pa) := by
  intro code hc _
  obtain rfl := Option.some.inj hc
  refine ofSC [(5, 8, 3), (0, 2 ^ 10, 10), (pa.val, 16, 4), (0, 2 ^ 1, 1), (pd.val, 16, 4), (12, 64, 6)] (by simp only [cat, pk]; ring)
    ⟨⟨by decide, rfl⟩, ⟨by decide, rfl⟩, ⟨pa.isLt, rfl⟩, ⟨by decide, rfl⟩, ⟨pd.isLt, rfl⟩, ⟨by decide, rfl⟩, trivial⟩ fun w at_ => ?_
  have h1 : w / 2 ^ 22 % 64 = 12 := at_ 5
  have h2 : w / 2 ^ 0 % 8 = 5 := at_ 0
  have e0 : fld 16 w 18 = pd := fld_of (at_ 4)
  have e1 : fld 16 w 13 = pa := fld_of (at_ 2)
  unfold decodeSC
  rw [h1, h2]
  exact need_of (and_of (zro_of (at_ 3)) (zro_of (at_ 1))) (by rw [e0, e1])

theorem sel (d : SR) (a : SR) (b : SR) (p : PR) : Statement (.sel d a b p) := by
  intro code hc _
  obtain rfl := Option.some.inj hc
  refine ofSC [(0, 2 ^ 3, 3), (p.val, 16, 4), (b.val, 32, 5), (a.val, 32, 5), (d.val, 32, 5), (13, 64, 6)] (by simp only [cat, pk]; ring)
    ⟨⟨by decide, rfl⟩, ⟨p.isLt, rfl⟩, ⟨b.isLt, rfl⟩, ⟨a.isLt, rfl⟩, ⟨d.isLt, rfl⟩, ⟨by decide, rfl⟩, trivial⟩ fun w at_ => ?_
  have h1 : w / 2 ^ 22 % 64 = 13 := at_ 5
  have e0 : fld 32 w 17 = d := fld_of (at_ 4)
  have e1 : fld 32 w 12 = a := fld_of (at_ 3)
  have e2 : fld 32 w 7 = b := fld_of (at_ 2)
  have e3 : fld 16 w 3 = p := fld_of (at_ 1)
  unfold decodeSC
  rw [h1]
  exact need_of (zro_of (at_ 0)) (by rw [e0, e1, e2, e3])

theorem aadd (ad : AR) (aa : AR) (s : SR) : Statement (.aadd ad aa s) := by
  intro code hc _
  obtain rfl := Option.some.inj hc
  refine ofSC [(0, 4, 2), (0, 2 ^ 5, 5), (s.val, 32, 5), (0, 2 ^ 1, 1), (aa.val, 16, 4), (0, 2 ^ 1, 1), (ad.val, 16, 4), (14, 64, 6)] (by simp only [cat, pk]; ring)
    ⟨⟨by decide, rfl⟩, ⟨by decide, rfl⟩, ⟨s.isLt, rfl⟩, ⟨by decide, rfl⟩, ⟨aa.isLt, rfl⟩, ⟨by decide, rfl⟩, ⟨ad.isLt, rfl⟩, ⟨by decide, rfl⟩, trivial⟩ fun w at_ => ?_
  have h1 : w / 2 ^ 22 % 64 = 14 := at_ 7
  have h2 : w / 2 ^ 0 % 4 = 0 := at_ 0
  have e0 : fld 16 w 18 = ad := fld_of (at_ 6)
  have e1 : fld 16 w 13 = aa := fld_of (at_ 4)
  have e2 : fld 32 w 7 = s := fld_of (at_ 2)
  unfold decodeSC
  rw [h1, h2]
  exact need_of (and_of (and_of (zro_of (at_ 5)) (zro_of (at_ 3))) (zro_of (at_ 1))) (by rw [e0, e1, e2])

theorem asub (ad : AR) (aa : AR) (s : SR) : Statement (.asub ad aa s) := by
  intro code hc _
  obtain rfl := Option.some.inj hc
  refine ofSC [(1, 4, 2), (0, 2 ^ 5, 5), (s.val, 32, 5), (0, 2 ^ 1, 1), (aa.val, 16, 4), (0, 2 ^ 1, 1), (ad.val, 16, 4), (14, 64, 6)] (by simp only [cat, pk]; ring)
    ⟨⟨by decide, rfl⟩, ⟨by decide, rfl⟩, ⟨s.isLt, rfl⟩, ⟨by decide, rfl⟩, ⟨aa.isLt, rfl⟩, ⟨by decide, rfl⟩, ⟨ad.isLt, rfl⟩, ⟨by decide, rfl⟩, trivial⟩ fun w at_ => ?_
  have h1 : w / 2 ^ 22 % 64 = 14 := at_ 7
  have h2 : w / 2 ^ 0 % 4 = 1 := at_ 0
  have e0 : fld 16 w 18 = ad := fld_of (at_ 6)
  have e1 : fld 16 w 13 = aa := fld_of (at_ 4)
  have e2 : fld 32 w 7 = s := fld_of (at_ 2)
  unfold decodeSC
  rw [h1, h2]
  exact need_of (and_of (and_of (zro_of (at_ 5)) (zro_of (at_ 3))) (zro_of (at_ 1))) (by rw [e0, e1, e2])

theorem amovs (ad : AR) (s : SR) : Statement (.amovs ad s) := by
  intro code hc _
  obtain rfl := Option.some.inj hc
  refine ofSC [(2, 4, 2), (0, 2 ^ 10, 10), (s.val, 32, 5), (0, 2 ^ 1, 1), (ad.val, 16, 4), (14, 64, 6)] (by simp only [cat, pk]; ring)
    ⟨⟨by decide, rfl⟩, ⟨by decide, rfl⟩, ⟨s.isLt, rfl⟩, ⟨by decide, rfl⟩, ⟨ad.isLt, rfl⟩, ⟨by decide, rfl⟩, trivial⟩ fun w at_ => ?_
  have h1 : w / 2 ^ 22 % 64 = 14 := at_ 5
  have h2 : w / 2 ^ 0 % 4 = 2 := at_ 0
  have e0 : fld 16 w 18 = ad := fld_of (at_ 4)
  have e1 : fld 32 w 12 = s := fld_of (at_ 2)
  unfold decodeSC
  rw [h1, h2]
  exact need_of (and_of (zro_of (at_ 3)) (zro_of (at_ 1))) (by rw [e0, e1])

theorem smova (d : SR) (aa : AR) : Statement (.smova d aa) := by
  intro code hc _
  obtain rfl := Option.some.inj hc
  refine wordSC fun w hw => ?_
  simp only [pk] at hw
  have h1 := op_of (w := w) (n := 14) (by omega)
  have e0 : fld 32 w 17 = d := fld_of (by omega)
  have e1 : fld 16 w 13 = aa := fld_of (by omega)
  have h2 : w / 2 ^ 0 % 4 = 3 := by omega
  unfold decodeSC
  rw [h1, h2]
  exact need_of (zro_of (by omega)) (by rw [e0, e1])

theorem aaddi (ad : AR) (aa : AR) (imm : BitVec 12) : Statement (.aaddi ad aa imm) := by
  intro code hc _
  obtain rfl := Option.some.inj hc
  refine ofSC [(imm.toNat, 2 ^ 12, 12), (0, 2 ^ 1, 1), (aa.val, 16, 4), (0, 2 ^ 1, 1), (ad.val, 16, 4), (15, 64, 6)] (by simp only [cat, pk]; ring)
    ⟨⟨imm.isLt, rfl⟩, ⟨by decide, rfl⟩, ⟨aa.isLt, rfl⟩, ⟨by decide, rfl⟩, ⟨ad.isLt, rfl⟩, ⟨by decide, rfl⟩, trivial⟩ fun w at_ => ?_
  have h1 : w / 2 ^ 22 % 64 = 15 := at_ 5
  have e0 : fld 16 w 18 = ad := fld_of (at_ 4)
  have e1 : fld 16 w 13 = aa := fld_of (at_ 2)
  have e2 : bvf 12 w 0 = imm := bvf_of (at_ 0)
  unfold decodeSC
  rw [h1]
  exact need_of (and_of (zro_of (at_ 3)) (zro_of (at_ 1))) (by rw [e0, e1, e2])

theorem astride (a : AR) (level : Fin 8) (imm : BitVec 15) : Statement (.astride a level imm) := by
  intro code hc _
  obtain rfl := Option.some.inj hc
  refine ofSC [(imm.toNat, 2 ^ 15, 15), (level.val, 8, 3), (a.val, 16, 4), (16, 64, 6)] (by simp only [cat, pk]; ring)
    ⟨⟨imm.isLt, rfl⟩, ⟨level.isLt, rfl⟩, ⟨a.isLt, rfl⟩, ⟨by decide, rfl⟩, trivial⟩ fun w at_ => ?_
  have h1 : w / 2 ^ 22 % 64 = 16 := at_ 3
  have e0 : fld 16 w 18 = a := fld_of (at_ 2)
  have e1 : fld 8 w 15 = level := fld_of (at_ 1)
  have e2 : bvf 15 w 0 = imm := bvf_of (at_ 0)
  unfold decodeSC
  rw [h1]
  exact congrArg Except.ok (by rw [e0, e1, e2])

theorem movx (d : SR) (sel : Fin 16) : Statement (.movx d sel) := by
  intro code hc _
  obtain rfl := Option.some.inj hc
  refine ofSC [(sel.val, 16, 4), (0, 2 ^ 13, 13), (d.val, 32, 5), (17, 64, 6)] (by simp only [cat, pk]; ring)
    ⟨⟨sel.isLt, rfl⟩, ⟨by decide, rfl⟩, ⟨d.isLt, rfl⟩, ⟨by decide, rfl⟩, trivial⟩ fun w at_ => ?_
  have h1 : w / 2 ^ 22 % 64 = 17 := at_ 3
  have e0 : fld 32 w 17 = d := fld_of (at_ 2)
  have e1 : fld 16 w 0 = sel := fld_of (at_ 0)
  unfold decodeSC
  rw [h1]
  exact need_of (zro_of (at_ 1)) (by rw [e0, e1])

theorem fadd (d : SR) (a : SR) (b : SR) : Statement (.fadd d a b) := by
  intro code hc _
  obtain rfl := Option.some.inj hc
  refine ofSC [(0, 128, 7), (b.val, 32, 5), (a.val, 32, 5), (d.val, 32, 5), (18, 64, 6)] (by simp only [cat, pk]; ring)
    ⟨⟨by decide, rfl⟩, ⟨b.isLt, rfl⟩, ⟨a.isLt, rfl⟩, ⟨d.isLt, rfl⟩, ⟨by decide, rfl⟩, trivial⟩ fun w at_ => ?_
  have h1 : w / 2 ^ 22 % 64 = 18 := at_ 4
  have h2 : w / 2 ^ 0 % 128 = 0 := at_ 0
  have e0 : fld 32 w 17 = d := fld_of (at_ 3)
  have e1 : fld 32 w 12 = a := fld_of (at_ 2)
  have e2 : fld 32 w 7 = b := fld_of (at_ 1)
  unfold decodeSC
  rw [h1, h2]
  exact congrArg Except.ok (by rw [e0, e1, e2])

theorem fsub (d : SR) (a : SR) (b : SR) : Statement (.fsub d a b) := by
  intro code hc _
  obtain rfl := Option.some.inj hc
  refine ofSC [(1, 128, 7), (b.val, 32, 5), (a.val, 32, 5), (d.val, 32, 5), (18, 64, 6)] (by simp only [cat, pk]; ring)
    ⟨⟨by decide, rfl⟩, ⟨b.isLt, rfl⟩, ⟨a.isLt, rfl⟩, ⟨d.isLt, rfl⟩, ⟨by decide, rfl⟩, trivial⟩ fun w at_ => ?_
  have h1 : w / 2 ^ 22 % 64 = 18 := at_ 4
  have h2 : w / 2 ^ 0 % 128 = 1 := at_ 0
  have e0 : fld 32 w 17 = d := fld_of (at_ 3)
  have e1 : fld 32 w 12 = a := fld_of (at_ 2)
  have e2 : fld 32 w 7 = b := fld_of (at_ 1)
  unfold decodeSC
  rw [h1, h2]
  exact congrArg Except.ok (by rw [e0, e1, e2])

theorem fmul (d : SR) (a : SR) (b : SR) : Statement (.fmul d a b) := by
  intro code hc _
  obtain rfl := Option.some.inj hc
  refine ofSC [(2, 128, 7), (b.val, 32, 5), (a.val, 32, 5), (d.val, 32, 5), (18, 64, 6)] (by simp only [cat, pk]; ring)
    ⟨⟨by decide, rfl⟩, ⟨b.isLt, rfl⟩, ⟨a.isLt, rfl⟩, ⟨d.isLt, rfl⟩, ⟨by decide, rfl⟩, trivial⟩ fun w at_ => ?_
  have h1 : w / 2 ^ 22 % 64 = 18 := at_ 4
  have h2 : w / 2 ^ 0 % 128 = 2 := at_ 0
  have e0 : fld 32 w 17 = d := fld_of (at_ 3)
  have e1 : fld 32 w 12 = a := fld_of (at_ 2)
  have e2 : fld 32 w 7 = b := fld_of (at_ 1)
  unfold decodeSC
  rw [h1, h2]
  exact congrArg Except.ok (by rw [e0, e1, e2])

theorem fdiv (d : SR) (a : SR) (b : SR) : Statement (.fdiv d a b) := by
  intro code hc _
  obtain rfl := Option.some.inj hc
  refine ofSC [(3, 128, 7), (b.val, 32, 5), (a.val, 32, 5), (d.val, 32, 5), (18, 64, 6)] (by simp only [cat, pk]; ring)
    ⟨⟨by decide, rfl⟩, ⟨b.isLt, rfl⟩, ⟨a.isLt, rfl⟩, ⟨d.isLt, rfl⟩, ⟨by decide, rfl⟩, trivial⟩ fun w at_ => ?_
  have h1 : w / 2 ^ 22 % 64 = 18 := at_ 4
  have h2 : w / 2 ^ 0 % 128 = 3 := at_ 0
  have e0 : fld 32 w 17 = d := fld_of (at_ 3)
  have e1 : fld 32 w 12 = a := fld_of (at_ 2)
  have e2 : fld 32 w 7 = b := fld_of (at_ 1)
  unfold decodeSC
  rw [h1, h2]
  exact congrArg Except.ok (by rw [e0, e1, e2])

theorem fmin (d : SR) (a : SR) (b : SR) : Statement (.fmin d a b) := by
  intro code hc _
  obtain rfl := Option.some.inj hc
  refine ofSC [(4, 128, 7), (b.val, 32, 5), (a.val, 32, 5), (d.val, 32, 5), (18, 64, 6)] (by simp only [cat, pk]; ring)
    ⟨⟨by decide, rfl⟩, ⟨b.isLt, rfl⟩, ⟨a.isLt, rfl⟩, ⟨d.isLt, rfl⟩, ⟨by decide, rfl⟩, trivial⟩ fun w at_ => ?_
  have h1 : w / 2 ^ 22 % 64 = 18 := at_ 4
  have h2 : w / 2 ^ 0 % 128 = 4 := at_ 0
  have e0 : fld 32 w 17 = d := fld_of (at_ 3)
  have e1 : fld 32 w 12 = a := fld_of (at_ 2)
  have e2 : fld 32 w 7 = b := fld_of (at_ 1)
  unfold decodeSC
  rw [h1, h2]
  exact congrArg Except.ok (by rw [e0, e1, e2])

theorem fmax (d : SR) (a : SR) (b : SR) : Statement (.fmax d a b) := by
  intro code hc _
  obtain rfl := Option.some.inj hc
  refine ofSC [(5, 128, 7), (b.val, 32, 5), (a.val, 32, 5), (d.val, 32, 5), (18, 64, 6)] (by simp only [cat, pk]; ring)
    ⟨⟨by decide, rfl⟩, ⟨b.isLt, rfl⟩, ⟨a.isLt, rfl⟩, ⟨d.isLt, rfl⟩, ⟨by decide, rfl⟩, trivial⟩ fun w at_ => ?_
  have h1 : w / 2 ^ 22 % 64 = 18 := at_ 4
  have h2 : w / 2 ^ 0 % 128 = 5 := at_ 0
  have e0 : fld 32 w 17 = d := fld_of (at_ 3)
  have e1 : fld 32 w 12 = a := fld_of (at_ 2)
  have e2 : fld 32 w 7 = b := fld_of (at_ 1)
  unfold decodeSC
  rw [h1, h2]
  exact congrArg Except.ok (by rw [e0, e1, e2])

theorem fsqrt (d : SR) (a : SR) : Statement (.fsqrt d a) := by
  intro code hc _
  obtain rfl := Option.some.inj hc
  refine ofSC [(6, 128, 7), (0, 2 ^ 5, 5), (a.val, 32, 5), (d.val, 32, 5), (18, 64, 6)] (by simp only [cat, pk]; ring)
    ⟨⟨by decide, rfl⟩, ⟨by decide, rfl⟩, ⟨a.isLt, rfl⟩, ⟨d.isLt, rfl⟩, ⟨by decide, rfl⟩, trivial⟩ fun w at_ => ?_
  have h1 : w / 2 ^ 22 % 64 = 18 := at_ 4
  have h2 : w / 2 ^ 0 % 128 = 6 := at_ 0
  have e0 : fld 32 w 17 = d := fld_of (at_ 3)
  have e1 : fld 32 w 12 = a := fld_of (at_ 2)
  unfold decodeSC
  rw [h1, h2]
  exact need_of (zro_of (at_ 1)) (by rw [e0, e1])

theorem fcvtif (d : SR) (a : SR) : Statement (.fcvtif d a) := by
  intro code hc _
  obtain rfl := Option.some.inj hc
  refine ofSC [(7, 128, 7), (0, 2 ^ 5, 5), (a.val, 32, 5), (d.val, 32, 5), (18, 64, 6)] (by simp only [cat, pk]; ring)
    ⟨⟨by decide, rfl⟩, ⟨by decide, rfl⟩, ⟨a.isLt, rfl⟩, ⟨d.isLt, rfl⟩, ⟨by decide, rfl⟩, trivial⟩ fun w at_ => ?_
  have h1 : w / 2 ^ 22 % 64 = 18 := at_ 4
  have h2 : w / 2 ^ 0 % 128 = 7 := at_ 0
  have e0 : fld 32 w 17 = d := fld_of (at_ 3)
  have e1 : fld 32 w 12 = a := fld_of (at_ 2)
  unfold decodeSC
  rw [h1, h2]
  exact need_of (zro_of (at_ 1)) (by rw [e0, e1])

theorem fcvtfi (d : SR) (a : SR) : Statement (.fcvtfi d a) := by
  intro code hc _
  obtain rfl := Option.some.inj hc
  refine ofSC [(8, 128, 7), (0, 2 ^ 5, 5), (a.val, 32, 5), (d.val, 32, 5), (18, 64, 6)] (by simp only [cat, pk]; ring)
    ⟨⟨by decide, rfl⟩, ⟨by decide, rfl⟩, ⟨a.isLt, rfl⟩, ⟨d.isLt, rfl⟩, ⟨by decide, rfl⟩, trivial⟩ fun w at_ => ?_
  have h1 : w / 2 ^ 22 % 64 = 18 := at_ 4
  have h2 : w / 2 ^ 0 % 128 = 8 := at_ 0
  have e0 : fld 32 w 17 = d := fld_of (at_ 3)
  have e1 : fld 32 w 12 = a := fld_of (at_ 2)
  unfold decodeSC
  rw [h1, h2]
  exact need_of (zro_of (at_ 1)) (by rw [e0, e1])

theorem fcmp (cond : Fin 8) (pd : PR) (a : SR) (b : SR) : Statement (.fcmp cond pd a b) := by
  intro code hc _
  obtain rfl := Option.some.inj hc
  refine ofSC [(cond.val, 8, 3), (0, 2 ^ 4, 4), (b.val, 32, 5), (a.val, 32, 5), (0, 2 ^ 1, 1), (pd.val, 16, 4), (19, 64, 6)] (by simp only [cat, pk]; ring)
    ⟨⟨cond.isLt, rfl⟩, ⟨by decide, rfl⟩, ⟨b.isLt, rfl⟩, ⟨a.isLt, rfl⟩, ⟨by decide, rfl⟩, ⟨pd.isLt, rfl⟩, ⟨by decide, rfl⟩, trivial⟩ fun w at_ => ?_
  have h1 : w / 2 ^ 22 % 64 = 19 := at_ 6
  have e0 : fld 8 w 0 = cond := fld_of (at_ 0)
  have e1 : fld 16 w 18 = pd := fld_of (at_ 5)
  have e2 : fld 32 w 12 = a := fld_of (at_ 3)
  have e3 : fld 32 w 7 = b := fld_of (at_ 2)
  unfold decodeSC
  rw [h1]
  exact need_of (and_of (zro_of (at_ 4)) (zro_of (at_ 1))) (by rw [e0, e1, e2, e3])

theorem btgt (b : BR) (imm : BitVec 19) : Statement (.btgt b imm) := by
  intro code hc _
  obtain rfl := Option.some.inj hc
  refine ofSC [(imm.toNat, 2 ^ 19, 19), (b.val, 8, 3), (20, 64, 6)] (by simp only [cat, pk]; ring)
    ⟨⟨imm.isLt, rfl⟩, ⟨b.isLt, rfl⟩, ⟨by decide, rfl⟩, trivial⟩ fun w at_ => ?_
  have h1 : w / 2 ^ 22 % 64 = 20 := at_ 2
  have e0 : fld 8 w 19 = b := fld_of (at_ 1)
  have e1 : bvf 19 w 0 = imm := bvf_of (at_ 0)
  unfold decodeSC
  rw [h1]
  exact congrArg Except.ok (by rw [e0, e1])

theorem btgta (b : BR) (aa : AR) : Statement (.btgta b aa) := by
  intro code hc _
  obtain rfl := Option.some.inj hc
  refine ofSC [(0, 2 ^ 13, 13), (aa.val, 16, 4), (0, 2 ^ 2, 2), (b.val, 8, 3), (21, 64, 6)] (by simp only [cat, pk]; ring)
    ⟨⟨by decide, rfl⟩, ⟨aa.isLt, rfl⟩, ⟨by decide, rfl⟩, ⟨b.isLt, rfl⟩, ⟨by decide, rfl⟩, trivial⟩ fun w at_ => ?_
  have h1 : w / 2 ^ 22 % 64 = 21 := at_ 4
  have e0 : fld 8 w 19 = b := fld_of (at_ 3)
  have e1 : fld 16 w 13 = aa := fld_of (at_ 1)
  unfold decodeSC
  rw [h1]
  exact need_of (and_of (zro_of (at_ 2)) (zro_of (at_ 0))) (by rw [e0, e1])

theorem ldb (d : SR) (a : AR) (post : Bool) (off : BitVec 12) : Statement (.ldb d a post off) := by
  intro code hc _
  obtain rfl := Option.some.inj hc
  refine ofLD [(off.toNat, 2 ^ 12, 12), (post.toNat, 2, 1), (a.val, 16, 4), (d.val, 32, 5), (0, 64, 6)] (by simp only [cat, pk]; ring)
    ⟨⟨off.isLt, rfl⟩, ⟨post.toNat_lt, rfl⟩, ⟨a.isLt, rfl⟩, ⟨d.isLt, rfl⟩, ⟨by decide, rfl⟩, trivial⟩ fun w at_ => ?_
  have h1 : w / 2 ^ 22 % 64 = 0 := at_ 4
  have e0 : fld 32 w 17 = d := fld_of (at_ 3)
  have e1 : fld 16 w 13 = a := fld_of (at_ 2)
  have e2 : flg w 12 = post := flg_of (at_ 1)
  have e3 : bvf 12 w 0 = off := bvf_of (at_ 0)
  unfold decodeLD
  rw [h1]
  exact congrArg Except.ok (by rw [e0, e1, e2, e3])

theorem ldbz (d : SR) (a : AR) (post : Bool) (off : BitVec 12) : Statement (.ldbz d a post off) := by
  intro code hc _
  obtain rfl := Option.some.inj hc
  refine ofLD [(off.toNat, 2 ^ 12, 12), (post.toNat, 2, 1), (a.val, 16, 4), (d.val, 32, 5), (1, 64, 6)] (by simp only [cat, pk]; ring)
    ⟨⟨off.isLt, rfl⟩, ⟨post.toNat_lt, rfl⟩, ⟨a.isLt, rfl⟩, ⟨d.isLt, rfl⟩, ⟨by decide, rfl⟩, trivial⟩ fun w at_ => ?_
  have h1 : w / 2 ^ 22 % 64 = 1 := at_ 4
  have e0 : fld 32 w 17 = d := fld_of (at_ 3)
  have e1 : fld 16 w 13 = a := fld_of (at_ 2)
  have e2 : flg w 12 = post := flg_of (at_ 1)
  have e3 : bvf 12 w 0 = off := bvf_of (at_ 0)
  unfold decodeLD
  rw [h1]
  exact congrArg Except.ok (by rw [e0, e1, e2, e3])

theorem ldh (d : SR) (a : AR) (post : Bool) (off : BitVec 12) : Statement (.ldh d a post off) := by
  intro code hc _
  obtain rfl := Option.some.inj hc
  refine ofLD [(off.toNat, 2 ^ 12, 12), (post.toNat, 2, 1), (a.val, 16, 4), (d.val, 32, 5), (2, 64, 6)] (by simp only [cat, pk]; ring)
    ⟨⟨off.isLt, rfl⟩, ⟨post.toNat_lt, rfl⟩, ⟨a.isLt, rfl⟩, ⟨d.isLt, rfl⟩, ⟨by decide, rfl⟩, trivial⟩ fun w at_ => ?_
  have h1 : w / 2 ^ 22 % 64 = 2 := at_ 4
  have e0 : fld 32 w 17 = d := fld_of (at_ 3)
  have e1 : fld 16 w 13 = a := fld_of (at_ 2)
  have e2 : flg w 12 = post := flg_of (at_ 1)
  have e3 : bvf 12 w 0 = off := bvf_of (at_ 0)
  unfold decodeLD
  rw [h1]
  exact congrArg Except.ok (by rw [e0, e1, e2, e3])

theorem ldhz (d : SR) (a : AR) (post : Bool) (off : BitVec 12) : Statement (.ldhz d a post off) := by
  intro code hc _
  obtain rfl := Option.some.inj hc
  refine ofLD [(off.toNat, 2 ^ 12, 12), (post.toNat, 2, 1), (a.val, 16, 4), (d.val, 32, 5), (3, 64, 6)] (by simp only [cat, pk]; ring)
    ⟨⟨off.isLt, rfl⟩, ⟨post.toNat_lt, rfl⟩, ⟨a.isLt, rfl⟩, ⟨d.isLt, rfl⟩, ⟨by decide, rfl⟩, trivial⟩ fun w at_ => ?_
  have h1 : w / 2 ^ 22 % 64 = 3 := at_ 4
  have e0 : fld 32 w 17 = d := fld_of (at_ 3)
  have e1 : fld 16 w 13 = a := fld_of (at_ 2)
  have e2 : flg w 12 = post := flg_of (at_ 1)
  have e3 : bvf 12 w 0 = off := bvf_of (at_ 0)
  unfold decodeLD
  rw [h1]
  exact congrArg Except.ok (by rw [e0, e1, e2, e3])

theorem ldw (d : SR) (a : AR) (post : Bool) (off : BitVec 12) : Statement (.ldw d a post off) := by
  intro code hc _
  obtain rfl := Option.some.inj hc
  refine ofLD [(off.toNat, 2 ^ 12, 12), (post.toNat, 2, 1), (a.val, 16, 4), (d.val, 32, 5), (4, 64, 6)] (by simp only [cat, pk]; ring)
    ⟨⟨off.isLt, rfl⟩, ⟨post.toNat_lt, rfl⟩, ⟨a.isLt, rfl⟩, ⟨d.isLt, rfl⟩, ⟨by decide, rfl⟩, trivial⟩ fun w at_ => ?_
  have h1 : w / 2 ^ 22 % 64 = 4 := at_ 4
  have e0 : fld 32 w 17 = d := fld_of (at_ 3)
  have e1 : fld 16 w 13 = a := fld_of (at_ 2)
  have e2 : flg w 12 = post := flg_of (at_ 1)
  have e3 : bvf 12 w 0 = off := bvf_of (at_ 0)
  unfold decodeLD
  rw [h1]
  exact congrArg Except.ok (by rw [e0, e1, e2, e3])

theorem ldwz (d : SR) (a : AR) (post : Bool) (off : BitVec 12) : Statement (.ldwz d a post off) := by
  intro code hc _
  obtain rfl := Option.some.inj hc
  refine ofLD [(off.toNat, 2 ^ 12, 12), (post.toNat, 2, 1), (a.val, 16, 4), (d.val, 32, 5), (5, 64, 6)] (by simp only [cat, pk]; ring)
    ⟨⟨off.isLt, rfl⟩, ⟨post.toNat_lt, rfl⟩, ⟨a.isLt, rfl⟩, ⟨d.isLt, rfl⟩, ⟨by decide, rfl⟩, trivial⟩ fun w at_ => ?_
  have h1 : w / 2 ^ 22 % 64 = 5 := at_ 4
  have e0 : fld 32 w 17 = d := fld_of (at_ 3)
  have e1 : fld 16 w 13 = a := fld_of (at_ 2)
  have e2 : flg w 12 = post := flg_of (at_ 1)
  have e3 : bvf 12 w 0 = off := bvf_of (at_ 0)
  unfold decodeLD
  rw [h1]
  exact congrArg Except.ok (by rw [e0, e1, e2, e3])

theorem ldd (d : SR) (a : AR) (post : Bool) (off : BitVec 12) : Statement (.ldd d a post off) := by
  intro code hc _
  obtain rfl := Option.some.inj hc
  refine ofLD [(off.toNat, 2 ^ 12, 12), (post.toNat, 2, 1), (a.val, 16, 4), (d.val, 32, 5), (6, 64, 6)] (by simp only [cat, pk]; ring)
    ⟨⟨off.isLt, rfl⟩, ⟨post.toNat_lt, rfl⟩, ⟨a.isLt, rfl⟩, ⟨d.isLt, rfl⟩, ⟨by decide, rfl⟩, trivial⟩ fun w at_ => ?_
  have h1 : w / 2 ^ 22 % 64 = 6 := at_ 4
  have e0 : fld 32 w 17 = d := fld_of (at_ 3)
  have e1 : fld 16 w 13 = a := fld_of (at_ 2)
  have e2 : flg w 12 = post := flg_of (at_ 1)
  have e3 : bvf 12 w 0 = off := bvf_of (at_ 0)
  unfold decodeLD
  rw [h1]
  exact congrArg Except.ok (by rw [e0, e1, e2, e3])

theorem ldv (d : VR) (a : AR) (post : Bool) (off : BitVec 12) : Statement (.ldv d a post off) := by
  intro code hc _
  obtain rfl := Option.some.inj hc
  refine ofLD [(off.toNat, 2 ^ 12, 12), (post.toNat, 2, 1), (a.val, 16, 4), (d.val, 32, 5), (8, 64, 6)] (by simp only [cat, pk]; ring)
    ⟨⟨off.isLt, rfl⟩, ⟨post.toNat_lt, rfl⟩, ⟨a.isLt, rfl⟩, ⟨d.isLt, rfl⟩, ⟨by decide, rfl⟩, trivial⟩ fun w at_ => ?_
  have h1 : w / 2 ^ 22 % 64 = 8 := at_ 4
  have e0 : fld 32 w 17 = d := fld_of (at_ 3)
  have e1 : fld 16 w 13 = a := fld_of (at_ 2)
  have e2 : flg w 12 = post := flg_of (at_ 1)
  have e3 : bvf 12 w 0 = off := bvf_of (at_ 0)
  unfold decodeLD
  rw [h1]
  exact congrArg Except.ok (by rw [e0, e1, e2, e3])

theorem ldvs (d : VR) (a : AR) (post : Bool) (s : SR) (off : BitVec 7) : Statement (.ldvs d a post s off) := by
  intro code hc _
  obtain rfl := Option.some.inj hc
  refine ofLD [(off.toNat, 2 ^ 7, 7), (s.val, 32, 5), (post.toNat, 2, 1), (a.val, 16, 4), (d.val, 32, 5), (9, 64, 6)] (by simp only [cat, pk]; ring)
    ⟨⟨off.isLt, rfl⟩, ⟨s.isLt, rfl⟩, ⟨post.toNat_lt, rfl⟩, ⟨a.isLt, rfl⟩, ⟨d.isLt, rfl⟩, ⟨by decide, rfl⟩, trivial⟩ fun w at_ => ?_
  have h1 : w / 2 ^ 22 % 64 = 9 := at_ 5
  have e0 : fld 32 w 17 = d := fld_of (at_ 4)
  have e1 : fld 16 w 13 = a := fld_of (at_ 3)
  have e2 : flg w 12 = post := flg_of (at_ 2)
  have e3 : fld 32 w 7 = s := fld_of (at_ 1)
  have e4 : bvf 7 w 0 = off := bvf_of (at_ 0)
  unfold decodeLD
  rw [h1]
  exact congrArg Except.ok (by rw [e0, e1, e2, e3, e4])

theorem ldvx (d : VR) (a : AR) (vi : VR) (sc : Fin 4) : Statement (.ldvx d a vi sc) := by
  intro code hc _
  obtain rfl := Option.some.inj hc
  refine ofLD [(0, 2 ^ 5, 5), (sc.val, 4, 2), (vi.val, 32, 5), (0, 2 ^ 1, 1), (a.val, 16, 4), (d.val, 32, 5), (10, 64, 6)] (by simp only [cat, pk]; ring)
    ⟨⟨by decide, rfl⟩, ⟨sc.isLt, rfl⟩, ⟨vi.isLt, rfl⟩, ⟨by decide, rfl⟩, ⟨a.isLt, rfl⟩, ⟨d.isLt, rfl⟩, ⟨by decide, rfl⟩, trivial⟩ fun w at_ => ?_
  have h1 : w / 2 ^ 22 % 64 = 10 := at_ 6
  have e0 : fld 32 w 17 = d := fld_of (at_ 5)
  have e1 : fld 16 w 13 = a := fld_of (at_ 4)
  have e2 : fld 32 w 7 = vi := fld_of (at_ 2)
  have e3 : fld 4 w 5 = sc := fld_of (at_ 1)
  unfold decodeLD
  rw [h1]
  exact need_of (and_of (zro_of (at_ 3)) (zro_of (at_ 0))) (by rw [e0, e1, e2, e3])

theorem ldvb (d : VR) (a : AR) (post : Bool) (off : BitVec 12) : Statement (.ldvb d a post off) := by
  intro code hc _
  obtain rfl := Option.some.inj hc
  refine ofLD [(off.toNat, 2 ^ 12, 12), (post.toNat, 2, 1), (a.val, 16, 4), (d.val, 32, 5), (11, 64, 6)] (by simp only [cat, pk]; ring)
    ⟨⟨off.isLt, rfl⟩, ⟨post.toNat_lt, rfl⟩, ⟨a.isLt, rfl⟩, ⟨d.isLt, rfl⟩, ⟨by decide, rfl⟩, trivial⟩ fun w at_ => ?_
  have h1 : w / 2 ^ 22 % 64 = 11 := at_ 4
  have e0 : fld 32 w 17 = d := fld_of (at_ 3)
  have e1 : fld 16 w 13 = a := fld_of (at_ 2)
  have e2 : flg w 12 = post := flg_of (at_ 1)
  have e3 : bvf 12 w 0 = off := bvf_of (at_ 0)
  unfold decodeLD
  rw [h1]
  exact congrArg Except.ok (by rw [e0, e1, e2, e3])

theorem ldm (d : MR) (a : AR) (post : Bool) (off : BitVec 12) : Statement (.ldm d a post off) := by
  intro code hc _
  obtain rfl := Option.some.inj hc
  refine ofLD [(off.toNat, 2 ^ 12, 12), (post.toNat, 2, 1), (a.val, 16, 4), (d.val, 8, 3), (0, 2 ^ 2, 2), (12, 64, 6)] (by simp only [cat, pk]; ring)
    ⟨⟨off.isLt, rfl⟩, ⟨post.toNat_lt, rfl⟩, ⟨a.isLt, rfl⟩, ⟨d.isLt, rfl⟩, ⟨by decide, rfl⟩, ⟨by decide, rfl⟩, trivial⟩ fun w at_ => ?_
  have h1 : w / 2 ^ 22 % 64 = 12 := at_ 5
  have e0 : fld 8 w 17 = d := fld_of (at_ 3)
  have e1 : fld 16 w 13 = a := fld_of (at_ 2)
  have e2 : flg w 12 = post := flg_of (at_ 1)
  have e3 : bvf 12 w 0 = off := bvf_of (at_ 0)
  unfold decodeLD
  rw [h1]
  exact need_of (zro_of (at_ 4)) (by rw [e0, e1, e2, e3])

theorem ldwt (d : WR) (a : AR) (post : Bool) (off : BitVec 12) : Statement (.ldwt d a post off) := by
  intro code hc _
  obtain rfl := Option.some.inj hc
  refine ofLD [(off.toNat, 2 ^ 12, 12), (post.toNat, 2, 1), (a.val, 16, 4), (d.val, 8, 3), (0, 2 ^ 2, 2), (13, 64, 6)] (by simp only [cat, pk]; ring)
    ⟨⟨off.isLt, rfl⟩, ⟨post.toNat_lt, rfl⟩, ⟨a.isLt, rfl⟩, ⟨d.isLt, rfl⟩, ⟨by decide, rfl⟩, ⟨by decide, rfl⟩, trivial⟩ fun w at_ => ?_
  have h1 : w / 2 ^ 22 % 64 = 13 := at_ 5
  have e0 : fld 8 w 17 = d := fld_of (at_ 3)
  have e1 : fld 16 w 13 = a := fld_of (at_ 2)
  have e2 : flg w 12 = post := flg_of (at_ 1)
  have e3 : bvf 12 w 0 = off := bvf_of (at_ 0)
  unfold decodeLD
  rw [h1]
  exact need_of (zro_of (at_ 4)) (by rw [e0, e1, e2, e3])

theorem ldg (d : SR) (a : AR) (size : Fin 8) (off : BitVec 10) : Statement (.ldg d a size off) := by
  intro code hc _
  obtain rfl := Option.some.inj hc
  refine ofLD [(off.toNat, 2 ^ 10, 10), (size.val, 8, 3), (a.val, 16, 4), (d.val, 32, 5), (16, 64, 6)] (by simp only [cat, pk]; ring)
    ⟨⟨off.isLt, rfl⟩, ⟨size.isLt, rfl⟩, ⟨a.isLt, rfl⟩, ⟨d.isLt, rfl⟩, ⟨by decide, rfl⟩, trivial⟩ fun w at_ => ?_
  have h1 : w / 2 ^ 22 % 64 = 16 := at_ 4
  have e0 : fld 32 w 17 = d := fld_of (at_ 3)
  have e1 : fld 16 w 13 = a := fld_of (at_ 2)
  have e2 : fld 8 w 10 = size := fld_of (at_ 1)
  have e3 : bvf 10 w 0 = off := bvf_of (at_ 0)
  unfold decodeLD
  rw [h1]
  exact congrArg Except.ok (by rw [e0, e1, e2, e3])

theorem ldgv (d : VR) (a : AR) (post : Bool) (off : BitVec 12) : Statement (.ldgv d a post off) := by
  intro code hc _
  obtain rfl := Option.some.inj hc
  refine ofLD [(off.toNat, 2 ^ 12, 12), (post.toNat, 2, 1), (a.val, 16, 4), (d.val, 32, 5), (17, 64, 6)] (by simp only [cat, pk]; ring)
    ⟨⟨off.isLt, rfl⟩, ⟨post.toNat_lt, rfl⟩, ⟨a.isLt, rfl⟩, ⟨d.isLt, rfl⟩, ⟨by decide, rfl⟩, trivial⟩ fun w at_ => ?_
  have h1 : w / 2 ^ 22 % 64 = 17 := at_ 4
  have e0 : fld 32 w 17 = d := fld_of (at_ 3)
  have e1 : fld 16 w 13 = a := fld_of (at_ 2)
  have e2 : flg w 12 = post := flg_of (at_ 1)
  have e3 : bvf 12 w 0 = off := bvf_of (at_ 0)
  unfold decodeLD
  rw [h1]
  exact congrArg Except.ok (by rw [e0, e1, e2, e3])

theorem ldaq (d : SR) (a : AR) (size : Fin 8) (scope : Fin 8) : Statement (.ldaq d a size scope) := by
  intro code hc _
  obtain rfl := Option.some.inj hc
  refine ofLD [(0, 2 ^ 7, 7), (scope.val, 8, 3), (size.val, 8, 3), (a.val, 16, 4), (d.val, 32, 5), (18, 64, 6)] (by simp only [cat, pk]; ring)
    ⟨⟨by decide, rfl⟩, ⟨scope.isLt, rfl⟩, ⟨size.isLt, rfl⟩, ⟨a.isLt, rfl⟩, ⟨d.isLt, rfl⟩, ⟨by decide, rfl⟩, trivial⟩ fun w at_ => ?_
  have h1 : w / 2 ^ 22 % 64 = 18 := at_ 5
  have e0 : fld 32 w 17 = d := fld_of (at_ 4)
  have e1 : fld 16 w 13 = a := fld_of (at_ 3)
  have e2 : fld 8 w 10 = size := fld_of (at_ 2)
  have e3 : fld 8 w 7 = scope := fld_of (at_ 1)
  unfold decodeLD
  rw [h1]
  exact need_of (zro_of (at_ 0)) (by rw [e0, e1, e2, e3])

theorem stb (s : SR) (a : AR) (post : Bool) (off : BitVec 12) : Statement (.stb s a post off) := by
  intro code hc _
  obtain rfl := Option.some.inj hc
  refine ofST [(off.toNat, 2 ^ 12, 12), (post.toNat, 2, 1), (a.val, 16, 4), (s.val, 32, 5), (0, 64, 6)] (by simp only [cat, pk]; ring)
    ⟨⟨off.isLt, rfl⟩, ⟨post.toNat_lt, rfl⟩, ⟨a.isLt, rfl⟩, ⟨s.isLt, rfl⟩, ⟨by decide, rfl⟩, trivial⟩ fun w at_ => ?_
  have h1 : w / 2 ^ 22 % 64 = 0 := at_ 4
  have e0 : fld 32 w 17 = s := fld_of (at_ 3)
  have e1 : fld 16 w 13 = a := fld_of (at_ 2)
  have e2 : flg w 12 = post := flg_of (at_ 1)
  have e3 : bvf 12 w 0 = off := bvf_of (at_ 0)
  unfold decodeST
  rw [h1]
  exact congrArg Except.ok (by rw [e0, e1, e2, e3])

theorem sth (s : SR) (a : AR) (post : Bool) (off : BitVec 12) : Statement (.sth s a post off) := by
  intro code hc _
  obtain rfl := Option.some.inj hc
  refine ofST [(off.toNat, 2 ^ 12, 12), (post.toNat, 2, 1), (a.val, 16, 4), (s.val, 32, 5), (1, 64, 6)] (by simp only [cat, pk]; ring)
    ⟨⟨off.isLt, rfl⟩, ⟨post.toNat_lt, rfl⟩, ⟨a.isLt, rfl⟩, ⟨s.isLt, rfl⟩, ⟨by decide, rfl⟩, trivial⟩ fun w at_ => ?_
  have h1 : w / 2 ^ 22 % 64 = 1 := at_ 4
  have e0 : fld 32 w 17 = s := fld_of (at_ 3)
  have e1 : fld 16 w 13 = a := fld_of (at_ 2)
  have e2 : flg w 12 = post := flg_of (at_ 1)
  have e3 : bvf 12 w 0 = off := bvf_of (at_ 0)
  unfold decodeST
  rw [h1]
  exact congrArg Except.ok (by rw [e0, e1, e2, e3])

theorem stw (s : SR) (a : AR) (post : Bool) (off : BitVec 12) : Statement (.stw s a post off) := by
  intro code hc _
  obtain rfl := Option.some.inj hc
  refine ofST [(off.toNat, 2 ^ 12, 12), (post.toNat, 2, 1), (a.val, 16, 4), (s.val, 32, 5), (2, 64, 6)] (by simp only [cat, pk]; ring)
    ⟨⟨off.isLt, rfl⟩, ⟨post.toNat_lt, rfl⟩, ⟨a.isLt, rfl⟩, ⟨s.isLt, rfl⟩, ⟨by decide, rfl⟩, trivial⟩ fun w at_ => ?_
  have h1 : w / 2 ^ 22 % 64 = 2 := at_ 4
  have e0 : fld 32 w 17 = s := fld_of (at_ 3)
  have e1 : fld 16 w 13 = a := fld_of (at_ 2)
  have e2 : flg w 12 = post := flg_of (at_ 1)
  have e3 : bvf 12 w 0 = off := bvf_of (at_ 0)
  unfold decodeST
  rw [h1]
  exact congrArg Except.ok (by rw [e0, e1, e2, e3])

theorem std (s : SR) (a : AR) (post : Bool) (off : BitVec 12) : Statement (.std s a post off) := by
  intro code hc _
  obtain rfl := Option.some.inj hc
  refine ofST [(off.toNat, 2 ^ 12, 12), (post.toNat, 2, 1), (a.val, 16, 4), (s.val, 32, 5), (3, 64, 6)] (by simp only [cat, pk]; ring)
    ⟨⟨off.isLt, rfl⟩, ⟨post.toNat_lt, rfl⟩, ⟨a.isLt, rfl⟩, ⟨s.isLt, rfl⟩, ⟨by decide, rfl⟩, trivial⟩ fun w at_ => ?_
  have h1 : w / 2 ^ 22 % 64 = 3 := at_ 4
  have e0 : fld 32 w 17 = s := fld_of (at_ 3)
  have e1 : fld 16 w 13 = a := fld_of (at_ 2)
  have e2 : flg w 12 = post := flg_of (at_ 1)
  have e3 : bvf 12 w 0 = off := bvf_of (at_ 0)
  unfold decodeST
  rw [h1]
  exact congrArg Except.ok (by rw [e0, e1, e2, e3])

theorem stv (v : VR) (a : AR) (post : Bool) (off : BitVec 12) : Statement (.stv v a post off) := by
  intro code hc _
  obtain rfl := Option.some.inj hc
  refine ofST [(off.toNat, 2 ^ 12, 12), (post.toNat, 2, 1), (a.val, 16, 4), (v.val, 32, 5), (4, 64, 6)] (by simp only [cat, pk]; ring)
    ⟨⟨off.isLt, rfl⟩, ⟨post.toNat_lt, rfl⟩, ⟨a.isLt, rfl⟩, ⟨v.isLt, rfl⟩, ⟨by decide, rfl⟩, trivial⟩ fun w at_ => ?_
  have h1 : w / 2 ^ 22 % 64 = 4 := at_ 4
  have e0 : fld 32 w 17 = v := fld_of (at_ 3)
  have e1 : fld 16 w 13 = a := fld_of (at_ 2)
  have e2 : flg w 12 = post := flg_of (at_ 1)
  have e3 : bvf 12 w 0 = off := bvf_of (at_ 0)
  unfold decodeST
  rw [h1]
  exact congrArg Except.ok (by rw [e0, e1, e2, e3])

theorem stvm (v : VR) (a : AR) (post : Bool) (m : MR) (off : BitVec 9) : Statement (.stvm v a post m off) := by
  intro code hc _
  obtain rfl := Option.some.inj hc
  refine ofST [(off.toNat, 2 ^ 9, 9), (m.val, 8, 3), (post.toNat, 2, 1), (a.val, 16, 4), (v.val, 32, 5), (5, 64, 6)] (by simp only [cat, pk]; ring)
    ⟨⟨off.isLt, rfl⟩, ⟨m.isLt, rfl⟩, ⟨post.toNat_lt, rfl⟩, ⟨a.isLt, rfl⟩, ⟨v.isLt, rfl⟩, ⟨by decide, rfl⟩, trivial⟩ fun w at_ => ?_
  have h1 : w / 2 ^ 22 % 64 = 5 := at_ 5
  have e0 : fld 32 w 17 = v := fld_of (at_ 4)
  have e1 : fld 16 w 13 = a := fld_of (at_ 3)
  have e2 : flg w 12 = post := flg_of (at_ 2)
  have e3 : fld 8 w 9 = m := fld_of (at_ 1)
  have e4 : bvf 9 w 0 = off := bvf_of (at_ 0)
  unfold decodeST
  rw [h1]
  exact congrArg Except.ok (by rw [e0, e1, e2, e3, e4])

theorem stvs (v : VR) (a : AR) (post : Bool) (s : SR) (off : BitVec 7) : Statement (.stvs v a post s off) := by
  intro code hc _
  obtain rfl := Option.some.inj hc
  refine ofST [(off.toNat, 2 ^ 7, 7), (s.val, 32, 5), (post.toNat, 2, 1), (a.val, 16, 4), (v.val, 32, 5), (6, 64, 6)] (by simp only [cat, pk]; ring)
    ⟨⟨off.isLt, rfl⟩, ⟨s.isLt, rfl⟩, ⟨post.toNat_lt, rfl⟩, ⟨a.isLt, rfl⟩, ⟨v.isLt, rfl⟩, ⟨by decide, rfl⟩, trivial⟩ fun w at_ => ?_
  have h1 : w / 2 ^ 22 % 64 = 6 := at_ 5
  have e0 : fld 32 w 17 = v := fld_of (at_ 4)
  have e1 : fld 16 w 13 = a := fld_of (at_ 3)
  have e2 : flg w 12 = post := flg_of (at_ 2)
  have e3 : fld 32 w 7 = s := fld_of (at_ 1)
  have e4 : bvf 7 w 0 = off := bvf_of (at_ 0)
  unfold decodeST
  rw [h1]
  exact congrArg Except.ok (by rw [e0, e1, e2, e3, e4])

theorem stvx (v : VR) (a : AR) (vi : VR) (sc : Fin 4) : Statement (.stvx v a vi sc) := by
  intro code hc _
  obtain rfl := Option.some.inj hc
  refine ofST [(0, 2 ^ 5, 5), (sc.val, 4, 2), (vi.val, 32, 5), (0, 2 ^ 1, 1), (a.val, 16, 4), (v.val, 32, 5), (7, 64, 6)] (by simp only [cat, pk]; ring)
    ⟨⟨by decide, rfl⟩, ⟨sc.isLt, rfl⟩, ⟨vi.isLt, rfl⟩, ⟨by decide, rfl⟩, ⟨a.isLt, rfl⟩, ⟨v.isLt, rfl⟩, ⟨by decide, rfl⟩, trivial⟩ fun w at_ => ?_
  have h1 : w / 2 ^ 22 % 64 = 7 := at_ 6
  have e0 : fld 32 w 17 = v := fld_of (at_ 5)
  have e1 : fld 16 w 13 = a := fld_of (at_ 4)
  have e2 : fld 32 w 7 = vi := fld_of (at_ 2)
  have e3 : fld 4 w 5 = sc := fld_of (at_ 1)
  unfold decodeST
  rw [h1]
  exact need_of (and_of (zro_of (at_ 3)) (zro_of (at_ 0))) (by rw [e0, e1, e2, e3])

theorem stwt (w1 : WR) (a : AR) (post : Bool) (off : BitVec 12) : Statement (.stwt w1 a post off) := by
  intro code hc _
  obtain rfl := Option.some.inj hc
  refine ofST [(off.toNat, 2 ^ 12, 12), (post.toNat, 2, 1), (a.val, 16, 4), (w1.val, 8, 3), (0, 2 ^ 2, 2), (8, 64, 6)] (by simp only [cat, pk]; ring)
    ⟨⟨off.isLt, rfl⟩, ⟨post.toNat_lt, rfl⟩, ⟨a.isLt, rfl⟩, ⟨w1.isLt, rfl⟩, ⟨by decide, rfl⟩, ⟨by decide, rfl⟩, trivial⟩ fun w at_ => ?_
  have h1 : w / 2 ^ 22 % 64 = 8 := at_ 5
  have e0 : fld 8 w 17 = w1 := fld_of (at_ 3)
  have e1 : fld 16 w 13 = a := fld_of (at_ 2)
  have e2 : flg w 12 = post := flg_of (at_ 1)
  have e3 : bvf 12 w 0 = off := bvf_of (at_ 0)
  unfold decodeST
  rw [h1]
  exact need_of (zro_of (at_ 4)) (by rw [e0, e1, e2, e3])

theorem stm (m : MR) (a : AR) (post : Bool) (off : BitVec 12) : Statement (.stm m a post off) := by
  intro code hc _
  obtain rfl := Option.some.inj hc
  refine ofST [(off.toNat, 2 ^ 12, 12), (post.toNat, 2, 1), (a.val, 16, 4), (m.val, 8, 3), (0, 2 ^ 2, 2), (9, 64, 6)] (by simp only [cat, pk]; ring)
    ⟨⟨off.isLt, rfl⟩, ⟨post.toNat_lt, rfl⟩, ⟨a.isLt, rfl⟩, ⟨m.isLt, rfl⟩, ⟨by decide, rfl⟩, ⟨by decide, rfl⟩, trivial⟩ fun w at_ => ?_
  have h1 : w / 2 ^ 22 % 64 = 9 := at_ 5
  have e0 : fld 8 w 17 = m := fld_of (at_ 3)
  have e1 : fld 16 w 13 = a := fld_of (at_ 2)
  have e2 : flg w 12 = post := flg_of (at_ 1)
  have e3 : bvf 12 w 0 = off := bvf_of (at_ 0)
  unfold decodeST
  rw [h1]
  exact need_of (zro_of (at_ 4)) (by rw [e0, e1, e2, e3])

theorem stg (s : SR) (a : AR) (size : Fin 8) (off : BitVec 10) : Statement (.stg s a size off) := by
  intro code hc _
  obtain rfl := Option.some.inj hc
  refine ofST [(off.toNat, 2 ^ 10, 10), (size.val, 8, 3), (a.val, 16, 4), (s.val, 32, 5), (16, 64, 6)] (by simp only [cat, pk]; ring)
    ⟨⟨off.isLt, rfl⟩, ⟨size.isLt, rfl⟩, ⟨a.isLt, rfl⟩, ⟨s.isLt, rfl⟩, ⟨by decide, rfl⟩, trivial⟩ fun w at_ => ?_
  have h1 : w / 2 ^ 22 % 64 = 16 := at_ 4
  have e0 : fld 32 w 17 = s := fld_of (at_ 3)
  have e1 : fld 16 w 13 = a := fld_of (at_ 2)
  have e2 : fld 8 w 10 = size := fld_of (at_ 1)
  have e3 : bvf 10 w 0 = off := bvf_of (at_ 0)
  unfold decodeST
  rw [h1]
  exact congrArg Except.ok (by rw [e0, e1, e2, e3])

theorem stgv (v : VR) (a : AR) (post : Bool) (off : BitVec 12) : Statement (.stgv v a post off) := by
  intro code hc _
  obtain rfl := Option.some.inj hc
  refine ofST [(off.toNat, 2 ^ 12, 12), (post.toNat, 2, 1), (a.val, 16, 4), (v.val, 32, 5), (17, 64, 6)] (by simp only [cat, pk]; ring)
    ⟨⟨off.isLt, rfl⟩, ⟨post.toNat_lt, rfl⟩, ⟨a.isLt, rfl⟩, ⟨v.isLt, rfl⟩, ⟨by decide, rfl⟩, trivial⟩ fun w at_ => ?_
  have h1 : w / 2 ^ 22 % 64 = 17 := at_ 4
  have e0 : fld 32 w 17 = v := fld_of (at_ 3)
  have e1 : fld 16 w 13 = a := fld_of (at_ 2)
  have e2 : flg w 12 = post := flg_of (at_ 1)
  have e3 : bvf 12 w 0 = off := bvf_of (at_ 0)
  unfold decodeST
  rw [h1]
  exact congrArg Except.ok (by rw [e0, e1, e2, e3])

theorem strl (s : SR) (a : AR) (size : Fin 8) (scope : Fin 8) : Statement (.strl s a size scope) := by
  intro code hc _
  obtain rfl := Option.some.inj hc
  refine ofST [(0, 2 ^ 7, 7), (scope.val, 8, 3), (size.val, 8, 3), (a.val, 16, 4), (s.val, 32, 5), (18, 64, 6)] (by simp only [cat, pk]; ring)
    ⟨⟨by decide, rfl⟩, ⟨scope.isLt, rfl⟩, ⟨size.isLt, rfl⟩, ⟨a.isLt, rfl⟩, ⟨s.isLt, rfl⟩, ⟨by decide, rfl⟩, trivial⟩ fun w at_ => ?_
  have h1 : w / 2 ^ 22 % 64 = 18 := at_ 5
  have e0 : fld 32 w 17 = s := fld_of (at_ 4)
  have e1 : fld 16 w 13 = a := fld_of (at_ 3)
  have e2 : fld 8 w 10 = size := fld_of (at_ 2)
  have e3 : fld 8 w 7 = scope := fld_of (at_ 1)
  unfold decodeST
  rw [h1]
  exact need_of (zro_of (at_ 0)) (by rw [e0, e1, e2, e3])

theorem atomAdd (d : SR) (a : AR) (s : SR) (g : Bool) (z : Bool) (oc : Fin 4) : Statement (.atomAdd d a s g z oc) := by
  intro code hc _
  obtain rfl := Option.some.inj hc
  refine ofST [(oc.val, 4, 2), (z.toNat, 2, 1), (g.toNat, 2, 1), (0, 16, 4), (s.val, 32, 5), (a.val, 16, 4), (d.val, 32, 5), (19, 64, 6)] (by simp only [cat, pk]; ring)
    ⟨⟨oc.isLt, rfl⟩, ⟨z.toNat_lt, rfl⟩, ⟨g.toNat_lt, rfl⟩, ⟨by decide, rfl⟩, ⟨s.isLt, rfl⟩, ⟨a.isLt, rfl⟩, ⟨d.isLt, rfl⟩, ⟨by decide, rfl⟩, trivial⟩ fun w at_ => ?_
  have h1 : w / 2 ^ 22 % 64 = 19 := at_ 7
  have h2 : w / 2 ^ 4 % 16 = 0 := at_ 3
  have e0 : fld 32 w 17 = d := fld_of (at_ 6)
  have e1 : fld 16 w 13 = a := fld_of (at_ 5)
  have e2 : fld 32 w 8 = s := fld_of (at_ 4)
  have e3 : flg w 3 = g := flg_of (at_ 2)
  have e4 : flg w 2 = z := flg_of (at_ 1)
  have e5 : fld 4 w 0 = oc := fld_of (at_ 0)
  unfold decodeST
  rw [h1, h2]
  exact congrArg Except.ok (by rw [e0, e1, e2, e3, e4, e5])

theorem atomAnd (d : SR) (a : AR) (s : SR) (g : Bool) (z : Bool) (oc : Fin 4) : Statement (.atomAnd d a s g z oc) := by
  intro code hc _
  obtain rfl := Option.some.inj hc
  refine ofST [(oc.val, 4, 2), (z.toNat, 2, 1), (g.toNat, 2, 1), (1, 16, 4), (s.val, 32, 5), (a.val, 16, 4), (d.val, 32, 5), (19, 64, 6)] (by simp only [cat, pk]; ring)
    ⟨⟨oc.isLt, rfl⟩, ⟨z.toNat_lt, rfl⟩, ⟨g.toNat_lt, rfl⟩, ⟨by decide, rfl⟩, ⟨s.isLt, rfl⟩, ⟨a.isLt, rfl⟩, ⟨d.isLt, rfl⟩, ⟨by decide, rfl⟩, trivial⟩ fun w at_ => ?_
  have h1 : w / 2 ^ 22 % 64 = 19 := at_ 7
  have h2 : w / 2 ^ 4 % 16 = 1 := at_ 3
  have e0 : fld 32 w 17 = d := fld_of (at_ 6)
  have e1 : fld 16 w 13 = a := fld_of (at_ 5)
  have e2 : fld 32 w 8 = s := fld_of (at_ 4)
  have e3 : flg w 3 = g := flg_of (at_ 2)
  have e4 : flg w 2 = z := flg_of (at_ 1)
  have e5 : fld 4 w 0 = oc := fld_of (at_ 0)
  unfold decodeST
  rw [h1, h2]
  exact congrArg Except.ok (by rw [e0, e1, e2, e3, e4, e5])

theorem atomOr (d : SR) (a : AR) (s : SR) (g : Bool) (z : Bool) (oc : Fin 4) : Statement (.atomOr d a s g z oc) := by
  intro code hc _
  obtain rfl := Option.some.inj hc
  refine ofST [(oc.val, 4, 2), (z.toNat, 2, 1), (g.toNat, 2, 1), (2, 16, 4), (s.val, 32, 5), (a.val, 16, 4), (d.val, 32, 5), (19, 64, 6)] (by simp only [cat, pk]; ring)
    ⟨⟨oc.isLt, rfl⟩, ⟨z.toNat_lt, rfl⟩, ⟨g.toNat_lt, rfl⟩, ⟨by decide, rfl⟩, ⟨s.isLt, rfl⟩, ⟨a.isLt, rfl⟩, ⟨d.isLt, rfl⟩, ⟨by decide, rfl⟩, trivial⟩ fun w at_ => ?_
  have h1 : w / 2 ^ 22 % 64 = 19 := at_ 7
  have h2 : w / 2 ^ 4 % 16 = 2 := at_ 3
  have e0 : fld 32 w 17 = d := fld_of (at_ 6)
  have e1 : fld 16 w 13 = a := fld_of (at_ 5)
  have e2 : fld 32 w 8 = s := fld_of (at_ 4)
  have e3 : flg w 3 = g := flg_of (at_ 2)
  have e4 : flg w 2 = z := flg_of (at_ 1)
  have e5 : fld 4 w 0 = oc := fld_of (at_ 0)
  unfold decodeST
  rw [h1, h2]
  exact congrArg Except.ok (by rw [e0, e1, e2, e3, e4, e5])

theorem atomXor (d : SR) (a : AR) (s : SR) (g : Bool) (z : Bool) (oc : Fin 4) : Statement (.atomXor d a s g z oc) := by
  intro code hc _
  obtain rfl := Option.some.inj hc
  refine ofST [(oc.val, 4, 2), (z.toNat, 2, 1), (g.toNat, 2, 1), (3, 16, 4), (s.val, 32, 5), (a.val, 16, 4), (d.val, 32, 5), (19, 64, 6)] (by simp only [cat, pk]; ring)
    ⟨⟨oc.isLt, rfl⟩, ⟨z.toNat_lt, rfl⟩, ⟨g.toNat_lt, rfl⟩, ⟨by decide, rfl⟩, ⟨s.isLt, rfl⟩, ⟨a.isLt, rfl⟩, ⟨d.isLt, rfl⟩, ⟨by decide, rfl⟩, trivial⟩ fun w at_ => ?_
  have h1 : w / 2 ^ 22 % 64 = 19 := at_ 7
  have h2 : w / 2 ^ 4 % 16 = 3 := at_ 3
  have e0 : fld 32 w 17 = d := fld_of (at_ 6)
  have e1 : fld 16 w 13 = a := fld_of (at_ 5)
  have e2 : fld 32 w 8 = s := fld_of (at_ 4)
  have e3 : flg w 3 = g := flg_of (at_ 2)
  have e4 : flg w 2 = z := flg_of (at_ 1)
  have e5 : fld 4 w 0 = oc := fld_of (at_ 0)
  unfold decodeST
  rw [h1, h2]
  exact congrArg Except.ok (by rw [e0, e1, e2, e3, e4, e5])

theorem atomMin (d : SR) (a : AR) (s : SR) (g : Bool) (z : Bool) (oc : Fin 4) : Statement (.atomMin d a s g z oc) := by
  intro code hc _
  obtain rfl := Option.some.inj hc
  refine ofST [(oc.val, 4, 2), (z.toNat, 2, 1), (g.toNat, 2, 1), (4, 16, 4), (s.val, 32, 5), (a.val, 16, 4), (d.val, 32, 5), (19, 64, 6)] (by simp only [cat, pk]; ring)
    ⟨⟨oc.isLt, rfl⟩, ⟨z.toNat_lt, rfl⟩, ⟨g.toNat_lt, rfl⟩, ⟨by decide, rfl⟩, ⟨s.isLt, rfl⟩, ⟨a.isLt, rfl⟩, ⟨d.isLt, rfl⟩, ⟨by decide, rfl⟩, trivial⟩ fun w at_ => ?_
  have h1 : w / 2 ^ 22 % 64 = 19 := at_ 7
  have h2 : w / 2 ^ 4 % 16 = 4 := at_ 3
  have e0 : fld 32 w 17 = d := fld_of (at_ 6)
  have e1 : fld 16 w 13 = a := fld_of (at_ 5)
  have e2 : fld 32 w 8 = s := fld_of (at_ 4)
  have e3 : flg w 3 = g := flg_of (at_ 2)
  have e4 : flg w 2 = z := flg_of (at_ 1)
  have e5 : fld 4 w 0 = oc := fld_of (at_ 0)
  unfold decodeST
  rw [h1, h2]
  exact congrArg Except.ok (by rw [e0, e1, e2, e3, e4, e5])

theorem atomMax (d : SR) (a : AR) (s : SR) (g : Bool) (z : Bool) (oc : Fin 4) : Statement (.atomMax d a s g z oc) := by
  intro code hc _
  obtain rfl := Option.some.inj hc
  refine ofST [(oc.val, 4, 2), (z.toNat, 2, 1), (g.toNat, 2, 1), (5, 16, 4), (s.val, 32, 5), (a.val, 16, 4), (d.val, 32, 5), (19, 64, 6)] (by simp only [cat, pk]; ring)
    ⟨⟨oc.isLt, rfl⟩, ⟨z.toNat_lt, rfl⟩, ⟨g.toNat_lt, rfl⟩, ⟨by decide, rfl⟩, ⟨s.isLt, rfl⟩, ⟨a.isLt, rfl⟩, ⟨d.isLt, rfl⟩, ⟨by decide, rfl⟩, trivial⟩ fun w at_ => ?_
  have h1 : w / 2 ^ 22 % 64 = 19 := at_ 7
  have h2 : w / 2 ^ 4 % 16 = 5 := at_ 3
  have e0 : fld 32 w 17 = d := fld_of (at_ 6)
  have e1 : fld 16 w 13 = a := fld_of (at_ 5)
  have e2 : fld 32 w 8 = s := fld_of (at_ 4)
  have e3 : flg w 3 = g := flg_of (at_ 2)
  have e4 : flg w 2 = z := flg_of (at_ 1)
  have e5 : fld 4 w 0 = oc := fld_of (at_ 0)
  unfold decodeST
  rw [h1, h2]
  exact congrArg Except.ok (by rw [e0, e1, e2, e3, e4, e5])

theorem atomMinz (d : SR) (a : AR) (s : SR) (g : Bool) (z : Bool) (oc : Fin 4) : Statement (.atomMinz d a s g z oc) := by
  intro code hc _
  obtain rfl := Option.some.inj hc
  refine ofST [(oc.val, 4, 2), (z.toNat, 2, 1), (g.toNat, 2, 1), (6, 16, 4), (s.val, 32, 5), (a.val, 16, 4), (d.val, 32, 5), (19, 64, 6)] (by simp only [cat, pk]; ring)
    ⟨⟨oc.isLt, rfl⟩, ⟨z.toNat_lt, rfl⟩, ⟨g.toNat_lt, rfl⟩, ⟨by decide, rfl⟩, ⟨s.isLt, rfl⟩, ⟨a.isLt, rfl⟩, ⟨d.isLt, rfl⟩, ⟨by decide, rfl⟩, trivial⟩ fun w at_ => ?_
  have h1 : w / 2 ^ 22 % 64 = 19 := at_ 7
  have h2 : w / 2 ^ 4 % 16 = 6 := at_ 3
  have e0 : fld 32 w 17 = d := fld_of (at_ 6)
  have e1 : fld 16 w 13 = a := fld_of (at_ 5)
  have e2 : fld 32 w 8 = s := fld_of (at_ 4)
  have e3 : flg w 3 = g := flg_of (at_ 2)
  have e4 : flg w 2 = z := flg_of (at_ 1)
  have e5 : fld 4 w 0 = oc := fld_of (at_ 0)
  unfold decodeST
  rw [h1, h2]
  exact congrArg Except.ok (by rw [e0, e1, e2, e3, e4, e5])

theorem atomMaxz (d : SR) (a : AR) (s : SR) (g : Bool) (z : Bool) (oc : Fin 4) : Statement (.atomMaxz d a s g z oc) := by
  intro code hc _
  obtain rfl := Option.some.inj hc
  refine ofST [(oc.val, 4, 2), (z.toNat, 2, 1), (g.toNat, 2, 1), (7, 16, 4), (s.val, 32, 5), (a.val, 16, 4), (d.val, 32, 5), (19, 64, 6)] (by simp only [cat, pk]; ring)
    ⟨⟨oc.isLt, rfl⟩, ⟨z.toNat_lt, rfl⟩, ⟨g.toNat_lt, rfl⟩, ⟨by decide, rfl⟩, ⟨s.isLt, rfl⟩, ⟨a.isLt, rfl⟩, ⟨d.isLt, rfl⟩, ⟨by decide, rfl⟩, trivial⟩ fun w at_ => ?_
  have h1 : w / 2 ^ 22 % 64 = 19 := at_ 7
  have h2 : w / 2 ^ 4 % 16 = 7 := at_ 3
  have e0 : fld 32 w 17 = d := fld_of (at_ 6)
  have e1 : fld 16 w 13 = a := fld_of (at_ 5)
  have e2 : fld 32 w 8 = s := fld_of (at_ 4)
  have e3 : flg w 3 = g := flg_of (at_ 2)
  have e4 : flg w 2 = z := flg_of (at_ 1)
  have e5 : fld 4 w 0 = oc := fld_of (at_ 0)
  unfold decodeST
  rw [h1, h2]
  exact congrArg Except.ok (by rw [e0, e1, e2, e3, e4, e5])

theorem atomXchg (d : SR) (a : AR) (s : SR) (g : Bool) (z : Bool) (oc : Fin 4) : Statement (.atomXchg d a s g z oc) := by
  intro code hc _
  obtain rfl := Option.some.inj hc
  refine ofST [(oc.val, 4, 2), (z.toNat, 2, 1), (g.toNat, 2, 1), (8, 16, 4), (s.val, 32, 5), (a.val, 16, 4), (d.val, 32, 5), (19, 64, 6)] (by simp only [cat, pk]; ring)
    ⟨⟨oc.isLt, rfl⟩, ⟨z.toNat_lt, rfl⟩, ⟨g.toNat_lt, rfl⟩, ⟨by decide, rfl⟩, ⟨s.isLt, rfl⟩, ⟨a.isLt, rfl⟩, ⟨d.isLt, rfl⟩, ⟨by decide, rfl⟩, trivial⟩ fun w at_ => ?_
  have h1 : w / 2 ^ 22 % 64 = 19 := at_ 7
  have h2 : w / 2 ^ 4 % 16 = 8 := at_ 3
  have e0 : fld 32 w 17 = d := fld_of (at_ 6)
  have e1 : fld 16 w 13 = a := fld_of (at_ 5)
  have e2 : fld 32 w 8 = s := fld_of (at_ 4)
  have e3 : flg w 3 = g := flg_of (at_ 2)
  have e4 : flg w 2 = z := flg_of (at_ 1)
  have e5 : fld 4 w 0 = oc := fld_of (at_ 0)
  unfold decodeST
  rw [h1, h2]
  exact congrArg Except.ok (by rw [e0, e1, e2, e3, e4, e5])

theorem atomFadd (d : SR) (a : AR) (s : SR) (g : Bool) (z : Bool) (oc : Fin 4) : Statement (.atomFadd d a s g z oc) := by
  intro code hc _
  obtain rfl := Option.some.inj hc
  refine ofST [(oc.val, 4, 2), (z.toNat, 2, 1), (g.toNat, 2, 1), (9, 16, 4), (s.val, 32, 5), (a.val, 16, 4), (d.val, 32, 5), (19, 64, 6)] (by simp only [cat, pk]; ring)
    ⟨⟨oc.isLt, rfl⟩, ⟨z.toNat_lt, rfl⟩, ⟨g.toNat_lt, rfl⟩, ⟨by decide, rfl⟩, ⟨s.isLt, rfl⟩, ⟨a.isLt, rfl⟩, ⟨d.isLt, rfl⟩, ⟨by decide, rfl⟩, trivial⟩ fun w at_ => ?_
  have h1 : w / 2 ^ 22 % 64 = 19 := at_ 7
  have h2 : w / 2 ^ 4 % 16 = 9 := at_ 3
  have e0 : fld 32 w 17 = d := fld_of (at_ 6)
  have e1 : fld 16 w 13 = a := fld_of (at_ 5)
  have e2 : fld 32 w 8 = s := fld_of (at_ 4)
  have e3 : flg w 3 = g := flg_of (at_ 2)
  have e4 : flg w 2 = z := flg_of (at_ 1)
  have e5 : fld 4 w 0 = oc := fld_of (at_ 0)
  unfold decodeST
  rw [h1, h2]
  exact congrArg Except.ok (by rw [e0, e1, e2, e3, e4, e5])

theorem acas (d : SR) (a : AR) (s : SR) (g : Bool) (z : Bool) (oc : Fin 4) : Statement (.acas d a s g z oc) := by
  intro code hc _
  obtain rfl := Option.some.inj hc
  refine ofST [(oc.val, 4, 2), (z.toNat, 2, 1), (g.toNat, 2, 1), (0, 2 ^ 4, 4), (s.val, 32, 5), (a.val, 16, 4), (d.val, 32, 5), (20, 64, 6)] (by simp only [cat, pk]; ring)
    ⟨⟨oc.isLt, rfl⟩, ⟨z.toNat_lt, rfl⟩, ⟨g.toNat_lt, rfl⟩, ⟨by decide, rfl⟩, ⟨s.isLt, rfl⟩, ⟨a.isLt, rfl⟩, ⟨d.isLt, rfl⟩, ⟨by decide, rfl⟩, trivial⟩ fun w at_ => ?_
  have h1 : w / 2 ^ 22 % 64 = 20 := at_ 7
  have e0 : fld 32 w 17 = d := fld_of (at_ 6)
  have e1 : fld 16 w 13 = a := fld_of (at_ 5)
  have e2 : fld 32 w 8 = s := fld_of (at_ 4)
  have e3 : flg w 3 = g := flg_of (at_ 2)
  have e4 : flg w 2 = z := flg_of (at_ 1)
  have e5 : fld 4 w 0 = oc := fld_of (at_ 0)
  unfold decodeST
  rw [h1]
  exact need_of (zro_of (at_ 3)) (by rw [e0, e1, e2, e3, e4, e5])

theorem fence (kind : Fin 4) (scope : Fin 8) : Statement (.fence kind scope) := by
  intro code hc _
  obtain rfl := Option.some.inj hc
  refine ofST [(scope.val, 8, 3), (kind.val, 4, 2), (0, 2 ^ 17, 17), (21, 64, 6)] (by simp only [cat, pk]; ring)
    ⟨⟨scope.isLt, rfl⟩, ⟨kind.isLt, rfl⟩, ⟨by decide, rfl⟩, ⟨by decide, rfl⟩, trivial⟩ fun w at_ => ?_
  have h1 : w / 2 ^ 22 % 64 = 21 := at_ 3
  have e0 : fld 4 w 3 = kind := fld_of (at_ 1)
  have e1 : fld 8 w 0 = scope := fld_of (at_ 0)
  unfold decodeST
  rw [h1]
  exact need_of (zro_of (at_ 2)) (by rw [e0, e1])

theorem cmo (op : Fin 4) (level : Fin 4) (a : AR) (s : SR) : Statement (.cmo op level a s) := by
  intro code hc _
  obtain rfl := Option.some.inj hc
  refine ofST [(0, 2 ^ 8, 8), (s.val, 32, 5), (a.val, 16, 4), (0, 2 ^ 1, 1), (level.val, 4, 2), (op.val, 4, 2), (22, 64, 6)] (by simp only [cat, pk]; ring)
    ⟨⟨by decide, rfl⟩, ⟨s.isLt, rfl⟩, ⟨a.isLt, rfl⟩, ⟨by decide, rfl⟩, ⟨level.isLt, rfl⟩, ⟨op.isLt, rfl⟩, ⟨by decide, rfl⟩, trivial⟩ fun w at_ => ?_
  have h1 : w / 2 ^ 22 % 64 = 22 := at_ 6
  have e0 : fld 4 w 20 = op := fld_of (at_ 5)
  have e1 : fld 4 w 18 = level := fld_of (at_ 4)
  have e2 : fld 16 w 13 = a := fld_of (at_ 2)
  have e3 : fld 32 w 8 = s := fld_of (at_ 1)
  unfold decodeST
  rw [h1]
  exact need_of (and_of (zro_of (at_ 3)) (zro_of (at_ 0))) (by rw [e0, e1, e2, e3])

theorem rgset (rg : RG) (a : AR) (s : SR) (s2 : SR) (mode : Fin 8) : Statement (.rgset rg a s s2 mode) := by
  intro code hc _
  obtain rfl := Option.some.inj hc
  refine ofST [(mode.val, 8, 3), (s2.val, 32, 5), (s.val, 32, 5), (a.val, 16, 4), (0, 2 ^ 1, 1), (rg.val, 16, 4), (23, 64, 6)] (by simp only [cat, pk]; ring)
    ⟨⟨mode.isLt, rfl⟩, ⟨s2.isLt, rfl⟩, ⟨s.isLt, rfl⟩, ⟨a.isLt, rfl⟩, ⟨by decide, rfl⟩, ⟨rg.isLt, rfl⟩, ⟨by decide, rfl⟩, trivial⟩ fun w at_ => ?_
  have h1 : w / 2 ^ 22 % 64 = 23 := at_ 6
  have e0 : fld 16 w 18 = rg := fld_of (at_ 5)
  have e1 : fld 16 w 13 = a := fld_of (at_ 3)
  have e2 : fld 32 w 8 = s := fld_of (at_ 2)
  have e3 : fld 32 w 3 = s2 := fld_of (at_ 1)
  have e4 : fld 8 w 0 = mode := fld_of (at_ 0)
  unfold decodeST
  rw [h1]
  exact need_of (zro_of (at_ 4)) (by rw [e0, e1, e2, e3, e4])

theorem rgwb (rg : RG) : Statement (.rgwb rg) := by
  intro code hc _
  obtain rfl := Option.some.inj hc
  refine ofST [(0, 2 ^ 18, 18), (rg.val, 16, 4), (24, 64, 6)] (by simp only [cat, pk]; ring)
    ⟨⟨by decide, rfl⟩, ⟨rg.isLt, rfl⟩, ⟨by decide, rfl⟩, trivial⟩ fun w at_ => ?_
  have h1 : w / 2 ^ 22 % 64 = 24 := at_ 2
  have e0 : fld 16 w 18 = rg := fld_of (at_ 1)
  unfold decodeST
  rw [h1]
  exact need_of (zro_of (at_ 0)) (by rw [e0])

theorem rgdrop (rg : RG) : Statement (.rgdrop rg) := by
  intro code hc _
  obtain rfl := Option.some.inj hc
  refine ofST [(0, 2 ^ 18, 18), (rg.val, 16, 4), (25, 64, 6)] (by simp only [cat, pk]; ring)
    ⟨⟨by decide, rfl⟩, ⟨rg.isLt, rfl⟩, ⟨by decide, rfl⟩, trivial⟩ fun w at_ => ?_
  have h1 : w / 2 ^ 22 % 64 = 25 := at_ 2
  have e0 : fld 16 w 18 = rg := fld_of (at_ 1)
  unfold decodeST
  rw [h1]
  exact need_of (zro_of (at_ 0)) (by rw [e0])

theorem vadd (d : VR) (a : VR) (b : VR) (m : MR) (ty : Fin 16) : Statement (.vadd d a b m ty) := by
  intro code hc _
  obtain rfl := Option.some.inj hc
  refine ofVA [(ty.val, 16, 4), (m.val, 8, 3), (b.val, 32, 5), (a.val, 32, 5), (d.val, 32, 5), (0, 64, 6)] (by simp only [cat, pk]; ring)
    ⟨⟨ty.isLt, rfl⟩, ⟨m.isLt, rfl⟩, ⟨b.isLt, rfl⟩, ⟨a.isLt, rfl⟩, ⟨d.isLt, rfl⟩, ⟨by decide, rfl⟩, trivial⟩ fun w at_ => ?_
  have h1 : w / 2 ^ 22 % 64 = 0 := at_ 5
  have e0 : fld 32 w 17 = d := fld_of (at_ 4)
  have e1 : fld 32 w 12 = a := fld_of (at_ 3)
  have e2 : fld 32 w 7 = b := fld_of (at_ 2)
  have e3 : fld 8 w 4 = m := fld_of (at_ 1)
  have e4 : fld 16 w 0 = ty := fld_of (at_ 0)
  unfold decodeVA
  rw [h1]
  exact congrArg Except.ok (by rw [e0, e1, e2, e3, e4])

theorem vsub (d : VR) (a : VR) (b : VR) (m : MR) (ty : Fin 16) : Statement (.vsub d a b m ty) := by
  intro code hc _
  obtain rfl := Option.some.inj hc
  refine ofVA [(ty.val, 16, 4), (m.val, 8, 3), (b.val, 32, 5), (a.val, 32, 5), (d.val, 32, 5), (1, 64, 6)] (by simp only [cat, pk]; ring)
    ⟨⟨ty.isLt, rfl⟩, ⟨m.isLt, rfl⟩, ⟨b.isLt, rfl⟩, ⟨a.isLt, rfl⟩, ⟨d.isLt, rfl⟩, ⟨by decide, rfl⟩, trivial⟩ fun w at_ => ?_
  have h1 : w / 2 ^ 22 % 64 = 1 := at_ 5
  have e0 : fld 32 w 17 = d := fld_of (at_ 4)
  have e1 : fld 32 w 12 = a := fld_of (at_ 3)
  have e2 : fld 32 w 7 = b := fld_of (at_ 2)
  have e3 : fld 8 w 4 = m := fld_of (at_ 1)
  have e4 : fld 16 w 0 = ty := fld_of (at_ 0)
  unfold decodeVA
  rw [h1]
  exact congrArg Except.ok (by rw [e0, e1, e2, e3, e4])

theorem vmin (d : VR) (a : VR) (b : VR) (m : MR) (ty : Fin 16) : Statement (.vmin d a b m ty) := by
  intro code hc _
  obtain rfl := Option.some.inj hc
  refine ofVA [(ty.val, 16, 4), (m.val, 8, 3), (b.val, 32, 5), (a.val, 32, 5), (d.val, 32, 5), (2, 64, 6)] (by simp only [cat, pk]; ring)
    ⟨⟨ty.isLt, rfl⟩, ⟨m.isLt, rfl⟩, ⟨b.isLt, rfl⟩, ⟨a.isLt, rfl⟩, ⟨d.isLt, rfl⟩, ⟨by decide, rfl⟩, trivial⟩ fun w at_ => ?_
  have h1 : w / 2 ^ 22 % 64 = 2 := at_ 5
  have e0 : fld 32 w 17 = d := fld_of (at_ 4)
  have e1 : fld 32 w 12 = a := fld_of (at_ 3)
  have e2 : fld 32 w 7 = b := fld_of (at_ 2)
  have e3 : fld 8 w 4 = m := fld_of (at_ 1)
  have e4 : fld 16 w 0 = ty := fld_of (at_ 0)
  unfold decodeVA
  rw [h1]
  exact congrArg Except.ok (by rw [e0, e1, e2, e3, e4])

theorem vmax (d : VR) (a : VR) (b : VR) (m : MR) (ty : Fin 16) : Statement (.vmax d a b m ty) := by
  intro code hc _
  obtain rfl := Option.some.inj hc
  refine ofVA [(ty.val, 16, 4), (m.val, 8, 3), (b.val, 32, 5), (a.val, 32, 5), (d.val, 32, 5), (3, 64, 6)] (by simp only [cat, pk]; ring)
    ⟨⟨ty.isLt, rfl⟩, ⟨m.isLt, rfl⟩, ⟨b.isLt, rfl⟩, ⟨a.isLt, rfl⟩, ⟨d.isLt, rfl⟩, ⟨by decide, rfl⟩, trivial⟩ fun w at_ => ?_
  have h1 : w / 2 ^ 22 % 64 = 3 := at_ 5
  have e0 : fld 32 w 17 = d := fld_of (at_ 4)
  have e1 : fld 32 w 12 = a := fld_of (at_ 3)
  have e2 : fld 32 w 7 = b := fld_of (at_ 2)
  have e3 : fld 8 w 4 = m := fld_of (at_ 1)
  have e4 : fld 16 w 0 = ty := fld_of (at_ 0)
  unfold decodeVA
  rw [h1]
  exact congrArg Except.ok (by rw [e0, e1, e2, e3, e4])

theorem vabs (d : VR) (a : VR) (m : MR) (ty : Fin 16) : Statement (.vabs d a m ty) := by
  intro code hc _
  obtain rfl := Option.some.inj hc
  refine ofVA [(ty.val, 16, 4), (m.val, 8, 3), (0, 2 ^ 5, 5), (a.val, 32, 5), (d.val, 32, 5), (4, 64, 6)] (by simp only [cat, pk]; ring)
    ⟨⟨ty.isLt, rfl⟩, ⟨m.isLt, rfl⟩, ⟨by decide, rfl⟩, ⟨a.isLt, rfl⟩, ⟨d.isLt, rfl⟩, ⟨by decide, rfl⟩, trivial⟩ fun w at_ => ?_
  have h1 : w / 2 ^ 22 % 64 = 4 := at_ 5
  have e0 : fld 32 w 17 = d := fld_of (at_ 4)
  have e1 : fld 32 w 12 = a := fld_of (at_ 3)
  have e2 : fld 8 w 4 = m := fld_of (at_ 1)
  have e3 : fld 16 w 0 = ty := fld_of (at_ 0)
  unfold decodeVA
  rw [h1]
  exact need_of (zro_of (at_ 2)) (by rw [e0, e1, e2, e3])

theorem vneg (d : VR) (a : VR) (m : MR) (ty : Fin 16) : Statement (.vneg d a m ty) := by
  intro code hc _
  obtain rfl := Option.some.inj hc
  refine ofVA [(ty.val, 16, 4), (m.val, 8, 3), (0, 2 ^ 5, 5), (a.val, 32, 5), (d.val, 32, 5), (5, 64, 6)] (by simp only [cat, pk]; ring)
    ⟨⟨ty.isLt, rfl⟩, ⟨m.isLt, rfl⟩, ⟨by decide, rfl⟩, ⟨a.isLt, rfl⟩, ⟨d.isLt, rfl⟩, ⟨by decide, rfl⟩, trivial⟩ fun w at_ => ?_
  have h1 : w / 2 ^ 22 % 64 = 5 := at_ 5
  have e0 : fld 32 w 17 = d := fld_of (at_ 4)
  have e1 : fld 32 w 12 = a := fld_of (at_ 3)
  have e2 : fld 8 w 4 = m := fld_of (at_ 1)
  have e3 : fld 16 w 0 = ty := fld_of (at_ 0)
  unfold decodeVA
  rw [h1]
  exact need_of (zro_of (at_ 2)) (by rw [e0, e1, e2, e3])

theorem vand (d : VR) (a : VR) (b : VR) (m : MR) : Statement (.vand d a b m) := by
  intro code hc _
  obtain rfl := Option.some.inj hc
  refine ofVA [(0, 2 ^ 4, 4), (m.val, 8, 3), (b.val, 32, 5), (a.val, 32, 5), (d.val, 32, 5), (6, 64, 6)] (by simp only [cat, pk]; ring)
    ⟨⟨by decide, rfl⟩, ⟨m.isLt, rfl⟩, ⟨b.isLt, rfl⟩, ⟨a.isLt, rfl⟩, ⟨d.isLt, rfl⟩, ⟨by decide, rfl⟩, trivial⟩ fun w at_ => ?_
  have h1 : w / 2 ^ 22 % 64 = 6 := at_ 5
  have e0 : fld 32 w 17 = d := fld_of (at_ 4)
  have e1 : fld 32 w 12 = a := fld_of (at_ 3)
  have e2 : fld 32 w 7 = b := fld_of (at_ 2)
  have e3 : fld 8 w 4 = m := fld_of (at_ 1)
  unfold decodeVA
  rw [h1]
  exact need_of (zro_of (at_ 0)) (by rw [e0, e1, e2, e3])

theorem vor (d : VR) (a : VR) (b : VR) (m : MR) : Statement (.vor d a b m) := by
  intro code hc _
  obtain rfl := Option.some.inj hc
  refine ofVA [(0, 2 ^ 4, 4), (m.val, 8, 3), (b.val, 32, 5), (a.val, 32, 5), (d.val, 32, 5), (7, 64, 6)] (by simp only [cat, pk]; ring)
    ⟨⟨by decide, rfl⟩, ⟨m.isLt, rfl⟩, ⟨b.isLt, rfl⟩, ⟨a.isLt, rfl⟩, ⟨d.isLt, rfl⟩, ⟨by decide, rfl⟩, trivial⟩ fun w at_ => ?_
  have h1 : w / 2 ^ 22 % 64 = 7 := at_ 5
  have e0 : fld 32 w 17 = d := fld_of (at_ 4)
  have e1 : fld 32 w 12 = a := fld_of (at_ 3)
  have e2 : fld 32 w 7 = b := fld_of (at_ 2)
  have e3 : fld 8 w 4 = m := fld_of (at_ 1)
  unfold decodeVA
  rw [h1]
  exact need_of (zro_of (at_ 0)) (by rw [e0, e1, e2, e3])

theorem vxor (d : VR) (a : VR) (b : VR) (m : MR) : Statement (.vxor d a b m) := by
  intro code hc _
  obtain rfl := Option.some.inj hc
  refine ofVA [(0, 2 ^ 4, 4), (m.val, 8, 3), (b.val, 32, 5), (a.val, 32, 5), (d.val, 32, 5), (8, 64, 6)] (by simp only [cat, pk]; ring)
    ⟨⟨by decide, rfl⟩, ⟨m.isLt, rfl⟩, ⟨b.isLt, rfl⟩, ⟨a.isLt, rfl⟩, ⟨d.isLt, rfl⟩, ⟨by decide, rfl⟩, trivial⟩ fun w at_ => ?_
  have h1 : w / 2 ^ 22 % 64 = 8 := at_ 5
  have e0 : fld 32 w 17 = d := fld_of (at_ 4)
  have e1 : fld 32 w 12 = a := fld_of (at_ 3)
  have e2 : fld 32 w 7 = b := fld_of (at_ 2)
  have e3 : fld 8 w 4 = m := fld_of (at_ 1)
  unfold decodeVA
  rw [h1]
  exact need_of (zro_of (at_ 0)) (by rw [e0, e1, e2, e3])

theorem vshl (d : VR) (a : VR) (b : VR) (m : MR) (ty : Fin 16) : Statement (.vshl d a b m ty) := by
  intro code hc _
  obtain rfl := Option.some.inj hc
  refine ofVA [(ty.val, 16, 4), (m.val, 8, 3), (b.val, 32, 5), (a.val, 32, 5), (d.val, 32, 5), (9, 64, 6)] (by simp only [cat, pk]; ring)
    ⟨⟨ty.isLt, rfl⟩, ⟨m.isLt, rfl⟩, ⟨b.isLt, rfl⟩, ⟨a.isLt, rfl⟩, ⟨d.isLt, rfl⟩, ⟨by decide, rfl⟩, trivial⟩ fun w at_ => ?_
  have h1 : w / 2 ^ 22 % 64 = 9 := at_ 5
  have e0 : fld 32 w 17 = d := fld_of (at_ 4)
  have e1 : fld 32 w 12 = a := fld_of (at_ 3)
  have e2 : fld 32 w 7 = b := fld_of (at_ 2)
  have e3 : fld 8 w 4 = m := fld_of (at_ 1)
  have e4 : fld 16 w 0 = ty := fld_of (at_ 0)
  unfold decodeVA
  rw [h1]
  exact congrArg Except.ok (by rw [e0, e1, e2, e3, e4])

theorem vshr (d : VR) (a : VR) (b : VR) (m : MR) (ty : Fin 16) : Statement (.vshr d a b m ty) := by
  intro code hc _
  obtain rfl := Option.some.inj hc
  refine ofVA [(ty.val, 16, 4), (m.val, 8, 3), (b.val, 32, 5), (a.val, 32, 5), (d.val, 32, 5), (10, 64, 6)] (by simp only [cat, pk]; ring)
    ⟨⟨ty.isLt, rfl⟩, ⟨m.isLt, rfl⟩, ⟨b.isLt, rfl⟩, ⟨a.isLt, rfl⟩, ⟨d.isLt, rfl⟩, ⟨by decide, rfl⟩, trivial⟩ fun w at_ => ?_
  have h1 : w / 2 ^ 22 % 64 = 10 := at_ 5
  have e0 : fld 32 w 17 = d := fld_of (at_ 4)
  have e1 : fld 32 w 12 = a := fld_of (at_ 3)
  have e2 : fld 32 w 7 = b := fld_of (at_ 2)
  have e3 : fld 8 w 4 = m := fld_of (at_ 1)
  have e4 : fld 16 w 0 = ty := fld_of (at_ 0)
  unfold decodeVA
  rw [h1]
  exact congrArg Except.ok (by rw [e0, e1, e2, e3, e4])

theorem vsha (d : VR) (a : VR) (b : VR) (m : MR) (ty : Fin 16) : Statement (.vsha d a b m ty) := by
  intro code hc _
  obtain rfl := Option.some.inj hc
  refine ofVA [(ty.val, 16, 4), (m.val, 8, 3), (b.val, 32, 5), (a.val, 32, 5), (d.val, 32, 5), (11, 64, 6)] (by simp only [cat, pk]; ring)
    ⟨⟨ty.isLt, rfl⟩, ⟨m.isLt, rfl⟩, ⟨b.isLt, rfl⟩, ⟨a.isLt, rfl⟩, ⟨d.isLt, rfl⟩, ⟨by decide, rfl⟩, trivial⟩ fun w at_ => ?_
  have h1 : w / 2 ^ 22 % 64 = 11 := at_ 5
  have e0 : fld 32 w 17 = d := fld_of (at_ 4)
  have e1 : fld 32 w 12 = a := fld_of (at_ 3)
  have e2 : fld 32 w 7 = b := fld_of (at_ 2)
  have e3 : fld 8 w 4 = m := fld_of (at_ 1)
  have e4 : fld 16 w 0 = ty := fld_of (at_ 0)
  unfold decodeVA
  rw [h1]
  exact congrArg Except.ok (by rw [e0, e1, e2, e3, e4])

theorem vcmp (cond : Fin 8) (md : MR) (a : VR) (b : VR) (ty : Fin 16) : Statement (.vcmp cond md a b ty) := by
  intro code hc _
  obtain rfl := Option.some.inj hc
  refine ofVA [(ty.val, 16, 4), (0, 2 ^ 2, 2), (b.val, 32, 5), (a.val, 32, 5), (cond.val, 8, 3), (md.val, 8, 3), (12, 64, 6)] (by simp only [cat, pk]; ring)
    ⟨⟨ty.isLt, rfl⟩, ⟨by decide, rfl⟩, ⟨b.isLt, rfl⟩, ⟨a.isLt, rfl⟩, ⟨cond.isLt, rfl⟩, ⟨md.isLt, rfl⟩, ⟨by decide, rfl⟩, trivial⟩ fun w at_ => ?_
  have h1 : w / 2 ^ 22 % 64 = 12 := at_ 6
  have e0 : fld 8 w 16 = cond := fld_of (at_ 4)
  have e1 : fld 8 w 19 = md := fld_of (at_ 5)
  have e2 : fld 32 w 11 = a := fld_of (at_ 3)
  have e3 : fld 32 w 6 = b := fld_of (at_ 2)
  have e4 : fld 16 w 0 = ty := fld_of (at_ 0)
  unfold decodeVA
  rw [h1]
  exact need_of (zro_of (at_ 1)) (by rw [e0, e1, e2, e3, e4])

theorem vsel (d : VR) (a : VR) (b : VR) (m : MR) : Statement (.vsel d a b m) := by
  intro code hc _
  obtain rfl := Option.some.inj hc
  refine ofVA [(0, 2 ^ 4, 4), (m.val, 8, 3), (b.val, 32, 5), (a.val, 32, 5), (d.val, 32, 5), (13, 64, 6)] (by simp only [cat, pk]; ring)
    ⟨⟨by decide, rfl⟩, ⟨m.isLt, rfl⟩, ⟨b.isLt, rfl⟩, ⟨a.isLt, rfl⟩, ⟨d.isLt, rfl⟩, ⟨by decide, rfl⟩, trivial⟩ fun w at_ => ?_
  have h1 : w / 2 ^ 22 % 64 = 13 := at_ 5
  have e0 : fld 32 w 17 = d := fld_of (at_ 4)
  have e1 : fld 32 w 12 = a := fld_of (at_ 3)
  have e2 : fld 32 w 7 = b := fld_of (at_ 2)
  have e3 : fld 8 w 4 = m := fld_of (at_ 1)
  unfold decodeVA
  rw [h1]
  exact need_of (zro_of (at_ 0)) (by rw [e0, e1, e2, e3])

theorem vmov (d : VR) (a : VR) (m : MR) : Statement (.vmov d a m) := by
  intro code hc _
  obtain rfl := Option.some.inj hc
  refine ofVA [(0, 2 ^ 4, 4), (m.val, 8, 3), (0, 2 ^ 5, 5), (a.val, 32, 5), (d.val, 32, 5), (14, 64, 6)] (by simp only [cat, pk]; ring)
    ⟨⟨by decide, rfl⟩, ⟨m.isLt, rfl⟩, ⟨by decide, rfl⟩, ⟨a.isLt, rfl⟩, ⟨d.isLt, rfl⟩, ⟨by decide, rfl⟩, trivial⟩ fun w at_ => ?_
  have h1 : w / 2 ^ 22 % 64 = 14 := at_ 5
  have e0 : fld 32 w 17 = d := fld_of (at_ 4)
  have e1 : fld 32 w 12 = a := fld_of (at_ 3)
  have e2 : fld 8 w 4 = m := fld_of (at_ 1)
  unfold decodeVA
  rw [h1]
  exact need_of (and_of (zro_of (at_ 2)) (zro_of (at_ 0))) (by rw [e0, e1, e2])

theorem vbc (d : VR) (a : SR) (m : MR) (ty : Fin 16) : Statement (.vbc d a m ty) := by
  intro code hc _
  obtain rfl := Option.some.inj hc
  refine ofVA [(ty.val, 16, 4), (m.val, 8, 3), (0, 2 ^ 5, 5), (a.val, 32, 5), (d.val, 32, 5), (15, 64, 6)] (by simp only [cat, pk]; ring)
    ⟨⟨ty.isLt, rfl⟩, ⟨m.isLt, rfl⟩, ⟨by decide, rfl⟩, ⟨a.isLt, rfl⟩, ⟨d.isLt, rfl⟩, ⟨by decide, rfl⟩, trivial⟩ fun w at_ => ?_
  have h1 : w / 2 ^ 22 % 64 = 15 := at_ 5
  have e0 : fld 32 w 17 = d := fld_of (at_ 4)
  have e1 : fld 32 w 12 = a := fld_of (at_ 3)
  have e2 : fld 8 w 4 = m := fld_of (at_ 1)
  have e3 : fld 16 w 0 = ty := fld_of (at_ 0)
  unfold decodeVA
  rw [h1]
  exact need_of (zro_of (at_ 2)) (by rw [e0, e1, e2, e3])

theorem vperm (d : VR) (a : VR) (b : VR) : Statement (.vperm d a b) := by
  intro code hc _
  obtain rfl := Option.some.inj hc
  refine ofVA [(0, 2 ^ 7, 7), (b.val, 32, 5), (a.val, 32, 5), (d.val, 32, 5), (16, 64, 6)] (by simp only [cat, pk]; ring)
    ⟨⟨by decide, rfl⟩, ⟨b.isLt, rfl⟩, ⟨a.isLt, rfl⟩, ⟨d.isLt, rfl⟩, ⟨by decide, rfl⟩, trivial⟩ fun w at_ => ?_
  have h1 : w / 2 ^ 22 % 64 = 16 := at_ 4
  have e0 : fld 32 w 17 = d := fld_of (at_ 3)
  have e1 : fld 32 w 12 = a := fld_of (at_ 2)
  have e2 : fld 32 w 7 = b := fld_of (at_ 1)
  unfold decodeVA
  rw [h1]
  exact need_of (zro_of (at_ 0)) (by rw [e0, e1, e2])

theorem vshuf (d : VR) (a : VR) (k : Fin 32) : Statement (.vshuf d a k) := by
  intro code hc _
  obtain rfl := Option.some.inj hc
  refine ofVA [(0, 2 ^ 7, 7), (k.val, 32, 5), (a.val, 32, 5), (d.val, 32, 5), (17, 64, 6)] (by simp only [cat, pk]; ring)
    ⟨⟨by decide, rfl⟩, ⟨k.isLt, rfl⟩, ⟨a.isLt, rfl⟩, ⟨d.isLt, rfl⟩, ⟨by decide, rfl⟩, trivial⟩ fun w at_ => ?_
  have h1 : w / 2 ^ 22 % 64 = 17 := at_ 4
  have e0 : fld 32 w 17 = d := fld_of (at_ 3)
  have e1 : fld 32 w 12 = a := fld_of (at_ 2)
  have e2 : fld 32 w 7 = k := fld_of (at_ 1)
  unfold decodeVA
  rw [h1]
  exact need_of (zro_of (at_ 0)) (by rw [e0, e1, e2])

theorem vcvt (d : VR) (a : VR) (dty : Fin 16) (rnd : Fin 8) (sat : Bool) (sty : Fin 16) : Statement (.vcvt d a dty rnd sat sty) := by
  intro code hc _
  obtain rfl := Option.some.inj hc
  refine ofVA [(sty.val, 16, 4), (sat.toNat, 2, 1), (rnd.val, 8, 3), (dty.val, 16, 4), (a.val, 32, 5), (d.val, 32, 5), (18, 64, 6)] (by simp only [cat, pk]; ring)
    ⟨⟨sty.isLt, rfl⟩, ⟨sat.toNat_lt, rfl⟩, ⟨rnd.isLt, rfl⟩, ⟨dty.isLt, rfl⟩, ⟨a.isLt, rfl⟩, ⟨d.isLt, rfl⟩, ⟨by decide, rfl⟩, trivial⟩ fun w at_ => ?_
  have h1 : w / 2 ^ 22 % 64 = 18 := at_ 6
  have e0 : fld 32 w 17 = d := fld_of (at_ 5)
  have e1 : fld 32 w 12 = a := fld_of (at_ 4)
  have e2 : fld 16 w 8 = dty := fld_of (at_ 3)
  have e3 : fld 8 w 5 = rnd := fld_of (at_ 2)
  have e4 : flg w 4 = sat := flg_of (at_ 1)
  have e5 : fld 16 w 0 = sty := fld_of (at_ 0)
  unfold decodeVA
  rw [h1]
  exact congrArg Except.ok (by rw [e0, e1, e2, e3, e4, e5])

theorem vpack (d : VR) (a : VR) (b : VR) (ty : Fin 16) : Statement (.vpack d a b ty) := by
  intro code hc _
  obtain rfl := Option.some.inj hc
  refine ofVA [(ty.val, 16, 4), (0, 2 ^ 3, 3), (b.val, 32, 5), (a.val, 32, 5), (d.val, 32, 5), (19, 64, 6)] (by simp only [cat, pk]; ring)
    ⟨⟨ty.isLt, rfl⟩, ⟨by decide, rfl⟩, ⟨b.isLt, rfl⟩, ⟨a.isLt, rfl⟩, ⟨d.isLt, rfl⟩, ⟨by decide, rfl⟩, trivial⟩ fun w at_ => ?_
  have h1 : w / 2 ^ 22 % 64 = 19 := at_ 5
  have e0 : fld 32 w 17 = d := fld_of (at_ 4)
  have e1 : fld 32 w 12 = a := fld_of (at_ 3)
  have e2 : fld 32 w 7 = b := fld_of (at_ 2)
  have e3 : fld 16 w 0 = ty := fld_of (at_ 0)
  unfold decodeVA
  rw [h1]
  exact need_of (zro_of (at_ 1)) (by rw [e0, e1, e2, e3])

theorem vunpk (d : VR) (a : VR) (h : Fin 32) (ty : Fin 16) : Statement (.vunpk d a h ty) := by
  intro code hc _
  obtain rfl := Option.some.inj hc
  refine ofVA [(ty.val, 16, 4), (0, 2 ^ 3, 3), (h.val, 32, 5), (a.val, 32, 5), (d.val, 32, 5), (20, 64, 6)] (by simp only [cat, pk]; ring)
    ⟨⟨ty.isLt, rfl⟩, ⟨by decide, rfl⟩, ⟨h.isLt, rfl⟩, ⟨a.isLt, rfl⟩, ⟨d.isLt, rfl⟩, ⟨by decide, rfl⟩, trivial⟩ fun w at_ => ?_
  have h1 : w / 2 ^ 22 % 64 = 20 := at_ 5
  have e0 : fld 32 w 17 = d := fld_of (at_ 4)
  have e1 : fld 32 w 12 = a := fld_of (at_ 3)
  have e2 : fld 32 w 7 = h := fld_of (at_ 2)
  have e3 : fld 16 w 0 = ty := fld_of (at_ 0)
  unfold decodeVA
  rw [h1]
  exact need_of (zro_of (at_ 1)) (by rw [e0, e1, e2, e3])

theorem vred (d : VR) (a : VR) (g : Fin 32) (ty : Fin 16) : Statement (.vred d a g ty) := by
  intro code hc _
  obtain rfl := Option.some.inj hc
  refine ofVA [(ty.val, 16, 4), (0, 2 ^ 3, 3), (g.val, 32, 5), (a.val, 32, 5), (d.val, 32, 5), (21, 64, 6)] (by simp only [cat, pk]; ring)
    ⟨⟨ty.isLt, rfl⟩, ⟨by decide, rfl⟩, ⟨g.isLt, rfl⟩, ⟨a.isLt, rfl⟩, ⟨d.isLt, rfl⟩, ⟨by decide, rfl⟩, trivial⟩ fun w at_ => ?_
  have h1 : w / 2 ^ 22 % 64 = 21 := at_ 5
  have e0 : fld 32 w 17 = d := fld_of (at_ 4)
  have e1 : fld 32 w 12 = a := fld_of (at_ 3)
  have e2 : fld 32 w 7 = g := fld_of (at_ 2)
  have e3 : fld 16 w 0 = ty := fld_of (at_ 0)
  unfold decodeVA
  rw [h1]
  exact need_of (zro_of (at_ 1)) (by rw [e0, e1, e2, e3])

theorem vext (d : SR) (a : VR) (s : SR) : Statement (.vext d a s) := by
  intro code hc _
  obtain rfl := Option.some.inj hc
  refine ofVA [(0, 2 ^ 7, 7), (s.val, 32, 5), (a.val, 32, 5), (d.val, 32, 5), (22, 64, 6)] (by simp only [cat, pk]; ring)
    ⟨⟨by decide, rfl⟩, ⟨s.isLt, rfl⟩, ⟨a.isLt, rfl⟩, ⟨d.isLt, rfl⟩, ⟨by decide, rfl⟩, trivial⟩ fun w at_ => ?_
  have h1 : w / 2 ^ 22 % 64 = 22 := at_ 4
  have e0 : fld 32 w 17 = d := fld_of (at_ 3)
  have e1 : fld 32 w 12 = a := fld_of (at_ 2)
  have e2 : fld 32 w 7 = s := fld_of (at_ 1)
  unfold decodeVA
  rw [h1]
  exact need_of (zro_of (at_ 0)) (by rw [e0, e1, e2])

theorem vins (d : VR) (a : SR) (s : SR) : Statement (.vins d a s) := by
  intro code hc _
  obtain rfl := Option.some.inj hc
  refine ofVA [(0, 2 ^ 7, 7), (s.val, 32, 5), (a.val, 32, 5), (d.val, 32, 5), (23, 64, 6)] (by simp only [cat, pk]; ring)
    ⟨⟨by decide, rfl⟩, ⟨s.isLt, rfl⟩, ⟨a.isLt, rfl⟩, ⟨d.isLt, rfl⟩, ⟨by decide, rfl⟩, trivial⟩ fun w at_ => ?_
  have h1 : w / 2 ^ 22 % 64 = 23 := at_ 4
  have e0 : fld 32 w 17 = d := fld_of (at_ 3)
  have e1 : fld 32 w 12 = a := fld_of (at_ 2)
  have e2 : fld 32 w 7 = s := fld_of (at_ 1)
  unfold decodeVA
  rw [h1]
  exact need_of (zro_of (at_ 0)) (by rw [e0, e1, e2])

theorem viota (d : VR) (a : SR) : Statement (.viota d a) := by
  intro code hc _
  obtain rfl := Option.some.inj hc
  refine ofVA [(0, 2 ^ 12, 12), (a.val, 32, 5), (d.val, 32, 5), (24, 64, 6)] (by simp only [cat, pk]; ring)
    ⟨⟨by decide, rfl⟩, ⟨a.isLt, rfl⟩, ⟨d.isLt, rfl⟩, ⟨by decide, rfl⟩, trivial⟩ fun w at_ => ?_
  have h1 : w / 2 ^ 22 % 64 = 24 := at_ 3
  have e0 : fld 32 w 17 = d := fld_of (at_ 2)
  have e1 : fld 32 w 12 = a := fld_of (at_ 1)
  unfold decodeVA
  rw [h1]
  exact need_of (zro_of (at_ 0)) (by rw [e0, e1])

theorem mand (md : MR) (ma : MR) (mb : MR) : Statement (.mand md ma mb) := by
  intro code hc _
  obtain rfl := Option.some.inj hc
  refine ofVA [(0, 16, 4), (0, 2 ^ 3, 3), (mb.val, 8, 3), (0, 2 ^ 2, 2), (ma.val, 8, 3), (0, 2 ^ 2, 2), (md.val, 8, 3), (0, 2 ^ 2, 2), (25, 64, 6)] (by simp only [cat, pk]; ring)
    ⟨⟨by decide, rfl⟩, ⟨by decide, rfl⟩, ⟨mb.isLt, rfl⟩, ⟨by decide, rfl⟩, ⟨ma.isLt, rfl⟩, ⟨by decide, rfl⟩, ⟨md.isLt, rfl⟩, ⟨by decide, rfl⟩, ⟨by decide, rfl⟩, trivial⟩ fun w at_ => ?_
  have h1 : w / 2 ^ 22 % 64 = 25 := at_ 8
  have h2 : w / 2 ^ 0 % 16 = 0 := at_ 0
  have e0 : fld 8 w 17 = md := fld_of (at_ 6)
  have e1 : fld 8 w 12 = ma := fld_of (at_ 4)
  have e2 : fld 8 w 7 = mb := fld_of (at_ 2)
  unfold decodeVA
  rw [h1, h2]
  exact need_of (and_of (and_of (and_of (zro_of (at_ 7)) (zro_of (at_ 5))) (zro_of (at_ 3))) (zro_of (at_ 1))) (by rw [e0, e1, e2])

theorem mor (md : MR) (ma : MR) (mb : MR) : Statement (.mor md ma mb) := by
  intro code hc _
  obtain rfl := Option.some.inj hc
  refine ofVA [(1, 16, 4), (0, 2 ^ 3, 3), (mb.val, 8, 3), (0, 2 ^ 2, 2), (ma.val, 8, 3), (0, 2 ^ 2, 2), (md.val, 8, 3), (0, 2 ^ 2, 2), (25, 64, 6)] (by simp only [cat, pk]; ring)
    ⟨⟨by decide, rfl⟩, ⟨by decide, rfl⟩, ⟨mb.isLt, rfl⟩, ⟨by decide, rfl⟩, ⟨ma.isLt, rfl⟩, ⟨by decide, rfl⟩, ⟨md.isLt, rfl⟩, ⟨by decide, rfl⟩, ⟨by decide, rfl⟩, trivial⟩ fun w at_ => ?_
  have h1 : w / 2 ^ 22 % 64 = 25 := at_ 8
  have h2 : w / 2 ^ 0 % 16 = 1 := at_ 0
  have e0 : fld 8 w 17 = md := fld_of (at_ 6)
  have e1 : fld 8 w 12 = ma := fld_of (at_ 4)
  have e2 : fld 8 w 7 = mb := fld_of (at_ 2)
  unfold decodeVA
  rw [h1, h2]
  exact need_of (and_of (and_of (and_of (zro_of (at_ 7)) (zro_of (at_ 5))) (zro_of (at_ 3))) (zro_of (at_ 1))) (by rw [e0, e1, e2])

theorem mxor (md : MR) (ma : MR) (mb : MR) : Statement (.mxor md ma mb) := by
  intro code hc _
  obtain rfl := Option.some.inj hc
  refine ofVA [(2, 16, 4), (0, 2 ^ 3, 3), (mb.val, 8, 3), (0, 2 ^ 2, 2), (ma.val, 8, 3), (0, 2 ^ 2, 2), (md.val, 8, 3), (0, 2 ^ 2, 2), (25, 64, 6)] (by simp only [cat, pk]; ring)
    ⟨⟨by decide, rfl⟩, ⟨by decide, rfl⟩, ⟨mb.isLt, rfl⟩, ⟨by decide, rfl⟩, ⟨ma.isLt, rfl⟩, ⟨by decide, rfl⟩, ⟨md.isLt, rfl⟩, ⟨by decide, rfl⟩, ⟨by decide, rfl⟩, trivial⟩ fun w at_ => ?_
  have h1 : w / 2 ^ 22 % 64 = 25 := at_ 8
  have h2 : w / 2 ^ 0 % 16 = 2 := at_ 0
  have e0 : fld 8 w 17 = md := fld_of (at_ 6)
  have e1 : fld 8 w 12 = ma := fld_of (at_ 4)
  have e2 : fld 8 w 7 = mb := fld_of (at_ 2)
  unfold decodeVA
  rw [h1, h2]
  exact need_of (and_of (and_of (and_of (zro_of (at_ 7)) (zro_of (at_ 5))) (zro_of (at_ 3))) (zro_of (at_ 1))) (by rw [e0, e1, e2])

theorem mandn (md : MR) (ma : MR) (mb : MR) : Statement (.mandn md ma mb) := by
  intro code hc _
  obtain rfl := Option.some.inj hc
  refine ofVA [(3, 16, 4), (0, 2 ^ 3, 3), (mb.val, 8, 3), (0, 2 ^ 2, 2), (ma.val, 8, 3), (0, 2 ^ 2, 2), (md.val, 8, 3), (0, 2 ^ 2, 2), (25, 64, 6)] (by simp only [cat, pk]; ring)
    ⟨⟨by decide, rfl⟩, ⟨by decide, rfl⟩, ⟨mb.isLt, rfl⟩, ⟨by decide, rfl⟩, ⟨ma.isLt, rfl⟩, ⟨by decide, rfl⟩, ⟨md.isLt, rfl⟩, ⟨by decide, rfl⟩, ⟨by decide, rfl⟩, trivial⟩ fun w at_ => ?_
  have h1 : w / 2 ^ 22 % 64 = 25 := at_ 8
  have h2 : w / 2 ^ 0 % 16 = 3 := at_ 0
  have e0 : fld 8 w 17 = md := fld_of (at_ 6)
  have e1 : fld 8 w 12 = ma := fld_of (at_ 4)
  have e2 : fld 8 w 7 = mb := fld_of (at_ 2)
  unfold decodeVA
  rw [h1, h2]
  exact need_of (and_of (and_of (and_of (zro_of (at_ 7)) (zro_of (at_ 5))) (zro_of (at_ 3))) (zro_of (at_ 1))) (by rw [e0, e1, e2])

theorem mnot (md : MR) (ma : MR) : Statement (.mnot md ma) := by
  intro code hc _
  obtain rfl := Option.some.inj hc
  refine ofVA [(4, 16, 4), (0, 2 ^ 8, 8), (ma.val, 8, 3), (0, 2 ^ 2, 2), (md.val, 8, 3), (0, 2 ^ 2, 2), (25, 64, 6)] (by simp only [cat, pk]; ring)
    ⟨⟨by decide, rfl⟩, ⟨by decide, rfl⟩, ⟨ma.isLt, rfl⟩, ⟨by decide, rfl⟩, ⟨md.isLt, rfl⟩, ⟨by decide, rfl⟩, ⟨by decide, rfl⟩, trivial⟩ fun w at_ => ?_
  have h1 : w / 2 ^ 22 % 64 = 25 := at_ 6
  have h2 : w / 2 ^ 0 % 16 = 4 := at_ 0
  have e0 : fld 8 w 17 = md := fld_of (at_ 4)
  have e1 : fld 8 w 12 = ma := fld_of (at_ 2)
  unfold decodeVA
  rw [h1, h2]
  exact need_of (and_of (and_of (zro_of (at_ 5)) (zro_of (at_ 3))) (zro_of (at_ 1))) (by rw [e0, e1])

theorem mmov (md : MR) (ma : MR) : Statement (.mmov md ma) := by
  intro code hc _
  obtain rfl := Option.some.inj hc
  refine ofVA [(5, 16, 4), (0, 2 ^ 8, 8), (ma.val, 8, 3), (0, 2 ^ 2, 2), (md.val, 8, 3), (0, 2 ^ 2, 2), (25, 64, 6)] (by simp only [cat, pk]; ring)
    ⟨⟨by decide, rfl⟩, ⟨by decide, rfl⟩, ⟨ma.isLt, rfl⟩, ⟨by decide, rfl⟩, ⟨md.isLt, rfl⟩, ⟨by decide, rfl⟩, ⟨by decide, rfl⟩, trivial⟩ fun w at_ => ?_
  have h1 : w / 2 ^ 22 % 64 = 25 := at_ 6
  have h2 : w / 2 ^ 0 % 16 = 5 := at_ 0
  have e0 : fld 8 w 17 = md := fld_of (at_ 4)
  have e1 : fld 8 w 12 = ma := fld_of (at_ 2)
  unfold decodeVA
  rw [h1, h2]
  exact need_of (and_of (and_of (zro_of (at_ 5)) (zro_of (at_ 3))) (zro_of (at_ 1))) (by rw [e0, e1])

theorem mpop (d : SR) (ma : MR) : Statement (.mpop d ma) := by
  intro code hc _
  obtain rfl := Option.some.inj hc
  refine ofVA [(0, 16, 4), (0, 2 ^ 8, 8), (ma.val, 8, 3), (0, 2 ^ 2, 2), (d.val, 32, 5), (26, 64, 6)] (by simp only [cat, pk]; ring)
    ⟨⟨by decide, rfl⟩, ⟨by decide, rfl⟩, ⟨ma.isLt, rfl⟩, ⟨by decide, rfl⟩, ⟨d.isLt, rfl⟩, ⟨by decide, rfl⟩, trivial⟩ fun w at_ => ?_
  have h1 : w / 2 ^ 22 % 64 = 26 := at_ 5
  have h2 : w / 2 ^ 0 % 16 = 0 := at_ 0
  have e0 : fld 32 w 17 = d := fld_of (at_ 4)
  have e1 : fld 8 w 12 = ma := fld_of (at_ 2)
  unfold decodeVA
  rw [h1, h2]
  exact need_of (and_of (zro_of (at_ 3)) (zro_of (at_ 1))) (by rw [e0, e1])

theorem mfirst (d : SR) (ma : MR) : Statement (.mfirst d ma) := by
  intro code hc _
  obtain rfl := Option.some.inj hc
  refine ofVA [(1, 16, 4), (0, 2 ^ 8, 8), (ma.val, 8, 3), (0, 2 ^ 2, 2), (d.val, 32, 5), (26, 64, 6)] (by simp only [cat, pk]; ring)
    ⟨⟨by decide, rfl⟩, ⟨by decide, rfl⟩, ⟨ma.isLt, rfl⟩, ⟨by decide, rfl⟩, ⟨d.isLt, rfl⟩, ⟨by decide, rfl⟩, trivial⟩ fun w at_ => ?_
  have h1 : w / 2 ^ 22 % 64 = 26 := at_ 5
  have h2 : w / 2 ^ 0 % 16 = 1 := at_ 0
  have e0 : fld 32 w 17 = d := fld_of (at_ 4)
  have e1 : fld 8 w 12 = ma := fld_of (at_ 2)
  unfold decodeVA
  rw [h1, h2]
  exact need_of (and_of (zro_of (at_ 3)) (zro_of (at_ 1))) (by rw [e0, e1])

theorem mlast (d : SR) (ma : MR) : Statement (.mlast d ma) := by
  intro code hc _
  obtain rfl := Option.some.inj hc
  refine ofVA [(2, 16, 4), (0, 2 ^ 8, 8), (ma.val, 8, 3), (0, 2 ^ 2, 2), (d.val, 32, 5), (26, 64, 6)] (by simp only [cat, pk]; ring)
    ⟨⟨by decide, rfl⟩, ⟨by decide, rfl⟩, ⟨ma.isLt, rfl⟩, ⟨by decide, rfl⟩, ⟨d.isLt, rfl⟩, ⟨by decide, rfl⟩, trivial⟩ fun w at_ => ?_
  have h1 : w / 2 ^ 22 % 64 = 26 := at_ 5
  have h2 : w / 2 ^ 0 % 16 = 2 := at_ 0
  have e0 : fld 32 w 17 = d := fld_of (at_ 4)
  have e1 : fld 8 w 12 = ma := fld_of (at_ 2)
  unfold decodeVA
  rw [h1, h2]
  exact need_of (and_of (zro_of (at_ 3)) (zro_of (at_ 1))) (by rw [e0, e1])

theorem vmul (d : VR) (a : VR) (b : VR) (m : MR) (ty : Fin 16) : Statement (.vmul d a b m ty) := by
  intro code hc _
  obtain rfl := Option.some.inj hc
  refine ofVB [(ty.val, 16, 4), (m.val, 8, 3), (b.val, 32, 5), (a.val, 32, 5), (d.val, 32, 5), (0, 64, 6)] (by simp only [cat, pk]; ring)
    ⟨⟨ty.isLt, rfl⟩, ⟨m.isLt, rfl⟩, ⟨b.isLt, rfl⟩, ⟨a.isLt, rfl⟩, ⟨d.isLt, rfl⟩, ⟨by decide, rfl⟩, trivial⟩ fun w at_ => ?_
  have h1 : w / 2 ^ 22 % 64 = 0 := at_ 5
  have e0 : fld 32 w 17 = d := fld_of (at_ 4)
  have e1 : fld 32 w 12 = a := fld_of (at_ 3)
  have e2 : fld 32 w 7 = b := fld_of (at_ 2)
  have e3 : fld 8 w 4 = m := fld_of (at_ 1)
  have e4 : fld 16 w 0 = ty := fld_of (at_ 0)
  unfold decodeVB
  rw [h1]
  exact congrArg Except.ok (by rw [e0, e1, e2, e3, e4])

theorem vfma (d : VR) (a : VR) (b : VR) (m : MR) (ty : Fin 16) : Statement (.vfma d a b m ty) := by
  intro code hc _
  obtain rfl := Option.some.inj hc
  refine ofVB [(ty.val, 16, 4), (m.val, 8, 3), (b.val, 32, 5), (a.val, 32, 5), (d.val, 32, 5), (1, 64, 6)] (by simp only [cat, pk]; ring)
    ⟨⟨ty.isLt, rfl⟩, ⟨m.isLt, rfl⟩, ⟨b.isLt, rfl⟩, ⟨a.isLt, rfl⟩, ⟨d.isLt, rfl⟩, ⟨by decide, rfl⟩, trivial⟩ fun w at_ => ?_
  have h1 : w / 2 ^ 22 % 64 = 1 := at_ 5
  have e0 : fld 32 w 17 = d := fld_of (at_ 4)
  have e1 : fld 32 w 12 = a := fld_of (at_ 3)
  have e2 : fld 32 w 7 = b := fld_of (at_ 2)
  have e3 : fld 8 w 4 = m := fld_of (at_ 1)
  have e4 : fld 16 w 0 = ty := fld_of (at_ 0)
  unfold decodeVB
  rw [h1]
  exact congrArg Except.ok (by rw [e0, e1, e2, e3, e4])

theorem vfnma (d : VR) (a : VR) (b : VR) (m : MR) (ty : Fin 16) : Statement (.vfnma d a b m ty) := by
  intro code hc _
  obtain rfl := Option.some.inj hc
  refine ofVB [(ty.val, 16, 4), (m.val, 8, 3), (b.val, 32, 5), (a.val, 32, 5), (d.val, 32, 5), (2, 64, 6)] (by simp only [cat, pk]; ring)
    ⟨⟨ty.isLt, rfl⟩, ⟨m.isLt, rfl⟩, ⟨b.isLt, rfl⟩, ⟨a.isLt, rfl⟩, ⟨d.isLt, rfl⟩, ⟨by decide, rfl⟩, trivial⟩ fun w at_ => ?_
  have h1 : w / 2 ^ 22 % 64 = 2 := at_ 5
  have e0 : fld 32 w 17 = d := fld_of (at_ 4)
  have e1 : fld 32 w 12 = a := fld_of (at_ 3)
  have e2 : fld 32 w 7 = b := fld_of (at_ 2)
  have e3 : fld 8 w 4 = m := fld_of (at_ 1)
  have e4 : fld 16 w 0 = ty := fld_of (at_ 0)
  unfold decodeVB
  rw [h1]
  exact congrArg Except.ok (by rw [e0, e1, e2, e3, e4])

theorem vrcp (d : VR) (a : VR) (m : MR) (ty : Fin 16) : Statement (.vrcp d a m ty) := by
  intro code hc _
  obtain rfl := Option.some.inj hc
  refine ofVB [(ty.val, 16, 4), (m.val, 8, 3), (0, 2 ^ 5, 5), (a.val, 32, 5), (d.val, 32, 5), (3, 64, 6)] (by simp only [cat, pk]; ring)
    ⟨⟨ty.isLt, rfl⟩, ⟨m.isLt, rfl⟩, ⟨by decide, rfl⟩, ⟨a.isLt, rfl⟩, ⟨d.isLt, rfl⟩, ⟨by decide, rfl⟩, trivial⟩ fun w at_ => ?_
  have h1 : w / 2 ^ 22 % 64 = 3 := at_ 5
  have e0 : fld 32 w 17 = d := fld_of (at_ 4)
  have e1 : fld 32 w 12 = a := fld_of (at_ 3)
  have e2 : fld 8 w 4 = m := fld_of (at_ 1)
  have e3 : fld 16 w 0 = ty := fld_of (at_ 0)
  unfold decodeVB
  rw [h1]
  exact need_of (zro_of (at_ 2)) (by rw [e0, e1, e2, e3])

theorem vrsq (d : VR) (a : VR) (m : MR) (ty : Fin 16) : Statement (.vrsq d a m ty) := by
  intro code hc _
  obtain rfl := Option.some.inj hc
  refine ofVB [(ty.val, 16, 4), (m.val, 8, 3), (0, 2 ^ 5, 5), (a.val, 32, 5), (d.val, 32, 5), (4, 64, 6)] (by simp only [cat, pk]; ring)
    ⟨⟨ty.isLt, rfl⟩, ⟨m.isLt, rfl⟩, ⟨by decide, rfl⟩, ⟨a.isLt, rfl⟩, ⟨d.isLt, rfl⟩, ⟨by decide, rfl⟩, trivial⟩ fun w at_ => ?_
  have h1 : w / 2 ^ 22 % 64 = 4 := at_ 5
  have e0 : fld 32 w 17 = d := fld_of (at_ 4)
  have e1 : fld 32 w 12 = a := fld_of (at_ 3)
  have e2 : fld 8 w 4 = m := fld_of (at_ 1)
  have e3 : fld 16 w 0 = ty := fld_of (at_ 0)
  unfold decodeVB
  rw [h1]
  exact need_of (zro_of (at_ 2)) (by rw [e0, e1, e2, e3])

theorem vsqrt (d : VR) (a : VR) (m : MR) (ty : Fin 16) : Statement (.vsqrt d a m ty) := by
  intro code hc _
  obtain rfl := Option.some.inj hc
  refine ofVB [(ty.val, 16, 4), (m.val, 8, 3), (0, 2 ^ 5, 5), (a.val, 32, 5), (d.val, 32, 5), (5, 64, 6)] (by simp only [cat, pk]; ring)
    ⟨⟨ty.isLt, rfl⟩, ⟨m.isLt, rfl⟩, ⟨by decide, rfl⟩, ⟨a.isLt, rfl⟩, ⟨d.isLt, rfl⟩, ⟨by decide, rfl⟩, trivial⟩ fun w at_ => ?_
  have h1 : w / 2 ^ 22 % 64 = 5 := at_ 5
  have e0 : fld 32 w 17 = d := fld_of (at_ 4)
  have e1 : fld 32 w 12 = a := fld_of (at_ 3)
  have e2 : fld 8 w 4 = m := fld_of (at_ 1)
  have e3 : fld 16 w 0 = ty := fld_of (at_ 0)
  unfold decodeVB
  rw [h1]
  exact need_of (zro_of (at_ 2)) (by rw [e0, e1, e2, e3])

theorem vexp2 (d : VR) (a : VR) (m : MR) (ty : Fin 16) : Statement (.vexp2 d a m ty) := by
  intro code hc _
  obtain rfl := Option.some.inj hc
  refine ofVB [(ty.val, 16, 4), (m.val, 8, 3), (0, 2 ^ 5, 5), (a.val, 32, 5), (d.val, 32, 5), (6, 64, 6)] (by simp only [cat, pk]; ring)
    ⟨⟨ty.isLt, rfl⟩, ⟨m.isLt, rfl⟩, ⟨by decide, rfl⟩, ⟨a.isLt, rfl⟩, ⟨d.isLt, rfl⟩, ⟨by decide, rfl⟩, trivial⟩ fun w at_ => ?_
  have h1 : w / 2 ^ 22 % 64 = 6 := at_ 5
  have e0 : fld 32 w 17 = d := fld_of (at_ 4)
  have e1 : fld 32 w 12 = a := fld_of (at_ 3)
  have e2 : fld 8 w 4 = m := fld_of (at_ 1)
  have e3 : fld 16 w 0 = ty := fld_of (at_ 0)
  unfold decodeVB
  rw [h1]
  exact need_of (zro_of (at_ 2)) (by rw [e0, e1, e2, e3])

theorem vlog2 (d : VR) (a : VR) (m : MR) (ty : Fin 16) : Statement (.vlog2 d a m ty) := by
  intro code hc _
  obtain rfl := Option.some.inj hc
  refine ofVB [(ty.val, 16, 4), (m.val, 8, 3), (0, 2 ^ 5, 5), (a.val, 32, 5), (d.val, 32, 5), (7, 64, 6)] (by simp only [cat, pk]; ring)
    ⟨⟨ty.isLt, rfl⟩, ⟨m.isLt, rfl⟩, ⟨by decide, rfl⟩, ⟨a.isLt, rfl⟩, ⟨d.isLt, rfl⟩, ⟨by decide, rfl⟩, trivial⟩ fun w at_ => ?_
  have h1 : w / 2 ^ 22 % 64 = 7 := at_ 5
  have e0 : fld 32 w 17 = d := fld_of (at_ 4)
  have e1 : fld 32 w 12 = a := fld_of (at_ 3)
  have e2 : fld 8 w 4 = m := fld_of (at_ 1)
  have e3 : fld 16 w 0 = ty := fld_of (at_ 0)
  unfold decodeVB
  rw [h1]
  exact need_of (zro_of (at_ 2)) (by rw [e0, e1, e2, e3])

theorem vdiv (d : VR) (a : VR) (b : VR) (m : MR) (ty : Fin 16) : Statement (.vdiv d a b m ty) := by
  intro code hc _
  obtain rfl := Option.some.inj hc
  refine ofVB [(ty.val, 16, 4), (m.val, 8, 3), (b.val, 32, 5), (a.val, 32, 5), (d.val, 32, 5), (8, 64, 6)] (by simp only [cat, pk]; ring)
    ⟨⟨ty.isLt, rfl⟩, ⟨m.isLt, rfl⟩, ⟨b.isLt, rfl⟩, ⟨a.isLt, rfl⟩, ⟨d.isLt, rfl⟩, ⟨by decide, rfl⟩, trivial⟩ fun w at_ => ?_
  have h1 : w / 2 ^ 22 % 64 = 8 := at_ 5
  have e0 : fld 32 w 17 = d := fld_of (at_ 4)
  have e1 : fld 32 w 12 = a := fld_of (at_ 3)
  have e2 : fld 32 w 7 = b := fld_of (at_ 2)
  have e3 : fld 8 w 4 = m := fld_of (at_ 1)
  have e4 : fld 16 w 0 = ty := fld_of (at_ 0)
  unfold decodeVB
  rw [h1]
  exact congrArg Except.ok (by rw [e0, e1, e2, e3, e4])

theorem vscl (d : VR) (a : VR) (b : VR) (m : MR) (ty : Fin 16) : Statement (.vscl d a b m ty) := by
  intro code hc _
  obtain rfl := Option.some.inj hc
  refine ofVB [(ty.val, 16, 4), (m.val, 8, 3), (b.val, 32, 5), (a.val, 32, 5), (d.val, 32, 5), (9, 64, 6)] (by simp only [cat, pk]; ring)
    ⟨⟨ty.isLt, rfl⟩, ⟨m.isLt, rfl⟩, ⟨b.isLt, rfl⟩, ⟨a.isLt, rfl⟩, ⟨d.isLt, rfl⟩, ⟨by decide, rfl⟩, trivial⟩ fun w at_ => ?_
  have h1 : w / 2 ^ 22 % 64 = 9 := at_ 5
  have e0 : fld 32 w 17 = d := fld_of (at_ 4)
  have e1 : fld 32 w 12 = a := fld_of (at_ 3)
  have e2 : fld 32 w 7 = b := fld_of (at_ 2)
  have e3 : fld 8 w 4 = m := fld_of (at_ 1)
  have e4 : fld 16 w 0 = ty := fld_of (at_ 0)
  unfold decodeVB
  rw [h1]
  exact congrArg Except.ok (by rw [e0, e1, e2, e3, e4])

theorem vrng (d : VR) (a : VR) (s : SR) : Statement (.vrng d a s) := by
  intro code hc _
  obtain rfl := Option.some.inj hc
  refine ofVB [(0, 2 ^ 7, 7), (s.val, 32, 5), (a.val, 32, 5), (d.val, 32, 5), (10, 64, 6)] (by simp only [cat, pk]; ring)
    ⟨⟨by decide, rfl⟩, ⟨s.isLt, rfl⟩, ⟨a.isLt, rfl⟩, ⟨d.isLt, rfl⟩, ⟨by decide, rfl⟩, trivial⟩ fun w at_ => ?_
  have h1 : w / 2 ^ 22 % 64 = 10 := at_ 4
  have e0 : fld 32 w 17 = d := fld_of (at_ 3)
  have e1 : fld 32 w 12 = a := fld_of (at_ 2)
  have e2 : fld 32 w 7 = s := fld_of (at_ 1)
  unfold decodeVB
  rw [h1]
  exact need_of (zro_of (at_ 0)) (by rw [e0, e1, e2])

theorem vqnt (d : VR) (a : VR) (rnd : Fin 8) (ty : Fin 16) : Statement (.vqnt d a rnd ty) := by
  intro code hc _
  obtain rfl := Option.some.inj hc
  refine ofVB [(ty.val, 16, 4), (0, 2 ^ 3, 3), (rnd.val, 8, 3), (0, 2 ^ 2, 2), (a.val, 32, 5), (d.val, 32, 5), (11, 64, 6)] (by simp only [cat, pk]; ring)
    ⟨⟨ty.isLt, rfl⟩, ⟨by decide, rfl⟩, ⟨rnd.isLt, rfl⟩, ⟨by decide, rfl⟩, ⟨a.isLt, rfl⟩, ⟨d.isLt, rfl⟩, ⟨by decide, rfl⟩, trivial⟩ fun w at_ => ?_
  have h1 : w / 2 ^ 22 % 64 = 11 := at_ 6
  have e0 : fld 32 w 17 = d := fld_of (at_ 5)
  have e1 : fld 32 w 12 = a := fld_of (at_ 4)
  have e2 : fld 8 w 7 = rnd := fld_of (at_ 2)
  have e3 : fld 16 w 0 = ty := fld_of (at_ 0)
  unfold decodeVB
  rw [h1]
  exact need_of (and_of (zro_of (at_ 3)) (zro_of (at_ 1))) (by rw [e0, e1, e2, e3])

theorem vdqnt (d : VR) (a : VR) (rnd : Fin 8) (ty : Fin 16) : Statement (.vdqnt d a rnd ty) := by
  intro code hc _
  obtain rfl := Option.some.inj hc
  refine ofVB [(ty.val, 16, 4), (0, 2 ^ 3, 3), (rnd.val, 8, 3), (0, 2 ^ 2, 2), (a.val, 32, 5), (d.val, 32, 5), (12, 64, 6)] (by simp only [cat, pk]; ring)
    ⟨⟨ty.isLt, rfl⟩, ⟨by decide, rfl⟩, ⟨rnd.isLt, rfl⟩, ⟨by decide, rfl⟩, ⟨a.isLt, rfl⟩, ⟨d.isLt, rfl⟩, ⟨by decide, rfl⟩, trivial⟩ fun w at_ => ?_
  have h1 : w / 2 ^ 22 % 64 = 12 := at_ 6
  have e0 : fld 32 w 17 = d := fld_of (at_ 5)
  have e1 : fld 32 w 12 = a := fld_of (at_ 4)
  have e2 : fld 8 w 7 = rnd := fld_of (at_ 2)
  have e3 : fld 16 w 0 = ty := fld_of (at_ 0)
  unfold decodeVB
  rw [h1]
  exact need_of (and_of (zro_of (at_ 3)) (zro_of (at_ 1))) (by rw [e0, e1, e2, e3])

theorem vmaxw (d : VR) (a : VR) (n : Fin 32) (w1 : WR) (ty : Fin 16) : Statement (.vmaxw d a n w1 ty) := by
  intro code hc _
  obtain rfl := Option.some.inj hc
  refine ofVB [(ty.val, 16, 4), (w1.val, 8, 3), (n.val, 32, 5), (a.val, 32, 5), (d.val, 32, 5), (16, 64, 6)] (by simp only [cat, pk]; ring)
    ⟨⟨ty.isLt, rfl⟩, ⟨w1.isLt, rfl⟩, ⟨n.isLt, rfl⟩, ⟨a.isLt, rfl⟩, ⟨d.isLt, rfl⟩, ⟨by decide, rfl⟩, trivial⟩ fun w at_ => ?_
  have h1 : w / 2 ^ 22 % 64 = 16 := at_ 5
  have e0 : fld 32 w 17 = d := fld_of (at_ 4)
  have e1 : fld 32 w 12 = a := fld_of (at_ 3)
  have e2 : fld 32 w 7 = n := fld_of (at_ 2)
  have e3 : fld 8 w 4 = w1 := fld_of (at_ 1)
  have e4 : fld 16 w 0 = ty := fld_of (at_ 0)
  unfold decodeVB
  rw [h1]
  exact congrArg Except.ok (by rw [e0, e1, e2, e3, e4])

theorem vminw (d : VR) (a : VR) (n : Fin 32) (w1 : WR) (ty : Fin 16) : Statement (.vminw d a n w1 ty) := by
  intro code hc _
  obtain rfl := Option.some.inj hc
  refine ofVB [(ty.val, 16, 4), (w1.val, 8, 3), (n.val, 32, 5), (a.val, 32, 5), (d.val, 32, 5), (17, 64, 6)] (by simp only [cat, pk]; ring)
    ⟨⟨ty.isLt, rfl⟩, ⟨w1.isLt, rfl⟩, ⟨n.isLt, rfl⟩, ⟨a.isLt, rfl⟩, ⟨d.isLt, rfl⟩, ⟨by decide, rfl⟩, trivial⟩ fun w at_ => ?_
  have h1 : w / 2 ^ 22 % 64 = 17 := at_ 5
  have e0 : fld 32 w 17 = d := fld_of (at_ 4)
  have e1 : fld 32 w 12 = a := fld_of (at_ 3)
  have e2 : fld 32 w 7 = n := fld_of (at_ 2)
  have e3 : fld 8 w 4 = w1 := fld_of (at_ 1)
  have e4 : fld 16 w 0 = ty := fld_of (at_ 0)
  unfold decodeVB
  rw [h1]
  exact congrArg Except.ok (by rw [e0, e1, e2, e3, e4])

theorem vmedw (d : VR) (a : VR) (n : Fin 32) (w1 : WR) (ty : Fin 16) : Statement (.vmedw d a n w1 ty) := by
  intro code hc _
  obtain rfl := Option.some.inj hc
  refine ofVB [(ty.val, 16, 4), (w1.val, 8, 3), (n.val, 32, 5), (a.val, 32, 5), (d.val, 32, 5), (18, 64, 6)] (by simp only [cat, pk]; ring)
    ⟨⟨ty.isLt, rfl⟩, ⟨w1.isLt, rfl⟩, ⟨n.isLt, rfl⟩, ⟨a.isLt, rfl⟩, ⟨d.isLt, rfl⟩, ⟨by decide, rfl⟩, trivial⟩ fun w at_ => ?_
  have h1 : w / 2 ^ 22 % 64 = 18 := at_ 5
  have e0 : fld 32 w 17 = d := fld_of (at_ 4)
  have e1 : fld 32 w 12 = a := fld_of (at_ 3)
  have e2 : fld 32 w 7 = n := fld_of (at_ 2)
  have e3 : fld 8 w 4 = w1 := fld_of (at_ 1)
  have e4 : fld 16 w 0 = ty := fld_of (at_ 0)
  unfold decodeVB
  rw [h1]
  exact congrArg Except.ok (by rw [e0, e1, e2, e3, e4])

theorem vclpw (d : VR) (a : VR) (b : VR) (w1 : WR) (ty : Fin 16) : Statement (.vclpw d a b w1 ty) := by
  intro code hc _
  obtain rfl := Option.some.inj hc
  refine ofVB [(ty.val, 16, 4), (w1.val, 8, 3), (b.val, 32, 5), (a.val, 32, 5), (d.val, 32, 5), (19, 64, 6)] (by simp only [cat, pk]; ring)
    ⟨⟨ty.isLt, rfl⟩, ⟨w1.isLt, rfl⟩, ⟨b.isLt, rfl⟩, ⟨a.isLt, rfl⟩, ⟨d.isLt, rfl⟩, ⟨by decide, rfl⟩, trivial⟩ fun w at_ => ?_
  have h1 : w / 2 ^ 22 % 64 = 19 := at_ 5
  have e0 : fld 32 w 17 = d := fld_of (at_ 4)
  have e1 : fld 32 w 12 = a := fld_of (at_ 3)
  have e2 : fld 32 w 7 = b := fld_of (at_ 2)
  have e3 : fld 8 w 4 = w1 := fld_of (at_ 1)
  have e4 : fld 16 w 0 = ty := fld_of (at_ 0)
  unfold decodeVB
  rw [h1]
  exact congrArg Except.ok (by rw [e0, e1, e2, e3, e4])

theorem vssmw (d : VR) (a : VR) (n : Fin 32) (w1 : WR) (ty : Fin 16) : Statement (.vssmw d a n w1 ty) := by
  intro code hc _
  obtain rfl := Option.some.inj hc
  refine ofVB [(ty.val, 16, 4), (w1.val, 8, 3), (n.val, 32, 5), (a.val, 32, 5), (d.val, 32, 5), (20, 64, 6)] (by simp only [cat, pk]; ring)
    ⟨⟨ty.isLt, rfl⟩, ⟨w1.isLt, rfl⟩, ⟨n.isLt, rfl⟩, ⟨a.isLt, rfl⟩, ⟨d.isLt, rfl⟩, ⟨by decide, rfl⟩, trivial⟩ fun w at_ => ?_
  have h1 : w / 2 ^ 22 % 64 = 20 := at_ 5
  have e0 : fld 32 w 17 = d := fld_of (at_ 4)
  have e1 : fld 32 w 12 = a := fld_of (at_ 3)
  have e2 : fld 32 w 7 = n := fld_of (at_ 2)
  have e3 : fld 8 w 4 = w1 := fld_of (at_ 1)
  have e4 : fld 16 w 0 = ty := fld_of (at_ 0)
  unfold decodeVB
  rw [h1]
  exact congrArg Except.ok (by rw [e0, e1, e2, e3, e4])

theorem vrmaxw (d : VR) (a : VR) (n : Fin 32) (w1 : WR) (ty : Fin 16) : Statement (.vrmaxw d a n w1 ty) := by
  intro code hc _
  obtain rfl := Option.some.inj hc
  refine ofVB [(ty.val, 16, 4), (w1.val, 8, 3), (n.val, 32, 5), (a.val, 32, 5), (d.val, 32, 5), (21, 64, 6)] (by simp only [cat, pk]; ring)
    ⟨⟨ty.isLt, rfl⟩, ⟨w1.isLt, rfl⟩, ⟨n.isLt, rfl⟩, ⟨a.isLt, rfl⟩, ⟨d.isLt, rfl⟩, ⟨by decide, rfl⟩, trivial⟩ fun w at_ => ?_
  have h1 : w / 2 ^ 22 % 64 = 21 := at_ 5
  have e0 : fld 32 w 17 = d := fld_of (at_ 4)
  have e1 : fld 32 w 12 = a := fld_of (at_ 3)
  have e2 : fld 32 w 7 = n := fld_of (at_ 2)
  have e3 : fld 8 w 4 = w1 := fld_of (at_ 1)
  have e4 : fld 16 w 0 = ty := fld_of (at_ 0)
  unfold decodeVB
  rw [h1]
  exact congrArg Except.ok (by rw [e0, e1, e2, e3, e4])

theorem vrminw (d : VR) (a : VR) (n : Fin 32) (w1 : WR) (ty : Fin 16) : Statement (.vrminw d a n w1 ty) := by
  intro code hc _
  obtain rfl := Option.some.inj hc
  refine ofVB [(ty.val, 16, 4), (w1.val, 8, 3), (n.val, 32, 5), (a.val, 32, 5), (d.val, 32, 5), (22, 64, 6)] (by simp only [cat, pk]; ring)
    ⟨⟨ty.isLt, rfl⟩, ⟨w1.isLt, rfl⟩, ⟨n.isLt, rfl⟩, ⟨a.isLt, rfl⟩, ⟨d.isLt, rfl⟩, ⟨by decide, rfl⟩, trivial⟩ fun w at_ => ?_
  have h1 : w / 2 ^ 22 % 64 = 22 := at_ 5
  have e0 : fld 32 w 17 = d := fld_of (at_ 4)
  have e1 : fld 32 w 12 = a := fld_of (at_ 3)
  have e2 : fld 32 w 7 = n := fld_of (at_ 2)
  have e3 : fld 8 w 4 = w1 := fld_of (at_ 1)
  have e4 : fld 16 w 0 = ty := fld_of (at_ 0)
  unfold decodeVB
  rw [h1]
  exact congrArg Except.ok (by rw [e0, e1, e2, e3, e4])

theorem vadj (d : VR) (g : VR) (s : SR) (w1 : WR) (last : Bool) (gf : Fin 8) : Statement (.vadj d g s w1 last gf) := by
  intro code hc _
  obtain rfl := Option.some.inj hc
  refine ofVB [(gf.val, 8, 3), (last.toNat, 2, 1), (w1.val, 8, 3), (s.val, 32, 5), (g.val, 32, 5), (d.val, 32, 5), (23, 64, 6)] (by simp only [cat, pk]; ring)
    ⟨⟨gf.isLt, rfl⟩, ⟨last.toNat_lt, rfl⟩, ⟨w1.isLt, rfl⟩, ⟨s.isLt, rfl⟩, ⟨g.isLt, rfl⟩, ⟨d.isLt, rfl⟩, ⟨by decide, rfl⟩, trivial⟩ fun w at_ => ?_
  have h1 : w / 2 ^ 22 % 64 = 23 := at_ 6
  have e0 : fld 32 w 17 = d := fld_of (at_ 5)
  have e1 : fld 32 w 12 = g := fld_of (at_ 4)
  have e2 : fld 32 w 7 = s := fld_of (at_ 3)
  have e3 : fld 8 w 4 = w1 := fld_of (at_ 2)
  have e4 : flg w 3 = last := flg_of (at_ 1)
  have e5 : fld 8 w 0 = gf := fld_of (at_ 0)
  unfold decodeVB
  rw [h1]
  exact congrArg Except.ok (by rw [e0, e1, e2, e3, e4, e5])

theorem wtag (d : SR) (w1 : WR) : Statement (.wtag d w1) := by
  intro code hc _
  obtain rfl := Option.some.inj hc
  refine ofVB [(0, 2 ^ 4, 4), (w1.val, 8, 3), (0, 2 ^ 10, 10), (d.val, 32, 5), (24, 64, 6)] (by simp only [cat, pk]; ring)
    ⟨⟨by decide, rfl⟩, ⟨w1.isLt, rfl⟩, ⟨by decide, rfl⟩, ⟨d.isLt, rfl⟩, ⟨by decide, rfl⟩, trivial⟩ fun w at_ => ?_
  have h1 : w / 2 ^ 22 % 64 = 24 := at_ 4
  have e0 : fld 32 w 17 = d := fld_of (at_ 3)
  have e1 : fld 8 w 4 = w1 := fld_of (at_ 1)
  unfold decodeVB
  rw [h1]
  exact need_of (and_of (zro_of (at_ 2)) (zro_of (at_ 0))) (by rw [e0, e1])

theorem wclr (w1 : WR) : Statement (.wclr w1) := by
  intro code hc _
  obtain rfl := Option.some.inj hc
  refine ofVB [(0, 2 ^ 4, 4), (w1.val, 8, 3), (0, 2 ^ 15, 15), (25, 64, 6)] (by simp only [cat, pk]; ring)
    ⟨⟨by decide, rfl⟩, ⟨w1.isLt, rfl⟩, ⟨by decide, rfl⟩, ⟨by decide, rfl⟩, trivial⟩ fun w at_ => ?_
  have h1 : w / 2 ^ 22 % 64 = 25 := at_ 3
  have e0 : fld 8 w 4 = w1 := fld_of (at_ 1)
  unfold decodeVB
  rw [h1]
  exact need_of (and_of (zro_of (at_ 2)) (zro_of (at_ 0))) (by rw [e0])

theorem mma (td : TR) (aA : AR) (aB : AR) (aS : AR) (z : Bool) (tok : Tokens) : Statement (.mma td aA aB aS z tok) := by
  intro code hc wf
  obtain rfl := Option.some.inj hc
  refine wordMX fun w hw => ?_
  have := z.toNat_lt
  have := putTokens_lt tok
  have := putTokens_low tok
  replace wf : tok.ok = true := wf
  simp only [pk] at hw
  have h1 := op_of (w := w) (n := 0) (by omega)
  have e0 : fld 16 w 18 = td := fld_of (by omega)
  have e1 : fld 16 w 14 = aA := fld_of (by omega)
  have e2 : fld 16 w 10 = aB := fld_of (by omega)
  have e3 : fld 16 w 6 = aS := fld_of (by omega)
  have e4 : flg w 5 = z := flg_of (by omega)
  have e5 : tokens w = tok := tokens_of (by omega)
  unfold decodeMX
  rw [h1]
  exact need_of (and_of (and_of (zro_of (by omega)) (zro_of (by omega))) (by rw [e5]; exact wf)) (by rw [e0, e1, e2, e3, e4, e5])

theorem tzero (td : TR) : Statement (.tzero td) := by
  intro code hc _
  obtain rfl := Option.some.inj hc
  refine ofMX [(0, 2 ^ 18, 18), (td.val, 16, 4), (1, 64, 6), (0, 2 ^ 4, 4), (0, 2 ^ 31, 31)] (by simp only [cat, pk]; ring)
    ⟨⟨by decide, rfl⟩, ⟨td.isLt, rfl⟩, ⟨by decide, rfl⟩, ⟨by decide, rfl⟩, ⟨by decide, rfl⟩, trivial⟩ fun w at_ => ?_
  have h1 : w / 2 ^ 22 % 64 = 1 := at_ 2
  have e0 : fld 16 w 18 = td := fld_of (at_ 1)
  unfold decodeMX
  rw [h1]
  exact need_of (and_of (zro_of (at_ 0)) (zro_of (at_ 4))) (by rw [e0])

theorem tst (td : TR) (a : AR) (s : SR) (dty : Fin 16) (rnd : Fin 8) (h : Bool) (tok : Tokens) : Statement (.tst td a s dty rnd h tok) := by
  intro code hc wf
  obtain rfl := Option.some.inj hc
  refine wordMX fun w hw => ?_
  have := h.toNat_lt
  have := putTokens_lt tok
  have := putTokens_low tok
  replace wf : ((h || decide (s = 0)) && tok.ok) = true := wf
  simp only [Bool.and_eq_true, Bool.or_eq_true, decide_eq_true_eq] at wf
  simp only [pk] at hw
  have h1 := op_of (w := w) (n := 2) (by omega)
  have e0 : fld 16 w 18 = td := fld_of (by omega)
  have e1 : fld 16 w 14 = a := fld_of (by omega)
  have e2 : fld 32 w 9 = s := fld_of (by omega)
  have e3 : fld 16 w 36 = dty := fld_of (by omega)
  have e4 : fld 8 w 33 = rnd := fld_of (by omega)
  have e5 : flg w 32 = h := flg_of (by omega)
  have e6 : tokens w = tok := tokens_of (by omega)
  have last : (flg w 32 || zro w 9 5) = true := by
    rcases wf.1 with hh | hs
    · rw [e5, hh]; rfl
    · subst hs
      simp [zro_of (show w / 2 ^ 9 % 2 ^ 5 = 0 by simp only [Fin.val_zero] at hw; omega)]
  unfold decodeMX
  rw [h1]
  exact need_of (and_of (and_of (zro_of (by omega)) (by rw [e6]; exact wf.2)) last) (by rw [e0, e1, e2, e3, e4, e5, e6])

theorem tld (td : TR) (a : AR) (tok : Tokens) : Statement (.tld td a tok) := by
  intro code hc wf
  obtain rfl := Option.some.inj hc
  refine wordMX fun w hw => ?_
  have := putTokens_lt tok
  have := putTokens_low tok
  replace wf : tok.ok = true := wf
  simp only [pk] at hw
  have h1 := op_of (w := w) (n := 3) (by omega)
  have e0 : fld 16 w 18 = td := fld_of (by omega)
  have e1 : fld 16 w 14 = a := fld_of (by omega)
  have e2 : tokens w = tok := tokens_of (by omega)
  unfold decodeMX
  rw [h1]
  exact need_of (and_of (and_of (zro_of (by omega)) (zro_of (by omega))) (by rw [e2]; exact wf)) (by rw [e0, e1, e2])

theorem trd (vd : VR) (td : TR) (s : SR) : Statement (.trd vd td s) := by
  intro code hc _
  obtain rfl := Option.some.inj hc
  refine ofMX [(0, 2 ^ 8, 8), (s.val, 32, 5), (td.val, 16, 4), (vd.val, 32, 5), (4, 64, 6), (0, 2 ^ 4, 4), (0, 2 ^ 31, 31)] (by simp only [cat, pk]; ring)
    ⟨⟨by decide, rfl⟩, ⟨s.isLt, rfl⟩, ⟨td.isLt, rfl⟩, ⟨vd.isLt, rfl⟩, ⟨by decide, rfl⟩, ⟨by decide, rfl⟩, ⟨by decide, rfl⟩, trivial⟩ fun w at_ => ?_
  have h1 : w / 2 ^ 22 % 64 = 4 := at_ 4
  have e0 : fld 32 w 17 = vd := fld_of (at_ 3)
  have e1 : fld 16 w 13 = td := fld_of (at_ 2)
  have e2 : fld 32 w 8 = s := fld_of (at_ 1)
  unfold decodeMX
  rw [h1]
  exact need_of (and_of (zro_of (at_ 0)) (zro_of (at_ 6))) (by rw [e0, e1, e2])

theorem twr (td : TR) (v : VR) (s : SR) : Statement (.twr td v s) := by
  intro code hc _
  obtain rfl := Option.some.inj hc
  refine ofMX [(0, 2 ^ 7, 7), (s.val, 32, 5), (v.val, 32, 5), (0, 2 ^ 1, 1), (td.val, 16, 4), (5, 64, 6), (0, 2 ^ 4, 4), (0, 2 ^ 31, 31)] (by simp only [cat, pk]; ring)
    ⟨⟨by decide, rfl⟩, ⟨s.isLt, rfl⟩, ⟨v.isLt, rfl⟩, ⟨by decide, rfl⟩, ⟨td.isLt, rfl⟩, ⟨by decide, rfl⟩, ⟨by decide, rfl⟩, ⟨by decide, rfl⟩, trivial⟩ fun w at_ => ?_
  have h1 : w / 2 ^ 22 % 64 = 5 := at_ 5
  have e0 : fld 16 w 18 = td := fld_of (at_ 4)
  have e1 : fld 32 w 12 = v := fld_of (at_ 2)
  have e2 : fld 32 w 7 = s := fld_of (at_ 1)
  unfold decodeMX
  rw [h1]
  exact need_of (and_of (and_of (zro_of (at_ 3)) (zro_of (at_ 0))) (zro_of (at_ 7))) (by rw [e0, e1, e2])

theorem tstat (d : SR) (td : TR) (c : Bool) : Statement (.tstat d td c) := by
  intro code hc _
  obtain rfl := Option.some.inj hc
  refine ofMX [(0, 2 ^ 12, 12), (c.toNat, 2, 1), (td.val, 16, 4), (d.val, 32, 5), (6, 64, 6), (0, 2 ^ 4, 4), (0, 2 ^ 31, 31)] (by simp only [cat, pk]; ring)
    ⟨⟨by decide, rfl⟩, ⟨c.toNat_lt, rfl⟩, ⟨td.isLt, rfl⟩, ⟨d.isLt, rfl⟩, ⟨by decide, rfl⟩, ⟨by decide, rfl⟩, ⟨by decide, rfl⟩, trivial⟩ fun w at_ => ?_
  have h1 : w / 2 ^ 22 % 64 = 6 := at_ 4
  have e0 : fld 32 w 17 = d := fld_of (at_ 3)
  have e1 : fld 16 w 13 = td := fld_of (at_ 2)
  have e2 : flg w 12 = c := flg_of (at_ 1)
  unfold decodeMX
  rw [h1]
  exact need_of (and_of (zro_of (at_ 0)) (zro_of (at_ 6))) (by rw [e0, e1, e2])

theorem tsig (d : SR) (td : TR) (sel : Fin 16) : Statement (.tsig d td sel) := by
  intro code hc _
  obtain rfl := Option.some.inj hc
  refine ofMX [(0, 2 ^ 9, 9), (sel.val, 16, 4), (td.val, 16, 4), (d.val, 32, 5), (7, 64, 6), (0, 2 ^ 4, 4), (0, 2 ^ 31, 31)] (by simp only [cat, pk]; ring)
    ⟨⟨by decide, rfl⟩, ⟨sel.isLt, rfl⟩, ⟨td.isLt, rfl⟩, ⟨d.isLt, rfl⟩, ⟨by decide, rfl⟩, ⟨by decide, rfl⟩, ⟨by decide, rfl⟩, trivial⟩ fun w at_ => ?_
  have h1 : w / 2 ^ 22 % 64 = 7 := at_ 4
  have e0 : fld 32 w 17 = d := fld_of (at_ 3)
  have e1 : fld 16 w 13 = td := fld_of (at_ 2)
  have e2 : fld 16 w 9 = sel := fld_of (at_ 1)
  unfold decodeMX
  rw [h1]
  exact need_of (and_of (zro_of (at_ 0)) (zro_of (at_ 6))) (by rw [e0, e1, e2])

theorem cpy (ad : AR) (aS : AR) (s : SR) (dsp : Fin 8) (ssp : Fin 8) (opt : EngOpt) (tok : Tokens) : Statement (.cpy ad aS s dsp ssp opt tok) := by
  intro code hc wf
  obtain rfl := Option.some.inj hc
  refine wordMX fun w hw => ?_
  have := putEngOpt_lt opt
  have := putEngOpt_low opt
  have := putTokens_lt tok
  have := putTokens_low tok
  replace wf : (opt.ok && tok.ok) = true := wf
  simp only [Bool.and_eq_true] at wf
  simp only [pk] at hw
  have h1 := op_of (w := w) (n := 8) (by omega)
  have e0 : fld 16 w 18 = ad := fld_of (by omega)
  have e1 : fld 16 w 14 = aS := fld_of (by omega)
  have e2 : fld 32 w 9 = s := fld_of (by omega)
  have e3 : fld 8 w 6 = dsp := fld_of (by omega)
  have e4 : fld 8 w 3 = ssp := fld_of (by omega)
  have e5 : engOpt w = opt := engOpt_of (by omega)
  have e6 : tokens w = tok := tokens_of (by omega)
  unfold decodeMX
  rw [h1]
  exact need_of (and_of (and_of (and_of (zro_of (by omega)) (zro_of (by omega))) (by rw [e6]; exact wf.2)) (by rw [e5]; exact wf.1)) (by rw [e0, e1, e2, e3, e4, e5, e6])

theorem cpyx (ad : AR) (aS : AR) (s : SR) (dsp : Fin 8) (ssp : Fin 8) (opt : EngOpt) (tok : Tokens) : Statement (.cpyx ad aS s dsp ssp opt tok) := by
  intro code hc wf
  obtain rfl := Option.some.inj hc
  refine wordMX fun w hw => ?_
  have := putEngOpt_lt opt
  have := putEngOpt_low opt
  have := putTokens_lt tok
  have := putTokens_low tok
  replace wf : (opt.ok && tok.ok) = true := wf
  simp only [Bool.and_eq_true] at wf
  simp only [pk] at hw
  have h1 := op_of (w := w) (n := 9) (by omega)
  have e0 : fld 16 w 18 = ad := fld_of (by omega)
  have e1 : fld 16 w 14 = aS := fld_of (by omega)
  have e2 : fld 32 w 9 = s := fld_of (by omega)
  have e3 : fld 8 w 6 = dsp := fld_of (by omega)
  have e4 : fld 8 w 3 = ssp := fld_of (by omega)
  have e5 : engOpt w = opt := engOpt_of (by omega)
  have e6 : tokens w = tok := tokens_of (by omega)
  unfold decodeMX
  rw [h1]
  exact need_of (and_of (and_of (and_of (zro_of (by omega)) (zro_of (by omega))) (by rw [e6]; exact wf.2)) (by rw [e5]; exact wf.1)) (by rw [e0, e1, e2, e3, e4, e5, e6])

theorem gath (ad : AR) (aT : AR) (aI : AR) (s : SR) (rl : Fin 32) (opt : EngOpt) (tok : Tokens) : Statement (.gath ad aT aI s rl opt tok) := by
  intro code hc wf
  obtain rfl := Option.some.inj hc
  refine wordMX fun w hw => ?_
  have := putEngOpt_lt opt
  have := putEngOpt_low opt
  have := putTokens_lt tok
  have := putTokens_low tok
  replace wf : (opt.ok && tok.ok) = true := wf
  simp only [Bool.and_eq_true] at wf
  simp only [pk] at hw
  have h1 := op_of (w := w) (n := 10) (by omega)
  have e0 : fld 16 w 18 = ad := fld_of (by omega)
  have e1 : fld 16 w 14 = aT := fld_of (by omega)
  have e2 : fld 16 w 10 = aI := fld_of (by omega)
  have e3 : fld 32 w 5 = s := fld_of (by omega)
  have e4 : fld 32 w 0 = rl := fld_of (by omega)
  have e5 : engOpt w = opt := engOpt_of (by omega)
  have e6 : tokens w = tok := tokens_of (by omega)
  unfold decodeMX
  rw [h1]
  exact need_of (and_of (and_of (zro_of (by omega)) (by rw [e6]; exact wf.2)) (by rw [e5]; exact wf.1)) (by rw [e0, e1, e2, e3, e4, e5, e6])

theorem send (v : VR) (c : CR) : Statement (.send v c) := by
  intro code hc _
  obtain rfl := Option.some.inj hc
  refine ofCM [(0, 2 ^ 11, 11), (c.val, 64, 6), (v.val, 32, 5), (0, 64, 6)] (by simp only [cat, pk]; ring)
    ⟨⟨by decide, rfl⟩, ⟨c.isLt, rfl⟩, ⟨v.isLt, rfl⟩, ⟨by decide, rfl⟩, trivial⟩ fun w at_ => ?_
  have h1 : w / 2 ^ 22 % 64 = 0 := at_ 3
  have e0 : fld 32 w 17 = v := fld_of (at_ 2)
  have e1 : fld 64 w 11 = c := fld_of (at_ 1)
  unfold decodeCM
  rw [h1]
  exact need_of (zro_of (at_ 0)) (by rw [e0, e1])

theorem recv (v : VR) (c : CR) : Statement (.recv v c) := by
  intro code hc _
  obtain rfl := Option.some.inj hc
  refine ofCM [(0, 2 ^ 11, 11), (c.val, 64, 6), (v.val, 32, 5), (1, 64, 6)] (by simp only [cat, pk]; ring)
    ⟨⟨by decide, rfl⟩, ⟨c.isLt, rfl⟩, ⟨v.isLt, rfl⟩, ⟨by decide, rfl⟩, trivial⟩ fun w at_ => ?_
  have h1 : w / 2 ^ 22 % 64 = 1 := at_ 3
  have e0 : fld 32 w 17 = v := fld_of (at_ 2)
  have e1 : fld 64 w 11 = c := fld_of (at_ 1)
  unfold decodeCM
  rw [h1]
  exact need_of (zro_of (at_ 0)) (by rw [e0, e1])

theorem recvadd (v : VR) (c : CR) : Statement (.recvadd v c) := by
  intro code hc _
  obtain rfl := Option.some.inj hc
  refine ofCM [(0, 2 ^ 11, 11), (c.val, 64, 6), (v.val, 32, 5), (2, 64, 6)] (by simp only [cat, pk]; ring)
    ⟨⟨by decide, rfl⟩, ⟨c.isLt, rfl⟩, ⟨v.isLt, rfl⟩, ⟨by decide, rfl⟩, trivial⟩ fun w at_ => ?_
  have h1 : w / 2 ^ 22 % 64 = 2 := at_ 3
  have e0 : fld 32 w 17 = v := fld_of (at_ 2)
  have e1 : fld 64 w 11 = c := fld_of (at_ 1)
  unfold decodeCM
  rw [h1]
  exact need_of (zro_of (at_ 0)) (by rw [e0, e1])

theorem recvmax (v : VR) (c : CR) : Statement (.recvmax v c) := by
  intro code hc _
  obtain rfl := Option.some.inj hc
  refine ofCM [(0, 2 ^ 11, 11), (c.val, 64, 6), (v.val, 32, 5), (3, 64, 6)] (by simp only [cat, pk]; ring)
    ⟨⟨by decide, rfl⟩, ⟨c.isLt, rfl⟩, ⟨v.isLt, rfl⟩, ⟨by decide, rfl⟩, trivial⟩ fun w at_ => ?_
  have h1 : w / 2 ^ 22 % 64 = 3 := at_ 3
  have e0 : fld 32 w 17 = v := fld_of (at_ 2)
  have e1 : fld 64 w 11 = c := fld_of (at_ 1)
  unfold decodeCM
  rw [h1]
  exact need_of (zro_of (at_ 0)) (by rw [e0, e1])

theorem sends (s : SR) (c : CR) : Statement (.sends s c) := by
  intro code hc _
  obtain rfl := Option.some.inj hc
  refine ofCM [(0, 2 ^ 11, 11), (c.val, 64, 6), (s.val, 32, 5), (4, 64, 6)] (by simp only [cat, pk]; ring)
    ⟨⟨by decide, rfl⟩, ⟨c.isLt, rfl⟩, ⟨s.isLt, rfl⟩, ⟨by decide, rfl⟩, trivial⟩ fun w at_ => ?_
  have h1 : w / 2 ^ 22 % 64 = 4 := at_ 3
  have e0 : fld 32 w 17 = s := fld_of (at_ 2)
  have e1 : fld 64 w 11 = c := fld_of (at_ 1)
  unfold decodeCM
  rw [h1]
  exact need_of (zro_of (at_ 0)) (by rw [e0, e1])

theorem recvs (s : SR) (c : CR) : Statement (.recvs s c) := by
  intro code hc _
  obtain rfl := Option.some.inj hc
  refine ofCM [(0, 2 ^ 11, 11), (c.val, 64, 6), (s.val, 32, 5), (5, 64, 6)] (by simp only [cat, pk]; ring)
    ⟨⟨by decide, rfl⟩, ⟨c.isLt, rfl⟩, ⟨s.isLt, rfl⟩, ⟨by decide, rfl⟩, trivial⟩ fun w at_ => ?_
  have h1 : w / 2 ^ 22 % 64 = 5 := at_ 3
  have e0 : fld 32 w 17 = s := fld_of (at_ 2)
  have e1 : fld 64 w 11 = c := fld_of (at_ 1)
  unfold decodeCM
  rw [h1]
  exact need_of (zro_of (at_ 0)) (by rw [e0, e1])

theorem chq (s : SR) (c : CR) : Statement (.chq s c) := by
  intro code hc _
  obtain rfl := Option.some.inj hc
  refine ofCM [(0, 2 ^ 11, 11), (c.val, 64, 6), (s.val, 32, 5), (6, 64, 6)] (by simp only [cat, pk]; ring)
    ⟨⟨by decide, rfl⟩, ⟨c.isLt, rfl⟩, ⟨s.isLt, rfl⟩, ⟨by decide, rfl⟩, trivial⟩ fun w at_ => ?_
  have h1 : w / 2 ^ 22 % 64 = 6 := at_ 3
  have e0 : fld 32 w 17 = s := fld_of (at_ 2)
  have e1 : fld 64 w 11 = c := fld_of (at_ 1)
  unfold decodeCM
  rw [h1]
  exact need_of (zro_of (at_ 0)) (by rw [e0, e1])

theorem chclose (c : CR) : Statement (.chclose c) := by
  intro code hc _
  obtain rfl := Option.some.inj hc
  refine ofCM [(0, 2 ^ 11, 11), (c.val, 64, 6), (0, 2 ^ 5, 5), (7, 64, 6)] (by simp only [cat, pk]; ring)
    ⟨⟨by decide, rfl⟩, ⟨c.isLt, rfl⟩, ⟨by decide, rfl⟩, ⟨by decide, rfl⟩, trivial⟩ fun w at_ => ?_
  have h1 : w / 2 ^ 22 % 64 = 7 := at_ 3
  have e0 : fld 64 w 11 = c := fld_of (at_ 1)
  unfold decodeCM
  rw [h1]
  exact need_of (and_of (zro_of (at_ 2)) (zro_of (at_ 0))) (by rw [e0])

theorem btree (t0 t1 t2 t3 : BTest) : Statement (.btree t0 t1 t2 t3) := by
  intro code hc wf
  obtain rfl := Option.some.inj hc
  refine wordCT fun w hw => ?_
  replace wf : (t0.ok && t1.ok && t2.ok && t3.ok) = true := wf
  simp only [Bool.and_eq_true] at wf
  simp only [pk, putBTest] at hw
  have := t0.v.toNat_lt
  have := t0.n.toNat_lt
  have := t1.v.toNat_lt
  have := t1.n.toNat_lt
  have := t2.v.toNat_lt
  have := t2.n.toNat_lt
  have := t3.v.toNat_lt
  have := t3.n.toNat_lt
  have h1 : w / 2 ^ 22 % 64 = 0 := by omega
  have e0 : bTest w 16 53 = t0 := bTest_of (by omega) (by omega)
  have e1 : bTest w 10 50 = t1 := bTest_of (by omega) (by omega)
  have e2 : bTest w 4 47 = t2 := bTest_of (by omega) (by omega)
  have q3 : w / 2 ^ 57 = t3.v.toNat * 32 + t3.n.toNat * 16 + t3.p.val := by omega
  have e3 : bTest w 57 44 = t3 := bTest_of (by omega) (by omega)
  unfold decodeCT
  rw [h1]
  refine need_of ?_ (by rw [e0, e1, e2, e3])
  rw [e0, e1, e2, e3, zro_of (show w / 2 ^ 0 % 2 ^ 4 = 0 by omega), zro_of (show w / 2 ^ 56 % 2 ^ 1 = 0 by omega),
    zro_of (show w / 2 ^ 32 % 2 ^ 12 = 0 by omega)]
  simp [wf]

theorem jmp (off : BitVec 26) : Statement (.jmp off) := by
  intro code hc _
  obtain rfl := Option.some.inj hc
  refine wordCT fun w hw => ?_
  simp only [pk, putOff26] at hw
  have := off.isLt
  have hi : off.toNat / 2 ^ 22 < 16 := by omega
  have q : w / 2 ^ 32 = off.toNat / 2 ^ 22 := by omega
  have z : w / 2 ^ 36 = 0 := by omega
  have h1 : w / 2 ^ 22 % 64 = 1 := by omega
  have e : off26 w = off := off26_of (by omega)
  unfold decodeCT
  rw [h1]
  exact need_of (zro_of (by rw [z]; rfl)) (by rw [e])

theorem call (off : BitVec 26) : Statement (.call off) := by
  intro code hc _
  obtain rfl := Option.some.inj hc
  refine wordCT fun w hw => ?_
  simp only [pk, putOff26] at hw
  have := off.isLt
  have hi : off.toNat / 2 ^ 22 < 16 := by omega
  have q : w / 2 ^ 32 = off.toNat / 2 ^ 22 := by omega
  have z : w / 2 ^ 36 = 0 := by omega
  have h1 : w / 2 ^ 22 % 64 = 2 := by omega
  have e : off26 w = off := off26_of (by omega)
  unfold decodeCT
  rw [h1]
  exact need_of (zro_of (by rw [z]; rfl)) (by rw [e])

theorem jmpb (b : BR) : Statement (.jmpb b) := by
  intro code hc _
  obtain rfl := Option.some.inj hc
  refine ofCT [(0, 2 ^ 19, 19), (b.val, 8, 3), (3, 64, 6), (0, 2 ^ 4, 4), (0, 2 ^ 31, 31)] (by simp only [cat, pk]; ring)
    ⟨⟨by decide, rfl⟩, ⟨b.isLt, rfl⟩, ⟨by decide, rfl⟩, ⟨by decide, rfl⟩, ⟨by decide, rfl⟩, trivial⟩ fun w at_ => ?_
  have h1 : w / 2 ^ 22 % 64 = 3 := at_ 2
  have e0 : fld 8 w 19 = b := fld_of (at_ 1)
  unfold decodeCT
  rw [h1]
  exact need_of (and_of (zro_of (at_ 0)) (zro_of (at_ 4))) (by rw [e0])

theorem retb (b : BR) : Statement (.retb b) := by
  intro code hc _
  obtain rfl := Option.some.inj hc
  refine ofCT [(0, 2 ^ 19, 19), (b.val, 8, 3), (4, 64, 6), (0, 2 ^ 4, 4), (0, 2 ^ 31, 31)] (by simp only [cat, pk]; ring)
    ⟨⟨by decide, rfl⟩, ⟨b.isLt, rfl⟩, ⟨by decide, rfl⟩, ⟨by decide, rfl⟩, ⟨by decide, rfl⟩, trivial⟩ fun w at_ => ?_
  have h1 : w / 2 ^ 22 % 64 = 4 := at_ 2
  have e0 : fld 8 w 19 = b := fld_of (at_ 1)
  unfold decodeCT
  rw [h1]
  exact need_of (and_of (zro_of (at_ 0)) (zro_of (at_ 4))) (by rw [e0])

theorem loop (s : SR) (endOff : BitVec 19) : Statement (.loop s endOff) := by
  intro code hc _
  obtain rfl := Option.some.inj hc
  refine ofCT [(0, 2 ^ 17, 17), (s.val, 32, 5), (5, 64, 6), (0, 2 ^ 4, 4), (endOff.toNat, 2 ^ 19, 19), (0, 2 ^ 12, 12)] (by simp only [cat, pk]; ring)
    ⟨⟨by decide, rfl⟩, ⟨s.isLt, rfl⟩, ⟨by decide, rfl⟩, ⟨by decide, rfl⟩, ⟨endOff.isLt, rfl⟩, ⟨by decide, rfl⟩, trivial⟩ fun w at_ => ?_
  have h1 : w / 2 ^ 22 % 64 = 5 := at_ 2
  have e0 : fld 32 w 17 = s := fld_of (at_ 1)
  have e1 : bvf 19 w 32 = endOff := bvf_of (at_ 4)
  unfold decodeCT
  rw [h1]
  exact need_of (and_of (zro_of (at_ 0)) (zro_of (at_ 5))) (by rw [e0, e1])

theorem lbrk (level : Fin 8) (n : Bool) (p : PR) : Statement (.lbrk level n p) := by
  intro code hc _
  obtain rfl := Option.some.inj hc
  refine ofCT [(0, 2 ^ 14, 14), (p.val, 16, 4), (n.toNat, 2, 1), (level.val, 8, 3), (6, 64, 6), (0, 2 ^ 4, 4), (0, 2 ^ 31, 31)] (by simp only [cat, pk]; ring)
    ⟨⟨by decide, rfl⟩, ⟨p.isLt, rfl⟩, ⟨n.toNat_lt, rfl⟩, ⟨level.isLt, rfl⟩, ⟨by decide, rfl⟩, ⟨by decide, rfl⟩, ⟨by decide, rfl⟩, trivial⟩ fun w at_ => ?_
  have h1 : w / 2 ^ 22 % 64 = 6 := at_ 4
  have e0 : fld 8 w 19 = level := fld_of (at_ 3)
  have e1 : flg w 18 = n := flg_of (at_ 2)
  have e2 : fld 16 w 14 = p := fld_of (at_ 1)
  unfold decodeCT
  rw [h1]
  exact need_of (and_of (zro_of (at_ 0)) (zro_of (at_ 6))) (by rw [e0, e1, e2])

theorem fmtw (s : SR) : Statement (.fmtw s) := by
  intro code hc _
  obtain rfl := Option.some.inj hc
  refine ofCT [(0, 2 ^ 17, 17), (s.val, 32, 5), (7, 64, 6), (0, 2 ^ 4, 4), (0, 2 ^ 31, 31)] (by simp only [cat, pk]; ring)
    ⟨⟨by decide, rfl⟩, ⟨s.isLt, rfl⟩, ⟨by decide, rfl⟩, ⟨by decide, rfl⟩, ⟨by decide, rfl⟩, trivial⟩ fun w at_ => ?_
  have h1 : w / 2 ^ 22 % 64 = 7 := at_ 2
  have e0 : fld 32 w 17 = s := fld_of (at_ 1)
  unfold decodeCT
  rw [h1]
  exact need_of (and_of (zro_of (at_ 0)) (zro_of (at_ 4))) (by rw [e0])

theorem waitk (tok : Tokens) : Statement (.waitk tok) := by
  intro code hc wf
  obtain rfl := Option.some.inj hc
  refine wordCT fun w hw => ?_
  have := putTokens_lt tok
  have := putTokens_low tok
  replace wf : (tok.ok && !tok.pv) = true := wf
  simp only [Bool.and_eq_true, Bool.not_eq_true'] at wf
  simp only [pk] at hw
  have h1 := op_of (w := w) (n := 8) (by omega)
  have e0 : tokens w = tok := tokens_of (by omega)
  unfold decodeCT
  rw [h1]
  exact need_of (and_of (and_of (and_of (zro_of (by omega)) (zro_of (by omega))) (by rw [e0]; exact wf.1)) (by rw [e0]; simp [wf.2])) (by rw [e0])

theorem bar (id : Fin 64) : Statement (.bar id) := by
  intro code hc _
  obtain rfl := Option.some.inj hc
  refine ofCT [(0, 2 ^ 16, 16), (id.val, 64, 6), (9, 64, 6), (0, 2 ^ 4, 4), (0, 2 ^ 31, 31)] (by simp only [cat, pk]; ring)
    ⟨⟨by decide, rfl⟩, ⟨id.isLt, rfl⟩, ⟨by decide, rfl⟩, ⟨by decide, rfl⟩, ⟨by decide, rfl⟩, trivial⟩ fun w at_ => ?_
  have h1 : w / 2 ^ 22 % 64 = 9 := at_ 2
  have e0 : fld 64 w 16 = id := fld_of (at_ 1)
  unfold decodeCT
  rw [h1]
  exact need_of (and_of (zro_of (at_ 0)) (zro_of (at_ 4))) (by rw [e0])

theorem bara (id : Fin 64) : Statement (.bara id) := by
  intro code hc _
  obtain rfl := Option.some.inj hc
  refine ofCT [(0, 2 ^ 16, 16), (id.val, 64, 6), (10, 64, 6), (0, 2 ^ 4, 4), (0, 2 ^ 31, 31)] (by simp only [cat, pk]; ring)
    ⟨⟨by decide, rfl⟩, ⟨id.isLt, rfl⟩, ⟨by decide, rfl⟩, ⟨by decide, rfl⟩, ⟨by decide, rfl⟩, trivial⟩ fun w at_ => ?_
  have h1 : w / 2 ^ 22 % 64 = 10 := at_ 2
  have e0 : fld 64 w 16 = id := fld_of (at_ 1)
  unfold decodeCT
  rw [h1]
  exact need_of (and_of (zro_of (at_ 0)) (zro_of (at_ 4))) (by rw [e0])

theorem cbwait (d : SR) (a : AR) (s : SR) : Statement (.cbwait d a s) := by
  intro code hc _
  obtain rfl := Option.some.inj hc
  refine ofCT [(0, 2 ^ 8, 8), (s.val, 32, 5), (a.val, 16, 4), (d.val, 32, 5), (11, 64, 6), (0, 2 ^ 4, 4), (0, 2 ^ 31, 31)] (by simp only [cat, pk]; ring)
    ⟨⟨by decide, rfl⟩, ⟨s.isLt, rfl⟩, ⟨a.isLt, rfl⟩, ⟨d.isLt, rfl⟩, ⟨by decide, rfl⟩, ⟨by decide, rfl⟩, ⟨by decide, rfl⟩, trivial⟩ fun w at_ => ?_
  have h1 : w / 2 ^ 22 % 64 = 11 := at_ 4
  have e0 : fld 32 w 17 = d := fld_of (at_ 3)
  have e1 : fld 16 w 13 = a := fld_of (at_ 2)
  have e2 : fld 32 w 8 = s := fld_of (at_ 1)
  unfold decodeCT
  rw [h1]
  exact need_of (and_of (zro_of (at_ 0)) (zro_of (at_ 6))) (by rw [e0, e1, e2])

theorem feat (d : SR) (word : Fin 4) : Statement (.feat d word) := by
  intro code hc _
  obtain rfl := Option.some.inj hc
  refine ofCT [(word.val, 4, 2), (0, 2 ^ 15, 15), (d.val, 32, 5), (12, 64, 6), (0, 2 ^ 4, 4), (0, 2 ^ 31, 31)] (by simp only [cat, pk]; ring)
    ⟨⟨word.isLt, rfl⟩, ⟨by decide, rfl⟩, ⟨d.isLt, rfl⟩, ⟨by decide, rfl⟩, ⟨by decide, rfl⟩, ⟨by decide, rfl⟩, trivial⟩ fun w at_ => ?_
  have h1 : w / 2 ^ 22 % 64 = 12 := at_ 3
  have e0 : fld 32 w 17 = d := fld_of (at_ 2)
  have e1 : fld 4 w 0 = word := fld_of (at_ 0)
  unfold decodeCT
  rw [h1]
  exact need_of (and_of (zro_of (at_ 1)) (zro_of (at_ 5))) (by rw [e0, e1])

theorem trap (imm : BitVec 16) : Statement (.trap imm) := by
  intro code hc _
  obtain rfl := Option.some.inj hc
  refine ofCT [(imm.toNat, 2 ^ 16, 16), (0, 2 ^ 6, 6), (13, 64, 6), (0, 2 ^ 4, 4), (0, 2 ^ 31, 31)] (by simp only [cat, pk]; ring)
    ⟨⟨imm.isLt, rfl⟩, ⟨by decide, rfl⟩, ⟨by decide, rfl⟩, ⟨by decide, rfl⟩, ⟨by decide, rfl⟩, trivial⟩ fun w at_ => ?_
  have h1 : w / 2 ^ 22 % 64 = 13 := at_ 2
  have e0 : bvf 16 w 0 = imm := bvf_of (at_ 0)
  unfold decodeCT
  rw [h1]
  exact need_of (and_of (zro_of (at_ 1)) (zro_of (at_ 4))) (by rw [e0])

theorem sysc (imm : BitVec 16) : Statement (.sysc imm) := by
  intro code hc _
  obtain rfl := Option.some.inj hc
  refine ofCT [(imm.toNat, 2 ^ 16, 16), (0, 2 ^ 6, 6), (14, 64, 6), (0, 2 ^ 4, 4), (0, 2 ^ 31, 31)] (by simp only [cat, pk]; ring)
    ⟨⟨imm.isLt, rfl⟩, ⟨by decide, rfl⟩, ⟨by decide, rfl⟩, ⟨by decide, rfl⟩, ⟨by decide, rfl⟩, trivial⟩ fun w at_ => ?_
  have h1 : w / 2 ^ 22 % 64 = 14 := at_ 2
  have e0 : bvf 16 w 0 = imm := bvf_of (at_ 0)
  unfold decodeCT
  rw [h1]
  exact need_of (and_of (zro_of (at_ 1)) (zro_of (at_ 4))) (by rw [e0])

theorem exit : Statement .exit := by
  intro code hc _
  obtain rfl := Option.some.inj hc
  refine ofCT [(0, 2 ^ 22, 22), (15, 64, 6), (0, 2 ^ 4, 4), (0, 2 ^ 31, 31)] (by simp only [cat, pk]; ring)
    ⟨⟨by decide, rfl⟩, ⟨by decide, rfl⟩, ⟨by decide, rfl⟩, ⟨by decide, rfl⟩, trivial⟩ fun w at_ => ?_
  have h1 : w / 2 ^ 22 % 64 = 15 := at_ 1
  unfold decodeCT
  rw [h1]
  exact need_of (and_of (zro_of (at_ 0)) (zro_of (at_ 3))) rfl

theorem yield : Statement .yield := by
  intro code hc _
  obtain rfl := Option.some.inj hc
  refine ofCT [(0, 2 ^ 22, 22), (16, 64, 6), (0, 2 ^ 4, 4), (0, 2 ^ 31, 31)] (by simp only [cat, pk]; ring)
    ⟨⟨by decide, rfl⟩, ⟨by decide, rfl⟩, ⟨by decide, rfl⟩, ⟨by decide, rfl⟩, trivial⟩ fun w at_ => ?_
  have h1 : w / 2 ^ 22 % 64 = 16 := at_ 1
  unfold decodeCT
  rw [h1]
  exact need_of (and_of (zro_of (at_ 0)) (zro_of (at_ 3))) rfl

theorem seedp (s : SR) : Statement (.seedp s) := by
  intro code hc _
  obtain rfl := Option.some.inj hc
  refine ofCT [(0, 2 ^ 17, 17), (s.val, 32, 5), (18, 64, 6), (0, 2 ^ 4, 4), (0, 2 ^ 31, 31)] (by simp only [cat, pk]; ring)
    ⟨⟨by decide, rfl⟩, ⟨s.isLt, rfl⟩, ⟨by decide, rfl⟩, ⟨by decide, rfl⟩, ⟨by decide, rfl⟩, trivial⟩ fun w at_ => ?_
  have h1 : w / 2 ^ 22 % 64 = 18 := at_ 2
  have e0 : fld 32 w 17 = s := fld_of (at_ 1)
  unfold decodeCT
  rw [h1]
  exact need_of (and_of (zro_of (at_ 0)) (zro_of (at_ 4))) (by rw [e0])

theorem seedo : Statement .seedo := by
  intro code hc _
  obtain rfl := Option.some.inj hc
  refine ofCT [(0, 2 ^ 22, 22), (19, 64, 6), (0, 2 ^ 4, 4), (0, 2 ^ 31, 31)] (by simp only [cat, pk]; ring)
    ⟨⟨by decide, rfl⟩, ⟨by decide, rfl⟩, ⟨by decide, rfl⟩, ⟨by decide, rfl⟩, trivial⟩ fun w at_ => ?_
  have h1 : w / 2 ^ 22 % 64 = 19 := at_ 1
  unfold decodeCT
  rw [h1]
  exact need_of (and_of (zro_of (at_ 0)) (zro_of (at_ 3))) rfl

theorem seedf (imm : BitVec 16) : Statement (.seedf imm) := by
  intro code hc _
  obtain rfl := Option.some.inj hc
  refine ofCT [(imm.toNat, 2 ^ 16, 16), (0, 2 ^ 6, 6), (20, 64, 6), (0, 2 ^ 4, 4), (0, 2 ^ 31, 31)] (by simp only [cat, pk]; ring)
    ⟨⟨imm.isLt, rfl⟩, ⟨by decide, rfl⟩, ⟨by decide, rfl⟩, ⟨by decide, rfl⟩, ⟨by decide, rfl⟩, trivial⟩ fun w at_ => ?_
  have h1 : w / 2 ^ 22 % 64 = 20 := at_ 2
  have e0 : bvf 16 w 0 = imm := bvf_of (at_ 0)
  unfold decodeCT
  rw [h1]
  exact need_of (and_of (zro_of (at_ 1)) (zro_of (at_ 4))) (by rw [e0])

theorem seedr (d : SR) : Statement (.seedr d) := by
  intro code hc _
  obtain rfl := Option.some.inj hc
  refine ofCT [(0, 2 ^ 17, 17), (d.val, 32, 5), (21, 64, 6), (0, 2 ^ 4, 4), (0, 2 ^ 31, 31)] (by simp only [cat, pk]; ring)
    ⟨⟨by decide, rfl⟩, ⟨d.isLt, rfl⟩, ⟨by decide, rfl⟩, ⟨by decide, rfl⟩, ⟨by decide, rfl⟩, trivial⟩ fun w at_ => ?_
  have h1 : w / 2 ^ 22 % 64 = 21 := at_ 2
  have e0 : fld 32 w 17 = d := fld_of (at_ 1)
  unfold decodeCT
  rw [h1]
  exact need_of (and_of (zro_of (at_ 0)) (zro_of (at_ 4))) (by rw [e0])

theorem getsys (d : SR) (t : SR) (sel : BitVec 12) : Statement (.getsys d t sel) := by
  intro code hc _
  obtain rfl := Option.some.inj hc
  refine ofCT [(0, 2 ^ 12, 12), (t.val, 32, 5), (d.val, 32, 5), (32, 64, 6), (0, 2 ^ 4, 4), (sel.toNat, 2 ^ 12, 12), (0, 2 ^ 19, 19)] (by simp only [cat, pk]; ring)
    ⟨⟨by decide, rfl⟩, ⟨t.isLt, rfl⟩, ⟨d.isLt, rfl⟩, ⟨by decide, rfl⟩, ⟨by decide, rfl⟩, ⟨sel.isLt, rfl⟩, ⟨by decide, rfl⟩, trivial⟩ fun w at_ => ?_
  have h1 : w / 2 ^ 22 % 64 = 32 := at_ 3
  have e0 : fld 32 w 17 = d := fld_of (at_ 2)
  have e1 : fld 32 w 12 = t := fld_of (at_ 1)
  have e2 : bvf 12 w 32 = sel := bvf_of (at_ 5)
  unfold decodeCT
  rw [h1]
  exact need_of (and_of (zro_of (at_ 0)) (zro_of (at_ 6))) (by rw [e0, e1, e2])

theorem setsys (s t : SR) (sel : BitVec 12) : Statement (.setsys s t sel) := by
  intro code hc wf
  replace wf : (!isFeatack sel && !isThreshWindow sel) = true := wf
  have wf : isFeatack sel = false ∧ isThreshWindow sel = false := by simpa using wf
  obtain rfl := Option.some.inj hc
  refine wordCT fun w hw => ?_
  simp only [pk] at hw
  have h1 : w / 2 ^ 22 % 64 = 33 := by omega
  have e0 : fld 32 w 17 = s := fld_of (by omega)
  have e1 : fld 32 w 12 = t := fld_of (by omega)
  have e2 : bvf 12 w 32 = sel := bvf_of (by omega)
  have z0 : zro w 0 12 = true := zro_of (by omega)
  have z1 : zro w 44 19 = true := zro_of (by omega)
  unfold decodeCT
  rw [h1]
  simp [z0, z1, e0, e1, e2, wf.1, wf.2]

theorem setsysThreshWindow (s t : SR) (sel : BitVec 12) : Statement (.setsysThreshWindow s t sel) := by
  intro code hc wf
  replace wf : (!isFeatack sel && isThreshWindow sel) = true := wf
  have wf : isFeatack sel = false ∧ isThreshWindow sel = true := by simpa using wf
  obtain rfl := Option.some.inj hc
  refine wordCT fun w hw => ?_
  simp only [pk] at hw
  have h1 : w / 2 ^ 22 % 64 = 33 := by omega
  have e0 : fld 32 w 17 = s := fld_of (by omega)
  have e1 : fld 32 w 12 = t := fld_of (by omega)
  have e2 : bvf 12 w 32 = sel := bvf_of (by omega)
  have z0 : zro w 0 12 = true := zro_of (by omega)
  have z1 : zro w 44 19 = true := zro_of (by omega)
  unfold decodeCT
  rw [h1]
  simp [z0, z1, e0, e1, e2, wf.1, wf.2]

theorem setsysFeatack (s t : SR) (sel : BitVec 12) : Statement (.setsysFeatack s t sel) := by
  intro code hc wf
  replace wf : isFeatack sel = true := wf
  have wf : isFeatack sel = true := by simpa using wf
  obtain rfl := Option.some.inj hc
  refine wordCT fun w hw => ?_
  simp only [pk] at hw
  have h1 : w / 2 ^ 22 % 64 = 33 := by omega
  have e0 : fld 32 w 17 = s := fld_of (by omega)
  have e1 : fld 32 w 12 = t := fld_of (by omega)
  have e2 : bvf 12 w 32 = sel := bvf_of (by omega)
  have z0 : zro w 0 12 = true := zro_of (by omega)
  have z1 : zro w 44 19 = true := zro_of (by omega)
  unfold decodeCT
  rw [h1]
  simp [z0, z1, e0, e1, e2, wf]

theorem eret : Statement .eret := by
  intro code hc _
  obtain rfl := Option.some.inj hc
  refine ofCT [(0, 2 ^ 22, 22), (34, 64, 6), (0, 2 ^ 4, 4), (0, 2 ^ 31, 31)] (by simp only [cat, pk]; ring)
    ⟨⟨by decide, rfl⟩, ⟨by decide, rfl⟩, ⟨by decide, rfl⟩, ⟨by decide, rfl⟩, trivial⟩ fun w at_ => ?_
  have h1 : w / 2 ^ 22 % 64 = 34 := at_ 1
  unfold decodeCT
  rw [h1]
  exact need_of (and_of (zro_of (at_ 0)) (zro_of (at_ 3))) rfl

theorem tlaunch (d : SR) (a : AR) : Statement (.tlaunch d a) := by
  intro code hc _
  obtain rfl := Option.some.inj hc
  refine ofCT [(0, 2 ^ 13, 13), (a.val, 16, 4), (d.val, 32, 5), (35, 64, 6), (0, 2 ^ 4, 4), (0, 2 ^ 31, 31)] (by simp only [cat, pk]; ring)
    ⟨⟨by decide, rfl⟩, ⟨a.isLt, rfl⟩, ⟨d.isLt, rfl⟩, ⟨by decide, rfl⟩, ⟨by decide, rfl⟩, ⟨by decide, rfl⟩, trivial⟩ fun w at_ => ?_
  have h1 : w / 2 ^ 22 % 64 = 35 := at_ 3
  have e0 : fld 32 w 17 = d := fld_of (at_ 2)
  have e1 : fld 16 w 13 = a := fld_of (at_ 1)
  unfold decodeCT
  rw [h1]
  exact need_of (and_of (zro_of (at_ 0)) (zro_of (at_ 5))) (by rw [e0, e1])

theorem tcommit (s : SR) : Statement (.tcommit s) := by
  intro code hc _
  obtain rfl := Option.some.inj hc
  refine ofCT [(0, 2 ^ 17, 17), (s.val, 32, 5), (36, 64, 6), (0, 2 ^ 4, 4), (0, 2 ^ 31, 31)] (by simp only [cat, pk]; ring)
    ⟨⟨by decide, rfl⟩, ⟨s.isLt, rfl⟩, ⟨by decide, rfl⟩, ⟨by decide, rfl⟩, ⟨by decide, rfl⟩, trivial⟩ fun w at_ => ?_
  have h1 : w / 2 ^ 22 % 64 = 36 := at_ 2
  have e0 : fld 32 w 17 = s := fld_of (at_ 1)
  unfold decodeCT
  rw [h1]
  exact need_of (and_of (zro_of (at_ 0)) (zro_of (at_ 4))) (by rw [e0])

theorem tabortRerun (s : SR) : Statement (.tabortRerun s) := by
  intro code hc _
  obtain rfl := Option.some.inj hc
  refine ofCT [(0, 4, 2), (0, 2 ^ 15, 15), (s.val, 32, 5), (37, 64, 6), (0, 2 ^ 4, 4), (0, 2 ^ 31, 31)] (by simp only [cat, pk]; ring)
    ⟨⟨by decide, rfl⟩, ⟨by decide, rfl⟩, ⟨s.isLt, rfl⟩, ⟨by decide, rfl⟩, ⟨by decide, rfl⟩, ⟨by decide, rfl⟩, trivial⟩ fun w at_ => ?_
  have h1 : w / 2 ^ 22 % 64 = 37 := at_ 3
  have h2 : w / 2 ^ 0 % 4 = 0 := at_ 0
  have e0 : fld 32 w 17 = s := fld_of (at_ 2)
  unfold decodeCT
  rw [h1, h2]
  exact need_of (and_of (zro_of (at_ 1)) (zro_of (at_ 5))) (by rw [e0])

theorem tabortKill (s : SR) (k : Fin 4) : Statement (.tabortKill s k) := by
  intro code hc wf
  obtain rfl := Option.some.inj hc
  refine wordCT fun w hw => ?_
  replace wf : decide (k ≠ 0) = true := wf
  simp only [pk] at hw
  have h1 := op_of (w := w) (n := 37) (by omega)
  have e0 : fld 32 w 17 = s := fld_of (by omega)
  have e1 : fld 4 w 0 = k := fld_of (by omega)
  have h2 : w / 2 ^ 0 % 4 = 1 ∨ w / 2 ^ 0 % 4 = 2 ∨ w / 2 ^ 0 % 4 = 3 := by
    have : k.val ≠ 0 := fun z => by simp [Fin.ext_iff, z] at wf
    omega
  unfold decodeCT
  rw [h1]
  rcases h2 with h2 | h2 | h2 <;> rw [h2] <;> exact need_of (and_of (zro_of (by omega)) (zro_of (by omega))) (by rw [e0, e1])

theorem jcbadd (a : AR) (s : SR) : Statement (.jcbadd a s) := by
  intro code hc _
  obtain rfl := Option.some.inj hc
  refine ofCT [(0, 2 ^ 13, 13), (s.val, 32, 5), (a.val, 16, 4), (38, 64, 6), (0, 2 ^ 4, 4), (0, 2 ^ 31, 31)] (by simp only [cat, pk]; ring)
    ⟨⟨by decide, rfl⟩, ⟨s.isLt, rfl⟩, ⟨a.isLt, rfl⟩, ⟨by decide, rfl⟩, ⟨by decide, rfl⟩, ⟨by decide, rfl⟩, trivial⟩ fun w at_ => ?_
  have h1 : w / 2 ^ 22 % 64 = 38 := at_ 3
  have e0 : fld 16 w 18 = a := fld_of (at_ 2)
  have e1 : fld 32 w 13 = s := fld_of (at_ 1)
  unfold decodeCT
  rw [h1]
  exact need_of (and_of (zro_of (at_ 0)) (zro_of (at_ 5))) (by rw [e0, e1])

theorem jcbpost (a : AR) (s : SR) : Statement (.jcbpost a s) := by
  intro code hc _
  obtain rfl := Option.some.inj hc
  refine ofCT [(0, 2 ^ 13, 13), (s.val, 32, 5), (a.val, 16, 4), (39, 64, 6), (0, 2 ^ 4, 4), (0, 2 ^ 31, 31)] (by simp only [cat, pk]; ring)
    ⟨⟨by decide, rfl⟩, ⟨s.isLt, rfl⟩, ⟨a.isLt, rfl⟩, ⟨by decide, rfl⟩, ⟨by decide, rfl⟩, ⟨by decide, rfl⟩, trivial⟩ fun w at_ => ?_
  have h1 : w / 2 ^ 22 % 64 = 39 := at_ 3
  have e0 : fld 16 w 18 = a := fld_of (at_ 2)
  have e1 : fld 32 w 13 = s := fld_of (at_ 1)
  unfold decodeCT
  rw [h1]
  exact need_of (and_of (zro_of (at_ 0)) (zro_of (at_ 5))) (by rw [e0, e1])

theorem eqpop (pd : PR) (d : SR) : Statement (.eqpop pd d) := by
  intro code hc _
  obtain rfl := Option.some.inj hc
  refine ofCT [(0, 2 ^ 13, 13), (pd.val, 16, 4), (d.val, 32, 5), (40, 64, 6), (0, 2 ^ 4, 4), (0, 2 ^ 31, 31)] (by simp only [cat, pk]; ring)
    ⟨⟨by decide, rfl⟩, ⟨pd.isLt, rfl⟩, ⟨d.isLt, rfl⟩, ⟨by decide, rfl⟩, ⟨by decide, rfl⟩, ⟨by decide, rfl⟩, trivial⟩ fun w at_ => ?_
  have h1 : w / 2 ^ 22 % 64 = 40 := at_ 3
  have e0 : fld 16 w 13 = pd := fld_of (at_ 1)
  have e1 : fld 32 w 17 = d := fld_of (at_ 2)
  unfold decodeCT
  rw [h1]
  exact need_of (and_of (zro_of (at_ 0)) (zro_of (at_ 5))) (by rw [e0, e1])

theorem ctxstart (t : SR) (a : AR) : Statement (.ctxstart t a) := by
  intro code hc _
  obtain rfl := Option.some.inj hc
  refine ofCT [(0, 2 ^ 12, 12), (0, 2, 1), (a.val, 16, 4), (t.val, 32, 5), (41, 64, 6), (0, 2 ^ 4, 4), (0, 2 ^ 31, 31)] (by simp only [cat, pk]; ring)
    ⟨⟨by decide, rfl⟩, ⟨by decide, rfl⟩, ⟨a.isLt, rfl⟩, ⟨t.isLt, rfl⟩, ⟨by decide, rfl⟩, ⟨by decide, rfl⟩, ⟨by decide, rfl⟩, trivial⟩ fun w at_ => ?_
  have h1 : w / 2 ^ 22 % 64 = 41 := at_ 4
  have h2 : w / 2 ^ 12 % 2 = 0 := at_ 1
  have e0 : fld 32 w 17 = t := fld_of (at_ 3)
  have e1 : fld 16 w 13 = a := fld_of (at_ 2)
  unfold decodeCT
  rw [h1, h2]
  exact need_of (and_of (zro_of (at_ 0)) (zro_of (at_ 6))) (by rw [e0, e1])

theorem ctxstartRestore (a : SR) (b : AR) : Statement (.ctxstartRestore a b) := none_of rfl

theorem ctxstartControlCore (a : SR) (b : AR) : Statement (.ctxstartControlCore a b) := none_of rfl

theorem ctxstartR (t : SR) : Statement (.ctxstartR t) := by
  intro code hc _
  obtain rfl := Option.some.inj hc
  refine wordCT fun w hw => ?_
  simp only [pk] at hw
  have h1 := op_of (w := w) (n := 41) (by omega)
  have e0 : fld 32 w 17 = t := fld_of (by omega)
  have h2 : w / 2 ^ 12 % 2 = 1 := by omega
  unfold decodeCT
  rw [h1, h2]
  exact need_of (and_of (and_of (zro_of (by omega)) (zro_of (by omega))) (zro_of (by omega))) (by rw [e0])

theorem ctxstopSafe (t : SR) : Statement (.ctxstopSafe t) := by
  intro code hc _
  obtain rfl := Option.some.inj hc
  refine ofCT [(0, 2 ^ 15, 15), (0, 4, 2), (t.val, 32, 5), (42, 64, 6), (0, 2 ^ 4, 4), (0, 2 ^ 31, 31)] (by simp only [cat, pk]; ring)
    ⟨⟨by decide, rfl⟩, ⟨by decide, rfl⟩, ⟨t.isLt, rfl⟩, ⟨by decide, rfl⟩, ⟨by decide, rfl⟩, ⟨by decide, rfl⟩, trivial⟩ fun w at_ => ?_
  have h1 : w / 2 ^ 22 % 64 = 42 := at_ 3
  have h2 : w / 2 ^ 15 % 4 = 0 := at_ 1
  have e0 : fld 32 w 17 = t := fld_of (at_ 2)
  unfold decodeCT
  rw [h1, h2]
  exact need_of (and_of (zro_of (at_ 0)) (zro_of (at_ 5))) (by rw [e0])

theorem ctxstopKill (t : SR) (k : Fin 4) : Statement (.ctxstopKill t k) := by
  intro code hc wf
  obtain rfl := Option.some.inj hc
  refine wordCT fun w hw => ?_
  replace wf : decide (k ≠ 0) = true := wf
  simp only [pk] at hw
  have h1 := op_of (w := w) (n := 42) (by omega)
  have e0 : fld 32 w 17 = t := fld_of (by omega)
  have e1 : fld 4 w 15 = k := fld_of (by omega)
  have h2 : w / 2 ^ 15 % 4 = 1 ∨ w / 2 ^ 15 % 4 = 2 ∨ w / 2 ^ 15 % 4 = 3 := by
    have : k.val ≠ 0 := fun z => by simp [Fin.ext_iff, z] at wf
    omega
  unfold decodeCT
  rw [h1]
  rcases h2 with h2 | h2 | h2 <;> rw [h2] <;> exact need_of (and_of (zro_of (by omega)) (zro_of (by omega))) (by rw [e0, e1])

theorem tlbinvRange (a : AR) (s : SR) (q : SR) : Statement (.tlbinvRange a s q) := by
  intro code hc _
  obtain rfl := Option.some.inj hc
  refine ofCT [(0, 2 ^ 6, 6), (q.val, 32, 5), (s.val, 32, 5), (a.val, 16, 4), (0, 4, 2), (43, 64, 6), (0, 2 ^ 4, 4), (0, 2 ^ 31, 31)] (by simp only [cat, pk]; ring)
    ⟨⟨by decide, rfl⟩, ⟨q.isLt, rfl⟩, ⟨s.isLt, rfl⟩, ⟨a.isLt, rfl⟩, ⟨by decide, rfl⟩, ⟨by decide, rfl⟩, ⟨by decide, rfl⟩, ⟨by decide, rfl⟩, trivial⟩ fun w at_ => ?_
  have h1 : w / 2 ^ 22 % 64 = 43 := at_ 5
  have h2 : w / 2 ^ 20 % 4 = 0 := at_ 4
  have e0 : fld 16 w 16 = a := fld_of (at_ 3)
  have e1 : fld 32 w 11 = s := fld_of (at_ 2)
  have e2 : fld 32 w 6 = q := fld_of (at_ 1)
  unfold decodeCT
  rw [h1, h2]
  exact need_of (and_of (zro_of (at_ 0)) (zro_of (at_ 7))) (by rw [e0, e1, e2])

theorem tlbinvAsid (a : AR) (s : SR) (q : SR) : Statement (.tlbinvAsid a s q) := by
  intro code hc _
  obtain rfl := Option.some.inj hc
  refine ofCT [(0, 2 ^ 6, 6), (q.val, 32, 5), (s.val, 32, 5), (a.val, 16, 4), (1, 4, 2), (43, 64, 6), (0, 2 ^ 4, 4), (0, 2 ^ 31, 31)] (by simp only [cat, pk]; ring)
    ⟨⟨by decide, rfl⟩, ⟨q.isLt, rfl⟩, ⟨s.isLt, rfl⟩, ⟨a.isLt, rfl⟩, ⟨by decide, rfl⟩, ⟨by decide, rfl⟩, ⟨by decide, rfl⟩, ⟨by decide, rfl⟩, trivial⟩ fun w at_ => ?_
  have h1 : w / 2 ^ 22 % 64 = 43 := at_ 5
  have h2 : w / 2 ^ 20 % 4 = 1 := at_ 4
  have e0 : fld 16 w 16 = a := fld_of (at_ 3)
  have e1 : fld 32 w 11 = s := fld_of (at_ 2)
  have e2 : fld 32 w 6 = q := fld_of (at_ 1)
  unfold decodeCT
  rw [h1, h2]
  exact need_of (and_of (zro_of (at_ 0)) (zro_of (at_ 7))) (by rw [e0, e1, e2])

theorem tlbinvAll (kind : Fin 4) (a : AR) (s : SR) (q : SR) : Statement (.tlbinvAll kind a s q) := by
  intro code hc wf
  obtain rfl := Option.some.inj hc
  refine wordCT fun w hw => ?_
  replace wf : decide (2 ≤ kind.val) = true := wf
  simp only [pk] at hw
  have h1 := op_of (w := w) (n := 43) (by omega)
  have e0 : fld 4 w 20 = kind := fld_of (by omega)
  have e1 : fld 16 w 16 = a := fld_of (by omega)
  have e2 : fld 32 w 11 = s := fld_of (by omega)
  have e3 : fld 32 w 6 = q := fld_of (by omega)
  have h2 : w / 2 ^ 20 % 4 = 2 ∨ w / 2 ^ 20 % 4 = 3 := by
    have : 2 ≤ kind.val := by simpa using wf
    omega
  unfold decodeCT
  rw [h1]
  rcases h2 with h2 | h2 <;> rw [h2] <;> exact need_of (and_of (zro_of (by omega)) (zro_of (by omega))) (by rw [e0, e1, e2, e3])

theorem wfi : Statement .wfi := by
  intro code hc _
  obtain rfl := Option.some.inj hc
  refine ofCT [(0, 2 ^ 22, 22), (45, 64, 6), (0, 2 ^ 4, 4), (0, 2 ^ 31, 31)] (by simp only [cat, pk]; ring)
    ⟨⟨by decide, rfl⟩, ⟨by decide, rfl⟩, ⟨by decide, rfl⟩, ⟨by decide, rfl⟩, trivial⟩ fun w at_ => ?_
  have h1 : w / 2 ^ 22 % 64 = 45 := at_ 1
  unfold decodeCT
  rw [h1]
  exact need_of (and_of (zro_of (at_ 0)) (zro_of (at_ 3))) rfl

theorem bind (d : SR) (s : SR) : Statement (.bind d s) := by
  intro code hc _
  obtain rfl := Option.some.inj hc
  refine ofCT [(0, 2 ^ 12, 12), (s.val, 32, 5), (d.val, 32, 5), (44, 64, 6), (0, 2 ^ 4, 4), (0, 2 ^ 31, 31)] (by simp only [cat, pk]; ring)
    ⟨⟨by decide, rfl⟩, ⟨s.isLt, rfl⟩, ⟨d.isLt, rfl⟩, ⟨by decide, rfl⟩, ⟨by decide, rfl⟩, ⟨by decide, rfl⟩, trivial⟩ fun w at_ => ?_
  have h1 : w / 2 ^ 22 % 64 = 44 := at_ 3
  have e0 : fld 32 w 17 = d := fld_of (at_ 2)
  have e1 : fld 32 w 12 = s := fld_of (at_ 1)
  unfold decodeCT
  rw [h1]
  exact need_of (and_of (zro_of (at_ 0)) (zro_of (at_ 5))) (by rw [e0, e1])

theorem bindFence (a : SR) (b : SR) : Statement (.bindFence a b) := none_of rfl

theorem bindUnfence (a : SR) (b : SR) : Statement (.bindUnfence a b) := none_of rfl

theorem bindMicrocode (a : SR) (b : SR) : Statement (.bindMicrocode a b) := none_of rfl

theorem bindQuery (a : SR) (b : SR) : Statement (.bindQuery a b) := none_of rfl

theorem bindBreak (a : SR) (b : SR) : Statement (.bindBreak a b) := none_of rfl

theorem bindWatch (a : SR) (b : SR) : Statement (.bindWatch a b) := none_of rfl

theorem bindTrace (a : SR) (b : SR) : Statement (.bindTrace a b) := none_of rfl

theorem bindProfile (a : SR) (b : SR) : Statement (.bindProfile a b) := none_of rfl

theorem bindDumpctx (a : SR) (b : SR) : Statement (.bindDumpctx a b) := none_of rfl

theorem bindExtract (a : SR) (b : SR) : Statement (.bindExtract a b) := none_of rfl

theorem ldwtImageCheck : Statement .ldwtImageCheck := none_of rfl

theorem regionFill : Statement .regionFill := none_of rfl

theorem regionWriteBack : Statement .regionWriteBack := none_of rfl

theorem sideLogReplay : Statement .sideLogReplay := none_of rfl

theorem deferredAccessFault : Statement .deferredAccessFault := none_of rfl

theorem resultLanding : Statement .resultLanding := none_of rfl

theorem engineOperationStart : Statement .engineOperationStart := none_of rfl

theorem rowGroupCheck : Statement .rowGroupCheck := none_of rfl

theorem engineOperationCompletion : Statement .engineOperationCompletion := none_of rfl

theorem lanternArbitration : Statement .lanternArbitration := none_of rfl

theorem thresholdExceeded : Statement .thresholdExceeded := none_of rfl

theorem tstDrainStart : Statement .tstDrainStart := none_of rfl

theorem tstRowGroupCompare : Statement .tstRowGroupCompare := none_of rfl

theorem tstCommit : Statement .tstCommit := none_of rfl

theorem engineFault : Statement .engineFault := none_of rfl

theorem copyStart : Statement .copyStart := none_of rfl

theorem cpyxAttempt : Statement .cpyxAttempt := none_of rfl

theorem copyArrival : Statement .copyArrival := none_of rfl

theorem eventRecordPost : Statement .eventRecordPost := none_of rfl

theorem claimFill : Statement .claimFill := none_of rfl

theorem channelWatchdog : Statement .channelWatchdog := none_of rfl

theorem collectiveTimeout : Statement .collectiveTimeout := none_of rfl

theorem interrupt : Statement .interrupt := none_of rfl

theorem singleStep : Statement .singleStep := none_of rfl

theorem contextSwitch : Statement .contextSwitch := none_of rfl

theorem quantumExpiry : Statement .quantumExpiry := none_of rfl

theorem preemption : Statement .preemption := none_of rfl

theorem saveAreaWrite : Statement .saveAreaWrite := none_of rfl

theorem preemptionLimit : Statement .preemptionLimit := none_of rfl

theorem dispatch : Statement .dispatch := none_of rfl

theorem taskAging : Statement .taskAging := none_of rfl

theorem taskBlocking : Statement .taskBlocking := none_of rfl

theorem taskCompletion : Statement .taskCompletion := none_of rfl

theorem auditReplay : Statement .auditReplay := none_of rfl

theorem auditVote : Statement .auditVote := none_of rfl

theorem auditPlacementLimit : Statement .auditPlacementLimit := none_of rfl

theorem sumpInflation : Statement .sumpInflation := none_of rfl

theorem sumpCtlEn : Statement .sumpCtlEn := none_of rfl

theorem sumpCtlRetry : Statement .sumpCtlRetry := none_of rfl

theorem sumpLptrTail : Statement .sumpLptrTail := none_of rfl

theorem sumpDefl : Statement .sumpDefl := none_of rfl

theorem sumpStatOosClear : Statement .sumpStatOosClear := none_of rfl

theorem scrub : Statement .scrub := none_of rfl

theorem linkRetry : Statement .linkRetry := none_of rfl

theorem linkDeath : Statement .linkDeath := none_of rfl

theorem linkStateUpdate : Statement .linkStateUpdate := none_of rfl

theorem linkDrainRound : Statement .linkDrainRound := none_of rfl

theorem requestDeclareDead : Statement .requestDeclareDead := none_of rfl

theorem requestBringUp : Statement .requestBringUp := none_of rfl

theorem requestPcap : Statement .requestPcap := none_of rfl

theorem hostMessage : Statement .hostMessage := none_of rfl

theorem hostAccess : Statement .hostAccess := none_of rfl

theorem clockAdjust : Statement .clockAdjust := none_of rfl

theorem profileSample : Statement .profileSample := none_of rfl

theorem panic : Statement .panic := none_of rfl

theorem devnoSupply : Statement .devnoSupply := none_of rfl

theorem reset : Statement .reset := none_of rfl

theorem remoteRequest : Statement .remoteRequest := none_of rfl

theorem linkTrained : Statement .linkTrained := none_of rfl

theorem receiverLosesLock : Statement .receiverLosesLock := none_of rfl

theorem powerRemoved : Statement .powerRemoved := none_of rfl

theorem criticalTemperature : Statement .criticalTemperature := none_of rfl

theorem pcieLinkStateChange : Statement .pcieLinkStateChange := none_of rfl

theorem ethernetPortStateChange : Statement .ethernetPortStateChange := none_of rfl

end Sys2Proof.Laws.RoundTrip
end

