-- ==== Sys2Proof/Tests/Slice0.lean ====
section
/-! SUPPORT. Tests: ill-formed terms, words that the spec writes out, single steps, and for every statement of
Certificates/Slice0 a state and operands that meet its hypotheses. -/

set_option Elab.async false

namespace Sys2Proof.Tests

open Sys2Proof.Machine

/-! ## States -/

/-- A compute context of core 0 that runs, with every feature accepted and a 1 GiB page (Machine/Bundle.lean). -/
def user : State := userStarted State.reset

/-- The same with other register values. -/
def userWith (f : Ctx → Ctx) : State := { user with ctx := f user.ctx }

/-- System core 0 of stack 0, right after reset. -/
def sysCore : State := State.reset

/-- A landing of register r, issued at schedule cycle i and due at d. -/
def landing (r : RegName) (i d : Nat) (ready : Bool) : Landing := ⟨r, .word 7, i, d, ready, false, false, 0, []⟩

/-! ## Ill-formed terms, one for each check -/

theorem test_wf_header_i : wellFormed (.skippedBundle ⟨1, 0, 3, 0, false, 0⟩) = false := by decide
theorem test_wf_header_l : wellFormed (.skippedBundle ⟨1, 0, 1, 6, false, 0⟩) = false := by decide
theorem test_wf_header_lx : wellFormed (.gapBundle ⟨0, 0, 0, 0, false, 5⟩) = false := by decide
theorem test_wf_gap_has_no_slot : wellFormed (.gapBundle ⟨1, 0, 0, 0, false, 0⟩) = false := by decide
theorem test_wf_skipped_has_a_slot : wellFormed (.skippedBundle ⟨0, 0, 1, 0, false, 0⟩) = false := by decide
theorem test_wf_skipped_is_flagged : wellFormed (.skippedBundle ⟨1, 0, 0, 0, false, 0⟩) = false := by decide
theorem test_wf_token_pv : wellFormed (.tld 0 0 ⟨false, 1, 0, 0, 0, 0⟩) = false := by decide
theorem test_wf_token_c0 : wellFormed (.tld 0 0 ⟨false, 0, 1, 0, 0, 0⟩) = false := by decide
theorem test_wf_token_c1 : wellFormed (.tld 0 0 ⟨false, 0, 0, 1, 0, 1⟩) = false := by decide
theorem test_wf_token_c2 : wellFormed (.mma 0 0 0 0 false ⟨false, 0, 0, 0, 1, 2⟩) = false := by decide
theorem test_wf_tst_seed : wellFormed (.tst 0 0 1 0 0 false ⟨false, 0, 0, 0, 0, 0⟩) = false := by decide
theorem test_wf_copy_barrier : wellFormed (.cpy 0 0 0 0 0 ⟨false, false, 1⟩ ⟨false, 0, 0, 0, 0, 0⟩) = false := by decide
theorem test_wf_btree : wellFormed (.btree ⟨false, true, 0, 0⟩ ⟨false, false, 0, 0⟩ ⟨false, false, 0, 0⟩ ⟨false, false, 0, 0⟩) = false := by
  decide
theorem test_wf_waitk_pv : wellFormed (.waitk ⟨true, 1, 0, 0, 0, 0⟩) = false := by decide
theorem test_wf_setsys : wellFormed (.setsys 1 2 0x014) = false := by decide
theorem test_wf_setsys_window : wellFormed (.setsysThreshWindow 1 2 0x060) = false := by decide
theorem test_wf_setsys_feat : wellFormed (.setsysFeatack 1 2 0x018) = false := by decide
theorem test_wf_tabort : wellFormed (.tabortKill 1 0) = false := by decide
theorem test_wf_ctxstop : wellFormed (.ctxstopKill 1 0) = false := by decide
theorem test_wf_tlbinv : wellFormed (.tlbinvAll 1 0 0 0) = false := by decide

/-! ## Words that the spec writes out, bit for bit, and the instruction each stands for -/

/-- The group w of a slot decodes to i. -/
abbrev Reads (slot w : Nat) (i : Instr) : Prop := decodeCode (.slot slot w) = some i

/-- R120, R125, R127, R128, R129, R130, R131, R136, R139, R140. -/
theorem test_decode_scalar :
    Reads 0 0x000C110F (.mulh 6 1 2) ∧ Reads 0 0x004A5FFF (.addi 5 5 (-1)) ∧ Reads 0 0x01484002 (.shli 4 4 2) ∧
      Reads 0 0x024ABFA5 (.lis 5 0x0BFA5) ∧ Reads 0 0x02881102 (.cmp 2 2 1 2) ∧ Reads 0 0x02C58C64 (.cmpi 3 1 3 100) ∧
      Reads 0 0x04C41107 (.fcmp 7 1 1 2) ∧ Reads 0 0x030C2203 (.pandn 3 1 2) ∧ Reads 0 0x03481110 (.sel 4 1 2 2) := by decide

/-- R131–R133, R136, R137, R139, R140. -/
theorem test_decode_address :
    Reads 0 0x038C4200 (.aadd 3 2 4) ∧ Reads 0 0x03886003 (.smova 4 3) ∧ Reads 0 0x03CC6F00 (.aaddi 3 3 (-256)) ∧
      Reads 0 0x04088400 (.astride 2 1 1024) ∧ Reads 0 0x04420002 (.movx 1 2) ∧ Reads 0 0x04861103 (.fdiv 3 1 2) ∧
      Reads 0 0x0500000C (.btgt 0 12) ∧ Reads 0 0x05486000 (.btgta 1 3) := by decide

/-- R144, R146, R148, R155, R157, R159, R165, R168. -/
theorem test_decode_control :
    Reads 7 0x000400000023D400 (.btree ⟨true, false, 3, 0⟩ ⟨true, true, 5, 1⟩ ⟨false, false, 0, 0⟩ ⟨false, false, 0, 0⟩) ∧
      Reads 7 0x0000000F007FFFF0 (.jmp (-16)) ∧ Reads 7 0x0000000C01580000 (.loop 12 12) ∧ Reads 7 0x00000000018C8000 (.lbrk 1 true 2) ∧
      Reads 7 0x0000000001E80000 (.fmtw 20) ∧ Reads 7 0x0033820002000000 (.waitk ⟨false, 0, 3, 7, 0, 2⟩) ∧
      Reads 7 0x0000000005000003 (.seedf 3) ∧ Reads 7 0x0000000003C00000 .exit := by decide

/-- R174–R180. -/
theorem test_decode_load :
    Reads 1 0x01882002 (.ldd 4 1 false 2) ∧ Reads 1 0x020E1002 (.ldv 7 0 true 2) ∧ Reads 1 0x02442480 (.ldvs 2 1 false 9 0) ∧
      Reads 1 0x02C28003 (.ldvb 1 4 false 3) ∧ Reads 1 0x028A6340 (.ldvx 5 3 6 2) ∧ Reads 1 0x03046001 (.ldm 2 3 false 1) ∧
      Reads 1 0x04085402 (.ldg 4 2 5 2) ∧ Reads 1 0x04883980 (.ldaq 4 1 6 3) := by decide

/-- R174–R196. -/
theorem test_decode_store :
    Reads 2 0x0006C005 (.stb 3 6 false 5) ∧ Reads 2 0x01464202 (.stvm 3 2 false 1 2) ∧ Reads 2 0x0202A000 (.stwt 1 5 false 0) ∧
      Reads 2 0x04467000 (.stgv 3 3 true 0) ∧ Reads 2 0x04C6450E (.atomAdd 3 2 5 true true 2) ∧
      Reads 2 0x0508460F (.acas 4 2 6 true true 3) ∧ Reads 2 0x05400013 (.fence 2 3) ∧ Reads 2 0x05846700 (.cmo 0 1 3 7) ∧
      Reads 2 0x05C8A849 (.rgset 2 5 8 9 1) ∧ Reads 2 0x06080000 (.rgwb 2) ∧ Reads 2 0x06480000 (.rgdrop 2) := by decide

/-- R200–R235. -/
theorem test_decode_vector :
    Reads 3 0x00061108 (.vadd 3 1 2 0 8) ∧ Reads 4 0x00485328 (.vfma 4 5 6 2 8) ∧ Reads 3 0x030A10C8 (.vcmp 2 1 2 3 8) ∧
      Reads 3 0x06020000 (.viota 1 0) ∧ Reads 3 0x048E2918 (.vcvt 7 2 9 0 true 8) ∧ Reads 3 0x05528308 (.vred 9 8 6 8) ∧
      Reads 4 0x02841200 (.vrng 2 1 4) ∧ Reads 4 0x041411A8 (.vmaxw 10 1 3 2 8) ∧ Reads 4 0x05588138 (.vrmaxw 12 8 2 3 8) ∧
      Reads 4 0x05D642A8 (.vadj 11 4 5 2 true 0) ∧ Reads 4 0x060C0020 (.wtag 6 2) ∧ Reads 4 0x06400050 (.wclr 5) := by decide

/-- R253–R258, R273–R275. -/
theorem test_decode_matrix :
    Reads 5 0x4610010000051580 (.mma 1 4 5 6 false ⟨true, 3, 1, 0, 0, 1⟩) ∧ Reads 5 0x00000000004C0000 (.tzero 3) ∧
      Reads 5 0x4400000000C90000 (.tld 2 4 ⟨true, 2, 0, 0, 0, 0⟩) ∧ Reads 5 0x0000000001020000 (.trd 1 0 0) ∧
      Reads 5 0x0000000001445380 (.twr 1 5 7) ∧ Reads 5 0x0000000001885000 (.tstat 4 2 true) ∧ Reads 5 0x0000000001D21000 (.tsig 9 0 8) ∧
      Reads 5 0x4400005C02114C10 (.cpy 4 5 6 0 2 ⟨false, true, 7⟩ ⟨true, 2, 0, 0, 0, 0⟩) ∧
      Reads 5 0x4C5001540248C8C0 (.cpyx 2 3 4 3 0 ⟨false, true, 5⟩ ⟨true, 6, 5, 0, 0, 1⟩) ∧
      Reads 5 0x4600005C029158E8 (.gath 4 5 6 7 8 ⟨false, true, 7⟩ ⟨true, 3, 0, 0, 0, 0⟩) := by decide

/-- R355, R370, R371, R407, R455. -/
theorem test_decode_privileged :
    Reads 7 0x0000000208089000 (.getsys 4 9 2) ∧ Reads 7 0x000000000A142000 (.eqpop 1 10) ∧ Reads 7 0x000000000A4C4000 (.ctxstart 6 2) ∧
      Reads 7 0x000000000AC33A00 (.tlbinvRange 3 7 8) ∧ Reads 7 0x0000000008C84000 (.tlaunch 4 2) ∧ Reads 7 0x00000000090A0000 (.tcommit 5) ∧
      Reads 7 0x00000000094A0001 (.tabortKill 5 1) ∧ Reads 7 0x00000000098CC000 (.jcbadd 3 6) ∧ Reads 7 0x0000000009CCE000 (.jcbpost 3 7) ∧
      Reads 7 0x000000000AD00200 (.tlbinvAsid 0 0 8) ∧ Reads 7 0x000000000B085000 (.bind 4 5) := by decide

/-- R88, R91: a header parcel of the spec's worked example, and a header with no slot. -/
theorem test_decode_header :
    decodeHeader 0x81900000 = some ⟨3, 2, 0, 0, false, 0⟩ ∧ decodeHeader 0x8082A000 = some ⟨1, 0, 1, 2, true, 0⟩ ∧
      decodeTableWord 32 0x80080000 = some (.gapBundle ⟨0, 1, 0, 0, false, 0⟩) := by decide

/-! ## States that meet the hypotheses of the statements

A name meets_<statement> shows a state and operands at which every hypothesis of it holds; a statement of several clauses has
one for each. -/

theorem meets_ScalarBinaryResults : Ready [.s 1, .s 2] [.s 3] user ∧ Ready [.s 31, .s 31] [.s 31] user ∧ Ready [.s 0, .s 0] [.s 0] user := by
  decide +kernel

theorem meets_ScalarFloatResults : Ready [.s 1, .s 2] [.s 3] user ∧ Ready [.s 1] [.s 3] user ∧ Ready [.s 1, .s 2] [.p 15] user := by decide +kernel

theorem meets_ScalarUnaryAndImmediateResults : Ready [.s 1] [.s 3] user ∧ Ready [] [.s 3] user ∧ Ready [.s 3] [.s 3] user := by
  decide +kernel

theorem meets_ComparisonsAndPredicates :
    Ready [.s 1, .s 2] [.p 0] user ∧ Ready [.s 1] [.p 15] user ∧ Ready [.p 0, .p 15] [.p 1] user ∧ Ready [.p 1] [.p 1] user ∧
      Ready [.s 1, .s 2, .p 3] [.s 4] user := by decide +kernel

/-- Stride levels 5 and 6 stand on the two sides of the reserved codes. -/
theorem meets_AddressRegistersAndSpecialValues :
    Ready [.a 0, .s 1] [.a 15] user ∧ Ready [.s 1] [.a 0] user ∧ Ready [.a 2] [.s 1] user ∧ Ready [.a 2] [.a 2] user ∧ Ready [] [.a 2] user := by
  decide +kernel

theorem meets_AddressRegistersAndSpecialValues_rest :
    (5 : Fin 8).val < 6 ∧ 6 ≤ (6 : Fin 8).val ∧ Ready [] [.b 7] user ∧ Ready [.a 3] [.b 0] user ∧ Ready [] [.s 1] user := by decide +kernel

/-- A register with a landing of an earlier bundle still inside its bound, and one with no landing. -/
theorem meets_RegisterWritesAndBounds :
    (RegName.s 3).wired = false ∧ exposed (userWith fun x => { x with sc := 5, lands := [landing (.s 3) 4 7 true] }) (.s 3) = true ∧
      written (userWith fun x => { x with sc := 5, lands := [landing (.s 3) 5 6 true] }) (.s 3) = true ∧
      ((3 : SR) ≠ 0 ∧ 0 < 18 ∧ ∀ l ∈ user.ctx.lands, l.reg ≠ .s 3) := by decide +kernel

theorem meets_ScalarFrame : ∃ t, exec (.add 3 1 2) user = .next t ∧ t.frame.out = .going := by
  refine ⟨land (.s 3) (.word (rdS user 1 + rdS user 2)) 1 user, ?_, ?_⟩ <;> rfl

theorem meets_TrapsThatStop :
    user.who = .user 0 0 ∧ CtxId.isSys (.sys 0 1) = true ∧ getBit (16 : Word) stTF = true ∧ CtxId.sys 0 1 ≠ .sys (lowestStack sysCore) 0 := by
  decide +kernel

theorem meets_HandlerEntryAndReturn : sysCore.who.isSys = true ∧ getBit sysCore.ctx.status stTF = false := by decide +kernel

/-- A register that awaits a value after its bound, one whose parity fails, and one inside its bound in debug mode. -/
theorem meets_ChecksAndUnreadyOperands :
    (user.who.isSys = false ∨ getBit user.ctx.status stTF = false) ∧
      (let s := userWith fun x => { x with sc := 9, lands := [landing (.s 3) 4 7 false] }
       hazardMode s = false ∧ (RegName.s 3).wired = false ∧ interlocked s (.s 3) = true) ∧
      (let s := userWith fun x => { x with badRegs := [.s 3] }
       hazardMode s = false ∧ (∀ r ∈ [RegName.s 3], r.wired = false → interlocked s r = false) ∧ RegName.s 3 ∈ s.ctx.badRegs) ∧
      (let s := modDev (userWith fun x => { x with sc := 5, lands := [landing (.s 3) 4 7 true] }) fun d => { d with debug := 1 }
       hazardMode s = true ∧ (RegName.s 3).wired = false ∧ exposed s (.s 3) = true) := by decide +kernel

/-- A Bool of LocalReady. -/
def localReadyB (s : State) (contig : Bool) (n align : Nat) (write : Bool) (addrs : List Word) : Bool :=
  addrs.all (localOk s n align write) && (!contig || addrs.all fun a => coreAt s a == coreAt s (addrs.headD 0)) &&
    !acquirePending s && !mustWait s s.who n (addrs.map (keyAt s))

theorem localReady_of {s : State} {contig : Bool} {n align : Nat} {write : Bool} {addrs : List Word}
    (h : localReadyB s contig n align write addrs = true) : LocalReady s contig n align write addrs := by
  simp only [localReadyB, Bool.and_eq_true, Bool.not_eq_true', Bool.or_eq_true, List.all_eq_true, beq_iff_eq] at h
  refine ⟨List.all_eq_true.2 h.1.1.1, fun c => ?_, h.1.2, h.2⟩
  rcases h.1.1.2 with e | e
  · rw [c] at e; cases e
  · exact e

/-- A Bool of GlobalReady. -/
def globalReadyB (s : State) (n align : Nat) (write : Bool) (addrs : List Word) : Bool :=
  (addrs.all fun a => decide (a.toNat < 2 ^ 56) && a.toNat % align == 0 && (watched s true write n a.toNat).isNone) && !acquirePending s

theorem globalReady_of {s : State} {n align : Nat} {write : Bool} {addrs : List Word}
    (h : globalReadyB s n align write addrs = true) : GlobalReady s n align write addrs := by
  simp only [globalReadyB, Bool.and_eq_true, Bool.not_eq_true', List.all_eq_true, beq_iff_eq, decide_eq_true_eq, Option.isNone_iff_eq_none] at h
  exact ⟨fun a m => (h.1 a m).1, fun a m => (h.1 a m).2, h.2⟩

/-- An access that answers n bytes. -/
def answers (n : Nat) : Perf (List Byte) → Bool
  | .ok _ bs => bs.length == n
  | _ => false

def needsService {α : Type} : Perf α → Bool
  | .serviced _ _ _ => true
  | _ => false

def done : Option (Perf Unit) → Bool
  | some (.ok _ _) => true
  | _ => false

/-- The last byte of the own scratchpad, the cluster window's last byte, and the addresses on both sides of the hole; the last
doubleword of the scratchpad is loaded. -/
theorem meets_AddressesAndScalarLoads :
    (0x7FFFFF < 0x800000 ∧ (3 < 4 ∧ 0x7FFFFF < 0x800000 ∧ (0x03FFFFFF : Word).toNat = 0x02000000 + 3 * 0x800000 + 0x7FFFFF) ∧
      (0x800000 ≤ (0x01FFFFFF : Word).toNat ∧ (0x01FFFFFF : Word).toNat < 0x02000000) ∧ 0x04000000 ≤ (0x04000000 : Word).toNat) ∧
      (let s := userWith fun x => { x with a := x.a.set 1 ⟨0x7FFFF8, Vector.replicate 6 0⟩ }
       s.who.isSys = false ∧ Ready [.a 1] (.s 3 :: postReg true 1) s ∧ LocalReady s false 8 8 false [ea s 1 (offset (0 : BitVec 12) 8)] ∧
         spmPoisoned s (keyAt s (ea s 1 (offset (0 : BitVec 12) 8))) 8 = false) := by decide +kernel

theorem meets_AddressesAndScalarLoads_acquire :
    user.who.isSys = false ∧ Ready [.a 1] [.s 3] user ∧ (2 : Fin 8).val < 3 ∧
      ((4, 4, true) : Nat × Nat × Bool) ∈ ([(4, 4, true), (5, 4, false), (6, 8, true)] : List (Nat × Nat × Bool)) ∧
      LocalReady user false 4 4 false [ea user 1 0] ∧ spmPoisoned user (keyAt user (ea user 1 0)) 4 = false := by decide +kernel

/-- The addresses of a contiguous vector access. -/
def rowOfWords : List Word := (List.finRange 64).map fun i : Fin 64 => ea user 1 (offset (0 : BitVec 12) 256) + BitVec.ofNat 64 (4 * i.val)

/-- The four shapes of a vector load: contiguous, one word for all lanes, strided, indexed; and a mask. -/
theorem meets_VectorAndWitnessLoads :
    Ready [.a 1] (.v 3 :: postReg true 1) user ∧ Ready [.a 1, .s 2] (.v 3 :: postReg true 1) user ∧ Ready [.a 1, .v 2] [.v 3] user ∧
      Ready [.a 1] (.m 3 :: postReg true 1) user ∧ LocalReady user true 4 4 false rowOfWords ∧
      (rowOfWords.all fun a => !spmPoisoned user (keyAt user a) 4) = true :=
  ⟨by decide +kernel, by decide +kernel, by decide +kernel, by decide +kernel, localReady_of (by decide +kernel), by decide +kernel⟩

theorem meets_VectorAndWitnessLoads_image :
    user.who.isSys = false ∧ accepted user 4 = true ∧ Ready [.a 1] (.w 3 :: postReg true 1) user ∧
      LocalReady user true 136 8 false [ea user 1 (offset (0 : BitVec 12) 8)] ∧
      spmPoisoned user (keyAt user (ea user 1 (offset (0 : BitVec 12) 8))) 136 = false :=
  ⟨rfl, by decide +kernel, by decide +kernel, localReady_of (by decide +kernel), by decide +kernel⟩

theorem meets_LocalStoresAndReleases :
    (user.who.isSys = false ∧ user.spm.wf = true ∧ Ready [.s 3, .a 1] (postReg true 1) user ∧
      LocalReady user false 8 8 true [ea user 1 (offset (0 : BitVec 12) 8)]) ∧
      (Ready [.v 3, .a 1] (postReg true 1) user ∧ LocalReady user true 4 4 true rowOfWords ∧
        Ready [.v 3, .a 1, .m 0] (postReg true 1) user ∧ Ready [.v 3, .a 1, .s 2] (postReg true 1) user ∧ Ready [.v 3, .a 1, .v 2] [] user) ∧
      (Ready [.m 3, .a 1] (postReg true 1) user ∧ Ready [.w 3, .a 1] (postReg true 1) user ∧ accepted user 4 = true) :=
  ⟨by decide +kernel, ⟨by decide +kernel, localReady_of (by decide +kernel), by decide +kernel, by decide +kernel, by decide +kernel⟩,
    by decide +kernel⟩

/-- A witness register inside its bound, outside debug mode. -/
def bounded : State := userWith fun x => { x with sc := 5, lands := [landing (.w 3) 4 7 true] }

theorem meets_LocalStoresAndReleases_bound :
    Ready [.w 3, .a 1] (postReg false 1) bounded ∧ exposed bounded (.w 3) = true ∧ exposed user (.w 3) = false ∧
      LocalReady bounded true 136 8 true [ea bounded 1 (offset (0 : BitVec 12) 8)] :=
  ⟨by decide +kernel, by decide +kernel, by decide +kernel, localReady_of (by decide +kernel)⟩

/-- An access of context c that waits. -/
def waiting (c : CtxId) (k : WaitKind) : Wait := ⟨c, 1, 0, 0, 0, 0, BitVec.ofNat 64 userTables, [], [], 0, k⟩

/-- A store of context c that waits. -/
def waitingStore (c : CtxId) : Wait := waiting c (.store [(0, [1])] none)

/-- A release that waits for an earlier store of its context, and one that does not. -/
theorem meets_LocalStoresAndReleases_release :
    (2 : Fin 8).val < 3 ∧ Ready [.s 3, .a 1] [] user ∧ LocalReady user false 8 8 true [ea user 1 0] ∧ releaseReady user user.who 2 = true ∧
      (let s := modCore user 0 fun c => { c with waits := [waitingStore (.user 0 0)] }
       releaseReady s s.who 2 = false) := by decide +kernel

/-- A context with a1 in its 1 GiB page. -/
def paged : State := userWith fun x => { x with a := x.a.set 1 ⟨0x40000000, Vector.replicate 6 0⟩ }

theorem meets_GlobalLoads :
    (paged.who.isSys = false ∧ isHeld paged paged.who = false ∧ Ready [.a 1] [.s 3] paged ∧ Ready [.a 1] (.v 3 :: postReg true 1) paged) ∧
      GlobalReady paged 8 8 false [ea paged 1 (offset (0 : BitVec 10) 8)] ∧ inLog paged paged.who = false ∧
      answers 8 (readElems (accOf paged paged.who) false 8 [(ea paged 1 (offset (0 : BitVec 10) 8)).toNat] (bump paged)) = true ∧
      answers 8 (readElems (accOf paged paged.who) true 8 [(ea paged 1 0).toNat] (bump paged)) = true :=
  ⟨by decide +kernel, globalReady_of (by decide +kernel), by decide +kernel, by decide +kernel, by decide +kernel⟩

theorem meets_GlobalLoads_reserved : (7 : Fin 8).val = 7 ∧ (3 : Fin 8).val < 4 ∧ 3 ≤ (3 : Fin 8).val ∧ (6 : Fin 8).val < 7 := by decide

theorem meets_GlobalStores :
    (paged.who.isSys = false ∧ isHeld paged paged.who = false ∧ Ready [.s 3, .a 1] [] paged ∧ Ready [.v 3, .a 1] (postReg true 1) paged) ∧
      GlobalReady paged 8 8 true [ea paged 1 (offset (0 : BitVec 10) 8)] ∧ releaseReady paged paged.who 2 = true ∧
      ((coreOf paged paged.who.coreNo).waits = [] ∧ ∀ r ∈ paged.dev.outreqs, r.who ≠ paged.who) ∧
      (let va := (ea paged 1 (offset (0 : BitVec 10) 8)).toNat
       done (unitStore (accOf paged paged.who) va (leBytes 8 1) false none paged) = true) :=
  ⟨by decide +kernel, globalReady_of (by decide +kernel), by decide +kernel, by decide +kernel, by decide +kernel⟩

/-- System core 0 with the page table of userStarted. -/
def sysPaged : State :=
  { user with who := .sys 0 0, parked := [],
              ctx := { Ctx.sysReset with ptbase := BitVec.ofNat 64 userTables, a := Ctx.blank.a.set 1 ⟨0x40000000, Vector.replicate 6 0⟩ } }

/-- An access that a page serves, and one whose page is absent. -/
theorem meets_SystemCoreAccesses :
    (sysPaged.who.isSys = true ∧ Ready [.a 1] (.s 3 :: postReg true 1) sysPaged ∧ Ready [.s 3, .a 1] (postReg true 1) sysPaged) ∧
      GlobalReady sysPaged 8 8 false [ea sysPaged 1 (offset (0 : BitVec 12) 8)] ∧
      answers 8 (readElems (accOf sysPaged sysPaged.who) false 8 [(ea sysPaged 1 (offset (0 : BitVec 12) 8)).toNat] sysPaged) = true ∧
      GlobalReady sysPaged 8 8 false [ea sysPaged 2 (offset (0 : BitVec 12) 8)] ∧
      needsService (readElems (accOf sysPaged sysPaged.who) false 8 [(ea sysPaged 2 (offset (0 : BitVec 12) 8)).toNat] sysPaged) = true :=
  ⟨by decide +kernel, globalReady_of (by decide +kernel), by decide +kernel, globalReady_of (by decide +kernel), by decide +kernel⟩

theorem user_lands : user.ctx.lands = [] ∧ user.ctx.badRegs = [] := by decide +kernel

/-- With nothing in flight every list of registers is ready. -/
theorem user_ready (rs ws : List RegName) : Ready rs ws user := by
  simp [Ready, exposed, interlocked, user_lands.1, user_lands.2]

theorem user_computes : Computes user := ⟨rfl, by decide +kernel⟩

theorem meets_LocalAtomics :
    user.who.isSys = false ∧ user.spm.wf = true ∧ LocalReady user false 8 8 true [ea user 1 0] ∧
      LocalReady user false 8 8 false [ea user 1 0] ∧ spmPoisoned user (keyAt user (ea user 1 0)) 8 = false ∧ releaseReady user user.who (2 * (3 : Fin 4).val) = true ∧
      Ready [.a 1, .s 2] [.s 3] user ∧ Ready [.s 3, .a 1, .s 2] [.s 3] user :=
  ⟨rfl, by decide +kernel, localReady_of (by decide +kernel), localReady_of (by decide +kernel), by decide +kernel, by decide +kernel, user_ready _ _,
    user_ready _ _⟩

/-- A read-modify-write of the page that is done. -/
def atomDone : Perf Nat → Bool
  | .ok _ _ => true
  | _ => false

theorem meets_GlobalAtomics :
    (paged.who.isSys = false ∧ isHeld paged paged.who = false ∧ logLength paged paged.who.coreNo = 0 ∧ inLog paged paged.who = false) ∧
      GlobalReady paged 4 4 true [ea paged 1 0] ∧ GlobalReady paged 4 4 false [ea paged 1 0] ∧ releaseReady paged paged.who 6 = true ∧ Ready [.a 1, .s 2] [.s 3] paged ∧
      atomDone (performAtomGlobal (accOf paged paged.who) .add 4 (ea paged 1 0).toNat 1 0 (bump paged)) = true ∧
      atomDone (performAtomGlobal { accOf paged paged.who with unit := logUnit 0 } .fadd 4 (ea paged 1 0).toNat 1 0 (bump paged)) = true :=
  ⟨by decide +kernel, globalReady_of (by decide +kernel), globalReady_of (by decide +kernel), by decide +kernel, by decide +kernel, by decide +kernel,
    by decide +kernel⟩

/-- A fence whose context has nothing outstanding, and one that waits. -/
theorem meets_FencesAndCache :
    (∀ scope : Fin 8, releaseReady user user.who scope.val = true) ∧ readsLanded user = true ∧
      (let s := userWith fun x => { x with sc := 9, lands := [landing (.s 3) 4 7 false] }
       readsLanded s = false) ∧
      ((ea user 1 0).toNat < 2 ^ 56 ∧ acquirePending user = false) := by decide +kernel

/-- A region of the last page of the scratchpad; a set region with nothing dirty. -/
theorem meets_RegionInstructions :
    (let s := userWith fun x => { x with a := x.a.set 1 ⟨0x7FF000, Vector.replicate 6 0⟩, s := (x.s.set 2 0x40000000).set 3 0x1000 }
     s.who.isSys = false ∧ accepted s 8 = true ∧ s.ctx.regions[15] = none ∧ (rdBase s 1).toNat % 4096 = 0 ∧ (rdS s 2).toNat % 4096 = 0 ∧
       (rdS s 3).toNat % 4096 = 0 ∧ 0 < (rdS s 3).toNat ∧ (rdBase s 1).toNat + (rdS s 3).toNat ≤ 0x800000 ∧
       (∀ r ∈ s.ctx.regions.toList, r = none) ∧ (rdS s 2).toNat + (rdS s 3).toNat ≤ 2 ^ 56) ∧
      (let r : Region := ⟨0, 0x40000000, 4096, true, [0], [4095]⟩
       let s := userWith fun x => { x with regions := x.regions.set 0 (some r) }
       s.ctx.regions[0] = some r ∧ acquirePending s = false ∧ r.gbase % 4096 = 0 ∧ r.len % 4096 = 0 ∧ (∀ b ∈ r.dirty, b < r.len) ∧
         (coreOf s s.who.coreNo).waits = []) := by decide +kernel

/-- A task record of zeros, for a state with a task. -/
def plainRecord : TaskRec := ⟨0, 0, 0, 0, 1, 0, 0, 0, 0, 0, 0, 0, [], 0, [], 0, []⟩

/-- A task with this number in a phase. -/
def plainTask (id : Nat) (ph : TaskPhase) : Task where
  id := id
  recAt := 0
  lpt := 0
  lasid := 0
  record := plainRecord
  phase := ph
  pri := 0
  waitFrom := 0
  blocking := false
  dmask := 1
  runs := 0
  retries := 0
  variant := 0
  away := []
  moved := []
  version := []
  lines := []
  writers := []
  vpoison := []
  reads := []
  touches := []
  doomed := false
  dropped := false
  fault := none
  kept := []
  gone := []
  error := none
  barriers := []
  audit := .none
  retained := []
  times := []

theorem meets_VersionsAndCommittedMemory :
    (let s := { user with tasks := [plainTask 5 .dispatched] }
     s.mem.wf = true ∧ taskOf s { accOf s s.who with task := 5 }.task = some (plainTask 5 .dispatched)) := by decide +kernel

/-- The integer types stand at both ends of their codes. -/
theorem meets_VectorIntegerResults :
    Computes user ∧ (∀ ty : Fin 16, 2 ≤ ty.val → ty.val ≤ 5 → tyFlt ty = none) ∧ Ready ([.v 1, .v 2] ++ (maskReg 1 ++ [.v 3])) [.v 3] user ∧
      Ready (.v 1 :: .v 2 :: .v 3 :: maskReg 1) [.v 3] user :=
  ⟨user_computes, by decide, user_ready _ _, user_ready _ _⟩

/-- A type of 32-bit and one of 16-bit elements. -/
theorem meets_VectorFloatResults :
    Computes user ∧ tyFlt 8 = some .f32 ∧ (tyFlt 6).isSome = true ∧ Ready (.v 1 :: .v 2 :: (maskReg 1 ++ [.v 3])) [.v 3] user ∧
      Ready (.v 1 :: .v 2 :: .v 3 :: maskReg 1) [.v 3] user :=
  ⟨user_computes, by decide, by decide, user_ready _ _, user_ready _ _⟩

/-- VSHUF codes 5, 6, 7 and 8 stand where its clauses meet. -/
theorem meets_VectorMovesAndMasks :
    Computes user ∧ 2 ≤ (2 : Fin 16).val ∧ (8 : Fin 16).val ≤ 8 ∧ (5 : Fin 32).val < 6 ∧ (6 : Fin 32).val = 6 ∧ (7 : Fin 32).val = 7 ∧
      8 ≤ (8 : Fin 32).val ∧ Ready [.v 1, .v 2] [.m 3] user ∧ Ready ([.s 1] ++ maskReg 2 ++ [.v 3]) [.v 3] user ∧
      Ready [.m 1, .m 2] [.m 3] user :=
  ⟨user_computes, by decide, by decide, by decide, by decide, by decide, by decide, user_ready _ _, user_ready _ _, user_ready _ _⟩

/-- Codes 1 and 2 of VUNPK, 6 and 7 of VRED, and a type and a mode that no code names. -/
theorem meets_VectorConversionsAndQuantisation :
    Computes user ∧ (tyOf 8).isSome = true ∧ (tyOf 15).isSome = false ∧ rmodeOf 0 = some .rne ∧ rmodeOf 4 = some .sr ∧ rmodeOf 7 = none ∧
      (1 : Fin 32).val < 2 ∧ (6 : Fin 32).val < 7 ∧ (∀ t ∈ [0, 9, 10, 11], (tyOf t).isSome = true) ∧
      Ready ([.v 1] ++ [.s 31]) [.v 3] user ∧ Ready [.v 1, .v 2] [.v 3] user :=
  ⟨user_computes, by decide, by decide, by decide, by decide, by decide, by decide, by decide, by decide, user_ready _ _, user_ready _ _⟩

/-- Runs of 1, 16 and 3 registers that end at v31, and one that does not fit; both ends of the group sizes. -/
theorem meets_WitnessWinners :
    (Computes user ∧ accepted user 4 = true) ∧ (2 ≤ (2 : Fin 16).val ∧ (8 : Fin 16).val ≤ 8) ∧
      ((16 : Fin 32).val ≤ 16 ∧ (16 : VR).val + (16 : Fin 32).val ≤ 32 ∧ 32 < (17 : VR).val + (16 : Fin 32).val) ∧
      (1 ≤ (1 : Fin 32).val ∧ (6 : Fin 32).val ≤ 6 ∧ (8 : Fin 16).val ∈ [4, 5, 8]) ∧
      Ready ((vrun 16 16).map .v) [.v 3, .w 2] user ∧ Ready [.v 1] [.v 3, .w 2] user :=
  ⟨⟨user_computes, by decide +kernel⟩, by decide, by decide, by decide, user_ready _ _, user_ready _ _⟩

theorem meets_WitnessMediansClampsAndSums :
    (Computes user ∧ accepted user 4 = true) ∧ ((5 : Fin 32).val = 5 ∧ (27 : VR).val + (5 : Fin 32).val ≤ 32) ∧
      ((30 : VR).val + 1 < 32 ∧ (31 : VR).val = 31) ∧ (5 : Fin 16).val ≤ 5 ∧ Ready ((vrun 27 5).map .v) [.v 3, .w 2] user ∧
      Ready [.v 1, .v 30, .v 31] [.v 3, .w 2] user :=
  ⟨⟨user_computes, by decide +kernel⟩, by decide, by decide, by decide, user_ready _ _, user_ready _ _⟩

/-- A state whose w2 holds a witness of this kind, and s5 a control word that asks for it. -/
def adjoint (kind cnt wide : Nat) : State :=
  userWith fun x => { x with
    w := x.w.set 2 ⟨Vector.replicate 64 0, BitVec.ofNat 32 (2 ^ 24 * kind + 2 ^ 18 * cnt + 2 ^ 17 * wide + 2 ^ 16)⟩
    s := x.s.set 5 (BitVec.ofNat 64 (2 ^ 12 * cnt + 2 ^ 8 * kind)) }

/-- The conditions of a VADJ that completes, gf being gf. -/
def adjointMeets (kind cnt wide : Nat) (gf : Fin 8) : Bool :=
  let s := adjoint kind cnt wide
  let y := rdW s 2
  let c := (rdS s 5).toNat
  decide (gf.val < 3) && !exposed s (.w 2) && !s.ctx.wSpoilt.contains 2 && y.tag.getLsbD 16 &&
    y.tag.toNat / 2 ^ 24 % 16 == c / 2 ^ 8 % 16 && y.tag.toNat / 2 ^ 18 % 64 == c / 2 ^ 12 % 64 && (y.tag.getLsbD 17 == (gf != 0)) &&
    (decide (kind < 6) || gf == 0) && [RegName.v 1, .s 5, .w 2, .v 3].all fun r => !interlocked s r && !exposed s r && !s.ctx.badRegs.contains r

/-- Kinds 1, 3, 4, 5, 6 and 7, narrow and wide; a tag without V; a control word of another kind; a spoilt witness,
outside debug mode and in it. -/
theorem meets_AdjointAndTags :
    (adjointMeets 1 16 0 0 && adjointMeets 3 5 1 2 && adjointMeets 4 0 0 0 && adjointMeets 5 16 1 1 && adjointMeets 6 6 0 0 &&
      adjointMeets 7 1 0 0) = true ∧ (rdW user 2).tag.getLsbD 16 = false ∧
      ((rdW (adjoint 1 16 0) 2).tag.toNat / 2 ^ 24 % 16 ≠ (rdS user 5).toNat / 2 ^ 8 % 16) ∧
      (let s := userWith fun x => { x with wSpoilt := [2] }
       let t := modDev s fun d => { d with debug := 1 }
       (2 : WR) ∈ s.ctx.wSpoilt ∧ (2 : WR) ∈ t.ctx.wSpoilt ∧ hazardMode s = false ∧ hazardMode t = true ∧
         Ready [.v 1, .s 5, .w 2] [.v 3] s ∧ Ready [.v 1, .s 5, .w 2] [.v 3] t) := by decide +kernel

/-- An operation of the engine queue into tile t. -/
def matOp (id t : Nat) (kind : MatKind) (start : Option Nat) (groups : Nat) : MatOp where
  id := id
  ctx := .user 0 0
  bundle := 0
  kind := kind
  tile := t
  tok := some 3
  deps := []
  start := start
  groups := groups
  result := Vector.replicate 64 zeroVec
  flags := 0
  events := []
  arb := false
  error := none
  clock := []
  spoil := false
  issued := 0

/-- A store of the commit buffer. -/
def tileStore (id t : Nat) (start : Option Nat) (groups : Nat) : TileStore where
  id := id
  ctx := .user 0 0
  bundle := 0
  tile := t
  core := 0
  off := 0
  size := 16384
  dty := 8
  rnd := 0
  isInt := false
  seed := 0
  s31 := 0
  hist := none
  tok := none
  deps := []
  start := start
  groups := groups
  image := []
  bad := []
  bins := []
  events := []
  arbs := 0
  doneAt := 0
  error := none
  clock := []

/-- Core 0 with this queue, this commit buffer and a started context. -/
def engines (q : List MatOp) (ts : List TileStore) : State := modCore user 0 fun c => { c with queue := q, stores := ts }

/-- Tile 15 is the last of the window; a busy tile; a read below and above the water mark. -/
theorem meets_TileInstructions :
    InWindow user 15 ∧ ¬ InWindow (userWith fun x => { x with tcount := 15 }) 15 ∧
      tileBusy (engines [matOp 1 0 (.tld 0) none 0] []) 0 0 = true ∧
      ((rdS user 0).toNat % 64 < (tileOf user 0 15).water ∧ (tileOf user 0 15).bad = false ∧ user.ctx.windows = [] ∧
        tileBusy user 0 15 = false) ∧
      (tileOf (modCore user 0 fun c => { c with tiles := c.tiles.set 1 { Tile.zero with water := 0 } }) 0 1).water ≤ (rdS user 0).toNat % 64 ∧
      ((7 : Fin 16).val < 8 ∧ (8 : Fin 16).val = 8 ∧ 9 ≤ (9 : Fin 16).val) := by decide +kernel

/-- a4 and a5 in different bank groups, a6 for the scales. -/
def images (fmt : BitVec 32) : State := userWith fun x => { x with
  a := ((x.a.set 4 ⟨0, Vector.replicate 6 0⟩).set 5 ⟨0x200000, Vector.replicate 6 0⟩).set 6 ⟨0x400000, Vector.replicate 6 0⟩, fmtOld := fmt }

/-- The conditions on an MMA of t1 by (a4), (a5), (a6). -/
def mmaMeets (fmt : BitVec 32) : Bool :=
  let s := images fmt
  let own (a : AR) (n : Nat) : Bool :=
    match localPlace 0 (ea s a 0).toNat with | some (c, q) => c == 0 && decide (q + n ≤ 0x800000) && (ea s a 0).toNat % 64 == 0 | none => false
  let off (a : AR) : Nat := (localPlace 0 (ea s a 0).toNat).elim 0 (·.2)
  fmtUsable s (fmtNow s.ctx) && own 4 (sizeA fmt) && own 5 4096 && own 6 (sizeScale fmt) && off 4 / 2 ^ 21 % 4 != off 5 / 2 ^ 21 % 4 &&
    (off 4 + sizeA fmt - 1) / 2 ^ 21 % 4 == off 4 / 2 ^ 21 % 4 && (off 5 + 4095) / 2 ^ 21 % 4 == off 5 / 2 ^ 21 % 4

/-- INT8 without scaling, E4M3 with it; a format that the engines do not take; a full queue; an empty commit buffer. -/
theorem meets_MatrixIssue :
    (mmaMeets 0x200 = true ∧ sizeScale 0x200 = 0 ∧ mmaMeets 0x1099 = true ∧ sizeScale 0x1099 ≠ 0) ∧
      (fmtUsable user 0x2FF = false ∧ queueFull user 0 = false ∧
        queueFull (engines [matOp 1 0 (.tld 0) none 0, matOp 2 1 (.tld 0) none 0] []) 0 = true) ∧
      ((consumed ⟨true, 3, 1, 0, 0, 1⟩).Nodup ∧ (3 : KR) ∉ consumed ⟨true, 3, 1, 0, 0, 1⟩ ∧ pendingTok user 3 = false ∧
        acquirePending user = false) ∧
      ((tyOf 8).isSome = true ∧ (8 : Fin 16).val < 13 ∧ rmodeOf 0 = some .rne ∧ accepted user 5 = true ∧
        (coreOf user 0).stores.length < 4 ∧ localPlace 0 (ea user 4 0).toNat = some (0, 0)) := by decide +kernel

/-- Sums at both ends of INT32 and one past each. -/
theorem meets_IntegerProducts :
    (0x200 : BitVec 32).toNat / 2 ^ 8 % 16 = 2 ∧ (0x200 : BitVec 32).toNat / 2 ^ 12 % 4 = 0 ∧
      (0x7FFFFFFF : BitVec 32).toInt + (([0].zip [(1 : Int)]).map fun e => e.1 * e.2).sum < 2 ^ 31 ∧
      2 ^ 31 ≤ (0x7FFFFFFF : BitVec 32).toInt + (([1].zip [(1 : Int)]).map fun e => e.1 * e.2).sum ∧
      -2 ^ 31 ≤ (0x80000000 : BitVec 32).toInt + (([0].zip [(1 : Int)]).map fun e => e.1 * e.2).sum ∧
      (0x80000000 : BitVec 32).toInt + (([-1].zip [(1 : Int)]).map fun e => e.1 * e.2).sum < -2 ^ 31 := by decide

/-- An operation about to start, one whose last row group is checked, one that has ended; a store at each of its stages. -/
theorem meets_EngineAndLanternSteps :
    (let o := matOp 1 0 (.tld 0) none 0
     let s := engines [o] []
     startable s 0 = some o ∧ poisonedImage s 0 o.kind = false ∧ badOperand s 0 o = false) ∧
      (let o := matOp 1 0 (.tld 0) (some 0) 7
       checking (engines [o] []) 0 = some o) ∧
      (let o := matOp 1 0 (.tld 0) (some 0) 8
       finished (engines [o] []) 0 = some o) ∧
      (let t := tileStore 1 0 none 0
       (coreOf (engines [] [t]) 0).stores.find? (fun t => t.start.isNone && t.deps.isEmpty) = some t) ∧
      (let t := tileStore 1 0 (some 0) 7
       (coreOf (engines [] [t]) 0).stores.find? (fun t => t.start.isSome && decide (t.groups < 8)) = some t) ∧
      (let t := tileStore 1 0 (some 0) 8
       (coreOf (engines [] [t]) 0).stores = t :: [] ∧ t.groups = 8 ∧ t.arbs = 0 ∧ (engines [] [t]).spm.wf = true ∧
         storeAwaited (engines [] [t]) 0 t.id (spmKey (t.core, t.off)) t.size = false) := by decide +kernel

theorem meets_EngineAndLanternSteps_lantern :
    (let o := matOp 1 0 (.tld 0) (some 0) 3
     let b := arbOfOp 0 o
     let s := modCluster (engines [o] []) 0 fun u => { u with arbs := [b] }
     (clusterOf s s.input.clu.val).arbs = b :: [] ∧ b.store = false ∧
       (coreOf s b.core).queue.find? (fun o => o.id = b.id) = some o ∧ o.ctx.coreNo = b.core) := by decide +kernel

/-- A CPY of n bytes in the queue of cluster 0, from one scratchpad offset to another. -/
def copyOp (id dst src n : Nat) (kind : CopyKind) (moved : Bool) : CopyOp where
  id := id
  ctx := .user 0 0
  task := 0
  asid := 0
  ptbase := BitVec.ofNat 64 userTables
  bundle := 0
  kind := kind
  dsp := 0
  ssp := 0
  dst := dst
  src := src
  n := n
  evrec := true
  cb := none
  tok := some 2
  deps := []
  started := kind == .cpyx
  attempts := 0
  moved := moved
  waitsVa := none
  error := none
  clock := []
  progress := 0
  spoilt := []
  run := 0
  index := none
  held := none
  undo := []
  unsent := []
  quiet := false

/-- The cluster with these operations, the next device step being about number 1. -/
def copying (cs gs : List CopyOp) : State :=
  { modCluster user 0 fun u => { u with copies := cs, gathers := gs } with input := { num := 1 } }

/-- A copy of s6 bytes to (a4) from (a5), with the index list of a gather at (a6). -/
def moves (d n : Word) : State := userWith fun x => { x with
  a := ((x.a.set 4 ⟨d, Vector.replicate 6 0⟩).set 5 ⟨0x1000, Vector.replicate 6 0⟩).set 6 ⟨0x2000, Vector.replicate 6 0⟩, s := x.s.set 6 n }

/-- Both space codes usable; a code that is not; operands that are misaligned, too long, and right; an empty queue and full
ones; both ends of rl. -/
theorem meets_CopyIssue :
    (spaceUsable user 0 = true ∧ spaceUsable user 2 = true ∧ spaceUsable user 7 = false) ∧
      ((ea (moves 2 4) 4 0).toNat % 4 ≠ 0 ∧ 2 ^ 30 < (rdS (moves 0 0x40000004) 6).toNat ∧ (rdS (moves 0 0x40000004) 6).toNat % 4 = 0) ∧
      (let s := moves 0 0x100
       (ea s 4 0).toNat % 4 = 0 ∧ (ea s 5 0).toNat % 4 = 0 ∧ (rdS s 6).toNat ≤ 2 ^ 18 ∧ spaceFault s 0 (ea s 4 0) 0x100 = none ∧
         spaceFault s 2 (ea s 5 0) 0x100 = none ∧ pendingTok s 2 = false ∧ acquirePending s = false ∧ (ea s 7 0).toNat < 2 ^ 56 ∧ (ea s 7 0).toNat % 8 = 0 ∧
         (clusterOf s 0).copies.length < 32 ∧ (clusterOf s 0).gathers.length < 16) ∧
      (32 ≤ (clusterOf (copying (List.replicate 32 (copyOp 1 0 0 4 .cpy false)) []) 0).copies.length ∧
        16 ≤ (clusterOf (copying [] (List.replicate 16 (copyOp 1 0 0 4 .cpy false))) 0).gathers.length) ∧
      (let s := moves 0 4
       (rdS s 6).toNat ≤ 65536 ∧ (ea s 5 0).toNat < 2 ^ 56 ∧ spaceFault s 0 (ea s 4 0) (4 * 2 ^ 14) = none ∧
         spaceFault s 0 (ea s 6 0) 16 = none ∧ (ea s 6 0).toNat % 4 = 0) ∧
      ((1 : Fin 32).val < 2 ∧ 14 < (15 : Fin 32).val ∧ 2 ≤ (2 : Fin 32).val ∧ (14 : Fin 32).val ≤ 14) := by decide +kernel

theorem meets_CopyWorkAndEnds :
    (let o := copyOp 1 0 0x1000 0x1000 .cpy false
     let s := copying [o] []
     findCopy s s.input.clu.val s.input.num = some o ∧ o.kind = .cpy ∧ o.deps = [] ∧ o.waitsVa = none ∧ o.moved = false ∧ o.error = none ∧
       o.progress = 0 ∧ o.spoilt = [] ∧ o.dsp = 0 ∧ o.ssp = 0 ∧ o.dst % 4 = 0 ∧ o.src % 4 = 0 ∧ o.n % 4 = 0 ∧ 0x1000 + o.n ≤ 0x800000 ∧
       localPlace o.ctx.coreNo o.dst = some (0, 0) ∧ localPlace o.ctx.coreNo o.src = some (0, 0x1000) ∧
       spmKey (0, 0) + o.n ≤ spmKey (0, 0x1000) ∧ (coreOf s o.ctx.coreNo).waits = [] ∧ s.spm.wf = true) := by decide +kernel

/-- An attempt of CPYX, the fifth too; an operation that is over; a record with and without room is a value of Config. -/
theorem meets_CopyWorkAndEnds_ends :
    (let o := copyOp 1 0 0x1000 8 .cpyx false
     let s := copying [o] []
     findCopy s 0 1 = some o ∧ o.kind = .cpyx ∧ o.started = true ∧ o.moved = false ∧ o.waitsVa = none ∧ o.held = none ∧ o.attempts < 4 ∧
       s.input.bytes = none ∧ s.input.good = true ∧
       (match readAll o (pieces o) 0 s with
        | .ok u bs => bs.length == 8 && u.dev.errlog == 0 && u.dev.thresh[12] == 0 && tileAgrees u o (bs.map (·.1)) && (match writeAll o bs (pieces o) 0 u with | (_, .ok _ _) => true | _ => false)
        | _ => false) = true) ∧
      (let o := { copyOp 1 0 0x1000 8 .cpyx false with attempts := 4 }
       findCopy (copying [o] []) 0 1 = some o ∧ 4 ≤ o.attempts) ∧
      (let o := copyOp 1 0 0x1000 8 .cpy true
       findCopy (copying [o] []) 0 1 = some o ∧ o.moved = true ∧ o.waitsVa = none ∧ o.error = none ∧ o.spoilt = [] ∧ o.unsent = [] ∧ o.cb = none) := by
  decide +kernel

def record : Record := ⟨0, 0, 0, 0, 5, 0, 0⟩

/-- Whatever the queue's depth, a queue with room or one without meets its clause. -/
theorem meets_CopyWorkAndEnds_records :
    (∃ s : State, (clusterOf s 0).posting = [record] ∧ (Config.eventQueueDepth = 0 ∨ (clusterOf s 0).events.length < Config.eventQueueDepth)) ∧
      ∃ s : State, (clusterOf s 0).posting = [record] ∧ (clusterOf s 0).events ≠ [] ∧ Config.eventQueueDepth ≤ (clusterOf s 0).events.length := by
  refine ⟨⟨modCluster user 0 fun u => { u with posting := [record], events := [] }, ?_, ?_⟩,
    ⟨modCluster user 0 fun u => { u with posting := [record], events := List.replicate (Config.eventQueueDepth + 1) record }, ?_, ?_, ?_⟩⟩
  · decide +kernel
  · have : (clusterOf (modCluster user 0 fun u => { u with posting := [record], events := [] }) 0).events = [] := by decide +kernel
    rw [this]
    simp only [List.length_nil]
    omega
  all_goals simp [clusterOf, modCluster, setCluster, tbl_get_set_self, List.replicate_succ]

/-- A context with a channel bound as c3. -/
def channelled (b : ChanBind) (ch : Chan) : State :=
  { userWith (fun x => { x with chans := [b], sc := 9 }) with chans := [(5, ch)], input := { ctx := .user 0 0, ch := 3 } }

def outBind (shape : Nat) : ChanBind := ⟨3, true, shape, 4, false, 0, 5, []⟩
def inBind (shape : Nat) : ChanBind := ⟨3, false, shape, 4, false, 0, 5, []⟩
def channel (q : List (ChElem × List (Nat × Nat))) (cl : List Claim) (closed : Bool) : Chan :=
  ⟨some (.user 0 0), some (.user 0 1), 0, 0, true, q, cl, closed, 0⟩
def claim (i : Nat) : Claim := ⟨.user 0 0, 3, i, .v 1, .move, false, zeroVec, 0, 0⟩

/-- An open outbound channel with room, a full one, a closed one, one of another shape, and a number without one. -/
theorem meets_ChannelSendsAndState :
    bindOf user.ctx 3 = none ∧
      (let b := outBind 0
       let s := channelled b (channel [] [] false)
       bindOf s.ctx 3 = some b ∧ chanOf s b.chan = some (channel [] [] false) ∧ (channel [] [] false).unclaimed ≠ b.depth ∧
         chanRoute s (channel [] [] false) = true ∧
         (let far : Chan := { channel [] [] false with dst := some (.user 48 0) }
          chanRoute (modDev s fun d => { d with edges := Vector.replicate 10 ⟨true, 0, none⟩ }) far = false) ∧
         releaseReady s s.who (endScope s.who (channel [] [] false).dst) = true) ∧
      (channel (List.replicate 4 (.scalar 0, [])) [] false).unclaimed = (outBind 2).depth ∧
      (let b := outBind 2
       let s := channelled b (channel [] [] true)
       bindOf s.ctx 3 = some b ∧ b.shape ∉ [0, 1] ∧ (channel [] [] true).closed = true) ∧
      (let b := inBind 0
       let s := channelled b (channel [(.scalar 7, [])] [] false)
       bindOf s.ctx 3 = some b ∧ chanOf s b.chan = some (channel [(.scalar 7, [])] [] false) ∧ ∀ t ∈ b.sent, t + 2 ≤ s.ctx.sc) := by
  decide +kernel

/-- An element to take, a claim to make, and a closed channel with nothing left. -/
theorem meets_ChannelReceivesAndSteps :
    (let b := inBind 2
     let ch := channel [(.scalar 7, [])] [] false
     let s := channelled b ch
     s.who.isSys = false ∧ bindOf s.ctx 3 = some b ∧ chanOf s b.chan = some ch ∧ b.out = false ∧ b.shape ∈ [2] ∧ ch.claims = [] ∧
       ch.q = [(.scalar 7, [])]) ∧
      ((channel [] [] false).q = [] ∧ (channel [] [] false).closed = false) ∧
      ((channel [] [] true).closed = true ∧ (channel [] [] true).unclaimed = 0) := by decide +kernel

/-- A register that ignores writes. -/
theorem meets_ChannelReceivesAndSteps_wired : (RegName.s 0).wired = true ∧ (RegName.v 3).wired = false ∧ Ready [] [.s 0] user := by decide +kernel

/-- A claim and its element; a claim and a send that wait. -/
theorem meets_ChannelReceivesAndSteps_steps :
    (let b := inBind 0
     let ch := channel [(.vec zeroVec, [])] [claim 1] false
     let s := { channelled b ch with input := { ctx := .user 0 0, ch := 3, good := true } }
     bindOf (getCtx s s.input.ctx) s.input.ch = some b ∧ chanOf s b.chan = some ch ∧ s.input.elem = none ∧ s.input.good = true) ∧
      (let b := inBind 0
       let s := modDev (channelled b (channel [] [claim 1] false)) fun d => { d with watchdog := 10000 }
       oldestWait s s.input.ctx 0x11 = some (b, some (claim 1)) ∧ (getCtx s (claim 1).ctx).run ≠ .retired) ∧
      (let b := { inBind 0 with col := true, tmo := 1 }
       let s := channelled b (channel [] [claim 1] false)
       oldestWait s s.input.ctx 0x12 = some (b, some (claim 1))) ∧
      (let b := outBind 0
       let s := channelled b (channel (List.replicate 4 (.vec zeroVec, [])) [] false)
       let s := { s with ctx := { s.ctx with run := .stalled, sendWait := some (3, 0) } }
       s.input.ctx.isSys = false ∧ oldestWait s s.input.ctx 0x11 = some (b, none)) := by decide +kernel

/-- One test of a tree that holds, behind one that does not; the registers of each transfer. -/
theorem meets_TransfersAndLoops :
    (let t0 : BTest := ⟨true, false, 3, 0⟩
     let t1 : BTest := ⟨true, true, 3, 1⟩
     rdP { user with frame := { user.frame with slot := 7 } } t0.p = t0.n ∧ rdP { user with frame := { user.frame with slot := 7 } } t1.p ≠ t1.n) ∧
      (user.ctx.loops.length < 6 ∧ atLoopEnd user = false ∧ rdS user 1 = 0 ∧ rdS (userWith fun x => { x with s := x.s.set 1 3 }) 1 ≠ 0 ∧
        Ready [.s 1] [] (userWith fun x => { x with s := x.s.set 1 3 })) ∧
      6 ≤ (userWith fun x => { x with loops := List.replicate 6 ⟨0, 1, 0, 8⟩ }).ctx.loops.length ∧
      atLoopEnd { userWith fun x => { x with loops := [⟨0, 1, 0, 8⟩] } with frame := { Frame.none with base := 8 } } = true ∧
      (let s := userWith fun x => { x with loops := List.replicate 6 ⟨0, 1, 0, 8⟩ }
       (5 : Fin 8).val < 6 ∧ 6 ≤ (6 : Fin 8).val ∧ s.ctx.loops[5]? = some ⟨0, 1, 0, 8⟩ ∧ user.ctx.loops[0]? = none ∧ rdP s 3 ≠ true ∧
         rdP s 3 = false ∧ Ready [.p 3] [] s) ∧
      (let l : LoopLevel := ⟨1, 3, 0, 8⟩
       let s := userWith fun x => { x with loops := [⟨0, 2, 0, 16⟩] ++ [l] }
       s.ctx.loops = [⟨0, 2, 0, 16⟩] ++ [l] ∧ s.frame.transfer = false ∧ l.index.toNat < (l.count - 1).toNat ∧
         ¬ (2 : Word).toNat < (l.count - 1).toNat ∧ (16 : Word) ≠ l.last) := by decide +kernel

/-- INT8 by no scaling; MX scaling with its feature; a format code past the last; the seed stack at both ends. -/
theorem meets_ControlState :
    (let legal (v : Nat) : Bool := decide (v < 2 ^ 14) && decide (v / 2 ^ 12 % 4 < 2) && decide (v / 2 ^ 8 % 16 < 5) && accepted user 3
     user.who.isSys = false ∧ legal 0x200 = true ∧ legal 0x1099 = true ∧ legal 0x500 = false ∧ legal 0x2200 = false) ∧
      (consumed ⟨false, 0, 3, 7, 0, 2⟩).Nodup ∧ ¬ (consumed ⟨false, 0, 3, 3, 0, 2⟩).Nodup ∧
      (∀ k ∈ consumed ⟨false, 0, 3, 7, 0, 2⟩, pendingTok user k = false) ∧
      (let o := matOp 4 0 (.tld 0) none 0
       let s := engines [o] []
       pendingTok { s with ctx := { s.ctx with k := s.ctx.k.set 3 (some 4) } } 3 = true) ∧
      user.ctx.depth ≤ 1 ∧ (userWith fun x => { x with depth := 8 }).ctx.depth = 8 ∧ (userWith fun x => { x with depth := 2 }).ctx.depth < 8 := by
  decide +kernel

/-- A context of task 5 whose barrier 9 has this count; out is its outstanding phase. -/
def barred (count phase : Nat) (out : List (Nat × Nat)) : State :=
  let b : Barrier := ⟨9, 1, count, phase, 0, 0, 0, [], []⟩
  { userWith (fun x => { x with task := 5, bara := out }) with tasks := [{ plainTask 5 .dispatched with barriers := [b] }] }

/-- The last arrival, one of two, an arrival that waits for a store, and an outstanding phase that is done or not. -/
theorem meets_BarriersAndWaits :
    barrierOf user user.ctx.task 9 = none ∧
      (let b : Barrier := ⟨9, 1, 1, 0, 0, 0, 0, [], []⟩
       let s := barred 1 0 []
       barrierOf s s.ctx.task 9 = some b ∧ b.count ≤ b.arrived + 1 + b.gone ∧ outstanding s 9 = none ∧ arrivalReady s b = true ∧
         (let t := modCore s 0 fun c => { c with waits := [waitingStore (.user 0 0)] }
          barrierOf t t.ctx.task 9 = some b ∧ outstanding t 9 = none ∧ arrivalReady t b = false)) ∧
      (let b : Barrier := ⟨9, 1, 2, 0, 0, 0, 0, [], []⟩
       let s := barred 2 0 []
       barrierOf s s.ctx.task 9 = some b ∧ ¬ b.count ≤ b.arrived + 1 + b.gone ∧ outstanding s 9 = none ∧ arrivalReady s b = true) ∧
      (outstanding (barred 2 1 [(9, 0)]) 9 = some 0 ∧ phaseDone (barred 2 1 [(9, 0)]) 9 0 = true ∧
        outstanding (barred 2 1 [(9, 1)]) 9 = some 1 ∧ phaseDone (barred 2 1 [(9, 1)]) 9 1 = false) := by decide +kernel

/-- The key that a word of the page has, when a read of it is translated. -/
def pageWord (s : State) (va : Nat) : Option Nat :=
  match translate (accOf s s.who) .read va s with
  | (u, .ok key _) => if (match placeOf u key with | .raw _ _ => true | _ => false) && !(u.poison.contains (key / 64)) then some key else none
  | _ => none

/-- CBWAIT finds this word at an address. -/
def readsWord (s : State) (va w : Nat) : Bool :=
  match translate (accOf s s.who) .read va s with
  | (u, .ok key _) => (match homeLook (accOf s s.who) va key 4 u with | .ok n => n == w | _ => false) &&
      homeOpen u s.who.stack (placeOf u key) && u.dies.toList.all fun st => st.bounce.isEmpty
  | _ => false

/-- CBWAIT of a word of zeros, with the count 0, which is met, and 1, which is not. -/
theorem meets_BarriersAndWaits_word :
    Ready [.a 1, .s 2] [.s 3] paged ∧ (ea paged 1 0).toNat < 2 ^ 56 ∧ (ea paged 1 0).toNat % 8 = 0 ∧ acquirePending paged = false ∧
      atomicsPending paged = false ∧ pageWord paged (ea paged 1 0).toNat = some (rawBase 0) ∧ readsWord paged (ea paged 1 0).toNat 0 = true ∧
      ((0 : Word).toNat % 2 ^ 31 ≤ natOf [0, 0, 0, 0] % 2 ^ 31 ∧ ¬ (1 : Word).toNat % 2 ^ 31 ≤ natOf [0, 0, 0, 0] % 2 ^ 31) := by decide +kernel

theorem meets_TrapsExitsAndBareBundles : user.who.isSys = false ∧ atLoopEnd user = false ∧ fillAwaited user user.who = false := by decide +kernel

/-- Control core 0 with the same page table; s5 is 5, s6 names context 0 of core 0 on its cluster. -/
def ctlPaged : State := { sysPaged with who := .ctl 0, ctx := { sysPaged.ctx with s := (sysPaged.ctx.s.set 5 5).set 6 0x100 } }

def supervises (s : State) : Bool := s.who.isSys && getBit s.ctx.status stMODE

/-- The two modes; a reserved number; each end of the device's registers; a context that the core owns, and none. -/
theorem meets_SystemRegisters :
    supervises sysCore = true ∧ supervises user = false ∧ sysListed 0 = true ∧ Ready [.s 2] [.s 1] sysCore ∧ Ready [.s 1, .s 2] [] sysCore ∧
      sysCore.dev.computeStarted = false ∧ sysPaged.dev.computeStarted = true ∧ (5 : Fin 16).val ≠ 6 ∧
      (getBit ctlPaged.ctx.status stMODE = true ∧ (rdS ctlPaged 6).toNat / 256 % 2 = 1 ∧ (rdS ctlPaged 5).toNat / 256 % 2 = 0 ∧
        Ready [.s 6] [.s 1] ctlPaged ∧ Ready [.s 1, .s 6] [] ctlPaged) := by decide +kernel

/-- The control core's cluster with this event queue. -/
def queued (rs : List Record) : State := modCluster ctlPaged 0 fun u => { u with events := rs }

/-- A core whose interrupts are enabled. -/
def enabled (s : State) : State :=
  { s with ctx := { s.ctx with status := 5, vbase := 0x40 }, input := { ctx := s.who } }

/-- A system core with a host message pending, and with nothing. -/
theorem meets_EventQueueAndTranslationInvalidation :
    (getBit ctlPaged.ctx.status stMODE = true ∧ (3 : SR).val % 2 = 1 ∧ (2 : SR).val % 2 = 0 ∧ Ready [] [.s 2, .s 3, .p 1] (queued [record]) ∧
      (clusterOf (queued []) 0).events = [] ∧ (clusterOf (queued [record]) 0).events = record :: []) ∧
      ((∀ i : Fin 5, i ≠ 0 → sysCore.dev.irq[i.val] = false) ∧ (1 : Fin 5) ≠ 0 ∧
        (let s := enabled (modDev sysCore fun d => { d with irq := d.irq.set 1 true })
         s.input.ctx = .sys 0 0 ∧ isActive (getCtx s (.sys 0 0)).run = true ∧ getBit (getCtx s (.sys 0 0)).status stIE = true ∧
           getBit (getCtx s (.sys 0 0)).status stTF = false ∧ s.dev.irq[1] = true ∧ ∀ i : Fin 5, 1 < i → s.dev.irq[i.val] = false)) ∧
      (let s := enabled (queued [record])
       s.input.ctx = .ctl 0 ∧ isActive (getCtx s (.ctl 0)).run = true ∧ getBit (getCtx s (.ctl 0)).status stIE = true) := by decide +kernel

/-- Nothing in flight, and a store on its way to device 3. -/
theorem meets_EventQueueAndTranslationInvalidation_tlb :
    (let s := { sysPaged with ctx := { sysPaged.ctx with s := sysPaged.ctx.s.set 2 0x1000 } }
     s.who = .sys 0 0 ∧ getBit s.ctx.status stMODE = true ∧ (s.cores.all fun e => (coreOf s e.1).held.isNone && e.2.waits.isEmpty && (coreOf s e.1).sidelog.isEmpty) = true ∧ s.dev.outreqs = [] ∧ s.dev.owed = [] ∧
       s.clusters = [] ∧ (∀ m : Fin 8, (stackOf s m).bounce = []) ∧ Ready [.a 1, .s 2, .s 3] [] s ∧ 0 < (rdS s 2).toNat) ∧
      (let s := modCluster (modDev sysPaged fun d => { d with outreqs := [⟨3, 1, .user 0 0, 0, 0, 0x40000000, [7], false, 0⟩] }) 0
         fun u => { u with tlb := [⟨0, false, 2, 0x40000000, 0⟩] }
       unperformed s (fun _ => true) = true ∧ s.frame.cleared = false) := by decide +kernel

/-- A record (R373) that runs an image (R365) in one context of cluster 0, at 0x20000000000; the image, one native section
of a gap bundle, 1024 bytes later; and the three page tables of userStarted. -/
def launchCells : Memory := [
  (0x20000000000, 1), (0x20000000010, 1), (0x20000000021, 4), (0x20000000023, 64), (0x20000000200, 128), (0x20000000201, 4),
  (0x20000000203, 64), (0x20000000400, 69), (0x20000000401, 78), (0x20000000402, 71), (0x20000000403, 76), (0x20000000404, 1),
  (0x20000000408, 1), (0x20000000410, 192), (0x20000000418, 98), (0x20000000419, 34), (0x2000000041B, 1), (0x2000000041C, 66),
  (0x2000000041D, 36), (0x2000000041E, 114), (0x2000000041F, 58), (0x20000000440, 4), (0x20000000442, 1), (0x20000000448, 128),
  (0x20000000450, 64), (0x20000000482, 8), (0x20000000483, 128), (0x2000000C000, 1), (0x2000000C001, 208), (0x2000000C005, 2), (0x2000000D000, 1), (0x2000000D001, 224),
  (0x2000000D005, 2), (0x2000000E008, 243), (0x2000000E009, 1), (0x2000000E00D, 2)]

/-- A system core with the record at 0x40000000. -/
def launching : State := { sysPaged with mem := launchCells }

def perfBytes : Perf (List (Byte × Bool)) → Option (List (Byte × Bool))
  | .ok _ bs => some bs
  | _ => none

def perfState (s : State) : Perf (List (Byte × Bool)) → State
  | .ok u _ => u
  | _ => s

/-- What a read without poison answers. -/
theorem readGlobal_of {a : Acc} {home exempt : Bool} {va n : Nat} {s : State} (bs : List Byte)
    (h : perfBytes (readMarked a home exempt va n s) = some (bs.map fun b => (b, false))) :
    readGlobal a home exempt va n s = .ok (perfState s (readMarked a home exempt va n s)) bs := by
  have clean : (List.range n).find? (fun i => ((bs.map fun b => (b, false)).getD i (0, false)).2) = none :=
    List.find?_eq_none.2 fun i _ => by simp only [List.getD, List.getElem?_map]; cases bs[i]? <;> simp
  unfold readGlobal
  cases e : readMarked a home exempt va n s <;> rw [e] at h <;> simp only [perfBytes, Option.some.injEq, reduceCtorEq] at h
  subst h
  dsimp only
  rw [clean]
  simp [perfState, Function.comp_def]

/-- The bytes of the record and of the image. -/
def recordBytes : List Byte := launchCells.readBytes (rawBase 0) 1024
def imageBytes : List Byte := launchCells.readBytes (rawBase 0 + 1024) 192

/-- The states after the reads of TLAUNCH. -/
def readRecord (s : State) : State := perfState s (readMarked (accOf s s.who) false true 0x40000000 1024 s)
def readHead (s : State) : State := perfState s (readMarked (accOf s s.who) false true 0x40000400 64 s)
def readImage (s : State) : State := perfState s (readMarked (accOf s s.who) false true 0x40000400 192 s)

def readsAs (s : State) (va n : Nat) (bs : List Byte) : Bool :=
  perfBytes (readMarked (accOf s s.who) false true va n s) == some (bs.map fun b => (b, false))

theorem readsAs_iff {s : State} {va n : Nat} {bs : List Byte} (h : readsAs s va n bs = true) :
    readGlobal (accOf s s.who) false true va n s = .ok (perfState s (readMarked (accOf s s.who) false true va n s)) bs :=
  readGlobal_of bs (eq_of_beq h)

/-- TLAUNCH's record and image at these addresses. -/
theorem launching_record : readsAs launching 0x40000000 1024 recordBytes = true := by decide +kernel
theorem launching_head : readsAs (readRecord launching) 0x40000400 64 (imageBytes.take 64) = true := by decide +kernel
theorem launching_image : readsAs (readHead (readRecord launching)) 0x40000400 192 imageBytes = true := by decide +kernel

/-- The image as TLAUNCH loads it, and the state with it. -/
def launchLoad : Option (State × Option Image) := (loadImage 0x40000400 (readRecord launching)).toOption
def launchedImage : Image := ((launchLoad.getD (launching, none)).2).getD ⟨0, 0, 0, 0, [], [], [], [], [], [], [], [], [], [], false⟩
def loaded : State := (launchLoad.getD (launching, none)).1

/-- loadImage after the record's read. -/
theorem launching_image_loads : (launchLoad.bind (·.2)).isSome = true := by decide +kernel

theorem ok_of_isSome (r : Except State (State × Option Image)) (s : State) (d : Image) (h : (r.toOption.bind (·.2)).isSome = true) :
    r = .ok ((r.toOption.getD (s, none)).1, some (((r.toOption.getD (s, none)).2).getD d)) := by
  cases r with
  | error e => simp [Except.toOption] at h
  | ok p =>
    obtain ⟨t, m⟩ := p
    obtain ⟨i, hi⟩ := Option.isSome_iff_exists.1 h
    have hi : m = some i := hi
    subst hi
    rfl

theorem launching_loads : loadImage 0x40000400 (readRecord launching) = .ok (loaded, some launchedImage) :=
  ok_of_isSome _ _ _ launching_image_loads

/-- A record that is queued; an empty and a full queue; no record; an address past the end of memory. -/
theorem meets_LaunchAndCommit :
    (Ready [.a 1] [.s 3] launching ∧ (ea launching 1 0).toNat = 0x40000000) ∧
      (∃ u v img, readGlobal (accOf launching launching.who) false true 0x40000000 1024 launching = .ok u recordBytes ∧
        loadImage (recordOf recordBytes).image u = .ok (v, img) ∧ recordRefused v img 0x40000000 recordBytes (recordOf recordBytes) = false ∧
        (queuedOn u (lowestBit (recordOf recordBytes).mask / 12)).length < 256 ∧ earliestTask u = none) ∧
      256 ≤ (queuedOn { launching with tasks := List.replicate 256 { plainTask 1 .queued with record := { plainRecord with mask := 1 } } } 0).length ∧
      (readsAs sysPaged 0x40000000 1024 (List.replicate 1024 0) = true ∧ imgNat (List.replicate 1024 0) 0 2 ≠ 1) ∧
      2 ^ 56 < (2 ^ 56 - 1 : Word).toNat + 1024 := by
  have at_ : (recordOf recordBytes).image = 0x40000400 := by decide +kernel
  refine ⟨by decide +kernel, ⟨_, loaded, some launchedImage, readsAs_iff launching_record, ?_, by decide +kernel, ?_, ?_⟩, by decide +kernel,
    by decide +kernel, by decide +kernel⟩
  · rw [at_]; exact launching_loads
  · rw [← readRecord]; decide +kernel
  · rw [← readRecord]; decide +kernel

/-- Control core 0 with these tasks. -/
def commanding (ts : List Task) : State := { ctlPaged with tasks := ts }

def isRaw (s : State) (key : Nat) : Bool := match placeOf s key with | .raw _ _ => true | _ => false

theorem meets_LaunchAndCommit_commit :
    (getBit ctlPaged.ctx.status stMODE = true ∧ Ready [.s 5] [] ctlPaged ∧ (rdS ctlPaged 5).toNat % 2 ^ 32 = 5 ∧ taskOf ctlPaged 5 = none) ∧
      (let t := { plainTask 5 .completed with version := [(rawBase 0, 7)] }
       let s := commanding [t]
       taskOf s 5 = some t ∧ t.audit = .none ∧ isOrd t.record = false ∧ s.mem.wf = true ∧ (t.version.map (·.1)).Nodup ∧
         (∀ m : Fin 8, (stackOf s m).bounce = [] ∧ (stackOf s m).sump.waiting = []) ∧ t.lines = [] ∧
         (t.version.all fun b => decide (b.1 < 2 ^ 56) && isRaw s b.1) = true) ∧
      ((plainTask 5 .dispatched).phase ≠ .completed ∧ ({ plainTask 5 .completed with audit := .sampled } : Task).audit ≠ .none ∧ (AuditState.voting 0 0 0) ≠ .passed) := by
  decide +kernel

theorem meets_TaskAbortsAndControlBlocks :
    (ctlPaged.who = .ctl 0 ∧ 2 ≤ (2 : Fin 4).val ∧ taskOf (commanding [plainTask 5 .queued]) 5 = some (plainTask 5 .queued)) ∧
      (let t := { plainTask 5 .dispatched with version := [(rawBase 0, 7)], retries := 2 }
       let s := commanding [t]
       taskOf s 5 = some t ∧ taskCtxs s 5 = [] ∧ (∀ m : Fin 8, (stackOf s m).bounce = [] ∧ (stackOf s m).sump.waiting = []) ∧
         (t.version.all fun b => isRaw s b.1) = true ∧ t.retries < 3) := by decide +kernel

/-- No replay runs of a task that stands alone. -/
theorem meets_TaskAbortsAndControlBlocks_replays (t : Task) (k : Nat) (h : t.id = 5) (hk : 0 < k) : taskOf (commanding [t]) (replayId 5 k) = none := by
  have n : decide (t.id = replayId 5 k) = false := by simp only [replayId, h, decide_eq_false_iff_not]; omega
  simp only [taskOf, commanding, List.find?, n]


/-- A write to a word of the page that its control core may make. -/
def writable (s : State) (va : Nat) : Bool :=
  match translate (accOf s s.who) .write va s with
  | (u, .ok key _) => isRaw u key && homeOpen u s.who.stack (placeOf u key) && !u.poison.contains (key / 64) && u.mem.wf && u.dies.toList.all fun st => st.bounce.isEmpty
  | _ => false

theorem meets_TaskAbortsAndControlBlocks_blocks :
    Ready [.a 1, .s 5] [] ctlPaged ∧ (ea ctlPaged 1 0).toNat % 32 = 0 ∧ (ea ctlPaged 1 0).toNat < 2 ^ 56 ∧ writable ctlPaged (ea ctlPaged 1 0).toNat = true ∧
      (rdS ctlPaged 5).toNat % 32 ≠ 0 ∧ releaseReady ctlPaged ctlPaged.who 6 = true ∧
      (let s := modCore ctlPaged ctlPaged.who.coreNo fun c => { c with waits := [waitingStore (.ctl 0)] }
       releaseReady s s.who 6 = false) := by decide +kernel

/-- A dispatched task whose slot 0 runs one context with this reservation. -/
def startable5 : Task :=
  { plainTask 5 .dispatched with recAt := 0x40000000, lpt := BitVec.ofNat 64 userTables, record := { plainRecord with slots := [⟨0x40000480, 16, 0, 0x1000, 0, 0x1000⟩] } }

/-- The task whose record stands at the address of CTXSTART. -/
def startsAt (s : State) (a : AR) : Option Task :=
  match readGlobal (accOf s s.who) false true (ea s a 0).toNat 4 s with
  | .ok u bs => if bs.length == 4 then (tableKey u u.who.stack u.ctx.ptbase (ea s a 0).toNat).bind (taskAt u) else none
  | _ => none

/-- A target to start; one that is stopped; a control core not yet started, and one that is. -/
theorem meets_ContextStarts :
    (let s := commanding [startable5]
     getBit s.ctx.status stMODE = true ∧ s.who = .ctl 0 ∧ (rdS s 6).toNat = 0x100 ∧ Ready [.s 6, .a 1] [] s ∧ startsAt s 1 = some startable5 ∧ startsAt ctlPaged 1 = none ∧
       startable5.gone = [] ∧ needsService (readGlobal (accOf s s.who) false true (ea s 2 0).toNat 4 s) = true ∧ (startable5.record.slots.getD 0 ⟨0, 0, 0, 0, 0, 0⟩).entry ≠ 0 ∧
       (startable5.record.slots.getD 1 ⟨0, 0, 0, 0, 0, 0⟩).entry = 0 ∧ 0 ∈ bitsOf startable5.dmask ∧ (getCtx s (userCtx 0 0)).run = .free ∧
       (getCtx (setCtx s (.user 0 0) { Ctx.blank with run := .stopped }) (userCtx 0 0)).run = .stopped) ∧
      (let s := { sysPaged with ctx := { sysPaged.ctx with s := (sysPaged.ctx.s.set 6 (0x200 + 95 * 1024)) } }
       s.who = .sys 0 0 ∧ (rdS s 6).toNat / 512 % 2 = 1 ∧ (rdS s 6).toNat / 1024 % 128 = (95 : Fin 96).val ∧ Ready [.s 6, .a 1] [] s ∧
         95 ∉ s.dev.started ∧ 95 ∈ (modDev s fun d => { d with started := [95] }).dev.started) := by decide +kernel

/-- Control core 0 with context 0 of its core 0 in a state. -/
def commands (x : Ctx) : State := setCtx ctlPaged (.user 0 0) x

/-- A target that runs, with a save area and without; one that is stopped; one that has ended. -/
theorem meets_ContextStopsAndSelectors :
    (2 ≤ (2 : Fin 4).val ∧ Ready [.s 6] [] ctlPaged ∧ (rdS ctlPaged 6).toNat / 256 % 2 = 1 ∧ (rdS ctlPaged 5).toNat / 256 % 2 = 0) ∧
      ((getCtx (commands { Ctx.blank with run := .ended }) (userCtx 0 0)).run = .ended) ∧
      (let s := commands { user.ctx with saveAt := 0x1000 }
       isActive (getCtx s (userCtx 0 0)).run = true ∧ (getCtx s (userCtx 0 0)).saveAt ≠ 0 ∧ (getCtx (commands user.ctx) (userCtx 0 0)).saveAt = 0 ∧
         (coreOf s 0).waits = [] ∧ (coreOf s 0).wback = [] ∧ (getCtx s (userCtx 0 0)).chans = [] ∧
         (clusterOf s 0).copies ++ (clusterOf s 0).gathers = [] ∧ (∀ m : Fin 8, (stackOf s m).bounce = []) ∧
         ((allCtx s).all fun e => e.2.run != .saving && e.2.run != .retired) = true) ∧
      (let s := { setCtx user (.user 0 2) user.ctx with input := { ctx := .user 0 0 } }
       s.who = .user 0 0 ∧ s.input.ctx.coreNo = 0 ∧ (coreOf s 0).port = 0 ∧ (∀ m : Fin 8, (stackOf s m).trace.ring = 0) ∧ (getCtx s (.user 0 1)).run = .free ∧ (getCtx s (.user 0 2)).run = .running ∧
         (coreOf s 0).quantum < (coreOf s 0).limit ∧
         (coreOf (modCore s 0 fun c => { c with quantum := 256 }) 0).limit ≤ (coreOf (modCore s 0 fun c => { c with quantum := 256 }) 0).quantum) := by
  decide +kernel

/-- A context with a late fault of this kind, before a gap bundle or a fill parcel. -/
def lateState (k : LateKind) (header : Nat := 0x80080000) : State :=
  { userWith (fun x => { x with late := [⟨k, 0x0D, 3, 0, none⟩] }) with
    mem := user.mem.writeBytes userCode (bytesOf 4 header), input := { ctx := .user 0 0 } }

/-- A result before its bound and one after it; a load that device 3 answers; a fault of each kind, due and not yet due. -/
theorem meets_ArrivalsAndLateFaults :
    (let l := landing (.s 3) 4 7 false
     let s (n : Nat) : State := { userWith (fun x => { x with sc := n, lands := [l] }) with input := { ctx := .user 0 0 } }
     (arriving (s 6) (.user 0 0))[0]? = some (.found l) ∧ (getCtx (s 6) (.user 0 0)).sc < l.due ∧ (arriving (s 7) (.user 0 0))[0]? = some (.found l) ∧
       (arriving (s 7) (.user 0 0))[1]? = none ∧ l.shown = false ∧
       l.due ≤ (getCtx (s 7) (.user 0 0)).sc ∧ l.reg = .s 3 ∧ l.val = .word 7 ∧ l.spoiled = false) ∧
      (let w := waiting (.user 0 0) (.remote 3 (.s 0) (.scalar 8 false) [0x40000000] none [])
       let s := modCore (modDev user fun d => { d with ports := d.ports.set 0 { Port.down with up := true, peerDev := 3 } }) 0
         fun c => { c with waits := [w] }
       (arriving { s with input := { ctx := .user 0 0 } } (.user 0 0))[0]? = some (.remote w)) ∧
      (∀ k ∈ [LateKind.image, .access, .engine, .threshold, .step],
        let s := lateState k
        (getCtx s s.input.ctx).late.find? (fun g => decide (g.kind ∈ [k] ∧ g.notBefore ≤ (getCtx s s.input.ctx).sc)) = some ⟨k, 0x0D, 3, 0, none⟩ ∧
          passesOver (switchTo s s.input.ctx) = false ∧ isActive (getCtx s s.input.ctx).run = true ∧ s.input.ctx.isSys = false) ∧
      passesOver (switchTo (lateState .image 0) (.user 0 0)) = true ∧ user.ctx.late = [] := by decide +kernel

/-- System core 0 with a descriptor at the address in s2, in the raw area of stack 0. -/
def described (bs : List Byte) : State :=
  { sysCore with mem := Memory.writeBytes [] (rawBase 0) bs, ctx := { sysCore.ctx with s := sysCore.ctx.s.set 2 (BitVec.ofNat 64 (rawBase 0)) } }

/-- Its descriptor is one of operation op for stack 0, with nothing beside its fields. -/
def describes (s : State) (op : Nat) (fields : List (Nat × Nat)) : Bool :=
  let D := physRead s (rdS s 2).toNat 128
  imgNat D 0 1 == op && decide (imgNat D 1 1 < 8) && restZero D fields

def plainBytes (s : State) (p n : Nat) : Bool := (List.range n).all fun i => isRaw s (p + i)

/-- The descriptors' address; operations 1, 2 and 3 at their last core and stack. -/
theorem meets_BindOperations :
    (let s := described [1, 0, 47, 50, 100, 101]
     s.who = .sys 0 0 ∧ getBit s.ctx.status stMODE = true ∧ Ready [.s 2] [.s 1] s ∧ (rdS s 2).toNat % 64 = 0 ∧ (rdS s 2).toNat < 2 ^ 56 ∧
       isRaw s (rdS s 2).toNat = true ∧ describes s 1 [(2, 4)] = true ∧ physOpen s s.who.stack (rdS s 2).toNat 128 = true ∧
       physPoisoned s (rdS s 2).toNat 128 = false ∧ physPoisoned { s with poison := [rawBase 0 / 64 + 1] } (rdS s 2).toNat 128 = true ∧ (stackOf s 0).fenced = false ∧ inReach 50 100 = true ∧ inReach 50 101 = true ∧
       inReach 50 0 = false ∧ coreBusy s 47 = false ∧ coreBusy s (48 * 0 + (47 ^^^ 1)) = false ∧ (stackOf s 0).badFes = [] ∧ (stackOf s 0).badSlabs = [] ∧
       ∀ b ∈ (stackOf s 0).binds, b.1 ≠ 47 → b.2.slab0 ≠ 100 ∧ b.2.slab0 ≠ 101 ∧ b.2.slab1 ≠ 100 ∧ b.2.slab1 ≠ 101 ∧ (b.2.fe = 50 → b.1 = 46)) ∧
      (describes (described [2]) 2 [] = true ∧ queuedOn (described [2]) 0 = [] ∧ (described [2]).tasks = []) ∧
      (let s := modStack (described [3]) 0 fun st => { st with fenced := true }
       describes s 3 [] = true ∧ (stackOf s 0).fenced = true) := by decide +kernel

/-- Operations 4 to 11 (a microcode's fit is a value of Config). -/
theorem meets_BindOperations_rest :
    (let z : List Byte := [4, 0, 0, 0, 0, 0, 0, 0, 0, 16, 0, 0, 0, 2, 0, 0, 64]
     describes (described z) 4 [(8, 8), (16, 4), (24, 8)] = true ∧ imgNat z 8 8 % 4096 = 0 ∧ imgNat z 16 4 = 64 ∧ isRaw (described z) (imgNat z 8 8) = true ∧
       physOpen (described z) 0 (imgNat z 8 8) 64 = true ∧ physPoisoned (described z) (imgNat z 8 8) 64 = false ∧
       physPoisoned { described z with poison := [imgNat z 8 8 / 64] } (imgNat z 8 8) 64 = true) ∧
      (let s := described [5, 0, 47]
       describes s 5 [(2, 5), (8, 13), (24, 7), (32, 2)] = true ∧ s.mem.wf = true ∧ plainBytes s (rdS s 2).toNat 128 = true) ∧
      (let s := described [6, 0, 47, 15]
       describes s 6 [(2, 2), (8, 64)] = true ∧ (List.range 8).all (fun k => !(imgNat (physRead s (rdS s 2).toNat 128) (8 + 8 * k) 8).testBit 1) = true) ∧
      (let w : List Byte := [0, 0, 0, 0, 0, 0, 0, 0, 12, 7, 15, 15, 0, 0, 0, 0]
       let s := described ([7, 0, 11, 0, 0, 0, 0, 0] ++ w ++ w ++ w ++ w)
       describes s 7 [(2, 1), (8, 64)] = true ∧ (List.range 4).all (fun k => !watchBad (physRead s (rdS s 2).toNat 128) k) = true) ∧
      (let z : List Byte := [8, 0, 0, 0, 0, 0, 0, 0, 0, 16, 0, 0, 0, 2, 0, 0, 0, 32, 0, 0, 127]
       describes (described z) 8 [(8, 8), (16, 4), (20, 4), (24, 6)] = true ∧ imgNat z 8 8 % 4096 = 0 ∧ imgNat z 16 4 = 8192 ∧ imgNat z 20 4 < 128 ∧
         isRaw (described z) (imgNat z 8 8) = true ∧ describes (described [8]) 8 [(8, 8), (16, 4), (20, 4), (24, 6)] = true) ∧
      (describes (described [9, 0, 47, 24, 1]) 9 [(2, 3), (8, 40)] = true ∧ describes (described [9, 0, 47, 9, 1]) 9 [(2, 3), (8, 40)] = true) ∧
      (let z : List Byte := [10, 0, 47, 3, 0, 0, 0, 0, 0, 16, 0, 0, 0, 2]
       let s := described z
       describes s 10 [(2, 3), (8, 8)] = true ∧ imgNat z 8 8 % 4096 = 0 ∧ isRaw s (imgNat z 8 8) = true ∧ isActive (getCtx s (userCtx 47 3)).run = false ∧
         readAwaited s (userCtx 47 3) = false) ∧
      (let z : List Byte := [11, 0, 3, 0, 0, 0, 0, 0, 0, 16, 0, 0, 0, 2, 0, 0, 64]
       let s := modDev (described z) fun d => { d with frozen := true }
       describes s 11 [(2, 30)] = true ∧ s.dev.frozen = true ∧ s.mem.wf = true ∧ imgNat z 8 8 = rawBase 0 + 4096 ∧
         plainBytes s (rawBase 0 + 4096) 64 = true ∧ physOpen s 0 (rawBase 0 + 4096) 64 = true ∧ plainBytes s (rdS s 2).toNat 128 = true) := by decide +kernel

/-- Core 0 with a region over global 0x40000000 and a load that awaits its first granule. -/
def filling : State :=
  let w := waiting (.user 0 0) (.load false (.s 3) (.scalar 8 false) [0] none)
  modCore (userWith fun x => { x with regions := x.regions.set 0 (some ⟨0, 0x40000000, 8192, true, [], [4096, 8191]⟩) }) 0 fun c => { c with waits := [w] }

/-- An entry of the side log: a store. -/
def logged (waits : Option (BitVec 8)) : LogEntry :=
  ⟨.user 0 0, 0, 0, 0, BitVec.ofNat 64 userTables, 0x800000, [(0x40000000, 7)], .store, 0, true, none, [], [], [], [], waits⟩

/-- A granule to fill, one with dirty bytes, and none; a log whose head replays, awaits service or is dropped; a granule of a
store's image, and a line of a version. -/
theorem meets_RegionLogAndErrorSteps :
    (fillWanted user 0 = none ∧ (coreOf filling 0).held = none ∧ ((fillWanted filling 0).map fun e => (e.1.ctx, e.2)) = some (.user 0 0, 0, 0) ∧ filling.spm.wf = true) ∧
      (let r : Region := ⟨0, 0x40000000, 8192, true, [], [4096, 8191]⟩
       (getCtx filling (.user 0 0)).regions.toList.getD 0 none = some r ∧ r.rw = true ∧ r.gbase % 4096 = 0 ∧ r.len % 4096 = 0 ∧ 1 < r.len / 4096 ∧
         (r.dirty.any fun d => d / 4096 == 1) = true) ∧
      (let s := modCore user 0 fun c => { c with sidelog := [logged none] }
       (coreOf s 0).sidelog = [logged none] ∧ entryDropped s (logged none) = false ∧ done (some (performEntry 0 (logged none) (noteReaders 0 (logged none) s))) = true ∧
         (logged (some 0x0A)).waits.isSome = true ∧ entryDropped s (logged (some 0x0A)) = false ∧
         entryDropped s { logged none with task := 5 } = true) ∧
      (let s := engines [] [tileStore 1 0 (some 0) 8]
       let t := { plainTask 5 .dispatched with version := [(64, 7)] }
       (coreOf s 0).stores = [tileStore 1 0 (some 0) 8] ∧ spmKey (0, 0) < 8 * 2047 + 8 ∧ 8 * 2047 < spmKey (0, 0) + 16384 ∧
         taskOf { user with tasks := [t] } 5 = some t ∧ (t.version.any fun b => b.1 / 64 == 1) = true) ∧
      (user.dev.errlog = 0 ∧ ∀ n : Fin 16, user.dev.thresh[n.val].toNat % 2 ^ 32 = 0) := by decide +kernel

/-- A fill reads its granule. -/
theorem meets_RegionLogAndErrorSteps_fill :
    (let a := waitAcc filling (waiting (.user 0 0) (.load false (.s 3) (.scalar 8 false) [0] none))
     match readMarked a false false 0x40000000 4096 filling with | .ok u bs => bs.length == 4096 && u.spm.wf | _ => false) = true := by decide +kernel

/-- Stack 0 with a nominal space of two pages, the second ballooned or not. -/
def pooled (f : Sump → Sump) (balloon : Bool) : State :=
  modStack { sysCore with input := { num := 4096 } } 0 fun st =>
    { st with sump := f { st.sump with en := true, nom := 2, hwm := 0xFFFFFFF, list := 0x200000080000 }, dirs := [(1, ⟨[], 0, false, balloon, false⟩)] }

def nominalPage (s : State) (key : Nat) : Option Nat := match placeOf s key with | .nominal _ p => some p | _ => none

/-- Sump before and after its enabling; a page to deflate; an empty list, and entries that name a page and none. -/
theorem meets_SumpSteps :
    (sysCore.mem.wf = true ∧ (stackOf sysCore 0).sump.en = false ∧ (stackOf (pooled id true) 0).sump.en = true ∧ (stackOf sysCore 0).sump.waiting = []) ∧
      (nominalPage (pooled id true) 4096 = some 1 ∧ ballooned (pooled id true) 0 1 = true ∧ ballooned (pooled id false) 0 1 = false) ∧
      (let s := pooled (fun u => { u with inflating := true, tail := 1 }) false
       let u := (stackOf s 0).sump
       u.inflating = true ∧ u.head ≠ u.tail ∧ u.waiting = [] ∧ decide (freeSectors (stackOf s 0) < u.hwm) = true ∧ s.mem.readNat (u.list.toNat + 8 * u.head) 8 % 2 = 0 ∧
         (let t := { s with mem := Memory.writeBytes [] u.list.toNat (bytesOf 8 4097) }
          let e := t.mem.readNat (u.list.toNat + 8 * u.head) 8
          e % 2 = 1 ∧ nominalPage t (e / 2 ^ 12 % 2 ^ 44 * 4096) = some 1 ∧ ballooned t 0 1 = false ∧ unclaimed t 0 1 = true)) := by decide +kernel

/-- Task 5 in this form, the next device step being about it. -/
def tasked (t : Task) (o : ReplayOutcome) : State := { sysPaged with tasks := [t], input := { task := 5, outcome := o } }

/-- A dispatch, and one whose record is still owed; ages 0 and 1; a task whose context has retired. -/
theorem meets_TaskSteps :
    (let t := { startable5 with phase := .queued, dmask := 0, record := { startable5.record with mask := 1 } }
     let s := tasked t .computed
     taskOf s 5 = some t ∧ eligible s t = true ∧ owes s (.record 5) = false ∧
       ((dispatchable s 0).map fun e => (e.1, e.2.1)) = some (t, [0]) ∧ dispatchable (tasked startable5 .computed) 0 = none ∧
       (let u := modDev s fun d => { d with owed := [⟨1, .sys 0 0, .record 5, false, 0, 0, 0, [7]⟩] }
        owes u (.record 5) = true ∧ ((dispatchable u 0).map fun e => (e.1, e.2.1)) = some (t, [0]))) ∧
      (let t := { plainTask 5 .queued with pri := 1 }
       taskOf (tasked t .computed) (tasked t .computed).input.task.toNat = some t ∧ 0 < t.pri ∧ (plainTask 5 .queued).pri = 0) ∧
      (let s := setCtx (tasked startable5 .computed) (.user 0 0) { Ctx.blank with run := .retired, task := 5 }
       taskOf s 5 = some startable5 ∧ (s.parked.map (·.1)).Nodup ∧ allEnded s startable5 = true ∧ taskBusy s startable5 = false ∧
         recordsPosted s 5 = true ∧ startable5.doomed = false ∧ s.cores = [] ∧ allEnded (tasked startable5 .computed) startable5 = false) := by decide +kernel

/-- The completed task 5 in this state of its audit, with a replay run of this number, whose context has this run state. -/
def audited (a : AuditState) (k : Nat) (run : RunState) (o : ReplayOutcome) : State :=
  setCtx { tasked { plainTask 5 .completed with audit := a } o with
    tasks := [{ plainTask 5 .completed with audit := a }, { startable5 with id := replayId 5 k, dmask := 2 ^ 12 }] }
    (.user 48 0) { Ctx.blank with run := run, task := replayId 5 k }

def replayRun (k : Nat) : Task := { startable5 with id := replayId 5 k, dmask := 2 ^ 12 }

/-- An audit with a placement and without, before its limit and after; a replay and a vote that run, have ended, and have met a fault. -/
theorem meets_TaskSteps_audits :
    (let t := { plainTask 5 .completed with audit := .sampled }
     let s := tasked t .computed
     taskOf s 5 = some t ∧ s.now ≤ t.waitFrom + 2 ^ 20 ∧ ((replayPlace s t t.dmask).map (·.1)) = some [12] ∧ taskOf s (replayId 5 1) = none ∧
       t.waitFrom + 2 ^ 20 < { s with now := 2 ^ 20 + 1 }.now ∧
       (let v := { t with record := { plainRecord with mask := 2 ^ 13 - 1 } }
        taskOf (tasked v .computed) 5 = some v ∧ (replayPlace (tasked v .computed) v v.dmask).isNone = true) ∧
       (let v := { t with audit := .replayed 1 2 (2 ^ 12) }
        let s := tasked v .computed
        taskOf s 5 = some v ∧ ((replayPlace s v (v.dmask ||| 2 ^ 12)).map (·.1)) = some [13] ∧ taskOf s (replayId 5 2) = none)) ∧
      (∀ e ∈ ([(AuditState.replaying, 1), (.voting 1 2 (2 ^ 12), 2)] : List (AuditState × Nat)),
        (let s := audited e.1 e.2 .running .computed
         taskOf s 5 = some { plainTask 5 .completed with audit := e.1 } ∧ taskOf s (replayId 5 e.2) = some (replayRun e.2) ∧
           replayFailed s (replayRun e.2) = false ∧ allEnded s (replayRun e.2) = false) ∧
        (let s := audited e.1 e.2 .retired .computed
         replayFailed s (replayRun e.2) = false ∧ allEnded s (replayRun e.2) = true ∧ taskBusy s (replayRun e.2) = false ∧
           (writeSetSig s (replayRun e.2), (writeSet s (replayRun e.2)).length) = (writeSetSig s (plainTask 5 .completed), (writeSet s (plainTask 5 .completed)).length)) ∧
        (let s := audited e.1 e.2 .retired (.ran 7 1)
         (writeSet s (plainTask 5 .completed)).length = 0 ∧ replayFailed s (replayRun e.2) = false ∧ s.input.outcome = .ran 7 1) ∧
        (let s := audited e.1 e.2 .stopped .computed
         taskOf s (replayId 5 e.2) = some (replayRun e.2) ∧ replayFailed s (replayRun e.2) = true)) := by decide +kernel

/-- A context that has this header at its pc. -/
def atHeader (w : Nat) (f : Ctx → Ctx) : State :=
  { userWith (fun x => f { x with preemptAt := some 0 }) with mem := user.mem.writeBytes userCode (bytesOf 4 w), input := { ctx := .user 0 0 } }

theorem meets_PreemptionSteps :
    (headerOf (atHeader 0x8082A000 id) (.user 0 0) = some ⟨1, 0, 1, 2, true, 0⟩ ∧ headerOf (atHeader 0x80800000 id) (.user 0 0) = some ⟨1, 0, 0, 0, false, 0⟩ ∧
      atSafePoint (atHeader 0x80800000 id) (.user 0 0) = false ∧
      (let s := atHeader 0x8082A000 id
       let x := getCtx s s.input.ctx
       atSafePoint s (.user 0 0) = true ∧ gangMate s (.user 0 0) = none ∧ isActive x.run = true ∧ x.run ≠ .saving ∧ x.preemptAt = some 0 ∧
         (x.regions.toList.all (·.isNone)) = true ∧
         (coreOf s 0).wback = [] ∧ s.dev.preempt ≠ 0 ∧ (coreOf s 0).waits = [] ∧ x.chans = [] ∧ (clusterOf s 0).copies ++ (clusterOf s 0).gathers = [] ∧
         (∀ m : Fin 8, (stackOf s m).bounce = []) ∧ ((allCtx s).all fun e => e.2.run != .saving && e.2.run != .retired) = true)) ∧
      (let s := atHeader 0x8082A000 fun x => { x with run := .saving }
       (getCtx s s.input.ctx).run = .saving ∧ (getCtx s s.input.ctx).late = [] ∧ drained s (.user 0 0) = true ∧ owes s (.area (.user 0 0)) = false ∧
         drained (modCore s 0 fun c => { c with waits := [waitingStore (.user 0 0)] }) (.user 0 0) = false) := by decide +kernel

/-- A gang at a safe point whose second member has the request. -/
def gangAt (run : RunState) (saveAt : Nat) : State :=
  setCtx (atHeader 0x8082A000 fun x => { x with preemptAt := none, ident := { x.ident with gang := 2 } })
    (.user 1 0) { user.ctx with run := run, saveAt := saveAt, preemptAt := some 3, ident := { user.ctx.ident with gang := 2, gx := 1 } }

/-- Both members of a gang are saved at one safe point (R399). -/
theorem test_gang_saved_together :
    (match exec .preemption (gangAt .running 0x1000) with
     | .next t => ((getCtx t (.user 0 0)).run, (getCtx t (.user 1 0)).run)
     | _ => (.free, .free)) = (.saving, .saving) := by decide +kernel

/-- Such a member that may be saved, and one that has stopped. -/
theorem meets_PreemptionSteps_gang :
    (let s := gangAt
     let t := s .running 0x1000
     atSafePoint t (.user 0 0) = true ∧ gangMate t (.user 0 0) = some (.user 1 0) ∧ (getCtx t (.user 0 0)).run = .running ∧
       (getCtx t (.user 1 0)).run = .running ∧ (getCtx t (.user 1 0)).saveAt ≠ 0 ∧ (getCtx t (.user 1 0)).preemptAt = some 3 ∧
       ((getCtx t (.user 1 0)).regions.toList.all (·.isNone)) = true ∧ (coreOf t 1).wback = [] ∧
       isActive (getCtx (s .stopped 0x1000) (.user 1 0)).run = false ∧ gangMate (s .stopped 0x1000) (.user 0 0) = some (.user 1 0) ∧
       (getCtx (s .running 0) (.user 1 0)).saveAt = 0) := by decide +kernel

/-- The device with port 0 in this state, its request ring holding one request of type ty. -/
def linked (p : Port) (ty : Byte) : State :=
  { modDev sysCore (fun d => { d with ports := d.ports.set 0 p, drains := [⟨3, 7, 0, true, 0, 1⟩], seen := [(3, 7)] }) with
    mem := [(platformBase + 0x1F4, 1), (platformBase + 0x200, ty)], input := { dev := 3, num := 7, update := ⟨3, 0, true, 7, 0⟩ } }

def isRequest (s : State) (ty : Nat) : Bool :=
  let head := platRead s 0x1F0 4
  decide (head < 64) && head != platRead s 0x1F4 4 % 64 && platRead s (0x200 + 16 * head) 1 == ty && platRead s (0x201 + 16 * head) 1 == 0

/-- A port that is up, with 15 and 16 retries in a row, or without lock; one that is down; a known and a new update; each request. -/
theorem meets_LinkSteps :
    (let up : Port := { Port.down with up := true, fails := 16 }
     let s := linked up 1
     s.dev.errlog = 0 ∧ (∀ n : Fin 16, s.dev.thresh[n.val].toNat % 2 ^ 32 = 0) ∧ s.mem.wf = true ∧ s.input.num2 = 0 ∧ s.dev.ports[0] = up ∧ 16 ≤ up.fails ∧
       isRequest s 1 = true) ∧
      ((linked { Port.down with up := true, fails := 15, lockLost := some 0 } 1).dev.ports[0].fails < 16 ∧ Port.down.lockLost = none) ∧
      (({ Port.down with told := true } : Port).up = false ∧ ({ Port.down with told := true } : Port).told = true) ∧
      (let s := linked Port.down 2
       s.dev.ports[0].up = false ∧ s.input.dev.val ≠ s.dev.no ∧ isRequest s 2 = true ∧ isRequest (linked Port.down 3) 3 = true ∧
         (s.input.update.origin.val, s.input.update.epoch) ∈ s.dev.seen ∧ (2, 7) ∉ s.dev.seen ∧
         (⟨3, 7, 0, true, 0, 1⟩ : Drain) ∈ s.dev.drains ∧ ∀ e ∈ s.dev.drains, e.origin = 3 → e.epoch = 7 → e = ⟨3, 7, 0, true, 0, 1⟩) := by decide +kernel

/-- The device with host 0 up, a message ring with this head, and an input of 64 bytes. -/
def hosted (head : Byte) : State :=
  { modDev sysCore (fun d => { d with hostUp := d.hostUp.set 0 true }) with
    mem := if head = 0 then [] else [(platformBase + 0x1000, head)], input := { bytes := some (List.replicate 64 5), num := rawBase 0 + 0x8000 } }

/-- A message ring with room and one without; a host's write; requests in and out of sequence; boot stages; a running profile. -/
theorem meets_PlatformSteps :
    (sysCore.dev.hostUp[0] = false ∧ (hosted 0).dev.hostUp[0] = true ∧ (hosted 0).mem.wf = true ∧
      (platRead (hosted 0) 0x1004 4 % 63 + 1) % 63 ≠ platRead (hosted 0) 0x1000 4 % 63 ∧
      (platRead (hosted 1) 0x1004 4 % 63 + 1) % 63 = platRead (hosted 1) 0x1000 4 % 63 ∧ (List.replicate 64 (5 : Byte)).length = 64 ∧
      (hosted 0).input.good = true ∧ (hosted 0).input.num2 = 0 ∧ 8192 < (hosted 0).input.num + 64 ∧
      (let s := { hosted 0 with input := { (hosted 0).input with num := 0 } }
       s.input.num + 64 ≤ 8192 ∧ s.input.num < 8 ∧ 4 < s.input.num + 64)) ∧
      (sysCore.input.req.seq ≠ (Tbl.get? sysCore.dev.delivered sysCore.input.req.src.val).getD 0 + 1 ∧
        (let s := { sysCore with input := { req := ⟨2, 1, 0, 0x40000000, some [7], 0, false⟩ } }
         s.input.req.seq = (Tbl.get? s.dev.delivered s.input.req.src.val).getD 0 + 1)) ∧
      (sysCore.dev.boot ≤ 1 ∧ sysCore.dev.boot + 1 = 2 ∧ (getCtx sysCore (.sys 0 0)).run ≠ .halted ∧ 1 < (modDev sysCore fun d => { d with boot := 4 }).dev.boot) ∧
      (let s := modCore user 0 fun c => { c with profK := 10 }
       (coreOf s 0).profK ≠ 0 ∧ sysCore.cores = [] ∧ (∀ n : Fin 8, (stackOf s n).trace.ring = 0) ∧ (coreOf s 0).profFrom ≤ s.now) := by decide +kernel

/-- A page of host window that maps what BAR2 shows, and one that does not. -/
def granted (hw : Bool) : State :=
  let leaf : Nat := 0x20000000000 / 4096 * 4096
  { hosted 0 with
    ctx := { sysPaged.ctx with run := .running }
    mem := sysPaged.mem.writeBytes (userTables + 0x2000 + 8) (bytesOf 8 (leaf + (if hw then 0x400 else 0) + 0x1F3))
    input := { (hosted 0).input with num2 := 0x40000000, num := 0, ctx := .sys 0 0 } }

theorem meets_PlatformSteps_window :
    (let s := granted true
     grantedKey s.input.ctx s.input.num2 64 s = some (rawBase 0) ∧ s.input.good = true ∧ s.input.num2 ≠ 0 ∧ s.input.num + 64 ≤ 2 ^ 36 ∧ s.dev.owed = [] ∧
       plainBytes s (rawBase 0) 64 = true ∧ physOpen s 0 (rawBase 0) 64 = true ∧ s.mem.wf = true) ∧
      grantedKey (granted false).input.ctx (granted false).input.num2 64 (granted false) = none := by decide +kernel

/-- A context whose next bundle holds ADD s3, s1, s2 alone, or a gap of two cycles. -/
def nextIs (bs : List Byte) : State := { user with mem := user.mem.writeBytes userCode bs }

def quietTraces (x : State) : Bool := x.dies.toList.all fun st => st.trace.ring == 0

/-- The premises of StepRunsDecodedInstruction on the state and its next header. -/
def comesNext (s : State) (h : Header) : Bool :=
  s.dev.powered && s.agenda.isEmpty && (partner s).isNone && !partnerMissing s && s.ctx.run == .running && s.ctx.late.isEmpty && s.ctx.loops.isEmpty &&
    s.ctx.preemptAt.isNone && s.dev.debug == 0 && portOf s s.who == s.who && (pendingIrq s s.who).isNone && !imageAwaited s &&
    decide ((coreOf s s.who.coreNo).quantum < (coreOf s s.who.coreNo).limit) && quietTraces s && s.ctx.pc.toNat % 4 == 0 &&
    (headerReject h).isNone && decide (parcelNo s.ctx.pc + bundleLen h.p ≤ 16)

/-- Its premises on the slot that holds i. -/
def runsSlot (s u : State) (f : State) (o : SlotOp) (i : Instr) : Bool :=
  let mark (b : Bool) (x : State) : State := { x with frame := { x.frame with cleared := b } }
  let row := rowOf i (atSlot o f)
  (match o.op with | .ok j => j == i | _ => false) && o.tag == 0 && (slotReject f.frame.len o f).isNone && (!isExit i || !exitWaits f) &&
    (match exec row (atSlot o f), exec row (atSlot o (mark (!isBara i) f)) with
     | .next v, .next w =>
       v.frame.out == .going && w.who == s.who && !w.frame.yields && w.frame.out == .going &&
         quietTraces (meetRegs s.who u.ctx.sc (finishBundle false (mark false w)))
     | _, _ => false)

/-- All its premises, i being the bundle's one slot or none. -/
def runsNext (s : State) (h : Header) (i : Option Instr) : Bool :=
  comesNext s h &&
    (match fetchLine (lineAddr s.ctx.pc) { s with frame := { Frame.none with base := s.ctx.pc, parcel := s.ctx.pc } } with
     | (u, some bs) =>
       let f := layOut h bs u
       decodeHeader (parcelOf bs (parcelNo s.ctx.pc)) == some h &&
         (match i with
          | none => h.p == 0 && (match exec (.gapBundle h) f with
             | .next v => v.who == s.who && !v.frame.yields && v.frame.out != .stalled && quietTraces v
             | _ => false)
          | some i => h.p != 0 && (match readSlots h.p (bundleParcel bs f) with
             | [o] => runsSlot s u f o i
             | _ => false))
     | _ => false)

theorem meets_StepRunsDecodedInstruction :
    runsNext (nextIs (oneSlot 0 0x00061100)) ⟨1, 0, 0, 0, false, 0⟩ (some (.add 3 1 2)) = true ∧
      runsNext (nextIs (bytesOf 4 0x80080000)) ⟨0, 1, 0, 0, false, 0⟩ none = true := by decide +kernel

theorem meets_RoundTrip : encode (.add 31 31 31) = some (.slot 0 0x003FFF80) ∧ wellFormed (.add 31 31 31) = true := by decide +kernel

/-- A step from a state whose memories are in canonical form. -/
theorem meets_MemoryInvariant :
    MemoriesWf State.reset ∧ (match step { State.reset with agenda := [⟨.jmp 0, {}⟩] } with | .next _ => true | _ => false) = true := by decide +kernel

/-- A copy that waits for another, one that has inherited an error, a CPYX to start, and one whose window is not there. -/
theorem meets_QueueAndSumpStepsComplete :
    (let o := { copyOp 1 0 0x1000 8 .cpy false with deps := [7] }
     findCopy (copying [o] []) 0 1 = some o ∧ o.deps ≠ [] ∧ findCopy user 0 0 = none) ∧
      (let o := { copyOp 1 0 0x1000 8 .cpy false with error := some 0x0D }
       findCopy (copying [o] []) 0 1 = some o ∧ o.deps = [] ∧ o.waitsVa = none ∧ o.moved = false ∧ o.error ≠ none ∧ o.started = false) ∧
      (let o := { copyOp 1 0 0x1000 8 .cpyx false with started := false }
       findCopy (copying [o] []) 0 1 = some o ∧ o.error = none ∧ o.kind = .cpyx ∧ o.dsp ≠ 1) ∧
      (let o := { copyOp 1 0 0x1000 8 .cpy false with dsp := 1 }
       let s := modCtx (copying [o] []) (.user 0 0) fun x => { x with run := .ended }
       findCopy s 0 1 = some o ∧ (winOf s o.task o.dst).any (fun w => !winReady s o w) = true) ∧
      ((clusterOf user 0).posting = [] ∧ (clusterOf user 0).events = [] ∧ (clusterOf (modCluster user 0 fun u => { u with posting := [record] }) 0).posting = [record]) := by
  decide +kernel

/-- Sump before its enabling, with nothing that waits, inflating or not. -/
theorem meets_QueueAndSumpStepsComplete_sump :
    (stackOf sysCore 0).sump.en = false ∧ (stackOf sysCore 0).sump.waiting = [] ∧ inflates (stackOf sysCore 0) = false ∧
      nominalPage (pooled id true) 4096 = some 1 ∧
      (let s := pooled (fun u => { u with inflating := true, tail := 1 }) false
       (stackOf s 0).sump.waiting = [] ∧ inflates (stackOf s 0) = true) ∧
      sysCore.dev.frozen = false ∧ (modDev sysCore fun d => { d with frozen := true }).dev.frozen = true := by decide +kernel

/-! ## Values that the spec works out -/

/-- The register, value and due cycle of an instruction's last landing. -/
def lastLanding (i : Instr) (s : State) : Option (RegName × RegVal × Nat) :=
  match exec i s with
  | .next t => t.ctx.lands.getLast?.map fun l => (l.reg, l.val, l.due)
  | _ => none

def withS (r : SR) (x : Word) (q : SR) (y : Word) : State := userWith fun c => { c with s := (c.s.set r.val x).set q.val y }

/-- The signature fold of the words 1 and 2 (R12, R85). -/
theorem test_signature_fold : foldSig (foldSig 0 1) 2 = 0x22 ∧ sigBytes [1, 0, 0, 0, 2, 0, 0, 0] = 0x22 := by decide +kernel

/-- MULH of 2^62 and 2^62, three schedule cycles on (R122). -/
theorem test_mulh : lastLanding (.mulh 6 1 2) (withS 1 0x4000000000000000 2 0x4000000000000000) = some (.s 6, .word 0x1000000000000000, 3) := by
  decide +kernel

/-- 1.0 divided by −0 is −∞ and one class-0 event (R138). -/
theorem test_fdiv : lastLanding (.fdiv 3 1 2) (withS 1 0x3F800000 2 0x80000000) = some (.s 3, .word 0xFF800000, 12) ∧
    (match exec (.fdiv 3 1 2) (withS 1 0x3F800000 2 0x80000000) with | .next t => t.dev.tot[0] | _ => 0) = 1 := by decide +kernel

/-- The identity of stack 5, cluster 7, core 2 (R48). -/
theorem test_movx : lastLanding (.movx 1 2) (userWith fun c => { c with ident := { c.ident with die := 5, clu := 7, core := 2 } }) = some (.s 1, .word 5, 1) := by
  decide +kernel

/-- ADD of a register inside a MUL's bound reads no fixed value; at the bound it reads 42 (the example of R56). -/
theorem test_bound :
    (let s (n : Nat) : State := userWith fun c => { c with sc := n, lands := [⟨.s 3, .word 42, 2, 5, true, false, false, 0, []⟩] }
     exposed (s 3) (.s 3) = true ∧ exposed (s 5) (.s 3) = false) := by decide +kernel

/-- The address of an LDW inside two loop levels, and inside one (the example of R135). -/
theorem test_strides :
    (let s (loops : List LoopLevel) : State := userWith fun c => { c with
       a := c.a.set 2 ⟨0x1000, ((Vector.replicate 6 0).set 0 1024).set 1 4⟩, loops := loops }
     let l (i : Word) : LoopLevel := ⟨i, 9, 0, 0x100⟩
     ea (s [l 2, l 3]) 2 (offset (2 : BitVec 12) 4) = 0x1814 ∧ ea (s [l 2]) 2 (offset (2 : BitVec 12) 4) = 0x1808) := by decide +kernel

/-- RTZ of 500 and RUP of −500 to E4M3 give 448 and −448 (the note under R68). -/
theorem test_round_toward_range :
    roundF .e4m3 .rtz 0 (numOfInt 500) = (0x7E, false) ∧ roundF .e4m3 .rup 0 (numOfInt (-500)) = (0xFE, false) := by decide +kernel

/-- The reduction tree over 16,777,216, 1, 1 and 1 (the example of R81). -/
theorem test_tree :
    (let row : Vec := (((Vector.replicate 64 0).set 0 0x4B800000).set 1 0x3F800000 |>.set 2 0x3F800000).set 3 0x3F800000
     match lastLanding (.vred 9 8 2 8) (userWith fun c => { c with v := c.v.set 8 row }) with
     | some (_, .vec v, _) => v[0]
     | _ => 0) = 0x4B800001 := by decide +kernel

/-- The two examples of R78: 2^24 + 1 + 1 under ACC 0, and 65,504 + 16 under ACC 3, which saturates and counts class 1. -/
theorem test_mma_sums :
    (let one := decodeF .e4m3 0x38
     let four := decodeF .e4m3 0x48
     mmaElem 0x0099 [one, one] [one, one] [] [] 0x4B800000 = (0x4B800001, 0, []) ∧
       (mmaElem 0x0399 [four] [four] [] [] 0x477FE000).1 = 0x477FE000 ∧ (mmaElem 0x0399 [four] [four] [] [] 0x477FE000).2.2 = [1] ∧
       mmaElem 0x0099 [four] [four] [] [] 0x477FE000 = (0x477FF000, 0, [])) := by decide +kernel

/-- FMTW at schedule cycle 10: an MMA at 12 runs under the old format, one at 14 under the new (R159). -/
theorem test_fmtw :
    (match exec (.fmtw 20) (userWith fun c => { c with sc := 10, s := c.s.set 20 0x99 }) with
     | .next t => (fmtNow { t.ctx with sc := 12 }, fmtNow { t.ctx with sc := 14 })
     | _ => (0, 0)) = (0x200, 0x99) := by decide +kernel

/-- A TRAP at its bundle leaves its immediate in SYS_TVAL and the successor in SYS_EPC (R165). -/
theorem test_trap :
    (match exec (.trap 7) { user with frame := { Frame.none with base := 0x2000, next := 0x2008 } } with
     | .next t => (t.ctx.tval, t.ctx.epc, t.ctx.cause.truncate 8)
     | _ => (0, 0, (0 : BitVec 8))) = (7, 0x2008, 0x1E) := by decide +kernel

end Sys2Proof.Tests
end

namespace Sys2Proof.Machine

/-! ## What the units of memory leave alone

Translating, storing, expanding a page and logging move bytes, translations, sectors, versions and counts. They give no context
another state, and they touch neither the scratchpads nor the boot ROM. -/

/-- In t every context, the scratchpads and the boot ROM are what they are in s. -/
structure KeepsContexts (s t : State) : Prop where
  who : t.who = s.who
  ctx : t.ctx = s.ctx
  parked : t.parked = s.parked
  cores : t.cores = s.cores
  chans : t.chans = s.chans
  spm : t.spm = s.spm
  rom : t.rom = s.rom

namespace KeepsContexts

theorem refl (s : State) : KeepsContexts s s := ⟨rfl, rfl, rfl, rfl, rfl, rfl, rfl⟩

theorem trans {s t u : State} (h : KeepsContexts s t) (g : KeepsContexts t u) : KeepsContexts s u :=
  ⟨g.who.trans h.who, g.ctx.trans h.ctx, g.parked.trans h.parked, g.cores.trans h.cores, g.chans.trans h.chans, g.spm.trans h.spm,
    g.rom.trans h.rom⟩

theorem ite {s t u : State} {p : Prop} [Decidable p] (h : KeepsContexts s t) (g : KeepsContexts s u) :
    KeepsContexts s (if p then t else u) := by
  split
  · exact h
  · exact g

theorem foldl {α : Type} {f : State → α → State} (h : ∀ s a, KeepsContexts s (f s a)) (l : List α) (s : State) :
    KeepsContexts s (l.foldl f s) := by
  induction l generalizing s with
  | nil => exact refl s
  | cons a l ih => exact (h s a).trans (ih _)

theorem getCtx {s t : State} (h : KeepsContexts s t) (c : CtxId) : getCtx t c = getCtx s c := by
  simp [Machine.getCtx, h.who, h.ctx, h.parked]

end KeepsContexts

/-! ### The parts of the state that these units write -/

theorem modCluster_keeps (s : State) (g : Nat) (f : Cluster → Cluster) : KeepsContexts s (modCluster s g f) := ⟨rfl, rfl, rfl, rfl, rfl, rfl, rfl⟩

theorem modStack_keeps (s : State) (n : Fin 8) (f : Stack → Stack) : KeepsContexts s (modStack s n f) := ⟨rfl, rfl, rfl, rfl, rfl, rfl, rfl⟩

theorem modTask_keeps (s : State) (id : Nat) (f : Task → Task) : KeepsContexts s (modTask s id f) := ⟨rfl, rfl, rfl, rfl, rfl, rfl, rfl⟩

theorem modDev_keeps (s : State) (f : Dev → Dev) : KeepsContexts s (modDev s f) := ⟨rfl, rfl, rfl, rfl, rfl, rfl, rfl⟩

theorem bump_keeps (s : State) : KeepsContexts s (bump s) := ⟨rfl, rfl, rfl, rfl, rfl, rfl, rfl⟩

theorem poke_keeps (s : State) (a n x : Nat) : KeepsContexts s (poke s a n x) := ⟨rfl, rfl, rfl, rfl, rfl, rfl, rfl⟩

theorem committedStore_keeps (k : Nat) (bs : List Byte) (s : State) : KeepsContexts s (committedStore k bs s) := ⟨rfl, rfl, rfl, rfl, rfl, rfl, rfl⟩

theorem l1gDropLine_keeps (s : State) (g key : Nat) : KeepsContexts s (l1gDropLine s g key) := modCluster_keeps ..

theorem forgetReleases_keeps (home key n : Nat) (s : State) : KeepsContexts s (forgetReleases home key n s) := ⟨rfl, rfl, rfl, rfl, rfl, rfl, rfl⟩

/-! ### The error log and the audits -/

theorem logPad_keeps (n w : Nat) (s : State) : KeepsContexts s (logPad n w s) := by
  induction n generalizing w s with
  | zero => exact .refl s
  | succ n ih => exact (committedStore_keeps _ _ s).trans (ih _ _)

theorem logRecord_keeps (k : Nat) (bs : List Byte) (s : State) : KeepsContexts s (logRecord k bs s) :=
  .ite (.refl s) (.ite (poke_keeps ..) (((logPad_keeps _ _ s).trans (committedStore_keeps ..)).trans (poke_keeps ..)))

theorem abandonAudit_keeps (t : Task) (reason : Nat) (sig replay : Word) (mask : Option Nat) (s : State) :
    KeepsContexts s (abandonAudit t reason sig replay mask s) := by
  have r : KeepsContexts s (auditRecord t 4 reason sig replay mask s) := logRecord_keeps ..
  exact (r.trans (.ite (.refl _) (poke_keeps ..))).trans (modTask_keeps ..)

theorem noteHostWrite_keeps (id : Nat) (hw : Bool) (s : State) : KeepsContexts s (noteHostWrite id hw s) := by
  unfold noteHostWrite
  split
  · exact abandonAudit_keeps ..
  · exact .refl s

theorem touch_keeps (s : State) (a : Acc) (line : Nat) (write committed : Bool) : KeepsContexts s (touch s a line write committed) :=
  .ite (.refl s) (modTask_keeps ..)

/-! ### The directory, the pool and the bounce rings -/

theorem setDir_keeps (s : State) (n : Fin 8) (page : Nat) (e : DirEnt) : KeepsContexts s (setDir s n page e) :=
  (modStack_keeps ..).trans (poke_keeps ..)

theorem allocate_keeps (n : Fin 8) (page k : Nat) (s : State) : KeepsContexts s (allocate n page k s) := by
  induction k generalizing s with
  | zero => exact .refl s
  | succ k ih => exact (setDir_keeps ..).trans (ih _)

theorem kickSump_keeps (s : State) (n : Fin 8) : KeepsContexts s (kickSump s n) := .ite (modStack_keeps ..) (.refl s)

theorem recompute_keeps (s : State) (n : Fin 8) (page : Nat) : KeepsContexts s (recompute s n page) := .ite (.refl s) (setDir_keeps ..)

/-- The state that an expansion leaves, whether the write stands in it or its unit waits. -/
def expanded : Except State State → State
  | .ok s => s
  | .error s => s

theorem expandFor_keeps (unit : Waiter) (n : Fin 8) (page : Nat) {s w : State} (h : KeepsContexts s w) :
    KeepsContexts s (expanded (expandFor unit n page s w)) := by
  unfold expandFor
  dsimp only
  rw [apply_ite expanded, apply_ite expanded]
  refine .ite (.ite (h.trans (modStack_keeps ..)) h) (.ite ?_ ?_)
  · exact ((h.trans (allocate_keeps ..)).trans (modStack_keeps ..)).trans (kickSump_keeps ..)
  · exact (KeepsContexts.ite (.refl s) (modStack_keeps ..)).trans (kickSump_keeps ..)

theorem refreshBp_keeps (s : State) (e : Bounce) : KeepsContexts s (refreshBp s e) := by
  unfold refreshBp
  split
  · exact .ite (.refl s) (setDir_keeps ..)
  · exact .refl s

theorem mapBounce_keeps (n : Fin 8) (f : Bounce → Bounce) (s : State) : KeepsContexts s (mapBounce n f s) := by
  refine .ite (.refl s) ?_
  refine (KeepsContexts.trans ?_ (modStack_keeps ..)).trans (.foldl refreshBp_keeps _ _)
  exact .foldl (fun s e => .ite (.refl s) (committedStore_keeps ..)) _ s

theorem strikeBy_keeps (hit : Fin 8 → Bounce → Nat → Bool) (s : State) : KeepsContexts s (strikeBy hit s) :=
  .ite (.refl s) (.foldl (fun _ _ => mapBounce_keeps ..) _ s)

/-! ### Translation -/

theorem translate_keeps (a : Acc) (k : Kind) (va : Nat) (s : State) : KeepsContexts s (translate a k va s).1 := by
  unfold translate
  dsimp only
  split
  · exact .ite (.refl s) (modCluster_keeps ..)
  · split
    · exact .refl s
    · split
      · dsimp only
        refine (KeepsContexts.trans ?_ (modCluster_keeps ..)).trans (modStack_keeps ..)
        exact .ite (.refl s) ((strikeBy_keeps ..).trans (poke_keeps ..))
      · exact .refl s

/-! ### Stores -/

theorem sumpPut_keeps (n : Fin 8) (off : Nat) (bs : List Byte) (s : State) : KeepsContexts s (sumpPut n off bs s) := by
  have push (t : State) (op : Instr) (k : Nat) : KeepsContexts t { t with agenda := t.agenda ++ [{ op := op, arg := { die := n, num := k } }] } :=
    ⟨rfl, rfl, rfl, rfl, rfl, rfl, rfl⟩
  unfold sumpPut
  dsimp only
  split
  · refine KeepsContexts.trans (t := if _ then _ else _) ?_ (.ite (push ..) (.refl _))
    exact .ite (.ite (.refl s) (push ..)) (modStack_keeps ..)
  · exact .ite (.refl s) (modStack_keeps ..)
  · exact .ite (.refl s) (modStack_keeps ..)
  · exact modStack_keeps ..
  · exact modStack_keeps ..
  · exact modStack_keeps ..
  · exact modStack_keeps ..
  · exact modStack_keeps ..
  · exact push ..
  · exact push ..
  · exact .ite (push ..) (.refl s)
  · exact .refl s

theorem sumpFrom_keeps (n : Fin 8) (fuel off : Nat) (bs : List Byte) (s : State) : KeepsContexts s (sumpFrom n fuel off bs s) := by
  induction fuel generalizing off bs s with
  | zero => exact .refl s
  | succ fuel ih => exact .ite (.refl s) ((sumpPut_keeps ..).trans (ih ..))

/-- The state in which an access ends. -/
def Perf.state {α : Type} : Perf α → State
  | .ok s _ => s
  | .serviced s _ _ => s
  | .noSectors s _ => s
  | .failed s _ _ => s
  | .race s _ _ _ => s
  | .overflow s => s
  | .remote s _ => s

theorem versionStore_keeps (a : Acc) (key va : Nat) (bs : List Byte) (s : State) : KeepsContexts s (versionStore a key va bs s) := modTask_keeps ..

theorem strikeBounce_keeps (task : Nat) (asid : BitVec 16) (va key n : Nat) (s : State) : KeepsContexts s (strikeBounce task asid va key n s) :=
  strikeBy_keeps ..

/-- What is noted of a write to a line before its bytes are stored: the audit's, the race history's and the releases' part. -/
def writeNoted (a : Acc) (exempt hw plain : Bool) (key n : Nat) (s : State) : State :=
  let s := noteHostWrite a.task hw (if exempt || plain then s else touch s a (key / 64) true false)
  if exempt then s else forgetReleases (if plain then 0 else a.task) key n s

/-- The state with the bytes of a write to a line, in committed memory or in a version. -/
def writeStored (a : Acc) (plain : Bool) (va key : Nat) (bs : List Byte) (s : State) : State :=
  strikeBounce (if plain then 0 else a.task) a.asid va key bs.length (if plain then committedStore key bs s else versionStore a key va bs s)

theorem writeNoted_keeps (a : Acc) (exempt hw plain : Bool) (key n : Nat) (s : State) : KeepsContexts s (writeNoted a exempt hw plain key n s) := by
  have noted : KeepsContexts s (noteHostWrite a.task hw (if exempt || plain then s else touch s a (key / 64) true false)) :=
    (KeepsContexts.ite (.refl s) (touch_keeps ..)).trans (noteHostWrite_keeps ..)
  exact .ite noted (noted.trans (forgetReleases_keeps ..))

theorem writeStored_keeps (a : Acc) (plain : Bool) (va key : Nat) (bs : List Byte) (s : State) : KeepsContexts s (writeStored a plain va key bs s) := by
  have bytes : KeepsContexts s (if plain then committedStore key bs s else versionStore a key va bs s) :=
    .ite (committedStore_keeps ..) (versionStore_keeps ..)
  exact bytes.trans (strikeBounce_keeps ..)

theorem writeLine_keeps (a : Acc) (direct exempt : Bool) (va : Nat) (bs : List Byte) (s : State) :
    KeepsContexts s (writeLine a direct exempt va bs s).state := by
  have tr := translate_keeps a .write va s
  unfold writeLine
  split <;> rename_i e <;> rw [e] at tr
  · rw [apply_ite Perf.state]; exact .ite tr tr
  · rw [apply_ite Perf.state]; exact .ite tr tr
  · exact tr
  · exact tr
  · rename_i s1 key hw
    have noted := tr.trans (writeNoted_keeps a exempt hw (direct || hw || (taskOf s1 a.task).isNone) key bs.length s1)
    have stored := writeStored_keeps a (direct || hw || (taskOf s1 a.task).isNone) va key bs
      (writeNoted a exempt hw (direct || hw || (taskOf s1 a.task).isNone) key bs.length s1)
    dsimp only [writeNoted, writeStored] at noted stored ⊢
    rw [apply_ite Perf.state, apply_ite Perf.state]
    refine .ite tr (.ite tr ?_)
    split
    · exact tr.trans (sumpFrom_keeps ..)
    · split
      · exact tr
      · rw [apply_ite Perf.state]
        refine .ite tr ?_
        split
        · rw [apply_ite Perf.state]; exact .ite noted (noted.trans stored)
        · rename_i n page _
          have exp := noted.trans (expandFor_keeps a.unit n page stored)
          split <;> rename_i e <;> rw [e] at exp
          · exact exp.trans ((KeepsContexts.ite (recompute_keeps ..) (.refl _)).trans (l1gDropLine_keeps ..))
          · exact exp
        · exact (noted.trans stored).trans (l1gDropLine_keeps ..)

theorem writeLines_keeps (a : Acc) (direct exempt : Bool) (fuel va : Nat) (bs : List Byte) (s : State) :
    KeepsContexts s (writeLines a direct exempt fuel va bs s).state := by
  induction fuel generalizing va bs s with
  | zero => exact .refl s
  | succ fuel ih =>
    unfold writeLines
    dsimp only
    rw [apply_ite Perf.state]
    refine .ite (.refl s) ?_
    have line := writeLine_keeps a direct exempt va (bs.take (min bs.length (lineLeft va))) s
    split
    · rename_i e
      rw [e] at line
      exact line.trans (ih ..)
    · exact line

/-! ### Writes of the device itself -/

theorem sendMarked_keeps (bad : Bool) (a : Acc) (dev va : Nat) (bs : List Byte) (s : State) : KeepsContexts s (sendMarked bad a dev va bs s) :=
  modDev_keeps ..

theorem joinQueue_keeps (w : Owed) (s : State) : KeepsContexts s (joinQueue w s) := by
  unfold joinQueue
  dsimp only
  split
  · exact (modStack_keeps ..).trans (kickSump_keeps ..)
  · exact .refl s

/-- A write of the device through tables keeps the contexts, whether it is made, refused, sent away or owed. -/
theorem deviceWrite_keeps (use : OwedFor) (who : CtxId) (pt : Word) (asid : BitVec 16) (va : Nat) (bs : List Byte) (s : State) :
    KeepsContexts s (deviceWrite use who false pt asid va bs s) := by
  have owe (w : Owed) (t : State) : KeepsContexts t (modDev (bump t) fun d => { d with owed := d.owed ++ [w] }) :=
    (bump_keeps t).trans (modDev_keeps ..)
  unfold deviceWrite
  dsimp only
  refine .ite ((joinQueue_keeps ..).trans (owe ..)) ?_
  generalize hw : (⟨fresh s, who, use, false, pt, asid, va, bs⟩ : Owed) = w
  have wr : KeepsContexts s (deviceTry w s).state := by
    subst hw
    exact writeLines_keeps ..
  split <;> rename_i e <;> rw [e] at wr
  · exact wr.trans (owe ..)
  · exact wr.trans (owe ..)
  · exact wr.trans (sendMarked_keeps ..)
  · exact wr
  · exact wr
  · exact wr
  · exact wr

/-! ## What landing results leaves alone in a context (R52, R55) -/

/-- y stands where x stands: its state, place, task, request, regions and channels are those of x. -/
structure SamePlace (x y : Ctx) : Prop where
  run : y.run = x.run
  pc : y.pc = x.pc
  task : y.task = x.task
  preemptAt : y.preemptAt = x.preemptAt
  regions : y.regions = x.regions
  chans : y.chans = x.chans

namespace SamePlace

theorem refl (x : Ctx) : SamePlace x x := ⟨rfl, rfl, rfl, rfl, rfl, rfl⟩

theorem trans {x y z : Ctx} (h : SamePlace x y) (g : SamePlace y z) : SamePlace x z :=
  ⟨g.run.trans h.run, g.pc.trans h.pc, g.task.trans h.task, g.preemptAt.trans h.preemptAt, g.regions.trans h.regions, g.chans.trans h.chans⟩

end SamePlace

theorem applyVal_samePlace (x : Ctx) (r : RegName) (v : RegVal) : SamePlace x (applyVal x r v) := by
  unfold applyVal
  split
  -- s0, p0 and m0 ignore writes (R39)
  case h_1 | h_4 | h_7 => split <;> exact ⟨rfl, rfl, rfl, rfl, rfl, rfl⟩
  all_goals exact ⟨rfl, rfl, rfl, rfl, rfl, rfl⟩

theorem spoil_samePlace (s : State) (x : Ctx) (r : RegName) : SamePlace x (spoil s x r) := by
  cases r with
  | a r => exact ⟨rfl, rfl, rfl, rfl, rfl, rfl⟩
  | w r => exact (applyVal_samePlace x (.w r) (.wit (freeWit s (.w r)))).trans ⟨rfl, rfl, rfl, rfl, rfl, rfl⟩
  | s r | p r | b r | v r | m r =>
    simp only [spoil]
    exact applyVal_samePlace ..

theorem markWindows_samePlace {x y : Ctx} (h : SamePlace x y) (r : RegName) : SamePlace x (markWindows y r) := by
  cases r <;> exact h.trans ⟨rfl, rfl, rfl, rfl, rfl, rfl⟩

theorem applyLanding_samePlace (s : State) (x : Ctx) (l : Landing) : SamePlace x (applyLanding s x l) := by
  unfold applyLanding
  dsimp only
  split
  · exact .refl x
  · split
    · refine SamePlace.trans (markWindows_samePlace ?_ _) (spoil_samePlace ..)
      exact ⟨rfl, rfl, rfl, rfl, rfl, rfl⟩
    · refine SamePlace.trans (markWindows_samePlace ?_ _) (applyVal_samePlace ..)
      exact ⟨rfl, rfl, rfl, rfl, rfl, rfl⟩

theorem foldl_applyLanding_samePlace (s : State) (ls : List Landing) (x : Ctx) : SamePlace x (ls.foldl (applyLanding s) x) := by
  induction ls generalizing x with
  | nil => exact .refl x
  | cons l ls ih => exact (applyLanding_samePlace s x l).trans (ih _)

theorem drain_samePlace (s : State) (c : CtxId) (x : Ctx) : SamePlace x (drain s c x) :=
  (foldl_applyLanding_samePlace ..).trans ⟨rfl, rfl, rfl, rfl, rfl, rfl⟩

/-- Of a drained context each landing that has its value has been shown, and no other (R55). -/
theorem drain_shown (s : State) (c : CtxId) (x : Ctx) : ∀ l ∈ (drain s c x).lands, l.shown = l.ready := by
  intro l m
  obtain ⟨k, -, rfl⟩ := List.mem_map.1 m
  rfl

theorem closeShadows_samePlace (x : Ctx) : SamePlace x (closeShadows x) := ⟨rfl, rfl, rfl, rfl, rfl, rfl⟩

/-! ## The parts of a state -/

theorem clusterOf_congr {s t : State} (h : t.clusters = s.clusters) (g : Nat) : clusterOf t g = clusterOf s g := by
  simp [clusterOf, h]

theorem coreOf_congr {s t : State} (h : t.cores = s.cores) (k : Nat) : coreOf t k = coreOf s k := by simp [coreOf, h]

@[simp] theorem posting_postRecord (s : State) (g : Nat) (r : Record) :
    (clusterOf (postRecord s g r) g).posting = (clusterOf s g).posting ++ [r] := by
  simp [postRecord]

theorem getCtx_congr {s t : State} (hw : t.who = s.who) (hc : t.ctx = s.ctx) (hp : t.parked = s.parked) (c : CtxId) : getCtx t c = getCtx s c := by
  simp [getCtx, hw, hc, hp]

/-- A record that is no fault changes no task. -/
theorem postCtx_of_ne_three {kind : Nat} (h : kind ≠ 3) (s : State) (c : CtxId) (lo : Word) (a b : BitVec 8) :
    postCtx s c lo kind a b = postRecord s c.cluster ⟨lo, (getCtx s c).task, c.cluster, c.who, kind, a, b⟩ := by
  simp [postCtx, h]

theorem stackOf_congr {s t : State} (h : t.dies = s.dies) (m : Fin 8) : stackOf t m = stackOf s m := by simp [stackOf, h]

/-- A stack that the state lists is one of the eight. -/
theorem exists_stackOf {s : State} {st : Stack} (h : st ∈ s.dies.toList) : ∃ n, st = stackOf s n := by
  obtain ⟨i, hi, rfl⟩ := Vector.mem_iff_getElem.1 (Vector.mem_toList_iff.1 h)
  exact ⟨⟨i, hi⟩, rfl⟩

/-! ## Regions and the unit at rest -/

theorem foldl_stays {α β : Type} {f : β → α → β} {l : List α} {s : β} (h : ∀ a ∈ l, f s a = s) : l.foldl f s = s := by
  induction l with
  | nil => rfl
  | cons a l ih => rw [List.foldl_cons, h a List.mem_cons_self, ih fun b m => h b (List.mem_cons_of_mem _ m)]

theorem feed_idle {k : Nat} {s : State} (h : (coreOf s k).wback = []) : feed k s = s := by simp [feed, h, feedBack]

theorem backRegion_unset {c : CtxId} {rg : Nat} {s : State} (h : (getCtx s c).regions.toList.getD rg none = none) : backRegion c rg s = s := by
  unfold backRegion
  rw [h]

/-- A context without regions leaves none, and the core has nothing to feed (R197). -/
theorem leaveRegions_unset {drop : Bool} {c : CtxId} {s : State} (hr : ∀ k, (getCtx s c).regions.toList.getD k none = none)
    (hb : (coreOf s c.coreNo).wback = []) :
    leaveRegions drop c s = modCtx s c fun x =>
      { x with regions := if drop then Vector.replicate 16 none else x.regions.map fun r => r.map fun r => { r with filled := [], dirty := [] } } := by
  unfold leaveRegions
  rw [foldl_stays fun k _ => backRegion_unset (hr k)]
  exact feed_idle (by rwa [coreOf_congr (modCtx_cores ..)])

/-! ## Pre-emption at a safe point (R30, R156, R394, R399) -/

/-- c holds no region, and its core has none on the way to memory. -/
def RegionFree (s : State) (c : CtxId) : Prop :=
  (∀ k, (getCtx s c).regions.toList.getD k none = none) ∧ (coreOf s c.coreNo).wback = []

/-- t differs from s in contexts alone. -/
structure OnlyContexts (s t : State) : Prop where
  who : t.who = s.who
  cores : t.cores = s.cores
  mem : t.mem = s.mem
  spm : t.spm = s.spm
  rom : t.rom = s.rom

theorem OnlyContexts.trans {s t u : State} (h : OnlyContexts s t) (g : OnlyContexts t u) : OnlyContexts s u :=
  ⟨g.who.trans h.who, g.cores.trans h.cores, g.mem.trans h.mem, g.spm.trans h.spm, g.rom.trans h.rom⟩

theorem OnlyContexts.sameBytes {s t : State} (h : OnlyContexts s t) : SameBytes s t := fun a => by simp [h.mem, h.spm, h.rom]

theorem setCtx_onlyContexts (s : State) (c : CtxId) (x : Ctx) : OnlyContexts s (setCtx s c x) := ⟨by simp, by simp, by simp, by simp, by simp⟩

theorem modCtx_onlyContexts (s : State) (c : CtxId) (f : Ctx → Ctx) : OnlyContexts s (modCtx s c f) := setCtx_onlyContexts ..

/-- A request that its context takes: it drains and is then being saved, where it stands. -/
theorem beginSave_taken {s : State} {c : CtxId} (ha : isActive (getCtx s c).run = true) (hn : (getCtx s c).run ≠ .saving)
    (hp : (getCtx s c).preemptAt.isSome = true) (hf : RegionFree s c) :
    OnlyContexts s (beginSave c s) ∧ (∀ d, d ≠ c → getCtx (beginSave c s) d = getCtx s d) ∧ (getCtx (beginSave c s) c).run = .saving ∧
      (getCtx (beginSave c s) c).pc = (getCtx s c).pc ∧ ∀ l ∈ (getCtx (beginSave c s) c).lands, l.shown = l.ready := by
  obtain ⟨hr, hb⟩ := hf
  have place := drain_samePlace s c (getCtx s c)
  unfold beginSave
  rw [if_pos ⟨ha, hn, hp⟩]
  dsimp only
  generalize hy : ({ drain s c (getCtx s c) with run := .saving } : Ctx) = y
  have hrun : y.run = .saving := by rw [← hy]
  have hpc : y.pc = (getCtx s c).pc := by rw [← hy]; exact place.pc
  have hl : ∀ l ∈ y.lands, l.shown = l.ready := by subst hy; exact drain_shown s c (getCtx s c)
  have hreg : y.regions = (getCtx s c).regions := by rw [← hy]; exact place.regions
  split
  · exact ⟨setCtx_onlyContexts .., fun d h => getCtx_setCtx_other _ _ h, by simp [hrun], by simp [hpc], by simpa using hl⟩
  · rw [leaveRegions_unset (by simpa [hreg] using hr) (by rwa [coreOf_congr (setCtx_cores ..)])]
    refine ⟨(setCtx_onlyContexts ..).trans (modCtx_onlyContexts ..), fun d h => ?_, by simp [hrun], by simp [hpc], by simpa using hl⟩
    rw [getCtx_modCtx_other _ _ h, getCtx_setCtx_other _ _ h]

/-- The step by which one member takes the request t0, its own or its partner's. -/
def takeRequest (t0 : Nat) (s : State) (c : CtxId) : State := beginSave c (modCtx s c fun x => { x with preemptAt := some (x.preemptAt.getD t0) })

theorem takeRequest_saves {s : State} {c : CtxId} (t0 : Nat) (ha : isActive (getCtx s c).run = true) (hn : (getCtx s c).run ≠ .saving)
    (hf : RegionFree s c) :
    OnlyContexts s (takeRequest t0 s c) ∧ (∀ d, d ≠ c → getCtx (takeRequest t0 s c) d = getCtx s d) ∧
      (getCtx (takeRequest t0 s c) c).run = .saving ∧ (getCtx (takeRequest t0 s c) c).pc = (getCtx s c).pc ∧
      ∀ l ∈ (getCtx (takeRequest t0 s c) c).lands, l.shown = l.ready := by
  unfold takeRequest
  generalize hs : modCtx s c _ = s1
  have only : OnlyContexts s s1 := hs ▸ modCtx_onlyContexts ..
  have self : getCtx s1 c = { getCtx s c with preemptAt := some ((getCtx s c).preemptAt.getD t0) } := by rw [← hs]; simp
  have rest (d : CtxId) (h : d ≠ c) : getCtx s1 d = getCtx s d := by rw [← hs, getCtx_modCtx_other _ _ h]
  have free : RegionFree s1 c := ⟨by rw [self]; exact hf.1, by rw [coreOf_congr only.cores]; exact hf.2⟩
  obtain ⟨o, e, r, p, l⟩ := beginSave_taken (c := c) (s := s1) (by rw [self]; exact ha) (by rw [self]; exact hn) (by rw [self]; rfl) free
  exact ⟨only.trans o, fun d h => (e d h).trans (rest d h), r, by rw [p, self], l⟩

/-- Two members of a gang are two contexts: their cores differ in the lowest bit. -/
theorem gangMate_ne {s : State} {c d : CtxId} (h : gangMate s c = some d) : d ≠ c := by
  unfold gangMate at h
  split at h
  · rename_i k x
    dsimp only at h
    split at h
    · obtain rfl := Option.some.inj h
      intro e
      have val : (Nat.xor k.val 1) % 384 = k.val := congrArg Fin.val (CtxId.user.inj e).1
      have parity : (Nat.xor k.val 1) % 2 = (k.val + 1) % 2 := Nat.xor_mod_two_eq
      omega
    · cases h
  · cases h

theorem execPreemption_skip {s : State} (h : atSafePoint s s.input.ctx = false) : exec .preemption s = .next s := by
  show execPreemption s = _
  simp [execPreemption, h]

theorem execPreemption_at {s : State} (h : atSafePoint s s.input.ctx = true) : exec .preemption s = .next (beginSaves s.input.ctx s) := by
  show execPreemption s = _
  simp [execPreemption, h]

theorem beginSaves_unasked {s : State} {c : CtxId} (h : saveAsked s c = none) : beginSaves c s = s := by simp [beginSaves, h]

theorem beginSaves_asked {s : State} {c : CtxId} {t0 : Nat} (h : saveAsked s c = some t0) :
    beginSaves c s = (c :: (gangMate s c).toList).foldl (takeRequest t0) s := by
  simp only [beginSaves, h]
  rfl

/-- Without a partner the request is the context's own. -/
theorem saveAsked_alone {s : State} {c : CtxId} (h : gangMate s c = none) : saveAsked s c = (getCtx s c).preemptAt := by
  simp [saveAsked, h]

/-- With a partner the request is that of either, while the partner can be saved (R399). -/
theorem saveAsked_gang {s : State} {c d : CtxId} (h : gangMate s c = some d) :
    saveAsked s c = if isActive (getCtx s d).run ∧ (getCtx s d).run ≠ .saving ∧ (getCtx s d).saveAt ≠ 0 then
      (getCtx s c).preemptAt.or (getCtx s d).preemptAt else none := by
  cases hc : (getCtx s c).preemptAt <;> cases hd : (getCtx s d).preemptAt <;> simp [saveAsked, h, hc, hd, and_assoc]

theorem preemption_header {s : State} {h : Header} (hh : headerOf s s.input.ctx = some h) (hs : h.sp = false) : atSafePoint s s.input.ctx = false := by
  simp [atSafePoint, hh, hs]

/-! ## The save area (R394, R396) -/

/-- The save area goes into memory by writes of the device itself: its body, then the live ranges of the scratchpad. -/
def areaWritten (s : State) (c : CtxId) : State :=
  let x := closeShadows (drain s c (getCtx s c))
  let lx := headerLx s c
  let live := liveAt s c lx
  let body := areaBody x (windowTiles s c) (runOf s x.task) live.classes lx live.ranges.length false
  let w (off : Nat) (bs : List Byte) (s : State) : State := deviceWrite (.area c) c false x.ptbase x.asid (x.saveAt + off) bs s
  (rangePlaces live.ranges 0x43000).foldl (fun s e => w e.2.2 (spmRead s (spmKey (c.coreNo, x.soff + e.1)) e.2.1) s) (w 0 body (setCtx s c x))

theorem areaWritten_keeps (s : State) (c : CtxId) : KeepsContexts (setCtx s c (closeShadows (drain s c (getCtx s c)))) (areaWritten s c) := by
  unfold areaWritten
  exact (deviceWrite_keeps ..).trans (.foldl (fun _ _ => deviceWrite_keeps ..) _ _)

/-- The context while its area is written stands where it stood. -/
theorem areaWritten_samePlace (s : State) (c : CtxId) : SamePlace (getCtx s c) (getCtx (areaWritten s c) c) := by
  rw [(areaWritten_keeps s c).getCtx, getCtx_setCtx_self]
  exact (drain_samePlace ..).trans (closeShadows_samePlace _)

/-- Once nothing of the area is owed, the context is given back and its kind-6 record posted (R394, R396). -/
def saveEnded (c : CtxId) (x : Ctx) (s : State) : State :=
  modCtx (postCtx (modTask s x.task fun t => { t with away := t.away ++ [c.num], kept := Tbl.set t.kept (keptKey x) (keptOf x) }) c x.pc 6 0 0) c
    fun x => { x with run := .free, task := 0, chans := [], regions := Vector.replicate 16 none, preemptAt := none, late := [], lands := [], arriving := [] }

theorem execSaveAreaWrite_other {s : State} (h : (getCtx s s.input.ctx).run ≠ .saving) : exec .saveAreaWrite s = .next s := by
  show execSaveAreaWrite s = _
  simp [execSaveAreaWrite, h]

theorem execSaveAreaWrite_waits {s : State} (h : (getCtx s s.input.ctx).run = .saving) (hl : (getCtx s s.input.ctx).late = [])
    (hw : drained s s.input.ctx = false ∨ owes s (.area s.input.ctx) = true) : exec .saveAreaWrite s = .next s := by
  show execSaveAreaWrite s = _
  rcases hw with hw | hw <;> simp [execSaveAreaWrite, h, hl, hw]

theorem execSaveAreaWrite_writes {s : State} (h : (getCtx s s.input.ctx).run = .saving) (hl : (getCtx s s.input.ctx).late = [])
    (hd : drained s s.input.ctx = true) (ho : owes s (.area s.input.ctx) = false) :
    exec .saveAreaWrite s = .next (if owes (areaWritten s s.input.ctx) (.area s.input.ctx) then areaWritten s s.input.ctx else
      saveEnded s.input.ctx (closeShadows (drain s s.input.ctx (getCtx s s.input.ctx))) (areaWritten s s.input.ctx)) := by
  show execSaveAreaWrite s = _
  simp only [execSaveAreaWrite, h, hl, hd, ho, ne_eq, not_true_eq_false, ↓reduceIte, Bool.not_true, Bool.or_false, Bool.false_eq_true]
  rw [apply_ite Host.Outcome.next]
  rfl

theorem saveEnded_posts (c : CtxId) (x : Ctx) (s : State) :
    (clusterOf (saveEnded c x s) c.cluster).posting = (clusterOf s c.cluster).posting ++ [⟨x.pc, (getCtx s c).task, c.cluster, c.who, 6, 0, 0⟩] := by
  unfold saveEnded
  rw [clusterOf_congr (modCtx_clusters ..), postCtx_of_ne_three (by decide), posting_postRecord, getCtx_congr rfl rfl rfl]
  rfl

theorem saveEnded_self (c : CtxId) (x : Ctx) (s : State) : (getCtx (saveEnded c x s) c).run = .free ∧ (getCtx (saveEnded c x s) c).preemptAt = none := by
  simp [saveEnded]

theorem saveEnded_spm (c : CtxId) (x : Ctx) (s : State) : (saveEnded c x s).spm = s.spm := by
  simp [saveEnded, postCtx_of_ne_three]

theorem saveEnded_dev (c : CtxId) (x : Ctx) (s : State) : (saveEnded c x s).dev = s.dev := by
  simp [saveEnded, postCtx_of_ne_three]

theorem owes_congr {s t : State} (h : t.dev = s.dev) (use : OwedFor) : owes t use = owes s use := by simp [owes, h]

/-- SAVE_AREA_WRITE of a drained context (R394, R396; log 89). -/
theorem saveAreaWrite_drained {s : State} {c : CtxId} (hc : s.input.ctx = c) (h : (getCtx s c).run = .saving) (hl : (getCtx s c).late = [])
    (hd : drained s c = true) (ho : owes s (.area c) = false) :
    ∃ t, exec .saveAreaWrite s = .next t ∧ t.spm = s.spm ∧ (owes t (.area c) = true → (getCtx t c).run = .saving) ∧
      (owes t (.area c) = false → (getCtx t c).run = .free ∧ (getCtx t c).preemptAt = none ∧
        (clusterOf t c.cluster).posting.getLast? = some ⟨(getCtx s c).pc, (getCtx s c).task, c.cluster, c.who, 6, 0, 0⟩) := by
  subst hc
  have place := areaWritten_samePlace s s.input.ctx
  have spm : (areaWritten s s.input.ctx).spm = s.spm := by simpa using (areaWritten_keeps s s.input.ctx).spm
  refine ⟨_, execSaveAreaWrite_writes h hl hd ho, ?_⟩
  split
  · rename_i o
    exact ⟨spm, fun _ => place.run.trans h, fun f => absurd o (by simp [f])⟩
  · rename_i o
    refine ⟨by rw [saveEnded_spm, spm], fun t => absurd t (by rwa [owes_congr (saveEnded_dev ..)]), fun _ => ?_⟩
    obtain ⟨free, none⟩ := saveEnded_self s.input.ctx (closeShadows (drain s s.input.ctx (getCtx s s.input.ctx))) (areaWritten s s.input.ctx)
    refine ⟨free, none, ?_⟩
    rw [saveEnded_posts, List.getLast?_append, place.task]
    simp [((drain_samePlace s s.input.ctx _).trans (closeShadows_samePlace _)).pc]

/-! ## The end of a context by containment (R31, R32, R35, R395) -/

/-- No receive of these channels waits for its element. -/
def Unclaimed (s : State) (chans : List ChanBind) : Prop := ∀ b ∈ chans, ∀ ch, chanOf s b.chan = some ch → ch.claims = []

theorem closeChan_unclaimed {s : State} {n : Nat} (inbound : Bool) (h : ∀ ch, chanOf s n = some ch → ch.claims = []) :
    ∃ cs, closeChan n inbound s = { s with chans := cs } ∧
      ∀ m, (∀ ch, chanOf s m = some ch → ch.claims = []) → ∀ ch, Tbl.get? cs m = some ch → ch.claims = [] := by
  unfold closeChan
  split
  · exact ⟨s.chans, rfl, fun m k => k⟩
  · rename_i c e
    have none := h c e
    split
    · exact ⟨s.chans, rfl, fun m k => k⟩
    · simp only [none, List.drop_nil, List.foldl_nil, List.take_nil]
      refine ⟨_, rfl, fun m k ch g => ?_⟩
      by_cases q : m = n
      · subst q
        rw [tbl_get_set_self] at g
        obtain rfl := Option.some.inj g
        rfl
      · rw [tbl_get_set_other _ _ q] at g
        exact k ch g

theorem closeChans_unclaimed (closed : List CR) (l : List ChanBind) {s : State} (h : Unclaimed s l) :
    ∃ cs, l.foldl (fun s b => if closed.contains b.num then s else closeChan b.chan (!b.out) s) s = { s with chans := cs } := by
  induction l generalizing s with
  | nil => exact ⟨s.chans, rfl⟩
  | cons b l ih =>
    rw [List.foldl_cons]
    split
    · exact ih fun a m => h a (List.mem_cons_of_mem _ m)
    · obtain ⟨cs, e, k⟩ := closeChan_unclaimed (!b.out) (h b List.mem_cons_self)
      rw [e]
      obtain ⟨ds, g⟩ := ih (s := { s with chans := cs }) fun a m ch q => k a.chan (h a (List.mem_cons_of_mem _ m)) ch q
      exact ⟨ds, by rw [g]⟩

/-- Closing channels on which no claim waits changes the channels, and which of its own the context holds for closed. -/
theorem closeAll_unclaimed {s : State} {c : CtxId} (h : Unclaimed s (getCtx s c).chans) :
    ∃ cs, closeAll c s = modCtx { s with chans := cs } c fun x => { x with closed := x.chans.map (·.num) } := by
  obtain ⟨cs, e⟩ := closeChans_unclaimed (getCtx s c).closed (getCtx s c).chans h
  exact ⟨cs, by unfold closeAll; dsimp only; rw [e]⟩

/-- An operation that waits for no page, and of which nothing stands in a ring, is not declined (R413). -/
theorem declineCopy_flowing {g : Nat} {o : CopyOp} {s : State} (hw : o.waitsVa = none) (hb : ∀ m : Fin 8, (stackOf s m).bounce = []) :
    declineCopy g o s = s := by
  have off : bouncedOff s o = false := by
    refine List.any_eq_false.2 fun st m => ?_
    obtain ⟨n, rfl⟩ := exists_stackOf m
    simp [hb n]
  simp [declineCopy, hw, off]

theorem declineAll_flowing {c : CtxId} {s : State} (hw : ∀ o ∈ (clusterOf s c.cluster).copies ++ (clusterOf s c.cluster).gathers, o.waitsVa = none)
    (hb : ∀ m : Fin 8, (stackOf s m).bounce = []) : declineAll c s = s := by
  unfold declineAll
  exact foldl_stays fun o m => declineCopy_flowing (hw o (List.mem_filter.1 m).1) hb

/-- Contexts of the core that leave hold no region. -/
def LeaversBare (s : State) (core : Nat) : Prop :=
  ∀ e ∈ allCtx s, e.1.coreNo = core → e.2.run = .saving ∨ e.2.run = .retired → e.2.regions = Vector.replicate 16 none

theorem leaveSaving_bare {core : Nat} {s : State} (h : LeaversBare s core) : leaveSaving core s = s := by
  unfold leaveSaving
  refine foldl_stays fun e m => ?_
  dsimp only
  rw [if_neg]
  rintro ⟨k, leaves, -⟩
  have bare := h e m k
  rcases leaves with leaves | leaves <;> obtain ⟨run, any⟩ := Bool.and_eq_true_iff.1 leaves
  · simp [bare (.inl (by simpa using run))] at any
  · simp [bare (.inr (by simpa using run))] at any

/-- A core on which nothing waits has nothing to go over. -/
theorem pump_idle {core : Nat} {s : State} (hw : (coreOf s core).waits = []) (hb : (coreOf s core).wback = []) (hl : LeaversBare s core) :
    pump core s = modCore s core fun c => { c with waits := [] } := by
  unfold pump
  simp only [hw, pumpList]
  rw [feed_idle (by simpa using hb)]
  exact leaveSaving_bare hl

theorem mem_putCtx {l : List (CtxId × Ctx)} {c : CtxId} {x : Ctx} {e : CtxId × Ctx} (h : e ∈ putCtx l c x) : e = (c, x) ∨ e ∈ l := by
  induction l with
  | nil => exact .inl (List.mem_singleton.1 h)
  | cons k l ih =>
    unfold putCtx at h
    split at h
    · rcases List.mem_cons.1 h with h | h
      · exact .inl h
      · exact .inr (List.mem_cons_of_mem _ h)
    · rcases List.mem_cons.1 h with h | h
      · exact .inr (h ▸ List.mem_cons_self)
      · exact (ih h).imp id (List.mem_cons_of_mem _)

theorem mem_allCtx_setCtx {s : State} {c : CtxId} {x : Ctx} {e : CtxId × Ctx} (h : e ∈ allCtx (setCtx s c x)) : e = (c, x) ∨ e ∈ allCtx s := by
  unfold allCtx setCtx at *
  split at h
  · rename_i g
    rcases List.mem_cons.1 h with h | h
    · exact .inl (g ▸ h)
    · exact .inr (List.mem_cons_of_mem _ h)
  · rcases List.mem_cons.1 h with h | h
    · exact .inr (h ▸ List.mem_cons_self)
    · obtain ⟨m, n⟩ := List.mem_filter.1 h
      exact (mem_putCtx m).imp id fun m => List.mem_cons_of_mem _ (List.mem_filter.2 ⟨m, n⟩)

theorem LeaversBare.congr {s t : State} {core : Nat} (h : LeaversBare s core) (hw : t.who = s.who) (hc : t.ctx = s.ctx) (hp : t.parked = s.parked) :
    LeaversBare t core := by
  unfold LeaversBare allCtx at *
  rwa [hw, hc, hp]

/-- A context that neither is being saved nor has retired leaves no region. -/
theorem LeaversBare.modCtx {s : State} {core : Nat} (h : LeaversBare s core) {c : CtxId} {f : Ctx → Ctx}
    (hs : (f (getCtx s c)).run ≠ .saving) (hr : (f (getCtx s c)).run ≠ .retired) : LeaversBare (modCtx s c f) core := by
  intro e m k leaves
  rcases mem_allCtx_setCtx m with rfl | m
  · exact absurd leaves (not_or.2 ⟨hs, hr⟩)
  · exact h e m k leaves

/-- A unit that is released while nothing waits has nothing to make (R182, R194). -/
theorem releaseUnit_idle {core : Nat} {s : State} (hh : (coreOf s core).held.isSome = true) (hw : (coreOf s core).waits = [])
    (hb : (coreOf s core).wback = []) (hl : LeaversBare s core) :
    releaseUnit core s = modCore (modCore s core fun c => { c with held := none }) core fun c => { c with waits := [] } := by
  obtain ⟨h, e⟩ := Option.isSome_iff_exists.1 hh
  have fill : fillGranule core (modCore s core fun c => { c with held := none }) = modCore s core fun c => { c with held := none } := by
    simp [fillGranule, fillWanted, hw]
  unfold releaseUnit
  simp only [e, fill, ite_self, coreOf_modCore_self, Option.isSome_none, Bool.false_eq_true, ↓reduceIte]
  exact pump_idle (by simpa using hw) (by simpa using hb) (hl.congr rfl rfl rfl)

/-- A context that ends on a core at rest leaves nothing but its core's units changed. -/
theorem dropAccesses_idle {c : CtxId} {s : State} (hw : (coreOf s c.coreNo).waits = []) (hb : (coreOf s c.coreNo).wback = [])
    (hl : LeaversBare s c.coreNo) : ∃ cs, dropAccesses c s = { s with cores := cs } := by
  unfold dropAccesses
  dsimp only
  generalize hu : modCore s c.coreNo (fun u => { u with waits := u.waits.filter fun w => w.ctx ≠ c }) = u
  have waits : (coreOf u c.coreNo).waits = [] := by subst hu; simp [hw]
  have wback : (coreOf u c.coreNo).wback = [] := by subst hu; simpa using hb
  have bare : LeaversBare u c.coreNo := by subst hu; exact hl.congr rfl rfl rfl
  split
  · rename_i g
    have held : (coreOf u c.coreNo).held.isSome = true := by
      cases e : (coreOf u c.coreNo).held with
      | none => rw [e] at g; cases g
      | some => rfl
    rw [releaseUnit_idle held waits wback bare, ← hu]
    exact ⟨_, rfl⟩
  · rw [pump_idle waits wback bare, ← hu]
    exact ⟨_, rfl⟩

/-- The time, the memories, and every unit of a core, a cluster or a stack are in t what they are in s. -/
structure KeepsUnits (s t : State) : Prop where
  now : t.now = s.now
  mem : t.mem = s.mem
  spm : t.spm = s.spm
  rom : t.rom = s.rom
  cores : t.cores = s.cores
  clusters : t.clusters = s.clusters
  dies : t.dies = s.dies

theorem KeepsUnits.trans {s t u : State} (h : KeepsUnits s t) (g : KeepsUnits t u) : KeepsUnits s u :=
  ⟨g.now.trans h.now, g.mem.trans h.mem, g.spm.trans h.spm, g.rom.trans h.rom, g.cores.trans h.cores, g.clusters.trans h.clusters,
    g.dies.trans h.dies⟩

theorem modCtx_keepsUnits (s : State) (c : CtxId) (f : Ctx → Ctx) : KeepsUnits s (modCtx s c f) := by constructor <;> simp

/-- A context whose channels no claim waits on leaves them and its barriers at once. -/
theorem leaves_unclaimed {s : State} {c : CtxId} (h : Unclaimed s (getCtx s c).chans) :
    let t := leaveBarriers c (closeAll c s)
    KeepsUnits s t ∧ getCtx t c = { getCtx s c with closed := (getCtx s c).chans.map (·.num) } ∧
      ((getCtx s c).run ≠ .saving → (getCtx s c).run ≠ .retired → ∀ k, LeaversBare s k → LeaversBare t k) := by
  obtain ⟨cs, e⟩ := closeAll_unclaimed h
  dsimp only
  rw [e]
  refine ⟨?_, (getCtx_modCtx_self ..), fun hs hr k bare => ?_⟩
  · exact .trans (t := { s with chans := cs }) ⟨rfl, rfl, rfl, rfl, rfl, rfl, rfl⟩
      ((modCtx_keepsUnits ..).trans ⟨rfl, rfl, rfl, rfl, rfl, rfl, rfl⟩)
  · have opened : LeaversBare { s with chans := cs } k := bare.congr rfl rfl rfl
    exact (opened.modCtx (f := fun x => { x with closed := x.chans.map (·.num) }) hs hr).congr rfl rfl rfl

/-- A context that runs or has stopped ends while its core is at rest: it alone ends, and its kind-4 record is posted (R31, R32, R360). -/
theorem killCtx_quiet {s : State} {c : CtxId} (b : BitVec 8 × BitVec 8)
    (hr : (isActive (getCtx s c).run = true ∧ (getCtx s c).run ≠ .saving) ∨ (getCtx s c).run = .stopped)
    (hw : (coreOf s c.coreNo).waits = []) (hb : (coreOf s c.coreNo).wback = []) (hu : Unclaimed s (getCtx s c).chans)
    (ho : ∀ o ∈ (clusterOf s c.cluster).copies ++ (clusterOf s c.cluster).gathers, o.waitsVa = none) (hd : ∀ m : Fin 8, (stackOf s m).bounce = [])
    (hl : LeaversBare s c.coreNo) :
    let t := killCtx c (some b) s
    t.now = s.now ∧ (getCtx t c).run = .ended ∧ SameBytes s t ∧
      (clusterOf t c.cluster).posting = (clusterOf s c.cluster).posting ++ [⟨(getCtx s c).pc, (getCtx s c).task, c.cluster, c.who, 4, b.1, b.2⟩] := by
  have goes : (isActive (getCtx s c).run || (getCtx s c).run == .stopped) = true := by
    rcases hr with ⟨h, -⟩ | h <;> simp [h]
  have calm : (getCtx s c).run ≠ .saving ∧ (getCtx s c).run ≠ .retired := by
    rcases hr with ⟨h, n⟩ | h
    · exact ⟨n, fun e => by simp [e, isActive] at h⟩
    · simp [h]
  obtain ⟨units, self, bare⟩ := leaves_unclaimed hu
  dsimp only
  unfold killCtx
  simp only [goes, ↓reduceIte]
  generalize leaveBarriers c (closeAll c s) = v at units self bare ⊢
  generalize hk : modCtx v c _ = k
  have ended : (getCtx k c).run = .ended ∧ (getCtx k c).task = (getCtx s c).task := by subst hk; simp [self]
  have kept : KeepsUnits s k := by subst hk; exact units.trans (modCtx_keepsUnits ..)
  have bareK : LeaversBare k c.coreNo := by
    subst hk
    exact (bare calm.1 calm.2 _ hl).modCtx (by simp) (by simp)
  rw [declineAll_flowing (by rwa [clusterOf_congr kept.clusters]) (fun m => by rw [stackOf_congr kept.dies]; exact hd m)]
  obtain ⟨us, dropped⟩ := dropAccesses_idle (c := c) (by rwa [coreOf_congr kept.cores]) (by rwa [coreOf_congr kept.cores]) bareK
  have same : getCtx { k with cores := us } c = getCtx k c := rfl
  rw [dropped, postCtx_of_ne_three (by decide), same, ended.2]
  refine ⟨kept.now, ended.1, fun a => by simp [kept.mem, kept.spm, kept.rom], ?_⟩
  rw [posting_postRecord]
  simp [clusterOf, kept.clusters]

/-- PREEMPTION_LIMIT where no request stands, none has a limit, or the context is being saved (R395). -/
theorem execPreemptionLimit_other {s : State}
    (h : (getCtx s s.input.ctx).preemptAt = none ∨ s.dev.preempt = 0 ∨ (getCtx s s.input.ctx).run = .saving) : exec .preemptionLimit s = .next s := by
  show execPreemptionLimit s = _
  unfold execPreemptionLimit
  dsimp only
  split
  · rename_i t0 e
    rw [if_pos]
    rcases h with h | h | h
    · rw [h] at e; cases e
    · exact .inl h
    · exact .inr (.inl h)
  · rfl

theorem execPreemptionLimit_met {s : State} {t0 : Nat} (h : (getCtx s s.input.ctx).preemptAt = some t0) (hp : s.dev.preempt ≠ 0)
    (hr : isActive (getCtx s s.input.ctx).run = true ∧ (getCtx s s.input.ctx).run ≠ .saving ∨ (getCtx s s.input.ctx).run = .stopped) :
    exec .preemptionLimit s = .next (killCtx s.input.ctx (some (0, 1)) (reach (t0 + s.dev.preempt) s)) := by
  show execPreemptionLimit s = _
  simp only [execPreemptionLimit, h]
  rw [if_neg]
  rcases hr with ⟨a, n⟩ | a <;> simp [a, hp]
  exact n

/-- Settles O52: a request is taken at a safe point by the members of a gang that can be saved (`takeRequest_saves`), the drained context is
given back once its area is written (`saveAreaWrite_drained`), and a request past its limit ends its context (`killCtx_quiet`). -/
theorem preemptionSteps : Obligations.PreemptionSteps := by
  intro s h t0 d c x asks plain
  refine ⟨fun hh sp => execPreemption_skip (preemption_header hh sp), execPreemption_skip, ?alone, ?gang, execSaveAreaWrite_other, execSaveAreaWrite_waits,
    saveAreaWrite_drained rfl, execPreemptionLimit_other, ?limit⟩
  case alone =>
    intro at_ mate ⟨active, calm⟩ request free
    have asked : saveAsked s c = some t0 := (saveAsked_alone mate).trans request
    obtain ⟨only, -, run, pc, shown⟩ := takeRequest_saves t0 active calm free
    refine ⟨takeRequest t0 s c, ?_, run, pc, shown, only.sameBytes⟩
    rw [execPreemption_at at_, beginSaves_asked asked, mate]
    rfl
  case gang =>
    intro at_ mate
    have asked := saveAsked_gang mate
    refine ⟨fun cannot => ?_, fun ⟨active, calm⟩ ⟨active', calm'⟩ area request free free' => ?_⟩
    · rw [execPreemption_at at_, beginSaves_unasked]
      rw [asked]
      split
      · rename_i able
        rcases cannot with cannot | cannot | ⟨mine, its⟩
        · exact absurd ⟨able.1, able.2.1⟩ cannot
        · exact absurd cannot able.2.2
        · rw [mine, its]; rfl
      · rfl
    · rw [if_pos ⟨active', calm', area⟩] at asked
      obtain ⟨t1, since⟩ : ∃ t1, saveAsked s c = some t1 := by
        rw [asked]
        rcases request with request | request
        · exact ⟨t0, by rw [request]; rfl⟩
        · cases (getCtx s c).preemptAt <;> simp [request]
      have ne := gangMate_ne mate
      obtain ⟨only, others, run, -, -⟩ := takeRequest_saves t1 active calm free
      have its := others d ne
      obtain ⟨only', others', run', -, -⟩ := takeRequest_saves (s := takeRequest t1 s c) (c := d) t1 (by rwa [its]) (by rwa [its])
        ⟨by rw [its]; exact free'.1, by rw [coreOf_congr only.cores]; exact free'.2⟩
      refine ⟨takeRequest t1 (takeRequest t1 s c) d, ?_, (others' c ne.symm ▸ run), run', (only.trans only').sameBytes⟩
      rw [execPreemption_at at_, beginSaves_asked since, mate]
      rfl
  case limit =>
    intro request limited user run waits wback unclaimed flowing rings bare
    obtain ⟨now, ended, bytes, posted⟩ := killCtx_quiet (s := reach (t0 + s.dev.preempt) s) (c := c) (0, 1) run waits wback unclaimed flowing rings bare
    exact ⟨_, execPreemptionLimit_met request limited run, by rw [now]; exact Nat.le_max_right .., ended, bytes, posted⟩

/-! ## Privilege and tasks -/

/-- A control core in supervisor mode may run what control cores run (R356). -/
theorem needPriv_ctl {r : Runs} {s : State} {g : Fin 96} (hw : s.who = .ctl g) (hm : getBit s.ctx.status stMODE = true) (hr : r ≠ .system)
    (k : State → Res) : needPriv r s k = k s := by
  cases r <;> simp_all [needPriv, supervisor]

theorem taskOf_filter_self (s : State) (id : Nat) : taskOf { s with tasks := s.tasks.filter fun u => u.id ≠ id } id = none := by
  refine List.find?_eq_none.2 fun t m => ?_
  simpa using (List.mem_filter.1 m).2

/-! ## Rings and queues at rest -/

/-- No engine write stands in a bounce ring, and no write waits for sectors. -/
def StacksIdle (s : State) : Prop := ∀ m : Fin 8, (stackOf s m).bounce = [] ∧ (stackOf s m).sump.waiting = []

theorem StacksIdle.congr {s t : State} (h : StacksIdle s) (e : t.dies = s.dies) : StacksIdle t := fun m => by
  rw [stackOf_congr e]; exact h m

theorem mapBounce_empty {n : Fin 8} {s : State} (h : (stackOf s n).bounce = []) (f : Bounce → Bounce) : mapBounce n f s = s := by
  simp [mapBounce, h]

theorem serveAll_idle {s : State} (h : StacksIdle s) : serveAll s = s := by
  unfold serveAll
  exact foldl_stays fun m _ => by simp [serveStack, (h m).2, serve]

theorem ringEntries_idle {α : Type} {s : State} {f : Bounce → Option α} {p : Bounce → Bool} (h : StacksIdle s) :
    (s.dies.toList.flatMap fun st => (st.bounce.filter p).filterMap f) = [] := by
  refine List.flatMap_eq_nil_iff.2 fun st m => ?_
  obtain ⟨n, rfl⟩ := exists_stackOf m
  simp [(h n).1]

theorem recomputeKey_other {s : State} {key : Nat} (h : ∀ m p, placeOf s key ≠ .nominal m p) : recomputeKey s key = s := by
  unfold recomputeKey
  split
  · rename_i m p e; exact absurd e (h m p)
  · rfl

theorem placeOf_congr {s t : State} (h : t.dies = s.dies) (key : Nat) : placeOf t key = placeOf s key := by
  simp only [placeOf, stackOf_congr h]

/-! ## Dropping a version, ending a run (R317, R384) -/

/-- A task without a version. -/
def unversioned (t : Task) : Task := { t with version := [], lines := [], writers := [], vpoison := [], touches := [], reads := [] }

/-- The state in which a task has lost its version, and the releases that stood there. -/
def withoutVersion (id : Nat) (s : State) : State :=
  { modTask s id unversioned with releases := s.releases.filter fun r => r.home ≠ id ∨ id = 0 }

/-- A version that holds no byte of a compressed page, dropped while no ring holds an entry: the task loses it, and its releases go. -/
theorem dropVersion_plain {s : State} {id : Nat} {t : Task} (ht : taskOf s id = some t) (hs : StacksIdle s)
    (hv : ∀ b ∈ t.version, ∀ m p, placeOf s b.1 ≠ .nominal m p) :
    dropVersion id s = withoutVersion id s := by
  generalize hd : withoutVersion id s = d
  have dies : d.dies = s.dies := by rw [← hd]; rfl
  have rings : ∀ f : Fin 8 → Bounce → Bounce, (List.finRange 8).foldl (fun s n => mapBounce n (f n) s) d = d := fun f =>
    foldl_stays fun n _ => mapBounce_empty ((hs.congr dies) n).1 _
  have pages : (t.version.map (·.1)).foldl recomputeKey d = d := by
    refine foldl_stays fun key m => recomputeKey_other fun n p => ?_
    obtain ⟨b, hb, rfl⟩ := List.mem_map.1 m
    rw [placeOf_congr dies]
    exact hv b hb n p
  unfold dropVersion
  rw [ht]
  dsimp only
  rw [ringEntries_idle hs, List.append_nil]
  calc _ = (t.version.map (·.1)).foldl recomputeKey ((List.finRange 8).foldl (fun s n => mapBounce n (fun e =>
        if decide (e.task = id) && !e.committed then { e with valid := false } else e) s) d) := by rw [← hd]; rfl
    _ = d := by rw [rings fun _ => _, pages]

theorem clearRun_unstarted {s : State} {id : Nat} (h : taskCtxs s id = []) (post : Option (BitVec 8 × BitVec 8)) : clearRun id post s = dropChans id s := by
  simp [clearRun, h]

theorem dropReplays_none {s : State} {id : Nat} (h : ∀ k, 0 < k → taskOf s (replayId id k) = none) : dropReplays id s = s := by
  have drop (k : Nat) (hk : 0 < k) : dropReplay id k s = s := by simp [dropReplay, h k hk]
  rw [dropReplays, drop 1 (by decide), drop 2 (by decide)]

theorem replayId_ne {id k : Nat} (h : 0 < k) : replayId id k ≠ id := by
  unfold replayId
  omega

/-- A task as its re-run finds it in the queue (R36, R386). -/
def queuedAgain (now pri : Nat) (t : Task) : Task :=
  { t with phase := .queued, pri := pri, waitFrom := now, blocking := false, runs := (t.runs + 1) % 65536, retries := t.retries + 1, doomed := false
           dropped := false, fault := none, kept := [], gone := [], error := none, barriers := [], away := [], moved := [], audit := .none
           retained := [], times := [] }

/-- The state in which a task that no context had started is in its queue again. -/
def requeued (id pri : Nat) (s : State) : State := modTask (dropChans id (withoutVersion id s)) id (queuedAgain s.now pri)

/-- A dispatched task whose slots, but those that have ended in w, end where they are (log 59). -/
def slotsGone (w : State) (t : Task) : Task := { t with gone := ((placesOf t).filter fun c => !endedFor w t c).map CtxId.num }

/-- A task that ends with its error bit set: its earlier cause stands, else this one (R35). -/
def erring (code : BitVec 8) (t : Task) : Task := { t with doomed := true, error := some (t.error.getD code) }

/-- A task whose version is gone, with nothing left to audit. -/
def unaudited (t : Task) : Task := { t with dropped := true, audit := .none, retained := [] }

/-- The state in which a kill leaves a dispatched task that no context had started. -/
def killed (id : Nat) (code : BitVec 8) (s : State) : State :=
  modTask (modTask (modTask (withoutVersion id s) id (slotsGone (withoutVersion id s))) id (erring code)) id unaudited

theorem requeued_dies (id pri : Nat) (s : State) : (requeued id pri s).dies = s.dies := by simp [requeued, dropChans, withoutVersion]

theorem requeued_ctx (id pri : Nat) (s : State) : (requeued id pri s).ctx = s.ctx := by simp [requeued, dropChans, withoutVersion]

theorem killed_dies (id : Nat) (code : BitVec 8) (s : State) : (killed id code s).dies = s.dies := by simp [killed, withoutVersion]

theorem requeued_sameBytes (id pri : Nat) (s : State) : SameBytes s (requeued id pri s) := fun a => by simp [requeued, dropChans, withoutVersion]

theorem killed_sameBytes (id : Nat) (code : BitVec 8) (s : State) : SameBytes s (killed id code s) := fun a => by simp [killed, withoutVersion]

theorem taskOf_withoutVersion {s : State} {id : Nat} {t : Task} (ht : taskOf s id = some t) : taskOf (withoutVersion id s) id = some (unversioned t) :=
  taskOf_modTask_self (f := unversioned) ht fun _ => rfl

theorem taskOf_requeued {s : State} {id : Nat} {t : Task} (ht : taskOf s id = some t) (pri : Nat) :
    taskOf (requeued id pri s) id = some (queuedAgain s.now pri (unversioned t)) :=
  taskOf_modTask_self (s := dropChans id (withoutVersion id s)) (f := queuedAgain s.now pri) (taskOf_withoutVersion ht) fun _ => rfl

theorem taskOf_killed {s : State} {id : Nat} {t : Task} (ht : taskOf s id = some t) (code : BitVec 8) :
    taskOf (killed id code s) id = some (unaudited (erring code (slotsGone (withoutVersion id s) (unversioned t)))) := by
  have gone := taskOf_modTask_self (f := slotsGone (withoutVersion id s)) (taskOf_withoutVersion ht) fun _ => rfl
  have erred := taskOf_modTask_self (f := erring code) gone fun _ => rfl
  exact taskOf_modTask_self (f := unaudited) erred fun _ => rfl

section Unstarted

variable {s : State} {id : Nat} {t : Task} (ht : taskOf s id = some t) (hr : ∀ k, 0 < k → taskOf s (replayId id k) = none) (hs : StacksIdle s)
  (hv : ∀ b ∈ t.version, ∀ m p, placeOf s b.1 ≠ .nominal m p) (hc : taskCtxs s id = [])
include ht hr hs hv hc

/-- The re-run of a task of which no context has started (R384; log 36). -/
theorem requeue_unstarted (pri : Nat) : serveAll (requeue id pri true s) = requeued id pri s := by
  have run : taskCtxs (withoutVersion id s) id = [] := hc
  have replays : ∀ k, 0 < k → taskOf (dropChans id (withoutVersion id s)) (replayId id k) = none := fun k hk =>
    (taskOf_modTask_other (f := unversioned) (replayId_ne hk) fun _ => rfl).trans (hr k hk)
  have back : requeue id pri true s = requeued id pri s := by
    unfold requeue
    rw [dropVersion_plain ht hs hv, clearRun_unstarted run, dropReplays_none replays]
    rfl
  rw [back]
  exact serveAll_idle (hs.congr (requeued_dies ..))

/-- The end of a dispatched task of which no context has started (R317, R384, R400; log 59). -/
theorem killTask_unstarted (hp : t.phase = .dispatched) : serveAll (killTask id s) = killed id (t.fault.getD 0x1E) s := by
  have replays : ∀ k, 0 < k → taskOf (modTask (withoutVersion id s) id (slotsGone (withoutVersion id s))) (replayId id k) = none := fun k hk => by
    rw [taskOf_modTask_other (f := slotsGone (withoutVersion id s)) (replayId_ne hk) fun _ => rfl]
    exact (taskOf_modTask_other (f := unversioned) (replayId_ne hk) fun _ => rfl).trans (hr k hk)
  have ended : killTask id s = killed id (t.fault.getD 0x1E) s := by
    unfold killTask
    rw [ht]
    dsimp only
    rw [hc, List.foldl_nil, dropVersion_plain ht hs hv, if_pos hp]
    exact congrArg (fun s => modTask (doom id (t.fault.getD 0x1E) s) id unaudited) (dropReplays_none replays)
  rw [ended]
  exact serveAll_idle (hs.congr (killed_dies ..))

end Unstarted

/-! ## TABORT (R36, R384, R386) -/

section Abort

variable {s : State} {x : SR} {id : Nat} (ready : Ready [.s x] [] s) (hid : (rdS s x).toNat % 2 ^ 32 = id)
include ready hid

theorem abortTask_unknown (ht : taskOf s id = none) (rerun : Bool) : abortTask rerun x s = trapAt 8 0x0C s.frame.parcel s := by
  subst hid
  rw [abortTask, guardRegs_ready ready]
  simp only [ht]
  rfl

theorem abortTask_queued {t : Task} (ht : taskOf s id = some t) (hp : t.phase = .queued) (rerun : Bool) :
    abortTask rerun x s = .next (if rerun then s else postTask { s with tasks := s.tasks.filter fun u => u.id ≠ id } s.who.cluster t 9 0x1E) := by
  subst hid
  rw [abortTask, guardRegs_ready ready]
  simp only [ht, hp]
  cases rerun <;> rfl

theorem abortTask_dispatched {t : Task} (ht : taskOf s id = some t) (hp : t.phase = .dispatched) (rerun : Bool) :
    abortTask rerun x s = .next (serveAll (if rerun ∧ t.retries < 3 then requeue id t.record.pri true s else killTask id s)) := by
  subst hid
  rw [abortTask, guardRegs_ready ready]
  simp only [ht, hp]
  split <;> rfl

end Abort

section Tabort

variable {s : State} {x : SR} {g : Fin 96} (hw : s.who = .ctl g) (hm : getBit s.ctx.status stMODE = true)
include hw hm

theorem tabortKill_reserved {k : Fin 4} (hk : 2 ≤ k.val) : exec (.tabortKill x k) s = trapAt 8 0x0C s.frame.parcel s := by
  show execTabortKill x k s = _
  rw [execTabortKill, needPriv_ctl hw hm (by decide), if_pos hk]
  rfl

theorem execTabortRerun_ctl : exec (.tabortRerun x) s = abortTask true x s := by
  show execTabortRerun x s = _
  rw [execTabortRerun, needPriv_ctl hw hm (by decide)]

theorem execTabortKill_ctl : exec (.tabortKill x 1) s = abortTask false x s := by
  show execTabortKill x 1 s = _
  rw [execTabortKill, needPriv_ctl hw hm (by decide)]
  rfl

variable {id : Nat} (ready : Ready [.s x] [] s) (hid : (rdS s x).toNat % 2 ^ 32 = id)
include ready hid

theorem tabort_unknown (ht : taskOf s id = none) :
    exec (.tabortRerun x) s = trapAt 8 0x0C s.frame.parcel s ∧ exec (.tabortKill x 1) s = trapAt 8 0x0C s.frame.parcel s := by
  rw [execTabortRerun_ctl hw hm, execTabortKill_ctl hw hm]
  exact ⟨abortTask_unknown ready hid ht true, abortTask_unknown ready hid ht false⟩

variable {t : Task} (ht : taskOf s id = some t)
include ht

theorem tabortRerun_queued (hp : t.phase = .queued) : exec (.tabortRerun x) s = .next s :=
  (execTabortRerun_ctl hw hm).trans (abortTask_queued ready hid ht hp true)

/-- A task that a kill takes from its queue is known no more, and its kind-9 record is posted (R384). -/
theorem tabortKill_queued (hp : t.phase = .queued) :
    ∃ u, exec (.tabortKill x 1) s = .next u ∧ taskOf u id = none ∧ u.ctx = s.ctx ∧ SameBytes s u ∧
      (clusterOf u g.val).posting = (clusterOf s g.val).posting ++ [⟨BitVec.ofNat 64 t.recAt, t.id, g.val, 0, 9, 0x1E, BitVec.ofNat 8 t.runs⟩] := by
  refine ⟨_, (execTabortKill_ctl hw hm).trans (abortTask_queued ready hid ht hp false), taskOf_filter_self s id, rfl, fun _ => ⟨rfl, rfl, rfl⟩, ?_⟩
  have here : s.who.cluster = g.val := by rw [hw]; rfl
  simp only [here, postTask]
  exact posting_postRecord ..

variable (hp : t.phase = .dispatched) (hr : ∀ k, 0 < k → taskOf s (replayId id k) = none) (hc : taskCtxs s id = []) (hs : StacksIdle s)
  (hv : ∀ b ∈ t.version, ∀ m p, placeOf s b.1 ≠ .nominal m p)
include hp hr hc hs hv

theorem tabortRerun_unstarted (few : t.retries < 3) : exec (.tabortRerun x) s = .next (requeued id t.record.pri s) := by
  rw [execTabortRerun_ctl hw hm, abortTask_dispatched ready hid ht hp, if_pos ⟨rfl, few⟩, requeue_unstarted ht hr hs hv hc]

theorem tabortKill_unstarted : exec (.tabortKill x 1) s = .next (killed id (t.fault.getD 0x1E) s) := by
  rw [execTabortKill_ctl hw hm, abortTask_dispatched ready hid ht hp, if_neg (fun h => Bool.false_ne_true h.1), killTask_unstarted ht hr hs hv hc hp]

end Tabort

/-! ## Numbers as bytes (R9) -/

theorem bytesOf_length (n x : Nat) : (bytesOf n x).length = n := by
  induction n generalizing x with
  | zero => rfl
  | succ n ih => simp [bytesOf, ih]

theorem bytesOf_getD {n i : Nat} (h : i < n) (x : Nat) : (bytesOf n x).getD i 0 = BitVec.ofNat 8 (x / 2 ^ (8 * i)) := by
  induction n generalizing i x with
  | zero => omega
  | succ n ih =>
    cases i with
    | zero => simp [bytesOf]
    | succ i =>
      rw [bytesOf, List.getD_cons_succ, ih (by omega), Nat.div_div_eq_div_mul]
      congr 2
      rw [Nat.mul_succ, Nat.pow_add, Nat.mul_comm]

/-- Byte i of a number is byte i % 8 of its 64-bit field i / 8. -/
theorem byte_of_field (x i : Nat) : BitVec.ofNat 8 (x / 2 ^ (8 * i)) = BitVec.ofNat 8 (x / 2 ^ (64 * (i / 8)) % 2 ^ 64 / 2 ^ (8 * (i % 8))) := by
  have at_ : 8 * i = 64 * (i / 8) + 8 * (i % 8) := by omega
  have low : i % 8 < 8 := Nat.mod_lt _ (by decide)
  have width : (2 : Nat) ^ 64 = 2 ^ (8 * (i % 8)) * 2 ^ (64 - 8 * (i % 8)) := by rw [← Nat.pow_add]; congr 1; omega
  apply BitVec.eq_of_toNat_eq
  rw [BitVec.toNat_ofNat, BitVec.toNat_ofNat]
  nth_rewrite 1 [at_]
  rw [Nat.pow_add, ← Nat.div_div_eq_div_mul, width, Nat.mod_mul_right_div_self, Nat.mod_mod_of_dvd]
  exact Nat.pow_dvd_pow 2 (by omega)

/-! ## Accesses to raw memory at its home (R190, R384, R401) -/

theorem placeOf_raw_lt {s : State} {key off : Nat} {m : Fin 8} (h : placeOf s key = .raw m off) : key < rawBase 8 := by
  unfold placeOf at h
  split at h
  · cases h
  · split at h
    · dsimp only at h
      split at h <;> cases h
    · split at h
      · rename_i r; exact r.2
      · split at h <;> cases h

theorem placeOf_sump_ge {s : State} {key off : Nat} {n : Fin 8} (h : placeOf s key = .sump n off) : sumpBase 0 ≤ key := by
  unfold placeOf at h
  split at h
  · cases h
  · split at h
    · dsimp only at h
      split at h <;> cases h
    · split at h
      · dsimp only at h
        split at h <;> cases h
      · split at h
        · rename_i r; exact r.1
        · cases h

/-- No register of Sump lies within 256 GiB past a raw byte. -/
theorem homeByte_past_raw {s : State} {key off i : Nat} {m : Fin 8} (h : placeOf s key = .raw m off) (hi : i < 2 ^ 38) :
    homeByte s (key + i) = s.mem.read (key + i) := by
  unfold homeByte
  split
  · rename_i n o e
    have lo := placeOf_raw_lt h
    have hi := placeOf_sump_ge e
    unfold rawBase at lo
    unfold sumpBase at hi
    omega
  · rfl

theorem ringsEmpty_of {s : State} (h : ∀ m : Fin 8, (stackOf s m).bounce = []) : ringsEmpty s = true := by
  refine List.all_eq_true.2 fun st m => ?_
  obtain ⟨n, rfl⟩ := exists_stackOf m
  simp [h n]

/-- What stands in w bytes of memory. -/
def blockAt (s : State) (key w : Nat) : Nat := natOf ((List.range w).map fun i => s.mem.read (key + i))

@[simp] theorem l1gDropLine_mem (s : State) (g key : Nat) : (l1gDropLine s g key).mem = s.mem := rfl

section Raw

variable {u : State} {a : Acc} {va key off w : Nat} {m : Fin 8} (hp : placeOf u key = .raw m off) (ho : homeOpen u a.who.stack (.raw m off) = true)
  (hk : key / 64 ∉ u.poison) (hb : ∀ q : Fin 8, (stackOf u q).bounce = [])
include hp ho hk hb

theorem homeLook_raw (hw : w < 2 ^ 38) : homeLook a va key w u = .ok (blockAt u key w) := by
  have seen : (List.range w).map (fun i => homeByte u (key + i)) = (List.range w).map fun i => u.mem.read (key + i) :=
    List.map_congr_left fun i m => homeByte_past_raw hp (Nat.lt_trans (List.mem_range.1 m) hw)
  simp [homeLook, bounced, ringsEmpty_of hb, hp, ho, hk, blockAt, Function.comp_def, seen]

/-- A read-modify-write in raw memory that writes whatever it finds (R190). -/
theorem homeRmw_raw {s : State} {k : Kind} {hw : Bool} (hlen : w < 2 ^ 38) (hx : translate a k va s = (u, .ok key hw)) (hc : k ≠ .claim) (f : Nat → Nat) :
    homeRmw a k va w (fun x => some (f x)) s =
      .ok (l1gDropLine (committedStore key (bytesOf w (f (blockAt u key w))) u) a.who.cluster key) (blockAt u key w, key) := by
  unfold homeRmw
  rw [hx]
  simp only [hp, homeLook_raw hp ho hk hb hlen, hc, ↓reduceIte, strikeBounce, strikeBy, ringsEmpty_of hb]

end Raw

/-! ## Job control blocks (R384, R385) -/

/-- The 64-bit field of a block. -/
def fieldOf (block i : Nat) : Nat := block / 2 ^ (64 * i) % 2 ^ 64

theorem jcbAdded_fields (v block i : Nat) (hi : i < 4) :
    fieldOf (jcbAdded v block) i = [fieldOf block 0 + v, fieldOf block 1, fieldOf block 2, fieldOf block 3].getD i 0 % 2 ^ 64 := by
  unfold fieldOf jcbAdded
  match i, hi with
  | 0, _ => simp
  | 1, _ => simp; omega
  | 2, _ => simp; omega
  | 3, _ => simp; omega

theorem jcbPosted_fields (v block i : Nat) (hi : i < 4) :
    fieldOf (jcbPosted v block) i =
      [fieldOf block 0, fieldOf block 1 + 1, fieldOf block 2 + v % 2, fieldOf block 3 ||| (v / 2 % 2)].getD i 0 % 2 ^ 64 := by
  have flags : bitsAt block 192 64 ||| v / 2 % 2 < 2 ^ 64 := Nat.or_lt_two_pow (Nat.mod_lt _ (by decide)) (by omega)
  match i, hi with
  | 0, _ => simp [fieldOf, jcbPosted, bitsAt]; omega
  | 1, _ => simp [fieldOf, jcbPosted, bitsAt]; omega
  | 2, _ => simp [fieldOf, jcbPosted, bitsAt]; omega
  | 3, _ =>
    show (_ + (bitsAt block 192 64 ||| v / 2 % 2) * 2 ^ 192) / 2 ^ (64 * 3) % 2 ^ 64 = (bitsAt block 192 64 ||| v / 2 % 2) % 2 ^ 64
    generalize bitsAt block 192 64 ||| v / 2 % 2 = flags at *
    omega

/-- A block in memory is made of these fields, and every byte beside it is what it was. -/
def HoldsBlock (u t : State) (key : Nat) (fields : List Nat) : Prop :=
  (∀ i, i < 32 → t.mem.read (key + i) = BitVec.ofNat 8 (fields.getD (i / 8) 0 % 2 ^ 64 / 2 ^ (8 * (i % 8)))) ∧
    ∀ k, (k < key ∨ key + 32 ≤ k) → t.mem.read k = u.mem.read k

theorem holdsBlock_written {u : State} (hm : u.mem.wf = true) {key block : Nat} {fields : List Nat}
    (h : ∀ i, i < 4 → fieldOf block i = fields.getD i 0 % 2 ^ 64) :
    HoldsBlock u (committedStore key (bytesOf 32 block) u) key fields := by
  refine ⟨fun i hi => ?_, fun k hk => ?_⟩ <;> rw [committedStore_mem, read_writeBytes hm, bytesOf_length]
  · rw [if_pos (by omega), Nat.add_sub_cancel_left, bytesOf_getD hi, byte_of_field]
    exact congrArg (fun x => BitVec.ofNat 8 (x / 2 ^ (8 * (i % 8)))) (h (i / 8) (by omega))
  · rw [if_neg (by omega)]

theorem publish_keeps (c : CtxId) (scope key n : Nat) (s : State) :
    (publish c scope key n s).mem = s.mem ∧ (publish c scope key n s).who = s.who ∧ (publish c scope key n s).spm = s.spm ∧
      (c = s.who → (publish c scope key n s).ctx.lands = s.ctx.lands) := by
  have put (ks : Tbl (List (Nat × Nat))) : putReleases c ks 0 key n s = { s with releases := (putReleases c ks 0 key n s).releases } := by
    unfold putReleases; split <;> rfl
  unfold publish
  dsimp only
  rw [put]
  refine ⟨by simp, by simp, by simp, ?_⟩
  rintro rfl
  simp [modCtx, setCtx, getCtx, clockTick]

theorem HoldsBlock.congr {u t v : State} {key : Nat} {fields : List Nat} (h : HoldsBlock u t key fields) (e : v.mem = t.mem) :
    HoldsBlock u v key fields := by
  unfold HoldsBlock at *
  rwa [e]

theorem globalCheck_misaligned {v : Word} {n : Nat} (hl : v.toNat < 2 ^ 56) (hm : v.toNat % n ≠ 0) : globalCheck n [v] = some (0x08, v) := by
  rw [globalCheck, if_neg (Nat.not_le.2 hl), if_pos hm]

theorem globalCheck_aligned {v : Word} {n : Nat} (hl : v.toNat < 2 ^ 56) (hm : v.toNat % n = 0) : globalCheck n [v] = none := by
  rw [globalCheck, if_neg (Nat.not_le.2 hl), if_neg (not_not.2 hm), globalCheck]

section Jcb

variable {s : State} {a : AR} {x : SR} (hr : Ready [.a a, .s x] [] s) (hl : (ea s a 0).toNat < 2 ^ 56)
include hr hl

theorem jcbUpdate_misaligned (hm : (ea s a 0).toNat % 32 ≠ 0) (f : Nat → Nat → Nat) (release : Bool) :
    jcbUpdate a x f release s = trapAt 12 0x08 (ea s a 0) s := by
  rw [jcbUpdate, guardRegs_ready hr]
  dsimp only
  rw [globalCheck_misaligned hl hm]

theorem jcbUpdate_held (hm : (ea s a 0).toNat % 32 = 0) (hw : releaseReady s s.who 6 = false) (f : Nat → Nat → Nat) :
    jcbUpdate a x f true s = stall s := by
  rw [jcbUpdate, guardRegs_ready hr]
  dsimp only
  rw [globalCheck_aligned hl hm]
  simp [hw]

/-- An update that waits for nothing puts what f makes of the block in its place, and publishes where it is a release (R384, R385). -/
theorem jcbUpdate_made {u : State} {key off : Nat} {hw : Bool} {m : Fin 8} {release : Bool} (hm : (ea s a 0).toNat % 32 = 0)
    (hrel : release = true → releaseReady s s.who 6 = true)
    (hx : translate (accOf s s.who) .write (ea s a 0).toNat s = (u, .ok key hw)) (hp : placeOf u key = .raw m off)
    (ho : homeOpen u s.who.stack (.raw m off) = true) (hk : key / 64 ∉ u.poison) (hb : ∀ q : Fin 8, (stackOf u q).bounce = [])
    (hmem : u.mem.wf = true) (f : Nat → Nat → Nat) {fields : List Nat}
    (hf : ∀ i, i < 4 → fieldOf (f (rdS s x).toNat (blockAt u key 32)) i = fields.getD i 0 % 2 ^ 64) :
    ∃ t, jcbUpdate a x f release s = .next t ∧ HoldsBlock u t key fields ∧ t.who = s.who ∧ t.spm = s.spm ∧ t.ctx.lands = s.ctx.lands := by
  have kept := translate_keeps (accOf s s.who) .write (ea s a 0).toNat s
  rw [hx] at kept
  have made := homeRmw_raw (a := accOf s s.who) (k := .write) (w := 32) hp ho hk hb (by decide) hx (by decide) (f (rdS s x).toNat)
  generalize e : l1gDropLine _ _ _ = w at made
  have block : HoldsBlock u w key fields := by rw [← e]; exact (holdsBlock_written hmem hf).congr (l1gDropLine_mem ..)
  have still : KeepsContexts s w := by rw [← e]; exact (kept.trans (committedStore_keeps ..)).trans (l1gDropLine_keeps ..)
  have lands : w.ctx.lands = s.ctx.lands := by rw [still.ctx]
  refine ⟨if release then publish w.who 6 key 32 w else w, ?_, ?_⟩
  · rw [jcbUpdate, guardRegs_ready hr]
    dsimp only
    rw [globalCheck_aligned hl hm]
    dsimp only
    rw [if_neg (fun h => by simp [hrel h.1] at h), made]
  · cases release
    · exact ⟨block, still.who, still.spm, lands⟩
    · obtain ⟨mem, who, spm, released⟩ := publish_keeps w.who 6 key 32 w
      exact ⟨block.congr mem, who.trans still.who, spm.trans still.spm, (released rfl).trans lands⟩

end Jcb

theorem execJcbadd_ctl {s : State} {g : Fin 96} (hw : s.who = .ctl g) (hm : getBit s.ctx.status stMODE = true) (a : AR) (x : SR) :
    exec (.jcbadd a x) s = jcbUpdate a x jcbAdded false s := by
  show execJcbadd a x s = _
  rw [execJcbadd, needPriv_ctl hw hm (by decide)]

theorem execJcbpost_ctl {s : State} {g : Fin 96} (hw : s.who = .ctl g) (hm : getBit s.ctx.status stMODE = true) (a : AR) (x : SR) :
    exec (.jcbpost a x) s = jcbUpdate a x jcbPosted true s := by
  show execJcbpost a x s = _
  rw [execJcbpost, needPriv_ctl hw hm (by decide)]

/-- Settles O44: TABORT by the state that each of its outcomes leaves (`requeued`, `killed`), the blocks by their 64-bit fields
(`jcbAdded_fields`, `jcbPosted_fields`). -/
theorem taskAbortsAndControlBlocks : Obligations.TaskAbortsAndControlBlocks := by
  refine ⟨?tabort, ?blocks⟩
  case tabort =>
    intro s x k g who mode id
    refine ⟨tabortKill_reserved who mode, fun ready => ⟨tabort_unknown who mode ready rfl, fun t ht replays => ⟨fun queued => ?_, ?_⟩⟩⟩
    · exact ⟨tabortRerun_queued who mode ready rfl ht queued, tabortKill_queued who mode ready rfl ht queued⟩
    · intro dispatched unstarted idle plain
      refine ⟨fun few => ⟨_, _, tabortRerun_unstarted who mode ready rfl ht dispatched replays unstarted idle plain few, taskOf_requeued ht _,
        rfl, rfl, rfl, rfl, rfl, rfl, requeued_sameBytes _ _ _, requeued_ctx ..⟩, ?_⟩
      exact ⟨_, _, tabortKill_unstarted who mode ready rfl ht dispatched replays unstarted idle plain, taskOf_killed ht _, rfl, rfl, rfl, dispatched,
        killed_sameBytes _ _ _⟩
  case blocks =>
    intro s u a x g key off hw m who mode addr old field v holds ready
    rw [execJcbadd_ctl who mode, execJcbpost_ctl who mode]
    refine ⟨fun misaligned low => ⟨jcbUpdate_misaligned ready low misaligned .., jcbUpdate_misaligned ready low misaligned ..⟩, ?_⟩
    intro aligned low mapped raw route clean rings mem
    refine ⟨?_, fun ordered => ?_, fun waits => jcbUpdate_held ready low aligned waits _⟩
    · obtain ⟨t, made, ⟨block, rest⟩, kept⟩ := jcbUpdate_made (release := false) ready low aligned nofun mapped raw route clean rings mem jcbAdded
        fun i hi => jcbAdded_fields v _ i hi
      exact ⟨t, made, block, rest, kept⟩
    · obtain ⟨t, made, ⟨block, rest⟩, kept⟩ := jcbUpdate_made ready low aligned (fun _ => ordered) mapped raw route clean rings mem jcbPosted
        fun i hi => jcbPosted_fields v _ i hi
      exact ⟨t, made, block, rest, kept⟩

end Sys2Proof.Machine

namespace Sys2Proof.Machine

/-! ## Registers before, inside and after a bound (R38, R39, R52, R54, R103, R104) -/

@[simp] theorem rdS_zero (s : State) : rdS s 0 = 0 := by simp [rdS]

@[simp] theorem rdP_zero (s : State) : rdP s 0 = true := by simp [rdP]

@[simp] theorem rdM_zero (s : State) : rdM s 0 = BitVec.allOnes 64 := by simp [rdM]

/-- The latest of d and the bounds of the landings that satisfy p is none of them earlier. -/
theorem le_foldl_due (p : Landing → Bool) (ls : List Landing) (d : Nat) :
    d ≤ ls.foldl (fun d l => if p l then max d l.due else d) d ∧
      ∀ k ∈ ls, p k = true → k.due ≤ ls.foldl (fun d l => if p l then max d l.due else d) d := by
  induction ls generalizing d with
  | nil => simp
  | cons l ls ih =>
    obtain ⟨start, rest⟩ := ih (if p l then max d l.due else d)
    rw [List.foldl_cons]
    refine ⟨le_trans ?_ start, fun k m h => ?_⟩
    · split
      · exact le_max_left ..
      · exact le_rfl
    · rcases List.mem_cons.1 m with rfl | m
      · rw [if_pos h] at start ⊢
        exact (le_max_right ..).trans start
      · exact rest k m h

/-- A write inside the bound of another write of its register, or by the same bundle, spoils every landing there, its own included. -/
theorem landWith_meets {r : RegName} (w : r.wired = false) (v : RegVal) (L : Nat) (d : Bool) (i : Nat) {s : State}
    (h : (exposed s r || written s r) = true) :
    (landWith r v L d i s).ctx.lands = s.ctx.lands.map (fun l => if l.reg == r then { l with spoiled := true } else l) ++
      [⟨r, v, s.ctx.sc, s.ctx.lands.foldl (fun d l => if l.reg == r then max d l.due else d) (s.ctx.sc + L), d, true, false, i, []⟩] := by
  simp [landWith, w, h]

/-- Overlapping writes leave the register unpredictable until the later of their bounds (R54, R104). -/
theorem land_meets {r : RegName} (w : r.wired = false) (v : RegVal) (L : Nat) {s : State} (h : exposed s r = true ∨ written s r = true) :
    (∀ l ∈ (land r v L s).ctx.lands, l.reg = r → l.spoiled = true) ∧
      ∃ l ∈ (land r v L s).ctx.lands, l.reg = r ∧ l.issued = s.ctx.sc ∧ s.ctx.sc + L ≤ l.due ∧ ∀ k ∈ s.ctx.lands, k.reg = r → k.due ≤ l.due := by
  obtain ⟨start, rest⟩ := le_foldl_due (fun l => l.reg == r) s.ctx.lands (s.ctx.sc + L)
  rw [land, landWith_meets w v L true 0 (by simpa using h)]
  refine ⟨fun l m e => ?_, _, List.mem_append.2 (.inr (List.mem_singleton.2 rfl)), rfl, rfl, start, fun k m e => rest k m (by simpa using e)⟩
  rcases List.mem_append.1 m with m | m
  · obtain ⟨k, -, rfl⟩ := List.mem_map.1 m
    split at e
    · simp [*]
    · rename_i n; exact absurd (by simpa using e) n
  · rw [List.mem_singleton.1 m]

section Fresh

variable {s : State} {r : RegName} (h : ∀ l ∈ s.ctx.lands, l.reg ≠ r)
include h

theorem exposed_of_not_landing : exposed s r = false :=
  List.any_eq_false.2 fun l m => by simp [h l m]

theorem written_of_not_landing : written s r = false :=
  List.any_eq_false.2 fun l m => by simp [h l m]

/-- The landing of a register that no other result is on its way to. -/
theorem land_fresh (w : r.wired = false) (v : RegVal) (L : Nat) :
    (land r v L s).ctx.lands = s.ctx.lands ++ [⟨r, v, s.ctx.sc, s.ctx.sc + L, true, false, false, 0, []⟩] :=
  landWith_lands w v L true 0 (exposed_of_not_landing h) (written_of_not_landing h)

end Fresh

/-- The state at schedule cycle c of the context on the port. -/
def atCycle (c : Nat) (s : State) : State := { s with ctx := { s.ctx with sc := c } }

theorem rdS_exposed {s : State} {d : SR} (hd : d ≠ 0) (h : exposed s (.s d) = true) : rdS s d = freeAt s (.s d) 0 := by
  simp [rdS, hd, h]

/-- The bundle that lands a result does not see it (R103). -/
theorem rdS_land_same (s : State) (d : SR) (v : RegVal) (L : Nat) : rdS (land (.s d) v L s) d = rdS s d := by
  have free : freeAt (land (.s d) v L s) (.s d) 0 = freeAt s (.s d) 0 := by simp [freeAt]
  have shown : exposed (land (.s d) v L s) (.s d) = exposed s (.s d) := exposed_landWith_self ..
  simp only [rdS, free, shown, land_ctx_s]

/-! ### What a landing writes -/

theorem applyVal_s_other {r : RegName} {d : SR} (h : r ≠ .s d) (x : Ctx) (v : RegVal) : (applyVal x r v).s[d.val] = x.s[d.val] := by
  unfold applyVal
  split
  case h_1 q y =>
    have other : q.val ≠ d.val := fun e => h (congrArg RegName.s (Fin.ext e))
    split
    · rfl
    · simp [Vector.getElem_set_ne, other]
  case h_4 | h_7 => split <;> rfl
  all_goals rfl

theorem spoil_s_other {r : RegName} {d : SR} (h : r ≠ .s d) (s : State) (x : Ctx) : (spoil s x r).s[d.val] = x.s[d.val] := by
  cases r with
  | a r => rfl
  | w r => exact applyVal_s_other h x _
  | s r | p r | b r | v r | m r =>
    simp only [spoil]
    exact applyVal_s_other h x _

@[simp] theorem markWindows_s (x : Ctx) (r : RegName) : (markWindows x r).s = x.s := by cases r <;> rfl

theorem applyLanding_s_other {l : Landing} {d : SR} (h : l.reg ≠ .s d) (s : State) (x : Ctx) : (applyLanding s x l).s[d.val] = x.s[d.val] := by
  unfold applyLanding
  dsimp only
  split
  · rfl
  · split
    · rw [spoil_s_other h]; simp
    · rw [applyVal_s_other h]; simp

/-- A result that no other write has met, and that no stop has landed before, is its register's value. -/
theorem applyLanding_s_self {l : Landing} {d : SR} {v : Word} (hd : d ≠ 0) (hr : l.reg = .s d) (hv : l.val = .word v) (hs : l.spoiled = false)
    (hn : l.shown = false) (s : State) (x : Ctx) : (applyLanding s x l).s[d.val] = v := by
  simp [applyLanding, hr, hv, hs, hn, applyVal, hd]

/-- Of results landed in turn, those of d being v all, d holds v in the end. -/
theorem foldl_applyLanding_s {ls : List Landing} {d : SR} {v : Word} (hd : d ≠ 0)
    (h : ∀ l ∈ ls, l.reg = .s d → l.val = .word v ∧ l.spoiled = false ∧ l.shown = false) (s : State) {x : Ctx}
    (e : x.s[d.val] = v ∨ ∃ l ∈ ls, l.reg = .s d) : (ls.foldl (applyLanding s) x).s[d.val] = v := by
  induction ls generalizing x with
  | nil => simpa using e
  | cons l ls ih =>
    refine ih (fun k m => h k (List.mem_cons_of_mem _ m)) ?_
    by_cases g : l.reg = .s d
    · obtain ⟨val, spoiled, shown⟩ := h l List.mem_cons_self g
      exact .inl (applyLanding_s_self hd g val spoiled shown s x)
    · rw [applyLanding_s_other g]
      refine e.imp id ?_
      rintro ⟨k, m, n⟩
      rcases List.mem_cons.1 m with rfl | m
      · exact absurd n g
      · exact ⟨k, m, n⟩

/-- A result has arrived and its bound has elapsed. -/
def lapsed (x : Ctx) (l : Landing) : Bool := l.ready && decide (l.due ≤ x.sc)

theorem settle_eq (s : State) (x : Ctx) :
    settle s x = { (x.lands.filter (lapsed x)).foldl (applyLanding s) x with lands := x.lands.filter fun l => !lapsed x l } := by
  simp only [settle, List.partition_eq_filter_filter]
  rfl

/-- Once the bound of the one result of d has elapsed, d holds it (R52). -/
theorem settle_s {x : Ctx} {d : SR} {v : Word} (hd : d ≠ 0)
    (h : ∀ l ∈ x.lands, l.reg = .s d → l.val = .word v ∧ l.spoiled = false ∧ l.shown = false)
    (e : ∃ l ∈ x.lands, l.reg = .s d ∧ lapsed x l = true) (s : State) : (settle s x).s[d.val] = v := by
  obtain ⟨l, m, r, due⟩ := e
  rw [settle_eq]
  exact foldl_applyLanding_s hd (fun k mk => h k (List.mem_filter.1 mk).1) s (.inr ⟨l, List.mem_filter.2 ⟨m, due⟩, r⟩)

section ScalarBound

variable {s : State} {d : SR} (hd : d ≠ 0) (h : ∀ l ∈ s.ctx.lands, l.reg ≠ .s d) (v : Word) {L n : Nat}
include hd h

/-- Inside its bound a scalar result is unpredictable (R52). -/
theorem rdS_inside_bound (first : 0 < n) (last : n < L) :
    rdS (atCycle (s.ctx.sc + n) (land (.s d) (.word v) L s)) d = freeAt (atCycle (s.ctx.sc + n) (land (.s d) (.word v) L s)) (.s d) 0 := by
  refine rdS_exposed hd ?_
  have wired : (RegName.s d).wired = false := by simpa [RegName.wired] using hd
  simp [exposed, atCycle, land_fresh h wired, first, last]

/-- Once its bound has elapsed a scalar result is its register's value (R52). -/
theorem settle_past_bound (past : L ≤ n) :
    (settle (atCycle (s.ctx.sc + n) (land (.s d) (.word v) L s)) (atCycle (s.ctx.sc + n) (land (.s d) (.word v) L s)).ctx).s[d.val] = v := by
  have wired : (RegName.s d).wired = false := by simpa [RegName.wired] using hd
  have lands : (atCycle (s.ctx.sc + n) (land (.s d) (.word v) L s)).ctx.lands =
      s.ctx.lands ++ [⟨.s d, .word v, s.ctx.sc, s.ctx.sc + L, true, false, false, 0, []⟩] := land_fresh h wired (.word v) L
  refine settle_s hd (fun l m r => ?_) ⟨_, lands ▸ List.mem_append.2 (.inr (List.mem_singleton.2 rfl)), rfl, ?_⟩ _
  · rcases List.mem_append.1 (lands ▸ m) with m | m
    · exact absurd r (h l m)
    · rw [List.mem_singleton.1 m]
      exact ⟨rfl, rfl, rfl⟩
  · simpa [lapsed, atCycle] using past

end ScalarBound

/-- Settles O6: (b) by what a write that meets another leaves (`land_meets`), (c) by what is read of a register inside the bound
(`rdS_inside_bound`) and what `settle` lands past it (`settle_past_bound`). -/
theorem registerWritesAndBounds : Obligations.RegisterWritesAndBounds := by
  refine ⟨fun s v L => ?wired, fun s r v L w h => land_meets w v L h, fun s d v L n hd first h => ?bound⟩
  case wired => exact ⟨rdS_zero s, rdP_zero s, rdM_zero s, land_wired rfl .., land_wired rfl .., land_wired rfl ..⟩
  case bound => exact ⟨rdS_land_same .., rdS_inside_bound hd h v, settle_past_bound hd h v⟩

/-! ## What landings write, and all that they leave (R52, R55) -/

/-- y is x but for its registers, its landings, and what the landings have shown it. -/
def OnlyRegisters (x y : Ctx) : Prop :=
  y = { x with s := y.s, a := y.a, p := y.p, b := y.b, v := y.v, m := y.m, w := y.w, wSpoilt := y.wSpoilt, badRegs := y.badRegs
               clock := y.clock, windows := y.windows, lands := y.lands }

namespace OnlyRegisters

theorem refl (x : Ctx) : OnlyRegisters x x := rfl

theorem trans {x y z : Ctx} (h : OnlyRegisters x y) (g : OnlyRegisters y z) : OnlyRegisters x z := by
  unfold OnlyRegisters at *
  rw [g, h]

theorem status {x y : Ctx} (h : OnlyRegisters x y) : y.status = x.status := by
  rw [h]

theorem late {x y : Ctx} (h : OnlyRegisters x y) : y.late = x.late := by
  rw [h]

theorem task {x y : Ctx} (h : OnlyRegisters x y) : y.task = x.task := by
  rw [h]

end OnlyRegisters

theorem applyVal_onlyRegisters (x : Ctx) (r : RegName) (v : RegVal) : OnlyRegisters x (applyVal x r v) := by
  unfold applyVal
  split
  -- s0, p0 and m0 ignore writes (R39)
  case h_1 | h_4 | h_7 => split <;> rfl
  all_goals rfl

theorem spoil_onlyRegisters (s : State) (x : Ctx) (r : RegName) : OnlyRegisters x (spoil s x r) := by
  cases r with
  | a r => rfl
  | w r => exact (applyVal_onlyRegisters x (.w r) (.wit (freeWit s (.w r)))).trans rfl
  | s r | p r | b r | v r | m r =>
    simp only [spoil]
    exact applyVal_onlyRegisters ..

theorem markWindows_onlyRegisters (x : Ctx) (r : RegName) : OnlyRegisters x (markWindows x r) := by cases r <;> rfl

theorem applyLanding_onlyRegisters (s : State) (x : Ctx) (l : Landing) : OnlyRegisters x (applyLanding s x l) := by
  unfold applyLanding
  dsimp only
  split
  · exact .refl x
  · generalize hy : ({ x with clock := clockJoin x.clock l.clock, badRegs := x.badRegs.filter (· ≠ l.reg) } : Ctx) = y
    have seen : OnlyRegisters x (markWindows y l.reg) := .trans (by subst hy; rfl) (markWindows_onlyRegisters ..)
    split
    · exact seen.trans (spoil_onlyRegisters ..)
    · exact seen.trans (applyVal_onlyRegisters ..)

theorem foldl_applyLanding_onlyRegisters (s : State) (ls : List Landing) (x : Ctx) : OnlyRegisters x (ls.foldl (applyLanding s) x) := by
  induction ls generalizing x with
  | nil => exact .refl x
  | cons l ls ih => exact (applyLanding_onlyRegisters s x l).trans (ih _)

theorem drain_onlyRegisters (s : State) (c : CtxId) (x : Ctx) : OnlyRegisters x (drain s c x) :=
  (foldl_applyLanding_onlyRegisters ..).trans rfl

/-- A landing that a stop has shown keeps its bound (R55). -/
theorem drain_bounds (s : State) (c : CtxId) (x : Ctx) : ∀ l ∈ (drain s c x).lands, l.ready = true → x.sc < l.due := by
  intro l m ready
  obtain ⟨k, mk, rfl⟩ := List.mem_map.1 m
  simpa [show k.ready = true from ready] using (List.mem_filter.1 mk).2

/-! ## A compute context stops (R55, R360) -/

/-- The drained context x with its frame written, as a stop leaves it. -/
def stopFrame (epc cause tval : Word) (x : Ctx) : Ctx :=
  { if debugStop cause then closeShadows x else x with
    epc := epc, cause := cause, tval := tval, pc := epc, run := .stopped, status := putBit x.status stSTOP true, cameFrom := none, sendWait := none }

theorem stopFrame_lands (epc cause tval : Word) (x : Ctx) : (stopFrame epc cause tval x).lands = x.lands := by
  unfold stopFrame; split <;> rfl

theorem stopFrame_late (epc cause tval : Word) (x : Ctx) : (stopFrame epc cause tval x).late = x.late := by
  unfold stopFrame; split <;> rfl

theorem stopFrame_task (epc cause tval : Word) (x : Ctx) : (stopFrame epc cause tval x).task = x.task := by
  unfold stopFrame; split <;> rfl

theorem stopFrame_status (epc cause tval : Word) (x : Ctx) : (stopFrame epc cause tval x).status = putBit x.status stSTOP true := by
  unfold stopFrame; split <;> rfl

theorem stopCompute_eq (c : CtxId) (epc cause tval : Word) (s : State) :
    stopCompute c epc cause tval s =
      postCtx (setCtx s c (stopFrame epc cause tval (drain s c (getCtx s c)))) c epc 3 (cause.truncate 8) 0 := by
  unfold stopCompute stopFrame
  dsimp only
  split <;> rfl

theorem postCtx_keeps (s : State) (c : CtxId) (lo : Word) (kind : Nat) (a b : BitVec 8) : KeepsContexts s (postCtx s c lo kind a b) := by
  unfold postCtx
  exact (KeepsContexts.ite (modTask_keeps ..) (.refl s)).trans (modCluster_keeps ..)

theorem postCtx_posting (s : State) (c : CtxId) (lo : Word) (kind : Nat) (a b : BitVec 8) :
    (clusterOf (postCtx s c lo kind a b) c.cluster).posting =
      (clusterOf s c.cluster).posting ++ [⟨lo, (getCtx s c).task, c.cluster, c.who, kind, a, b⟩] := by
  unfold postCtx
  dsimp only
  rw [posting_postRecord]
  split <;> rfl

section Stop

variable {c : CtxId} (h : c.isSys = false) (epc cause tval : Word) (s : State)
include h

theorem takeTrap_compute : takeTrap c epc cause tval s = stopCompute c epc cause tval s := by
  simp [takeTrap, h]

/-- A trap of a compute context lands its results and writes its frame (R55, R360). -/
theorem takeTrap_stops : getCtx (takeTrap c epc cause tval s) c = stopFrame epc cause tval (drain s c (getCtx s c)) := by
  rw [takeTrap_compute h, stopCompute_eq, (postCtx_keeps ..).getCtx, getCtx_setCtx_self]

/-- It posts a kind-3 record that holds SYS_EPC and the cause (R360). -/
theorem takeTrap_posts :
    (clusterOf (takeTrap c epc cause tval s) c.cluster).posting =
      (clusterOf s c.cluster).posting ++ [⟨epc, (getCtx s c).task, c.cluster, c.who, 3, cause.truncate 8, 0⟩] := by
  rw [takeTrap_compute h, stopCompute_eq, postCtx_posting, getCtx_setCtx_self, stopFrame_task, (drain_onlyRegisters ..).task,
    clusterOf_congr (setCtx_clusters ..)]

end Stop

/-! ## A double trap (R360, R469) -/

theorem lowestStack_congr {s t : State} (h : t.dies = s.dies) : lowestStack t = lowestStack s := by
  simp [lowestStack, stackOf_congr h]

/-- A panic changes of the context on the port at most whether it runs, unless the panic restarts it. -/
theorem panicFreeze_ctx {s : State} (h : s.who ≠ .sys (lowestStack s) 0) : ∃ r, (panicFreeze s).ctx = { s.ctx with run := r } := by
  refine ⟨if isActive s.ctx.run then .halted else s.ctx.run, Eq.trans (setCtx_other_ctx _ _ (Ne.symm h)) ?_⟩
  dsimp only
  split <;> rfl

theorem panicFreeze_frozen (s : State) : (panicFreeze s).dev.frozen = true := rfl

/-- With TF set a trap halts the core, which keeps its frame, and freezes the device (R360). -/
theorem enterHandler_double {s : State} (tf : getBit s.ctx.status stTF = true) (h : s.who ≠ .sys (lowestStack s) 0) (epc cause tval : Word) :
    let t := enterHandler s.who epc cause tval s
    t.ctx.run = .halted ∧ t.ctx.epc = epc ∧ t.ctx.cause = cause ∧ t.ctx.tval = tval ∧ t.dev.frozen = true := by
  have drained : getBit (drain s s.who s.ctx).status stTF = true := by rwa [(drain_onlyRegisters ..).status]
  unfold enterHandler
  simp only [getCtx_who, drained, ↓reduceIte]
  generalize hx : ({ drain s s.who s.ctx with epc := epc, cause := cause, tval := tval, cameFrom := none, run := .halted } : Ctx) = x
  generalize hu : setCtx s s.who x = u
  have who : u.who = s.who := by rw [← hu]; simp
  have low : lowestStack u = lowestStack s := lowestStack_congr (by rw [← hu]; simp)
  have ctx : u.ctx = x := by rw [← hu]; simp
  obtain ⟨r, frozen⟩ := panicFreeze_ctx (s := u) (by rwa [who, low])
  have here : getCtx (panicFreeze u) s.who = { x with run := r } := by
    rw [← ctx, ← frozen, ← who, ← panicFreeze_who u, getCtx_who]
  rw [← getCtx_who, modCtx_who, panicFreeze_who, who, getCtx_modCtx_self, if_neg (by rwa [low]), here, modCtx_dev, panicFreeze_frozen, ← hx]
  exact ⟨rfl, rfl, rfl, rfl, rfl⟩

/-- Settles O8: a compute context by the frame that its stop writes (`takeTrap_stops`, `takeTrap_posts`), a double trap by what the panic
leaves of its context (`enterHandler_double`). -/
theorem trapsThatStop : Obligations.TrapsThatStop := by
  refine ⟨fun s k x epc cause tval hw => ?stops, fun s epc cause tval hs tf h => ?double⟩
  case stops =>
    have user : s.who.isSys = false := by rw [hw]; rfl
    obtain ⟨mem, spm, -, who, -, -⟩ := takeTrap_leaves s.who epc cause tval s
    have ctx : (takeTrap s.who epc cause tval s).ctx = stopFrame epc cause tval (drain s s.who s.ctx) := by
      rw [← getCtx_who, who, takeTrap_stops user, getCtx_who]
    have posts := takeTrap_posts user epc cause tval s
    dsimp only
    rw [ctx, stopFrame_lands, stopFrame_status, (drain_onlyRegisters ..).status, posts, getCtx_who]
    exact ⟨who, rfl, rfl, rfl, rfl, rfl, fun l m => ⟨drain_shown _ _ _ l m, drain_bounds _ _ _ l m⟩, by rw [hw]; rfl, mem, spm⟩
  case double =>
    dsimp only
    rw [takeTrap, if_pos hs]
    exact enterHandler_double tf h epc cause tval

/-! ## Tiles (R43, R243, R254, R258, R259) -/

theorem needCompute_ready {s : State} (h : Computes s) (k : State → Res) : needCompute s k = k s := by
  simp [needCompute, h.1, h.2]

theorem needTile_in {s : State} {td : TR} (h : InWindow s td) (k : Nat → Res) : needTile td s k = k (s.ctx.tbase + td.val) := if_pos h

theorem needTile_out {s : State} {td : TR} (h : ¬ InWindow s td) (k : Nat → Res) : needTile td s k = trapAt 8 0x0C s.frame.parcel s := if_neg h

/-- Ready registers are within no bound that the operation waits for. -/
theorem guardBounds_ready {rs ws : List RegName} {s : State} (h : Ready rs ws s) (k : State → Res) : guardBounds rs ws s k = k s := by
  obtain ⟨hazard, locked, -⟩ := h
  have none : (if hazardMode s then (rs ++ ws).find? (fun r => !r.wired && exposed s r) else none) = none := by
    split
    · rename_i debug
      exact List.find?_eq_none.2 fun r m => by cases w : r.wired <;> simp [hazard debug r m, w]
    · rfl
  have free : ((rs ++ ws).any fun r => !r.wired && interlocked s r) = false :=
    List.any_eq_false.2 fun r m => by cases w : r.wired <;> simp [locked r m, w]
  unfold guardBounds
  rw [none, free]
  rfl

theorem tileOf_setTile_self (k p : Nat) (f : Tile → Tile) (s : State) : tileOf (setTile k p f s) k p = f (tileOf s k p) := by
  have low : p % 16 < 16 := Nat.mod_lt _ (by decide)
  simp [tileOf, setTile, low]

theorem tileOf_setTile_other {p q : Nat} (h : q % 16 ≠ p % 16) (k : Nat) (f : Tile → Tile) (s : State) :
    tileOf (setTile k p f s) k q = tileOf s k q := by
  simp [tileOf, setTile, Vector.getElem?_set_ne _ h.symm]

theorem tileOf_congr {s t : State} (h : t.cores = s.cores) (k p : Nat) : tileOf t k p = tileOf s k p := by
  simp [tileOf, coreOf_congr h]

/-- A tile's rows after row r has been written. -/
theorem rows_set {i r : Nat} (rows : Vector Vec 64) (y : Vec) (hi : i < 64) (hr : r < 64) :
    (rows.set r y hr).toList.getD i zeroVec = if i = r then y else rows.toList.getD i zeroVec := by
  simp [hi, Vector.getElem_set, eq_comm]

/-- A write that meets copies in flight marks them, in their clusters, and nothing else (R267). -/
theorem spoilCopies_clusters (g : Nat) (parts : CopyOp → List (Nat × Nat)) (writer : Option Nat) (s : State) :
    ∃ cs, spoilCopies g parts writer s = { s with clusters := cs } := by
  unfold spoilCopies
  dsimp only
  split
  · exact ⟨s.clusters, rfl⟩
  · exact ⟨_, rfl⟩

theorem meetTile_clusters (k p lo n : Nat) (s : State) : ∃ cs, meetTile k p lo n s = { s with clusters := cs } := by
  have marks (l : List (Nat × Cluster)) (parts : State → CopyOp → List (Nat × Nat)) :
      ∀ t, ∃ cs, l.foldl (fun s e => spoilCopies e.1 (parts s) none s) t = { t with clusters := cs } := by
    induction l with
    | nil => exact fun t => ⟨t.clusters, rfl⟩
    | cons e l ih =>
      intro t
      obtain ⟨cs, first⟩ := spoilCopies_clusters e.1 (parts t) none t
      obtain ⟨ds, rest⟩ := ih { t with clusters := cs }
      exact ⟨ds, by rw [List.foldl_cons, first, rest]⟩
  unfold meetTile meetWindow
  split
  · exact ⟨s.clusters, rfl⟩
  · exact marks s.clusters (fun s => meetsWindow s k (1000 + p) lo n fun _ => true) s

/-- A slot that changes a tile changes that tile, and no byte, no register and no other tile of the core. -/
theorem tileWritten (k p lo n : Nat) (f : Tile → Tile) (s : State) :
    let u := meetTile k p lo n (setTile k p f s)
    u.ctx = s.ctx ∧ SameBytes s u ∧ tileOf u k p = f (tileOf s k p) ∧ ∀ q, q % 16 ≠ p % 16 → tileOf u k q = tileOf s k q := by
  obtain ⟨cs, marked⟩ := meetTile_clusters k p lo n (setTile k p f s)
  have tiles (q : Nat) : tileOf { setTile k p f s with clusters := cs } k q = tileOf (setTile k p f s) k q := tileOf_congr rfl k q
  dsimp only
  rw [marked]
  exact ⟨rfl, fun _ => ⟨rfl, rfl, rfl⟩, by rw [tiles, tileOf_setTile_self], fun q h => by rw [tiles, tileOf_setTile_other h]⟩

/-- The flags of a tile as the low bits of a word (R259). -/
theorem flagsOf_word (t : Tile) : (flagsOf t).zeroExtend 64 =
    BitVec.ofNat 64 ((if t.ovf then 1 else 0) + (if t.sat then 2 else 0) + (if t.nan then 4 else 0) + if t.inv then 8 else 0) := by
  have bits : ∀ a b c d : Bool,
      ((if a then 1 else 0) ||| (if b then 2 else 0) ||| (if c then 4 else 0) ||| (if d then 8 else 0) : BitVec 4).zeroExtend 64 =
        BitVec.ofNat 64 ((if a then 1 else 0) + (if b then 2 else 0) + (if c then 4 else 0) + if d then 8 else 0) := by decide
  exact bits t.ovf t.sat t.nan t.inv

theorem tileRow_observed {s : State} (h : s.ctx.windows = []) (k p name r : Nat) : tileRow s k p name r = (tileOf s k p).rows.toList.getD r zeroVec := by
  simp [tileRow, h]

section TileInstructions

variable {s : State} {td : TR} (hc : Computes s)
include hc

/-- What a slot makes of a tile outside the window is protection, before it looks at its registers (R43, R102). -/
theorem needTile_outside (h : ¬ InWindow s td) (k : State → Nat → Res) :
    needCompute s (fun s => needTile td s (k s)) = trapAt 8 0x0C s.frame.parcel s := by
  rw [needCompute_ready hc, needTile_out h]

theorem tile_outside (h : ¬ InWindow s td) (v : VR) (x d : SR) (c : Bool) :
    exec (.tzero td) s = trapAt 8 0x0C s.frame.parcel s ∧ exec (.twr td v x) s = trapAt 8 0x0C s.frame.parcel s ∧
      exec (.trd v td x) s = trapAt 8 0x0C s.frame.parcel s ∧ exec (.tstat d td c) s = trapAt 8 0x0C s.frame.parcel s := by
  refine ⟨?_, ?_, ?_, ?_⟩
  · show execTzero td s = _
    exact needTile_outside hc h _
  · show execTwr td v x s = _
    exact needTile_outside hc h _
  · show execTrd v td x s = _
    exact needTile_outside hc h _
  · show execTstat d td c s = _
    exact needTile_outside hc h _

theorem tsig_reserved {sel : Fin 16} (h : 9 ≤ sel.val) (d : SR) : exec (.tsig d td sel) s = trapAt 4 0x02 s.frame.parcel s := by
  show execTsig d td sel s = _
  rw [execTsig, needCompute_ready hc, if_pos h]
  rfl

variable (hw : InWindow s td)
include hw

theorem tzero_busy (h : tileBusy s s.who.coreNo (s.ctx.tbase + td.val) = true) : exec (.tzero td) s = stall s := by
  show execTzero td s = _
  rw [execTzero, needCompute_ready hc, needTile_in hw, if_pos h]

theorem tzero_idle (h : tileBusy s s.who.coreNo (s.ctx.tbase + td.val) = false) :
    exec (.tzero td) s = .next (meetTile s.who.coreNo (s.ctx.tbase + td.val) 0 16384
      (setTile s.who.coreNo (s.ctx.tbase + td.val) (fun _ => Tile.zero) s)) := by
  show execTzero td s = _
  rw [execTzero, needCompute_ready hc, needTile_in hw, if_neg (by simp [h])]

theorem trd_drained {v : VR} {x : SR} (hr : Ready [.s x] [.v v] s)
    (row : (rdS s x).toNat % 64 < (tileOf s s.who.coreNo (s.ctx.tbase + td.val)).water)
    (good : (tileOf s s.who.coreNo (s.ctx.tbase + td.val)).bad = false) (seen : s.ctx.windows = []) :
    exec (.trd v td x) s =
      .next (land (.v v) (.vec ((tileOf s s.who.coreNo (s.ctx.tbase + td.val)).rows.toList.getD ((rdS s x).toNat % 64) zeroVec)) 6 s) := by
  show execTrd v td x s = _
  rw [execTrd, needCompute_ready hc, needTile_in hw, guardBounds_ready hr]
  dsimp only
  rw [if_neg (by simp [good]), guardRegs_ready hr, if_pos row, tileRow_observed seen]

theorem trd_undrained {v : VR} {x : SR} (hr : Ready [.s x] [.v v] s)
    (row : (tileOf s s.who.coreNo (s.ctx.tbase + td.val)).water ≤ (rdS s x).toNat % 64) : exec (.trd v td x) s = stall s := by
  have parity : RegName.s x ∉ s.ctx.badRegs := hr.2.2 _ List.mem_cons_self
  show execTrd v td x s = _
  rw [execTrd, needCompute_ready hc, needTile_in hw, guardBounds_ready hr]
  dsimp only
  rw [if_neg (by simp [Nat.not_lt.2 row, parity]), guardRegs_ready hr, if_neg (Nat.not_lt.2 row)]

variable (hb : tileBusy s s.who.coreNo (s.ctx.tbase + td.val) = false)
include hb

theorem twr_idle {v : VR} {x : SR} (hr : Ready [.v v, .s x] [] s) :
    exec (.twr td v x) s = .next (meetTile s.who.coreNo (s.ctx.tbase + td.val) (256 * ((rdS s x).toNat % 64)) 256
      (setTile s.who.coreNo (s.ctx.tbase + td.val)
        (fun t => { t with rows := t.rows.set ((rdS s x).toNat % 64) (rdV s v) (Nat.mod_lt _ (by decide)) }) s)) := by
  show execTwr td v x s = _
  rw [execTwr, needCompute_ready hc, needTile_in hw, guardRegs_ready hr]
  dsimp only
  rw [if_neg (by simp [hb])]

theorem tstat_idle {d : SR} (hr : Ready [] [.s d] s) (c : Bool) :
    let landed := land (.s d) (.word ((flagsOf (tileOf s s.who.coreNo (s.ctx.tbase + td.val))).zeroExtend 64)) 4 s
    exec (.tstat d td c) s =
      .next (if c then setTile s.who.coreNo (s.ctx.tbase + td.val) (fun t => withFlags t 0) landed else landed) := by
  show execTstat d td c s = _
  rw [execTstat, needCompute_ready hc, needTile_in hw, guardRegs_ready hr]
  dsimp only
  rw [if_neg (by simp [hb]), land_who]

theorem tsig_idle {d : SR} (hr : Ready [] [.s d] s) {sel : Fin 16} (known : sel.val < 9)
    (good : (tileOf s s.who.coreNo (s.ctx.tbase + td.val)).bad = false) :
    exec (.tsig d td sel) s = .next (land (.s d) (.word
      (if sel.val = 8 then tileSig ((List.range 8).map (groupSig (tileOf s s.who.coreNo (s.ctx.tbase + td.val)).rows))
       else groupSig (tileOf s s.who.coreNo (s.ctx.tbase + td.val)).rows sel.val)) 4 s) := by
  show execTsig d td sel s = _
  rw [execTsig, needCompute_ready hc, if_neg (Nat.not_le.2 known), needTile_in hw, guardRegs_ready hr]
  dsimp only
  rw [if_neg (by simp [hb]), if_neg (by simp [good])]

end TileInstructions

/-- Settles O29: each instruction by its equation on an idle tile, a written tile by `tileWritten`. -/
theorem tileInstructions : Obligations.TileInstructions := by
  intro s td v x d c sel hc k p t r flags
  refine ⟨fun out => tile_outside hc out v x d c, fun hw => ⟨tzero_busy hc hw, trd_drained hc hw, trd_undrained hc hw, fun hb => ⟨?tzero, ?twr, fun hr =>
    ⟨?tstat, fun low good => ?group, fun whole good => ?tile⟩⟩⟩, fun high => tsig_reserved hc high d⟩
  case tzero =>
    obtain ⟨ctx, bytes, zero, rest⟩ := tileWritten k p 0 16384 (fun _ => Tile.zero) s
    exact ⟨_, tzero_idle hc hw hb, zero, ctx, bytes, rest⟩
  case twr =>
    intro hr
    obtain ⟨ctx, bytes, row, -⟩ := tileWritten k p (256 * r) 256
      (fun t => { t with rows := t.rows.set r (rdV s v) (Nat.mod_lt _ (by decide)) }) s
    refine ⟨_, twr_idle hc hw hb hr, ctx, bytes, fun i hi => ?_⟩
    rw [row]
    exact rows_set _ _ hi (Nat.mod_lt _ (by decide))
  case tstat =>
    refine ⟨_, tstat_idle hc hw hb hr c, ?_⟩
    rw [flagsOf_word]
    cases c with
    | false => exact ⟨land_landed .., fun _ => by simp, tileOf_congr (land_cores ..) k p⟩
    | true =>
      refine ⟨land_landed .., fun _ => by simp [setTile, modCore, setCore], ?_⟩
      rw [if_pos rfl, tileOf_setTile_self, tileOf_congr (land_cores ..)]
      rfl
  case group =>
    rw [tsig_idle hc hw hb hr (by omega) good, if_neg (by omega)]
  case tile =>
    rw [tsig_idle hc hw hb hr (by omega) good, if_pos whole]

/-! ## Results that arrive (R53, R102) -/

/-- The context in which the value of result id has arrived. -/
def readied (id : Nat) (x : Ctx) : Ctx := { x with lands := x.lands.map fun m => if m.id = id then { m with ready := true } else m }

theorem arrives_getCtx (c : CtxId) (id : Nat) (s : State) : getCtx (arrives c id s) c = settle s (readied id (getCtx s c)) :=
  getCtx_modCtx_self ..

theorem arrives_sameBytes (c : CtxId) (id : Nat) (s : State) : SameBytes s (arrives c id s) := (modCtx_onlyContexts s c _).sameBytes

/-- A result that may arrive is on its way to its context. -/
theorem mem_lands_of_found {s : State} {c : CtxId} {n : Nat} {l : Landing} (h : (arriving s c)[n]? = some (.found l)) : l ∈ (getCtx s c).lands := by
  rcases List.mem_append.1 (List.mem_of_getElem? h) with m | m
  · obtain ⟨k, mk, e⟩ := List.mem_map.1 m
    obtain rfl := Coming.found.inj e
    exact (List.mem_filter.1 mk).1
  · obtain ⟨k, -, e⟩ := List.mem_map.1 m
    cases e

section ResultLanding

variable {s : State}

theorem resultLanding_none (h : (arriving s s.input.ctx)[s.input.num]? = none) : exec .resultLanding s = .next s := by
  show execResultLanding s = _
  unfold execResultLanding
  dsimp only
  rw [h]

theorem resultLanding_found {l : Landing} (h : (arriving s s.input.ctx)[s.input.num]? = some (.found l)) :
    exec .resultLanding s = .next (arrives s.input.ctx l.id s) := by
  show execResultLanding s = _
  unfold execResultLanding
  dsimp only
  rw [h]

theorem resultLanding_remote {w : Wait} (h : (arriving s s.input.ctx)[s.input.num]? = some (.remote w)) : ∃ t, exec .resultLanding s = .next t := by
  show ∃ t, execResultLanding s = _
  unfold execResultLanding
  dsimp only
  rw [h]
  dsimp only
  split <;> exact ⟨_, rfl⟩

end ResultLanding

section Arrival

variable {x : Ctx} {l : Landing} (m : l ∈ x.lands)
include m

theorem mem_readied : { l with ready := true } ∈ (readied l.id x).lands := List.mem_map.2 ⟨l, m, if_pos rfl⟩

/-- A result that arrives inside its bound waits for the bound (R52). -/
theorem settle_keeps_early (early : x.sc < l.due) (s : State) : { l with ready := true } ∈ (settle s (readied l.id x)).lands := by
  rw [settle_eq]
  exact List.mem_filter.2 ⟨mem_readied m, by simp [lapsed, readied, Nat.not_le.2 early]⟩

/-- A result that arrives once its bound has elapsed lands at once (R53). -/
theorem settle_lands_late (past : l.due ≤ x.sc) {d : SR} {v : Word} (hr : l.reg = .s d) (hd : d ≠ 0) (hv : l.val = .word v) (hs : l.spoiled = false)
    (hn : l.shown = false) (one : ∀ k ∈ x.lands, k.reg = .s d → k = l) (s : State) : (settle s (readied l.id x)).s[d.val] = v := by
  refine settle_s hd (fun k mk r => ?_) ⟨_, mem_readied m, hr, by simp [lapsed, readied, past]⟩ s
  obtain ⟨j, mj, rfl⟩ := List.mem_map.1 mk
  have is : j = l := one j mj (by split at r <;> exact r)
  subst is
  simp [hv, hs, hn]

end Arrival

/-- No landing that is left has both arrived and outlived its bound (R52). -/
theorem settle_leaves_none (s : State) (x : Ctx) : ∀ k ∈ (settle s x).lands, lapsed x k = false := by
  intro k m
  rw [settle_eq] at m
  simpa using (List.mem_filter.1 m).2

theorem putBit_eq (x : Word) (i : Nat) (v : Bool) : putBit x i v = if v then x ||| BitVec.twoPow 64 i else x &&& ~~~BitVec.twoPow 64 i := by
  have bit : ((1 <<< i : Nat) : Word) = BitVec.twoPow 64 i := BitVec.eq_of_toNat_eq (by simp [BitVec.toNat_twoPow, Nat.one_shiftLeft])
  rw [putBit, bit]
  rfl

theorem getBit_putBit (x : Word) (i : Nat) (v : Bool) {k : Nat} (h : k < 64) : getBit (putBit x i v) k = if k = i then v else getBit x k := by
  rw [putBit_eq]
  by_cases e : k = i
  · subst e
    cases v <;> simp [getBit, h]
  · cases v <;> simp [getBit, h, e]

/-! ## Faults found after issue (R89, R93, R183, R236, R250, R286, R433, R464) -/

theorem dueLate_eq (x : Ctx) (kinds : List LateKind) :
    dueLate x kinds false = x.late.find? fun g => decide (g.kind ∈ kinds ∧ g.notBefore ≤ x.sc) := by
  simp [dueLate, Bool.decide_and]

/-- The device steps that take a fault found after issue, each with the kinds that it takes. -/
theorem exec_lateStep {e : Instr × List LateKind} (h : e ∈ ([(.ldwtImageCheck, [.image]), (.deferredAccessFault, [.access]),
    (.engineFault, [.engine, .claim, .collective]), (.thresholdExceeded, [.threshold]), (.singleStep, [.step])] : List (Instr × List LateKind)))
    (s : State) : exec e.1 s = takeLateHere e.2 s := by
  simp only [List.mem_cons, List.not_mem_nil, or_false] at h
  rcases h with rfl | rfl | rfl | rfl | rfl <;> rfl

/-- The cause of a fault found after issue: its code, and whether an engine found it (R354). -/
theorem causeWord_late (code : BitVec 8) (eng : Bool) :
    causeWord code false eng false false none = BitVec.ofNat 64 (code.toNat + if eng then 2 ^ 9 else 0) := by
  apply BitVec.eq_of_toNat_eq
  cases eng with
  | false => simp [causeWord]
  | true =>
    have apart : code.toNat ||| 2 ^ 9 = code.toNat + 2 ^ 9 := by
      rw [Nat.lor_comm, Nat.add_comm]
      simpa using (Nat.two_pow_add_eq_or_of_lt (i := 9) (by omega : code.toNat < 2 ^ 9) 1).symm
    suffices code.toNat % 2 ^ 64 ||| 2 ^ 9 = (code.toNat + 2 ^ 9) % 2 ^ 64 by simpa [causeWord]
    rw [Nat.mod_eq_of_lt (by omega), Nat.mod_eq_of_lt (by omega), apart]

section LateFaults

variable {s : State} {kinds : List LateKind}

theorem takeLateHere_passes (h : passesOver (switchTo s s.input.ctx) = true) : takeLateHere kinds s = .next s := by
  rw [takeLateHere, if_pos h]

theorem takeLateHere_none (h : ∀ g ∈ (getCtx s s.input.ctx).late, g.kind ∈ kinds → (getCtx s s.input.ctx).sc < g.notBefore) :
    takeLateHere kinds s = .next s := by
  have none : dueLate (getCtx s s.input.ctx) kinds false = none := by
    rw [dueLate_eq]
    exact List.find?_eq_none.2 fun g m => by simpa using h g m
  rw [takeLateHere, takeLate]
  simp only [none, ite_self]

variable {f : LateFault}

/-- The state in which context c has no more to take of the fault f. -/
def withoutLate (c : CtxId) (f : LateFault) (s : State) : State :=
  setCtx s c { getCtx s c with late := (getCtx s c).late.filter fun g => g ≠ f }

theorem withoutLate_getCtx (c : CtxId) (f : LateFault) (s : State) :
    getCtx (withoutLate c f s) c = { getCtx s c with late := (getCtx s c).late.filter fun g => g ≠ f } := getCtx_setCtx_self ..

theorem takeLateHere_takes (h : passesOver (switchTo s s.input.ctx) = false)
    (due : (getCtx s s.input.ctx).late.find? (fun g => decide (g.kind ∈ kinds ∧ g.notBefore ≤ (getCtx s s.input.ctx).sc)) = some f)
    (active : isActive (getCtx s s.input.ctx).run = true) :
    takeLateHere kinds s = .next (takeTrap s.input.ctx (f.epc.getD (getCtx s s.input.ctx).pc)
      (causeWord f.cause false (f.kind == .engine) false false none) f.tval (withoutLate s.input.ctx f s)) := by
  rw [← dueLate_eq] at due
  rw [takeLateHere, if_neg (by simp [h]), takeLate]
  simp only [due, active, ↓reduceIte]
  rfl

/-- A compute context that takes a fault found after issue stops with that fault in its frame (R250). -/
theorem lateFault_stops {c : CtxId} (user : c.isSys = false) :
    let x := getCtx s c
    let t := takeTrap c (f.epc.getD x.pc) (causeWord f.cause false (f.kind == .engine) false false none) f.tval (withoutLate c f s)
    SameBytes s t ∧ (getCtx t c).run = .stopped ∧ (getCtx t c).epc = f.epc.getD x.pc ∧ (getCtx t c).tval = f.tval ∧
      (getCtx t c).late = x.late.filter (fun g => g ≠ f) ∧
      (getCtx t c).cause = BitVec.ofNat 64 (f.cause.toNat + if f.kind = .engine then 2 ^ 9 else 0) ∧ getBit (getCtx t c).status stSTOP = true := by
  dsimp only
  obtain ⟨mem, spm, rom, -, -, -⟩ := takeTrap_leaves c (f.epc.getD (getCtx s c).pc)
    (causeWord f.cause false (f.kind == .engine) false false none) f.tval (withoutLate c f s)
  have bytes : SameBytes s (withoutLate c f s) := (setCtx_onlyContexts ..).sameBytes
  rw [takeTrap_stops user, stopFrame_status, stopFrame_late, (drain_onlyRegisters ..).late, withoutLate_getCtx]
  refine ⟨fun a => by rw [mem, spm, rom]; exact bytes a, rfl, rfl, rfl, rfl, ?_, by rw [getBit_putBit _ _ _ (by decide), if_pos rfl]⟩
  refine (causeWord_late ..).trans ?_
  simp

end LateFaults

/-- Settles O47: an arrival by what `settle` keeps (`settle_keeps_early`, `settle_leaves_none`) and lands (`settle_lands_late`), the faults by
the one step that takes them all (`exec_lateStep`) and the frame that it leaves (`lateFault_stops`). -/
theorem arrivalsAndLateFaults : Obligations.ArrivalsAndLateFaults := by
  intro s l w d v f c x
  refine ⟨resultLanding_remote, resultLanding_none, fun h => ⟨_, resultLanding_found h, arrives_sameBytes _ _ s, ?arrival⟩, fun e m => ?fault⟩
  case arrival =>
    have mem := mem_lands_of_found h
    rw [arrives_getCtx]
    refine ⟨fun early => settle_keeps_early mem early s, fun past => ⟨fun k mk is => ?_, fun hr hd hv hs hn one => settle_lands_late mem past hr hd hv hs hn one s⟩⟩
    have left := settle_leaves_none s _ k mk
    rw [is] at left
    simp only [lapsed, Bool.true_and, decide_eq_false_iff_not] at left
    exact left past
  case fault =>
    rw [exec_lateStep m]
    refine ⟨takeLateHere_none, takeLateHere_passes, fun here due active user => ?_⟩
    obtain ⟨bytes, rest⟩ := lateFault_stops (s := s) (f := f) user
    exact ⟨_, takeLateHere_takes here due active, bytes, rest⟩

/-! ## What reads of global memory leave alone (R181, R307, R441) -/

theorem noteTouch_keeps (id : Nat) (x : Touch) (exempt committed : Bool) (s : State) : KeepsContexts s (noteTouch id x exempt committed s) :=
  .ite (.refl s) (modTask_keeps ..)

theorem retain_keeps (id line : Nat) (content : State → List Byte) (s : State) : KeepsContexts s (retain id line content s) := by
  unfold retain
  split
  · exact .refl s
  · exact .ite (.refl s) (.ite (abandonAudit_keeps ..) (modTask_keeps ..))

theorem l1gKeep_keeps (s : State) (c : CtxId) (key : Nat) : KeepsContexts s (l1gKeep s c key) := by
  unfold l1gKeep
  split
  · exact .refl s
  · split
    · exact .ite (.refl s) (modCluster_keeps ..)
    · exact .ite (.refl s) (modCluster_keeps ..)
    · exact .refl s

/-- A read of bytes in one line that succeeds gives no context another state. -/
theorem readPage_keeps {a : Acc} {home exempt : Bool} {va n : Nat} {s u : State} {bs : List (Byte × Bool)}
    (h : readPage a home exempt va n s = .ok u bs) : KeepsContexts s u := by
  have tr := translate_keeps a .read va s
  unfold readPage at h
  split at h <;> rename_i e <;> rw [e] at tr
  · split at h <;> cases h
  · split at h <;> cases h
  · cases h
  · cases h
  · rename_i v key hw
    split at h
    · cases h; exact tr
    · split at h
      · split at h <;> cases h
      · split at h
        · cases h
        · dsimp only at h
          split at h
          · cases h
          · cases h
            refine tr.trans (KeepsContexts.trans ?_ (.ite (retain_keeps ..) (.refl _)))
            exact .ite (.refl _) (noteTouch_keeps ..)
          · cases h
            refine tr.trans (KeepsContexts.trans ?_ (.ite (.refl _) (l1gKeep_keeps ..)))
            refine KeepsContexts.trans ?_ (.ite (retain_keeps ..) (.refl _))
            exact .ite (.refl _) (noteTouch_keeps ..)

theorem readLines_keeps (a : Acc) (home exempt : Bool) (fuel va n : Nat) {s u : State} {bs : List (Byte × Bool)}
    (h : readLines a home exempt fuel va n s = .ok u bs) : KeepsContexts s u := by
  induction fuel generalizing va n s bs with
  | zero => cases h; exact .refl _
  | succ fuel ih =>
    unfold readLines at h
    dsimp only at h
    split at h
    · cases h; exact .refl _
    · split at h
      · rename_i page
        split at h
        · rename_i rest
          cases h
          exact (readPage_keeps page).trans (ih _ _ rest)
        · rename_i no
          exact absurd h (no _ _)
      · rename_i no
        exact absurd h (no _ _)

/-- A read of global memory that succeeds gives no context another state. -/
theorem readGlobal_keeps {a : Acc} {home exempt : Bool} {va n : Nat} {s u : State} {bs : List Byte}
    (h : readGlobal a home exempt va n s = .ok u bs) : KeepsContexts s u := by
  unfold readGlobal at h
  split at h
  case h_1 e =>
    split at h
    · cases h
    · cases h
      exact readLines_keeps _ _ _ _ _ _ e
  all_goals cases h

/-! ## Who a control core's CTXSTART reaches (R355, R356) -/

theorem Ready.mono {rs rs' ws : List RegName} {s : State} (h : Ready rs ws s) (sub : ∀ r ∈ rs', r ∈ rs) : Ready rs' ws s := by
  obtain ⟨hazard, locked, parity⟩ := h
  have mono : ∀ r ∈ rs' ++ ws, r ∈ rs ++ ws := fun r m =>
    List.mem_append.2 ((List.mem_append.1 m).imp (sub r) id)
  exact ⟨fun debug r m => hazard debug r (mono r m), fun r m => locked r (mono r m), fun r m => parity r (sub r m)⟩

theorem getBit_eq (v : Word) (i : Nat) : getBit v i = decide (v.toNat / 2 ^ i % 2 = 1) := by
  rw [getBit, BitVec.getLsbD, Nat.testBit_eq_decide_div_mod_eq]

/-- A compute context of cluster g. -/
theorem userCtx_core {g : Fin 96} {q x : Nat} (hq : q < 4) : (userCtx (4 * g.val + q) x).coreNo = 4 * g.val + q :=
  Nat.mod_eq_of_lt (by omega)

theorem userCtx_cluster {g : Fin 96} {q x : Nat} (hq : q < 4) : (userCtx (4 * g.val + q) x).cluster = g.val := by
  show (4 * g.val + q) % 384 / 4 = g.val
  omega

section Control

variable {s : State} {g : Fin 96} (hw : s.who = .ctl g)
include hw

theorem needTarget_user {v : Word} (named : v.toNat / 256 % 2 = 1) (k : CtxId → Res) :
    needTarget v s k = k (userCtx (4 * g.val + v.toNat / 4 % 4) (v.toNat % 4)) := by
  have bit : getBit v 8 = true := by rw [getBit_eq]; simpa using named
  unfold needTarget needUser
  rw [hw]
  dsimp only
  rw [if_pos bit]
  simp [bitsAt]

end Control

theorem needPriv_sys {r : Runs} {s : State} {n : Fin 8} {i : Fin 4} (hw : s.who = .sys n i) (hm : getBit s.ctx.status stMODE = true) (hr : r ≠ .control)
    (k : State → Res) : needPriv r s k = k s := by
  cases r <;> simp_all [needPriv, supervisor]

/-! ### Reads of a record or an area (R360, R371) -/

theorem sysRead_ok {va n : Nat} {s u : State} {bs : List Byte} (h : readGlobal (accOf s s.who) false true va n s = .ok u bs)
    (k : State → List Byte → Res) : sysRead va n s k = k u bs := by
  unfold sysRead
  rw [h]

theorem sysRead_serviced {va n : Nat} {s u : State} {cause : BitVec 8} {v : Nat}
    (h : readGlobal (accOf s s.who) false true va n s = .serviced u cause v) (k : State → List Byte → Res) : sysRead va n s k = sysFault cause v u := by
  unfold sysRead
  rw [h]

/-- A stopped context as CTXSTART.R lets it go on (R359, R464). -/
def resumed (x : Ctx) : Ctx :=
  { x with run := .running, pc := x.epc, status := putBit x.status stSTOP false, resume := true, cameFrom := none }

theorem resumed_status (x : Ctx) {k : Nat} (hk : k < 64) : getBit (resumed x).status k = (decide (k ≠ 5) && getBit x.status k) := by
  refine (getBit_putBit x.status stSTOP false hk).trans ?_
  by_cases five : k = 5 <;> simp [five, stSTOP]

section Ctxstart

variable {s : State} {g : Fin 96} {tr : SR} {c : CtxId} (hw : s.who = .ctl g) (hm : getBit s.ctx.status stMODE = true)
  (named : (rdS s tr).toNat / 256 % 2 = 1) (hc : userCtx (4 * g.val + (rdS s tr).toNat / 4 % 4) ((rdS s tr).toNat % 4) = c)
include hw hm named hc

theorem ctxstartR_resumes (hr : Ready [.s tr] [] s) (stopped : (getCtx s c).run = .stopped) :
    exec (.ctxstartR tr) s = .next (setCtx s c (resumed (getCtx s c))) := by
  have user : c.isSys = false := by rw [← hc]; rfl
  show execCtxstartR tr s = _
  rw [execCtxstartR, needPriv_ctl hw hm (by decide), guardRegs_ready hr, needTarget_user hw named, hc]
  dsimp only
  rw [if_neg (by simp [user, stopped])]
  rfl

theorem ctxstartR_refused (hr : Ready [.s tr] [] s) (other : (getCtx s c).run ≠ .stopped) :
    exec (.ctxstartR tr) s = trapAt 8 0x0C s.frame.parcel s := by
  show execCtxstartR tr s = _
  rw [execCtxstartR, needPriv_ctl hw hm (by decide), guardRegs_ready hr, needTarget_user hw named, hc]
  dsimp only
  rw [if_pos (.inr other)]
  rfl

variable {a : AR} (hr : Ready [.s tr, .a a] [] s) (low : (ea s a 0).toNat < 2 ^ 56)
include hr low

/-- CTXSTART of a compute target goes on to what it makes of the address. -/
theorem ctxstart_address (k : CtxId → Nat → State → Res) :
    (needPriv .both s fun s => guardRegs [.s tr] [] s fun s => needTarget (rdS s tr) s fun c =>
      if c.isSys then protection s else guardRegs [.a a] [] s fun s => areaAddr a s fun addr => k c addr s) = k c (ea s a 0).toNat s := by
  have user : ¬ c.isSys = true := by rw [← hc]; exact Bool.false_ne_true
  rw [needPriv_ctl hw hm (by decide), guardRegs_ready (Ready.mono hr (by simp)), needTarget_user hw named, hc, if_neg user,
    guardRegs_ready (Ready.mono hr (by simp)), areaAddr]
  exact if_neg (Nat.not_le.2 low)

theorem ctxstart_ctl : exec (.ctxstart tr a) s = startFromRecord c (ea s a 0).toNat s := by
  show execCtxstart tr a s = _
  exact ctxstart_address hw hm named hc hr low startFromRecord

theorem ctxstartRestore_ctl : exec (.ctxstartRestore tr a) s = restoreFromArea c (ea s a 0).toNat s := by
  show execCtxstartRestore tr a s = _
  exact ctxstart_address hw hm named hc hr low restoreFromArea

end Ctxstart

/-! ## Context c is given its tiles, its channels and its late faults (R45, R236, R282, R283, R382) -/

/-- t is s but for units of c's core and cluster, the tasks, and c itself, of which channels and late faults may differ. -/
structure Attaches (c : CtxId) (s t : State) : Prop where
  who : t.who = s.who
  mem : t.mem = s.mem
  spm : t.spm = s.spm
  dev : t.dev = s.dev
  ctx : c ≠ s.who → t.ctx = s.ctx
  self : ∃ bs fs, getCtx t c = { getCtx s c with chans := bs, late := fs }

namespace Attaches

variable {c : CtxId} {s t u : State}

theorem refl (c : CtxId) (s : State) : Attaches c s s := ⟨rfl, rfl, rfl, rfl, fun _ => rfl, _, _, rfl⟩

theorem trans (h : Attaches c s t) (g : Attaches c t u) : Attaches c s u := by
  obtain ⟨bs, fs, mine⟩ := h.self
  obtain ⟨bs', fs', its⟩ := g.self
  exact ⟨g.who.trans h.who, g.mem.trans h.mem, g.spm.trans h.spm, g.dev.trans h.dev,
    fun n => (g.ctx (by rwa [h.who])).trans (h.ctx n), bs', fs', by rw [its, mine]⟩

theorem of_parts {t : State} (who : t.who = s.who) (ctx : t.ctx = s.ctx) (parked : t.parked = s.parked) (mem : t.mem = s.mem)
    (spm : t.spm = s.spm) (dev : t.dev = s.dev) : Attaches c s t :=
  ⟨who, mem, spm, dev, fun _ => ctx, _, _, getCtx_congr who ctx parked c⟩

theorem foldl {α : Type} {f : State → α → State} (h : ∀ s a, Attaches c s (f s a)) (l : List α) (s : State) : Attaches c s (l.foldl f s) := by
  induction l generalizing s with
  | nil => exact refl c s
  | cons a l ih => exact (h s a).trans (ih _)

end Attaches

theorem modCtx_attaches (s : State) (c : CtxId) {f : Ctx → Ctx} (h : ∀ x, ∃ bs fs, f x = { x with chans := bs, late := fs }) :
    Attaches c s (modCtx s c f) := by
  obtain ⟨bs, fs, e⟩ := h (getCtx s c)
  exact ⟨by simp, by simp, by simp, by simp, fun n => setCtx_other_ctx _ _ n, bs, fs, by rw [getCtx_modCtx_self, e]⟩

theorem setTile_attaches (c : CtxId) (k p : Nat) (f : Tile → Tile) (s : State) : Attaches c s (setTile k p f s) :=
  .of_parts rfl rfl rfl rfl rfl rfl

theorem addLate_attaches (c : CtxId) (f : LateFault) (s : State) : Attaches c s (addLate s c f) := modCtx_attaches s c fun _ => ⟨_, _, rfl⟩

theorem modTask_attaches (c : CtxId) (id : Nat) (f : Task → Task) (s : State) : Attaches c s (modTask s id f) := .of_parts rfl rfl rfl rfl rfl rfl

theorem l1gDropAll_attaches (c : CtxId) (g : Nat) (s : State) : Attaches c s (l1gDropAll s g) := .of_parts rfl rfl rfl rfl rfl rfl

theorem keepSends_attaches (c : CtxId) (old : List ChanBind) (s : State) : Attaches c s (keepSends c old s) :=
  modCtx_attaches s c fun _ => ⟨_, _, rfl⟩

theorem bindEntry_attaches (c : CtxId) (t : Task) (e d : ChanRec) (s : State) : Attaches c s (bindEntry c t e d s) := by
  unfold bindEntry
  exact .trans (t := setChan s _ _) (.of_parts rfl rfl rfl rfl rfl rfl) (modCtx_attaches _ c fun _ => ⟨_, _, rfl⟩)

theorem bindChans_attaches (c : CtxId) (t : Task) (s : State) : Attaches c s (bindChans c t s) := by
  unfold bindChans
  split
  · exact .refl c s
  · refine (modCtx_attaches s c fun _ => ⟨_, _, rfl⟩).trans (.foldl (fun s e => ?_) _ _)
    split
    · exact bindEntry_attaches ..
    · exact .refl c s

/-! ## A start from a task's record (R50, R382) -/

theorem foldl_setTile_cores {α : Type} {f : State → α → State} (h : ∀ s a, ∃ cs, f s a = { s with cores := cs }) (l : List α) (s : State) :
    ∃ cs, l.foldl f s = { s with cores := cs } := by
  induction l generalizing s with
  | nil => exact ⟨s.cores, rfl⟩
  | cons a l ih =>
    obtain ⟨cs, first⟩ := h s a
    obtain ⟨ds, rest⟩ := ih { s with cores := cs }
    exact ⟨ds, by rw [List.foldl_cons, first, rest]⟩

/-- The scratchpads without the n bytes from lo. -/
def spmWithout (lo n : Nat) (m : Memory) : Memory := m.filter fun e => !(decide (lo ≤ e.1) && decide (e.1 < lo + n))

theorem spmWithout_read {lo n k : Nat} (first : lo ≤ k) (last : k < lo + n) (m : Memory) : (spmWithout lo n m).read k = unwritten := by
  induction m with
  | nil => rfl
  | cons e m ih =>
    unfold spmWithout at *
    by_cases here : lo ≤ e.1 ∧ e.1 < lo + n
    · rwa [List.filter_cons_of_neg (by simp [here])]
    · rw [List.filter_cons_of_pos (by simp; omega)]
      have other : e.1 ≠ k := by omega
      simpa [Memory.read, other] using ih

/-- A start changes units of the core, and zeroes the reservation (R382). -/
theorem zeroSpace_parts (core tbase tiles soff scr : Nat) (s : State) :
    ∃ cs ps, zeroSpace core tbase tiles soff scr s =
      { s with cores := cs, spm := spmWithout (core * coreBytes + soff) scr s.spm, spmPoison := ps } := by
  obtain ⟨cs, tiled⟩ := foldl_setTile_cores (f := fun s n => setTile core (tbase + n) (fun _ => Tile.zero) s) (fun s n => ⟨_, rfl⟩) (List.range tiles) s
  unfold zeroSpace
  rw [tiled]
  exact ⟨cs, _, rfl⟩

/-- What a start leaves: the context that the record gives, a zeroed reservation, and the rest of the contexts and of memory. -/
theorem startUser_starts {c : CtxId} {u : State} (h : c ≠ u.who) (t : Task) (slot : Nat) (r : SlotRec) :
    let w := startUser c t slot r u
    w.who = u.who ∧ w.ctx = u.ctx ∧ w.mem = u.mem ∧ w.dev.computeStarted = true ∧
      w.spm = spmWithout (c.coreNo * coreBytes + r.soff) r.scr u.spm ∧
      ∃ bs fs, getCtx w c = { startedCtx u t c slot r (getCtx u c) with chans := bs, late := fs } := by
  dsimp only
  unfold startUser
  dsimp only
  generalize startedCtx u t c slot r (getCtx u c) = x
  obtain ⟨cs, ps, zeroed⟩ := zeroSpace_parts c.coreNo r.tbase r.tiles r.soff r.scr (forgetTokens c u)
  rw [zeroed]
  generalize hz : ({ forgetTokens c u with cores := cs, spm := _, spmPoison := ps } : State) = z
  generalize hv : modDev (l1gDropAll (modTask (setCtx z c x) t.id _) c.cluster) _ = v
  have kept : KeepsContexts (setCtx z c x) v := by
    rw [← hv]
    exact (modTask_keeps ..).trans ((modCluster_keeps ..).trans (modDev_keeps ..))
  have bound := bindChans_attaches c t v
  have who : z.who = u.who := by rw [← hz]; rfl
  have ne : c ≠ z.who := by rwa [who]
  obtain ⟨bs, fs, self⟩ := bound.self
  refine ⟨?_, ?_, ?_, ?_, ?_, bs, fs, ?_⟩
  · rw [bound.who, kept.who, setCtx_who, who]
  · rw [bound.ctx (by rwa [kept.who, setCtx_who]), kept.ctx, setCtx_other_ctx _ _ ne, ← hz]
    rfl
  · rw [bound.mem, ← hv, ← hz]
    simp [l1gDropAll, forgetTokens]
  · rw [bound.dev, ← hv]
    rfl
  · rw [bound.spm, kept.spm, setCtx_spm, ← hz]
    rfl
  · rw [self, kept.getCtx, getCtx_setCtx_self]

/-- The registers with which a context starts (R50, R382). -/
theorem startedCtx_registers (u : State) (t : Task) (c : CtxId) (slot : Nat) (r : SlotRec) (old : Ctx) :
    let y := startedCtx u t c slot r old
    y.s[0] = 0 ∧ (∀ k, 1 ≤ k → k ≤ 8 → y.s.toList.getD k 0 = t.record.args.getD (k - 1) 0) ∧ y.s[10] = BitVec.ofNat 64 t.dmask ∧ y.s[12] = 0 ∧
      y.a[0].base = BitVec.ofNat 64 r.soff ∧ y.a[1].base = t.record.argb := by
  refine ⟨?_, fun k first last => ?_, ?_, ?_, ?_, ?_⟩
  case refine_2 =>
    have low : k < 32 := by omega
    simp [startedCtx, low, last, Nat.ne_of_gt first]
  all_goals simp [startedCtx, startIdent]

section Record

variable {s u : State} {addr : Nat} {bs : List Byte} (read : readGlobal (accOf s s.who) false true addr 4 s = .ok u bs) {key : Nat}
  (place : tableKey u u.who.stack u.ctx.ptbase addr = some key) (c : CtxId)
include read place

theorem startFromRecord_unknown (h : taskAt u key = none) : startFromRecord c addr s = trapAt 8 0x0C u.frame.parcel u := by
  unfold startFromRecord
  rw [sysRead_ok read]
  dsimp only
  rw [place, Option.bind_some, h]
  rfl

variable {g : Fin 96} {q x : Nat} (hq : q < 4) (hx : x < 4) {tk : Task} (found : taskAt u key = some tk)
include hq hx found

/-- The start of context x of core q of cluster g from the record's slot of that context, or protection (R382). -/
theorem startFromRecord_slot :
    let c := userCtx (4 * g.val + q) x
    let r := tk.record.slots.getD (4 * q + x) ⟨0, 0, 0, 0, 0, 0⟩
    startFromRecord c addr s =
      if r.entry = 0 ∨ !((bitsOf tk.dmask).contains g.val) ∨ (getCtx u c).run ≠ .free ∨ tk.gone.contains c.num then trapAt 8 0x0C u.frame.parcel u
      else .next (startUser c tk (4 * q + x) r u) := by
  have slot : 4 * ((userCtx (4 * g.val + q) x).coreNo % 4) + x % 4 = 4 * q + x := by
    rw [userCtx_core hq]
    omega
  dsimp only
  unfold startFromRecord
  rw [sysRead_ok read]
  dsimp only
  rw [place, Option.bind_some, found, ← slot, userCtx_cluster hq]
  rfl

end Record

/-! ## A restore from a save area (R398, R399) -/

/-- What a restore leaves: the context that the area holds, but for its channels and late faults, and the rest of the contexts and of memory. -/
theorem restoreUser_restores (c : CtxId) (t : Task) (area : Nat) (bs : List Byte) (s : State) :
    let w := restoreUser c t area bs s
    w.who = s.who ∧ w.mem = s.mem ∧
      ∃ v old cs fs, getCtx w c = { restoredCtx v t c bs old with chans := cs, late := fs } := by
  dsimp only
  unfold restoreUser
  dsimp only
  generalize hv : modTask s t.id _ = v
  generalize hx : restoredCtx v t c bs (getCtx v c) = x
  generalize hz : setCtx (forgetTokens c v) c x = z
  have mem : z.mem = s.mem := by rw [← hz, setCtx_mem, ← hv]; rfl
  have who : z.who = s.who := by rw [← hz, setCtx_who, ← hv]; rfl
  have here : getCtx z c = x := by rw [← hz, getCtx_setCtx_self]
  generalize hw : modTask (keepSends c _ _) t.id _ = w
  have rest : Attaches c z w := by
    rw [← hw]
    refine .trans ?_ (modTask_attaches ..)
    refine .trans ?_ (keepSends_attaches ..)
    refine .trans ?_ (bindChans_attaches ..)
    refine .trans ?_ (l1gDropAll_attaches ..)
    refine .trans ?_ (.foldl (fun s i => addLate_attaches ..) _ _)
    exact .foldl (fun s n => setTile_attaches ..) _ _
  obtain ⟨cs, fs, self⟩ := rest.self
  exact ⟨rest.who.trans who, rest.mem.trans mem, v, _, cs, fs, by rw [self, here, hx]⟩


section Area

variable {s u : State} {addr : Nat} {bs : List Byte} (read : readGlobal (accOf s s.who) false true addr 0x43000 s = .ok u bs) {tk : Task}
  (known : taskOf u (imgNat bs 4 4) = some tk) {g : Fin 96} {q x : Nat} (hq : q < 4) (hx : x < 4)
include read known hq hx

/-- An area of which nothing speaks against the restore, and that holds no range of the scratchpad (R398). -/
theorem restoreFromArea_fits {c : CtxId} (hc : userCtx (4 * g.val + q) x = c) (free : (getCtx u c).run = .free) (core : imgNat bs 36 1 = q)
    (ctx : imgNat bs 40 1 = x) (dispatched : tk.phase = .dispatched) (there : c.num ∉ tk.gone) (runs : tk.runs % 2 ^ 16 = imgNat bs 42 2)
    (here : programHere u tk g.val (imgNat bs 38 1 * 12 + imgNat bs 37 1) = true) (fits : areaFits u c.coreNo bs = true)
    (gang : imgNat bs 27 1 = if ganged u c.coreNo then 2 else 1) (plain : imgNat bs 31 1 = 0) :
    restoreFromArea c addr s = .next (restoreUser c tk addr bs (restoreRanges c [] (imgNat bs 48 4) (imgNat bs 32 4) u)) := by
  subst hc
  have inCore : imgNat bs 36 1 = (userCtx (4 * g.val + q) x).coreNo % 4 := by
    rw [core, userCtx_core hq]
    omega
  have inSlot : imgNat bs 40 1 = x % 4 := by rw [ctx, Nat.mod_eq_of_lt hx]
  unfold restoreFromArea
  rw [sysRead_ok read]
  dsimp only
  rw [known]
  dsimp only
  rw [if_neg, if_neg (not_not.2 gang), plain]
  · rfl
  · rintro (no | no | no | no | no | no | no | no)
    · exact no free
    · exact no inCore
    · exact no inSlot
    · exact no dispatched
    · exact no runs
    · rw [userCtx_cluster hq, here] at no
      cases no
    · rw [fits] at no
      cases no
    · exact there (List.contains_iff_mem.1 no)

end Area

/-- A class that the mask of an area holds comes back as it was saved. -/
theorem savedOr_saved {α : Type} {m : BitVec 16} {i : Nat} (h : m.getLsbD i = true) (v free : α) : savedOr m i v free = v := if_pos h

section Restored

variable {bs : List Byte} (u : State) (t : Task) (c : CtxId) (old : Ctx)

theorem restoredCtx_s (saved : (BitVec.ofNat 16 (imgNat bs 52 2)).getLsbD 0 = true) {k : Nat} (first : 1 ≤ k) (last : k < 32) :
    (restoredCtx u t c bs old).s.toList.getD k 0 = areaWord bs (0x100 + 8 * k) := by
  simp [restoredCtx, savedOr_saved saved, last, Nat.ne_of_gt first]

theorem restoredCtx_b (saved : (BitVec.ofNat 16 (imgNat bs 52 2)).getLsbD 3 = true) {k : Nat} (last : k < 8) :
    (restoredCtx u t c bs old).b.toList.getD k 0 = areaWord bs (0x408 + 8 * k) := by
  simp [restoredCtx, savedOr_saved saved, last]

theorem restoredCtx_v (saved : (BitVec.ofNat 16 (imgNat bs 52 2)).getLsbD 4 = true) {k l : Nat} (reg : k < 32) (lane : l < 64) :
    ((restoredCtx u t c bs old).v.toList.getD k zeroVec).toList.getD l 0 = BitVec.ofNat 32 (imgNat bs (0xC00 + 256 * k + 4 * l) 4) := by
  simp [restoredCtx, savedOr_saved saved, reg, lane]

end Restored

/-! ## A control core's start (R357) -/

/-- What a control core starts with: its entry, supervisor mode, its number and its stack's, and its base registers as they were (R357). -/
theorem startControl_starts (g : Fin 96) (entry : Word) (s : State) :
    let y := getCtx (startControl (.ctl g) entry s) (.ctl g)
    y.run = .running ∧ y.pc = entry ∧ getBit y.status stMODE = true ∧ y.s[1] = BitVec.ofNat 64 g.val ∧ y.s[2] = BitVec.ofNat 64 (g.val / 12) ∧
      y.vbase = (getCtx s (.ctl g)).vbase ∧ y.ptbase = (getCtx s (.ctl g)).ptbase ∧ y.asid = (getCtx s (.ctl g)).asid := by
  have self (x : Ctx) (f : Dev → Dev) : getCtx (modDev (setCtx s (.ctl g) x) f) (.ctl g) = x := getCtx_setCtx_self ..
  unfold startControl
  dsimp only
  rw [self]
  have mode : getBit 1 stMODE = true := by decide
  exact ⟨rfl, rfl, mode, by simp [CtxId.cluster], by simp [CtxId.cluster], rfl, rfl, rfl⟩

section System

variable {s : State} {n : Fin 8} {i : Fin 4} (hw : s.who = .sys n i)
include hw

theorem needTarget_ctl {v : Word} (bit : v.toNat / 512 % 2 = 1) {g : Fin 96} (core : v.toNat / 1024 % 128 = g.val) (k : CtxId → Res) :
    needTarget v s k = k (.ctl g) := by
  have named : getBit v 9 = true := by rw [getBit_eq]; simpa using bit
  have field : bitsAt v.toNat 10 7 = g.val := core
  have same : Fin.ofNat 96 g.val = g := Fin.ext (Nat.mod_eq_of_lt g.isLt)
  unfold needTarget needCtl
  rw [hw]
  dsimp only
  rw [field, if_pos ⟨named, by omega⟩, same]

variable {tr : SR} {a : AR} {g : Fin 96} (hm : getBit s.ctx.status stMODE = true) (bit : (rdS s tr).toNat / 512 % 2 = 1)
  (core : (rdS s tr).toNat / 1024 % 128 = g.val) (hr : Ready [.s tr, .a a] [] s)
include hm bit core hr

theorem ctxstartControlCore_sys : exec (.ctxstartControlCore tr a) s =
    if s.dev.started.contains g.val then trapAt 8 0x0C s.frame.parcel s else .next (startControl (.ctl g) (ea s a 0) s) := by
  show execCtxstartControlCore tr a s = _
  rw [execCtxstartControlCore, needPriv_sys hw hm (by decide), guardRegs_ready (Ready.mono hr (by simp)), needTarget_ctl hw bit core]
  dsimp only
  rw [guardRegs_ready (Ready.mono hr (by simp))]
  rfl

end System

/-- Settles O45: a start by what `startUser_starts` leaves and the registers of `startedCtx_registers`, a restore by `restoreFromArea_fits` and
`restoreUser_restores`, a control core by `startControl_starts`, a resumption by `ctxstartR_resumes`. -/
theorem contextStarts : Obligations.ContextStarts := by
  intro s u tr a g n i bs hm t x c addr
  have hq : t / 4 % 4 < 4 := Nat.mod_lt _ (by decide)
  have hx : x < 4 := Nat.mod_lt _ (by decide)
  refine ⟨fun hw named => ⟨fun hr low => ⟨fun read key place => ⟨fun none => ?unknown, fun tk found => ⟨?refused, ?started⟩⟩, fun v cause read => ?serviced,
    fun read tk known => ?restored⟩, fun hr => ⟨fun stopped => ?resumed, fun other => ctxstartR_refused hw hm named rfl hr other⟩⟩, fun hw bit core hr => ⟨fun fresh => ?control, fun again => ?again⟩⟩
  case unknown => rw [ctxstart_ctl hw hm named rfl hr low, startFromRecord_unknown read place _ none]
  case refused =>
    intro no
    rw [ctxstart_ctl hw hm named rfl hr low, startFromRecord_slot read place hq hx found, if_pos]
    exact no.imp id fun busy => .inr (.inl busy)
  case started =>
    intro used inMask free there
    have kept := readGlobal_keeps read
    have ne : c ≠ u.who := by rw [kept.who, hw]; exact nofun
    obtain ⟨who, ctx, mem, going, spm, cs, fs, self⟩ := startUser_starts ne tk (4 * (t / 4 % 4) + x) (tk.record.slots.getD (4 * (t / 4 % 4) + x) ⟨0, 0, 0, 0, 0, 0⟩)
    refine ⟨_, ?_, who, ctx, mem, going, ?_⟩
    · rw [ctxstart_ctl hw hm named rfl hr low, startFromRecord_slot read place hq hx found, if_neg]
      rintro (no | no | no | no)
      · exact used no
      · simp [inMask] at no
      · exact no free
      · exact there (List.contains_iff_mem.1 no)
    · obtain ⟨zero, args, mask, rest, base, argb⟩ := startedCtx_registers u tk c (4 * (t / 4 % 4) + x)
        (tk.record.slots.getD (4 * (t / 4 % 4) + x) ⟨0, 0, 0, 0, 0, 0⟩) (getCtx u c)
      rw [self]
      refine ⟨rfl, rfl, zero, args, mask, rest, base, argb, rfl, rfl, rfl, rfl, rfl, rfl, rfl, rfl, rfl, rfl, rfl, rfl, fun k first last => ?_⟩
      rw [spm]
      exact spmWithout_read (Nat.add_le_add_left first _) (by rw [Nat.add_assoc]; exact Nat.add_lt_add_left last _) _
  case serviced => 
    rw [ctxstart_ctl hw hm named rfl hr low]
    exact sysRead_serviced read _
  case restored =>
    intro saved word all free core ctx dispatched there runs here fits gang plain
    obtain ⟨who, mem, v, old, cs, fs, self⟩ := restoreUser_restores c tk addr bs (restoreRanges c [] (imgNat bs 48 4) (imgNat bs 32 4) u)
    refine ⟨_, (ctxstartRestore_ctl hw hm named rfl hr low).trans (restoreFromArea_fits read known hq hx rfl free core ctx dispatched there runs here fits gang plain),
      who.trans (readGlobal_keeps read).who, mem, ?_⟩
    rw [self]
    exact ⟨rfl, rfl, rfl, rfl, rfl, fun on k first last => restoredCtx_s v tk c old on first last, fun on k last => restoredCtx_b v tk c old on last,
      fun on k l reg lane => restoredCtx_v v tk c old on reg lane⟩
  case resumed =>
    refine ⟨_, ctxstartR_resumes hw hm named rfl hr stopped, setCtx_who .., (setCtx_onlyContexts ..).sameBytes, ?_,
      fun y other => getCtx_setCtx_other _ _ other⟩
    rw [getCtx_setCtx_self]
    exact ⟨rfl, fun k hk => resumed_status _ hk⟩
  case control =>
    exact ⟨_, (ctxstartControlCore_sys hw hm bit core hr).trans (if_neg (by simpa using fresh)), setCtx_who .., (setCtx_onlyContexts s _ _).sameBytes,
      List.mem_append.2 (.inr (List.mem_singleton.2 rfl)), startControl_starts ..⟩
  case again => rw [ctxstartControlCore_sys hw hm bit core hr, if_pos (by simpa using again)]

end Sys2Proof.Machine

namespace Sys2Proof.Machine

/-! ## Codes of a format (R58, R60, R68) -/

/-- One bit of a code is its sign, the rest its magnitude. -/
theorem width_eq (f : FFmt) : f.width = f.ebits + f.mbits + 1 := by
  simp [FFmt.width]; omega

theorem maxCode_lt (f : FFmt) : f.maxCode < 2 ^ (f.ebits + f.mbits) := by cases f <;> decide

theorem infCode_lt (f : FFmt) : f.infCode < 2 ^ (f.ebits + f.mbits) := by cases f <;> decide

theorem canon_lt (f : FFmt) : f.canon < 2 ^ f.width := by cases f <;> decide

/-- A rounded magnitude is a finite code of the format (R68). -/
theorem roundMag_le {f : FFmt} {mode : RMode} {u : Nat} {neg : Bool} {m : Nat} {e : Int} {c : Nat}
    (h : roundMag f mode u neg m e = some c) : c ≤ f.maxCode := by
  unfold roundMag at h
  dsimp only at h
  split at h
  · cases h; exact Nat.zero_le _
  · split at h
    · cases h; assumption
    · split at h
      · cases h; exact le_rfl
      · cases h

theorem signBit_add_lt (f : FFmt) (neg : Bool) {c : Nat} (h : c < 2 ^ (f.ebits + f.mbits)) : signBit f neg + c < 2 ^ f.width := by
  rw [width_eq, pow_succ]
  unfold signBit
  split <;> omega

/-- Rounding gives a code of the format. -/
theorem roundF_lt (f : FFmt) (mode : RMode) (u : Nat) (x : Num) : (roundF f mode u x).1 < 2 ^ f.width := by
  unfold roundF
  split
  · exact canon_lt f
  · exact signBit_add_lt f _ (infCode_lt f)
  · split
    · rename_i h
      exact signBit_add_lt f _ ((roundMag_le h).trans_lt (maxCode_lt f))
    · exact signBit_add_lt f _ (infCode_lt f)

theorem finish_lt (f : FFmt) (fin nan : Bool) (x : Num) : (finish f fin nan x).1 < 2 ^ f.width := by
  unfold finish
  split
  · exact canon_lt f
  · exact roundF_lt ..

theorem fop1_lt (f : FFmt) (op : Num → Num) (a : Nat) : (fop1 f op a).1 < 2 ^ f.width := finish_lt ..

theorem fop2_lt (f : FFmt) (op : Num → Num → Num) (a b : Nat) : (fop2 f op a b).1 < 2 ^ f.width := finish_lt ..

theorem fminmax_lt (f : FFmt) (larger : Bool) {a b : Nat} (ha : a < 2 ^ f.width) (hb : b < 2 ^ f.width) :
    fminmax f larger a b < 2 ^ f.width := by
  unfold fminmax
  split
  · exact canon_lt f
  · split <;> assumption

/-! ## Integers as codes (R63) -/

/-- A word's code read as signed is its value. -/
theorem intOf_signed {w : Nat} (x : BitVec w) (hw : 0 < w) : intOf w true x.toNat = x.toInt := by
  have half : 2 * 2 ^ (w - 1) = 2 ^ w := by rw [← pow_succ', Nat.sub_add_cancel hw]
  rw [intOf, Nat.mod_eq_of_lt x.isLt, BitVec.toInt_eq_toNat_cond]
  simp only [Bool.true_and, decide_eq_true_eq]
  split <;> split <;> omega

/-- The low bits of an integer are those of its bit vector. -/
theorem wrapInt_eq (w : Nat) (x : Int) : wrapInt w x = (BitVec.ofInt w x).toNat := by
  rw [BitVec.toNat_ofInt, wrapInt]

theorem satInt_int32 (x : Int) : satInt 32 true x = max (-2 ^ 31) (min (2 ^ 31 - 1) x) := rfl

/-! ## The SC slot's floating-point forms (R137, R138) -/

section Scalar

variable {s : State} {d a b : SR}

theorem fop3_ready (h : Ready [.s a, .s b] [.s d] s) (f : Nat → Nat → Coded) (L : Nat) :
    fop3 f L d a b s =
      .next (countMine (f ((rdS s a).toNat % 2 ^ 32) ((rdS s b).toNat % 2 ^ 32)).2
        (land (.s d) (.word (BitVec.ofNat 64 (f ((rdS s a).toNat % 2 ^ 32) ((rdS s b).toNat % 2 ^ 32)).1)) L s)) :=
  guardRegs_ready h _

theorem fopOne_ready (h : Ready [.s a] [.s d] s) (f : Nat → Coded) (L : Nat) :
    fopOne f L d a s = .next (countMine (f (rdS s a).toNat).2 (land (.s d) (.word (BitVec.ofNat 64 (f (rdS s a).toNat).1)) L s)) :=
  guardRegs_ready h _

theorem execFcmp_ready {cond : Fin 8} {pd : PR} (h : Ready [.s a, .s b] [.p pd] s) :
    execFcmp cond pd a b s =
      .next (land (.p pd) (.flag (fcond cond.val (decodeF .f32 ((rdS s a).toNat % 2 ^ 32)) (decodeF .f32 ((rdS s b).toNat % 2 ^ 32)))) 1 s) :=
  guardRegs_ready h _

end Scalar

/-- Settles O5: each form by the equation of its shared operation (`fop3_ready`, `fopOne_ready`), the cleared high half by the width of a
rounded code (`fop2_lt`, `fminmax_lt`, `roundF_lt`). -/
theorem scalarFloatResults : Obligations.ScalarFloatResults := by
  intro s d a b pd cond x y counts
  have hx : x < 2 ^ FFmt.width .f32 := Nat.mod_lt _ (by decide)
  have hy : y < 2 ^ FFmt.width .f32 := Nat.mod_lt _ (by decide)
  refine ⟨fun h => ?binary, fun h => ?unary, fun h => (rfl : _ = execFcmp cond pd a b s).trans (execFcmp_ready h)⟩
  case binary =>
    have gives {i : Instr} {L : Nat} (f : Nat → Nat → Coded) (e : exec i s = fop3 f L d a b s) (lt : (f x y).1 < 2 ^ 32) :
        counts i (f x y) L := ⟨lt, e.trans (fop3_ready h f L)⟩
    exact ⟨gives _ rfl (fop2_lt ..), gives _ rfl (fop2_lt ..), gives _ rfl (fop2_lt ..), gives _ rfl (fop2_lt ..),
      gives (fun p q => (fminmax .f32 false p q, [])) rfl (fminmax_lt .f32 _ hx hy),
      gives (fun p q => (fminmax .f32 true p q, [])) rfl (fminmax_lt .f32 _ hx hy)⟩
  case unary =>
    have gives {i : Instr} {L : Nat} (f : Nat → Coded) (e : exec i s = fopOne f L d a s) (lt : (f (rdS s a).toNat).1 < 2 ^ 32) :
        counts i (f (rdS s a).toNat) L := ⟨lt, e.trans (fopOne_ready h f L)⟩
    refine ⟨gives (fun p => fop1 .f32 numSqrt (p % 2 ^ 32)) rfl (fop1_lt ..), ?_, (rfl : _ = execFcvtfi d a s).trans (fopOne_ready h ..)⟩
    rw [← intOf_signed (rdS s a) (by decide)]
    exact gives (fun p => ((roundF .f32 .rne 0 (numOfInt (intOf 64 true p))).1, [])) rfl (roundF_lt ..)

/-! ## Integer products (R76–R78) -/

/-- The value x is the integer i, with either sign of zero. -/
def IsInt (x : Num) (i : Int) : Prop := ∃ neg m, x = .fin neg m 0 ∧ (if neg then -(m : Int) else m) = i

theorem scaled_self (neg : Bool) (m : Nat) (e : Int) : scaled neg m e e = if neg then -(m : Int) else m := by
  simp [scaled]

theorem numOfInt_isInt (i : Int) : IsInt (numOfInt i) i := by
  refine ⟨_, _, rfl, ?_⟩
  simp only [decide_eq_true_eq]
  split <;> omega

theorem numMul_isInt {x y : Num} {i j : Int} (hx : IsInt x i) (hy : IsInt y j) : IsInt (numMul x y) (i * j) := by
  obtain ⟨s, m, rfl, rfl⟩ := hx
  obtain ⟨t, n, rfl, rfl⟩ := hy
  refine ⟨_, _, rfl, ?_⟩
  cases s <;> cases t <;> simp

theorem numAdd_isInt {x y : Num} {i j : Int} (hx : IsInt x i) (hy : IsInt y j) : IsInt (numAdd x y) (i + j) := by
  obtain ⟨s, m, rfl, rfl⟩ := hx
  obtain ⟨t, n, rfl, rfl⟩ := hy
  simp only [numAdd, min_self, scaled_self]
  generalize (if s then -(m : Int) else m) + (if t then -(n : Int) else n) = sum
  by_cases zero : sum = 0
  · rw [if_pos zero, zero]
    exact ⟨_, _, rfl, by simp⟩
  · rw [if_neg zero]
    exact ⟨_, _, rfl, by simp only [decide_eq_true_eq]; split <;> omega⟩

/-- Adding integer products to an integer is exact (R76). -/
theorem foldl_products_isInt {x : Num} {i : Int} (hx : IsInt x i) (l : List (Int × Int)) :
    IsInt ((l.map fun e => (numOfInt e.1, numOfInt e.2)).foldl (fun x p => numAdd x (numMul p.1 p.2)) x) (i + (l.map fun e => e.1 * e.2).sum) := by
  induction l generalizing x i with
  | nil => simpa using hx
  | cons e l ih =>
    rw [List.map_cons, List.map_cons, List.sum_cons, ← add_assoc]
    exact ih (numAdd_isInt hx (numMul_isInt (numOfInt_isInt _) (numOfInt_isInt _)))

/-- An integer sum in an INT32 accumulator saturates to its range (R78). -/
theorem accRound_int {x : Num} {i : Int} (h : IsInt x i) :
    accRound 2 x = (wrapInt 32 (satInt 32 true i), if satInt 32 true i = i then 0 else 2, if satInt 32 true i = i then [] else [3]) := by
  obtain ⟨neg, m, rfl, rfl⟩ := h
  simp [accRound, roundInt, roundAt]

/-- Without scale codes an MMA element is C plus the products, rounded once into the accumulator. -/
theorem mmaElem_int {fmt : BitVec 32} (acc : fmt.toNat / 2 ^ 8 % 16 = 2) (scl : fmt.toNat / 2 ^ 12 % 4 = 0) {xs ys : List Int}
    (len : xs.length = ys.length) (c : BitVec 32) {sum : Int} (hs : c.toInt + ((xs.zip ys).map fun e => e.1 * e.2).sum = sum) :
    mmaElem fmt (xs.map numOfInt) (ys.map numOfInt) [] [] c.toNat =
      (wrapInt 32 (satInt 32 true sum), if satInt 32 true sum = sum then 0 else 2, if satInt 32 true sum = sum then [] else [3]) := by
  have hacc : bitsAt fmt.toNat 8 4 = 2 := acc
  have hscl : bitsAt fmt.toNat 12 2 = 0 := scl
  have pairs : (xs.map numOfInt).zip (ys.map numOfInt) = (xs.zip ys).map fun e => (numOfInt e.1, numOfInt e.2) := List.zip_map ..
  have exact_sum := foldl_products_isInt (numOfInt_isInt c.toInt) (xs.zip ys)
  rw [hs, ← pairs, ← List.map_fst_zip (l₁ := (xs.map numOfInt).zip (ys.map numOfInt)) (l₂ := List.range (xs.map numOfInt).length)
    (by simp [len]), List.foldl_map] at exact_sum
  have hround := accRound_int exact_sum
  unfold mmaElem
  simp only [hacc, hscl, if_pos, intOf_signed c (by decide), zero_ne_one, if_false]
  rw [hround]
  split <;> simp

/-- Settles O31: an element is the exact sum (`foldl_products_isInt`) brought into the range of INT32 (`accRound_int`). -/
theorem integerProducts : Obligations.IntegerProducts := by
  intro fmt xs ys c acc scl len sum r
  have hr : r = _ := mmaElem_int acc scl len c (rfl : _ = sum)
  refine ⟨fun low high => ?_, fun above => ?_, fun below => ?_⟩
  · have mid : satInt 32 true sum = sum := by rw [satInt_int32]; omega
    rw [hr, mid, if_pos rfl, if_pos rfl, wrapInt_eq]
  · have top : satInt 32 true sum = 2 ^ 31 - 1 := by rw [satInt_int32]; omega
    rw [hr, top, if_neg (by omega), if_neg (by omega)]
    rfl
  · have bottom : satInt 32 true sum = -2 ^ 31 := by rw [satInt_int32]; omega
    rw [hr, bottom, if_neg (by omega), if_neg (by omega)]
    rfl

/-! ## Elements of a vector register (R66, R202, R203) -/

theorem elemAt_lt (w : Nat) (x : Vec) (e : Nat) : elemAt w x e < 2 ^ w := Nat.mod_lt _ (Nat.two_pow_pos w)

/-- Lane i of a register made lane by lane. -/
theorem lane_ofFn (f : Fin 64 → Lane) {i : Nat} (h : i < 64) : (Vector.ofFn f).toList.getD i 0 = f ⟨i, h⟩ := by
  simp [h]

theorem lanes_eq (x : Vec) : x.toList = (List.range 64).map fun i => x.toList.getD i 0 := by
  apply List.ext_getElem <;> simp +contextual

theorem elemAt_32 (x : Vec) (e : Nat) : elemAt 32 x e = (x.toList.getD e 0).toNat := by
  simp only [elemAt, bitsAt, Nat.div_self (show 0 < 32 by decide), Nat.div_one, Nat.mod_one, Nat.mul_zero, pow_zero]
  exact Nat.mod_eq_of_lt (BitVec.isLt _)

theorem elemAt_16 (x : Vec) (e : Nat) : elemAt 16 x e = (x.toList.getD (e / 2) 0).toNat / 2 ^ (16 * (e % 2)) % 2 ^ 16 := rfl

theorem getD_map_range {α : Type} (g : Nat → α) {n i : Nat} (h : i < n) (d : α) : ((List.range n).map g).getD i d = g i := by
  simp [h]

/-- Two entries for each of n places are the entries of 2 n places. -/
theorem flatMap_pairs {α : Type} (n : Nat) (h : Nat → α) :
    (List.range n).flatMap (fun i => [h (2 * i), h (2 * i + 1)]) = (List.range (2 * n)).map h := by
  induction n with
  | zero => rfl
  | succ n ih => simp [List.range_succ, ih, Nat.mul_succ]

section Widths

variable {w : Nat} (hw : w = 16 ∨ w = 32)
include hw

theorem elems_eq (x : Vec) : elems w x = (List.range (2048 / w)).map (elemAt w x) := by
  rw [elems, lanes_eq x, List.flatMap_map]
  rcases hw with rfl | rfl
  · rw [show 2048 / 16 = 2 * 64 from rfl, ← flatMap_pairs]
    refine List.flatMap_congr fun i _ => ?_
    have low : elemAt 16 x (2 * i) = (x.toList.getD i 0).toNat % 2 ^ 16 := by simp [elemAt_16]
    have high : elemAt 16 x (2 * i + 1) = (x.toList.getD i 0).toNat / 2 ^ 16 := by
      have half : (2 * i + 1) / 2 = i := by omega
      rw [elemAt_16, half, Nat.mul_add_mod]
      exact Nat.mod_eq_of_lt (Nat.div_lt_of_lt_mul (x.toList.getD i 0).isLt)
    rw [low, high]
    rfl
  · rw [List.map_eq_flatMap]
    exact List.flatMap_congr fun i _ => congrArg (fun n => [n]) (elemAt_32 x i).symm

theorem laneBits_eq (m : Word) : laneBits w m = (List.range (2048 / w)).map fun e => m.getLsbD (e * w / 32) := by
  rcases hw with rfl | rfl
  · rw [show 2048 / 16 = 2 * 64 from rfl, ← flatMap_pairs]
    refine List.flatMap_congr fun i _ => ?_
    rw [show 2 * i * 16 / 32 = i by omega, show (2 * i + 1) * 16 / 32 = i by omega]
    rfl
  · simp [laneBits, getBit, List.map_eq_flatMap]

/-- The elements of a register made from elements. -/
theorem elemAt_ofElems (g : Nat → Nat) {e : Nat} (he : e < 2048 / w) : elemAt w (ofElems w ((List.range (2048 / w)).map g)) e = g e % 2 ^ w := by
  rcases hw with rfl | rfl
  · have hi : e / 2 < 64 := by omega
    rw [elemAt_16, ofElems, lane_ofFn _ hi]
    have low : ((List.range (2048 / 16)).map g).getD (2 * (e / 2)) 0 = g (2 * (e / 2)) := getD_map_range g (by omega) 0
    have high : ((List.range (2048 / 16)).map g).getD (2 * (e / 2) + 1) 0 = g (2 * (e / 2) + 1) := getD_map_range g (by omega) 0
    simp only [if_pos, low, high, BitVec.toNat_ofNat]
    rcases Nat.mod_two_eq_zero_or_one e with even | odd
    · rw [even, show 2 * (e / 2) = e by omega]; omega
    · rw [odd, show 2 * (e / 2) + 1 = e by omega]; omega
  · rw [elemAt_32, ofElems, lane_ofFn _ (by omega)]
    simp [he]

end Widths

/-- Results under a mask, element by element. -/
theorem maskedResults_map (n : Nat) (on : Nat → Bool) (z : Nat → Nat) (g : Nat → Coded) :
    maskedResults ((List.range n).map on) ((List.range n).map z) ((List.range n).map g) =
      (List.range n).map fun e => if on e then g e else (z e, []) := by
  simp [maskedResults, List.zip_map']

/-- An operation has the masked elements g as its result in d, with bound L, and their events in element order. -/
def GivesElements (s : State) (d : VR) (m : MR) (w L : Nat) (r : Res) (g : Nat → Coded) : Prop :=
  ∃ V : Vec,
    r = .next (countMine ((List.range (2048 / w)).flatMap fun e => if (rdM s m).getLsbD (e * w / 32) then (g e).2 else [])
      (land (.v d) (.vec V) L s)) ∧
    ∀ e, e < 2048 / w → elemAt w V e = if (rdM s m).getLsbD (e * w / 32) then (g e).1 % 2 ^ w else elemAt w (rdV s d) e

section Elementwise

variable {s : State} {d a b : VR} {m : MR} {w : Nat} (hw : w = 16 ∨ w = 32)
include hw

theorem maskedResults_gives (L : Nat) (g : Nat → Coded) :
    let rs := maskedResults (laneBits w (rdM s m)) (elems w (rdV s d)) ((List.range (2048 / w)).map g)
    GivesElements s d m w L (.next (countMine (rs.flatMap (·.2)) (land (.v d) (.vec (ofElems w (rs.map (·.1)))) L s))) g := by
  intro rs
  have hrs : rs = (List.range (2048 / w)).map fun e => if (rdM s m).getLsbD (e * w / 32) then g e else (elemAt w (rdV s d) e, []) := by
    rw [← maskedResults_map, ← laneBits_eq hw, ← elems_eq hw]
  refine ⟨ofElems w (rs.map (·.1)), ?_, fun e he => ?_⟩
  · rw [hrs, List.flatMap_map]
    simp only [apply_ite Prod.snd]
  · rw [hrs, List.map_map, elemAt_ofElems hw _ he, Function.comp_apply]
    split
    · rfl
    · exact Nat.mod_eq_of_lt (elemAt_lt ..)

variable (hc : Computes s)
include hc

theorem vector3_gives {readsD : Bool} (hr : Ready (oldOf d m readsD ++ [.v a, .v b] ++ maskReg m) [.v d] s) {f : Nat → Nat → Nat → Coded} {L : Nat}
    {r : Res} (is : r = vector3 readsD f w L d a b m s) :
    GivesElements s d m w L r fun e => f (elemAt w (rdV s a) e) (elemAt w (rdV s b) e) (elemAt w (rdV s d) e) := by
  rw [is, vector3, needCompute_ready hc, guardRegs_ready hr]
  have operands : ((((elems w (rdV s a)).zip (elems w (rdV s b))).zip (elems w (rdV s d))).map fun e => f e.1.1 e.1.2 e.2) =
      (List.range (2048 / w)).map fun e => f (elemAt w (rdV s a) e) (elemAt w (rdV s b) e) (elemAt w (rdV s d) e) := by
    simp [elems_eq hw, List.zip_map']
  dsimp only
  rw [operands]
  exact maskedResults_gives hw L _

theorem vector1_gives (hr : Ready (oldOf d m false ++ [.v a] ++ maskReg m) [.v d] s) {f : Nat → Coded} {L : Nat}
    {r : Res} (is : r = vector1 f w L d a m s) : GivesElements s d m w L r fun e => f (elemAt w (rdV s a) e) := by
  rw [is, vector1, needCompute_ready hc, guardRegs_ready hr]
  have operand : (elems w (rdV s a)).map f = (List.range (2048 / w)).map fun e => f (elemAt w (rdV s a) e) := by
    rw [elems_eq hw, List.map_map]
    rfl
  dsimp only
  rw [operand]
  exact maskedResults_gives hw L _

end Elementwise

/-! ## Element-wise floating-point forms (R203–R205, R207) -/

/-- The floating-point types of vector arithmetic (R204). -/
theorem tyFlt_cases {ty : Fin 16} {f : FFmt} (h : tyFlt ty = some f) :
    (ty.val = 6 ∧ f = .f16) ∨ (ty.val = 7 ∧ f = .bf16) ∨ (ty.val = 8 ∧ f = .f32) := by
  unfold tyFlt at h
  split at h
  case h_1 e => exact .inl ⟨e, (Option.some.inj h).symm⟩
  case h_2 e => exact .inr (.inl ⟨e, (Option.some.inj h).symm⟩)
  case h_3 e => exact .inr (.inr ⟨e, (Option.some.inj h).symm⟩)
  case h_4 => cases h

theorem needTy_listed {ok : List Nat} {ty : Fin 16} (h : ty.val ∈ ok) (s : State) (k : State → Res) : needTy ok ty s k = k s := by
  simp [needTy, h]

section FloatTypes

variable {ty : Fin 16} {f : FFmt} (hf : tyFlt ty = some f)
include hf

theorem tyWidth_flt : tyWidth ty = f.width := by
  rcases tyFlt_cases hf with ⟨e, rfl⟩ | ⟨e, rfl⟩ | ⟨e, rfl⟩ <;> simp [tyWidth, e, FFmt.width, FFmt.ebits, FFmt.mbits]

theorem width_flt : f.width = 16 ∨ f.width = 32 := by
  rcases tyFlt_cases hf with ⟨-, rfl⟩ | ⟨-, rfl⟩ | ⟨-, rfl⟩ <;> decide

theorem ty_flt_mem : ty.val ∈ [6, 7, 8] := by
  rcases tyFlt_cases hf with ⟨e, -⟩ | ⟨e, -⟩ | ⟨e, -⟩ <;> simp [e]

variable (d a b : VR) (m : MR) (s : State)

/-- Types 6 to 8 under the types of arithmetic. -/
theorem needTy_flt (k : State → Res) : needTy [2, 3, 4, 5, 6, 7, 8] ty s k = k s :=
  needTy_listed (List.mem_append_right [2, 3, 4, 5] (ty_flt_mem hf)) s k

theorem vadd_flt : exec (.vadd d a b m ty) s = vector3 false (fun x y _ => fop2 f numAdd x y) f.width 2 d a b m s := by
  change execVadd d a b m ty s = _
  simp only [execVadd, needTy_flt hf, tyWidth_flt hf, eAdd, hf]

theorem vsub_flt : exec (.vsub d a b m ty) s = vector3 false (fun x y _ => fop2 f (fun p q => numAdd p q.neg) x y) f.width 2 d a b m s := by
  change execVsub d a b m ty s = _
  simp only [execVsub, needTy_flt hf, tyWidth_flt hf, eSub, hf]

theorem vmin_flt : exec (.vmin d a b m ty) s = vector3 false (fun x y _ => (fminmax f false x y, [])) f.width 2 d a b m s := by
  change execVmin d a b m ty s = _
  simp only [execVmin, needTy_flt hf, tyWidth_flt hf, eMinMax, hf]

theorem vmax_flt : exec (.vmax d a b m ty) s = vector3 false (fun x y _ => (fminmax f true x y, [])) f.width 2 d a b m s := by
  change execVmax d a b m ty s = _
  simp only [execVmax, needTy_flt hf, tyWidth_flt hf, eMinMax, hf]

theorem vmul_flt : exec (.vmul d a b m ty) s = vector3 false (fun x y _ => fop2 f numMul x y) f.width 5 d a b m s := by
  change execVmul d a b m ty s = _
  simp only [execVmul, needTy_flt hf, tyWidth_flt hf, eMul, hf]

theorem vscl_flt : exec (.vscl d a b m ty) s = vector3 false (fun x y _ => eScl ty x y) f.width 5 d a b m s := by
  change execVscl d a b m ty s = _
  simp only [execVscl, needTy_listed (ty_flt_mem hf), tyWidth_flt hf]

theorem vfma_flt : exec (.vfma d a b m ty) s = vector3 true (fun x y z => ffma f false x y z) f.width 5 d a b m s := by
  change execVfma d a b m ty s = _
  simp only [execVfma, needTy_listed (ty_flt_mem hf), tyWidth_flt hf, eFma, hf]

theorem vfnma_flt : exec (.vfnma d a b m ty) s = vector3 true (fun x y z => ffma f true x y z) f.width 5 d a b m s := by
  change execVfnma d a b m ty s = _
  simp only [execVfnma, needTy_listed (ty_flt_mem hf), tyWidth_flt hf, eFma, hf]

theorem vabs_flt : exec (.vabs d a m ty) s =
    vector1 (fun x => (if (decodeF f x).isNan then f.canon else x % 2 ^ (f.ebits + f.mbits), [])) f.width 2 d a m s := by
  change execVabs d a m ty s = _
  simp only [execVabs, needTy_flt hf, tyWidth_flt hf, eAbs, hf]

theorem vneg_flt : exec (.vneg d a m ty) s =
    vector1 (fun x => (if (decodeF f x).isNan then f.canon else (x + 2 ^ (f.ebits + f.mbits)) % 2 ^ f.width, [])) f.width 2 d a m s := by
  change execVneg d a m ty s = _
  simp only [execVneg, needTy_flt hf, tyWidth_flt hf, eNeg, hf]

end FloatTypes

/-- The sign bit's weight is half of the codes. -/
theorem half_codes (f : FFmt) : 2 ^ (f.width - 1) = 2 ^ (f.ebits + f.mbits) := by
  rw [width_eq, Nat.add_sub_cancel]

/-- A change of the sign bit, as an addition to or a subtraction from the code. -/
theorem flip_sign (f : FFmt) {x : Nat} (h : x < 2 ^ f.width) :
    (x + 2 ^ (f.ebits + f.mbits)) % 2 ^ f.width = if x < 2 ^ (f.ebits + f.mbits) then x + 2 ^ (f.ebits + f.mbits) else x - 2 ^ (f.ebits + f.mbits) := by
  rw [width_eq, pow_succ] at h ⊢
  generalize 2 ^ (f.ebits + f.mbits) = half at h ⊢
  split
  · exact Nat.mod_eq_of_lt (by omega)
  · rw [Nat.mod_eq_sub_mod (by omega), Nat.mod_eq_of_lt (by omega)]
    omega

theorem oldOf_masked (d : VR) (m : MR) : oldOf d m false = if m ≠ 0 then [.v d] else [] := by simp [oldOf]

theorem oldOf_read (d : VR) (m : MR) : oldOf d m true = [.v d] := by simp [oldOf]

section Readiness

variable {s : State} {d a b : VR} {m : MR}

/-- The sources of an element-wise operation stand in another order in its guard: a masked one reads d first (log 75). -/
theorem ready_binary (h : Ready (.v a :: .v b :: (maskReg m ++ if m ≠ 0 then [.v d] else [])) [.v d] s) :
    Ready (oldOf d m false ++ [.v a, .v b] ++ maskReg m) [.v d] s :=
  h.mono fun r => by simp only [oldOf_masked, List.mem_append, List.mem_cons]; tauto

theorem ready_fused (h : Ready (.v a :: .v b :: .v d :: maskReg m) [.v d] s) :
    Ready (oldOf d m true ++ [.v a, .v b] ++ maskReg m) [.v d] s :=
  h.mono fun r => by simp only [oldOf_read, List.mem_append, List.mem_cons]; tauto

theorem ready_unary (h : Ready (.v a :: (maskReg m ++ if m ≠ 0 then [.v d] else [])) [.v d] s) :
    Ready (oldOf d m false ++ [.v a] ++ maskReg m) [.v d] s :=
  h.mono fun r => by simp only [oldOf_masked, List.mem_append, List.mem_cons]; tauto

end Readiness

/-! The functions of FP32 alone (R205, R207). -/

section Fp32

variable (d a b : VR) (m : MR) (s : State)

theorem vdiv_f32 : exec (.vdiv d a b m 8) s = vector3 false (fun x y _ => fop2 .f32 numDiv x y) 32 14 d a b m s := rfl

theorem vrcp_f32 : exec (.vrcp d a m 8) s = vector1 (fop1 .f32 (numDiv numOne)) 32 8 d a m s := rfl

theorem vrsq_f32 : exec (.vrsq d a m 8) s = vector1 (fop1 .f32 fun x => numDiv numOne (numSqrt x)) 32 8 d a m s := rfl

theorem vsqrt_f32 : exec (.vsqrt d a m 8) s = vector1 (fop1 .f32 numSqrt) 32 8 d a m s := rfl

theorem vexp2_f32 : exec (.vexp2 d a m 8) s = vector1 (fop1 .f32 numExp2) 32 10 d a m s := rfl

theorem vlog2_f32 : exec (.vlog2 d a m 8) s = vector1 (fop1 .f32 numLog2) 32 10 d a m s := rfl

end Fp32

/-- Settles O23: every form is an element-wise function under the mask (`vector3_gives`, `vector1_gives`), which its own
equation (`vadd_flt` to `vlog2_f32`) names. -/
theorem vectorFloatResults : Obligations.VectorFloatResults := by
  intro s d a b m ty f hc hf w x y z on ifM gives half
  have hw := width_flt hf
  have f32 (e : ty = 8) : f = .f32 := by subst e; exact (Option.some.inj hf).symm
  refine ⟨fun hr => ?binary, fun hr => ?fused, fun hr => ?unary⟩
  case binary =>
    have three {i : Instr} (g : Nat → Nat → Nat → Coded) {L : Nat} (is : exec i s = vector3 false g w L d a b m s) :
        gives i L (fun e => g (x e) (y e) (z e)) := vector3_gives hw hc (ready_binary hr) is
    refine ⟨three _ (vadd_flt hf d a b m s), three _ (vsub_flt hf d a b m s), three _ (vmin_flt hf d a b m s),
      three _ (vmax_flt hf d a b m s), three _ (vmul_flt hf d a b m s), three _ (vscl_flt hf d a b m s), fun e => ?_⟩
    obtain rfl := f32 e
    subst e
    exact three _ (vdiv_f32 d a b m s)
  case fused =>
    have three {i : Instr} (g : Nat → Nat → Nat → Coded) {L : Nat} (is : exec i s = vector3 true g w L d a b m s) :
        gives i L (fun e => g (x e) (y e) (z e)) := vector3_gives hw hc (ready_fused hr) is
    exact ⟨three _ (vfma_flt hf d a b m s), three _ (vfnma_flt hf d a b m s)⟩
  case unary =>
    have one {i : Instr} (g : Nat → Coded) {L : Nat} (is : exec i s = vector1 g w L d a m s) : gives i L (fun e => g (x e)) :=
      vector1_gives hw hc (ready_unary hr) is
    refine ⟨?vabs, ?vneg, fun e => ?special⟩
    case vabs =>
      simp only [half, w, half_codes]
      exact one _ (vabs_flt hf d a m s)
    case vneg =>
      have flip (e : Nat) := flip_sign f (elemAt_lt w (rdV s a) e)
      simp only [half, w, half_codes, x, ← flip]
      exact one _ (vneg_flt hf d a m s)
    case special =>
      obtain rfl := f32 e
      subst e
      exact ⟨one _ (vrcp_f32 d a m s), one _ (vrsq_f32 d a m s), one _ (vsqrt_f32 d a m s), one _ (vexp2_f32 d a m s), one _ (vlog2_f32 d a m s)⟩

/-! ## The matrix format (R74, R157, R158) -/

/-- The values that FMTW accepts, by the fields of R74. -/
theorem fmtLegal_iff (s : State) (v : BitVec 32) :
    fmtLegal s v = true ↔ v.toNat < 2 ^ 14 ∧ v.toNat / 2 ^ 12 % 4 < 2 ∧ v.toNat / 2 ^ 8 % 16 < 5 ∧ (v.toNat / 2 ^ 12 % 4 = 1 → accepted s 3 = true) := by
  have scl : bitsAt v.toNat 12 2 = v.toNat / 2 ^ 12 % 4 := rfl
  have acc : bitsAt v.toNat 8 4 = v.toNat / 2 ^ 8 % 16 := rfl
  simp only [fmtLegal, scl, acc, Bool.and_eq_true, Bool.or_eq_true, decide_eq_true_eq, beq_iff_eq, and_assoc]
  refine and_congr_right fun _ => and_congr_right fun low => and_congr_right fun _ => ⟨fun h one => h.resolve_left (by omega), fun h => ?_⟩
  rcases Nat.eq_zero_or_pos (v.toNat / 2 ^ 12 % 4) with zero | pos
  · exact .inl zero
  · exact .inr (h (by omega))

/-- The context after an FMTW of v: what was in force stays so for four schedule cycles (R158). -/
def withFmt (v : BitVec 32) (x : Ctx) : Ctx :=
  { x with fmtOld := fmtNow x, fmtNew := x.fmtNew.filter (fun e => x.sc < e.1) ++ [(x.sc + 4, v)] }

/-- A write that has not come into force yet leaves the format as it is. -/
theorem withFmt_now (v : BitVec 32) (x : Ctx) : fmtNow (withFmt v x) = fmtNow x := by
  have none : (withFmt v x).fmtNew.filter (fun e => decide (e.1 ≤ x.sc)) = [] := by
    simp [withFmt, List.filter_eq_nil_iff]
  show ((((withFmt v x).fmtNew.filter fun e => decide (e.1 ≤ x.sc)).getLast?.map Prod.snd).getD (fmtNow x)) = fmtNow x
  rw [none]
  rfl

/-- Four schedule cycles later the value written is in force. -/
theorem withFmt_later (v : BitVec 32) (x : Ctx) {n : Nat} (h : 4 ≤ n) : fmtNow { withFmt v x with sc := x.sc + n } = v := by
  simp [fmtNow, withFmt, List.filter_append, h]

section Fmtw

variable {s : State} {x : SR} (hw : s.who.isSys = false) (hr : Ready [.s x] [] s)
include hw hr

theorem execFmtw_legal (ok : fmtLegal s ((rdS s x).truncate 32) = true) :
    execFmtw x s = .next { s with ctx := withFmt ((rdS s x).truncate 32) s.ctx } := by
  rw [execFmtw, if_neg (by simp [hw]), guardRegs_ready hr]
  exact if_pos ok

theorem execFmtw_illegal (bad : ¬ fmtLegal s ((rdS s x).truncate 32) = true) : execFmtw x s = trapAt 4 0x02 s.frame.parcel s := by
  rw [execFmtw, if_neg (by simp [hw]), guardRegs_ready hr]
  exact if_neg bad

end Fmtw

/-! ## Waiting for tokens (R159, R266) -/

/-- t is s but for what the observation of completions changes: the context's clock, its copy windows with the words that they hold, and
the L1G copies. -/
def Observes (s t : State) : Prop :=
  t = { s with ctx := { s.ctx with v := t.ctx.v, clock := t.ctx.clock, windows := t.ctx.windows }, clusters := t.clusters }

namespace Observes

theorem refl (s : State) : Observes s s := rfl

theorem trans {s t u : State} (h : Observes s t) (g : Observes t u) : Observes s u := by
  unfold Observes at *
  rw [g, h]

theorem who {s t : State} (h : Observes s t) : t.who = s.who := by rw [h]

theorem lands {s t : State} (h : Observes s t) : t.ctx.lands = s.ctx.lands := by rw [h]

theorem sameBytes {s t : State} (h : Observes s t) : SameBytes s t := fun _ => by rw [h]; exact ⟨rfl, rfl, rfl⟩

theorem sameSpecials {s t : State} (h : Observes s t) : SameSpecials s t := by
  rw [h]
  exact ⟨rfl, rfl, rfl, rfl, rfl, rfl, rfl, rfl, rfl, rfl, rfl, rfl, rfl, rfl⟩

theorem foldl {α : Type} {f : State → α → State} (h : ∀ s a, Observes s (f s a)) (l : List α) (s : State) : Observes s (l.foldl f s) := by
  induction l generalizing s with
  | nil => exact refl s
  | cons a l ih => exact (h s a).trans (ih _)

end Observes

theorem observeKey_observes (key : Nat) (s : State) : Observes s (observeKey key s) := by
  unfold observeKey
  split
  · rfl
  · exact .refl s

theorem observeWindows_observes (f : Window → Bool) (s : State) : Observes s (observeWindows f s) := by
  unfold observeWindows
  dsimp only
  generalize s.ctx.windows.partition (fun w => w.ended && f w) = parts
  rfl

theorem tokenFault_iff (t : Tokens) : tokenFault t = true ↔ ¬ (consumed t).Nodup ∨ (t.pv = true ∧ t.prod ∈ consumed t) := by
  simp [tokenFault]

section Waitk

variable {s : State} {tok : Tokens} (hw : s.who.isSys = false)
include hw

theorem execWaitk_fault (h : tokenFault tok = true) : execWaitk tok s = trapAt 9 0x10 s.frame.parcel s := by
  rw [execWaitk, if_neg (by simp [hw]), if_pos h]

theorem execWaitk_pending (good : ¬ tokenFault tok = true) (h : ∃ k ∈ consumed tok, pendingTok s k = true) : execWaitk tok s = stall s := by
  rw [execWaitk, if_neg (by simp [hw]), if_neg good, if_pos (List.any_eq_true.2 h)]

/-- A WAITK whose tokens are free observes their operations. -/
theorem execWaitk_free (good : ¬ tokenFault tok = true) (h : ∀ k ∈ consumed tok, pendingTok s k = false) :
    ∃ t, execWaitk tok s = .next t ∧ Observes s t := by
  rw [execWaitk, if_neg (by simp [hw]), if_neg good, if_neg (by simpa using h)]
  exact ⟨_, rfl, .foldl (fun s k => (observeKey_observes ..).trans (observeWindows_observes ..)) _ s⟩

end Waitk

/-! ## The seed stack (R47, R83, R168) -/

section Seeds

variable {s : State} (room : s.ctx.depth < 8) (v : Word)
include room

theorem seedTop_pushSeed : seedTop (pushSeed v s).ctx = v := by
  simp [seedTop, pushSeed, Nat.mod_eq_of_lt room, room]

/-- The seeds below a pushed one stay. -/
theorem seeds_pushSeed {i : Nat} (below : i < s.ctx.depth) : (pushSeed v s).ctx.seeds.toList.getD i 0 = s.ctx.seeds.toList.getD i 0 := by
  have ne : s.ctx.depth % 8 ≠ i := by omega
  simp [pushSeed, Vector.getElem?_set_ne _ ne]

end Seeds

/-- The product modulo 2^64 of a 16-bit immediate, in integers. -/
theorem zeroExtend_mul (imm : BitVec 16) (c : Nat) : imm.zeroExtend 64 * BitVec.ofNat 64 c = BitVec.ofNat 64 (imm.toNat * c) := by
  rw [BitVec.ofNat_mul, BitVec.ofNat_toNat]

/-- The seed that SEEDF forks, in integers (R83). -/
theorem forkSeed_eq (t : Word) (imm : BitVec 16) :
    forkSeed t (imm.zeroExtend 64) = mix (t ^^^ BitVec.ofNat 64 (imm.toNat * 0x9E3779B97F4A7C15)) :=
  congrArg (fun p => mix (t ^^^ p)) (zeroExtend_mul imm 0x9E3779B97F4A7C15)

theorem execFeat_ready {s : State} {d : SR} (h : Ready [] [.s d] s) (word : Fin 4) :
    execFeat d word s = .next (land (.s d) (.word s.dev.featAck[word.val]) 1 s) := guardRegs_ready h _

theorem execSeedr_ready {s : State} {d : SR} (h : Ready [] [.s d] s) :
    execSeedr d s = .next (land (.s d) (.word (seedTop s.ctx)) 1 s) := guardRegs_ready h _

/-- Settles O38: the format by what `withFmt` shows now and later, a wait by what `Observes` allows, a push by `seedTop_pushSeed`. -/
theorem controlState : Obligations.ControlState := by
  intro s x tok word imm v later top pushed
  refine ⟨fun hw hr => ?fmtw, fun hw => ?waitk, fun hr => ⟨execFeat_ready hr word, execSeedr_ready hr⟩, rfl, fun full => ?full, fun room => ?push,
    fun low => if_pos low, fun deep => if_neg (by omega)⟩
  case fmtw =>
    intro legal
    have legal_iff : fmtLegal s v = true ↔ legal := fmtLegal_iff s v
    refine ⟨fun ok => ?_, fun bad => execFmtw_illegal hw hr (mt legal_iff.1 bad)⟩
    exact ⟨_, execFmtw_legal hw hr (legal_iff.2 ok), withFmt_now .., fun n late => withFmt_later v s.ctx late, fun _ => ⟨rfl, rfl, rfl⟩,
      ⟨rfl, rfl, rfl, rfl, rfl, rfl, rfl⟩, rfl⟩
  case waitk =>
    refine ⟨fun fault => execWaitk_fault hw ((tokenFault_iff tok).2 fault), fun distinct apart => ?_⟩
    have good : ¬ tokenFault tok = true := fun fault =>
      ((tokenFault_iff tok).1 fault).elim (fun dup => dup distinct) fun ⟨pv, twice⟩ => apart pv twice
    refine ⟨execWaitk_pending hw good, fun free => ?_⟩
    obtain ⟨t, ran, seen⟩ := execWaitk_free hw good free
    exact ⟨t, ran, seen.who, seen.sameBytes, seen.lands, seen.sameSpecials⟩
  case full => exact ⟨if_pos full, if_pos full⟩
  case push =>
    have pushes (y : Word) : pushed (pushSeed y s) y := ⟨rfl, seedTop_pushSeed room y, fun i below => seeds_pushSeed room y below⟩
    refine ⟨fun hr => ⟨_, (if_neg (by omega)).trans (guardRegs_ready hr _), pushes _⟩, _, if_neg (by omega), ?_⟩
    rw [forkSeed_eq]
    exact pushes _

/-! ## Packed elements (R66) -/

/-- Digits of w bits put together from the lowest up. -/
def packDigits (w : Nat) (g : Nat → Nat) (n : Nat) : Nat := (List.range n).foldl (fun x j => x + g j % 2 ^ w * 2 ^ (w * j)) 0

theorem packDigits_succ (w : Nat) (g : Nat → Nat) (n : Nat) : packDigits w g (n + 1) = packDigits w g n + g n % 2 ^ w * 2 ^ (w * n) := by
  simp [packDigits, List.range_succ]

theorem packDigits_lt (w : Nat) (g : Nat → Nat) (n : Nat) : packDigits w g n < 2 ^ (w * n) := by
  induction n with
  | zero => simp [packDigits]
  | succ n ih =>
    have digit : g n % 2 ^ w + 1 ≤ 2 ^ w := Nat.mod_lt _ (Nat.two_pow_pos w)
    rw [packDigits_succ, Nat.mul_succ, pow_add]
    calc packDigits w g n + g n % 2 ^ w * 2 ^ (w * n) < (g n % 2 ^ w + 1) * 2 ^ (w * n) := by rw [add_mul, one_mul]; omega
      _ ≤ 2 ^ (w * n) * 2 ^ w := by rw [mul_comm]; exact Nat.mul_le_mul_left _ digit

/-- Digit k of digits put together. -/
theorem bitsAt_packDigits (w : Nat) (g : Nat → Nat) {n k : Nat} (hk : k < n) : bitsAt (packDigits w g n) (w * k) w = g k % 2 ^ w := by
  induction n with
  | zero => cases hk
  | succ n ih =>
    rw [packDigits_succ, bitsAt]
    rcases Nat.lt_succ_iff_lt_or_eq.1 hk with below | rfl
    · obtain ⟨j, rfl⟩ := Nat.exists_eq_add_of_lt below
      have high : g (k + j + 1) % 2 ^ w * 2 ^ (w * (k + j + 1)) = 2 ^ (w * k) * (2 ^ w * (g (k + j + 1) % 2 ^ w * 2 ^ (w * j))) := by
        ring
      rw [high, Nat.add_mul_div_left _ _ (Nat.two_pow_pos _), Nat.add_mul_mod_self_left]
      exact ih below
    · rw [Nat.add_mul_div_right _ _ (Nat.two_pow_pos _), Nat.div_eq_of_lt (packDigits_lt ..), Nat.zero_add, Nat.mod_mod]

/-- The elements of a packed register, for a width that divides a lane's. -/
theorem elemAt_packVec {w : Nat} (hw : w ∣ 32) (f : Nat → Nat) {e : Nat} (he : e < 2048 / w) : elemAt w (packVec w f) e = f e % 2 ^ w := by
  obtain ⟨n, hn⟩ := hw
  have pos : 0 < w := Nat.pos_of_ne_zero fun z => by simp [z] at hn
  have per : 32 / w = n := by rw [hn, Nat.mul_div_cancel_left n pos]
  have all : 2048 / w = n * 64 := Nat.div_eq_of_eq_mul_right pos (by rw [← mul_assoc, ← hn]; rfl)
  have posn : 0 < n := Nat.pos_of_ne_zero fun z => by simp [z] at hn
  have lane : e / n < 64 := Nat.div_lt_of_lt_mul (all ▸ he)
  have fits : packDigits w (fun j => f (e / n * n + j)) n < 2 ^ 32 := hn ▸ packDigits_lt ..
  rw [elemAt, packVec, per, lane_ofFn _ lane]
  show bitsAt (BitVec.ofNat 32 (packDigits w (fun j => f (e / n * n + j)) n)).toNat _ _ = _
  rw [BitVec.toNat_ofNat, Nat.mod_eq_of_lt fits, bitsAt_packDigits _ _ (Nat.mod_lt _ posn), Nat.div_add_mod']

theorem width_dvd {c : Nat} {t : Ty} (h : tyOf c = some t) : t.width ∣ 32 := by
  unfold tyOf at h
  split at h <;> cases h <;> decide

/-! ## Conversions (R213, R214) -/

/-- The draw of element e under stochastic rounding (R69); the other modes draw nothing. -/
def drawOf (mode : RMode) (s : State) (e : Nat) : Nat :=
  if mode = .sr then (draw (seedTop s.ctx) (rdS s 31 + BitVec.ofNat 64 e)).toNat else 0

theorem execVcvt_ready {s : State} {d a : VR} {sty dty : Fin 16} {rnd : Fin 8} {st dt : Ty} {mode : RMode} (hc : Computes s)
    (hst : tyOf sty.val = some st) (hdt : tyOf dty.val = some dt) (hmode : rmodeOf rnd.val = some mode)
    (hr : Ready ([.v a] ++ if mode = .sr then [.s 31] else []) [.v d] s) (sat : Bool) :
    let r (e : Nat) : Coded := convert st dt mode (drawOf mode s e) sat (elemAt st.width (rdV s a) e)
    execVcvt d a dty rnd sat sty s = .next (countMine ((List.range 64).flatMap fun e => (r e).2)
      (land (.v d) (.vec (packVec dt.width fun e => if e < 64 then (r e).1 else 0)) 3 s)) := by
  intro r
  rw [execVcvt, hst, hdt, hmode]
  dsimp only
  rw [needCompute_ready hc, guardRegs_ready hr, List.flatMap_map]
  have codes : (fun e => if e < 64 then (((List.range 64).map r).getD e (0, [])).1 else 0) = fun e => if e < 64 then (r e).1 else 0 :=
    funext fun e => ite_congr rfl (fun low => congrArg Prod.fst (getD_map_range r low _)) fun _ => rfl
  rw [← codes]
  rfl

theorem execVcvt_reserved {sty dty : Fin 16} {rnd : Fin 8} (h : tyOf sty.val = none ∨ tyOf dty.val = none ∨ rmodeOf rnd.val = none)
    (d a : VR) (sat : Bool) (s : State) : execVcvt d a dty rnd sat sty s = trapAt 4 0x02 s.frame.parcel s := by
  unfold execVcvt
  split
  · rename_i known₁ known₂ known₃
    simp [known₁, known₂, known₃] at h
  · rfl

/-! ## Packing and unpacking (R215) -/

/-- An integer of the type's range is what its code reads as (R63). -/
theorem intOf_wrapInt {w : Nat} (hw : 0 < w) {signed : Bool} {y : Int} (low : intMin w signed ≤ y) (high : y ≤ intMax w signed) :
    intOf w signed (wrapInt w y) = y := by
  cases signed with
  | true =>
    simp only [intMin, intMax, if_true] at low high
    rw [wrapInt_eq, intOf_signed _ hw, BitVec.toInt_ofInt_eq_self hw] <;> push_cast at low high <;> omega
  | false =>
    simp only [intMin, intMax, Bool.false_eq_true, if_false] at low high
    have code : wrapInt w y = y.toNat := by rw [wrapInt, Int.emod_eq_of_lt low (by omega)]
    have fits : y.toNat < 2 ^ w := by omega
    simp [intOf, code, Nat.mod_eq_of_lt fits, low]

theorem satInt_range (w : Nat) (signed : Bool) (x : Int) : intMin w signed ≤ satInt w signed x ∧ satInt w signed x ≤ intMax w signed := by
  have : intMin w signed ≤ intMax w signed := by
    have one : 1 ≤ 2 ^ w := Nat.one_le_two_pow
    have half : 1 ≤ 2 ^ (w - 1) := Nat.one_le_two_pow
    cases signed <;> simp only [intMin, intMax, if_true, Bool.false_eq_true, if_false] <;> omega
  simp only [satInt]
  omega

/-- The lanes of two registers one after the other. -/
theorem lanes_append (x y : Vec) :
    x.toList ++ y.toList = (List.range 128).map fun e => if e < 64 then x.toList.getD e 0 else y.toList.getD (e - 64) 0 := by
  have first : (List.range 64).map (fun e => if e < 64 then x.toList.getD e 0 else y.toList.getD (e - 64) 0) = x.toList :=
    (List.map_congr_left fun e he => if_pos (List.mem_range.1 he)).trans (lanes_eq x).symm
  have second : (List.range 64).map (fun e => if 64 + e < 64 then x.toList.getD (64 + e) 0 else y.toList.getD (64 + e - 64) 0) = y.toList :=
    (List.map_congr_left fun e _ => by rw [if_neg (by omega), Nat.add_sub_cancel_left]).trans (lanes_eq y).symm
  rw [show 128 = 64 + 64 from rfl, List.range_add, List.map_append, List.map_map, first]
  exact congrArg (x.toList ++ ·) second.symm

theorem vectorAll_ready {s : State} {rs : List RegName} {d : VR} (hc : Computes s) (hr : Ready rs [.v d] s) (L : Nat) (f : State → Vec) :
    vectorAll rs L d f s = .next (land (.v d) (.vec (f s)) L s) := by
  rw [vectorAll, needCompute_ready hc, guardRegs_ready hr]

/-- Code y of w bits, read back, whatever width it was kept in. -/
theorem intOf_mod (w : Nat) (signed : Bool) (x : Nat) : intOf w signed (x % 2 ^ w) = intOf w signed x := by
  rw [intOf, intOf, Nat.mod_mod]

/-- An element of VPACK is the lane that it takes, brought into the range of the 16-bit type. -/
theorem execVpack_ready {s : State} {d a b : VR} {ty : Fin 16} (hc : Computes s) (hr : Ready [.v a, .v b] [.v d] s) (hty : ty.val = 2 ∨ ty.val = 3) :
    ∃ V : Vec, execVpack d a b ty s = .next (land (.v d) (.vec V) 2 s) ∧ ∀ e, e < 128 → intOf 16 (tySigned ty) (elemAt 16 V e) =
      satInt 16 (tySigned ty) (if e < 64 then ((rdV s a).toList.getD e 0).toInt else ((rdV s b).toList.getD (e - 64) 0).toInt) := by
  rw [execVpack, needTy_listed (by simpa using hty), vectorAll_ready hc hr]
  refine ⟨_, rfl, fun e he => ?_⟩
  dsimp only
  rw [lanes_append, List.map_map, show 128 = 2048 / 16 from rfl, elemAt_ofElems (.inl rfl) _ he, Function.comp_apply, intOf_mod,
    intOf_signed _ (by decide), intOf_wrapInt (by decide) (satInt_range ..).1 (satInt_range ..).2, apply_ite BitVec.toInt]

/-- The upper elements of a register, from element k. -/
theorem elems_drop_getD {w : Nat} (hw : w = 16 ∨ w = 32) (x : Vec) {k i : Nat} (h : k + i < 2048 / w) :
    ((elems w x).drop k).getD i 0 = elemAt w x (k + i) := by
  rw [List.getD_eq_getElem?_getD, List.getElem?_drop, ← List.getD_eq_getElem?_getD, elems_eq hw, getD_map_range _ h]

/-- A 16-bit code of type 2 is signed, one of type 3 unsigned (R64). -/
theorem int16_code {ty : Fin 16} (hty : ty.val = 2 ∨ ty.val = 3) {y : Nat} (hy : y < 2 ^ 16) :
    (if ty.val = 2 then (BitVec.ofNat 16 y).toInt else y) = intOf 16 (tySigned ty) y := by
  rcases hty with e | e
  · have signed : tySigned ty = true := by simp [tySigned, e]
    rw [if_pos e, signed, ← intOf_mod, ← BitVec.toNat_ofNat, intOf_signed _ (by decide)]
  · have unsigned : tySigned ty = false := by simp [tySigned, e]
    rw [if_neg (by omega), unsigned, intOf, Nat.mod_eq_of_lt hy]
    rfl

theorem int16_range {ty : Fin 16} (hty : ty.val = 2 ∨ ty.val = 3) :
    intMin 16 (tySigned ty) = (if ty.val = 2 then -32768 else 0) ∧ intMax 16 (tySigned ty) = if ty.val = 2 then 32767 else 65535 := by
  rcases hty with e | e <;> simp [tySigned, e, intMin, intMax]

/-- What VUNPK makes of a 16-bit element: an FP32 code, or a 32-bit integer. -/
def widened (ty : Fin 16) (x : Nat) : Nat :=
  match tyFlt ty with
  | some f => (roundF .f32 .rne 0 (decodeF f x)).1
  | none => wrapInt 32 (intOf 16 (tySigned ty) x)

theorem execVunpk_ready {s : State} {d a : VR} {n : Fin 32} {ty : Fin 16} (hc : Computes s) (hr : Ready [.v a] [.v d] s) (half : n.val < 2)
    (listed : ty.val ∈ [2, 3, 6, 7]) : execVunpk d a n ty s =
      .next (land (.v d) (.vec (Vector.ofFn fun i => BitVec.ofNat 32 (widened ty (elemAt 16 (rdV s a) (64 * n.val + i.val))))) 2 s) := by
  rw [execVunpk, needTy_listed listed, if_neg (by omega), vectorAll_ready hc hr]
  refine congrArg (fun f => Host.Outcome.next (land (.v d) (.vec (Vector.ofFn f)) 2 s)) (funext fun i => ?_)
  have fits : 64 * n.val + i.val < 2048 / 16 := by omega
  rw [← elems_drop_getD (.inl rfl) (rdV s a) fits]
  rfl

/-- The integer types of 16 bits are no floating-point types (R64). -/
theorem tyFlt_int16 {ty : Fin 16} (hty : ty.val = 2 ∨ ty.val = 3) : tyFlt ty = none := by
  rcases hty with e | e <;> simp [tyFlt, e]

theorem widened_int {ty : Fin 16} (hty : ty.val = 2 ∨ ty.val = 3) (x : Nat) :
    BitVec.ofNat 32 (widened ty x) = BitVec.ofInt 32 (intOf 16 (tySigned ty) x) := by
  rw [widened, tyFlt_int16 hty]
  exact (congrArg (BitVec.ofNat 32) (wrapInt_eq ..)).trans ((BitVec.ofNat_toNat ..).trans (BitVec.setWidth_eq _))

theorem widened_flt {ty : Fin 16} {f : FFmt} (hf : tyFlt ty = some f) (x : Nat) : widened ty x = (roundF .f32 .rne 0 (decodeF f x)).1 := by
  rw [widened, hf]

/-! ## Reductions over the tree of R80 -/

theorem treeLevel_length {α : Type} (op : α → α → α) : ∀ l : List α, (treeLevel op l).length = (l.length + 1) / 2
  | [] => by simp [treeLevel]
  | [_] => by simp [treeLevel]
  | a :: b :: rest => by
    rw [treeLevel, List.length_cons, treeLevel_length op rest, List.length_cons, List.length_cons]
    omega

/-- n levels bring 2^n values down to one. -/
theorem treeFold_length {α : Type} (op : α → α → α) (n : Nat) (l : List α) (h : l.length ≤ 2 ^ n) : (treeFold op n l).length ≤ 1 := by
  induction n generalizing l with
  | zero => exact h
  | succ n ih => exact ih _ (by rw [treeLevel_length]; omega)

/-- A level of sums modulo M keeps the sum modulo M. -/
theorem treeLevel_sum (M : Nat) : ∀ l : List Nat, (treeLevel (fun p q => (p + q) % M) l).sum % M = l.sum % M
  | [] => rfl
  | [_] => rfl
  | a :: b :: rest => by
    rw [treeLevel, List.sum_cons, Nat.mod_add_mod, Nat.add_mod, treeLevel_sum M rest, ← Nat.add_mod, List.sum_cons, List.sum_cons, Nat.add_assoc]

theorem treeFold_sum (M n : Nat) (l : List Nat) : (treeFold (fun p q => (p + q) % M) n l).sum % M = l.sum % M := by
  induction n generalizing l with
  | zero => rfl
  | succ n ih => exact (ih _).trans (treeLevel_sum M l)

/-- The tree of sums modulo M gives the sum, in whatever order it adds. -/
theorem treeReduce_sum (M : Nat) (l : List Nat) : treeReduce (fun p q => (p + q) % M) 0 l % M = l.sum % M := by
  have one := treeFold_length (fun p q => (p + q) % M) (l.length.log2 + 1) l Nat.lt_log2_self.le
  have total := treeFold_sum M (l.length.log2 + 1) l
  rw [treeReduce]
  generalize treeFold (fun p q => (p + q) % M) (l.length.log2 + 1) l = t at one total
  match t, one with
  | [], _ => exact total
  | [x], _ => simpa using total

/-- Segment j of n lanes. -/
def segment (x : Vec) (n j : Nat) : List Nat := (List.range n).map fun i => (x.toList.getD (j * n + i) 0).toNat

theorem elems_segment (x : Vec) {n j : Nat} (h : j * n + n ≤ 64) : ((elems 32 x).drop (j * n)).take n = segment x n j := by
  rw [elems_eq (.inr rfl)]
  apply List.ext_getElem
  · simp [segment]; omega
  · intro i h₁ h₂
    simp [segment, elemAt_32]

/-- Lanes of a segment are lanes of one register. -/
theorem segment_fits {g i : Nat} (hg : g < 7) (hi : i < 64) : i / 2 ^ g < 64 / 2 ^ g ∧ i / 2 ^ g * 2 ^ g + 2 ^ g ≤ 64 := by
  have dvd : 2 ^ g ∣ 64 := pow_dvd_pow 2 (show g ≤ 6 by omega)
  have lt : i / 2 ^ g < 64 / 2 ^ g := Nat.div_lt_div_of_lt_of_dvd dvd hi
  refine ⟨lt, ?_⟩
  rw [← Nat.succ_mul]
  exact (Nat.mul_le_mul_right _ lt).trans (Nat.div_mul_le_self ..)

/-- The sum that VRED gives a segment, with its events (R80, R216). -/
def segmentSum (ty : Fin 16) (l : List Nat) : Coded :=
  match tyFlt ty with
  | none => (treeReduce (fun p q => (p + q) % 2 ^ 32) 0 l, [])
  | some f =>
    let r := treeReduce (fun p q => (fop2 f numAdd p q).1) 0 l
    (r, if (decodeF f r).isNan then (if (l.map (decodeF f)).any Num.isNan then [] else [2])
        else if !(decodeF f r).isFinite && (l.map (decodeF f)).all Num.isFinite then [0] else [])

/-- The sums of the segments of 2^g lanes. -/
def segmentSums (ty : Fin 16) (x : Vec) (g : Nat) : List Coded :=
  (List.range (64 / 2 ^ g)).map fun j => segmentSum ty (((elems 32 x).drop (j * 2 ^ g)).take (2 ^ g))

/-- Every lane has the sum of its segment. -/
theorem segmentSums_lane (ty : Fin 16) (x : Vec) {g i : Nat} (hg : g < 7) (hi : i < 64) :
    (segmentSums ty x g).getD (i / 2 ^ g) (0, []) = segmentSum ty (segment x (2 ^ g) (i / 2 ^ g)) := by
  obtain ⟨lt, fits⟩ := segment_fits hg hi
  rw [segmentSums, getD_map_range _ lt, elems_segment x fits]

theorem segmentSums_int {ty : Fin 16} (h : tyFlt ty = none) (x : Vec) (g : Nat) : (segmentSums ty x g).flatMap (·.2) = [] := by
  simp [segmentSums, segmentSum, h]

section Reductions

variable {s : State} {d a : VR} {n : Fin 32} {ty : Fin 16} (hc : Computes s) (hr : Ready [.v a] [.v d] s) (hn : n.val < 7)
include hc hr hn

theorem execVred_ready (listed : ty.val ∈ [4, 5, 8]) :
    execVred d a n ty s = .next (countMine (if 2 ^ n.val = 1 then [] else (segmentSums ty (rdV s a) n.val).flatMap (·.2))
      (land (.v d) (.vec (Vector.ofFn fun i => BitVec.ofNat 32 (segmentSum ty (segment (rdV s a) (2 ^ n.val) (i.val / 2 ^ n.val))).1)) 6 s)) := by
  rw [execVred, needTy_listed listed, if_neg (by omega), needCompute_ready hc, guardRegs_ready hr]
  simp only [← segmentSums_lane ty (rdV s a) hn (Fin.isLt _)]
  rfl

/-- The integers of a segment are added modulo 2^32, and count no event (R216). -/
theorem execVred_int (hty : ty.val = 4 ∨ ty.val = 5) :
    execVred d a n ty s = .next (land (.v d)
      (.vec (Vector.ofFn fun i => BitVec.ofNat 32 (segment (rdV s a) (2 ^ n.val) (i.val / 2 ^ n.val)).sum)) 6 s) := by
  have int : tyFlt ty = none := by
    rcases hty with e | e <;> simp [tyFlt, e]
  have sum (l : List Nat) : BitVec.ofNat 32 (segmentSum ty l).1 = BitVec.ofNat 32 l.sum := by
    apply BitVec.eq_of_toNat_eq
    rw [segmentSum, int, BitVec.toNat_ofNat, BitVec.toNat_ofNat]
    exact treeReduce_sum (2 ^ 32) l
  rw [execVred_ready hc hr hn (by rcases hty with e | e <;> simp [e]), segmentSums_int int, ite_self]
  simp only [sum]
  rfl

end Reductions

/-! ## Draws (R82, R217) -/

theorem draw_eq (s : Word) (x : Word) (y : Lane) :
    draw s (x + y.zeroExtend 64) = BitVec.ofNat 32 ((mix (s + mix (BitVec.ofNat 64 (x.toNat + y.toNat)))).toNat / 2 ^ 32) := by
  have index : x + y.zeroExtend 64 = BitVec.ofNat 64 (x.toNat + y.toNat) := by
    rw [BitVec.ofNat_add, BitVec.ofNat_toNat, BitVec.ofNat_toNat, BitVec.setWidth_eq]
  rw [draw, index]
  apply BitVec.eq_of_toNat_eq
  rw [BitVec.extractLsb'_toNat, Nat.shiftRight_eq_div_pow, BitVec.toNat_ofNat]

theorem execVrng_ready {s : State} {d a : VR} {x : SR} (hc : Computes s) (hr : Ready [.v a, .s x] [.v d] s) :
    execVrng d a x s = .next (land (.v d) (.vec (Vector.ofFn fun i => BitVec.ofNat 32 ((mix (seedTop s.ctx +
      mix (BitVec.ofNat 64 ((rdS s x).toNat + ((rdV s a).toList.getD i.val 0).toNat)))).toNat / 2 ^ 32))) 5 s) := by
  rw [execVrng, vectorAll_ready hc hr]
  refine congrArg (fun f => Host.Outcome.next (land (.v d) (.vec (Vector.ofFn f)) 5 s)) (funext fun i => ?_)
  have lane : (rdV s a)[i] = (rdV s a).toList.getD i.val 0 := by simp
  rw [draw_eq, lane]

/-! ## Block quantisation (R218–R220) -/

/-- Width of the elements of a quantised image (R218). -/
def quantWidth (ty : Fin 16) : Nat := if ty.val = 11 then 4 else 8

/-- The scale codes stand in the lane past the elements. -/
theorem quantLayout_eq (ty : Fin 16) : quantLayout ty = (quantWidth ty, 2 * quantWidth ty) := by
  unfold quantLayout quantWidth
  split <;> rfl

/-- A block of 32 lanes gives 32 codes. -/
theorem quantBlock_length (ty : Fin 16) (t : Ty) (mode : RMode) (u : Nat → Nat) {xs : List Nat} (h : xs.length = 32) :
    (quantBlock ty t mode u xs).2.1.length = 32 := by
  unfold quantBlock
  dsimp only
  split <;> simp [h]

theorem quantWidth_cases (ty : Fin 16) : quantWidth ty = 4 ∨ quantWidth ty = 8 := by
  unfold quantWidth
  split
  · exact .inl rfl
  · exact .inr rfl

/-- A quantised image: its codes, and the scales in the lane past them (R218). -/
def quantImage (w : Nat) (codes : List Nat) (scales : Nat) : Vec :=
  Vector.ofFn fun i => ((packVec w fun e => if e < 64 then codes.getD e 0 else 0).toList.set (2 * w) (BitVec.ofNat 32 scales)).getD i.val 0

section Image

variable {w : Nat} (hw : w = 4 ∨ w = 8) (codes : List Nat) (scales : Nat)
include hw

theorem quantImage_scales : (quantImage w codes scales).toList.getD (2 * w) 0 = BitVec.ofNat 32 scales := by
  have fits : 2 * w < 64 := by omega
  rw [quantImage, lane_ofFn _ fits]
  simp [fits]

theorem quantImage_element {e : Nat} (he : e < 64) : elemAt w (quantImage w codes scales) e = codes.getD e 0 % 2 ^ w := by
  have dvd : w ∣ 32 := by rcases hw with rfl | rfl <;> decide
  have inside : e < 2048 / w := by rcases hw with rfl | rfl <;> omega
  have below : e / (32 / w) < 2 * w := by rcases hw with rfl | rfl <;> omega
  have lane : (quantImage w codes scales).toList.getD (e / (32 / w)) 0 =
      (packVec w fun e => if e < 64 then codes.getD e 0 else 0).toList.getD (e / (32 / w)) 0 := by
    rw [quantImage, lane_ofFn _ (below.trans (by omega)), List.getD_eq_getElem?_getD, List.getElem?_set_ne below.ne', ← List.getD_eq_getElem?_getD]
  rw [elemAt, lane, ← elemAt, elemAt_packVec dvd _ inside, if_pos he]

end Image

/-- Element e of VDQNT: its code by its block's scale, rounded once (R220). -/
def dequant (ty : Fin 16) (t : Ty) (mode : RMode) (s : State) (x : Vec) (e : Nat) : Coded :=
  let scale := (x.toList.getD (2 * quantWidth ty) 0).toNat / 2 ^ (8 * (e / 32)) % 256
  if scale = 0xFF then (0x7FC00000, [])
  else convFlt .f32 mode (drawOf mode s e) false (scaleBy ((scale : Int) - 127) (readTy t (elemAt (quantWidth ty) x e)).1)

section Quantise

variable {s : State} {d a : VR} {ty : Fin 16} {rnd : Fin 8} {t : Ty} {mode : RMode}

/-- Block h of a register, quantised (R219). -/
def quantHalf (ty : Fin 16) (t : Ty) (mode : RMode) (s : State) (x : Vec) (h : Nat) : Nat × List Nat × List Nat :=
  quantBlock ty t mode (fun k => drawOf mode s (32 * h + k)) ((List.range 32).map fun i => (x.toList.getD (32 * h + i) 0).toNat)

theorem quantHalf_length (x : Vec) (h : Nat) : (quantHalf ty t mode s x h).2.1.length = 32 := quantBlock_length _ _ _ _ (by simp)

/-- The codes of both blocks in element order. -/
theorem quantHalf_codes (x : Vec) {e : Nat} (he : e < 64) :
    ((quantHalf ty t mode s x 0).2.1 ++ (quantHalf ty t mode s x 1).2.1).getD e 0 = (quantHalf ty t mode s x (e / 32)).2.1.getD (e % 32) 0 := by
  rcases Nat.lt_or_ge e 32 with low | high
  · rw [List.getD_append _ _ _ _ (by rwa [quantHalf_length]), Nat.div_eq_of_lt low, Nat.mod_eq_of_lt low]
  · rw [List.getD_append_right _ _ _ _ (by rwa [quantHalf_length]), quantHalf_length, show e / 32 = 1 by omega, show e % 32 = e - 32 by omega]

/-- The elements of a register are those of its two blocks. -/
theorem elems_blocks (x : Vec) :
    (elems 32 x).take 32 = (List.range 32).map (fun i => (x.toList.getD (32 * 0 + i) 0).toNat) ∧
      (elems 32 x).drop 32 = (List.range 32).map (fun i => (x.toList.getD (32 * 1 + i) 0).toNat) := by
  rw [elems_eq (.inr rfl)]
  constructor <;> apply List.ext_getElem <;> simp [elemAt_32]

variable (hc : Computes s) (hty : ty.val ∈ [0, 9, 10, 11]) (ht : tyOf ty.val = some t) (hmode : rmodeOf rnd.val = some mode)
  (hr : Ready ([.v a] ++ if mode = .sr then [.s 31] else []) [.v d] s)
include hc hty ht hmode hr

theorem execVqnt_ready :
    let B := quantHalf ty t mode s (rdV s a)
    execVqnt d a rnd ty s = .next (countMine ((B 0).2.2 ++ (B 1).2.2)
      (land (.v d) (.vec (quantImage (quantWidth ty) ((B 0).2.1 ++ (B 1).2.1) ((B 0).1 + 256 * (B 1).1))) 5 s)) := by
  intro B
  obtain ⟨first, second⟩ := elems_blocks (rdV s a)
  rw [execVqnt, needTy_listed hty, ht, hmode]
  dsimp only
  rw [needCompute_ready hc, guardRegs_ready hr, quantLayout_eq, first, second]
  simp only [B, quantHalf, Nat.mul_zero, Nat.zero_add, Nat.mul_one]
  rfl

theorem execVdqnt_ready :
    execVdqnt d a rnd ty s = .next (countMine ((List.range 64).flatMap fun e => (dequant ty t mode s (rdV s a) e).2)
      (land (.v d) (.vec (ofElems 32 ((List.range 64).map fun e => (dequant ty t mode s (rdV s a) e).1))) 5 s)) := by
  rw [execVdqnt, needTy_listed hty, ht, hmode]
  dsimp only
  rw [needCompute_ready hc, guardRegs_ready hr, quantLayout_eq, List.flatMap_map, List.map_map]
  rfl

end Quantise

/-- Settles O25: the conversions and packings element by element (`elemAt_packVec`, `elemAt_ofElems`), VRED by the sums of its segments
(`treeReduce_sum`), VQNT by the image of its two blocks (`quantImage_element`, `quantImage_scales`). -/
theorem vectorConversionsAndQuantisation : Obligations.VectorConversionsAndQuantisation := by
  refine ⟨?conversions, ?blocks⟩
  case conversions =>
    intro s d a b x ty sty dty rnd sat n hc u lanes int16 lo hi
    have reads (hty : ty.val = 2 ∨ ty.val = 3) {y : Nat} (hy : y < 2 ^ 16) : int16 y = intOf 16 (tySigned ty) y := int16_code hty hy
    have range (hty : ty.val = 2 ∨ ty.val = 3) : intMin 16 (tySigned ty) = lo ∧ intMax 16 (tySigned ty) = hi := int16_range hty
    refine ⟨fun st dt mode hst hdt hmode hr => ⟨_, execVcvt_ready hc hst hdt hmode hr sat, fun e he => ?vcvt⟩,
      fun h => execVcvt_reserved h d a sat s, fun hr hty => ?vpack,
      fun hr => ⟨fun half hty => ?ints, fun half f hf narrow => ?floats, fun hn hty => execVred_int hc hr hn hty, fun hn hty => ?f32⟩,
      fun hr => execVrng_ready hc hr⟩
    case vcvt =>
      rw [elemAt_packVec (width_dvd hdt) _ he]
      split
      · rfl
      · exact Nat.zero_mod _
    case vpack =>
      obtain ⟨V, ran, elements⟩ := execVpack_ready hc hr hty
      refine ⟨V, ran, fun e he => ?_⟩
      obtain ⟨low, high⟩ := range hty
      rw [reads hty (elemAt_lt ..), elements e he, satInt, low, high]
    case ints =>
      refine (execVunpk_ready hc hr half (by rcases hty with e | e <;> simp [e])).trans ?_
      simp only [widened_int hty, reads hty (elemAt_lt ..)]
    case floats =>
      have listed : ty.val ∈ [2, 3, 6, 7] := by
        rcases tyFlt_cases hf with ⟨e, -⟩ | ⟨e, -⟩ | ⟨-, wide⟩
        · simp [e]
        · simp [e]
        · exact absurd wide narrow
      refine (execVunpk_ready hc hr half listed).trans ?_
      simp only [widened_flt hf]
    case f32 =>
      obtain rfl : ty = 8 := Fin.ext hty
      exact ⟨_, execVred_ready hc hr hn (by decide)⟩
  case blocks =>
    intro s d a rnd ty t mode hc hty ht hmode hr u w lane block
    refine ⟨⟨_, execVqnt_ready hc hty ht hmode hr, fun e he => ?_, ?_⟩, _, execVdqnt_ready hc hty ht hmode hr, fun e he => ?_⟩
    · exact (quantImage_element (quantWidth_cases ty) _ _ he).trans (congrArg (· % 2 ^ w) (quantHalf_codes _ he))
    · exact (congrArg BitVec.toNat (quantImage_scales (quantWidth_cases ty) _ _)).trans (BitVec.toNat_ofNat _ _)
    · exact (elemAt_32 _ e).symm.trans (elemAt_ofElems (.inr rfl) _ he)

end Sys2Proof.Machine

namespace Sys2Proof.Laws.RoundTrip

/-! ## Every instruction (R86–R116, R355) -/

/-- The words of every instruction give it back, each by its constructor's lemma; a device step has none. -/
theorem statement_of_every : ∀ i : Instr, Statement i
  | .gapBundle hd => gapBundle hd
  | .skippedBundle hd => skippedBundle hd
  | .add d a b => add d a b
  | .sub d a b => sub d a b
  | .andS d a b => andS d a b
  | .orS d a b => orS d a b
  | .xorS d a b => xorS d a b
  | .andn d a b => andn d a b
  | .shl d a b => shl d a b
  | .shr d a b => shr d a b
  | .sha d a b => sha d a b
  | .rotl d a b => rotl d a b
  | .minS d a b => minS d a b
  | .maxS d a b => maxS d a b
  | .minz d a b => minz d a b
  | .maxz d a b => maxz d a b
  | .mul d a b => mul d a b
  | .mulh d a b => mulh d a b
  | .mulhz d a b => mulhz d a b
  | .divS d a b => divS d a b
  | .divz d a b => divz d a b
  | .remS d a b => remS d a b
  | .remz d a b => remz d a b
  | .clz d a => clz d a
  | .ctz d a => ctz d a
  | .popc d a => popc d a
  | .sextb d a => sextb d a
  | .sexth d a => sexth d a
  | .sextw d a => sextw d a
  | .addi d a imm => addi d a imm
  | .andi d a imm => andi d a imm
  | .ori d a imm => ori d a imm
  | .xori d a imm => xori d a imm
  | .shli d a n => shli d a n
  | .shri d a n => shri d a n
  | .shai d a n => shai d a n
  | .li d imm => li d imm
  | .lis d imm => lis d imm
  | .cmp cond pd a b => cmp cond pd a b
  | .cmpi cond pd a imm => cmpi cond pd a imm
  | .pand pd pa pb => pand pd pa pb
  | .por pd pa pb => por pd pa pb
  | .pxor pd pa pb => pxor pd pa pb
  | .pandn pd pa pb => pandn pd pa pb
  | .pnot pd pa => pnot pd pa
  | .pmov pd pa => pmov pd pa
  | .sel d a b p => sel d a b p
  | .aadd ad aa s => aadd ad aa s
  | .asub ad aa s => asub ad aa s
  | .amovs ad s => amovs ad s
  | .smova d aa => smova d aa
  | .aaddi ad aa imm => aaddi ad aa imm
  | .astride a level imm => astride a level imm
  | .movx d sel => movx d sel
  | .fadd d a b => fadd d a b
  | .fsub d a b => fsub d a b
  | .fmul d a b => fmul d a b
  | .fdiv d a b => fdiv d a b
  | .fmin d a b => fmin d a b
  | .fmax d a b => fmax d a b
  | .fsqrt d a => fsqrt d a
  | .fcvtif d a => fcvtif d a
  | .fcvtfi d a => fcvtfi d a
  | .fcmp cond pd a b => fcmp cond pd a b
  | .btgt b imm => btgt b imm
  | .btgta b aa => btgta b aa
  | .ldb d a post off => ldb d a post off
  | .ldbz d a post off => ldbz d a post off
  | .ldh d a post off => ldh d a post off
  | .ldhz d a post off => ldhz d a post off
  | .ldw d a post off => ldw d a post off
  | .ldwz d a post off => ldwz d a post off
  | .ldd d a post off => ldd d a post off
  | .ldv d a post off => ldv d a post off
  | .ldvs d a post s off => ldvs d a post s off
  | .ldvx d a vi sc => ldvx d a vi sc
  | .ldvb d a post off => ldvb d a post off
  | .ldm d a post off => ldm d a post off
  | .ldwt d a post off => ldwt d a post off
  | .ldg d a size off => ldg d a size off
  | .ldgv d a post off => ldgv d a post off
  | .ldaq d a size scope => ldaq d a size scope
  | .stb s a post off => stb s a post off
  | .sth s a post off => sth s a post off
  | .stw s a post off => stw s a post off
  | .std s a post off => std s a post off
  | .stv v a post off => stv v a post off
  | .stvm v a post m off => stvm v a post m off
  | .stvs v a post s off => stvs v a post s off
  | .stvx v a vi sc => stvx v a vi sc
  | .stwt w1 a post off => stwt w1 a post off
  | .stm m a post off => stm m a post off
  | .stg s a size off => stg s a size off
  | .stgv v a post off => stgv v a post off
  | .strl s a size scope => strl s a size scope
  | .atomAdd d a s g z oc => atomAdd d a s g z oc
  | .atomAnd d a s g z oc => atomAnd d a s g z oc
  | .atomOr d a s g z oc => atomOr d a s g z oc
  | .atomXor d a s g z oc => atomXor d a s g z oc
  | .atomMin d a s g z oc => atomMin d a s g z oc
  | .atomMax d a s g z oc => atomMax d a s g z oc
  | .atomMinz d a s g z oc => atomMinz d a s g z oc
  | .atomMaxz d a s g z oc => atomMaxz d a s g z oc
  | .atomXchg d a s g z oc => atomXchg d a s g z oc
  | .atomFadd d a s g z oc => atomFadd d a s g z oc
  | .acas d a s g z oc => acas d a s g z oc
  | .fence kind scope => fence kind scope
  | .cmo op level a s => cmo op level a s
  | .rgset rg a s s2 mode => rgset rg a s s2 mode
  | .rgwb rg => rgwb rg
  | .rgdrop rg => rgdrop rg
  | .vadd d a b m ty => vadd d a b m ty
  | .vsub d a b m ty => vsub d a b m ty
  | .vmin d a b m ty => vmin d a b m ty
  | .vmax d a b m ty => vmax d a b m ty
  | .vabs d a m ty => vabs d a m ty
  | .vneg d a m ty => vneg d a m ty
  | .vand d a b m => vand d a b m
  | .vor d a b m => vor d a b m
  | .vxor d a b m => vxor d a b m
  | .vshl d a b m ty => vshl d a b m ty
  | .vshr d a b m ty => vshr d a b m ty
  | .vsha d a b m ty => vsha d a b m ty
  | .vcmp cond md a b ty => vcmp cond md a b ty
  | .vsel d a b m => vsel d a b m
  | .vmov d a m => vmov d a m
  | .vbc d a m ty => vbc d a m ty
  | .vperm d a b => vperm d a b
  | .vshuf d a k => vshuf d a k
  | .vcvt d a dty rnd sat sty => vcvt d a dty rnd sat sty
  | .vpack d a b ty => vpack d a b ty
  | .vunpk d a h ty => vunpk d a h ty
  | .vred d a g ty => vred d a g ty
  | .vext d a s => vext d a s
  | .vins d a s => vins d a s
  | .viota d a => viota d a
  | .mand md ma mb => mand md ma mb
  | .mor md ma mb => mor md ma mb
  | .mxor md ma mb => mxor md ma mb
  | .mandn md ma mb => mandn md ma mb
  | .mnot md ma => mnot md ma
  | .mmov md ma => mmov md ma
  | .mpop d ma => mpop d ma
  | .mfirst d ma => mfirst d ma
  | .mlast d ma => mlast d ma
  | .vmul d a b m ty => vmul d a b m ty
  | .vfma d a b m ty => vfma d a b m ty
  | .vfnma d a b m ty => vfnma d a b m ty
  | .vrcp d a m ty => vrcp d a m ty
  | .vrsq d a m ty => vrsq d a m ty
  | .vsqrt d a m ty => vsqrt d a m ty
  | .vexp2 d a m ty => vexp2 d a m ty
  | .vlog2 d a m ty => vlog2 d a m ty
  | .vdiv d a b m ty => vdiv d a b m ty
  | .vscl d a b m ty => vscl d a b m ty
  | .vrng d a s => vrng d a s
  | .vqnt d a rnd ty => vqnt d a rnd ty
  | .vdqnt d a rnd ty => vdqnt d a rnd ty
  | .vmaxw d a n w1 ty => vmaxw d a n w1 ty
  | .vminw d a n w1 ty => vminw d a n w1 ty
  | .vmedw d a n w1 ty => vmedw d a n w1 ty
  | .vclpw d a b w1 ty => vclpw d a b w1 ty
  | .vssmw d a n w1 ty => vssmw d a n w1 ty
  | .vrmaxw d a n w1 ty => vrmaxw d a n w1 ty
  | .vrminw d a n w1 ty => vrminw d a n w1 ty
  | .vadj d g s w1 last gf => vadj d g s w1 last gf
  | .wtag d w1 => wtag d w1
  | .wclr w1 => wclr w1
  | .mma td aA aB aS z tok => mma td aA aB aS z tok
  | .tzero td => tzero td
  | .tst td a s dty rnd h tok => tst td a s dty rnd h tok
  | .tld td a tok => tld td a tok
  | .trd vd td s => trd vd td s
  | .twr td v s => twr td v s
  | .tstat d td c => tstat d td c
  | .tsig d td sel => tsig d td sel
  | .cpy ad aS s dsp ssp opt tok => cpy ad aS s dsp ssp opt tok
  | .cpyx ad aS s dsp ssp opt tok => cpyx ad aS s dsp ssp opt tok
  | .gath ad aT aI s rl opt tok => gath ad aT aI s rl opt tok
  | .send v c => send v c
  | .recv v c => recv v c
  | .recvadd v c => recvadd v c
  | .recvmax v c => recvmax v c
  | .sends s c => sends s c
  | .recvs s c => recvs s c
  | .chq s c => chq s c
  | .chclose c => chclose c
  | .btree t0 t1 t2 t3 => btree t0 t1 t2 t3
  | .jmp off => jmp off
  | .call off => call off
  | .jmpb b => jmpb b
  | .retb b => retb b
  | .loop s endOff => loop s endOff
  | .lbrk level n p => lbrk level n p
  | .fmtw s => fmtw s
  | .waitk tok => waitk tok
  | .bar id => bar id
  | .bara id => bara id
  | .cbwait d a s => cbwait d a s
  | .feat d word => feat d word
  | .trap imm => trap imm
  | .sysc imm => sysc imm
  | .exit => exit
  | .yield => yield
  | .seedp s => seedp s
  | .seedo => seedo
  | .seedf imm => seedf imm
  | .seedr d => seedr d
  | .getsys d t sel => getsys d t sel
  | .setsys s t sel => setsys s t sel
  | .setsysThreshWindow s t sel => setsysThreshWindow s t sel
  | .setsysFeatack s t sel => setsysFeatack s t sel
  | .eret => eret
  | .tlaunch d a => tlaunch d a
  | .tcommit s => tcommit s
  | .tabortRerun s => tabortRerun s
  | .tabortKill s k => tabortKill s k
  | .jcbadd a s => jcbadd a s
  | .jcbpost a s => jcbpost a s
  | .eqpop pd d => eqpop pd d
  | .ctxstart t a => ctxstart t a
  | .ctxstartRestore a b => ctxstartRestore a b
  | .ctxstartControlCore a b => ctxstartControlCore a b
  | .ctxstartR t => ctxstartR t
  | .ctxstopSafe t => ctxstopSafe t
  | .ctxstopKill t k => ctxstopKill t k
  | .tlbinvRange a s q => tlbinvRange a s q
  | .tlbinvAsid a s q => tlbinvAsid a s q
  | .tlbinvAll kind a s q => tlbinvAll kind a s q
  | .wfi => wfi
  | .bind d s => bind d s
  | .bindFence a b => bindFence a b
  | .bindUnfence a b => bindUnfence a b
  | .bindMicrocode a b => bindMicrocode a b
  | .bindQuery a b => bindQuery a b
  | .bindBreak a b => bindBreak a b
  | .bindWatch a b => bindWatch a b
  | .bindTrace a b => bindTrace a b
  | .bindProfile a b => bindProfile a b
  | .bindDumpctx a b => bindDumpctx a b
  | .bindExtract a b => bindExtract a b
  | .ldwtImageCheck => ldwtImageCheck
  | .regionFill => regionFill
  | .regionWriteBack => regionWriteBack
  | .sideLogReplay => sideLogReplay
  | .deferredAccessFault => deferredAccessFault
  | .resultLanding => resultLanding
  | .engineOperationStart => engineOperationStart
  | .rowGroupCheck => rowGroupCheck
  | .engineOperationCompletion => engineOperationCompletion
  | .lanternArbitration => lanternArbitration
  | .thresholdExceeded => thresholdExceeded
  | .tstDrainStart => tstDrainStart
  | .tstRowGroupCompare => tstRowGroupCompare
  | .tstCommit => tstCommit
  | .engineFault => engineFault
  | .copyStart => copyStart
  | .cpyxAttempt => cpyxAttempt
  | .copyArrival => copyArrival
  | .eventRecordPost => eventRecordPost
  | .claimFill => claimFill
  | .channelWatchdog => channelWatchdog
  | .collectiveTimeout => collectiveTimeout
  | .interrupt => interrupt
  | .singleStep => singleStep
  | .contextSwitch => contextSwitch
  | .quantumExpiry => quantumExpiry
  | .preemption => preemption
  | .saveAreaWrite => saveAreaWrite
  | .preemptionLimit => preemptionLimit
  | .dispatch => dispatch
  | .taskAging => taskAging
  | .taskBlocking => taskBlocking
  | .taskCompletion => taskCompletion
  | .auditReplay => auditReplay
  | .auditVote => auditVote
  | .auditPlacementLimit => auditPlacementLimit
  | .sumpInflation => sumpInflation
  | .sumpCtlEn => sumpCtlEn
  | .sumpCtlRetry => sumpCtlRetry
  | .sumpLptrTail => sumpLptrTail
  | .sumpDefl => sumpDefl
  | .sumpStatOosClear => sumpStatOosClear
  | .scrub => scrub
  | .linkRetry => linkRetry
  | .linkDeath => linkDeath
  | .linkStateUpdate => linkStateUpdate
  | .linkDrainRound => linkDrainRound
  | .requestDeclareDead => requestDeclareDead
  | .requestBringUp => requestBringUp
  | .requestPcap => requestPcap
  | .hostMessage => hostMessage
  | .hostAccess => hostAccess
  | .clockAdjust => clockAdjust
  | .profileSample => profileSample
  | .panic => panic
  | .devnoSupply => devnoSupply
  | .reset => reset
  | .remoteRequest => remoteRequest
  | .linkTrained => linkTrained
  | .receiverLosesLock => receiverLosesLock
  | .powerRemoved => powerRemoved
  | .criticalTemperature => criticalTemperature
  | .pcieLinkStateChange => pcieLinkStateChange
  | .ethernetPortStateChange => ethernetPortStateChange

/-- Settles O58: each constructor by its own lemma, from the digits of its word (`statement_of_every`). -/
theorem roundTrip : Obligations.RoundTrip := statement_of_every

end Sys2Proof.Laws.RoundTrip

namespace Sys2Proof.Machine

/-! ## Words that the spec writes out (R86, R97, R108–R117, R355) -/

/-- A word that an instruction's encoding writes decodes to the instruction (R86–R116). -/
theorem decodeCode_of_encode {slot w : Nat} {i : Instr} (word : encode i = some (.slot slot w)) (wf : wellFormed i = true) :
    decodeCode (.slot slot w) = some i :=
  Laws.RoundTrip.roundTrip i _ word wf

/-- Settles O56: each word is its instruction's encoding (`decodeCode_of_encode`); the reserved bit and the opcode outside the tables by
the decoder itself. -/
theorem decodeWords : Obligations.DecodeWords := by
  refine ⟨?_, ?_, ?_, ?_, ?_, ?_, ?_, ?_, ?_, ?_, ?_, ?reservedBit, ?noOpcode⟩
  case reservedBit | noOpcode => decide
  all_goals exact decodeCode_of_encode (by decide) (by decide)

/-! ## A failing check is precise (R102, R354, R360) -/

/-- A system-profile context whose TF is clear enters its handler from its drained context (R360). -/
theorem enterHandler_single {s : State} (tf : getBit s.ctx.status stTF = false) (epc cause tval : Word) :
    ∃ st, (enterHandler s.who epc cause tval s).ctx =
      { drain s s.who s.ctx with epc := epc, cause := cause, tval := tval, cameFrom := none, status := st, pc := s.ctx.vbase, run := .running } := by
  have drained : getBit (drain s s.who s.ctx).status stTF = false := by rwa [(drain_onlyRegisters ..).status]
  have base : (drain s s.who s.ctx).vbase = s.ctx.vbase := by rw [drain_onlyRegisters s s.who s.ctx]
  unfold enterHandler
  simp only [getCtx_who, drained, Bool.false_eq_true, ↓reduceIte, base, setCtx_who_ctx]
  exact ⟨_, rfl⟩

theorem stopFrame_fields (epc cause tval : Word) (x : Ctx) :
    let y := stopFrame epc cause tval x
    y.epc = epc ∧ y.cause = cause ∧ y.tval = tval ∧ y.sc = x.sc ∧ y.run = .stopped := by
  unfold stopFrame
  split <;> exact ⟨rfl, rfl, rfl, rfl, rfl⟩

theorem drain_sc (s : State) (c : CtxId) (x : Ctx) : (drain s c x).sc = x.sc := by
  rw [drain_onlyRegisters s c x]

/-- The compute context on the port stops with its frame on its drained context (R55, R360). -/
theorem takeTrap_stopped {s : State} (h : s.who.isSys = false) (epc cause tval : Word) :
    (takeTrap s.who epc cause tval s).ctx = stopFrame epc cause tval (drain s s.who s.ctx) := by
  rw [← getCtx_who, (takeTrap_leaves ..).2.2.2.1, takeTrap_stops h, getCtx_who]

/-- The context on the port takes a trap with its frame as given and its schedule count where it stood, unless the trap is a double
one (R102, R360). -/
theorem takeTrap_frame {s : State} (h : s.who.isSys = false ∨ getBit s.ctx.status stTF = false) (epc cause tval : Word) :
    let x := (takeTrap s.who epc cause tval s).ctx
    x.epc = epc ∧ x.cause = cause ∧ x.tval = tval ∧ x.sc = s.ctx.sc := by
  dsimp only
  cases profile : s.who.isSys with
  | false =>
    obtain ⟨e, c, t, sc, -⟩ := stopFrame_fields epc cause tval (drain s s.who s.ctx)
    rw [takeTrap_stopped profile]
    exact ⟨e, c, t, sc.trans (drain_sc ..)⟩
  | true =>
    obtain ⟨st, ctx⟩ := enterHandler_single (h.resolve_left (by simp [profile])) epc cause tval
    rw [takeTrap, if_pos profile, ctx]
    exact ⟨rfl, rfl, rfl, drain_sc ..⟩

/-- The cause of a check that a slot fails: its code, its slot, and that it has one (R354). -/
theorem causeWord_slot (code : BitVec 8) (n : Nat) :
    (causeWord code false false false false (some n)).toNat = code.toNat + n % 8 * 2 ^ 16 + 2 ^ 19 := by
  have slot : n % 8 * 2 ^ 16 ||| code.toNat = n % 8 * 2 ^ 16 + code.toNat := by
    simpa [Nat.mul_comm] using (Nat.two_pow_add_eq_or_of_lt (i := 16) (by omega : code.toNat < 2 ^ 16) (n % 8)).symm
  have valid : 2 ^ 19 ||| (n % 8 * 2 ^ 16 + code.toNat) = 2 ^ 19 + (n % 8 * 2 ^ 16 + code.toNat) := by
    simpa using (Nat.two_pow_add_eq_or_of_lt (i := 19) (by omega : n % 8 * 2 ^ 16 + code.toNat < 2 ^ 19) 1).symm
  have parts : (causeWord code false false false false (some n)).toNat = code.toNat % 2 ^ 64 ||| (2 ^ 19 ||| n % 8 * 2 ^ 16 % 2 ^ 64) := by
    simp [causeWord, Nat.shiftLeft_eq]
  rw [parts, Nat.mod_eq_of_lt (by omega), Nat.mod_eq_of_lt (by omega), Nat.lor_comm, Nat.lor_assoc, slot, valid]
  omega

theorem causeWord_slot_code (code : BitVec 8) (n : Nat) : (causeWord code false false false false (some n)).truncate 8 = code := by
  apply BitVec.eq_of_toNat_eq
  rw [BitVec.toNat_setWidth, causeWord_slot]
  omega

/-- A check that fails in a slot stops the bundle before it has issued (R102). -/
theorem trapAt_precise {s : State} (h : s.who.isSys = false ∨ getBit s.ctx.status stTF = false) (rank : Nat) (code : BitVec 8) (tval : Word) :
    ∃ t, trapAt rank code tval s = .next t ∧ t.frame.out = .trapped rank ∧ t.ctx.epc = s.frame.base ∧ t.ctx.tval = tval ∧
      t.ctx.sc = s.ctx.sc ∧ t.ctx.cause.truncate 8 = code ∧ getBit t.ctx.cause 19 = true ∧
      bitsAt t.ctx.cause.toNat 16 3 = s.frame.slot % 8 ∧ SameBytes s t := by
  obtain ⟨epc, cause, tv, sc⟩ := takeTrap_frame h s.frame.base (causeWord code false false false false (some s.frame.slot)) tval
  obtain ⟨mem, spm, rom, -⟩ := takeTrap_leaves s.who s.frame.base (causeWord code false false false false (some s.frame.slot)) tval s
  have bytes : SameBytes s (takeTrap s.who s.frame.base (causeWord code false false false false (some s.frame.slot)) tval s) :=
    fun a => by rw [mem, spm, rom]; exact ⟨rfl, rfl, rfl⟩
  refine ⟨_, rfl, rfl, epc, tv, sc, ?_, ?_, ?_, bytes⟩
  · exact (congrArg (·.truncate 8) cause).trans (causeWord_slot_code ..)
  · refine (congrArg (getBit · 19) cause).trans ?_
    rw [getBit, ← BitVec.testBit_toNat, causeWord_slot, Nat.testBit_eq_decide_div_mod_eq, decide_eq_true_eq]
    omega
  · refine (congrArg (fun w : Word => bitsAt w.toNat 16 3) cause).trans ?_
    rw [bitsAt, causeWord_slot]
    omega

/-! ## Operands that are not ready (R53, R56, R431) -/

section Guard

variable {rs ws : List RegName} {s : State} (k : State → Res)

/-- In debug mode a register inside a bound traps (R56). -/
theorem guardRegs_hazard (hz : hazardMode s = true) (h : ∃ r ∈ rs ++ ws, r.wired = false ∧ exposed s r = true) :
    ∃ r ∈ rs ++ ws, r.wired = false ∧ exposed s r = true ∧ guardRegs rs ws s k = trapAt 11 0x14 (regTval r) s := by
  obtain ⟨q, mem, inside⟩ := h
  obtain ⟨r, found⟩ := Option.isSome_iff_exists.1 (List.find?_isSome.2 ⟨q, mem, by simpa using inside⟩ :
    ((rs ++ ws).find? fun r => !r.wired && exposed s r).isSome = true)
  obtain ⟨wired, ex⟩ : r.wired = false ∧ exposed s r = true := by simpa using List.find?_some found
  exact ⟨r, List.mem_of_find?_eq_some found, wired, ex, by simp only [guardRegs, guardBounds, hz, ↓reduceIte, found]⟩

variable (free : hazardMode s = true → ∀ r ∈ rs ++ ws, r.wired = false → exposed s r = false)
include free

theorem guardBounds_unexposed :
    guardBounds rs ws s k = if (rs ++ ws).any fun r => !r.wired && interlocked s r then stall s else k s := by
  have none : (if hazardMode s then (rs ++ ws).find? fun r => !r.wired && exposed s r else none) = none := by
    split
    · rename_i hz
      exact List.find?_eq_none.2 fun r m => by simpa using free hz r m
    · rfl
  rw [guardBounds, none]

/-- An interlocked register stalls the bundle (R53). -/
theorem guardRegs_interlocked (h : ∃ r ∈ rs ++ ws, r.wired = false ∧ interlocked s r = true) : guardRegs rs ws s k = stall s := by
  rw [guardRegs, guardBounds_unexposed _ free, if_pos (List.any_eq_true.2 (by simpa using h))]

/-- A source whose parity fails is poison consumed (R431). -/
theorem guardRegs_poison (landed : ∀ r ∈ rs ++ ws, r.wired = false → interlocked s r = false) (h : ∃ r ∈ rs, r ∈ s.ctx.badRegs) :
    ∃ r ∈ rs, r ∈ s.ctx.badRegs ∧ guardRegs rs ws s k = trapAt 12 0x0D (regTval r) s := by
  obtain ⟨q, mem, bad⟩ := h
  obtain ⟨r, found⟩ := Option.isSome_iff_exists.1 (List.find?_isSome.2 ⟨q, mem, by simpa using bad⟩ :
    (rs.find? fun r => s.ctx.badRegs.contains r).isSome = true)
  have calm : ((rs ++ ws).any fun r => !r.wired && interlocked s r) = false := List.any_eq_false.2 fun r m => by simpa using landed r m
  refine ⟨r, List.mem_of_find?_eq_some found, by simpa using List.find?_some found, ?_⟩
  rw [guardRegs, guardBounds_unexposed _ free, calm]
  simp only [Bool.false_eq_true, ↓reduceIte, found]

end Guard

/-- Settles O10: a check by the frame that its trap writes (`trapAt_precise`), operands that are not ready by the three answers of the guard
(`guardRegs_hazard`, `guardRegs_interlocked`, `guardRegs_poison`). -/
theorem checksAndUnreadyOperands : Obligations.ChecksAndUnreadyOperands :=
  ⟨fun _ rank code tval h => trapAt_precise h rank code tval, fun _ _ _ k =>
    ⟨guardRegs_hazard k, fun free => ⟨guardRegs_interlocked k free, guardRegs_poison k free⟩⟩⟩

/-! ## Where a context goes on after a bundle (R93, R149–R154) -/

/-- Reading a line reaches no further than its translation (R405). -/
theorem readLine_translates (c : CtxId) (line : Nat) (s : State) : (readLine c line s).1 = s ∨ ∃ a, (readLine c line s).1 = (translate a .fetch line s).1 := by
  unfold readLine
  dsimp only
  split
  · exact .inl rfl
  · rw [apply_ite Prod.fst]
    split
    · exact .inl rfl
    · split
      · exact .inl rfl
      · split <;> rename_i e <;> have tr : ∃ a, _ = (translate a .fetch line s).1 := ⟨_, (congrArg Prod.fst e).symm⟩
        · split
          · rw [apply_ite Prod.fst, ite_self]; exact .inr tr
          · exact .inr tr
          · rw [apply_ite Prod.fst, ite_self]; exact .inr tr
        · exact .inr tr

theorem readLine_keeps (c : CtxId) (line : Nat) (s : State) : KeepsContexts s (readLine c line s).1 := by
  rcases readLine_translates c line s with e | ⟨a, e⟩ <;> rw [e]
  · exact .refl s
  · exact translate_keeps ..

/-- y is x but for where the context goes on: its loop levels, its buffered lines, and what waits for its next bundle. -/
def OnlyPlace (x y : Ctx) : Prop :=
  y = { x with ibuf := y.ibuf, loops := y.loops, pc := y.pc, cameFrom := y.cameFrom, fillFrom := y.fillFrom, resume := y.resume, late := y.late }

/-- In t the context on the port goes on from another place than in s; the other contexts and the cores are what they are in s. -/
structure GoesOn (s t : State) : Prop where
  who : t.who = s.who
  parked : t.parked = s.parked
  cores : t.cores = s.cores
  ctx : OnlyPlace s.ctx t.ctx

namespace GoesOn

theorem refl (s : State) : GoesOn s s := ⟨rfl, rfl, rfl, rfl⟩

theorem trans {s t u : State} (h : GoesOn s t) (g : GoesOn t u) : GoesOn s u := by
  refine ⟨g.who.trans h.who, g.parked.trans h.parked, g.cores.trans h.cores, ?_⟩
  have := g.ctx
  unfold OnlyPlace at *
  rw [this, h.ctx]

theorem ite {s t u : State} {p : Prop} [Decidable p] (h : GoesOn s t) (g : GoesOn s u) : GoesOn s (if p then t else u) := by
  split
  · exact h
  · exact g

theorem of_keeps {s t : State} (h : KeepsContexts s t) : GoesOn s t := ⟨h.who, h.parked, h.cores, by rw [h.ctx]; rfl⟩

end GoesOn

theorem fetchLine_goesOn (line : Nat) (s : State) : GoesOn s (fetchLine line s).1 := by
  unfold fetchLine
  split
  · exact .refl s
  · have read := GoesOn.of_keeps (readLine_keeps s.who line s)
    split
    · rename_i e
      rw [e] at read
      exact read.trans (.ite ⟨rfl, rfl, rfl, rfl⟩ (.refl _))
    · exact read

theorem successorAt_goesOn (e : Word) (s : State) : GoesOn s (successorAt e s).1 := by
  have fetch := fetchLine_goesOn (lineAddr e) s
  unfold successorAt
  split <;> rename_i eq <;> rw [eq] at fetch
  · exact fetch
  · split
    · exact fetch
    · split
      · exact fetch
      · exact fetch

theorem endLoop_goesOn (fuel : Nat) (s : State) : GoesOn s (endLoop fuel s) := by
  induction fuel generalizing s with
  | zero => exact .refl s
  | succ fuel ih =>
    unfold endLoop
    split
    · exact .refl s
    · rename_i l _
      refine .ite ⟨rfl, rfl, rfl, rfl⟩ ?_
      have popped : GoesOn s (trimBuffer { (successorAt l.last s).1 with
          ctx := { (successorAt l.last s).1.ctx with loops := (successorAt l.last s).1.ctx.loops.dropLast }
          frame := { (successorAt l.last s).1.frame with next := (successorAt l.last s).2, transfer := true } }) :=
        (successorAt_goesOn l.last s).trans ⟨rfl, rfl, rfl, rfl⟩
      dsimp only
      split
      · exact .ite (popped.trans (ih _)) popped
      · exact popped

theorem endIteration_goesOn (atEnd : Bool) (s : State) : GoesOn s (endIteration atEnd s) := .ite (endLoop_goesOn ..) (.refl s)

theorem moveOn_goesOn (s : State) : GoesOn s (moveOn s) := ⟨rfl, rfl, rfl, rfl⟩

theorem captureBody_goesOn (s : State) : GoesOn s (captureBody s) := by
  unfold captureBody
  split
  · exact .ite ⟨rfl, rfl, rfl, rfl⟩ (.refl s)
  · exact .refl s

theorem addLate_who_goesOn (s : State) (f : LateFault) : GoesOn s (addLate s s.who f) := by
  refine ⟨modCtx_who .., ?_, modCtx_cores .., ?_⟩
  · simp [addLate, modCtx, setCtx]
  · simp only [addLate, modCtx, setCtx_who_ctx, getCtx_who]
    rfl

theorem stepFault_goesOn (s : State) : GoesOn s (stepFault s) := by
  unfold stepFault
  split
  · exact .ite (addLate_who_goesOn ..) (.refl s)
  · exact .refl s

/-! ## The end of a bundle (R51, R52, R91) -/

/-- The context x at the schedule count after its bundle, its results not yet landed. -/
def counted (s : State) : Ctx :=
  { s.ctx with sc := s.ctx.sc + 1 + s.frame.gap, run := if s.ctx.run = .stalled then .running else s.ctx.run }

theorem settle_onlyRegisters (s : State) (x : Ctx) : OnlyRegisters x (settle s x) := (foldl_applyLanding_onlyRegisters ..).trans rfl

/-- A landing that stays has been there, and is inside its bound once its value has come (R52). -/
theorem mem_settle_lands {s : State} {x : Ctx} {l : Landing} (h : l ∈ (settle s x).lands) : l ∈ x.lands ∧ (l.ready = true → x.sc < l.due) := by
  obtain ⟨mem, stays⟩ : l ∈ x.lands ∧ (l.ready = false ∨ x.sc < l.due) := by simpa [settle, List.mem_partition] using h
  exact ⟨mem, fun ready => stays.resolve_left (by simp [ready])⟩

theorem advance_ctx (s : State) : (advance s).ctx = settle s (counted s) := rfl

/-- After its slots a bundle goes on from the state in which its count has advanced. -/
theorem finishBundle_goesOn (atEnd : Bool) (s : State) : GoesOn (advance s) (finishBundle atEnd s) :=
  (((captureBody_goesOn _).trans (endIteration_goesOn ..)).trans (moveOn_goesOn _)).trans (stepFault_goesOn _)

/-- A bundle that has issued: its context is the counted one with its results landed, but for where it goes on. -/
theorem finishBundle_ctx (atEnd : Bool) (s : State) : OnlyPlace (settle s (counted s)) (finishBundle atEnd s).ctx := (finishBundle_goesOn atEnd s).ctx

theorem finishBundle_who (atEnd : Bool) (s : State) : (finishBundle atEnd s).who = s.who := (finishBundle_goesOn atEnd s).who

theorem finishBundle_sc (atEnd : Bool) (s : State) : (finishBundle atEnd s).ctx.sc = s.ctx.sc + 1 + s.frame.gap := by
  rw [finishBundle_ctx, settle_onlyRegisters]
  rfl

theorem finishBundle_lands (atEnd : Bool) (s : State) : (finishBundle atEnd s).ctx.lands = (settle s (counted s)).lands := by
  rw [finishBundle_ctx]

theorem stepFault_pc (s : State) : (stepFault s).ctx.pc = s.ctx.pc := by
  unfold stepFault
  split
  · split
    · simp [addLate, modCtx]
    · rfl
  · rfl

theorem stepFault_frame (s : State) : (stepFault s).frame = s.frame := by
  unfold stepFault
  split
  · split
    · exact modCtx_frame ..
    · rfl
  · rfl

theorem captureBody_frame (s : State) : (captureBody s).frame = s.frame := by
  unfold captureBody
  split
  · split <;> rfl
  · rfl

/-- Where no iteration ends the bundle's end leaves its frame. -/
theorem finishBundle_frame (s : State) : (finishBundle false s).frame = s.frame := by
  rw [finishBundle, stepFault_frame]
  exact captureBody_frame (advance s)

/-- Where no iteration ends the context goes on at the bundle's successor. -/
theorem finishBundle_pc (s : State) : (finishBundle false s).ctx.pc = s.frame.next := by
  rw [finishBundle, stepFault_pc]
  exact congrArg Frame.next (captureBody_frame (advance s))

/-! ## TRAP and SYSC (R165, R360) -/

/-- The bundle of a TRAP or SYSC has issued: its count has advanced, and a single step gives way to the trap (R464). -/
def issuedTrap (s : State) : State :=
  let t := finishBundle (atLoopEnd s) s
  { t with ctx := { t.ctx with late := t.ctx.late.filter fun f => f.kind ≠ .step } }

theorem enterSupervisor_eq (code : BitVec 8) (imm : BitVec 16) (s : State) :
    enterSupervisor code imm s =
      let t := takeTrap (issuedTrap s).who s.frame.next (causeWord code false false false false (some s.frame.slot)) (imm.zeroExtend 64) (issuedTrap s)
      { t with frame := { t.frame with out := .done } } := by
  rw [show (issuedTrap s).who = s.who from finishBundle_who ..]
  rfl

/-- A compute context stops after its bundle, with the bundle's successor in SYS_EPC (R165). -/
theorem enterSupervisor_stops {s : State} (h : s.who.isSys = false) (code : BitVec 8) (imm : BitVec 16) :
    let t := enterSupervisor code imm s
    t.who = s.who ∧ t.frame.out = .done ∧ t.ctx.run = .stopped ∧ t.ctx.epc = s.frame.next ∧ t.ctx.cause.truncate 8 = code ∧
      t.ctx.tval = BitVec.ofNat 64 imm.toNat ∧ t.ctx.sc = s.ctx.sc + 1 + s.frame.gap ∧ getBit t.ctx.status stSTOP = true := by
  have who : (issuedTrap s).who = s.who := finishBundle_who ..
  have sc : (issuedTrap s).ctx.sc = s.ctx.sc + 1 + s.frame.gap := finishBundle_sc ..
  have user : (issuedTrap s).who.isSys = false := by rwa [who]
  have kept := (takeTrap_leaves (issuedTrap s).who s.frame.next (causeWord code false false false false (some s.frame.slot))
    (imm.zeroExtend 64) (issuedTrap s)).2.2.2.1
  dsimp only
  rw [enterSupervisor_eq]
  dsimp only
  rw [takeTrap_stopped user]
  obtain ⟨e, c, t, count, run⟩ := stopFrame_fields s.frame.next (causeWord code false false false false (some s.frame.slot)) (imm.zeroExtend 64)
    (drain (issuedTrap s) (issuedTrap s).who (issuedTrap s).ctx)
  refine ⟨kept.trans who, rfl, run, e, ?_, ?_, count.trans ((drain_sc ..).trans sc), ?_⟩
  · rw [c, causeWord_slot_code]
  · rw [t, BitVec.ofNat_toNat]
  · rw [stopFrame_status]
    simp [getBit, putBit, stSTOP]

/-! ## Bundles without slots (R89, R91, R150) -/

/-- The state whose frame is that of a bundle of this length and gap. -/
def bareFrame (gap len : Nat) (s : State) : State := { s with frame := { s.frame with gap := gap, len := len } }

theorem execGapBundle_eq (h : Header) (s : State) :
    exec (.gapBundle h) s = .next (bundleDone (finishBundle (atLoopEnd s) (bareFrame h.g.val 1 s))) := rfl

/-- A gap bundle advances the count by its own cycle and its gap (R91). -/
theorem exec_gapBundle_counts (h : Header) (s : State) :
    ∃ t, exec (.gapBundle h) s = .next t ∧ t.frame.out = .done ∧ t.ctx.sc = s.ctx.sc + 1 + h.g.val ∧
      (∀ l ∈ t.ctx.lands, l ∈ s.ctx.lands ∧ (l.ready = true → t.ctx.sc < l.due)) ∧ (atLoopEnd s = false → t.ctx.pc = s.frame.next) := by
  have sc : (finishBundle (atLoopEnd s) (bareFrame h.g.val 1 s)).ctx.sc = s.ctx.sc + 1 + h.g.val := finishBundle_sc ..
  refine ⟨_, execGapBundle_eq h s, rfl, sc, fun l m => ?_, fun inside => ?_⟩
  · obtain ⟨mem, due⟩ := mem_settle_lands (finishBundle_lands (atLoopEnd s) (bareFrame h.g.val 1 s) ▸ m)
    exact ⟨mem, fun ready => sc ▸ due ready⟩
  · show (finishBundle (atLoopEnd s) (bareFrame h.g.val 1 s)).ctx.pc = _
    rw [inside, finishBundle_pc]
    rfl

/-- Flow passes a bundle that does not issue, with the iteration that may end there (R89, R150). -/
def passedBundle (len : Nat) (s : State) : State := moveOn (endIteration (atLoopEnd s) (bareFrame s.frame.gap len s))

theorem passedBundle_goesOn (len : Nat) (s : State) : GoesOn s (passedBundle len s) :=
  .trans (t := bareFrame s.frame.gap len s) ⟨rfl, rfl, rfl, rfl⟩ ((endIteration_goesOn ..).trans (moveOn_goesOn _))

theorem execSkippedBundle_eq (h : Header) (s : State) :
    exec (.skippedBundle h) s = .next (bundleDone { passedBundle (bundleLen h.p) s with ctx := { (passedBundle (bundleLen h.p) s).ctx with
      resume := s.ctx.resume, run := if (passedBundle (bundleLen h.p) s).ctx.run = .stalled then .running else (passedBundle (bundleLen h.p) s).ctx.run } }) :=
  rfl

/-- A skipped bundle advances nothing: flow passes it (R89). -/
theorem exec_skippedBundle_passes (h : Header) (s : State) :
    ∃ t, exec (.skippedBundle h) s = .next t ∧ t.frame.out = .done ∧ t.ctx.sc = s.ctx.sc ∧ t.ctx.lands = s.ctx.lands ∧ SameFiles s t ∧
      (atLoopEnd s = false → t.ctx.pc = s.frame.next) := by
  have ctx := (passedBundle_goesOn (bundleLen h.p) s).ctx
  refine ⟨_, execSkippedBundle_eq h s, rfl, ?_⟩
  dsimp only [bundleDone, SameFiles]
  refine ⟨by rw [ctx], by rw [ctx], ⟨by rw [ctx], by rw [ctx], by rw [ctx], by rw [ctx], by rw [ctx], by rw [ctx], by rw [ctx]⟩, fun inside => ?_⟩
  rw [passedBundle, inside]
  rfl

/-! ## What contexts hold while others of their parts move

A stage of a context's end writes to its fields here and there, and its write-back reaches the units of memory. What each context
holds (its count, its task, its channels and its regions) moves in few places. -/

/-- In t every context agrees with what it is in s on p. -/
structure KeepsOf {α : Type} (p : Ctx → α) (s t : State) : Prop where
  who : t.who = s.who
  held : ∀ c, p (getCtx t c) = p (getCtx s c)

/-- What a context holds. -/
def holdings (x : Ctx) : Nat × Nat × List ChanBind × List CR × Vector (Option Region) 16 := (x.sc, x.task, x.chans, x.closed, x.regions)

namespace KeepsOf

variable {α : Type} {p : Ctx → α} {s t u : State}

theorem refl (s : State) : KeepsOf p s s := ⟨rfl, fun _ => rfl⟩

theorem trans (h : KeepsOf p s t) (g : KeepsOf p t u) : KeepsOf p s u := ⟨g.who.trans h.who, fun c => (g.held c).trans (h.held c)⟩

theorem ite {q : Prop} [Decidable q] (h : KeepsOf p s t) (g : KeepsOf p s u) : KeepsOf p s (if q then t else u) := by
  split
  · exact h
  · exact g

theorem foldl {β : Type} {f : State → β → State} (h : ∀ s a, KeepsOf p s (f s a)) (l : List β) (s : State) : KeepsOf p s (l.foldl f s) := by
  induction l generalizing s with
  | nil => exact refl s
  | cons a l ih => exact (h s a).trans (ih _)

theorem of_keeps (h : KeepsContexts s t) : KeepsOf p s t := ⟨h.who, fun c => by rw [h.getCtx]⟩

theorem of_parts (hw : t.who = s.who) (hc : t.ctx = s.ctx) (hp : t.parked = s.parked) : KeepsOf p s t :=
  ⟨hw, fun c => by rw [getCtx_congr hw hc hp]⟩

theorem modCtx (s : State) (c : CtxId) {f : Ctx → Ctx} (h : ∀ x, p (f x) = p x) : KeepsOf p s (modCtx s c f) := by
  refine ⟨modCtx_who .., fun d => ?_⟩
  by_cases e : d = c
  · subst e; rw [getCtx_modCtx_self, h]
  · rw [getCtx_modCtx_other _ _ e]

theorem modCore (s : State) (k : Nat) (f : Core → Core) : KeepsOf p s (modCore s k f) := of_parts rfl rfl rfl

/-- What depends on p alone is kept with it. -/
theorem comp {β : Type} (f : α → β) (h : KeepsOf p s t) : KeepsOf (fun x => f (p x)) s t := ⟨h.who, fun c => congrArg f (h.held c)⟩

end KeepsOf

/-! ### Faults and counts -/

theorem postRecord_keeps (s : State) (g : Nat) (r : Record) : KeepsContexts s (postRecord s g r) := modCluster_keeps ..

theorem addLate_holdings (s : State) (c : CtxId) (f : LateFault) : KeepsOf holdings s (addLate s c f) := .modCtx s c fun _ => rfl

theorem failAt_holdings (c : CtxId) (code : BitVec 8) (va : Nat) (bundle : Word) (s : State) : KeepsOf holdings s (failAt c code va bundle s) := by
  unfold failAt
  split
  · exact .of_keeps (postCtx_keeps ..)
  · exact .refl s
  · exact .refl s
  · exact .refl s
  · exact addLate_holdings ..

theorem report_holdings (c : CtxId) (code : BitVec 8) (va : Nat) (bundle : Word) (s : State) : KeepsOf holdings s (report c code va bundle s) :=
  (KeepsOf.modCtx s c fun x => by split <;> rfl).trans (.of_keeps (postCtx_keeps ..))

theorem showTotal_keeps (n : Fin 16) (s : State) : KeepsContexts s (showTotal n s) := .ite (.refl s) (poke_keeps ..)

theorem hostSendAll_keeps (msg : List Byte) (s : State) : KeepsContexts s (hostSendAll msg s) :=
  .foldl (fun _ _ => .ite (.ite (.refl _) ((committedStore_keeps ..).trans (poke_keeps ..))) (.refl _)) _ s

theorem crossing_holdings (n : Fin 16) (c : Option CtxId) (work : Option Word) (s : State) : KeepsOf holdings s (crossing n c work s) := by
  unfold crossing
  dsimp only
  generalize hr : showTotal n (logRecord _ _ s) = q
  have base : KeepsOf holdings s q := hr ▸ .of_keeps ((logRecord_keeps ..).trans (showTotal_keeps ..))
  split
  · exact base
  · exact base.trans (.of_keeps (modDev_keeps ..))
  · exact base.trans (.of_keeps (hostSendAll_keeps ..))
  · split
    · split
      · exact base.trans (.of_keeps (postCtx_keeps ..))
      · exact base
      · exact base
      · exact base
      · exact base.trans (addLate_holdings ..)
    · exact base.trans (addLate_holdings ..)
  · exact base.trans (.of_keeps (modDev_keeps ..))

theorem countWork_holdings (c : CtxId) (bundle : Word) (ns : List Nat) (s : State) : KeepsOf holdings s (countWork c bundle ns s) := by
  refine .foldl (fun s n => ?_) ns s
  have counted (d : Dev) : KeepsOf holdings s (showTotal (Fin.ofNat 16 n) { s with dev := d }) :=
    .trans (t := { s with dev := d }) (.of_parts rfl rfl rfl) (.of_keeps (showTotal_keeps ..))
  exact .ite (.refl s) (.ite (((counted _).trans (crossing_holdings ..)).trans (.of_keeps (modDev_keeps ..))) (counted _))

/-! ### Task-level faults (R308, R390) -/

theorem recomputeKey_keeps (s : State) (key : Nat) : KeepsContexts s (recomputeKey s key) := by
  unfold recomputeKey
  split
  · exact recompute_keeps ..
  · exact .refl s

theorem dropVersion_keeps (id : Nat) (s : State) : KeepsContexts s (dropVersion id s) := by
  unfold dropVersion
  split
  · exact .refl s
  · refine KeepsContexts.trans (KeepsContexts.trans ?_ (.foldl (fun _ _ => mapBounce_keeps ..) _ _)) (.foldl recomputeKey_keeps _ _)
    exact ⟨rfl, rfl, rfl, rfl, rfl, rfl, rfl⟩

theorem drain_holdings (s : State) (c : CtxId) (x : Ctx) : holdings (drain s c x) = holdings x := by
  rw [drain_onlyRegisters s c x]
  rfl

theorem taskFault_holdings (id : Nat) (code : BitVec 8) (s : State) : KeepsOf holdings s (taskFault id code s) := by
  unfold taskFault
  split
  · exact .refl s
  · dsimp only
    generalize hu : (ctxsOf s id).foldl _ s = u
    have stopped : KeepsOf holdings s u := by
      rw [← hu]
      refine .foldl (fun s c => .modCtx s c fun x => ?_) _ s
      split
      · exact drain_holdings s c x
      · rfl
    refine ((stopped.trans ?_).trans (.of_keeps (modTask_keeps ..))).trans (.of_keeps (postRecord_keeps ..))
    exact .ite (.refl u) (.of_keeps ((dropVersion_keeps ..).trans (modTask_keeps ..)))

theorem raceAt_holdings (a : Acc) (va u : Nat) (x : Touch) (s : State) : KeepsOf holdings s (raceAt a va u x s) := by
  have faulted : KeepsOf holdings s (taskFault a.task 0x15 (raceRecord a va u x s)) :=
    (KeepsOf.of_keeps (logRecord_keeps ..)).trans (taskFault_holdings ..)
  exact .ite (faulted.trans (.modCtx _ _ fun _ => rfl)) faulted

/-! ### Accesses of the side log and of write-backs (R185, R195) -/

theorem putReleases_keeps (c : CtxId) (ks : Tbl (List (Nat × Nat))) (home key n : Nat) (s : State) : KeepsContexts s (putReleases c ks home key n s) :=
  .ite (.refl s) ⟨rfl, rfl, rfl, rfl, rfl, rfl, rfl⟩

theorem storeOrder_keeps (a : Acc) (va n : Nat) (rel : Option (Nat × List (Nat × Nat))) (s : State) : KeepsContexts s (storeOrder a va n rel s) :=
  .ite (.refl s) ((forgetReleases_keeps ..).trans (putReleases_keeps ..))

theorem poisonPiece_keeps (a : Acc) (va : Nat) (s : State) : KeepsContexts s (poisonPiece a va s) := by
  have tr := translate_keeps a .write va s
  unfold poisonPiece
  split <;> rename_i e <;> rw [e] at tr
  · split
    · exact tr.trans (modTask_keeps ..)
    · exact tr.trans ⟨rfl, rfl, rfl, rfl, rfl, rfl, rfl⟩
  · exact tr

theorem writeRuns_keeps (bad : List Nat) (a : Acc) (exempt : Bool) (rel : Option (Nat × List (Nat × Nat))) (runs : List (Nat × List Byte)) (s : State) :
    KeepsContexts s (writeRuns bad a exempt rel runs s).state := by
  induction runs generalizing s with
  | nil => exact .refl s
  | cons r runs ih =>
    have wr : KeepsContexts s (writeGlobal a false exempt r.1 r.2 s).state := writeLines_keeps ..
    unfold writeRuns
    split
    · rename_i e; rw [e] at wr
      exact (wr.trans (storeOrder_keeps ..)).trans (ih _)
    · rename_i e; rw [e] at wr
      exact (wr.trans (sendMarked_keeps ..)).trans (ih _)
    · exact wr

theorem homeRmw_keeps (a : Acc) (k : Kind) (va w : Nat) (f : Nat → Option Nat) (s : State) : KeepsContexts s (homeRmw a k va w f s).state := by
  have tr := translate_keeps a k va s
  unfold homeRmw
  split <;> rename_i e <;> rw [e] at tr
  · exact tr
  · exact tr
  · exact tr
  · exact tr
  · split
    · exact tr
    · split
      · exact tr
      · split
        · exact tr
        · rename_i v key _ _ _ _ _ _ _ new _
          have claimed : KeepsContexts s (if k = Kind.claim then (translate a .write va v).1 else v) := tr.trans (.ite (translate_keeps ..) (.refl v))
          dsimp only
          generalize (if k = Kind.claim then (translate a .write va v).1 else v) = c at claimed ⊢
          have stored : KeepsContexts c (committedStore key (bytesOf w new) (strikeBounce 0 a.asid va key w c)) :=
            (strikeBounce_keeps ..).trans (committedStore_keeps ..)
          split
          · exact claimed.trans (sumpFrom_keeps ..)
          · split
            · rename_i n page _
              have exp := claimed.trans (expandFor_keeps a.unit n page stored)
              split <;> rename_i e <;> rw [e] at exp
              · exact exp.trans ((recompute_keeps ..).trans (l1gDropLine_keeps ..))
              · exact exp
            · exact (claimed.trans stored).trans (l1gDropLine_keeps ..)

theorem noteRead_holdings (c : CtxId) (key n : Nat) (s : State) : KeepsOf holdings s (noteRead c key n s) :=
  .ite (.refl s) (.modCtx s c fun _ => rfl)

theorem acquireAt_keeps (c : CtxId) (scope : Nat) (s : State) : KeepsContexts s (acquireAt c scope s) := .ite (modCluster_keeps ..) (.refl s)

theorem acquireWord_holdings (c : CtxId) (scope key n : Nat) (s : State) : KeepsOf holdings s (acquireWord c scope key n s) :=
  .ite (.refl s) (.modCtx s c fun _ => rfl)

theorem atomOrder_holdings (a : Acc) (key w oc : Nat) (wrote : Bool) (s : State) : KeepsOf holdings s (atomOrder a key w oc wrote s) := by
  have read := noteRead_holdings a.who key w s
  have acquired := (acquireWord_holdings a.who (2 * oc) key w s).trans (.of_keeps (acquireAt_keeps a.who (2 * oc) _))
  refine .ite (.refl s) (.ite ?plain ?ordered)
  case plain => exact .ite (read.trans (.of_keeps (putReleases_keeps ..))) read
  case ordered => exact .ite ((acquired.trans (.of_keeps (putReleases_keeps ..))).trans (.modCtx _ _ fun _ => rfl)) acquired

theorem performAtomGlobal_holdings (a : Acc) (fn : AtomFn) (w va : Nat) (v : Word) (oc : Nat) (s : State) :
    KeepsOf holdings s (performAtomGlobal a fn w va v oc s).state := by
  unfold performAtomGlobal
  dsimp only
  generalize (fun old => if casFails fn w old then none else some (atomNew fn w old v.toNat).1) = new
  have rmw := homeRmw_keeps a (if fn.isCas then .claim else .write) va w new s
  split <;> rename_i e <;> rw [e] at rmw
  · refine ((KeepsOf.of_keeps rmw).trans ?_).trans (atomOrder_holdings ..)
    exact .ite (countWork_holdings ..) (.refl _)
  all_goals exact .of_keeps rmw

theorem performEntry_holdings (core : Nat) (e : LogEntry) (s : State) : KeepsOf holdings s (performEntry core e s).state := by
  unfold performEntry
  dsimp only
  split
  · have runs := writeRuns_keeps e.bad (entryAcc core e) e.exempt e.rel (runsOf e.bytes) s
    split
    · rename_i eq; rw [eq] at runs
      exact .of_keeps (runs.trans (.foldl (fun s va => poisonPiece_keeps _ va s) _ _))
    · exact .of_keeps runs
  · rename_i fn addr w v _
    have atom := performAtomGlobal_holdings (entryAcc core e) fn w addr v ((e.rel.map fun r => r.1 / 2).getD 0) s
    split <;> rename_i eq <;> rw [eq] at atom
    · exact atom.trans (.ite (.refl _) (.of_keeps (poisonPiece_keeps ..)))
    case h_7 => exact atom.trans (.of_keeps (sendMarked_keeps ..))
    all_goals exact atom

theorem logBack_holdings (core g : Nat) (e : LogEntry) (s : State) : KeepsOf holdings s (logBack core g e s) :=
  .ite (.modCore ..) (((KeepsOf.modCore s core _).trans (.modCore ..)).trans (countWork_holdings ..))

theorem feedBack_holdings (core : Nat) (upto : Option Nat) (fuel : Nat) (s : State) : KeepsOf holdings s (feedBack core upto fuel s) := by
  induction fuel generalizing s with
  | zero => exact .refl s
  | succ fuel ih =>
    unfold feedBack
    split
    · exact .refl s
    · rename_i g e _ _
      have pop (t : State) : KeepsOf holdings t (modCore t core fun k => { k with wback := k.wback.drop 1 }) := .modCore ..
      refine .ite (.refl s) (.ite ((pop s).trans (ih _)) (.ite ?made (.ite (((pop s).trans (logBack_holdings ..)).trans (ih _)) (.refl s))))
      case made =>
        have perf := performEntry_holdings core e s
        split <;> rename_i eq <;> rw [eq] at perf <;> replace perf := perf.trans (pop _)
        · exact perf.trans (ih _)
        · exact (perf.trans (failAt_holdings ..)).trans (ih _)
        · exact perf.trans (raceAt_holdings ..)
        · exact perf.trans (taskFault_holdings ..)
        · exact ((perf.trans (report_holdings ..)).trans (logBack_holdings ..)).trans (ih _)
        · exact (perf.trans (logBack_holdings ..)).trans (ih _)
        · exact perf.trans (ih _)

/-- A write-back that reaches memory or the log leaves every context what it holds (R195, R196). -/
theorem feed_holdings (core : Nat) (s : State) : KeepsOf holdings s (feed core s) := feedBack_holdings ..

/-! ## EXIT (R166, R197, R270, R288, R360) -/

/-- In t every context holds what it holds in s, and the cores' units are what they are in s. -/
structure KeepsHoldings (s t : State) : Prop where
  keeps : KeepsOf holdings s t
  cores : t.cores = s.cores

namespace KeepsHoldings

theorem refl (s : State) : KeepsHoldings s s := ⟨.refl s, rfl⟩

theorem trans {s t u : State} (h : KeepsHoldings s t) (g : KeepsHoldings t u) : KeepsHoldings s u := ⟨h.keeps.trans g.keeps, g.cores.trans h.cores⟩

theorem of_keeps {s t : State} (h : KeepsContexts s t) : KeepsHoldings s t := ⟨.of_keeps h, h.cores⟩

theorem ite {s t u : State} {p : Prop} [Decidable p] (h : KeepsHoldings s t) (g : KeepsHoldings s u) : KeepsHoldings s (if p then t else u) := by
  split
  · exact h
  · exact g

theorem foldl {β : Type} {f : State → β → State} (h : ∀ s a, KeepsHoldings s (f s a)) (l : List β) (s : State) : KeepsHoldings s (l.foldl f s) := by
  induction l generalizing s with
  | nil => exact refl s
  | cons a l ih => exact (h s a).trans (ih _)

theorem modCtx (s : State) (c : CtxId) {f : Ctx → Ctx} (h : ∀ x, holdings (f x) = holdings x) : KeepsHoldings s (modCtx s c f) :=
  ⟨.modCtx s c h, modCtx_cores ..⟩

end KeepsHoldings

theorem spoilLanding_keepsHoldings (c : CtxId) (id : Nat) (s : State) : KeepsHoldings s (spoilLanding c id s) := .modCtx s c fun _ => rfl

theorem addLate_keepsHoldings (s : State) (c : CtxId) (f : LateFault) : KeepsHoldings s (addLate s c f) := .modCtx s c fun _ => rfl

theorem failClaim_keepsHoldings (code : BitVec 8) (q : Claim) (s : State) : KeepsHoldings s (failClaim code q s) :=
  .trans (spoilLanding_keepsHoldings ..) (.ite (.of_keeps (postCtx_keeps ..)) (addLate_keepsHoldings ..))

theorem setChan_keepsHoldings (s : State) (n : Nat) (c : Chan) : KeepsHoldings s (setChan s n c) := ⟨.of_parts rfl rfl rfl, rfl⟩

theorem closeChan_keepsHoldings (n : Nat) (inbound : Bool) (s : State) : KeepsHoldings s (closeChan n inbound s) := by
  unfold closeChan
  split
  · exact .refl s
  · exact .ite (.refl s) ((setChan_keepsHoldings ..).trans (.foldl (fun s q => failClaim_keepsHoldings 0x11 q s) _ _))

/-- Every channel of the context ends closed (R288). -/
theorem closeAll_closes (c : CtxId) (s : State) : ∃ u, KeepsHoldings s u ∧ closeAll c s = modCtx u c fun x => { x with closed := x.chans.map (·.num) } :=
  ⟨_, .foldl (fun s (b : ChanBind) => .ite (.refl s) (closeChan_keepsHoldings b.chan (!b.out) s)) _ s, rfl⟩

theorem postLate_keepsHoldings (c : CtxId) (bundle : Word) (s : State) : KeepsHoldings s (postLate c bundle s) := by
  refine .foldl (fun s f => ?_) _ s
  split
  case h_6 | h_7 => exact .refl s
  all_goals exact .of_keeps (postCtx_keeps ..)

/-- What a context holds besides its regions. -/
def placeAndChans (x : Ctx) : Nat × Nat × List ChanBind × List CR := (x.sc, x.task, x.chans, x.closed)

theorem KeepsOf.placeAndChans {s t : State} (h : KeepsOf holdings s t) : KeepsOf placeAndChans s t :=
  h.comp fun h => (h.1, h.2.1, h.2.2.1, h.2.2.2.1)

theorem backRegion_keeps (c : CtxId) (rg : Nat) (s : State) : KeepsOf placeAndChans s (backRegion c rg s) := by
  have back (g : Nat) (s : State) : KeepsOf placeAndChans s (beginBack c rg g s) := by
    unfold beginBack
    split
    · exact .refl s
    · refine .ite (.refl s) (.trans (.trans (.of_keeps (bump_keeps s)) (.modCore ..)) (.modCtx _ _ fun _ => rfl))
  unfold backRegion
  split
  · exact .foldl (fun s g => back g s) _ s
  · exact .refl s

/-- Every region of the context has gone; what else it holds stays (R197). -/
theorem leaveRegions_drops (c : CtxId) (s : State) :
    KeepsOf placeAndChans s (leaveRegions true c s) ∧ (getCtx (leaveRegions true c s) c).regions = Vector.replicate 16 none := by
  have backed := KeepsOf.foldl (fun s rg => backRegion_keeps c rg s) (List.range 16) s
  unfold leaveRegions
  dsimp only
  generalize (List.range 16).foldl (fun s rg => backRegion c rg s) s = u at backed ⊢
  generalize hv : modCtx u c _ = v
  have unset : KeepsOf placeAndChans u v := hv ▸ .modCtx u c fun _ => rfl
  have fed := feed_holdings c.coreNo v
  refine ⟨(backed.trans unset).trans fed.placeAndChans, ?_⟩
  have regions : (getCtx (feed c.coreNo v) c).regions = (getCtx v c).regions := (fed.comp fun h => h.2.2.2.2).held c
  rw [regions, ← hv, getCtx_modCtx_self]
  rfl

theorem dropRegions_drops (c : CtxId) (s : State) :
    KeepsOf placeAndChans s (dropRegions c s) ∧ (fillAwaited s c = false → (getCtx (dropRegions c s) c).regions = Vector.replicate 16 none) := by
  unfold dropRegions
  split
  · rename_i awaited
    exact ⟨.refl s, fun free => absurd awaited (by simp [free])⟩
  · exact ⟨(leaveRegions_drops c s).1, fun _ => (leaveRegions_drops c s).2⟩

theorem fillAwaited_congr {s t : State} (h : ∀ k, (coreOf t k).waits = (coreOf s k).waits) (c : CtxId) : fillAwaited t c = fillAwaited s c := by
  simp [fillAwaited, h]

/-- The context as its retirement leaves it: its levels, its late faults and its requests are gone. -/
def retired (x : Ctx) : Ctx := { x with run := .retired, loops := [], late := [], bara := [], arriving := [], preemptAt := none, sendWait := none }

theorem endContext_retired {c : CtxId} (user : c.isSys = false) (lo : Word) (s : State) :
    endContext c .retired 5 lo s = postCtx (noteEnd c (modCtx (dropRegions c (closeAll c (postLate c lo
      (modCtx (leaveBarriers c s) c fun x => { x with run := .retired })))) c retired)) c lo 5 0 0 := by
  simp only [endContext, ↓reduceIte, user, Bool.false_eq_true]
  rfl

/-- A compute context that retires: its levels, channels and regions are gone, and its kind-5 record is the last that its cluster has to
post (R166, R197, R288, R360). -/
theorem endContext_retires {c : CtxId} (user : c.isSys = false) (lo : Word) (s : State) :
    let t := endContext c .retired 5 lo s
    let x := getCtx t c
    t.who = s.who ∧ x.run = .retired ∧ x.sc = (getCtx s c).sc ∧ x.loops = [] ∧ (fillAwaited s c = false → x.regions = Vector.replicate 16 none) ∧
      (∀ b ∈ x.chans, b.num ∈ x.closed) ∧
      (clusterOf t c.cluster).posting.getLast? = some ⟨lo, (getCtx s c).task, c.cluster, c.who, 5, 0, 0⟩ := by
  have stopped : KeepsHoldings s (modCtx (leaveBarriers c s) c fun x => { x with run := .retired }) :=
    (KeepsHoldings.of_keeps (modTask_keeps ..)).trans (.modCtx _ c fun _ => rfl)
  rw [endContext_retired user]
  obtain ⟨u, closing, closed⟩ := closeAll_closes c (postLate c lo (modCtx (leaveBarriers c s) c fun x => { x with run := .retired }))
  have before : KeepsHoldings s u := (stopped.trans (postLate_keepsHoldings ..)).trans closing
  rw [closed]
  generalize hv : modCtx u c (fun x => { x with closed := x.chans.map (·.num) }) = v
  obtain ⟨kept, dropped⟩ := dropRegions_drops c v
  have ended : KeepsContexts (modCtx (dropRegions c v) c retired) (postCtx (noteEnd c (modCtx (dropRegions c v) c retired)) c lo 5 0 0) :=
    (modTask_keeps ..).trans (postCtx_keeps ..)
  have at_u := before.keeps.held c
  have at_v : getCtx v c = { getCtx u c with closed := (getCtx u c).chans.map (·.num) } := by rw [← hv, getCtx_modCtx_self]
  have at_d := kept.held c
  simp only [holdings, placeAndChans, at_v, Prod.mk.injEq] at at_u at_d
  obtain ⟨scU, taskU, -⟩ := at_u
  obtain ⟨scD, taskD, chansD, closedD⟩ := at_d
  dsimp only
  rw [ended.getCtx, getCtx_modCtx_self, postCtx_posting, List.getLast?_concat]
  refine ⟨?_, rfl, scD.trans scU, rfl, fun free => dropped ?_, fun b m => ?_, ?_⟩
  · rw [ended.who, modCtx_who, kept.who, ← hv, modCtx_who, before.keeps.who]
  · rw [← free]
    exact fillAwaited_congr (fun k => by rw [← hv, coreOf_congr (modCtx_cores ..), coreOf_congr before.cores]) c
  · show b.num ∈ (getCtx (dropRegions c v) c).closed
    rw [closedD, ← chansD]
    exact List.mem_map_of_mem m
  · have noted : KeepsContexts (modCtx (dropRegions c v) c retired) (noteEnd c (modCtx (dropRegions c v) c retired)) := modTask_keeps ..
    rw [noted.getCtx, getCtx_modCtx_self, show (retired (getCtx (dropRegions c v) c)).task = (getCtx (dropRegions c v) c).task from rfl, taskD, taskU]

/-- The bundle's count moves no access that waits (R393). -/
theorem finishBundle_waits (atEnd : Bool) (s : State) (k : Nat) : (coreOf (finishBundle atEnd s) k).waits = (coreOf s k).waits := by
  rw [coreOf_congr (finishBundle_goesOn atEnd s).cores, advance]
  dsimp only
  by_cases e : k = s.who.coreNo
  · subst e; rw [coreOf_modCore_self]; rfl
  · rw [coreOf_modCore_other _ _ e]; rfl

theorem getCtx_of_who {t : State} {c : CtxId} (h : t.who = c) : getCtx t c = t.ctx := by rw [← h, getCtx_who]

/-- EXIT retires its context after the other slots of its bundle (R166). -/
theorem exec_exit_retires {s : State} (user : s.who.isSys = false) :
    ∃ t, exec .exit s = .next t ∧ t.who = s.who ∧ t.frame.out = .done ∧ t.ctx.run = .retired ∧ t.ctx.sc = s.ctx.sc + 1 + s.frame.gap ∧
      t.ctx.loops = [] ∧ (fillAwaited s s.who = false → t.ctx.regions = Vector.replicate 16 none) ∧ (∀ b ∈ t.ctx.chans, b.num ∈ t.ctx.closed) ∧
      (clusterOf t s.who.cluster).posting.getLast? = some ⟨s.frame.base, s.ctx.task, s.who.cluster, s.who.who, 5, 0, 0⟩ := by
  have who := finishBundle_who (atLoopEnd s) s
  have task : (finishBundle (atLoopEnd s) s).ctx.task = s.ctx.task := by rw [finishBundle_ctx, settle_onlyRegisters]; rfl
  obtain ⟨whoT, run, sc, loops, regions, chans, post⟩ := endContext_retires user s.frame.base (finishBundle (atLoopEnd s) s)
  rw [getCtx_of_who (whoT.trans who)] at run sc loops regions chans
  rw [getCtx_of_who who] at sc post
  rw [fillAwaited_congr (finishBundle_waits (atLoopEnd s) s)] at regions
  exact ⟨_, rfl, whoT.trans who, rfl, run, sc.trans (finishBundle_sc ..), loops, regions, chans, by rw [← task]; exact post⟩

/-- Settles O40: TRAP and SYSC by the stop after their bundle (`enterSupervisor_stops`), EXIT by what its context's end leaves
(`exec_exit_retires`), the bundles without slots by where flow goes on (`exec_gapBundle_counts`, `exec_skippedBundle_passes`). -/
theorem trapsExitsAndBareBundles : Obligations.TrapsExitsAndBareBundles := by
  intro s imm h user
  refine ⟨fun e m => ?_, exec_exit_retires user, exec_gapBundle_counts h s, exec_skippedBundle_passes h s⟩
  simp only [List.mem_cons, List.not_mem_nil, or_false] at m
  rcases m with rfl | rfl
  · exact ⟨_, rfl, enterSupervisor_stops user 0x1E imm⟩
  · exact ⟨_, rfl, enterSupervisor_stops user 0x1D imm⟩

/-! ## What fetching a line leaves alone (R93, R154, R405) -/

/-- In t the bundle on the port and the device's own registers are what they are in s. -/
def KeepsFrame (s t : State) : Prop := t.frame = s.frame ∧ t.dev = s.dev

namespace KeepsFrame

theorem refl (s : State) : KeepsFrame s s := ⟨rfl, rfl⟩

theorem trans {s t u : State} (h : KeepsFrame s t) (g : KeepsFrame t u) : KeepsFrame s u := ⟨g.1.trans h.1, g.2.trans h.2⟩

theorem ite {s t u : State} {p : Prop} [Decidable p] (h : KeepsFrame s t) (g : KeepsFrame s u) : KeepsFrame s (if p then t else u) := by
  split
  · exact h
  · exact g

theorem foldl {α : Type} {f : State → α → State} (h : ∀ s a, KeepsFrame s (f s a)) (l : List α) (s : State) : KeepsFrame s (l.foldl f s) := by
  induction l generalizing s with
  | nil => exact refl s
  | cons a l ih => exact (h s a).trans (ih _)

end KeepsFrame

theorem refreshBp_keepsFrame (s : State) (e : Bounce) : KeepsFrame s (refreshBp s e) := by
  unfold refreshBp
  split
  · exact .ite (.refl s) ⟨rfl, rfl⟩
  · exact .refl s

theorem writeBounce_keepsFrame (n : Fin 8) (e : Bounce) (s : State) : KeepsFrame s (writeBounce n e s) := ⟨committedStore_frame .., committedStore_dev ..⟩

theorem mapBounce_keepsFrame (n : Fin 8) (f : Bounce → Bounce) (s : State) : KeepsFrame s (mapBounce n f s) := by
  have written := KeepsFrame.foldl (f := fun s e => if f e = e then s else writeBounce n (f e) s) (fun s e => .ite (.refl s) (writeBounce_keepsFrame ..))
    (stackOf s n).bounce s
  exact .ite (.refl s) (.trans (written.trans ⟨rfl, rfl⟩) (.foldl refreshBp_keepsFrame _ _))

theorem strikeBy_keepsFrame (hit : Fin 8 → Bounce → Nat → Bool) (s : State) : KeepsFrame s (strikeBy hit s) :=
  .ite (.refl s) (.foldl (fun _ _ => mapBounce_keepsFrame ..) _ s)

theorem translate_keepsFrame (a : Acc) (k : Kind) (va : Nat) (s : State) : KeepsFrame s (translate a k va s).1 := by
  unfold translate
  dsimp only
  split
  · exact .ite (.refl s) ⟨rfl, rfl⟩
  · split
    · exact .refl s
    · split
      · refine KeepsFrame.trans (KeepsFrame.trans ?_ ⟨modCluster_frame .., modCluster_dev ..⟩) ⟨modStack_frame .., modStack_dev ..⟩
        exact .ite (.refl s) ((strikeBy_keepsFrame ..).trans ⟨poke_frame .., poke_dev ..⟩)
      · exact .refl s

theorem readLine_keepsFrame (c : CtxId) (line : Nat) (s : State) : KeepsFrame s (readLine c line s).1 := by
  rcases readLine_translates c line s with e | ⟨a, e⟩ <;> rw [e]
  · exact .refl s
  · exact translate_keepsFrame ..

/-! ## A step whose context issues a bundle (R28, R86, R97, R101–R103) -/

/-- The state at a bundle boundary, before a frame is laid out. -/
def atBoundary (s : State) : State := { s with frame := Frame.none }

/-- The state in which the bundle at the pc is fetched. -/
def fetching (s : State) : State := { s with frame := { Frame.none with base := s.ctx.pc, parcel := s.ctx.pc } }

section Alone

variable {s : State} (alone : partner s = none)
include alone

theorem heldBack_alone (both : partnerMissing s = false) : heldBack s = false := by
  simp [heldBack, both, alone]

theorem lateAtHead_none (late : s.ctx.late = []) : lateAtHead s = none := by
  simp [lateAtHead, alone, dueLate, late]

/-- A context without a partner, of which no fault, interrupt or image is due, issues the bundle at its pc. -/
theorem attempt_issues {u : State} {h : Header} {bs : List Byte} (both : partnerMissing s = false) (run : s.ctx.run = .running)
    (late : s.ctx.late = []) (irq : pendingIrq s s.who = none) (image : imageAwaited s = false) (aligned : s.ctx.pc.toNat % 4 = 0)
    (fetch : fetchLine (lineAddr s.ctx.pc) (fetching s) = (u, some bs)) (header : decodeHeader (parcelOf bs (parcelNo s.ctx.pc)) = some h) :
    attempt s = issueHeader h bs u := by
  have boundary : ({ s with frame := Frame.none, ctx := { s.ctx with run := if s.ctx.run = .waiting then .running else s.ctx.run } } : State) =
      atBoundary s := by rw [if_neg (by simp [run])]; rfl
  have held : heldBack (atBoundary s) = false := heldBack_alone (s := atBoundary s) alone both
  have due : lateAtHead (atBoundary s) = none := lateAtHead_none (s := atBoundary s) alone late
  have quiet : pendingIrq (atBoundary s) s.who = none := irq
  have imaged : imageAwaited (atBoundary s) = false := image
  have fetched : withHeader (atBoundary s) issueHeader = issueHeader h bs u := by
    unfold withHeader
    dsimp only
    rw [if_neg (fun c => c.2 aligned)]
    show (match fetchLine (lineAddr s.ctx.pc) (fetching s) with | (s, none) => _ | (s, some bs) => _) = _
    rw [fetch]
    dsimp only [atBoundary]
    rw [header]
  simp only [attempt, boundary, held, due, quiet, imaged, fetched, Bool.false_eq_true, ↓reduceIte, Option.isSome_none, false_and, Bool.false_and]

end Alone

/-! ### The line at the pc -/

/-- Outside a loop no line is buffered, and fetching one gives no context another state (R154). -/
theorem fetchLine_flat {s : State} (flat : s.ctx.loops = []) (line : Nat) :
    KeepsContexts s (fetchLine line s).1 ∧ KeepsFrame s (fetchLine line s).1 := by
  have plain : buffered s line = false := by simp [buffered, flat]
  have same : (fetchLine line s).1 = (readLine s.who line s).1 := by
    unfold fetchLine
    simp only [plain, Bool.false_eq_true, ↓reduceIte]
    split
    · rename_i t bs read
      have kept := readLine_keeps s.who line s
      rw [read] at kept
      have still : t.ctx.loops = [] := by rw [kept.ctx, flat]
      simp [buffered, still, read]
    · rfl
  rw [same]
  exact ⟨readLine_keeps .., readLine_keepsFrame ..⟩

/-! ### The header -/

/-- Nothing turns a bundle away that does not stand in its own slots: no partner, no loop level, no pre-emption request, no debug setting. -/
structure Unhindered (f : State) : Prop where
  alone : partner f = none
  flat : f.ctx.loops = []
  unasked : f.ctx.preemptAt = none
  undebugged : f.dev.debug = 0

section Header

variable {f : State} (free : Unhindered f)
include free

theorem skips_flat (h : Header) : skips h f = false := by
  simp [skips, free.flat]

theorem saves_unasked (h : Header) : saves h f = false := by
  have mate : gangMate f f.who = none := free.alone
  have unasked : saveAsked f f.who = none := by rw [saveAsked_alone mate, getCtx_who, free.unasked]
  rw [saves, unasked]
  simp

theorem breakHit_undebugged : breakHit f = false := by
  simp [breakHit, free.undebugged, getBit]

theorem hazardMode_undebugged : hazardMode f = false := by
  simp [hazardMode, free.undebugged, getBit]

theorem endInside_flat : endInside f = none := by
  simp [endInside, free.flat]

theorem atLoopEnd_flat : atLoopEnd f = false := by
  simp [atLoopEnd, free.flat]

theorem gangWise_alone (g : State → State) : gangWise g f = traceIssue f (g f) := by
  simp [gangWise, free.alone]

end Header

/-- The header's bundle issues on its own: a gap bundle as its row, another by its slots. -/
theorem issueHeader_issues {u : State} {h : Header} {bs : List Byte} (free : Unhindered (layOut h bs u)) (sound : headerReject h = none)
    (fits : parcelNo u.frame.base + bundleLen h.p ≤ 16) :
    issueHeader h bs u = traceIssue (layOut h bs u)
      (if h.p = 0 then after (exec (.gapBundle h) (layOut h bs u)) (layOut h bs u)
       else issueSlots (readSlots h.p (bundleParcel bs (layOut h bs u))) (layOut h bs u)) := by
  have inLine : ¬ ((headerReject h).isSome = true ∨ 16 < parcelNo (layOut h bs u).frame.base + (layOut h bs u).frame.len) := by
    rw [sound]
    rintro (no | beyond)
    · cases no
    · exact absurd fits (Nat.not_le.2 beyond)
  unfold issueHeader
  dsimp only
  rw [if_neg inLine, skips_flat free, saves_unasked free, breakHit_undebugged free]
  simp only [Bool.false_eq_true, ↓reduceIte]
  split
  · rw [issueBare, endInside_flat free]
    exact gangWise_alone free _
  · exact gangWise_alone free _

/-! ### The trace ring -/

/-- No stack has a trace ring (R467). -/
def Untraced (t : State) : Prop := ∀ st ∈ t.dies.toList, st.trace.ring = 0

section Trace

variable {t : State} (quiet : Untraced t)
include quiet

theorem traceRecord_untraced (c : CtxId) (ty a : Nat) (bundle : Word) (sc : Nat) (b : Word) : traceRecord c ty a bundle sc b t = t := by
  have ring : (stackOf t c.stack).trace.ring = 0 := quiet _ (by simp [stackOf])
  simp [traceRecord, ring]

theorem traceIssue_untraced (s : State) : traceIssue s t = t := by
  unfold traceIssue
  split <;> simp [traceRecord_untraced quiet]

theorem traceStops_untraced (u : State) : traceStops t u = u := by
  have none : (t.dies.all fun st => st.trace.ring == 0) = true := by
    rw [← Vector.all_toList]
    exact List.all_eq_true.2 fun st m => by simpa using quiet st m
  rw [traceStops, none]
  simp

end Trace

/-! ### The port -/

/-- The context on the port keeps it (R28, R393). -/
structure HoldsPort (s : State) : Prop where
  alone : partner s = none
  running : s.ctx.run = .running
  served : portOf s s.who = s.who
  unspent : (coreOf s s.who.coreNo).quantum < (coreOf s s.who.coreNo).limit

section Port

variable {s : State} (port : HoldsPort s)
include port

theorem seatsOf_alone : seatsOf s s.who = [s.who] := by
  have mate : gangMate s s.who = none := port.alone
  simp [seatsOf, mate]

theorem portOrder_first : portOrder s = s.who :: (turns s s.who).dropLast := by
  simp [portOrder, portOrderOf, spent, seatsOf_alone port, Nat.not_le.2 port.unspent]

theorem takePort_served : takePort s.who s = s := by
  have served := port.served
  unfold takePort
  split
  · rename_i k x who
    simp only [who, portOf, CtxId.user.injEq, true_and] at served
    rw [if_pos served]
  · rfl

theorem giveIssue_served : giveIssue s.who s = s := by
  simp [giveIssue, seatsOf_alone port, switchTo, takePort_served port]

/-- What the context on the port issues is the step's. -/
theorem portStep_issues (moves : (attempt s).frame.out ≠ .stalled) : portStep s = afterYield (attempt s) := by
  have wants : ready s s.who = true := by simp [ready, canTry, port.running]
  have tried : tryPorts (portOrder s) s = (attempt s, true) := by
    rw [portOrder_first port, tryPorts]
    simp [wants, giveIssue_served port, moves, seatsOf_alone port, port.served]
  rw [portStep, tried]

/-- A step of a powered device whose agenda is empty is what the context on the port issues, and time passed. -/
theorem step_issues (powered : s.dev.powered = true) (agenda : s.agenda = []) (quiet : Untraced s) (moves : (attempt s).frame.out ≠ .stalled)
    (stays : (attempt s).frame.yields = false) : step s = .next (passTime s (attempt s)) := by
  rw [step, if_pos powered, oneStep, agenda]
  dsimp only
  rw [traceStops_untraced quiet, portStep_issues port moves, afterYield, stays]
  rfl

end Port

/-! ## A bundle of one slot (R98, R101–R103) -/

/-- The row that an operand chooses ends no context and arrives at no barrier, unless its instruction does. -/
theorem rowOf_kind (i : Instr) (s : State) : isExit (rowOf i s) = isExit i ∧ isBara (rowOf i s) = isBara i := by
  unfold rowOf
  split
  · unfold bindRow
    split <;> exact ⟨rfl, rfl⟩
  · split
    · exact ⟨rfl, rfl⟩
    · split <;> exact ⟨rfl, rfl⟩
    · exact ⟨rfl, rfl⟩
  · exact ⟨rfl, rfl⟩

/-- One slot alone takes effect when its bundle does. -/
theorem issueOrder_single (e : SlotOp × Instr) : issueOrder [e] = [e] := by
  unfold issueOrder
  obtain ⟨o, i⟩ := e
  cases i <;> rfl

/-- What an issued bundle of one slot leaves: where i has not ended it, the bundle ends (R51, R52). -/
def bundleOf (f w : State) : State :=
  let t := { w with frame := { w.frame with cleared := false } }
  if w.frame.out = .going then meetRegs f.who f.ctx.sc (finishBundle false t) else t

theorem runBundle_single {f : State} {o : SlotOp} {i : Instr} {w : State} (free : Unhindered f)
    (ran : exec (rowOf i (atSlot o f)) (atSlot o { f with frame := { f.frame with cleared := !isBara i } }) = .next w)
    (issued : w.frame.out = .going ∨ w.frame.out = .done) : runBundle [(o, rowOf i (atSlot o f))] f = bundleOf f w := by
  have slots : runSlots [(o, rowOf i (atSlot o f))] f = w := by
    rw [runSlots, (rowOf_kind i _).2, ran]
    rcases issued with out | out <;> simp only [after, out, runSlots]
  rw [runBundle, issueOrder_single, slots, atLoopEnd_flat free, bundleOf]
  rcases issued with out | out <;> simp [out]

section Slot

variable {f : State} {o : SlotOp} {i : Instr} (op : o.op = .ok i)
include op

/-- A slot without a path tag runs, as the row that its operands choose (R98). -/
theorem liveSlots_single (tag : o.tag = 0) : liveSlots [o] f = [(o, rowOf i (atSlot o f))] := by
  simp [liveSlots, op, onLeaf, tag]

/-- None of the checks of R102 fails for a slot that passes its structural checks and traps nowhere. -/
theorem allFound_single {v : State} (free : Unhindered f) (sound : slotReject f.frame.len o f = none)
    (ran : exec (rowOf i (atSlot o f)) (atSlot o f) = .next v) (calm : ∀ r, v.frame.out ≠ .trapped r) :
    allFound [o] [(o, rowOf i (atSlot o f))] f = [] := by
  have shape : structural o f = none := by simp [structural, sound]
  have code : codeFound (chosenLeaf [o] f) o f = none := by simp [codeFound, op]
  have gang : gangFault (o, rowOf i (atSlot o f)) f = none := by
    have alone : partner (atSlot o f) = none := free.alone
    simp [gangFault, diverges, alone]
  have trap : trapFound (o, rowOf i (atSlot o f)) f = none := by
    unfold trapFound probe
    rw [ran]
    dsimp only [after]
    split
    · rename_i r trapped; exact absurd trapped (calm r)
    · rfl
  have hazard : hazardFound [(o, rowOf i (atSlot o f))] f = none := by simp [hazardFound, hazardMode_undebugged free]
  simp [allFound, shape, code, gang, endInside_flat free, trap, hazard]

/-- A bundle of one slot that passes every check and waits for nothing is that slot's instruction, run where what it waits for is over. -/
theorem issueSlots_single {v w : State} (free : Unhindered f) (tag : o.tag = 0) (late : f.ctx.late = []) (sound : slotReject f.frame.len o f = none)
    (exits : isExit i = true → exitWaits f = false) (ran : exec (rowOf i (atSlot o f)) (atSlot o f) = .next v)
    (moves : v.frame.out ≠ .stalled) (calm : ∀ r, v.frame.out ≠ .trapped r)
    (rerun : exec (rowOf i (atSlot o f)) (atSlot o { f with frame := { f.frame with cleared := !isBara i } }) = .next w)
    (issued : w.frame.out = .going ∨ w.frame.out = .done) : issueSlots [o] f = bundleOf f w := by
  have image : (dueLate f.ctx [.image] true).isSome = false := by simp [dueLate, late]
  have leaves : (isExit i && exitWaits f) = false := by
    cases e : isExit i with
    | false => rfl
    | true => simpa using exits e
  have goes : (probe (o, rowOf i (atSlot o f)) f).frame.out ≠ .stalled := by
    rw [probe, ran]
    exact moves
  unfold issueSlots
  simp only [liveSlots_single op tag, allFound_single op free sound ran calm, firstFound, List.any_cons, List.any_nil, Bool.or_false, (rowOf_kind i _).1,
    image, Bool.and_false, leaves, Bool.false_eq_true, ↓reduceIte, List.filter_cons, goes, decide_false, List.filter_nil]
  exact runBundle_single free rerun issued

end Slot

/-! ### The frame after the slot -/

theorem meetWindow_frame (core name lo n : Nat) (sources : CopyOp → Bool) (writer : Option Nat) (s : State) :
    (meetWindow core name lo n sources writer s).frame = s.frame := by
  have marks (l : List (Nat × Cluster)) (parts : State → CopyOp → List (Nat × Nat)) :
      ∀ t, (l.foldl (fun s e => spoilCopies e.1 (parts s) writer s) t).frame = t.frame := by
    induction l with
    | nil => exact fun _ => rfl
    | cons e l ih =>
      intro t
      obtain ⟨cs, first⟩ := spoilCopies_clusters e.1 (parts t) writer t
      rw [List.foldl_cons, first, ih]
  unfold meetWindow
  split
  · rfl
  · exact marks s.clusters (fun s => meetsWindow s core name lo n sources) s

theorem meetRegs_frame (c : CtxId) (sc : Nat) (s : State) : (meetRegs c sc s).frame = s.frame := by
  have lands (l : List Landing) : ∀ t : State, (l.foldl (fun s l => match l.reg with
      | .v r => if l.issued = sc then meetWindow c.coreNo (32 * (c.num % 4) + r.val) 0 256 (fun _ => true) none s else s
      | _ => s) t).frame = t.frame := by
    induction l with
    | nil => exact fun _ => rfl
    | cons l ls ih =>
      intro t
      rw [List.foldl_cons, ih]
      split
      · split
        · exact meetWindow_frame ..
        · rfl
      · rfl
  unfold meetRegs
  split
  · rfl
  · exact lands ..

theorem bundleOf_frame (f w : State) : (bundleOf f w).frame = { w.frame with cleared := false } := by
  unfold bundleOf
  dsimp only
  split
  · rw [meetRegs_frame, finishBundle_frame]
  · rfl

/-! ### The step -/

theorem partner_congr {s t : State} (hw : t.who = s.who) (hc : t.ctx = s.ctx) (hp : t.parked = s.parked) : partner t = partner s := by
  simp [partner, gangMate, getCtx_congr hw hc hp, hw]

/-- Settles O57: the step is what the context on the port issues (`step_issues`), the bundle at its pc (`attempt_issues`,
`issueHeader_issues`), which is its slot's instruction (`issueSlots_single`). -/
theorem stepRunsDecodedInstruction : Obligations.StepRunsDecodedInstruction := by
  intro s u h bs f at_ quiet mark powered agenda alone both run late flat unasked undebugged served irq image unspent untraced aligned fetch header
    sound fits
  obtain ⟨kept, frame, dev⟩ := fetchLine_flat (s := fetching s) flat (lineAddr s.ctx.pc)
  rw [show fetchLine (lineAddr s.ctx.pc) (fetching s) = (u, some bs) from fetch] at kept frame dev
  have ctx : f.ctx = s.ctx := kept.ctx
  have free : Unhindered f :=
    ⟨(partner_congr (s := s) kept.who kept.ctx kept.parked).trans alone, by rw [ctx, flat], by rw [ctx, unasked],
      (congrArg Dev.debug dev).trans undebugged⟩
  have issued : attempt s = traceIssue f (if h.p = 0 then after (exec (.gapBundle h) f) f else issueSlots (readSlots h.p (bundleParcel bs f)) f) :=
    (attempt_issues alone both run late irq image aligned fetch header).trans
      (issueHeader_issues free sound (by rw [show u.frame = _ from frame]; exact fits))
  refine ⟨?slot, ?gap⟩
  case slot =>
    intro o i v w slots one op tag checks exits row ran moves calm rerun who stays goes t traced
    have made : bundleOf f w = t := by
      unfold bundleOf
      rw [show f.who = s.who from kept.who]
      rfl
    have whole : attempt s = t := by
      rw [issued, if_neg slots, one, issueSlots_single op free tag (by rw [ctx, late]) checks exits ran moves calm rerun goes, made]
      exact traceIssue_untraced traced f
    have end_ : t.frame = { w.frame with cleared := false } := by rw [← made, bundleOf_frame]
    rw [← whole]
    refine step_issues ⟨alone, run, served, unspent⟩ powered agenda untraced ?_ ?_
    · rw [whole, end_]
      rcases goes with out | out <;> simp [out]
    · rw [whole, end_]
      exact stays
  case gap =>
    intro v bare ran who stays moves traced
    have whole : attempt s = v := by
      rw [issued, if_pos bare, ran]
      exact traceIssue_untraced traced f
    rw [← whole]
    exact step_issues ⟨alone, run, served, unspent⟩ powered agenda untraced (by rwa [whole]) (by rwa [whole])

end Sys2Proof.Machine

namespace Sys2Proof.Machine

/-! ## Words in integer arithmetic (R119, R122, R123) -/

section WordValues

variable (x y : Word)

theorem word_add : x + y = BitVec.ofNat 64 (x.toNat + y.toNat) := by
  simp [BitVec.ofNat_add]

theorem word_mul : x * y = BitVec.ofNat 64 (x.toNat * y.toNat) := by
  simp [BitVec.ofNat_mul]

theorem word_sub : x - y = BitVec.ofInt 64 (x.toInt - y.toInt) := by
  rw [Int.sub_eq_add_neg, BitVec.ofInt_add, BitVec.ofInt_neg, BitVec.ofInt_toInt, BitVec.ofInt_toInt, BitVec.sub_eq_add_neg]

theorem word_and : x &&& y = BitVec.ofNat 64 (x.toNat &&& y.toNat) := by
  rw [← BitVec.toNat_and, BitVec.ofNat_toNat, BitVec.setWidth_eq]

theorem word_or : x ||| y = BitVec.ofNat 64 (x.toNat ||| y.toNat) := by
  rw [← BitVec.toNat_or, BitVec.ofNat_toNat, BitVec.setWidth_eq]

theorem word_xor : x ^^^ y = BitVec.ofNat 64 (x.toNat ^^^ y.toNat) := by
  rw [← BitVec.toNat_xor, BitVec.ofNat_toNat, BitVec.setWidth_eq]

theorem word_andn : x &&& ~~~y = BitVec.ofNat 64 (x.toNat &&& (2 ^ 64 - 1 - y.toNat)) := by
  rw [word_and, BitVec.toNat_not]

theorem word_shl (k : Nat) : x <<< k = BitVec.ofNat 64 (x.toNat * 2 ^ k) := by
  exact BitVec.eq_of_toNat_eq (by simp [Nat.shiftLeft_eq])

theorem word_shr (k : Nat) : x >>> k = BitVec.ofNat 64 (x.toNat / 2 ^ k) := by
  rw [← Nat.shiftRight_eq_div_pow, ← BitVec.toNat_ushiftRight, BitVec.ofNat_toNat, BitVec.setWidth_eq]

theorem word_sha (k : Nat) : x.sshiftRight k = BitVec.ofInt 64 (x.toInt / (2 ^ k : Nat)) := by
  rw [BitVec.sshiftRight, Int.shiftRight_eq_div_pow]

/-- The bits that a rotation brings round lie below those that it moves up. -/
theorem word_rotl {k : Nat} (h : k < 64) : rotl64 x k = BitVec.ofNat 64 (x.toNat * 2 ^ k % 2 ^ 64 + x.toNat / 2 ^ (64 - k)) := by
  have lt := x.isLt
  apply BitVec.eq_of_toNat_eq
  rw [rotl64, Nat.mod_eq_of_lt h]
  rcases Nat.eq_zero_or_pos k with rfl | pos
  · have low : x.toNat / 2 ^ 64 = 0 := Nat.div_eq_of_lt lt
    simp [-Nat.reducePow, low, Nat.mod_eq_of_lt lt]
  · have low : x.toNat / 2 ^ (64 - k) < 2 ^ k := by
      rw [Nat.div_lt_iff_lt_mul (Nat.two_pow_pos _), ← pow_add, Nat.add_sub_cancel' h.le]
      exact lt
    have high : x.toNat * 2 ^ k % 2 ^ 64 = 2 ^ k * (x.toNat % 2 ^ (64 - k)) := by
      rw [mul_comm, ← Nat.mul_mod_mul_left, ← pow_add, Nat.add_sub_cancel' h.le]
    rw [high, Nat.two_pow_add_eq_or_of_lt low, ← high]
    rw [BitVec.toNat_or, BitVec.toNat_shiftLeft, BitVec.toNat_ushiftRight, Nat.shiftLeft_eq, Nat.shiftRight_eq_div_pow,
      Nat.mod_eq_of_lt (show 64 - k < 64 by omega), BitVec.toNat_ofNat]
    refine (Nat.mod_eq_of_lt ?_).symm
    exact Nat.or_lt_two_pow (Nat.mod_lt _ (by decide)) (low.trans_le (Nat.pow_le_pow_right (by decide) h.le))

theorem word_min : (if x.sle y then x else y) = BitVec.ofInt 64 (min x.toInt y.toInt) := by
  rw [min_def, apply_ite (BitVec.ofInt 64), BitVec.ofInt_toInt, BitVec.ofInt_toInt]
  simp only [BitVec.sle, decide_eq_true_eq]

theorem word_max : (if x.sle y then y else x) = BitVec.ofInt 64 (max x.toInt y.toInt) := by
  rw [max_def, apply_ite (BitVec.ofInt 64), BitVec.ofInt_toInt, BitVec.ofInt_toInt]
  simp only [BitVec.sle, decide_eq_true_eq]

theorem word_minz : (if x.ule y then x else y) = BitVec.ofNat 64 (min x.toNat y.toNat) := by
  rw [min_def, apply_ite (BitVec.ofNat 64)]
  simp [BitVec.ule]

theorem word_maxz : (if x.ule y then y else x) = BitVec.ofNat 64 (max x.toNat y.toNat) := by
  rw [max_def, apply_ite (BitVec.ofNat 64)]
  simp [BitVec.ule]

theorem divUnsigned_eq : divUnsigned x y = if y = 0 then BitVec.ofInt 64 (-1) else BitVec.ofNat 64 (x.toNat / y.toNat) := by
  rw [← BitVec.toNat_udiv, BitVec.ofNat_toNat, BitVec.setWidth_eq]
  rfl

theorem remUnsigned_eq : remUnsigned x y = if y = 0 then x else BitVec.ofNat 64 (x.toNat % y.toNat) := by
  rw [← BitVec.toNat_umod, BitVec.ofNat_toNat, BitVec.setWidth_eq]
  rfl

end WordValues

theorem alu3_ready {s : State} {d a b : SR} (h : Ready [.s a, .s b] [.s d] s) (f : Word → Word → Word) (L : Nat) :
    alu3 f L d a b s = .next (land (.s d) (.word (f (rdS s a) (rdS s b))) L s) := guardRegs_ready h _

theorem alu2_ready {s : State} {d a : SR} (h : Ready [.s a] [.s d] s) (f : Word → Word) (L : Nat) :
    alu2 f L d a s = .next (land (.s d) (.word (f (rdS s a))) L s) := guardRegs_ready h _

/-- Settles O1: each function by the equation of its shared operation (`alu3_ready`) and its value in integer arithmetic
(`word_add` to `remUnsigned_eq`). -/
theorem scalarBinaryResults : Obligations.ScalarBinaryResults := by
  intro s d a b h x y k gives
  have lands (f : Word → Word → Word) {i : Instr} {L : Nat} (is : exec i s = alu3 f L d a b s) {v : Word} (val : f x y = v) : gives i v L := by
    subst val
    exact is.trans (alu3_ready h f L)
  have hk : k < 64 := Nat.mod_lt _ (by decide)
  exact ⟨lands (· + ·) rfl (word_add x y), lands (· - ·) rfl (word_sub x y), lands (· &&& ·) rfl (word_and x y),
    lands (· ||| ·) rfl (word_or x y), lands (· ^^^ ·) rfl (word_xor x y), lands (· &&& ~~~·) rfl (word_andn x y),
    lands (· <<< shamt ·) rfl (word_shl x k), lands (· >>> shamt ·) rfl (word_shr x k),
    lands (fun x y => x.sshiftRight (shamt y)) rfl (word_sha x k), lands (fun x y => rotl64 x (shamt y)) rfl (word_rotl x hk),
    lands (fun x y => if x.sle y then x else y) rfl (word_min x y), lands (fun x y => if x.sle y then y else x) rfl (word_max x y),
    lands (fun x y => if x.ule y then x else y) rfl (word_minz x y), lands (fun x y => if x.ule y then y else x) rfl (word_maxz x y),
    lands (· * ·) rfl (word_mul x y), lands mulHigh rfl rfl, lands mulHighZ rfl rfl, lands divSigned rfl rfl,
    lands divUnsigned rfl (divUnsigned_eq x y), lands remSigned rfl rfl, lands remUnsigned rfl (remUnsigned_eq x y)⟩

/-! ## Bits of a word, counted and found (R122, R124) -/

theorem leadingZeros_spec (x : Word) :
    ∃ n, leadingZeros x = BitVec.ofNat 64 n ∧ (x = 0 → n = 64) ∧ (x ≠ 0 → n < 64 ∧ x.toNat < 2 ^ (64 - n) ∧ 2 ^ (63 - n) ≤ x.toNat) := by
  by_cases zero : x = 0
  · exact ⟨64, by rw [leadingZeros, if_pos zero]; rfl, fun _ => rfl, fun nz => absurd zero nz⟩
  · have pos : x.toNat ≠ 0 := fun e => zero (BitVec.eq_of_toNat_eq e)
    have top : x.toNat.log2 < 64 := (Nat.log2_lt pos).2 x.isLt
    refine ⟨63 - x.toNat.log2, by rw [leadingZeros, if_neg zero], fun z => absurd z zero, fun _ => ⟨by omega, ?_, ?_⟩⟩
    · rw [show 64 - (63 - x.toNat.log2) = x.toNat.log2 + 1 by omega]
      exact Nat.lt_log2_self
    · rw [show 63 - (63 - x.toNat.log2) = x.toNat.log2 by omega]
      exact Nat.log2_self_le pos

/-- A number whose low bits are all zero is a multiple of their power of two. -/
theorem mod_two_pow_eq_zero {x n : Nat} (h : ∀ j < n, x.testBit j = false) : x % 2 ^ n = 0 := by
  refine Nat.eq_of_testBit_eq fun j => ?_
  rw [Nat.testBit_mod_two_pow, Nat.zero_testBit]
  by_cases lt : j < n
  · rw [h j lt, Bool.and_false]
  · rw [decide_eq_false lt, Bool.false_and]

theorem trailingZeros_spec (x : Word) :
    ∃ n, trailingZeros x = BitVec.ofNat 64 n ∧ (x = 0 → n = 64) ∧ (x ≠ 0 → x.toNat % 2 ^ n = 0 ∧ x.toNat / 2 ^ n % 2 = 1) := by
  refine ⟨_, rfl, fun zero => ?_, fun nonzero => ?_⟩
  · rw [zero, List.find?_eq_none.2 fun i _ => by simp [getBit]]
    rfl
  · cases found : (List.range 64).find? fun i => getBit x i with
    | none =>
      refine absurd (BitVec.eq_of_getLsbD_eq fun i hi => ?_) nonzero
      simpa [getBit] using List.find?_eq_none.1 found i (List.mem_range.2 hi)
    | some i =>
      obtain ⟨set, -, below⟩ := List.find?_range_eq_some.1 found
      exact ⟨mod_two_pow_eq_zero fun j lt => by simpa [getBit, BitVec.testBit_toNat] using below j lt, by simpa [getBit_eq] using set⟩

theorem onesCount_eq (x : Word) : onesCount x = BitVec.ofNat 64 ((List.range 64).map fun i => x.toNat / 2 ^ i % 2).sum := by
  refine congrArg (BitVec.ofNat 64) ?_
  induction List.range 64 with
  | nil => rfl
  | cons i l ih =>
    rw [List.map_cons, List.sum_cons, ← ih, List.filter_cons, getBit_eq]
    rcases Nat.mod_two_eq_zero_or_one (x.toNat / 2 ^ i) with bit | bit
    · simp [bit]
    · simp [bit, Nat.add_comm]

/-! ## Immediates (R125, R126) -/

theorem word_add_signed {w : Nat} (x : Word) (c : BitVec w) : x + c.signExtend 64 = BitVec.ofInt 64 (x.toInt + c.toInt) := by
  rw [BitVec.ofInt_add, BitVec.ofInt_toInt]
  rfl

theorem word_append (x : Word) (c : BitVec 17) : (x <<< 17) ||| c.zeroExtend 64 = BitVec.ofNat 64 (x.toNat * 2 ^ 17 + c.toNat) := by
  have apart : x <<< 17 &&& c.zeroExtend 64 = 0#64 := by
    apply BitVec.eq_of_getLsbD_eq
    intro i hi
    by_cases low : i < 17
    · simp [low]
    · have above : c.getLsbD i = false := BitVec.getLsbD_of_ge c i (by omega)
      simp [above]
  rw [← BitVec.add_eq_or_of_and_eq_zero _ _ apart, word_shl, BitVec.ofNat_add]
  exact congrArg _ (BitVec.eq_of_toNat_eq (by simp))

/-- Settles O2: each form by the equation of its shared operation (`alu2_ready`); the counts by `leadingZeros_spec`,
`trailingZeros_spec` and `onesCount_eq`. -/
theorem scalarUnaryAndImmediateResults : Obligations.ScalarUnaryAndImmediateResults := by
  have lands {s : State} {d a : SR} (h : Ready [.s a] [.s d] s) (f : Word → Word) {i : Instr} (is : exec i s = alu2 f 1 d a s) {v : Word}
      (val : f (rdS s a) = v) : exec i s = .next (land (.s d) (.word v) 1 s) := by
    subst val
    exact is.trans (alu2_ready h f 1)
  refine ⟨?unary, ?immediates⟩
  case unary =>
    intro s d a h x gives
    obtain ⟨leading, clz, lead⟩ := leadingZeros_spec x
    obtain ⟨trailing, ctz, trail⟩ := trailingZeros_spec x
    exact ⟨⟨leading, lands h leadingZeros rfl clz, lead⟩, ⟨trailing, lands h trailingZeros rfl ctz, trail⟩,
      lands h onesCount rfl (onesCount_eq x), lands h (fun x => (x.truncate 8).signExtend 64) rfl rfl,
      lands h (fun x => (x.truncate 16).signExtend 64) rfl rfl, lands h (fun x => (x.truncate 32).signExtend 64) rfl rfl⟩
  case immediates =>
    intro s d a imm n c x gives
    exact ⟨fun h => ⟨lands h (· + imm.signExtend 64) rfl (word_add_signed x imm), lands h (· &&& imm.signExtend 64) rfl rfl,
        lands h (· ||| imm.signExtend 64) rfl rfl, lands h (· ^^^ imm.signExtend 64) rfl rfl, lands h (· <<< n.toNat) rfl (word_shl x _),
        lands h (· >>> n.toNat) rfl (word_shr x _), lands h (·.sshiftRight n.toNat) rfl (word_sha x _)⟩,
      fun h => (rfl : _ = execLi d c s).trans (guardRegs_ready h _),
      fun h => lands h (fun x => (x <<< 17) ||| c.zeroExtend 64) rfl (word_append (rdS s d) c)⟩

/-- Settles O3: a comparison by its condition (`icond`), predicate logic by the equations of its shared operations. -/
theorem comparisonsAndPredicates : Obligations.ComparisonsAndPredicates := by
  intro s d a b pd pa pb imm truth flags p q
  have agrees (cond : Fin 8) (x y : Word) : icond cond x y = true ↔ truth cond x y :=
    match cond with
    | 0 => beq_iff_eq
    | 1 => bne_iff_ne
    | 2 => BitVec.slt_iff_toInt_lt
    | 3 => BitVec.ult_iff_lt
    | 4 => BitVec.sle_iff_toInt_le
    | 5 => BitVec.ule_iff_le
    | 6 => BitVec.slt_iff_toInt_lt
    | 7 => BitVec.ult_iff_lt
  refine ⟨fun h cond => ⟨_, ?cmp, agrees cond _ _⟩, fun h cond => ⟨_, ?cmpi, agrees cond _ _⟩, fun h => ?two, fun h => ?one, fun h => ?sel⟩
  case cmp => exact (rfl : _ = execCmp cond pd a b s).trans (guardRegs_ready h _)
  case cmpi => exact (rfl : _ = execCmpi cond pd a imm s).trans (guardRegs_ready h _)
  case two =>
    have lands (f : Bool → Bool → Bool) {i : Instr} (is : exec i s = plog3 f pd pa pb s) : flags i (f p q) := is.trans (guardRegs_ready h _)
    exact ⟨lands _ rfl, lands _ rfl, lands (· != ·) rfl, lands (· && !·) rfl⟩
  case one =>
    have lands (f : Bool → Bool) {i : Instr} (is : exec i s = plog2 f pd pa s) : flags i (f p) := is.trans (guardRegs_ready h _)
    exact ⟨lands _ rfl, lands (fun p => p) rfl⟩
  case sel =>
    have ready : Ready [.p pa, .s a, .s b] [.s d] s := h.mono fun r => by simp only [List.mem_cons]; tauto
    exact (rfl : _ = execSel d a b pa s).trans (guardRegs_ready ready _)

/-! ## The values of MOVX (R18, R48, R136) -/

/-- Only the stack and the device of the issuing context may be others than those it was given (R18). -/
theorem identOf_eq (s : State) : identOf s = { s.ctx.ident with
    die := match s.who with | .sys n _ => n.val | _ => s.ctx.ident.die
    dev := match s.who with | .sys _ _ => s.dev.no | _ => s.ctx.ident.dev } := by
  unfold identOf
  cases s.who <;> rfl

/-- Selectors from 10 on read the indices of the loop levels; an inactive level reads 0 (R48). -/
theorem special_level (s : State) {k : Nat} (h : 10 + k < 16) : special s ⟨10 + k, h⟩ = s.ctx.loops[k]?.elim 0 (·.index) := by
  unfold special
  dsimp only
  split
  any_goals omega
  rw [Nat.add_sub_cancel_left]
  cases s.ctx.loops[k]? <;> rfl

theorem word_branch (base : Word) (off : BitVec 19) : base + off.signExtend 64 * 4 = BitVec.ofInt 64 (base.toInt + 4 * off.toInt) := by
  rw [BitVec.ofInt_add, BitVec.ofInt_mul, BitVec.ofInt_toInt, BitVec.mul_comm]
  rfl

/-- Settles O4: (a) by the equations of the instructions under a guard that passes, (b) by `identOf_eq` and `special_level`. -/
theorem addressRegistersAndSpecialValues : Obligations.AddressRegistersAndSpecialValues := by
  refine ⟨?address, ?special⟩
  case address =>
    intro s d x ad aa b imm st off level base
    refine ⟨fun h => ⟨?aadd, ?asub⟩, fun h => ?amovs, fun h => ?smova, fun h => ?aaddi, fun h low => ?astride, fun high => ?reserved,
      fun h => ?btgt, fun h => ?btgta⟩
    case aadd => rw [← word_add]; exact (rfl : _ = execAadd ad aa x s).trans (guardRegs_ready h _)
    case asub => rw [← word_sub]; exact (rfl : _ = execAsub ad aa x s).trans (guardRegs_ready h _)
    case amovs => exact (rfl : _ = execAmovs ad x s).trans (guardRegs_ready h _)
    case smova => exact (rfl : _ = execSmova d aa s).trans (guardRegs_ready h _)
    case aaddi => rw [← word_add_signed]; exact (rfl : _ = execAaddi ad aa imm s).trans (guardRegs_ready h _)
    case astride => exact ((rfl : _ = execAstride ad level st s).trans (dif_pos low)).trans (guardRegs_ready h _)
    case reserved => exact (rfl : _ = execAstride ad level st s).trans (dif_neg (by omega))
    case btgt => rw [← word_branch]; exact (rfl : _ = execBtgt b off s).trans (guardRegs_ready h _)
    case btgta => exact (rfl : _ = execBtgta b aa s).trans (guardRegs_ready h _)
  case special =>
    intro s d h i place reads
    have value {sel : Fin 16} {n : Nat} (val : special s sel = BitVec.ofNat 64 n) : reads sel n := by
      dsimp only [reads]
      rw [← val]
      exact (rfl : _ = execMovx d sel s).trans (guardRegs_ready h _)
    have ident {sel : Fin 16} {f : Ident → Nat} (val : special s sel = BitVec.ofNat 64 (f (identOf s))) {n : Nat} (is : f (identOf s) = n) :
        reads sel n := value (val.trans (congrArg _ is))
    have die : (identOf s).die = place.1 := by
      rw [identOf_eq]
      dsimp only [place]
      cases s.who <;> rfl
    have dev : (identOf s).dev = place.2 := by
      rw [identOf_eq]
      dsimp only [place]
      cases s.who <;> rfl
    refine ⟨ident (f := Ident.core) rfl ?_, ident (f := Ident.clu) rfl ?_, ident (f := Ident.die) rfl die, ident (f := Ident.dev) rfl dev,
      ident (f := Ident.ctx) rfl ?_, ident (f := Ident.gang) rfl ?_, ident (f := Ident.gx) rfl ?_, value rfl, value rfl, value rfl, fun k => value ?_⟩
    any_goals rw [identOf_eq]
    rw [special_level]
    cases s.ctx.loops[k.val]? <;> simp

/-! ## The frame of the SC slot (R119) -/

/-- A slot that goes on has passed its guard. -/
theorem guardRegs_going {rs ws : List RegName} {s t : State} {k : State → Res} (h : guardRegs rs ws s k = .next t) (going : t.frame.out = .going) :
    k s = .next t := by
  have trapped {rank : Nat} {code : BitVec 8} {tval : Word} (trap : guardRegs rs ws s k = trapAt rank code tval s) : False := by
    obtain ⟨u, hu, out, -⟩ := trapAt_next rank code tval s
    obtain rfl : t = u := Host.Outcome.next.inj (h.symm.trans (trap.trans hu))
    simp [out] at going
  rcases guardRegs_cases rs ws s k with passes | stalls | ⟨r, -, hazard⟩ | ⟨r, -, poison⟩
  · rw [← passes, h]
  · obtain rfl := Host.Outcome.next.inj (h.symm.trans stalls)
    cases going
  · exact (trapped hazard).elim
  · exact (trapped poison).elim

/-- Where the meaning m goes on in s, it changes nothing but the landings of r. -/
def LandsAlone (r : RegName) (s : State) (m : Res) : Prop :=
  ∀ t, m = .next t → t.frame.out = .going → OnlyLands s t ∧ LandsOnly [r] s t ∧ SameBytes s t

/-- A slot that checks its registers and lands one result leaves all else. -/
theorem guardRegs_landsAlone {rs ws : List RegName} {r : RegName} {v : State → RegVal} {L : Nat} {s : State} :
    LandsAlone r s (guardRegs rs ws s fun s => .next (land r (v s) L s)) := by
  intro t run going
  obtain rfl : land r (v s) L s = t := Host.Outcome.next.inj (guardRegs_going (k := fun s => .next (land r (v s) L s)) run going)
  exact ⟨land_onlyLands .., fun l m => land_landsOnly r (v s) L s l m, by simp [SameBytes]⟩

/-- A trap does not go on. -/
theorem reserved_landsAlone {r : RegName} {s : State} : LandsAlone r s (reserved s) := by
  intro t run going
  obtain ⟨u, trap, out, -⟩ := trapAt_next 4 0x02 s.frame.parcel s
  obtain rfl : t = u := Host.Outcome.next.inj (run.symm.trans trap)
  simp [out] at going

section Forms

variable {s : State} {d a b : SR} {pd pa pb : PR}

theorem alu3_landsAlone {f : Word → Word → Word} {L : Nat} : LandsAlone (.s d) s (alu3 f L d a b s) := guardRegs_landsAlone

theorem alu2_landsAlone {f : Word → Word} {L : Nat} : LandsAlone (.s d) s (alu2 f L d a s) := guardRegs_landsAlone

theorem plog3_landsAlone {f : Bool → Bool → Bool} : LandsAlone (.p pd) s (plog3 f pd pa pb s) := guardRegs_landsAlone

theorem plog2_landsAlone {f : Bool → Bool} : LandsAlone (.p pd) s (plog2 f pd pa s) := guardRegs_landsAlone

theorem execAstride_landsAlone {ad : AR} {level : Fin 8} {st : BitVec 15} : LandsAlone (.a ad) s (execAstride ad level st s) := by
  unfold execAstride
  split
  · exact guardRegs_landsAlone
  · exact reserved_landsAlone

end Forms

/-- Settles O7: every instruction of the list checks its registers and lands one result (`guardRegs_landsAlone`). -/
theorem scalarFrame : Obligations.ScalarFrame := by
  intro s d a b pd pa pb ad aa r i12 i6 i17 i10 i15 i19 cond level sel keeps
  have all {r : RegName} {is : List Instr} (h : ∀ i ∈ is, LandsAlone r s (exec i s)) : keeps r is := h
  have none {r : RegName} : ∀ i ∈ ([] : List Instr), LandsAlone r s (exec i s) := List.forall_mem_nil _
  refine ⟨all ?words, all ?flags, all ?bases, all ?targets⟩
  case words =>
    simp only [List.forall_mem_cons]
    exact ⟨(alu3_landsAlone : LandsAlone _ s (execAdd d a b s)), (alu3_landsAlone : LandsAlone _ s (execSub d a b s)),
      (alu3_landsAlone : LandsAlone _ s (execAndS d a b s)), (alu3_landsAlone : LandsAlone _ s (execOrS d a b s)),
      (alu3_landsAlone : LandsAlone _ s (execXorS d a b s)), (alu3_landsAlone : LandsAlone _ s (execAndn d a b s)),
      (alu3_landsAlone : LandsAlone _ s (execShl d a b s)), (alu3_landsAlone : LandsAlone _ s (execShr d a b s)),
      (alu3_landsAlone : LandsAlone _ s (execSha d a b s)), (alu3_landsAlone : LandsAlone _ s (execRotl d a b s)),
      (alu3_landsAlone : LandsAlone _ s (execMinS d a b s)), (alu3_landsAlone : LandsAlone _ s (execMaxS d a b s)),
      (alu3_landsAlone : LandsAlone _ s (execMinz d a b s)), (alu3_landsAlone : LandsAlone _ s (execMaxz d a b s)),
      (alu3_landsAlone : LandsAlone _ s (execMul d a b s)), (alu3_landsAlone : LandsAlone _ s (execMulh d a b s)),
      (alu3_landsAlone : LandsAlone _ s (execMulhz d a b s)), (alu3_landsAlone : LandsAlone _ s (execDivS d a b s)),
      (alu3_landsAlone : LandsAlone _ s (execDivz d a b s)), (alu3_landsAlone : LandsAlone _ s (execRemS d a b s)),
      (alu3_landsAlone : LandsAlone _ s (execRemz d a b s)), (alu2_landsAlone : LandsAlone _ s (execClz d a s)),
      (alu2_landsAlone : LandsAlone _ s (execCtz d a s)), (alu2_landsAlone : LandsAlone _ s (execPopc d a s)),
      (alu2_landsAlone : LandsAlone _ s (execSextb d a s)), (alu2_landsAlone : LandsAlone _ s (execSexth d a s)),
      (alu2_landsAlone : LandsAlone _ s (execSextw d a s)), (alu2_landsAlone : LandsAlone _ s (execAddi d a i12 s)),
      (alu2_landsAlone : LandsAlone _ s (execAndi d a i12 s)), (alu2_landsAlone : LandsAlone _ s (execOri d a i12 s)),
      (alu2_landsAlone : LandsAlone _ s (execXori d a i12 s)), (alu2_landsAlone : LandsAlone _ s (execShli d a i6 s)),
      (alu2_landsAlone : LandsAlone _ s (execShri d a i6 s)), (alu2_landsAlone : LandsAlone _ s (execShai d a i6 s)),
      (guardRegs_landsAlone : LandsAlone _ s (execLi d i17 s)), (alu2_landsAlone : LandsAlone _ s (execLis d i17 s)),
      (guardRegs_landsAlone : LandsAlone _ s (execSel d a b pa s)), (guardRegs_landsAlone : LandsAlone _ s (execSmova d aa s)),
      (guardRegs_landsAlone : LandsAlone _ s (execMovx d sel s)), none⟩
  case flags =>
    simp only [List.forall_mem_cons]
    exact ⟨(guardRegs_landsAlone : LandsAlone _ s (execCmp cond pd a b s)), (guardRegs_landsAlone : LandsAlone _ s (execCmpi cond pd a i10 s)),
      (guardRegs_landsAlone : LandsAlone _ s (execFcmp cond pd a b s)), (plog3_landsAlone : LandsAlone _ s (execPand pd pa pb s)),
      (plog3_landsAlone : LandsAlone _ s (execPor pd pa pb s)), (plog3_landsAlone : LandsAlone _ s (execPxor pd pa pb s)),
      (plog3_landsAlone : LandsAlone _ s (execPandn pd pa pb s)), (plog2_landsAlone : LandsAlone _ s (execPnot pd pa s)),
      (plog2_landsAlone : LandsAlone _ s (execPmov pd pa s)), none⟩
  case bases =>
    simp only [List.forall_mem_cons]
    exact ⟨(guardRegs_landsAlone : LandsAlone _ s (execAadd ad aa a s)), (guardRegs_landsAlone : LandsAlone _ s (execAsub ad aa a s)),
      (guardRegs_landsAlone : LandsAlone _ s (execAmovs ad a s)), (guardRegs_landsAlone : LandsAlone _ s (execAaddi ad aa i12 s)),
      execAstride_landsAlone, none⟩
  case targets =>
    simp only [List.forall_mem_cons]
    exact ⟨(guardRegs_landsAlone : LandsAlone _ s (execBtgt r i19 s)), (guardRegs_landsAlone : LandsAlone _ s (execBtgta r aa s)), none⟩

/-! ## Element-wise integer and logical forms (R203, R205) -/

/-- The code n of width w stands for the integer i. -/
def CodeOf (w n : Nat) (i : Int) : Prop := (n : Int) ≡ i [ZMOD (2 ^ w : Nat)]

/-- A code's low bits are those of its integer. -/
theorem CodeOf.low {w n : Nat} {i : Int} (h : CodeOf w n i) : n % 2 ^ w = (i % (2 ^ w : Nat)).toNat := by
  rw [← h.eq, ← Int.natCast_emod, Int.toNat_natCast]

theorem codeOf_self (w n : Nat) : CodeOf w n n := Int.ModEq.refl _

theorem codeOf_mod (w n : Nat) : CodeOf w (n % 2 ^ w) n := by
  rw [CodeOf, Int.natCast_emod]
  exact Int.mod_modEq ..

theorem codeOf_wrapInt (w : Nat) (i : Int) : CodeOf w (wrapInt w i) i := by
  have nonneg : 0 ≤ i % (2 ^ w : Nat) := Int.emod_nonneg _ (by positivity)
  rw [CodeOf, wrapInt, Int.toNat_of_nonneg nonneg]
  exact Int.mod_modEq ..

/-- An integer that a code is read as has that code. -/
theorem codeOf_intOf (w : Nat) (signed : Bool) (n : Nat) : CodeOf w n (intOf w signed n) := by
  have base : CodeOf w n ((n % 2 ^ w : Nat) : Int) := (codeOf_mod w n).symm
  unfold intOf
  dsimp only
  split
  · exact base.trans (Int.modEq_iff_dvd.2 ⟨-1, by ring⟩)
  · exact base

theorem intOf_ofNat {w : Nat} (hw : 0 < w) (n : Nat) : intOf w true n = (BitVec.ofNat w n).toInt := by
  rw [← intOf_signed _ hw, BitVec.toNat_ofNat, intOf, intOf, Nat.mod_mod]

theorem intOf_unsigned {w n : Nat} (h : n < 2 ^ w) : intOf w false n = n := by
  simp [intOf, Nat.mod_eq_of_lt h]

theorem codeOf_sub {w a b : Nat} (hb : b < 2 ^ w) : CodeOf w ((a + 2 ^ w - b) % 2 ^ w) ((a : Int) - b) := by
  refine (codeOf_mod _ _).trans ?_
  rw [Nat.cast_sub (by omega), Nat.cast_add]
  exact Int.modEq_iff_dvd.2 ⟨-1, by ring⟩

theorem codeOf_neg {w a : Nat} (ha : a < 2 ^ w) : CodeOf w ((2 ^ w - a) % 2 ^ w) (-(a : Int)) := by
  refine (codeOf_mod _ _).trans ?_
  rw [Nat.cast_sub ha.le]
  exact Int.modEq_iff_dvd.2 ⟨-1, by ring⟩

/-- Element-wise results that count no event. -/
theorem GivesElements.quiet {s : State} {d : VR} {m : MR} {w L : Nat} {r : Res} {g : Nat → Nat}
    (h : GivesElements s d m w L r fun e => (g e, [])) :
    ∃ V : Vec, r = .next (land (.v d) (.vec V) L s) ∧
      ∀ e, e < 2048 / w → elemAt w V e = if (rdM s m).getLsbD (e * w / 32) then g e % 2 ^ w else elemAt w (rdV s d) e := by
  obtain ⟨V, run, each⟩ := h
  have none : ((List.range (2048 / w)).flatMap fun e => if (rdM s m).getLsbD (e * w / 32) then ([] : List Nat) else []) = [] :=
    List.flatMap_eq_nil_iff.2 fun e _ => ite_self _
  rw [none] at run
  exact ⟨V, run, each⟩

section IntegerTypes

variable {ty : Fin 16} (first : 2 ≤ ty.val) (last : ty.val ≤ 5)
include first last

theorem tyFlt_int : tyFlt ty = none := by
  unfold tyFlt
  split
  any_goals omega
  rfl

theorem ty_int_mem : ty.val ∈ [2, 3, 4, 5] := by
  have cases : ty.val = 2 ∨ ty.val = 3 ∨ ty.val = 4 ∨ ty.val = 5 := by omega
  simpa using cases

/-- Types 2 to 5 under the types of arithmetic. -/
theorem needTy_int (s : State) (k : State → Res) : needTy [2, 3, 4, 5, 6, 7, 8] ty s k = k s :=
  needTy_listed (List.mem_append_left [6, 7, 8] (ty_int_mem first last)) s k

variable (d a b : VR) (m : MR) (s : State)

theorem vadd_int : exec (.vadd d a b m ty) s = vector3 false (fun x y _ => ((x + y) % 2 ^ tyWidth ty, [])) (tyWidth ty) 2 d a b m s := by
  change execVadd d a b m ty s = _
  simp only [execVadd, needTy_int first last, eAdd, tyFlt_int first last]

theorem vsub_int : exec (.vsub d a b m ty) s =
    vector3 false (fun x y _ => ((x + 2 ^ tyWidth ty - y) % 2 ^ tyWidth ty, [])) (tyWidth ty) 2 d a b m s := by
  change execVsub d a b m ty s = _
  simp only [execVsub, needTy_int first last, eSub, tyFlt_int first last]

theorem vmin_int : exec (.vmin d a b m ty) s = vector3 false (fun x y _ => (eMinMax false ty x y, [])) (tyWidth ty) 2 d a b m s := by
  change execVmin d a b m ty s = _
  simp only [execVmin, needTy_int first last]

theorem vmax_int : exec (.vmax d a b m ty) s = vector3 false (fun x y _ => (eMinMax true ty x y, [])) (tyWidth ty) 2 d a b m s := by
  change execVmax d a b m ty s = _
  simp only [execVmax, needTy_int first last]

theorem vmul_int : exec (.vmul d a b m ty) s = vector3 false (fun x y _ => (x * y % 2 ^ tyWidth ty, [])) (tyWidth ty) 5 d a b m s := by
  change execVmul d a b m ty s = _
  simp only [execVmul, needTy_int first last, eMul, tyFlt_int first last]

theorem vshl_int : exec (.vshl d a b m ty) s =
    vector3 false (fun x y _ => (x * 2 ^ (y % tyWidth ty) % 2 ^ tyWidth ty, [])) (tyWidth ty) 2 d a b m s :=
  needTy_listed (ty_int_mem first last) s _

theorem vshr_int : exec (.vshr d a b m ty) s = vector3 false (fun x y _ => (x / 2 ^ (y % tyWidth ty), [])) (tyWidth ty) 2 d a b m s :=
  needTy_listed (ty_int_mem first last) s _

theorem vsha_int : exec (.vsha d a b m ty) s = vector3 false (fun x y _ =>
    (wrapInt (tyWidth ty) (intOf (tyWidth ty) true x / (2 ^ (y % tyWidth ty) : Nat)), [])) (tyWidth ty) 2 d a b m s :=
  needTy_listed (ty_int_mem first last) s _

theorem vabs_int : exec (.vabs d a m ty) s = vector1 (fun x => (eAbs ty x, [])) (tyWidth ty) 2 d a m s := by
  change execVabs d a m ty s = _
  simp only [execVabs, needTy_int first last]

theorem vneg_int : exec (.vneg d a m ty) s = vector1 (fun x => ((2 ^ tyWidth ty - x) % 2 ^ tyWidth ty, [])) (tyWidth ty) 2 d a m s := by
  change execVneg d a m ty s = _
  simp only [execVneg, needTy_int first last, eNeg, tyFlt_int first last]

/-- The smaller of two elements, read as the type reads them. -/
theorem codeOf_eMin (x y : Nat) : CodeOf (tyWidth ty) (eMinMax false ty x y)
    (min (intOf (tyWidth ty) (tySigned ty) x) (intOf (tyWidth ty) (tySigned ty) y)) := by
  simp only [eMinMax, tyFlt_int first last, beq_false, Bool.not_eq_true', decide_eq_false_iff_not, not_lt]
  split
  · rw [min_eq_right ‹_›]; exact codeOf_intOf ..
  · rw [min_eq_left (by omega)]; exact codeOf_intOf ..

theorem codeOf_eMax (x y : Nat) : CodeOf (tyWidth ty) (eMinMax true ty x y)
    (max (intOf (tyWidth ty) (tySigned ty) x) (intOf (tyWidth ty) (tySigned ty) y)) := by
  simp only [eMinMax, tyFlt_int first last, beq_true, decide_eq_true_eq]
  split
  · rw [max_eq_right (by omega)]; exact codeOf_intOf ..
  · rw [max_eq_left (by omega)]; exact codeOf_intOf ..

theorem codeOf_eAbs {x : Nat} (hx : x < 2 ^ tyWidth ty) : CodeOf (tyWidth ty) (eAbs ty x)
    (if intOf (tyWidth ty) (tySigned ty) x < 0 then -intOf (tyWidth ty) (tySigned ty) x else intOf (tyWidth ty) (tySigned ty) x) := by
  simp only [eAbs, tyFlt_int first last]
  cases signed : tySigned ty
  · rw [intOf_unsigned hx, if_neg (Int.natCast_nonneg x).not_gt]
    exact codeOf_self ..
  · have abs (i : Int) : (if i < 0 then -i else i) = i.natAbs := by omega
    rw [abs]
    exact codeOf_wrapInt ..

end IntegerTypes

theorem width_int (ty : Fin 16) : tyWidth ty = 16 ∨ tyWidth ty = 32 := by
  unfold tyWidth
  split
  · exact .inl rfl
  · exact .inr rfl

/-- Settles O22: every form is an element-wise function under the mask (`GivesElements.quiet`), which its own equation (`vadd_int` to
`vneg_int`) names and whose codes stand for the integers of the statement (`CodeOf.low`). -/
theorem vectorIntegerResults : Obligations.VectorIntegerResults := by
  intro s d a b m ty hc w x y int sgn ifM gives words
  have hw : w = 16 ∨ w = 32 := width_int ty
  have pos : 0 < w := by omega
  have three {v : Nat} (hv : v = 16 ∨ v = 32) (hr : Ready (.v a :: .v b :: ifM) [.v d] s) {i : Instr} (g : Nat → Nat → Nat) {L : Nat} {f : Nat → Int}
      (is : exec i s = vector3 false (fun p q _ => (g p q, [])) v L d a b m s)
      (codes : ∀ e, CodeOf v (g (elemAt v (rdV s a) e) (elemAt v (rdV s b) e)) (f e)) : gives i L v f := by
    obtain ⟨V, run, each⟩ := (vector3_gives hv hc (ready_binary hr) is).quiet
    exact ⟨V, run, fun e he => by rw [← (codes e).low]; exact each e he⟩
  have one {v : Nat} (hv : v = 16 ∨ v = 32) (hr : Ready (.v a :: ifM) [.v d] s) {i : Instr} (g : Nat → Nat) {L : Nat} {f : Nat → Int}
      (is : exec i s = vector1 (fun p => (g p, [])) v L d a m s) (codes : ∀ e, CodeOf v (g (elemAt v (rdV s a) e)) (f e)) : gives i L v f := by
    obtain ⟨V, run, each⟩ := (vector1_gives hv hc (ready_unary hr) is).quiet
    exact ⟨V, run, fun e he => by rw [← (codes e).low]; exact each e he⟩
  have read (r : VR) (e : Nat) : int (elemAt w (rdV s r) e) = intOf w (tySigned ty) (elemAt w (rdV s r) e) := by
    by_cases signed : ty.val = 2 ∨ ty.val = 4
    · rw [show tySigned ty = true by simpa [tySigned] using signed, intOf_ofNat pos]
      exact if_pos signed
    · rw [show tySigned ty = false by simpa [tySigned] using signed, intOf_unsigned (elemAt_lt ..)]
      exact if_neg signed
  refine ⟨fun hr => ⟨?vand, ?vor, ?vxor, fun first last => ?binary⟩, fun hr => ⟨?vmov, fun first last => ?unary⟩⟩
  case vand => exact three (.inr rfl) hr (· &&& ·) rfl fun e => codeOf_self ..
  case vor => exact three (.inr rfl) hr (· ||| ·) rfl fun e => codeOf_self ..
  case vxor => exact three (.inr rfl) hr (· ^^^ ·) rfl fun e => codeOf_self ..
  case vmov => exact one (.inr rfl) hr (fun p => p) rfl fun e => codeOf_self ..
  case binary =>
    refine ⟨three hw hr _ (vadd_int first last d a b m s) fun e => ?vadd, three hw hr _ (vsub_int first last d a b m s) fun e => ?vsub,
      three hw hr _ (vmin_int first last d a b m s) fun e => ?vmin, three hw hr _ (vmax_int first last d a b m s) fun e => ?vmax,
      three hw hr _ (vmul_int first last d a b m s) fun e => ?vmul, three hw hr _ (vshl_int first last d a b m s) fun e => ?vshl,
      three hw hr _ (vshr_int first last d a b m s) fun e => ?vshr, three hw hr _ (vsha_int first last d a b m s) fun e => ?vsha⟩
    case vadd => exact_mod_cast codeOf_mod w (x e + y e)
    case vsub => exact codeOf_sub (elemAt_lt ..)
    case vmin => rw [read, read]; exact codeOf_eMin first last _ _
    case vmax => rw [read, read]; exact codeOf_eMax first last _ _
    case vmul => exact_mod_cast codeOf_mod w (x e * y e)
    case vshl => exact_mod_cast codeOf_mod w (x e * 2 ^ (y e % w))
    case vshr => exact_mod_cast codeOf_self w (x e / 2 ^ (y e % w))
    case vsha =>
      rw [intOf_ofNat pos]
      exact_mod_cast codeOf_wrapInt w (sgn (x e) / (2 ^ (y e % w) : Nat))
  case unary =>
    refine ⟨one hw hr _ (vabs_int first last d a m s) fun e => ?vabs, one hw hr _ (vneg_int first last d a m s) fun e => codeOf_neg (elemAt_lt ..)⟩
    case vabs => simp only [x, read]; exact codeOf_eAbs first last (elemAt_lt ..)

/-! ## Effective and local addresses (R134, R169) -/

/-- The index of loop level l; an inactive level counts as 0. -/
def levelIndex (s : State) (l : Fin 6) : Int := s.ctx.loops[l.val]?.elim 0 (·.index.toInt)

theorem strideSum_eq (s : State) (a : AR) :
    strideSum s a = BitVec.ofInt 64 ((List.finRange 6).map fun l => levelIndex s l * (rdStride s a l).toInt).sum := by
  have from_ (ls : List (Fin 6)) (acc : Word) :
      ls.foldl (fun x l => match s.ctx.loops[l.val]? with
        | some v => x + v.index * (rdStride s a l).signExtend 64
        | none => x) acc = acc + BitVec.ofInt 64 (ls.map fun l => levelIndex s l * (rdStride s a l).toInt).sum := by
    induction ls generalizing acc with
    | nil => simp
    | cons l ls ih =>
      rw [List.foldl_cons, ih, List.map_cons, List.sum_cons, BitVec.ofInt_add, ← BitVec.add_assoc, BitVec.ofInt_mul]
      congr 1
      unfold levelIndex
      cases s.ctx.loops[l.val]? <;> simp [BitVec.signExtend]
  refine (from_ (List.finRange 6) 0).trans ?_
  exact BitVec.zero_add _

theorem ea_eq (s : State) (a : AR) (o : Word) : ea s a o =
    BitVec.ofInt 64 ((rdBase s a).toInt + ((List.finRange 6).map fun l => levelIndex s l * (rdStride s a l).toInt).sum + o.toInt) := by
  rw [ea, strideSum_eq, BitVec.ofInt_add, BitVec.ofInt_add, BitVec.ofInt_toInt, BitVec.ofInt_toInt]

theorem localPlace_own {own x : Nat} (h : x < 0x800000) : localPlace own x = some (own, x) := if_pos h

theorem localPlace_cluster {own x c p : Nat} (hc : c < 4) (hp : p < 0x800000) (h : x = 0x02000000 + c * 0x800000 + p) :
    localPlace own x = some (own / 4 * 4 + c, p) := by
  have core : (x - 0x02000000) / coreBytes = c := by unfold coreBytes; omega
  have off : (x - 0x02000000) % coreBytes = p := by unfold coreBytes; omega
  rw [localPlace, if_neg (by unfold coreBytes; omega), if_pos (by omega), core, off]

theorem localPlace_outside {own x : Nat} (h : 0x800000 ≤ x) (o : x < 0x02000000 ∨ 0x04000000 ≤ x) : localPlace own x = none := by
  rw [localPlace, if_neg (by unfold coreBytes; omega), if_neg (by omega)]

/-! ## Local accesses that go on (R169–R172, R194, R248, R463) -/

/-- What a local access that passes its checks has at its address. -/
theorem localOk_place {s : State} {n align : Nat} {write : Bool} {a : Word} (h : localOk s n align write a = true) :
    ∃ p, localPlace s.who.coreNo a.toNat = some p ∧ a.toNat % align = 0 ∧ p.2 + n ≤ coreBytes ∧
      ¬ (write = true ∧ (readOnly s p = true ∨ readOnly s (p.1, p.2 + n - 1) = true)) ∧ watched s false write n (clusterLocal p) = none ∧
      heldByTst s p n = false := by
  simp only [localOk, Bool.and_eq_true, beq_iff_eq, Option.any_eq_true, decide_eq_true_eq, Bool.not_eq_true', Option.isNone_iff_eq_none] at h
  obtain ⟨aligned, p, at_, ⟨⟨inside, writable⟩, unwatched⟩, unheld⟩ := h
  refine ⟨p, at_, aligned, inside, fun ⟨w, ro⟩ => ?_, unwatched, unheld⟩
  rcases ro with ro | ro <;> simp [w, ro] at writable

theorem laneFaults_none {s : State} {core : Option Nat} {n align : Nat} {write : Bool} {addrs : List Word}
    (h : ∀ a ∈ addrs, laneFault s core n align write a = none) : laneFaults s core n align write addrs = none := by
  induction addrs with
  | nil => rfl
  | cons a rest ih =>
    rw [laneFaults, h a List.mem_cons_self]
    exact ih fun b m => h b (List.mem_cons_of_mem _ m)

/-- The core that a contiguous access must stay in holds every place of it. -/
theorem laneFault_none {s : State} {core : Option Nat} {n align : Nat} {write : Bool} {a : Word} (ok : localOk s n align write a = true)
    (stays : ∀ k, core = some k → coreAt s a = k) : laneFault s core n align write a = none := by
  obtain ⟨p, at_, aligned, inside, writable, -, -⟩ := localOk_place ok
  have here : ∀ k, core = some k → p.1 = k := fun k e => by rw [← stays k e, coreAt, at_]
  have within : (core.any fun k => decide (k ≠ p.1 ∨ coreBytes < p.2 + n)) = false := by
    cases core with
    | none => rfl
    | some k => simp [here k rfl, inside]
  unfold laneFault
  simp only [at_, within, aligned]
  simp [writable]

theorem coreAt_head {s : State} {addrs : List Word} {c : Nat}
    (h : (addrs.head?.bind fun a => localPlace s.who.coreNo a.toNat).map (·.1) = some c) : coreAt s (addrs.headD 0) = c := by
  cases addrs with
  | nil => cases h
  | cons a rest =>
    obtain ⟨p, at_, rfl⟩ := Option.map_eq_some_iff.1 h
    rw [List.headD_cons, coreAt, show localPlace s.who.coreNo a.toNat = some p from at_]

section Local

variable {s : State} {contig : Bool} {n align : Nat} {write : Bool} {addrs : List Word}

theorem localAccess_ready (h : LocalReady s contig n align write addrs) (k : List (Nat × Nat) → Res) :
    localAccess contig n align write addrs s k = k (addrs.filterMap fun a => localPlace s.who.coreNo a.toNat) := by
  obtain ⟨ok, together, acquired, -⟩ := h
  have ok : ∀ a ∈ addrs, localOk s n align write a = true := List.all_eq_true.1 ok
  have stays : ∀ a ∈ addrs, ∀ c, (if contig then (addrs.head?.bind fun a => localPlace s.who.coreNo a.toNat).map (·.1) else none) = some c →
      coreAt s a = c := by
    intro a m c e
    split at e
    · rename_i whole
      exact (together whole a m).trans (coreAt_head e)
    · cases e
  have faultless := laneFaults_none fun a m => laneFault_none (ok a m) (stays a m)
  have unwatched : ∀ e ∈ ((addrs.filterMap fun a => localPlace s.who.coreNo a.toNat).map clusterLocal).zip (addrs.map BitVec.toNat),
      watched s false write n e.1 = none := by
    intro e m
    obtain ⟨p, mp, hp⟩ := List.mem_map.1 (List.of_mem_zip m).1
    obtain ⟨a, ma, ha⟩ := List.mem_filterMap.1 mp
    obtain ⟨q, at_, -, -, -, free, -⟩ := localOk_place (ok a ma)
    obtain rfl : p = q := Option.some.inj (ha.symm.trans at_)
    rw [← hp, free]
  have unheld : ((addrs.filterMap fun a => localPlace s.who.coreNo a.toNat).any fun p => heldByTst s p n) = false := by
    refine List.any_eq_false.2 fun p mp => ?_
    obtain ⟨a, ma, ha⟩ := List.mem_filterMap.1 mp
    obtain ⟨q, at_, -, -, -, -, free⟩ := localOk_place (ok a ma)
    obtain rfl : p = q := Option.some.inj (ha.symm.trans at_)
    simp [free]
  have met : (((addrs.filterMap fun a => localPlace s.who.coreNo a.toNat).map clusterLocal).zip (addrs.map BitVec.toNat)).findSome?
      (fun a => [write].findSome? fun w => (watched s false w n a.1).map fun i => (i, a.2)) = none :=
    List.findSome?_eq_none_iff.2 fun e m => by simp [unwatched e m]
  unfold localAccess localTouch
  simp only [faultless]
  unfold watchKinds
  rw [met, acquired, unheld]
  simp [awaits]

/-- The scratchpad keys of the places are those of the addresses. -/
theorem keys_eq (ok : ∀ a ∈ addrs, localOk s n align write a = true) :
    (addrs.filterMap fun a => localPlace s.who.coreNo a.toNat).map spmKey = addrs.map (keyAt s) := by
  induction addrs with
  | nil => rfl
  | cons a rest ih =>
    obtain ⟨p, at_, -⟩ := localOk_place (ok a List.mem_cons_self)
    rw [List.filterMap_cons_some (f := fun a : Word => localPlace s.who.coreNo a.toNat) at_, List.map_cons, List.map_cons,
      ih fun b m => ok b (List.mem_cons_of_mem _ m), keyAt, at_]

end Local

/-! ## What a local load leaves (R52, R53, R174–R179, R187) -/

theorem modCtx_own (s : State) (f : Ctx → Ctx) : modCtx s s.who f = { s with ctx := f s.ctx } := by
  simp [modCtx, setCtx]

/-- A register that r is not keeps whether this bundle has written it. -/
theorem written_landWith {r q : RegName} (h : q ≠ r) (v : RegVal) (L : Nat) (d : Bool) (i : Nat) (s : State) :
    written (landWith r v L d i s) q = written s q := by
  apply Bool.eq_iff_iff.2
  simp only [written, List.any_eq_true, landWith_ctx_sc, Bool.and_eq_true, beq_iff_eq]
  constructor
  · rintro ⟨l, m, reg, issued⟩
    rcases landWith_landing m with kept | ⟨x, -, here, rfl⟩ | new
    · exact ⟨l, kept, reg, issued⟩
    · exact absurd (reg.symm.trans here) h
    · exact absurd (reg.symm.trans new.1) h
  · rintro ⟨l, m, reg, issued⟩
    exact ⟨l, landWith_keeps m (reg ▸ h), reg, issued⟩

/-- The landing that a result brings, with its readiness and its number. -/
theorem landWith_new {r : RegName} (w : r.wired = false) (v : RegVal) (L : Nat) (d : Bool) (i : Nat) (s : State) :
    ∃ l ∈ (landWith r v L d i s).ctx.lands, l.reg = r ∧ l.issued = s.ctx.sc ∧ l.ready = d ∧ l.id = i ∧
      (exposed s r = false → written s r = false → l.due = s.ctx.sc + L ∧ l.spoiled = false) := by
  by_cases alone : exposed s r = false ∧ written s r = false
  · refine ⟨⟨r, v, s.ctx.sc, s.ctx.sc + L, d, false, false, i, []⟩, ?_, rfl, rfl, rfl, rfl, fun _ _ => ⟨rfl, rfl⟩⟩
    rw [landWith_lands w v L d i alone.1 alone.2]
    exact List.mem_append_right _ List.mem_cons_self
  · unfold landWith
    rw [w, if_neg Bool.false_ne_true]
    exact ⟨_, List.mem_append_right _ List.mem_cons_self, rfl, rfl, rfl, rfl, fun e x => absurd ⟨e, x⟩ alone⟩

/-- Nothing but the landings, the clocks of what has been read, the count of accesses and the frame's note of a second write differs. -/
def OnlyLoads (s t : State) : Prop :=
  t = { s with serial := t.serial, frame := { s.frame with dup := t.frame.dup }
               ctx := { s.ctx with lands := t.ctx.lands, clock := t.ctx.clock, readClock := t.ctx.readClock } }

/-- The state with other clocks of what its context has acquired and read. -/
def reclocked (ck : List (Nat × Nat)) (rk : Tbl (List (Nat × Nat))) (s : State) : State :=
  { s with ctx := { s.ctx with clock := ck, readClock := rk } }

theorem OnlyLoads.reclocked {s t : State} (h : OnlyLoads s t) (a b : List (Nat × Nat)) (x y : Tbl (List (Nat × Nat))) :
    OnlyLoads (reclocked a x s) (reclocked b y t) := by
  unfold OnlyLoads at *
  rw [h]
  rfl

theorem OnlyLoads.trans {s t u : State} (h : OnlyLoads s t) (g : OnlyLoads t u) : OnlyLoads s u := by
  unfold OnlyLoads at *
  rw [g, h]

theorem landWith_onlyLoads (r : RegName) (v : RegVal) (L : Nat) (d : Bool) (i : Nat) (s : State) : OnlyLoads s (landWith r v L d i s) := by
  unfold OnlyLoads landWith
  split <;> rfl

/-- The clock of context c after an acquire of n bytes at a key of committed memory or of a scratchpad. -/
def acquiredClock (c : CtxId) (scope key n : Nat) (s : State) : List (Nat × Nat) :=
  let k := releaseClock c scope (releasesOn s 0 key n)
  if k.isEmpty then s.ctx.clock else clockJoin s.ctx.clock k

theorem acquireWord_own (scope key n : Nat) (s : State) :
    acquireWord s.who scope key n s = reclocked (acquiredClock s.who scope key n s) s.ctx.readClock s := by
  unfold acquireWord acquireFrom acquiredClock
  dsimp only
  split
  · rfl
  · exact modCtx_own ..

theorem noteRead_own (key n : Nat) (s : State) : ∃ rk, noteRead s.who key n s = reclocked s.ctx.clock rk s := by
  unfold noteRead noteReleases
  dsimp only
  split
  · exact ⟨_, rfl⟩
  · exact ⟨_, modCtx_own ..⟩

/-- The order that the words of a load carry is kept in the context's clocks alone. -/
theorem localOrder_own (acq : Option Nat) (n : Nat) (keys : List Nat) (s : State) :
    ∃ ck rk, localOrder s.who acq n keys s = reclocked ck rk s := by
  unfold localOrder
  induction keys generalizing s with
  | nil => exact ⟨_, _, rfl⟩
  | cons k keys ih =>
    rw [List.foldl_cons]
    cases acq with
    | none =>
      obtain ⟨rk, noted⟩ := noteRead_own (localWord k) n s
      dsimp only
      rw [noted]
      exact ih (reclocked s.ctx.clock rk s)
    | some scope =>
      dsimp only
      rw [acquireWord_own]
      exact ih (reclocked (acquiredClock s.who scope (localWord k) n s) s.ctx.readClock s)

/-- An acquire finds on its words the same releases while only loads are made. -/
theorem acquiredClock_congr {s t : State} (h : OnlyLoads s t) (same : t.ctx.clock = s.ctx.clock) (scope key n : Nat) :
    acquiredClock t.who scope key n t = acquiredClock s.who scope key n s := by
  rw [acquiredClock, acquiredClock, same, h]
  rfl

/-- From s to u a load has brought its result v into d with bound L, and has ordered what it read. -/
structure LoadMade (d : RegName) (v : RegVal) (L : Nat) (s u : State) : Prop where
  only : OnlyLoads s u
  landed : Landed s u d v L
  others : LandsBut [d] s u
  exposed : ∀ q, q ≠ d → exposed u q = exposed s q
  written : ∀ q, q ≠ d → written u q = written s q

/-- A result from the core's own scratchpad. -/
theorem land_loadMade {s u : State} (h : ∃ ck rk, u = reclocked ck rk s) (d : RegName) (v : RegVal)
    (L : Nat) : LoadMade d v L s (land d v L u) := by
  obtain ⟨ck, rk, rfl⟩ := h
  refine ⟨?_, land_landed .., fun l m o _ => land_landsOnly d v L (reclocked ck rk s) l m o,
    fun q n => exposed_landWith n .., fun q n => written_landWith n ..⟩
  exact OnlyLoads.trans (t := (reclocked ck rk s)) rfl (landWith_onlyLoads ..)

/-- A landing that waits for the value of access id (R53) has it. -/
def filled (id : Nat) (v : RegVal) (l : Landing) : Landing := if l.id = id ∧ ¬ l.ready then { l with val := v } else l

theorem filled_bound (id : Nat) (v : RegVal) (l : Landing) :
    (filled id v l).reg = l.reg ∧ (filled id v l).issued = l.issued ∧ (filled id v l).due = l.due ∧ (filled id v l).spoiled = l.spoiled ∧
      (filled id v l).id = l.id := by
  unfold filled
  split <;> exact ⟨rfl, rfl, rfl, rfl, rfl⟩

/-- Only a landing of access id gets a value. -/
theorem filled_other {id : Nat} {l : Landing} (h : l.id ≠ id) (v : RegVal) : filled id v l = l := if_neg fun e => h e.1

/-- A state whose waiting landings of access id have their value. -/
def withFilled (id : Nat) (v : RegVal) (s : State) : State := { s with ctx := { s.ctx with lands := s.ctx.lands.map (filled id v) } }

theorem fillLanding_own (id : Nat) (v : RegVal) (s : State) : fillLanding s.who id v s = withFilled id v s := modCtx_own ..

theorem exposed_withFilled (id : Nat) (v : RegVal) (s : State) (q : RegName) : exposed (withFilled id v s) q = exposed s q := by
  simp [exposed, withFilled, List.any_map, Function.comp_def, filled_bound]

theorem written_withFilled (id : Nat) (v : RegVal) (s : State) (q : RegName) : written (withFilled id v s) q = written s q := by
  simp [written, withFilled, List.any_map, Function.comp_def, filled_bound]

/-- The state in which access `fresh s` has been numbered and its result in d waits for a value (R53). -/
def awaiting (d : RegName) (b : RegVal) (L : Nat) (s : State) : State := landWith d b L false (fresh s) (bump s)

/-- A result from another core's scratchpad. -/
theorem withFilled_loadMade {d : RegName} {b : RegVal} {L : Nat} {s u : State}
    (h : ∃ ck rk, u = reclocked ck rk (awaiting d b L s)) (v : RegVal) :
    LoadMade d v L s (withFilled (fresh s) v u) := by
  obtain ⟨ck, rk, rfl⟩ := h
  refine ⟨?only, ?landed, fun l m o other => ?others, fun q n => (exposed_withFilled ..).trans ?exposed,
    fun q n => (written_withFilled ..).trans ?written⟩
  case only => exact (OnlyLoads.trans (t := bump s) rfl (landWith_onlyLoads d b L false (fresh s) (bump s))).trans rfl
  case landed =>
    cases wired : d.wired
    · obtain ⟨l, m, reg, issued, waits, id, bound⟩ := landWith_new wired b L false (fresh s) (bump s)
      have set : filled (fresh s) v l = { l with val := v } := if_pos ⟨id, by simp [waits]⟩
      exact .inr ⟨_, List.mem_map_of_mem m, by rw [set]; exact ⟨reg, rfl, issued, bound⟩⟩
    · exact .inl wired
  case others =>
    obtain ⟨q, mq, rfl⟩ := List.mem_map.1 m
    obtain ⟨reg, -, -, -, id⟩ := filled_bound (fresh s) v q
    rw [filled_other (fun e => other (id.trans e))]
    have elsewhere : q.reg ≠ d := fun e => o (List.mem_singleton.2 (reg.trans e))
    rcases landWith_landing mq with kept | ⟨p, -, here, rfl⟩ | ⟨here, -⟩
    · exact kept
    · exact absurd here elsewhere
    · exact absurd here elsewhere
  case exposed => exact exposed_landWith n b L false (fresh s) (bump s)
  case written => exact written_landWith n b L false (fresh s) (bump s)

/-- The bytes that a load of n bytes at each key reads. -/
def bytesAt (s : State) (n : Nat) (keys : List Nat) : List Byte := keys.flatMap fun k => spmRead s k n

theorem loadedVal_plain {sh : LoadShape} (h : sh ≠ .wit) (d : RegName) (bs : List Byte) (s : State) : loadedVal d sh bs s = shapeVal sh bs :=
  if_neg fun e => h e.1

theorem imageFault_plain {sh : LoadShape} (h : sh ≠ .wit) (c : CtxId) (bs : List Byte) (addr issued : Nat) (s : State) :
    imageFault c sh bs addr issued s = s := if_neg fun e => h e.1

/-- The clock of the running context after a load that has ordered the words of keys, and acquired them if it is an LDAQ (R187). -/
def clockAfter (acq : Option Nat) (n : Nat) (keys : List Nat) (s : State) : List (Nat × Nat) := (localOrder s.who acq n keys s).ctx.clock

theorem localOrder_clock_congr {s t : State} (h : OnlyLoads s t) (same : t.ctx.clock = s.ctx.clock) (acq : Option Nat) (n : Nat) (keys : List Nat) :
    clockAfter acq n keys t = clockAfter acq n keys s := by
  unfold clockAfter localOrder
  induction keys generalizing s t with
  | nil => exact same
  | cons k keys ih =>
    rw [List.foldl_cons, List.foldl_cons]
    cases acq with
    | none =>
      obtain ⟨x, noted⟩ := noteRead_own (localWord k) n s
      obtain ⟨y, noted'⟩ := noteRead_own (localWord k) n t
      dsimp only
      rw [noted, noted']
      exact ih (h.reclocked s.ctx.clock t.ctx.clock x y) same
    | some scope =>
      dsimp only
      rw [acquireWord_own, acquireWord_own]
      exact ih (h.reclocked _ _ _ _) (acquiredClock_congr h same scope (localWord k) n)

/-- A local load that comes late and meets no poison (R53, R179). -/
theorem performLocal_clean {sh : LoadShape} (plain : sh ≠ .wit) {keys : List Nat} {t : State}
    (clean : ∀ k ∈ keys, spmPoisoned t k sh.size = false) (id : Nat) (d : RegName) (acq : Option Nat) (bundle : Word) :
    performLocal t.who id d sh keys acq bundle t =
      withFilled id (shapeVal sh (bytesAt t sh.size keys)) (localOrder t.who acq sh.size keys t) := by
  obtain ⟨ck, rk, order⟩ := localOrder_own acq sh.size keys t
  have unpoisoned : (keys.find? fun k => spmPoisoned (reclocked ck rk t) k sh.size) = none :=
    List.find?_eq_none.2 fun k m => by rw [show spmPoisoned (reclocked ck rk t) k sh.size = false from clean k m]; exact Bool.false_ne_true
  unfold performLocal
  dsimp only
  rw [order, unpoisoned, loadedVal_plain plain]
  exact fillLanding_own id _ (reclocked ck rk t)

section Load

variable {s : State} {sh : LoadShape} {align : Nat} {contig : Bool} {addrs : List Word} (ready : LocalReady s contig sh.size align false addrs)
  (clean : ∀ a ∈ addrs, spmPoisoned s (keyAt s a) sh.size = false) (plain : sh ≠ .wit)
include ready clean plain

/-- A local load whose access goes on and meets no poison is made (R174–R179, R194). -/
theorem loadLocal_made (d : RegName) (L : Nat) (acq : Option Nat) (k : State → Res) :
    ∃ u, loadLocal d sh L align contig addrs acq s k = k u ∧ LoadMade d (shapeVal sh (bytesAt s sh.size (addrs.map (keyAt s)))) L s u ∧
      u.ctx.clock = clockAfter acq sh.size (addrs.map (keyAt s)) s := by
  obtain ⟨ok, -, -, free⟩ := id ready
  unfold loadLocal
  rw [localAccess_ready ready]
  dsimp only
  rw [keys_eq (List.all_eq_true.1 ok), free, if_neg Bool.false_ne_true, loadedVal_plain plain, imageFault_plain plain]
  split
  case isTrue near =>
    obtain ⟨ck, rk, order⟩ := localOrder_own acq sh.size (addrs.map (keyAt s)) s
    refine ⟨_, rfl, land_loadMade ⟨ck, rk, order⟩ .., ?_⟩
    rw [land_ctx_clock]
    rfl
  case isFalse far =>
    have only : OnlyLoads s (awaiting d (blankVal d) L s) := OnlyLoads.trans (t := bump s) rfl (landWith_onlyLoads ..)
    have who : (awaiting d (blankVal d) L s).who = s.who := by rw [only]
    have spm : (awaiting d (blankVal d) L s).spm = s.spm := by rw [only]
    have poison : (awaiting d (blankVal d) L s).spmPoison = s.spmPoison := by rw [only]
    have clock : (awaiting d (blankVal d) L s).ctx.clock = s.ctx.clock := by simp [awaiting]
    have still : ∀ k ∈ addrs.map (keyAt s), spmPoisoned (awaiting d (blankVal d) L s) k sh.size = false := by
      intro k m
      obtain ⟨a, ma, rfl⟩ := List.mem_map.1 m
      rw [spmPoisoned, poison]
      exact clean a ma
    have bytes : bytesAt (awaiting d (blankVal d) L s) sh.size (addrs.map (keyAt s)) = bytesAt s sh.size (addrs.map (keyAt s)) := by
      simp only [bytesAt, spmRead, spm]
    have made := performLocal_clean plain still (fresh s) d acq s.frame.base
    rw [who, bytes] at made
    rw [imageFault_plain plain]
    refine ⟨_, congrArg k made, ?_, ?_⟩
    · obtain ⟨ck, rk, order⟩ := localOrder_own acq sh.size (addrs.map (keyAt s)) (awaiting d (blankVal d) L s)
      rw [who] at order
      exact withFilled_loadMade ⟨ck, rk, order⟩ _
    · have same := localOrder_clock_congr only clock acq sh.size (addrs.map (keyAt s))
      rw [clockAfter, who] at same
      exact same

end Load

/-! ## Scalar loads of the scratchpad (R174, R187) -/

section Made

variable {d : RegName} {v : RegVal} {L : Nat} {s u : State} (h : LoadMade d v L s u)
include h

theorem LoadMade.rdBase {a : AR} (other : .a a ≠ d) : rdBase u a = rdBase s a := by
  have free : freeAt u (.a a) 0 = freeAt s (.a a) 0 := by rw [h.only]; rfl
  have regs : u.ctx.a = s.ctx.a := by rw [h.only]
  rw [Machine.rdBase, h.exposed _ other, free, regs]
  rfl

/-- What a load leaves when it has stepped its base, if its form asks for that (R104, R134). -/
theorem LoadMade.postInc {a : AR} (other : .a a ≠ d) (post : Bool) (n : Nat) :
    Landed s (postInc post a n u) d v L ∧ Stepped s (postInc post a n u) post a n ∧ (postInc post a n u).spm = s.spm ∧
      MemOpLeaves (d :: postReg post a) s (postInc post a n u) ∧ (postInc post a n u).ctx.clock = u.ctx.clock := by
  have leaves {t : State} (only : OnlyLoads s t) :
      t.who = s.who ∧ SameFiles s t ∧ SameSpecials s t ∧ t.mem = s.mem ∧ t.rom = s.rom ∧ t.spm = s.spm := by
    rw [only]
    simp [SameFiles, SameSpecials]
  cases post with
  | false =>
    obtain ⟨who, files, specials, mem, rom, spm⟩ := leaves h.only
    exact ⟨h.landed, nofun, spm, ⟨who, files, specials, h.others, mem, rom⟩, rfl⟩
  | true =>
    have base := h.rdBase other
    have sc : u.ctx.sc = s.ctx.sc := by rw [h.only]
    rw [show Machine.postInc true a n u = land (.a a) (.base (Machine.rdBase s a + BitVec.ofNat 64 n)) 1 u by rw [← base]; rfl]
    have step := land_landed (.a a) (.base (Machine.rdBase s a + BitVec.ofNat 64 n)) 1 u
    obtain ⟨who, files, specials, mem, rom, spm⟩ := leaves (h.only.trans (landWith_onlyLoads _ _ 1 true 0 u))
    refine ⟨h.landed.imp id ?landed, fun _ => ?stepped, spm, ⟨who, files, specials, ?others, mem, rom⟩, land_ctx_clock ..⟩
    case landed =>
      rintro ⟨l, m, reg, rest⟩
      exact ⟨l, landWith_keeps m (reg ▸ other.symm), reg, rest⟩
    case stepped =>
      rw [Landed, h.exposed _ other, h.written _ other, sc] at step
      exact step
    case others =>
      intro l m o fresh
      have mine : l ∈ u.ctx.lands := land_landsOnly (.a a) _ 1 u l m fun e => o (List.mem_cons_of_mem _ e)
      exact h.others l mine (fun e => o (List.mem_cons.2 (.inl (List.mem_singleton.1 e)))) fresh

end Made

theorem natOf_lt (bs : List Byte) : natOf bs < 2 ^ (8 * bs.length) := by
  induction bs with
  | nil => decide
  | cons b bs ih =>
    have low : b.toNat < 256 := b.isLt
    rw [natOf, List.length_cons, Nat.mul_succ, pow_add]
    omega

theorem readNat_lt (m : Memory) (a n : Nat) : m.readNat a n < 2 ^ (8 * n) := by
  have h := natOf_lt (m.readBytes a n)
  rwa [readBytes_length] at h

/-- A number of n bytes, sign-extended to a word. -/
theorem signExt_eq {n x : Nat} (pos : 0 < n) (small : n ≤ 8) (hx : x < 2 ^ (8 * n)) :
    signExt n (BitVec.ofNat 64 x) = BitVec.ofInt 64 (BitVec.ofNat (8 * n) x).toInt := by
  change _ = (BitVec.ofNat (8 * n) x).signExtend 64
  have above {i : Nat} (h : 8 * n ≤ i) : x.testBit i = false := Nat.testBit_lt_two_pow (hx.trans_le (Nat.pow_le_pow_right (by decide) h))
  apply BitVec.eq_of_getLsbD_eq
  intro i hi
  have sign : getBit (BitVec.ofNat 64 x) (8 * n - 1) = x.testBit (8 * n - 1) := by
    rw [getBit, BitVec.getLsbD_ofNat]
    simp; omega
  have last : 8 * n - 1 < 8 * n := by omega
  rw [signExt, sign, BitVec.getLsbD_signExtend, BitVec.msb_eq_getLsbD_last, BitVec.getLsbD_ofNat, BitVec.getLsbD_ofNat]
  by_cases low : i < 8 * n
  · cases x.testBit (8 * n - 1) <;> simp [hi, low, BitVec.getLsbD_ofNat, -BitVec.getLsbD_eq_getElem, Nat.testBit_two_pow_sub_one]
  · cases x.testBit (8 * n - 1) <;> simp [hi, low, last, above (not_lt.1 low), BitVec.getLsbD_ofNat, -BitVec.getLsbD_eq_getElem, Nat.testBit_two_pow_sub_one]

/-- The word that a scalar load of n bytes makes of their number (R174). -/
def scalarWord (n : Nat) (signed : Bool) (x : Nat) : Word := if signed then BitVec.ofInt 64 (BitVec.ofNat (8 * n) x).toInt else BitVec.ofNat 64 x

theorem scalarWord_full : scalarWord 8 true = fun x => BitVec.ofNat 64 x := funext fun _ => BitVec.ofInt_toInt

theorem shapeVal_scalar {n : Nat} (pos : 0 < n) (small : n ≤ 8) (signed : Bool) (s : State) (k : Nat) :
    shapeVal (.scalar n signed) (bytesAt s n [k]) = .word (scalarWord n signed (s.spm.readNat k n)) := by
  rw [bytesAt, List.flatMap_singleton, scalarWord, ← signExt_eq pos small (readNat_lt s.spm k n)]
  rfl

section ScalarLoad

variable {s : State} {d : SR} {a : AR} (user : s.who.isSys = false) {n : Nat} (pos : 0 < n) (small : n ≤ 8) (signed : Bool)
include user pos small

theorem loadScalar_ready {post : Bool} (hr : Ready [.a a] (.s d :: postReg post a) s) (off : BitVec 12)
    (go : LocalReady s false n n false [ea s a (offset off n)]) (clean : spmPoisoned s (keyAt s (ea s a (offset off n))) n = false) :
    ∃ t, loadScalar n signed d a post off s = .next t ∧
      Landed s t (.s d) (.word (scalarWord n signed (s.spm.readNat (keyAt s (ea s a (offset off n))) n))) 4 ∧ Stepped s t post a n ∧
      t.spm = s.spm ∧ MemOpLeaves (.s d :: postReg post a) s t := by
  have clean : ∀ x ∈ [ea s a (offset off n)], spmPoisoned s (keyAt s x) n = false := List.forall_mem_singleton.2 clean
  obtain ⟨u, run, made, -⟩ := loadLocal_made (sh := .scalar n signed) go clean nofun (.s d) 4 none fun s => .next (postInc post a n s)
  have value := shapeVal_scalar pos small signed s (keyAt s (ea s a (offset off n)))
  rw [LoadShape.size, List.map_singleton, value] at made
  obtain ⟨landed, stepped, spm, leaves, -⟩ := made.postInc (a := a) nofun post n
  refine ⟨_, ?_, landed, stepped, spm, leaves⟩
  rw [loadScalar, guardRegs_ready hr, loadNear, user, if_neg Bool.false_ne_true, run]

/-- An LDAQ of scope below DIE reads a scratchpad and acquires (R187). -/
theorem execLdaq_local {size scope : Fin 8} (shape : sizeShape size = some (.scalar n signed)) (wide : 4 ≤ size.val) (near : scope.val < 3)
    (hr : Ready [.a a] [.s d] s) (go : LocalReady s false n n false [ea s a 0]) (clean : spmPoisoned s (keyAt s (ea s a 0)) n = false) :
    ∃ t, execLdaq d a size scope s = .next t ∧ Landed s t (.s d) (.word (scalarWord n signed (s.spm.readNat (keyAt s (ea s a 0)) n))) 4 ∧
      t.ctx.clock = (acquireWord s.who scope.val (localWord (keyAt s (ea s a 0))) n s).ctx.clock ∧ t.spm = s.spm ∧ MemOpLeaves [.s d] s t := by
  have clean : ∀ x ∈ [ea s a 0], spmPoisoned s (keyAt s x) n = false := List.forall_mem_singleton.2 clean
  obtain ⟨u, run, made, clock⟩ := loadLocal_made (sh := .scalar n signed) go clean nofun (.s d) 4 (some scope.val) fun s => .next s
  have value := shapeVal_scalar pos small signed s (keyAt s (ea s a 0))
  rw [LoadShape.size, List.map_singleton, value] at made
  obtain ⟨landed, -, spm, leaves, -⟩ := made.postInc (a := a) nofun false n
  refine ⟨u, ?_, landed, clock, spm, leaves⟩
  unfold execLdaq
  rw [shape]
  dsimp only
  rw [if_neg (by omega), guardRegs_ready hr]
  rw [if_neg (by simp [user]; omega)]
  exact run

end ScalarLoad

/-- Settles O11: (a) by `ea_eq` and the places of `localPlace`, (b) and (c) by what a local load leaves once its access goes on
(`loadLocal_made`, `LoadMade.postInc`). -/
theorem addressesAndScalarLoads : Obligations.AddressesAndScalarLoads := by
  refine ⟨?addresses, ?loads, ?acquires⟩
  case addresses =>
    intro s a o x index
    have level : index = levelIndex s := by
      funext l
      dsimp only [index, levelIndex]
      cases s.ctx.loops[l.val]? <;> rfl
    rw [level]
    exact ⟨ea_eq s a o, fun own => ⟨localPlace_own, fun c p hc hp => localPlace_cluster hc hp, localPlace_outside⟩⟩
  case loads =>
    intro s d a post off user hr loads
    have load (n : Nat) (pos : 0 < n) (small : n ≤ 8) (signed : Bool) {i : Instr} {v : Nat → Word} (is : exec i s = loadScalar n signed d a post off s)
        (word : scalarWord n signed = v) : loads n i v := by
      subst word
      dsimp only [loads]
      intro go clean
      rw [is]
      exact loadScalar_ready user pos small signed hr off go clean
    exact ⟨load 1 (by decide) (by decide) true rfl rfl, load 1 (by decide) (by decide) false rfl rfl, load 2 (by decide) (by decide) true rfl rfl,
      load 2 (by decide) (by decide) false rfl rfl, load 4 (by decide) (by decide) true rfl rfl, load 4 (by decide) (by decide) false rfl rfl,
      load 8 (by decide) (by decide) true rfl scalarWord_full⟩
  case acquires =>
    intro s d a size scope user hr near e m code addr k x go clean
    have shape : sizeShape size = some (.scalar e.2.1 e.2.2) ∧ 4 ≤ size.val ∧ 0 < e.2.1 ∧ e.2.1 ≤ 8 := by
      simp only [List.mem_cons, List.not_mem_nil, or_false] at m
      rcases m with rfl | rfl | rfl
      · obtain rfl : size = 4 := Fin.ext code
        decide
      · obtain rfl : size = 5 := Fin.ext code
        decide
      · obtain rfl : size = 6 := Fin.ext code
        decide
    obtain ⟨shape, wide, pos, small⟩ := shape
    exact execLdaq_local user pos small e.2.2 shape wide near hr go clean

end Sys2Proof.Machine

namespace Sys2Proof.Machine

/-! ## Transfers and Slalom loops (R142–R155) -/

/-- A displacement of whole parcels, in integers. -/
theorem jumpTarget_eq (s : State) (off : BitVec 26) : jumpTarget s off = BitVec.ofInt 64 (s.frame.base.toInt + 4 * off.toInt) := by
  rw [BitVec.ofInt_add, BitVec.ofInt_mul, BitVec.ofInt_toInt, BitVec.mul_comm]
  rfl

/-- The address of E that LOOP names, in natural numbers (R149). -/
theorem loopEnd_eq (base : Word) (endOff : BitVec 19) :
    base + endOff.zeroExtend 64 * 4 = BitVec.ofNat 64 (base.toNat + 4 * endOff.toNat) := by
  rw [BitVec.ofNat_add, BitVec.ofNat_mul, BitVec.ofNat_toNat, BitVec.ofNat_toNat, BitVec.setWidth_eq, BitVec.mul_comm]
  rfl

/-! ### Branch trees -/

/-- A valid test of a branch tree whose predicate, as slot 7 reads it, takes the leaf (R144). -/
def TestHolds (s : State) (t : BTest) : Prop := t.v = true ∧ rdP { s with frame := { s.frame with slot := 7 } } t.p ≠ t.n

/-- The tree goes to the leaf of its first test that holds. -/
theorem leafOf_first {s : State} {ts : List BTest} {i : Nat} {t : BTest} (at_ : ts[i]? = some t) (holds : TestHolds s t)
    (first : ∀ j t', j < i → ts[j]? = some t' → ¬ TestHolds s t') : leafOf s ts = i := by
  obtain ⟨bound, rfl⟩ := List.getElem?_eq_some_iff.1 at_
  have found : ts.findIdx? (fun t => t.v && (rdP { s with frame := { s.frame with slot := 7 } } t.p != t.n)) = some i := by
    refine List.findIdx?_eq_some_iff_getElem.2 ⟨bound, by simpa [TestHolds] using holds, fun j before => ?_⟩
    simpa [TestHolds] using first j _ before (List.getElem?_eq_getElem (by omega))
  simp [leafOf, found]

/-- A tree without a test that holds has no leaf. -/
theorem leafOf_none {s : State} {ts : List BTest} (fail : ∀ t ∈ ts, ¬ TestHolds s t) : leafOf s ts = 4 := by
  have found : ts.findIdx? (fun t => t.v && (rdP { s with frame := { s.frame with slot := 7 } } t.p != t.n)) = none :=
    List.findIdx?_eq_none_iff.2 fun t m => by simpa [TestHolds] using fail t m
  simp [leafOf, found]

section Btree

variable {s : State} {t0 t1 t2 t3 : BTest} (hr : Ready (([t0, t1, t2, t3].filter (·.v)).flatMap fun t => [.p t.p, .b t.leaf]) [] s)
include hr

theorem execBtree_first {i : Nat} {t : BTest} (at_ : [t0, t1, t2, t3][i]? = some t) (holds : TestHolds s t)
    (first : ∀ j t', j < i → [t0, t1, t2, t3][j]? = some t' → ¬ TestHolds s t') :
    execBtree t0 t1 t2 t3 s = .next (transferTo (rdB s t.leaf) s) := by
  refine (guardRegs_ready hr _).trans ?_
  rw [leafOf_first at_ holds first, at_]

theorem execBtree_none (fail : ∀ t ∈ [t0, t1, t2, t3], ¬ TestHolds s t) : execBtree t0 t1 t2 t3 s = .next s := by
  refine (guardRegs_ready hr _).trans ?_
  rw [leafOf_none fail]
  rfl

end Btree

/-! ### The bundle after E -/

/-- In t the context on the port differs from that of s at most in its buffered lines, and its bundle not at all. -/
structure Fetched (s t : State) : Prop where
  ctx : t.ctx = { s.ctx with ibuf := t.ctx.ibuf }
  frame : t.frame = s.frame

theorem fetchLine_fetched (line : Nat) (s : State) : Fetched s (fetchLine line s).1 := by
  have read : Fetched s (readLine s.who line s).1 := ⟨by rw [(readLine_keeps ..).ctx], (readLine_keepsFrame ..).1⟩
  unfold fetchLine
  split
  · exact ⟨rfl, rfl⟩
  · split
    · rename_i e
      rw [e] at read
      dsimp only
      split
      · exact ⟨by rw [read.ctx], read.frame⟩
      · exact read
    · exact read

/-- Looking for the bundle after E fetches the line of E and changes nothing more. -/
theorem successorAt_state (e : Word) (s : State) : (successorAt e s).1 = (fetchLine (lineAddr e) s).1 := by
  unfold successorAt
  split <;> rename_i fetch <;> rw [fetch]
  split
  · rfl
  · split <;> rfl

theorem successorAt_fetched (e : Word) (s : State) : Fetched s (successorAt e s).1 := by
  rw [successorAt_state]
  exact fetchLine_fetched ..

theorem successorAt_loops (e : Word) (s : State) : (successorAt e s).1.ctx.loops = s.ctx.loops := by rw [(successorAt_fetched e s).ctx]

theorem successorAt_transfer (e : Word) (s : State) : (successorAt e s).1.frame.transfer = s.frame.transfer := by
  rw [(successorAt_fetched e s).frame]

theorem successorAt_lands (e : Word) (s : State) : (successorAt e s).1.ctx.lands = s.ctx.lands := by rw [(successorAt_fetched e s).ctx]

/-! ### LOOP and LBRK -/

section Loop

variable {s : State} {x : SR} {endOff : BitVec 19}

theorem execLoop_refused (h : 6 ≤ s.ctx.loops.length ∨ atLoopEnd s = true) : execLoop x endOff s = trapAt 7 0x01 s.frame.parcel s := if_pos h

variable (room : s.ctx.loops.length < 6) (inside : atLoopEnd s = false) (hr : Ready [.s x] [] s)
include room inside hr

theorem execLoop_pushes (count : rdS s x ≠ 0) : execLoop x endOff s = .next { s with ctx := { s.ctx with
    loops := s.ctx.loops ++ [⟨0, rdS s x, s.frame.next, BitVec.ofNat 64 (s.frame.base.toNat + 4 * endOff.toNat)⟩] } } := by
  rw [execLoop, if_neg (by simp [inside, room]), guardRegs_ready hr, ← loopEnd_eq]
  exact if_neg count

/-- A LOOP with count 0 goes on after the bundle at E, without a transfer. -/
theorem execLoop_skips (count : rdS s x = 0) : ∃ t, execLoop x endOff s = .next t ∧ t.ctx.loops = s.ctx.loops ∧ t.ctx.lands = s.ctx.lands ∧
    t.frame.next = (successorAt (BitVec.ofNat 64 (s.frame.base.toNat + 4 * endOff.toNat)) s).2 ∧ t.frame.transfer = s.frame.transfer := by
  rw [execLoop, if_neg (by simp [inside, room]), guardRegs_ready hr, ← loopEnd_eq]
  exact ⟨_, if_pos count, successorAt_loops .., successorAt_lands .., rfl, successorAt_transfer ..⟩

end Loop

section Lbrk

variable {s : State} {level : Fin 8} {n : Bool} {p : PR}

theorem execLbrk_reserved (h : 6 ≤ level.val) : execLbrk level n p s = trapAt 4 0x02 s.frame.parcel s := if_pos h

variable (known : level.val < 6)
include known

theorem execLbrk_inactive (inactive : s.ctx.loops[level.val]? = none) : execLbrk level n p s = trapAt 7 0x01 s.frame.parcel s := by
  rw [execLbrk, if_neg (by omega), inactive]
  rfl

variable {l : LoopLevel} (active : s.ctx.loops[level.val]? = some l) (hr : Ready [.p p] [] s)
include active hr

theorem execLbrk_stays (h : rdP s p = n) : execLbrk level n p s = .next s := by
  rw [execLbrk, if_neg (by omega), active]
  exact (guardRegs_ready hr _).trans (if_neg (by simp [h]))

/-- An LBRK that is taken ends its level and those inside it, and goes on after the bundle at its E (R155). -/
theorem execLbrk_ends (h : rdP s p ≠ n) : ∃ t, execLbrk level n p s = .next t ∧ t.ctx.loops = s.ctx.loops.take level.val ∧
    t.ctx.lands = s.ctx.lands ∧ t.frame.next = (successorAt l.last s).2 ∧ t.frame.transfer = true := by
  rw [execLbrk, if_neg (by omega), active]
  exact ⟨_, (guardRegs_ready hr _).trans (if_pos (by simp [h])), congrArg (List.take level.val) (successorAt_loops ..), successorAt_lands ..,
    rfl, rfl⟩

end Lbrk

/-! ### The end of an iteration (R150) -/

section Iteration

variable {s : State} {init : List LoopLevel} {l : LoopLevel} (levels : s.ctx.loops = init ++ [l])
include levels

theorem endLoop_repeats (more : l.index.toNat < (l.count - 1).toNat) (fuel : Nat) : endLoop (fuel + 1) s = { s with
    ctx := { s.ctx with loops := init ++ [{ l with index := l.index + 1 }] }
    frame := { s.frame with next := l.first, transfer := true } } := by
  have ult : l.index.ult (l.count - 1) = true := BitVec.ult_iff_lt.2 more
  rw [endLoop, levels, List.getLast?_concat]
  dsimp only
  rw [if_pos ult, List.dropLast_concat]

/-- The last iteration pops the level; where the level outside ends at another bundle the context goes on after E. -/
theorem endLoop_pops (last : (l.count - 1).toNat ≤ l.index.toNat) (alone : ∀ m, init.getLast? = some m → m.last ≠ l.last) (fuel : Nat) :
    (endLoop (fuel + 1) s).ctx.loops = init ∧ (endLoop (fuel + 1) s).frame.next = (successorAt l.last s).2 := by
  have ult : ¬ l.index.ult (l.count - 1) = true := fun h => absurd (BitVec.ult_iff_lt.1 h) (Nat.not_lt.2 last)
  have popped : (successorAt l.last s).1.ctx.loops.dropLast = init := by rw [successorAt_loops, levels, List.dropLast_concat]
  rw [endLoop, levels, List.getLast?_concat]
  dsimp only
  rw [if_neg ult]
  dsimp only [trimBuffer]
  rw [popped]
  split
  · rename_i m outer
    rw [if_neg (alone m outer)]
    exact ⟨rfl, rfl⟩
  · exact ⟨rfl, rfl⟩

end Iteration

/-- Settles O37: (a) by the equations of the transfers and the leaf that `leafOf` finds, (b) by what the search for the bundle after E leaves
(`successorAt_fetched`) and the two ways in which `endLoop` ends an iteration. -/
theorem transfersAndLoops : Obligations.TransfersAndLoops := by
  refine ⟨?transfers, ?loops⟩
  case transfers =>
    intro s t0 t1 t2 t3 off b goes target ts holds
    have at_ : jumpTarget s off = target := jumpTarget_eq s off
    refine ⟨?jmp, fun hr => ?call, fun hr => ⟨?jmpb, ?retb⟩, fun hr => ⟨fun i t => ?leaf, fun fail => ?on⟩⟩
    case jmp => rw [← at_]; rfl
    case call => rw [← at_]; exact (rfl : _ = execCall off s).trans (guardRegs_ready hr _)
    case jmpb => exact (rfl : _ = execJmpb b s).trans (guardRegs_ready hr _)
    case retb => exact (rfl : _ = execRetb b s).trans (guardRegs_ready hr _)
    case leaf => exact execBtree_first hr
    case on => exact execBtree_none hr fail
  case loops =>
    intro s x endOff level n p init l e
    refine ⟨execLoop_refused, fun room inside hr => ⟨execLoop_pushes room inside hr, execLoop_skips room inside hr⟩, execLbrk_reserved,
      execLbrk_inactive, fun known active hr => ⟨execLbrk_stays known active hr, execLbrk_ends known active hr⟩, fun levels untaken => ?iteration⟩
    case iteration =>
      have ends : endIteration true s = endLoop 6 s := if_pos (by simp [untaken])
      rw [ends]
      exact ⟨fun more => endLoop_repeats levels more 5, fun last alone => endLoop_pops levels last alone 5⟩

/-! ## Barriers (R160–R162) -/

/-- The arrival that completes the phase of b: all others have arrived or ended (R161). -/
abbrev Barrier.Last (b : Barrier) : Prop := b.count ≤ b.arrived + 1 + b.gone

/-- The barrier b once one more participant, that has observed k, has arrived. -/
def Barrier.arrive (b : Barrier) (k : List (Nat × Nat)) : Barrier := Barrier.settle { b with arrived := b.arrived + 1, clock := clockJoin b.clock k }

/-- Settling a phase leaves a barrier its number and its count of participants. -/
theorem Barrier.settle_keeps (b : Barrier) : b.settle.id = b.id ∧ b.settle.count = b.count := by
  unfold settle
  split <;> exact ⟨rfl, rfl⟩

theorem Barrier.settle_ends {b : Barrier} (all : b.count ≤ b.arrived + b.gone) : b.settle.phase = b.phase + 1 ∧ b.settle.arrived = 0 := by
  rw [settle, if_pos all]
  exact ⟨rfl, rfl⟩

theorem Barrier.settle_waits {b : Barrier} (few : ¬ b.count ≤ b.arrived + b.gone) : b.settle = b := if_neg few

theorem Barrier.arrive_keeps (b : Barrier) (k : List (Nat × Nat)) : (b.arrive k).id = b.id ∧ (b.arrive k).count = b.count :=
  settle_keeps { b with arrived := b.arrived + 1, clock := clockJoin b.clock k }

theorem Barrier.arrive_last {b : Barrier} (last : b.Last) (k : List (Nat × Nat)) : (b.arrive k).phase = b.phase + 1 ∧ (b.arrive k).arrived = 0 :=
  settle_ends (b := { b with arrived := b.arrived + 1, clock := clockJoin b.clock k }) last

theorem Barrier.arrive_early {b : Barrier} (early : ¬ b.Last) (k : List (Nat × Nat)) :
    (b.arrive k).phase = b.phase ∧ (b.arrive k).arrived = b.arrived + 1 := by
  rw [arrive, settle_waits (b := { b with arrived := b.arrived + 1, clock := clockJoin b.clock k }) early]
  exact ⟨rfl, rfl⟩

theorem barrierOf_id {s : State} {task id : Nat} {b : Barrier} (h : barrierOf s task id = some b) : b.id = id := by
  obtain ⟨t, -, found⟩ := Option.bind_eq_some_iff.1 h
  simpa using List.find?_some found

/-- A barrier is its task's: states with the same tasks have the same barriers. -/
theorem barrierOf_congr {s t : State} (h : t.tasks = s.tasks) (task id : Nat) : barrierOf t task id = barrierOf s task id := by
  simp [barrierOf, taskOf, h]

theorem barrierOf_modBarrier {s : State} {task id : Nat} {b : Barrier} {f : Barrier → Barrier} (h : barrierOf s task id = some b)
    (keeps : ∀ b, (f b).id = b.id) : barrierOf (modBarrier task id f s) task id = some (f b) := by
  obtain ⟨t, listed, found⟩ := Option.bind_eq_some_iff.1 h
  have same : ((fun b : Barrier => decide (b.id = id)) ∘ fun b => if b.id = id then f b else b) = fun b => decide (b.id = id) := by
    funext b
    by_cases e : b.id = id <;> simp [e, keeps]
  rw [barrierOf, modBarrier, taskOf_modTask_self listed (by intro; rfl), Option.bind_some, List.find?_map, same, found, Option.map_some,
    if_pos (barrierOf_id h)]

/-- In t the present phase of b has counted one more arrival than in s, and has ended where that was its last (R161). -/
def Counted (b : Barrier) (task id : Nat) (t : State) : Prop :=
  ∃ b', barrierOf t task id = some b' ∧ b'.count = b.count ∧ (b.Last → b'.phase = b.phase + 1 ∧ b'.arrived = 0) ∧
    (¬ b.Last → b'.phase = b.phase ∧ b'.arrived = b.arrived + 1)

section Barriers

variable {s : State} {id : Nat} {b : Barrier} (hb : barrierOf s s.ctx.task id = some b)
include hb

theorem barrierOf_arriveAt : barrierOf (arriveAt b s) s.ctx.task id = some (b.arrive s.ctx.clock) := by
  obtain rfl := barrierOf_id hb
  exact barrierOf_modBarrier hb fun b => (Barrier.arrive_keeps b s.ctx.clock).1

theorem arriveAt_counted : Counted b s.ctx.task id (arriveAt b s) :=
  ⟨_, barrierOf_arriveAt hb, (Barrier.arrive_keeps ..).2, fun last => Barrier.arrive_last last _, fun early => Barrier.arrive_early early _⟩

theorem phaseDone_eq (p : Nat) : phaseDone s id p = decide (p < b.phase) := by
  rw [phaseDone, hb]

/-- The arrival completes its own phase exactly when it is the last. -/
theorem phaseDone_arriveAt : phaseDone (arriveAt b s) id b.phase = true ↔ b.Last := by
  rw [phaseDone_eq (b := b.arrive s.ctx.clock) (barrierOf_arriveAt hb), decide_eq_true_iff]
  by_cases last : b.Last
  · simp [Barrier.arrive_last last, last]
  · simp [Barrier.arrive_early last, last]

/-- An arrival that is recorded, where none was outstanding at its barrier (R162). -/
theorem outstanding_recorded (free : outstanding s id = none) {t : State} (recorded : t.ctx.bara = s.ctx.bara ++ [(b.id, b.phase)]) :
    outstanding t id = some b.phase := by
  have before : (s.ctx.bara.find? fun e => e.1 = id) = none := Option.map_eq_none_iff.1 free
  simp [outstanding, recorded, before, barrierOf_id hb]

end Barriers

theorem arriveAt_leaves (b : Barrier) (s : State) : SameBytes s (arriveAt b s) ∧ SameFiles s (arriveAt b s) :=
  ⟨fun _ => ⟨rfl, rfl, rfl⟩, rfl, rfl, rfl, rfl, rfl, rfl, rfl⟩

theorem arriveLater_leaves (b : Barrier) (s : State) : SameBytes s (arriveLater b s) ∧ SameFiles s (arriveLater b s) :=
  ⟨fun _ => ⟨rfl, rfl, rfl⟩, rfl, rfl, rfl, rfl, rfl, rfl, rfl⟩

/-- The context's end of a wait: what it has observed, its outstanding record cleared, and the L1G copies that the acquire leaves. -/
theorem endWait_eq (b : Barrier) (p : Nat) (s : State) : ∃ k cs, endWait b p s =
    { s with ctx := { s.ctx with clock := k, bara := s.ctx.bara.filter fun e => e.1 ≠ b.id }, clusters := cs } := by
  unfold endWait acquireAt
  dsimp only
  split
  · exact ⟨_, _, rfl⟩
  · exact ⟨_, _, rfl⟩

theorem outstanding_endWait (b : Barrier) (p : Nat) (s : State) : outstanding (endWait b p s) b.id = none := by
  obtain ⟨k, cs, e⟩ := endWait_eq b p s
  simp [outstanding, e]

theorem endWait_leaves (b : Barrier) (p : Nat) (s : State) : (endWait b p s).tasks = s.tasks ∧ (endWait b p s).frame = s.frame ∧
    SameBytes s (endWait b p s) ∧ SameFiles s (endWait b p s) := by
  obtain ⟨k, cs, e⟩ := endWait_eq b p s
  rw [e]
  exact ⟨rfl, rfl, fun _ => ⟨rfl, rfl, rfl⟩, rfl, rfl, rfl, rfl, rfl, rfl, rfl⟩

section Bar

variable {s : State} {id : Fin 64}

theorem execBar_unknown (h : barrierOf s s.ctx.task id.val = none) : execBar id s = trapAt 8 0x0C s.frame.parcel s := by
  rw [execBar, h]
  rfl

theorem execBara_unknown (h : barrierOf s s.ctx.task id.val = none) : execBara id s = trapAt 8 0x0C s.frame.parcel s := by
  rw [execBara, h]
  rfl

variable {b : Barrier} (hb : barrierOf s s.ctx.task id.val = some b)
include hb

/-- With an arrival outstanding, BAR ends its wait once the phase is over (R161). -/
theorem execBar_outstanding {p : Nat} (out : outstanding s id.val = some p) :
    execBar id s = if phaseDone s id.val p = true then .next (endWait b p s) else stall s := by
  rw [execBar, hb]
  dsimp only
  rw [out]

theorem execBara_outstanding {p : Nat} (out : outstanding s id.val = some p) (going : phaseDone s id.val p = false) : execBara id s = stall s := by
  rw [execBara, hb]
  dsimp only
  rw [out]
  exact if_neg (by simp [going])

variable (free : outstanding s id.val = none)
include free

theorem execBara_ready (ready : arrivalReady s b = true) : execBara id s = .next (arriveAt b s) := by
  rw [execBara, hb]
  dsimp only
  rw [free, if_pos ready]

theorem execBara_unready (unready : arrivalReady s b = false) : execBara id s = .next (arriveLater b s) := by
  rw [execBara, hb]
  dsimp only
  rw [free, if_neg (by simp [unready])]

theorem execBar_unready (unready : arrivalReady s b = false) : execBar id s = stall s := by
  rw [execBar, hb]
  dsimp only
  rw [free]
  exact if_pos (by simp [unready])

/-- An arrival whose release is done counts, and BAR goes on or waits for the phase (R161, R162). -/
theorem execBar_ready (ready : arrivalReady s b = true) : execBar id s =
    if b.Last then .next (endWait b b.phase (arriveAt b s)) else stall (arriveAt b s) := by
  rw [execBar, hb]
  dsimp only
  rw [free]
  dsimp only
  rw [if_neg (by simp [ready]), if_congr (phaseDone_arriveAt hb) rfl rfl]

end Bar

/-! ## CBWAIT (R163, R268) -/

/-- A CBWAIT that can read its word has no service to ask for any more (R163). -/
abbrev unasked (u : State) : State := { u with ctx := { u.ctx with asked := none } }

/-- While no bounce ring holds anything, a word is found at its home as memory or the Sump registers hold it (R415, R422). -/
theorem homeLook_unbounced {v : State} {a : Acc} {va key : Nat} (rings : ∀ q : Fin 8, (stackOf v q).bounce = [])
    (reached : homeOpen v a.who.stack (placeOf v key) = true) (clean : key / 64 ∉ v.poison) (w : Nat) :
    homeLook a va key w v = .ok (natOf ((List.range w).map fun i => homeByte v (key + i))) := by
  simp [homeLook, bounced, ringsEmpty_of rings, reached, clean, Function.comp_def]

/-- The word w satisfies a CBWAIT for the count in x: as many have arrived, or its error bit is set (R163). -/
abbrev CountMet (x : Word) (w : Nat) : Prop := x.toNat % 2 ^ 31 ≤ w % 2 ^ 31 ∨ 2 ^ 31 ≤ w

/-- What a CBWAIT leaves that takes the word w, found at key: an acquire of what the completions there have published (R268). -/
def wordTaken (d : SR) (w key : Nat) (v : State) : State :=
  land (.s d) (.word (BitVec.ofNat 64 w)) 4 (observeWindows (fun w => w.key == some key) (observeKey (arrivalKey key) v))

theorem wordTaken_leaves (d : SR) (w key : Nat) (v : State) :
    Landed v (wordTaken d w key v) (.s d) (.word (BitVec.ofNat 64 w)) 4 ∧ SameBytes v (wordTaken d w key v) := by
  unfold wordTaken
  have seen : Observes v (observeWindows (fun w => w.key == some key) (observeKey (arrivalKey key) v)) :=
    (observeKey_observes ..).trans (observeWindows_observes ..)
  generalize observeWindows (fun w => w.key == some key) (observeKey (arrivalKey key) v) = t at seen ⊢
  have landed := land_landed (.s d) (.word (BitVec.ofNat 64 w)) 4 t
  refine ⟨?_, fun a => by simpa using seen.sameBytes a⟩
  generalize land (.s d) (.word (BitVec.ofNat 64 w)) 4 t = r at landed ⊢
  rw [seen] at landed
  exact landed

section Cbwait

variable {s u : State} {d x : SR} {a : AR} {key w : Nat} {hw : Bool} (hr : Ready [.a a, .s x] [.s d] s) (low : (ea s a 0).toNat < 2 ^ 56)
  (aligned : (ea s a 0).toNat % 8 = 0) (acquired : acquirePending s = false) (performed : atomicsPending s = false)
  (found : translate (accOf s s.who) .read (ea s a 0).toNat s = (u, .ok key hw)) (near : ∀ dev, placeOf u key ≠ .remote dev)
  (look : homeLook (accOf (unasked u) s.who) (ea s a 0).toNat key 4 (unasked u) = .ok w)
include hr low aligned acquired performed found near look

/-- CBWAIT takes the word that its home holds, or waits for another. -/
theorem execCbwait_reads : execCbwait d a x s =
    if CountMet (rdS (unasked u) x) w then .next (wordTaken d w key (unasked u)) else stall (unasked u) := by
  have who : u.who = s.who := by
    have kept := (translate_keeps (accOf s s.who) .read (ea s a 0).toNat s).who
    rwa [found] at kept
  have free : ¬ (acquirePending s || awaits s (atomicsPending s)) = true := by simp [acquired, performed, awaits]
  have place : placeOf (unasked u) key = placeOf u key := placeOf_congr rfl key
  rw [← who] at look
  rw [execCbwait, guardRegs_ready hr]
  dsimp only
  rw [globalCheck_aligned low aligned]
  dsimp only
  rw [if_neg free, found]
  dsimp only
  rw [place]
  split
  · rename_i dev far
    exact absurd far (near dev)
  · rw [look]
    rfl

end Cbwait

/-- Settles O39: an arrival by the barrier that it leaves (`arriveAt_counted`, `phaseDone_arriveAt`), the end of a wait by `endWait_leaves`, CBWAIT by
the word that its home holds (`execCbwait_reads`). -/
theorem barriersAndWaits : Obligations.BarriersAndWaits := by
  intro s id b d x a task
  refine ⟨fun unknown => ⟨execBar_unknown unknown, execBara_unknown unknown⟩, fun hb => ?barrier, ?word⟩
  case barrier =>
    intro last counted
    have named : b.id = id.val := barrierOf_id hb
    have counts : counted (arriveAt b s) := arriveAt_counted hb
    have stays {t : State} (same : t.tasks = (arriveAt b s).tasks) : counted t := by
      obtain ⟨b', known, rest⟩ := counts
      exact ⟨b', (barrierOf_congr same ..).trans known, rest⟩
    have cleared (p : Nat) (t : State) : outstanding (endWait b p t) id.val = none := named ▸ outstanding_endWait b p t
    refine ⟨fun free ready => ⟨?bara, ?bar⟩, fun free unready => ?waits, fun p out => ⟨fun done => ?ends, fun going => ?still⟩⟩
    case bara => exact ⟨_, execBara_ready hb free ready, counts, outstanding_recorded hb free rfl, arriveAt_leaves b s⟩
    case bar =>
      have ran : exec (.bar id) s = _ := execBar_ready hb free ready
      by_cases full : b.Last
      · obtain ⟨tasks, frame, bytes, files⟩ := endWait_leaves b b.phase (arriveAt b s)
        exact ⟨_, ran.trans (if_pos full), stays tasks, bytes, files, fun _ => ⟨congrArg Frame.out frame, cleared ..⟩, fun early => absurd full early⟩
      · obtain ⟨bytes, files⟩ := arriveAt_leaves b s
        exact ⟨_, ran.trans (if_neg full), stays rfl, bytes, files, fun last => absurd last full, fun _ => ⟨rfl, outstanding_recorded hb free rfl⟩⟩
    case waits =>
      refine ⟨execBar_unready hb free unready, _, execBara_unready hb free unready, hb, outstanding_recorded hb free rfl, ?_, arriveLater_leaves b s⟩
      exact List.mem_append_right _ (by simp [named])
    case ends =>
      obtain ⟨-, -, bytes, files⟩ := endWait_leaves b p s
      exact ⟨_, (execBar_outstanding hb out).trans (if_pos done), cleared .., bytes, files⟩
    case still => exact ⟨(execBar_outstanding hb out).trans (if_neg (by simp [going])), execBara_outstanding hb out going⟩
  case word =>
    intro hr low aligned acquired performed u key hw found near v
    refine ⟨fun rings reached clean => homeLook_unbounced (v := v) (a := accOf v s.who) rings reached clean 4, fun w look => ?_⟩
    have reads : exec (.cbwait d a x) s = _ := execCbwait_reads hr low aligned acquired performed found near look
    exact ⟨fun met => ⟨_, reads.trans (if_pos met), wordTaken_leaves ..⟩, fun unmet => reads.trans (if_neg unmet)⟩

end Sys2Proof.Machine

namespace Sys2Proof.Machine

/-! ## Versions and committed memory (R181, R306, R430) -/

/-- Bytes put into a table from a key upward are found there; every other entry is as before. -/
theorem tbl_get_bytes (bs : List Byte) (key : Nat) (v : Tbl Byte) (n k : Nat) :
    Tbl.get? ((List.range n).foldl (fun v i => Tbl.set v (key + i) (bs.getD i 0)) v) k =
      if key ≤ k ∧ k < key + n then some (bs.getD (k - key) 0) else Tbl.get? v k := by
  induction n with
  | zero => rw [if_neg (by omega)]; rfl
  | succ n ih =>
    rw [List.range_succ, List.foldl_concat, tbl_get_set, ih]
    by_cases last : k = key + n
    · rw [if_pos last, if_pos (by omega), last, Nat.add_sub_cancel_left]
    · rw [if_neg last]
      exact if_congr (by omega) rfl rfl

/-- The byte that a task finds at a key past the L1G: its version's, or the committed one. -/
theorem viewByte_home (s : State) (task key : Nat) :
    viewByte s task none key = (Tbl.get? ((taskOf s task).elim [] Task.version) key).getD (homeByte s key) := by
  unfold viewByte
  cases taskOf s task with
  | none => rfl
  | some t =>
    dsimp only [Option.elim]
    cases Tbl.get? t.version key <;> rfl

/-- What a task that stores finds in its version: the bytes stored, and what it held of the rest. -/
theorem version_versionStore {s : State} {a : Acc} {t : Task} (known : taskOf s a.task = some t) (key va : Nat) (bs : List Byte) (k : Nat) :
    Tbl.get? ((taskOf (versionStore a key va bs s) a.task).elim [] Task.version) k =
      if key ≤ k ∧ k < key + bs.length then some (bs.getD (k - key) 0) else Tbl.get? t.version k := by
  rw [versionStore, taskOf_modTask_self known (by exact fun _ => rfl)]
  exact tbl_get_bytes bs key t.version bs.length k

/-- Settles O21: a version by what its store puts into it (`version_versionStore`), committed memory by what is read after a write. -/
theorem versionsAndCommittedMemory : Obligations.VersionsAndCommittedMemory := by
  intro s a t key va bs wf known u c
  refine ⟨rfl, fun i hi => ?own, fun k out => ?rest, fun id k other => ?others, fun i hi => ?stored, fun k out => ?kept⟩
  case own =>
    rw [viewByte_home, version_versionStore known, if_pos (by omega), Nat.add_sub_cancel_left]
    rfl
  case rest =>
    rw [viewByte_home, viewByte_home, version_versionStore known, if_neg (by omega), known]
    rfl
  case others =>
    have same : taskOf u id = taskOf s id := taskOf_modTask_other other fun _ => rfl
    rw [viewByte_home, viewByte_home, same]
    rfl
  case stored =>
    rw [committedStore_mem, read_writeBytes wf, if_pos (by omega), Nat.add_sub_cancel_left]
  case kept =>
    rw [committedStore_mem, read_writeBytes wf, if_neg (by omega)]

/-! ## FENCE and CMO (R191, R192) -/

/-- A context named by the port is the running one. -/
theorem modCtx_running {s : State} {c : CtxId} (h : s.who = c) (f : Ctx → Ctx) : modCtx s c f = { s with ctx := f s.ctx } := by
  rw [← h, modCtx_own]

/-- The state with other clocks of what its context has observed and what its release fences have published. -/
def withClocks (ck : List (Nat × Nat)) (rk : Tbl (List (Nat × Nat))) (s : State) : State :=
  { s with ctx := { s.ctx with clock := ck, relClock := rk } }

/-- What an open FENCE leaves: other clocks of its context, and the cluster's L1G dropped where it acquires at a scope that needs that. -/
def fenced (acq : Bool) (scope : Nat) (ck : List (Nat × Nat)) (rk : Tbl (List (Nat × Nat))) (s : State) : State :=
  withClocks ck rk (if acq then acquireAt s.who scope s else s)

theorem fenced_leaves (acq : Bool) (scope : Nat) (ck : List (Nat × Nat)) (rk : Tbl (List (Nat × Nat))) (s : State) :
    let t := fenced acq scope ck rk s
    t.who = s.who ∧ SameBytes s t ∧ SameFiles s t ∧ SameSpecials s t ∧ t.ctx.lands = s.ctx.lands := by
  unfold fenced withClocks acquireAt
  split
  · split <;> simp [SameBytes, SameFiles, SameSpecials, l1gDropAll, modCluster, setCluster]
  · simp [SameBytes, SameFiles, SameSpecials]

theorem fenced_l1g {scope : Nat} (wide : 3 ≤ scope) (ck : List (Nat × Nat)) (rk : Tbl (List (Nat × Nat))) (s : State) :
    (clusterOf (fenced true scope ck rk s) s.who.cluster).l1g = [] := by
  have dropped : (fenced true scope ck rk s).clusters = (l1gDropAll s s.who.cluster).clusters := by
    rw [fenced, if_pos rfl, acquireAt, if_pos wide]
    rfl
  rw [clusterOf_congr dropped, l1gDropAll, clusterOf_modCluster_self]

section Fence

variable {kind : Fin 4} {scope : Fin 8} {s : State}

theorem execFence_reserved (h : kind = 3 ∨ scope = 7) : execFence kind scope s = trapAt 4 0x02 s.frame.parcel s := if_pos h

variable (legal : ¬ (kind = 3 ∨ scope = 7))
include legal

theorem execFence_closed (h : ¬ ((kind ≠ 1 → releaseReady s s.who scope.val = true) ∧ (kind ≠ 2 → readsLanded s = true))) :
    execFence kind scope s = stall s := by
  rw [execFence, if_neg legal]
  refine if_pos ?_
  by_contra free
  refine h ⟨fun rel => ?_, fun acq => ?_⟩
  · by_contra unready
    exact free (by simp [rel, unready])
  · by_contra unread
    exact free (by simp [acq, unread])

theorem execFence_open (rel : kind ≠ 1 → releaseReady s s.who scope.val = true) (acq : kind ≠ 2 → readsLanded s = true) :
    ∃ ck rk, execFence kind scope s = .next (fenced (kind != 2) scope.val ck rk s) := by
  have free : ¬ ((kind != 1 && !releaseReady s s.who scope.val) || (kind != 2 && !readsLanded s)) = true := by
    simp only [Bool.or_eq_true, Bool.and_eq_true, bne_iff_ne, Bool.not_eq_true', not_or, not_and, Bool.not_eq_false]
    exact ⟨rel, acq⟩
  have who : (if kind != 2 then acquireAt s.who scope.val s else s).who = s.who := by
    split
    · exact (acquireAt_keeps ..).who
    · rfl
  have acquired : ∃ ck rk, (if kind != 2 then
        modCtx (acquireAt s.who scope.val s) s.who fun x => { x with clock := clockJoin x.clock (readBefore s.who scope.val x.readClock) }
      else s) = fenced (kind != 2) scope.val ck rk s := by
    unfold fenced
    cases kind != 2
    · exact ⟨s.ctx.clock, s.ctx.relClock, rfl⟩
    · simp only [↓reduceIte, modCtx_running (acquireAt_keeps s.who scope.val s).who]
      exact ⟨_, _, rfl⟩
  obtain ⟨ck, rk, acquired⟩ := acquired
  rw [execFence, if_neg legal]
  dsimp only
  rw [if_neg free, acquired]
  split
  · exact ⟨_, _, congrArg _ (modCtx_running (s := fenced (kind != 2) scope.val ck rk s) who _)⟩
  · exact ⟨ck, rk, rfl⟩

end Fence

theorem dropLines_keeps (a : Acc) (n va : Nat) (s : State) : KeepsContexts s (dropLines a n va s) := by
  induction n generalizing va s with
  | zero => exact .refl s
  | succ n ih =>
    have tr := translate_keeps a .read va s
    refine KeepsContexts.trans ?_ (ih ..)
    split <;> rename_i e <;> rw [e] at tr
    · exact tr.trans (l1gDropLine_keeps ..)
    · exact tr

section Cmo

variable {op level : Fin 4} {a : AR} {x : SR} {s : State}

theorem execCmo_reserved (h : op = 3 ∨ level = 3) : execCmo op level a x s = trapAt 4 0x02 s.frame.parcel s := if_pos h

variable (legal : ¬ (op = 3 ∨ level = 3)) (hr : Ready [.a a, .s x] [] s) (low : (ea s a 0).toNat < 2 ^ 56) (free : acquirePending s = false)
include legal hr low free

/-- A CMO that goes on changes at most what the caches and the translations hold. -/
theorem execCmo_leaves : ∃ t, execCmo op level a x s = .next t ∧ KeepsContexts s t ∧ (op = 0 → t = s) := by
  rw [execCmo, if_neg legal, guardRegs_ready hr]
  dsimp only
  rw [globalCheck_aligned low (Nat.mod_one _)]
  dsimp only
  rw [free, if_neg Bool.false_ne_true]
  split
  · exact ⟨s, rfl, .refl s, fun _ => rfl⟩
  · rename_i invalidates
    exact ⟨_, rfl, dropLines_keeps .., fun clean => absurd (.inl clean) invalidates⟩

end Cmo

/-- Settles O19: FENCE by what it waits for (`execFence_closed`) and leaves (`execFence_open`, `fenced_leaves`), CMO by `execCmo_leaves`. -/
theorem fencesAndCache : Obligations.FencesAndCache := by
  intro s kind op level scope a x rel acq open_
  refine ⟨execFence_reserved, fun k sc ⟨r, q⟩ => ?opens, fun k sc shut => execFence_closed (by simp [k, sc]) shut, execCmo_reserved,
    fun o l hr low free => ?cmo⟩
  case opens =>
    obtain ⟨ck, rk, run⟩ := execFence_open (by simp [k, sc]) r q
    obtain ⟨who, bytes, files, specials, lands⟩ := fenced_leaves (kind != 2) scope.val ck rk s
    refine ⟨_, run, who, bytes, files, specials, lands, fun acq wide => ?_⟩
    rw [bne_iff_ne.2 acq]
    exact fenced_l1g wide ck rk s
  case cmo =>
    obtain ⟨t, run, keeps, clean⟩ := execCmo_leaves (op := op) (level := level) (by simp [o, l]) hr low free
    exact ⟨fun c => run.trans (congrArg _ (clean c)), t, run, keeps.who, keeps.ctx, keeps.spm, keeps.rom⟩

end Sys2Proof.Machine

namespace Sys2Proof.Machine

/-! ## Regions leave for memory (R195, R196) -/

/-- A context holds what a list of its regions shows. -/
theorem regions_getD (x : Ctx) (rg : RG) : x.regions.toList.getD rg.val none = x.regions[rg.val] := by
  simp [List.getD_eq_getElem?_getD]

theorem regions_getD_lt {x : Ctx} {rg : Nat} {r : Region} (h : x.regions.toList.getD rg none = some r) : rg < 16 := by
  by_contra past
  rw [List.getD_eq_default _ _ (by simpa using past)] at h
  cases h

theorem setRegion_getD {rg : Nat} (h : rg < 16) (x : Ctx) (q : Option Region) : (setRegion x rg q).regions.toList.getD rg none = q := by
  simp [setRegion, List.getD_eq_getElem?_getD, Nat.mod_eq_of_lt h, h]

section Granule

variable {s : State} {c : CtxId} {r : Region} {g : Nat}

/-- An entry of a granule's write-back holds dirty bytes of that granule. -/
theorem granuleEntries_bytes {e : LogEntry} (h : e ∈ granuleEntries s c r g) :
    e.ctx = c ∧ e.op = .store ∧ ∀ b ∈ e.bytes, ∃ d ∈ r.dirty, d / 4096 = g ∧ b.1 = r.gbase + d := by
  obtain ⟨block, -, made⟩ := List.mem_filterMap.1 h
  dsimp only at made
  split at made
  · cases made
  · cases made
    refine ⟨rfl, rfl, fun b m => ?_⟩
    obtain ⟨d, md, rfl⟩ := List.mem_map.1 (List.mem_filter.1 m).1
    obtain ⟨dirty, here⟩ := List.mem_filter.1 md
    exact ⟨d, dirty, by simpa using here, rfl⟩

/-- Every dirty byte of the granule is in an entry of its write-back, as the scratchpad holds it now. -/
theorem granuleEntries_holds (aligned : r.gbase % 4096 = 0) {d : Nat} (dirty : d ∈ r.dirty) (here : d / 4096 = g) :
    ∃ e ∈ granuleEntries s c r g, (r.gbase + d, s.spm.read (spmKey (c.coreNo, r.lbase + d))) ∈ e.bytes := by
  have cell : (r.gbase + d, s.spm.read (spmKey (c.coreNo, r.lbase + d))) ∈
      ((r.dirty.filter fun d => d / 4096 = g).map fun d => (r.gbase + d, s.spm.read (spmKey (c.coreNo, r.lbase + d)))).filter
        fun e => blockOf e.1 = blockOf (r.gbase + d) :=
    List.mem_filter.2 ⟨List.mem_map.2 ⟨d, List.mem_filter.2 ⟨dirty, by simpa using here⟩, rfl⟩, by simp⟩
  have block : blockOf (r.gbase + d) ∈ (List.range 32).map fun i => r.gbase / 128 * 128 + g * 4096 + 128 * i :=
    List.mem_map.2 ⟨d % 4096 / 128, List.mem_range.2 (by omega), by unfold blockOf; omega⟩
  refine ⟨_, List.mem_filterMap.2 ⟨_, block, if_neg ?_⟩, cell⟩
  rw [List.isEmpty_iff]
  exact List.ne_nil_of_mem cell

theorem granuleEntries_clean (clean : ∀ d ∈ r.dirty, d / 4096 ≠ g) : granuleEntries s c r g = [] := by
  refine List.eq_nil_iff_forall_not_mem.2 fun e m => ?_
  obtain ⟨block, -, made⟩ := List.mem_filterMap.1 m
  have none_ : (r.dirty.filter fun d => d / 4096 = g) = [] := List.filter_eq_nil_iff.2 fun d m => by simpa using clean d m
  simp [none_] at made

end Granule

/-- The granule of a region clean, where stores into the region reach memory at all. -/
def withoutGranule (g : Nat) (r : Region) : Region := { r with dirty := if r.rw then r.dirty.filter fun d => d / 4096 ≠ g else r.dirty }

/-- The state in which the write-back of a granule has begun (R195). -/
def begunBack (c : CtxId) (rg g : Nat) (r : Region) (s : State) : State :=
  modCtx (modCore (bump s) c.coreNo fun k => { k with wback := k.wback ++ (granuleEntries s c r g).map fun e => (fresh s, e) }) c
    fun x => setRegion x rg (some { r with dirty := r.dirty.filter fun d => d / 4096 ≠ g })

section Back

variable {s : State} {c : CtxId} {rg : Nat} {r : Region} (set : (getCtx s c).regions.toList.getD rg none = some r)
include set

theorem beginBack_idle {g : Nat} (idle : r.rw = false ∨ ∀ d ∈ r.dirty, d / 4096 ≠ g) : beginBack c rg g s = s := by
  unfold beginBack
  rw [set]
  refine if_pos ?_
  rcases idle with ro | clean
  · simp [ro]
  · simp [granuleEntries_clean clean]

variable (aligned : r.gbase % 4096 = 0)
include aligned

theorem beginBack_dirty {g : Nat} (rw_ : r.rw = true) (dirty : ∃ d ∈ r.dirty, d / 4096 = g) : beginBack c rg g s = begunBack c rg g r s := by
  obtain ⟨d, md, here⟩ := dirty
  obtain ⟨e, me, -⟩ := granuleEntries_holds (s := s) (c := c) aligned md here
  unfold beginBack
  rw [set]
  refine if_neg ?_
  simp [rw_, List.ne_nil_of_mem me]

theorem beginBack_region (g : Nat) : (getCtx (beginBack c rg g s) c).regions.toList.getD rg none = some (withoutGranule g r) := by
  unfold withoutGranule
  cases rw_ : r.rw with
  | false =>
    rw [beginBack_idle set (.inl rw_), set, if_neg Bool.false_ne_true, ← rw_]
  | true =>
    rw [if_pos rfl]
    by_cases dirty : ∃ d ∈ r.dirty, d / 4096 = g
    · rw [beginBack_dirty set aligned rw_ dirty, begunBack, getCtx_modCtx_self, setRegion_getD (regions_getD_lt set), ← rw_]
    · have clean : ∀ d ∈ r.dirty, d / 4096 ≠ g := fun d m e => dirty ⟨d, m, e⟩
      rw [beginBack_idle set (.inr clean), set, List.filter_eq_self.2 (by simpa using clean), ← rw_]

/-- The first n granules of a region have left. -/
theorem foldl_beginBack_region (n : Nat) :
    (getCtx ((List.range n).foldl (fun s g => beginBack c rg g s) s) c).regions.toList.getD rg none =
      some { r with dirty := if r.rw then r.dirty.filter fun d => n ≤ d / 4096 else r.dirty } := by
  induction n with
  | zero => simpa using set
  | succ n ih =>
    rw [List.range_succ, List.foldl_concat, beginBack_region ih aligned]
    unfold withoutGranule
    cases r.rw with
    | false => rfl
    | true =>
      simp only [↓reduceIte, List.filter_filter, Option.some.injEq, Region.mk.injEq, true_and]
      refine List.filter_congr fun d _ => Bool.eq_iff_iff.2 ?_
      simp
      omega

theorem backRegion_region (whole : r.len % 4096 = 0) (inside : ∀ d ∈ r.dirty, d < r.len) :
    (getCtx (backRegion c rg s) c).regions.toList.getD rg none = some { r with dirty := if r.rw then [] else r.dirty } := by
  have none_ : (r.dirty.filter fun d => r.len / 4096 ≤ d / 4096) = [] :=
    List.filter_eq_nil_iff.2 fun d m => by have := inside d m; simp; omega
  unfold backRegion
  rw [set]
  dsimp only
  rw [foldl_beginBack_region set aligned, none_]

end Back

/-! ## RGSET, RGWB and RGDROP (R193, R196) -/

section Regions

variable {s : State} {rg : RG}

theorem execRgset_reserved {a : AR} {x x2 : SR} {mode : Fin 8} (h : 2 ≤ mode.val) :
    execRgset rg a x x2 mode s = trapAt 4 0x02 s.frame.parcel s := if_pos (.inl h)

variable (feature : accepted s 8 = true)
include feature

/-- RGSET of a range that R193 allows. -/
theorem execRgset_legal {a : AR} {x x2 : SR} {mode : Fin 8} (user : s.who.isSys = false) (legal : mode.val < 2) (hr : Ready [.a a, .s x, .s x2] [] s)
    (free : rgsetFault s rg (rdBase s a).toNat (rdS s x).toNat (rdS s x2).toNat = none) :
    execRgset rg a x x2 mode s = .next { s with ctx := { s.ctx with
      regions := s.ctx.regions.set rg.val (some ⟨(rdBase s a).toNat, (rdS s x).toNat, (rdS s x2).toNat, mode = 1, [], []⟩) } } := by
  rw [execRgset, if_neg (by simp [feature, legal]), guardRegs_ready hr]
  dsimp only
  rw [user, if_neg Bool.false_ne_true, free]

theorem execRgwb_unset (unset : s.ctx.regions[rg.val] = none) : execRgwb rg s = trapAt 12 0x09 (BitVec.ofNat 64 rg.val) s := by
  rw [execRgwb, needFeature, if_pos feature, unset]

theorem execRgdrop_unset (unset : s.ctx.regions[rg.val] = none) : execRgdrop rg s = trapAt 12 0x09 (BitVec.ofNat 64 rg.val) s := by
  rw [execRgdrop, needFeature, if_pos feature, unset]

variable {r : Region} (set : s.ctx.regions[rg.val] = some r)
include set

theorem execRgwb_set (free : acquirePending s = false) :
    execRgwb rg s = .next (feed s.who.coreNo (backRegion s.who rg.val s)) := by
  rw [execRgwb, needFeature, if_pos feature, set]
  dsimp only
  rw [free, if_neg Bool.false_ne_true]

theorem execRgdrop_set (idle : (coreOf s s.who.coreNo).waits = []) :
    execRgdrop rg s = .next { s with ctx := { s.ctx with regions := s.ctx.regions.set rg.val none } } := by
  rw [execRgdrop, needFeature, if_pos feature, set]
  simp [idle, awaits]

end Regions

theorem rgsetFault_none {s : State} {rg : RG} {lb gb n : Nat} (unset : s.ctx.regions[rg.val] = none) (hl : lb % 4096 = 0) (hg : gb % 4096 = 0)
    (hn : n % 4096 = 0) (pos : 0 < n) (inside : lb + n ≤ 0x800000)
    (clear : ∀ r ∈ s.ctx.regions.toList, ∀ q, r = some q → ¬ (q.lbase < lb + n ∧ lb < q.lbase + q.len)) (low : gb + n ≤ 2 ^ 56) :
    rgsetFault s rg lb gb n = none := by
  unfold rgsetFault coreBytes
  rw [unset, if_neg (by simp), if_neg (by omega), if_neg (by omega), if_neg (by omega), if_neg (by omega), if_neg (by omega)]
  refine (if_neg ?apart).trans (if_neg (by omega))
  rw [List.any_eq_true]
  rintro ⟨r, m, meets⟩
  cases r with
  | none => cases meets
  | some q => exact clear _ m q rfl (by simpa using meets)

/-- Settles O20: RGSET by `execRgset_legal`, RGWB by the region that its write-back leaves (`backRegion_region`), RGDROP by `execRgdrop_set`. -/
theorem regionInstructions : Obligations.RegionInstructions := by
  intro s rg a x x2 mode user feature lb gb n clear
  refine ⟨execRgset_reserved, fun legal hr unset hl hg hn pos inside apart low => ?set,
    fun unset => ⟨execRgwb_unset feature unset, execRgdrop_unset feature unset⟩,
    fun r set => ⟨fun free aligned whole dirty => ⟨execRgwb_set feature set free, ?back⟩, execRgdrop_set feature set⟩⟩
  case set => exact execRgset_legal feature user legal hr (rgsetFault_none unset hl hg hn pos inside apart low)
  case back =>
    have who : (backRegion s.who rg.val s).who = s.who := (backRegion_keeps s.who rg.val s).who
    rw [← regions_getD, ← getCtx_of_who who]
    exact backRegion_region (by rw [getCtx_who, regions_getD, set]) aligned whole dirty

end Sys2Proof.Machine

namespace Sys2Proof.Machine

/-! ## Region fills (R194) -/

theorem mem_insertNat (x : Nat) (l : List Nat) : x ∈ insertNat x l := by
  induction l with
  | nil => exact List.mem_singleton_self x
  | cons y ys ih =>
    unfold insertNat
    split
    · exact List.mem_cons_self
    · exact List.mem_cons_of_mem _ ih

theorem putMarked_spm (key : Nat) (bs : List (Byte × Bool)) (s : State) : (putMarked key bs s).spm = s.spm.writeBytes key (bs.map (·.1)) := rfl

/-- The granule g of a region of context c on a core holds the bytes that its fill has found (R194). -/
def granuleFilled (core : Nat) (c : CtxId) (rg g : Nat) (r : Region) (bs : List (Byte × Bool)) (u : State) : State :=
  modCtx (putMarked (spmKey (core, r.lbase + 4096 * g)) bs u) c fun x => setRegion x rg (some { r with filled := insertNat g r.filled })

theorem granuleFilled_read {core : Nat} {c : CtxId} {rg g : Nat} {r : Region} {bs : List (Byte × Bool)} {u : State} (wf : u.spm.wf = true)
    {i : Nat} (hi : i < bs.length) :
    (granuleFilled core c rg g r bs u).spm.read (core * 0x800000 + r.lbase + 4096 * g + i) = (bs.getD i (0, false)).1 := by
  have key : spmKey (core, r.lbase + 4096 * g) = core * 0x800000 + r.lbase + 4096 * g := by unfold spmKey coreBytes; omega
  rw [granuleFilled, modCtx_spm, putMarked_spm, key, read_writeBytes wf, if_pos (by simp; omega), Nat.add_sub_cancel_left]
  simp [List.getD_eq_getElem?_getD, hi]

section Fill

variable {s : State} {core : Nat}

theorem fillGranule_held (h : (coreOf s core).held.isSome = true) : fillGranule core s = s := if_pos h

theorem fillGranule_unwanted (h : fillWanted s core = none) : fillGranule core s = s := by
  unfold fillGranule
  split
  · rfl
  · rw [h]

theorem fillGranule_reads {w : Wait} {rg g : Nat} {r : Region} {u : State} {bs : List (Byte × Bool)} (free : (coreOf s core).held = none)
    (wanted : fillWanted s core = some (w, rg, g)) (set : (getCtx s w.ctx).regions.toList.getD rg none = some r)
    (read : readMarked (waitAcc s w) false false (r.gbase + 4096 * g) 4096 s = .ok u bs) :
    fillGranule core s = pump core (granuleFilled core w.ctx rg g r bs u) := by
  unfold fillGranule
  rw [free, wanted]
  dsimp only [Option.isSome_none]
  rw [if_neg Bool.false_ne_true, set]
  dsimp only
  rw [read]
  rfl

end Fill

/-! ## The side log's head (R185, R309, R317) -/

section Log

variable {s : State} {k : Nat} {e : LogEntry} {rest : List LogEntry} (core : s.input.core.val = k) (head : (coreOf s k).sidelog = e :: rest)
include core head

theorem execSideLogReplay_waits (waits : e.waits.isSome = true) (stays : entryDropped s e = false) : execSideLogReplay s = .next s := by
  unfold execSideLogReplay
  dsimp only
  rw [core, head]
  simp [waits, stays]

theorem execSideLogReplay_dropped (gone : entryDropped s e = true) : execSideLogReplay s = .next (pump k
    (dropHead k (noteReaders k { e with readers := e.readers.filter fun r => r.task ≠ e.task } s))) := by
  unfold execSideLogReplay replayHead
  dsimp only
  rw [core, head]
  simp [gone]

theorem execSideLogReplay_made {u : State} (free : e.waits = none) (stays : entryDropped s e = false)
    (made : performEntry k e (noteReaders k e s) = .ok u ()) : execSideLogReplay s = .next (pump k (dropHead k u)) := by
  unfold execSideLogReplay replayHead
  dsimp only
  rw [core, head]
  simp [free, stays, made]

end Log

/-! ## Errors that codes and parity find (R429–R431) -/

@[simp] theorem tbl_get_erase {α : Type} (t : Tbl α) (i : Nat) : Tbl.get? (Tbl.erase t i) i = none := by
  induction t with
  | nil => rfl
  | cons e t ih =>
    rw [Tbl.erase, List.filter_cons]
    split
    · rename_i other
      rw [Tbl.get?, if_neg (by simpa using other)]
      exact ih
    · exact ih

theorem mem_addNat (x : Nat) (l : List Nat) : x ∈ addNat x l := by
  unfold addNat
  split
  · rename_i h; exact List.contains_iff_mem.1 h
  · exact List.mem_append_right _ (List.mem_singleton_self x)

theorem addNat_keeps {y : Nat} {l : List Nat} (h : y ∈ l) (x : Nat) : y ∈ addNat x l := by
  unfold addNat
  split
  · exact h
  · exact List.mem_append_left _ h

/-- The error log is off, and no class has a threshold. -/
def Uncontrolled (s : State) : Prop := s.dev.errlog = 0 ∧ ∀ n : Fin 16, s.dev.thresh[n.val].toNat % 2 ^ 32 = 0

/-- From s to t one event of class n has been counted, and no register file, memory or port has changed. -/
def CountsOne (n : Fin 16) (s t : State) : Prop :=
  SameBytes s t ∧ t.who = s.who ∧ SameFiles s t ∧ t.dev.tot[n.val] = s.dev.tot[n.val] + 1

theorem logRecord_off {s : State} (off : s.dev.errlog = 0) (k : Nat) (bs : List Byte) : logRecord k bs s = s :=
  if_pos (by rw [logBase, off]; rfl)

theorem showTotal_off {s : State} (off : s.dev.errlog = 0) (n : Fin 16) : showTotal n s = s := if_pos (by rw [logBase, off]; rfl)

section Scrub

variable {s : State} (off : Uncontrolled s)
include off

/-- An event that no context's work has brought about moves the device's counters alone. -/
theorem countEvents_off {n : Fin 16} (hn : 6 ≤ n.val) :
    ∃ d, countEvents none [n.val] s = { s with dev := d } ∧ d.tot[n.val] = s.dev.tot[n.val] + 1 ∧ d.errlog = 0 := by
  obtain ⟨log, calm⟩ := off
  have counts : ¬ uncounted none n s = true := by simp [uncounted]
  have same : Fin.ofNat 16 n.val = n := Fin.ext (Nat.mod_eq_of_lt n.isLt)
  rw [countEvents, List.foldl_cons, List.foldl_nil, same, countEvent, if_neg counts]
  dsimp only
  rw [showTotal_off (by exact log), if_neg fun crossed => crossed.1 (calm n)]
  exact ⟨_, rfl, by simp, log⟩

theorem poisonFound_off (at_ : Site) (task addr level : Nat) :
    ∃ d, poisonFound at_ task addr level s = { s with dev := d } ∧ d.tot[13] = s.dev.tot[13] + 1 := by
  obtain ⟨d, counted, tot, log⟩ := countEvents_off off (n := 13) (by decide)
  refine ⟨d, ?_, tot⟩
  rw [poisonFound, logEntryAt, show countEvents none [13] s = _ from counted, logRecord_off log]

end Scrub

/-- Poison found in a state that holds the bytes and registers of s counts one event of class 13. -/
theorem poisonFound_counts {s v : State} (off : Uncontrolled v) (dev : v.dev = s.dev) (bytes : SameBytes s v) (who : v.who = s.who)
    (files : SameFiles s v) (at_ : Site) (task addr level : Nat) :
    ∃ d, poisonFound at_ task addr level v = { v with dev := d } ∧ CountsOne 13 s { v with dev := d } := by
  obtain ⟨d, found, tot⟩ := poisonFound_off off at_ task addr level
  exact ⟨d, found, bytes, who, files, dev ▸ tot⟩

/-- A correction or a dropped copy counts one event of its class. -/
theorem countEvents_counts {s v : State} {n : Fin 16} (hn : 6 ≤ n.val) (off : Uncontrolled v) (dev : v.dev = s.dev) (bytes : SameBytes s v)
    (who : v.who = s.who) (files : SameFiles s v) :
    ∃ d, countEvents none [n.val] v = { v with dev := d } ∧ CountsOne n s { v with dev := d } := by
  obtain ⟨d, counted, tot, -⟩ := countEvents_off off hn
  exact ⟨d, counted, bytes, who, files, dev ▸ tot⟩

theorem SameFiles.refl (s : State) : SameFiles s s := ⟨rfl, rfl, rfl, rfl, rfl, rfl, rfl⟩

theorem modCtx_sameFiles (s : State) (c : CtxId) {f : Ctx → Ctx}
    (h : ∀ x, ((f x).s, (f x).a, (f x).p, (f x).b, (f x).v, (f x).m, (f x).w) = (x.s, x.a, x.p, x.b, x.v, x.m, x.w)) :
    SameFiles s (modCtx s c f) := by
  unfold modCtx setCtx
  split
  · rename_i here
    have same := h (getCtx s c)
    simp only [here, getCtx_who, Prod.mk.injEq] at same
    simpa [SameFiles, here] using same
  · exact SameFiles.refl s

section Finds

variable {s : State}

theorem execScrub_clean (clean : s.input.stored = .clean) : execScrub s = .next s := by
  unfold execScrub
  dsimp only
  rw [clean]
  split <;> rfl

theorem execScrub_corrected (code : s.input.num2 ∈ [0, 5, 6, 7, 8, 10]) (found : s.input.stored = .correctable) :
    execScrub s = .next (countEvents none [8] s) := by
  simp only [List.mem_cons, List.not_mem_nil, or_false] at code
  rcases code with code | code | code | code | code | code <;> simp only [execScrub, code, found, codeFind]

variable (off : Uncontrolled s)
include off

theorem poisonLine_counts (l level : Nat) :
    ∃ t, poisonLine l level s = t ∧ CountsOne 13 s t ∧ l ∈ t.poison ∧ ∀ x ∈ s.poison, x ∈ t.poison := by
  obtain ⟨d, found, counts⟩ := poisonFound_counts (s := s) (v := { s with poison := addNat l s.poison }) off rfl (fun _ => ⟨rfl, rfl, rfl⟩) rfl
    (SameFiles.refl s) (siteAt s (64 * l)) 0 (64 * l) level
  exact ⟨_, found, counts, mem_addNat l s.poison, fun x m => addNat_keeps m l⟩

theorem poisonGranule_counts (g : Nat) : ∃ t, poisonGranule g s = t ∧ CountsOne 13 s t ∧ g ∈ t.spmPoison ∧ t.poison = s.poison := by
  obtain ⟨d, found, counts⟩ := poisonFound_counts (s := s) (v := { s with spmPoison := addNat g s.spmPoison }) off rfl (fun _ => ⟨rfl, rfl, rfl⟩) rfl
    (SameFiles.refl s) (coreSite (8 * g / coreBytes)) 0 (8 * g) 0
  exact ⟨_, found, counts, mem_addNat g s.spmPoison, rfl⟩

/-- The store of the commit buffer that stands for a granule has that granule poisoned (R248, R430). -/
theorem poisonHeld_counts {core g : Nat} {h : TileStore} {rest : List TileStore} (first : (coreOf s core).stores = h :: rest)
    (low : spmKey (h.core, h.off) < 8 * g + 8) (high : 8 * g < spmKey (h.core, h.off) + h.size) :
    ∃ t, poisonHeld core g s = t ∧ CountsOne 13 s t ∧ ∀ x ∈ (coreOf t core).stores, x.id = h.id → g ∈ x.bad := by
  obtain ⟨d, found, counts⟩ := poisonFound_counts (s := s) (v := modStore core h.id (fun t => { t with bad := addNat g t.bad }) s) off rfl
    (fun _ => ⟨rfl, rfl, rfl⟩) rfl (SameFiles.refl s) (coreSite core) (getCtx s h.ctx).task (8 * g) 0
  have held : poisonHeld core g s = poisonFound (coreSite core) (getCtx s h.ctx).task (8 * g) 0
      (modStore core h.id (fun t => { t with bad := addNat g t.bad }) s) := by
    unfold poisonHeld
    rw [first, List.find?_cons_of_pos (by simp [low, high])]
  refine ⟨_, held.trans found, counts, fun x m same => ?_⟩
  have stores : x ∈ (coreOf (modStore core h.id (fun t => { t with bad := addNat g t.bad }) s) core).stores := m
  rw [modStore, coreOf_modCore_self] at stores
  obtain ⟨o, -, rfl⟩ := List.mem_map.1 stores
  have mine : o.id = h.id := by
    split at same
    · assumption
    · exact same
  rw [if_pos mine]
  exact mem_addNat g o.bad

theorem poisonVersion_counts {task l : Nat} {k : Task} (known : taskOf s task = some k) (held : ∃ b ∈ k.version, b.1 / 64 = l) :
    ∃ t u, poisonVersion task l s = t ∧ CountsOne 13 s t ∧ taskOf t task = some u ∧ l ∈ u.vpoison := by
  obtain ⟨d, found, counts⟩ := poisonFound_counts (s := s) (v := modTask s task fun t => { t with vpoison := addNat l t.vpoison }) off rfl
    (fun _ => ⟨rfl, rfl, rfl⟩) rfl (SameFiles.refl s) (siteAt s (64 * l)) task (64 * l) 2
  have marked : poisonVersion task l s = poisonFound (siteAt s (64 * l)) task (64 * l) 2
      (modTask s task fun t => { t with vpoison := addNat l t.vpoison }) := by
    unfold poisonVersion
    rw [known]
    exact if_pos (by simpa using held)
  exact ⟨_, _, marked.trans found, counts, taskOf_modTask_self known fun _ => rfl, mem_addNat l k.vpoison⟩

/-- A register's parity error makes its next reader trap (R431). -/
theorem scrub_register {r : SR} (named : r ≠ 0) (code : s.input.num2 = 3) (found : s.input.stored = .uncorrectable) (num : s.input.num = r.val) :
    ∃ t, execScrub s = .next t ∧ SameBytes s t ∧ t.who = s.who ∧ SameFiles s t ∧ .s r ∈ (getCtx t s.input.ctx).badRegs := by
  have reg : parityReg s.input.num = some (.s r) := by
    have low := r.isLt
    have cls : r.val / 256 = 0 := by omega
    have no : Fin.ofNat 32 (r.val % 64) = r := Fin.ext (by simp)
    rw [num, parityReg]
    simp only [cls, no]
  have marked : execScrub s = .next (registerRecord (siteOf (some s.input.ctx)) (getCtx s s.input.ctx).task s.input.num 0
      (modCtx s s.input.ctx fun x => { x with badRegs := if (RegName.s r).wired || x.badRegs.contains (.s r) then x.badRegs else x.badRegs ++ [.s r] })) := by
    simp only [execScrub, code, found, reg]
  rw [registerRecord, logEntryAt, logRecord_off (by rw [modCtx_dev]; exact off.1)] at marked
  refine ⟨_, marked, fun _ => ⟨by rw [modCtx_mem], by rw [modCtx_spm], by rw [modCtx_rom]⟩, modCtx_who .., modCtx_sameFiles _ _ fun _ => rfl, ?_⟩
  rw [getCtx_modCtx_self]
  have unwired : (RegName.s r).wired = false := by simpa [RegName.wired] using named
  dsimp only
  split
  · rename_i known
    simpa [unwired] using known
  · exact List.mem_append_right _ (List.mem_singleton_self _)

theorem scrub_tile (code : s.input.num2 = 4) (found : s.input.stored = .uncorrectable) :
    ∃ t, execScrub s = .next t ∧ SameBytes s t ∧ t.who = s.who ∧ SameFiles s t ∧ (tileOf t s.input.core.val s.input.num).bad = true := by
  have marked : execScrub s = .next (registerRecord (coreSite s.input.core.val) 0 s.input.num 1
      (setTile s.input.core.val s.input.num (fun t => { t with bad := true }) s)) := by
    simp only [execScrub, code, found]
  rw [registerRecord, logEntryAt, logRecord_off (by exact off.1)] at marked
  refine ⟨_, marked, fun _ => ⟨rfl, rfl, rfl⟩, rfl, SameFiles.refl s, ?_⟩
  rw [tileOf, setTile, coreOf_modCore_self]
  simp [List.getD_eq_getElem?_getD, Nat.mod_lt]

end Finds

theorem getCtx_dev (s : State) (d : Dev) (c : CtxId) : getCtx { s with dev := d } c = getCtx s c := rfl

theorem clusterOf_dev (s : State) (d : Dev) (n : Nat) : clusterOf { s with dev := d } n = clusterOf s n := rfl

section Codes

variable {s : State}

theorem execScrub_code {n : Nat} {mark : State → State} (code : s.input.num2 = n) (found : s.input.stored = .uncorrectable)
    (marks : (n, mark) ∈ [(0, poisonLine s.input.num 3), (1, poisonGranule s.input.num), (5, poisonHeld s.input.core.val s.input.num),
      (7, poisonVersion s.input.task.toNat s.input.num), (8, poisonLine s.input.num 2)]) : execScrub s = .next (mark s) := by
  simp only [List.mem_cons, List.not_mem_nil, or_false, Prod.mk.injEq] at marks
  rcases marks with ⟨rfl, rfl⟩ | ⟨rfl, rfl⟩ | ⟨rfl, rfl⟩ | ⟨rfl, rfl⟩ | ⟨rfl, rfl⟩ <;> simp only [execScrub, code, found, codeFind]

section Parity

variable (found : s.input.stored ≠ .clean)
include found

theorem execScrub_l1g (code : s.input.num2 = 2) : execScrub s = .next (countEvents none [9]
    (modCluster s s.input.clu.val fun u => { u with l1g := Tbl.erase u.l1g s.input.num })) := by
  simp only [execScrub, code, parityFind, if_neg found]

theorem execScrub_llc (code : s.input.num2 = 9) : execScrub s = .next (countEvents none [9] s) := by
  simp only [execScrub, code, parityFind, if_neg found, id]

theorem execScrub_ibuf (code : s.input.num2 = 11) : execScrub s = .next (countEvents none [9]
    (modCtx s s.input.ctx fun x => { x with ibuf := Tbl.erase x.ibuf (64 * s.input.num) })) := by
  simp only [execScrub, code, parityFind, if_neg found]

end Parity

end Codes

/-- Settles O49: (a) by the granule that a fill leaves (`fillGranule_reads`, `granuleFilled_read`), the entries of a write-back (`beginBack_dirty`,
`granuleEntries_holds`) and what becomes of the log's head; (b) by what each find marks and counts (`poisonLine_counts` to `scrub_tile`). -/
theorem regionLogAndErrorSteps : Obligations.RegionLogAndErrorSteps := by
  refine ⟨fun s u w rg g r bs e rest => ?steps, fun s log calm => ?finds⟩
  case steps =>
    intro k
    refine ⟨fun unwanted => congrArg _ (fillGranule_unwanted unwanted), fun held => congrArg _ (fillGranule_held held),
      fun free wanted set read wf => ?fill, fun set writes aligned whole _ dirty => ?back, fun head => ⟨?waits, ?dropped, ?made⟩⟩
    case fill =>
      have filled : (getCtx (granuleFilled k w.ctx rg g r bs u) w.ctx).regions.toList.getD rg none = some { r with filled := insertNat g r.filled } := by
        rw [granuleFilled, getCtx_modCtx_self, setRegion_getD (regions_getD_lt set)]
      exact ⟨_, congrArg _ (fillGranule_reads free wanted set read), fun i hi => granuleFilled_read wf hi, _, filled, rfl, rfl, mem_insertNat .., rfl⟩
    case back =>
      have back := beginBack_dirty set aligned writes dirty
      have left : withoutGranule s.input.num r = { r with dirty := r.dirty.filter fun d => d / 4096 ≠ s.input.num } := by
        rw [withoutGranule, if_pos writes]
      refine ⟨_, rfl, left ▸ beginBack_region set aligned s.input.num, ?_, ?_, ?_⟩
      · rw [back, begunBack, modCtx_spm]; rfl
      · rw [back, begunBack, modCtx_mem]; rfl
      · refine ⟨(granuleEntries s s.input.ctx r s.input.num).map fun e => (fresh s, e), ?_, fun d m here => ?_, fun w m => ?_⟩
        · rw [back, begunBack, coreOf_congr (modCtx_cores ..), coreOf_modCore_self]
          rfl
        · obtain ⟨e, me, held⟩ := granuleEntries_holds (s := s) (c := s.input.ctx) aligned m here
          exact ⟨_, List.mem_map_of_mem me, held⟩
        · obtain ⟨e, me, rfl⟩ := List.mem_map.1 m
          exact granuleEntries_bytes me
    case waits => exact execSideLogReplay_waits rfl head
    case dropped => exact execSideLogReplay_dropped rfl head
    case made => exact execSideLogReplay_made rfl head
  case finds =>
    intro i total quiet
    have off : Uncontrolled s := ⟨log, calm⟩
    have counted {n : Fin 16} {t : State} (h : CountsOne n s t) : quiet t ∧ total t n := by
      obtain ⟨bytes, who, files, tot⟩ := h
      exact ⟨⟨bytes, who, files⟩, tot⟩
    have corrected (code : i.num2 ∈ [0, 5, 6, 7, 8, 10]) (found : i.stored = .correctable) :
        ∃ t, exec .scrub s = .next t ∧ quiet t ∧ total t 8 ∧ t.poison = s.poison := by
      obtain ⟨d, run, counts⟩ := countEvents_counts (n := 8) (by decide) off rfl (fun _ => ⟨rfl, rfl, rfl⟩) rfl (SameFiles.refl s)
      obtain ⟨q, t⟩ := counted counts
      exact ⟨_, (execScrub_corrected code found).trans (congrArg _ run), q, t, rfl⟩
    have line (level : Nat) (run : exec .scrub s = .next (poisonLine i.num level s)) :
        ∃ t, exec .scrub s = .next t ∧ quiet t ∧ total t 13 ∧ i.num ∈ t.poison ∧ ∀ l ∈ s.poison, l ∈ t.poison := by
      obtain ⟨t, found, counts, marked, kept⟩ := poisonLine_counts off i.num level
      obtain ⟨q, tot⟩ := counted counts
      exact ⟨t, run.trans (congrArg _ found), q, tot, marked, kept⟩
    have dropped {v : State} (run : exec .scrub s = .next (countEvents none [9] v)) (same : v.dev = s.dev) (bytes : SameBytes s v)
        (who : v.who = s.who) (files : SameFiles s v) : ∃ d, exec .scrub s = .next { v with dev := d } ∧ quiet { v with dev := d } ∧
          total { v with dev := d } 9 := by
      obtain ⟨d, drop, counts⟩ := countEvents_counts (v := v) (n := 9) (by decide) (by rwa [Uncontrolled, same]) same bytes who files
      exact ⟨d, run.trans (congrArg _ drop), counted counts⟩
    refine ⟨fun clean _ => execScrub_clean clean, fun code => corrected (by simp [code]), fun code found => ?hbm, fun code found => ?granule,
      fun code => corrected (List.mem_cons_of_mem _ code), fun code found => ?llc, fun code found h rest first low high => ?held,
      fun code found k known held => ?version, fun code found => ?clean, fun code found => ?ibuf, fun code found => ?l1g,
      fun code found r named num => ?register, fun code found => ?tile⟩
    case hbm => exact line 3 (execScrub_code code found (by simp [i]))
    case llc => exact line 2 (execScrub_code code found (by simp [i]))
    case granule =>
      obtain ⟨t, marks, counts, marked, same⟩ := poisonGranule_counts off i.num
      obtain ⟨q, tot⟩ := counted counts
      exact ⟨t, (execScrub_code code found (by simp [i])).trans (congrArg _ marks), q, tot, marked, same⟩
    case held =>
      obtain ⟨t, marks, counts, marked⟩ := poisonHeld_counts off first low high
      obtain ⟨q, tot⟩ := counted counts
      exact ⟨t, (execScrub_code code found (by simp [i])).trans (congrArg _ marks), q, tot, marked⟩
    case version =>
      obtain ⟨t, u, marks, counts, task, marked⟩ := poisonVersion_counts off known held
      obtain ⟨q, tot⟩ := counted counts
      exact ⟨t, u, (execScrub_code code found (by simp [i])).trans (congrArg _ marks), q, tot, task, marked⟩
    case clean =>
      obtain ⟨d, run, q, tot⟩ := dropped (execScrub_llc found code) rfl (fun _ => ⟨rfl, rfl, rfl⟩) rfl (SameFiles.refl s)
      exact ⟨_, run, q, tot, rfl⟩
    case ibuf =>
      obtain ⟨d, run, q, tot⟩ := dropped (execScrub_ibuf found code) (modCtx_dev ..)
        (fun _ => ⟨by rw [modCtx_mem], by rw [modCtx_spm], by rw [modCtx_rom]⟩) (modCtx_who ..) (modCtx_sameFiles _ _ fun _ => rfl)
      exact ⟨_, run, q, tot, by rw [getCtx_dev, getCtx_modCtx_self]; exact tbl_get_erase ..⟩
    case l1g =>
      obtain ⟨d, run, q, tot⟩ := dropped (execScrub_l1g found code) rfl (fun _ => ⟨rfl, rfl, rfl⟩) rfl (SameFiles.refl s)
      exact ⟨_, run, q, tot, by rw [clusterOf_dev, clusterOf_modCluster_self]; exact tbl_get_erase ..⟩
    case register =>
      obtain ⟨t, run, bytes, who, files, bad⟩ := scrub_register off named code found num
      exact ⟨t, run, ⟨bytes, who, files⟩, bad⟩
    case tile =>
      obtain ⟨t, run, bytes, who, files, bad⟩ := scrub_tile off code found
      exact ⟨t, run, ⟨bytes, who, files⟩, bad⟩

end Sys2Proof.Machine

namespace Sys2Proof.Machine

/-! ## Vector and mask loads of the scratchpad (R175, R176, R178) -/

/-- The i-th of pieces of n bytes that follow each other. -/
theorem flatMap_piece {α : Type} {n : Nat} {f : α → List Byte} (each : ∀ x, (f x).length = n) (xs : List α) {i : Nat} (hi : i < xs.length) :
    ((xs.flatMap f).drop (n * i)).take n = f xs[i] := by
  induction xs generalizing i with
  | nil => simp at hi
  | cons x xs ih =>
    rw [List.flatMap_cons]
    cases i with
    | zero => simpa using List.take_left' (each x)
    | succ i =>
      rw [show n * (i + 1) = (f x).length + n * i by rw [each, Nat.mul_succ, Nat.add_comm], List.drop_length_add_append]
      exact ih _

theorem toList_finRange {n : Nat} {α : Type} (x : Vector α n) : x.toList = (List.finRange n).map fun i => x[i] := by
  apply List.ext_getElem <;> simp

theorem laneAddrs_eq (base step : Word) : laneAddrs base step = (List.finRange 64).map fun i => base + BitVec.ofNat 64 i.val * step := by
  rw [laneAddrs, ← List.map_coe_finRange_eq_range, List.map_map]
  rfl

theorem laneAddrs_words (base : Word) : laneAddrs base 4 = (List.finRange 64).map fun i => base + BitVec.ofNat 64 (4 * i.val) := by
  rw [laneAddrs_eq]
  refine List.map_congr_left fun i _ => ?_
  rw [BitVec.ofNat_mul, BitVec.mul_comm]
  rfl

theorem indexAddrs_eq (base : Word) (v : Vec) (sc : Fin 4) :
    indexAddrs base v sc = (List.finRange 64).map fun i => base + BitVec.ofNat 64 (v[i].toNat * 2 ^ sc.val) := by
  rw [indexAddrs, toList_finRange, List.map_map]
  refine List.map_congr_left fun i _ => congrArg (base + ·) (BitVec.eq_of_toNat_eq ?_)
  simp [Nat.shiftLeft_eq]

theorem shapeVal_lanes (s : State) (at_ : Fin 64 → Word) :
    shapeVal .vec (bytesAt s 4 (((List.finRange 64).map at_).map (keyAt s))) =
      .vec (Vector.ofFn fun i => BitVec.ofNat 32 (s.spm.readNat (keyAt s (at_ i)) 4)) := by
  refine congrArg RegVal.vec (congrArg Vector.ofFn (funext fun i => ?_))
  rw [bytesAt, List.map_map, flatMap_piece (f := fun k => spmRead s k 4) (fun k => readBytes_length s.spm k 4) _ (by simp)]
  simp [Memory.readNat, spmRead]

/-- An access that may lie anywhere goes on where one that must stay in a core does. -/
theorem localReady_loosen {s : State} {contig contig' : Bool} {n align : Nat} {write : Bool} {addrs : List Word} (loose : contig' = true → contig = true)
    (h : LocalReady s contig n align write addrs) : LocalReady s contig' n align write addrs := by
  obtain ⟨ok, together, acquired, free⟩ := h
  exact ⟨ok, fun c => together (loose c), acquired, free⟩

/-- What a load of the scratchpad leaves when it has stepped its base, if its form asks for that. -/
theorem loadLocal_leaves {s : State} {r : RegName} {sh : LoadShape} {contig : Bool} {align : Nat} {addrs : List Word} {a : AR}
    (other : .a a ≠ r) (ready : LocalReady s contig sh.size align false addrs) (clean : ∀ w ∈ addrs, spmPoisoned s (keyAt s w) sh.size = false)
    (plain : sh ≠ .wit) (L : Nat) (step : Bool) (bytes : Nat) :
    ∃ t, loadLocal r sh L align contig addrs none s (fun s => .next (postInc step a bytes s)) = .next t ∧
      Landed s t r (shapeVal sh (bytesAt s sh.size (addrs.map (keyAt s)))) L ∧ Stepped s t step a bytes ∧ t.spm = s.spm ∧
      MemOpLeaves (r :: postReg step a) s t := by
  obtain ⟨u, run, made, -⟩ := loadLocal_made ready clean plain r L none fun s => .next (postInc step a bytes s)
  obtain ⟨landed, stepped, spm, leaves, -⟩ := made.postInc other step bytes
  exact ⟨_, run, landed, stepped, spm, leaves⟩

theorem needFiles_user {s : State} (user : s.who.isSys = false) (k : State → Res) : needFiles s k = k s := by simp [needFiles, user]

/-! ## Witness loads (R178, R235, R236) -/

theorem readBytes_drop (m : Memory) (a o n : Nat) : (m.readBytes a (o + n)).drop o = m.readBytes (a + o) n := by
  induction o generalizing a with
  | zero => simp
  | succ o ih =>
    rw [show o + 1 + n = (o + n) + 1 by omega, Memory.readBytes, List.drop_succ_cons, ih, Nat.add_right_comm, Nat.add_assoc a o 1]

theorem readBytes_take (m : Memory) (a n o : Nat) : (m.readBytes a (n + o)).take n = m.readBytes a n := by
  induction n generalizing a with
  | zero => rfl
  | succ n ih =>
    rw [show n + 1 + o = (n + o) + 1 by omega, Memory.readBytes, List.take_succ_cons, ih, Memory.readBytes]

/-- n bytes at offset o of a range of l bytes. -/
theorem readBytes_piece (m : Memory) (a : Nat) {o n l : Nat} (h : o + n ≤ l) : natOf (((m.readBytes a l).drop o).take n) = m.readNat (a + o) n := by
  obtain ⟨r, rfl⟩ := Nat.exists_eq_add_of_le h
  rw [Nat.add_assoc, readBytes_drop, readBytes_take]
  rfl

theorem witOf_read (m : Memory) (k : Nat) : witOf (m.readBytes k 136) =
    ⟨Vector.ofFn fun i => BitVec.ofNat 16 (m.readNat (k + 2 * i.val) 2), BitVec.ofNat 32 (m.readNat (k + 128) 4)⟩ := by
  rw [witOf, readBytes_piece m k (by decide)]
  congr 2
  funext i
  rw [readBytes_piece m k (by omega)]

/-- The image of 136 bytes at k is good: its checksum is right, its tag has 28 bits, and a valid one names 1 to 7 entries. -/
def GoodImage (m : Memory) (k : Nat) : Prop :=
  let tag := m.readNat (k + 128) 4
  m.readNat (k + 132) 4 = (imageSum (m.readBytes k 132)).toNat ∧ tag < 2 ^ 28 ∧ (tag / 2 ^ 16 % 2 = 1 → 1 ≤ tag / 2 ^ 24 ∧ tag / 2 ^ 24 ≤ 7)

theorem imageSum_read (m : Memory) (k : Nat) : imageSum (m.readBytes k 136) = imageSum (m.readBytes k 132) := by
  rw [imageSum, imageSum, readBytes_take m k 132 4, readBytes_take m k 132 0]

theorem badImage_read (m : Memory) (k : Nat) : badImage (m.readBytes k 136) = true ↔ ¬ GoodImage m k := by
  unfold badImage GoodImage
  dsimp only
  rw [readBytes_piece m k (by decide), readBytes_piece m k (by decide), imageSum_read]
  simp only [Bool.or_eq_true, bne_iff_ne, Bool.and_eq_true, beq_iff_eq, decide_eq_true_eq, ne_eq]
  generalize m.readNat (k + 128) 4 = tag
  by_cases sum : m.readNat (k + 132) 4 = (imageSum (m.readBytes k 132)).toNat
  · simp only [sum, not_true_eq_false, false_or, true_and, bitsAt]
    omega
  · simp [sum]

/-- A local load that comes late and meets no poison, a witness's too (R53, R179, R236). -/
theorem performLocal_unpoisoned {sh : LoadShape} {keys : List Nat} {t : State} {ck : List (Nat × Nat)} {rk : Tbl (List (Nat × Nat))} {acq : Option Nat}
    (order : localOrder t.who acq sh.size keys t = reclocked ck rk t) (clean : ∀ k ∈ keys, spmPoisoned t k sh.size = false) (id : Nat)
    (d : RegName) (bundle : Word) : performLocal t.who id d sh keys acq bundle t =
      withFilled id (loadedVal d sh (bytesAt t sh.size keys) (reclocked ck rk t)) (reclocked ck rk t) := by
  have unpoisoned : (keys.find? fun k => spmPoisoned (reclocked ck rk t) k sh.size) = none :=
    List.find?_eq_none.2 fun k m => by rw [show spmPoisoned (reclocked ck rk t) k sh.size = false from clean k m]; exact Bool.false_ne_true
  unfold performLocal
  dsimp only
  rw [order, unpoisoned]
  exact fillLanding_own id _ (reclocked ck rk t)

theorem awaiting_onlyLoads (r : RegName) (b : RegVal) (L : Nat) (s : State) : OnlyLoads s (awaiting r b L s) :=
  OnlyLoads.trans (t := bump s) rfl (landWith_onlyLoads ..)

section Witness

variable {s : State} {align : Nat} {contig : Bool} {x : Word} (ready : LocalReady s contig 136 align false [x])
  (clean : spmPoisoned s (keyAt s x) 136 = false)
include ready clean

/-- A witness load brings what its image gives, and its fault where the image is bad (R236). -/
theorem loadLocal_witness (d : RegName) (L : Nat) (k : State → Res) :
    ∃ u v, loadLocal d .wit L align contig [x] none s k =
        k (imageFault s.who .wit (s.spm.readBytes (keyAt s x) 136) x.toNat s.ctx.sc u) ∧
      LoadMade d (loadedVal d .wit (s.spm.readBytes (keyAt s x) 136) v) L s u := by
  obtain ⟨ok, -, -, free⟩ := id ready
  have bytes {t : State} (same : t.spm = s.spm) : bytesAt t 136 [keyAt s x] = s.spm.readBytes (keyAt s x) 136 := by
    rw [bytesAt, List.flatMap_singleton, spmRead, same]
  unfold loadLocal
  rw [show LoadShape.wit.size = 136 from rfl, localAccess_ready ready]
  dsimp only
  rw [keys_eq (List.all_eq_true.1 ok), free, if_neg Bool.false_ne_true, List.map_singleton, show List.flatMap _ _ = _ from bytes rfl]
  split
  case isTrue near =>
    obtain ⟨ck, rk, order⟩ := localOrder_own none 136 [keyAt s x] s
    exact ⟨land d (loadedVal d .wit (s.spm.readBytes (keyAt s x) 136) (reclocked ck rk s)) L (reclocked ck rk s), reclocked ck rk s,
      by rw [order]; rfl, land_loadMade ⟨ck, rk, rfl⟩ ..⟩
  case isFalse far =>
    have only := awaiting_onlyLoads d (blankVal d) L s
    have who : (awaiting d (blankVal d) L s).who = s.who := by rw [only]
    have spm : (awaiting d (blankVal d) L s).spm = s.spm := by rw [only]
    have poison : (awaiting d (blankVal d) L s).spmPoison = s.spmPoison := by rw [only]
    have still : ∀ k ∈ [keyAt s x], spmPoisoned (awaiting d (blankVal d) L s) k 136 = false :=
      List.forall_mem_singleton.2 (by rw [spmPoisoned, poison]; exact clean)
    obtain ⟨ck, rk, order⟩ := localOrder_own none 136 [keyAt s x] (awaiting d (blankVal d) L s)
    have made := performLocal_unpoisoned (sh := .wit) order still (fresh s) d s.frame.base
    rw [who, show LoadShape.wit.size = 136 from rfl, bytes spm] at made
    exact ⟨_, _, congrArg (fun u => k (imageFault _ _ _ _ _ u)) made, withFilled_loadMade ⟨ck, rk, rfl⟩ _⟩

end Witness

/-- A fault that waits for its cycle stands apart from what a load steps. -/
theorem postInc_addLate (post : Bool) (a : AR) (n : Nat) (u : State) (f : LateFault) :
    postInc post a n (addLate u u.who f) = addLate (postInc post a n u) (postInc post a n u).who f := by
  simp only [addLate, modCtx_own]
  cases post <;> rfl

theorem postInc_late (post : Bool) (a : AR) (n : Nat) (u : State) : (postInc post a n u).ctx.late = u.ctx.late := by
  cases post <;> rfl

theorem execLdwt_reads {s : State} {d : WR} {a : AR} {post : Bool} {off : BitVec 12} (user : s.who.isSys = false) (feature : accepted s 4 = true)
    (hr : Ready [.a a] (.w d :: postReg post a) s) : execLdwt d a post off s =
      loadLocal (.w d) .wit 5 8 true [ea s a (offset off 8)] none s fun s => .next (postInc post a 136 s) := by
  rw [execLdwt, needFeature, if_pos feature, needFiles_user user, guardRegs_ready hr]

theorem shapeVal_bcast (s : State) (k : Nat) : shapeVal .bcast (bytesAt s 4 [k]) = .vec (Vector.replicate 64 (BitVec.ofNat 32 (s.spm.readNat k 4))) := by
  rw [bytesAt, List.flatMap_singleton, shapeVal, spmRead, readBytes_take s.spm k 4 0]
  rfl

theorem shapeVal_mask (s : State) (k : Nat) : shapeVal .mask (bytesAt s 8 [k]) = .word (BitVec.ofNat 64 (s.spm.readNat k 8)) := by
  rw [bytesAt, List.flatMap_singleton]
  rfl

section Reads

variable {s : State} {d : VR} {a : AR} {post : Bool} (user : s.who.isSys = false)
include user

theorem execLdv_reads (hr : Ready [.a a] (.v d :: postReg post a) s) (off : BitVec 12) : execLdv d a post off s =
    loadLocal (.v d) .vec 5 4 true ((List.finRange 64).map fun i => ea s a (offset off 256) + BitVec.ofNat 64 (4 * i.val)) none s fun s =>
      .next (postInc post a 256 s) := by
  rw [execLdv, needFiles_user user, guardRegs_ready hr, laneAddrs_words]

theorem execLdvs_reads {x : SR} (hr : Ready [.a a, .s x] (.v d :: postReg post a) s) (off : BitVec 7) : execLdvs d a post x off s =
    loadLocal (.v d) .vec 5 4 false ((List.finRange 64).map fun i => ea s a (offset off 256) + BitVec.ofNat 64 i.val * rdS s x) none s fun s =>
      .next (postInc post a 256 s) := by
  rw [execLdvs, needFiles_user user, guardRegs_ready hr, laneAddrs_eq]

theorem execLdvx_reads {vi : VR} (hr : Ready [.a a, .v vi] [.v d] s) (sc : Fin 4) : execLdvx d a vi sc s =
    loadLocal (.v d) .vec 5 4 false ((List.finRange 64).map fun i => ea s a 0 + BitVec.ofNat 64 ((rdV s vi)[i].toNat * 2 ^ sc.val)) none s
      .next := by
  rw [execLdvx, needFiles_user user, guardRegs_ready hr, indexAddrs_eq]

theorem execLdvb_reads (hr : Ready [.a a] (.v d :: postReg post a) s) (off : BitVec 12) : execLdvb d a post off s =
    loadLocal (.v d) .bcast 5 4 false [ea s a (offset off 4)] none s fun s => .next (postInc post a 4 s) := by
  rw [execLdvb, needFiles_user user, guardRegs_ready hr]

theorem execLdm_reads {d : MR} (hr : Ready [.a a] (.m d :: postReg post a) s) (off : BitVec 12) : execLdm d a post off s =
    loadLocal (.m d) .mask 4 8 false [ea s a (offset off 8)] none s fun s => .next (postInc post a 8 s) := by
  rw [execLdm, needFiles_user user, guardRegs_ready hr]

end Reads

/-- Settles O12: (a) by what a local load leaves (`loadLocal_leaves`), its lanes being those of `shapeVal_lanes`; (b) by what a witness load
brings (`loadLocal_witness`), good or bad by `badImage_read`. -/
theorem vectorAndWitnessLoads : Obligations.VectorAndWitnessLoads := by
  refine ⟨fun s d vi dm a x post off off7 sc user => ?vectors, fun s d a post off user feature hr => ?witness⟩
  case vectors =>
    intro word loads lanes
    have load {i : Instr} {contig contig' step : Bool} {r : RegName} {sh : LoadShape} {addrs : List Word} {v : RegVal} {L bytes : Nat}
        (other : .a a ≠ r) (plain : sh ≠ .wit) (loose : contig' = true → contig = true)
        (is : exec i s = loadLocal r sh L sh.size contig' addrs none s fun s => .next (postInc step a bytes s))
        (value : shapeVal sh (bytesAt s sh.size (addrs.map (keyAt s))) = v) : loads i contig step r sh.size addrs v L bytes := by
      intro ready clean
      rw [is, ← value]
      exact loadLocal_leaves other (localReady_loosen loose ready) clean plain L step bytes
    refine ⟨fun hr => ⟨?ldv, ?ldvb⟩, fun hr => ?ldvs, fun hr => ?ldvx, fun hr => ?ldm⟩
    case ldv => exact load (sh := .vec) nofun nofun id (execLdv_reads user hr off) (shapeVal_lanes s _)
    case ldvb => exact load (sh := .bcast) (contig' := false) nofun nofun nofun (execLdvb_reads user hr off) (shapeVal_bcast s _)
    case ldvs => exact load (sh := .vec) nofun nofun id (execLdvs_reads user hr off7) (shapeVal_lanes s _)
    case ldvx => exact load (step := false) (sh := .vec) nofun nofun id (execLdvx_reads user hr sc) (shapeVal_lanes s _)
    case ldm => exact load (sh := .mask) (contig' := false) nofun nofun nofun (execLdm_reads user hr off) (shapeVal_mask s _)
  case witness =>
    intro addr k tag chk good ready clean
    obtain ⟨u, v, run, made⟩ := loadLocal_witness ready clean (.w d) 5 fun s => .next (postInc post a 136 s)
    have is := (execLdwt_reads (off := off) user feature hr).trans run
    have who : u.who = s.who := by rw [made.only]
    have late : (postInc post a 136 u).ctx.late = s.ctx.late  := by
      rw [postInc_late, made.only]
    obtain ⟨landed, stepped, spm, leaves, -⟩ := made.postInc (a := a) nofun post 136
    refine ⟨fun fine => ?good, fun bad => ?bad⟩
    case good =>
      have passes : ¬ badImage (s.spm.readBytes k 136) = true := fun bad => (badImage_read ..).1 bad fine
      rw [imageFault, if_neg fun e => passes e.2] at is
      rw [loadedVal, if_neg fun e => passes e.2, shapeVal, witOf_read] at landed
      exact ⟨_, is, landed, stepped, late, spm, leaves⟩
    case bad =>
      have fails : badImage (s.spm.readBytes k 136) = true := (badImage_read ..).2 bad
      rw [imageFault, if_pos ⟨rfl, fails⟩, ← who, postInc_addLate, addLate, modCtx_own, BitVec.ofNat_toNat, BitVec.setWidth_eq] at is
      rw [loadedVal, if_pos ⟨rfl, fails⟩] at landed
      exact ⟨_, _, is, landed, by simp, congrArg (· ++ _) late, spm, leaves⟩

end Sys2Proof.Machine

namespace Sys2Proof.Machine

/-! ## What a local store leaves (R174–R178, R187, R194, R242, R267) -/

/-- A write that meets operations in flight moves the queues and tiles of cores and the operations of clusters; no access waits that did not. -/
structure OnlyMeets (s t : State) : Prop where
  rest : t = { s with cores := t.cores, clusters := t.clusters }
  waits : ∀ k, (coreOf t k).waits = (coreOf s k).waits

theorem OnlyMeets.trans {s t u : State} (h : OnlyMeets s t) (g : OnlyMeets t u) : OnlyMeets s u := by
  obtain ⟨ht, wt⟩ := h
  obtain ⟨hu, wu⟩ := g
  exact ⟨by rw [hu, ht], fun k => (wu k).trans (wt k)⟩

theorem OnlyMeets.foldl {α : Type} {f : State → α → State} (h : ∀ s a, OnlyMeets s (f s a)) (l : List α) (s : State) : OnlyMeets s (l.foldl f s) := by
  induction l generalizing s with
  | nil => exact ⟨rfl, fun _ => rfl⟩
  | cons a l ih => exact (h s a).trans (ih _)

theorem modCore_onlyMeets (s : State) (k : Nat) {f : Core → Core} (h : ∀ c, (f c).waits = c.waits) : OnlyMeets s (modCore s k f) := by
  refine ⟨rfl, fun j => ?_⟩
  by_cases same : j = k
  · rw [same, coreOf_modCore_self, h]
  · rw [coreOf_modCore_other s f same]

theorem meetLocal_onlyMeets (key n : Nat) (writer : Option Nat) (s : State) : OnlyMeets s (meetLocal key n writer s) := by
  refine OnlyMeets.trans (t := spoilCopies (key / coreBytes / 4) (meetsLocal key n) writer s) ?copies ?images
  case copies =>
    unfold spoilCopies
    dsimp only
    split
    · exact ⟨rfl, fun _ => rfl⟩
    · exact ⟨rfl, fun _ => rfl⟩
  case images =>
    rw [meetLocal]
    unfold spoilImages
    dsimp only
    split
    · exact ⟨rfl, fun _ => rfl⟩
    · refine OnlyMeets.trans (modCore_onlyMeets _ _ ?queue) (.foldl (fun s o => ?tile) _ _)
      case queue => exact fun _ => rfl
      case tile =>
        split
        · exact modCore_onlyMeets s _ fun _ => rfl
        · exact ⟨rfl, fun _ => rfl⟩

theorem OnlyMeets.unfilled {s t : State} (h : OnlyMeets s t) (c : CtxId) (key n : Nat) : unfilled t c key n = unfilled s c key n := by
  rw [h.rest]
  rfl

theorem OnlyMeets.mustWait {s t : State} (h : OnlyMeets s t) (c : CtxId) (n : Nat) (keys : List Nat) : mustWait t c n keys = mustWait s c n keys := by
  simp only [Machine.mustWait, h.unfilled, h.waits]

/-- Nothing but the scratchpads, the release list, what meets the write, and the running context's regions and clock differs. -/
def OnlyStores (s t : State) : Prop :=
  t = { s with cores := t.cores, clusters := t.clusters, releases := t.releases, spm := t.spm, spmPoison := t.spmPoison
               ctx := { s.ctx with regions := t.ctx.regions, clock := t.ctx.clock } }

theorem OnlyStores.trans {s t u : State} (h : OnlyStores s t) (g : OnlyStores t u) : OnlyStores s u := by
  unfold OnlyStores at *
  rw [g, h]

theorem OnlyStores.who {s t : State} (h : OnlyStores s t) : t.who = s.who := by rw [h]

theorem OnlyMeets.stores {s t : State} (h : OnlyMeets s t) : OnlyStores s t := by
  unfold OnlyStores
  rw [h.rest]

theorem OnlyStores.foldl {α : Type} {c : CtxId} {f : State → α → State} (h : ∀ s a, s.who = c → OnlyStores s (f s a)) (l : List α) {s : State}
    (run : s.who = c) : OnlyStores s (l.foldl f s) := by
  induction l generalizing s with
  | nil => exact rfl
  | cons a l ih => exact (h s a run).trans (ih ((h s a run).who.trans run))

theorem markDirty_onlyStores (p : Nat × Nat) (s : State) : OnlyStores s (markDirty s.who p s) ∧ (markDirty s.who p s).spm = s.spm ∧
    (markDirty s.who p s).releases = s.releases := by
  unfold markDirty
  split
  · split
    · split
      · rw [modCtx_own]; exact ⟨rfl, rfl, rfl⟩
      · exact ⟨rfl, rfl, rfl⟩
    · exact ⟨rfl, rfl, rfl⟩
  · exact ⟨rfl, rfl, rfl⟩

/-- The bytes of a range that the running context marks as stored. -/
def marked (c : CtxId) (key n : Nat) (s : State) : State :=
  (List.range n).foldl (fun s i => markDirty c ((key + i) / coreBytes, (key + i) % coreBytes) s) s

/-- What marking leaves: the scratchpads hold what they held, and so does the release list. -/
def OnlyMarks (s t : State) : Prop := OnlyStores s t ∧ t.spm = s.spm ∧ t.releases = s.releases

theorem OnlyMarks.foldl {α : Type} {c : CtxId} {f : State → α → State} (h : ∀ s a, s.who = c → OnlyMarks s (f s a)) (l : List α) {s : State}
    (run : s.who = c) : OnlyMarks s (l.foldl f s) := by
  induction l generalizing s with
  | nil => exact ⟨rfl, rfl, rfl⟩
  | cons a l ih =>
    obtain ⟨only, spm, rel⟩ := h s a run
    obtain ⟨only', spm', rel'⟩ := ih (only.who.trans run)
    exact ⟨only.trans only', spm'.trans spm, rel'.trans rel⟩

theorem marked_only (key n : Nat) (s : State) : OnlyMarks s (marked s.who key n s) :=
  .foldl (fun t _ run => by rw [← run]; exact markDirty_onlyStores ..) _ rfl

/-- One piece of a store with what it publishes. -/
def storePiece (c : CtxId) (ks : Tbl (List (Nat × Nat))) (s : State) (e : Nat × List Byte) : State :=
  putReleases c ks 0 (localWord e.1) e.2.length (forgetReleases 0 (localWord e.1) e.2.length { s with spm := s.spm.writeBytes e.1 e.2 })

theorem putReleases_only (c : CtxId) (ks : Tbl (List (Nat × Nat))) (home key n : Nat) (s : State) :
    putReleases c ks home key n s = { s with releases := (putReleases c ks home key n s).releases } := by
  unfold putReleases
  split <;> rfl

theorem storePiece_onlyStores (c : CtxId) (ks : Tbl (List (Nat × Nat))) (s : State) (e : Nat × List Byte) : OnlyStores s (storePiece c ks s e) := by
  rw [OnlyStores, storePiece, putReleases_only]
  rfl

theorem storePiece_spm (c : CtxId) (ks : Tbl (List (Nat × Nat))) (s : State) (e : Nat × List Byte) :
    (storePiece c ks s e).spm = s.spm.writeBytes e.1 e.2 := by
  rw [storePiece, putReleases_only]
  rfl

theorem storePieces_made (ps : List (Nat × List Byte)) (ks : Tbl (List (Nat × Nat))) (s : State) :
    OnlyStores s (storePieces s.who ps ks s) ∧ (storePieces s.who ps ks s).spm = ps.foldl (fun m e => m.writeBytes e.1 e.2) s.spm ∧
      (storePieces s.who ps ks s).releases = (ps.foldl (storePiece s.who ks) s).releases := by
  have pieces : OnlyStores s (ps.foldl (storePiece s.who ks) s) := .foldl (c := s.who) (fun t e _ => storePiece_onlyStores ..) ps rfl
  have spm : (ps.foldl (storePiece s.who ks) s).spm = ps.foldl (fun m e => m.writeBytes e.1 e.2) s.spm :=
    (List.foldl_hom State.spm fun t e => (storePiece_spm s.who ks t e).symm).symm
  have marks (t : State) (run : t.who = s.who) : OnlyMarks t (ps.foldl (fun t e => marked s.who e.1 e.2.length t) t) :=
    .foldl (fun t e run => by rw [← run]; exact marked_only ..) ps run
  obtain ⟨only, same, rel⟩ := marks { ps.foldl (storePiece s.who ks) s with
    spmPoison := (ps.foldl (storePiece s.who ks) s).spmPoison.filter fun g => !((List.range 8).all fun i => pieceHas ps (8 * g + i)) } pieces.who
  have cleared : OnlyStores (ps.foldl (storePiece s.who ks) s) { ps.foldl (storePiece s.who ks) s with
    spmPoison := (ps.foldl (storePiece s.who ks) s).spmPoison.filter fun g => !((List.range 8).all fun i => pieceHas ps (8 * g + i)) } := rfl
  exact ⟨(pieces.trans cleared).trans only, same.trans spm, rel⟩

/-- A memory after the pieces holds at each address the byte of the last piece that covers it. -/
theorem read_pieces {m : Memory} (wf : m.wf = true) (ps : List (Nat × List Byte)) (k : Nat) :
    (ps.foldl (fun m e => m.writeBytes e.1 e.2) m).read k = (pieceByte ps k).getD (m.read k) := by
  have canonical (ps : List (Nat × List Byte)) : (ps.foldl (fun m e => m.writeBytes e.1 e.2) m).wf = true := by
    induction ps using List.reverseRecOn with
    | nil => exact wf
    | append_singleton ps e ih => rw [List.foldl_concat]; exact writeBytes_wf _ _ ih
  induction ps using List.reverseRecOn with
  | nil => rfl
  | append_singleton ps e ih =>
    rw [List.foldl_concat, read_writeBytes (canonical ps), ih, show pieceByte (ps ++ [e]) k = _ from List.foldl_concat ..]
    split <;> rfl

theorem leBytes_eq (n x : Nat) : leBytes n x = bytesOf n x := by
  refine List.ext_getElem (by simp [leBytes, bytesOf_length]) fun i h _ => ?_
  have hi : i < n := by simpa [leBytes] using h
  have byte := bytesOf_getD hi x
  rw [List.getD_eq_getElem _ _ (by rwa [bytesOf_length])] at byte
  simp [leBytes, byte]

/-- Nothing but what accesses of the scratchpads move differs: their bytes and the release list, what meets a write, and of the running
context its landings, regions and clocks. -/
def OnlyAccess (s t : State) : Prop :=
  t = { s with serial := t.serial, frame := { s.frame with dup := t.frame.dup }, cores := t.cores, clusters := t.clusters, releases := t.releases
               spm := t.spm, spmPoison := t.spmPoison
               ctx := { s.ctx with lands := t.ctx.lands, regions := t.ctx.regions, clock := t.ctx.clock, readClock := t.ctx.readClock } }

theorem OnlyAccess.trans {s t u : State} (h : OnlyAccess s t) (g : OnlyAccess t u) : OnlyAccess s u := by
  unfold OnlyAccess at *
  rw [g, h]

theorem OnlyStores.access {s t : State} (h : OnlyStores s t) : OnlyAccess s t := by
  unfold OnlyAccess
  rw [h]

theorem OnlyLoads.access {s t : State} (h : OnlyLoads s t) : OnlyAccess s t := by
  unfold OnlyAccess
  rw [h]

theorem OnlyAccess.leaves {s t : State} (h : OnlyAccess s t) : t.who = s.who ∧ SameFiles s t ∧ SameSpecials s t ∧ t.mem = s.mem ∧ t.rom = s.rom := by
  rw [h]
  simp [SameFiles, SameSpecials]

section Store

variable {s u : State} (h : OnlyStores s u)
include h

theorem OnlyStores.rdBase (a : AR) : rdBase u a = rdBase s a := by
  rw [h]
  rfl

/-- What a store leaves when it has stepped its base, if its form asks for that (R104, R134). -/
theorem OnlyStores.postInc (post : Bool) (a : AR) (n : Nat) :
    Stepped s (postInc post a n u) post a n ∧ MemOpLeaves (postReg post a) s (postInc post a n u) ∧ (postInc post a n u).spm = u.spm := by
  have lands : u.ctx.lands = s.ctx.lands := by rw [h]
  cases post with
  | false =>
    obtain ⟨who, files, specials, mem, rom⟩ := h.access.leaves
    exact ⟨nofun, ⟨who, files, specials, fun l m _ _ => lands ▸ m, mem, rom⟩, rfl⟩
  | true =>
    have sc : u.ctx.sc = s.ctx.sc := by rw [h]
    have exposed : exposed u (.a a) = exposed s (.a a) := by rw [h]; rfl
    have written : written u (.a a) = written s (.a a) := by rw [h]; rfl
    have step := land_landed (.a a) (.base (Machine.rdBase u a + BitVec.ofNat 64 n)) 1 u
    rw [Landed, exposed, written, sc, h.rdBase] at step
    rw [show Machine.postInc true a n u = land (.a a) (.base (Machine.rdBase s a + BitVec.ofNat 64 n)) 1 u by rw [← h.rdBase]; rfl]
    have land := landWith_onlyLoads (.a a) (.base (Machine.rdBase s a + BitVec.ofNat 64 n)) 1 true 0 u
    obtain ⟨who, files, specials, mem, rom⟩ := (h.access.trans land.access).leaves
    exact ⟨fun _ => step, ⟨who, files, specials, fun l m o _ => lands ▸ land_landsOnly _ _ 1 u l m o, mem, rom⟩, land_spm ..⟩

end Store

/-- A store of the running context that is made when it has met what is in flight. -/
theorem performStore_made {s m : State} (met : OnlyMeets s m) (ps : List (Nat × List Byte)) (rel : Option Nat) :
    OnlyStores s (performStore (accOf s s.who) ps rel m) ∧
      (performStore (accOf s s.who) ps rel m).spm = ps.foldl (fun m e => m.writeBytes e.1 e.2) s.spm ∧
      (performStore (accOf s s.who) ps rel m).releases =
        (ps.foldl (storePiece s.who (carried s.ctx.relClock (rel.map fun scope => (scope, s.ctx.clock)))) m).releases := by
  have who : m.who = s.who := met.stores.who
  have spm : m.spm = s.spm := by rw [met.rest]
  have fences : (accOf s s.who).fences = s.ctx.relClock := by rw [accOf, getCtx_who]
  have clock : (accOf s s.who).clock = s.ctx.clock := by rw [accOf, getCtx_who]
  obtain ⟨only, bytes, rel⟩ := storePieces_made ps (carried s.ctx.relClock (rel.map fun scope => (scope, s.ctx.clock))) m
  rw [performStore, fences, clock]
  rw [who] at only bytes rel
  exact ⟨met.stores.trans only, spm ▸ bytes, rel⟩

section Access

variable {s : State} {contig : Bool} {n align : Nat} {pairs : List (Word × List Byte)}

/-- The pieces that a store of these bytes at these addresses makes. -/
def piecesAt (s : State) (pairs : List (Word × List Byte)) : List (Nat × List Byte) := pairs.map fun e => (keyAt s e.1, e.2)

theorem pieces_eq (ok : ∀ a ∈ pairs.map (·.1), localOk s n align true a = true) :
    (((pairs.map (·.1)).filterMap fun a => localPlace s.who.coreNo a.toNat).zip (pairs.map (·.2))).map (fun e => (spmKey e.1, e.2)) = piecesAt s pairs := by
  have keys := keys_eq ok
  rw [show (fun e : (Nat × Nat) × List Byte => (spmKey e.1, e.2)) = Prod.map spmKey id from rfl, ← List.zip_map, keys, List.map_id, List.map_map,
    List.zip_map']
  rfl

/-- A store whose access goes on is made (R174–R178, R187). -/
theorem storeLocal_made (ready : LocalReady s contig n align true (pairs.map (·.1))) (rel : Option Nat) (k : State → Res) :
    ∃ m, OnlyMeets s m ∧
      (localAccess contig n align true (pairs.map (·.1)) s fun ps => storeLocal (ps.zip (pairs.map (·.2))) n rel s k) =
        k (performStore (accOf s s.who) (piecesAt s pairs) rel m) := by
  obtain ⟨ok, -, -, free⟩ := id ready
  have pieces := pieces_eq (List.all_eq_true.1 ok)
  have met : OnlyMeets s ((piecesAt s pairs).foldl (fun s e => meetLocal e.1 e.2.length none s) s) := .foldl (fun s e => meetLocal_onlyMeets ..) _ _
  have keys : (piecesAt s pairs).map (·.1) = (pairs.map (·.1)).map (keyAt s) := by simp [piecesAt]
  refine ⟨_, met, ?_⟩
  rw [localAccess_ready ready]
  unfold storeLocal
  dsimp only
  rw [pieces, keys, met.mustWait, free, if_neg Bool.false_ne_true]
  have acc : accOf ((piecesAt s pairs).foldl (fun s e => meetLocal e.1 e.2.length none s) s) s.who = accOf s s.who := by
    rw [met.rest]
    rfl
  rw [acc]

/-- What a plain store leaves (R174–R178). -/
theorem storeNear_leaves (wf : s.spm.wf = true) (ready : LocalReady s contig n align true (pairs.map (·.1))) (step : Bool) (a : AR) (k : Nat) :
    ∃ t, storeNear n align contig pairs s (fun t => .next (postInc step a k t)) = .next t ∧ SpmHolds (piecesAt s pairs) s t ∧
      Stepped s t step a k ∧ MemOpLeaves (postReg step a) s t := by
  obtain ⟨m, met, run⟩ := storeLocal_made ready none fun t => .next (postInc step a k t)
  obtain ⟨only, bytes, -⟩ := performStore_made met (piecesAt s pairs) none
  obtain ⟨stepped, leaves, same⟩ := only.postInc step a k
  refine ⟨_, run, fun k => ?_, stepped, leaves⟩
  rw [← read_pieces wf, ← bytes]
  exact congrArg (·.read k) same

end Access

/-! ## The stores (R174–R178, R235) -/

theorem lanePairs_eq (at_ : Fin 64 → Word) (v : Vec) :
    lanePairs ((List.finRange 64).map at_) v = (List.finRange 64).map fun i => (at_ i, leBytes 4 v[i].toNat) := by
  rw [lanePairs, ← List.map_coe_finRange_eq_range, List.zip_map', List.map_map]
  refine List.map_congr_left fun i _ => ?_
  simp [laneBytes, leBytes_eq]

/-- The lanes that a mask names. -/
theorem maskedPairs_eq {α : Type} (f : Fin 64 → α) (mask : Word) :
    ((((List.finRange 64).map f).zip (List.range 64)).filter fun e => getBit mask e.2).map (·.1) =
      ((List.finRange 64).filter fun i => mask.getLsbD i.val).map f := by
  rw [← List.map_coe_finRange_eq_range, List.zip_map', List.filter_map, List.map_map]
  rfl

theorem witImage_eq (w : Wit) : witImage w = (w.entries.toList.flatMap (fun e => leBytes 2 e.toNat) ++ leBytes 4 w.tag.toNat) ++
    leBytes 4 (imageSum (w.entries.toList.flatMap (fun e => leBytes 2 e.toNat) ++ leBytes 4 w.tag.toNat)).toNat := by
  simp only [leBytes_eq]
  rfl

section Forms

variable {s : State} {a : AR} {post : Bool} (user : s.who.isSys = false)
include user

theorem storeScalar_stores {x : SR} (hr : Ready [.s x, .a a] (postReg post a) s) (n : Nat) (off : BitVec 12) : storeScalar n x a post off s =
    storeNear n n false [(ea s a (offset off n), leBytes n (rdS s x).toNat)] s fun t => .next (postInc post a n t) := by
  rw [storeScalar, guardRegs_ready hr, leBytes_eq]
  dsimp only
  rw [user, if_neg Bool.false_ne_true]
  rfl

theorem execStv_stores {v : VR} (hr : Ready [.v v, .a a] (postReg post a) s) (off : BitVec 12) : execStv v a post off s =
    storeNear 4 4 true ((List.finRange 64).map fun i => (ea s a (offset off 256) + BitVec.ofNat 64 (4 * i.val), leBytes 4 (rdV s v)[i].toNat)) s
      fun t => .next (postInc post a 256 t) := by
  rw [execStv, needFiles_user user, guardRegs_ready hr, laneAddrs_words, lanePairs_eq]

theorem execStvm_stores {v : VR} {m : MR} (hr : Ready [.v v, .a a, .m m] (postReg post a) s) (off : BitVec 9) : execStvm v a post m off s =
    storeNear 4 4 true (((List.finRange 64).filter fun i => (rdM s m).getLsbD i.val).map fun i =>
      (ea s a (offset off 256) + BitVec.ofNat 64 (4 * i.val), leBytes 4 (rdV s v)[i].toNat)) s fun t => .next (postInc post a 256 t) := by
  rw [execStvm, needFiles_user user, guardRegs_ready hr, laneAddrs_words, lanePairs_eq]
  dsimp only
  rw [maskedPairs_eq]

theorem execStvs_stores {v : VR} {x : SR} (hr : Ready [.v v, .a a, .s x] (postReg post a) s) (off : BitVec 7) : execStvs v a post x off s =
    storeNear 4 4 false ((List.finRange 64).map fun i => (ea s a (offset off 256) + BitVec.ofNat 64 i.val * rdS s x, leBytes 4 (rdV s v)[i].toNat)) s
      fun t => .next (postInc post a 256 t) := by
  rw [execStvs, needFiles_user user, guardRegs_ready hr, laneAddrs_eq, lanePairs_eq]

theorem execStvx_stores {v vi : VR} (hr : Ready [.v v, .a a, .v vi] [] s) (sc : Fin 4) : execStvx v a vi sc s =
    storeNear 4 4 false ((List.finRange 64).map fun i =>
      (ea s a 0 + BitVec.ofNat 64 ((rdV s vi)[i].toNat * 2 ^ sc.val), leBytes 4 (rdV s v)[i].toNat)) s .next := by
  rw [execStvx, needFiles_user user, guardRegs_ready hr, indexAddrs_eq, lanePairs_eq]

theorem execStm_stores {m : MR} (hr : Ready [.m m, .a a] (postReg post a) s) (off : BitVec 12) : execStm m a post off s =
    storeNear 8 8 false [(ea s a (offset off 8), leBytes 8 (rdM s m).toNat)] s fun t => .next (postInc post a 8 t) := by
  rw [execStm, needFiles_user user, guardRegs_ready hr, leBytes_eq]
  rfl

theorem execStwt_stores {w : WR} (feature : accepted s 4 = true) (hr : Ready [.w w, .a a] (postReg post a) s) (off : BitVec 12) :
    execStwt w a post off s = storeNear 136 8 true [(ea s a (offset off 8), if exposed s (.w w) then freeImage s w else witImage (rdW s w))] s
      fun t => .next (postInc post a 136 t) := by
  rw [execStwt, needFeature, if_pos feature, needFiles_user user, guardRegs_ready hr]

end Forms

/-! ## Releases of the scratchpad (R187, R295) -/

/-- A release of context number who at scope stands on word w of a home, and publishes what clock k has observed. -/
def Released (w home who scope : Nat) (k : List (Nat × Nat)) (l : List Release) : Prop :=
  ∃ r ∈ l, r.word = w ∧ r.home = home ∧ r.who = who ∧ r.scope = scope ∧ ∀ p, clockGet k p ≤ clockGet r.clock p

/-- One entry of a clock that joins another. -/
theorem clockGet_raise (k : List (Nat × Nat)) (e : Nat × Nat) (p : Nat) :
    clockGet (if (Tbl.get? k e.1).getD 0 < e.2 then Tbl.set k e.1 e.2 else k) p = if p = e.1 then max (clockGet k p) e.2 else clockGet k p := by
  by_cases same : p = e.1
  · subst same
    rw [if_pos rfl]
    split
    · rename_i less
      simp [clockGet, less.le]
    · rename_i least
      exact (max_eq_left (not_lt.1 least)).symm
  · rw [if_neg same]
    split
    · rw [clockGet, tbl_get_set_other _ _ same, clockGet]
    · rfl

theorem clockJoin_left (a b : List (Nat × Nat)) (p : Nat) : clockGet a p ≤ clockGet (clockJoin a b) p := by
  unfold clockJoin
  induction b generalizing a with
  | nil => exact le_rfl
  | cons e b ih =>
    refine le_trans ?_ (ih _)
    rw [clockGet_raise]
    split
    · exact le_max_left ..
    · exact le_rfl

theorem clockJoin_right (a b : List (Nat × Nat)) (p : Nat) : clockGet b p ≤ clockGet (clockJoin a b) p := by
  induction b generalizing a with
  | nil => exact Nat.zero_le _
  | cons e b ih =>
    rw [clockJoin, List.foldl_cons, ← clockJoin]
    by_cases same : e.1 = p
    · refine le_trans ?_ (clockJoin_left _ b p)
      rw [clockGet_raise, if_pos same.symm, clockGet, Tbl.get?, if_pos same]
      exact le_max_right ..
    · rw [clockGet, Tbl.get?, if_neg same]
      exact ih _

section Releases

variable {w home who scope : Nat} {k : List (Nat × Nat)} {l : List Release}

theorem addRelease_released (w home who scope : Nat) (k : List (Nat × Nat)) (l : List Release) :
    Released w home who scope k (addRelease w home who (scope, k) l) := by
  unfold addRelease
  dsimp only
  split
  case isTrue known =>
    obtain ⟨r, m, same⟩ := List.any_eq_true.1 known
    have names := same
    simp only [Bool.and_eq_true, beq_iff_eq] at names
    obtain ⟨⟨⟨word, at_⟩, by_⟩, scope_⟩ := names
    exact ⟨_, List.mem_map_of_mem m, by rw [if_pos same]; exact ⟨word, at_, by_, scope_, clockJoin_right r.clock k⟩⟩
  case isFalse new => exact ⟨_, List.mem_append_right _ List.mem_cons_self, rfl, rfl, rfl, rfl, fun _ => le_rfl⟩

/-- What is published stays on its word when another release joins the list. -/
theorem Released.addRelease (h : Released w home who scope k l) (v other by_ : Nat) (e : Nat × List (Nat × Nat)) :
    Released w home who scope k (addRelease v other by_ e l) := by
  obtain ⟨r, m, word, at_, mine, scope_, seen⟩ := h
  unfold Machine.addRelease
  dsimp only
  split
  · refine ⟨_, List.mem_map_of_mem m, ?_⟩
    split
    · exact ⟨word, at_, mine, scope_, fun p => (seen p).trans (clockJoin_left ..)⟩
    · exact ⟨word, at_, mine, scope_, seen⟩
  · exact ⟨r, List.mem_append_left _ m, word, at_, mine, scope_, seen⟩

theorem Released.weaken {k' : List (Nat × Nat)} (h : Released w home who scope k l) (less : ∀ p, clockGet k' p ≤ clockGet k p) :
    Released w home who scope k' l := by
  obtain ⟨r, m, word, at_, mine, scope_, seen⟩ := h
  exact ⟨r, m, word, at_, mine, scope_, fun p => (less p).trans (seen p)⟩

end Releases

/-- A fold whose steps keep a property has it once one of its steps brings it. -/
theorem foldl_brings {α β : Type} {P : β → Prop} {f : β → α → β} (keeps : ∀ b a, P b → P (f b a)) {a : α} (brings : ∀ b, P (f b a)) {l : List α}
    (m : a ∈ l) (b : β) : P (l.foldl f b) := by
  induction l generalizing b with
  | nil => cases m
  | cons x l ih =>
    rcases List.mem_cons.1 m with rfl | m
    · exact List.foldlRecOn l f (brings b) fun b h a _ => keeps b a h
    · exact ih m _

theorem tbl_mem_of_get {α : Type} {t : Tbl α} {i : Nat} {x : α} (h : Tbl.get? t i = some x) : (i, x) ∈ t := by
  induction t with
  | nil => cases h
  | cons e t ih =>
    rw [Tbl.get?] at h
    split at h
    · rename_i same
      cases h
      exact same ▸ List.mem_cons_self
    · exact List.mem_cons_of_mem _ (ih h)

/-- What a context carries at a scope stands on every word of the bytes on which it publishes. -/
theorem putReleases_released (c : CtxId) {ks : Tbl (List (Nat × Nat))} {scope : Nat} {k : List (Nat × Nat)} (carries : Tbl.get? ks scope = some k)
    (home : Nat) {key n w : Nat} (word : w ∈ wordsIn key n) (s : State) : Released w home c.num scope k (putReleases c ks home key n s).releases := by
  have held := tbl_mem_of_get carries
  unfold putReleases
  rw [if_neg (by simpa using List.ne_nil_of_mem held)]
  refine foldl_brings (P := Released w home c.num scope k) (fun l v h => ?keeps) (fun l => ?brings) word _
  case keeps => exact List.foldlRecOn ks _ h fun l h e _ => h.addRelease ..
  case brings =>
    exact foldl_brings (P := Released w home c.num scope k) (f := fun l e => addRelease w home c.num e l) (fun l e h => h.addRelease ..)
      (addRelease_released w home c.num scope k) held l

theorem first_wordsIn (key : Nat) {n : Nat} (pos : 0 < n) : key ∈ wordsIn key n :=
  List.mem_map.2 ⟨0, List.mem_range.2 (by omega), rfl⟩

section Strl

variable {s : State} {x : SR} {a : AR} {size scope : Fin 8} {n : Nat} (user : s.who.isSys = false) (hr : Ready [.s x, .a a] [] s) (near : scope.val < 3)
  (wide : 4 ≤ size.val) (shape : storeSize size = some n) (ready : LocalReady s false n n true [ea s a 0])
include user hr near wide shape ready

theorem execStrl_near : execStrl x a size scope s =
    if !releaseReady s s.who scope.val then stall s
    else localAccess false n n true [ea s a 0] s fun ps => storeLocal (ps.zip [lowBytes n (rdS s x)]) n (some scope.val) s fun t =>
      .next (modCtx t s.who fun y => clockTick y s.who) := by
  unfold execStrl
  rw [if_neg (by omega), shape]
  dsimp only
  rw [if_neg (by omega), guardRegs_ready hr, if_neg (by simp [user]; omega), localAccess_ready ready, localAccess_ready ready]

/-- An STRL of scope below DIE that may be made stores its bytes, and publishes what its context has observed (R187). -/
theorem execStrl_local (wf : s.spm.wf = true) (pos : 0 < n) (may : releaseReady s s.who scope.val = true) :
    ∃ t, execStrl x a size scope s = .next t ∧ SpmHolds [(keyAt s (ea s a 0), leBytes n (rdS s x).toNat)] s t ∧ MemOpLeaves [] s t ∧
      Released (localWord (keyAt s (ea s a 0))) 0 s.who.num scope.val s.ctx.clock t.releases := by
  obtain ⟨m, met, run⟩ := storeLocal_made (pairs := [(ea s a 0, lowBytes n (rdS s x))]) ready (some scope.val) fun t =>
    .next (modCtx t s.who fun y => clockTick y s.who)
  obtain ⟨made, bytes, published⟩ := performStore_made met (piecesAt s [(ea s a 0, lowBytes n (rdS s x))]) (some scope.val)
  rw [modCtx_running made.who] at run
  have ticked : OnlyStores s { performStore (accOf s s.who) (piecesAt s [(ea s a 0, lowBytes n (rdS s x))]) (some scope.val) m with
    ctx := clockTick (performStore (accOf s s.who) (piecesAt s [(ea s a 0, lowBytes n (rdS s x))]) (some scope.val) m).ctx s.who } := made.trans rfl
  obtain ⟨-, leaves, -⟩ := ticked.postInc false a 0
  refine ⟨_, ?_, fun k => ?_, leaves, ?_⟩
  · rw [execStrl_near user hr near wide shape ready, may]
    exact run
  · rw [leBytes_eq, ← read_pieces wf]
    exact congrArg (·.read k) bytes
  · have put := putReleases_released s.who (tbl_get_set_self s.ctx.relClock scope.val (clockJoin ((Tbl.get? s.ctx.relClock scope.val).getD []) s.ctx.clock))
      0 (first_wordsIn (localWord (keyAt s (ea s a 0))) pos) (forgetReleases 0 (localWord (keyAt s (ea s a 0))) n
        { m with spm := m.spm.writeBytes (keyAt s (ea s a 0)) (lowBytes n (rdS s x)) })
    have length : (lowBytes n (rdS s x)).length = n := bytesOf_length ..
    have seen := put.weaken (clockJoin_right ((Tbl.get? s.ctx.relClock scope.val).getD []) s.ctx.clock)
    refine (congrArg (Released _ 0 _ _ _) (published.trans ?_)).mpr seen
    rw [piecesAt, List.map_singleton, List.foldl_cons, List.foldl_nil, storePiece, length]
    rfl

end Strl

/-- Settles O13: (a) by what a plain store leaves (`storeNear_leaves`), each form being a store of its pieces; (b) by `execStrl_local`. -/
theorem localStoresAndReleases : Obligations.LocalStoresAndReleases := by
  refine ⟨fun s x v vi m w a post off off9 off7 sc user wf => ?stores, fun s x a size scope user wf hr near e me code => ?releases⟩
  case stores =>
    intro stores scalar lane contig
    have store {i : Instr} {at_ at' step : Bool} {n align bytes : Nat} {ps : List (Word × List Byte)} (loose : at' = true → at_ = true)
        (is : exec i s = storeNear n align at' ps s fun t => .next (postInc step a bytes t)) : stores i at_ step n align ps bytes := by
      intro ready
      obtain ⟨t, run, holds, stepped, leaves⟩ := storeNear_leaves wf (localReady_loosen loose ready) step a bytes
      exact ⟨t, is.trans run, holds, stepped, leaves⟩
    refine ⟨fun hr => ?scalar, fun hr => ?stv, fun hr => ?stvm, fun hr => ?stvs, fun hr => ?stvx, fun hr => ?stm, fun hr feature => ?stwt⟩
    case scalar =>
      exact ⟨store (at' := false) nofun (storeScalar_stores user hr 1 off), store (at' := false) nofun (storeScalar_stores user hr 2 off),
        store (at' := false) nofun (storeScalar_stores user hr 4 off), store (at' := false) nofun (storeScalar_stores user hr 8 off)⟩
    case stv => exact store id (execStv_stores user hr off)
    case stvm => exact store id (execStvm_stores user hr off9)
    case stvs => exact store id (execStvs_stores user hr off7)
    case stvx => exact store (step := false) id (execStvx_stores user hr sc)
    case stm => exact store (at' := false) nofun (execStm_stores user hr off)
    case stwt =>
      have is := execStwt_stores user feature hr off
      refine ⟨fun landed => ?image, fun free => ⟨freeImage s w, by simp [freeImage], store id ?free⟩⟩
      case image =>
        rw [landed, if_neg Bool.false_ne_true, witImage_eq] at is
        exact store id is
      case free =>
        rwa [free, if_pos rfl] at is
  case releases =>
    intro addr ready
    have shape : storeSize size = some e.2 ∧ 4 ≤ size.val ∧ 0 < e.2 := by
      simp only [List.mem_cons, List.not_mem_nil, or_false] at me
      rcases me with rfl | rfl
      · obtain rfl : size = 4 := Fin.ext code
        decide
      · obtain rfl : size = 6 := Fin.ext code
        decide
    obtain ⟨shape, wide, pos⟩ := shape
    refine ⟨fun may => execStrl_local user hr near wide shape ready wf pos may, fun must => ?_⟩
    exact (execStrl_near user hr near wide shape ready).trans (by rw [must]; rfl)

end Sys2Proof.Machine

namespace Sys2Proof.Machine

/-! ## Global accesses that go on (R170–R172, R463) -/

theorem globalCheck_none {align : Nat} {addrs : List Word} (h : ∀ a ∈ addrs, a.toNat < 2 ^ 56 ∧ a.toNat % align = 0) :
    globalCheck align addrs = none := by
  induction addrs with
  | nil => rfl
  | cons a rest ih =>
    obtain ⟨low, aligned⟩ := h a List.mem_cons_self
    rw [globalCheck, if_neg (Nat.not_le.2 low), if_neg (not_not.2 aligned)]
    exact ih fun b m => h b (List.mem_cons_of_mem _ m)

section Touch

variable {s : State} {n align : Nat} {addrs : List Word}

theorem globalTouch_ready {kinds : List Bool} (places : ∀ a ∈ addrs, a.toNat < 2 ^ 56 ∧ a.toNat % align = 0)
    (unwatched : ∀ w ∈ kinds, ∀ a ∈ addrs, watched s true w n a.toNat = none) (acquired : acquirePending s = false) (k : Res) :
    globalTouch n align kinds addrs s k = k := by
  have met : (addrs.map fun a => (a.toNat, a.toNat)).findSome?
      (fun a => kinds.findSome? fun w => (watched s true w n a.1).map fun i => (i, a.2)) = none := by
    refine List.findSome?_eq_none_iff.2 fun e m => List.findSome?_eq_none_iff.2 fun w mw => ?_
    obtain ⟨a, ma, rfl⟩ := List.mem_map.1 m
    rw [unwatched w mw a ma]
    rfl
  unfold globalTouch watchKinds
  rw [globalCheck_none places, met, acquired]
  rfl

theorem globalAccess_ready {write : Bool} (h : GlobalReady s n align write addrs) (k : Res) : globalAccess n align write addrs s k = k := by
  obtain ⟨places, unwatched, acquired⟩ := h
  exact globalTouch_ready places (fun w mw a ma => by rw [List.mem_singleton.1 mw, unwatched a ma]) acquired k

end Touch

/-! ## What a global read gives (R180–R182) -/

theorem bounced_length (s : State) (task : Nat) (asid : BitVec 16) (va key : Nat) (bs : List (Byte × Bool)) :
    (bounced s task asid va key bs).length = bs.length := by
  unfold bounced
  split
  · rfl
  · simp

theorem readPage_length {a : Acc} {home exempt : Bool} {va n : Nat} {s u : State} {bs : List (Byte × Bool)}
    (h : readPage a home exempt va n s = .ok u bs) : bs.length = n := by
  unfold readPage at h
  split at h
  · split at h <;> cases h
  · split at h <;> cases h
  · cases h
  · cases h
  · split at h
    case isTrue replay => cases h; simp [replayBytes]
    case isFalse live =>
      split at h
      · split at h <;> cases h
      · split at h
        case h_1 race => cases h
        case h_2 free =>
          dsimp only at h
          split at h
          · cases h
          · cases h; simp [ownBytes]
          · cases h; simp [bounced_length, viewBytes]

theorem readLines_length (a : Acc) (home exempt : Bool) (fuel va n : Nat) {s u : State} {bs : List (Byte × Bool)}
    (h : readLines a home exempt fuel va n s = .ok u bs) : bs.length ≤ n := by
  induction fuel generalizing va n s bs with
  | zero => cases h; exact Nat.zero_le _
  | succ fuel ih =>
    unfold readLines at h
    dsimp only at h
    split at h
    · cases h; exact Nat.zero_le _
    · split at h
      case h_1 page =>
        split at h
        case h_1 rest =>
          cases h
          have first := readPage_length page
          have others := ih _ _ rest
          rw [List.length_append]
          omega
        case h_2 no => exact absurd h (no _ _)
      case h_2 no => exact absurd h (no _ _)

theorem readGlobal_length {a : Acc} {home exempt : Bool} {va n : Nat} {s u : State} {bs : List Byte}
    (h : readGlobal a home exempt va n s = .ok u bs) : bs.length ≤ n := by
  unfold readGlobal at h
  split at h
  case h_1 read =>
    split at h
    · cases h
    · cases h
      rw [List.length_map]
      exact readLines_length a home exempt _ va n read
  all_goals cases h

theorem readForwarded_length {a : Acc} {sync : Bool} {va n : Nat} {s u : State} {bs : List Byte}
    (h : readForwarded a sync va n s = .ok u bs) : bs.length ≤ n := by
  unfold readForwarded at h
  generalize (if a.who.isSys then _ else _) = serves at h
  obtain ⟨need, es⟩ := serves
  dsimp only at h
  split at h
  case isTrue empty => exact readGlobal_length h
  case isFalse served =>
    split at h
    case h_1 =>
      split at h
      · cases h
      · cases h; simp
    all_goals cases h

theorem readElems_length {a : Acc} {sync : Bool} {n va : Nat} {s u : State} {bs : List Byte}
    (h : readElems a sync n [va] s = .ok u bs) : bs.length ≤ n := by
  unfold readElems at h
  split at h
  case h_1 read =>
    rw [readElems] at h
    cases h
    rw [List.append_nil]
    exact readForwarded_length read
  case h_2 no => exact absurd h (no _ _)

theorem shapeVal_word {n : Nat} (pos : 0 < n) (small : n ≤ 8) (signed : Bool) {bs : List Byte} (short : bs.length ≤ n) :
    shapeVal (.scalar n signed) bs = .word (scalarWord n signed (natOf bs)) := by
  have low : natOf bs < 2 ^ (8 * n) := (natOf_lt bs).trans_le (Nat.pow_le_pow_right (by decide) (by omega))
  rw [scalarWord, ← signExt_eq pos small low]
  rfl

theorem readLoad_ok {a : Acc} {sync : Bool} {n : Nat} {vas : List Nat} {s u : State} {bs : List Byte}
    (h : readElems a sync n vas s = .ok u bs) : readLoad a sync n vas s = .ok u (bs, none) := by
  unfold readLoad
  rw [h]

theorem readLoad_serviced {a : Acc} {sync : Bool} {n : Nat} {vas : List Nat} {s u : State} {c : BitVec 8} {va : Nat}
    (h : readElems a sync n vas s = .serviced u c va) : readLoad a sync n vas s = .serviced u c va := by
  unfold readLoad
  rw [h]

section LoadAny

variable {s u : State} {sh : LoadShape} {align : Nat} {addrs : List Word} {acq : Option Nat} (ready : GlobalReady s sh.size align false addrs)
include ready

/-- A global load of a compute core with a free unit brings what its accesses find (R180). -/
theorem loadAny_user {bs : List Byte} (user : s.who.isSys = false) (free : isHeld s s.who = false)
    (read : readElems (accOf s s.who) acq.isSome sh.size (addrs.map BitVec.toNat) (bump s) = .ok u bs) (d : RegName) (L : Nat) (k : State → Res) :
    loadAny d sh L align addrs acq s k = k (loadOrder (accOf s s.who) acq sh.size (addrs.map BitVec.toNat)
      (landWith d (shapeVal sh bs) L false (fresh s) u)) := by
  have unheld : isHeld (bump s) (accOf s s.who).who = false := free
  rw [loadAny, globalAccess_ready ready, user, if_neg Bool.false_ne_true]
  unfold loadGlobal
  dsimp only
  rw [unheld, if_neg Bool.false_ne_true, readLoad_ok read]

section System

variable (system : s.who.isSys = true)
include system

theorem loadAny_sys {bs : List Byte} (read : readElems (accOf s s.who) acq.isSome sh.size (addrs.map BitVec.toNat) s = .ok u bs) (d : RegName) (L : Nat)
    (k : State → Res) : loadAny d sh L align addrs acq s k =
      k (loadOrder (accOf s s.who) acq sh.size (addrs.map BitVec.toNat) (land d (shapeVal sh bs) L u)) := by
  rw [loadAny, globalAccess_ready ready, if_pos system]
  unfold loadSys
  dsimp only
  rw [readLoad_ok read]

theorem loadAny_fault {c : BitVec 8} {va : Nat} (read : readElems (accOf s s.who) acq.isSome sh.size (addrs.map BitVec.toNat) s = .serviced u c va)
    (d : RegName) (L : Nat) (k : State → Res) : loadAny d sh L align addrs acq s k = trapAt 15 c (BitVec.ofNat 64 va) u := by
  rw [loadAny, globalAccess_ready ready, if_pos system]
  unfold loadSys
  dsimp only
  rw [readLoad_serviced read]
  rfl

end System

end LoadAny

/-- The size codes of loads (R111). -/
theorem sizeShape_scalar : ∀ size : Fin 8, ∀ e ∈ [(0, 1, true), (1, 1, false), (2, 2, true), (3, 2, false), (4, 4, true), (5, 4, false), (6, 8, true)],
    size.val = e.1 → sizeShape size = some (.scalar e.2.1 e.2.2) ∧ 0 < e.2.1 ∧ e.2.1 ≤ 8 := by decide

section Ldaq

variable {s : State} {d : SR} {a : AR} {size scope : Fin 8}

theorem execLdaq_global {sh : LoadShape} (hr : Ready [.a a] [.s d] s) (shape : sizeShape size = some sh) (wide : 4 ≤ size.val) (far : 3 ≤ scope.val)
    (named : scope.val < 7) (logless : inLog s s.who = false) (ready : GlobalReady s sh.size sh.size false [ea s a 0]) :
    execLdaq d a size scope s = loadAny (.s d) sh 4 sh.size [ea s a 0] (some scope.val) s .next := by
  unfold execLdaq
  rw [shape]
  dsimp only
  rw [if_neg (by omega), guardRegs_ready hr, if_pos (.inl far), globalAccess_ready ready, logless]
  rfl

theorem execLdaq_reserved (h : size.val < 4 ∨ size.val = 7 ∨ scope.val = 7) : execLdaq d a size scope s = reserved s := by
  unfold execLdaq
  split
  case h_1 => rfl
  case h_2 shape =>
    have known : size.val ≠ 7 := fun seven => by
      obtain rfl : size = 7 := Fin.ext seven
      cases shape
    exact if_pos (h.imp_right fun h => h.resolve_left known)

end Ldaq

/-- Settles O14: a load of a free unit brings what its accesses find (`loadAny_user`), a scalar's bytes as the number of its size
(`readElems_length`, `shapeVal_word`). -/
theorem globalLoads : Obligations.GlobalLoads := by
  intro s u d dv a size scope off off12 post bs user free who gives ext sized
  have load {i : Instr} {r : RegName} {sh : LoadShape} {L n : Nat} {addrs : List Word} {acq : Option Nat} {v : RegVal} {k : State → State}
      (whole : sh.size = n) (is : GlobalReady s n n false addrs → exec i s = loadAny r sh L n addrs acq s fun t => .next (k t))
      (value : readElems who acq.isSome n (addrs.map BitVec.toNat) (bump s) = .ok u bs → shapeVal sh bs = v) : gives i r L n addrs acq v k := by
    subst whole
    intro ready read
    rw [is ready, ← value read]
    exact loadAny_user ready user free read r L _
  refine ⟨fun hr e me code => ?scalars, fun hr => ?vector, fun wide => ?ldgReserved, fun wrong => ?ldaqReserved⟩
  case scalars =>
    obtain ⟨shape, pos, small⟩ := sizeShape_scalar size e me code
    refine ⟨load rfl (fun _ => ?ldg) fun read => shapeVal_word pos small e.2.2 (readElems_length read),
      fun wide far named logless => load rfl (fun ready => ?ldaq) fun read => shapeVal_word pos small e.2.2 (readElems_length read)⟩
    case ldg =>
      show execLdg d a size off s = _
      unfold execLdg
      rw [shape]
      exact guardRegs_ready hr _
    case ldaq => exact execLdaq_global hr shape wide far named logless ready
  case vector =>
    refine load (sh := .vec) rfl (fun _ => ?_) fun _ => rfl
    show execLdgv dv a post off12 s = _
    rw [execLdgv, needFiles_user user, guardRegs_ready hr, laneAddrs_words]
  case ldgReserved =>
    obtain rfl : size = 7 := Fin.ext wide
    rfl
  case ldaqReserved => exact execLdaq_reserved wrong

/-! ## Accesses of a system core (R169, R170, R352, R360) -/

section SystemStores

variable {s u : State} {va : Nat} {bs : List Byte} {rel : Option (Nat × List (Nat × Nat))} {exempt : Bool} (system : s.who.isSys = true)
include system

theorem globalStore_sys (write : writeGlobal (accOf s s.who) true exempt va bs s = .ok u ()) (k : State → Res) :
    globalStore va bs exempt rel s k = k (meetGlobal (accOf s s.who) va bs.length none (storeOrder (accOf s s.who) va bs.length rel u)) := by
  have issuer : (accOf s s.who).who.isSys = true := system
  unfold globalStore
  dsimp only
  rw [if_pos issuer, write]

theorem globalStore_fault {c : BitVec 8} {v : Nat} (write : writeGlobal (accOf s s.who) true exempt va bs s = .serviced u c v) (k : State → Res) :
    globalStore va bs exempt rel s k = trapAt 15 c (BitVec.ofNat 64 v) s := by
  have issuer : (accOf s s.who).who.isSys = true := system
  unfold globalStore
  dsimp only
  rw [if_pos issuer, write]
  rfl

end SystemStores

section SystemForms

variable {s : State} {a : AR} {post : Bool} (system : s.who.isSys = true)
include system

theorem loadScalar_sys {d : SR} (hr : Ready [.a a] (.s d :: postReg post a) s) (n : Nat) (signed : Bool) (off : BitVec 12) :
    loadScalar n signed d a post off s = loadAny (.s d) (.scalar n signed) 4 n [ea s a (offset off n)] none s fun t => .next (postInc post a n t) := by
  rw [loadScalar, guardRegs_ready hr, loadNear, if_pos system]

theorem storeScalar_sys {x : SR} (hr : Ready [.s x, .a a] (postReg post a) s) {n : Nat} {off : BitVec 12}
    (ready : GlobalReady s n n true [ea s a (offset off n)]) : storeScalar n x a post off s =
      globalStore (ea s a (offset off n)).toNat (leBytes n (rdS s x).toNat) false none s fun t => .next (postInc post a n t) := by
  rw [storeScalar, guardRegs_ready hr, leBytes_eq]
  dsimp only
  rw [if_pos system, globalAccess_ready ready]
  rfl

end SystemForms

/-- Settles O16: a load goes on with what its accesses find or traps with their fault (`loadAny_sys`, `loadAny_fault`), a store with what
`writeGlobal` makes of it (`globalStore_sys`, `globalStore_fault`). -/
theorem systemCoreAccesses : Obligations.SystemCoreAccesses := by
  intro s u d x a post off bs c va system who loads signed stores
  have load (hr : Ready [.a a] (.s d :: postReg post a) s) {i : Instr} {n : Nat} (pos : 0 < n) (small : n ≤ 8) (sign : Bool)
      (is : exec i s = loadScalar n sign d a post off s) : loads i n (scalarWord n sign (natOf bs)) := by
    have go := is.trans (loadScalar_sys system hr n sign off)
    refine fun ready => ⟨fun read => ?_, fun read => go.trans (loadAny_fault (sh := .scalar n sign) (acq := none) ready system read ..)⟩
    rw [go, loadAny_sys (sh := .scalar n sign) (acq := none) ready system read, shapeVal_word pos small sign (readElems_length read)]
    rfl
  have store (hr : Ready [.s x, .a a] (postReg post a) s) {i : Instr} {n : Nat} (is : exec i s = storeScalar n x a post off s) : stores i n := by
    intro ready
    have go := is.trans (storeScalar_sys system hr ready)
    have length : (leBytes n (rdS s x).toNat).length = n := by rw [leBytes_eq, bytesOf_length]
    refine ⟨fun write => ?_, fun write => go.trans (globalStore_fault system write _)⟩
    rw [go, globalStore_sys system write, length]
  exact ⟨fun hr => ⟨load hr (by decide) (by decide) true rfl, load hr (by decide) (by decide) false rfl, load hr (by decide) (by decide) true rfl,
      load hr (by decide) (by decide) false rfl, load hr (by decide) (by decide) true rfl, load hr (by decide) (by decide) false rfl,
      load hr (by decide) (by decide) true rfl⟩,
    fun hr => ⟨store hr rfl, store hr rfl, store hr rfl, store hr rfl⟩⟩

/-! ## Global stores of a compute core (R180, R184, R187, R267) -/

section UserStores

variable {s u : State} {va : Nat} {bs : List Byte} {rel : Option (Nat × List (Nat × Nat))} {exempt : Bool} (user : s.who.isSys = false)
  (free : isHeld s s.who = false)
include user free

theorem globalStore_user (k : State → Res) (made : unitStore (accOf s s.who) va bs exempt rel s = some (.ok u ())) :
    globalStore va bs exempt rel s k = k (meetGlobal (accOf s s.who) va bs.length none u) := by
  have issuer : (accOf s s.who).who.isSys = false := user
  have unheld : isHeld s (accOf s s.who).who = false := free
  unfold globalStore
  dsimp only
  rw [issuer, if_neg Bool.false_ne_true, unheld, if_neg Bool.false_ne_true, made]

theorem globalStore_full (k : State → Res) (full : unitStore (accOf s s.who) va bs exempt rel s = none) : globalStore va bs exempt rel s k = stall s := by
  have issuer : (accOf s s.who).who.isSys = false := user
  have unheld : isHeld s (accOf s s.who).who = false := free
  unfold globalStore
  dsimp only
  rw [issuer, if_neg Bool.false_ne_true, unheld, if_neg Bool.false_ne_true, full]

end UserStores

theorem storeSize_bytes : ∀ size : Fin 8, ∀ e ∈ [(0, 1), (2, 2), (4, 4), (6, 8)], size.val = e.1 → storeSize size = some e.2 := by decide

theorem storeSize_odd : ∀ size : Fin 8, size.val % 2 = 1 → storeSize size = none := by decide

section GlobalStrl

variable {s : State} {x : SR} {a : AR} {size scope : Fin 8} {n : Nat}

/-- An STRL of DIE scope or wider stores when nothing of its context waits (R187). -/
theorem execStrl_global (hr : Ready [.s x, .a a] [] s) (shape : storeSize size = some n) (wide : 4 ≤ size.val) (far : 3 ≤ scope.val)
    (named : scope.val < 7) (may : releaseReady s s.who 2 = true) (idle : (coreOf s s.who.coreNo).waits = []) (free : isHeld s s.who = false)
    (quiet : 5 ≤ scope.val → ∀ r ∈ s.dev.outreqs, r.who ≠ s.who) (ready : GlobalReady s n n true [ea s a 0]) : execStrl x a size scope s =
      globalStore (ea s a 0).toNat (leBytes n (rdS s x).toNat) true (some (scope.val, s.ctx.clock)) s fun t =>
        .next (modCtx t s.who fun y => clockTick y s.who) := by
  have empty : (coreOf s s.who.coreNo).wback = [] := by
    simp only [isHeld, Bool.or_eq_false_iff] at free
    obtain ⟨⟨-, back⟩, -⟩ := free
    simpa using back
  have unsent : (decide (5 ≤ scope.val) && s.dev.outreqs.any fun r => r.who == s.who) = false := by
    simpa using quiet
  unfold execStrl
  rw [if_neg (by omega), shape]
  dsimp only
  rw [if_neg (by omega), guardRegs_ready hr, if_pos (.inl far), globalAccess_ready ready, may, idle, empty, leBytes_eq]
  simp [awaits, unsent, lowBytes]

theorem execStrl_reserved (h : size.val < 4 ∨ size.val % 2 = 1 ∨ scope.val = 7) : execStrl x a size scope s = reserved s := by
  unfold execStrl
  split
  case h_1 => rfl
  case h_2 shape =>
    refine if_pos ((h.resolve_left fun low => ?low).resolve_left fun odd => ?odd)
    case low => rw [if_pos low] at shape; cases shape
    case odd => rw [storeSize_odd size odd, ite_self] at shape; cases shape

end GlobalStrl

/-- Settles O15: a store of a free unit is what `unitStore` makes of it (`globalStore_user`, `globalStore_full`). -/
theorem globalStores : Obligations.GlobalStores := by
  intro s u x v a size scope off off12 post user free stores sized
  have store {i : Instr} {n : Nat} {addrs : List Word} {bs : List Byte} {exempt : Bool} {rel : Option (Nat × List (Nat × Nat))} {k : State → State}
      (is : GlobalReady s n n true addrs → exec i s = globalStore (addrs.headD 0).toNat bs exempt rel s fun t => .next (k t)) :
      stores i n addrs bs exempt rel k :=
    fun ready => ⟨fun made => (is ready).trans (globalStore_user user free _ made), fun full => (is ready).trans (globalStore_full user free _ full)⟩
  refine ⟨fun hr e me code => ?scalars, fun hr => store fun ready => ?vector, fun odd => ?stgReserved, execStrl_reserved⟩
  case scalars =>
    have shape := storeSize_bytes size e me code
    refine ⟨store fun ready => ?stg, fun wide far named may idle quiet => store (i := .strl x a size scope)
      (k := fun t => modCtx t s.who fun y => clockTick y s.who) fun ready => execStrl_global hr shape wide far named may idle free quiet ready⟩
    show execStg x a size off s = _
    unfold execStg
    rw [shape]
    dsimp only
    rw [guardRegs_ready hr, globalAccess_ready ready, leBytes_eq]
    rfl
  case vector =>
    have first : ((List.finRange 64).map fun i : Fin 64 => ea s a (offset off12 256) + BitVec.ofNat 64 (4 * i.val)).headD 0 =
        ea s a (offset off12 256) := BitVec.add_zero _
    show execStgv v a post off12 s = _
    rw [execStgv, needFiles_user user, guardRegs_ready hr, first]
    dsimp only
    rw [laneAddrs_words, globalAccess_ready ready]
    simp only [leBytes_eq]
  case stgReserved =>
    show execStg x a size off s = _
    unfold execStg
    rw [storeSize_odd size odd]
    rfl

end Sys2Proof.Machine

namespace Sys2Proof.Machine

/-! ## Local accesses under several watchpoint kinds (R463) -/

/-- A local access that passes its checks as a store and as a load goes on, whatever a watchpoint takes it for. -/
theorem localTouch_ready {s : State} {n align : Nat} {addrs : List Word} (write : LocalReady s false n align true addrs)
    (read : LocalReady s false n align false addrs) (kinds : List (Nat × Nat) → List Bool) (k : List (Nat × Nat) → Res) :
    localTouch false n align true kinds addrs s k = k (addrs.filterMap fun a => localPlace s.who.coreNo a.toNat) := by
  obtain ⟨okw, -, acquired, -⟩ := write
  obtain ⟨okr, -⟩ := read
  have okw : ∀ a ∈ addrs, localOk s n align true a = true := List.all_eq_true.1 okw
  have okr : ∀ a ∈ addrs, localOk s n align false a = true := List.all_eq_true.1 okr
  have faultless := laneFaults_none (core := none) fun a m => laneFault_none (okw a m) nofun
  have place {a : Word} (ma : a ∈ addrs) {p : Nat × Nat} (at_ : localPlace s.who.coreNo a.toNat = some p) (w : Bool) :
      watched s false w n (clusterLocal p) = none ∧ heldByTst s p n = false := by
    obtain ⟨q, atq, -, -, -, freeW, unheld⟩ := localOk_place (okw a ma)
    obtain ⟨r, atr, -, -, -, freeR, -⟩ := localOk_place (okr a ma)
    obtain rfl : p = q := Option.some.inj (at_.symm.trans atq)
    obtain rfl : p = r := Option.some.inj (at_.symm.trans atr)
    cases w
    · exact ⟨freeR, unheld⟩
    · exact ⟨freeW, unheld⟩
  have unwatched : ∀ e ∈ ((addrs.filterMap fun a => localPlace s.who.coreNo a.toNat).map clusterLocal).zip (addrs.map BitVec.toNat),
      ∀ w, watched s false w n e.1 = none := by
    intro e m w
    obtain ⟨p, mp, hp⟩ := List.mem_map.1 (List.of_mem_zip m).1
    obtain ⟨a, ma, at_⟩ := List.mem_filterMap.1 mp
    rw [← hp, (place ma at_ w).1]
  have unheld : ((addrs.filterMap fun a => localPlace s.who.coreNo a.toNat).any fun p => heldByTst s p n) = false := by
    refine List.any_eq_false.2 fun p mp => ?_
    obtain ⟨a, ma, at_⟩ := List.mem_filterMap.1 mp
    simp [(place ma at_ true).2]
  have met : (((addrs.filterMap fun a => localPlace s.who.coreNo a.toNat).map clusterLocal).zip (addrs.map BitVec.toNat)).findSome?
      (fun a => (kinds (addrs.filterMap fun a => localPlace s.who.coreNo a.toNat)).findSome? fun w =>
        (watched s false w n a.1).map fun i => (i, a.2)) = none :=
    List.findSome?_eq_none_iff.2 fun e m => List.findSome?_eq_none_iff.2 fun w _ => by rw [unwatched e m]; rfl
  unfold localTouch
  dsimp only
  rw [if_neg Bool.false_ne_true, faultless]
  unfold watchKinds
  dsimp only
  rw [met, acquired, unheld]
  simp [awaits]

/-! ## What the order of an atomic moves (R73, R188, R190, R295) -/

/-- A context beside its regions, its clocks and the faults that wait in it. -/
def besidesOrder (x : Ctx) : Ctx := { x with regions := Vector.replicate 16 none, clock := [], readClock := [], late := [] }

/-- From s to t the running context keeps its registers and landings, and the scratchpads and the boot ROM keep their bytes. -/
structure Orders (s t : State) : Prop where
  who : t.who = s.who
  spm : t.spm = s.spm
  rom : t.rom = s.rom
  ctx : besidesOrder t.ctx = besidesOrder s.ctx

namespace Orders

variable {s t u : State}

theorem refl (s : State) : Orders s s := ⟨rfl, rfl, rfl, rfl⟩

theorem trans (h : Orders s t) (g : Orders t u) : Orders s u := ⟨g.who.trans h.who, g.spm.trans h.spm, g.rom.trans h.rom, g.ctx.trans h.ctx⟩

theorem ite {p : Prop} [Decidable p] (h : Orders s t) (g : Orders s u) : Orders s (if p then t else u) := by
  split
  · exact h
  · exact g

theorem foldl {α : Type} {f : State → α → State} (h : ∀ s a, Orders s (f s a)) (l : List α) (s : State) : Orders s (l.foldl f s) := by
  induction l generalizing s with
  | nil => exact refl s
  | cons a l ih => exact (h s a).trans (ih _)

theorem of_keeps (h : KeepsContexts s t) : Orders s t := ⟨h.who, h.spm, h.rom, congrArg besidesOrder h.ctx⟩

theorem modCtx (s : State) (c : CtxId) {f : Ctx → Ctx} (h : ∀ x, besidesOrder (f x) = besidesOrder x) : Orders s (modCtx s c f) := by
  refine ⟨modCtx_who .., modCtx_spm .., modCtx_rom .., ?_⟩
  by_cases own : s.who = c
  · rw [modCtx_running own]
    exact h s.ctx
  · unfold Machine.modCtx setCtx
    rw [if_neg fun e => own e.symm]

theorem lands (h : Orders s t) : t.ctx.lands = s.ctx.lands := congrArg (fun x => x.lands) h.ctx

theorem files (h : Orders s t) : SameFiles s t := by
  have same := h.ctx
  simp only [besidesOrder, Ctx.mk.injEq] at same
  simp [SameFiles, same]

theorem specials (h : Orders s t) : SameSpecials s t := by
  have same := h.ctx
  simp only [besidesOrder, Ctx.mk.injEq] at same
  simp [SameSpecials, same]

end Orders

theorem crossing_orders (n : Fin 16) (c : Option CtxId) (work : Option Word) (s : State) : Orders s (crossing n c work s) := by
  have late (u : State) (c : CtxId) (f : LateFault) : Orders u (addLate u c f) := .modCtx u c fun _ => rfl
  unfold crossing
  dsimp only
  generalize hr : showTotal n (logRecord _ _ s) = q
  have base : Orders s q := hr ▸ .of_keeps ((logRecord_keeps ..).trans (showTotal_keeps ..))
  refine base.trans ?_
  split
  · exact .refl q
  · exact .of_keeps (modDev_keeps ..)
  · exact .of_keeps (hostSendAll_keeps ..)
  · split
    · split
      · exact .of_keeps (postCtx_keeps ..)
      · exact .refl q
      · exact .refl q
      · exact .refl q
      · exact late ..
    · exact late ..
  · exact .of_keeps (modDev_keeps ..)

theorem countWork_orders (c : CtxId) (bundle : Word) (ns : List Nat) (s : State) : Orders s (countWork c bundle ns s) := by
  refine .foldl (fun s n => ?_) ns s
  have counted (d : Dev) : Orders s (showTotal (Fin.ofNat 16 n) { s with dev := d }) :=
    .trans (t := { s with dev := d }) ⟨rfl, rfl, rfl, rfl⟩ (.of_keeps (showTotal_keeps ..))
  exact .ite (.refl s) (.ite (((counted _).trans (crossing_orders ..)).trans (.of_keeps (modDev_keeps ..))) (counted _))

theorem atomOrder_orders (a : Acc) (key w oc : Nat) (wrote : Bool) (s : State) : Orders s (atomOrder a key w oc wrote s) := by
  have read : Orders s (noteRead a.who key w s) := .ite (.refl s) (.modCtx s a.who fun _ => rfl)
  have word : Orders s (acquireWord a.who (2 * oc) key w s) := .ite (.refl s) (.modCtx s a.who fun _ => rfl)
  have acquired := word.trans (.of_keeps (acquireAt_keeps a.who (2 * oc) _))
  refine .ite (.refl s) (.ite ?plain ?ordered)
  case plain => exact .ite (read.trans (.of_keeps (putReleases_keeps ..))) read
  case ordered => exact .ite ((acquired.trans (.of_keeps (putReleases_keeps ..))).trans (.modCtx _ _ fun _ => rfl)) acquired

theorem markDirty_orders (c : CtxId) (p : Nat × Nat) (s : State) : Orders s (markDirty c p s) := by
  unfold markDirty
  split
  · split
    · exact .ite (.modCtx s c fun _ => rfl) (.refl s)
    · exact .refl s
  · exact .refl s

/-! ## Atomics of the scratchpad (R188–R190) -/

/-- The scratchpads after an atomic on w bytes at a key that has found old there. -/
def atomBytes (fn : AtomFn) (w key old : Nat) (v : Word) (m : Memory) : Memory :=
  if casFails fn w old then m else m.writeBytes key (bytesOf w (atomNew fn w old v.toNat).1)

/-- An atomic that meets no poison gives its landing the old value and leaves the new one. -/
theorem performAtomLocal_clean {s : State} {key w : Nat} (clean : spmPoisoned s key w = false) (a : Acc) (id : Nat) (fn : AtomFn) (v : Word) (oc : Nat) :
    Orders { fillLanding a.who id (.word (BitVec.ofNat 64 (s.spm.readNat key w))) s with
      spm := atomBytes fn w key (s.spm.readNat key w) v s.spm } (performAtomLocal a id fn w key v oc s) := by
  have spm : (fillLanding a.who id (.word (BitVec.ofNat 64 (s.spm.readNat key w))) s).spm = s.spm := modCtx_spm ..
  unfold performAtomLocal
  rw [clean, if_neg Bool.false_ne_true]
  dsimp only
  rw [show natOf (spmRead s key w) = s.spm.readNat key w from rfl, atomBytes]
  generalize fillLanding a.who id (.word (BitVec.ofNat 64 (s.spm.readNat key w))) s = f at spm ⊢
  split
  case isTrue fails =>
    rw [← spm]
    exact atomOrder_orders ..
  case isFalse =>
    rw [spm]
    exact ((Orders.foldl (fun s i => markDirty_orders ..) _ _).trans (countWork_orders ..)).trans (atomOrder_orders ..)

theorem unfilled_congr {s t : State} {c : CtxId} (h : (getCtx t c).regions = (getCtx s c).regions) (key n : Nat) : unfilled t c key n = unfilled s c key n := by
  have at_ (off : Nat) : regionAt (getCtx t c) off = regionAt (getCtx s c) off := by rw [regionAt, regionAt, h]
  simp only [unfilled, needsFill, at_]

theorem mustWait_congr {s t : State} {c : CtxId} (h : (getCtx t c).regions = (getCtx s c).regions) (cores : t.cores = s.cores) (n : Nat) (keys : List Nat) :
    mustWait t c n keys = mustWait s c n keys := by
  simp only [mustWait, unfilled_congr h, coreOf_congr cores]

theorem OnlyLoads.mustWait {s t : State} (h : OnlyLoads s t) (n : Nat) (keys : List Nat) : mustWait t s.who n keys = mustWait s s.who n keys := by
  have who : t.who = s.who := by rw [h]
  refine mustWait_congr ?_ (by rw [h]) n keys
  rw [getCtx_who, getCtx_of_who who, h]

/-- The result of access id arrives at once, from the core's own scratchpad. -/
def arrived (id : Nat) (l : Landing) : Landing := if l.id = id then { l with ready := true } else l

/-- What an atomic of the scratchpad leaves: the old value lands in d, and the scratchpads are m. -/
structure AtomLeaves (s t : State) (d : SR) (old : Nat) (m : Memory) : Prop where
  landed : Landed s t (.s d) (.word (BitVec.ofNat 64 old)) 4
  spm : t.spm = m
  who : t.who = s.who
  files : SameFiles s t
  specials : SameSpecials s t
  others : LandsBut [.s d] s t
  rom : t.rom = s.rom

theorem AtomLeaves.arrive {s t : State} {d : SR} {old : Nat} {m : Memory} (h : AtomLeaves s t d old m) :
    AtomLeaves s { t with ctx := { t.ctx with lands := t.ctx.lands.map (arrived (fresh s)) } } d old m := by
  refine ⟨h.landed.imp id ?landed, h.spm, h.who, h.files, h.specials, ?others, h.rom⟩
  case landed =>
    rintro ⟨l, m, reg, val, rest⟩
    refine ⟨arrived (fresh s) l, List.mem_map_of_mem m, ?_⟩
    unfold arrived
    split <;> exact ⟨reg, val, rest⟩
  case others =>
    intro l m o n
    obtain ⟨q, mq, rfl⟩ := List.mem_map.1 m
    by_cases mine : q.id = fresh s
    · exact absurd (by simp [arrived, mine]) n
    · rw [arrived, if_neg mine] at o n ⊢
      exact h.others q mq o n

/-- The state in which an atomic of the scratchpad has been numbered and has met what is in flight. -/
def atomMet (d : SR) (w key : Nat) (s : State) : State := meetLocal key w none (awaiting (.s d) (.word 0) 4 s)

/-- An atomic of the scratchpad made by the running context. -/
def atomMade (fn : AtomFn) (d : SR) (w key : Nat) (v : Word) (oc : Nat) (s : State) : State :=
  performAtomLocal (accOf s s.who) (fresh s) fn w key v oc (atomMet d w key s)

section Made

variable {s : State} (d : SR) (w key : Nat)

theorem atomMet_only : OnlyMeets (awaiting (.s d) (.word 0) 4 s) (atomMet d w key s) := meetLocal_onlyMeets ..

theorem atomMet_who : (atomMet d w key s).who = s.who := by rw [(atomMet_only d w key).rest, awaiting_onlyLoads (.s d) (.word 0) 4 s]

theorem atomMet_spm : (atomMet d w key s).spm = s.spm := by rw [(atomMet_only d w key).rest, awaiting_onlyLoads (.s d) (.word 0) 4 s]

theorem atomMet_ctx : (atomMet d w key s).ctx = (awaiting (.s d) (.word 0) 4 s).ctx := by rw [(atomMet_only d w key).rest]

theorem atomMet_mustWait (n : Nat) (keys : List Nat) : mustWait (atomMet d w key s) s.who n keys = mustWait s s.who n keys := by
  rw [(atomMet_only d w key).mustWait, (awaiting_onlyLoads ..).mustWait]

theorem OnlyAccess.withFilled {t : State} (h : OnlyAccess s t) (id : Nat) (v : RegVal) (m : Memory) :
    OnlyAccess s { withFilled id v t with spm := m } :=
  h.trans rfl

/-- The landing of an atomic that has met what is in flight has its value. -/
def atomFilled (old : Nat) (m : Memory) : State :=
  { withFilled (fresh s) (.word (BitVec.ofNat 64 old)) (atomMet d w key s) with spm := m }

theorem atomFilled_leaves (old : Nat) (m : Memory) : AtomLeaves s (atomFilled (s := s) d w key old m) d old m := by
  have met : OnlyAccess s (atomMet d w key s) := (awaiting_onlyLoads ..).access.trans (atomMet_only d w key).stores.access
  have only : OnlyAccess s (atomFilled d w key old m) := met.withFilled ..
  obtain ⟨who, files, specials, -, rom⟩ := only.leaves
  have load : LoadMade (.s d) (.word (BitVec.ofNat 64 old)) 4 s
      (withFilled (fresh s) (.word (BitVec.ofNat 64 old)) (awaiting (.s d) (.word 0) 4 s)) := withFilled_loadMade ⟨_, _, rfl⟩ _
  have lands : (atomFilled (s := s) d w key old m).ctx.lands =
      (withFilled (fresh s) (.word (BitVec.ofNat 64 old)) (awaiting (.s d) (.word 0) 4 s)).ctx.lands := by
    rw [atomFilled, withFilled, atomMet_ctx]
    rfl
  exact ⟨by rw [Landed, lands]; exact load.landed, rfl, who, files, specials, fun l ml o n => load.others l (lands ▸ ml) o n, rom⟩

theorem AtomLeaves.orders {t u : State} {d : SR} {old : Nat} {m : Memory} (h : AtomLeaves s t d old m) (g : Orders t u) : AtomLeaves s u d old m := by
  obtain ⟨landed, spm, who, files, specials, others, rom⟩ := h
  have files' := g.files
  have specials' := g.specials
  refine ⟨by rw [Landed, g.lands]; exact landed, g.spm.trans spm, g.who.trans who, ?_, ?_, fun l ml o n => others l (g.lands ▸ ml) o n, g.rom.trans rom⟩
  · simp_all [SameFiles]
  · simp_all [SameSpecials]

/-- An atomic that meets no poison brings the old value and leaves the new one. -/
theorem atomMade_leaves (fn : AtomFn) (v : Word) (oc : Nat) (clean : spmPoisoned s key w = false) :
    AtomLeaves s (atomMade fn d w key v oc s) d (s.spm.readNat key w) (atomBytes fn w key (s.spm.readNat key w) v s.spm) := by
  have unpoisoned : spmPoisoned (atomMet d w key s) key w = false := by
    rw [spmPoisoned, (atomMet_only d w key).rest, awaiting_onlyLoads (.s d) (.word 0) 4 s]
    exact clean
  have orders := performAtomLocal_clean unpoisoned (accOf s s.who) (fresh s) fn v oc
  rw [show (accOf s s.who).who = (atomMet d w key s).who from (atomMet_who ..).symm, fillLanding_own, atomMet_spm] at orders
  exact (atomFilled_leaves ..).orders orders

end Made

/-- An atomic without an order code, or whose release may be made, does not wait for it (R188). -/
theorem ordered_may {s : State} {oc : Fin 4} (may : oc = 0 ∨ releaseReady s s.who (2 * oc.val) = true) :
    (oc.val != 0 && !releaseReady s s.who (2 * oc.val)) = false := by
  rcases may with rfl | ready
  · rfl
  · simp [ready]

section Local

variable {s : State} {d x : SR} {a : AR} {oc : Fin 4} {z : Bool} {w : Nat} (user : s.who.isSys = false) (wide : (if z then 8 else 4) = w)
  (write : LocalReady s false w w true [ea s a 0]) (read : LocalReady s false w w false [ea s a 0])
  (clean : spmPoisoned s (keyAt s (ea s a 0)) w = false) (may : oc = 0 ∨ releaseReady s s.who (2 * oc.val) = true)
include user wide write read clean may

/-- An atomic of the scratchpad that goes on is made. -/
theorem atomic_local (fn : AtomFn) :
    ∃ t, atomic fn d a x false z oc s = .next t ∧ AtomLeaves s t d (s.spm.readNat (keyAt s (ea s a 0)) w)
      (atomBytes fn w (keyAt s (ea s a 0)) (s.spm.readNat (keyAt s (ea s a 0)) w) (rdS s x) s.spm) := by
  obtain ⟨ok, -, -, free⟩ := id write
  obtain ⟨p, at_, -⟩ := localOk_place (List.all_eq_true.1 ok _ (List.mem_singleton_self _))
  have key : keyAt s (ea s a 0) = spmKey p := by rw [keyAt, at_]
  rw [List.map_singleton, key, ← atomMet_mustWait d w (spmKey p)] at free
  rw [key] at clean ⊢
  have run : atomic fn d a x false z oc s = .next (if p.1 = s.who.coreNo then
      modCtx (atomMade fn d w (spmKey p) (rdS s x) oc.val s) s.who fun y => { y with lands := y.lands.map (arrived (fresh s)) }
      else atomMade fn d w (spmKey p) (rdS s x) oc.val s) := by
    unfold atomic
    dsimp only
    rw [wide, if_neg (by simp [user]), localTouch_ready write read, List.filterMap_cons_some (f := fun a : Word => localPlace s.who.coreNo a.toNat) at_]
    dsimp only
    rw [ordered_may may, if_neg Bool.false_ne_true]
    exact if_neg (ne_true_of_eq_false free)
  refine ⟨_, run, ?_⟩
  have made := atomMade_leaves d w (spmKey p) fn (rdS s x) oc.val clean
  split
  · rw [modCtx_running made.who]
    exact made.arrive
  · exact made

end Local

/-! ### The values of atomics -/

theorem bytesOf_natOf (bs : List Byte) : bytesOf bs.length (natOf bs) = bs := by
  induction bs with
  | nil => rfl
  | cons b bs ih =>
    have low : b.toNat < 256 := b.isLt
    rw [List.length_cons, bytesOf, natOf, show (b.toNat + 256 * natOf bs) / 256 = natOf bs by omega, ih]
    congr 1
    exact BitVec.eq_of_toNat_eq (by simp [Nat.add_mod, Nat.mod_eq_of_lt low])

theorem bytesOf_readNat (m : Memory) (k n : Nat) : bytesOf n (m.readNat k n) = m.readBytes k n := by
  have whole := bytesOf_natOf (m.readBytes k n)
  rwa [readBytes_length] at whole

theorem readBytes_getD (m : Memory) (a : Nat) {n i : Nat} (h : i < n) : (m.readBytes a n).getD i 0 = m.read (a + i) := by
  induction n generalizing a i with
  | zero => omega
  | succ n ih =>
    cases i with
    | zero => rfl
    | succ i => rw [Memory.readBytes, List.getD_cons_succ, ih (a + 1) (by omega), Nat.add_assoc, Nat.add_comm 1 i]

/-- Bytes that are written back where they have been read change nothing. -/
theorem read_writeBack {m : Memory} (wf : m.wf = true) (k n j : Nat) : (m.writeBytes k (bytesOf n (m.readNat k n))).read j = m.read j := by
  rw [bytesOf_readNat, read_writeBytes wf, readBytes_length]
  split
  case isTrue inside => rw [readBytes_getD m k (by omega), Nat.add_sub_cancel' inside.1]
  case isFalse => rfl

section Values

variable {m : Memory} {w key old new : Nat} {v : Word} {fn : AtomFn}

/-- The scratchpads after an atomic read as if it had written new. -/
def Leaves (new w key : Nat) (m n : Memory) : Prop := ∀ j, n.read j = (m.writeBytes key (bytesOf w new)).read j

theorem leaves_plain (plain : fn.isCas = false) (value : (atomNew fn w old v.toNat).1 = new) : Leaves new w key m (atomBytes fn w key old v m) := by
  have made : casFails fn w old = false := by
    cases fn with
    | cas e => cases plain
    | _ => rfl
  intro j
  rw [atomBytes, made, if_neg Bool.false_ne_true, value]

theorem leaves_cas (wf : m.wf = true) (e v : Word) : Leaves (if m.readNat key w = e.toNat % 2 ^ (8 * w) then v.toNat % 2 ^ (8 * w) else m.readNat key w)
    w key m (atomBytes (.cas e) w key (m.readNat key w) v m) := by
  intro j
  by_cases same : m.readNat key w = e.toNat % 2 ^ (8 * w)
  · rw [if_pos same, atomBytes, casFails, if_neg (by simp [same]), atomNew, if_pos same]
  · rw [if_neg same, atomBytes, casFails, if_pos (by simpa using same), read_writeBack wf]

end Values

theorem Leaves.holds {s t : State} {new w key : Nat} (wf : s.spm.wf = true) (h : Leaves new w key s.spm t.spm) : SpmHolds [(key, leBytes w new)] s t := by
  intro j
  rw [h j, leBytes_eq, ← read_pieces wf]
  rfl

/-- The integer function of two signed values of w bytes, as an atomic's result holds it. -/
theorem wrapInt_signed {w : Nat} (pos : 0 < w) (f : Int → Int → Int) (a b : Nat) :
    wrapInt (8 * w) (f (intOf (8 * w) true a) (intOf (8 * w) true b)) =
      (f (BitVec.ofNat (8 * w) a).toInt (BitVec.ofNat (8 * w) (b % 2 ^ (8 * w))).toInt % (2 ^ (8 * w) : Nat)).toNat := by
  have low : BitVec.ofNat (8 * w) (b % 2 ^ (8 * w)) = BitVec.ofNat (8 * w) b := BitVec.eq_of_toNat_eq (by simp)
  rw [intOf_ofNat (by omega), intOf_ofNat (by omega), wrapInt, low]

theorem execAcas_ready {s : State} {d x : SR} {a : AR} {g z : Bool} {oc : Fin 4} (hr : Ready [.s d, .a a, .s x] [.s d] s) :
    exec (.acas d a x g z oc) s = atomic (.cas (rdS s d)) d a x g z oc s := by
  show execAcas d a x g z oc s = _
  rw [execAcas, guardRegs_ready hr]

/-- Settles O17: an atomic of the scratchpad that goes on brings the old value and leaves its function's (`atomic_local`, `leaves_plain`,
`leaves_cas`). -/
theorem localAtomics : Obligations.LocalAtomics := by
  intro s d x a z oc user wf w addr k old v expect int wrap gives write read clean may
  have size : (if z then 8 else 4) = w := rfl
  clear_value w
  have pos : 0 < w := by rw [← size]; split <;> decide
  have give {i : Instr} {fn : AtomFn} {new : Nat} (is : exec i s = atomic fn d a x false z oc s)
      (value : Leaves new w k s.spm (atomBytes fn w k old (rdS s x) s.spm)) : gives i new := by
    obtain ⟨t, run, made⟩ := atomic_local (d := d) (x := x) user size write read clean may fn
    obtain ⟨landed, spm, who, files, specials, others, rom⟩ := made
    exact ⟨t, is.trans run, landed, Leaves.holds wf (by rw [spm]; exact value), who, files, specials, others, rom⟩
  refine ⟨fun hr => ?functions, fun hr => ?swap⟩
  case functions =>
    have made {fn : AtomFn} {new : Nat} (i : Instr) (is : exec i s = atom fn d a x false z oc s) (plain : fn.isCas = false)
        (value : (atomNew fn w old (rdS s x).toNat).1 = new) : gives i new :=
      give (is.trans (guardRegs_ready hr _)) (leaves_plain plain value)
    refine ⟨made _ rfl rfl ?add, made _ rfl rfl rfl, made _ rfl rfl rfl, made _ rfl rfl rfl, made _ rfl rfl ?min, made _ rfl rfl ?max,
      made _ rfl rfl rfl, made _ rfl rfl rfl, made _ rfl rfl rfl, fun word => ?fadd, fun wrong => ?reserved⟩
    case add => exact (Nat.add_mod_mod ..).symm
    case min => exact wrapInt_signed pos min _ _
    case max => exact wrapInt_signed pos max _ _
    case fadd =>
      subst word
      obtain rfl : 4 = w := size
      exact made _ rfl rfl (congrArg (fun o => (fop2 .f32 numAdd o v).1) (Nat.mod_eq_of_lt (readNat_lt s.spm k 4)))
    case reserved =>
      subst wrong
      rfl
  case swap => exact give (execAcas_ready hr) (leaves_cas wf _ _)

/-! ## Global atomics (R188–R190) -/

section Global

variable {s u : State} {d x : SR} {a : AR} {oc : Fin 4} {z : Bool} {w old : Nat} {fn : AtomFn} (user : s.who.isSys = false)
  (wide : (if z then 8 else 4) = w) (free : isHeld s s.who = false) (write : GlobalReady s w w true [ea s a 0])
  (read : GlobalReady s w w false [ea s a 0]) (may : oc = 0 ∨ releaseReady s s.who (2 * oc.val) = true)
include user wide free write read may

/-- An atomic of a free unit updates its home; a reduction does so as its core's side log. -/
theorem atomic_global (short : d = 0 ∧ fn.isCas = false → logLength s s.who.coreNo = 0) (logless : ¬ (d = 0 ∧ fn.isCas = false) → inLog s s.who = false)
    (made : performAtomGlobal (if d = 0 ∧ fn.isCas = false then { accOf s s.who with unit := logUnit s.who.coreNo } else accOf s s.who) fn w
      (ea s a 0).toNat (rdS s x) oc.val (bump s) = .ok u old) :
    atomic fn d a x true z oc s = .next (meetGlobal (accOf s s.who) (ea s a 0).toNat w none (if d = 0 ∧ fn.isCas = false then u
      else fillLanding s.who (fresh s) (.word (BitVec.ofNat 64 old)) (landWith (.s d) (.word 0) 4 false (fresh s) u))) := by
  obtain ⟨places, freeW, acquired⟩ := write
  obtain ⟨-, freeR, -⟩ := read
  have unwatched (kinds : List Bool) : ∀ k ∈ kinds, ∀ b ∈ [ea s a 0], watched s true k w b.toNat = none := by
    intro k _ b m
    cases k
    · exact freeR b m
    · exact freeW b m
  have unheld : isHeld (bump s) s.who = false := free
  unfold atomic
  dsimp only
  rw [wide, if_pos (.inl rfl), globalTouch_ready places (unwatched _) acquired, ordered_may may, user, unheld]
  by_cases reduction : d = 0 ∧ fn.isCas = false
  · obtain ⟨zero, plain⟩ := id reduction
    have empty : logLength (bump s) (accOf s s.who).who.coreNo = 0 := short reduction
    rw [if_pos reduction] at made ⊢
    have by_ : (true && d == 0 && !fn.isCas) = true := by simp [zero, plain]
    rw [by_]
    simp only [Bool.not_true, Bool.false_and, awaits, Bool.or_self, Bool.false_eq_true, ↓reduceIte]
    rw [unitReduce, if_neg (not_not.2 empty)]
    rw [show performAtomGlobal { accOf s s.who with unit := logUnit (accOf s s.who).who.coreNo } fn w _ _ _ _ = _ from made]
  · have by_ : (true && d == 0 && !fn.isCas) = false := by
      rw [Bool.true_and, Bool.eq_false_iff]
      simpa using reduction
    rw [if_neg reduction] at made ⊢
    rw [by_, logless reduction]
    simp only [Bool.not_false, Bool.and_false, awaits, Bool.false_and, Bool.or_self, Bool.false_eq_true, ↓reduceIte]
    rw [made]

end Global

/-- Settles O18: an atomic of a free unit updates its home (`atomic_global`). -/
theorem globalAtomics : Obligations.GlobalAtomics := by
  intro s u d x a z oc old user free w addr who gives write read may
  have give {i : Instr} {fn : AtomFn} (is : exec i s = atomic fn d a x true z oc s) : gives i fn := by
    intro short logless made
    exact is.trans (atomic_global user rfl free write read may short logless made)
  refine ⟨fun hr => ?functions, fun hr => give (execAcas_ready hr)⟩
  have made {i : Instr} {fn : AtomFn} (is : exec i s = atom fn d a x true z oc s) : gives i fn := give (is.trans (guardRegs_ready hr _))
  exact ⟨made rfl, made rfl, made rfl, made rfl, made rfl, made rfl, made rfl, made rfl, made rfl, fun word => made (by subst word; rfl)⟩

end Sys2Proof.Machine

namespace Sys2Proof.Machine

/-! ## Lanes (R202, R206, R209, R211, R212) -/

/-- The types of vector arithmetic (R204). -/
theorem ty_arith_mem {ty : Fin 16} (first : 2 ≤ ty.val) (last : ty.val ≤ 8) : ty.val ∈ [2, 3, 4, 5, 6, 7, 8] := by
  have cases : ty.val = 2 ∨ ty.val = 3 ∨ ty.val = 4 ∨ ty.val = 5 ∨ ty.val = 6 ∨ ty.val = 7 ∨ ty.val = 8 := by omega
  simpa using cases

theorem lane_getD (x : Vec) (i : Fin 64) : x[i] = x.toList.getD i.val 0 := by simp

/-- Two registers of the same lanes are one. -/
theorem eq_ofFn_of_lanes {x : Vec} {f : Fin 64 → Lane} (h : ∀ i : Fin 64, x[i] = f i) : x = Vector.ofFn f :=
  Vector.ext fun i hi => (h ⟨i, hi⟩).trans (Vector.getElem_ofFn hi).symm

/-- An unmasked result of whole lanes, lane by lane. -/
theorem vectorAll_lanes {s : State} {rs : List RegName} {d : VR} (hc : Computes s) (hr : Ready rs [.v d] s) {r : Res} {L : Nat} {f : State → Vec}
    (is : r = vectorAll rs L d f s) {g : Fin 64 → Lane} (each : ∀ i : Fin 64, (f s)[i] = g i) :
    r = .next (land (.v d) (.vec (Vector.ofFn g)) L s) := by
  rw [is, vectorAll_ready hc hr, eq_ofFn_of_lanes each]

/-- The halves of a lane, exchanged (R211). -/
theorem rotateLeft_half (x : Lane) : x.rotateLeft 16 = BitVec.ofNat 32 (x.toNat % 2 ^ 16 * 2 ^ 16 + x.toNat / 2 ^ 16) := by
  have lt := x.isLt
  have high : x.toNat / 2 ^ 16 < 2 ^ 16 := by omega
  apply BitVec.eq_of_toNat_eq
  rw [BitVec.toNat_rotateLeft, BitVec.toNat_ofNat, Nat.shiftLeft_eq, Nat.shiftRight_eq_div_pow]
  have low : x.toNat * 2 ^ 16 % 2 ^ 32 = 2 ^ 16 * (x.toNat % 2 ^ 16) := by omega
  rw [show 16 % 32 = 16 from rfl, low, ← Nat.two_pow_add_eq_or_of_lt high]
  omega

section Moves

variable {s : State} {d a b : VR} {x k : SR} {m : MR} (hc : Computes s)
include hc

theorem execVsel_ready (hr : Ready ([.v a, .v b] ++ maskReg m) [.v d] s) :
    execVsel d a b m s = .next (land (.v d) (.vec (Vector.ofFn fun i =>
      if (rdM s m).getLsbD i.val then (rdV s a).toList.getD i.val 0 else (rdV s b).toList.getD i.val 0)) 2 s) :=
  vectorAll_lanes hc hr rfl fun i => by simp [getBit]

/-- VBC fills a lane with its scalar, or with two copies of the low half (R206). -/
theorem execVbc_ready {ty : Fin 16} (hty : ty.val ∈ [2, 3, 4, 5, 6, 7, 8]) (hr : Ready ([.s x] ++ maskReg m ++ if m ≠ 0 then [.v d] else []) [.v d] s) :
    execVbc d x m ty s = .next (land (.v d) (.vec (Vector.ofFn fun i => if (rdM s m).getLsbD i.val then
      (if tyWidth ty = 32 then BitVec.ofNat 32 (rdS s x).toNat else BitVec.ofNat 32 ((rdS s x).toNat % 2 ^ 16 * (2 ^ 16 + 1)))
      else (rdV s d).toList.getD i.val 0)) 2 s) := by
  have ready : Ready (oldOf d m false ++ [.s x] ++ maskReg m) [.v d] s :=
    hr.mono fun r => by simp only [oldOf_masked, List.mem_append]; tauto
  rw [execVbc, needTy_listed hty, needCompute_ready hc, guardRegs_ready ready]
  have filler : BitVec.ofNat 32 (if tyWidth ty = 16 then (rdS s x).toNat % 2 ^ 16 + 2 ^ 16 * ((rdS s x).toNat % 2 ^ 16) else (rdS s x).toNat) =
      if tyWidth ty = 32 then BitVec.ofNat 32 (rdS s x).toNat else BitVec.ofNat 32 ((rdS s x).toNat % 2 ^ 16 * (2 ^ 16 + 1)) := by
    rcases width_int ty with w | w
    · rw [if_pos w, if_neg (by omega)]
      exact congrArg _ (by ring)
    · rw [if_neg (by omega), if_pos w]
  dsimp only
  simp only [filler, getBit, lane_getD]

theorem execVperm_ready (hr : Ready [.v a, .v b] [.v d] s) :
    execVperm d a b s = .next (land (.v d) (.vec (Vector.ofFn fun i =>
      (rdV s a).toList.getD (((rdV s b).toList.getD i.val 0).toNat % 64) 0)) 2 s) :=
  vectorAll_lanes hc hr rfl fun i => by
    have low : (rdV s b)[i].toNat % 64 < 64 := Nat.mod_lt _ (by decide)
    rw [← lane_getD (rdV s b), ← lane_getD (rdV s a) ⟨_, low⟩]
    simp

/-- The lane that VSHUF k brings to lane i (R211). -/
def shuffled (x : Vec) (k i : Nat) : Lane :=
  if k < 6 then x.toList.getD (i ^^^ 2 ^ k) 0 else if k = 6 then x.toList.getD (63 - i) 0 else (x.toList.getD i 0).rotateLeft 16

theorem execVshuf_ready {n : Fin 32} (hn : n.val < 8) (hr : Ready [.v a] [.v d] s) {f : Fin 64 → Lane}
    (each : ∀ i : Fin 64, shuffled (rdV s a) n.val i.val = f i) : execVshuf d a n s = .next (land (.v d) (.vec (Vector.ofFn f)) 2 s) :=
  vectorAll_lanes hc hr (if_neg (by omega)) fun i => by
    rw [← each i]
    exact Vector.getElem_ofFn i.isLt

theorem execVext_ready (hr : Ready [.v a, .s k] [.s x] s) :
    execVext x a k s = .next (land (.s x) (.word (BitVec.ofNat 64 ((rdV s a).toList.getD ((rdS s k).toNat % 64) 0).toNat)) 2 s) := by
  rw [execVext, needCompute_ready hc, guardRegs_ready hr, BitVec.ofNat_toNat]

theorem execVins_ready (hr : Ready [.s x, .s k, .v d] [.v d] s) :
    execVins d x k s = .next (land (.v d) (.vec (Vector.ofFn fun i =>
      if i.val = (rdS s k).toNat % 64 then BitVec.ofNat 32 (rdS s x).toNat else (rdV s d).toList.getD i.val 0)) 2 s) := by
  have ready : Ready [.v d, .s x, .s k] [.v d] s := hr.mono fun r => by simp only [List.mem_cons]; tauto
  refine vectorAll_lanes hc ready rfl fun i => ?_
  rw [BitVec.ofNat_toNat, ← lane_getD]
  simp only [eq_comm (a := i.val)]
  exact Vector.getElem_set ..

theorem execViota_ready (hr : Ready [.s x] [.v d] s) :
    execViota d x s = .next (land (.v d) (.vec (Vector.ofFn fun i => BitVec.ofNat 32 ((rdS s x).toNat + i.val))) 2 s) :=
  vectorAll_lanes hc hr rfl fun i => by simp [BitVec.ofNat_add]

end Moves

/-! ## Comparisons (R208) -/

/-- The bits of a condition are digits of width 1. -/
theorem foldl_bits_eq_packDigits (p : Nat → Bool) (n : Nat) :
    (List.range n).foldl (fun x i => if p i then x + 2 ^ i else x) 0 = packDigits 1 (fun i => (p i).toNat) n := by
  refine congrArg (fun f => (List.range n).foldl f 0) (funext fun x => funext fun i => ?_)
  cases bit : p i <;> simp [bit]

/-- Bit i of a mask made bit by bit (R203). -/
theorem getLsbD_foldl_bits (p : Nat → Bool) {i : Nat} (h : i < 64) :
    (BitVec.ofNat 64 ((List.range 64).foldl (fun x i => if p i then x + 2 ^ i else x) 0)).getLsbD i = p i := by
  have digit := bitsAt_packDigits 1 (fun i => (p i).toNat) h
  have lt : packDigits 1 (fun i => (p i).toNat) 64 < 2 ^ 64 := packDigits_lt ..
  rw [bitsAt, Nat.one_mul, pow_one] at digit
  rw [foldl_bits_eq_packDigits, ← getBit, getBit_eq, BitVec.toNat_ofNat, Nat.mod_eq_of_lt lt, digit]
  cases p i <;> rfl

theorem elems_getD {w : Nat} (hw : w = 16 ∨ w = 32) (x : Vec) {e : Nat} (h : e < 2048 / w) : (elems w x).getD e 0 = elemAt w x e := by
  rw [elems_eq hw, getD_map_range _ h]

/-- The elements of a lane: two of 16 bits or one of 32 (R202). -/
theorem forall_elems_of_lane_16 {P : Nat → Prop} {i : Nat} : (∀ e, e * 16 / 32 = i → P e) ↔ P (2 * i) ∧ P (2 * i + 1) := by
  refine ⟨fun h => ⟨h _ (by omega), h _ (by omega)⟩, fun ⟨low, high⟩ e he => ?_⟩
  obtain rfl | rfl : e = 2 * i ∨ e = 2 * i + 1 := by omega
  · exact low
  · exact high

theorem forall_elems_of_lane_32 {P : Nat → Prop} {i : Nat} : (∀ e, e * 32 / 32 = i → P e) ↔ P i := by
  simp

/-- VCMP sets the bits of the lanes all of whose elements meet the condition (R208). -/
theorem execVcmp_ready {s : State} {a b : VR} {md : MR} {ty : Fin 16} (hc : Computes s) (hty : ty.val ∈ [2, 3, 4, 5, 6, 7, 8])
    (hr : Ready [.v a, .v b] [.m md] s) (cond : Fin 8) :
    ∃ M : Word, execVcmp cond md a b ty s = .next (land (.m md) (.word M) 2 s) ∧ ∀ i, i < 64 → (M.getLsbD i = true ↔
      ∀ e, e * tyWidth ty / 32 = i → eCond cond ty (elemAt (tyWidth ty) (rdV s a) e) (elemAt (tyWidth ty) (rdV s b) e) = true) := by
  rw [execVcmp, needTy_listed hty, needCompute_ready hc, guardRegs_ready hr]
  refine ⟨_, rfl, fun i hi => ?_⟩
  rw [getLsbD_foldl_bits _ hi]
  rcases width_int ty with w | w
  · rw [w, forall_elems_of_lane_16, if_pos rfl, Bool.and_eq_true]
    simp only [elems_getD (.inl rfl) _ (show 2 * i < 2048 / 16 by omega), elems_getD (.inl rfl) _ (show 2 * i + 1 < 2048 / 16 by omega)]
  · rw [w, forall_elems_of_lane_32, if_neg (by decide)]
    simp only [elems_getD (.inr rfl) _ (show i < 2048 / 32 by omega)]

theorem eCond_flt {ty : Fin 16} {f : FFmt} (h : tyFlt ty = some f) (cond : Fin 8) (p q : Nat) :
    eCond cond ty p q = fcond cond.val (decodeF f p) (decodeF f q) := by
  rw [eCond, h]

/-- A code as its integer type reads it (R63). -/
theorem intOf_ty (ty : Fin 16) {n : Nat} (h : n < 2 ^ tyWidth ty) :
    intOf (tyWidth ty) (tySigned ty) n = if ty.val = 2 ∨ ty.val = 4 then (BitVec.ofNat (tyWidth ty) n).toInt else n := by
  have pos : 0 < tyWidth ty := by rcases width_int ty with w | w <;> omega
  by_cases signed : ty.val = 2 ∨ ty.val = 4
  · rw [show tySigned ty = true by simpa [tySigned] using signed, intOf_ofNat pos, if_pos signed]
  · rw [show tySigned ty = false by simpa [tySigned] using signed, intOf_unsigned h, if_neg signed]

/-- A condition of R208 on codes p and q that stand for the integers i and j: the odd ones from 3 on compare the codes. -/
def intTruth (cond : Fin 8) (i j : Int) (p q : Nat) : Prop :=
  match cond with
  | 0 => p = q
  | 1 => p ≠ q
  | 2 => i < j
  | 3 => p < q
  | 4 => i ≤ j
  | 5 => p ≤ q
  | 6 => j < i
  | 7 => q < p

theorem eCond_int {ty : Fin 16} (type : tyFlt ty = none) {p q : Nat} (hp : p < 2 ^ tyWidth ty) (hq : q < 2 ^ tyWidth ty) (cond : Fin 8) :
    eCond cond ty p q = true ↔ intTruth cond (intOf (tyWidth ty) (tySigned ty) p) (intOf (tyWidth ty) (tySigned ty) q) p q := by
  rw [eCond, type]
  simp only [Bool.not_false, Bool.and_true, Bool.not_true, Bool.and_false, intOf_unsigned hp, intOf_unsigned hq]
  exact match cond with
  | 0 => beq_iff_eq
  | 1 => bne_iff_ne
  | 2 | 4 | 6 => decide_eq_true_iff
  | 3 | 7 => decide_eq_true_iff.trans Int.ofNat_lt
  | 5 => decide_eq_true_iff.trans Int.ofNat_le

/-! ## Masks (R210) -/

section Masks

variable {s : State} {d : SR} {md ma mb : MR} (hc : Computes s)
include hc

theorem maskLog_ready (hr : Ready [.m ma, .m mb] [.m md] s) (f : Word → Word → Word) :
    maskLog f md ma mb s = .next (land (.m md) (.word (f (rdM s ma) (rdM s mb))) 2 s) := by
  rw [maskLog, needCompute_ready hc, guardRegs_ready hr]

theorem maskLog1_ready (hr : Ready [.m ma] [.m md] s) (f : Word → Word) :
    maskLog1 f md ma s = .next (land (.m md) (.word (f (rdM s ma))) 2 s) := by
  rw [maskLog1, needCompute_ready hc, guardRegs_ready hr]

theorem maskCount_ready (hr : Ready [.m ma] [.s d] s) (f : Word → Nat) :
    maskCount f d ma s = .next (land (.s d) (.word (BitVec.ofNat 64 (f (rdM s ma)))) 2 s) := by
  rw [maskCount, needCompute_ready hc, guardRegs_ready hr]

end Masks

/-- The lowest set bit, or 64 (R210). -/
theorem find_lowest_spec (x : Word) : let n := ((List.range 64).find? fun i => getBit x i).getD 64
    (x = 0 → n = 64) ∧ (x ≠ 0 → x.getLsbD n = true ∧ ∀ i, i < n → x.getLsbD i = false) := by
  intro n
  cases found : (List.range 64).find? fun i => getBit x i with
  | none =>
    have zero : x = 0 := BitVec.eq_of_getLsbD_eq fun i hi => by
      simpa [getBit] using List.find?_eq_none.1 found i (List.mem_range.2 hi)
    exact ⟨fun _ => by simp only [n, found, Option.getD_none], fun nonzero => absurd zero nonzero⟩
  | some i =>
    obtain ⟨set, -, below⟩ := List.find?_range_eq_some.1 found
    have at_i : n = i := by simp only [n, found, Option.getD_some]
    rw [at_i]
    refine ⟨fun zero => ?_, fun _ => ⟨set, fun j lt => by simpa [getBit] using below j lt⟩⟩
    simp [zero, getBit] at set

/-- The highest set bit, or 64 (R210). -/
theorem log2_highest_spec (x : Word) : let n := if x = 0 then 64 else x.toNat.log2
    (x = 0 → n = 64) ∧ (x ≠ 0 → x.getLsbD n = true ∧ ∀ i, n < i → x.getLsbD i = false) := by
  intro n
  refine ⟨fun zero => if_pos zero, fun nonzero => ?_⟩
  have pos : x.toNat ≠ 0 := fun e => nonzero (BitVec.eq_of_toNat_eq e)
  have top : n = x.toNat.log2 := if_neg nonzero
  rw [top]
  exact ⟨Nat.testBit_log2 pos, fun i above => Nat.testBit_lt_two_pow ((Nat.log2_lt pos).1 above)⟩

/-- Settles O24: (a) a comparison by the bits of its lanes (`execVcmp_ready`), the others by their lanes (`execVsel_ready` to
`execViota_ready`); (b) by the equations of the shared operations, the counts by `onesCount_eq`, `find_lowest_spec` and `log2_highest_spec`. -/
theorem vectorMovesAndMasks : Obligations.VectorMovesAndMasks := by
  refine ⟨?lanes, ?masks⟩
  case lanes =>
    intro s d a b x k m md ty cond n hc u lanes w truth
    have agrees (e : Nat) : eCond cond ty (elemAt w (rdV s a) e) (elemAt w (rdV s b) e) = true ↔ truth e := by
      dsimp only [truth]
      cases type : tyFlt ty with
      | some f => rw [eCond_flt type]
      | none =>
        rw [eCond_int type (elemAt_lt ..) (elemAt_lt ..), intOf_ty ty (elemAt_lt ..), intOf_ty ty (elemAt_lt ..)]
        rfl
    refine ⟨fun hr first last => ?vcmp, fun hr => execVsel_ready hc hr, fun hr first last => execVbc_ready hc (ty_arith_mem first last) hr,
      fun hr => execVperm_ready hc hr, fun hr => ⟨fun cross => ?cross, fun mirror => ?mirror, fun swap => ?swap⟩, fun reserved => if_pos reserved,
      fun hr => execVext_ready hc hr, fun hr => execVins_ready hc hr, fun hr => execViota_ready hc hr⟩
    case vcmp =>
      obtain ⟨M, ran, bits⟩ := execVcmp_ready hc (ty_arith_mem first last) hr cond
      exact ⟨M, ran, fun i hi => (bits i hi).trans (forall_congr' fun e => imp_congr_right fun _ => agrees e)⟩
    case cross => exact execVshuf_ready hc (by omega) hr fun i => if_pos cross
    case mirror => exact execVshuf_ready hc (by omega) hr fun i => by rw [shuffled, if_neg (by omega), if_pos mirror]
    case swap =>
      refine execVshuf_ready hc (by omega) hr fun i => ?_
      rw [shuffled, if_neg (by omega), if_neg (by omega), rotateLeft_half]
  case masks =>
    intro s d md ma mb hc x y gives counts
    refine ⟨fun hr => ?two, fun hr => ?one, fun hr => ?found⟩
    case two =>
      have two (f : Word → Word → Word) {i : Instr} (is : exec i s = maskLog f md ma mb s) : gives i (f x y) := is.trans (maskLog_ready hc hr f)
      exact ⟨two _ rfl, two _ rfl, two _ rfl, two (fun p q => p &&& ~~~q) rfl⟩
    case one =>
      have one (f : Word → Word) {i : Instr} (is : exec i s = maskLog1 f md ma s) : gives i (f x) := is.trans (maskLog1_ready hc hr f)
      exact ⟨one _ rfl, one (fun p => p) rfl⟩
    case found =>
      have count (f : Word → Nat) {i : Instr} {P : Nat → Prop} (is : exec i s = maskCount f d ma s) (spec : P (f x)) : counts i P :=
        ⟨f x, is.trans (maskCount_ready hc hr f), spec⟩
      refine ⟨⟨_, ?mpop, rfl⟩, count (fun z => ((List.range 64).find? fun i => getBit z i).getD 64) rfl (find_lowest_spec x), count (fun z => if z = 0 then 64 else z.toNat.log2) rfl (log2_highest_spec x)⟩
      case mpop =>
        rw [← onesCount_eq]
        exact (rfl : _ = execMpop d ma s).trans (maskCount_ready hc hr _)

end Sys2Proof.Machine

namespace Sys2Proof.Machine

/-! ## Witness registers (R221–R223, R227) -/

/-- Entry e of a witness whose elements have w bits; those of 16 have half-entries (R223). -/
def witEntry (E : Vector (BitVec 16) 64) (w e : Nat) : Nat :=
  if w = 16 then bitsAt (E.toList.getD (e / 2) 0).toNat (8 * (e % 2)) 8 else (E.toList.getD e 0).toNat

theorem entry_ofFn (f : Fin 64 → BitVec 16) {i : Nat} (h : i < 64) : (Vector.ofFn f).toList.getD i 0 = f ⟨i, h⟩ := by
  simp [h]

theorem entriesOf_whole (l : List Nat) {i : Nat} (h : i < 64) : (entriesOf false l).toList.getD i 0 = BitVec.ofNat 16 (l.getD i 0) := entry_ofFn _ h

theorem witEntry_entriesOf {w : Nat} (hw : w = 16 ∨ w = 32) (l : List Nat) {e : Nat} (he : e < 2048 / w) :
    witEntry (entriesOf (w == 16) l) w e = l.getD e 0 % 2 ^ (w / 2) := by
  rcases hw with rfl | rfl
  · have pair : (entriesOf true l).toList.getD (e / 2) 0 = BitVec.ofNat 16 (l.getD (2 * (e / 2)) 0 % 256 + 256 * l.getD (2 * (e / 2) + 1) 0) :=
      entry_ofFn _ (by omega)
    show bitsAt ((entriesOf true l).toList.getD (e / 2) 0).toNat (8 * (e % 2)) 8 = _
    rw [pair, bitsAt, BitVec.toNat_ofNat]
    rcases Nat.mod_two_eq_zero_or_one e with even | odd
    · rw [even, show 2 * (e / 2) = e by omega]; omega
    · rw [odd, show 2 * (e / 2) + 1 = e by omega]; omega
  · rw [show (32 == 16) = false from rfl, witEntry, if_neg (by decide), entriesOf_whole l (by omega), BitVec.toNat_ofNat]

theorem elemAt_ofElems_lane (l : List Nat) {e : Nat} (he : e < 64) : elemAt 32 (ofElems 32 l) e = l.getD e 0 % 2 ^ 32 := by
  rw [elemAt_32, ofElems, lane_ofFn _ he]
  rfl

/-- What a producer leaves: a result, a witness, its events and the next sequence number (R227). -/
def produced (d : VR) (w : WR) (V : Vec) (W : Wit) (events : List Nat) (s : State) : State :=
  let t := land (.w w) (.wit W) 6 (land (.v d) (.vec V) 6 s)
  countMine events { t with ctx := { t.ctx with wctr := s.ctx.wctr + 1 } }

theorem produce_eq (kind cnt : Nat) (ew : Bool) (d : VR) (w : WR) (V : Vec) (E : Vector (BitVec 16) 64) (events : List Nat) (s : State) :
    produce kind cnt ew d w V E events s = .next (produced d w V ⟨E, witTag kind cnt ew s.ctx.wctr⟩ events s) := by
  simp only [produce, produced, land_ctx_wctr]

theorem needFeature_accepted {bit : Nat} {s : State} (h : accepted s bit = true) (k : State → Res) : needFeature bit s k = k s := if_pos h

theorem vrun_eq {a : VR} {n : Nat} (fits : a.val + n ≤ 32) : vrun a n = (List.range n).map fun k => Fin.ofNat 32 (a.val + k) := by
  rw [vrun, ← List.filterMap_eq_map]
  refine List.filterMap_congr fun k hk => ?_
  have low : a.val + k < 32 := by have := List.mem_range.1 hk; omega
  rw [dif_pos low]
  exact congrArg some (Fin.ext (Nat.mod_eq_of_lt low).symm)

/-- Contributor k of element e: that element of v(a + k) (R226). -/
def contributor (s : State) (a : VR) (w e k : Nat) : Nat := elemAt w (rdV s (Fin.ofNat 32 (a.val + k))) e

section LaneProducers

variable {s : State} {d a : VR} {n : Nat} {w : WR} {ty : Fin 16} (hc : Computes s) (feature : accepted s 4 = true) (fits : a.val + n ≤ 32)
  (hr : Ready ((vrun a n).map .v) [.v d, .w w] s)
include hc feature fits hr

/-- A lane-wise producer gives each element what its function makes of the contributors (R226, R228). -/
theorem laneProducer_ready (kind : Nat) (f : Bool → List Nat → Nat × Nat × List Nat) :
    let wd := tyWidth ty
    let each (e : Nat) := f (wd == 16) ((List.range n).map (contributor s a wd e))
    ∃ V E, laneProducer kind d a n w ty f s =
        .next (produced d w V ⟨E, witTag kind n (wd == 16) s.ctx.wctr⟩ ((List.range (2048 / wd)).flatMap fun e => (each e).2.2) s) ∧
      ∀ e, e < 2048 / wd → elemAt wd V e = (each e).1 % 2 ^ wd ∧ witEntry E wd e = (each e).2.1 % 2 ^ (wd / 2) := by
  intro wd each
  have hw : wd = 16 ∨ wd = 32 := width_int ty
  have column {e : Nat} (he : e < 2048 / wd) :
      ((vrun a n).map fun r => elems wd (rdV s r)).map (fun l => l.getD e 0) = (List.range n).map (contributor s a wd e) := by
    rw [vrun_eq fits, List.map_map, List.map_map]
    exact List.map_congr_left fun k _ => elems_getD hw _ he
  have out : (List.range (2048 / wd)).map (fun e => f (wd == 16) (((vrun a n).map fun r => elems wd (rdV s r)).map fun l => l.getD e 0)) =
      (List.range (2048 / wd)).map each :=
    List.map_congr_left fun e he => congrArg (f (wd == 16)) (column (List.mem_range.1 he))
  rw [laneProducer, if_neg (by omega), needFeature_accepted feature, needCompute_ready hc]
  dsimp only
  rw [guardRegs_ready hr, out, List.map_map, List.map_map, List.flatMap_map, produce_eq]
  refine ⟨_, _, rfl, fun e he => ⟨elemAt_ofElems hw _ he, ?_⟩⟩
  rw [witEntry_entriesOf hw _ he, getD_map_range _ he, Function.comp_apply]

end LaneProducers

/-! ## Rank and winners (R224) -/

/-- Ranks are integers, with NaN above them all (R224). -/
def rankKey (r : Option Int) : WithTop ℤ := r

theorem rankLt_iff (p q : Option Int) : rankLt p q = true ↔ rankKey p < rankKey q :=
  match p, q with
  | none, _ => iff_of_false Bool.false_ne_true not_top_lt
  | some x, none => iff_of_true rfl (WithTop.coe_lt_top x)
  | some _, some _ => decide_eq_true_iff.trans WithTop.coe_lt_coe.symm

theorem rankLt_eq_false (p q : Option Int) : rankLt p q = false ↔ rankKey q ≤ rankKey p := by
  rw [← Bool.not_eq_true, rankLt_iff, not_lt]

/-- Of contributors 0 to N - 1, ranked by r, j is the first of highest rank. -/
def Leads (r : Nat → WithTop ℤ) (N j : Nat) : Prop := j < N ∧ (∀ k, k < N → r k ≤ r j) ∧ ∀ k, k < j → r k < r j

theorem Leads.keeps {r : Nat → WithTop ℤ} {N j : Nat} (h : Leads r N j) (le : r N ≤ r j) : Leads r (N + 1) j := by
  obtain ⟨lt, top, first⟩ := h
  refine ⟨by omega, fun k hk => ?_, first⟩
  rcases Nat.lt_succ_iff_lt_or_eq.1 hk with below | rfl
  · exact top k below
  · exact le

theorem Leads.yields {r : Nat → WithTop ℤ} {N j : Nat} (h : Leads r N j) (lt : r j < r N) : Leads r (N + 1) N := by
  obtain ⟨-, top, -⟩ := h
  have beaten (k : Nat) (hk : k < N) : r k < r N := (top k hk).trans_lt lt
  refine ⟨by omega, fun k hk => ?_, beaten⟩
  rcases Nat.lt_succ_iff_lt_or_eq.1 hk with below | rfl
  · exact (beaten k below).le
  · exact le_rfl

/-- The search goes on with the leader of the contributors seen. -/
theorem winnerFrom_leads (ty : Fin 16) (larger : Bool) (X : Nat → Nat) (m : Nat) : ∀ {i j : Nat}, Leads (fun k => rankKey (rankOf ty larger (X k))) i j →
    ∃ l, Leads (fun k => rankKey (rankOf ty larger (X k))) (i + m) l ∧ winnerFrom ty larger i j (X j) ((List.range' i m).map X) = (l, X l) := by
  induction m with
  | zero => exact fun {i j} h => ⟨j, h, rfl⟩
  | succ m ih =>
    intro i j h
    rw [List.range'_succ, List.map_cons, winnerFrom, show i + (m + 1) = i + 1 + m by omega]
    by_cases lt : rankLt (rankOf ty larger (X j)) (rankOf ty larger (X i)) = true
    · rw [if_pos lt]
      exact ih (h.yields ((rankLt_iff ..).1 lt))
    · rw [if_neg lt]
      exact ih (h.keeps ((rankLt_eq_false ..).1 (by simpa using lt)))

/-- More than one of N places meets p when a place other than j does, j doing so. -/
theorem one_lt_length_filter_range {N j : Nat} {p : Nat → Bool} (hj : j < N) (hp : p j = true) :
    1 < ((List.range N).filter p).length ↔ ∃ k, k < N ∧ k ≠ j ∧ p k = true := by
  have card : ((List.range N).filter p).length = ((Finset.range N).filter fun k => p k = true).card := by
    rw [← List.toFinset_card_of_nodup (List.nodup_range.filter p), List.toFinset_filter, List.toFinset_range]
  have mem : j ∈ (Finset.range N).filter fun k => p k = true := Finset.mem_filter.2 ⟨Finset.mem_range.2 hj, hp⟩
  rw [card]
  constructor
  · intro more
    obtain ⟨k, hk, ne⟩ := Finset.exists_mem_ne more j
    obtain ⟨lt, meets⟩ := Finset.mem_filter.1 hk
    exact ⟨k, Finset.mem_range.1 lt, ne, meets⟩
  · rintro ⟨k, lt, ne, meets⟩
    exact Finset.one_lt_card.2 ⟨k, Finset.mem_filter.2 ⟨Finset.mem_range.2 lt, meets⟩, j, mem, ne⟩

theorem tied_iff (ty : Fin 16) (larger : Bool) (X : Nat → Nat) {N j : Nat} (hj : j < N) :
    tied ty larger ((List.range N).map X) (X j) = true ↔ ∃ k, k < N ∧ k ≠ j ∧ rankOf ty larger (X k) = rankOf ty larger (X j) := by
  rw [tied, decide_eq_true_iff, List.filter_map, List.length_map, one_lt_length_filter_range hj (by simp)]
  simp

/-- The winner of contributors X 0 to X (N - 1) is their leader (R224). -/
theorem pickWinner_leads (ty : Fin 16) (larger : Bool) (X : Nat → Nat) {N : Nat} (pos : 1 ≤ N) :
    ∃ j, Leads (fun k => rankKey (rankOf ty larger (X k))) N j ∧ pickWinner ty larger ((List.range N).map X) =
      ⟨if isNanElem ty (X j) then canonOf ty else X j, j, tied ty larger ((List.range N).map X) (X j), isNanElem ty (X j)⟩ := by
  obtain ⟨m, rfl⟩ := Nat.exists_eq_add_of_le pos
  have alone : Leads (fun k => rankKey (rankOf ty larger (X k))) 1 0 :=
    ⟨Nat.one_pos, fun k hk => by obtain rfl := Nat.lt_one_iff.1 hk; exact le_rfl, fun k hk => absurd hk k.not_lt_zero⟩
  obtain ⟨j, leads, found⟩ := winnerFrom_leads ty larger X m alone
  refine ⟨j, leads, ?_⟩
  have list : (List.range (1 + m)).map X = X 0 :: (List.range' 1 m).map X := by
    rw [Nat.add_comm, List.range_eq_range', List.range'_succ, List.map_cons]
  rw [pickWinner, list, List.headD_cons, List.drop_one, List.tail_cons, found]

/-! ## Entries of picks (R223) -/

/-- The tie bit of an entry whose elements have w bits; the NaN bit lies above it. -/
def tieBit (w : Nat) : Nat := if w = 16 then 6 else 14

theorem ite_two_pow (b : Bool) (n : Nat) : (if b then 2 ^ n else 0) = 2 ^ n * b.toNat := by
  cases b <;> simp

theorem decide_toNat_eq_one (b : Bool) : decide (b.toNat = 1) = b := by
  cases b <;> rfl

section PickEntries

variable {w : Nat} (hw : w = 16 ∨ w = 32) (p : Pick)
include hw

theorem pickEntry_eq : pickEntry (w == 16) p = p.index + 2 ^ tieBit w * (p.tie.toNat + 2 * p.nan.toNat) := by
  rcases hw with rfl | rfl
  · rw [show (16 == 16) = true from rfl, pickEntry, if_pos rfl, ite_two_pow, ite_two_pow, show tieBit 16 = 6 from rfl]
    ring
  · rw [show (32 == 16) = false from rfl, pickEntry, if_neg (by decide), ite_two_pow, ite_two_pow, show tieBit 32 = 14 from rfl]
    ring

/-- Index, tie and NaN of an entry that a producer wrote. -/
theorem pickEntry_bits (small : p.index < 64) : let x := pickEntry (w == 16) p % 2 ^ (w / 2)
    x % 64 = p.index ∧ x.testBit (tieBit w) = p.tie ∧ x.testBit (tieBit w + 1) = p.nan := by
  intro x
  have hx : x = (p.index + 2 ^ tieBit w * (p.tie.toNat + 2 * p.nan.toNat)) % 2 ^ (w / 2) := by rw [← pickEntry_eq hw]
  have tie := p.tie.toNat_lt
  have nan := p.nan.toNat_lt
  have digits : x % 64 = p.index ∧ x / 2 ^ tieBit w % 2 = p.tie.toNat ∧ x / 2 ^ (tieBit w + 1) % 2 = p.nan.toNat := by
    rcases hw with rfl | rfl
    · rw [show tieBit 16 = 6 from rfl] at hx ⊢
      omega
    · rw [show tieBit 32 = 14 from rfl] at hx ⊢
      omega
  obtain ⟨index, low, high⟩ := digits
  rw [Nat.testBit_eq_decide_div_mod_eq, Nat.testBit_eq_decide_div_mod_eq, low, high]
  exact ⟨index, decide_toNat_eq_one _, decide_toNat_eq_one _⟩

end PickEntries

theorem canonOf_lt (ty : Fin 16) : canonOf ty < 2 ^ tyWidth ty := by
  revert ty
  decide

/-! ## Max and min (R224, R228, R230) -/

/-- The result is the value of the leader j of the contributors X 0 to X (N - 1), canonical when it is NaN, and the entry names j, its ties
and its NaN. -/
def NamesWinner (ty : Fin 16) (larger : Bool) (N : Nat) (X : Nat → Nat) (result entry : Nat) : Prop :=
  ∃ j, Leads (fun k => rankKey (rankOf ty larger (X k))) N j ∧ result = (if isNanElem ty (X j) then canonOf ty else X j) ∧ entry % 64 = j ∧
    (entry.testBit (tieBit (tyWidth ty)) = true ↔ ∃ k, k < N ∧ k ≠ j ∧ rankOf ty larger (X k) = rankOf ty larger (X j)) ∧
    entry.testBit (tieBit (tyWidth ty) + 1) = isNanElem ty (X j)

/-- A winner as it is read back from a result and an entry of the type's width. -/
theorem namesWinner_pickWinner (ty : Fin 16) (larger : Bool) {N : Nat} (pos : 1 ≤ N) (small : N ≤ 64) {X : Nat → Nat} (hX : ∀ k, X k < 2 ^ tyWidth ty) :
    let p := pickWinner ty larger ((List.range N).map X)
    NamesWinner ty larger N X (p.val % 2 ^ tyWidth ty) (pickEntry (tyWidth ty == 16) p % 2 ^ (tyWidth ty / 2)) := by
  intro p
  obtain ⟨j, leads, winner⟩ := pickWinner_leads ty larger X pos
  have lt : j < N := leads.1
  obtain ⟨index, tie, nan⟩ := pickEntry_bits (width_int ty) p (by rw [show p = _ from winner]; exact lt.trans_le small)
  simp only [show p = _ from winner] at index tie nan ⊢
  refine ⟨j, leads, Nat.mod_eq_of_lt ?value, index, by rw [tie, tied_iff ty larger X lt], nan⟩
  case value =>
    split
    · exact canonOf_lt ty
    · exact hX j

section LaneProducers

variable {s : State} {d a : VR} {n : Nat} {w : WR} {ty : Fin 16} (hc : Computes s) (feature : accepted s 4 = true) (fits : a.val + n ≤ 32)
  (hr : Ready ((vrun a n).map .v) [.v d, .w w] s)
include hc feature fits hr

/-- A lane-wise producer of picks counts no event (R228). -/
theorem pickProducer_ready (kind : Nat) (pick : List Nat → Pick) :
    let wd := tyWidth ty
    let p (e : Nat) := pick ((List.range n).map (contributor s a wd e))
    ∃ V E, laneProducer kind d a n w ty (fun ew xs => pickResult ew (pick xs)) s =
        .next (produced d w V ⟨E, witTag kind n (wd == 16) s.ctx.wctr⟩ [] s) ∧
      ∀ e, e < 2048 / wd → elemAt wd V e = (p e).val % 2 ^ wd ∧ witEntry E wd e = pickEntry (wd == 16) (p e) % 2 ^ (wd / 2) := by
  intro wd p
  obtain ⟨V, E, run, each⟩ := laneProducer_ready hc feature fits hr kind fun ew xs => pickResult ew (pick xs)
  refine ⟨V, E, run.trans ?_, each⟩
  have quiet : (List.range (2048 / wd)).flatMap (fun _ => ([] : List Nat)) = [] := List.flatMap_eq_nil_iff.2 fun _ _ => rfl
  exact congrArg (fun evs => Host.Outcome.next (produced d w V ⟨E, witTag kind n (wd == 16) s.ctx.wctr⟩ evs s)) quiet

/-- VMAXW and VMINW name the winner of every element. -/
theorem winnerProducer_ready (kind : Nat) (larger : Bool) (pos : 1 ≤ n) (small : n ≤ 16) :
    let wd := tyWidth ty
    ∃ V E, laneProducer kind d a n w ty (fun ew xs => pickResult ew (pickWinner ty larger xs)) s =
        .next (produced d w V ⟨E, witTag kind n (wd == 16) s.ctx.wctr⟩ [] s) ∧
      ∀ e, e < 2048 / wd → NamesWinner ty larger n (contributor s a wd e) (elemAt wd V e) (witEntry E wd e) := by
  intro wd
  obtain ⟨V, E, run, each⟩ := pickProducer_ready hc feature fits hr kind (pickWinner ty larger)
  refine ⟨V, E, run, fun e he => ?_⟩
  obtain ⟨value, entry⟩ := each e he
  rw [value, entry]
  exact namesWinner_pickWinner ty larger pos (by omega) fun k => elemAt_lt ..

end LaneProducers

section Forms

variable (d a : VR) {n : Fin 32} (w : WR) {ty : Fin 16} (s : State) (listed : ty.val ∈ [2, 3, 4, 5, 6, 7, 8]) (pos : 1 ≤ n.val) (small : n.val ≤ 16)
include listed pos small

theorem execVmaxw_listed : execVmaxw d a n w ty s = laneProducer 1 d a n.val w ty (fun ew xs => pickResult ew (pickWinner ty true xs)) s := by
  rw [execVmaxw, needTy_listed listed, if_neg (by omega)]

theorem execVminw_listed : execVminw d a n w ty s = laneProducer 2 d a n.val w ty (fun ew xs => pickResult ew (pickWinner ty false xs)) s := by
  rw [execVminw, needTy_listed listed, if_neg (by omega)]

end Forms

/-- A cross-lane producer names the winner of every segment, and leaves the other lanes and entries 0 (R230). -/
theorem crossProducer_ready {s : State} {d a : VR} {g : Fin 32} {w : WR} {ty : Fin 16} (hc : Computes s) (feature : accepted s 4 = true)
    (hr : Ready [.v a] [.v d, .w w] s) (listed : ty.val ∈ [4, 5, 8]) (pos : 1 ≤ g.val) (small : g.val ≤ 6) (kind : Nat) (larger : Bool) :
    ∃ V E, crossProducer kind larger d a g w ty s = .next (produced d w V ⟨E, witTag kind g.val false s.ctx.wctr⟩ [] s) ∧
      (∀ j, j < 64 / 2 ^ g.val → NamesWinner ty larger (2 ^ g.val) (fun k => elemAt 32 (rdV s a) (j * 2 ^ g.val + k)) (elemAt 32 V j)
        (E.toList.getD j 0).toNat) ∧
      ∀ j, j < 64 → 64 / 2 ^ g.val ≤ j → elemAt 32 V j = 0 ∧ E.toList.getD j 0 = 0 := by
  have wide : tyWidth ty = 32 := by
    simp only [List.mem_cons, List.not_mem_nil, or_false] at listed
    exact if_neg (by omega)
  rw [crossProducer, needTy_listed listed, if_neg (by omega), needFeature_accepted feature, needCompute_ready hc, guardRegs_ready hr, produce_eq]
  have total : 64 / 2 ^ g.val ≤ 64 := Nat.div_le_self ..
  refine ⟨_, _, rfl, fun j hj => ?inside, fun j hj beyond => ?beyond⟩
  case inside =>
    have fits : j * 2 ^ g.val + 2 ^ g.val ≤ 64 := by
      rw [← Nat.succ_mul]
      exact (Nat.mul_le_mul_right _ hj).trans (Nat.div_mul_le_self ..)
    have positive : 1 ≤ 2 ^ g.val := Nat.one_le_two_pow
    have named := namesWinner_pickWinner ty larger positive (by omega) (X := fun k => elemAt 32 (rdV s a) (j * 2 ^ g.val + k))
      fun k => by rw [wide]; exact elemAt_lt ..
    rw [wide] at named
    simp only [elemAt_32 (rdV s a)] at named ⊢
    rw [elemAt_ofElems_lane _ (by omega), entriesOf_whole _ (by omega), BitVec.toNat_ofNat, List.map_map, List.map_map, getD_map_range _ hj, getD_map_range _ hj,
      Function.comp_apply, Function.comp_apply, elems_segment _ fits]
    exact named
  case beyond =>
    have none {α : Type} (f : Nat → α) (z : α) : ((List.range (64 / 2 ^ g.val)).map f).getD j z = z :=
      List.getD_eq_default _ _ (by simpa using beyond)
    rw [elemAt_ofElems_lane _ hj, List.map_map, none, entriesOf_whole _ hj, List.map_map, none]
    exact ⟨rfl, rfl⟩

/-- Settles O26: a lane-wise or cross-lane producer is its equation on ready operands (`winnerProducer_ready`, `crossProducer_ready`), and the
search of R224 ends with the first contributor of highest rank (`pickWinner_leads`), which the entry names (`pickEntry_bits`). -/
theorem witnessWinners : Obligations.WitnessWinners := by
  intro s d a n g w ty hc feature first last wd produces nan entry picks X
  have listed := ty_arith_mem first last
  have named {larger : Bool} {N : Nat} {Y : Nat → Nat} {result ent : Nat} (h : NamesWinner ty larger N Y result ent) : picks larger N Y result ent := by
    obtain ⟨j, ⟨lt, top, least⟩, rest⟩ := h
    exact ⟨j, lt, fun k hk => (rankLt_eq_false ..).2 (top k hk), fun k hk => (rankLt_iff ..).2 (least k hk), rest⟩
  refine ⟨fun pos small fits hr => ?lanes, fun pos small types hr => ?cross, fun long pos small => ?reserved⟩
  case lanes =>
    have gives (kind : Nat) (larger : Bool) {i : Instr}
        (is : exec i s = laneProducer kind d a n.val w ty (fun ew xs => pickResult ew (pickWinner ty larger xs)) s) :
        ∃ V E, produces i kind n.val (wd == 16) V E ∧ ∀ e, e < 2048 / wd → picks larger n.val (X e) (elemAt wd V e) (entry E e) := by
      obtain ⟨V, E, run, each⟩ := winnerProducer_ready hc feature fits hr kind larger pos small
      exact ⟨V, E, is.trans run, fun e he => named (each e he)⟩
    exact ⟨gives 1 true (execVmaxw_listed d a w s listed pos small), gives 2 false (execVminw_listed d a w s listed pos small)⟩
  case cross =>
    have gives (kind : Nat) (larger : Bool) {i : Instr} (is : exec i s = crossProducer kind larger d a g w ty s) :
        ∃ V E, produces i kind g.val false V E ∧
          (∀ j, j < 64 / 2 ^ g.val → picks larger (2 ^ g.val) (fun k => elemAt 32 (rdV s a) (j * 2 ^ g.val + k)) (elemAt 32 V j) (E.toList.getD j 0).toNat) ∧
          ∀ j, j < 64 → 64 / 2 ^ g.val ≤ j → elemAt 32 V j = 0 ∧ E.toList.getD j 0 = 0 := by
      obtain ⟨V, E, run, each, rest⟩ := crossProducer_ready hc feature hr types pos small kind larger
      exact ⟨V, E, is.trans run, fun j hj => named (each j hj), rest⟩
    exact ⟨gives 6 true rfl, gives 7 false rfl⟩
  case reserved => exact (execVmaxw_listed d a w s listed pos small).trans (if_pos long)

/-! ## Medians (R225) -/

/-- The rank of an indexed contributor. -/
def rankSnd (ty : Fin 16) (e : Nat × Nat) : Option Int := rankOf ty true e.2

theorem insertRank_perm (ty : Fin 16) (e : Nat × Nat) : ∀ l : List (Nat × Nat), (insertRank ty e l).Perm (e :: l)
  | [] => .refl _
  | y :: ys => by
    rw [insertRank]
    split
    · exact .refl _
    · exact ((insertRank_perm ty e ys).cons y).trans (.swap e y ys)

/-- A list of indexed contributors rises by rank. -/
def Rising (ty : Fin 16) (l : List (Nat × Nat)) : Prop := l.Pairwise fun x y => rankKey (rankSnd ty x) ≤ rankKey (rankSnd ty y)

theorem insertRank_rising (ty : Fin 16) (e : Nat × Nat) : ∀ {l : List (Nat × Nat)}, Rising ty l → Rising ty (insertRank ty e l)
  | [], _ => List.pairwise_singleton ..
  | y :: ys, h => by
    obtain ⟨least, rest⟩ := List.pairwise_cons.1 h
    rw [insertRank]
    split
    · rename_i lt
      have below : rankKey (rankSnd ty e) < rankKey (rankSnd ty y) := (rankLt_iff ..).1 lt
      refine List.pairwise_cons.2 ⟨fun z hz => ?_, h⟩
      rcases List.mem_cons.1 hz with rfl | inside
      · exact below.le
      · exact below.le.trans (least z inside)
    · rename_i notLt
      have above : rankKey (rankSnd ty y) ≤ rankKey (rankSnd ty e) := (rankLt_eq_false ..).1 (Bool.eq_false_iff.2 notLt)
      refine List.pairwise_cons.2 ⟨fun z hz => ?_, insertRank_rising ty e rest⟩
      rcases List.mem_cons.1 ((insertRank_perm ty e ys).mem_iff.1 hz) with rfl | inside
      · exact above
      · exact least z inside

theorem foldl_insertRank (ty : Fin 16) : ∀ (xs : List (Nat × Nat)) {l : List (Nat × Nat)}, Rising ty l →
    Rising ty (xs.foldl (fun l e => insertRank ty e l) l) ∧ (xs.foldl (fun l e => insertRank ty e l) l).Perm (xs ++ l)
  | [], _, h => ⟨h, .refl _⟩
  | x :: xs, l, h => by
    obtain ⟨rising, perm⟩ := foldl_insertRank ty xs (insertRank_rising ty x h)
    exact ⟨rising, perm.trans (((insertRank_perm ty x l).append_left xs).trans List.perm_middle)⟩

/-- Of a rising list, only values before m lie below it, and only values after it above. -/
theorem rising_counts {ty : Fin 16} {front back : List (Nat × Nat)} {m : Nat × Nat} (h : Rising ty (front ++ m :: back)) :
    (front ++ m :: back).countP (fun y => rankLt (rankSnd ty y) (rankSnd ty m)) ≤ front.length ∧
      (front ++ m :: back).countP (fun y => rankLt (rankSnd ty m) (rankSnd ty y)) ≤ back.length := by
  obtain ⟨-, fromM, across⟩ := List.pairwise_append.1 h
  obtain ⟨after, -⟩ := List.pairwise_cons.1 fromM
  have noneBelow : (m :: back).countP (fun y => rankLt (rankSnd ty y) (rankSnd ty m)) = 0 := by
    refine List.countP_eq_zero.2 fun y hy => Bool.eq_false_iff.1 ((rankLt_eq_false ..).2 ?_)
    rcases List.mem_cons.1 hy with rfl | later
    · exact le_rfl
    · exact after y later
  have noneAbove : (front ++ [m]).countP (fun y => rankLt (rankSnd ty m) (rankSnd ty y)) = 0 := by
    refine List.countP_eq_zero.2 fun y hy => Bool.eq_false_iff.1 ((rankLt_eq_false ..).2 ?_)
    rcases List.mem_append.1 hy with earlier | last
    · exact across y earlier m (List.mem_cons_self ..)
    · rw [List.mem_singleton.1 last]
  constructor
  · rw [List.countP_append, noneBelow]
    exact List.countP_le_length
  · rw [List.append_cons, List.countP_append, noneAbove, Nat.zero_add]
    exact List.countP_le_length

/-- The contributors X 0 to X (n - 1), indexed and sorted by rank, equal ranks in the order of their indices (R225). -/
def sortedRange (ty : Fin 16) (X : Nat → Nat) (n : Nat) : List (Nat × Nat) :=
  ((List.range n).map fun k => (k, X k)).foldl (fun l e => insertRank ty e l) []

theorem sortedRange_rising (ty : Fin 16) (X : Nat → Nat) (n : Nat) : Rising ty (sortedRange ty X n) :=
  (foldl_insertRank ty _ .nil).1

theorem sortedRange_perm (ty : Fin 16) (X : Nat → Nat) (n : Nat) : (sortedRange ty X n).Perm ((List.range n).map fun k => (k, X k)) :=
  ((foldl_insertRank ty _ .nil).2).trans (.of_eq (List.append_nil _))

/-- Without a NaN the median is a contributor with at most (n - 1) / 2 others below it and as many above (R225). -/
theorem pickMedian_ordered (ty : Fin 16) {n : Nat} (odd : n % 2 = 1) {X : Nat → Nat} (ordered : ∀ k, k < n → isNanElem ty (X k) = false) :
    let p := pickMedian ty ((List.range n).map X)
    p.index < n ∧ p.val = X p.index ∧
      ((List.range n).countP fun k => rankLt (rankOf ty true (X k)) (rankOf ty true p.val)) ≤ (n - 1) / 2 ∧
      ((List.range n).countP fun k => rankLt (rankOf ty true p.val) (rankOf ty true (X k))) ≤ (n - 1) / 2 := by
  intro p
  have none : ((List.range n).map X).findIdx? (isNanElem ty) = none := by
    simpa [List.findIdx?_eq_none_iff] using ordered
  have perm := sortedRange_perm ty X n
  have length : (sortedRange ty X n).length = n := by simpa using perm.length_eq
  have half : (n - 1) / 2 < (sortedRange ty X n).length := by omega
  let m := (sortedRange ty X n)[(n - 1) / 2]
  have picked : p = ⟨m.2, m.1, tied ty true ((List.range n).map X) m.2, false⟩ := by
    have zipped : (List.range n).zip ((List.range n).map X) = (List.range n).map fun k => (k, X k) := by
      simpa using List.zip_map' (f := id) (g := X) (l := List.range n)
    have median : (sortedRange ty X n).getD ((n - 1) / 2) (0, 0) = m := List.getD_eq_getElem _ _ half
    simp only [p, pickMedian, none, List.length_map, List.length_range, zipped]
    rw [← sortedRange, median]
  obtain ⟨j, hj, is⟩ := List.mem_map.1 (perm.mem_iff.1 (List.getElem_mem half))
  have index : m.1 = j := congrArg Prod.fst is.symm
  have value : m.2 = X j := congrArg Prod.snd is.symm
  have parts : sortedRange ty X n = (sortedRange ty X n).take ((n - 1) / 2) ++ m :: (sortedRange ty X n).drop ((n - 1) / 2 + 1) := by
    rw [← List.drop_eq_getElem_cons half, List.take_append_drop]
  have counts (q : Option Int → Bool) : ((List.range n).countP fun k => q (rankOf ty true (X k))) = (sortedRange ty X n).countP fun y => q (rankSnd ty y) := by
    rw [perm.countP_eq, List.countP_map]
    rfl
  obtain ⟨below, above⟩ := rising_counts (parts ▸ sortedRange_rising ty X n)
  rw [← parts, List.length_take] at below
  rw [← parts, List.length_drop] at above
  rw [picked]
  refine ⟨index ▸ List.mem_range.1 hj, value.trans (congrArg X index.symm), ?_, ?_⟩
  · rw [counts fun r => rankLt r (rankOf ty true m.2)]
    exact below.trans (by omega)
  · rw [counts fun r => rankLt (rankOf ty true m.2) r]
    exact above.trans (by omega)

/-- The first NaN is the median when there is one (R225). -/
theorem pickMedian_nan (ty : Fin 16) {n : Nat} {X : Nat → Nat} (unordered : ∃ k, k < n ∧ isNanElem ty (X k) = true) :
    let p := pickMedian ty ((List.range n).map X)
    p.index < n ∧ p.val = canonOf ty ∧ isNanElem ty (X p.index) = true ∧ ∀ k, k < p.index → isNanElem ty (X k) = false := by
  intro p
  obtain ⟨k, hk, isNan⟩ := unordered
  cases found : ((List.range n).map X).findIdx? (isNanElem ty) with
  | none =>
    have ordered := List.findIdx?_eq_none_iff.1 found (X k) (List.mem_map_of_mem (List.mem_range.2 hk))
    rw [isNan] at ordered
    cases ordered
  | some i =>
    obtain ⟨hi, here, before⟩ := List.findIdx?_eq_some_iff_getElem.1 found
    have picked : p = ⟨canonOf ty, i, decide (1 < (((List.range n).map X).filter (isNanElem ty)).length), true⟩ := by
      simp only [p, pickMedian, found]
    rw [picked]
    exact ⟨by simpa using hi, rfl, by simpa using here, fun k lt => by simpa using before k lt⟩

/-- The result has at most (n - 1) / 2 contributors below it and as many above, and stands at j; it is the canonical NaN, and j the first
NaN, when there is one. -/
def NamesMedian (ty : Fin 16) (n : Nat) (X : Nat → Nat) (result j : Nat) : Prop :=
  j < n ∧
    ((∀ k, k < n → isNanElem ty (X k) = false) →
      ((List.range n).countP fun k => rankLt (rankOf ty true (X k)) (rankOf ty true result)) ≤ (n - 1) / 2 ∧
      ((List.range n).countP fun k => rankLt (rankOf ty true result) (rankOf ty true (X k))) ≤ (n - 1) / 2 ∧ X j = result) ∧
    ((∃ k, k < n ∧ isNanElem ty (X k) = true) →
      result = canonOf ty ∧ isNanElem ty (X j) = true ∧ ∀ k, k < j → isNanElem ty (X k) = false)

/-- A median as it is read back from a result and an entry of the type's width. -/
theorem namesMedian_pickMedian (ty : Fin 16) {n : Nat} (odd : n % 2 = 1) (small : n ≤ 16) {X : Nat → Nat} (hX : ∀ k, X k < 2 ^ tyWidth ty) :
    let p := pickMedian ty ((List.range n).map X)
    NamesMedian ty n X (p.val % 2 ^ tyWidth ty) (pickEntry (tyWidth ty == 16) p % 2 ^ (tyWidth ty / 2) % 16) := by
  intro p
  have read (lt : p.index < n) : pickEntry (tyWidth ty == 16) p % 2 ^ (tyWidth ty / 2) % 16 = p.index := by
    have index := (pickEntry_bits (width_int ty) p (by omega)).1
    omega
  by_cases unordered : ∃ k, k < n ∧ isNanElem ty (X k) = true
  · obtain ⟨lt, value, nan⟩ := pickMedian_nan ty unordered
    rw [read lt, show p.val = _ from value, Nat.mod_eq_of_lt (canonOf_lt ty)]
    obtain ⟨k, hk, isNan⟩ := unordered
    exact ⟨lt, fun ordered => absurd isNan (by rw [ordered k hk]; decide), fun _ => ⟨rfl, nan⟩⟩
  · have ordered (k : Nat) (hk : k < n) : isNanElem ty (X k) = false := Bool.eq_false_iff.2 fun isNan => unordered ⟨k, hk, isNan⟩
    obtain ⟨lt, value, below, above⟩ := pickMedian_ordered ty odd ordered
    have fits : p.val < 2 ^ tyWidth ty := (show p.val = _ from value) ▸ hX _
    rw [read lt, Nat.mod_eq_of_lt fits]
    exact ⟨lt, fun _ => ⟨below, above, value.symm⟩, fun some => absurd some unordered⟩

/-! ## Clamps (R229) -/

/-- Whether element p lies below q: the comparison of R128 for a floating-point type, of integers otherwise. -/
def elemLt (ty : Fin 16) (p q : Nat) : Bool :=
  match tyFlt ty with
  | some f => numLt (decodeF f p) (decodeF f q)
  | none => decide (intOf (tyWidth ty) (tySigned ty) p < intOf (tyWidth ty) (tySigned ty) q)

theorem clampElem_nan {ty : Fin 16} {x : Nat} (nan : isNanElem ty x = true) (lo hi : Nat) : clampElem ty x lo hi = (canonOf ty, 3) := if_pos nan

theorem clampElem_number {ty : Fin 16} {x : Nat} (number : isNanElem ty x = false) (lo hi : Nat) :
    clampElem ty x lo hi = if elemLt ty x lo then (lo, 1) else if elemLt ty hi x then (hi, 2) else (x, 0) := by
  rw [clampElem, number]
  rfl

/-- A clamped element and its code fit an element and its entry. -/
theorem clampElem_fits {ty : Fin 16} {x lo hi : Nat} (hx : x < 2 ^ tyWidth ty) (hlo : lo < 2 ^ tyWidth ty) (hhi : hi < 2 ^ tyWidth ty) :
    (clampElem ty x lo hi).1 < 2 ^ tyWidth ty ∧ (clampElem ty x lo hi).2 < 4 := by
  cases nan : isNanElem ty x with
  | true =>
    rw [clampElem_nan nan]
    exact ⟨canonOf_lt ty, show 3 < 4 by decide⟩
  | false =>
    rw [clampElem_number nan]
    split
    · exact ⟨hlo, show 1 < 4 by decide⟩
    · split
      · exact ⟨hhi, show 2 < 4 by decide⟩
      · exact ⟨hx, show 0 < 4 by decide⟩

theorem entry_fits {w x : Nat} (hw : w = 16 ∨ w = 32) (h : x < 256) : x % 2 ^ (w / 2) = x := by
  rcases hw with rfl | rfl <;> exact Nat.mod_eq_of_lt (by omega)

/-- VCLPW clamps every element of a by those of v(b) and v(b + 1). -/
theorem execVclpw_ready {s : State} {d a b : VR} {w : WR} {ty : Fin 16} (hc : Computes s) (feature : accepted s 4 = true)
    (listed : ty.val ∈ [2, 3, 4, 5, 6, 7, 8]) (h : b.val + 1 < 32) (hr : Ready [.v a, .v b, .v ⟨b.val + 1, h⟩] [.v d, .w w] s) :
    let wd := tyWidth ty
    let r (e : Nat) := clampElem ty (elemAt wd (rdV s a) e) (elemAt wd (rdV s b) e) (elemAt wd (rdV s ⟨b.val + 1, h⟩) e)
    ∃ V E, execVclpw d a b w ty s = .next (produced d w V ⟨E, witTag 4 0 (wd == 16) s.ctx.wctr⟩ [] s) ∧
      ∀ e, e < 2048 / wd → elemAt wd V e = (r e).1 ∧ witEntry E wd e = (r e).2 := by
  intro wd r
  have hw : wd = 16 ∨ wd = 32 := width_int ty
  have out : (((elems wd (rdV s a)).zip (elems wd (rdV s b))).zip (elems wd (rdV s ⟨b.val + 1, h⟩))).map (fun e => clampElem ty e.1.1 e.1.2 e.2) =
      (List.range (2048 / wd)).map r := by
    rw [elems_eq hw, elems_eq hw, elems_eq hw, List.zip_map', List.zip_map', List.map_map]
    rfl
  rw [execVclpw, needTy_listed listed, dif_pos h, needFeature_accepted feature, needCompute_ready hc]
  dsimp only
  rw [guardRegs_ready hr, out, List.map_map, List.map_map, produce_eq]
  refine ⟨_, _, rfl, fun e he => ?_⟩
  obtain ⟨value, code⟩ := clampElem_fits (elemAt_lt wd (rdV s a) e) (elemAt_lt wd (rdV s b) e) (elemAt_lt wd (rdV s ⟨b.val + 1, h⟩) e)
  rw [elemAt_ofElems hw _ he, witEntry_entriesOf hw _ he, getD_map_range _ he]
  exact ⟨Nat.mod_eq_of_lt value, entry_fits hw (code.trans (by decide))⟩

theorem execVclpw_reserved (d a : VR) {b : VR} (w : WR) {ty : Fin 16} (s : State) (listed : ty.val ∈ [2, 3, 4, 5, 6, 7, 8]) (top : b.val = 31) :
    execVclpw d a b w ty s = trapAt 4 0x02 s.frame.parcel s := by
  rw [execVclpw, needTy_listed listed, dif_neg (by omega), reserved]

/-! ## Saturating sums (R228) -/

section Sums

variable (w : Nat) (signed : Bool) (X : Nat → Nat)

/-- The accumulator before contributor k. -/
def satAcc (k : Nat) : Int := (List.range k).foldl (fun z i => satInt w signed (z + intOf w signed (X i))) 0

theorem satAcc_succ (k : Nat) : satAcc w signed X (k + 1) = satInt w signed (satAcc w signed X k + intOf w signed (X k)) := by
  rw [satAcc, List.range_succ, List.foldl_append]
  rfl

/-- Contributor k is added without saturation. -/
def AddsExactly (k : Nat) : Prop := satAcc w signed X (k + 1) = satAcc w signed X k + intOf w signed (X k)

/-- The code and the index that stand for the sum of contributors 0 to n - 1: those of the first that saturates. -/
def FirstSaturation (n code first : Nat) : Prop :=
  (code = 0 ∧ ∀ k, k < n → AddsExactly w signed X k) ∨
    ((code = 1 ∨ code = 2) ∧ first < n ∧ ¬ AddsExactly w signed X first ∧ ∀ k, k < first → AddsExactly w signed X k)

theorem satSum_first (m : Nat) : ∀ {k code first : Nat}, FirstSaturation w signed X k code first →
    ∃ code' first', satSum w signed k (satAcc w signed X k) code first ((List.range' k m).map X) = (satAcc w signed X (k + m), code', first') ∧
      FirstSaturation w signed X (k + m) code' first' := by
  induction m with
  | zero => exact fun {k code first} h => ⟨code, first, rfl, h⟩
  | succ m ih =>
    intro k code first h
    rw [List.range'_succ, List.map_cons, satSum, ← satAcc_succ, show k + (m + 1) = k + 1 + m by omega]
    by_cases saturates : satAcc w signed X (k + 1) ≠ satAcc w signed X k + intOf w signed (X k) ∧ code = 0
    · rw [if_pos saturates]
      obtain ⟨inexact, rfl⟩ := saturates
      refine ih (.inr ⟨?_, k.lt_succ_self, inexact, ?_⟩)
      · split
        · exact .inl rfl
        · exact .inr rfl
      · rcases h with ⟨-, exactly⟩ | ⟨code, -⟩
        · exact exactly
        · omega
    · rw [if_neg saturates]
      refine ih ?_
      rcases h with ⟨rfl, exactly⟩ | ⟨code, lt, here⟩
      · refine .inl ⟨rfl, fun i hi => ?_⟩
        rcases Nat.lt_succ_iff_lt_or_eq.1 hi with below | rfl
        · exact exactly i below
        · exact not_not.1 fun inexact => saturates ⟨inexact, rfl⟩
      · exact .inr ⟨code, by omega, here⟩

/-- A sum of contributors 0 to n - 1, and its first saturation. -/
theorem satSum_range (n : Nat) : ∃ code first, satSum w signed 0 0 0 0 ((List.range n).map X) = (satAcc w signed X n, code, first) ∧
    FirstSaturation w signed X n code first := by
  have found := satSum_first w signed X n (k := 0) (code := 0) (first := 0) (.inl ⟨rfl, fun k hk => absurd hk k.not_lt_zero⟩)
  rwa [Nat.zero_add, ← List.range_eq_range'] at found

/-- The accumulator stays in the type's range. -/
theorem satAcc_range {n : Nat} (pos : 1 ≤ n) : intMin w signed ≤ satAcc w signed X n ∧ satAcc w signed X n ≤ intMax w signed := by
  obtain ⟨k, rfl⟩ := Nat.exists_eq_add_of_le' pos
  rw [satAcc_succ]
  exact satInt_range ..

end Sums

/-- The fields of the entry of a saturating sum (R223). -/
theorem sumEntry_fields {w code first : Nat} (hw : w = 16 ∨ w = 32) (hc : code ≤ 2) : let x := (code + 16 * first) % 2 ^ (w / 2)
    x % 4 = code ∧ (first < 16 → x / 16 = first) := by
  rcases hw with rfl | rfl
  · exact ⟨by omega, fun _ => by omega⟩
  · exact ⟨by omega, fun _ => by omega⟩

section SumProducers

variable {s : State} {d a : VR} {n : Fin 32} {w : WR} {ty : Fin 16} (hc : Computes s) (feature : accepted s 4 = true)
  (fits : a.val + n.val ≤ 32) (hr : Ready ((vrun a n.val).map .v) [.v d, .w w] s)
include hc feature fits hr

/-- VSSMW brings the saturating sum of every element and names its first saturation. -/
theorem execVssmw_ready (listed : ty.val ∈ [2, 3, 4, 5]) (pos : 1 ≤ n.val) (small : n.val ≤ 16) :
    let wd := tyWidth ty
    ∃ V E evs, execVssmw d a n w ty s = .next (produced d w V ⟨E, witTag 5 n.val (wd == 16) s.ctx.wctr⟩ evs s) ∧
      ∀ e, e < 2048 / wd → intOf wd (tySigned ty) (elemAt wd V e) = satAcc wd (tySigned ty) (contributor s a wd e) n.val ∧
        FirstSaturation wd (tySigned ty) (contributor s a wd e) n.val (witEntry E wd e % 4) (witEntry E wd e / 16) := by
  intro wd
  have hw : wd = 16 ∨ wd = 32 := width_int ty
  rw [execVssmw, needTy_listed listed, if_neg (by omega)]
  obtain ⟨V, E, run, each⟩ := laneProducer_ready hc feature fits hr 5 (ty := ty) fun _ xs =>
    let r := satSum (tyWidth ty) (tySigned ty) 0 0 0 0 xs
    (wrapInt (tyWidth ty) r.1, r.2.1 + 16 * r.2.2, if r.2.1 = 0 then [] else [3])
  refine ⟨V, E, _, run, fun e he => ?_⟩
  obtain ⟨value, entry⟩ := each e he
  obtain ⟨code, first, sum, saturation⟩ := satSum_range wd (tySigned ty) (contributor s a wd e) n.val
  obtain ⟨low, high⟩ := satAcc_range wd (tySigned ty) (contributor s a wd e) pos
  rw [value, entry, intOf_mod]
  dsimp only
  rw [sum]
  dsimp only
  refine ⟨intOf_wrapInt (by omega) low high, ?_⟩
  rcases saturation with ⟨rfl, exactly⟩ | ⟨known, lt, here⟩
  · exact .inl ⟨(sumEntry_fields hw (by decide)).1, exactly⟩
  · obtain ⟨codeField, firstField⟩ := sumEntry_fields (first := first) hw (show code ≤ 2 by omega)
    rw [codeField, firstField (by omega)]
    exact .inr ⟨known, lt, here⟩

end SumProducers

theorem execVmedw_listed (d a : VR) {n : Fin 32} (w : WR) {ty : Fin 16} (s : State) (listed : ty.val ∈ [2, 3, 4, 5, 6, 7, 8])
    (odd : n.val = 3 ∨ n.val = 5) : execVmedw d a n w ty s = laneProducer 3 d a n.val w ty (fun ew xs => pickResult ew (pickMedian ty xs)) s := by
  have known : ¬ (n ≠ 3 ∧ n ≠ 5) := fun ⟨three, five⟩ => odd.elim (fun h => three (Fin.ext h)) fun h => five (Fin.ext h)
  rw [execVmedw, needTy_listed listed, if_neg known]

/-- Settles O27: the median by the counts of a sorted list (`rising_counts`, `pickMedian_ordered`) and its first NaN (`pickMedian_nan`), a clamp by
its cases (`clampElem_nan`, `clampElem_number`), a sum by the accumulator and the first saturation of its fold (`satSum_range`). -/
theorem witnessMediansClampsAndSums : Obligations.WitnessMediansClampsAndSums := by
  intro s d a b n w ty hc feature first last wd int wit done entry X
  have listed := ty_arith_mem first last
  have hw : wd = 16 ∨ wd = 32 := width_int ty
  refine ⟨fun odd fits hr => ?median, fun h hr => ?clamp, fun top => ?reserved, fun integer pos small fits hr => ?sum⟩
  case median =>
    obtain ⟨V, E, run, each⟩ := pickProducer_ready hc feature fits hr 3 (pickMedian ty)
    refine ⟨V, E, (execVmedw_listed d a w s listed odd).trans run, fun e he => ?_⟩
    obtain ⟨value, named⟩ := each e he
    have median : NamesMedian ty n.val (X e) (elemAt wd V e) (witEntry E wd e % 16) := by
      rw [value, named]
      exact namesMedian_pickMedian ty (by omega) (by omega) fun k => elemAt_lt ..
    exact median
  case clamp =>
    obtain ⟨V, E, run, each⟩ := execVclpw_ready hc feature listed h hr
    refine ⟨V, E, run, fun e he => ?_⟩
    obtain ⟨value, code⟩ := each e he
    intro x lo hi lt
    have lt_iff (p q : Nat) : elemLt ty p q = true ↔ lt p q := by
      dsimp only [elemLt, lt]
      cases tyFlt ty with
      | some f => rfl
      | none => exact decide_eq_true_iff
    have clamped {v c : Nat} (is : clampElem ty x lo hi = (v, c)) : elemAt wd V e = v ∧ entry E e = c :=
      ⟨value.trans (congrArg Prod.fst is), code.trans (congrArg Prod.snd is)⟩
    refine ⟨fun nan => clamped (clampElem_nan nan lo hi), fun number low => clamped ?_, fun number notLow high => clamped ?_,
      fun number notLow notHigh => clamped ?_⟩
    · rw [clampElem_number number, if_pos ((lt_iff ..).2 low)]
    · rw [clampElem_number number, if_neg (mt (lt_iff ..).1 notLow), if_pos ((lt_iff ..).2 high)]
    · rw [clampElem_number number, if_neg (mt (lt_iff ..).1 notLow), if_neg (mt (lt_iff ..).1 notHigh)]
  case reserved => exact execVclpw_reserved d a w s listed top
  case sum =>
    obtain ⟨V, E, evs, run, each⟩ := execVssmw_ready hc feature fits hr (ty_int_mem first integer) pos small
    refine ⟨V, E, evs, run, fun e he => ?_⟩
    obtain ⟨sum, saturation⟩ := each e he
    refine ⟨sum, ?_⟩
    rcases saturation with ⟨code, exactly⟩ | ⟨code, lt, inexact, before⟩
    · exact ⟨iff_of_true code exactly, fun nonzero => absurd code nonzero⟩
    · exact ⟨iff_of_false (show ¬ witEntry E (tyWidth ty) e % 4 = 0 by omega) fun all => inexact (all _ lt), fun _ => ⟨inexact, before⟩⟩

/-! ## The adjoint (R231–R233) -/

/-- Width of the elements that a witness describes (R223). -/
def witWidth (y : Wit) : Nat := if tagWide y.tag then 16 else 32

theorem witWidth_cases (y : Wit) : witWidth y = 16 ∨ witWidth y = 32 := by
  unfold witWidth
  split
  · exact .inl rfl
  · exact .inr rfl

theorem witEntry_witWidth (y : Wit) (e : Nat) : witEntry y.entries (witWidth y) e =
    if tagWide y.tag then bitsAt (y.entries.toList.getD (e / 2) 0).toNat (8 * (e % 2)) 8 else (y.entries.toList.getD e 0).toNat := by
  rw [witWidth]
  split <;> rfl

theorem entryAt_eq (y : Wit) (e : Nat) : entryAt y e = witEntry y.entries (witWidth y) e := by
  rw [witEntry_witWidth, entryAt]
  split <;> rfl

/-- A selection of the gradient's elements, the others 0. -/
theorem elemAt_selected {w : Nat} (hw : w = 16 ∨ w = 32) (on : Nat → Prop) [DecidablePred on] (g : Vec) {e : Nat} (he : e < 2048 / w) :
    elemAt w (ofElems w ((List.range (2048 / w)).map fun e => if on e then (elems w g).getD e 0 else 0)) e = if on e then elemAt w g e else 0 := by
  rw [elemAt_ofElems hw _ he, elems_getD hw g he]
  split
  · exact Nat.mod_eq_of_lt (elemAt_lt ..)
  · exact Nat.zero_mod _

/-- The gradient of an element goes to its winner alone (R233). -/
theorem adjoint_winner {y : Wit} (low : 1 ≤ tagKind y.tag) (high : tagKind y.tag ≤ 3) (j : Nat) (g : Vec) {e : Nat} (he : e < 2048 / witWidth y) :
    elemAt (witWidth y) (adjoint y j g) e = if witEntry y.entries (witWidth y) e % 16 = j then elemAt (witWidth y) g e else 0 := by
  have shape : adjoint y j g = ofElems (witWidth y) ((List.range (2048 / witWidth y)).map fun e =>
      if entryAt y e % 16 = j then (elems (witWidth y) g).getD e 0 else 0) := by
    obtain kind | kind | kind : tagKind y.tag = 1 ∨ tagKind y.tag = 2 ∨ tagKind y.tag = 3 := by omega
    all_goals simp only [adjoint, kind, witWidth]
  rw [shape, elemAt_selected (witWidth_cases y) _ g he, entryAt_eq]

/-- The gradient of an element passes where its code is 0 (R233). -/
theorem adjoint_passed {y : Wit} (low : 4 ≤ tagKind y.tag) (high : tagKind y.tag ≤ 5) (j : Nat) (g : Vec) {e : Nat} (he : e < 2048 / witWidth y) :
    elemAt (witWidth y) (adjoint y j g) e = if witEntry y.entries (witWidth y) e % 4 = 0 then elemAt (witWidth y) g e else 0 := by
  have shape : adjoint y j g = ofElems (witWidth y) ((List.range (2048 / witWidth y)).map fun e =>
      if entryAt y e % 4 = 0 then (elems (witWidth y) g).getD e 0 else 0) := by
    obtain kind | kind : tagKind y.tag = 4 ∨ tagKind y.tag = 5 := by omega
    all_goals simp only [adjoint, kind, witWidth]
  rw [shape, elemAt_selected (witWidth_cases y) _ g he, entryAt_eq]

/-- Value v j at place t j of segment j of n lanes, for the first m segments, and 0 elsewhere. -/
def scatter (n : Nat) (t v : Nat → Nat) (m : Nat) : List Nat := (List.range m).foldl (fun r j => r.set (j * n + t j) (v j)) (List.replicate 64 0)

theorem scatter_succ (n : Nat) (t v : Nat → Nat) (m : Nat) : scatter n t v (m + 1) = (scatter n t v m).set (m * n + t m) (v m) := by
  rw [scatter, List.range_succ, List.foldl_append]
  rfl

theorem scatter_length (n : Nat) (t v : Nat → Nat) (m : Nat) : (scatter n t v m).length = 64 := by
  induction m with
  | zero => rfl
  | succ m ih => rw [scatter_succ, List.length_set, ih]

theorem scatter_getD {n : Nat} (t v : Nat → Nat) {m : Nat} (inside : ∀ k, k < m → t k < n) {e : Nat} (he : e < 64) :
    (scatter n t v m).getD e 0 = if e / n < m ∧ t (e / n) = e % n then v (e / n) else 0 := by
  induction m with
  | zero => rw [if_neg fun h => absurd h.1 (Nat.not_lt_zero _), scatter, List.range_zero, List.foldl_nil, List.getD_replicate _ he]
  | succ m ih =>
    have here : t m < n := inside m m.lt_succ_self
    have place : m * n + t m = e ↔ e / n = m ∧ t (e / n) = e % n := by
      constructor
      · rintro rfl
        have quotient : (m * n + t m) / n = m := by
          rw [Nat.mul_comm, Nat.mul_add_div (by omega), Nat.div_eq_of_lt here, Nat.add_zero]
        rw [quotient, Nat.mul_comm, Nat.mul_add_mod, Nat.mod_eq_of_lt here]
        exact ⟨rfl, rfl⟩
      · rintro ⟨rfl, is⟩
        rw [is, Nat.div_add_mod']
    rw [scatter_succ, List.getD_eq_getElem?_getD, List.getElem?_set, scatter_length]
    by_cases at_e : m * n + t m = e
    · obtain ⟨quotient, remainder⟩ := place.1 at_e
      rw [if_pos at_e, if_pos (at_e ▸ he), if_pos ⟨by omega, remainder⟩, quotient]
      rfl
    · rw [if_neg at_e, ← List.getD_eq_getElem?_getD, ih fun k hk => inside k (by omega)]
      have same : (e / n < m ∧ t (e / n) = e % n) ↔ (e / n < m + 1 ∧ t (e / n) = e % n) := by
        constructor
        · rintro ⟨lt, is⟩
          exact ⟨by omega, is⟩
        · rintro ⟨lt, is⟩
          exact ⟨Nat.lt_of_le_of_ne (by omega) fun quotient => at_e (place.2 ⟨quotient, is⟩), is⟩
      simp only [same]

/-- The gradient of a segment goes to its winner (R233). -/
theorem adjoint_segment {y : Wit} (low : 6 ≤ tagKind y.tag) (high : tagKind y.tag ≤ 7) (narrow : tagWide y.tag = false) (fits : tagCnt y.tag ≤ 6)
    (inside : ∀ k, k < 64 / 2 ^ tagCnt y.tag → witEntry y.entries 32 k % 64 < 2 ^ tagCnt y.tag) (j : Nat) (g : Vec) {e : Nat} (he : e < 64) :
    elemAt 32 (adjoint y j g) e =
      if witEntry y.entries 32 (e / 2 ^ tagCnt y.tag) % 64 = e % 2 ^ tagCnt y.tag then elemAt 32 g (e / 2 ^ tagCnt y.tag) else 0 := by
  have width : witWidth y = 32 := by rw [witWidth, narrow]; rfl
  have shape : adjoint y j g = ofElems 32 (scatter (2 ^ tagCnt y.tag) (fun k => witEntry y.entries 32 k % 64) (fun k => (elems 32 g).getD k 0)
      (64 / 2 ^ tagCnt y.tag)) := by
    obtain kind | kind : tagKind y.tag = 6 ∨ tagKind y.tag = 7 := by omega
    all_goals simp only [adjoint, kind, narrow, entryAt_eq, width, scatter, Bool.false_eq_true, if_false]
  have segment : e / 2 ^ tagCnt y.tag < 64 / 2 ^ tagCnt y.tag := (segment_fits (by omega) he).1
  have total : 64 / 2 ^ tagCnt y.tag ≤ 64 := Nat.div_le_self ..
  rw [shape, elemAt_ofElems_lane _ he, scatter_getD _ _ inside he, elems_getD (.inr rfl) g (show _ < 2048 / 32 by omega)]
  simp only [segment, true_and]
  split
  · exact Nat.mod_eq_of_lt (elemAt_lt ..)
  · exact Nat.zero_mod _

/-! ### The checks of VADJ (R232) -/

/-- A witness has the kind and the count that the control word asks for, and the width of the gradient (R232). -/
def Matches (y : Wit) (c : Word) (gf : Nat) : Prop :=
  tagKind y.tag = bitsAt c.toNat 8 4 ∧ tagCnt y.tag = bitsAt c.toNat 12 6 ∧ (tagWide y.tag = true ↔ gf ≠ 0) ∧ (6 ≤ tagKind y.tag → gf = 0)

theorem adjointFault_stale {y : Wit} (invalid : tagValid y.tag = false) (c : Word) (gf : Nat) : adjointFault y c gf = some 0x0F := by
  rw [adjointFault, invalid]
  rfl

section Faults

variable {y : Wit} (valid : tagValid y.tag = true) {c : Word} {gf : Nat}
include valid

theorem adjointFault_mismatch (wrong : ¬ Matches y c gf) : adjointFault y c gf = some 0x0E := by
  rw [adjointFault, valid, if_neg (by decide)]
  by_cases other : tagKind y.tag ≠ bitsAt c.toNat 8 4 ∨ tagCnt y.tag ≠ bitsAt c.toNat 12 6
  · rw [if_pos other]
  · have asked : tagKind y.tag = bitsAt c.toNat 8 4 ∧ tagCnt y.tag = bitsAt c.toNat 12 6 := by tauto
    obtain ⟨kind, cnt⟩ := asked
    rw [if_neg other, if_pos]
    by_contra right
    simp only [not_or, not_and, eq_iff_iff] at right
    obtain ⟨width, narrow⟩ := right
    exact wrong ⟨kind, cnt, by tauto, fun cross => not_not.1 (narrow cross)⟩

theorem adjointFault_matches (h : Matches y c gf) : adjointFault y c gf = none := by
  obtain ⟨kind, cnt, width, narrow⟩ := h
  rw [adjointFault, valid, if_neg (by decide), if_neg (by simp [kind, cnt]), if_neg]
  rintro (same | ⟨cross, wide⟩)
  · rw [eq_iff_iff] at same
    tauto
  · exact wide (narrow cross)

end Faults

/-! ### VADJ, WTAG and WCLR (R231–R234) -/

/-- What .last does to the witness that VADJ has read (R233). -/
def clearedIf (last : Bool) (w : WR) (y : Wit) (s : State) : State :=
  if last then land (.w w) (.wit { y with tag := y.tag &&& 0xFFFEFFFF }) 1 s else s

theorem execVadj_reserved {gf : Fin 8} (h : 3 ≤ gf.val) (d g : VR) (x : SR) (w : WR) (last : Bool) (s : State) :
    execVadj d g x w last gf s = trapAt 4 0x02 s.frame.parcel s := if_pos h

section Vadj

variable {s : State} {d g : VR} {x : SR} {w : WR} {last : Bool} {gf : Fin 8} (hc : Computes s) (feature : accepted s 4 = true) (known : gf.val < 3)
include hc feature known

/-- In debug mode a witness left unpredictable is a hazard, once the bounds of g and s are past (R56, R232). -/
theorem execVadj_hazard (debug : hazardMode s = true) (spoilt : w ∈ s.ctx.wSpoilt) (hg : exposed s (.v g) = false) (hx : exposed s (.s x) = false) :
    execVadj d g x w last gf s = trapAt 11 0x14 (regTval (.w w)) s := by
  rw [execVadj, if_neg (by omega), needFeature_accepted feature, needCompute_ready hc, if_pos]
  simp [debug, spoilt, hg, hx]

variable (hr : Ready [.v g, .s x, .w w] (.v d :: if last then [.w w] else []) s)
include hr

/-- A witness within its producer's bound, or left unpredictable, gives an unpredictable result where no hazard is raised. -/
theorem execVadj_unpredictable (unsure : exposed s (.w w) = true ∨ w ∈ s.ctx.wSpoilt)
    (quiet : hazardMode s = true → w ∈ s.ctx.wSpoilt → exposed s (.v g) = true ∨ exposed s (.s x) = true) :
    execVadj d g x w last gf s = .next (clearedIf last w (rdW s w) (land (.v d) (.vec (freeVec s (.v d))) 4 s)) := by
  have calm : ¬ (hazardMode s = true ∧ s.ctx.wSpoilt.contains w = true ∧ ¬ exposed s (.v g) = true ∧ ¬ exposed s (.s x) = true) :=
    fun ⟨debug, spoilt, hg, hx⟩ => (quiet debug (by simpa using spoilt)).elim hg hx
  have opened : (exposed s (.w w) || s.ctx.wSpoilt.contains w) = true := by simpa using unsure
  rw [execVadj, if_neg (by omega), needFeature_accepted feature, needCompute_ready hc, if_neg calm, guardRegs_ready hr]
  dsimp only
  rw [if_pos opened]
  rfl

variable (sure : exposed s (.w w) = false) (sound : w ∉ s.ctx.wSpoilt)
include sure sound

/-- A check of R232 that fails. -/
theorem execVadj_fault {code : BitVec 8} (fault : adjointFault (rdW s w) (rdS s x) gf.val = some code) :
    execVadj d g x w last gf s = trapAt 13 code (BitVec.ofNat 64 (rdW s w).tag.toNat) s := by
  have closed : (exposed s (.w w) || s.ctx.wSpoilt.contains w) = false := by simpa using ⟨sure, sound⟩
  rw [execVadj, if_neg (by omega), needFeature_accepted feature, needCompute_ready hc, if_neg (by simp [sound]), guardRegs_ready hr]
  dsimp only
  rw [if_neg (Bool.eq_false_iff.1 closed), fault, BitVec.ofNat_toNat]

/-- The gradient, routed (R233). -/
theorem execVadj_routes (passes : adjointFault (rdW s w) (rdS s x) gf.val = none) :
    execVadj d g x w last gf s =
      .next (clearedIf last w (rdW s w) (land (.v d) (.vec (adjoint (rdW s w) (bitsAt (rdS s x).toNat 0 6) (rdV s g))) 4 s)) := by
  have closed : (exposed s (.w w) || s.ctx.wSpoilt.contains w) = false := by simpa using ⟨sure, sound⟩
  rw [execVadj, if_neg (by omega), needFeature_accepted feature, needCompute_ready hc, if_neg (by simp [sound]), guardRegs_ready hr]
  dsimp only
  rw [if_neg (Bool.eq_false_iff.1 closed), passes]
  rfl

end Vadj

section Tags

variable {s : State} {q : SR} {w : WR} (hc : Computes s) (feature : accepted s 4 = true)
include hc feature

theorem execWtag_ready (hr : Ready [.w w] [.s q] s) :
    execWtag q w s = .next (land (.s q) (.word (BitVec.ofNat 64 (rdW s w).tag.toNat)) 2 s) := by
  rw [execWtag, needFeature_accepted feature, needCompute_ready hc, guardRegs_ready hr, BitVec.ofNat_toNat]

theorem execWclr_ready (hr : Ready [] [.w w] s) : execWclr w s = .next (land (.w w) (.wit ⟨Vector.replicate 64 0, 0⟩) 1 s) := by
  rw [execWclr, needFeature_accepted feature, needCompute_ready hc, guardRegs_ready hr]
  rfl

end Tags

/-! ### What R231–R234 ask of one state -/

/-- The statement O28 of one state. -/
def AdjointAndTagsAt (s : State) : Prop :=
  ∀ (d g : VR) (x q : SR) (w : WR) (last : Bool) (gf : Fin 8), Computes s → accepted s 4 = true →
    let y := rdW s w
    let c := (rdS s x).toNat
    let kind := y.tag.toNat / 2 ^ 24 % 16
    let cnt := y.tag.toNat / 2 ^ 18 % 64
    let wide := y.tag.getLsbD 17
    let j := c % 64
    let clear (t : State) : State := if last then land (.w w) (.wit { y with tag := y.tag &&& 0xFFFEFFFF }) 1 t else t
    (3 ≤ gf.val → exec (.vadj d g x w last gf) s = trapAt 4 0x02 s.frame.parcel s) ∧
    (gf.val < 3 → Ready [.v g, .s x, .w w] (.v d :: if last then [.w w] else []) s → exposed s (.w w) = false → w ∉ s.ctx.wSpoilt →
      (y.tag.getLsbD 16 = false → exec (.vadj d g x w last gf) s = trapAt 13 0x0F (BitVec.ofNat 64 y.tag.toNat) s) ∧
      (y.tag.getLsbD 16 = true → (kind ≠ c / 2 ^ 8 % 16 ∨ cnt ≠ c / 2 ^ 12 % 64) →
        exec (.vadj d g x w last gf) s = trapAt 13 0x0E (BitVec.ofNat 64 y.tag.toNat) s) ∧
      (y.tag.getLsbD 16 = true → (wide = decide (gf = 0) ∨ (6 ≤ kind ∧ gf ≠ 0)) →
        exec (.vadj d g x w last gf) s = trapAt 13 0x0E (BitVec.ofNat 64 y.tag.toNat) s) ∧
      (y.tag.getLsbD 16 = true → kind = c / 2 ^ 8 % 16 → cnt = c / 2 ^ 12 % 64 → (wide = true ↔ gf ≠ 0) → (6 ≤ kind → gf = 0) →
        ∃ V : Vec, exec (.vadj d g x w last gf) s = .next (clear (land (.v d) (.vec V) 4 s)) ∧
          let wd := if wide then 16 else 32
          let entry (e : Nat) : Nat :=
            if wide then bitsAt (y.entries.toList.getD (e / 2) 0).toNat (8 * (e % 2)) 8 else (y.entries.toList.getD e 0).toNat
          let G (e : Nat) : Nat := elemAt wd (rdV s g) e
          (1 ≤ kind → kind ≤ 3 → ∀ e, e < 2048 / wd → elemAt wd V e = if entry e % 16 = j then G e else 0) ∧
          (4 ≤ kind → kind ≤ 5 → ∀ e, e < 2048 / wd → elemAt wd V e = if entry e % 4 = 0 then G e else 0) ∧
          (6 ≤ kind → kind ≤ 7 → cnt ≤ 6 → (∀ k, k < 64 / 2 ^ cnt → entry k % 64 < 2 ^ cnt) → ∀ e, e < 64 →
            elemAt 32 V e = if entry (e / 2 ^ cnt) % 64 = e % 2 ^ cnt then G (e / 2 ^ cnt) else 0))) ∧
    (gf.val < 3 → Ready [.v g, .s x, .w w] (.v d :: if last then [.w w] else []) s → (exposed s (.w w) = true ∨ w ∈ s.ctx.wSpoilt) →
      (hazardMode s = false → exec (.vadj d g x w last gf) s = .next (clear (land (.v d) (.vec (freeVec s (.v d))) 4 s))) ∧
      (hazardMode s = true → exec (.vadj d g x w last gf) s = trapAt 11 0x14 (regTval (.w w)) s)) ∧
    (Ready [.w w] [.s q] s → exec (.wtag q w) s = .next (land (.s q) (.word (BitVec.ofNat 64 y.tag.toNat)) 2 s)) ∧
    (Ready [] [.w w] s → exec (.wclr w) s = .next (land (.w w) (.wit ⟨Vector.replicate 64 0, 0⟩) 1 s))

theorem adjointAndTags_iff : Obligations.AdjointAndTags ↔ ∀ s, AdjointAndTagsAt s := Iff.rfl

/-- The statement holds of every state without a landing of the hard-wired s0 inside its bound; landing a result never makes one (R39,
`land_wired`). -/
theorem adjointAndTagsAt_of_unexposed {s : State} (unexposed : exposed s (.s 0) = false) : AdjointAndTagsAt s := by
  intro d g x q w last gf hc feature y c kind cnt wide j clear
  have zero : gf = 0 ↔ gf.val = 0 := Fin.ext_iff
  refine ⟨fun reserved => execVadj_reserved reserved d g x w last s, fun known hr sure sound => ⟨fun invalid => ?stale, fun valid wrong => ?other,
    fun valid wrong => ?width, fun valid sameKind sameCnt width narrow => ?routes⟩, fun known hr unsure => ⟨fun quiet => ?unpredictable, fun debug => ?hazard⟩,
    fun hr => execWtag_ready hc feature hr, fun hr => execWclr_ready hc feature hr⟩
  case stale => exact execVadj_fault hc feature known hr sure sound (adjointFault_stale invalid _ _)
  case other =>
    refine execVadj_fault hc feature known hr sure sound (adjointFault_mismatch valid fun ⟨sameKind, sameCnt, _⟩ => ?_)
    exact wrong.elim (fun h => h sameKind) fun h => h sameCnt
  case width =>
    refine execVadj_fault hc feature known hr sure sound (adjointFault_mismatch valid fun ⟨_, _, width, narrow⟩ => ?_)
    rcases wrong with same | ⟨cross, nonzero⟩
    · have narrowZero : wide = true ↔ gf = 0 := by rw [same, decide_eq_true_iff]
      exact iff_not_self ((zero.symm.trans narrowZero.symm).trans width)
    · exact nonzero (zero.2 (narrow cross))
  case routes =>
    have same : Matches y (rdS s x) gf.val := ⟨sameKind, sameCnt, width.trans (not_congr zero), fun cross => zero.1 (narrow cross)⟩
    have index : bitsAt (rdS s x).toNat 0 6 = j := by rw [bitsAt, pow_zero, Nat.div_one]; rfl
    refine ⟨_, execVadj_routes hc feature known hr sure sound (adjointFault_matches valid same), ?_⟩
    intro wd entry G
    have read (e : Nat) : witEntry y.entries (witWidth y) e = entry e := witEntry_witWidth y e
    rw [index]
    refine ⟨fun low high e he => ?_, fun low high e he => ?_, fun low high fits inside e he => ?_⟩
    · rw [← read]
      exact adjoint_winner low high j (rdV s g) he
    · rw [← read]
      exact adjoint_passed low high j (rdV s g) he
    · have narrow32 : tagWide y.tag = false := Bool.eq_false_iff.2 fun isWide => (width.1 isWide) (narrow low)
      have width32 : witWidth y = 32 := by rw [witWidth, narrow32]; rfl
      rw [width32] at read
      simp only [← read] at inside ⊢
      have wd32 : wd = 32 := width32
      simp only [G, wd32]
      exact adjoint_segment low high narrow32 fits inside j (rdV s g) he
  case unpredictable =>
    exact execVadj_unpredictable hc feature known hr unsure fun debug => absurd debug (Bool.eq_false_iff.1 quiet)
  case hazard =>
    obtain ⟨bounds, -⟩ := hr
    have landed (r : RegName) (mem : r ∈ [RegName.v g, .s x, .w w]) (file : r.wired = false) : exposed s r = false :=
      bounds debug r (List.mem_append_left _ mem) file
    have spoilt : w ∈ s.ctx.wSpoilt := unsure.resolve_left (Bool.eq_false_iff.1 (landed (.w w) (by simp) rfl))
    have scalar : exposed s (.s x) = false := by
      by_cases zero : x = 0
      · rw [zero]; exact unexposed
      · exact landed (.s x) (by simp) (by simpa [RegName.wired] using zero)
    exact execVadj_hazard hc feature known debug spoilt (landed (.v g) (by simp) rfl) scalar

/-- A context in debug mode whose w2 is unpredictable, and with a landing of the hard-wired s0 inside its bound. -/
def wiredLanding : State :=
  let s := userStarted State.reset
  { s with
    ctx := { s.ctx with sc := 5, wSpoilt := [2], lands := [⟨.s 0, .word 0, 4, 7, true, false, false, 0, []⟩] }
    dev := { s.dev with debug := 1 } }

/-- Refutes O28: `Ready` asks nothing of a hard-wired register, so its state may hold a landing of s0 inside its bound. `execVadj` leaves the hazard of
R232 to the bounds of g and s where one of them is met, and the guard of the registers passes over s0: in debug mode a VADJ of an unpredictable
witness, with s0 as its control word, then lands an unpredictable d and no hazard is raised (`wiredLanding`). Landing a result never makes such a
landing (`land_wired`), and of every state without one the statement holds (`adjointAndTagsAt_of_unexposed`). -/
theorem not_adjointAndTags : ¬ Obligations.AdjointAndTags := by
  intro h
  have hc : Computes wiredLanding := by decide
  have feature : accepted wiredLanding 4 = true := by decide
  have hr : Ready [.v 1, .s 0, .w 2] [.v 3] wiredLanding := by decide
  have debug : hazardMode wiredLanding = true := by decide
  have spoilt : (2 : WR) ∈ wiredLanding.ctx.wSpoilt := by decide
  have wired : exposed wiredLanding (.s 0) = true := by decide
  obtain ⟨-, -, unsure, -⟩ := h wiredLanding 3 1 0 4 2 false 0 hc feature
  obtain ⟨-, hazard⟩ := unsure (by decide) hr (.inr spoilt)
  obtain ⟨t, trapped, out, -⟩ := trapAt_next 11 0x14 (regTval (.w 2)) wiredLanding
  have runs : exec (.vadj 3 1 0 2 false 0) wiredLanding = .next (land (.v 3) (.vec (freeVec wiredLanding (.v 3))) 4 wiredLanding) :=
    execVadj_unpredictable hc feature (by decide) hr (.inr spoilt) fun _ _ => .inr wired
  have same := Host.Outcome.next.inj (runs.symm.trans ((hazard debug).trans trapped))
  have going : wiredLanding.frame.out = .going := by decide
  rw [← same, land_frame_out, going] at out
  cases out

end Sys2Proof.Machine

namespace Sys2Proof.Machine

/-! ## Queues, commit buffers and tiles of a core (R239, R245, R248) -/

/-- A change of a core that leaves its tiles leaves every core's. -/
theorem tileOf_modCore {f : Core → Core} (h : ∀ c, (f c).tiles = c.tiles) (s : State) (j k p : Nat) : tileOf (modCore s j f) k p = tileOf s k p := by
  by_cases same : k = j
  · rw [same, tileOf, coreOf_modCore_self, h]; rfl
  · rw [tileOf, coreOf_modCore_other s f same]; rfl

theorem tileOf_modOp (j id : Nat) (f : MatOp → MatOp) (s : State) (k p : Nat) : tileOf (modOp j id f s) k p = tileOf s k p :=
  tileOf_modCore (f := fun u => { u with queue := u.queue.map fun o => if o.id = id then f o else o }) (fun _ => rfl) s j k p

theorem queue_modOp (k id : Nat) (f : MatOp → MatOp) (s : State) :
    (coreOf (modOp k id f s) k).queue = (coreOf s k).queue.map fun o => if o.id = id then f o else o := by
  rw [modOp, coreOf_modCore_self]

theorem stores_modStore (k id : Nat) (f : TileStore → TileStore) (s : State) :
    (coreOf (modStore k id f s) k).stores = (coreOf s k).stores.map fun t => if t.id = id then f t else t := by
  rw [modStore, coreOf_modCore_self]

/-- An entry of a number, after a change of those that bear it, comes from one that bore it. -/
theorem mem_map_numbered {α : Type} {num : α → Nat} {f : α → α} {n : Nat} {l : List α} {e : α}
    (m : e ∈ l.map fun x => if num x = n then f x else x) (h : num e = n) : ∃ x ∈ l, num x = n ∧ e = f x := by
  obtain ⟨x, mx, rfl⟩ := List.mem_map.1 m
  by_cases named : num x = n
  · exact ⟨x, mx, named, if_pos named⟩
  · exact absurd (by rwa [if_neg named] at h) named

theorem queue_setTile (k p : Nat) (f : Tile → Tile) (s : State) (j : Nat) : (coreOf (setTile k p f s) j).queue = (coreOf s j).queue := by
  by_cases same : j = k
  · rw [same, setTile, coreOf_modCore_self]
  · rw [setTile, coreOf_modCore_other _ _ same]

theorem spoilCopies_onlyMeets (g : Nat) (parts : CopyOp → List (Nat × Nat)) (writer : Option Nat) (s : State) :
    OnlyMeets s (spoilCopies g parts writer s) ∧ (spoilCopies g parts writer s).cores = s.cores := by
  obtain ⟨cs, marked⟩ := spoilCopies_clusters g parts writer s
  rw [marked]
  exact ⟨⟨rfl, fun _ => rfl⟩, rfl⟩

/-- A write into an object of a window marks the copies in flight that it meets, and nothing of a core (R267). -/
theorem meetWindow_onlyMeets (core name lo n : Nat) (sources : CopyOp → Bool) (writer : Option Nat) (s : State) :
    OnlyMeets s (meetWindow core name lo n sources writer s) ∧ (meetWindow core name lo n sources writer s).cores = s.cores := by
  unfold meetWindow
  split
  · exact ⟨⟨rfl, fun _ => rfl⟩, rfl⟩
  · refine ⟨.foldl (fun _ _ => (spoilCopies_onlyMeets ..).1) _ s, ?_⟩
    exact List.foldlRecOn s.clusters _ (motive := fun t : State => t.cores = s.cores) rfl fun _ same _ _ => (spoilCopies_onlyMeets ..).2.trans same

theorem OnlyMeets.leaves {s t : State} (h : OnlyMeets s t) : SameBytes s t ∧ t.ctx = s.ctx ∧ t.now = s.now := by
  rw [h.rest]
  exact ⟨fun _ => ⟨rfl, rfl, rfl⟩, rfl, rfl⟩

/-! ## The end of an operation (R250, R263, R264) -/

section Ends

variable (c : CtxId) (tok : Option KR) (id : Nat) (clock : List (Nat × Nat)) (err : Option (BitVec 8)) (s : State)

/-- A token that clears changes its context's tokens, and the clock that observers of the token find (R263, R313). -/
theorem clearTok_cases : clearTok c tok id clock s = s ∨
    ∃ k, tok = some k ∧ clearTok c tok id clock s =
      modCtx (noteClock (tokenKey c k.val) c clock s) c fun x => { x with k := x.k.set k.val none } := by
  cases tok with
  | none => exact .inl rfl
  | some k =>
    by_cases held : (getCtx s c).k[k.val] = some id
    · exact .inr ⟨k, rfl, if_pos held⟩
    · exact .inl (if_neg held)

theorem clearTok_cores : (clearTok c tok id clock s).cores = s.cores := by
  rcases clearTok_cases c tok id clock s with same | ⟨k, -, cleared⟩
  · rw [same]
  · rw [cleared, modCtx_cores]; rfl

theorem clearTok_spm : (clearTok c tok id clock s).spm = s.spm := by
  rcases clearTok_cases c tok id clock s with same | ⟨k, -, cleared⟩
  · rw [same]
  · rw [cleared, modCtx_spm]; rfl

/-- The operation no longer holds the token that it was to produce. -/
theorem clearTok_clears {k : KR} (h : tok = some k) : (getCtx (clearTok c tok id clock s) c).k[k.val] ≠ some id := by
  subst h
  by_cases held : (getCtx s c).k[k.val] = some id
  · rw [show clearTok c (some k) id clock s = _ from if_pos held, getCtx_modCtx_self]
    simp
  · rwa [show clearTok c (some k) id clock s = _ from if_neg held]

theorem endOp_getCtx (d : CtxId) : getCtx (endOp c id err clock s) d = getCtx s d := getCtx_congr rfl rfl rfl d

theorem endOp_spm : (endOp c id err clock s).spm = s.spm := rfl

theorem endOp_queue : (coreOf (endOp c id err clock s) c.coreNo).queue = (coreOf s c.coreNo).queue.map (releasedMat id err clock) := by
  rw [endOp, coreOf_congr (t := modCluster _ _ _) (modCluster_cores ..), coreOf_modCore_self]

theorem tileOf_endOp (k p : Nat) : tileOf (endOp c id err clock s) k p = tileOf s k p := by
  rw [endOp, tileOf_congr (modCluster_cores ..), tileOf_modCore]
  exact fun _ => rfl

/-- An operation that has been waiting for one that ends keeps its number, and waits for it no longer (R264). -/
theorem releasedMat_frees (o : MatOp) : (releasedMat id err clock o).id = o.id ∧ id ∉ (releasedMat id err clock o).deps := by
  unfold releasedMat released
  split
  · exact ⟨rfl, by simp⟩
  · rename_i free
    exact ⟨rfl, by simpa using free⟩

/-- An engine fault reaches no core's units (R250). -/
theorem engineFault_cores (cause : BitVec 8) (bundle : Word) : (engineFault c cause bundle s).cores = s.cores := by
  unfold engineFault
  split
  · exact (postCtx_keeps ..).cores
  · rfl
  · rfl
  · rfl
  · exact modCtx_cores ..

end Ends

/-! ## An operation starts (R239, R242, R245) -/

/-- When the array is free for the next operation (R239). -/
def arrayFree (s : State) (k : Nat) : Nat :=
  match ahead (coreOf s k).queue with
  | some e => e.start.getD 0 + 16
  | none => 0

/-- What an operation makes of its images and of the tile's incoming words: rows, flags and events. -/
def engineResult (s : State) (k : Nat) (o : MatOp) : Vector Vec 64 × BitVec 4 × List Nat :=
  match o.kind with
  | .mma aA aB aS z fmt => mmaResult s k aA aB aS z fmt (incoming s k o).1
  | .tld addr => (tldRows s k addr, 0, [])

/-- An operation o of core k as it stands in the queue once it has started. -/
def begun (s : State) (k : Nat) (o e : MatOp) : MatOp :=
  { e with
    start := some (max s.now (arrayFree s k))
    result := (engineResult s k o).1
    flags := (engineResult s k o).2.1
    events := (engineResult s k o).2.2
    deps := match o.kind with
      | .mma _ _ _ false _ => (incoming s k o).2
      | _ => [] }

/-- An operation without an error, whose images and operand are sound, starts when the array is free and its result is known. -/
theorem engineOperationStart_sound {s : State} {o : MatOp} (next : startable s s.input.core.val = some o) (fine : o.error = none)
    (clean : poisonedImage s s.input.core.val o.kind = false) (operand : badOperand s s.input.core.val o = false) (dry : o.spoil = false) :
    exec .engineOperationStart s =
      .next (modOp s.input.core.val o.id (begun s s.input.core.val o) (reach (arrayFree s s.input.core.val) s)) := by
  have sound (t : Nat) : ¬ (poisonedImage (reach t s) s.input.core.val o.kind || badOperand (reach t s) s.input.core.val o) = true := by
    rw [show poisonedImage (reach t s) _ _ = false from clean, show badOperand (reach t s) _ _ = false from operand]
    decide
  show execEngineOperationStart s = _
  unfold execEngineOperationStart
  dsimp only
  rw [next]
  dsimp only
  rw [fine]
  dsimp only
  rw [if_neg (sound _), dry]
  rfl

/-! ## A row group is checked (R244–R247) -/

/-- A row group that is written changes its rows of the tile, and no byte of memory. -/
theorem writeGroup_leaves (k : Nat) (o : MatOp) (s : State) :
    let u := writeGroup k o s
    SameBytes s u ∧ u.ctx = s.ctx ∧ u.now = s.now ∧
      (tileOf u k o.tile).rows = Vector.ofFn fun i => if i.val / 8 = o.groups then o.result[i] else (tileOf s k o.tile).rows[i] := by
  unfold writeGroup
  dsimp only
  rw [tileOf_modOp]
  obtain ⟨meets, cores⟩ := meetWindow_onlyMeets k (1000 + o.tile) (2048 * o.groups) 2048 (fun c => decide (c.id < o.id)) (some o.id)
    (setTile k o.tile _ s)
  obtain ⟨bytes, ctx, now⟩ := meets.leaves
  refine ⟨bytes, ctx, now, ?_⟩
  rw [tileOf_congr cores, tileOf_setTile_self]

/-- The cycle at which the next row group of an operation is checked (R244). -/
def groupTime (o : MatOp) : Nat := o.start.getD 0 + 20 + 2 * o.groups

section Checks

variable {s : State} {o : MatOp} (now : checking s s.input.core.val = some o)
include now

theorem rowGroupCheck_good (good : s.input.good = true) :
    exec .rowGroupCheck s = .next (writeGroup s.input.core.val o (reach (groupTime o) s)) := by
  show execRowGroupCheck s = _
  unfold execRowGroupCheck
  dsimp only
  rw [now]
  dsimp only
  rw [if_pos (by exact good)]
  rfl

theorem rowGroupCheck_bad (bad : s.input.good = false) :
    exec .rowGroupCheck s = .next (toLantern (arbOfOp s.input.core.val o)
      (modOp s.input.core.val o.id (fun o => { o with arb := true }) (reach (groupTime o) s))) := by
  show execRowGroupCheck s = _
  unfold execRowGroupCheck
  dsimp only
  rw [now]
  dsimp only
  rw [if_neg (by exact Bool.eq_false_iff.1 bad)]
  rfl

end Checks

/-- A row group that goes to Lantern stands last among those of its cluster. -/
theorem arbs_toLantern (b : Arb) (s : State) : (clusterOf (toLantern b s) (b.core / 4)).arbs = (clusterOf s (b.core / 4)).arbs ++ [b] := by
  rw [toLantern, clusterOf_modCluster_self]

theorem coreOf_toLantern (b : Arb) (s : State) (k : Nat) : coreOf (toLantern b s) k = coreOf s k := coreOf_congr rfl k

/-! ## An operation ends (R79, R244, R255, R263) -/

theorem finalTile_bad (s : State) (o : MatOp) (latest : Bool) (t : Tile) : (finalTile s o latest t).bad = false := by
  unfold finalTile
  dsimp only
  split
  · rfl
  · split <;> rfl

/-- An operation that ends without an error on images that no write has met leaves the queue, its tile is sound, and its token clears. -/
theorem engineOperationCompletion_sound {s : State} {o : MatOp} (done : finished s s.input.core.val = some o) (fine : o.error = none)
    (dry : o.spoil = false) :
    ∃ v, exec .engineOperationCompletion s =
        .next (countWork o.ctx o.bundle o.events (endOp o.ctx o.id none o.clock (clearTok o.ctx o.tok o.id o.clock v))) ∧
      (∀ e ∈ (coreOf v s.input.core.val).queue, e.id ≠ o.id) ∧ (tileOf v s.input.core.val o.tile).bad = false := by
  generalize core : s.input.core.val = k at done ⊢
  refine ⟨?ended, ?ran, fun e m => ?gone, ?sound⟩
  case ran =>
    show execEngineOperationCompletion s = _
    unfold execEngineOperationCompletion
    dsimp only
    rw [core, done]
    dsimp only
    rw [fine, dry]
    rfl
  case gone =>
    rw [coreOf_modCore_self] at m
    simpa using (List.mem_filter.1 m).2
  case sound =>
    rw [tileOf_modCore, tileOf_setTile_self, finalTile_bad]
    exact fun _ => rfl

/-! ## Stores of the commit buffer (R248, R256, R257) -/

theorem tstDrainStart_sound {s : State} {t : TileStore}
    (next : (coreOf s s.input.core.val).stores.find? (fun t => t.start.isNone && t.deps.isEmpty) = some t) (fine : t.error = none)
    (sound : (tileOf s s.input.core.val t.tile).bad = false) :
    exec .tstDrainStart s = .next (modStore s.input.core.val t.id (fun x => { x with
      start := some s.now
      image := (tstImage (tileOf s s.input.core.val t.tile).rows t.isInt t.dty t.rnd t.seed t.s31).1
      events := (tstImage (tileOf s s.input.core.val t.tile).rows t.isInt t.dty t.rnd t.seed t.s31).2
      bins := if t.hist.isSome then (tileOf s s.input.core.val t.tile).rows.toList.flatMap fun r => r.toList.map fun y => histBin t.isInt y.toNat
        else [] }) s) := by
  show execTstDrainStart s = _
  unfold execTstDrainStart
  dsimp only
  rw [next]
  dsimp only
  rw [if_neg (by simp [sound]), fine]

/-- The next row group of a store is compared in its cycle; where its drain paths disagree it goes to Lantern, and counts among those that
the store awaits. -/
theorem tstRowGroupCompare_runs {s : State} {t : TileStore}
    (next : (coreOf s s.input.core.val).stores.find? (fun t => t.start.isSome && decide (t.groups < 8)) = some t) :
    let now' := max s.now (t.start.getD 0 + 2 + 2 * t.groups)
    let compared := modStore s.input.core.val t.id (fun x => { x with groups := x.groups + 1, doneAt := now' }) { s with now := now' }
    exec .tstRowGroupCompare s = .next (if s.input.good then compared
      else toLantern (arbOfStore s.input.core.val t) (modStore s.input.core.val t.id (fun x => { x with arbs := x.arbs + 1 }) compared)) := by
  show execTstRowGroupCompare s = _
  unfold execTstRowGroupCompare
  dsimp only
  rw [next]
  rfl

/-- The oldest store, when its row groups all stand and no earlier write awaits a granule, is written to its scratchpad and ends. -/
theorem tstCommit_writes {s : State} {t : TileStore} {rest : List TileStore} (oldest : (coreOf s s.input.core.val).stores = t :: rest)
    (whole : t.groups = 8) (stands : t.arbs = 0)
    (free : storeAwaited s s.input.core.val t.id (spmKey (t.core, t.off)) t.size = false) :
    ∃ v, exec .tstCommit s = .next (endOp t.ctx t.id none t.clock (clearTok t.ctx t.tok t.id t.clock v)) ∧
      v.spm = s.spm.writeBytes (spmKey (t.core, t.off)) t.image := by
  refine ⟨?written, ?ran, ?spm⟩
  case ran =>
    show execTstCommit s = _
    unfold execTstCommit
    dsimp only
    rw [oldest]
    dsimp only
    rw [if_neg (by simp [whole, stands, free])]
  case spm =>
    rw [(countWork_orders ..).spm, (meetLocal_onlyMeets ..).rest]
    rfl

/-! ## Lantern (R247, R437, R438) -/

/-- The row group detected first gets its verdict: one for either engine lets its rows stand and counts a class-10 event, and without one
it is unresolved (R247, R437). -/
theorem lanternArbitration_verdict {s : State} {b : Arb} {rest : List Arb} (first : (clusterOf s s.input.clu.val).arbs = b :: rest) :
    let t := modCluster { s with now := s.now + 7500 } s.input.clu.val fun u => { u with arbs := rest }
    let record (named : Nat) (p q : Word) (u : State) : State := disagreement b.who b.bundle b.tile b.group named b.op p q u
    exec .lanternArbitration s = match s.input.verdict with
      | .primary => .next (record 1 b.sig (otherSig t 0) (countWork b.who b.bundle [10] (standing b t)))
      | .shadow => .next (record 0 (otherSig t 0) b.sig (countWork b.who b.bundle [10] (standing b t)))
      | .neither => .next (record 2 (otherSig t 0) (otherSig t 1) (unresolved b t))
      | .passesDiffer => .next (record 3 (otherSig t 0) (otherSig t 1) (unresolved b t)) := by
  show execLanternArbitration s = _
  unfold execLanternArbitration
  dsimp only
  rw [first]
  rfl

/-- The operation of a row group that stays unresolved is in error 0x17 (R247). -/
theorem unresolved_error {b : Arb} {s : State} {o : MatOp} (op : b.store = false)
    (found : (coreOf s b.core).queue.find? (fun o => o.id = b.id) = some o) {e : MatOp} (m : e ∈ (coreOf (unresolved b s) b.core).queue)
    (h : e.id = b.id) : e.error = some 0x17 := by
  unfold unresolved at m
  rw [if_neg (by simp [op]), found] at m
  dsimp only at m
  rw [coreOf_congr (engineFault_cores ..), coreOf_congr (clearTok_cores ..), queue_setTile, queue_modOp] at m
  obtain ⟨x, -, -, rfl⟩ := mem_map_numbered (num := MatOp.id) m h
  rfl

/-- Settles O32: (a) each step of the engines and of the commit buffer by what it does to its operation, (b) by the verdict of
`lanternArbitration_verdict`. -/
theorem engineAndLanternSteps : Obligations.EngineAndLanternSteps := by
  refine ⟨fun s o t => ?engines, fun s b rest => ?lantern⟩
  case engines =>
    intro k has
    refine ⟨fun next fine clean operand dry => ?start, fun now => ⟨fun good => ?checked, fun bad => ?disagree⟩, fun done fine dry => ?ended,
      tstDrainStart_sound, fun next => ⟨fun good => ?compared, fun bad => ?differ⟩, fun rest oldest whole stands wf free => ?commit⟩
    case start =>
      refine ⟨_, engineOperationStart_sound next fine clean operand dry, le_max_left .., fun _ => ⟨rfl, rfl, rfl⟩, rfl, fun e m named => ?_⟩
      rw [queue_modOp] at m
      obtain ⟨x, -, -, rfl⟩ := mem_map_numbered (num := MatOp.id) m named
      refine ⟨rfl, ?_⟩
      cases kind : o.kind <;> simp [begun, engineResult, kind, k]
    case checked =>
      obtain ⟨bytes, ctx, time, rows⟩ := writeGroup_leaves k o (reach (groupTime o) s)
      refine ⟨_, rowGroupCheck_good now good, bytes, ctx, time, fun i hi group => ?_⟩
      rw [rows]
      simp [hi, group]
    case disagree =>
      refine ⟨_, rowGroupCheck_bad now bad, fun _ => ⟨rfl, rfl, rfl⟩, tileOf_modOp .., arbs_toLantern (arbOfOp k o) _⟩
    case ended =>
      obtain ⟨v, ran, gone, sound⟩ := engineOperationCompletion_sound done fine dry
      refine ⟨_, _, ran, rfl, fun e m own => ?_, ?_, fun kr made => ?_⟩
      · rw [endOp_queue, coreOf_congr (clearTok_cores ..), ← own] at m
        obtain ⟨x, mx, rfl⟩ := List.mem_map.1 m
        obtain ⟨num, free⟩ := releasedMat_frees o.id o.clock none x
        exact ⟨num ▸ gone x mx, free⟩
      · rw [tileOf_endOp, tileOf_congr (clearTok_cores ..)]
        exact sound
      · rw [endOp_getCtx]
        exact clearTok_clears _ _ _ _ _ made
    case compared =>
      rw [tstRowGroupCompare_runs next, if_pos good]
    case differ =>
      refine ⟨_, (tstRowGroupCompare_runs next).trans (congrArg _ (if_neg (Bool.eq_false_iff.1 bad))), fun _ => ⟨rfl, rfl, rfl⟩, rfl,
        arbs_toLantern (arbOfStore k t) _, fun e m named => ?_⟩
      change e ∈ (coreOf (toLantern _ _) s.input.core.val).stores at m
      rw [coreOf_toLantern, stores_modStore, stores_modStore] at m
      obtain ⟨x, mx, first, rfl⟩ := mem_map_numbered (num := TileStore.id) m named
      obtain ⟨y, my, second, rfl⟩ := mem_map_numbered (num := TileStore.id) mx first
      exact ⟨y, my, second, rfl, rfl⟩
    case commit =>
      obtain ⟨v, ran, spm⟩ := tstCommit_writes oldest whole stands free
      refine ⟨_, ran, fun a => ?_, fun kr made => ?_⟩
      · rw [endOp_spm, clearTok_spm, spm]
        exact read_pieces wf [(spmKey (t.core, t.off), t.image)] a
      · rw [endOp_getCtx]
        exact clearTok_clears _ _ _ _ _ made
  case lantern =>
    intro g t record first
    have verdict := lanternArbitration_verdict first
    refine ⟨fun v => ?_, fun v => ?_, fun v => ?_, fun v => ?_, fun op o found _ e m named => unresolved_error op found m named⟩
    all_goals rw [v] at verdict
    · exact ⟨_, verdict⟩
    · exact ⟨_, verdict⟩
    · exact ⟨_, _, verdict⟩
    · exact ⟨_, _, verdict⟩

/-! ## Operations enter the engines' queue (R239, R245, R263) -/

/-- The operation that enters its core's queue, as it stands there. -/
def queuedOp (kind : MatKind) (p : Nat) (tok : Tokens) (s : State) : MatOp where
  id := fresh s
  ctx := s.who
  bundle := s.frame.base
  kind := kind
  tile := p
  tok := tokOf tok
  deps := captures tok s
  start := none
  groups := 0
  result := Vector.replicate 64 zeroVec
  flags := 0
  events := []
  arb := false
  error := none
  clock := opClock (fresh s) s
  spoil := false
  issued := s.ctx.sc

theorem produceTok_cores (tok : Tokens) (id : Nat) (s : State) : (produceTok tok id s).cores = s.cores := by
  unfold produceTok
  split <;> rfl

theorem produceTok_leaves (tok : Tokens) (id : Nat) (s : State) : SameBytes s (produceTok tok id s) ∧ SameFiles s (produceTok tok id s) := by
  unfold produceTok
  split <;> exact ⟨fun _ => ⟨rfl, rfl, rfl⟩, rfl, rfl, rfl, rfl, rfl, rfl, rfl⟩

theorem produceTok_pending {tok : Tokens} (h : tok.pv = true) (id : Nat) (s : State) : (produceTok tok id s).ctx.k[tok.prod.val] = some id := by
  rw [produceTok, if_pos h]
  simp

section Queue

variable (kind : MatKind) (p : Nat) (tok : Tokens) (s : State)

theorem enqueue_queue : (coreOf (enqueue kind p tok s) s.who.coreNo).queue = (coreOf s s.who.coreNo).queue ++ [queuedOp kind p tok s] := by
  rw [enqueue, coreOf_congr (produceTok_cores ..), coreOf_congr (bump_cores _), coreOf_modCore_self]
  exact congrArg (· ++ [_]) (queue_setTile ..)

/-- The tile of an operation that enters the queue shows no row of its result yet (R245). -/
theorem enqueue_water : (tileOf (enqueue kind p tok s) s.who.coreNo p).water = 0 := by
  rw [enqueue, tileOf_congr (produceTok_cores ..), tileOf_congr (bump_cores _), tileOf_modCore, tileOf_setTile_self]
  exact fun _ => rfl

theorem enqueue_leaves : SameBytes s (enqueue kind p tok s) ∧ SameFiles s (enqueue kind p tok s) := produceTok_leaves tok (fresh s) _

theorem enqueue_pending (h : tok.pv = true) : (enqueue kind p tok s).ctx.k[tok.prod.val] = some (queuedOp kind p tok s).id :=
  produceTok_pending h ..

end Queue

/-- Tokens that name no register twice raise no fault (R266). -/
theorem needTokens_good {tok : Tokens} (distinct : (consumed tok).Nodup) (apart : tok.pv = true → tok.prod ∉ consumed tok) (s : State) (k : Res) :
    needTokens tok s k = k :=
  if_neg fun fault => ((tokenFault_iff tok).1 fault).elim (· distinct) fun ⟨made, twice⟩ => apart made twice

/-! ## The checks of images (R241) -/

/-- An image of n bytes at a reaches the issuing core's own scratchpad at offset q, fits there and is aligned. -/
def OwnImage (s : State) (a : Word) (n q : Nat) : Prop :=
  localPlace s.who.coreNo a.toNat = some (s.who.coreNo, q) ∧ q + n ≤ coreBytes ∧ a.toNat % 64 = 0

theorem OwnImage.place {s : State} {a : Word} {n q : Nat} (h : OwnImage s a n q) : ownImage s a n = some q := by
  obtain ⟨reached, fits, -⟩ := h
  rw [ownImage, reached]
  exact if_pos ⟨rfl, fits⟩

theorem ownImage_zero (s : State) : ownImage s 0 0 = some 0 := by
  have reached : localPlace s.who.coreNo (0 : Word).toNat = some (s.who.coreNo, 0) := localPlace_own (by decide)
  rw [ownImage, reached]
  exact if_pos ⟨rfl, Nat.zero_le _⟩

theorem imageCheck_own {s : State} {xs : List (Word × Nat)} (h : ∀ e ∈ xs, ∃ q, OwnImage s e.1 e.2 q) : imageCheck s xs = none := by
  have reached : (xs.find? fun e => (ownImage s e.1 e.2).isNone) = none := List.find?_eq_none.2 fun e m => by
    obtain ⟨q, own⟩ := h e m
    simp [own.place]
  have aligned : (xs.find? fun e => e.1.toNat % 64 ≠ 0) = none := List.find?_eq_none.2 fun e m => by
    obtain ⟨q, -, -, aligned⟩ := h e m
    simp [aligned]
  rw [imageCheck, reached, aligned]
  rfl

/-- Images of A and Bt that lie in one bank group each, and not in the same, pass the check of their banks. -/
theorem bankCheck_apart {offA lenA offB : Nat} (oneA : bankOf (offA + lenA - 1) = bankOf offA) (oneB : bankOf (offB + 4095) = bankOf offB)
    (apart : bankOf offA ≠ bankOf offB) (a b : Word) : bankCheck offA lenA offB a b = none := by
  rw [bankCheck, if_neg (by simp [oneA]), if_neg (by simp [oneB]), if_neg apart]

/-! ## MMA and TLD (R253, R255) -/

section Issue

variable {s : State} {td : TR} {tok : Tokens} (hc : Computes s) (hw : InWindow s td) (distinct : (consumed tok).Nodup)
  (apart : tok.pv = true → tok.prod ∉ consumed tok)
include hc

theorem execMma_unusable (bad : fmtUsable s (fmtNow s.ctx) = false) (aA aB aS : AR) (z : Bool) :
    exec (.mma td aA aB aS z tok) s = trapAt 4 0x02 s.frame.parcel s := by
  show execMma td aA aB aS z tok s = _
  rw [execMma, needCompute_ready hc]
  dsimp only
  rw [bad]
  rfl

include hw distinct apart

/-- An MMA whose images pass their checks enters the queue, or waits for room, for its token or for an access that it comes after. -/
theorem execMma_checked {aA aB aS : AR} {offA offB offS : Nat} (usable : fmtUsable s (fmtNow s.ctx) = true)
    (hr : Ready ([.a aA, .a aB] ++ if sizeScale (fmtNow s.ctx) ≠ 0 then [.a aS] else []) [] s)
    (imageA : OwnImage s (ea s aA 0) (sizeA (fmtNow s.ctx)) offA) (imageB : OwnImage s (ea s aB 0) 4096 offB)
    (imageS : sizeScale (fmtNow s.ctx) ≠ 0 → OwnImage s (ea s aS 0) (sizeScale (fmtNow s.ctx)) offS)
    (oneA : bankOf (offA + sizeA (fmtNow s.ctx) - 1) = bankOf offA) (oneB : bankOf (offB + 4095) = bankOf offB)
    (banks : bankOf offA ≠ bankOf offB) (z : Bool) :
    exec (.mma td aA aB aS z tok) s =
      if queueFull s s.who.coreNo || tokenBusy tok s || acquirePending s then stall s
      else .next (enqueue (.mma offA offB (if sizeScale (fmtNow s.ctx) ≠ 0 then offS else 0) z (fmtNow s.ctx)) (s.ctx.tbase + td.val) tok s) := by
  have checked : imageCheck s ([(ea s aA 0, sizeA (fmtNow s.ctx)), (ea s aB 0, 4096)] ++
      if sizeScale (fmtNow s.ctx) ≠ 0 then [(if sizeScale (fmtNow s.ctx) ≠ 0 then ea s aS 0 else 0, sizeScale (fmtNow s.ctx))] else []) = none := by
    refine imageCheck_own fun e m => ?_
    by_cases scl : sizeScale (fmtNow s.ctx) ≠ 0
    · simp only [if_pos scl, List.cons_append, List.nil_append, List.mem_cons, List.not_mem_nil, or_false] at m
      rcases m with rfl | rfl | rfl
      · exact ⟨_, imageA⟩
      · exact ⟨_, imageB⟩
      · exact ⟨_, imageS scl⟩
    · simp only [if_neg scl, List.cons_append, List.nil_append, List.mem_cons, List.not_mem_nil, or_false] at m
      rcases m with rfl | rfl
      · exact ⟨_, imageA⟩
      · exact ⟨_, imageB⟩
  have scale : (ownImage s (if sizeScale (fmtNow s.ctx) ≠ 0 then ea s aS 0 else 0) (sizeScale (fmtNow s.ctx))).getD 0 =
      if sizeScale (fmtNow s.ctx) ≠ 0 then offS else 0 := by
    by_cases scl : sizeScale (fmtNow s.ctx) ≠ 0
    · rw [if_pos scl, if_pos scl, (imageS scl).place]; rfl
    · rw [if_neg scl, if_neg scl, not_not.1 scl, ownImage_zero]; rfl
  show execMma td aA aB aS z tok s = _
  rw [execMma, needCompute_ready hc]
  dsimp only
  rw [if_neg (by simp [usable]), needTile_in hw, needTokens_good distinct apart, guardRegs_ready hr, checked, imageA.place, imageB.place, scale]
  dsimp only [Option.getD_some]
  rw [bankCheck_apart oneA oneB banks]

theorem execTld_checked {a : AR} {off : Nat} (hr : Ready [.a a] [] s) (image : OwnImage s (ea s a 0) 16384 off) :
    exec (.tld td a tok) s =
      if tileBusy s s.who.coreNo (s.ctx.tbase + td.val) || queueFull s s.who.coreNo || tokenBusy tok s || acquirePending s then stall s
      else .next (enqueue (.tld off) (s.ctx.tbase + td.val) tok s) := by
  show execTld td a tok s = _
  rw [execTld, needCompute_ready hc, needTile_in hw, needTokens_good distinct apart, guardRegs_ready hr]
  dsimp only
  rw [imageCheck_own (by simpa using ⟨off, image⟩), image.place]
  rfl

end Issue

/-! ## TST (R248, R256, R257) -/

/-- The store that enters the commit buffer, as it stands there. -/
def bufferedStore (p core off size : Nat) (x : SR) (dty : Fin 16) (rnd : Fin 8) (h : Bool) (tok : Tokens) (s : State) : TileStore where
  id := fresh s
  ctx := s.who
  bundle := s.frame.base
  tile := p
  core := core
  off := off
  size := size
  dty := dty.val
  rnd := rnd.val
  isInt := bitsAt (fmtNow s.ctx).toNat 8 4 == 2
  seed := seedTop s.ctx
  s31 := if rnd = 4 then rdS s 31 else 0
  hist := if h then some ((rdS s x).toNat % 32) else none
  tok := tokOf tok
  deps := captures tok s
  start := none
  groups := 0
  image := []
  bins := []
  events := []
  arbs := 0
  doneAt := 0
  error := none
  clock := opClock (fresh s) s
  bad := []

/-- A store enters the commit buffer of the issuing core, and its token becomes pending (R248, R263). -/
def enterBuffer (st : TileStore) (tok : Tokens) (s : State) : State :=
  produceTok tok st.id (bump (modCore s s.who.coreNo fun u => { u with stores := u.stores ++ [st] }))

theorem enterBuffer_stores (st : TileStore) (tok : Tokens) (s : State) :
    (coreOf (enterBuffer st tok s) s.who.coreNo).stores = (coreOf s s.who.coreNo).stores ++ [st] := by
  rw [enterBuffer, coreOf_congr (produceTok_cores ..), coreOf_congr (bump_cores _), coreOf_modCore_self]

theorem enterBuffer_leaves (st : TileStore) (tok : Tokens) (s : State) : SameBytes s (enterBuffer st tok s) ∧ SameFiles s (enterBuffer st tok s) :=
  produceTok_leaves tok st.id _

theorem rmodeOf_lt {c : Nat} {mode : RMode} (h : rmodeOf c = some mode) : c < 5 := by
  by_contra high
  obtain ⟨d, rfl⟩ := Nat.exists_eq_add_of_le (Nat.le_of_not_lt high)
  rw [Nat.add_comm] at h
  cases h

/-- A TST of a legal form, whose image reaches a scratchpad and whose tile is at rest, enters the commit buffer where that has room. -/
theorem execTst_checked {s : State} {td : TR} {tok : Tokens} (hc : Computes s) (hw : InWindow s td) (distinct : (consumed tok).Nodup)
    (apart : tok.pv = true → tok.prod ∉ consumed tok) {a : AR} {x : SR} {dty : Fin 16} {rnd : Fin 8} {h : Bool} {ty : Ty} {mode : RMode}
    (typed : tyOf dty.val = some ty) (low : dty.val < 13) (rounds : rmodeOf rnd.val = some mode) (bare : h = false → x = 0)
    (counts : h = true → accepted s 5 = true)
    (hr : Ready ([.a a] ++ (if h then [.s x] else []) ++ if rnd = 4 then [.s 31] else []) [] s) {core off : Nat}
    (reached : localPlace s.who.coreNo (ea s a 0).toNat = some (core, off)) (fits : off + 512 * ty.width ≤ coreBytes) (aligned : off % 64 = 0)
    (idle : tileBusy s s.who.coreNo (s.ctx.tbase + td.val) = false) (room : (coreOf s s.who.coreNo).stores.length < 4)
    (free : tokenBusy tok s = false) (ordered : acquirePending s = false) :
    exec (.tst td a x dty rnd h tok) s =
      .next (enterBuffer (bufferedStore (s.ctx.tbase + td.val) core off (512 * ty.width) x dty rnd h tok s) tok s) := by
  have legal : ¬ (13 ≤ dty.val ∨ 5 ≤ rnd.val ∨ (!h ∧ x ≠ 0) ∨ (h ∧ !accepted s 5)) := by
    have := rmodeOf_lt rounds
    cases h with
    | false => simp [bare rfl]; omega
    | true => simp [counts rfl]; omega
  show execTst td a x dty rnd h tok s = _
  rw [execTst, needCompute_ready hc, if_neg legal, needTile_in hw, needTokens_good distinct apart, guardRegs_ready hr]
  dsimp only
  rw [reached, typed]
  dsimp only
  rw [if_neg (by omega), if_neg (by omega), idle, free, ordered, if_neg (by simpa using room)]
  rfl

/-- Settles O30: an operation enters by `queuedOp` and a store by `bufferedStore`, once `execMma_checked`, `execTld_checked` and
`execTst_checked` have shown that their checks pass. -/
theorem matrixIssue : Obligations.MatrixIssue := by
  intro s td aA aB aS z h tok x dty rnd hc hw distinct apart k p fmt scl sclR tstR rndR own off bank oneBank enters idle ordered
  have free : tokenBusy tok s = false := by simpa [tokenBusy] using idle
  have image {a : AR} {n : Nat} (fits : own a n) : OwnImage s (ea s a 0) n (off a) := by
    obtain ⟨q, reached, inside, aligned⟩ := fits
    have there : off a = q := by simp only [off, reached, Option.elim_some]
    exact ⟨there ▸ reached, there ▸ inside, aligned⟩
  have entered {i : Instr} {kind : MatKind} (ran : exec i s = .next (enqueue kind p tok s)) : enters i kind := by
    obtain ⟨bytes, files⟩ := enqueue_leaves kind p tok s
    exact ⟨_, queuedOp kind p tok s, ran, enqueue_queue .., rfl, rfl, rfl, rfl, rfl, rfl, enqueue_water .., enqueue_pending kind p tok s, bytes, files⟩
  refine ⟨fun usable hr ownA ownB ownS oneA oneB banks => ?mma, fun bad => execMma_unusable hc bad aA aB aS z, fun hr own busy room => ?tld,
    fun ty mode typed low rounds bare counts hr core q reached fits aligned busy room => ?tst⟩
  case mma =>
    have checked := execMma_checked hc hw distinct apart usable hr (image ownA) (image ownB) (fun scaled => image (ownS scaled)) oneA oneB banks z
    refine ⟨fun room => entered ?_, fun full => ?_⟩
    · rw [checked, room, free, ordered]
      rfl
    · rw [checked, full]
      rfl
  case tld =>
    refine entered ?_
    rw [execTld_checked hc hw distinct apart hr (image own), busy, room, free, ordered]
    rfl
  case tst =>
    obtain ⟨bytes, files⟩ := enterBuffer_leaves (bufferedStore p core q (512 * ty.width) x dty rnd h tok s) tok s
    exact ⟨_, _, execTst_checked hc hw distinct apart typed low rounds bare counts hr reached fits aligned busy room free ordered, enterBuffer_stores ..,
      rfl, rfl, rfl, rfl, rfl, rfl, rfl, rfl, rfl, fun made => produceTok_pending made .., bytes, files⟩

end Sys2Proof.Machine

namespace Sys2Proof.Machine

/-! ## Copies enter their queue (R263, R264, R269, R272–R277) -/

/-- The address of the completion barrier, where the form names one (R269). -/
def barrierAddr (s : State) (opt : EngOpt) : Option Word := if opt.b then some (ea s opt.ab 0) else none

/-- The operation that enters its cluster's queue, as it stands there. -/
def queuedCopy (kind : CopyKind) (dsp ssp : Nat) (D S n : Word) (opt : EngOpt) (cb : Option Word) (tok : Tokens) (s : State) : CopyOp where
  id := fresh s
  ctx := s.who
  task := s.ctx.task
  run := runOf s s.ctx.task
  asid := s.ctx.asid
  ptbase := s.ctx.ptbase
  bundle := s.frame.base
  kind := kind
  dsp := dsp
  ssp := ssp
  dst := D.toNat
  src := S.toNat
  n := n.toNat
  evrec := opt.e
  cb := cb.map BitVec.toNat
  tok := tokOf tok
  deps := captures tok s
  started := false
  attempts := 0
  moved := false
  waitsVa := none
  error := none
  clock := opClock (fresh s) s
  progress := 0
  spoilt := []
  index := none
  held := none
  quiet := false
  undo := []
  unsent := []

/-- The units of a cluster once an operation has entered the queue of its kind. -/
def queueing (op : CopyOp) (u : Cluster) : Cluster :=
  match op.kind with
  | .gath _ _ => { u with gathers := u.gathers ++ [op] }
  | _ => { u with copies := u.copies ++ [op] }

/-- A context's register files. -/
def registerFiles (x : Ctx) : Vector Word 32 × Vector AReg 16 × Vector Bool 16 × Vector Word 8 × Vector Vec 32 × Vector Word 8 × Vector Wit 8 :=
  (x.s, x.a, x.p, x.b, x.v, x.m, x.w)

theorem KeepsOf.ctx {α : Type} {p : Ctx → α} {s t : State} (h : KeepsOf p s t) : p t.ctx = p s.ctx := by
  have running := h.held s.who
  rwa [getCtx_who, getCtx_of_who h.who] at running

theorem KeepsOf.sameFiles {s t : State} (h : KeepsOf registerFiles s t) : SameFiles s t := by
  simpa only [registerFiles, Prod.mk.injEq] using h.ctx

theorem openWindow_leaves (id : Nat) (tok : Option KR) (D n : Nat) (s : State) :
    let t := openWindow id tok D n s
    KeepsOf registerFiles s t ∧ SameBytes s t ∧ t.clusters = s.clusters := by
  unfold openWindow
  split
  · exact ⟨.refl s, fun _ => ⟨rfl, rfl, rfl⟩, rfl⟩
  · refine ⟨.modCtx s _ fun x => ?_, fun _ => by simp, modCtx_clusters ..⟩
    split <;> rfl

section Enters

variable (kind : CopyKind) (dsp ssp : Nat) (D S n : Word) (opt : EngOpt) (cb : Option Word) (tok : Tokens) (s : State)

/-- An operation that enters joins the queue of its kind, and what else moves is no register and no byte. -/
theorem enterCopy_enters :
    let t := enterCopy kind dsp ssp D S n opt cb tok s
    clusterOf t s.who.cluster = queueing (queuedCopy kind dsp ssp D S n opt cb tok s) (clusterOf s s.who.cluster) ∧
      (tok.pv = true → t.ctx.k[tok.prod.val] = some (fresh s)) ∧ SameBytes s t ∧ SameFiles s t := by
  generalize hq : modCluster s s.who.cluster (queueing (queuedCopy kind dsp ssp D S n opt cb tok s)) = q
  generalize hw : (if dsp = 1 then openWindow (fresh s) (tokOf tok) D.toNat n.toNat q else q) = w
  have entered : enterCopy kind dsp ssp D S n opt cb tok s =
      { produceTok tok (fresh s) (bump w) with ctx := clockTick (produceTok tok (fresh s) (bump w)).ctx s.who } := by
    rw [← hw, ← hq]
    cases kind <;> rfl
  have opened : KeepsOf registerFiles q w ∧ SameBytes q w ∧ w.clusters = q.clusters := by
    rw [← hw]
    split
    · exact openWindow_leaves ..
    · exact ⟨.refl q, fun _ => ⟨rfl, rfl, rfl⟩, rfl⟩
  obtain ⟨files, bytes, clusters⟩ := opened
  obtain ⟨madeBytes, madeFiles⟩ := produceTok_leaves tok (fresh s) (bump w)
  have made : (produceTok tok (fresh s) (bump w)).clusters = w.clusters := by unfold produceTok; split <;> rfl
  rw [entered]
  refine ⟨?_, fun pending => produceTok_pending pending .., fun a => ?_, ?_⟩
  · refine (clusterOf_congr (s := w) made _).trans ?_
    rw [clusterOf_congr clusters, ← hq, clusterOf_modCluster_self]
  · obtain ⟨mem, spm, rom⟩ := madeBytes a
    obtain ⟨mem', spm', rom'⟩ := bytes a
    subst hq
    exact ⟨mem.trans mem', spm.trans spm', rom.trans rom'⟩
  · have windows := files.sameFiles
    subst hq
    obtain ⟨fs, fa, fp, fb, fv, fm, fw⟩ := madeFiles
    obtain ⟨gs, ga, gp, gb, gv, gm, gw⟩ := windows
    exact ⟨fs.trans gs, fa.trans ga, fp.trans gp, fb.trans gb, fv.trans gv, fm.trans gm, fw.trans gw⟩

end Enters

/-! ### The checks -/

section Checks

variable {s : State} {cpyx : Bool} {D S n : Word} {dsp ssp : Nat} {cb : Option Word}

theorem copyFault_unaligned (h : D.toNat % 4 ≠ 0) : copyFault s cpyx D S n dsp ssp cb = some (0x08, D) := if_pos h

section Aligned

variable (hD : D.toNat % 4 = 0) (hS : S.toNat % 4 = 0) (hn : n.toNat % 4 = 0)
include hD hS hn

theorem copyFault_long (long : 2 ^ 30 < n.toNat) : copyFault s cpyx D S n dsp ssp cb = some (0x0C, n) := by
  rw [copyFault, if_neg (by omega), if_neg (by omega), if_neg (by omega), if_pos (.inl long)]

theorem copyFault_none (short : n.toNat ≤ if cpyx then 2 ^ 18 else 2 ^ 30) (dst : spaceFault s dsp D n.toNat = none)
    (src : spaceFault s ssp S n.toNat = none) (barrier : ∀ a, cb = some a → barrierFault a = none) :
    copyFault s cpyx D S n dsp ssp cb = none := by
  have fits : ¬ (2 ^ 30 < n.toNat ∨ (cpyx = true ∧ 262144 < n.toNat)) := by
    cases cpyx with
    | true => rw [if_pos rfl] at short; omega
    | false => rw [if_neg Bool.false_ne_true] at short; rintro (long | ⟨ex, -⟩); exacts [by omega, Bool.false_ne_true ex]
  rw [copyFault, if_neg (by omega), if_neg (by omega), if_neg (by omega), if_neg fits, dst, src]
  dsimp only
  cases cb with
  | none => rfl
  | some a => rw [Option.bind_some, barrier a rfl]; rfl

end Aligned

/-- A barrier inside the address space and aligned raises nothing (R269). -/
theorem barrierAddr_sound {opt : EngOpt} (h : opt.b = true → (ea s opt.ab 0).toNat < 2 ^ 56 ∧ (ea s opt.ab 0).toNat % 8 = 0) :
    ∀ a, barrierAddr s opt = some a → barrierFault a = none := by
  intro a named
  unfold barrierAddr at named
  split at named
  · rename_i b
    obtain ⟨low, aligned⟩ := h b
    obtain rfl := Option.some.inj named
    rw [barrierFault, if_neg (by omega), if_neg (by omega)]
  · cases named

/-- What fits the issuing core's view of the scratchpads, as the check of a local range finds it (R273). -/
theorem spaceFault_local {a : Word} {len : Nat} (h : spaceFault s 0 a len = none) :
    ∃ p, localPlace s.who.coreNo a.toNat = some p ∧ p.2 + len ≤ coreBytes := by
  unfold spaceFault at h
  cases there : localPlace s.who.coreNo a.toNat with
  | none => rw [there] at h; cases h
  | some p =>
    rw [there] at h
    by_cases fits : p.2 + len ≤ coreBytes
    · exact ⟨p, rfl, fits⟩
    · simp [fits] at h

theorem gatherFault_none {X TB : Word} {w : Nat} (few : n.toNat ≤ 65536) (table : TB.toNat < 2 ^ 56) (hD : D.toNat % 4 = 0) (hX : X.toNat % 4 = 0)
    (hT : TB.toNat % 4 = 0) (dst : spaceFault s 0 D (n.toNat * w) = none) (index : spaceFault s 0 X (4 * n.toNat) = none)
    (barrier : ∀ a, cb = some a → barrierFault a = none) : gatherFault s D X TB n w cb = none := by
  obtain ⟨p, atD, fitsD⟩ := spaceFault_local dst
  obtain ⟨q, atX, fitsX⟩ := spaceFault_local index
  unfold gatherFault
  dsimp only
  rw [if_neg (by omega), if_neg (by omega), if_neg (by omega), if_neg (by omega), if_neg (by omega), if_neg (by simp [atD, fitsD]),
    if_neg (by simp [atX, fitsX])]
  cases cb with
  | none => rfl
  | some a => rw [Option.bind_some, barrier a rfl]; rfl

end Checks

/-! ### The three instructions -/

section Issue

variable {s : State} {ad aS aI : AR} {x : SR} {dsp ssp : Fin 8} {rl : Fin 32} {opt : EngOpt} {tok : Tokens} {kind : CopyKind}

theorem issueCopy_unusable (hc : Computes s) (bad : spaceUsable s dsp = false ∨ spaceUsable s ssp = false) :
    issueCopy kind ad aS x dsp ssp opt tok s = trapAt 4 0x02 s.frame.parcel s := by
  rw [issueCopy, needCompute_ready hc, if_pos (by rcases bad with h | h <;> simp [h])]
  rfl

theorem execGath_reserved (hc : Computes s) (bad : rl.val < 2 ∨ 14 < rl.val) :
    execGath ad aS aI x rl opt tok s = trapAt 4 0x02 s.frame.parcel s := by
  rw [execGath, needCompute_ready hc, if_pos (by rcases bad with h | h <;> simp [h])]
  rfl

variable (hc : Computes s) (bare : opt.b = false → opt.ab = 0) (distinct : (consumed tok).Nodup) (apart : tok.pv = true → tok.prod ∉ consumed tok)
include hc bare distinct apart

section Copy

variable (dst : spaceUsable s dsp = true) (src : spaceUsable s ssp = true)
  (hr : Ready ([.a ad, .a aS, .s x] ++ if opt.b then [.a opt.ab] else []) [] s)
include dst src hr

/-- A copy whose spaces and registers can be used traps with the operand that fails, or enters its queue where it has room. -/
theorem issueCopy_judged : issueCopy kind ad aS x dsp ssp opt tok s =
    (copyFault s (kind == .cpyx) (ea s ad 0) (ea s aS 0) (rdS s x) dsp.val ssp.val (barrierAddr s opt)).elim
      (if 32 ≤ (clusterOf s s.who.cluster).copies.length ∨ tokenBusy tok s = true ∨ acquirePending s = true then stall s
        else .next (enterCopy kind dsp.val ssp.val (ea s ad 0) (ea s aS 0) (rdS s x) opt (barrierAddr s opt) tok s))
      fun e => trapAt 12 e.1 e.2 s := by
  have legal : ¬ (!spaceUsable s dsp || !spaceUsable s ssp || (!opt.b && opt.ab != 0)) = true := by
    cases b : opt.b with
    | true => simp [dst, src]
    | false => simp [dst, src, bare b]
  rw [issueCopy, needCompute_ready hc, if_neg legal, needTokens_good distinct apart, guardRegs_ready hr]
  dsimp only
  rw [← barrierAddr]
  cases copyFault s (kind == .cpyx) (ea s ad 0) (ea s aS 0) (rdS s x) dsp.val ssp.val (barrierAddr s opt) <;> rfl

end Copy

/-- A gather of a legal row length that passes its checks enters its queue where it has room. -/
theorem execGath_passes (low : 2 ≤ rl.val) (high : rl.val ≤ 14)
    (hr : Ready ([.a ad, .a aS, .a aI, .s x] ++ if opt.b then [.a opt.ab] else []) [] s)
    (passes : gatherFault s (ea s ad 0) (ea s aI 0) (ea s aS 0) (rdS s x) (2 ^ rl.val) (barrierAddr s opt) = none) :
    execGath ad aS aI x rl opt tok s =
      if 16 ≤ (clusterOf s s.who.cluster).gathers.length ∨ tokenBusy tok s = true ∨ acquirePending s = true then stall s
      else .next (enterCopy (.gath rl.val (ea s aS 0).toNat) 0 0 (ea s ad 0) (ea s aI 0) (rdS s x) opt (barrierAddr s opt) tok s) := by
  have legal : ¬ (rl.val < 2 ∨ 14 < rl.val ∨ ((!opt.b) = true ∧ opt.ab ≠ 0)) := by
    cases b : opt.b with
    | true => simp; omega
    | false => simp [bare b]; omega
  rw [execGath, needCompute_ready hc, if_neg legal, needTokens_good distinct apart, guardRegs_ready hr]
  dsimp only
  rw [← barrierAddr, passes]

end Issue

/-- Settles O33: a copy is judged by `issueCopy_judged` and a gather by `execGath_passes`; what enters is `queuedCopy`. -/
theorem copyIssue : Obligations.CopyIssue := by
  intro s ad aS aI x dsp ssp rl opt tok hc bare distinct apart g D S X n barrier optR idle entered
  have free (h : idle) : ¬ (tokenBusy tok s = true ∨ acquirePending s = true) := by
    obtain ⟨token, ordered⟩ := h
    simpa [tokenBusy, ordered] using token
  have cbOf : (barrierAddr s opt).map BitVec.toNat = if opt.b then some (ea s opt.ab 0).toNat else none := by
    unfold barrierAddr; split <;> rfl
  have enters (kind : CopyKind) (dsp ssp : Nat) (src : Word) :
      entered (enterCopy kind dsp ssp D src n opt (barrierAddr s opt) tok s) (queuedCopy kind dsp ssp D src n opt (barrierAddr s opt) tok s) kind dsp ssp src := by
    obtain ⟨-, pending, bytes, files⟩ := enterCopy_enters kind dsp ssp D src n opt (barrierAddr s opt) tok s
    exact ⟨rfl, rfl, rfl, rfl, rfl, rfl, rfl, rfl, rfl, cbOf, rfl, rfl, rfl, pending, bytes, files⟩
  refine ⟨fun e member => ?copies, fun bad => execGath_reserved hc bad, fun low high hr few table hD hX hT dst index sound ready => ?gathers⟩
  case copies =>
    obtain ⟨kind, runs, exactly, queued⟩ : ∃ kind : CopyKind, exec e.1 s = issueCopy kind ad aS x dsp ssp opt tok s ∧
        (e.2 = kind ∧ ((kind == .cpyx) = true ↔ e.2 = .cpyx)) ∧ ∀ op u, op.kind = kind → queueing op u = { u with copies := u.copies ++ [op] } := by
      rcases List.mem_pair.1 member with rfl | rfl
      · exact ⟨.cpy, rfl, ⟨rfl, beq_iff_eq⟩, fun op u is => by rw [queueing, is]⟩
      · exact ⟨.cpyx, rfl, ⟨rfl, beq_iff_eq⟩, fun op u is => by rw [queueing, is]⟩
    obtain ⟨rfl, exactly⟩ := exactly
    rw [runs]
    refine ⟨issueCopy_unusable hc, fun dst src hr => ?_⟩
    have judged := issueCopy_judged (kind := e.2) hc bare distinct apart dst src hr
    refine ⟨fun unaligned => ?_, fun hD hS hn long => ?_, fun hD hS hn short toD toS sound ready => ?_⟩
    · rw [judged, copyFault_unaligned unaligned]; rfl
    · rw [judged, copyFault_long hD hS hn long]; rfl
    · have passes := copyFault_none (cpyx := e.2 == .cpyx) hD hS hn (by simpa only [exactly] using short) toD toS (barrierAddr_sound sound)
      rw [judged, passes]
      refine ⟨fun room => ⟨_, _, if_neg ?_, ?_, enters e.2 dsp.val ssp.val S⟩, fun full => if_pos (.inl full)⟩
      · rintro (full | busy)
        · exact absurd full (Nat.not_le.2 room)
        · exact free ready busy
      · rw [(enterCopy_enters ..).1, queued _ _ rfl]
  case gathers =>
    rw [show exec (.gath ad aS aI x rl opt tok) s = execGath ad aS aI x rl opt tok s from rfl, execGath_passes hc bare distinct apart low high hr
      (gatherFault_none few table hD hX hT dst index (barrierAddr_sound sound))]
    refine ⟨fun room => ⟨_, _, if_neg ?_, ?_, enters (.gath rl.val S.toNat) 0 0 X⟩, fun full => if_pos (.inl full)⟩
    · rintro (full | busy)
      · exact absurd full (Nat.not_le.2 room)
      · exact free ready busy
    · rw [(enterCopy_enters ..).1]
      rfl

end Sys2Proof.Machine

namespace Sys2Proof.Machine

/-! ## An operation of a copy queue changes (R264, R275, R276) -/

theorem findCopy_id {s : State} {g id : Nat} {o : CopyOp} (found : findCopy s g id = some o) : o.id = id := by
  simpa using List.find?_some found

/-- The operation that a number finds, after a change of those that bear it. -/
theorem findCopy_modCopy {s : State} {g id : Nat} {o : CopyOp} (found : findCopy s g id = some o) {f : CopyOp → CopyOp} (keeps : ∀ c, (f c).id = c.id) :
    findCopy (modCopy g id f s) g id = some (f o) := by
  have numbered : ((fun c : CopyOp => decide (c.id = id)) ∘ fun c => if c.id = id then f c else c) = fun c => decide (c.id = id) := by
    funext c
    by_cases bears : c.id = id <;> simp [bears, keeps]
  have num := findCopy_id found
  unfold findCopy at found
  rw [findCopy, modCopy, clusterOf_modCluster_self, ← List.map_append, List.find?_map, numbered, found]
  simp [num]

theorem modCopy_leaves (g id : Nat) (f : CopyOp → CopyOp) (s : State) : (modCopy g id f s).ctx = s.ctx ∧ SameBytes s (modCopy g id f s) :=
  ⟨rfl, fun _ => ⟨rfl, rfl, rfl⟩⟩

/-! ## A copy starts (R264, R272, R275–R278) -/

/-- What a step answers is a next state. -/
def Answers (r : Res) : Prop := ∃ t, r = .next t

theorem answers_next (t : State) : Answers (.next t) := ⟨t, rfl⟩

theorem Answers.ite {r q : Res} {p : Prop} [Decidable p] (h : Answers r) (g : Answers q) : Answers (if p then r else q) := by
  split
  · exact h
  · exact g

theorem copyStart_answers (s : State) : Answers (exec .copyStart s) := by
  show Answers (execCopyStart s)
  unfold execCopyStart
  dsimp only
  split
  · exact answers_next _
  · refine .ite (answers_next _) (.ite (answers_next _) ?_)
    split
    · refine .ite ?_ (answers_next _)
      split <;> exact answers_next _
    · split <;> exact answers_next _

theorem cpyxAttempt_answers (s : State) : Answers (exec .cpyxAttempt s) := by
  show Answers (execCpyxAttempt s)
  unfold execCpyxAttempt
  dsimp only
  split
  · exact answers_next _
  · refine .ite (answers_next _) ?_
    split
    · exact answers_next _
    · split
      · exact .ite (answers_next _) (.ite (answers_next _) (answers_next _))
      all_goals exact answers_next _

theorem copyArrival_answers (s : State) : Answers (exec .copyArrival s) := by
  show Answers (execCopyArrival s)
  unfold execCopyArrival
  dsimp only
  split
  · exact answers_next _
  · refine .ite (answers_next _) (.ite (answers_next _) ?_)
    split <;> exact answers_next _

/-- A number that no operation of the cluster bears moves nothing. -/
theorem copySteps_unfound {s : State} (none : findCopy s s.input.clu.val s.input.num = none) :
    exec .copyStart s = .next s ∧ exec .cpyxAttempt s = .next s ∧ exec .copyArrival s = .next s := by
  refine ⟨?_, ?_, ?_⟩
  · show execCopyStart s = _
    unfold execCopyStart
    dsimp only
    rw [none]
  · show execCpyxAttempt s = _
    unfold execCpyxAttempt
    dsimp only
    rw [none]
  · show execCopyArrival s = _
    unfold execCopyArrival
    dsimp only
    rw [none]

section CopySteps

variable {s : State} {o : CopyOp} (found : findCopy s s.input.clu.val s.input.num = some o)
include found

theorem copyStart_waits (h : o.deps ≠ [] ∨ o.waitsVa ≠ none ∨ o.moved = true) : exec .copyStart s = .next s := by
  show execCopyStart s = _
  unfold execCopyStart
  dsimp only
  rw [found]
  refine if_pos ?_
  rcases h with deps | waits | moved
  · simp [deps]
  · simp [Option.isSome_iff_ne_none.2 waits]
  · simp [moved]

theorem cpyxAttempt_waits (h : o.started = false ∨ o.moved = true ∨ o.waitsVa ≠ none ∨ o.kind ≠ .cpyx) : exec .cpyxAttempt s = .next s := by
  show execCpyxAttempt s = _
  unfold execCpyxAttempt
  dsimp only
  rw [found]
  refine if_pos ?_
  rcases h with fresh | moved | waits | other
  · simp [fresh]
  · simp [moved]
  · simp [Option.isSome_iff_ne_none.2 waits]
  · simp [other]

theorem copyArrival_waits (h : o.moved = false ∨ o.waitsVa ≠ none) : exec .copyArrival s = .next s := by
  show execCopyArrival s = _
  unfold execCopyArrival
  dsimp only
  rw [found]
  refine if_pos ?_
  rcases h with on | waits
  · simp [on]
  · simp [Option.isSome_iff_ne_none.2 waits]

section Free

variable (deps : o.deps = []) (flows : o.waitsVa = none) (on : o.moved = false)
include deps flows on

/-- An operation with the error of one that it has captured ends at its start (R264). -/
theorem copyStart_failed (failed : o.error ≠ none) :
    exec .copyStart s = .next (modCopy s.input.clu.val o.id (fun c => { c with started := true, moved := true }) s) := by
  show execCopyStart s = _
  unfold execCopyStart
  dsimp only
  rw [found]
  dsimp only
  rw [if_neg (by simp [deps, flows, on]), if_pos (Option.isSome_iff_ne_none.2 failed)]

variable (sound : o.error = none)
include sound

/-- A CPYX whose destination is no window starts, and its bytes move at its attempts (R276). -/
theorem copyStart_cpyx (kind : o.kind = .cpyx) (elsewhere : o.dsp ≠ 1) :
    exec .copyStart s = .next (modCopy s.input.clu.val o.id (fun c => { c with started := true }) s) := by
  show execCopyStart s = _
  unfold execCopyStart
  dsimp only
  rw [found]
  dsimp only
  rw [if_neg (by simp [deps, flows, on]), if_neg (by simp [sound]), if_neg elsewhere]
  dsimp only
  rw [kind]

/-- A window that the operation cannot write ends it in protection (R278). -/
theorem copyStart_shut {w : WinAddr} (window : o.dsp = 1) (reached : winOf s o.task o.dst = some w) (shut : winReady s o w = false) :
    exec .copyStart s =
      .next (modCopy s.input.clu.val o.id (fun c => { c with started := true, moved := true, error := some 0x0C }) s) := by
  show execCopyStart s = _
  unfold execCopyStart
  dsimp only
  rw [found]
  dsimp only
  rw [if_neg (by simp [deps, flows, on]), if_neg (by simp [sound]), if_pos window, reached]
  dsimp only
  rw [if_neg (by simp [shut])]

end Free

end CopySteps

/-! ## Records that wait (R270, R443) -/

section Records

variable {s : State} {r : Record} {rest : List Record} (oldest : (clusterOf s s.input.clu.val).posting = r :: rest)
include oldest

theorem eventRecordPost_replay (replay : isReplay r.task = true) :
    exec .eventRecordPost s = .next (modCluster s s.input.clu.val fun u => { u with posting := rest }) := by
  show execEventRecordPost s = _
  unfold execEventRecordPost
  dsimp only
  rw [oldest]
  exact if_pos replay

variable (own : isReplay r.task = false)
include own

theorem eventRecordPost_room
    (room : (clusterOf s s.input.clu.val).events = [] ∨ (clusterOf s s.input.clu.val).events.length < Config.eventQueueDepth) :
    exec .eventRecordPost s = .next (modCluster s s.input.clu.val fun u => { u with posting := rest, events := u.events ++ [r] }) := by
  have space : ¬ ((clusterOf s s.input.clu.val).events ≠ [] ∧ Config.eventQueueDepth ≤ (clusterOf s s.input.clu.val).events.length) :=
    fun ⟨queued, full⟩ => room.elim queued fun room => absurd full (Nat.not_le.2 room)
  show execEventRecordPost s = _
  unfold execEventRecordPost
  dsimp only
  rw [oldest]
  dsimp only
  rw [if_neg (by simp [own]), if_neg space]

theorem eventRecordPost_full (queued : (clusterOf s s.input.clu.val).events ≠ [])
    (full : Config.eventQueueDepth ≤ (clusterOf s s.input.clu.val).events.length) : exec .eventRecordPost s = .next s := by
  show execEventRecordPost s = _
  unfold execEventRecordPost
  dsimp only
  rw [oldest]
  dsimp only
  rw [if_neg (by simp [own]), if_pos ⟨queued, full⟩]

end Records

theorem eventRecordPost_idle {s : State} (none : (clusterOf s s.input.clu.val).posting = []) : exec .eventRecordPost s = .next s := by
  show execEventRecordPost s = _
  unfold execEventRecordPost
  dsimp only
  rw [none]

theorem eventRecordPost_answers (s : State) : Answers (exec .eventRecordPost s) := by
  show Answers (execEventRecordPost s)
  unfold execEventRecordPost
  dsimp only
  split
  · exact answers_next _
  · exact .ite (answers_next _) (.ite (answers_next _) (answers_next _))

/-! ## Steps of Sump (R422–R426) -/

/-- From s to t every context, the scratchpads and the other stacks keep what they hold. -/
structure OnlyStack (n : Fin 8) (s t : State) : Prop where
  ctx : t.ctx = s.ctx
  parked : t.parked = s.parked
  spm : t.spm = s.spm
  others : ∀ m, m ≠ n → stackOf t m = stackOf s m

namespace OnlyStack

variable {n : Fin 8} {s t u : State}

theorem refl (s : State) : OnlyStack n s s := ⟨rfl, rfl, rfl, fun _ _ => rfl⟩

theorem trans (h : OnlyStack n s t) (g : OnlyStack n t u) : OnlyStack n s u :=
  ⟨g.ctx.trans h.ctx, g.parked.trans h.parked, g.spm.trans h.spm, fun m other => (g.others m other).trans (h.others m other)⟩

theorem ite {p : Prop} [Decidable p] (h : OnlyStack n s t) (g : OnlyStack n s u) : OnlyStack n s (if p then t else u) := by
  split
  · exact h
  · exact g

theorem modStack (s : State) (f : Stack → Stack) : OnlyStack n s (modStack s n f) := ⟨rfl, rfl, rfl, fun _ other => stackOf_modStack_other s f other⟩

theorem poke (s : State) (a k x : Nat) : OnlyStack n s (poke s a k x) := ⟨rfl, rfl, rfl, fun _ _ => rfl⟩

theorem setDir (s : State) (page : Nat) (e : DirEnt) : OnlyStack n s (setDir s n page e) := (modStack ..).trans (poke ..)

theorem clearBytes (s : State) (a k : Nat) : OnlyStack n s (clearBytes s a k) := ⟨rfl, rfl, rfl, fun _ _ => rfl⟩

end OnlyStack

theorem setDir_stack (s : State) (n : Fin 8) (page : Nat) (e : DirEnt) :
    stackOf (setDir s n page e) n = { stackOf s n with dirs := Tbl.set (stackOf s n).dirs page e } :=
  (stackOf_congr (t := setDir s n page e) (s := modStack s n fun st => { st with dirs := Tbl.set st.dirs page e }) rfl n).trans
    (stackOf_modStack_self ..)

theorem ballooned_setDir (s : State) (n : Fin 8) (page : Nat) (e : DirEnt) : ballooned (setDir s n page e) n page = e.ballooned := by
  rw [ballooned, dirOf, setDir_stack, tbl_get_set_self]
  rfl

/-- A stack for whose sectors no write waits has none to serve (R419). -/
theorem serveStack_idle {s : State} {n : Fin 8} (idle : (stackOf s n).sump.waiting = []) : serveStack s n = s := by
  rw [serveStack, idle]
  rfl

/-- Whether a stack is kicked touches its mark that it inflates, and no other state (R424). -/
theorem kickSump_marks (s : State) (n : Fin 8) :
    kickSump s n = s ∨ kickSump s n = modStack s n fun st => { st with sump := { st.sump with inflating := true } } := by
  unfold kickSump
  dsimp only
  split
  · exact .inr rfl
  · exact .inl rfl

/-- One entry of the balloon list is consumed: HEAD advances (R423, R424). -/
theorem inflateOne_consumes (s : State) (n : Fin 8) :
    OnlyStack n s (inflateOne s n) ∧ (stackOf (inflateOne s n) n).sump.head = ((stackOf s n).sump.head + 1) % 4096 ∧
      (stackOf (inflateOne s n) n).sump.waiting = (stackOf s n).sump.waiting := by
  have advanced : OnlyStack n s (modStack s n fun st => { st with sump := { st.sump with head := (st.sump.head + 1) % 4096 } }) := .modStack ..
  unfold inflateOne
  dsimp only
  split
  · split
    · refine ⟨advanced.trans (.setDir ..), ?_, ?_⟩ <;> rw [setDir_stack, stackOf_modStack_self]
    · refine ⟨advanced.trans (.modStack ..), ?_, ?_⟩ <;> rw [stackOf_modStack_self, stackOf_modStack_self]
  · refine ⟨advanced.trans (.modStack ..), ?_, ?_⟩ <;> rw [stackOf_modStack_self, stackOf_modStack_self]

theorem sumpInflation_answers (s : State) : Answers (exec .sumpInflation s) := by
  show Answers (execSumpInflation s)
  unfold execSumpInflation
  dsimp only
  refine .ite (answers_next _) ?_
  split
  · exact .ite (answers_next _) (answers_next _)
  · exact answers_next _

theorem sumpCtlEn_answers (s : State) : Answers (exec .sumpCtlEn s) := .ite (answers_next _) (answers_next _)

theorem sumpCtlRetry_answers (s : State) : Answers (exec .sumpCtlRetry s) := .ite (answers_next _) (answers_next _)

section SumpSteps

variable {s : State} (idle : (stackOf s s.input.die).sump.waiting = [])
include idle

theorem sumpInflation_rests (done : inflates (stackOf s s.input.die) = false) :
    exec .sumpInflation s = .next (modStack s s.input.die fun st => { st with sump := { st.sump with inflating := false } }) := by
  show execSumpInflation s = _
  unfold execSumpInflation
  dsimp only
  rw [if_neg (by simp [done]), serveStack_idle idle, idle]
  rfl

theorem sumpInflation_inflates (on : inflates (stackOf s s.input.die) = true) :
    exec .sumpInflation s = .next (inflateOne s s.input.die) := by
  show execSumpInflation s = _
  unfold execSumpInflation
  dsimp only
  rw [if_pos on, serveStack_idle ((inflateOne_consumes s s.input.die).2.2.trans idle)]

theorem sumpCtlRetry_idle (live : s.dev.frozen = false) :
    exec .sumpCtlRetry s = .next (modStack s s.input.die fun st => { st with sump := { st.sump with told := [] } }) := by
  show execSumpCtlRetry s = _
  unfold execSumpCtlRetry
  dsimp only
  rw [if_neg (by simp [live]), serveStack_idle (by rw [stackOf_modStack_self]; exact idle)]

end SumpSteps

/-- SUMP_CTL.EN: the registers hold what they held, and no write waits (R422). -/
theorem sumpEnable_enables (s : State) (n : Fin 8) :
    OnlyStack n s (sumpEnable s n) ∧ (stackOf (sumpEnable s n) n).sump = { (stackOf s n).sump with en := true, waiting := [], told := [] } := by
  unfold sumpEnable
  dsimp only
  refine ⟨((OnlyStack.clearBytes ..).trans (.clearBytes ..)).trans (.modStack ..), ?_⟩
  rw [stackOf_modStack_self]
  rfl

/-- SUMP_DEFL: the page whose address is written is ballooned no longer (R425). -/
theorem deflate_deflates (s : State) (n : Fin 8) (pa : Nat) :
    OnlyStack n s (deflate s n pa) ∧ (stackOf (deflate s n pa) n).sump = (stackOf s n).sump ∧
      ∀ p, placeOf s pa = .nominal n p → ballooned (deflate s n pa) n p = false := by
  unfold deflate
  split
  · rename_i m page there
    split
    · refine ⟨(OnlyStack.clearBytes ..).trans (.setDir ..), by rw [setDir_stack]; rfl, fun p named => ?_⟩
      obtain ⟨-, rfl⟩ := Place.nominal.inj (there.symm.trans named)
      rw [ballooned_setDir]
      rfl
    · rename_i spared
      refine ⟨.refl s, rfl, fun p named => ?_⟩
      obtain ⟨rfl, rfl⟩ := Place.nominal.inj (there.symm.trans named)
      simpa using spared
  · rename_i elsewhere
    exact ⟨.refl s, rfl, fun p named => absurd named (elsewhere n p)⟩

/-- A new TAIL of the balloon list leaves its HEAD (R423). -/
theorem sumpTail_tails (s : State) (n : Fin 8) (tail : Nat) :
    OnlyStack n s (sumpTail s n tail) ∧ (sumpTail s n tail).mem = s.mem ∧ (stackOf (sumpTail s n tail) n).sump.tail = tail % 4096 ∧
      (stackOf (sumpTail s n tail) n).sump.head = (stackOf s n).sump.head := by
  have set : OnlyStack n s (modStack s n fun st => { st with sump := { st.sump with tail := tail % 4096 } }) := .modStack ..
  unfold sumpTail
  dsimp only
  rcases kickSump_marks (modStack s n fun st => { st with sump := { st.sump with tail := tail % 4096 } }) n with same | marked
  · rw [same]
    exact ⟨set, rfl, by rw [stackOf_modStack_self], by rw [stackOf_modStack_self]⟩
  · rw [marked]
    exact ⟨set.trans (.modStack ..), rfl, by rw [stackOf_modStack_self, stackOf_modStack_self], by rw [stackOf_modStack_self, stackOf_modStack_self]⟩

/-- Settles O60: every step by its `_answers` lemma, a copy's start by what it makes of its operation (`findCopy_modCopy`), Sump's steps by what
each leaves of its stack (`OnlyStack`). -/
theorem queueAndSumpStepsComplete : Obligations.QueueAndSumpStepsComplete := by
  intro s g id n u copySteps sumpSteps becomes others
  have only {t : State} (h : OnlyStack n s t) : others t := ⟨h.ctx, h.parked, h.spm, h.others⟩
  have turns {f : CopyOp → CopyOp} {o : CopyOp} (found : findCopy s g id = some o)
      (ran : exec .copyStart s = .next (modCopy g o.id f s)) (keeps : ∀ c, (f c).id = c.id) : becomes (f o) := by
    rw [findCopy_id found] at ran
    exact ⟨_, ran, findCopy_modCopy found keeps, modCopy_leaves ..⟩
  refine ⟨?complete, fun none i m => ?unfound, fun o found => ?copies, eventRecordPost_idle, fun r rest oldest replay => ?replay,
    fun r rest oldest own room => ?posted, fun off => ?enable, fun idle live => ?retry, ?tail, ?deflate, ?clear,
    fun idle => ⟨fun done => ?rests, fun on => ?inflates⟩⟩
  case complete =>
    simp only [copySteps, sumpSteps, List.cons_append, List.nil_append, List.forall_mem_cons]
    exact ⟨copyStart_answers s, cpyxAttempt_answers s, copyArrival_answers s, eventRecordPost_answers s, sumpInflation_answers s, sumpCtlEn_answers s,
      sumpCtlRetry_answers s, answers_next _, answers_next _, answers_next _, List.forall_mem_nil _⟩
  case unfound =>
    obtain ⟨start, attempt, arrival⟩ := copySteps_unfound none
    simp only [copySteps, List.mem_cons, List.not_mem_nil, or_false] at m
    rcases m with rfl | rfl | rfl
    · exact start
    · exact attempt
    · exact arrival
  case copies =>
    refine ⟨copyStart_waits found, cpyxAttempt_waits found, copyArrival_waits found, fun deps flows on => ⟨fun failed => ?_, fun sound kind elsewhere => ?_,
      fun w sound window reached shut => ?_⟩⟩
    · exact turns found (copyStart_failed found deps flows on failed) fun _ => rfl
    · exact turns found (copyStart_cpyx found deps flows on sound kind elsewhere) fun _ => rfl
    · exact turns found (copyStart_shut found deps flows on sound window reached shut) fun _ => rfl
  case replay =>
    refine ⟨_, eventRecordPost_replay oldest replay, ?_, ?_, rfl, fun _ => ⟨rfl, rfl, rfl⟩⟩ <;> rw [clusterOf_modCluster_self]
  case posted =>
    refine ⟨_, eventRecordPost_room oldest own room, ?_, ?_, rfl, fun _ => ⟨rfl, rfl, rfl⟩⟩ <;> rw [clusterOf_modCluster_self]
  case enable =>
    obtain ⟨rest, registers⟩ := sumpEnable_enables s n
    exact ⟨_, if_neg (by simpa using off), only rest, registers⟩
  case retry => exact ⟨_, sumpCtlRetry_idle idle live, only (.modStack ..), rfl, by rw [stackOf_modStack_self]⟩
  case tail =>
    obtain ⟨rest, registers⟩ := sumpTail_tails s n id
    exact ⟨_, rfl, only rest, registers⟩
  case deflate =>
    obtain ⟨rest, registers⟩ := deflate_deflates s n id
    exact ⟨_, rfl, only rest, registers⟩
  case clear =>
    refine ⟨_, rfl, only (.modStack ..), rfl, ?_⟩
    rw [sumpClearOos, stackOf_modStack_self]
  case rests => exact ⟨_, sumpInflation_rests idle done, only (.modStack ..), rfl, by rw [stackOf_modStack_self]⟩
  case inflates =>
    obtain ⟨rest, head, -⟩ := inflateOne_consumes s s.input.die
    refine ⟨_, sumpInflation_inflates idle on, only rest, ?_⟩
    dsimp only [u, n]
    exact head

end Sys2Proof.Machine

namespace Sys2Proof.Machine

/-! ## The two ends of a channel (R282, R286, R288) -/

@[simp] theorem chanOf_setChan_self (s : State) (n : Nat) (c : Chan) : chanOf (setChan s n c) n = some c := tbl_get_set_self ..

theorem chanOf_congr {s t : State} (h : t.chans = s.chans) (n : Nat) : chanOf t n = chanOf s n := by rw [chanOf, chanOf, h]

/-- A claim that fails moves no channel and no byte. -/
theorem failClaim_leaves (code : BitVec 8) (q : Claim) (s : State) :
    (failClaim code q s).chans = s.chans ∧ SameBytes s (failClaim code q s) ∧ (failClaim code q s).now = s.now := by
  unfold failClaim spoilLanding
  dsimp only
  split
  · refine ⟨?_, fun a => ⟨?_, ?_, ?_⟩, ?_⟩
    all_goals simp [postCtx]
  · refine ⟨?_, fun a => ⟨?_, ?_, ?_⟩, ?_⟩
    all_goals simp [addLate]

theorem failClaims_leave (code : BitVec 8) (l : List Claim) (s : State) :
    let t := l.foldl (fun s q => failClaim code q s) s
    t.chans = s.chans ∧ SameBytes s t := by
  refine List.foldlRecOn l _ (motive := fun t : State => t.chans = s.chans ∧ SameBytes s t) ⟨rfl, fun _ => ⟨rfl, rfl, rfl⟩⟩ ?_
  rintro t ⟨chans, bytes⟩ q -
  obtain ⟨chans', bytes', -⟩ := failClaim_leaves code q t
  exact ⟨chans'.trans chans, fun a => ⟨(bytes' a).1.trans (bytes a).1, (bytes' a).2.1.trans (bytes a).2.1, (bytes' a).2.2.trans (bytes a).2.2⟩⟩

/-- What an open channel holds once it closes: an inbound close discards and counts what no receive has claimed (R286, R288). -/
def closedChan (inbound : Bool) (c : Chan) : Chan :=
  let keep := if inbound then min c.q.length c.claims.length else c.q.length
  { c with closed := true, q := c.q.take keep, claims := c.claims.take keep, dropped := min 0xFFFF (c.dropped + (c.q.length - keep)) }

/-- A channel that closes is closed at both ends; a second close has no effect (R288). -/
theorem closeChan_closes {s : State} {n : Nat} {c : Chan} (there : chanOf s n = some c) (inbound : Bool) :
    chanOf (closeChan n inbound s) n = some (if c.closed then c else closedChan inbound c) ∧ SameBytes s (closeChan n inbound s) := by
  unfold closeChan
  rw [there]
  dsimp only
  cases closed : c.closed with
  | true => exact ⟨there, fun _ => ⟨rfl, rfl, rfl⟩⟩
  | false =>
    obtain ⟨chans, bytes⟩ := failClaims_leave 0x11
      (c.claims.drop (if inbound then min c.q.length c.claims.length else c.q.length)) (setChan s n (closedChan inbound c))
    exact ⟨(chanOf_congr chans n).trans (chanOf_setChan_self ..), bytes⟩

theorem closed_of_closeChan (inbound : Bool) (c : Chan) : (if c.closed then c else closedChan inbound c).closed = true := by
  split
  · assumption
  · rfl

theorem closedChan_outbound (c : Chan) : (closedChan false c).q = c.q := by
  rw [closedChan, if_neg Bool.false_ne_true]
  exact List.take_length

theorem closedChan_inbound (c : Chan) : (closedChan true c).q.length = min c.q.length c.claims.length ∧
    (closedChan true c).dropped = min 0xFFFF (c.dropped + (c.q.length - c.claims.length)) := by
  rw [closedChan, if_pos rfl]
  refine ⟨?_, ?_⟩
  · rw [List.length_take]; omega
  · dsimp only; congr 2; omega

/-! ## Sending (R284, R285, R289) -/

/-- The state in which a context has counted a send on its channel c (R105, R289). -/
def sentOn (b : ChanBind) (c : CR) (s : State) : State :=
  let b' := { b with sent := (b.sent.filter fun t => s.ctx.sc < t + 2) ++ [s.ctx.sc] }
  { s with ctx := clockTick { s.ctx with sendWait := none, chans := s.ctx.chans.map fun y => if y.num = c then b' else y } s.who }

section Send

variable {s : State} {c : CR} {shapes : List Nat} {r : RegName} {elem : State → ChElem}

theorem sendOn_unbound (unbound : bindOf s.ctx c = none) : sendOn shapes c r elem s = channelFault c s := by
  rw [sendOn, unbound]

variable {b : ChanBind} {ch : Chan} (bound : bindOf s.ctx c = some b) (there : chanOf s b.chan = some ch)
include bound there

theorem sendOn_unfit (unfit : b.out = false ∨ b.shape ∉ shapes ∨ ch.closed = true) : sendOn shapes c r elem s = channelFault c s := by
  rw [sendOn, bound]
  dsimp only
  rw [there]
  refine if_pos ?_
  rcases unfit with inbound | shape | closed
  · simp [inbound]
  · simp [shape]
  · simp [closed]

variable (out : b.out = true) (fits : b.shape ∈ shapes) (opened : ch.closed = false) (hr : Ready [r] [] s)
include out fits opened hr

/-- A send on an open channel waits for room or credit, then for what its release waits for, and then is made. -/
theorem sendOn_ready : sendOn shapes c r elem s =
    if sendBlocked b ch then stallSend c s
    else if !releaseReady s s.who (endScope s.who ch.dst) then stall { s with ctx := { s.ctx with sendWait := none } }
    else .next (if chanRoute s ch then setChan (sentOn b c s) b.chan { ch with q := ch.q ++ [(elem s, s.ctx.clock)] }
      else closeChan b.chan true (sentOn b c s)) := by
  rw [sendOn, bound]
  dsimp only
  rw [there]
  dsimp only
  rw [if_neg (by simp [out, fits, opened]), guardRegs_ready hr]
  rfl

theorem sendOn_sends (room : ch.unclaimed ≠ b.depth) (credit : ch.credit = true) (rel : releaseReady s s.who (endScope s.who ch.dst) = true) :
    ∃ t, sendOn shapes c r elem s = .next t ∧ SameBytes s t ∧
      (chanRoute s ch = true → SameFiles s t ∧ t.ctx.lands = s.ctx.lands ∧ chanOf t b.chan = some { ch with q := ch.q ++ [(elem s, s.ctx.clock)] }) ∧
      (chanRoute s ch = false → ∃ ch', chanOf t b.chan = some ch' ∧ ch'.closed = true) := by
  refine ⟨_, (sendOn_ready bound there out fits opened hr).trans ((if_neg (by simp [sendBlocked, room, credit])).trans (if_neg (by simp [rel]))), ?_⟩
  cases route : chanRoute s ch with
  | true =>
    rw [if_pos rfl]
    exact ⟨fun _ => ⟨rfl, rfl, rfl⟩, fun _ => ⟨⟨rfl, rfl, rfl, rfl, rfl, rfl, rfl⟩, rfl, chanOf_setChan_self ..⟩, nofun⟩
  | false =>
    rw [if_neg Bool.false_ne_true]
    obtain ⟨closes, bytes⟩ := closeChan_closes (s := sentOn b c s) there true
    exact ⟨bytes, nofun, fun _ => ⟨_, closes, closed_of_closeChan ..⟩⟩

theorem sendOn_stalls (shut : ¬ (ch.unclaimed ≠ b.depth ∧ ch.credit = true ∧ releaseReady s s.who (endScope s.who ch.dst) = true)) :
    ∃ t, sendOn shapes c r elem s = .next t ∧ t.frame.out = .stalled ∧ t.chans = s.chans ∧ SameBytes s t ∧ SameFiles s t := by
  rw [sendOn_ready bound there out fits opened hr]
  by_cases blocked : sendBlocked b ch = true
  · rw [if_pos blocked]
    exact ⟨_, rfl, rfl, rfl, fun _ => ⟨rfl, rfl, rfl⟩, rfl, rfl, rfl, rfl, rfl, rfl, rfl⟩
  · have unreleased : releaseReady s s.who (endScope s.who ch.dst) = false := by
      by_contra rel
      simp only [sendBlocked, Bool.or_eq_true, beq_iff_eq, Bool.not_eq_true', not_or, Bool.not_eq_false] at blocked
      exact shut ⟨blocked.1, blocked.2, by simpa using rel⟩
    rw [if_neg blocked, unreleased]
    exact ⟨_, rfl, rfl, rfl, fun _ => ⟨rfl, rfl, rfl⟩, rfl, rfl, rfl, rfl, rfl, rfl, rfl⟩

end Send

/-! ## CHQ and CHCLOSE (R105, R287, R288) -/

section Closing

variable {s : State} {c : CR} {b : ChanBind} {ch : Chan} (bound : bindOf s.ctx c = some b) (there : chanOf s b.chan = some ch)

/-- CHQ counts no more than the channel holds unclaimed, and all of it once the latest sends have been made for two cycles (R105). -/
theorem chqCount_settled : chqCount s b ch ≤ ch.unclaimed ∧ ((b.out = true → ∀ t ∈ b.sent, t + 2 ≤ s.ctx.sc) → chqCount s b ch = ch.unclaimed) := by
  refine ⟨Nat.sub_le .., fun settled => ?_⟩
  have none : (if b.out then (b.sent.filter fun t => s.ctx.sc < t + 2).length else 0) = 0 := by
    split
    · rename_i out
      rw [List.length_eq_zero_iff, List.filter_eq_nil_iff]
      intro t m
      simpa using settled out t m
    · rfl
  rw [chqCount, none]
  simp [Nat.mod_one]

include bound there

theorem execChq_ready {x : SR} (hr : Ready [] [.s x] s) : execChq x c s =
    .next (land (.s x) (.word (BitVec.ofNat 64 ((if ch.closed then 2 ^ 63 else 0) + ch.dropped * 2 ^ 32 + chqCount s b ch % 128))) 2 s) := by
  rw [execChq, bound]
  dsimp only
  rw [there]
  dsimp only
  rw [guardRegs_ready hr]

/-- CHCLOSE closes the channel, which its context holds for closed from then on (R288). -/
theorem execChclose_closes : ∃ t, execChclose c s = .next t ∧ c ∈ t.ctx.closed ∧
    chanOf t b.chan = some (if ch.closed then ch else closedChan (!b.out) ch) := by
  generalize hu : { s with ctx := { s.ctx with closed := if s.ctx.closed.contains c then s.ctx.closed else s.ctx.closed ++ [c] } } = u
  have listed : c ∈ u.ctx.closed := by
    rw [← hu]
    dsimp only
    split
    · rename_i has; exact List.contains_iff_mem.1 has
    · exact List.mem_append_right _ List.mem_cons_self
  have chans : chanOf u b.chan = some ch := by rw [← hu]; exact there
  have runs : execChclose c s = .next (closeChan b.chan (!b.out) u) := by rw [execChclose, bound, ← hu]
  have held : (closeChan b.chan (!b.out) u).ctx.closed = u.ctx.closed :=
    congrArg (fun h => h.2.2.2.1) (closeChan_keepsHoldings b.chan (!b.out) u).keeps.ctx
  exact ⟨_, runs, held ▸ listed, (closeChan_closes chans _).1⟩

end Closing

/-- Settles O35: a send by `sendOn_sends` and `sendOn_stalls`, CHQ by `chqCount_settled`, CHCLOSE by what the channel holds then (`closedChan`). -/
theorem channelSendsAndState : Obligations.ChannelSendsAndState := by
  refine ⟨?sends, fun s x c b ch bound there => ⟨fun hr => ?chq, ?chclose⟩⟩
  case sends =>
    intro s v x c instrs e member user
    obtain ⟨elem, runs, value⟩ : ∃ elem : State → ChElem, exec e.1 s = sendOn e.2.2.1 c e.2.1 elem s ∧ elem s = e.2.2.2 := by
      rcases List.mem_pair.1 member with rfl | rfl
      · exact ⟨fun s => .vec (rdV s v), needFiles_user (user.resolve_right nofun) _, rfl⟩
      · exact ⟨fun s => .scalar (rdS s x), rfl, rfl⟩
    rw [runs]
    refine ⟨sendOn_unbound, fun b ch bound there => ⟨sendOn_unfit bound there, fun out fits opened hr => ⟨fun ⟨room, credit, rel⟩ => ?_, ?_⟩⟩⟩
    · rw [← value]
      exact sendOn_sends bound there out fits opened hr room credit rel
    · exact sendOn_stalls bound there out fits opened hr
  case chq => exact ⟨_, execChq_ready bound there hr, chqCount_settled⟩
  case chclose =>
    obtain ⟨t, runs, listed, closes⟩ := execChclose_closes bound there
    refine ⟨t, runs, listed, _, closes, closed_of_closeChan .., fun closed => if_pos closed, fun opened out => ?_, fun opened inbound => ?_⟩
    · rw [if_neg (by simp [opened]), out]
      exact closedChan_outbound ch
    · rw [if_neg (by simp [opened]), inbound]
      exact closedChan_inbound ch

end Sys2Proof.Machine

namespace Sys2Proof.Machine

/-! ## What the events of engine work and of claims leave alone (R250, R432, R433) -/

/-- A context beside the faults that wait in it. -/
def besidesLate (x : Ctx) : Ctx := { x with late := [] }

/-- From s to t the contexts keep all but their late faults, and channels, scratchpads and copy queues what they hold. -/
structure LeavesWork (s t : State) : Prop where
  contexts : KeepsOf besidesLate s t
  chans : t.chans = s.chans
  spm : t.spm = s.spm
  copies : ∀ g, (clusterOf t g).copies = (clusterOf s g).copies
  gathers : ∀ g, (clusterOf t g).gathers = (clusterOf s g).gathers

namespace LeavesWork

variable {s t u : State}

theorem refl (s : State) : LeavesWork s s := ⟨.refl s, rfl, rfl, fun _ => rfl, fun _ => rfl⟩

theorem trans (h : LeavesWork s t) (g : LeavesWork t u) : LeavesWork s u :=
  ⟨h.contexts.trans g.contexts, g.chans.trans h.chans, g.spm.trans h.spm, fun k => (g.copies k).trans (h.copies k),
    fun k => (g.gathers k).trans (h.gathers k)⟩

theorem ite {p : Prop} [Decidable p] (h : LeavesWork s t) (g : LeavesWork s u) : LeavesWork s (if p then t else u) := by
  split
  · exact h
  · exact g

theorem foldl {α : Type} {f : State → α → State} (h : ∀ s a, LeavesWork s (f s a)) (l : List α) (s : State) : LeavesWork s (l.foldl f s) := by
  induction l generalizing s with
  | nil => exact refl s
  | cons a l ih => exact (h s a).trans (ih _)

theorem of_keeps (h : KeepsContexts s t) (clusters : t.clusters = s.clusters) : LeavesWork s t :=
  ⟨.of_keeps h, h.chans, h.spm, fun g => by rw [clusterOf_congr clusters], fun g => by rw [clusterOf_congr clusters]⟩

theorem addLate (s : State) (c : CtxId) (f : LateFault) : LeavesWork s (addLate s c f) :=
  ⟨.modCtx s c fun _ => rfl, modCtx_chans .., modCtx_spm .., fun g => congrArg (·.copies) (clusterOf_congr (modCtx_clusters ..) g),
    fun g => congrArg (·.gathers) (clusterOf_congr (modCtx_clusters ..) g)⟩

theorem postRecord (s : State) (k : Nat) (r : Record) : LeavesWork s (postRecord s k r) := by
  refine ⟨.of_keeps (postRecord_keeps ..), rfl, rfl, fun g => ?_, fun g => ?_⟩ <;> by_cases same : g = k
  · rw [same, Machine.postRecord, clusterOf_modCluster_self]
  · rw [Machine.postRecord, clusterOf_modCluster_other _ _ same]
  · rw [same, Machine.postRecord, clusterOf_modCluster_self]
  · rw [Machine.postRecord, clusterOf_modCluster_other _ _ same]

theorem postCtx (s : State) (c : CtxId) (lo : Word) (kind : Nat) (a b : BitVec 8) : LeavesWork s (postCtx s c lo kind a b) :=
  trans (.ite (.of_keeps (modTask_keeps ..) rfl) (.refl s)) (.postRecord ..)

end LeavesWork

theorem crossing_leavesWork (n : Fin 16) (c : Option CtxId) (work : Option Word) (s : State) : LeavesWork s (crossing n c work s) := by
  unfold crossing
  dsimp only
  have base (bs : List Byte) : LeavesWork s (showTotal n (logRecord 1 bs s)) :=
    .of_keeps ((logRecord_keeps ..).trans (showTotal_keeps ..))
      (onlyCounts_congr (onlyCounts_trans (onlyCounts_logRecord ..) (onlyCounts_showTotal ..)) State.clusters)
  generalize recHeader _ _ _ _ _ ++ _ = bs
  refine (base bs).trans ?_
  generalize showTotal n (logRecord 1 bs s) = q
  have raised : LeavesWork q (raiseIrq q 2) := .of_keeps (modDev_keeps ..) rfl
  split
  · exact .refl q
  · exact raised
  · exact .of_keeps (hostSendAll_keeps ..) (onlyCounts_congr (onlyCounts_hostSendAll ..) State.clusters)
  · split
    · split
      · exact .postCtx ..
      · exact .refl q
      · exact .refl q
      · exact .refl q
      · exact .addLate ..
    · exact .addLate ..
  · exact raised

theorem countWork_leavesWork (c : CtxId) (bundle : Word) (ns : List Nat) (s : State) : LeavesWork s (countWork c bundle ns s) := by
  refine .foldl (fun s n => ?_) ns s
  have counted (d : Dev) : LeavesWork s (showTotal (Fin.ofNat 16 n) { s with dev := d }) :=
    .trans (t := { s with dev := d }) (.of_keeps ⟨rfl, rfl, rfl, rfl, rfl, rfl, rfl⟩ rfl)
      (.of_keeps (showTotal_keeps ..) (onlyCounts_congr (onlyCounts_showTotal ..) State.clusters))
  exact .ite (.refl s) (.ite (((counted _).trans (crossing_leavesWork ..)).trans (.of_keeps (modDev_keeps ..) rfl)) (counted _))

/-! ## Receiving (R284, R286, R289, R296) -/

/-- The result of an access has arrived, with what its context observes as it lands. -/
def arrivedIn (id : Nat) (k : List (Nat × Nat)) (s : State) : State :=
  { s with ctx := { s.ctx with lands := s.ctx.lands.map fun l => if l.id = id then { l with ready := true, clock := k } else l } }

/-- The state in which a receive into r has taken an element of its channel, of which w is what it makes. -/
def elementTaken (b : ChanBind) (ch : Chan) (r : RegName) (L : Nat) (e : ChElem × List (Nat × Nat)) (rest : List (ChElem × List (Nat × Nat)))
    (w : RegVal × List Nat) (s : State) : State :=
  let u := landWith r w.1 L false (fresh s) (bump s)
  let v := arrivedIn (fresh s) (elemClock u.who ch.src e.2) u
  countMine w.2 (acquireAt v.who (endScope v.who ch.src) (acquireUnnamed v.who r (elemClock v.who ch.src e.2) (setChan v b.chan { ch with q := rest })))

/-- The claim of a receive into r on channel c. -/
def madeClaim (c : CR) (r : RegName) (fn : RecvFn) (isInt : Bool) (v : Vec) (s : State) : Claim where
  ctx := s.who
  num := c
  id := fresh s
  reg := r
  fn := fn
  isInt := isInt
  v := v
  since := s.now
  bundle := s.frame.base

/-- The state in which a receive into r has claimed the next element of its channel. -/
def elementClaimed (b : ChanBind) (ch : Chan) (r : RegName) (L : Nat) (q : Claim) (s : State) : State :=
  setChan (landWith r (blankVal r) L false (fresh s) (bump s)) b.chan { ch with claims := ch.claims ++ [q] }

section Receive

variable {s : State} {c : CR} {b : ChanBind} {ch : Chan} {shapes : List Nat} {r : RegName} {rs : List RegName} {fn : RecvFn} {L : Nat} {v : State → Vec}
  (bound : bindOf s.ctx c = some b) (there : chanOf s b.chan = some ch) (inbound : b.out = false) (fits : b.shape ∈ shapes)
include bound there

/-- On a closed channel with nothing left a receive faults. -/
theorem receiveOn_nothing (closed : ch.closed = true) (empty : ch.unclaimed = 0) :
    receiveOn shapes c r rs fn L v s = trapAt 10 0x11 (BitVec.ofNat 64 c.val) s := by
  rw [receiveOn, bound]
  dsimp only
  rw [there]
  exact if_pos (by simp [closed, empty])

variable (hr : Ready rs [r] s)
include inbound fits hr

/-- The oldest element goes to a receive that no claim is ahead of. -/
theorem receiveOn_takes {e : ChElem × List (Nat × Nat)} {rest : List (ChElem × List (Nat × Nat))} (free : ch.claims = []) (queued : ch.q = e :: rest) :
    receiveOn shapes c r rs fn L v s = .next (elementTaken b ch r L e rest (received fn (b.shape == 1) (v s) e.1) s) := by
  have left : ch.unclaimed ≠ 0 := by simp [Chan.unclaimed, free, queued]
  have list : (if ch.claims.isEmpty then ch.q else []) = e :: rest := by rw [free, queued, List.isEmpty_nil, if_pos rfl]
  rw [receiveOn, bound]
  dsimp only
  rw [there]
  dsimp only
  rw [if_neg (by simp [inbound, fits, left]), guardRegs_ready hr, list]
  rfl

/-- Behind other claims, or with no element at hand, a receive claims the next element. -/
theorem receiveOn_claims (behind : ch.claims ≠ [] ∨ ch.q = []) (live : ch.closed = false ∨ ch.unclaimed ≠ 0) :
    receiveOn shapes c r rs fn L v s = .next (elementClaimed b ch r L (madeClaim c r fn (b.shape == 1) (v s) s) s) := by
  have none : (if ch.claims.isEmpty then ch.q else []) = [] := by
    rcases behind with claims | empty
    · rw [if_neg (by simpa using claims)]
    · rw [empty, ite_self]
  rw [receiveOn, bound]
  dsimp only
  rw [there]
  dsimp only
  rw [if_neg (by rcases live with h | h <;> simp [inbound, fits, h]), guardRegs_ready hr, none]
  rfl

end Receive

section Taken

variable (b : ChanBind) (ch : Chan) (r : RegName) (L : Nat) (e : ChElem × List (Nat × Nat)) (rest : List (ChElem × List (Nat × Nat)))
  (w : RegVal × List Nat) (s : State)

theorem acquireUnnamed_own (k : List (Nat × Nat)) (s : State) :
    acquireUnnamed s.who r k s = { s with ctx := { s.ctx with clock := if r.wired then clockJoin s.ctx.clock k else s.ctx.clock } } := by
  unfold acquireUnnamed
  split
  · exact modCtx_own ..
  · rfl

/-- What a receive that takes an element leaves of its context and of its channel. -/
theorem elementTaken_leaves :
    let t := elementTaken b ch r L e rest w s
    let k := elemClock s.who ch.src e.2
    t.who = s.who ∧ t.ctx.lands = (arrivedIn (fresh s) k (landWith r w.1 L false (fresh s) (bump s))).ctx.lands ∧
      t.ctx.clock = (if r.wired then clockJoin s.ctx.clock k else s.ctx.clock) ∧ chanOf t b.chan = some { ch with q := rest } := by
  have who : (landWith r w.1 L false (fresh s) (bump s)).who = s.who := landWith_who ..
  unfold elementTaken
  dsimp only
  rw [who]
  generalize hv : arrivedIn (fresh s) (elemClock s.who ch.src e.2) (landWith r w.1 L false (fresh s) (bump s)) = v
  have whoV : v.who = s.who := by rw [← hv]; exact who
  have clock : v.ctx.clock = s.ctx.clock := by rw [← hv]; exact landWith_ctx_clock ..
  rw [show acquireUnnamed v.who r (elemClock v.who ch.src e.2) (setChan v b.chan { ch with q := rest }) = _ from acquireUnnamed_own r _ (setChan v _ _)]
  generalize hu : ({ setChan v b.chan { ch with q := rest } with ctx := _ } : State) = u
  have keeps := acquireAt_keeps v.who (endScope v.who ch.src) u
  refine ⟨?_, ?_, ?_, ?_⟩
  · rw [countMine_who, keeps.who, ← hu]
    exact whoV
  · rw [countMine_ctx_lands, keeps.ctx, ← hu]
    rfl
  · rw [countMine_ctx_clock, keeps.ctx, ← hu]
    dsimp only
    rw [whoV, show (setChan v b.chan { ch with q := rest }).ctx.clock = s.ctx.clock from clock]
  · rw [chanOf_congr ((countMine_chans ..).trans keeps.chans), ← hu]
    exact chanOf_setChan_self ..

/-- The element lands in r within its bound; its own landing is ready, with what the sender has published. -/
theorem arrivedIn_landed (k : List (Nat × Nat)) (val : RegVal) {t : State}
    (lands : t.ctx.lands = (arrivedIn (fresh s) k (landWith r val L false (fresh s) (bump s))).ctx.lands) :
    Landed s t r val L ∧ (r.wired = false → ∃ l ∈ t.ctx.lands, l.reg = r ∧ l.id = fresh s ∧ l.ready = true ∧ l.clock = k) := by
  have arrives {l : Landing} (m : l ∈ (landWith r val L false (fresh s) (bump s)).ctx.lands) :
      (if l.id = fresh s then { l with ready := true, clock := k } else l) ∈ t.ctx.lands := by
    rw [lands]
    exact List.mem_map_of_mem m
  refine ⟨(landWith_landed r val L false (fresh s) (bump s)).imp_right ?_, fun named => ?_⟩
  · rintro ⟨l, m, reg, v, issued, bound⟩
    refine ⟨_, arrives m, ?_⟩
    split
    · exact ⟨reg, v, issued, bound⟩
    · exact ⟨reg, v, issued, bound⟩
  · obtain ⟨l, m, reg, -, -, id, -⟩ := landWith_new named val L false (fresh s) (bump s)
    refine ⟨_, arrives m, ?_⟩
    rw [if_pos id]
    exact ⟨reg, id, rfl, rfl⟩

/-- A claim interlocks its destination, and moves no byte. -/
theorem elementClaimed_leaves (q : Claim) :
    let t := elementClaimed b ch r L q s
    chanOf t b.chan = some { ch with claims := ch.claims ++ [q] } ∧ SameBytes s t ∧
      (r.wired = false → ∃ l ∈ t.ctx.lands, l.reg = r ∧ l.id = fresh s ∧ l.ready = false) := by
  refine ⟨chanOf_setChan_self .., fun a => ⟨?_, ?_, ?_⟩, fun named => ?_⟩
  · exact congrArg (·.read a) (landWith_mem ..)
  · exact congrArg (·.read a) (landWith_spm ..)
  · exact congrArg (·.read a) (landWith_rom ..)
  · obtain ⟨l, m, reg, -, ready, id, -⟩ := landWith_new named (blankVal r) L false (fresh s) (bump s)
    exact ⟨l, m, reg, id, ready⟩

end Taken

/-! ### What a receive makes of an element (R284) -/

theorem exec_recv {s : State} (user : s.who.isSys = false) (v : VR) (c : CR) :
    exec (.recv v c) s = receiveOn [0, 1] c (.v v) [] .move 3 (fun _ => zeroVec) s := needFiles_user user _

theorem exec_recvadd {s : State} (user : s.who.isSys = false) (v : VR) (c : CR) :
    exec (.recvadd v c) s = receiveOn [0] c (.v v) [.v v] .add 6 (fun s => rdV s v) s := needFiles_user user _

theorem exec_recvmax {s : State} (user : s.who.isSys = false) (v : VR) (c : CR) :
    exec (.recvmax v c) s = receiveOn [0, 1] c (.v v) [.v v] .max 4 (fun s => rdV s v) s := needFiles_user user _

theorem exec_recvs (s : State) (x : SR) (c : CR) : exec (.recvs x c) s = receiveOn [2] c (.s x) [] .move 3 (fun _ => zeroVec) s := rfl

theorem received_add (isInt : Bool) (v y : Vec) :
    (received .add isInt v (.vec y)).1 = .vec (Vector.ofFn fun i => BitVec.ofNat 32 (fop2 .f32 numAdd v[i].toNat y[i].toNat).1) := by
  simp only [received, RegVal.vec.injEq]
  ext i hi
  simp

theorem received_max (shape : Nat) (v y : Vec) :
    (received .max (shape == 1) v (.vec y)).1 = .vec (Vector.ofFn fun i => BitVec.ofNat 32 (if shape = 1 then
      (if (BitVec.ofNat 32 v[i].toNat).toInt < (BitVec.ofNat 32 y[i].toNat).toInt then y[i].toNat else v[i].toNat)
      else fminmax .f32 true v[i].toNat y[i].toNat)) := by
  simp only [received, largerOf, intOf_signed _ (Nat.succ_pos 31), BitVec.ofNat_toNat, BitVec.setWidth_eq, beq_iff_eq]

/-! ## The channel's own steps (R32, R286, R291) -/

/-- An element that has reached its end fills the oldest claim. -/
theorem claimFill_fills {s : State} {b : ChanBind} {ch : Chan} {q : Claim} {e : ChElem × List (Nat × Nat)} {rest : List (ChElem × List (Nat × Nat))}
    {more : List Claim} (bound : bindOf (getCtx s s.input.ctx) s.input.ch = some b) (there : chanOf s b.chan = some ch) (good : s.input.good = true)
    (near : s.input.elem = none) (queued : ch.q = e :: rest) (claimed : ch.claims = q :: more) (here : b.out = true → ch.dst ≠ none) :
    exec .claimFill s = .next (fillClaim q e ch.src (setChan s b.chan { ch with q := rest, claims := more })) := by
  show execClaimFill s = _
  unfold execClaimFill
  dsimp only
  rw [bound]
  dsimp only
  rw [there]
  dsimp only
  rw [if_neg (by simp [good]), if_neg (by simpa using here), near]
  dsimp only
  rw [queued, claimed]

/-- A claim that is filled brings its element's value to its landing, and moves no channel. -/
theorem fillClaim_fills (q : Claim) (e : ChElem × List (Nat × Nat)) (src : Option CtxId) (s : State) :
    (fillClaim q e src s).chans = s.chans ∧
      ∀ l ∈ (getCtx (fillClaim q e src s) q.ctx).lands, l.id = q.id → l.ready = false → l.val = (received q.fn q.isInt q.v e.1).1 := by
  unfold fillClaim
  dsimp only
  generalize hu : modCtx s q.ctx _ = u
  have chans : u.chans = s.chans := by rw [← hu, modCtx_chans]
  have unnamed : KeepsOf (fun x => x.lands) u (acquireUnnamed q.ctx q.reg (elemClock q.ctx src e.2) u) ∧
      (acquireUnnamed q.ctx q.reg (elemClock q.ctx src e.2) u).chans = u.chans := by
    unfold acquireUnnamed
    split
    · exact ⟨.modCtx u _ fun _ => rfl, modCtx_chans ..⟩
    · exact ⟨.refl u, rfl⟩
  obtain ⟨lands, same⟩ := unnamed
  have acquired := acquireAt_keeps q.ctx (endScope q.ctx src) (acquireUnnamed q.ctx q.reg (elemClock q.ctx src e.2) u)
  have counted := countWork_leavesWork q.ctx q.bundle (received q.fn q.isInt q.v e.1).2
    (acquireAt q.ctx (endScope q.ctx src) (acquireUnnamed q.ctx q.reg (elemClock q.ctx src e.2) u))
  have landings : KeepsOf (fun x => x.lands) _ _ := counted.contexts.comp fun x => x.lands
  refine ⟨((counted.chans.trans acquired.chans).trans same).trans chans, fun l m named waits => ?_⟩
  rw [landings.held, acquired.getCtx, lands.held, ← hu, getCtx_modCtx_self] at m
  obtain ⟨x, -, rfl⟩ := List.mem_map.1 m
  by_cases fills : x.id = q.id ∧ ¬ x.ready = true
  · rw [if_pos fills]
  · rw [if_neg fills] at named waits
    exact absurd ⟨named, by simp [waits]⟩ fills

/-- Waiting moves the time alone. The time stays a variable here: the kernel must not compute with units of real time. -/
theorem elapseTo_eq (t us : Nat) (s : State) : ∃ n, elapseTo t us s = { s with now := n } := ⟨_, rfl⟩

theorem elapseTo_chans (t us : Nat) (s : State) : (elapseTo t us s).chans = s.chans := by
  obtain ⟨n, waited⟩ := elapseTo_eq t us s
  rw [waited]

theorem getCtx_elapseTo (t us : Nat) (s : State) (c : CtxId) : getCtx (elapseTo t us s) c = getCtx s c := by
  obtain ⟨n, waited⟩ := elapseTo_eq t us s
  rw [waited]
  rfl

theorem getCtx_setChan (s : State) (n : Nat) (ch : Chan) (c : CtxId) : getCtx (setChan s n ch) c = getCtx s c := getCtx_congr rfl rfl rfl c

/-- Real time reaches the end of a wait at the rate in force (R32, R482). -/
theorem elapseTo_reaches (t us : Nat) (s : State) :
    realAt s t + us * usUnits ≤ realAt s s.now + ((elapseTo t us s).now - s.now) * cycleUnits s.dev.clk := by
  have pos : 0 < cycleUnits s.dev.clk := Nat.lt_of_lt_of_le Nat.one_pos (Nat.le_max_left ..)
  have ceil := Nat.lt_div_mul_add (a := realAt s t + us * usUnits - realAt s s.now + cycleUnits s.dev.clk - 1) pos
  have later : (elapseTo t us s).now - s.now =
      (realAt s t + us * usUnits - realAt s s.now + cycleUnits s.dev.clk - 1) / cycleUnits s.dev.clk := Nat.add_sub_cancel_left ..
  rw [later]
  omega

/-- A claim that fails while its context has not retired leaves it the fault, and its destination is interlocked no longer (R286). -/
theorem failClaim_context {s : State} {q : Claim} (live : (getCtx s q.ctx).run ≠ .retired) (code : BitVec 8) :
    let x := getCtx (failClaim code q s) q.ctx
    x.late = (getCtx s q.ctx).late ++ [⟨if code = 0x12 then .collective else .claim, code, BitVec.ofNat 64 q.num.val, 0, none⟩] ∧
      ∀ l ∈ x.lands, l.id = q.id → l.ready = true := by
  have run : (getCtx (spoilLanding q.ctx q.id s) q.ctx).run = (getCtx s q.ctx).run := by rw [spoilLanding, getCtx_modCtx_self]
  unfold failClaim
  dsimp only
  rw [if_neg (by rwa [run]), addLate, getCtx_modCtx_self, spoilLanding, getCtx_modCtx_self]
  refine ⟨rfl, fun l m named => ?_⟩
  obtain ⟨x, -, rfl⟩ := List.mem_map.1 m
  by_cases fails : x.id = q.id ∧ ¬ x.ready = true
  · rw [if_pos fails]
  · rw [if_neg fails] at named ⊢
    by_contra waits
    exact fails ⟨named, waits⟩

section Limits

variable {s : State} {code : BitVec 8} {b : ChanBind}

theorem limitReached_claim {q : Claim} {ch : Chan} (oldest : oldestWait s s.input.ctx code = some (b, some q)) (there : chanOf s b.chan = some ch) :
    limitReached code s = failClaim code q (setChan (elapseTo q.since (waitLimit s b).1 s) b.chan
      { ch with claims := ch.claims.filter fun y => y.id ≠ q.id }) := by
  unfold limitReached
  dsimp only
  rw [oldest]
  dsimp only
  rw [chanOf_congr (elapseTo_chans ..), there]

/-- A send that has stalled for too long traps at its bundle (R285). -/
theorem limitReached_send (user : s.input.ctx.isSys = false) (oldest : oldestWait s s.input.ctx code = some (b, none)) :
    let x := getCtx (limitReached code s) s.input.ctx
    x.run = .stopped ∧ x.cause = causeWord code false false false false (some 6) ∧ x.epc = (getCtx s s.input.ctx).pc ∧
      x.tval = BitVec.ofNat 64 b.num.val := by
  unfold limitReached
  dsimp only
  rw [oldest]
  dsimp only
  rw [takeTrap_stops user]
  exact ⟨rfl, rfl, rfl, rfl⟩

end Limits

/-- Settles O36: (a) a receive by the element that it takes (`elementTaken_leaves`, `arrivedIn_landed`) or the claim that it makes
(`elementClaimed_leaves`), (b) the steps by `fillClaim_fills`, `failClaim_context` and `limitReached_send`. -/
theorem channelReceivesAndSteps : Obligations.ChannelReceivesAndSteps := by
  refine ⟨?receives, fun s b ch q => ⟨?fill, ?watchdogs, ?sends⟩⟩
  case receives =>
    intro s v x c b ch user bound there inbound takes vec isVec lane
    have receives {i : Instr} {shapes : List Nat} {r : RegName} {rs : List RegName} {fn : RecvFn} {L : Nat} {f : State → Vec} {val : ChElem → RegVal}
        {fits : ChElem → Prop} (runs : exec i s = receiveOn shapes c r rs fn L f s)
        (value : ∀ e, fits e → (received fn (b.shape == 1) (f s) e).1 = val e) : takes i shapes r rs L val fits := by
      intro shape
      rw [runs]
      refine ⟨receiveOn_nothing bound there, fun hr => ⟨fun e rest free queued fit => ?_, fun behind live => ?_⟩⟩
      · obtain ⟨who, lands, clock, chans⟩ := elementTaken_leaves b ch r L e rest (received fn (b.shape == 1) (f s) e.1) s
        obtain ⟨landed, own⟩ := arrivedIn_landed r L s _ _ lands
        rw [value e.1 fit] at landed
        refine ⟨_, receiveOn_takes bound there inbound shape hr free queued, landed, fun named => ⟨?_, own named⟩, fun wired => ?_, chans⟩
        · rw [getCtx_of_who who, clock, named]
          rfl
        · rw [getCtx_of_who who, clock, wired]
          rfl
      · obtain ⟨chans, bytes, locked⟩ := elementClaimed_leaves b ch r L s (madeClaim c r fn (b.shape == 1) (f s) s)
        exact ⟨_, madeClaim c r fn (b.shape == 1) (f s) s, receiveOn_claims bound there inbound shape hr behind live, chans, rfl, rfl, rfl, bytes, locked⟩
    clear_value takes
    refine ⟨receives (exec_recv user v c) ?_, receives (exec_recvadd user v c) ?_, receives (exec_recvmax user v c) ?_,
      receives (exec_recvs s x c) ?_⟩
    · rintro _ ⟨y, rfl⟩
      rfl
    · rintro _ ⟨y, rfl⟩
      exact received_add ..
    · rintro _ ⟨y, rfl⟩
      exact received_max ..
    · rintro _ ⟨y, rfl⟩
      rfl
  case fill =>
    intro e rest more bound there good near queued claimed here
    obtain ⟨chans, fills⟩ := fillClaim_fills q e ch.src (setChan s b.chan { ch with q := rest, claims := more })
    exact ⟨_, claimFill_fills bound there good near queued claimed here, (chanOf_congr chans _).trans (chanOf_setChan_self ..), fills⟩
  case watchdogs =>
    intro e member oldest there live
    obtain ⟨runs, kind⟩ : exec e.1 s = .next (limitReached e.2.1 s) ∧ (if e.2.1 = 0x12 then LateKind.collective else .claim) = e.2.2 := by
      rcases List.mem_pair.1 member with rfl | rfl <;> exact ⟨rfl, rfl⟩
    obtain ⟨chans, -, now⟩ := failClaim_leaves e.2.1 q (setChan (elapseTo q.since (waitLimit s b).1 s) b.chan
      { ch with claims := ch.claims.filter fun y => y.id ≠ q.id })
    have context : getCtx (setChan (elapseTo q.since (waitLimit s b).1 s) b.chan
        { ch with claims := ch.claims.filter fun y => y.id ≠ q.id }) q.ctx = getCtx s q.ctx :=
      (getCtx_setChan ..).trans (getCtx_elapseTo ..)
    rw [← context] at live
    obtain ⟨late, ready⟩ := failClaim_context live e.2.1
    refine ⟨_, runs.trans (congrArg _ (limitReached_claim oldest there)), ?_, (chanOf_congr chans _).trans (chanOf_setChan_self ..), ?_, ready⟩
    · rw [now]
      exact elapseTo_reaches ..
    · rw [late, kind, context]
  case sends =>
    intro e member user oldest
    obtain ⟨runs, code⟩ : exec e.1 s = .next (limitReached e.2 s) ∧ (causeWord e.2 false false false false (some 6)).truncate 8 = e.2 := by
      rcases List.mem_pair.1 member with rfl | rfl <;> exact ⟨rfl, by decide⟩
    obtain ⟨run, cause, epc, tval⟩ := limitReached_send user oldest
    exact ⟨_, runs, run, cause ▸ code, epc, tval⟩

end Sys2Proof.Machine

namespace Sys2Proof.Machine

/-! ## A copy inside the scratchpads (R267, R275, R279) -/

/-- The bytes that follow a place inside its core follow it in the address space too. -/
theorem localPlace_add {own a n i : Nat} {p : Nat × Nat} (at_ : localPlace own a = some p) (fits : p.2 + n ≤ coreBytes) (h : i < n) :
    localPlace own (a + i) = some (p.1, p.2 + i) := by
  unfold localPlace at at_
  unfold coreBytes at *
  split at at_
  case isTrue low =>
    obtain rfl := Option.some.inj at_
    exact localPlace_own (by dsimp only at fits; omega)
  case isFalse high =>
    split at at_
    case isTrue cluster =>
      obtain rfl := Option.some.inj at_
      dsimp only at fits ⊢
      exact localPlace_cluster (c := (a - 0x02000000) / 8388608) (by omega) (by omega) (by omega)
    case isFalse => contradiction

/-- A piece of ranges that stand at multiples of four is a multiple of four, and none is empty. -/
theorem pieceLen_words {d x left : Nat} (hd : d % 4 = 0) (hx : x % 4 = 0) (hl : left % 4 = 0) (some_ : 0 < left) :
    4 ≤ pieceLen d x left ∧ pieceLen d x left % 4 = 0 ∧ pieceLen d x left ≤ left := by
  unfold pieceLen
  omega

/-- What no write meets and the ranges do not share moves as it has been read. -/
theorem disturb_calm {o : CopyOp} {i : Nat} {bs : List (Byte × Bool)} {s : State} (calm : ∀ j < bs.length, disturbed s o (i + j) = false) :
    disturb o i bs s = bs := by
  unfold disturb
  refine List.ext_getElem (by simp) fun j hj hb => ?_
  simp [calm j hb]

/-- The copy o moves n bytes between two places of the scratchpads, aligned and apart. -/
structure LocalCopy (o : CopyOp) (d q : Nat × Nat) : Prop where
  dsp : o.dsp = 0
  ssp : o.ssp = 0
  spoilt : o.spoilt = []
  aligned : o.dst % 4 = 0 ∧ o.src % 4 = 0 ∧ o.n % 4 = 0
  dst : localPlace o.ctx.coreNo o.dst = some d
  src : localPlace o.ctx.coreNo o.src = some q
  dstFits : d.2 + o.n ≤ coreBytes
  srcFits : q.2 + o.n ≤ coreBytes
  apart : spmKey d + o.n ≤ spmKey q ∨ spmKey q + o.n ≤ spmKey d

/-- The first i bytes of a local copy stand at its destination; every other byte of the scratchpads is as in s. -/
structure CopiedTo (o : CopyOp) (d q : Nat × Nat) (i : Nat) (s u : State) : Prop where
  mem : u.mem = s.mem
  ctx : u.ctx = s.ctx
  waits : (coreOf u o.ctx.coreNo).waits = []
  wf : u.spm.wf = true
  bytes : ∀ k, u.spm.read k = if spmKey d ≤ k ∧ k < spmKey d + i then s.spm.read (spmKey q + (k - spmKey d)) else s.spm.read k

namespace LocalCopy

variable {o : CopyOp} {d q : Nat × Nat} (h : LocalCopy o d q)
include h

theorem dstAt {i : Nat} (hi : i < o.n) : localPlace o.ctx.coreNo (o.dst + i) = some (d.1, d.2 + i) := localPlace_add h.dst h.dstFits hi

theorem srcAt {i : Nat} (hi : i < o.n) : localPlace o.ctx.coreNo (o.src + i) = some (q.1, q.2 + i) := localPlace_add h.src h.srcFits hi

/-- Neither range holds a byte of the other. -/
theorem undisturbed (s : State) {i : Nat} (hi : i < o.n) : disturbed s o i = false := by
  have keys : spmKey (d.1, d.2 + i) = spmKey d + i ∧ spmKey (q.1, q.2 + i) = spmKey q + i := ⟨(Nat.add_assoc ..).symm, (Nat.add_assoc ..).symm⟩
  have dstLoc : locOf s o 0 (o.dst + i) = .local (spmKey d + i) := by simp only [locOf, h.dstAt hi, keys]
  have srcLoc : locOf s o 0 (o.src + i) = .local (spmKey q + i) := by simp only [locOf, h.srcAt hi, keys]
  have dstBase : locOf s o 0 o.dst = .local (spmKey d) := by simp only [locOf, h.dst]
  have srcBase : locOf s o 0 o.src = .local (spmKey q) := by simp only [locOf, h.src]
  have away {a b : Nat} (out : a < b ∨ b + o.n ≤ a) : inRange a b o.n = false := by
    simp only [inRange, Bool.and_eq_false_iff, decide_eq_false_iff_not]
    omega
  have apart := h.apart
  simp only [disturbed, h.dsp, h.ssp, h.spoilt, holdsByte, dstLoc, srcLoc, dstBase, srcBase, away (show spmKey d + i < spmKey q ∨ _ by omega),
    away (show spmKey q + i < spmKey d ∨ _ by omega), Bool.and_false, Bool.or_false, List.any_nil]

variable {s u : State} {i : Nat} (done : CopiedTo o d q i s u)
include done

/-- A piece moves: what it reads, and what its write leaves. -/
theorem piece_moves {k : Nat} (hk : 0 < k) (fits : i + k ≤ o.n) :
    let bs := (List.range k).map fun j => (u.spm.read (spmKey q + i + j), spmPoisoned u (spmKey q + i + j) 1)
    readSpace o o.ssp (o.src + i) k u = .ok u bs ∧ ∃ v, writeSpace o o.dsp (o.dst + i) (disturb o i bs u) u = .ok v () ∧ CopiedTo o d q (i + k) s v := by
  intro bs
  have free (key n : Nat) : storeAwaited u o.ctx.coreNo o.id key n = false ∧ localAwaited u o.ctx.coreNo o.id key n = false := by
    simp [localAwaited, storeAwaited, done.waits]
  have dstKey : spmKey (d.1, d.2 + i) = spmKey d + i := (Nat.add_assoc ..).symm
  have srcKey : spmKey (q.1, q.2 + i) = spmKey q + i := (Nat.add_assoc ..).symm
  have len : bs.length = k := by simp [bs]
  have apart := h.apart
  refine ⟨?_, ?_⟩
  · rw [h.ssp]
    unfold readSpace
    rw [h.srcAt (by omega)]
    dsimp only
    rw [(free ..).1, srcKey]
    rfl
  · rw [disturb_calm fun j hj => h.undisturbed u (by omega), h.dsp]
    unfold writeSpace
    rw [h.dstAt (by omega)]
    dsimp only
    rw [(free ..).2, dstKey, if_neg Bool.false_ne_true]
    have met := meetLocal_onlyMeets (spmKey d + i) bs.length (some o.id)
      (forgetReleases 0 (localWord (spmKey d + i)) bs.length (putMarked (spmKey d + i) bs u))
    obtain ⟨bytes, ctx, -⟩ := met.leaves
    refine ⟨_, rfl, ?_, ctx.trans done.ctx, (met.waits _).trans done.waits, ?_, fun x => ?_⟩
    · rw [met.rest]
      exact done.mem
    · rw [met.rest]
      exact writeBytes_wf _ _ done.wf
    · have written : (forgetReleases 0 (localWord (spmKey d + i)) bs.length (putMarked (spmKey d + i) bs u)).spm =
          u.spm.writeBytes (spmKey d + i) (bs.map (·.1)) := rfl
      rw [(bytes x).2.1, written, read_writeBytes done.wf, List.length_map, len]
      by_cases new : spmKey d + i ≤ x ∧ x < spmKey d + i + k
      · have at_ : x - (spmKey d + i) < k := by omega
        rw [if_pos new, if_pos (by omega), List.getD_eq_getElem _ _ (by simpa [len] using at_)]
        simp only [bs, List.map_map, List.getElem_map, List.getElem_range, Function.comp_apply]
        rw [done.bytes, if_neg (by omega), show spmKey q + i + (x - (spmKey d + i)) = spmKey q + (x - spmKey d) by omega]
      · rw [if_neg new, done.bytes]
        by_cases old : spmKey d ≤ x ∧ x < spmKey d + i
        · rw [if_pos old, if_pos (by omega)]
        · rw [if_neg old, if_neg (by omega)]

end LocalCopy

/-- The pieces of a local copy move one after the other, to its end. -/
theorem runCopy_local {o : CopyOp} {d q : Nat × Nat} (h : LocalCopy o d q) {s : State} (fuel : Nat) {i : Nat} {u : State} (enough : o.n < i + 4 * fuel)
    (inside : i ≤ o.n) (words : i % 4 = 0) (done : CopiedTo o d q i s u) :
    ∃ v, runCopy o fuel i u = (o.n, .ok v ()) ∧ CopiedTo o d q o.n s v := by
  induction fuel generalizing i u with
  | zero => omega
  | succ fuel ih =>
    unfold runCopy
    dsimp only
    by_cases past : o.n ≤ i
    · obtain rfl : i = o.n := Nat.le_antisymm inside past
      exact ⟨u, if_pos past, done⟩
    · obtain ⟨dst, src, len⟩ := h.aligned
      obtain ⟨big, whole, fits⟩ := pieceLen_words (d := o.dst + i) (x := o.src + i) (left := o.n - i) (by omega) (by omega) (by omega) (by omega)
      generalize pieceLen (o.dst + i) (o.src + i) (o.n - i) = k at big whole fits ⊢
      obtain ⟨reads, v, writes, next⟩ := h.piece_moves done (k := k) (by omega) (by omega)
      rw [if_neg past, reads]
      dsimp only
      rw [writes]
      exact ih (by omega) (by omega) (by omega) next

/-- Every operation of a number is as the change leaves it. -/
theorem modCopy_numbered {g id : Nat} {f : CopyOp → CopyOp} {s : State} {e : CopyOp}
    (m : e ∈ (clusterOf (modCopy g id f s) g).copies ++ (clusterOf (modCopy g id f s) g).gathers) (named : e.id = id) :
    ∃ x ∈ (clusterOf s g).copies ++ (clusterOf s g).gathers, x.id = id ∧ e = f x := by
  rw [modCopy, clusterOf_modCluster_self, ← List.map_append] at m
  exact mem_map_numbered m named

theorem modCopy_copies {g id : Nat} {f : CopyOp → CopyOp} {s : State} {e : CopyOp} (m : e ∈ (clusterOf (modCopy g id f s) g).copies) (named : e.id = id) :
    ∃ x ∈ (clusterOf s g).copies, x.id = id ∧ e = f x := by
  rw [modCopy, clusterOf_modCluster_self] at m
  exact mem_map_numbered m named

/-- A copy that is no window's starts with its first byte and goes as far as it comes (R275). -/
theorem copyStart_cpy {s : State} {o : CopyOp} (found : findCopy s s.input.clu.val s.input.num = some o) (kind : o.kind = .cpy) (deps : o.deps = [])
    (flows : o.waitsVa = none) (on : o.moved = false) (sound : o.error = none) (elsewhere : o.dsp ≠ 1) :
    exec .copyStart s = .next (settleRun s.input.clu.val o (runCopy o (pieces o) o.progress s)) := by
  show execCopyStart s = _
  unfold execCopyStart
  dsimp only
  rw [found]
  dsimp only
  rw [if_neg (by simp [deps, flows, on]), if_neg (by simp [sound]), if_neg elsewhere]
  dsimp only
  rw [kind]

/-! ## An attempt of CPYX (R84, R276, R278) -/

/-- One event of class 12 with the error log off and without a threshold of its class moves the device's counters alone (R432). -/
theorem countWork_calm {s : State} (log : s.dev.errlog = 0) (calm : s.dev.thresh[12].toNat % 2 ^ 32 = 0) (c : CtxId) (bundle : Word) :
    ∃ d, countWork c bundle [12] s = { s with dev := d } ∧ d.tot[12] = s.dev.tot[12] + 1 := by
  have counts : ¬ uncounted (some c) 12 s = true := by simp [uncounted]
  rw [countWork, List.foldl_cons, List.foldl_nil, show Fin.ofNat 16 12 = 12 from rfl, countEvent, if_neg counts]
  dsimp only
  rw [showTotal_off (by exact log), if_neg fun crossed => crossed.1 calm]
  exact ⟨_, rfl, by simp⟩

section Attempt

variable {s u : State} {o : CopyOp} {bs : List (Byte × Bool)} (found : findCopy s s.input.clu.val s.input.num = some o) (kind : o.kind = .cpyx)
  (begun : o.started = true) (on : o.moved = false) (flows : o.waitsVa = none) (fresh : o.held = none) (reads : readAll o (pieces o) 0 s = .ok u bs)
include found kind begun on flows fresh reads

/-- A failed attempt is counted; the fifth ends the operation (R276). -/
theorem cpyxAttempt_fails (bad : s.input.good = false) :
    exec .cpyxAttempt s = .next (modCopy s.input.clu.val o.id
      (fun c => if 4 ≤ o.attempts then { c with attempts := 5, moved := true, error := some 0x17 } else { c with attempts := c.attempts + 1 })
      (countWork o.ctx o.bundle [12] u)) := by
  show execCpyxAttempt s = _
  unfold execCpyxAttempt
  dsimp only
  rw [found]
  dsimp only
  rw [if_neg (by simp [begun, on, flows, kind]), fresh]
  dsimp only
  rw [reads]
  dsimp only
  rw [if_neg (by simp [bad])]
  by_cases last : 4 ≤ o.attempts
  · simp only [if_pos last]
  · simp only [if_neg last]

/-- The words that have been read, as they arrived, are written, every one. -/
theorem cpyxAttempt_writes (good : s.input.good = true) (own : s.input.bytes = none) (agrees : tileAgrees u o (bs.map (·.1)) = true) {i : Nat}
    {v : State} (writes : writeAll o bs (pieces o) 0 u = (i, .ok v ())) :
    exec .cpyxAttempt s = .next (settleRun s.input.clu.val o (o.n, .ok (holdBack s.input.clu.val o u v) ())) := by
  show execCpyxAttempt s = _
  unfold execCpyxAttempt
  dsimp only
  rw [found]
  dsimp only
  rw [if_neg (by simp [begun, on, flows, kind]), fresh]
  dsimp only
  rw [reads]
  dsimp only
  rw [own, Option.getD_none, if_pos (by simp [good, agrees]), List.zip_map', List.map_id', writeHeld]
  dsimp only
  rw [writes]

end Attempt

/-! ## The end of a copy (R263, R264, R270) -/

theorem leaveTile_clusters (o : CopyOp) (s : State) : (leaveTile o s).clusters = s.clusters := by
  unfold leaveTile
  split
  · split
    · rfl
    · rfl
  · rfl

theorem clearTok_clusters (c : CtxId) (tok : Option KR) (id : Nat) (clock : List (Nat × Nat)) (s : State) :
    (clearTok c tok id clock s).clusters = s.clusters := by
  rcases clearTok_cases c tok id clock s with same | ⟨k, -, cleared⟩
  · rw [same]
  · rw [cleared, modCtx_clusters]
    rfl

theorem dropWaiters_clusters (w : Waiter) (s : State) : (dropWaiters w s).clusters = s.clusters :=
  List.foldlRecOn (List.finRange 8) _ (motive := fun t : State => t.clusters = s.clusters) rfl fun _ same _ _ => same

/-- The record that reports operation o without an error (R270). -/
def endRecord (o : CopyOp) : Record :=
  ⟨o.bundle, o.task, o.ctx.cluster, o.ctx.who, match o.kind with | .cpy => 0 | .cpyx => 1 | .gath _ _ => 2, 0, 0⟩

/-- A cluster without the operation of a number, and with the records that end it. -/
def withoutCopy (id : Nat) (rs : List Record) (u : Cluster) : Cluster :=
  { u with posting := u.posting ++ rs, copies := u.copies.filter fun c => c.id ≠ id, gathers := u.gathers.filter fun c => c.id ≠ id }

/-- An operation without an error is over: its record waits, it has left its queue, its token clears and its captors go on. -/
theorem finishCopy_sound {o : CopyOp} (sound : o.error = none) (g : Nat) (s : State) :
    ∃ v, clusterOf v g = withoutCopy o.id (if o.evrec then [endRecord o] else []) (clusterOf s g) ∧
      finishCopy g o none none s = endOp o.ctx o.id none o.clock (clearTok o.ctx o.tok o.id o.clock v) := by
  unfold finishCopy
  dsimp only
  rw [sound]
  dsimp only [Option.orElse]
  refine ⟨_, ?_, rfl⟩
  rw [clusterOf_congr ((dropWaiters_clusters ..).trans (dropWaiters_clusters ..)), clusterOf_modCluster_self]
  generalize posted : (if o.evrec = true then postRecord s g _ else s) = p
  have records : clusterOf p g = { clusterOf s g with posting := (clusterOf s g).posting ++ if o.evrec then [endRecord o] else [] } := by
    rw [← posted]
    split
    · exact clusterOf_modCluster_self ..
    · rw [List.append_nil]
  generalize (if o.dsp = 1 then winOf (leaveTile o p) o.task o.dst else none) = window
  cases window with
  | none =>
    dsimp only
    rw [clusterOf_congr (leaveTile_clusters ..), records]
    rfl
  | some w =>
    dsimp only
    rw [clusterOf_congr (modCtx_clusters ..), clusterOf_congr (leaveTile_clusters ..), records]
    rfl

/-- What an end changes of a cluster: operations that have waited for it, which keep their numbers. -/
theorem endOp_cluster (c : CtxId) (id : Nat) (err : Option (BitVec 8)) (clock : List (Nat × Nat)) (s : State) (g : Nat) :
    (clusterOf (endOp c id err clock s) g).posting = (clusterOf s g).posting ∧
      ∀ e ∈ (clusterOf (endOp c id err clock s) g).copies ++ (clusterOf (endOp c id err clock s) g).gathers,
        ∃ x ∈ (clusterOf s g).copies ++ (clusterOf s g).gathers, x.id = e.id := by
  have keeps (o : CopyOp) : (releasedCopy id err clock o).id = o.id := by
    unfold releasedCopy released
    split <;> rfl
  unfold endOp
  dsimp only
  by_cases same : g = c.cluster
  · subst same
    rw [clusterOf_modCluster_self]
    dsimp only
    rw [← List.map_append]
    refine ⟨rfl, fun e m => ?_⟩
    obtain ⟨x, mx, rfl⟩ := List.mem_map.1 m
    exact ⟨x, mx, (keeps x).symm⟩
  · rw [clusterOf_modCluster_other _ _ same]
    exact ⟨rfl, fun e m => ⟨e, m, rfl⟩⟩

/-- An operation without a barrier ends at its arrival. -/
theorem copyArrival_ends {s : State} {o : CopyOp} (found : findCopy s s.input.clu.val s.input.num = some o) (past : o.moved = true)
    (flows : o.waitsVa = none) (calm : o.spoilt = []) (sent : o.unsent = []) (alone : o.cb = none) :
    exec .copyArrival s = .next (finishCopy s.input.clu.val o none none s) := by
  show execCopyArrival s = _
  unfold execCopyArrival
  dsimp only
  rw [found]
  dsimp only
  rw [if_neg (by simp [past, flows]), if_neg (by simp [sent]), alone, spoilDest, calm]
  rfl

/-- Settles O34: (a) by `runCopy_local`, (b) by what an attempt does (`cpyxAttempt_fails`, `cpyxAttempt_writes`), by the end of an
operation (`finishCopy_sound`) and by the record that waits (`eventRecordPost_room`, `eventRecordPost_full`). -/
theorem copyWorkAndEnds : Obligations.CopyWorkAndEnds := by
  refine ⟨?moves, fun s u o bs => ⟨?attempt, ?ends, fun r rest oldest own => ⟨fun room => ?_, ?_⟩⟩⟩
  case moves =>
    intro s o d q found kind deps flows on sound start calm dsp ssp dst src len dstAt srcAt dstFits srcFits apart waits wf
    have copies : LocalCopy o d q := ⟨dsp, ssp, calm, ⟨dst, src, len⟩, dstAt, srcAt, dstFits, srcFits, apart⟩
    obtain ⟨v, runs, done⟩ := runCopy_local copies (s := s) (pieces o) (i := 0) (by unfold pieces; omega) (Nat.zero_le _) rfl
      ⟨rfl, rfl, waits, wf, fun k => (if_neg (by omega)).symm⟩
    refine ⟨_, copyStart_cpy found kind deps flows on sound (by simp [dsp]), ?_⟩
    rw [start, runs]
    refine ⟨done.mem, congrArg (·.v) done.ctx, fun i hi => ?_, fun k out => ?_, fun e m named => ?_⟩
    · refine (done.bytes _).trans ((if_pos (by omega)).trans ?_)
      rw [Nat.add_sub_cancel_left]
    · exact (done.bytes k).trans (if_neg (by omega))
    · obtain ⟨x, -, -, rfl⟩ := modCopy_numbered m named
      rfl
  case attempt =>
    intro found kind begun on flows fresh reads
    refine ⟨fun bad => ?_, fun i v good own agrees writes => cpyxAttempt_writes found kind begun on flows fresh reads good own agrees writes⟩
    have counted := countWork_leavesWork o.ctx o.bundle [12] u
    refine ⟨_, cpyxAttempt_fails found kind begun on flows fresh reads bad, counted.spm, fun log calm => ?_, fun e m named => ?_⟩
    · obtain ⟨dev, counts, tot⟩ := countWork_calm log calm o.ctx o.bundle
      rw [counts]
      exact ⟨rfl, tot⟩
    · obtain ⟨x, mx, -, rfl⟩ := modCopy_copies m named
      rw [counted.copies] at mx
      refine ⟨fun more => ⟨x, mx, ?_⟩, fun last => ?_⟩
      · rw [if_neg (Nat.not_le.2 more)]
        exact ⟨rfl, rfl⟩
      · rw [if_pos last]
        exact ⟨rfl, rfl⟩
  case ends =>
    intro found past flows sound calm sent alone
    obtain ⟨v, left, ends⟩ := finishCopy_sound sound s.input.clu.val s
    obtain ⟨posting, ops⟩ := endOp_cluster o.ctx o.id none o.clock (clearTok o.ctx o.tok o.id o.clock v) s.input.clu.val
    rw [clusterOf_congr (clearTok_clusters ..), left] at posting ops
    refine ⟨_, copyArrival_ends found past flows calm sent alone, ?_⟩
    rw [ends]
    refine ⟨fun e m => ?_, fun k tok => ?_, posting⟩
    · obtain ⟨x, mx, named⟩ := ops e m
      rw [withoutCopy, ← List.filter_append] at mx
      rw [← named]
      simpa using (List.mem_filter.1 mx).2
    · rw [endOp_getCtx]
      exact clearTok_clears _ _ _ _ _ tok
  · refine ⟨_, eventRecordPost_room oldest own (.inr room), fun _ => ⟨rfl, rfl, rfl⟩, rfl, ?_⟩
    rw [clusterOf_modCluster_self]
    exact ⟨rfl, rfl⟩
  · exact eventRecordPost_full oldest own

end Sys2Proof.Machine

namespace Sys2Proof.Machine

/-! ## The canonical form of the memories, kept by every operation

One lemma for each operation of the model that answers a state: from a state whose three memories are canonical it answers only such
states. Only the few operations that write a memory have a reason of their own (`write_wf`, `writeBytes_wf`, `filter_wf`); every other
is built from operations that keep the form, and its proof names these. -/

/-- The three memories of a state are in their canonical form. -/
structure Canonical (s : State) : Prop where
  mem : s.mem.wf = true
  spm : s.spm.wf = true
  rom : s.rom.wf = true

theorem canonical_iff {s : State} : Canonical s ↔ s.mem.wf = true ∧ s.spm.wf = true ∧ s.rom.wf = true :=
  ⟨fun h => ⟨h.1, h.2, h.3⟩, fun h => ⟨h.1, h.2.1, h.2.2⟩⟩

/-- Each state that a meaning goes on with is canonical. -/
def CanonicalRes (r : Res) : Prop :=
  match r with
  | .next t => Canonical t
  | _ => True

/-- The state that an access of global memory leaves is canonical, whatever became of the access. -/
def CanonicalPerf {α : Type} (r : Perf α) : Prop :=
  match r with
  | .ok s _ | .serviced s _ _ | .noSectors s _ | .failed s _ _ | .race s _ _ _ | .overflow s | .remote s _ => Canonical s

/-- The state that a piece of an engine operation leaves is canonical, and a task-level fault keeps the form. -/
def CanonicalMoved {α : Type} (r : Moved α) : Prop :=
  match r with
  | .ok s _ | .later s | .waits s _ _ | .fails s _ => Canonical s
  | .task s f _ => Canonical s ∧ ∀ t, Canonical t → Canonical (f t)

/-- The state that a waiting access leaves is canonical. -/
def CanonicalPumped (r : Pumped) : Prop :=
  match r with
  | .done s | .waits s _ | .held s _ => Canonical s

/-- The state that a barrier arrival leaves is canonical. -/
def CanonicalArrived (r : Arrived) : Prop :=
  match r with
  | .ok s _ | .waits s _ | .later s | .denied s _ => Canonical s

/-- The state that an operation of BIND leaves is canonical, and what it does after its result bytes keeps the form. -/
def CanonicalBound (r : Bound) : Prop :=
  match r with
  | .done s _ _ f => Canonical s ∧ ∀ t, Canonical t → Canonical (f t)
  | .waits s => Canonical s

/-- What is answered has P, or the state that is left is canonical. -/
def CanonicalExcept {α : Type} (P : α → Prop) (r : Except State α) : Prop :=
  match r with
  | .ok x => P x
  | .error t => Canonical t

theorem foldl_canonical {α : Type} {f : State → α → State} (hf : ∀ s x, Canonical s → Canonical (f s x)) (l : List α) {s : State}
    (h : Canonical s) : Canonical (l.foldl f s) := by
  induction l generalizing s with
  | nil => exact h
  | cons x l ih => exact ih (hf s x h)

/-- What is answered, if anything, has P. -/
def CanonicalOption {α : Type} (P : α → Prop) (r : Option α) : Prop :=
  match r with
  | some x => P x
  | none => True

theorem CanonicalExcept_map {α β : Type} {P : α → Prop} {Q : β → Prop} {f : α → β} {r : Except State α} (h : CanonicalExcept P r)
    (hf : ∀ x, P x → Q (f x)) : CanonicalExcept Q (r.map f) := by
  cases r with
  | error t => exact h
  | ok x => exact hf x h

theorem foldlM_canonical {α : Type} {f : State → α → Except State State} (hf : ∀ s x, Canonical s → CanonicalExcept Canonical (f s x)) (l : List α)
    {s : State} (hs : Canonical s) : CanonicalExcept Canonical (l.foldlM f s) := by
  induction l generalizing s with
  | nil => exact hs
  | cons x l ih =>
    have h := hf s x hs
    rw [List.foldlM_cons]
    cases e : f s x with
    | error t => rw [e] at h; exact h
    | ok t => rw [e] at h; exact ih h

theorem filterMap_canonical {α : Type} {f : α → Option Found} (hf : ∀ x, CanonicalOption (fun y => Canonical y.2.2) (f x)) (l : List α) :
    ∀ y ∈ l.filterMap f, Canonical y.2.2 := by
  intro y hy
  obtain ⟨x, -, e⟩ := List.mem_filterMap.1 hy
  have h := hf x
  rwa [e] at h

section Operations
variable {s : State}

/-! ## Machine/State -/

theorem reset_canonical : Canonical State.reset := ⟨rfl, rfl, rfl⟩

/-! ## Machine/Ops -/

theorem setCtx_canonical (c : CtxId) (x : Ctx) (hs : Canonical s) : Canonical (setCtx s c x) := by
  grind [setCtx, canonical_iff]

theorem modCtx_canonical (c : CtxId) (f : Ctx → Ctx) (hs : Canonical s) : Canonical (modCtx s c f) := by
  grind [modCtx, !setCtx_canonical]

theorem switchTo_canonical (c : CtxId) (hs : Canonical s) : Canonical (switchTo s c) := by
  grind [switchTo, canonical_iff]

theorem setCore_canonical (k : Nat) (x : Core) (hs : Canonical s) : Canonical (setCore s k x) := by
  grind [setCore, canonical_iff]

theorem modCore_canonical (k : Nat) (f : Core → Core) (hs : Canonical s) : Canonical (modCore s k f) := by
  grind [modCore, !setCore_canonical]

theorem setCluster_canonical (g : Nat) (x : Cluster) (hs : Canonical s) : Canonical (setCluster s g x) := by
  grind [setCluster, canonical_iff]

theorem modCluster_canonical (g : Nat) (f : Cluster → Cluster) (hs : Canonical s) : Canonical (modCluster s g f) := by
  grind [modCluster, !setCluster_canonical]

theorem setStack_canonical (n : Fin 8) (x : Stack) (hs : Canonical s) : Canonical (setStack s n x) := by
  grind [setStack, canonical_iff]

theorem modStack_canonical (n : Fin 8) (f : Stack → Stack) (hs : Canonical s) : Canonical (modStack s n f) := by
  grind [modStack, !setStack_canonical]

theorem modTask_canonical (id : Nat) (f : Task → Task) (hs : Canonical s) : Canonical (modTask s id f) := by
  grind [modTask, canonical_iff]

theorem modDev_canonical (f : Dev → Dev) (hs : Canonical s) : Canonical (modDev s f) := by
  grind [modDev, canonical_iff]

theorem bump_canonical (hs : Canonical s) : Canonical (bump s) := by
  grind [bump, canonical_iff]

theorem landWith_canonical (reg : RegName) (val : RegVal) (L : Nat) (ready : Bool) (id : Nat) (hs : Canonical s) :
    Canonical (landWith reg val L ready id s) := by
  grind [landWith, canonical_iff, !foldl_canonical]

theorem land_canonical (reg : RegName) (val : RegVal) (L : Nat) (hs : Canonical s) : Canonical (land reg val L s) := by
  grind [land, !landWith_canonical]

theorem observeWindows_canonical (f : Window → Bool) (hs : Canonical s) : Canonical (observeWindows f s) := by
  grind [observeWindows, canonical_iff]

theorem stall_canonical (hs : Canonical s) : CanonicalRes (stall s) := by
  grind [stall, CanonicalRes, canonical_iff]

theorem postRecord_canonical (g : Nat) (r : Record) (hs : Canonical s) : Canonical (postRecord s g r) := by
  grind [postRecord, !modCluster_canonical]

theorem postFault_canonical (r : Record) (hs : Canonical s) : Canonical (postFault s r) := by
  grind [postFault, !postRecord_canonical, !modTask_canonical]

theorem postCtx_canonical (c : CtxId) (lo : Word) (kind : Nat) (b14 b15 : BitVec 8) (hs : Canonical s) :
    Canonical (postCtx s c lo kind b14 b15) := by
  grind [postCtx, !modTask_canonical, !postRecord_canonical]

theorem panicFreeze_canonical (hs : Canonical s) : Canonical (panicFreeze s) := by
  grind [panicFreeze, canonical_iff, !modDev_canonical, !modCtx_canonical]

theorem enterHandler_canonical (c : CtxId) (epc cause tval : Word) (hs : Canonical s) : Canonical (enterHandler c epc cause tval s) := by
  grind [enterHandler, !setCtx_canonical, !modCtx_canonical, !panicFreeze_canonical]

theorem stopCompute_canonical (c : CtxId) (epc cause tval : Word) (hs : Canonical s) : Canonical (stopCompute c epc cause tval s) := by
  grind [stopCompute, !setCtx_canonical, !postCtx_canonical]

theorem takeTrap_canonical (c : CtxId) (epc cause tval : Word) (hs : Canonical s) : Canonical (takeTrap c epc cause tval s) := by
  grind [takeTrap, !enterHandler_canonical, !stopCompute_canonical]

theorem trapAt_canonical (rank : Nat) (code : BitVec 8) (tval : Word) (hs : Canonical s) : CanonicalRes (trapAt rank code tval s) := by
  grind [trapAt, CanonicalRes, canonical_iff, !takeTrap_canonical]

theorem reserved_canonical (hs : Canonical s) : CanonicalRes (reserved s) := by
  grind [reserved, CanonicalRes, !trapAt_canonical]

theorem privileged_canonical (hs : Canonical s) : CanonicalRes (privileged s) := by
  grind [privileged, CanonicalRes, !trapAt_canonical]

theorem illegalSeq_canonical (tval : Word) (hs : Canonical s) : CanonicalRes (illegalSeq tval s) := by
  grind [illegalSeq, CanonicalRes, !trapAt_canonical]

theorem protection_canonical (hs : Canonical s) : CanonicalRes (protection s) := by
  grind [protection, CanonicalRes, !trapAt_canonical]

theorem returnFromTrap_canonical (hs : Canonical s) : Canonical (returnFromTrap s) := by
  grind [returnFromTrap, canonical_iff]

theorem addLate_canonical (c : CtxId) (f : LateFault) (hs : Canonical s) : Canonical (addLate s c f) := by
  grind [addLate, !modCtx_canonical]

theorem guardBounds_canonical (rs ws : List RegName) (k : State → Res) (hs : Canonical s) (hk : ∀ t, Canonical t → CanonicalRes (k t)) :
    CanonicalRes (guardBounds rs ws s k) := by
  grind [guardBounds, CanonicalRes, !trapAt_canonical, !stall_canonical]

theorem guardRegs_canonical (rs ws : List RegName) (k : State → Res) (hs : Canonical s) (hk : ∀ t, Canonical t → CanonicalRes (k t)) :
    CanonicalRes (guardRegs rs ws s k) := by
  grind [guardRegs, CanonicalRes, !guardBounds_canonical, !trapAt_canonical]

/-! ## Machine/Flags -/

theorem poke_canonical (pa n x : Nat) (hs : Canonical s) : Canonical (poke s pa n x) := by
  grind [poke, canonical_iff, writeBytes_wf]

theorem committedStore_canonical (key : Nat) (bs : List Byte) (hs : Canonical s) : Canonical (committedStore key bs s) := by
  grind [committedStore, canonical_iff, writeBytes_wf]

theorem platWrite_canonical (off n x : Nat) (hs : Canonical s) : Canonical (platWrite s off n x) := by
  grind [platWrite, !poke_canonical]

theorem raiseIrq_canonical (i : Fin 5) (hs : Canonical s) : Canonical (raiseIrq s i) := by
  grind [raiseIrq, !modDev_canonical]

theorem elapseTo_canonical (t us : Nat) (hs : Canonical s) : Canonical (elapseTo t us s) := by
  grind [elapseTo, canonical_iff]

theorem setClock_canonical (clk : Nat) (hs : Canonical s) : Canonical (setClock clk s) := by
  grind [setClock, !modDev_canonical]

theorem logPad_canonical (n w : Nat) (hs : Canonical s) : Canonical (logPad n w s) := by
  induction n generalizing w s with
  | zero => exact hs
  | succ k ih =>
    grind [logPad, !committedStore_canonical]

theorem logBump_canonical (off : Nat) (hs : Canonical s) : Canonical (logBump s off) := by
  grind [logBump, !poke_canonical]

theorem logRecord_canonical (k : Nat) (bs : List Byte) (hs : Canonical s) : Canonical (logRecord k bs s) := by
  grind [logRecord, !logBump_canonical, !logPad_canonical, !committedStore_canonical, !poke_canonical]

theorem logEntryAt_canonical (ty k : Nat) (at_ : Site) (task : Nat) (body : List Byte) (hs : Canonical s) :
    Canonical (logEntryAt ty k at_ task body s) := by
  grind [logEntryAt, !logRecord_canonical]

theorem logEntry_canonical (ty k : Nat) (c : Option CtxId) (task : Nat) (body : List Byte) (hs : Canonical s) :
    Canonical (logEntry ty k c task body s) := by
  grind [logEntry, !logEntryAt_canonical]

theorem hostSend_canonical (h : Fin 4) (msg : List Byte) (hs : Canonical s) : Canonical (hostSend h msg s) := by
  grind [hostSend, !committedStore_canonical, !platWrite_canonical]

theorem hostSendAll_canonical (msg : List Byte) (hs : Canonical s) : Canonical (hostSendAll msg s) := by
  grind [hostSendAll, !hostSend_canonical, !foldl_canonical]

theorem showTotal_canonical (n : Fin 16) (hs : Canonical s) : Canonical (showTotal n s) := by
  grind [showTotal, !poke_canonical]

theorem showTotals_canonical (hs : Canonical s) : Canonical (showTotals s) := by
  grind [showTotals, !showTotal_canonical, !foldl_canonical]

theorem crossing_canonical (n : Fin 16) (c : Option CtxId) (work : Option Word) (hs : Canonical s) : Canonical (crossing n c work s) := by
  unfold crossing
  extract_lets th act task body rec' t
  have ht : Canonical t := showTotal_canonical _ (logRecord_canonical _ _ hs)
  clear_value t act rec'
  split <;> grind [!raiseIrq_canonical, !hostSendAll_canonical, !postCtx_canonical, !addLate_canonical]

theorem countEvent_canonical (c : Option CtxId) (work : Option Word) (n : Fin 16) (hs : Canonical s) : Canonical (countEvent c work n s) := by
  grind [countEvent, canonical_iff, !showTotal_canonical, !crossing_canonical, !modDev_canonical]

theorem countEvents_canonical (c : Option CtxId) (ns : List Nat) (hs : Canonical s) : Canonical (countEvents c ns s) := by
  grind [countEvents, !countEvent_canonical, !foldl_canonical]

theorem countWork_canonical (c : CtxId) (bundle : Word) (ns : List Nat) (hs : Canonical s) : Canonical (countWork c bundle ns s) := by
  grind [countWork, !countEvent_canonical, !foldl_canonical]

theorem countMine_canonical (ns : List Nat) (hs : Canonical s) : Canonical (countMine ns s) := by
  grind [countMine, !countEvents_canonical]

theorem poisonRecord_canonical (c : CtxId) (bundle : Word) (addr level cause : Nat) (hs : Canonical s) :
    Canonical (poisonRecord c bundle addr level cause s) := by
  grind [poisonRecord, !logEntry_canonical, !countWork_canonical]

/-! ## Machine/Sump -/

theorem setDir_canonical (n : Fin 8) (page : Nat) (e : DirEnt) (hs : Canonical s) : Canonical (setDir s n page e) := by
  grind [setDir, !modStack_canonical, !poke_canonical]

theorem allocate_canonical (n : Fin 8) (page k : Nat) (hs : Canonical s) : Canonical (allocate n page k s) := by
  induction k generalizing s with
  | zero => exact hs
  | succ k ih =>
    grind [allocate, !setDir_canonical]

theorem kickSump_canonical (n : Fin 8) (hs : Canonical s) : Canonical (kickSump s n) := by
  grind [kickSump, !modStack_canonical]

theorem dropWaiter_canonical (unit : Waiter) (n : Fin 8) (hs : Canonical s) : Canonical (dropWaiter unit s n) := by
  grind [dropWaiter, !modStack_canonical]

theorem dropWaiters_canonical (unit : Waiter) (hs : Canonical s) : Canonical (dropWaiters unit s) := by
  grind [dropWaiters, !dropWaiter_canonical, !foldl_canonical]

theorem renameWaiter_canonical (old new : Waiter) (hs : Canonical s) : Canonical (renameWaiter old new s) := by
  grind [renameWaiter, !modStack_canonical, !foldl_canonical]

theorem expandFor_canonical (unit : Waiter) (n : Fin 8) (page : Nat) {with' : State} (hs : Canonical s) (hs : Canonical with') :
    CanonicalExcept Canonical (expandFor unit n page s with') := by
  grind [expandFor, CanonicalExcept, !dropWaiter_canonical, !kickSump_canonical, !allocate_canonical, !modStack_canonical]

theorem recompute_canonical (n : Fin 8) (page : Nat) (hs : Canonical s) : Canonical (recompute s n page) := by
  grind [recompute, !setDir_canonical]

theorem recomputeKey_canonical (key : Nat) (hs : Canonical s) : Canonical (recomputeKey s key) := by
  grind [recomputeKey, !recompute_canonical]

theorem inflateOne_canonical (n : Fin 8) (hs : Canonical s) : Canonical (inflateOne s n) := by
  unfold inflateOne
  extract_lets u e t skip
  have ht : Canonical t := modStack_canonical _ _ hs
  have hk : Canonical skip := modStack_canonical _ _ ht
  clear_value t skip e
  split
  · split
    · exact setDir_canonical _ _ _ ht
    · exact hk
  · exact hk

theorem clearBytes_canonical (a n : Nat) (hs : Canonical s) : Canonical (clearBytes s a n) :=
  ⟨filter_wf _ hs.mem, hs.spm, hs.rom⟩

theorem deflate_canonical (n : Fin 8) (pa : Nat) (hs : Canonical s) : Canonical (deflate s n pa) := by
  grind [deflate, !setDir_canonical, !clearBytes_canonical]

theorem writeBounce_canonical (n : Fin 8) (e : Bounce) (hs : Canonical s) : Canonical (writeBounce n e s) := by
  grind [writeBounce, !committedStore_canonical]

theorem refreshBp_canonical (e : Bounce) (hs : Canonical s) : Canonical (refreshBp s e) := by
  grind [refreshBp, !setDir_canonical]

theorem mapBounce_canonical (n : Fin 8) (f : Bounce → Bounce) (hs : Canonical s) : Canonical (mapBounce n f s) := by
  grind [mapBounce, !writeBounce_canonical, !modStack_canonical, !refreshBp_canonical, !foldl_canonical]

theorem addBounce_canonical (n : Fin 8) (e : Bounce) (hs : Canonical s) : Canonical (addBounce n e s) := by
  grind [addBounce, !modStack_canonical, !writeBounce_canonical]

theorem sumpEnable_canonical (n : Fin 8) (hs : Canonical s) : Canonical (sumpEnable s n) := by
  grind [sumpEnable, !clearBytes_canonical, !modStack_canonical]

theorem sumpTail_canonical (n : Fin 8) (tail : Nat) (hs : Canonical s) : Canonical (sumpTail s n tail) := by
  grind [sumpTail, !modStack_canonical, !kickSump_canonical]

theorem sumpClearOos_canonical (n : Fin 8) (hs : Canonical s) : Canonical (sumpClearOos s n) := by
  grind [sumpClearOos, !modStack_canonical]

/-! ## Machine/Mem -/

theorem strikeBy_canonical (hit : Fin 8 → Bounce → Nat → Bool) (hs : Canonical s) : Canonical (strikeBy hit s) := by
  grind [strikeBy, !mapBounce_canonical, !foldl_canonical]

theorem strikeAt_canonical (key n : Nat) (hs : Canonical s) : Canonical (strikeAt key n s) := by
  grind [strikeAt, !strikeBy_canonical]

theorem translate_canonical (a : Acc) (k : Kind) (va : Nat) (hs : Canonical s) : Canonical (translate a k va s).1 := by
  grind [translate, write_wf, !modCluster_canonical, !poke_canonical, !strikeAt_canonical, !modStack_canonical]

theorem translate_eq_canonical {a : Acc} {k : Kind} {va : Nat} {t : State} {x : Xlat} (e : translate a k va s = (t, x)) (hs : Canonical s) :
    Canonical t := by
  have h := translate_canonical a k va hs
  rwa [e] at h

theorem strikeBounce_canonical (task : Nat) (asid : BitVec 16) (va key n : Nat) (hs : Canonical s) :
    Canonical (strikeBounce task asid va key n s) := by
  grind [strikeBounce, !strikeBy_canonical]

theorem l1gDropLine_canonical (g key : Nat) (hs : Canonical s) : Canonical (l1gDropLine s g key) := by
  grind [l1gDropLine, !modCluster_canonical]

theorem l1gDropAll_canonical (g : Nat) (hs : Canonical s) : Canonical (l1gDropAll s g) := by
  grind [l1gDropAll, !modCluster_canonical]

theorem l1gKeep_canonical (c : CtxId) (key : Nat) (hs : Canonical s) : Canonical (l1gKeep s c key) := by
  unfold l1gKeep
  split
  · exact hs
  · split <;> first | exact hs | (split <;> first | exact hs | exact modCluster_canonical _ _ hs)

theorem noteTouch_canonical (id : Nat) (x : Touch) (exempt committed : Bool) (hs : Canonical s) :
    Canonical (noteTouch id x exempt committed s) := by
  grind [noteTouch, !modTask_canonical]

theorem touch_canonical (a : Acc) (line : Nat) (write committed : Bool) (hs : Canonical s) : Canonical (touch s a line write committed) := by
  grind [touch, !noteTouch_canonical]

theorem report_canonical (c : CtxId) (code : BitVec 8) (va : Nat) (bundle : Word) (hs : Canonical s) : Canonical (report c code va bundle s) := by
  grind [report, !modCtx_canonical, !postCtx_canonical]

theorem postTask_canonical (g : Nat) (t : Task) (kind : Nat) (b14 : BitVec 8) (hs : Canonical s) : Canonical (postTask s g t kind b14) := by
  grind [postTask, !postRecord_canonical]

theorem dropVersion_canonical (id : Nat) (hs : Canonical s) : Canonical (dropVersion id s) := by
  grind [dropVersion, canonical_iff, !modTask_canonical, !mapBounce_canonical, !recomputeKey_canonical, !foldl_canonical]

theorem taskFault_canonical (id : Nat) (code : BitVec 8) (hs : Canonical s) : Canonical (taskFault id code s) := by
  grind [taskFault, !modCtx_canonical, !modTask_canonical, !dropVersion_canonical, !postTask_canonical, !foldl_canonical]

theorem raceRecord_canonical (a : Acc) (va u : Nat) (x : Touch) (hs : Canonical s) : Canonical (raceRecord a va u x s) := by
  grind [raceRecord, !logEntry_canonical]

theorem raceAt_canonical (a : Acc) (va u : Nat) (x : Touch) (hs : Canonical s) : Canonical (raceAt a va u x s) := by
  grind [raceAt, !taskFault_canonical, !raceRecord_canonical, !modCtx_canonical]

theorem auditRecord_canonical (t : Task) (verdict reason : Nat) (sig replay : Word) (mask : Option Nat) (hs : Canonical s) :
    Canonical (auditRecord t verdict reason sig replay mask s) :=
  logEntryAt_canonical _ _ _ _ _ hs

theorem abandonAudit_canonical (t : Task) (reason : Nat) (sig replay : Word) (mask : Option Nat) (hs : Canonical s) :
    Canonical (abandonAudit t reason sig replay mask s) := by
  grind [abandonAudit, !auditRecord_canonical, !logBump_canonical, !modTask_canonical]

theorem retain_canonical (id line : Nat) (content : State → List Byte) (hs : Canonical s) : Canonical (retain id line content s) := by
  grind [retain, !abandonAudit_canonical, !modTask_canonical]

theorem noteHostWrite_canonical (id : Nat) (hw : Bool) (hs : Canonical s) : Canonical (noteHostWrite id hw s) := by
  grind [noteHostWrite, !abandonAudit_canonical]

theorem readPage_canonical (a : Acc) (home exempt : Bool) (va n : Nat) (hs : Canonical s) : CanonicalPerf (readPage a home exempt va n s) := by
  grind [readPage, CanonicalPerf, !translate_canonical, !poisonRecord_canonical, !noteTouch_canonical, !retain_canonical, !l1gKeep_canonical]

theorem readLines_canonical (a : Acc) (home exempt : Bool) (fuel va n : Nat) (hs : Canonical s) :
    CanonicalPerf (readLines a home exempt fuel va n s) := by
  induction fuel generalizing va n s with
  | zero => exact hs
  | succ k ih =>
    grind [readLines, CanonicalPerf, !readPage_canonical]

theorem readMarked_canonical (a : Acc) (home exempt : Bool) (va n : Nat) (hs : Canonical s) :
    CanonicalPerf (readMarked a home exempt va n s) := by
  grind [readMarked, CanonicalPerf, !readLines_canonical]

theorem readGlobal_canonical (a : Acc) (home exempt : Bool) (va n : Nat) (hs : Canonical s) :
    CanonicalPerf (readGlobal a home exempt va n s) := by
  grind [readGlobal, CanonicalPerf, !readMarked_canonical]

theorem versionStore_canonical (a : Acc) (key va : Nat) (bs : List Byte) (hs : Canonical s) : Canonical (versionStore a key va bs s) := by
  grind [versionStore, !modTask_canonical, !foldl_canonical]

theorem forgetReleases_canonical (home key n : Nat) (hs : Canonical s) : Canonical (forgetReleases home key n s) := by
  grind [forgetReleases, canonical_iff]

theorem sumpPut_canonical (n : Fin 8) (off : Nat) (bs : List Byte) (hs : Canonical s) : Canonical (sumpPut n off bs s) := by
  grind [sumpPut, canonical_iff, !modStack_canonical]

theorem sumpFrom_canonical (n : Fin 8) (fuel off : Nat) (bs : List Byte) (hs : Canonical s) : Canonical (sumpFrom n fuel off bs s) := by
  induction fuel generalizing off bs s with
  | zero => exact hs
  | succ k ih =>
    grind [sumpFrom, !sumpPut_canonical]

theorem sumpStore_canonical (n : Fin 8) (off : Nat) (bs : List Byte) (hs : Canonical s) : Canonical (sumpStore n off bs s) := by
  grind [sumpStore, !sumpFrom_canonical]

theorem homeRmw_canonical (a : Acc) (k : Kind) (va w : Nat) (f : Nat → Option Nat) (hs : Canonical s) : CanonicalPerf (homeRmw a k va w f s) := by
  unfold homeRmw
  split
  case h_5 t key _ e =>
    have ht := translate_eq_canonical e hs
    clear e
    split
    · exact ht
    split
    · exact ht
    split
    · exact ht
    extract_lets u v
    have hu : Canonical u := by grind [!translate_canonical]
    have hv : Canonical v := committedStore_canonical _ _ (strikeBounce_canonical _ _ _ _ _ hu)
    clear_value u v
    grind [CanonicalPerf, CanonicalExcept, !sumpStore_canonical, !expandFor_canonical, !l1gDropLine_canonical, !recompute_canonical]
  all_goals exact translate_eq_canonical ‹_› hs

theorem writeLine_canonical (a : Acc) (direct exempt : Bool) (va : Nat) (bs : List Byte) (hs : Canonical s) :
    CanonicalPerf (writeLine a direct exempt va bs s) := by
  unfold writeLine
  split
  case h_5 t key hw e =>
    have ht := translate_eq_canonical e hs
    clear e
    extract_lets plain full s1 s2 w
    have h1 : Canonical s1 := by grind [!noteHostWrite_canonical, !touch_canonical]
    have h2 : Canonical s2 := by grind [!forgetReleases_canonical]
    have h3 : Canonical w := by grind [!strikeBounce_canonical, !committedStore_canonical, !versionStore_canonical]
    clear_value plain full s1 s2 w
    grind [CanonicalPerf, CanonicalExcept, !sumpStore_canonical, !expandFor_canonical, !l1gDropLine_canonical, !recompute_canonical]
  all_goals grind [CanonicalPerf, translate_eq_canonical]

theorem writeLines_canonical (a : Acc) (direct exempt : Bool) (fuel va : Nat) (bs : List Byte) (hs : Canonical s) :
    CanonicalPerf (writeLines a direct exempt fuel va bs s) := by
  induction fuel generalizing va bs s with
  | zero => exact hs
  | succ n ih =>
    grind [writeLines, CanonicalPerf, !writeLine_canonical]

theorem writeGlobal_canonical (a : Acc) (direct exempt : Bool) (va : Nat) (bs : List Byte) (hs : Canonical s) :
    CanonicalPerf (writeGlobal a direct exempt va bs s) := by
  grind [writeGlobal, CanonicalPerf, !writeLines_canonical]

theorem poisonPiece_canonical (a : Acc) (va : Nat) (hs : Canonical s) : Canonical (poisonPiece a va s) := by
  grind [poisonPiece, canonical_iff, write_wf, !translate_canonical, !modTask_canonical]

/-! ## Machine/Operands -/

theorem needFeature_canonical (bit : Nat) (k : State → Res) (hs : Canonical s) (hk : ∀ t, Canonical t → CanonicalRes (k t)) :
    CanonicalRes (needFeature bit s k) := by
  grind [needFeature, CanonicalRes, !reserved_canonical]

theorem needCompute_canonical (k : State → Res) (hs : Canonical s) (hk : ∀ t, Canonical t → CanonicalRes (k t)) :
    CanonicalRes (needCompute s k) := by
  grind [needCompute, CanonicalRes, !trapAt_canonical, !reserved_canonical]

theorem needFiles_canonical (k : State → Res) (hs : Canonical s) (hk : ∀ t, Canonical t → CanonicalRes (k t)) :
    CanonicalRes (needFiles s k) := by
  grind [needFiles, CanonicalRes, !reserved_canonical]

theorem markDirty_canonical (c : CtxId) (p : Nat × Nat) (hs : Canonical s) : Canonical (markDirty c p s) := by
  grind [markDirty, !modCtx_canonical]

theorem watchKinds_canonical (glob : Bool) (kinds : List Bool) (n : Nat) (addrs : List (Nat × Nat)) (k : Res) (hs : Canonical s)
    (hk : CanonicalRes k) : CanonicalRes (watchKinds glob kinds n addrs s k) := by
  grind [watchKinds, CanonicalRes, canonical_iff, !trapAt_canonical]

theorem spmWrite_canonical (key : Nat) (bs : List Byte) (hs : Canonical s) : Canonical (spmWrite key bs s) := by
  grind [spmWrite, canonical_iff, writeBytes_wf]

theorem markSpm_canonical (gs : List Nat) (hs : Canonical s) : Canonical (markSpm gs s) := by
  grind [markSpm, canonical_iff, !foldl_canonical]

theorem fillLanding_canonical (c : CtxId) (id : Nat) (val : RegVal) (hs : Canonical s) : Canonical (fillLanding c id val s) := by
  grind [fillLanding, !modCtx_canonical]

theorem spoilLanding_canonical (c : CtxId) (id : Nat) (hs : Canonical s) : Canonical (spoilLanding c id s) := by
  grind [spoilLanding, !modCtx_canonical]

theorem lateAccess_canonical (c : CtxId) (code : BitVec 8) (va : Nat) (bundle : Word) (hs : Canonical s) :
    Canonical (lateAccess c code va bundle s) := by
  grind [lateAccess, !addLate_canonical]

theorem failAt_canonical (c : CtxId) (code : BitVec 8) (va : Nat) (bundle : Word) (hs : Canonical s) : Canonical (failAt c code va bundle s) := by
  grind [failAt, !postCtx_canonical, !lateAccess_canonical]

theorem putReleases_canonical (c : CtxId) (ks : Tbl (List (Nat × Nat))) (home key n : Nat) (hs : Canonical s) :
    Canonical (putReleases c ks home key n s) := by
  grind [putReleases, canonical_iff, !foldl_canonical]

theorem commitReleases_canonical (t : Task) (hs : Canonical s) : Canonical (commitReleases t s) := by
  grind [commitReleases, canonical_iff]

theorem publish_canonical (c : CtxId) (scope key n : Nat) (hs : Canonical s) : Canonical (publish c scope key n s) := by
  grind [publish, !modCtx_canonical, !putReleases_canonical]

theorem acquireFrom_canonical (c : CtxId) (scope : Nat) (rs : List Release) (hs : Canonical s) : Canonical (acquireFrom c scope rs s) := by
  grind [acquireFrom, !modCtx_canonical]

theorem acquireWord_canonical (c : CtxId) (scope key n : Nat) (hs : Canonical s) : Canonical (acquireWord c scope key n s) := by
  grind [acquireWord, !acquireFrom_canonical]

theorem noteReleases_canonical (c : CtxId) (rs : List Release) (hs : Canonical s) : Canonical (noteReleases c rs s) := by
  grind [noteReleases, !modCtx_canonical, !foldl_canonical]

theorem noteRead_canonical (c : CtxId) (key n : Nat) (hs : Canonical s) : Canonical (noteRead c key n s) := by
  grind [noteRead, !noteReleases_canonical]

theorem setTile_canonical (core p : Nat) (f : Tile → Tile) (hs : Canonical s) : Canonical (setTile core p f s) := by
  grind [setTile, !modCore_canonical]

theorem spoilImages_canonical (key n : Nat) (writer : Option Nat) (hs : Canonical s) : Canonical (spoilImages key n writer s) := by
  grind [spoilImages, !modCore_canonical, !setTile_canonical, !foldl_canonical]

theorem spoilCopies_canonical (clu : Nat) (parts : CopyOp → List (Nat × Nat)) (writer : Option Nat) (hs : Canonical s) :
    Canonical (spoilCopies clu parts writer s) := by
  grind [spoilCopies, !setCluster_canonical]

theorem meetLocal_canonical (key n : Nat) (writer : Option Nat) (hs : Canonical s) : Canonical (meetLocal key n writer s) := by
  grind [meetLocal, !spoilImages_canonical, !spoilCopies_canonical]

theorem meetGlobal_canonical (a : Acc) (va n : Nat) (writer : Option Nat) (hs : Canonical s) : Canonical (meetGlobal a va n writer s) := by
  grind [meetGlobal, !spoilCopies_canonical, !foldl_canonical]

theorem storePieces_canonical (c : CtxId) (ps : List (Nat × List Byte)) (ks : Tbl (List (Nat × Nat))) (hs : Canonical s) :
    Canonical (storePieces c ps ks s) := by
  grind [storePieces, canonical_iff, writeBytes_wf, !putReleases_canonical, !forgetReleases_canonical, !markDirty_canonical, !foldl_canonical]

theorem performStore_canonical (a : Acc) (ps : List (Nat × List Byte)) (rel : Option Nat) (hs : Canonical s) :
    Canonical (performStore a ps rel s) := by
  grind [performStore, !storePieces_canonical]

theorem readSpans_canonical (a : Acc) (sync : Bool) (l : List (Nat × Nat)) (hs : Canonical s) : CanonicalPerf (readSpans a sync l s) := by
  induction l generalizing s with
  | nil => exact hs
  | cons x l ih =>
    grind [readSpans, CanonicalPerf, !readGlobal_canonical]

theorem noteReader_canonical (a : Acc) (sync : Bool) (va : Nat) (es : List LogEntry) (hs : Canonical s) :
    Canonical (noteReader a sync va es s) := by
  grind [noteReader, !modCore_canonical]

theorem readForwarded_canonical (a : Acc) (sync : Bool) (va n : Nat) (hs : Canonical s) : CanonicalPerf (readForwarded a sync va n s) := by
  grind [readForwarded, CanonicalPerf, !readGlobal_canonical, !readSpans_canonical, !noteReader_canonical, !foldl_canonical]

theorem readElems_canonical (a : Acc) (sync : Bool) (n : Nat) (l : List Nat) (hs : Canonical s) : CanonicalPerf (readElems a sync n l s) := by
  induction l generalizing s with
  | nil => exact hs
  | cons x l ih =>
    grind [readElems, CanonicalPerf, !readForwarded_canonical]

theorem readRemote_canonical (a : Acc) (sync : Bool) (l : List Nat) (hs : Canonical s) : CanonicalPerf (readRemote a sync l s) := by
  induction l generalizing s with
  | nil => exact hs
  | cons va vas ih =>
    have h := readForwarded_canonical a sync va 1 hs
    unfold readRemote
    extract_lets here
    have hh : CanonicalPerf here := by grind [CanonicalPerf]
    clear_value here
    grind [CanonicalPerf]

theorem readLoad_canonical (a : Acc) (sync : Bool) (n : Nat) (vas : List Nat) (hs : Canonical s) : CanonicalPerf (readLoad a sync n vas s) := by
  grind [readLoad, CanonicalPerf, !readElems_canonical, !readRemote_canonical]

theorem enterLog_canonical (core : Nat) (e : LogEntry) (hs : Canonical s) : Canonical (enterLog core e s) := by
  grind [enterLog, !modCore_canonical]

theorem logStore_canonical (a : Acc) (va : Nat) (bs : List Byte) (exempt : Bool) (rel : Option (Nat × List (Nat × Nat)))
    (waits : Option (BitVec 8)) (hs : Canonical s) : Canonical (logStore a va bs exempt rel waits s) := by
  grind [logStore, !enterLog_canonical, !foldl_canonical]

theorem taskTrap_canonical (a : Acc) (code : BitVec 8) (tval : Word) (hs : Canonical s) : CanonicalRes (taskTrap a code tval s) := by
  grind [taskTrap, CanonicalRes, canonical_iff, !taskFault_canonical, !modCtx_canonical]

theorem raceTrap_canonical (a : Acc) (va u : Nat) (x : Touch) (hs : Canonical s) : CanonicalRes (raceTrap a va u x s) := by
  grind [raceTrap, CanonicalRes, !taskTrap_canonical, !raceRecord_canonical]

theorem overflowTrap_canonical (a : Acc) (hs : Canonical s) : CanonicalRes (overflowTrap a s) := by
  grind [overflowTrap, CanonicalRes, !taskTrap_canonical]

theorem sendMarked_canonical (bad : Bool) (a : Acc) (dev va : Nat) (bs : List Byte) (hs : Canonical s) :
    Canonical (sendMarked bad a dev va bs s) := by
  grind [sendMarked, !modDev_canonical]

theorem sendRemote_canonical (a : Acc) (dev va : Nat) (bs : List Byte) (hs : Canonical s) : Canonical (sendRemote a dev va bs s) := by
  grind [sendRemote, !sendMarked_canonical]

theorem sysFault_canonical (code : BitVec 8) (va : Nat) (hs : Canonical s) : CanonicalRes (sysFault code va s) := by
  grind [sysFault, CanonicalRes, !trapAt_canonical]

theorem sysShort_canonical (a : Acc) (va : Nat) (hs : Canonical s) : CanonicalRes (sysShort a va s) := by
  grind [sysShort, CanonicalRes, !sysFault_canonical, !dropWaiters_canonical, !modStack_canonical, !stall_canonical]

theorem addWait_canonical (core : Nat) (w : Wait) (hs : Canonical s) : Canonical (addWait core w s) := by
  grind [addWait, !modCore_canonical]

theorem hold_canonical (fill : Bool) (a : Acc) (code : BitVec 8) (va : Nat) (hs : Canonical s) : Canonical (hold fill a code va s) := by
  grind [hold, !report_canonical, !modCore_canonical]

theorem holdSectors_canonical (fill : Bool) (a : Acc) (va : Nat) (hs : Canonical s) : Canonical (holdSectors fill a va s) := by
  grind [holdSectors, !modCore_canonical]

theorem storeOrder_canonical (a : Acc) (va n : Nat) (rel : Option (Nat × List (Nat × Nat))) (hs : Canonical s) :
    Canonical (storeOrder a va n rel s) := by
  grind [storeOrder, !putReleases_canonical, !forgetReleases_canonical]

theorem unitPart_canonical (a : Acc) (va : Nat) (bs : List Byte) (exempt : Bool) (rel : Option (Nat × List (Nat × Nat))) (hs : Canonical s) :
    CanonicalPerf (unitPart a va bs exempt rel s) := by
  grind [unitPart, CanonicalPerf, !writeGlobal_canonical, !storeOrder_canonical, !report_canonical, !logStore_canonical, !failAt_canonical,
    !sendRemote_canonical]

theorem unitParts_canonical (a : Acc) (exempt : Bool) (rel : Option (Nat × List (Nat × Nat))) (l : List (Nat × List Byte)) (logged : Bool)
    (hs : Canonical s) : CanonicalPerf (unitParts a exempt rel l logged s) := by
  induction l generalizing logged s with
  | nil => grind [unitParts, CanonicalPerf, !countWork_canonical]
  | cons e l ih => grind [unitParts, CanonicalPerf, !unitPart_canonical]

theorem unitStore_canonical (a : Acc) (va : Nat) (bs : List Byte) (exempt : Bool) (rel : Option (Nat × List (Nat × Nat))) (hs : Canonical s) :
    CanonicalOption CanonicalPerf (unitStore a va bs exempt rel s) := by
  grind [unitStore, CanonicalPerf, CanonicalOption, !unitParts_canonical]

theorem globalStore_canonical (va : Nat) (bs : List Byte) (exempt : Bool) (rel : Option (Nat × List (Nat × Nat))) (k : State → Res)
    (hs : Canonical s) (hk : ∀ t, Canonical t → CanonicalRes (k t)) : CanonicalRes (globalStore va bs exempt rel s k) := by
  unfold globalStore
  extract_lets a made
  have hm : ∀ t, Canonical t → CanonicalRes (made t) := fun t h => hk _ (meetGlobal_canonical _ _ _ _ h)
  have hw := writeGlobal_canonical a true exempt va bs hs
  have hu := unitStore_canonical a va bs exempt rel hs
  clear_value made
  split
  · split <;> grind [CanonicalPerf, !storeOrder_canonical, !sysFault_canonical, !sysShort_canonical, !raceTrap_canonical,
      !overflowTrap_canonical, !sendRemote_canonical]
  · grind [CanonicalPerf, CanonicalOption, !addWait_canonical, !bump_canonical, !raceTrap_canonical, !overflowTrap_canonical, !stall_canonical]

theorem loadOrder_canonical (a : Acc) (acq : Option Nat) (n : Nat) (vas : List Nat) (hs : Canonical s) : Canonical (loadOrder a acq n vas s) := by
  cases acq with
  | some scope =>
    have h := foldl_canonical (fun t va h => acquireFrom_canonical a.who scope (loadedReleases a va n t) h) vas hs
    grind [loadOrder, !l1gDropAll_canonical]
  | none =>
    have h := foldl_canonical (fun t va h => noteReleases_canonical a.who (loadedReleases a va n t) h) vas hs
    grind [loadOrder]

theorem imageFault_canonical (c : CtxId) (sh : LoadShape) (bs : List Byte) (addr issued : Nat) (hs : Canonical s) :
    Canonical (imageFault c sh bs addr issued s) := by
  grind [imageFault, !addLate_canonical]

theorem loadGlobal_canonical (d : RegName) (sh : LoadShape) (L : Nat) (vas : List Nat) (acq : Option Nat) (k : State → Res) (hs : Canonical s)
    (hk : ∀ t, Canonical t → CanonicalRes (k t)) : CanonicalRes (loadGlobal d sh L vas acq s k) := by
  grind [loadGlobal, CanonicalRes, CanonicalPerf, !bump_canonical, !landWith_canonical, !addWait_canonical, !readLoad_canonical,
    !loadOrder_canonical, !hold_canonical, !holdSectors_canonical, !lateAccess_canonical, !spoilLanding_canonical, !raceTrap_canonical,
    !overflowTrap_canonical]

theorem loadSys_canonical (d : RegName) (sh : LoadShape) (L : Nat) (vas : List Nat) (acq : Option Nat) (k : State → Res) (hs : Canonical s)
    (hk : ∀ t, Canonical t → CanonicalRes (k t)) : CanonicalRes (loadSys d sh L vas acq s k) := by
  grind [loadSys, CanonicalRes, CanonicalPerf, !readLoad_canonical, !loadOrder_canonical, !land_canonical, !addWait_canonical,
    !landWith_canonical, !bump_canonical, !sysFault_canonical, !raceTrap_canonical, !overflowTrap_canonical]

theorem localTouch_canonical (contig : Bool) (n align : Nat) (write : Bool) (kinds : List (Nat × Nat) → List Bool) (addrs : List Word)
    (k : List (Nat × Nat) → Res) (hs : Canonical s) (hk : ∀ x, CanonicalRes (k x)) : CanonicalRes
    (localTouch contig n align write kinds addrs s k) := by
  grind [localTouch, CanonicalRes, !trapAt_canonical, !watchKinds_canonical, !stall_canonical]

theorem localAccess_canonical (contig : Bool) (n align : Nat) (write : Bool) (addrs : List Word) (k : List (Nat × Nat) → Res) (hs : Canonical s)
    (hk : ∀ x, CanonicalRes (k x)) : CanonicalRes (localAccess contig n align write addrs s k) := by
  grind [localAccess, CanonicalRes, !localTouch_canonical]

theorem localOrder_canonical (c : CtxId) (acq : Option Nat) (n : Nat) (keys : List Nat) (hs : Canonical s) :
    Canonical (localOrder c acq n keys s) := by
  grind [localOrder, !acquireWord_canonical, !noteRead_canonical, !foldl_canonical]

theorem performLocal_canonical (c : CtxId) (id : Nat) (d : RegName) (sh : LoadShape) (keys : List Nat) (acq : Option Nat) (bundle : Word)
    (hs : Canonical s) : Canonical (performLocal c id d sh keys acq bundle s) := by
  grind [performLocal, !localOrder_canonical, !failAt_canonical, !spoilLanding_canonical, !fillLanding_canonical]

theorem loadLocal_canonical (d : RegName) (sh : LoadShape) (L align : Nat) (contig : Bool) (addrs : List Word) (acq : Option Nat)
    (k : State → Res) (hs : Canonical s) (hk : ∀ t, Canonical t → CanonicalRes (k t)) : CanonicalRes
    (loadLocal d sh L align contig addrs acq s k) := by
  grind [loadLocal, CanonicalRes, !localAccess_canonical, !addWait_canonical, !landWith_canonical, !bump_canonical, !localOrder_canonical,
    !imageFault_canonical, !land_canonical, !performLocal_canonical]

theorem storeLocal_canonical (ps : List ((Nat × Nat) × List Byte)) (n : Nat) (rel : Option Nat) (k : State → Res) (hs : Canonical s)
    (hk : ∀ t, Canonical t → CanonicalRes (k t)) : CanonicalRes (storeLocal ps n rel s k) := by
  grind [storeLocal, CanonicalRes, !meetLocal_canonical, !addWait_canonical, !bump_canonical, !performStore_canonical, !foldl_canonical]

theorem postInc_canonical (post : Bool) (a : AR) (step : Nat) (hs : Canonical s) : Canonical (postInc post a step s) := by
  grind [postInc, !land_canonical]

theorem acquireAt_canonical (c : CtxId) (scope : Nat) (hs : Canonical s) : Canonical (acquireAt c scope s) := by
  grind [acquireAt, !l1gDropAll_canonical]

theorem needTy_canonical (ok : List Nat) (ty : Fin 16) (k : State → Res) (hs : Canonical s) (hk : ∀ t, Canonical t → CanonicalRes (k t)) :
    CanonicalRes (needTy ok ty s k) := by
  grind [needTy, CanonicalRes, !reserved_canonical]

/-! ## Machine/Unit -/

theorem atomEvents_canonical (a : Acc) (r : Coded) (hs : Canonical s) : Canonical (atomEvents a r s) := by
  grind [atomEvents, !countWork_canonical]

theorem atomOrder_canonical (a : Acc) (key w oc : Nat) (wrote : Bool) (hs : Canonical s) : Canonical (atomOrder a key w oc wrote s) := by
  grind [atomOrder, !noteRead_canonical, !putReleases_canonical, !acquireAt_canonical, !acquireWord_canonical, !modCtx_canonical]

theorem performAtomLocal_canonical (a : Acc) (id : Nat) (fn : AtomFn) (w key : Nat) (v : Word) (oc : Nat) (hs : Canonical s) :
    Canonical (performAtomLocal a id fn w key v oc s) := by
  grind [performAtomLocal, canonical_iff, writeBytes_wf, !failAt_canonical, !spoilLanding_canonical, !fillLanding_canonical, !atomOrder_canonical,
    !markDirty_canonical, !atomEvents_canonical, !foldl_canonical]

theorem performAtomGlobal_canonical (a : Acc) (fn : AtomFn) (w va : Nat) (v : Word) (oc : Nat) (hs : Canonical s) :
    CanonicalPerf (performAtomGlobal a fn w va v oc s) := by
  grind [performAtomGlobal, CanonicalPerf, write_wf, !homeRmw_canonical, !atomOrder_canonical, !atomEvents_canonical]

theorem unitReduce_canonical (a : Acc) (fn : AtomFn) (w va : Nat) (v : Word) (oc : Nat) (hs : Canonical s) :
    CanonicalOption CanonicalPerf (unitReduce a fn w va v oc s) := by
  grind [unitReduce, CanonicalPerf, CanonicalOption, !countWork_canonical, !enterLog_canonical, !acquireAt_canonical, !modCtx_canonical,
    !performAtomGlobal_canonical, !report_canonical, !failAt_canonical, !sendRemote_canonical]

theorem writeRuns_canonical (bad : List Nat) (a : Acc) (exempt : Bool) (rel : Option (Nat × List (Nat × Nat))) (l : List (Nat × List Byte))
    (hs : Canonical s) : CanonicalPerf (writeRuns bad a exempt rel l s) := by
  induction l generalizing s with
  | nil => exact hs
  | cons x l ih =>
    grind [writeRuns, CanonicalPerf, !writeGlobal_canonical, !storeOrder_canonical, !sendMarked_canonical]

theorem performEntry_canonical (core : Nat) (e : LogEntry) (hs : Canonical s) : CanonicalPerf (performEntry core e s) := by
  grind [performEntry, CanonicalPerf, !writeRuns_canonical, !poisonPiece_canonical, !performAtomGlobal_canonical, !sendMarked_canonical,
    !foldl_canonical]

theorem dropHead_canonical (core : Nat) (hs : Canonical s) : Canonical (dropHead core s) := by
  grind [dropHead, !modCore_canonical]

theorem noteReaders_canonical (core : Nat) (e : LogEntry) (hs : Canonical s) : Canonical (noteReaders core e s) := by
  grind [noteReaders, !translate_canonical, !noteTouch_canonical, !foldl_canonical]

theorem replayHead_canonical (core : Nat) (hs : Canonical s) : Canonical (replayHead core s) := by
  grind [replayHead, CanonicalPerf, !dropHead_canonical, !noteReaders_canonical, !performEntry_canonical, !failAt_canonical, !raceAt_canonical,
    !taskFault_canonical, !report_canonical, !modCore_canonical]

theorem beginBack_canonical (c : CtxId) (rg g : Nat) (hs : Canonical s) : Canonical (beginBack c rg g s) := by
  grind [beginBack, !modCore_canonical, !bump_canonical, !modCtx_canonical]

theorem logBack_canonical (core g : Nat) (e : LogEntry) (hs : Canonical s) : Canonical (logBack core g e s) := by
  grind [logBack, !enterLog_canonical, !countWork_canonical, !modCore_canonical]

theorem feedBack_canonical (core : Nat) (upto : Option Nat) (fuel : Nat) (hs : Canonical s) : Canonical (feedBack core upto fuel s) := by
  induction fuel generalizing s with
  | zero => exact hs
  | succ n ih =>
    grind [feedBack, CanonicalPerf, !modCore_canonical, !performEntry_canonical, !failAt_canonical, !raceAt_canonical, !taskFault_canonical,
    !logBack_canonical, !report_canonical]

theorem feed_canonical (core : Nat) (hs : Canonical s) : Canonical (feed core s) := by
  grind [feed, !feedBack_canonical]

theorem failWait_canonical (w : Wait) (code : BitVec 8) (va : Nat) (hs : Canonical s) : Canonical (failWait w code va s) := by
  grind [failWait, !failAt_canonical]

theorem pumpLocal_canonical (w : Wait) (hs : Canonical s) : Canonical (pumpLocal w s) := by
  grind [pumpLocal, !imageFault_canonical, !performLocal_canonical, !performStore_canonical, !performAtomLocal_canonical]

theorem loadRead_canonical (w : Wait) (d : RegName) (sh : LoadShape) (vas : List Nat) (acq : Option Nat) (r : Perf (List Byte × Option Nat))
    (hr : CanonicalPerf r) : CanonicalPumped (loadRead w d sh vas acq r) := by
  unfold loadRead
  split <;> simp only [CanonicalPerf] at hr <;>
  grind [CanonicalPumped, !fillLanding_canonical, !loadOrder_canonical, !hold_canonical, !holdSectors_canonical, !failWait_canonical,
      !spoilLanding_canonical, !raceAt_canonical, !taskFault_canonical]

theorem answerRemote_canonical (w : Wait) (hs : Canonical s) : CanonicalPumped (answerRemote w s) := by
  grind [answerRemote, CanonicalPumped, !loadOrder_canonical, !fillLanding_canonical]

theorem pumpGlobal_canonical (w : Wait) (hs : Canonical s) : CanonicalPumped (pumpGlobal w s) := by
  unfold pumpGlobal
  extract_lets a spoiled raced
  have hsp : ∀ t c v, Canonical t → Canonical (spoiled t c v) := fun t c v h => failWait_canonical _ _ _ (spoilLanding_canonical _ _ h)
  have hra : ∀ t v u x, Canonical t → Canonical (raced t v u x) := fun t v u x h => raceAt_canonical _ _ _ _ (spoilLanding_canonical _ _ h)
  clear_value a spoiled raced
  split
  · grind [CanonicalPumped, !loadRead_canonical, !readLoad_canonical]
  · have := fun va bs exempt rel => unitStore_canonical a va bs exempt rel hs
    grind [CanonicalPumped, CanonicalOption, CanonicalPerf, !unitStore_canonical, !taskFault_canonical]
  · grind [CanonicalPumped, CanonicalOption, CanonicalPerf, !unitReduce_canonical, !taskFault_canonical, !performAtomGlobal_canonical,
      !fillLanding_canonical, !hold_canonical, !holdSectors_canonical]
  · exact hs

theorem pumpList_canonical (core : Nat) (l : List Wait) (blocked : Bool) (hs : Canonical s) : Canonical (pumpList core l blocked s) := by
  induction l generalizing blocked s with
  | nil => exact hs
  | cons x l ih =>
    grind [pumpList, CanonicalPumped, !addWait_canonical, !pumpLocal_canonical, !feedBack_canonical, !pumpGlobal_canonical]

theorem backRegion_canonical (c : CtxId) (rg : Nat) (hs : Canonical s) : Canonical (backRegion c rg s) := by
  grind [backRegion, !beginBack_canonical, !foldl_canonical]

theorem leaveRegions_canonical (drop : Bool) (c : CtxId) (hs : Canonical s) : Canonical (leaveRegions drop c s) := by
  grind [leaveRegions, !backRegion_canonical, !feed_canonical, !modCtx_canonical, !foldl_canonical]

theorem leaveSaving_canonical (core : Nat) (hs : Canonical s) : Canonical (leaveSaving core s) := by
  grind [leaveSaving, !leaveRegions_canonical, !foldl_canonical]

theorem pump_canonical (core : Nat) (hs : Canonical s) : Canonical (pump core s) := by
  grind [pump, !modCore_canonical, !leaveSaving_canonical, !feed_canonical, !pumpList_canonical]

theorem putMarked_canonical (key : Nat) (bs : List (Byte × Bool)) (hs : Canonical s) : Canonical (putMarked key bs s) := by
  grind [putMarked, !spmWrite_canonical, !markSpm_canonical]

theorem dropWaiting_canonical (core : Nat) (c : CtxId) (g : Nat) (hs : Canonical s) : Canonical (dropWaiting core c g s) := by
  grind [dropWaiting, !modCore_canonical, !spoilLanding_canonical, !foldl_canonical]

theorem fillGranule_canonical (core : Nat) (hs : Canonical s) : Canonical (fillGranule core s) := by
  grind [fillGranule, CanonicalPerf, !pump_canonical, !modCtx_canonical, !putMarked_canonical, !failWait_canonical, !dropWaiting_canonical,
    !readMarked_canonical, !hold_canonical, !holdSectors_canonical, !raceAt_canonical, !taskFault_canonical, !poisonRecord_canonical]

theorem releaseUnit_canonical (core : Nat) (hs : Canonical s) : Canonical (releaseUnit core s) := by
  grind [releaseUnit, !modCore_canonical, !fillGranule_canonical, !pump_canonical]

/-! ## Machine/Loads -/

theorem globalTouch_canonical (n align : Nat) (kinds : List Bool) (addrs : List Word) (k : Res) (hs : Canonical s) (hk : CanonicalRes k) :
    CanonicalRes (globalTouch n align kinds addrs s k) := by
  grind [globalTouch, CanonicalRes, !trapAt_canonical, !watchKinds_canonical, !stall_canonical]

theorem globalAccess_canonical (n align : Nat) (write : Bool) (addrs : List Word) (k : Res) (hs : Canonical s) (hk : CanonicalRes k) :
    CanonicalRes (globalAccess n align write addrs s k) := by
  grind [globalAccess, CanonicalRes, !globalTouch_canonical]

theorem loadAny_canonical (d : RegName) (sh : LoadShape) (L align : Nat) (addrs : List Word) (acq : Option Nat) (k : State → Res)
    (hs : Canonical s) (hk : ∀ t, Canonical t → CanonicalRes (k t)) : CanonicalRes (loadAny d sh L align addrs acq s k) := by
  grind [loadAny, CanonicalRes, !globalAccess_canonical, !loadSys_canonical, !loadGlobal_canonical]

theorem loadNear_canonical (d : RegName) (sh : LoadShape) (L align : Nat) (contig : Bool) (addrs : List Word) (k : State → Res) (hs : Canonical s)
    (hk : ∀ t, Canonical t → CanonicalRes (k t)) : CanonicalRes (loadNear d sh L align contig addrs s k) := by
  grind [loadNear, CanonicalRes, !loadAny_canonical, !loadLocal_canonical]

theorem loadScalar_canonical (n : Nat) (signed : Bool) (d : SR) (a : AR) (post : Bool) (off : BitVec 12) (hs : Canonical s) :
    CanonicalRes (loadScalar n signed d a post off s) := by
  grind [loadScalar, CanonicalRes, !guardRegs_canonical, !loadNear_canonical, !postInc_canonical]

theorem execLdv_canonical (d : VR) (a : AR) (post : Bool) (off : BitVec 12) (hs : Canonical s) : CanonicalRes (execLdv d a post off s) := by
  grind [execLdv, CanonicalRes, !needFiles_canonical, !guardRegs_canonical, !loadLocal_canonical, !postInc_canonical]

theorem execLdvs_canonical (d : VR) (a : AR) (post : Bool) (x : SR) (off : BitVec 7) (hs : Canonical s) :
    CanonicalRes (execLdvs d a post x off s) := by
  grind [execLdvs, CanonicalRes, !needFiles_canonical, !guardRegs_canonical, !loadLocal_canonical, !postInc_canonical]

theorem execLdvx_canonical (d : VR) (a : AR) (vi : VR) (sc : Fin 4) (hs : Canonical s) : CanonicalRes (execLdvx d a vi sc s) := by
  grind [execLdvx, CanonicalRes, !needFiles_canonical, !guardRegs_canonical, !loadLocal_canonical]

theorem execLdvb_canonical (d : VR) (a : AR) (post : Bool) (off : BitVec 12) (hs : Canonical s) : CanonicalRes (execLdvb d a post off s) := by
  grind [execLdvb, CanonicalRes, !needFiles_canonical, !guardRegs_canonical, !loadLocal_canonical, !postInc_canonical]

theorem execLdm_canonical (d : MR) (a : AR) (post : Bool) (off : BitVec 12) (hs : Canonical s) : CanonicalRes (execLdm d a post off s) := by
  grind [execLdm, CanonicalRes, !needFiles_canonical, !guardRegs_canonical, !loadLocal_canonical, !postInc_canonical]

theorem execLdwt_canonical (d : WR) (a : AR) (post : Bool) (off : BitVec 12) (hs : Canonical s) : CanonicalRes (execLdwt d a post off s) := by
  grind [execLdwt, CanonicalRes, !needFeature_canonical, !needFiles_canonical, !guardRegs_canonical, !loadLocal_canonical, !postInc_canonical]

theorem execLdg_canonical (d : SR) (a : AR) (size : Fin 8) (off : BitVec 10) (hs : Canonical s) : CanonicalRes (execLdg d a size off s) := by
  grind [execLdg, CanonicalRes, !reserved_canonical, !guardRegs_canonical, !loadAny_canonical]

theorem execLdgv_canonical (d : VR) (a : AR) (post : Bool) (off : BitVec 12) (hs : Canonical s) : CanonicalRes (execLdgv d a post off s) := by
  grind [execLdgv, CanonicalRes, !needFiles_canonical, !guardRegs_canonical, !loadAny_canonical, !postInc_canonical]

theorem execLdaq_canonical (d : SR) (a : AR) (size scope : Fin 8) (hs : Canonical s) : CanonicalRes (execLdaq d a size scope s) := by
  grind [execLdaq, CanonicalRes, !reserved_canonical, !guardRegs_canonical, !globalAccess_canonical, !stall_canonical, !loadAny_canonical,
    !loadLocal_canonical]

/-! ## Machine/Stores -/

theorem storeNear_canonical (n align : Nat) (contig : Bool) (pairs : List (Word × List Byte)) (k : State → Res) (hs : Canonical s)
    (hk : ∀ t, Canonical t → CanonicalRes (k t)) : CanonicalRes (storeNear n align contig pairs s k) := by
  grind [storeNear, CanonicalRes, !localAccess_canonical, !storeLocal_canonical]

theorem storeScalar_canonical (n : Nat) (x : SR) (a : AR) (post : Bool) (off : BitVec 12) (hs : Canonical s) :
    CanonicalRes (storeScalar n x a post off s) := by
  grind [storeScalar, CanonicalRes, !guardRegs_canonical, !postInc_canonical, !globalAccess_canonical, !globalStore_canonical,
    !storeNear_canonical]

theorem execStv_canonical (v : VR) (a : AR) (post : Bool) (off : BitVec 12) (hs : Canonical s) : CanonicalRes (execStv v a post off s) := by
  grind [execStv, CanonicalRes, !needFiles_canonical, !guardRegs_canonical, !storeNear_canonical, !postInc_canonical]

theorem execStvm_canonical (v : VR) (a : AR) (post : Bool) (m : MR) (off : BitVec 9) (hs : Canonical s) :
    CanonicalRes (execStvm v a post m off s) := by
  grind [execStvm, CanonicalRes, !needFiles_canonical, !guardRegs_canonical, !storeNear_canonical, !postInc_canonical]

theorem execStvs_canonical (v : VR) (a : AR) (post : Bool) (x : SR) (off : BitVec 7) (hs : Canonical s) :
    CanonicalRes (execStvs v a post x off s) := by
  grind [execStvs, CanonicalRes, !needFiles_canonical, !guardRegs_canonical, !storeNear_canonical, !postInc_canonical]

theorem execStvx_canonical (v : VR) (a : AR) (vi : VR) (sc : Fin 4) (hs : Canonical s) : CanonicalRes (execStvx v a vi sc s) := by
  grind [execStvx, CanonicalRes, !needFiles_canonical, !guardRegs_canonical, !storeNear_canonical]

theorem execStwt_canonical (w : WR) (a : AR) (post : Bool) (off : BitVec 12) (hs : Canonical s) : CanonicalRes (execStwt w a post off s) := by
  grind [execStwt, CanonicalRes, !needFeature_canonical, !needFiles_canonical, !guardRegs_canonical, !storeNear_canonical, !postInc_canonical]

theorem execStm_canonical (m : MR) (a : AR) (post : Bool) (off : BitVec 12) (hs : Canonical s) : CanonicalRes (execStm m a post off s) := by
  grind [execStm, CanonicalRes, !needFiles_canonical, !guardRegs_canonical, !storeNear_canonical, !postInc_canonical]

theorem execStg_canonical (x : SR) (a : AR) (size : Fin 8) (off : BitVec 10) (hs : Canonical s) : CanonicalRes (execStg x a size off s) := by
  grind [execStg, CanonicalRes, !reserved_canonical, !guardRegs_canonical, !globalAccess_canonical, !globalStore_canonical]

theorem execStgv_canonical (v : VR) (a : AR) (post : Bool) (off : BitVec 12) (hs : Canonical s) : CanonicalRes (execStgv v a post off s) := by
  grind [execStgv, CanonicalRes, !needFiles_canonical, !guardRegs_canonical, !globalAccess_canonical, !globalStore_canonical, !postInc_canonical]

theorem execStrl_canonical (x : SR) (a : AR) (size scope : Fin 8) (hs : Canonical s) : CanonicalRes (execStrl x a size scope s) := by
  grind [execStrl, CanonicalRes, !reserved_canonical, !guardRegs_canonical, !globalAccess_canonical, !stall_canonical, !globalStore_canonical,
    !modCtx_canonical, !localAccess_canonical, !storeLocal_canonical]

theorem remoteAtom_canonical (a : Acc) (id dev : Nat) (d : SR) (w va oc : Nat) (hs : Canonical s) :
    Canonical (remoteAtom a id dev d w va oc s) := by
  grind [remoteAtom, !addWait_canonical]

theorem atomic_canonical (fn : AtomFn) (d : SR) (a : AR) (x : SR) (g z : Bool) (oc : Fin 4) (hs : Canonical s) :
    CanonicalRes (atomic fn d a x g z oc s) := by
  unfold atomic
  extract_lets c w addr v reduction id a' at_ t made pend wait
  split
  · refine globalTouch_canonical _ _ _ _ _ hs ?_
    have hm (u) (h : Canonical u) : CanonicalRes (made u) := meetGlobal_canonical _ _ _ _ h
    have hp (u) (h : Canonical u) : Canonical (pend u) := landWith_canonical _ _ _ _ _ h
    have hw (u) (h : Canonical u) : Canonical (wait u) := addWait_canonical _ _ h
    have ht : Canonical t := bump_canonical hs
    have hg := performAtomGlobal_canonical a' fn w addr.toNat v oc.val ht
    have hr := unitReduce_canonical a' fn w addr.toNat v oc.val ht
    clear_value made pend wait t
    split
    · exact stall_canonical hs
    split
    · split <;> rename_i e <;> rw [e] at hg
      · exact hm _ (land_canonical _ _ _ hg)
      · exact sysFault_canonical _ _ hs
      · exact sysShort_canonical _ _ hg
      · exact sysFault_canonical _ _ hs
      · exact raceTrap_canonical _ _ _ _ hs
      · exact overflowTrap_canonical _ hs
      · exact hm _ (remoteAtom_canonical _ _ _ _ _ _ _ (hp _ hg))
    split
    · exact hm _ (hw _ (hp _ ht))
    split
    · split
      · rename_i e; rw [e] at hr; exact hm _ hr
      · exact raceTrap_canonical _ _ _ _ hs
      · exact overflowTrap_canonical _ hs
      · exact stall_canonical ht
    · split <;> rename_i e <;> rw [e] at hg
      · exact hm _ (fillLanding_canonical _ _ _ (hp _ hg))
      · exact hm _ (hw _ (hold_canonical _ _ _ _ (hp _ hg)))
      · exact hm _ (hw _ (holdSectors_canonical _ _ _ (hp _ hg)))
      · exact lateAccess_canonical _ _ _ _ (spoilLanding_canonical _ _ (hp _ hg))
      · exact raceTrap_canonical _ _ _ _ hs
      · exact overflowTrap_canonical _ hs
      · exact hm _ (remoteAtom_canonical _ _ _ _ _ _ _ (hp _ hg))
  · refine localTouch_canonical _ _ _ _ _ _ _ hs fun ps => ?_
    split
    · exact stall_canonical hs
    split
    · exact hs
    · have hl (key) := meetLocal_canonical key w none (landWith_canonical (.s d) (.word 0) 4 false id (bump_canonical hs))
      dsimp only
      split
      · exact addWait_canonical _ _ (hl _)
      · split
        · exact modCtx_canonical _ _ (performAtomLocal_canonical _ _ _ _ _ _ _ (hl _))
        · exact performAtomLocal_canonical _ _ _ _ _ _ _ (hl _)

theorem atom_canonical (fn : AtomFn) (d : SR) (a : AR) (x : SR) (g z : Bool) (oc : Fin 4) (hs : Canonical s) :
    CanonicalRes (atom fn d a x g z oc s) := by
  grind [atom, CanonicalRes, !guardRegs_canonical, !atomic_canonical]

theorem execAtomFadd_canonical (d : SR) (a : AR) (x : SR) (g z : Bool) (oc : Fin 4) (hs : Canonical s) :
    CanonicalRes (execAtomFadd d a x g z oc s) := by
  grind [execAtomFadd, CanonicalRes, !reserved_canonical, !atom_canonical]

theorem execFence_canonical (kind : Fin 4) (scope : Fin 8) (hs : Canonical s) : CanonicalRes (execFence kind scope s) := by
  grind [execFence, CanonicalRes, !reserved_canonical, !stall_canonical, !modCtx_canonical, !acquireAt_canonical]

theorem dropLines_canonical (a : Acc) (n va : Nat) (hs : Canonical s) : Canonical (dropLines a n va s) := by
  induction n generalizing va s with
  | zero => exact hs
  | succ k ih =>
    grind [dropLines, !translate_canonical, !l1gDropLine_canonical]

theorem execCmo_canonical (op level : Fin 4) (a : AR) (x : SR) (hs : Canonical s) : CanonicalRes (execCmo op level a x s) := by
  grind [execCmo, CanonicalRes, !reserved_canonical, !guardRegs_canonical, !trapAt_canonical, !stall_canonical, !dropLines_canonical]

theorem execRgset_canonical (rg : RG) (a : AR) (x y : SR) (mode : Fin 8) (hs : Canonical s) : CanonicalRes (execRgset rg a x y mode s) := by
  grind [execRgset, CanonicalRes, canonical_iff, !reserved_canonical, !guardRegs_canonical, !trapAt_canonical]

theorem execRgwb_canonical (rg : RG) (hs : Canonical s) : CanonicalRes (execRgwb rg s) := by
  grind [execRgwb, CanonicalRes, !needFeature_canonical, !trapAt_canonical, !stall_canonical, !feed_canonical, !backRegion_canonical]

theorem fillAll_canonical (core fuel : Nat) (hs : Canonical s) : Canonical (fillAll core fuel s) := by
  induction fuel generalizing s with
  | zero => exact hs
  | succ n ih =>
    grind [fillAll, !fillGranule_canonical]

theorem execRgdrop_canonical (rg : RG) (hs : Canonical s) : CanonicalRes (execRgdrop rg s) := by
  grind [execRgdrop, CanonicalRes, canonical_iff, !needFeature_canonical, !trapAt_canonical, !stall_canonical, !fillAll_canonical]

/-! ## Machine/Channel -/

theorem setChan_canonical (n : Nat) (c : Chan) (hs : Canonical s) : Canonical (setChan s n c) := by
  grind [setChan, canonical_iff]

theorem channelFault_canonical (c : CR) (hs : Canonical s) : CanonicalRes (channelFault c s) := by
  grind [channelFault, CanonicalRes, !trapAt_canonical]

theorem acquireUnnamed_canonical (c : CtxId) (r : RegName) (k : List (Nat × Nat)) (hs : Canonical s) : Canonical (acquireUnnamed c r k s) := by
  grind [acquireUnnamed, !modCtx_canonical]

theorem fillClaim_canonical (q : Claim) (e : ChElem × List (Nat × Nat)) (src : Option CtxId) (hs : Canonical s) :
    Canonical (fillClaim q e src s) := by
  grind [fillClaim, !modCtx_canonical, !countWork_canonical, !acquireAt_canonical, !acquireUnnamed_canonical]

theorem failClaim_canonical (code : BitVec 8) (q : Claim) (hs : Canonical s) : Canonical (failClaim code q s) := by
  grind [failClaim, !spoilLanding_canonical, !postCtx_canonical, !addLate_canonical]

theorem closeChan_canonical (n : Nat) (inbound : Bool) (hs : Canonical s) : Canonical (closeChan n inbound s) := by
  grind [closeChan, !failClaim_canonical, !setChan_canonical, !foldl_canonical]

theorem closeAll_canonical (c : CtxId) (hs : Canonical s) : Canonical (closeAll c s) := by
  grind [closeAll, !closeChan_canonical, !modCtx_canonical, !foldl_canonical]

theorem stallSend_canonical (c : CR) (hs : Canonical s) : CanonicalRes (stallSend c s) := by
  grind [stallSend, CanonicalRes, canonical_iff, !stall_canonical]

theorem sendOn_canonical (shapes : List Nat) (c : CR) (r : RegName) (elem : State → ChElem) (hs : Canonical s) :
    CanonicalRes (sendOn shapes c r elem s) := by
  grind [sendOn, CanonicalRes, canonical_iff, !channelFault_canonical, !guardRegs_canonical, !stallSend_canonical, !stall_canonical,
    !setChan_canonical, !closeChan_canonical]

theorem receiveOn_canonical (shapes : List Nat) (c : CR) (r : RegName) (rs : List RegName) (fn : RecvFn) (L : Nat) (v : State → Vec)
    (hs : Canonical s) : CanonicalRes (receiveOn shapes c r rs fn L v s) := by
  unfold receiveOn
  split
  · exact channelFault_canonical _ hs
  split
  · exact channelFault_canonical _ hs
  split
  · exact channelFault_canonical _ hs
  refine guardRegs_canonical _ _ _ hs fun t ht => ?_
  have h (w : RegVal) := landWith_canonical r w L false (fresh t) (bump_canonical ht)
  split
  · exact countMine_canonical _ (acquireAt_canonical _ _ (acquireUnnamed_canonical _ _ _ (setChan_canonical _ _ ⟨(h _).mem, (h _).spm, (h _).rom⟩)))
  · exact setChan_canonical _ _ (h _)

theorem execChq_canonical (x : SR) (c : CR) (hs : Canonical s) : CanonicalRes (execChq x c s) := by
  grind [execChq, CanonicalRes, !channelFault_canonical, !guardRegs_canonical, !land_canonical]

theorem execChclose_canonical (c : CR) (hs : Canonical s) : CanonicalRes (execChclose c s) := by
  grind [execChclose, CanonicalRes, canonical_iff, !channelFault_canonical, !closeChan_canonical]

theorem execClaimFill_canonical (hs : Canonical s) : CanonicalRes (execClaimFill s) := by
  grind [execClaimFill, CanonicalRes, !closeChan_canonical, !setChan_canonical, !fillClaim_canonical]

theorem limitReached_canonical (code : BitVec 8) (hs : Canonical s) : Canonical (limitReached code s) := by
  grind [limitReached, !elapseTo_canonical, !failClaim_canonical, !setChan_canonical, !takeTrap_canonical, !modCtx_canonical]

/-! ## Machine/Issue -/

theorem readLine_canonical (c : CtxId) (line : Nat) (hs : Canonical s) : Canonical (readLine c line s).1 := by
  unfold readLine
  extract_lets x a
  split
  · exact hs
  split
  · exact hs
  split
  · exact hs
  split
  · have ht := translate_eq_canonical ‹_› hs
    split
    · split <;> exact ht
    · exact ht
    · dsimp only
      split <;> exact ht
  · exact translate_eq_canonical ‹_› hs

theorem heldLine_canonical (c : CtxId) (line : Nat) (hs : Canonical s) : Canonical (heldLine c line s).1 := by
  grind [heldLine, !readLine_canonical]

theorem fetchLine_canonical (line : Nat) (hs : Canonical s) : Canonical (fetchLine line s).1 := by
  grind [fetchLine, canonical_iff, !readLine_canonical]

theorem successorAt_canonical (e : Word) (hs : Canonical s) : Canonical (successorAt e s).1 := by
  grind [successorAt, !fetchLine_canonical]

theorem trimBuffer_canonical (hs : Canonical s) : Canonical (trimBuffer s) := by
  grind [trimBuffer, canonical_iff]

theorem endLoop_canonical (fuel : Nat) (hs : Canonical s) : Canonical (endLoop fuel s) := by
  induction fuel generalizing s with
  | zero => exact hs
  | succ fuel ih => 
    have h := fun a => successorAt_canonical a hs
    unfold endLoop
    split
    · exact hs
    split
    · exact ⟨hs.1, hs.2, hs.3⟩
    · grind [!trimBuffer_canonical, canonical_iff]

theorem endIteration_canonical (atEnd : Bool) (hs : Canonical s) : Canonical (endIteration atEnd s) := by
  grind [endIteration, !endLoop_canonical]

theorem moveOn_canonical (hs : Canonical s) : Canonical (moveOn s) := by
  grind [moveOn, canonical_iff]

theorem advance_canonical (hs : Canonical s) : Canonical (advance s) := by
  grind [advance, canonical_iff, !modCore_canonical]

theorem stepFault_canonical (hs : Canonical s) : Canonical (stepFault s) := by
  grind [stepFault, !addLate_canonical]

theorem captureBody_canonical (hs : Canonical s) : Canonical (captureBody s) := by
  grind [captureBody, canonical_iff, !fetchLine_canonical, !foldl_canonical]

theorem finishBundle_canonical (atEnd : Bool) (hs : Canonical s) : Canonical (finishBundle atEnd s) := by
  grind [finishBundle, !stepFault_canonical, !moveOn_canonical, !endIteration_canonical, !captureBody_canonical, !advance_canonical]

/-! ## Machine/Control -/

theorem transferTo_canonical (target : Word) (hs : Canonical s) : Canonical (transferTo target s) := by
  grind [transferTo, canonical_iff]

theorem execBtree_canonical (t0 t1 : BTest) (t2 t3 : BTest) (hs : Canonical s) : CanonicalRes (execBtree t0 t1 t2 t3 s) := by
  grind [execBtree, CanonicalRes, !guardRegs_canonical, !transferTo_canonical]

theorem execLoop_canonical (x : SR) (endOff : BitVec 19) (hs : Canonical s) : CanonicalRes (execLoop x endOff s) := by
  grind [execLoop, CanonicalRes, canonical_iff, !illegalSeq_canonical, !guardRegs_canonical, !successorAt_canonical]

theorem execLbrk_canonical (level : Fin 8) (n : Bool) (p : PR) (hs : Canonical s) : CanonicalRes (execLbrk level n p s) := by
  grind [execLbrk, CanonicalRes, canonical_iff, !reserved_canonical, !illegalSeq_canonical, !guardRegs_canonical, !successorAt_canonical,
    !transferTo_canonical, !trimBuffer_canonical]

theorem execFmtw_canonical (x : SR) (hs : Canonical s) : CanonicalRes (execFmtw x s) := by
  grind [execFmtw, CanonicalRes, canonical_iff, !reserved_canonical, !guardRegs_canonical]

theorem noteClock_canonical (key : Nat) (who : CtxId) (k : List (Nat × Nat)) (hs : Canonical s) : Canonical (noteClock key who k s) := by
  grind [noteClock, canonical_iff]

theorem observeKey_canonical (key : Nat) (hs : Canonical s) : Canonical (observeKey key s) := by
  grind [observeKey, canonical_iff, !l1gDropAll_canonical]

theorem execWaitk_canonical (tok : Tokens) (hs : Canonical s) : CanonicalRes (execWaitk tok s) := by
  grind [execWaitk, CanonicalRes, !reserved_canonical, !trapAt_canonical, !stall_canonical, !observeWindows_canonical, !observeKey_canonical,
    !foldl_canonical]

theorem modBarrier_canonical (task id : Nat) (f : Barrier → Barrier) (hs : Canonical s) : Canonical (modBarrier task id f s) := by
  grind [modBarrier, !modTask_canonical]

theorem countArrival_canonical (task id : Nat) (k : List (Nat × Nat)) (hs : Canonical s) : Canonical (countArrival task id k s) := by
  grind [countArrival, !modBarrier_canonical]

theorem arriveAt_canonical (b : Barrier) (hs : Canonical s) : Canonical (arriveAt b s) := by
  grind [arriveAt, canonical_iff, !countArrival_canonical]

theorem arriveLater_canonical (b : Barrier) (hs : Canonical s) : Canonical (arriveLater b s) := by
  grind [arriveLater, canonical_iff]

theorem endWait_canonical (b : Barrier) (phase : Nat) (hs : Canonical s) : Canonical (endWait b phase s) := by
  grind [endWait, canonical_iff, !acquireAt_canonical]

theorem execBar_canonical (id : Fin 64) (hs : Canonical s) : CanonicalRes (execBar id s) := by
  grind [execBar, CanonicalRes, !protection_canonical, !endWait_canonical, !stall_canonical, !arriveAt_canonical]

theorem execBara_canonical (id : Fin 64) (hs : Canonical s) : CanonicalRes (execBara id s) := by
  grind [execBara, CanonicalRes, !arriveAt_canonical, !arriveLater_canonical, !protection_canonical, !endWait_canonical, !stall_canonical]

theorem settleArrivals_canonical (c : CtxId) (hs : Canonical s) : Canonical (settleArrivals c s) := by
  grind [settleArrivals, !modCtx_canonical, !countArrival_canonical, !foldl_canonical]

theorem askService_canonical (code : BitVec 8) (va : Nat) (hs : Canonical s) : CanonicalRes (askService code va s) := by
  grind [askService, CanonicalRes, canonical_iff, !sysFault_canonical, !stall_canonical, !report_canonical]

theorem execCbwait_canonical (d : SR) (a : AR) (x : SR) (hs : Canonical s) : CanonicalRes (execCbwait d a x s) := by
  unfold execCbwait
  refine guardRegs_canonical _ _ _ hs fun t ht => ?_
  extract_lets addr go
  have hgo : ∀ u w k, Canonical u → CanonicalRes (go u w k) := by
    intro u w k hu
    grind [CanonicalRes, !land_canonical, !observeWindows_canonical, !observeKey_canonical, !stall_canonical]
  clear_value go
  split
  · exact trapAt_canonical _ _ _ ht
  split
  · exact stall_canonical ht
  have h := translate_canonical (accOf t t.who) .read addr.toNat ht
  split <;> rename_i e <;> rw [e] at h
  case h_5 => 
    extract_lets y u lost
    have hu : Canonical u := ⟨h.1, h.2, h.3⟩
    have hl : ∀ v, Canonical v → CanonicalRes (lost v) := fun v hv => trapAt_canonical _ _ _ (poisonRecord_canonical _ _ _ _ _ hv)
    clear_value u lost
    grind [!trapAt_canonical]
  all_goals grind [!askService_canonical, !trapAt_canonical]

theorem enterSupervisor_canonical (code : BitVec 8) (imm : BitVec 16) (hs : Canonical s) : Canonical (enterSupervisor code imm s) := by
  grind [enterSupervisor, canonical_iff, !finishBundle_canonical, !takeTrap_canonical]

theorem leaveBarriers_canonical (c : CtxId) (hs : Canonical s) : Canonical (leaveBarriers c s) := by
  grind [leaveBarriers, !modTask_canonical]

theorem dropRegions_canonical (c : CtxId) (hs : Canonical s) : Canonical (dropRegions c s) := by
  grind [dropRegions, !leaveRegions_canonical]

theorem noteEnd_canonical (c : CtxId) (hs : Canonical s) : Canonical (noteEnd c s) := by
  grind [noteEnd, !modTask_canonical]

theorem postLate_canonical (c : CtxId) (bundle : Word) (hs : Canonical s) : Canonical (postLate c bundle s) := by
  grind [postLate, !postCtx_canonical, !foldl_canonical]

theorem endContext_canonical (c : CtxId) (run : RunState) (kind : Nat) (lo : Word) (hs : Canonical s) :
    Canonical (endContext c run kind lo s) := by
  grind [endContext, !modCtx_canonical, !leaveBarriers_canonical, !closeAll_canonical, !postLate_canonical, !dropRegions_canonical,
    !noteEnd_canonical, !postCtx_canonical]

theorem execExit_canonical (hs : Canonical s) : CanonicalRes (execExit s) := by
  grind [execExit, CanonicalRes, canonical_iff, !endContext_canonical, !finishBundle_canonical]

theorem execYield_canonical (hs : Canonical s) : CanonicalRes (execYield s) := by
  grind [execYield, CanonicalRes, canonical_iff]

theorem pushSeed_canonical (v : Word) (hs : Canonical s) : Canonical (pushSeed v s) := by
  grind [pushSeed, canonical_iff]

theorem execSeedp_canonical (x : SR) (hs : Canonical s) : CanonicalRes (execSeedp x s) := by
  grind [execSeedp, CanonicalRes, !protection_canonical, !guardRegs_canonical, !pushSeed_canonical]

theorem execSeedo_canonical (hs : Canonical s) : CanonicalRes (execSeedo s) := by
  grind [execSeedo, CanonicalRes, canonical_iff, !protection_canonical]

theorem execSeedf_canonical (imm : BitVec 16) (hs : Canonical s) : CanonicalRes (execSeedf imm s) := by
  grind [execSeedf, CanonicalRes, !protection_canonical, !pushSeed_canonical]

/-! ## Machine/Engine -/

theorem needTile_canonical (t : TR) (k : Nat → Res) (hs : Canonical s) (hk : ∀ x, CanonicalRes (k x)) : CanonicalRes (needTile t s k) := by
  grind [needTile, CanonicalRes, !protection_canonical]

theorem needTokens_canonical (tok : Tokens) (k : Res) (hs : Canonical s) (hk : CanonicalRes k) : CanonicalRes (needTokens tok s k) := by
  grind [needTokens, CanonicalRes, !trapAt_canonical]

theorem produceTok_canonical (tok : Tokens) (id : Nat) (hs : Canonical s) : Canonical (produceTok tok id s) := by
  grind [produceTok, canonical_iff]

theorem engineFault_canonical (c : CtxId) (cause : BitVec 8) (bundle : Word) (hs : Canonical s) : Canonical (engineFault c cause bundle s) := by
  grind [engineFault, !postCtx_canonical, !addLate_canonical]

theorem clearTok_canonical (c : CtxId) (tok : Option KR) (id : Nat) (clock : List (Nat × Nat)) (hs : Canonical s) :
    Canonical (clearTok c tok id clock s) := by
  unfold clearTok
  split
  · exact hs
  · split
    · exact modCtx_canonical _ _ (noteClock_canonical _ _ _ hs)
    · exact hs

theorem endOp_canonical (c : CtxId) (id : Nat) (err : Option (BitVec 8)) (clock : List (Nat × Nat)) (hs : Canonical s) :
    Canonical (endOp c id err clock s) := by
  grind [endOp, !modCore_canonical, !modCluster_canonical]

theorem meetWindow_canonical (core name : Nat) (lo n : Nat) (sources : CopyOp → Bool) (writer : Option Nat) (hs : Canonical s) :
    Canonical (meetWindow core name lo n sources writer s) := by
  grind [meetWindow, !spoilCopies_canonical, !foldl_canonical]

theorem meetTile_canonical (core p : Nat) (lo n : Nat) (hs : Canonical s) : Canonical (meetTile core p lo n s) := by
  grind [meetTile, !meetWindow_canonical]

theorem meetRegs_canonical (c : CtxId) (sc : Nat) (hs : Canonical s) : Canonical (meetRegs c sc s) := by
  grind [meetRegs, !meetWindow_canonical, !foldl_canonical]

theorem disagreement_canonical (c : CtxId) (bundle : Word) (tile g : Nat) (named op : Nat) (sigP sigS : Word) (hs : Canonical s) :
    Canonical (disagreement c bundle tile g named op sigP sigS s) := by
  grind [disagreement, !modStack_canonical, !logEntry_canonical]

/-! ## Machine/Matrix -/

theorem enqueue_canonical (kind : MatKind) (p : Nat) (tok : Tokens) (hs : Canonical s) : Canonical (enqueue kind p tok s) := by
  grind [enqueue, !setTile_canonical, !modCore_canonical, !produceTok_canonical, !bump_canonical]

theorem execMma_canonical (td : TR) (aA aB aS : AR) (z : Bool) (tok : Tokens) (hs : Canonical s) :
    CanonicalRes (execMma td aA aB aS z tok s) := by
  grind [execMma, CanonicalRes, !needCompute_canonical, !reserved_canonical, !needTile_canonical, !needTokens_canonical, !guardRegs_canonical,
    !trapAt_canonical, !stall_canonical, !enqueue_canonical]

theorem execTld_canonical (td : TR) (a : AR) (tok : Tokens) (hs : Canonical s) : CanonicalRes (execTld td a tok s) := by
  grind [execTld, CanonicalRes, !needCompute_canonical, !needTile_canonical, !needTokens_canonical, !guardRegs_canonical, !trapAt_canonical,
    !stall_canonical, !enqueue_canonical]

theorem execTst_canonical (td : TR) (a : AR) (x : SR) (dty : Fin 16) (rnd : Fin 8) (h : Bool) (tok : Tokens) (hs : Canonical s) :
    CanonicalRes (execTst td a x dty rnd h tok s) := by
  grind [execTst, CanonicalRes, !needCompute_canonical, !reserved_canonical, !needTile_canonical, !needTokens_canonical, !guardRegs_canonical,
    !trapAt_canonical, !stall_canonical, !modCore_canonical, !produceTok_canonical, !bump_canonical]

theorem execTzero_canonical (td : TR) (hs : Canonical s) : CanonicalRes (execTzero td s) := by
  grind [execTzero, CanonicalRes, !needCompute_canonical, !needTile_canonical, !stall_canonical, !meetTile_canonical, !setTile_canonical]

theorem execTrd_canonical (vd : VR) (td : TR) (x : SR) (hs : Canonical s) : CanonicalRes (execTrd vd td x s) := by
  grind [execTrd, CanonicalRes, !needCompute_canonical, !needTile_canonical, !guardBounds_canonical, !trapAt_canonical, !guardRegs_canonical,
    !land_canonical, !stall_canonical]

theorem execTwr_canonical (td : TR) (v : VR) (x : SR) (hs : Canonical s) : CanonicalRes (execTwr td v x s) := by
  grind [execTwr, CanonicalRes, !needCompute_canonical, !needTile_canonical, !guardRegs_canonical, !stall_canonical, !meetTile_canonical,
    !setTile_canonical]

theorem execTstat_canonical (d : SR) (td : TR) (c : Bool) (hs : Canonical s) : CanonicalRes (execTstat d td c s) := by
  grind [execTstat, CanonicalRes, !needCompute_canonical, !needTile_canonical, !guardRegs_canonical, !stall_canonical, !land_canonical,
    !setTile_canonical]

theorem execTsig_canonical (d : SR) (td : TR) (sel : Fin 16) (hs : Canonical s) : CanonicalRes (execTsig d td sel s) := by
  grind [execTsig, CanonicalRes, !needCompute_canonical, !reserved_canonical, !needTile_canonical, !guardRegs_canonical, !stall_canonical,
    !trapAt_canonical, !land_canonical]

theorem modOp_canonical (core id : Nat) (f : MatOp → MatOp) (hs : Canonical s) : Canonical (modOp core id f s) := by
  grind [modOp, !modCore_canonical]

theorem modStore_canonical (core id : Nat) (f : TileStore → TileStore) (hs : Canonical s) : Canonical (modStore core id f s) := by
  grind [modStore, !modCore_canonical]

theorem reach_canonical (t : Nat) (hs : Canonical s) : Canonical (reach t s) := by
  grind [reach, canonical_iff]

theorem failStart_canonical (core : Nat) (o : MatOp) (cause : BitVec 8) (hs : Canonical s) : Canonical (failStart core o cause s) := by
  grind [failStart, !modOp_canonical, !engineFault_canonical, !clearTok_canonical]

theorem execEngineOperationStart_canonical (hs : Canonical s) : CanonicalRes (execEngineOperationStart s) := by
  grind [execEngineOperationStart, CanonicalRes, !reach_canonical, !failStart_canonical, !modOp_canonical]

theorem writeGroup_canonical (core : Nat) (o : MatOp) (hs : Canonical s) : Canonical (writeGroup core o s) := by
  grind [writeGroup, !setTile_canonical, !meetWindow_canonical, !modOp_canonical]

theorem toLantern_canonical (b : Arb) (hs : Canonical s) : Canonical (toLantern b s) := by
  grind [toLantern, !modCluster_canonical]

theorem execRowGroupCheck_canonical (hs : Canonical s) : CanonicalRes (execRowGroupCheck s) := by
  grind [execRowGroupCheck, CanonicalRes, !reach_canonical, !writeGroup_canonical, !toLantern_canonical, !modOp_canonical]

theorem spoilChained_canonical (core : Nat) (e : MatOp) (hs : Canonical s) : Canonical (spoilChained core e s) := by
  grind [spoilChained, !modOp_canonical]

theorem execEngineOperationCompletion_canonical (hs : Canonical s) : CanonicalRes (execEngineOperationCompletion s) := by
  grind [execEngineOperationCompletion, CanonicalRes, !reach_canonical, !setTile_canonical, !modCore_canonical, !endOp_canonical,
    !clearTok_canonical, !countWork_canonical, !spoilChained_canonical, !failStart_canonical, !foldl_canonical]

theorem execTstDrainStart_canonical (hs : Canonical s) : CanonicalRes (execTstDrainStart s) := by
  grind [execTstDrainStart, CanonicalRes, !modCore_canonical, !engineFault_canonical, !endOp_canonical, !clearTok_canonical, !modStore_canonical]

theorem execTstRowGroupCompare_canonical (hs : Canonical s) : CanonicalRes (execTstRowGroupCompare s) := by
  grind [execTstRowGroupCompare, CanonicalRes, !reach_canonical, !modStore_canonical, !toLantern_canonical]

theorem execTstCommit_canonical (hs : Canonical s) : CanonicalRes (execTstCommit s) := by
  grind [execTstCommit, CanonicalRes, !reach_canonical, !modCore_canonical, !meetLocal_canonical, !forgetReleases_canonical, !markSpm_canonical,
    !spmWrite_canonical, !countWork_canonical, !endOp_canonical, !clearTok_canonical, !foldl_canonical]

theorem standing_canonical (b : Arb) (hs : Canonical s) : Canonical (standing b s) := by
  grind [standing, !modStore_canonical, !modOp_canonical, !writeGroup_canonical]

theorem unresolved_canonical (b : Arb) (hs : Canonical s) : Canonical (unresolved b s) := by
  grind [unresolved, !setTile_canonical, !engineFault_canonical, !modCore_canonical, !endOp_canonical, !clearTok_canonical, !modOp_canonical]

theorem execLanternArbitration_canonical (hs : Canonical s) : CanonicalRes (execLanternArbitration s) := by
  grind [execLanternArbitration, CanonicalRes, canonical_iff, !modCluster_canonical, !disagreement_canonical, !countWork_canonical,
    !standing_canonical, !unresolved_canonical]

/-! ## Machine/Copy -/

theorem markWin_canonical (w : WinAddr) (bad whole : Bool) (hs : Canonical s) : Canonical (markWin w bad whole s) := by
  grind [markWin, !modCtx_canonical, !setTile_canonical]

theorem winWrite_canonical (w : WinAddr) (bs : List (Byte × Bool)) (hs : Canonical s) : Canonical (winWrite w bs s) := by
  grind [winWrite, !markWin_canonical, !modCtx_canonical, !setTile_canonical]

theorem openWindow_canonical (id : Nat) (tok : Option KR) (D n : Nat) (hs : Canonical s) : Canonical (openWindow id tok D n s) := by
  grind [openWindow, !modCtx_canonical]

theorem enterCopy_canonical (kind : CopyKind) (dsp ssp : Nat) (D S n : Word) (opt : EngOpt) (cb : Option Word) (tok : Tokens) (hs : Canonical s) :
    Canonical (enterCopy kind dsp ssp D S n opt cb tok s) := by
  unfold enterCopy
  extract_lets c id op t u v
  have ht : Canonical t := by grind [!modCluster_canonical]
  have hu : Canonical u := by grind [!openWindow_canonical]
  have hv : Canonical v := produceTok_canonical _ _ (bump_canonical hu)
  exact ⟨hv.1, hv.2, hv.3⟩

theorem issueCopy_canonical (kind : CopyKind) (ad as_ : AR) (x : SR) (dsp ssp : Fin 8) (opt : EngOpt) (tok : Tokens) (hs : Canonical s) :
    CanonicalRes (issueCopy kind ad as_ x dsp ssp opt tok s) := by
  grind [issueCopy, CanonicalRes, !needCompute_canonical, !reserved_canonical, !needTokens_canonical, !guardRegs_canonical, !trapAt_canonical,
    !stall_canonical, !enterCopy_canonical]

theorem execGath_canonical (ad aT aI : AR) (x : SR) (rl : Fin 32) (opt : EngOpt) (tok : Tokens) (hs : Canonical s) :
    CanonicalRes (execGath ad aT aI x rl opt tok s) := by
  grind [execGath, CanonicalRes, !needCompute_canonical, !reserved_canonical, !needTokens_canonical, !guardRegs_canonical, !trapAt_canonical,
    !stall_canonical, !enterCopy_canonical]

theorem modCopy_canonical (clu id : Nat) (f : CopyOp → CopyOp) (hs : Canonical s) : Canonical (modCopy clu id f s) := by
  grind [modCopy, !modCluster_canonical]

theorem raceOn_canonical (o : CopyOp) (a : Acc) (va u : Nat) (x : Touch) (hs : Canonical s) : Canonical (raceOn o a va u x s) := by
  grind [raceOn, !taskFault_canonical, !raceRecord_canonical]

theorem postEngine_canonical (o : CopyOp) (va : Nat) (code : BitVec 8) (hs : Canonical s) : Canonical (postEngine o va code s) := by
  grind [postEngine, !postRecord_canonical]

theorem readPiece_canonical (o : CopyOp) (va k : Nat) (hs : Canonical s) : CanonicalMoved (readPiece o va k s) := by
  grind [readPiece, CanonicalPerf, CanonicalMoved, !readMarked_canonical, !raceOn_canonical, !taskFault_canonical]

theorem readSpace_canonical (o : CopyOp) (sp a k : Nat) (hs : Canonical s) : CanonicalMoved (readSpace o sp a k s) := by
  unfold readSpace
  split
  case h_3 => exact readPiece_canonical _ _ _ hs
  case h_4 => 
   extract_lets at_
   clear_value at_
   grind [CanonicalMoved, !readPiece_canonical, !retain_canonical]
  all_goals grind [CanonicalMoved]

theorem bouncePiece_canonical (o : CopyOp) (n : Fin 8) (key : Option Nat) (short hw : Bool) (va : Nat) (bs : List (Byte × Bool))
    (hs : Canonical s) : CanonicalMoved (bouncePiece o n key short hw va bs s) := by
  grind [bouncePiece, CanonicalMoved, !noteHostWrite_canonical, !renameWaiter_canonical, !forgetReleases_canonical, !addBounce_canonical,
    !strikeBounce_canonical, !bump_canonical, !setDir_canonical]

theorem writePiece_canonical (o : CopyOp) (va : Nat) (bs : List (Byte × Bool)) (hs : Canonical s) : CanonicalMoved (writePiece o va bs s) := by
  grind [writePiece, CanonicalPerf, CanonicalMoved, write_wf, !meetGlobal_canonical, !writeGlobal_canonical, !poisonPiece_canonical,
    !bouncePiece_canonical, !postEngine_canonical, !translate_canonical, !raceOn_canonical, !taskFault_canonical, !sendMarked_canonical]

theorem writeSpace_canonical (o : CopyOp) (sp a : Nat) (bs : List (Byte × Bool)) (hs : Canonical s) :
    CanonicalMoved (writeSpace o sp a bs s) := by
  unfold writeSpace
  split
  case h_3 => exact writePiece_canonical _ _ _ hs
  all_goals grind [CanonicalMoved, !meetLocal_canonical, !forgetReleases_canonical, !putMarked_canonical, !winWrite_canonical,
      !meetWindow_canonical, !writePiece_canonical, !sendMarked_canonical]

theorem runCopy_canonical (o : CopyOp) (fuel i : Nat) (hs : Canonical s) : CanonicalMoved (runCopy o fuel i s).2 := by
  induction fuel generalizing i s with
  | zero => exact hs
  | succ n ih =>
    grind [runCopy, CanonicalMoved, !readSpace_canonical, !writeSpace_canonical]

theorem gatherRow_canonical (o : CopyOp) (table w : Nat) (i x : Nat) (fuel j : Nat) (hs : Canonical s) :
    CanonicalMoved (gatherRow o table w i x fuel j s).2 := by
  induction fuel generalizing j s with
  | zero => exact hs
  | succ n ih =>
    grind [gatherRow, CanonicalMoved, !readPiece_canonical, !writeSpace_canonical]

theorem runGather_canonical (o : CopyOp) (table w : Nat) (xs : List Nat) (fuel p : Nat) (hs : Canonical s) :
    CanonicalMoved (runGather o table w xs fuel p s).2 := by
  induction fuel generalizing p s with
  | zero => exact hs
  | succ n ih =>
    have h := fun i x k p => gatherRow_canonical o table w i x k p hs
    unfold runGather
    split
    · exact hs
    extract_lets i
    have h := h i (xs.getD i 0) (w / 4 + 1) (p % w)
    split
    · rename_i e; rw [e] at h; exact ih _ h
    · rename_i e; rw [e] at h; exact h

theorem readIndex_canonical (o : CopyOp) (n i : Nat) (hs : Canonical s) : CanonicalMoved (readIndex o n i s) := by
  induction n generalizing i s with
  | zero => exact hs
  | succ k ih =>
    grind [readIndex, CanonicalMoved, !readSpace_canonical]

theorem readAll_canonical (o : CopyOp) (fuel i : Nat) (hs : Canonical s) : CanonicalMoved (readAll o fuel i s) := by
  induction fuel generalizing i s with
  | zero => exact hs
  | succ n ih =>
    grind [readAll, CanonicalMoved, !readSpace_canonical]

theorem writeAll_canonical (o : CopyOp) (bs : List (Byte × Bool)) (fuel i : Nat) (hs : Canonical s) :
    CanonicalMoved (writeAll o bs fuel i s).2 := by
  induction fuel generalizing i s with
  | zero => exact hs
  | succ n ih =>
    grind [writeAll, CanonicalMoved, !writeSpace_canonical]

theorem settleRun_canonical (clu : Nat) (o : CopyOp) (r : Nat × Moved Unit) (hr : CanonicalMoved r.2) : Canonical (settleRun clu o r) := by
  grind [settleRun, CanonicalMoved, !modCopy_canonical, !postEngine_canonical]

theorem takeTile_canonical (o : CopyOp) (w : WinAddr) (hs : Canonical s) : Canonical (takeTile o w s) := by
  grind [takeTile, !setTile_canonical]

theorem leaveTile_canonical (o : CopyOp) (hs : Canonical s) : Canonical (leaveTile o s) := by
  grind [leaveTile, !modCore_canonical]

theorem startGather_canonical (clu : Nat) (o : CopyOp) (rl table : Nat) (hs : Canonical s) : Canonical (startGather clu o rl table s) := by
  grind [startGather, CanonicalMoved, !settleRun_canonical, !runGather_canonical, !readIndex_canonical, !modCopy_canonical]

theorem execCopyStart_canonical (hs : Canonical s) : CanonicalRes (execCopyStart s) := by
  grind [execCopyStart, CanonicalRes, CanonicalMoved, !modCopy_canonical, !takeTile_canonical, !settleRun_canonical, !runCopy_canonical,
    !startGather_canonical]

theorem undoCopy_canonical (o : CopyOp) (hs : Canonical s) : Canonical (undoCopy o s) := by
  grind [undoCopy, canonical_iff, write_wf, !modTask_canonical, !recomputeKey_canonical, !foldl_canonical]

theorem keepPlace_canonical (o : CopyOp) {t : State} (hs : Canonical s) : Canonical (keepPlace o t s) := by
  grind [keepPlace, !kickSump_canonical, !modStack_canonical, !foldl_canonical]

theorem holdBack_canonical (clu : Nat) (o : CopyOp) {t : State} (hs : Canonical t) : Canonical (holdBack clu o s t) := by
  grind [holdBack, !modCopy_canonical, !modDev_canonical]

theorem writeHeld_canonical (clu : Nat) (o : CopyOp) (bs : List (Byte × Bool)) (hs : Canonical s) : Canonical (writeHeld clu o bs s) := by
  grind [writeHeld, CanonicalMoved, !modCopy_canonical, !writeAll_canonical, !settleRun_canonical, !holdBack_canonical, !keepPlace_canonical]

theorem execCpyxAttempt_canonical (hs : Canonical s) : CanonicalRes (execCpyxAttempt s) := by
  grind [execCpyxAttempt, CanonicalRes, CanonicalMoved, !writeHeld_canonical, !readAll_canonical, !countWork_canonical, !modCopy_canonical,
    !settleRun_canonical]

theorem arrival_canonical (o : CopyOp) (va : Nat) (hs : Canonical s) : CanonicalArrived (arrival o va s) := by
  grind [arrival, CanonicalPerf, CanonicalArrived, write_wf, !homeRmw_canonical, !meetGlobal_canonical, !noteHostWrite_canonical,
    !translate_canonical, !sendRemote_canonical]

theorem finishCopy_canonical (clu : Nat) (o : CopyOp) (arrivedAt : Option Nat) (report : Option (BitVec 8)) (hs : Canonical s) :
    Canonical (finishCopy clu o arrivedAt report s) := by
  grind [finishCopy, !report_canonical, !postRecord_canonical, !leaveTile_canonical, !modCtx_canonical, !modCluster_canonical,
    !dropWaiters_canonical, !endOp_canonical, !clearTok_canonical, !engineFault_canonical]

theorem spoilPart_canonical (o : CopyOp) (lo n : Nat) (hs : Canonical s) : Canonical (spoilPart o lo n s) := by
  grind [spoilPart, CanonicalMoved, write_wf, !writeSpace_canonical, !translate_canonical, !foldl_canonical]

theorem spoilDest_canonical (o : CopyOp) (hs : Canonical s) : Canonical (spoilDest o s) := by
  grind [spoilDest, !spoilPart_canonical, !foldl_canonical]

theorem arriveCopy_canonical (clu : Nat) (o : CopyOp) (va : Nat) (hs : Canonical s) : Canonical (arriveCopy clu o va s) := by
  grind [arriveCopy, CanonicalArrived, !arrival_canonical, !finishCopy_canonical, !noteClock_canonical, !modCopy_canonical, !postEngine_canonical]

theorem execCopyArrival_canonical (hs : Canonical s) : CanonicalRes (execCopyArrival s) := by
  grind [execCopyArrival, CanonicalRes, !modCopy_canonical, !sendMarked_canonical, !spoilDest_canonical, !finishCopy_canonical,
    !arriveCopy_canonical, !foldl_canonical]

theorem dropBounced_canonical (o : CopyOp) (hs : Canonical s) : Canonical (dropBounced o s) := by
  grind [dropBounced, !undoCopy_canonical, !mapBounce_canonical, !foldl_canonical]

theorem declineCopy_canonical (clu : Nat) (o : CopyOp) (hs : Canonical s) : Canonical (declineCopy clu o s) := by
  grind [declineCopy, !modCopy_canonical, !finishCopy_canonical, !dropBounced_canonical]

theorem failOp_canonical (c : CtxId) (id : Nat) (quiet : Bool) (code : BitVec 8) (hs : Canonical s) : Canonical (failOp c id quiet code s) := by
  grind [failOp, !dropBounced_canonical, !modCopy_canonical]

theorem execEventRecordPost_canonical (hs : Canonical s) : CanonicalRes (execEventRecordPost s) := by
  grind [execEventRecordPost, CanonicalRes, !modCluster_canonical]

/-! ## Machine/Retry -/

theorem dropEntry_canonical (n : Fin 8) (e : Bounce) (hs : Canonical s) : Canonical (dropEntry n e s) := by
  grind [dropEntry, !mapBounce_canonical]

theorem putEntry_canonical (a : Acc) (plain : Bool) (block : Nat) (e : Bounce) (hs : Canonical s) : Canonical (putEntry a plain block e s) := by
  grind [putEntry, canonical_iff, !committedStore_canonical, !versionStore_canonical, !modTask_canonical, !foldl_canonical]

theorem forgetBlock_canonical (block : Nat) (hs : Canonical s) : Canonical (forgetBlock block s) := by
  grind [forgetBlock, canonical_iff]

theorem touchEntry_canonical (a : Acc) (block : Nat) (e : Bounce) (hs : Canonical s) : Canonical (touchEntry a block e s) := by
  grind [touchEntry, !touch_canonical, !foldl_canonical]

theorem applyEntry_canonical (n : Fin 8) (e : Bounce) (hs : Canonical s) : Canonical (applyEntry n e s) := by
  have h := translate_canonical (bounceAcc s n e) .write e.va hs
  unfold applyEntry
  extract_lets a
  split <;> rename_i eq <;> rw [eq] at h
  · extract_lets block plain full u w
    have hu : Canonical u := by grind [!touchEntry_canonical]
    have hw : Canonical w := forgetBlock_canonical _ (putEntry_canonical _ _ _ _ hu)
    clear_value full u w
    split
    · exact taskFault_canonical _ _ (raceRecord_canonical _ _ _ _ (failOp_canonical _ _ _ _ (dropEntry_canonical _ _ h)))
    split
    · exact taskFault_canonical _ _ (failOp_canonical _ _ _ _ (dropEntry_canonical _ _ h))
    split
    · have hx := expandFor_canonical a.unit ‹Fin 8› ‹Nat› hu hw
      grind [CanonicalExcept, !recompute_canonical, !dropEntry_canonical, !mapBounce_canonical, !setDir_canonical]
    · refine dropEntry_canonical _ _ ?_
      split
      · exact foldl_canonical (fun _ r h => sendMarked_canonical _ _ _ _ _ h) _ hu
      · exact hw
    · exact dropEntry_canonical _ _ hw
  · exact failOp_canonical _ _ _ _ (dropEntry_canonical _ _ h)
  · exact failOp_canonical _ _ _ _ (dropEntry_canonical _ _ h)
  · exact h

theorem applyEntries_canonical (n : Fin 8) (f : Bounce → Bool) (hs : Canonical s) : Canonical (applyEntries n f s) := by
  grind [applyEntries, !applyEntry_canonical, !foldl_canonical]

theorem physLine_canonical (unit : Waiter) (pa : Nat) (bs : List Byte) (hs : Canonical s) :
    CanonicalExcept Canonical (physLine unit pa bs s) := by
  unfold physLine
  split
  · exact CanonicalExcept_map (expandFor_canonical unit _ _ hs (committedStore_canonical pa bs (strikeAt_canonical pa bs.length hs)))
      fun t ht => recompute_canonical _ _ ht
  · exact committedStore_canonical _ _ (strikeAt_canonical _ _ hs)
  · exact sumpStore_canonical _ _ _ hs
  · exact hs

theorem physWrite_canonical (unit : Waiter) (fuel pa : Nat) (bs : List Byte) (hs : Canonical s) :
    CanonicalExcept Canonical (physWrite unit fuel pa bs s) := by
  induction fuel generalizing pa bs s with
  | zero => exact hs
  | succ n ih =>
    grind [physWrite, CanonicalExcept, !physLine_canonical]

theorem physPut_canonical (unit : Waiter) (pa : Nat) (bs : List Byte) (hs : Canonical s) : CanonicalExcept Canonical (physPut unit pa bs s) := by
  grind [physPut, CanonicalExcept, !physWrite_canonical]

theorem deviceTry_canonical (w : Owed) (hs : Canonical s) : CanonicalPerf (deviceTry w s) := by
  grind [deviceTry, CanonicalPerf, CanonicalExcept, !physPut_canonical, !writeGlobal_canonical]

theorem joinQueue_canonical (w : Owed) (hs : Canonical s) : Canonical (joinQueue w s) := by
  grind [joinQueue, !kickSump_canonical, !modStack_canonical]

theorem deviceWrite_canonical (use : OwedFor) (who : CtxId) (direct : Bool) (pt : Word) (asid : BitVec 16) (va : Nat) (bs : List Byte)
    (hs : Canonical s) : Canonical (deviceWrite use who direct pt asid va bs s) := by
  grind [deviceWrite, CanonicalPerf, !modDev_canonical, !bump_canonical, !joinQueue_canonical, !deviceTry_canonical, !sendRemote_canonical]

theorem tryOwed_canonical (f : Owed → Bool) (l kept made : List Owed) (hs : Canonical s) : Canonical (tryOwed f l kept made s) := by
  induction l generalizing kept made s with
  | nil => exact modDev_canonical _ hs
  | cons e l ih => grind [tryOwed, CanonicalPerf, !deviceTry_canonical, !sendRemote_canonical]

theorem retryOwed_canonical (f : Owed → Bool) (hs : Canonical s) : Canonical (retryOwed f s) := by
  grind [retryOwed, !tryOwed_canonical]

theorem retryArrival_canonical (g : Nat) (o : CopyOp) (hs : Canonical s) : Canonical (retryArrival g o s) := by
  grind [retryArrival, !arriveCopy_canonical, !modCopy_canonical]

theorem retryUnit_canonical (u : Waiter) (hs : Canonical s) : Canonical (retryUnit u s) := by
  cases u <;> grind [retryUnit, !replayHead_canonical, !releaseUnit_canonical, !applyEntry_canonical, !retryArrival_canonical, !retryOwed_canonical]

theorem serve_canonical (n : Fin 8) (fuel : Nat) (hs : Canonical s) : Canonical (serve n fuel s) := by
  induction fuel generalizing s with
  | zero => exact hs
  | succ k ih =>
    grind [serve, !retryUnit_canonical, !dropWaiter_canonical]

theorem serveStack_canonical (n : Fin 8) (hs : Canonical s) : Canonical (serveStack s n) := by
  grind [serveStack, !serve_canonical]

theorem serveAll_canonical (hs : Canonical s) : Canonical (serveAll s) := by
  grind [serveAll, !serveStack_canonical, !foldl_canonical]

theorem tellShort_canonical (n : Fin 8) (u : Waiter) (hs : Canonical s) : Canonical (tellShort n u s) := by
  unfold tellShort
  extract_lets t
  have ht : Canonical t := modStack_canonical _ _ hs
  clear_value t
  cases u <;> grind [!report_canonical, !postRecord_canonical, !postEngine_canonical]

theorem execSumpInflation_canonical (hs : Canonical s) : CanonicalRes (execSumpInflation s) := by
  grind [execSumpInflation, CanonicalRes, !serveStack_canonical, !inflateOne_canonical, !tellShort_canonical, !modStack_canonical]

theorem execSumpCtlEn_canonical (hs : Canonical s) : CanonicalRes (execSumpCtlEn s) := by
  grind [execSumpCtlEn, CanonicalRes, !sumpEnable_canonical]

theorem execSumpCtlRetry_canonical (hs : Canonical s) : CanonicalRes (execSumpCtlRetry s) := by
  grind [execSumpCtlRetry, CanonicalRes, !serveStack_canonical, !modStack_canonical]

theorem retryHeld_canonical (f : Covers) (hs : Canonical s) : Canonical (retryHeld f s) := by
  grind [retryHeld, !releaseUnit_canonical, !foldl_canonical]

theorem retryLogs_canonical (f : Covers) (hs : Canonical s) : Canonical (retryLogs f s) := by
  grind [retryLogs, !modCore_canonical, !foldl_canonical]

theorem retryEngines_canonical (f : Covers) (hs : Canonical s) : Canonical (retryEngines f s) := by
  grind [retryEngines, canonical_iff, !applyEntries_canonical, !foldl_canonical]

theorem retryCovered_canonical (f : Covers) (hs : Canonical s) : Canonical (retryCovered f s) := by
  grind [retryCovered, !retryOwed_canonical, !retryEngines_canonical, !retryLogs_canonical, !retryHeld_canonical]

/-! ## Machine/Tasks -/

theorem needPriv_canonical (r : Runs) (k : State → Res) (hs : Canonical s) (hk : ∀ t, Canonical t → CanonicalRes (k t)) :
    CanonicalRes (needPriv r s k) := by
  unfold needPriv
  extract_lets fits
  clear_value fits
  grind [!privileged_canonical]

theorem sysRead_canonical (va n : Nat) (k : State → List Byte → Res) (hs : Canonical s) (hk : ∀ t, Canonical t → ∀ x, CanonicalRes (k t x)) :
    CanonicalRes (sysRead va n s k) := by
  grind [sysRead, CanonicalRes, CanonicalPerf, !readGlobal_canonical, !sysFault_canonical]

theorem placePatches.patch_canonical (a : Acc) (p : Nat × List Byte) (hs : Canonical s) :
    CanonicalExcept Canonical (placePatches.patch a s p) := by
  have h := translate_canonical a .read p.1 hs
  grind [placePatches.patch, !physPut_canonical, CanonicalExcept]

theorem placePatches_canonical (a : Acc) (m : Image) (hs : Canonical s) : CanonicalExcept Canonical (placePatches a m s) := 
  foldlM_canonical (fun _ p h => placePatches.patch_canonical a p h) _ hs

theorem loadImage.placed_canonical (a : Acc) (m : Image) (hs : Canonical s) :
    CanonicalExcept (fun x => Canonical x.1) (loadImage.placed a m s) :=
  CanonicalExcept_map (placePatches_canonical a m hs) fun _ h => h

theorem loadImage.readImage_canonical (at_ : Nat) (a : Acc) (head : List Byte) (hs : Canonical s) :
    CanonicalExcept (fun x => Canonical x.1) (loadImage.readImage at_ a head s) := by
  grind [loadImage.readImage, CanonicalPerf, CanonicalExcept, canonical_iff, !readGlobal_canonical, !loadImage.placed_canonical]

theorem loadImage_canonical (at_ : Nat) (hs : Canonical s) : CanonicalExcept (fun x => Canonical x.1) (loadImage at_ s) := by
  grind [loadImage, CanonicalPerf, CanonicalExcept, !readGlobal_canonical, !loadImage.placed_canonical, !loadImage.readImage_canonical]

theorem execTlaunch_canonical (d : SR) (a : AR) (hs : Canonical s) : CanonicalRes (execTlaunch d a s) := by
  grind [execTlaunch, CanonicalRes, CanonicalExcept, canonical_iff, !needPriv_canonical, !guardRegs_canonical, !trapAt_canonical,
    !sysRead_canonical, !loadImage_canonical, !stall_canonical, !land_canonical, !modDev_canonical]

theorem writeRecord_canonical (t : Task) (hs : Canonical s) : Canonical (writeRecord t s) := by
  grind [writeRecord, !deviceWrite_canonical, !foldl_canonical]

theorem execDispatch_canonical (hs : Canonical s) : CanonicalRes (execDispatch s) := by
  grind [execDispatch, CanonicalRes, !writeRecord_canonical, !postTask_canonical, !modTask_canonical, !foldl_canonical]

theorem execTaskAging_canonical (hs : Canonical s) : CanonicalRes (execTaskAging s) := by
  grind [execTaskAging, CanonicalRes, !reach_canonical, !modTask_canonical]

theorem execTaskBlocking_canonical (hs : Canonical s) : CanonicalRes (execTaskBlocking s) := by
  grind [execTaskBlocking, CanonicalRes, canonical_iff, !reach_canonical]

theorem freeCtx_canonical (c : CtxId) (hs : Canonical s) : Canonical (freeCtx c s) := by
  grind [freeCtx, !modCtx_canonical, !foldl_canonical]

theorem dropChans_canonical (id : Nat) (hs : Canonical s) : Canonical (dropChans id s) := by
  grind [dropChans, canonical_iff]

theorem flushHist_canonical (core id : Nat) (hs : Canonical s) : Canonical (flushHist core id s) := by
  grind [flushHist, !logEntry_canonical, !modCore_canonical, !foldl_canonical]

theorem noteVariant_canonical (t : Task) (hs : Canonical s) : Canonical (noteVariant t s) := by
  grind [noteVariant, !modDev_canonical]

theorem execTaskCompletion_canonical (hs : Canonical s) : CanonicalRes (execTaskCompletion s) := by
  grind [execTaskCompletion, CanonicalRes, !serveAll_canonical, !dropVersion_canonical, !flushHist_canonical, !freeCtx_canonical,
    !dropChans_canonical, !noteVariant_canonical, !modTask_canonical, !postTask_canonical, !foldl_canonical]

theorem dropAccesses_canonical (c : CtxId) (hs : Canonical s) : Canonical (dropAccesses c s) := by
  grind [dropAccesses, !modCore_canonical, !releaseUnit_canonical, !pump_canonical]

theorem declineAll_canonical (c : CtxId) (hs : Canonical s) : Canonical (declineAll c s) := by
  grind [declineAll, !declineCopy_canonical, !foldl_canonical]

theorem killCtx_canonical (c : CtxId) (post : Option (BitVec 8 × BitVec 8)) (hs : Canonical s) : Canonical (killCtx c post s) := by
  grind [killCtx, !leaveBarriers_canonical, !closeAll_canonical, !modCtx_canonical, !dropAccesses_canonical, !declineAll_canonical,
    !postCtx_canonical]

theorem doom_canonical (id : Nat) (code : BitVec 8) (hs : Canonical s) : Canonical (doom id code s) := by
  grind [doom, !modTask_canonical]

theorem clearRun_canonical (id : Nat) (post : Option (BitVec 8 × BitVec 8)) (hs : Canonical s) : Canonical (clearRun id post s) := by
  grind [clearRun, !freeCtx_canonical, !killCtx_canonical, !dropChans_canonical, !foldl_canonical]

theorem dropReplay_canonical (id k : Nat) (hs : Canonical s) : Canonical (dropReplay id k s) := by
  grind [dropReplay, canonical_iff, !dropVersion_canonical, !clearRun_canonical]

theorem dropReplays_canonical (id : Nat) (hs : Canonical s) : Canonical (dropReplays id s) := by
  grind [dropReplays, !dropReplay_canonical]

theorem requeue_canonical (id pri : Nat) (retry : Bool) (hs : Canonical s) : Canonical (requeue id pri retry s) := by
  grind [requeue, !dropReplays_canonical, !clearRun_canonical, !dropVersion_canonical, !modTask_canonical]

theorem killTask_canonical (id : Nat) (hs : Canonical s) : Canonical (killTask id s) := by
  grind [killTask, !killCtx_canonical, !dropVersion_canonical, !modTask_canonical, !doom_canonical, !dropReplays_canonical, !foldl_canonical]

theorem abortTask_canonical (rerun : Bool) (x : SR) (hs : Canonical s) : CanonicalRes (abortTask rerun x s) := by
  grind [abortTask, CanonicalRes, canonical_iff, !guardRegs_canonical, !protection_canonical, !postTask_canonical, !serveAll_canonical,
    !requeue_canonical, !killTask_canonical]

theorem execTabortKill_canonical (x : SR) (k : Fin 4) (hs : Canonical s) : CanonicalRes (execTabortKill x k s) := by
  grind [execTabortKill, CanonicalRes, !needPriv_canonical, !protection_canonical, !abortTask_canonical]

theorem commitBounce_canonical (t : Task) (hs : Canonical s) : Canonical (commitBounce t s) := by
  grind [commitBounce, !mapBounce_canonical, !bump_canonical, !foldl_canonical]

theorem commitBytes_canonical (t : Task) (hs : Canonical s) : Canonical (commitBytes t s) := by
  grind [commitBytes, canonical_iff, write_wf, !sendMarked_canonical, !foldl_canonical]

theorem commitTask_canonical (t : Task) (hs : Canonical s) : Canonical (commitTask t s) := by
  grind [commitTask, canonical_iff, !dropVersion_canonical, !commitBounce_canonical, !commitBytes_canonical, !commitReleases_canonical,
    !recomputeKey_canonical, !serveAll_canonical, !requeue_canonical, !foldl_canonical]

theorem execTcommit_canonical (x : SR) (hs : Canonical s) : CanonicalRes (execTcommit x s) := by
  grind [execTcommit, CanonicalRes, !needPriv_canonical, !guardRegs_canonical, !protection_canonical, !stall_canonical, !commitTask_canonical]

theorem jcbUpdate_canonical (a : AR) (x : SR) (f : Nat → Nat → Nat) (release : Bool) (hs : Canonical s) :
    CanonicalRes (jcbUpdate a x f release s) := by
  grind [jcbUpdate, CanonicalRes, CanonicalPerf, write_wf, !guardRegs_canonical, !trapAt_canonical, !stall_canonical, !homeRmw_canonical,
    !publish_canonical, !sysFault_canonical, !sysShort_canonical, !sendRemote_canonical]

/-! ## Machine/Start -/

theorem needUser_canonical (v : Word) (k : CtxId → Res) (hs : Canonical s) (hk : ∀ x, CanonicalRes (k x)) : CanonicalRes (needUser v s k) := by
  grind [needUser, CanonicalRes, !protection_canonical]

theorem needCtl_canonical (v : Word) (k : CtxId → Res) (hs : Canonical s) (hk : ∀ x, CanonicalRes (k x)) : CanonicalRes (needCtl v s k) := by
  grind [needCtl, CanonicalRes, !protection_canonical]

theorem needTarget_canonical (v : Word) (k : CtxId → Res) (hs : Canonical s) (hk : ∀ x, CanonicalRes (k x)) :
    CanonicalRes (needTarget v s k) := by
  grind [needTarget, CanonicalRes, !needCtl_canonical, !needUser_canonical]

theorem bindEntry_canonical (c : CtxId) (t : Task) (e d : ChanRec) (hs : Canonical s) : Canonical (bindEntry c t e d s) := by
  grind [bindEntry, canonical_iff, !modCtx_canonical, !setChan_canonical]

theorem bindChans_canonical (c : CtxId) (t : Task) (hs : Canonical s) : Canonical (bindChans c t s) := by
  grind [bindChans, canonical_iff, !bindEntry_canonical, !modCtx_canonical, !foldl_canonical]

theorem forgetTokens_canonical (c : CtxId) (hs : Canonical s) : Canonical (forgetTokens c s) := by
  grind [forgetTokens, canonical_iff]

theorem zeroSpace_canonical (core tbase : Nat) (tiles soff scr : Nat) (hs : Canonical s) : Canonical (zeroSpace core tbase tiles soff scr s) := by
  unfold zeroSpace
  extract_lets t lo
  have ht : Canonical t := foldl_canonical (fun u n hu => setTile_canonical _ _ _ hu) _ hs
  exact ⟨ht.1, filter_wf _ ht.2, ht.3⟩

theorem startUser_canonical (c : CtxId) (t : Task) (slot : Nat) (r : SlotRec) (hs : Canonical s) : Canonical (startUser c t slot r s) := by
  grind [startUser, !setCtx_canonical, !zeroSpace_canonical, !forgetTokens_canonical, !modTask_canonical, !modDev_canonical,
    !l1gDropAll_canonical, !bindChans_canonical]

theorem startControl_canonical (c : CtxId) (entry : Word) (hs : Canonical s) : Canonical (startControl c entry s) := by
  grind [startControl, !modDev_canonical, !setCtx_canonical]

theorem beginSave_canonical (c : CtxId) (hs : Canonical s) : Canonical (beginSave c s) := by
  grind [beginSave, !setCtx_canonical, !leaveRegions_canonical]

theorem beginSaves_canonical (c : CtxId) (hs : Canonical s) : Canonical (beginSaves c s) := by
  grind [beginSaves, !beginSave_canonical, !modCtx_canonical, !foldl_canonical]

theorem execPreemption_canonical (hs : Canonical s) : CanonicalRes (execPreemption s) := by
  grind [execPreemption, CanonicalRes, !beginSaves_canonical]

theorem execSaveAreaWrite_canonical (hs : Canonical s) : CanonicalRes (execSaveAreaWrite s) := by
  grind [execSaveAreaWrite, CanonicalRes, !takeTrap_canonical, !setCtx_canonical, !deviceWrite_canonical, !modTask_canonical, !postCtx_canonical,
    !modCtx_canonical, !foldl_canonical]

theorem execPreemptionLimit_canonical (hs : Canonical s) : CanonicalRes (execPreemptionLimit s) := by
  grind [execPreemptionLimit, CanonicalRes, !killCtx_canonical, !reach_canonical]

theorem execCtxstopSafe_canonical (t : SR) (hs : Canonical s) : CanonicalRes (execCtxstopSafe t s) := by
  grind [execCtxstopSafe, CanonicalRes, !needPriv_canonical, !guardRegs_canonical, !needUser_canonical, !protection_canonical, !modCtx_canonical]

theorem execCtxstopKill_canonical (t : SR) (k : Fin 4) (hs : Canonical s) : CanonicalRes (execCtxstopKill t k s) := by
  grind [execCtxstopKill, CanonicalRes, !needPriv_canonical, !protection_canonical, !guardRegs_canonical, !needUser_canonical, !modCtx_canonical,
    !killCtx_canonical, !doom_canonical]

theorem keepSends_canonical (c : CtxId) (old : List ChanBind) (hs : Canonical s) : Canonical (keepSends c old s) := by
  grind [keepSends, canonical_iff, !modCtx_canonical]

theorem restoreUser_canonical (c : CtxId) (t : Task) (area : Nat) (bs : List Byte) (hs : Canonical s) :
    Canonical (restoreUser c t area bs s) := by
  grind [restoreUser, !modTask_canonical, !setCtx_canonical, !forgetTokens_canonical, !setTile_canonical, !addLate_canonical,
    !keepSends_canonical, !bindChans_canonical, !l1gDropAll_canonical, !foldl_canonical]

theorem restoreRanges_canonical (c : CtxId) (ranges : List (Nat × Nat × List Byte)) (soff scr : Nat) (hs : Canonical s) :
    Canonical (restoreRanges c ranges soff scr s) := by
  grind [restoreRanges, canonical_iff, writeBytes_wf, !spmWrite_canonical, !foldl_canonical]

theorem areaAddr_canonical (a : AR) (k : Nat → Res) (hs : Canonical s) (hk : ∀ x, CanonicalRes (k x)) : CanonicalRes (areaAddr a s k) := by
  grind [areaAddr, CanonicalRes, !trapAt_canonical]

theorem startFromRecord_canonical (c : CtxId) (addr : Nat) (hs : Canonical s) : CanonicalRes (startFromRecord c addr s) := by
  unfold startFromRecord
  refine sysRead_canonical _ _ _ hs fun t ht bs => ?_
  split
  · exact protection_canonical ht
  · extract_lets slot r
    split
    · exact protection_canonical ht
    · exact startUser_canonical _ _ _ _ ht

theorem readRanges_canonical (area : Nat) (l : List (Nat × Nat × Nat)) (acc : List (Nat × Nat × List Byte))
    (k : State → List (Nat × Nat × List Byte) → Res) (hs : Canonical s) (hk : ∀ t, Canonical t → ∀ x, CanonicalRes (k t x)) : CanonicalRes
    (readRanges area l acc s k) := by
  induction l generalizing acc s with
  | nil => exact hk _ hs _
  | cons x l ih => exact sysRead_canonical _ _ _ hs fun t ht bs => ih _ ht

theorem restoreFromArea_canonical (c : CtxId) (addr : Nat) (hs : Canonical s) : CanonicalRes (restoreFromArea c addr s) := by
  unfold restoreFromArea
  refine sysRead_canonical _ _ _ hs fun t ht bs => ?_
  split
  · exact protection_canonical ht
  rename_i tk _
  extract_lets x saved live places
  have h (k) (hk) := readRanges_canonical addr places [] k ht hk
  have hr : ∀ u, Canonical u → ∀ read, CanonicalRes (.next (restoreUser c tk addr bs (restoreRanges c read (imgNat bs 48 4) (imgNat bs 32 4) u))) :=
    fun u hu read => restoreUser_canonical _ _ _ _ (restoreRanges_canonical _ _ _ _ hu)
  have h := h _ hr
  clear_value places
  grind [!protection_canonical, CanonicalRes, !postFault_canonical]

theorem execCtxstart_canonical (t : SR) (a : AR) (hs : Canonical s) : CanonicalRes (execCtxstart t a s) := by
  grind [execCtxstart, CanonicalRes, !needPriv_canonical, !guardRegs_canonical, !needTarget_canonical, !protection_canonical, !areaAddr_canonical,
    !startFromRecord_canonical]

theorem execCtxstartRestore_canonical (t : SR) (a : AR) (hs : Canonical s) : CanonicalRes (execCtxstartRestore t a s) := by
  grind [execCtxstartRestore, CanonicalRes, !needPriv_canonical, !guardRegs_canonical, !needTarget_canonical, !protection_canonical,
    !areaAddr_canonical, !restoreFromArea_canonical]

theorem execCtxstartControlCore_canonical (t : SR) (a : AR) (hs : Canonical s) : CanonicalRes (execCtxstartControlCore t a s) := by
  grind [execCtxstartControlCore, CanonicalRes, !needPriv_canonical, !guardRegs_canonical, !needTarget_canonical, !protection_canonical,
    !startControl_canonical]

theorem execCtxstartR_canonical (t : SR) (hs : Canonical s) : CanonicalRes (execCtxstartR t s) := by
  grind [execCtxstartR, CanonicalRes, !needPriv_canonical, !guardRegs_canonical, !needTarget_canonical, !protection_canonical, !setCtx_canonical]

/-! ## Machine/Audit -/

theorem startReplay_canonical (t : Task) (k : Nat) (gs : List Nat) (xs : List (Nat × SlotRec)) (hs : Canonical s) :
    Canonical (startReplay t k gs xs s) := by
  grind [startReplay, canonical_iff, !modCtx_canonical, !startUser_canonical, !foldl_canonical]

theorem placeLost_canonical (t : Task) (hs : Canonical s) : Canonical (placeLost t s) := by
  grind [placeLost, !abandonAudit_canonical]

theorem seekPlace_canonical (t : Task) (k used : Nat) (next : AuditState) (hs : Canonical s) : Canonical (seekPlace t k used next s) := by
  unfold seekPlace
  split
  · exact placeLost_canonical _ hs
  split
  · exact startReplay_canonical _ _ _ _ (modTask_canonical _ _ hs)
  · exact hs

theorem endAudit_canonical (id : Nat) (hs : Canonical s) : Canonical (endAudit id s) := by
  grind [endAudit, !modTask_canonical]

theorem leaveReplay_canonical (id k : Nat) (hs : Canonical s) : Canonical (leaveReplay id k s) := by
  grind [leaveReplay, !serveAll_canonical, !dropReplay_canonical]

theorem execAuditReplay_canonical (hs : Canonical s) : CanonicalRes (execAuditReplay s) := by
  grind [execAuditReplay, CanonicalRes, !seekPlace_canonical, !abandonAudit_canonical, !leaveReplay_canonical, !endAudit_canonical,
    !modTask_canonical]

theorem execAuditVote_canonical (hs : Canonical s) : CanonicalRes (execAuditVote s) := by
  grind [execAuditVote, CanonicalRes, !seekPlace_canonical, !abandonAudit_canonical, !leaveReplay_canonical, !auditRecord_canonical,
    !taskFault_canonical, !endAudit_canonical, !countEvents_canonical]

theorem execAuditPlacementLimit_canonical (hs : Canonical s) : CanonicalRes (execAuditPlacementLimit s) := by
  grind [execAuditPlacementLimit, CanonicalRes, !placeLost_canonical, !reach_canonical]

/-! ## Machine/Privileged -/

theorem putWatchReg_canonical (sel : Nat) (v : Word) (hs : Canonical s) : Canonical (putWatchReg sel v s) := by
  grind [putWatchReg, !modDev_canonical]

theorem putFeatReg_canonical (sel : Nat) (v : Word) (hs : Canonical s) : Canonical (putFeatReg sel v s) := by
  grind [putFeatReg, !modDev_canonical]

theorem targeted_canonical (t : SR) (sel : Nat) (before : List RegName) (k : CtxId → Res) (hs : Canonical s) (hk : ∀ x, CanonicalRes (k x)) :
    CanonicalRes (targeted t sel before s k) := by
  grind [targeted, CanonicalRes, !protection_canonical, !guardRegs_canonical, !needTarget_canonical]

theorem execGetsys_canonical (d t : SR) (sel : BitVec 12) (hs : Canonical s) : CanonicalRes (execGetsys d t sel s) := by
  grind [execGetsys, CanonicalRes, !reserved_canonical, !needPriv_canonical, !targeted_canonical, !guardRegs_canonical, !land_canonical]

theorem execSetsys_canonical (x t : SR) (sel : BitVec 12) (hs : Canonical s) : CanonicalRes (execSetsys x t sel s) := by
  grind [execSetsys, CanonicalRes, !reserved_canonical, !needPriv_canonical, !targeted_canonical, !guardRegs_canonical, !modCtx_canonical,
    !modDev_canonical, !showTotals_canonical]

theorem execSetsysThreshWindow_canonical (x t : SR) (sel : BitVec 12) (hs : Canonical s) : CanonicalRes (execSetsysThreshWindow x t sel s) := by
  grind [execSetsysThreshWindow, CanonicalRes, !needPriv_canonical, !targeted_canonical, !guardRegs_canonical, !putWatchReg_canonical]

theorem execSetsysFeatack_canonical (x t : SR) (sel : BitVec 12) (hs : Canonical s) : CanonicalRes (execSetsysFeatack x t sel s) := by
  grind [execSetsysFeatack, CanonicalRes, !needPriv_canonical, !targeted_canonical, !guardRegs_canonical, !putFeatReg_canonical]

theorem execEqpop_canonical (pd : PR) (d : SR) (hs : Canonical s) : CanonicalRes (execEqpop pd d s) := by
  grind [execEqpop, CanonicalRes, !needPriv_canonical, !protection_canonical, !guardRegs_canonical, !land_canonical, !modCluster_canonical]

theorem execWfi_canonical (hs : Canonical s) : CanonicalRes (execWfi s) := by
  grind [execWfi, CanonicalRes, canonical_iff, !needPriv_canonical]

theorem takeIrq_canonical (c : CtxId) (hs : Canonical s) : Canonical (takeIrq c s) := by
  grind [takeIrq, !enterHandler_canonical, !modDev_canonical]

theorem dropLeaves_canonical (f : TlbEntry → Bool) (hs : Canonical s) : Canonical (dropLeaves f s) := by
  grind [dropLeaves, canonical_iff]

theorem invalidate_canonical (f : TlbEntry → Bool) (covers : Covers) (hs : Canonical s) : CanonicalRes (invalidate f covers s) := by
  grind [invalidate, CanonicalRes, !stall_canonical, !retryCovered_canonical, !dropLeaves_canonical]

theorem execTlbinvRange_canonical (a : AR) (x q : SR) (hs : Canonical s) : CanonicalRes (execTlbinvRange a x q s) := by
  grind [execTlbinvRange, CanonicalRes, !needPriv_canonical, !guardRegs_canonical, !invalidate_canonical]

theorem execTlbinvAsid_canonical (a : AR) (x q : SR) (hs : Canonical s) : CanonicalRes (execTlbinvAsid a x q s) := by
  grind [execTlbinvAsid, CanonicalRes, !needPriv_canonical, !guardRegs_canonical, !invalidate_canonical]

theorem execTlbinvAll_canonical (kind : Fin 4) (a : AR) (x q : SR) (hs : Canonical s) : CanonicalRes (execTlbinvAll kind a x q s) := by
  grind [execTlbinvAll, CanonicalRes, !needPriv_canonical, !protection_canonical, !invalidate_canonical]

/-! ## Machine/Events -/

theorem bundleDone_canonical (hs : Canonical s) : Canonical (bundleDone s) := by
  grind [bundleDone, canonical_iff]

theorem execGapBundle_canonical (h : Header) (hs : Canonical s) : CanonicalRes (execGapBundle h s) := by
  grind [execGapBundle, CanonicalRes, canonical_iff, !bundleDone_canonical, !finishBundle_canonical]

theorem execSkippedBundle_canonical (h : Header) (hs : Canonical s) : CanonicalRes (execSkippedBundle h s) := by
  grind [execSkippedBundle, CanonicalRes, canonical_iff, !moveOn_canonical, !endIteration_canonical, !bundleDone_canonical]

theorem tracePut_canonical (n : Fin 8) (bs : List Byte) (hs : Canonical s) : Canonical (tracePut n bs s) := by
  grind [tracePut, canonical_iff, writeBytes_wf, !poke_canonical]

theorem traceRecord_canonical (c : CtxId) (ty a : Nat) (bundle : Word) (sc : Nat) (b : Word) (hs : Canonical s) :
    Canonical (traceRecord c ty a bundle sc b s) := by
  grind [traceRecord, !modStack_canonical, !poke_canonical, !tracePut_canonical]

theorem restartCount_canonical (k : Nat) (hs : Canonical s) : Canonical (restartCount k s) := by
  grind [restartCount, !modCore_canonical]

theorem servePort_canonical (c : CtxId) (hs : Canonical s) : Canonical (servePort c s) := by
  unfold servePort
  split
  · exact modCore_canonical _ _ hs
  · exact hs

theorem takePort_canonical (c : CtxId) (hs : Canonical s) : Canonical (takePort c s) := by
  unfold takePort
  split
  · split
    · exact hs
    · exact servePort_canonical _ (restartCount_canonical _ hs)
  · exact hs

theorem giveIssue_canonical (c : CtxId) (hs : Canonical s) : Canonical (giveIssue c s) := by
  grind [giveIssue, !takePort_canonical, !switchTo_canonical, !foldl_canonical]

theorem tracePass_canonical (c : CtxId) (hs : Canonical s) : Canonical (tracePass c s) := by
  grind [tracePass, !traceRecord_canonical, !foldl_canonical]

theorem passIssue_canonical (c : CtxId) (hs : Canonical s) : Canonical (passIssue c s) := by
  grind [passIssue, !giveIssue_canonical, !tracePass_canonical]

theorem execContextSwitch_canonical (hs : Canonical s) : CanonicalRes (execContextSwitch s) := by
  grind [execContextSwitch, CanonicalRes, !restartCount_canonical, !passIssue_canonical]

theorem execQuantumExpiry_canonical (hs : Canonical s) : CanonicalRes (execQuantumExpiry s) := by
  grind [execQuantumExpiry, CanonicalRes, !passIssue_canonical]

theorem arrives_canonical (c : CtxId) (id : Nat) (hs : Canonical s) : Canonical (arrives c id s) := by
  grind [arrives, !modCtx_canonical]

theorem execResultLanding_canonical (hs : Canonical s) : CanonicalRes (execResultLanding s) := by
  grind [execResultLanding, CanonicalRes, CanonicalPumped, !arrives_canonical, !answerRemote_canonical, !modCore_canonical, !addWait_canonical]

theorem execRegionWriteBack_canonical (hs : Canonical s) : CanonicalRes (execRegionWriteBack s) := by
  grind [execRegionWriteBack, CanonicalRes, !feed_canonical, !beginBack_canonical]

theorem execSideLogReplay_canonical (hs : Canonical s) : CanonicalRes (execSideLogReplay s) := by
  grind [execSideLogReplay, CanonicalRes, !pump_canonical, !replayHead_canonical, !feed_canonical]

theorem takeLate_canonical (c : CtxId) (kinds : List LateKind) (all : Bool) (hs : Canonical s) : Canonical (takeLate c kinds all s) := by
  grind [takeLate, !takeTrap_canonical, !setCtx_canonical]

theorem takeLateHere_canonical (kinds : List LateKind) (hs : Canonical s) : CanonicalRes (takeLateHere kinds s) := by
  grind [takeLateHere, CanonicalRes, !switchTo_canonical, !takeLate_canonical]

/-! ## Machine/Debug -/

theorem bindPut_canonical (pa : Nat) (bs : List Byte) (hs : Canonical s) : CanonicalExcept Canonical (bindPut pa bs s) := by
  grind [bindPut, CanonicalExcept, !physPut_canonical]

theorem writeBack_canonical (A : Nat) (l : List (Nat × List Byte)) (hs : Canonical s) : CanonicalExcept Canonical (writeBack A l s) := by
  induction l generalizing s with
  | nil => exact hs
  | cons x l ih =>
    grind [writeBack, CanonicalExcept, !bindPut_canonical, !publish_canonical]

theorem fillBuffer_canonical (buf : Nat) (bs : List Byte) (out : List (Nat × List Byte)) (hs : Canonical s) :
    CanonicalBound (fillBuffer buf bs out s) := by
  grind [fillBuffer, CanonicalBound, CanonicalExcept, !failAt_canonical, !bindPut_canonical]

/-! ## Machine/Bundle -/

theorem after_canonical (r : Res) (hr : CanonicalRes r) (hs : Canonical s) : Canonical (after r s) := by
  cases r with
  | next t => exact hr
  | fault => exact hs
  | refused => exact hs

/-! ## Machine/Debug -/

theorem bindWith_canonical (op : Nat) (named : List (Nat × Nat)) (fenced : Bool) (f : Fin 8 → List Byte → State → Bound) (d x : SR)
    (hf : ∀ x y t, Canonical t → CanonicalBound (f x y t)) (hs : Canonical s) : CanonicalRes (bindWith op named fenced f d x s) := by
  unfold bindWith
  refine needPriv_canonical _ _ hs fun t ht => guardRegs_canonical _ _ _ ht fun t ht => ?_
  extract_lets A D st n status
  have hst : ∀ k, CanonicalRes (status k) := fun k => land_canonical _ _ _ ht
  have hf := hf n D t ht
  clear_value A D status
  split
  · exact trapAt_canonical _ _ _ ht
  split
  · exact trapAt_canonical _ _ _ ht
  split
  · exact trapAt_canonical _ _ _ (poisonRecord_canonical _ _ _ _ _ ht)
  split
  · exact trapAt_canonical _ _ _ ht
  split
  · exact hst 4
  split
  · exact hst 6
  clear_value n
  split
  · rename_i e; rw [e] at hf; exact stall_canonical hf
  rename_i u k out after e
  rw [e] at hf
  split
  · have hb := writeBack_canonical A.toNat out hf.1
    split
    · rename_i e; rw [e] at hb; exact land_canonical _ _ _ (hf.2 _ hb)
    · rename_i e; rw [e] at hb; exact stall_canonical hb
  · exact hst k

theorem bindCore_canonical (n : Fin 8) (D : List Byte) (hs : Canonical s) : CanonicalBound (bindCore n D s) := by
  grind [bindCore, CanonicalBound, !modStack_canonical]

theorem fenceStack_canonical (n : Fin 8) (l : List Byte) (hs : Canonical s) : CanonicalBound (fenceStack n l s) := by
  grind [fenceStack, CanonicalBound, canonical_iff, !modStack_canonical]

theorem loadMicrocode_canonical (n : Fin 8) (D : List Byte) (hs : Canonical s) : CanonicalBound (loadMicrocode n D s) := by
  grind [loadMicrocode, CanonicalBound, !modStack_canonical, !foldl_canonical]

theorem queryCore_canonical (n : Fin 8) (D : List Byte) (hs : Canonical s) : CanonicalBound (queryCore n D s) := by
  grind [queryCore, CanonicalBound]

theorem setBreaks_canonical (n : Fin 8) (D : List Byte) (hs : Canonical s) : CanonicalBound (setBreaks n D s) := by
  grind [setBreaks, CanonicalBound, !modCore_canonical]

theorem setWatches_canonical (n : Fin 8) (D : List Byte) (hs : Canonical s) : CanonicalBound (setWatches n D s) := by
  grind [setWatches, CanonicalBound, !modCluster_canonical]

theorem setTrace_canonical (n : Fin 8) (D : List Byte) (hs : Canonical s) : CanonicalBound (setTrace n D s) := by
  grind [setTrace, CanonicalBound, !modStack_canonical]

theorem writeSample_canonical (core : Nat) (cls : Nat × Option MatOp) (hs : Canonical s) : Canonical (writeSample core cls s) := by
  grind [writeSample, !traceRecord_canonical]

theorem takeSamples_canonical {before : State} (core : Nat) (hs : Canonical s) :
    Canonical (takeSamples before core s) := by
  grind [takeSamples, !writeSample_canonical, !modCore_canonical, !foldl_canonical]

theorem countCycles_canonical {before : State} (hs : Canonical s) : Canonical (countCycles before s) := by
  grind [countCycles, canonical_iff, !takeSamples_canonical, !foldl_canonical]

theorem setProfile_canonical (n : Fin 8) (D : List Byte) (hs : Canonical s) : CanonicalBound (setProfile n D s) := by
  grind [setProfile, CanonicalBound, !modCore_canonical]

theorem execProfileSample_canonical (hs : Canonical s) : CanonicalRes (execProfileSample s) := by
  grind [execProfileSample, CanonicalRes, !reach_canonical, !modCore_canonical, !writeSample_canonical]

theorem dumpCtx_canonical (n : Fin 8) (D : List Byte) (hs : Canonical s) : CanonicalBound (dumpCtx n D s) := by
  grind [dumpCtx, CanonicalBound, !fillBuffer_canonical]

theorem extract_canonical (n : Fin 8) (D : List Byte) (hs : Canonical s) : CanonicalBound (extract n D s) := by
  grind [extract, CanonicalBound, !fillBuffer_canonical]

/-! ## Machine/Platform -/

theorem modPort_canonical (p : Fin 12) (f : Port → Port) (hs : Canonical s) : Canonical (modPort p f s) := by
  grind [modPort, !modDev_canonical]

theorem writeLink_canonical (p : Fin 12) (hs : Canonical s) : Canonical (writeLink p s) := by
  grind [writeLink, canonical_iff, writeBytes_wf]

theorem linkRecord_canonical (port state : Nat) (cause peerPort : Nat) (peerDev epoch : Nat) (resent failed : Nat) (hs : Canonical s) :
    Canonical (linkRecord port state cause peerPort peerDev epoch resent failed s) := by
  grind [linkRecord, !logEntry_canonical]

theorem linkChanged_canonical (p : Fin 12) (cause : Nat) (hs : Canonical s) : Canonical (linkChanged p cause s) := by
  grind [linkChanged, !raiseIrq_canonical, !linkRecord_canonical, !writeLink_canonical]

theorem floodUpdate_canonical (p : Fin 12) (up : Bool) (hs : Canonical s) : Canonical (floodUpdate p up s) := by
  grind [floodUpdate, !modDev_canonical, !modPort_canonical]

theorem declareDead_canonical (p : Fin 12) (cause : Nat) (hs : Canonical s) : Canonical (declareDead p cause s) := by
  grind [declareDead, !linkChanged_canonical, !floodUpdate_canonical, !modPort_canonical]

theorem modEdge_canonical (i : Nat) (f : Edge → Edge) (hs : Canonical s) : Canonical (modEdge i f s) := by
  grind [modEdge, !modDev_canonical]

theorem fenceNow_canonical (n : Fin 8) (hs : Canonical s) : Canonical (fenceNow n s) := by
  grind [fenceNow, canonical_iff, !modStack_canonical, !killCtx_canonical, !doom_canonical, !foldl_canonical]

theorem closeCut_canonical (hs : Canonical s) : Canonical (closeCut s) := by
  grind [closeCut, !closeChan_canonical, !foldl_canonical]

theorem edgeDies_canonical (i : Nat) (hs : Canonical s) : Canonical (edgeDies i s) := by
  grind [edgeDies, !closeCut_canonical, !fenceNow_canonical, !modEdge_canonical]

theorem execLinkRetry_canonical (hs : Canonical s) : CanonicalRes (execLinkRetry s) := by
  grind [execLinkRetry, CanonicalRes, !bump_canonical, !countEvents_canonical, !modEdge_canonical, !modPort_canonical]

theorem execReceiverLosesLock_canonical (hs : Canonical s) : CanonicalRes (execReceiverLosesLock s) := by
  grind [execReceiverLosesLock, CanonicalRes, !modEdge_canonical, !modPort_canonical]

theorem execLinkDeath_canonical (hs : Canonical s) : CanonicalRes (execLinkDeath s) := by
  grind [execLinkDeath, CanonicalRes, !edgeDies_canonical, !elapseTo_canonical, !declareDead_canonical]

theorem execLinkTrained_canonical (hs : Canonical s) : CanonicalRes (execLinkTrained s) := by
  grind [execLinkTrained, CanonicalRes, !floodUpdate_canonical, !linkChanged_canonical, !modPort_canonical]

theorem execLinkStateUpdate_canonical (hs : Canonical s) : CanonicalRes (execLinkStateUpdate s) := by
  grind [execLinkStateUpdate, CanonicalRes, !modDev_canonical, !raiseIrq_canonical, !linkRecord_canonical]

theorem failRemoteLoads_canonical (hs : Canonical s) : Canonical (failRemoteLoads s) := by
  grind [failRemoteLoads, !modCore_canonical, !spoilLanding_canonical, !failAt_canonical, !poisonRecord_canonical, !foldl_canonical]

theorem failRequest_canonical (r : OutReq) (hs : Canonical s) : Canonical (failRequest r s) := by
  grind [failRequest, !failOp_canonical, !postFault_canonical, !failAt_canonical]

theorem closeRemote_canonical (lost : List Nat) (hs : Canonical s) : Canonical (closeRemote lost s) := by
  grind [closeRemote, !closeChan_canonical, !foldl_canonical]

theorem drainAction_canonical (lost : List Nat) (round port : Nat) (own : Bool) (hs : Canonical s) :
    Canonical (drainAction lost round port own s) := by
  unfold drainAction
  extract_lets p k rs t u v
  have ht : Canonical t := modDev_canonical _ hs
  have hu : Canonical u := foldl_canonical (fun _ r h => failRequest_canonical r h) _ ht
  have hv : Canonical v := by grind [!modPort_canonical]
  clear_value t u v
  split
  · grind [!modPort_canonical]
  · exact closeRemote_canonical _ (failRemoteLoads_canonical hv)
  · exact hs

theorem revived_canonical (d : Drain) (hs : Canonical s) : Canonical (revived d s) := by
  grind [revived, !modDev_canonical]

theorem execLinkDrainRound_canonical (hs : Canonical s) : CanonicalRes (execLinkDrainRound s) := by
  grind [execLinkDrainRound, CanonicalRes, !elapseTo_canonical, !drainAction_canonical, !revived_canonical, !modDev_canonical]

theorem advanceHead_canonical (hs : Canonical s) : Canonical (advanceHead s) := by
  grind [advanceHead, !platWrite_canonical]

theorem processRequest_canonical (ty : Nat) (act : Fin 12 → Nat → State → State)
    (hact : ∀ x y t, Canonical t → Canonical (act x y t)) (hs : Canonical s) : CanonicalRes (processRequest ty act s) := by
  grind [processRequest, CanonicalRes, !advanceHead_canonical]

theorem execRequestDeclareDead_canonical (hs : Canonical s) : CanonicalRes (execRequestDeclareDead s) := by
  grind [execRequestDeclareDead, CanonicalRes, !processRequest_canonical, !declareDead_canonical]

theorem execRequestBringUp_canonical (hs : Canonical s) : CanonicalRes (execRequestBringUp s) := by
  grind [execRequestBringUp, CanonicalRes, !processRequest_canonical, !writeLink_canonical, !floodUpdate_canonical]

theorem execRequestPcap_canonical (hs : Canonical s) : CanonicalRes (execRequestPcap s) := by
  grind [execRequestPcap, CanonicalRes, !processRequest_canonical, !platWrite_canonical, !modDev_canonical]

theorem remoteStore_canonical (r : RemoteReq) (bs : List Byte) (hs : Canonical s) : Canonical (remoteStore r bs s) := by
  grind [remoteStore, !deviceWrite_canonical, !poisonPiece_canonical]

theorem execRemoteRequest_canonical (hs : Canonical s) : CanonicalRes (execRemoteRequest s) := by
  grind [execRemoteRequest, CanonicalRes, !modDev_canonical, !remoteStore_canonical]

theorem execHostMessage_canonical (hs : Canonical s) : CanonicalRes (execHostMessage s) := by
  grind [execHostMessage, CanonicalRes, !committedStore_canonical, !raiseIrq_canonical, !platWrite_canonical]

theorem bar0Write_canonical (h : Fin 4) (off : Nat) (bs : List Byte) (hs : Canonical s) : Canonical (bar0Write h off bs s) := by
  grind [bar0Write, !committedStore_canonical, !raiseIrq_canonical]

theorem execHostAccess_canonical (hs : Canonical s) : CanonicalRes (execHostAccess s) := by
  grind [execHostAccess, CanonicalRes, !bar0Write_canonical, !deviceWrite_canonical]

theorem execPcieLinkStateChange_canonical (hs : Canonical s) : CanonicalRes (execPcieLinkStateChange s) := by
  grind [execPcieLinkStateChange, CanonicalRes, !modDev_canonical]

theorem writeEth_canonical (p : Fin 5) (hs : Canonical s) : Canonical (writeEth p s) := by
  grind [writeEth, canonical_iff, writeBytes_wf]

theorem execEthernetPortStateChange_canonical (hs : Canonical s) : CanonicalRes (execEthernetPortStateChange s) := by
  grind [execEthernetPortStateChange, CanonicalRes, !modDev_canonical, !writeEth_canonical]

theorem putThst_canonical (x : Nat) (hs : Canonical s) : Canonical (putThst x s) := by
  grind [putThst, !raiseIrq_canonical, !platWrite_canonical, !modDev_canonical]

theorem execClockAdjust_canonical (hs : Canonical s) : CanonicalRes (execClockAdjust s) := by
  grind [execClockAdjust, CanonicalRes, canonical_iff, writeBytes_wf, !elapseTo_canonical, !modDev_canonical, !setClock_canonical,
    !platWrite_canonical, !putThst_canonical]

theorem execCriticalTemperature_canonical (hs : Canonical s) : CanonicalRes (execCriticalTemperature s) := by
  grind [execCriticalTemperature, CanonicalRes, !modDev_canonical, !putThst_canonical, !platWrite_canonical]

theorem execDevnoSupply_canonical (hs : Canonical s) : CanonicalRes (execDevnoSupply s) := by
  grind [execDevnoSupply, CanonicalRes, !modDev_canonical]

theorem releaseReset_canonical (hs : Canonical s) : Canonical (releaseReset s) := by
  grind [releaseReset, canonical_iff, !reset_canonical]

theorem platformImage_canonical (hs : Canonical s) : Canonical (platformImage s) := by
  unfold platformImage
  extract_lets t u v w x
  have ht : Canonical t := ⟨filter_wf _ hs.mem, hs.spm, hs.rom⟩
  clear_value t
  have hu : Canonical u := platWrite_canonical _ _ _ (platWrite_canonical _ _ _ (platWrite_canonical _ _ _ (platWrite_canonical _ _ _ ht)))
  clear_value u
  have hv : Canonical v := platWrite_canonical _ _ _ (platWrite_canonical _ _ _ hu)
  clear_value v
  have hw : Canonical w := ⟨writeBytes_wf _ _ hv.mem, hv.spm, hv.rom⟩
  clear_value w
  have hx : Canonical x := platWrite_canonical _ _ _ (platWrite_canonical _ _ _ hw)
  exact foldl_canonical (fun _ p h => writeEth_canonical p h) _ (foldl_canonical (fun _ p h => writeLink_canonical p h) _ hx)

theorem failStage_canonical (hs : Canonical s) : Canonical (failStage s) := by
  grind [failStage, !modCtx_canonical, !platWrite_canonical]

theorem execReset_canonical (hs : Canonical s) : CanonicalRes (execReset s) := by
  grind [execReset, CanonicalRes, !failStage_canonical, !releaseReset_canonical, !modDev_canonical, !platWrite_canonical,
    !platformImage_canonical]

theorem poisonFound_canonical (at_ : Site) (task addr level : Nat) (hs : Canonical s) : Canonical (poisonFound at_ task addr level s) := by
  grind [poisonFound, !logEntryAt_canonical, !countEvents_canonical]

theorem codeFind_canonical (f : StoredFault) (found : State → State) (hfound : ∀ t, Canonical t → Canonical (found t)) (hs : Canonical s) :
    CanonicalRes (codeFind f found s) := by
  cases f with
  | clean => exact hs
  | correctable => exact countEvents_canonical _ _ hs
  | uncorrectable => exact hfound _ hs

theorem parityFind_canonical (f : StoredFault) (drop : State → State) (hdrop : ∀ t, Canonical t → Canonical (drop t)) (hs : Canonical s) :
    CanonicalRes (parityFind f drop s) := by
  grind [parityFind, CanonicalRes, !countEvents_canonical]

theorem poisonLine_canonical (l level : Nat) (hs : Canonical s) : Canonical (poisonLine l level s) := by
  grind [poisonLine, canonical_iff, !poisonFound_canonical]

theorem poisonGranule_canonical (g : Nat) (hs : Canonical s) : Canonical (poisonGranule g s) := by
  grind [poisonGranule, canonical_iff, !poisonFound_canonical]

theorem poisonHeld_canonical (core g : Nat) (hs : Canonical s) : Canonical (poisonHeld core g s) := by
  unfold poisonHeld
  split
  · exact poisonFound_canonical _ _ _ _ (modStore_canonical _ _ _ hs)
  · exact hs

theorem poisonEntry_canonical (core i g : Nat) (hs : Canonical s) : Canonical (poisonEntry core i g s) := by
  grind [poisonEntry, !poisonFound_canonical, !modCore_canonical, !foldl_canonical]

theorem poisonVersion_canonical (task l : Nat) (hs : Canonical s) : Canonical (poisonVersion task l s) := by
  grind [poisonVersion, !poisonFound_canonical, !modTask_canonical]

theorem poisonBounce_canonical (n : Fin 8) (i : Nat) (hs : Canonical s) : Canonical (poisonBounce n i s) := by
  grind [poisonBounce, !poisonFound_canonical, !modStack_canonical]

theorem registerRecord_canonical (at_ : Site) (task reg cause : Nat) (hs : Canonical s) : Canonical (registerRecord at_ task reg cause s) := by
  grind [registerRecord, !logEntryAt_canonical]

theorem execScrub_canonical (hs : Canonical s) : CanonicalRes (execScrub s) := by
  grind [execScrub, CanonicalRes, !codeFind_canonical, !poisonLine_canonical, !poisonGranule_canonical, !parityFind_canonical,
    !modCluster_canonical, !poisonHeld_canonical, !poisonEntry_canonical, !poisonVersion_canonical, !poisonBounce_canonical, !modCtx_canonical,
    !registerRecord_canonical, !countEvents_canonical, !setTile_canonical]

/-! ## Machine/Scalar -/

theorem alu3_canonical (f : Word → Word → Word) (L : Nat) (d a b : SR) (hs : Canonical s) : CanonicalRes (alu3 f L d a b s) := by
  grind [alu3, CanonicalRes, !guardRegs_canonical, !land_canonical]

theorem alu2_canonical (f : Word → Word) (L : Nat) (d a : SR) (hs : Canonical s) : CanonicalRes (alu2 f L d a s) := by
  grind [alu2, CanonicalRes, !guardRegs_canonical, !land_canonical]

theorem plog3_canonical (f : Bool → Bool → Bool) (pd pa pb : PR) (hs : Canonical s) : CanonicalRes (plog3 f pd pa pb s) := by
  grind [plog3, CanonicalRes, !guardRegs_canonical, !land_canonical]

theorem plog2_canonical (f : Bool → Bool) (pd pa : PR) (hs : Canonical s) : CanonicalRes (plog2 f pd pa s) := by
  grind [plog2, CanonicalRes, !guardRegs_canonical, !land_canonical]

theorem fop3_canonical (f : Nat → Nat → Coded) (L : Nat) (d a b : SR) (hs : Canonical s) : CanonicalRes (fop3 f L d a b s) := by
  grind [fop3, CanonicalRes, !guardRegs_canonical, !countMine_canonical, !land_canonical]

theorem fopOne_canonical (f : Nat → Coded) (L : Nat) (d a : SR) (hs : Canonical s) : CanonicalRes (fopOne f L d a s) := by
  grind [fopOne, CanonicalRes, !guardRegs_canonical, !countMine_canonical, !land_canonical]

theorem execAstride_canonical (a : AR) (level : Fin 8) (imm : BitVec 15) (hs : Canonical s) : CanonicalRes (execAstride a level imm s) := by
  grind [execAstride, CanonicalRes, !guardRegs_canonical, !land_canonical, !reserved_canonical]

theorem execFcmp_canonical (cond : Fin 8) (pd : PR) (a b : SR) (hs : Canonical s) : CanonicalRes (execFcmp cond pd a b s) := by
  grind [execFcmp, CanonicalRes, !guardRegs_canonical, !land_canonical]

/-! ## Machine/Vector -/

theorem vector3_canonical (readsD : Bool) (f : Nat → Nat → Nat → Coded) (w L : Nat) (d a b : VR) (m : MR) (hs : Canonical s) :
    CanonicalRes (vector3 readsD f w L d a b m s) := by
  grind [vector3, CanonicalRes, !needCompute_canonical, !guardRegs_canonical, !countMine_canonical, !land_canonical]

theorem vector1_canonical (f : Nat → Coded) (w L : Nat) (d a : VR) (m : MR) (hs : Canonical s) : CanonicalRes (vector1 f w L d a m s) := by
  grind [vector1, CanonicalRes, !needCompute_canonical, !guardRegs_canonical, !countMine_canonical, !land_canonical]

theorem vectorAll_canonical (rs : List RegName) (L : Nat) (d : VR) (f : State → Vec) (hs : Canonical s) :
    CanonicalRes (vectorAll rs L d f s) := by
  grind [vectorAll, CanonicalRes, !needCompute_canonical, !guardRegs_canonical, !land_canonical]

theorem execVsha_canonical (d a b : VR) (m : MR) (ty : Fin 16) (hs : Canonical s) : CanonicalRes (execVsha d a b m ty s) := by
  grind [execVsha, CanonicalRes, !needTy_canonical, !vector3_canonical]

theorem execVcmp_canonical (cond : Fin 8) (md : MR) (a b : VR) (ty : Fin 16) (hs : Canonical s) : CanonicalRes (execVcmp cond md a b ty s) := by
  grind [execVcmp, CanonicalRes, !needTy_canonical, !needCompute_canonical, !guardRegs_canonical, !land_canonical, !foldl_canonical]

theorem execVsel_canonical (d a b : VR) (m : MR) (hs : Canonical s) : CanonicalRes (execVsel d a b m s) := by
  grind [execVsel, CanonicalRes, !vectorAll_canonical]

theorem execVbc_canonical (d : VR) (a : SR) (m : MR) (ty : Fin 16) (hs : Canonical s) : CanonicalRes (execVbc d a m ty s) := by
  grind [execVbc, CanonicalRes, !needTy_canonical, !needCompute_canonical, !guardRegs_canonical, !land_canonical]

theorem execVshuf_canonical (d a : VR) (k : Fin 32) (hs : Canonical s) : CanonicalRes (execVshuf d a k s) := by
  grind [execVshuf, CanonicalRes, !reserved_canonical, !vectorAll_canonical]

theorem execVcvt_canonical (d a : VR) (dty : Fin 16) (rnd : Fin 8) (sat : Bool) (sty : Fin 16) (hs : Canonical s) :
    CanonicalRes (execVcvt d a dty rnd sat sty s) := by
  grind [execVcvt, CanonicalRes, !needCompute_canonical, !guardRegs_canonical, !countMine_canonical, !land_canonical, !reserved_canonical]

theorem execVpack_canonical (d a b : VR) (ty : Fin 16) (hs : Canonical s) : CanonicalRes (execVpack d a b ty s) := by
  grind [execVpack, CanonicalRes, !needTy_canonical, !vectorAll_canonical]

theorem execVunpk_canonical (d a : VR) (h : Fin 32) (ty : Fin 16) (hs : Canonical s) : CanonicalRes (execVunpk d a h ty s) := by
  grind [execVunpk, CanonicalRes, !needTy_canonical, !reserved_canonical, !vectorAll_canonical]

theorem execVred_canonical (d a : VR) (g : Fin 32) (ty : Fin 16) (hs : Canonical s) : CanonicalRes (execVred d a g ty s) := by
  grind [execVred, CanonicalRes, !needTy_canonical, !reserved_canonical, !needCompute_canonical, !guardRegs_canonical, !countMine_canonical,
    !land_canonical]

theorem execVext_canonical (d : SR) (a : VR) (x : SR) (hs : Canonical s) : CanonicalRes (execVext d a x s) := by
  grind [execVext, CanonicalRes, !needCompute_canonical, !guardRegs_canonical, !land_canonical]

theorem maskLog_canonical (f : Word → Word → Word) (md ma mb : MR) (hs : Canonical s) : CanonicalRes (maskLog f md ma mb s) := by
  grind [maskLog, CanonicalRes, !needCompute_canonical, !guardRegs_canonical, !land_canonical]

theorem maskLog1_canonical (f : Word → Word) (md ma : MR) (hs : Canonical s) : CanonicalRes (maskLog1 f md ma s) := by
  grind [maskLog1, CanonicalRes, !needCompute_canonical, !guardRegs_canonical, !land_canonical]

theorem maskCount_canonical (f : Word → Nat) (d : SR) (ma : MR) (hs : Canonical s) : CanonicalRes (maskCount f d ma s) := by
  grind [maskCount, CanonicalRes, !needCompute_canonical, !guardRegs_canonical, !land_canonical]

theorem execVqnt_canonical (d a : VR) (rnd : Fin 8) (ty : Fin 16) (hs : Canonical s) : CanonicalRes (execVqnt d a rnd ty s) := by
  grind [execVqnt, CanonicalRes, !needTy_canonical, !needCompute_canonical, !guardRegs_canonical, !countMine_canonical, !land_canonical,
    !reserved_canonical]

theorem execVdqnt_canonical (d a : VR) (rnd : Fin 8) (ty : Fin 16) (hs : Canonical s) : CanonicalRes (execVdqnt d a rnd ty s) := by
  grind [execVdqnt, CanonicalRes, !needTy_canonical, !needCompute_canonical, !guardRegs_canonical, !countMine_canonical, !land_canonical,
    !reserved_canonical]

/-! ## Machine/Witness -/

theorem produce_canonical (kind cnt : Nat) (ew : Bool) (d : VR) (w : WR) (r : Vec) (entries : Vector (BitVec 16) 64) (events : List Nat)
    (hs : Canonical s) : CanonicalRes (produce kind cnt ew d w r entries events s) := by
  grind [produce, CanonicalRes, canonical_iff, !land_canonical, !countMine_canonical]

theorem laneProducer_canonical (kind : Nat) (d a : VR) (n : Nat) (w : WR) (ty : Fin 16) (f : Bool → List Nat → Nat × Nat × List Nat)
    (hs : Canonical s) : CanonicalRes (laneProducer kind d a n w ty f s) := by
  grind [laneProducer, CanonicalRes, !reserved_canonical, !needFeature_canonical, !needCompute_canonical, !guardRegs_canonical,
    !produce_canonical]

theorem execVmaxw_canonical (d a : VR) (n : Fin 32) (w : WR) (ty : Fin 16) (hs : Canonical s) : CanonicalRes (execVmaxw d a n w ty s) := by
  grind [execVmaxw, CanonicalRes, !needTy_canonical, !reserved_canonical, !laneProducer_canonical]

theorem execVminw_canonical (d a : VR) (n : Fin 32) (w : WR) (ty : Fin 16) (hs : Canonical s) : CanonicalRes (execVminw d a n w ty s) := by
  grind [execVminw, CanonicalRes, !needTy_canonical, !reserved_canonical, !laneProducer_canonical]

theorem execVmedw_canonical (d a : VR) (n : Fin 32) (w : WR) (ty : Fin 16) (hs : Canonical s) : CanonicalRes (execVmedw d a n w ty s) := by
  grind [execVmedw, CanonicalRes, !needTy_canonical, !reserved_canonical, !laneProducer_canonical]

theorem execVclpw_canonical (d a b : VR) (w : WR) (ty : Fin 16) (hs : Canonical s) : CanonicalRes (execVclpw d a b w ty s) := by
  grind [execVclpw, CanonicalRes, !needTy_canonical, !needFeature_canonical, !needCompute_canonical, !guardRegs_canonical, !produce_canonical,
    !reserved_canonical]

theorem execVssmw_canonical (d a : VR) (n : Fin 32) (w : WR) (ty : Fin 16) (hs : Canonical s) : CanonicalRes (execVssmw d a n w ty s) := by
  grind [execVssmw, CanonicalRes, !needTy_canonical, !reserved_canonical, !laneProducer_canonical]

theorem crossProducer_canonical (kind : Nat) (larger : Bool) (d a : VR) (g : Fin 32) (w : WR) (ty : Fin 16) (hs : Canonical s) :
    CanonicalRes (crossProducer kind larger d a g w ty s) := by
  grind [crossProducer, CanonicalRes, !needTy_canonical, !reserved_canonical, !needFeature_canonical, !needCompute_canonical,
    !guardRegs_canonical, !produce_canonical]

theorem execVadj_canonical (d g : VR) (x : SR) (w : WR) (last : Bool) (gf : Fin 8) (hs : Canonical s) :
    CanonicalRes (execVadj d g x w last gf s) := by
  grind [execVadj, CanonicalRes, !reserved_canonical, !needFeature_canonical, !needCompute_canonical, !trapAt_canonical, !guardRegs_canonical,
    !land_canonical]

theorem execWtag_canonical (d : SR) (w : WR) (hs : Canonical s) : CanonicalRes (execWtag d w s) := by
  grind [execWtag, CanonicalRes, !needFeature_canonical, !needCompute_canonical, !guardRegs_canonical, !land_canonical]

theorem execWclr_canonical (w : WR) (hs : Canonical s) : CanonicalRes (execWclr w s) := by
  grind [execWclr, CanonicalRes, !needFeature_canonical, !needCompute_canonical, !guardRegs_canonical, !land_canonical]

/-! ## Machine/Dispatch -/

theorem exec_canonical (i : Instr) (hs : Canonical s) : CanonicalRes (exec i s) := by
  unfold exec
  cases i with
  | gapBundle => exact execGapBundle_canonical _ hs
  | skippedBundle => exact execSkippedBundle_canonical _ hs
  | add | sub | andS | orS | xorS | andn | shl | shr | sha | rotl | minS | maxS | minz | maxz | mul | mulh | mulhz | divS | divz | remS
  | remz => exact alu3_canonical _ _ _ _ _ hs
  | clz | ctz | popc | sextb | sexth | sextw | addi | andi | ori | xori | shli | shri | shai | lis => exact alu2_canonical _ _ _ _ hs
  | li | cmp | cmpi | sel | aadd | asub | amovs | smova | aaddi | movx | btgt | btgta | feat | seedr =>
    exact guardRegs_canonical _ _ _ hs (fun _ ht => land_canonical _ _ _ ht)
  | pand | por | pxor | pandn => exact plog3_canonical _ _ _ _ hs
  | pnot | pmov => exact plog2_canonical _ _ _ hs
  | astride => exact execAstride_canonical _ _ _ hs
  | fadd | fsub | fmul | fdiv | fmin | fmax => exact fop3_canonical _ _ _ _ _ hs
  | fsqrt | fcvtif | fcvtfi => exact fopOne_canonical _ _ _ _ hs
  | fcmp => exact execFcmp_canonical _ _ _ _ hs
  | ldb | ldbz | ldh | ldhz | ldw | ldwz | ldd => exact loadScalar_canonical _ _ _ _ _ _ hs
  | ldv => exact execLdv_canonical _ _ _ _ hs
  | ldvs => exact execLdvs_canonical _ _ _ _ _ hs
  | ldvx => exact execLdvx_canonical _ _ _ _ hs
  | ldvb => exact execLdvb_canonical _ _ _ _ hs
  | ldm => exact execLdm_canonical _ _ _ _ hs
  | ldwt => exact execLdwt_canonical _ _ _ _ hs
  | ldg => exact execLdg_canonical _ _ _ _ hs
  | ldgv => exact execLdgv_canonical _ _ _ _ hs
  | ldaq => exact execLdaq_canonical _ _ _ _ hs
  | stb | sth | stw | std => exact storeScalar_canonical _ _ _ _ _ hs
  | stv => exact execStv_canonical _ _ _ _ hs
  | stvm => exact execStvm_canonical _ _ _ _ _ hs
  | stvs => exact execStvs_canonical _ _ _ _ _ hs
  | stvx => exact execStvx_canonical _ _ _ _ hs
  | stwt => exact execStwt_canonical _ _ _ _ hs
  | stm => exact execStm_canonical _ _ _ _ hs
  | stg => exact execStg_canonical _ _ _ _ hs
  | stgv => exact execStgv_canonical _ _ _ _ hs
  | strl => exact execStrl_canonical _ _ _ _ hs
  | atomAdd | atomAnd | atomOr | atomXor | atomMin | atomMax | atomMinz | atomMaxz | atomXchg => exact atom_canonical _ _ _ _ _ _ _ hs
  | atomFadd => exact execAtomFadd_canonical _ _ _ _ _ _ hs
  | acas => exact guardRegs_canonical _ _ _ hs (fun _ ht => atomic_canonical _ _ _ _ _ _ _ ht)
  | fence => exact execFence_canonical _ _ hs
  | cmo => exact execCmo_canonical _ _ _ _ hs
  | rgset => exact execRgset_canonical _ _ _ _ _ hs
  | rgwb => exact execRgwb_canonical _ hs
  | rgdrop => exact execRgdrop_canonical _ hs
  | vadd | vsub | vmin | vmax | vshl | vshr | vmul | vfma | vfnma | vdiv | vscl =>
    exact needTy_canonical _ _ _ hs (fun _ ht => vector3_canonical _ _ _ _ _ _ _ _ ht)
  | vabs | vneg | vrcp | vrsq | vsqrt | vexp2 | vlog2 => exact needTy_canonical _ _ _ hs (fun _ ht => vector1_canonical _ _ _ _ _ _ ht)
  | vand | vor | vxor => exact vector3_canonical _ _ _ _ _ _ _ _ hs
  | vsha => exact execVsha_canonical _ _ _ _ _ hs
  | vcmp => exact execVcmp_canonical _ _ _ _ _ hs
  | vsel => exact execVsel_canonical _ _ _ _ hs
  | vmov => exact vector1_canonical _ _ _ _ _ _ hs
  | vbc => exact execVbc_canonical _ _ _ _ hs
  | vperm | vins | viota | vrng => exact vectorAll_canonical _ _ _ _ hs
  | vshuf => exact execVshuf_canonical _ _ _ hs
  | vcvt => exact execVcvt_canonical _ _ _ _ _ _ hs
  | vpack => exact execVpack_canonical _ _ _ _ hs
  | vunpk => exact execVunpk_canonical _ _ _ _ hs
  | vred => exact execVred_canonical _ _ _ _ hs
  | vext => exact execVext_canonical _ _ _ hs
  | mand | mor | mxor | mandn => exact maskLog_canonical _ _ _ _ hs
  | mnot | mmov => exact maskLog1_canonical _ _ _ hs
  | mpop | mfirst | mlast => exact maskCount_canonical _ _ _ hs
  | vqnt => exact execVqnt_canonical _ _ _ _ hs
  | vdqnt => exact execVdqnt_canonical _ _ _ _ hs
  | vmaxw => exact execVmaxw_canonical _ _ _ _ _ hs
  | vminw => exact execVminw_canonical _ _ _ _ _ hs
  | vmedw => exact execVmedw_canonical _ _ _ _ _ hs
  | vclpw => exact execVclpw_canonical _ _ _ _ _ hs
  | vssmw => exact execVssmw_canonical _ _ _ _ _ hs
  | vrmaxw | vrminw => exact crossProducer_canonical _ _ _ _ _ _ _ hs
  | vadj => exact execVadj_canonical _ _ _ _ _ _ hs
  | wtag => exact execWtag_canonical _ _ hs
  | wclr => exact execWclr_canonical _ hs
  | mma => exact execMma_canonical _ _ _ _ _ _ hs
  | tzero => exact execTzero_canonical _ hs
  | tst => exact execTst_canonical _ _ _ _ _ _ _ hs
  | tld => exact execTld_canonical _ _ _ hs
  | trd => exact execTrd_canonical _ _ _ hs
  | twr => exact execTwr_canonical _ _ _ hs
  | tstat => exact execTstat_canonical _ _ _ hs
  | tsig => exact execTsig_canonical _ _ _ hs
  | cpy | cpyx => exact issueCopy_canonical _ _ _ _ _ _ _ _ hs
  | gath => exact execGath_canonical _ _ _ _ _ _ _ hs
  | send => exact needFiles_canonical _ hs (fun _ ht => sendOn_canonical _ _ _ _ ht)
  | recv | recvadd | recvmax => exact needFiles_canonical _ hs (fun _ ht => receiveOn_canonical _ _ _ _ _ _ _ ht)
  | sends => exact sendOn_canonical _ _ _ _ hs
  | recvs => exact receiveOn_canonical _ _ _ _ _ _ _ hs
  | chq => exact execChq_canonical _ _ hs
  | chclose => exact execChclose_canonical _ hs
  | btree => exact execBtree_canonical _ _ _ _ hs
  | jmp => exact transferTo_canonical _ hs
  | call => exact guardRegs_canonical _ _ _ hs (fun _ ht => transferTo_canonical _ (land_canonical _ _ _ ht))
  | jmpb | retb => exact guardRegs_canonical _ _ _ hs (fun _ ht => transferTo_canonical _ ht)
  | loop => exact execLoop_canonical _ _ hs
  | lbrk => exact execLbrk_canonical _ _ _ hs
  | fmtw => exact execFmtw_canonical _ hs
  | waitk => exact execWaitk_canonical _ hs
  | bar => exact execBar_canonical _ hs
  | bara => exact execBara_canonical _ hs
  | cbwait => exact execCbwait_canonical _ _ _ hs
  | trap | sysc => exact enterSupervisor_canonical _ _ hs
  | exit => exact execExit_canonical hs
  | yield => exact execYield_canonical hs
  | seedp => exact execSeedp_canonical _ hs
  | seedo => exact execSeedo_canonical hs
  | seedf => exact execSeedf_canonical _ hs
  | getsys => exact execGetsys_canonical _ _ _ hs
  | setsys => exact execSetsys_canonical _ _ _ hs
  | setsysThreshWindow => exact execSetsysThreshWindow_canonical _ _ _ hs
  | setsysFeatack => exact execSetsysFeatack_canonical _ _ _ hs
  | eret => exact needPriv_canonical _ _ hs (fun _ ht => returnFromTrap_canonical ht)
  | tlaunch => exact execTlaunch_canonical _ _ hs
  | tcommit => exact execTcommit_canonical _ hs
  | tabortRerun => exact needPriv_canonical _ _ hs (fun _ ht => abortTask_canonical _ _ ht)
  | tabortKill => exact execTabortKill_canonical _ _ hs
  | jcbadd | jcbpost => exact needPriv_canonical _ _ hs (fun _ ht => jcbUpdate_canonical _ _ _ _ ht)
  | eqpop => exact execEqpop_canonical _ _ hs
  | ctxstart => exact execCtxstart_canonical _ _ hs
  | ctxstartRestore => exact execCtxstartRestore_canonical _ _ hs
  | ctxstartControlCore => exact execCtxstartControlCore_canonical _ _ hs
  | ctxstartR => exact execCtxstartR_canonical _ hs
  | ctxstopSafe => exact execCtxstopSafe_canonical _ hs
  | ctxstopKill => exact execCtxstopKill_canonical _ _ hs
  | tlbinvRange => exact execTlbinvRange_canonical _ _ _ hs
  | tlbinvAsid => exact execTlbinvAsid_canonical _ _ _ hs
  | tlbinvAll => exact execTlbinvAll_canonical _ _ _ _ hs
  | wfi => exact execWfi_canonical hs
  | ldwtImageCheck | deferredAccessFault | thresholdExceeded | engineFault | singleStep => exact takeLateHere_canonical _ hs
  | regionFill => exact fillGranule_canonical _ hs
  | regionWriteBack => exact execRegionWriteBack_canonical hs
  | sideLogReplay => exact execSideLogReplay_canonical hs
  | resultLanding => exact execResultLanding_canonical hs
  | engineOperationStart => exact execEngineOperationStart_canonical hs
  | rowGroupCheck => exact execRowGroupCheck_canonical hs
  | engineOperationCompletion => exact execEngineOperationCompletion_canonical hs
  | lanternArbitration => exact execLanternArbitration_canonical hs
  | tstDrainStart => exact execTstDrainStart_canonical hs
  | tstRowGroupCompare => exact execTstRowGroupCompare_canonical hs
  | tstCommit => exact execTstCommit_canonical hs
  | copyStart => exact execCopyStart_canonical hs
  | cpyxAttempt => exact execCpyxAttempt_canonical hs
  | copyArrival => exact execCopyArrival_canonical hs
  | eventRecordPost => exact execEventRecordPost_canonical hs
  | claimFill => exact execClaimFill_canonical hs
  | channelWatchdog | collectiveTimeout => exact limitReached_canonical _ hs
  | interrupt => exact takeIrq_canonical _ hs
  | contextSwitch => exact execContextSwitch_canonical hs
  | quantumExpiry => exact execQuantumExpiry_canonical hs
  | preemption => exact execPreemption_canonical hs
  | saveAreaWrite => exact execSaveAreaWrite_canonical hs
  | preemptionLimit => exact execPreemptionLimit_canonical hs
  | dispatch => exact execDispatch_canonical hs
  | taskAging => exact execTaskAging_canonical hs
  | taskBlocking => exact execTaskBlocking_canonical hs
  | taskCompletion => exact execTaskCompletion_canonical hs
  | auditReplay => exact execAuditReplay_canonical hs
  | auditVote => exact execAuditVote_canonical hs
  | auditPlacementLimit => exact execAuditPlacementLimit_canonical hs
  | sumpInflation => exact execSumpInflation_canonical hs
  | sumpCtlEn => exact execSumpCtlEn_canonical hs
  | sumpCtlRetry => exact execSumpCtlRetry_canonical hs
  | sumpLptrTail => exact sumpTail_canonical _ _ hs
  | sumpDefl => exact deflate_canonical _ _ hs
  | sumpStatOosClear => exact sumpClearOos_canonical _ hs
  | scrub => exact execScrub_canonical hs
  | linkRetry => exact execLinkRetry_canonical hs
  | linkDeath => exact execLinkDeath_canonical hs
  | linkStateUpdate => exact execLinkStateUpdate_canonical hs
  | linkDrainRound => exact execLinkDrainRound_canonical hs
  | requestDeclareDead => exact execRequestDeclareDead_canonical hs
  | requestBringUp => exact execRequestBringUp_canonical hs
  | requestPcap => exact execRequestPcap_canonical hs
  | hostMessage => exact execHostMessage_canonical hs
  | hostAccess => exact execHostAccess_canonical hs
  | clockAdjust => exact execClockAdjust_canonical hs
  | profileSample => exact execProfileSample_canonical hs
  | panic => exact panicFreeze_canonical hs
  | devnoSupply => exact execDevnoSupply_canonical hs
  | reset => exact execReset_canonical hs
  | remoteRequest => exact execRemoteRequest_canonical hs
  | linkTrained => exact execLinkTrained_canonical hs
  | receiverLosesLock => exact execReceiverLosesLock_canonical hs
  | powerRemoved => exact modDev_canonical _ hs
  | criticalTemperature => exact execCriticalTemperature_canonical hs
  | pcieLinkStateChange => exact execPcieLinkStateChange_canonical hs
  | ethernetPortStateChange => exact execEthernetPortStateChange_canonical hs
  | bind => exact bindWith_canonical _ _ _ _ _ _ (fun _ _ _ h => bindCore_canonical _ _ h) hs
  | bindFence => exact bindWith_canonical _ _ _ _ _ _ (fun _ _ _ h => fenceStack_canonical _ _ h) hs
  | bindUnfence => exact bindWith_canonical _ _ _ _ _ _ (fun _ _ _ h => ⟨modStack_canonical _ _ h, fun _ h => h⟩) hs
  | bindMicrocode => exact bindWith_canonical _ _ _ _ _ _ (fun _ _ _ h => loadMicrocode_canonical _ _ h) hs
  | bindQuery => exact bindWith_canonical _ _ _ _ _ _ (fun _ _ _ h => queryCore_canonical _ _ h) hs
  | bindBreak => exact bindWith_canonical _ _ _ _ _ _ (fun _ _ _ h => setBreaks_canonical _ _ h) hs
  | bindWatch => exact bindWith_canonical _ _ _ _ _ _ (fun _ _ _ h => setWatches_canonical _ _ h) hs
  | bindTrace => exact bindWith_canonical _ _ _ _ _ _ (fun _ _ _ h => setTrace_canonical _ _ h) hs
  | bindProfile => exact bindWith_canonical _ _ _ _ _ _ (fun _ _ _ h => setProfile_canonical _ _ h) hs
  | bindDumpctx => exact bindWith_canonical _ _ _ _ _ _ (fun _ _ _ h => dumpCtx_canonical _ _ h) hs
  | bindExtract => exact bindWith_canonical _ _ _ _ _ _ (fun _ _ _ h => extract_canonical _ _ h) hs

/-! ## Machine/Bundle -/

theorem frontTrap_canonical (rank : Nat) (code : BitVec 8) (slot : Option Nat) (tval : Word) (hs : Canonical s) :
    Canonical (frontTrap rank code slot tval s) := by
  grind [frontTrap, canonical_iff, !takeTrap_canonical, !foldl_canonical]

theorem firstFound_canonical (l : List Found) (hl : ∀ x ∈ l, Canonical x.2.2) :
    CanonicalOption (fun x => Canonical x.2.2) (firstFound l) := by
  induction l with
  | nil => trivial
  | cons x l ih =>
    grind [firstFound, CanonicalOption]

theorem atSlot_canonical (o : SlotOp) (hs : Canonical s) : Canonical (atSlot o s) := by
  grind [atSlot, canonical_iff]

theorem structural_canonical (o : SlotOp) (hs : Canonical s) : CanonicalOption (fun x => Canonical x.2.2) (structural o s) := by
  unfold structural
  cases slotReject s.frame.len o s with
  | none => trivial
  | some r => exact frontTrap_canonical _ _ _ _ (atSlot_canonical _ hs)

theorem gangFault_canonical (e : SlotOp × Instr) (hs : Canonical s) : CanonicalOption (fun x => Canonical x.2.2) (gangFault e s) := by
  grind [gangFault, CanonicalOption, !atSlot_canonical, !frontTrap_canonical]

theorem probe_canonical (e : SlotOp × Instr) (hs : Canonical s) : Canonical (probe e s) := by
  grind [probe, CanonicalRes, !after_canonical, !exec_canonical, !atSlot_canonical]

theorem trapFound_canonical (e : SlotOp × Instr) (hs : Canonical s) : CanonicalOption (fun x => Canonical x.2.2) (trapFound e s) := by
  grind [trapFound, CanonicalOption, !probe_canonical]

theorem codeFound_canonical (leaf : Option Nat) (o : SlotOp) (hs : Canonical s) :
    CanonicalOption (fun x => Canonical x.2.2) (codeFound leaf o s) := by
  grind [codeFound, CanonicalRes, CanonicalOption, !after_canonical, !reserved_canonical, !atSlot_canonical]

theorem hazardFound_canonical (live : List (SlotOp × Instr)) (hs : Canonical s) :
    CanonicalOption (fun x => Canonical x.2.2) (hazardFound live s) := by
  have h (f : Nat × RegName) : Canonical (after (trapAt 11 0x14 (regTval f.2) { s with frame := { s.frame with slot := f.1 } }) s) :=
    after_canonical _ (trapAt_canonical _ _ _ ⟨hs.mem, hs.spm, hs.rom⟩) hs
  unfold hazardFound
  generalize twiceWritten (live.map fun e => (e.1.slot, writesOf e.2)) = w
  split
  · cases w with
    | none => trivial
    | some f => exact h f
  · trivial

theorem allFound_canonical (ops : List SlotOp) (live : List (SlotOp × Instr)) (hs : Canonical s) :
    ∀ x ∈ (allFound ops live s), Canonical x.2.2 := by
  have h1 := filterMap_canonical (fun o => structural_canonical o hs) ops
  have h2 := filterMap_canonical (fun o => codeFound_canonical (chosenLeaf ops s) o hs) ops
  have h3 := filterMap_canonical (fun e => gangFault_canonical e hs) live
  have h4 := filterMap_canonical (fun e => trapFound_canonical e hs) live
  have h5 := hazardFound_canonical live hs
  intro y hy
  simp only [allFound, List.mem_append, Option.mem_toList] at hy
  rcases hy with ((((hy | hy) | hy) | hy) | hy) | hy
  · exact h1 y hy
  · exact h2 y hy
  · exact h3 y hy
  · split at hy
    · rw [List.mem_singleton.1 hy]; exact frontTrap_canonical _ _ _ _ hs
    · cases hy
  · exact h4 y hy
  · rwa [hy] at h5

theorem runSlots_canonical (l : List (SlotOp × Instr)) (hs : Canonical s) : Canonical (runSlots l s) := by
  induction l generalizing s with
  | nil => exact hs
  | cons x l ih =>
    grind [runSlots, CanonicalRes, canonical_iff, !after_canonical, !exec_canonical, !atSlot_canonical]

theorem stallAll_canonical (hs : Canonical s) : Canonical (stallAll s) := by
  grind [stallAll, CanonicalRes, !after_canonical, !stall_canonical]

theorem trapAgain_canonical (rank : Nat) {t : State} (hs : Canonical s) : Canonical (trapAgain rank t s) := by
  grind [trapAgain, canonical_iff, !takeTrap_canonical]

theorem runBundle_canonical (live : List (SlotOp × Instr)) (hs : Canonical s) : Canonical (runBundle live s) := by
  grind [runBundle, canonical_iff, !runSlots_canonical, !meetRegs_canonical, !finishBundle_canonical, !stallAll_canonical, !trapAgain_canonical]

theorem imageAtExit_canonical (hs : Canonical s) : Canonical (imageAtExit s) := by
  grind [imageAtExit, canonical_iff, !takeLate_canonical]

theorem issueSlots_canonical (ops : List SlotOp) (hs : Canonical s) : Canonical (issueSlots ops s) := by
  unfold issueSlots
  extract_lets live
  have h := firstFound_canonical _ (allFound_canonical ops live hs)
  split
  · rename_i e; rwa [e] at h
  · grind [canonical_iff, !imageAtExit_canonical, !stallAll_canonical, !probe_canonical, !runBundle_canonical]

theorem traceIssue_canonical {t : State} (hs : Canonical t) : Canonical (traceIssue s t) := by
  grind [traceIssue, !traceRecord_canonical]

theorem onPartner_canonical (f : State → State) (d : CtxId) (frame : Frame) {t : State} (hf : ∀ t, Canonical t → Canonical (f t))
    (hs : Canonical t) : Canonical (onPartner f d frame t) := by
  grind [onPartner, canonical_iff, !switchTo_canonical, !traceIssue_canonical]

theorem gangWise_canonical (f : State → State) (hf : ∀ t, Canonical t → Canonical (f t)) (hs : Canonical s) : Canonical (gangWise f s) := by
  have hi (t : State) (ht : Canonical t) : Canonical (traceIssue t (f t)) := traceIssue_canonical (hf t ht)
  have hp (d fr) (t : State) (ht : Canonical t) : Canonical (onPartner f d fr t) := onPartner_canonical f d fr hf ht
  have hw (c) (t : State) (ht : Canonical t) : Canonical (switchTo t c) := switchTo_canonical c ht
  have hj (t : State) (fr : Frame) (ht : Canonical t) : Canonical { t with frame := fr } := ⟨ht.1, ht.2, ht.3⟩
  unfold gangWise
  dsimp only
  split
  · exact hi s hs
  split
  · exact hi s hs
  · split
    · exact hw _ _ (hp _ _ _ (hi s hs))
    · exact hw _ _ (hp _ _ _ (hi s hs))
    · split
      · exact hi s hs
      · exact hi _ (hw _ _ (hj _ _ (hp _ _ _ (hi s hs))))
  · split
    · split
      · exact hw _ _ (hp _ _ _ hs)
      · exact hw _ _ (hp _ _ _ hs)
      · exact stallAll_canonical hs
    · split
      · exact hw _ _ (hp _ _ _ hs)
      · exact hw _ _ (hp _ _ _ hs)
      · exact stallAll_canonical hs
    · exact hj _ _ (hw _ _ (hp _ _ _ (hi s hs)))

theorem passFill_canonical (hs : Canonical s) : Canonical (passFill s) := by
  grind [passFill, canonical_iff, !modCtx_canonical, !foldl_canonical]

theorem withHeader_canonical (k : Header → List Byte → State → State) (hs : Canonical s)
    (hk : ∀ x y t, Canonical t → Canonical (k x y t)) : Canonical (withHeader s k) := by
  grind [withHeader, canonical_iff, !frontTrap_canonical, !fetchLine_canonical, !passFill_canonical]

theorem layOut_canonical (h : Header) (bs : List Byte) (hs : Canonical s) : Canonical (layOut h bs s) := by
  grind [layOut, canonical_iff]

theorem issueBare_canonical (i : Instr) (hs : Canonical s) : Canonical (issueBare i s) := by
  grind [issueBare, CanonicalRes, !frontTrap_canonical, !gangWise_canonical, !after_canonical, !exec_canonical]

theorem issueHeader_canonical (h : Header) (bs : List Byte) (hs : Canonical s) : Canonical (issueHeader h bs s) := by
  grind [issueHeader, canonical_iff, !layOut_canonical, !frontTrap_canonical, !issueBare_canonical, !beginSaves_canonical, !gangWise_canonical,
    !issueSlots_canonical]

theorem heldHeader_canonical (h : Header) (bs : List Byte) (hs : Canonical s) : Canonical (heldHeader h bs s) := by
  grind [heldHeader, canonical_iff, !layOut_canonical, !beginSaves_canonical, !stallAll_canonical]

theorem attempt_canonical (hs : Canonical s) : Canonical (attempt s) := by
  grind [attempt, canonical_iff, !withHeader_canonical, !heldHeader_canonical, !issueHeader_canonical, !takeLate_canonical, !takeIrq_canonical,
    !stallAll_canonical]

theorem portsBack_canonical (c : CtxId) {t : State} (hs : Canonical t) : Canonical (portsBack c s t) := by
  grind [portsBack, !restartCount_canonical, !modCore_canonical, !foldl_canonical]

theorem tryPorts_canonical (l : List CtxId) (hs : Canonical s) : Canonical (tryPorts l s).1 := by
  induction l generalizing s with
  | nil => exact hs
  | cons x l ih =>
    grind [tryPorts, !attempt_canonical, !giveIssue_canonical, !portsBack_canonical, !passIssue_canonical]

theorem afterYield_canonical (hs : Canonical s) : Canonical (afterYield s) := by
  grind [afterYield, !restartCount_canonical, !passIssue_canonical]

theorem tryEvent_canonical (e : Event) (hs : Canonical s) : CanonicalOption Canonical (tryEvent e s) := by
  have h : CanonicalRes (exec e.op { s with input := e.arg }) := exec_canonical _ ⟨hs.1, hs.2, hs.3⟩
  unfold tryEvent
  split
  · rename_i t e
    rw [e] at h
    dsimp only
    split
    · trivial
    · exact ⟨h.1, h.2, h.3⟩
  · trivial

theorem firstEvent_canonical (es : List Event) (hs : Canonical s) : CanonicalOption Canonical (firstEvent es s) := by
  induction es with
  | nil => trivial
  | cons e es ih =>
    have h := tryEvent_canonical e hs
    grind [firstEvent, CanonicalOption]

theorem earliest_canonical (es : List Event) (hs : Canonical s) : CanonicalOption Canonical (earliest es s) := by
  induction es with
  | nil => trivial
  | cons e es ih =>
    have h := tryEvent_canonical e hs
    grind [earliest, CanonicalOption]

theorem elsewhere_canonical (hs : Canonical s) : Canonical (elsewhere s) := by
  have h := firstEvent_canonical (internalEvents s) hs
  have hp := tryPorts_canonical (otherPorts s) hs
  have he := fun t ht => earliest_canonical (s := t) (timeouts t) ht
  unfold elsewhere
  split
  · rename_i e; rwa [e] at h
  · split <;> rename_i e <;> rw [e] at hp
    · exact afterYield_canonical hp
    · have hw := switchTo_canonical s.who hp
      have := he _ hw
      revert this
      cases earliest (timeouts (switchTo _ s.who)) (switchTo _ s.who) with
      | none => exact fun _ => hw
      | some u => exact fun h => h

theorem portStep_canonical (hs : Canonical s) : Canonical (portStep s) := by
  grind [portStep, !tryPorts_canonical, !afterYield_canonical, !elsewhere_canonical, !switchTo_canonical]

theorem agendaStep_canonical (e : Event) (hs : Canonical s) : Canonical (agendaStep e s) := by
  grind [agendaStep, CanonicalRes, canonical_iff, !after_canonical, !exec_canonical]

theorem acknowledge_canonical (hs : Canonical s) : Canonical (acknowledge s) := by
  grind [acknowledge, !modDev_canonical]

theorem endSendStall_canonical (c : CtxId) (hs : Canonical s) : Canonical (endSendStall c s) := by
  grind [endSendStall, !modCtx_canonical]

theorem passTime_canonical {t : State} (hs : Canonical t) : Canonical (passTime s t) := by
  grind [passTime, canonical_iff, !acknowledge_canonical, !endSendStall_canonical, !settleArrivals_canonical, !countCycles_canonical,
    !foldl_canonical]

theorem traceStops_canonical {t : State} (hs : Canonical t) : Canonical (traceStops s t) := by
  grind [traceStops, !traceRecord_canonical, !foldl_canonical]

theorem oneStep_canonical (hs : Canonical s) : Canonical (oneStep s) := by
  grind [oneStep, canonical_iff, !agendaStep_canonical, !portStep_canonical, !passTime_canonical, !traceStops_canonical]

end Operations

/-- Settles O59: a step is `oneStep`, which is built from operations that keep the canonical form (`exec_canonical` for the instructions and
the device's steps, `oneStep_canonical`). -/
theorem memoryInvariant : Obligations.MemoryInvariant := by
  intro s t hs hstep
  have h := oneStep_canonical (canonical_iff.2 hs)
  unfold step at hstep
  split at hstep
  · obtain rfl := Host.Outcome.next.inj hstep
    exact canonical_iff.1 h
  · exact nomatch hstep

end Sys2Proof.Machine

namespace Sys2Proof.Machine

/-! ## Privilege (R356) -/

/-- A system-profile context in supervisor mode may run what both profiles run. -/
theorem needPriv_both {s : State} (sys : s.who.isSys = true) (sup : getBit s.ctx.status stMODE = true) (k : State → Res) :
    needPriv .both s k = k s := by
  cases hw : s.who <;> simp_all [needPriv, supervisor, CtxId.isSys]

/-- A compute context, or one in user mode, runs no privileged operation. -/
theorem needPriv_refused {s : State} (r : Runs) (user : s.who.isSys = false ∨ getBit s.ctx.status stMODE = false) (k : State → Res) :
    needPriv r s k = trapAt 5 0x05 s.frame.parcel s := by
  cases hw : s.who <;> cases r <;> simp_all [needPriv, supervisor, privileged, CtxId.isSys]

/-! ## Handler entry and return (R359, R360) -/

/-- SYS_STATUS at a handler's entry: mode and interrupt enable kept aside, supervisor mode, interrupts off, TF set (R360). -/
def handlerStatus (st : Word) : Word :=
  putBit (putBit (putBit (putBit (putBit st stPMODE (getBit st stMODE)) stPIE (getBit st stIE)) stMODE true) stIE false) stTF true

theorem handlerStatus_bits (st : Word) :
    getBit (handlerStatus st) stMODE = true ∧ getBit (handlerStatus st) stIE = false ∧ getBit (handlerStatus st) stTF = true ∧
      getBit (handlerStatus st) stPMODE = getBit st stMODE ∧ getBit (handlerStatus st) stPIE = getBit st stIE := by
  simp [handlerStatus, getBit_putBit, stMODE, stPMODE, stIE, stPIE, stTF]

/-- A context of the system profile whose TF is clear, after its handler's entry. -/
def handled (epc cause tval : Word) (x : Ctx) : Ctx :=
  { x with epc := epc, cause := cause, tval := tval, cameFrom := none, status := handlerStatus x.status, pc := x.vbase, run := .running }

theorem enterHandler_enters {s : State} {c : CtxId} (tf : getBit (getCtx s c).status stTF = false) (epc cause tval : Word) :
    enterHandler c epc cause tval s = setCtx s c (handled epc cause tval (drain s c (getCtx s c))) := by
  have drained : getBit (drain s c (getCtx s c)).status stTF = false := by rwa [(drain_onlyRegisters ..).status]
  unfold enterHandler
  simp only [drained, Bool.false_eq_true, ↓reduceIte]
  rfl

theorem drain_vbase (s : State) (c : CtxId) (x : Ctx) : (drain s c x).vbase = x.vbase := by
  rw [drain_onlyRegisters s c x]

/-- The status after a return: mode and interrupt enable as kept aside, TF clear (R359). -/
theorem returnFromTrap_bits (s : State) :
    getBit (returnFromTrap s).ctx.status stMODE = getBit s.ctx.status stPMODE ∧
      getBit (returnFromTrap s).ctx.status stIE = getBit s.ctx.status stPIE ∧ getBit (returnFromTrap s).ctx.status stTF = false := by
  simp [returnFromTrap, getBit_putBit, stMODE, stPMODE, stIE, stPIE, stTF]

/-- Settles O9: the entry is `handled` on the drained context (`enterHandler_enters`), whose status bits ERET puts back
(`handlerStatus_bits`, `returnFromTrap_bits`). -/
theorem handlerEntryAndReturn : Obligations.HandlerEntryAndReturn := by
  intro s epc cause tval sys tf
  have own : takeTrap s.who epc cause tval s = setCtx s s.who (handled epc cause tval (drain s s.who s.ctx)) := by
    rw [takeTrap, if_pos sys, enterHandler_enters (by rwa [getCtx_who]), getCtx_who]
  obtain ⟨mode, ie, trapped, pmode, pie⟩ := handlerStatus_bits (drain s s.who s.ctx).status
  have status : (drain s s.who s.ctx).status = s.ctx.status := (drain_onlyRegisters ..).status
  have pmode := pmode.trans (congrArg (getBit · stMODE) status)
  have pie := pie.trans (congrArg (getBit · stIE) status)
  intro t
  have who : t.who = s.who := by rw [show t = _ from own, setCtx_who]
  have ctx : t.ctx = handled epc cause tval (drain s s.who s.ctx) := by rw [show t = _ from own, setCtx_who_ctx]
  have supervised : getBit t.ctx.status stMODE = true := by rw [ctx]; exact mode
  obtain ⟨mode', ie', tf'⟩ := returnFromTrap_bits t
  have eret : exec .eret t = .next (returnFromTrap t) :=
    needPriv_both (by rwa [who]) supervised fun s => .next (returnFromTrap s)
  rw [ctx] at mode' ie' ⊢
  exact ⟨rfl, rfl, rfl, drain_vbase .., rfl, mode, ie, trapped, pmode, pie, returnFromTrap t, eret, by rw [returnFromTrap_next, ctx]; rfl, rfl,
    mode'.trans pmode, ie'.trans pie, tf'⟩

end Sys2Proof.Machine

namespace Sys2Proof.Machine

/-! ## Reset (R351, R480) -/

theorem findCtx_map_same {l : List CtxId} {c : CtxId} {x : Ctx} (h : c ∈ l) : findCtx (l.map fun d => (d, x)) c = x := by
  induction l with
  | nil => cases h
  | cons d l ih =>
    simp only [List.map_cons, findCtx]
    split
    · rfl
    · next ne => exact ih (List.mem_of_ne_of_mem (Ne.symm ne) h)

theorem findCtx_map_other {l : List CtxId} {c : CtxId} {x : Ctx} (h : c ∉ l) : findCtx (l.map fun d => (d, x)) c = Ctx.blank := by
  induction l with
  | nil => rfl
  | cons d l ih =>
    simp only [List.mem_cons, not_or] at h
    obtain ⟨ne, rest⟩ := h
    simp only [List.map_cons, findCtx, if_neg (Ne.symm ne), ih rest]

theorem mem_otherSys {c : CtxId} : c ∈ otherSys ↔ c ≠ .sys 0 0 ∧ ∃ n i, c = .sys n i := by
  rw [otherSys, List.mem_filter]
  simp only [List.mem_flatMap, List.mem_map, List.mem_finRange, true_and, decide_eq_true_eq, ne_eq, eq_comm (b := c)]
  exact and_comm

/-- A compute context and a control core are free at reset. -/
theorem getCtx_reset_free {c : CtxId} (h : ∀ n i, c ≠ .sys n i) : getCtx State.reset c = Ctx.blank := by
  rw [getCtx, if_neg (show c ≠ State.reset.who from h 0 0)]
  exact findCtx_map_other fun m => by
    obtain ⟨-, n, i, e⟩ := mem_otherSys.1 m
    exact h n i e

/-- Of the system cores only core 0 of stack 0 runs at reset; the others wait (R480). -/
theorem getCtx_reset_sys (n : Fin 8) (i : Fin 4) :
    getCtx State.reset (.sys n i) = if n = 0 ∧ i = 0 then Ctx.sysReset else Ctx.sysWaiting := by
  unfold getCtx
  by_cases own : n = 0 ∧ i = 0
  · rw [if_pos own, if_pos (by rw [own.1, own.2]; rfl)]
    rfl
  · have other : CtxId.sys n i ≠ State.reset.who := fun e => own (CtxId.sys.inj e)
    rw [if_neg own, if_neg other]
    exact findCtx_map_same (mem_otherSys.2 ⟨other, n, i, rfl⟩)

theorem sump_reset (n : Fin 8) : (stackOf State.reset n).sump = Sump.reset n.val := by
  simp [stackOf, State.reset, Stack.reset]

/-- Settles O55: the contexts by `getCtx_reset_sys` and `getCtx_reset_free`, Sump by `sump_reset`, the device as it is defined. -/
theorem resetValues : Obligations.ResetValues := by
  refine ⟨rfl, canonical_iff.1 reset_canonical, fun n i => ?systemCore, fun k => ?controlCore, fun k x => ?compute, rfl, rfl, rfl, rfl, rfl, rfl, rfl,
    fun n => ?counters, fun n => ?sump⟩
  case systemCore =>
    dsimp only
    rw [getCtx_reset_sys]
    split <;> exact ⟨rfl, rfl, rfl, rfl, rfl, rfl, rfl, rfl⟩
  case controlCore | compute =>
    rw [getCtx_reset_free (by simp)]
    exact ⟨rfl, rfl⟩
  case counters => simp [State.reset, Dev.reset]
  case sump =>
    dsimp only
    rw [sump_reset]
    have first : n.val = 0 ↔ n = 0 := by omega
    simp only [Sump.reset, first, and_self]

end Sys2Proof.Machine

namespace Sys2Proof.Machine

/-! ## System registers (R351, R353 to R356, R358, R359) -/

theorem targeted_self (sel : Nat) (before : List RegName) (s : State) (k : CtxId → Res) : targeted 0 sel before s k = k s.who := if_pos rfl

/-- A register of device scope belongs to no other context (R356). -/
theorem targeted_deviceScope {t : SR} {sel : Nat} (other : t ≠ 0) (scope : 7 ≤ sel) (before : List RegName) (s : State) (k : CtxId → Res) :
    targeted t sel before s k = protection s := by
  rw [targeted, if_neg other, if_pos]
  simp [ctxScope, scope]

/-- A target register of context scope is read, and names the context (R355). -/
theorem targeted_named {t : SR} {sel : Nat} {before : List RegName} {s : State} (other : t ≠ 0) (scope : sel < 7)
    (ready : Ready (before ++ [.s t]) [] s) (k : CtxId → Res) : targeted t sel before s k = needTarget (rdS s t) s k := by
  rw [targeted, if_neg other, if_neg (by simp [ctxScope, scope])]
  dsimp only
  refine guardRegs_ready (ready.mono fun r m => ?_) _
  refine List.mem_append.2 ((List.mem_append.1 m).imp (fun m => ?_) id)
  split at m
  · exact List.mem_of_mem_filter m
  · split at m
    · exact List.mem_of_mem_filter m
    · cases m

theorem needTarget_unnamed {s : State} {g : Fin 96} (hw : s.who = .ctl g) {v : Word} (unnamed : v.toNat / 256 % 2 = 0) (k : CtxId → Res) :
    needTarget v s k = protection s := by
  have bit : getBit v 8 = false := by rw [getBit_eq]; simp [unnamed]
  unfold needTarget needUser
  rw [hw]
  dsimp only
  rw [bit]
  rfl

theorem getBit_or (v w : Word) (i : Nat) : getBit (v ||| w) i = (getBit v i || getBit w i) := BitVec.getLsbD_or

theorem bitsAt_zero (x n : Nat) : bitsAt x 0 n = x % 2 ^ n := by simp [bitsAt]

theorem getBit_low_bits (v : Word) (n : Nat) {i : Nat} (hi : i < 64) : getBit (keepBits v 0 n) i = (decide (i < n) && getBit v i) := by
  rw [keepBits, bitsAt_zero, pow_zero, mul_one, getBit, BitVec.getLsbD_ofNat, Nat.testBit_mod_two_pow]
  simp [hi, getBit, BitVec.getLsbD]

theorem getBit_stopMask (x : Word) {i : Nat} (hi : i < 64) : getBit (x &&& 0x20) i = (getBit x i && decide (i = 5)) := by
  have mask : (0x20 : Word) = BitVec.twoPow 64 5 := by decide
  rw [mask]
  simp [getBit, hi]

/-- SYS_STATUS as a write of a system-profile context leaves it: bit 5 keeps, bits 6 and up are 0 (R353). -/
theorem putCtxReg_status_bits {c : CtxId} (sys : c.isSys = true) (v : Word) (x : Ctx) {i : Nat} (hi : i < 64) :
    getBit (putCtxReg c 0 v x).status i = if i < 5 then getBit v i else if i = 5 then getBit x.status i else false := by
  show getBit ((if c.isSys then keepBits v 0 5 else keepBits v 1 4) ||| (x.status &&& 0x20)) i = _
  rw [if_pos sys, getBit_or, getBit_low_bits v 5 hi, getBit_stopMask _ hi]
  by_cases low : i < 5
  · simp [low, show i ≠ 5 by omega]
  · by_cases five : i = 5 <;> simp [low, five]

/-- Bits 12 to 55, where they are (R354, R402). -/
theorem keepBits_page (v : Word) : keepBits v 12 44 = BitVec.ofNat 64 (v.toNat % 2 ^ 56 / 4096 * 4096) :=
  congrArg (BitVec.ofNat 64) (by show v.toNat / 2 ^ 12 % 2 ^ 44 * 2 ^ 12 = _; omega)

theorem keepBits_line (v : Word) : keepBits v 6 58 = BitVec.ofNat 64 (v.toNat / 64 * 64) :=
  congrArg (BitVec.ofNat 64) (by show v.toNat / 2 ^ 6 % 2 ^ 58 * 2 ^ 6 = _; omega)

theorem sysListed_gap {n : Nat} (low : 7 ≤ n) (high : n < 0x010) : sysListed n = false := by
  simp [sysListed, ctxScope]; omega

section Own

variable {s : State} (sys : s.who.isSys = true) (sup : getBit s.ctx.status stMODE = true)
include sys sup

/-- GETSYS of a register of the issuing context or of the device (R351). -/
theorem getsys_own {d : SR} {sel : BitVec 12} (listed : sysListed sel.toNat = true) (ready : Ready [] [.s d] s) :
    exec (.getsys d 0 sel) s = .next (land (.s d) (.word (sysValue s s.who sel.toNat)) 1 s) := by
  show execGetsys d 0 sel s = _
  rw [execGetsys, listed, if_neg (by decide), needPriv_both sys sup, targeted_self, guardRegs_ready ready]

variable {x : SR} {sel : BitVec 12} (ready : Ready [.s x] [] s)
include ready

/-- SETSYS of a register of the issuing context's own. -/
theorem setsys_own (scope : sel.toNat < 7) :
    exec (.setsys x 0 sel) s = .next { s with ctx := putCtxReg s.who sel.toNat (rdS s x) s.ctx } := by
  have ctx : ctxScope sel.toNat = true := by simp [ctxScope, scope]
  show execSetsys x 0 sel s = _
  rw [execSetsys, if_neg (by simp [sysListed, ctx]), needPriv_both sys sup, targeted_self, guardRegs_ready ready]
  dsimp only
  rw [if_pos ctx]
  simp [modCtx, setCtx]

/-- SETSYS of a register of the device, that of the error log apart. -/
theorem setsys_device (listed : sysListed sel.toNat = true) (scope : 7 ≤ sel.toNat) (quiet : sel.toNat ≠ 0x024) :
    exec (.setsys x 0 sel) s = .next (modDev s (putDevReg sel.toNat (rdS s x))) := by
  show execSetsys x 0 sel s = _
  rw [execSetsys, if_neg (by simp [listed]), needPriv_both sys sup, targeted_self, guardRegs_ready ready]
  dsimp only
  rw [if_neg (by simp [ctxScope, scope]), if_neg quiet]

theorem setsysThreshWindow_own : exec (.setsysThreshWindow x 0 sel) s = .next (putWatchReg sel.toNat (rdS s x) s) := by
  show execSetsysThreshWindow x 0 sel s = _
  rw [execSetsysThreshWindow, needPriv_both sys sup, targeted_self, guardRegs_ready ready]

theorem setsysFeatack_own : exec (.setsysFeatack x 0 sel) s = .next (putFeatReg sel.toNat (rdS s x) s) := by
  show execSetsysFeatack x 0 sel s = _
  rw [execSetsysFeatack, needPriv_both sys sup, targeted_self, guardRegs_ready ready]

end Own

/-- Outside a system-profile context in supervisor mode every SETSYS and GETSYS of a listed register is privileged (R356). -/
theorem sysRegisters_privileged {s : State} (unfit : ¬(s.who.isSys = true ∧ getBit s.ctx.status stMODE = true)) (d x r : SR) (sel : BitVec 12) :
    exec (.setsysThreshWindow x r sel) s = trapAt 5 0x05 s.frame.parcel s ∧ exec (.setsysFeatack x r sel) s = trapAt 5 0x05 s.frame.parcel s ∧
      (sysListed sel.toNat = true →
        exec (.getsys d r sel) s = trapAt 5 0x05 s.frame.parcel s ∧ exec (.setsys x r sel) s = trapAt 5 0x05 s.frame.parcel s) := by
  have user : s.who.isSys = false ∨ getBit s.ctx.status stMODE = false := by
    simpa only [not_and_or, Bool.not_eq_true] using unfit
  refine ⟨?_, ?_, fun listed => ⟨?_, ?_⟩⟩
  · show execSetsysThreshWindow x r sel s = _
    rw [execSetsysThreshWindow, needPriv_refused _ user]
  · show execSetsysFeatack x r sel s = _
    rw [execSetsysFeatack, needPriv_refused _ user]
  · show execGetsys d r sel s = _
    rw [execGetsys, if_neg (by simp [listed]), needPriv_refused _ user]
  · show execSetsys x r sel s = _
    rw [execSetsys, if_neg (by simp [listed]), needPriv_refused _ user]

theorem sysRegisters_reserved {s : State} (d x r : SR) {sel : BitVec 12} (unlisted : sysListed sel.toNat = false) :
    exec (.getsys d r sel) s = trapAt 4 0x02 s.frame.parcel s ∧ exec (.setsys x r sel) s = trapAt 4 0x02 s.frame.parcel s := by
  refine ⟨?_, ?_⟩
  · show execGetsys d r sel s = _
    rw [execGetsys, if_pos (by simp [unlisted])]
    rfl
  · show execSetsys x r sel s = _
    rw [execSetsys, if_pos (by simp [unlisted])]
    rfl

theorem watchClass (k : Fin 16) {b : Nat} (e : b % 16 = 0) : Fin.ofNat 16 (b + k.val) = k := Fin.ext (by show (b + k.val) % 16 = k.val; omega)

section Watch

variable {sel : Nat} {k : Fin 16} (its : Fin.ofNat 16 sel = k) (alive : deadClass k.val = false) (v : Word) (s : State)
include its alive

/-- A write of SYS_THRESH of a class that counts begins its window anew (R432). -/
theorem putWatchReg_thresh (low : sel < 0x050) : let t := putWatchReg sel v s
    t.dev.thresh[k.val] = BitVec.ofNat 64 (v.toNat % 2 ^ 34) ∧ t.dev.window = s.dev.window ∧ t.dev.wc[k.val] = 0 ∧
      t.dev.wstart[k.val] = s.now ∧ t.ctx = s.ctx ∧ SameBytes s t := by
  subst its
  unfold putWatchReg
  simp only [alive, low, ↓reduceIte]
  simp [modDev, keepBits, bitsAt, SameBytes]

theorem putWatchReg_window (high : 0x050 ≤ sel) : let t := putWatchReg sel v s
    t.dev.window[k.val] = BitVec.ofNat 64 (v.toNat % 2 ^ 32) ∧ t.dev.thresh = s.dev.thresh ∧ t.dev.wc[k.val] = 0 ∧
      t.dev.wstart[k.val] = s.now ∧ t.ctx = s.ctx ∧ SameBytes s t := by
  subst its
  unfold putWatchReg
  simp only [alive, Nat.not_lt.2 high, ↓reduceIte]
  simp [modDev, keepBits, bitsAt, SameBytes]

end Watch

theorem putWatchReg_dead {sel : Nat} (dead : deadClass (sel % 16) = true) (v : Word) (s : State) : putWatchReg sel v s = s := if_pos dead

/-- Settles O41: privilege and reserved codes first, then the registers of the context and the device one by one, then the other
context that a control core names (`targeted_named`). -/
theorem systemRegisters : Obligations.SystemRegisters := by
  intro s d x r sel
  dsimp only
  refine ⟨fun unfit => sysRegisters_privileged unfit d x r sel, fun low high => sysRegisters_reserved d x r (sysListed_gap low high),
    ?read, ?write, ?scope, ?other⟩
  case read =>
    rintro ⟨sys, sup⟩ rfl ready e m n
    have value : sysListed e.1 = true ∧ sysValue s s.who e.1 = e.2 := by
      fin_cases m <;> refine ⟨rfl, ?_⟩ <;> simp [sysValue, ctxScope, ctxReg, devReg,deadClass, featDev]
    rw [getsys_own sys sup (n ▸ value.1) ready, n, value.2]
  case write =>
    rintro ⟨sys, sup⟩ rfl ready
    have own (k : Nat) (n : sel.toNat = k) (hk : k < 7) :
        exec (.setsys x 0 sel) s = .next { s with ctx := putCtxReg s.who k (rdS s x) s.ctx } := by
      rw [setsys_own sys sup ready (n ▸ hk), n]
    have device (k : Nat) (n : sel.toNat = k) (listed : sysListed k = true) (hk : 7 ≤ k) (quiet : k ≠ 0x024) :
        exec (.setsys x 0 sel) s = .next (modDev s (putDevReg k (rdS s x))) := by
      rw [setsys_device sys sup ready (n ▸ listed) (n ▸ hk) (n ▸ quiet), n]
    refine ⟨fun n => ⟨_, own 0 n (by decide), rfl, fun i hi => putCtxReg_status_bits sys _ _ hi⟩, fun n => own 2 n (by decide),
      fun n => own 3 n (by decide), fun n => ?vbase, fun n => ?ptbase, fun n => own 6 n (by decide),
      fun n => ?quantum, fun n => ?preempt, fun n => ?watchdog, ?readOnly, fun k six seven fifteen => ?watch, ?dead, fun n fresh => ?ack, fun n started => ?acked⟩
    case vbase =>
      rw [own 4 n (by decide), ← keepBits_line]
      rfl
    case ptbase =>
      rw [own 5 n (by decide), ← keepBits_page]
      rfl
    case quantum =>
      rw [device 0x020 n rfl (by decide) (by decide), ← bitsAt_zero]
      rfl
    case preempt =>
      rw [device 0x021 n rfl (by decide) (by decide), ← bitsAt_zero]
      rfl
    case watchdog =>
      rw [device 0x026 n rfl (by decide) (by decide), ← bitsAt_zero]
      rfl
    case readOnly =>
      rintro (n | n)
      · exact device _ n rfl (by decide) (by decide)
      · exact device _ n rfl (by decide) (by decide)
    case watch =>
      have alive : deadClass k.val = false := by simp [deadClass, six, seven, fifteen]
      exact ⟨fun n => ⟨_, setsysThreshWindow_own sys sup ready, putWatchReg_thresh (n ▸ watchClass k rfl) alive _ s (by omega)⟩,
        fun n => ⟨_, setsysThreshWindow_own sys sup ready, putWatchReg_window (n ▸ watchClass k rfl) alive _ s (by omega)⟩⟩
    case dead =>
      rintro (n | n) <;> rw [setsysThreshWindow_own sys sup ready, putWatchReg_dead (by rw [n]; rfl)]
    case ack =>
      rw [setsysFeatack_own sys sup ready, putFeatReg, if_neg (by simp [fresh]), n]
      rfl
    case acked => rw [setsysFeatack_own sys sup ready, putFeatReg, if_pos started]
  case scope =>
    rintro ⟨sys, sup⟩ other low high
    have listed : sysListed sel.toNat = true := by simp [sysListed, low, high]
    show execGetsys d r sel s = _
    rw [execGetsys, if_neg (by simp [listed]), needPriv_both sys sup, targeted_deviceScope other (by omega)]
    rfl
  case other =>
    intro g ctl sup other scope
    have sys : s.who.isSys = true := by rw [ctl]; rfl
    have listed : sysListed sel.toNat = true := by simp [sysListed, ctxScope, scope]
    refine ⟨fun unnamed ready => ?_, fun named two ready free => ?_, fun named two ready => ?_⟩
    · show execGetsys d r sel s = _
      rw [execGetsys, if_neg (by simp [listed]), needPriv_both sys sup, targeted_named other scope ready, needTarget_unnamed ctl unnamed]
      rfl
    · show execGetsys d r sel s = _
      rw [execGetsys, if_neg (by simp [listed]), needPriv_both sys sup, targeted_named other scope ready, needTarget_user ctl named,
        guardRegs_ready free, two]
      rfl
    · have its : Ready [.s x] [] s := ready.mono (by simp)
      refine ⟨modCtx s _ (putCtxReg (userCtx (4 * g.val + (rdS s r).toNat / 4 % 4) ((rdS s r).toNat % 4)) 2 (rdS s x)), ?_, getCtx_modCtx_self .., modCtx_who .., fun a => ?_, fun y ne => getCtx_modCtx_other _ _ ne⟩
      · show execSetsys x r sel s = _
        rw [execSetsys, if_neg (by simp [listed]), needPriv_both sys sup, targeted_named other scope ready, needTarget_user ctl named,
          guardRegs_ready its]
        dsimp only
        rw [if_pos (by simp [ctxScope, scope]), two]
      · simp

end Sys2Proof.Machine

namespace Sys2Proof.Machine

/-! ## EQPOP, WFI and interrupts (R359 to R361) -/

section Control

variable {s : State} {g : Fin 96} (ctl : s.who = .ctl g) (sup : getBit s.ctx.status stMODE = true)
include ctl sup

/-- What EQPOP does with the queue of its cluster. -/
theorem eqpop_runs {pd : PR} {d : SR} (even : d.val % 2 = 0) (ready : Ready [] [.s d, .s (nextReg d), .p pd] s) :
    exec (.eqpop pd d) s =
      let put (lo hi : Word) (some' : Bool) (s : State) : State :=
        land (.p pd) (.flag some') 1 (land (.s (nextReg d)) (.word hi) 1 (land (.s d) (.word lo) 1 s))
      match (clusterOf s g.val).events with
      | [] => .next (put 0 0 false s)
      | r :: rest => .next (put r.lo (recordHigh r) true (modCluster s g.val fun u => { u with events := rest })) := by
  have own : s.who.cluster = g.val := by rw [ctl]; rfl
  show execEqpop pd d s = _
  rw [execEqpop, needPriv_ctl ctl sup (by decide), if_neg (by omega), guardRegs_ready ready, own] <;> rfl

end Control

theorem nextReg_val {d : SR} (even : d.val % 2 = 0) : nextReg d = ⟨d.val + 1, by omega⟩ :=
  Fin.ext (Nat.mod_eq_of_lt (by omega))

/-- R270's layout of the high half of a record, field by field. -/
theorem recordHigh_eq (r : Record) : recordHigh r = BitVec.ofNat 64 (r.task % 2 ^ 32 + r.cluster % 2 ^ 8 * 2 ^ 32 + r.who % 16 * 2 ^ 40 +
    r.kind % 16 * 2 ^ 44 + r.b14.toNat * 2 ^ 48 + r.b15.toNat * 2 ^ 56) :=
  congrArg (BitVec.ofNat 64) (by omega)

theorem pendingIrq_ctl (s : State) (g : Fin 96) : pendingIrq s (.ctl g) = if (clusterOf s g.val).events = [] then none else some 0 := by
  simp [pendingIrq]

/-- The highest-numbered line that is up (R361). -/
theorem pendingIrq_highest {s : State} {k : Fin 5} (nonzero : k ≠ 0) (up : s.dev.irq[k.val] = true)
    (highest : ∀ i : Fin 5, k < i → s.dev.irq[i.val] = false) : pendingIrq s (.sys 0 0) = some k := by
  have two := highest 2
  have three := highest 3
  have four := highest 4
  simp only [pendingIrq, and_self, ↓reduceIte]
  clear highest
  fin_cases k
  · exact absurd rfl nonzero
  all_goals simp_all

theorem pendingIrq_some {s : State} {k : Fin 5} (nonzero : k ≠ 0) (up : s.dev.irq[k.val] = true) : (pendingIrq s (.sys 0 0)).isSome = true := by
  simp only [pendingIrq, and_self, ↓reduceIte, List.find?_isSome]
  refine ⟨k, ?_, up⟩
  fin_cases k <;> simp_all

theorem pendingIrq_none {s : State} (down : ∀ i : Fin 5, i ≠ 0 → s.dev.irq[i.val] = false) : pendingIrq s (.sys 0 0) = none := by
  simp only [pendingIrq, and_self, ↓reduceIte, List.find?_eq_none]
  intro i m
  have ne : i ≠ 0 := by rintro rfl; simp at m
  simp [down i ne]

section Waits

variable {s : State} (sys : s.who.isSys = true) (sup : getBit s.ctx.status stMODE = true)
include sys sup

theorem wfi_waits (quiet : pendingIrq s s.who = none) : exec .wfi s = .next { s with ctx := { s.ctx with run := .waiting } } := by
  show execWfi s = _
  rw [execWfi, needPriv_both sys sup, quiet]
  rfl

theorem wfi_passes (pending : (pendingIrq s s.who).isSome = true) : exec .wfi s = .next s := by
  show execWfi s = _
  rw [execWfi, needPriv_both sys sup, if_pos pending]

end Waits

theorem takeIrq_off {s : State} {c : CtxId} (off : getBit (getCtx s c).status stIE = false) : takeIrq c s = s := by
  unfold takeIrq
  dsimp only
  split
  · rw [if_neg (by simp [off])]
  · rfl

/-- SYS_CAUSE of an interrupt (R360). -/
theorem causeWord_interrupt (k : Fin 5) : causeWord (BitVec.ofNat 8 k.val) false false false true none = BitVec.ofNat 64 (k.val + 2 ^ 11) := by
  fin_cases k <;> decide

/-- A pending interrupt that is enabled enters the handler; the line of a system core goes down (R361). -/
theorem takeIrq_enters {s : State} {c : CtxId} {k : Fin 5} (pending : pendingIrq s c = some k) (sys : c.isSys = true)
    (active : isActive (getCtx s c).run = true) (on : getBit (getCtx s c).status stIE = true) (tf : getBit (getCtx s c).status stTF = false) :
    takeIrq c s =
      let t := setCtx s c (handled (getCtx s c).pc (BitVec.ofNat 64 (k.val + 2 ^ 11)) 0 (drain s c (getCtx s c)))
      if k = 0 then t else modDev t fun d => { d with irq := d.irq.set k.val false } := by
  unfold takeIrq
  rw [pending]
  dsimp only
  rw [if_pos ⟨sys, active, on⟩, enterHandler_enters tf, causeWord_interrupt]

/-- The registers of a handler's entry (R360), the drained context's status being the context's own. -/
theorem handled_drained (s : State) (c : CtxId) (epc cause tval : Word) :
    let x := getCtx s c
    let y := handled epc cause tval (drain s c x)
    y.epc = epc ∧ y.cause = cause ∧ y.tval = tval ∧ y.pc = x.vbase ∧ y.status = handlerStatus x.status := by
  have status : (drain s c (getCtx s c)).status = (getCtx s c).status := by rw [(drain_onlyRegisters ..).status]
  exact ⟨rfl, rfl, rfl, drain_vbase .., congrArg handlerStatus status⟩

/-! ## TLBINV (R408, R409) -/

/-- No access waits for service or is on its way to another device, nor does a write of the device. -/
structure AccessesIdle (s : State) : Prop where
  cores : ∀ e ∈ s.cores, (coreOf s e.1).held = none ∧ e.2.waits = [] ∧ ∀ l ∈ (coreOf s e.1).sidelog, l.waits = none
  outreqs : s.dev.outreqs = []
  owed : s.dev.owed = []
  engines : ∀ e ∈ s.clusters, ∀ o ∈ e.2.copies ++ e.2.gathers, o.waitsVa = none
  rings : ∀ m : Fin 8, (stackOf s m).bounce = []

theorem unperformed_idle {s : State} (h : AccessesIdle s) (f : TlbEntry → Bool) : unperformed s f = false := by
  refine Bool.or_eq_false_iff.2 ⟨List.any_eq_false.2 fun e m => ?_, ?_⟩
  · simp [(h.cores e m).2.1]
  · rw [h.outreqs]
    rfl

theorem AccessesIdle.dropLeaves {s : State} (h : AccessesIdle s) (f : TlbEntry → Bool) : AccessesIdle (dropLeaves f s) where
  cores := h.cores
  outreqs := h.outreqs
  owed := h.owed
  engines e m := by
    obtain ⟨c, mc, rfl⟩ := List.mem_map.1 m
    exact h.engines c mc
  rings m := by simpa [stackOf, Machine.dropLeaves] using h.rings m

theorem retryHeld_idle {s : State} (h : AccessesIdle s) (f : Covers) : retryHeld f s = s :=
  foldl_stays fun e m => by simp [(h.cores e m).1]

theorem retryLogs_idle {s : State} (h : AccessesIdle s) (f : Covers) : retryLogs f s = s :=
  foldl_stays fun e m => by
    split
    · next l rest log => simp [(h.cores e m).2.2 l (by simp [log])]
    · rfl

theorem retryOwed_idle {s : State} (h : s.dev.owed = []) (f : Owed → Bool) : retryOwed f s = s := by simp [retryOwed, h]

theorem retryEngines_idle {s : State} (h : AccessesIdle s) (f : Covers) : retryEngines f s = s := by
  have waits : ∀ e ∈ s.clusters, ∀ o ∈ e.2.copies ++ e.2.gathers, (if o.waitsVa.any fun w => f o.asid o.ptbase w.1 then { o with waitsVa := none } else o) = o :=
    fun e m o mo => by simp [h.engines e m o mo]
  have same : (s.clusters.map fun c => (c.1, { c.2 with
      copies := c.2.copies.map fun o => if o.waitsVa.any fun w => f o.asid o.ptbase w.1 then { o with waitsVa := none } else o
      gathers := c.2.gathers.map fun o => if o.waitsVa.any fun w => f o.asid o.ptbase w.1 then { o with waitsVa := none } else o })) = s.clusters := by
    refine (List.map_congr_left fun e m => ?_).trans (List.map_id _)
    rw [List.map_congr_left fun o mo => waits e m o (List.mem_append_left _ mo), List.map_congr_left fun o mo => waits e m o (List.mem_append_right _ mo)]
    simp
  unfold retryEngines
  dsimp only
  rw [same]
  exact foldl_stays fun n _ => by simp [applyEntries, h.rings n]

/-- With nothing to try again the service of a TLBINV does nothing. -/
theorem retryCovered_idle {s : State} (h : AccessesIdle s) (f : Covers) : retryCovered f s = s := by
  unfold retryCovered
  rw [retryHeld_idle h, retryLogs_idle h, retryEngines_idle h, retryOwed_idle h.owed, ite_self]

theorem invalidate_idle {s : State} (h : AccessesIdle s) (f : TlbEntry → Bool) (covers : Covers) : invalidate f covers s = .next (dropLeaves f s) := by
  unfold invalidate
  rw [unperformed_idle h, if_neg (by simp [awaits]), retryCovered_idle (h.dropLeaves f)]

section System

variable {s : State} {n : Fin 8} {i : Fin 4} (own : s.who = .sys n i) (sup : getBit s.ctx.status stMODE = true)
include own sup

theorem tlbinvRange_runs {a : AR} {x q : SR} (ready : Ready [.a a, .s x, .s q] [] s) (len : 0 < (rdS s x).toNat) (idle : AccessesIdle s) :
    exec (.tlbinvRange a x q) s =
      .next (dropLeaves (fun e => (e.glob || e.asid == (rdS s q).truncate 16) && leafMeets e (ea s a 0).toNat (rdS s x).toNat) s) := by
  show execTlbinvRange a x q s = _
  rw [execTlbinvRange, needPriv_sys own sup (by decide), guardRegs_ready ready]
  dsimp only
  have some : ((rdS s x).toNat != 0) = true := by simpa using Nat.ne_of_gt len
  simp only [invalidate_idle idle, some, Bool.true_and]

theorem tlbinvAsid_runs {a : AR} {x q : SR} (ready : Ready [.s q] [] s) (idle : AccessesIdle s) :
    exec (.tlbinvAsid a x q) s = .next (dropLeaves (fun e => !e.glob && e.asid == (rdS s q).truncate 16) s) := by
  show execTlbinvAsid a x q s = _
  rw [execTlbinvAsid, needPriv_sys own sup (by decide), guardRegs_ready ready]
  exact invalidate_idle idle _ _

theorem tlbinvAll_runs {a : AR} {x q : SR} {kind : Fin 4} (listed : kind ≠ 3) :
    exec (.tlbinvAll kind a x q) s = invalidate (fun _ => true) (fun _ _ _ => true) s := by
  show execTlbinvAll kind a x q s = _
  rw [execTlbinvAll, needPriv_sys own sup (by decide), if_neg listed]

end System

/-- Settles O42: (a) from what EQPOP, WFI and `takeIrq` do; (b) from `invalidate_idle`, the service of an invalidation finding nothing
to try again. -/
theorem eventQueueAndTranslationInvalidation : Obligations.EventQueueAndTranslationInvalidation := by
  refine ⟨fun s pd d g k => ?_, fun s a x q kind n i => ?_⟩
  · refine ⟨fun unfit => ?refused, fun ctl sup odd => ?odd, fun ctl sup even ready => ?pops, fun ctl sup => ?control, fun own sup => ?system, ?interrupt⟩
    case refused =>
      have user : s.who.isSys = false ∨ getBit s.ctx.status stMODE = false := unfit.imp id Bool.eq_false_of_not_eq_true
      exact ⟨(needPriv_refused .control user _ : execEqpop pd d s = _), (needPriv_refused .both user _ : execWfi s = _),
        (needPriv_refused .both user _ : execEret s = _)⟩
    case odd =>
      show execEqpop pd d s = _
      rw [execEqpop, needPriv_ctl ctl sup (by decide), if_pos odd]
      rfl
    case pops =>
      rw [← nextReg_val even] at ready ⊢
      rw [eqpop_runs ctl sup even ready]
      refine ⟨fun empty => by rw [empty], fun r rest events => ?_⟩
      rw [events]
      exact ⟨_, congrArg (fun w => Host.Outcome.next (land (.p pd) (.flag true) 1 (land (.s (nextReg d)) (.word w) 1 _))) (recordHigh_eq r),
        by rw [clusterOf_modCluster_self], rfl, fun _ => ⟨rfl, rfl, rfl⟩⟩
    case control =>
      have sys : s.who.isSys = true := by rw [ctl]; rfl
      refine ⟨fun empty => wfi_waits sys sup ?_, fun some => wfi_passes sys sup ?_⟩
      · rw [ctl, pendingIrq_ctl, if_pos empty]
      · rw [ctl, pendingIrq_ctl, if_neg some]
        rfl
    case system =>
      have sys : s.who.isSys = true := by rw [own]; rfl
      exact ⟨fun down => wfi_waits sys sup (by rw [own]; exact pendingIrq_none down),
        fun nonzero up => wfi_passes sys sup (by rw [own]; exact pendingIrq_some nonzero up)⟩
    case interrupt =>
      intro c x
      refine ⟨fun off => congrArg Host.Outcome.next (takeIrq_off off), fun at_ active on tf nonzero up highest => ?_, fun at_ active on tf some => ?_⟩
      · have pending : pendingIrq s c = .some k := by rw [at_]; exact pendingIrq_highest nonzero up highest
        have enters := takeIrq_enters pending (by rw [at_]; rfl) active on tf
        obtain ⟨epc, cause, tval, pc, status⟩ := handled_drained s c x.pc (BitVec.ofNat 64 (k.val + 2 ^ 11)) 0
        obtain ⟨mode, ie, trapped, pmode, pie⟩ := handlerStatus_bits x.status
        rw [if_neg nonzero] at enters
        refine ⟨_, congrArg Host.Outcome.next enters, by simp, by simp [SameBytes], by simp, ?_⟩
        have own := getCtx_setCtx_self s c (handled x.pc (BitVec.ofNat 64 (k.val + 2 ^ 11)) 0 (drain s c x))
        generalize setCtx s c _ = t at own ⊢
        rw [show getCtx (modDev t _) c = _ from own]
        exact ⟨epc, cause, tval, pc, status ▸ mode, status ▸ ie, status ▸ trapped, status ▸ pmode, status ▸ pie.trans on⟩
      · have pending : pendingIrq s c = .some 0 := by rw [at_, pendingIrq_ctl, if_neg some]
        have enters := takeIrq_enters pending (by rw [at_]; rfl) active on tf
        obtain ⟨epc, cause, -, pc, -⟩ := handled_drained s c x.pc (BitVec.ofNat 64 ((0 : Fin 5).val + 2 ^ 11)) 0
        refine ⟨_, congrArg Host.Outcome.next enters, ?_⟩
        dsimp only
        rw [if_pos rfl, getCtx_setCtx_self]
        exact ⟨cause, epc, pc, clusterOf_congr (setCtx_clusters ..) _⟩
  · refine ⟨fun user => ?refused, fun own sup => ⟨?kind3, ?stalls, ?idle⟩⟩
    case refused =>
      exact ⟨(needPriv_refused .system user _ : execTlbinvRange a x q s = _), (needPriv_refused .system user _ : execTlbinvAsid a x q s = _),
        (needPriv_refused .system user _ : execTlbinvAll kind a x q s = _)⟩
    case kind3 =>
      intro three
      show execTlbinvAll kind a x q s = _
      rw [execTlbinvAll, needPriv_sys own sup (by decide), if_pos three]
      rfl
    case stalls =>
      intro listed busy uncleared
      rw [tlbinvAll_runs own sup listed, invalidate, busy, if_pos (by simp [awaits, uncleared])]
    case idle =>
      intro cores outreqs owed engines rings
      have idle : AccessesIdle s := ⟨cores, outreqs, owed, engines, rings⟩
      refine ⟨fun ready len => tlbinvRange_runs own sup ready len idle, fun ready => ?_, fun listed => ?_⟩
      · rw [tlbinvAsid_runs own sup ready idle]
        simp [dropLeaves, bne]
      · rw [tlbinvAll_runs own sup listed, invalidate_idle idle]
        rfl

end Sys2Proof.Machine

namespace Sys2Proof.Machine

/-! ## CTXSTOP (R355, R356, R394) -/

theorem putCtx_putCtx (l : List (CtxId × Ctx)) (c : CtxId) (x y : Ctx) : putCtx (putCtx l c x) c y = putCtx l c y := by
  induction l with
  | nil => simp [putCtx]
  | cons e l ih => by_cases h : e.1 = c <;> simp [putCtx, h, ih]

theorem setCtx_setCtx (s : State) (c : CtxId) (x y : Ctx) : setCtx (setCtx s c x) c y = setCtx s c y := by
  by_cases own : c = s.who <;> simp [setCtx, own, putCtx_putCtx]

theorem modCtx_modCtx (s : State) (c : CtxId) (f g : Ctx → Ctx) : modCtx (modCtx s c f) c g = modCtx s c fun x => g (f x) := by
  rw [modCtx, getCtx_modCtx_self, modCtx, setCtx_setCtx]
  rfl

/-- The contexts stand apart from the channels and the tasks. -/
theorem modCtx_chans_tasks (s : State) (cs : Tbl Chan) (ts : List Task) (c : CtxId) (f : Ctx → Ctx) :
    modCtx { s with chans := cs, tasks := ts } c f = { modCtx s c f with chans := cs, tasks := ts } := by
  by_cases own : c = s.who <;> simp [modCtx, setCtx, getCtx, own]

/-- A context that has ended by containment (R31, R32, R360). -/
def contained (x : Ctx) : Ctx :=
  { x with closed := x.chans.map (·.num), run := .ended, loops := [], late := [], bara := [], arriving := [], sendWait := none
           preemptAt := none, status := 0 }

/-- A context closes its channels, leaves its barriers and ends: all that changes outside its core's units. -/
theorem leaveBarriers_closed (s : State) (c : CtxId) (cs : Tbl Chan) : ∃ leave : Barrier → Barrier,
    modCtx (leaveBarriers c (modCtx { s with chans := cs } c fun x => { x with closed := x.chans.map (·.num) })) c (fun x =>
      { x with run := .ended, loops := [], late := [], bara := [], arriving := [], sendWait := none, preemptAt := none, status := 0 }) =
    { modCtx s c contained with
      chans := cs, tasks := s.tasks.map fun t => if t.id = (getCtx s c).task then { t with barriers := t.barriers.map leave } else t } := by
  unfold leaveBarriers
  dsimp only
  generalize hl : (fun b : Barrier => _) = leave
  refine ⟨leave, ?_⟩
  have task : (getCtx (modCtx { s with chans := cs } c fun x => { x with closed := x.chans.map (·.num) }) c).task = (getCtx s c).task := by
    rw [getCtx_modCtx_self]
    rfl
  have within (f : Ctx → Ctx) (id : Nat) (g : Task → Task) : modTask (modCtx { s with chans := cs } c f) id g =
      modCtx { s with chans := cs, tasks := s.tasks.map fun t => if t.id = id then g t else t } c f := by
    by_cases own : c = s.who <;> simp [modTask, modCtx, setCtx, getCtx, own]
  rw [task, within, modCtx_modCtx, modCtx_chans_tasks]
  rfl

/-- Everything that the end of a context changes while its core is at rest. -/
theorem killCtx_rest {s : State} {c : CtxId} (b : BitVec 8 × BitVec 8) (live : isActive (getCtx s c).run = true ∨ (getCtx s c).run = .stopped)
    (waits : (coreOf s c.coreNo).waits = []) (wback : (coreOf s c.coreNo).wback = []) (unclaimed : Unclaimed s (getCtx s c).chans)
    (flowing : ∀ o ∈ (clusterOf s c.cluster).copies ++ (clusterOf s c.cluster).gathers, o.waitsVa = none)
    (rings : ∀ m : Fin 8, (stackOf s m).bounce = []) (bare : LeaversBare s c.coreNo) :
    ∃ (cs : Tbl Chan) (us : Tbl Core) (leave : Barrier → Barrier), killCtx c (some b) s =
      postRecord { modCtx s c contained with
          chans := cs, cores := us
          tasks := s.tasks.map fun t => if t.id = (getCtx s c).task then { t with barriers := t.barriers.map leave } else t }
        c.cluster ⟨(getCtx s c).pc, (getCtx s c).task, c.cluster, c.who, 4, b.1, b.2⟩ := by
  have goes : (isActive (getCtx s c).run || (getCtx s c).run == .stopped) = true := by
    rcases live with h | h <;> simp [h]
  obtain ⟨cs, closed⟩ := closeAll_unclaimed unclaimed
  unfold killCtx
  simp only [goes, ↓reduceIte]
  obtain ⟨leave, left⟩ := leaveBarriers_closed s c cs
  rw [closed, left]
  generalize hk : ({ modCtx s c contained with
    chans := cs, tasks := s.tasks.map fun t => if t.id = (getCtx s c).task then { t with barriers := t.barriers.map leave } else t } : State) = k
  have cores : k.cores = s.cores := by subst hk; exact modCtx_cores ..
  have clusters : k.clusters = s.clusters := by subst hk; exact modCtx_clusters ..
  have dies : k.dies = s.dies := by subst hk; exact modCtx_dies ..
  have bareK : LeaversBare k c.coreNo := by
    subst hk
    exact (bare.modCtx (c := c) (f := contained) (by simp [contained]) (by simp [contained])).congr rfl rfl rfl
  have task : (getCtx k c).task = (getCtx s c).task := by
    subst hk
    rw [← modCtx_chans_tasks s cs, getCtx_modCtx_self]
    rfl
  rw [declineAll_flowing (by rwa [clusterOf_congr clusters]) (fun m => by rw [stackOf_congr dies]; exact rings m)]
  obtain ⟨us, dropped⟩ := dropAccesses_idle (c := c) (by rwa [coreOf_congr cores]) (by rwa [coreOf_congr cores]) bareK
  have same : getCtx { k with cores := us } c = getCtx k c := rfl
  rw [dropped, postCtx_of_ne_three (by decide), same, task, ← hk]
  exact ⟨cs, us, leave, rfl⟩

/-! ## The selector (R28, R167, R393) -/

theorem findCtx_filter_other (l : List (CtxId × Ctx)) {c d : CtxId} (h : d ≠ c) : findCtx (l.filter fun e => !decide (e.1 = c)) d = findCtx l d := by
  induction l with
  | nil => rfl
  | cons e l ih =>
    by_cases its : e.1 = c
    · simp [its, findCtx, Ne.symm h, ih]
    · simp [its, findCtx, ih]

/-- Switching moves no context's state. -/
theorem getCtx_switchTo (s : State) (c d : CtxId) : getCtx (switchTo s c) d = getCtx s d := by
  unfold switchTo
  split
  · rfl
  · next other =>
    by_cases new : d = c
    · simp [getCtx, new, other]
    · by_cases old : d = s.who
      · simp [getCtx, old, findCtx_filter_other _ (old ▸ new), old ▸ new]
      · simp [getCtx, new, old, findCtx_filter_other _ new, findCtx_putCtx_other _ _ old]

theorem coreOf_switchTo (s : State) (c : CtxId) (k : Nat) : coreOf (switchTo s c) k = coreOf s k := by
  unfold switchTo
  split <;> rfl

theorem coreOf_restartCount_self (s : State) (k : Nat) : coreOf (restartCount k s) k = { coreOf s k with quantum := 0, limit := s.dev.quantum } :=
  coreOf_modCore_self ..

/-- A port changes nothing but its own core's unit. -/
theorem takePort_cores (s : State) (k : Fin 384) (y : Fin 4) : ∃ cs, takePort (.user k y) s = { s with cores := cs } ∧
    ∀ j, j ≠ k.val → coreOf (takePort (.user k y) s) j = coreOf s j := by
  unfold takePort
  dsimp only
  split
  · exact ⟨_, rfl, fun _ _ => rfl⟩
  · exact ⟨_, rfl, fun j ne => (coreOf_modCore_other _ _ ne).trans (coreOf_modCore_other _ _ ne)⟩

/-- A port that moves serves its new context, its count restarted with the quantum in force (R393). -/
theorem takePort_moves {s : State} {k : Fin 384} {y : Fin 4} (other : (coreOf s k.val).port ≠ y) :
    let u := coreOf (takePort (.user k y) s) k.val
    u.port = y ∧ u.quantum = 0 ∧ u.limit = s.dev.quantum := by
  dsimp only
  rw [takePort, if_neg other, servePort, coreOf_modCore_self, coreOf_restartCount_self]
  exact ⟨rfl, rfl, rfl⟩

/-- Partners of a gang stand on different cores. -/
theorem gangMate_core {s : State} {k : Fin 384} {y : Fin 4} {d : CtxId} (mate : gangMate s (.user k y) = some d) :
    ∃ j : Fin 384, d = .user j y ∧ j ≠ k := by
  have ne := gangMate_ne mate
  unfold gangMate at mate
  dsimp only at mate
  split at mate
  · obtain rfl := Option.some.inj mate
    exact ⟨_, rfl, fun e => ne (by rw [e])⟩
  · cases mate

/-- A port that passes to another context of its core: no context's state and no byte moves (R28, R393). -/
theorem giveIssue_moves {s : State} {k : Fin 384} {y : Fin 4} (other : (coreOf s k.val).port ≠ y) (moves : CtxId.user k y ≠ s.who) :
    let t := giveIssue (.user k y) s
    t.who = .user k y ∧ (coreOf t k.val).port = y ∧ (coreOf t k.val).quantum = 0 ∧ (coreOf t k.val).limit = s.dev.quantum ∧
      (∀ c, getCtx t c = getCtx s c) ∧ SameBytes s t := by
  have dev : (switchTo s (.user k y)).dev = s.dev := by simp [switchTo, moves]
  have who : (switchTo s (.user k y)).who = .user k y := by simp [switchTo, moves]
  have bytes : SameBytes s (switchTo s (.user k y)) := by simp [switchTo, moves, SameBytes]
  have served := takePort_moves (s := switchTo s (.user k y)) (k := k) (y := y) (by rwa [coreOf_switchTo])
  obtain ⟨cs, first, -⟩ := takePort_cores (switchTo s (.user k y)) k y
  have contexts (es : Tbl Core) (c : CtxId) : getCtx { switchTo s (.user k y) with cores := es } c = getCtx s c := getCtx_switchTo s (.user k y) c
  rw [dev] at served
  obtain ⟨port, quantum, limit⟩ := served
  unfold giveIssue seatsOf
  cases mate : gangMate s (.user k y) with
  | none =>
    simp only [Option.toList_none, List.foldl_cons, List.foldl_nil]
    exact ⟨by rw [first]; exact who, port, quantum, limit, fun c => by rw [first]; exact contexts cs c, by rw [first]; exact bytes⟩
  | some d =>
    obtain ⟨j, rfl, apart⟩ := gangMate_core mate
    obtain ⟨es, second, rest⟩ := takePort_cores (takePort (.user k y) (switchTo s (.user k y))) j y
    have unit := rest k.val fun e => apart (Fin.ext e.symm)
    simp only [Option.toList_some, List.foldl_cons, List.foldl_nil, unit]
    refine ⟨?_, port, quantum, limit, fun c => ?_, ?_⟩
    all_goals rw [second, first]
    · exact who
    · exact contexts es c
    · exact bytes

/-- With no trace ring a pass writes no record (R467). -/
theorem tracePass_untraced {s : State} (quiet : Untraced s) (c : CtxId) : tracePass c s = s := by
  unfold tracePass
  refine foldl_stays fun d _ => ?_
  split
  · simp [traceRecord_untraced quiet]
  · rfl

/-- The next context of the core that may issue (R28). -/
theorem nextOnCore_user (s : State) (k : Fin 384) (x : Fin 4) : nextOnCore s (.user k x) =
    if canTry (getCtx s (.user k (x + 1))) then some (.user k (x + 1))
    else if canTry (getCtx s (.user k (x + 2))) then some (.user k (x + 2))
    else if canTry (getCtx s (.user k (x + 3))) then some (.user k (x + 3))
    else if canTry (getCtx s (.user k x)) then some (.user k x) else none := by
  simp only [nextOnCore, roundRobin, List.find?_cons, List.find?_nil]
  repeat' split <;> simp_all

/-- What CTXSTOP.SAFE asks of a context that has not ended (R394). -/
theorem stopRequest_live {x : Ctx} (live : isActive x.run = true ∨ x.run = .stopped) (ended asks : Res) :
    (match x.run with
    | .free | .retired | .ended | .halted => ended
    | _ => asks) = asks := by
  cases e : x.run <;> simp [e, isActive] at live ⊢

theorem needUser_ctl {s : State} {g : Fin 96} (ctl : s.who = .ctl g) (v : Word) (k : CtxId → Res) : needUser v s k = needTarget v s k := by
  unfold needTarget
  rw [ctl]

section Stop

variable {s : State} {tr : SR} {g : Fin 96} {c : CtxId} (ctl : s.who = .ctl g) (sup : getBit s.ctx.status stMODE = true) (ready : Ready [.s tr] [] s)
include ctl sup ready

theorem ctxstopSafe_runs : exec (.ctxstopSafe tr) s = needTarget (rdS s tr) s fun c =>
    match (getCtx s c).run with
    | .free | .retired | .ended | .halted => .next s
    | _ => if (getCtx s c).saveAt = 0 then protection s else .next (modCtx s c fun x => { x with preemptAt := some (x.preemptAt.getD s.now) }) := by
  show execCtxstopSafe tr s = _
  rw [execCtxstopSafe, needPriv_ctl ctl sup (by decide), guardRegs_ready ready, needUser_ctl ctl] <;> rfl

theorem ctxstopKill_runs : exec (.ctxstopKill tr 1) s = needTarget (rdS s tr) s fun c =>
    if (getCtx s c).run = .free then .next s
    else .next (killCtx c (some (0, 0)) (doom (getCtx s c).task (killCause s (getCtx s c)) s)) := by
  show execCtxstopKill tr 1 s = _
  rw [execCtxstopKill, needPriv_ctl ctl sup (by decide), if_neg (by decide), guardRegs_ready ready, needUser_ctl ctl]
  rfl

end Stop

/-- The task of a context that CTXSTOP ends commits nothing: whatever its record is, it is doomed and has an error. -/
theorem doomed_tasks {s : State} {id : Nat} {code : BitVec 8} (leave : Barrier → Barrier) :
    ∀ tk ∈ (doom id code s).tasks.map (fun t => if t.id = id then { t with barriers := t.barriers.map leave } else t),
      tk.id = id → tk.doomed = true ∧ tk.error ≠ none := by
  intro tk m its
  simp only [doom, modTask, List.map_map, List.mem_map, Function.comp_apply] at m
  obtain ⟨t, -, rfl⟩ := m
  by_cases h : t.id = id
  · simp [h]
  · simp [h] at its

/-- Settles O46: (a) from `killCtx_rest`; (b) a pass is `giveIssue_moves` to what `nextOnCore_user` finds. -/
theorem contextStopsAndSelectors : Obligations.ContextStopsAndSelectors := by
  refine ⟨fun s tr k g sup ctl => ?stops, fun s k x own => ?selector⟩
  case stops =>
    intro t c x
    have other : c ≠ s.who := by rw [ctl]; exact fun e => CtxId.noConfusion e
    have own : (doom x.task (killCause s x) s).who = s.who := rfl
    refine ⟨fun two => ?reserved, fun ready => ⟨fun unnamed => ?unnamed, fun named => ⟨fun gone => ?gone, fun live => ⟨fun bare => ?noArea, fun area => ?asks, ?kills⟩⟩⟩⟩
    case reserved =>
      show execCtxstopKill tr k s = _
      rw [execCtxstopKill, needPriv_ctl ctl sup (by decide), if_pos two]
      rfl
    case unnamed =>
      rw [ctxstopSafe_runs ctl sup ready, ctxstopKill_runs ctl sup ready, needTarget_unnamed ctl unnamed, needTarget_unnamed ctl unnamed]
      exact ⟨rfl, rfl⟩
    case gone =>
      rw [ctxstopSafe_runs ctl sup ready, needTarget_user ctl named]
      rcases gone with gone | gone | gone <;> rw [show (getCtx s c).run = _ from gone]
    case noArea =>
      rw [ctxstopSafe_runs ctl sup ready, needTarget_user ctl named]
      exact (stopRequest_live live _ _).trans (if_pos bare)
    case asks =>
      rw [ctxstopSafe_runs ctl sup ready, needTarget_user ctl named]
      exact ⟨_, (stopRequest_live live _ _).trans (if_neg area), setCtx_other_ctx _ _ other, by simp [SameBytes], getCtx_modCtx_self s c _,
        fun y ne => getCtx_modCtx_other _ _ ne⟩
    case kills =>
      intro waits wback unclaimed flowing rings bare
      have cluster : c.cluster = g.val := userCtx_cluster (Nat.mod_lt _ (by decide))
      have some : x.run ≠ .free := fun e => by rcases live with live | live <;> simp [e, isActive] at live
      obtain ⟨cs, us, leave, killed⟩ := killCtx_rest (s := doom x.task (killCause s x) s) (c := c) (0, 0) live waits wback unclaimed
        (by rw [cluster]; exact flowing) rings bare
      rw [ctxstopKill_runs ctl sup ready, needTarget_user ctl named, if_neg some, killed]
      set d := doom x.task (killCause s x) s with hd
      have its : getCtx (modCtx d c contained) c = contained x := getCtx_modCtx_self ..
      refine ⟨_, rfl, setCtx_other_ctx d _ other, fun a => ?_, congrArg Ctx.run its, congrArg Ctx.loops its, fun b m => ?_, doomed_tasks leave, ?_⟩
      · exact ⟨congrArg (·.read a) (modCtx_mem d c contained), congrArg (·.read a) (modCtx_spm d c contained), congrArg (·.read a) (modCtx_rom d c contained)⟩
      · exact (congrArg Ctx.closed its) ▸ List.mem_map_of_mem m
      · rw [← cluster, posting_postRecord]
        exact congrArg (·.posting ++ _) (clusterOf_congr (s := s) (modCtx_clusters d c contained) c.cluster)
  case selector =>
    intro may served untraced passes
    have quiet : Untraced s := fun st m => by
      obtain ⟨n, rfl⟩ := exists_stackOf m
      exact untraced n
    have tries (y : Fin 4) : canTry (getCtx s (.user k y)) = true ↔ may y := by simp [canTry, may]
    have unlike (d : Fin 4) (nonzero : d ≠ 0) : x + d ≠ x := fun e => nonzero (by simpa using e)
    have pass (i : Instr) (d : Fin 4) (nonzero : d ≠ 0) (runs : exec i s = .next (passIssue (.user k (x + d)) s)) : passes i (x + d) := by
      have moves : CtxId.user k (x + d) ≠ s.who := by rw [own]; exact fun e => unlike d nonzero (CtxId.user.inj e).2
      refine ⟨_, runs, ?_⟩
      rw [passIssue, tracePass_untraced quiet]
      exact giveIssue_moves (by rw [served]; exact (unlike d nonzero).symm) moves
    have switches (at_ : s.input.ctx.coreNo = k.val) (d : Fin 4) (nonzero : d ≠ 0) (next : nextOnCore s s.who = some (.user k (x + d))) :
        passes .contextSwitch (x + d) := by
      refine pass _ d nonzero ?_
      have moves : CtxId.user k (x + d) ≠ s.who := by rw [own]; exact fun e => unlike d nonzero (CtxId.user.inj e).2
      show execContextSwitch s = _
      have core : s.input.ctx.coreNo = s.who.coreNo := at_.trans (by rw [own]; rfl)
      rw [execContextSwitch]
      dsimp only
      rw [if_pos core, next]
      exact congrArg Host.Outcome.next (if_neg moves)
    have core : s.who.coreNo = k.val := by rw [own]; rfl
    have next := nextOnCore_user s k x
    simp only [tries] at next
    refine ⟨fun at_ => ⟨fun one => ?_, fun one two => ?_, fun one two three => ?_⟩, fun unspent => ?_, fun spent => ⟨fun one => ?_, fun one two three => ?_⟩⟩
    · exact switches at_ 1 (by decide) (by rw [own, next, if_pos one])
    · exact switches at_ 2 (by decide) (by rw [own, next, if_neg one, if_pos two])
    · exact switches at_ 3 (by decide) (by rw [own, next, if_neg one, if_neg two, if_pos three])
    · show execQuantumExpiry s = _
      rw [execQuantumExpiry, core, if_neg (Nat.not_le.2 unspent)]
    · refine pass _ 1 (by decide) ?_
      have moves : CtxId.user k (x + 1) ≠ .user k x := fun e => unlike 1 (by decide) (CtxId.user.inj e).2
      show execQuantumExpiry s = _
      rw [execQuantumExpiry, core, if_pos spent, own, next, if_pos one]
      exact congrArg Host.Outcome.next (if_neg moves)
    · show execQuantumExpiry s = _
      rw [execQuantumExpiry, core, if_pos spent, own, next, if_neg one, if_neg two, if_neg three]
      split
      · next d e =>
        split at e
        · obtain rfl := Option.some.inj e
          exact congrArg Host.Outcome.next (if_pos rfl)
        · cases e
      · rfl

end Sys2Proof.Machine

namespace Sys2Proof.Machine

/-! ## TLAUNCH (R370, R371, R374, R376) -/

/-- The task of a record read in u at addr, as TLAUNCH queues it (R374). -/
def launchedTask (addr : Nat) (r : TaskRec) (u : State) : Task :=
  { id := u.dev.nextTask, recAt := addr, lpt := u.ctx.ptbase, lasid := u.ctx.asid, record := r, phase := .queued, pri := r.pri
    waitFrom := u.now, blocking := false, dmask := 0, runs := 0, retries := 0, variant := 0, away := [], moved := []
    version := [], lines := [], writers := [], vpoison := [], reads := [], touches := [], doomed := false, dropped := false, fault := none
    kept := [], gone := [], error := none, barriers := [], audit := .none, retained := [], times := [] }

/-- What makes a record malformed on its own (R371). -/
theorem recordRefused_of {s : State} {img : Option Image} {addr : Nat} {bs : List Byte} {r : TaskRec}
    (bad : addr % 64 ≠ 0 ∨ imgNat bs 0 2 ≠ 1 ∨ 3 < r.pri ∨ r.mask = 0 ∨ r.jcb % 32 ≠ 0 ∨ img = none) : recordRefused s img addr bs r = true := by
  unfold recordRefused
  rcases bad with bad | bad | bad | bad | bad | bad <;> simp [bad]

section Launch

variable {s u : State} {d : SR} {a : AR} {bs : List Byte} {n : Fin 8} {i : Fin 4} (own : s.who = .sys n i)
  (sup : getBit s.ctx.status stMODE = true) (ready : Ready [.a a] [.s d] s)
include own sup ready

theorem tlaunch_beyond (far : 2 ^ 56 < (ea s a 0).toNat + 1024) :
    exec (.tlaunch d a) s = trapAt 12 0x0C (BitVec.ofNat 64 (ea s a 0).toNat) s := by
  show execTlaunch d a s = _
  rw [execTlaunch, needPriv_sys own sup (by decide), guardRegs_ready ready]
  exact if_pos far

variable (fits : (ea s a 0).toNat + 1024 ≤ 2 ^ 56) (read : readGlobal (accOf s s.who) false true (ea s a 0).toNat 1024 s = .ok u bs)
include fits read

theorem tlaunch_noSectors {v : State} (loads : loadImage (recordOf bs).image u = .error v) : exec (.tlaunch d a) s = stall v := by
  show execTlaunch d a s = _
  rw [execTlaunch, needPriv_sys own sup (by decide), guardRegs_ready ready]
  dsimp only
  rw [if_neg (by omega), sysRead_ok read, loads]

variable {v : State} {img : Option Image} (loads : loadImage (recordOf bs).image u = .ok (v, img))
include loads

theorem tlaunch_refused (refused : recordRefused v img (ea s a 0).toNat bs (recordOf bs) = true) :
    exec (.tlaunch d a) s = .next (land (.s d) (.word 0) 1 v) := by
  show execTlaunch d a s = _
  rw [execTlaunch, needPriv_sys own sup (by decide), guardRegs_ready ready]
  dsimp only
  rw [if_neg (by omega), sysRead_ok read, loads]
  exact if_pos refused

/-- A record that is not refused is queued under the next identifier, or waits for a place (R374, R376). -/
theorem tlaunch_accepted (accepted : recordRefused v img (ea s a 0).toNat bs (recordOf bs) = false)
    (near : ∀ e, earliestTask u = some e → (u.dev.nextTask + 2 ^ 32 - e) % 2 ^ 32 < 2 ^ 31) :
    exec (.tlaunch d a) s = if 256 ≤ (queuedOn u (lowestBit (recordOf bs).mask / 12)).length then stall u else
      .next (land (.s d) (.word (BitVec.ofNat 64 u.dev.nextTask)) 1 (modDev { v with
        tasks := v.tasks ++ [launchedTask (ea s a 0).toNat (recordOf bs) u] } fun w => { w with nextTask := nextId u.dev.nextTask })) := by
  have fresh : (match earliestTask u with
      | some e => decide (2 ^ 31 ≤ (u.dev.nextTask + 2 ^ 32 - e) % 2 ^ 32)
      | none => false) = false := by
    split
    · next e is => exact decide_eq_false (Nat.not_le.2 (near e is))
    · rfl
  show execTlaunch d a s = _
  rw [execTlaunch, needPriv_sys own sup (by decide), guardRegs_ready ready]
  dsimp only
  rw [if_neg (by omega), sysRead_ok read, loads]
  refine (if_neg (by rw [accepted]; decide)).trans ?_
  refine Eq.trans (b := if (false || decide (256 ≤ (queuedOn u (lowestBit (recordOf bs).mask / 12)).length)) = true then stall u else _)
    (congrArg (fun b => if (b || decide (256 ≤ (queuedOn u (lowestBit (recordOf bs).mask / 12)).length)) = true then stall u else _) fresh) ?_
  simp only [Bool.false_or, decide_eq_true_eq]
  rfl

end Launch

/-! ## TCOMMIT (R381, R384, R443) -/

theorem tbl_get_absent {α : Type} {l : Tbl α} {k : Nat} (h : k ∉ l.map (·.1)) : Tbl.get? l k = none := by
  induction l with
  | nil => rfl
  | cons e l ih =>
    simp only [List.map_cons, List.mem_cons, not_or] at h
    exact (if_neg (Ne.symm h.1)).trans (ih h.2)

/-- Writing a table's bytes: each address reads as listed, the others as before. -/
theorem read_foldl_write {l : List (Nat × Byte)} (once : (l.map (·.1)).Nodup) {m : Memory} (wf : m.wf = true) (k : Nat) :
    (l.foldl (fun m e => m.write e.1 e.2) m).read k = (Tbl.get? l k).getD (m.read k) := by
  induction l generalizing m with
  | nil => rfl
  | cons e l ih =>
    obtain ⟨fresh, once⟩ := List.nodup_cons.1 (List.map_cons ▸ once)
    rw [List.foldl_cons, ih once (write_wf _ _ wf), read_write wf]
    by_cases here : e.1 = k
    · have absent : Tbl.get? l k = none := tbl_get_absent (here ▸ fresh)
      simp [Tbl.get?, here, absent]
    · simp [Tbl.get?, here, Ne.symm here]

/-- A version of local bytes is written to memory at the commit; no context and no other memory changes (R317). -/
theorem commitBytes_local {t : Task} (low : ∀ b ∈ t.version, b.1 < 2 ^ 56) (s : State) : ∃ cl ps, commitBytes t s =
    { s with mem := t.version.foldl (fun m e => m.write e.1 e.2) s.mem, clusters := cl, poison := ps } := by
  have bytes (l : List (Nat × Byte)) (f : State → Nat × Byte → State) (low : ∀ b ∈ l, ∀ s, f s b = { s with mem := s.mem.write b.1 b.2 }) :
      ∀ s : State, l.foldl f s = { s with mem := l.foldl (fun m e => m.write e.1 e.2) s.mem } := by
    induction l with
    | nil => exact fun _ => rfl
    | cons e l ih =>
      intro s
      rw [List.foldl_cons, low e List.mem_cons_self, ih fun b m => low b (List.mem_cons_of_mem _ m)]
      rfl
  unfold commitBytes
  dsimp only
  rw [bytes t.version _ fun b m s => if_neg (Nat.not_le.2 (low b m))]
  exact ⟨_, _, rfl⟩

/-- The state in which a task is known no more. -/
def forgotten (t : Task) (w : State) : State := { w with tasks := w.tasks.filter fun u => u.id ≠ t.id }

/-- The commit of a task without ORD aborts no other (R384). -/
theorem commitTask_unordered {t : Task} (unordered : isOrd t.record = false) (s : State) : commitTask t s =
    serveAll (t.lines.foldl (fun s l => recomputeKey s (64 * l.1)) (forgotten t
      (if t.error.isSome || t.doomed then dropVersion t.id s else commitBounce t (commitBytes t (commitReleases t s))))) := by
  have calm : conflicting s t = [] := by simp [conflicting, unordered]
  unfold commitTask
  dsimp only
  rw [calm, List.foldr_nil, ite_self, List.foldl_nil]
  rfl

/-- What a commit touches while no ring holds an entry and no line is a compressed page's. -/
theorem commitTask_plain {s : State} {t : Task} (known : taskOf s t.id = some t) (idle : StacksIdle s) (unordered : isOrd t.record = false)
    (lines : ∀ l ∈ t.lines, ∀ m p, placeOf s (64 * l.1) ≠ .nominal m p)
    (version : ∀ b ∈ t.version, b.1 < 2 ^ 56 ∧ ∀ m p, placeOf s b.1 ≠ .nominal m p) :
    taskOf (commitTask t s) t.id = none ∧ (commitTask t s).ctx = s.ctx ∧ (commitTask t s).spm = s.spm ∧
      (commitTask t s).mem = if t.error.isSome || t.doomed then s.mem else t.version.foldl (fun m e => m.write e.1 e.2) s.mem := by
  have rest (w : State) (dies : w.dies = s.dies) :
      serveAll (t.lines.foldl (fun s l => recomputeKey s (64 * l.1)) (forgotten t w)) = forgotten t w := by
    have stays : t.lines.foldl (fun s l => recomputeKey s (64 * l.1)) (forgotten t w) = forgotten t w :=
      foldl_stays fun l m => recomputeKey_other fun n p => by
        rw [placeOf_congr (s := s) (t := forgotten t w) dies]
        exact lines l m n p
    rw [stays]
    exact serveAll_idle (idle.congr dies)
  rw [commitTask_unordered unordered]
  split
  · rw [dropVersion_plain known idle fun b m => (version b m).2, rest _ (by rfl)]
    exact ⟨taskOf_filter_self _ _, rfl, rfl, rfl⟩
  · obtain ⟨cl, ps, bytes⟩ := commitBytes_local (fun b m => (version b m).1) (commitReleases t s)
    have empty : ringsEmpty (commitBytes t (commitReleases t s)) = true := by
      rw [bytes]
      exact ringsEmpty_of fun m => (idle m).1
    rw [commitBounce, if_pos empty, bytes, rest _ (by rfl)]
    exact ⟨taskOf_filter_self _ _, rfl, rfl, rfl⟩

section Commit

variable {s : State} {x : SR} {g : Fin 96} (ctl : s.who = .ctl g) (sup : getBit s.ctx.status stMODE = true) (ready : Ready [.s x] [] s)
include ctl sup ready

theorem tcommit_runs : exec (.tcommit x) s = match taskOf s ((rdS s x).toNat % 2 ^ 32) with
    | none => protection s
    | some t =>
      if t.phase ≠ .completed then protection s
      else if (isOrd t.record ∧ !oldestOfLaunch s t) ∨ (t.audit ≠ .none ∧ t.audit ≠ .passed) then stall s
      else .next (commitTask t s) := by
  show execTcommit x s = _
  rw [execTcommit, needPriv_ctl ctl sup (by decide), guardRegs_ready ready] <;> rfl

end Commit

/-- Settles O43: TLAUNCH by its outcomes (`tlaunch_refused`, `tlaunch_accepted`); a commit by `commitTask_plain`, its bytes by
`read_foldl_write`. -/
theorem launchAndCommit : Obligations.LaunchAndCommit := by
  intro s u v d x a bs img n i g
  dsimp only
  refine ⟨fun own sup ready => ⟨tlaunch_beyond own sup ready, fun fits read loads => tlaunch_noSectors own sup ready fits read loads,
    fun fits read loads => ⟨fun bad => ?refused, fun accepted near => ?accepted⟩⟩, fun user => ?privileged, fun ctl sup ready => ?commits⟩
  case refused => exact tlaunch_refused own sup ready fits read loads (recordRefused_of bad)
  case accepted =>
    have runs := tlaunch_accepted own sup ready fits read loads accepted near
    refine ⟨fun room => ?_, fun full => by rw [runs, if_pos full]⟩
    rw [if_neg (Nat.not_le.2 room)] at runs
    exact ⟨_, launchedTask (ea s a 0).toNat (recordOf bs) u, runs, rfl, rfl, rfl, rfl, rfl, rfl, rfl, rfl, rfl, rfl⟩
  case privileged =>
    exact ⟨(needPriv_refused .system user _ : execTlaunch d a s = _), (needPriv_refused .control user _ : execTcommit x s = _)⟩
  case commits =>
    rw [tcommit_runs ctl sup ready]
    refine ⟨fun unknown => by rw [unknown]; rfl, fun t known => ?_⟩
    rw [known]
    refine ⟨fun early => if_pos early, fun done sampled open_ => ?_, fun done audited unordered wf once idle lines version => ?_⟩
    · exact (if_neg (not_not.2 done)).trans (if_pos (.inr ⟨sampled, open_⟩))
    · have id : t.id = (rdS s x).toNat % 2 ^ 32 := by simpa using List.find?_some known
      rw [← id] at known ⊢
      obtain ⟨gone, ctx, spm, mem⟩ := commitTask_plain known idle unordered lines version
      refine ⟨commitTask t s, (if_neg (not_not.2 done)).trans (if_neg ?_), gone, ctx, spm, fun clean sound k => ?_, fun empty => ?_⟩
      · rintro (⟨ord, -⟩ | ⟨none, passed⟩)
        · simp [unordered] at ord
        · exact audited.elim none passed
      · rw [mem, if_neg (by simp [clean, sound]), read_foldl_write once wf]
      · rw [mem, if_pos]
        rcases empty with empty | empty
        · rw [Option.isSome_iff_ne_none.2 empty, Bool.true_or]
        · rw [empty, Bool.or_true]

end Sys2Proof.Machine

namespace Sys2Proof.Machine

/-! ## Sump's steps (R414 to R416, R422 to R425) -/

/-- Dropping every entry of some addresses leaves the others as they read. -/
theorem read_filter_keys (q : Nat → Bool) (m : Memory) (k : Nat) :
    Memory.read (m.filter fun e => q e.1) k = if q k then m.read k else unwritten := by
  induction m with
  | nil => simp [Memory.read]
  | cons e m ih =>
    obtain ⟨a, b⟩ := e
    by_cases here : a = k
    · subst here
      cases hq : q a <;> simp [hq, Memory.read, ih]
    · cases hq : q a <;> simp [hq, Memory.read, here, ih]

theorem clearBytes_read (s : State) (a n k : Nat) :
    (clearBytes s a n).mem.read k = if a ≤ k ∧ k < a + n then unwritten else s.mem.read k := by
  have dropped := read_filter_keys (fun k => !(decide (a ≤ k) && decide (k < a + n))) s.mem k
  refine dropped.trans ?_
  by_cases within : a ≤ k ∧ k < a + n
  · simp [within]
  · rw [if_neg within, if_pos (by simpa [Nat.not_lt, imp_iff_not_or] using within)]

theorem clearBytes_wf {s : State} (wf : s.mem.wf = true) (a n : Nat) : (clearBytes s a n).mem.wf = true := filter_wf _ wf

/-- A directory entry is kept in its 32 bytes, and no other byte of memory changes (R416). -/
theorem setDir_read {s : State} (wf : s.mem.wf = true) (n : Fin 8) (page : Nat) (e : DirEnt) {k : Nat}
    (outside : k < rawBase n.val + (stackOf s n).sump.dir.toNat + 32 * page ∨ rawBase n.val + (stackOf s n).sump.dir.toNat + 32 * page + 32 ≤ k) :
    (setDir s n page e).mem.read k = s.mem.read k := by
  unfold setDir
  dsimp only
  rw [poke_mem, stackOf_modStack_self, modStack_mem, read_writeBytes wf, bytesOf_length, if_neg (by dsimp only; omega)]

theorem dirOf_setDir (s : State) (n : Fin 8) (page : Nat) (e : DirEnt) : dirOf (setDir s n page e) n page = e := by
  rw [dirOf, setDir_stack, tbl_get_set_self]
  rfl

/-- Where an address lies depends on three of Sump's registers alone (R401, R415). -/
theorem placeOf_of_registers {s t : State} (h : ∀ m, (stackOf t m).sump.en = (stackOf s m).sump.en ∧ (stackOf t m).sump.nom = (stackOf s m).sump.nom ∧
    (stackOf t m).sump.rsv = (stackOf s m).sump.rsv) (key : Nat) : placeOf t key = placeOf s key := by
  simp only [placeOf, (h _).1, (h _).2.1, (h _).2.2]

/-- Enabling: the nominal space and its directory read as never written (R422). -/
theorem sumpEnable_clears (s : State) (n : Fin 8) :
    (stackOf (sumpEnable s n) n).dirs = [] ∧ ∀ a,
      (sumpEnable s n).mem.read a =
        if rawBase n.val + (stackOf s n).sump.dir.toNat ≤ a ∧ a < rawBase n.val + (stackOf s n).sump.dir.toNat + 32 * (stackOf s n).sump.nom then unwritten
        else if nomBase n.val ≤ a ∧ a < nomBase n.val + (stackOf s n).sump.nom * 4096 then unwritten else s.mem.read a := by
  unfold sumpEnable
  dsimp only
  refine ⟨by rw [stackOf_modStack_self], fun a => ?_⟩
  rw [modStack_mem, clearBytes_read, clearBytes_read]

/-- A new TAIL sets the inflation going when the pool is short or a write waits (R424). -/
theorem sumpTail_registers (s : State) (n : Fin 8) (tail : Nat) :
    (∃ b, (stackOf (sumpTail s n tail) n).sump = { (stackOf s n).sump with tail := tail % 4096, inflating := b }) ∧
      ((freeSectors (stackOf s n) < (stackOf s n).sump.lwm ∨ (stackOf s n).sump.waiting ≠ []) → (stackOf (sumpTail s n tail) n).sump.inflating = true) ∧
      SameBytes s (sumpTail s n tail) := by
  unfold sumpTail
  dsimp only
  unfold kickSump
  dsimp only
  rw [stackOf_modStack_self]
  split
  · exact ⟨⟨true, by rw [stackOf_modStack_self, stackOf_modStack_self]⟩, fun _ => by rw [stackOf_modStack_self], fun _ => ⟨rfl, rfl, rfl⟩⟩
  · next quiet =>
    refine ⟨⟨_, by rw [stackOf_modStack_self]⟩, fun short => absurd ?_ quiet, fun _ => ⟨rfl, rfl, rfl⟩⟩
    simpa [freeSectors] using short

/-- SUMP_DEFL of a ballooned page: the page reads as never written, its entry is empty (R425). -/
theorem deflate_ballooned {s : State} {n : Fin 8} {pa p : Nat} (at_ : placeOf s pa = .nominal n p) (held : ballooned s n p = true) :
    deflate s n pa = setDir (clearBytes s (pageKey n p) 4096) n p DirEnt.empty := by
  unfold deflate
  rw [at_]
  exact if_pos ⟨rfl, held⟩

theorem deflate_other {s : State} {n : Fin 8} {pa p : Nat} (at_ : placeOf s pa = .nominal n p) (free : ballooned s n p = false) :
    deflate s n pa = s := by
  unfold deflate
  rw [at_]
  exact if_neg (by simp [free])

/-- The stack after HEAD has advanced (R423). -/
def headAdvanced (s : State) (n : Fin 8) : State := modStack s n fun st => { st with sump := { st.sump with head := (st.sump.head + 1) % 4096 } }

theorem placeOf_headAdvanced (s : State) (n : Fin 8) (key : Nat) : placeOf (headAdvanced s n) key = placeOf s key := by
  refine placeOf_of_registers (fun m => ?_) key
  by_cases its : m = n
  · subst its
    simp [headAdvanced]
  · simp [headAdvanced, stackOf_modStack_other _ _ its]

theorem dirOf_headAdvanced (s : State) (n : Fin 8) (page : Nat) : dirOf (headAdvanced s n) n page = dirOf s n page := by
  simp [dirOf, headAdvanced]

/-- An invalid entry of the balloon list is skipped (R424). -/
theorem inflateOne_skips {s : State} {n : Fin 8}
    (invalid : s.mem.readNat ((stackOf s n).sump.list.toNat + 8 * (stackOf s n).sump.head) 8 % 2 = 0) :
    inflateOne s n = modStack (headAdvanced s n) n fun st => { st with sump := { st.sump with skip := min 0xFFFF (st.sump.skip + 1) } } := by
  unfold inflateOne
  dsimp only
  rw [show peek s ((stackOf s n).sump.list.toNat + 8 * (stackOf s n).sump.head) 8 % 2 = 0 from invalid]
  rfl

/-- An entry that names a free page gives it to the balloon (R424). -/
theorem inflateOne_balloons {s : State} {n : Fin 8} {p : Nat}
    (valid : s.mem.readNat ((stackOf s n).sump.list.toNat + 8 * (stackOf s n).sump.head) 8 % 2 = 1)
    (at_ : placeOf s (s.mem.readNat ((stackOf s n).sump.list.toNat + 8 * (stackOf s n).sump.head) 8 / 2 ^ 12 % 2 ^ 44 * 4096) = .nominal n p)
    (free : ballooned s n p = false) (none : unclaimed s n p = true) :
    inflateOne s n = setDir (headAdvanced s n) n p { dirOf s n p with sectors := [], n := 0, raw := false, ballooned := true } := by
  have place : (if peek s ((stackOf s n).sump.list.toNat + 8 * (stackOf s n).sump.head) 8 % 2 = 1 then
      placeOf (headAdvanced s n) (bitsAt (peek s ((stackOf s n).sump.list.toNat + 8 * (stackOf s n).sump.head) 8) 12 44 * 4096) else .absent) = .nominal n p := by
    rw [placeOf_headAdvanced]
    exact (if_pos valid).trans at_
  have entry := dirOf_headAdvanced s n p
  have bare : ballooned (headAdvanced s n) n p = false := (congrArg DirEnt.ballooned entry).trans free
  have alone : unclaimed (headAdvanced s n) n p = true := by
    rw [unclaimed, entry]
    exact none
  unfold inflateOne
  dsimp only
  split
  · next m page is =>
    obtain ⟨rfl, rfl⟩ := Place.nominal.inj (place.symm.trans is)
    refine (if_pos ⟨rfl, fun held => Bool.false_ne_true (bare.symm.trans held), alone⟩).trans ?_
    exact congrArg (fun e => setDir (headAdvanced s n) n p { e with sectors := [], n := 0, raw := false, ballooned := true }) entry
  · next elsewhere => exact absurd place (elsewhere n p)

/-- Settles O50: each step by the state it leaves (`sumpEnable_clears`, `sumpTail_registers`, `deflate_ballooned`, `inflateOne_balloons`). -/
theorem sumpSteps : Obligations.SumpSteps := by
  intro s wf n u base put dirBase
  refine ⟨fun on => if_pos on, fun off => ?enable, fun frozen => if_pos frozen, fun live idle => sumpCtlRetry_idle idle live, rfl, ?tail,
    fun p at_ => ⟨fun held => ?deflate, fun free => congrArg Host.Outcome.next (deflate_other at_ free)⟩, fun on some idle short => ?inflate⟩
  case enable =>
    obtain ⟨rest, registers⟩ := sumpEnable_enables s n
    obtain ⟨dirs, reads⟩ := sumpEnable_clears s n
    refine ⟨sumpEnable s n, if_neg (by simpa using off), rest.ctx, rest.spm, by rw [registers], dirs, fun a low high => ?_, fun a outside apart => ?_⟩
    · rw [reads]
      split
      · rfl
      · exact if_pos ⟨low, high⟩
    · rw [reads, if_neg fun within => ?_, if_neg fun within => ?_]
      · exact outside.elim (Nat.not_lt.2 within.1) (Nat.not_le.2 within.2)
      · exact apart.elim (Nat.not_lt.2 within.1) (Nat.not_le.2 within.2)
  case tail =>
    obtain ⟨⟨b, registers⟩, inflates, bytes⟩ := sumpTail_registers s n s.input.num
    refine ⟨sumpTail s n s.input.num, rfl, ?_, inflates, bytes, (sumpTail_tails s n s.input.num).1.ctx⟩
    rw [registers]
  case deflate =>
    have page : pageKey n p = base + 4096 * p := rfl
    refine ⟨_, congrArg Host.Outcome.next (deflate_ballooned at_ held), ?_, ?_, fun a low high apart => ?_, fun a outside apart => ?_⟩
    · rw [ballooned, dirOf_setDir]
      rfl
    · rw [dirOf_setDir]
      rfl
    all_goals rw [setDir_read (clearBytes_wf wf ..) n p _ apart, clearBytes_read, page]
    · exact if_pos ⟨low, high⟩
    · exact if_neg (by omega)
  case inflate =>
    intro e
    have goes : inflates (stackOf s n) = true := by
      simp only [inflates, listEmpty]
      rw [show (stackOf s n).sump.inflating = true from on]
      simpa [show (stackOf s n).sump.head ≠ (stackOf s n).sump.tail from some] using Or.inl short
    obtain ⟨rest, head, -⟩ := inflateOne_consumes s n
    refine ⟨inflateOne s n, sumpInflation_inflates idle goes, head, rest.ctx, rest.spm, fun invalid => ?_, fun p valid at_ free none => ?_⟩
    · rw [inflateOne_skips invalid]
      exact ⟨by rw [stackOf_modStack_self, headAdvanced, stackOf_modStack_self], fun _ => ⟨rfl, rfl, rfl⟩⟩
    · rw [inflateOne_balloons valid at_ free none]
      refine ⟨?_, ?_, ?_⟩
      · rw [ballooned, dirOf_setDir]
      · rw [dirOf_setDir]
      · rw [setDir_stack, headAdvanced, stackOf_modStack_self]

end Sys2Proof.Machine

namespace Sys2Proof.Machine

/-! ## Numbers in memory -/

/-- A number's low bytes put together again. -/
theorem natOf_bytesOf (n x : Nat) : natOf (bytesOf n x) = x % 2 ^ (8 * n) := by
  induction n generalizing x with
  | zero => simp [bytesOf, natOf, Nat.mod_one]
  | succ n ih =>
    have width : (2 : Nat) ^ (8 * (n + 1)) = 256 * 2 ^ (8 * n) := by rw [Nat.mul_succ, Nat.pow_add, Nat.mul_comm]
    rw [bytesOf, natOf, ih, width, Nat.mod_mul]
    simp

theorem readNat_congr {m q : Memory} {a n : Nat} (h : ∀ k, a ≤ k → k < a + n → q.read k = m.read k) : q.readNat a n = m.readNat a n :=
  congrArg natOf (readBytes_congr a n h)

/-- Bytes written are read back. -/
theorem readBytes_of_reads {m : Memory} {a : Nat} {bs : List Byte} (h : ∀ k, k < bs.length → m.read (a + k) = bs.getD k 0) :
    m.readBytes a bs.length = bs := by
  induction bs generalizing a with
  | nil => rfl
  | cons b bs ih =>
    rw [List.length_cons, Memory.readBytes, ih fun k hk => by rw [Nat.add_assoc, Nat.add_comm 1, h (k + 1) (by simpa using hk), List.getD_cons_succ]]
    exact congrArg (· :: bs) (h 0 (by simp))

theorem readNat_written {m : Memory} (wf : m.wf = true) (a n x : Nat) : (m.writeBytes a (bytesOf n x)).readNat a n = x % 2 ^ (8 * n) := by
  have back := readBytes_of_reads (m := m.writeBytes a (bytesOf n x)) (a := a) (bs := bytesOf n x) fun k hk => by
    rw [read_writeBytes wf, if_pos ⟨by omega, by omega⟩, Nat.add_sub_cancel_left]
  rw [bytesOf_length] at back
  rw [Memory.readNat, back, natOf_bytesOf]

/-! ## The platform block (R445, R474) -/

theorem platWrite_read_self {s : State} (wf : s.mem.wf = true) (off n x : Nat) : platRead (platWrite s off n x) off n = x % 2 ^ (8 * n) :=
  readNat_written wf ..

theorem platWrite_wf {s : State} (wf : s.mem.wf = true) (off n x : Nat) : (platWrite s off n x).mem.wf = true := writeBytes_wf _ _ wf

theorem platWrite_read {s : State} (wf : s.mem.wf = true) {off n x a : Nat} (apart : a < platformBase + off ∨ platformBase + off + n ≤ a) :
    (platWrite s off n x).mem.read a = s.mem.read a := by
  show (s.mem.writeBytes _ _).read a = _
  rw [read_writeBytes wf, bytesOf_length, if_neg (by omega)]

/-- A field of the platform block reads as before where its bytes do. -/
theorem platRead_congr {s t : State} {off n : Nat} (h : ∀ a, platformBase + off ≤ a → a < platformBase + off + n → t.mem.read a = s.mem.read a) :
    platRead t off n = platRead s off n := readNat_congr h

/-! ## Links (R445 to R447) -/

/-- The three bytes that the platform block shows of a port (R446). -/
def linkField (q : Port) : List Nat := [if q.up then 1 else 0, q.peerDev, q.peerPort]

theorem writeLink_reads {s : State} (wf : s.mem.wf = true) (p : Fin 12) {k : Nat} (hk : k < 3) :
    (writeLink p s).mem.read (platformBase + 0x40 + 8 * p.val + k) = BitVec.ofNat 8 ((linkField s.dev.ports[p.val]).getD k 0) := by
  unfold writeLink
  dsimp only
  rw [read_writeBytes wf, if_pos ⟨by omega, by simp [bytesOf_length]; omega⟩, Nat.add_sub_cancel_left]
  match k, hk with
  | 0, _ => rfl
  | 1, _ => rfl
  | 2, _ => rfl

theorem writeLink_read {s : State} (wf : s.mem.wf = true) (p : Fin 12) {a : Nat} (apart : a < platformBase + 0x40 ∨ platformBase + 0xA0 ≤ a) :
    (writeLink p s).mem.read a = s.mem.read a := by
  have low := p.isLt
  unfold writeLink
  dsimp only
  rw [read_writeBytes wf, if_neg]
  simp only [List.length_append, bytesOf_length]
  omega

/-- With the error log off, a change of a link is shown in the platform block and raises line 3 (R445, R446). -/
theorem linkChanged_off {s : State} (off : s.dev.errlog = 0) (p : Fin 12) (cause : Nat) :
    linkChanged p cause s = raiseIrq (writeLink p s) 3 := by
  unfold linkChanged linkRecord logEntry logEntryAt
  dsimp only
  rw [logRecord_off (by exact off)]

/-- What a link's own steps leave: the context, the scratchpads, and memory but for the block's 96 bytes of the ports. -/
structure LinkOnly (s t : State) : Prop where
  ctx : t.ctx = s.ctx
  who : t.who = s.who
  spm : t.spm = s.spm
  now : t.now = s.now
  wf : t.mem.wf = true
  mem : ∀ a, (a < platformBase + 0x40 ∨ platformBase + 0xA0 ≤ a) → t.mem.read a = s.mem.read a

/-- From s to t the device's own registers alone have changed. -/
def DevOnly (s t : State) : Prop := t = { s with dev := t.dev }

theorem DevOnly.writeLink {s w : State} (only : DevOnly s w) (wf : s.mem.wf = true) (p : Fin 12) : LinkOnly s (writeLink p w) := by
  rw [only] at *
  exact ⟨rfl, rfl, rfl, rfl, writeBytes_wf _ _ wf, fun a apart => writeLink_read (s := { s with dev := w.dev }) wf p apart⟩

theorem LinkOnly.modDev {s t : State} (h : LinkOnly s t) (f : Dev → Dev) : LinkOnly s (modDev t f) := ⟨h.ctx, h.who, h.spm, h.now, h.wf, h.mem⟩

/-- A changed link is shown: the block's bytes of the port, and line 3. -/
theorem linkChanged_shows {s w : State} (only : DevOnly s w) (off : w.dev.errlog = 0) (wf : s.mem.wf = true) (p : Fin 12) (cause : Nat) :
    let t := linkChanged p cause w
    LinkOnly s t ∧ t.dev = { w.dev with irq := w.dev.irq.set 3 true } ∧
      ∀ k, k < 3 → t.mem.read (platformBase + 0x40 + 8 * p.val + k) = BitVec.ofNat 8 ((linkField w.dev.ports[p.val]).getD k 0) := by
  have wfW : w.mem.wf = true := by rw [only]; exact wf
  dsimp only
  rw [linkChanged_off off]
  exact ⟨(only.writeLink wf p).modDev _, rfl, fun k hk => writeLink_reads wfW p hk⟩

/-- What the death of a port leaves (R447). -/
def Died (s : State) (p : Fin 12) (t : State) : Prop :=
  t.dev.ports[p.val].up = false ∧ t.dev.epoch = s.dev.epoch + 1 ∧ t.dev.ports[p.val].epoch = s.dev.epoch + 1 ∧
    (s.dev.no, s.dev.epoch + 1) ∈ t.dev.seen ∧ t.dev.irq[3] = true ∧
    ∀ k, k < 3 → t.mem.read (platformBase + 0x40 + 8 * p.val + k) = BitVec.ofNat 8 ([0, s.dev.ports[p.val].peerDev, s.dev.ports[p.val].peerPort].getD k 0)

/-- A port that was up and is declared dead (R447). -/
theorem declareDead_dies {s : State} (off : s.dev.errlog = 0) (wf : s.mem.wf = true) {p : Fin 12} (up : s.dev.ports[p.val].up = true) (cause : Nat) :
    LinkOnly s (declareDead p cause s) ∧ Died s p (declareDead p cause s) := by
  rw [declareDead, if_pos up]
  generalize hw : floodUpdate p false (modPort p (fun q => { q with up := false, fails := 0, lockLost := none }) s) = w
  have port : w.dev.ports[p.val] = { s.dev.ports[p.val] with up := false, fails := 0, lockLost := none, epoch := s.dev.epoch + 1, told := false } := by
    subst hw
    simp [floodUpdate, modPort, modDev]
  have seen : (s.dev.no, s.dev.epoch + 1) ∈ w.dev.seen := by
    subst hw
    simp [floodUpdate, modPort, modDev]
  have epoch : w.dev.epoch = s.dev.epoch + 1 := by subst hw; rfl
  obtain ⟨only, dev, shown⟩ := linkChanged_shows (w := w) (by subst hw; rfl) (by subst hw; exact off) wf p cause
  refine ⟨only, ?_, ?_, ?_, ?_, ?_, fun k hk => ?_⟩
  · rw [dev]
    exact congrArg Port.up port
  · rw [dev]
    exact epoch
  · rw [dev]
    exact congrArg Port.epoch port
  · rw [dev]
    exact seen
  · rw [dev]
    simp
  · rw [shown k hk, port]
    rfl

/-- A port that trains shows its peer (R445). -/
theorem trained_shows {s : State} (off : s.dev.errlog = 0) (wf : s.mem.wf = true) (p : Fin 12) (dev port : Nat) :
    let u := if s.dev.ports[p.val].told then s else floodUpdate p true s
    let t := linkChanged p 0 (modPort p (fun q => { q with up := true, peerDev := dev, peerPort := port, fails := 0, lockLost := none }) u)
    LinkOnly s t ∧ t.dev.ports[p.val].up = true ∧ t.dev.ports[p.val].peerDev = dev ∧ t.dev.ports[p.val].peerPort = port ∧ t.dev.irq[3] = true ∧
      (∀ k, k < 3 → t.mem.read (platformBase + 0x40 + 8 * p.val + k) = BitVec.ofNat 8 ([1, dev, port].getD k 0)) ∧
      (s.dev.ports[p.val].told = true → t.dev.epoch = s.dev.epoch) := by
  dsimp only
  have flooded : DevOnly s (if s.dev.ports[p.val].told then s else floodUpdate p true s) ∧
      (if s.dev.ports[p.val].told then s else floodUpdate p true s).dev.errlog = 0 := by
    split
    · exact ⟨rfl, off⟩
    · exact ⟨rfl, off⟩
  have kept : s.dev.ports[p.val].told = true → (if s.dev.ports[p.val].told then s else floodUpdate p true s) = s := fun told => if_pos told
  generalize (if s.dev.ports[p.val].told then s else floodUpdate p true s) = u at flooded kept ⊢
  obtain ⟨devOnly, off⟩ := flooded
  generalize hw : modPort p (fun q => { q with up := true, peerDev := dev, peerPort := port, fails := 0, lockLost := none }) u = w
  have its : w.dev.ports[p.val] = { u.dev.ports[p.val] with up := true, peerDev := dev, peerPort := port, fails := 0, lockLost := none } := by
    subst hw
    simp [modPort, modDev]
  obtain ⟨only, regs, shown⟩ := linkChanged_shows (s := s) (w := w) (by subst hw; rw [devOnly]; rfl) (by subst hw; exact off) wf p 0
  rw [regs]
  refine ⟨only, ?_, ?_, ?_, ?_, fun k hk => ?_, fun told => ?_⟩
  · exact congrArg Port.up its
  · exact congrArg Port.peerDev its
  · exact congrArg Port.peerPort its
  · simp
  · rw [shown k hk, its]
    rfl
  · rw [← hw, kept told]
    rfl

/-! ### Requests of the platform block (R474) -/

/-- HEAD of the request ring passes to the next entry. -/
theorem advanceHead_passes {s t : State} (wf : t.mem.wf = true)
    (kept : ∀ a, platformBase + 0x1F0 ≤ a → a < platformBase + 0x1F4 → t.mem.read a = s.mem.read a) :
    platRead (advanceHead t) 0x1F0 4 = (platRead s 0x1F0 4 + 1) % 64 := by
  rw [advanceHead, platWrite_read_self wf, platRead_congr fun a low high => kept a low (by omega)]
  omega

theorem advanceHead_read {t : State} (wf : t.mem.wf = true) {a : Nat} (apart : a < platformBase + 0x1F0 ∨ platformBase + 0x1F4 ≤ a) :
    (advanceHead t).mem.read a = t.mem.read a := platWrite_read wf (by omega)

/-- A request of its type is acted on, and HEAD passes on. -/
theorem processRequest_acts {s : State} {ty : Nat} {p : Fin 12} (act : Fin 12 → Nat → State → State) (known : ty = 1 ∨ ty = 2 ∨ ty = 3)
    (low : platRead s 0x1F0 4 < 64) (some' : platRead s 0x1F0 4 ≠ platRead s 0x1F4 4 % 64)
    (its : platRead s (0x200 + 16 * platRead s 0x1F0 4) 1 = ty) (port : platRead s (0x201 + 16 * platRead s 0x1F0 4) 1 = p.val) :
    processRequest ty act s = .next (advanceHead (act p (platRead s (0x204 + 16 * platRead s 0x1F0 4) 4) s)) := by
  have head : headRequest s = some (ty, p.val, platRead s (0x204 + 16 * platRead s 0x1F0 4) 4) := by
    unfold headRequest
    dsimp only
    rw [Nat.mod_eq_of_lt low, if_neg some', its, port]
  have taken : requestSkipped ty p.val = false := by
    have small := p.isLt
    rcases known with rfl | rfl | rfl <;> simp [requestSkipped] <;> omega
  have same : Fin.ofNat 12 p.val = p := Fin.ext (Nat.mod_eq_of_lt p.isLt)
  unfold processRequest
  rw [head]
  dsimp only
  rw [taken, if_neg (by decide), if_pos rfl, same]

/-- An event of class 12 moves the device's counters alone, and no port (R432). -/
theorem linkRetry_counts {s : State} (off : Uncontrolled s) : ∃ d, countEvents none [12] s = { s with dev := d } ∧
    d.tot[12] = s.dev.tot[12] + 1 ∧ d.ports = s.dev.ports := by
  obtain ⟨log, calm⟩ := off
  rw [countEvents, List.foldl_cons, List.foldl_nil, show Fin.ofNat 16 12 = (12 : Fin 16) from rfl, countEvent, if_neg (by simp [uncounted])]
  dsimp only
  rw [showTotal_off (by exact log), if_neg fun crossed => crossed.1 (calm 12)]
  exact ⟨_, rfl, by simp, rfl⟩

theorem modPort_self (p : Fin 12) (f : Port → Port) (s : State) : (modPort p f s).dev.ports[p.val] = f s.dev.ports[p.val] := by
  simp [modPort, modDev]

theorem linkRecord_off {s : State} (off : s.dev.errlog = 0) (port state cause peerPort peerDev epoch resent failed : Nat) :
    linkRecord port state cause peerPort peerDev epoch resent failed s = s := by
  rw [linkRecord, logEntry, logEntryAt, logRecord_off off]

theorem linkDeath_port {s : State} (port : s.input.num2 = 0) : exec .linkDeath s =
    if 16 ≤ s.dev.ports[s.input.port.val].fails then .next (declareDead s.input.port 0 s)
    else match s.dev.ports[s.input.port.val].lockLost with
      | some t => .next (declareDead s.input.port 1 (elapseTo t 10 s))
      | none => .next s :=
  if_neg (by rw [port]; decide)

/-- The power cap is set and shown (R474, R476). -/
def setPcap (c : Nat) (s : State) : State := platWrite (modDev s fun d => { d with pcap := c }) 0x124 4 c

theorem pcapSet_shows {s : State} (wf : s.mem.wf = true) (c : Nat) (small : c < 2 ^ 32) :
    let t := advanceHead (setPcap c s)
    (t.ctx = s.ctx ∧ t.who = s.who ∧ t.spm = s.spm) ∧ platRead t 0x1F0 4 = (platRead s 0x1F0 4 + 1) % 64 ∧ t.dev.pcap = c ∧ platRead t 0x124 4 = c := by
  have wfC : (setPcap c s).mem.wf = true := platWrite_wf (s := modDev s _) wf ..
  have cap : platRead (setPcap c s) 0x124 4 = c := (platWrite_read_self (s := modDev s _) wf ..).trans (Nat.mod_eq_of_lt small)
  have head : ∀ a, platformBase + 0x1F0 ≤ a → a < platformBase + 0x1F4 → (setPcap c s).mem.read a = s.mem.read a := fun a low _ =>
    platWrite_read (s := modDev s _) wf (.inr (by omega))
  refine ⟨⟨rfl, rfl, rfl⟩, advanceHead_passes wfC head, rfl, ?_⟩
  rw [platRead_congr fun a _ high => advanceHead_read wfC (.inl (by omega)), cap]

/-- A wait moves the cycle count alone, and reaches its time. -/
theorem elapseTo_passes (t us : Nat) (s : State) : ∃ n, elapseTo t us s = { s with now := n } ∧
    realAt s t + us * usUnits ≤ realAt s s.now + (n - s.now) * cycleUnits s.dev.clk := ⟨_, rfl, elapseTo_reaches t us s⟩

/-- The drains left once the drain round of an update has run: its count goes up, and a drain of six rounds is over. -/
def drainsAfter (s : State) : List Drain :=
  (s.dev.drains.map fun x => if x.origin = s.input.dev.val ∧ x.epoch = s.input.num then { x with round := x.round + 1 } else x).filter (·.round < 6)

/-- The first two drain rounds wait, and do nothing else (R447). -/
theorem linkDrainRound_early {s : State} {d : Drain}
    (found : s.dev.drains.find? (fun d => d.origin = s.input.dev.val ∧ d.epoch = s.input.num) = some d) (early : d.round < 3) :
    exec .linkDrainRound s = .next (modDev (elapseTo d.received (50 * (d.round - 1)) s) fun v => { v with drains := drainsAfter s }) := by
  show execLinkDrainRound s = _
  obtain ⟨n, elapsed, -⟩ := elapseTo_passes d.received (50 * (d.round - 1)) s
  have none (own : Bool) (t : State) : drainAction s.input.list d.round d.port own t = t := by
    unfold drainAction
    match h : d.round, early with
    | 0, _ => rfl
    | 1, _ => rfl
    | 2, _ => rfl
  rw [execLinkDrainRound]
  dsimp only
  rw [found]
  dsimp only
  rw [elapsed, if_neg (by omega), none]
  rfl

/-- A drain that is alone of its update and has not had its last round stays, with its count up by one. -/
theorem mem_drainsAfter {s : State} {d : Drain} (m : d ∈ s.dev.drains) (origin : d.origin = s.input.dev.val) (epoch : d.epoch = s.input.num)
    (early : d.round < 3) : { d with round := d.round + 1 } ∈ drainsAfter s :=
  List.mem_filter.2 ⟨List.mem_map.2 ⟨d, m, if_pos ⟨origin, epoch⟩⟩, by simp; omega⟩

/-- The drain of an update is found where it is the only one of its origin and epoch. -/
theorem find_drain {ds : List Drain} {d : Drain} {o e : Nat} (m : d ∈ ds) (origin : d.origin = o) (epoch : d.epoch = e)
    (sole : ∀ x ∈ ds, x.origin = d.origin → x.epoch = d.epoch → x = d) : ds.find? (fun x => x.origin = o ∧ x.epoch = e) = some d := by
  obtain ⟨x, found⟩ := Option.isSome_iff_exists.1 (List.find?_isSome.2 ⟨d, m, by simp [origin, epoch]⟩ :
    (ds.find? fun x => x.origin = o ∧ x.epoch = e).isSome = true)
  have its := List.find?_some found
  simp only [decide_eq_true_eq] at its
  rw [found, sole x (List.mem_of_find?_eq_some found) (its.1.trans origin.symm) (its.2.trans epoch.symm)]

section Links

variable {s : State}

/-- What the steps of a link's state leave as it was. -/
theorem LinkOnly.keeps {t : State} (h : LinkOnly s t) : t.ctx = s.ctx ∧ t.who = s.who ∧ t.spm = s.spm := ⟨h.ctx, h.who, h.spm⟩

/-- HEAD passes on from a state that has changed the block's bytes of the ports alone. -/
theorem LinkOnly.passes {t : State} (h : LinkOnly s t) : platRead (Machine.advanceHead t) 0x1F0 4 = (platRead s 0x1F0 4 + 1) % 64 := by
  refine advanceHead_passes h.wf fun a low _ => h.mem a (.inr ?_)
  generalize platformBase = base at low ⊢
  omega

theorem Died.advanceHead {t : State} {p : Fin 12} (died : Died s p t) (wf : t.mem.wf = true) : Died s p (advanceHead t) := by
  obtain ⟨up, epoch, own, seen, irq, shown⟩ := died
  have low := p.isLt
  exact ⟨up, epoch, own, seen, irq, fun k hk => (advanceHead_read wf (.inl (by omega))).trans (shown k hk)⟩

end Links

/-- Settles O53: a death by `declareDead_dies`, training by `trained_shows`, waits by `elapseTo_reaches`, requests by `processRequest_acts`. -/
theorem linkSteps : Obligations.LinkSteps := by
  intro s log calm wf i p q now keeps linkBytes died head request passed
  have off : Uncontrolled s := ⟨log, calm⟩
  have dies {t : State} (h : LinkOnly s t) (d : Died s p t) : died t := ⟨h.keeps, d⟩
  refine ⟨fun port => ?retry, fun port => ?lock, fun port up many => ?fails, fun port up few t0 lost => ?lost, fun port few steady => ?calm,
    fun skip => if_pos skip, fun down other => ?trained, ⟨fun known => ?known, fun new => ?update⟩, fun d m origin epoch sole early => ?round,
    fun asked up => ?declare, fun asked down => ?bring, fun asked => ?pcap⟩
  case retry =>
    obtain ⟨d, counted, tot, ports⟩ := linkRetry_counts off
    refine ⟨_, congrArg Host.Outcome.next (if_neg (by rw [show s.input.num2 = 0 from port]; decide)), ?_⟩
    rw [counted]
    refine ⟨⟨rfl, rfl, rfl⟩, fun _ => ⟨rfl, rfl, rfl⟩, tot, ?_⟩
    refine (congrArg Port.fails (modPort_self p _ _)).trans ?_
    dsimp only
    rw [ports]
  case lock =>
    refine ⟨_, congrArg Host.Outcome.next (if_neg (by rw [show s.input.num2 = 0 from port]; decide)), ⟨rfl, rfl, rfl⟩, fun _ => ⟨rfl, rfl, rfl⟩, ?_⟩
    refine (congrArg Port.lockLost (modPort_self p _ _)).trans ?_
    show _ = if s.input.good then some (s.dev.ports[p.val].lockLost.getD s.now) else none
    cases s.input.good <;> cases s.dev.ports[p.val].lockLost <;> rfl
  case fails =>
    obtain ⟨only, d⟩ := declareDead_dies log wf up 0
    exact ⟨declareDead p 0 s, (linkDeath_port port).trans (if_pos many), dies only d⟩
  case lost =>
    obtain ⟨n, elapsed, reached⟩ := elapseTo_passes t0 10 s
    obtain ⟨only, d⟩ := declareDead_dies (s := { s with now := n }) log wf up 1
    refine ⟨declareDead p 1 { s with now := n }, ?_, ⟨only.keeps, d⟩, by rw [only.now]; exact reached⟩
    rw [linkDeath_port port, if_neg (Nat.not_le.2 few), show s.dev.ports[p.val].lockLost = _ from lost]
    exact congrArg (fun t => Host.Outcome.next (declareDead p 1 t)) elapsed
  case calm => rw [linkDeath_port port, if_neg (Nat.not_le.2 few), show s.dev.ports[p.val].lockLost = _ from steady]
  case trained =>
    obtain ⟨only, up, dev, port, irq, shown, epoch⟩ := trained_shows log wf p i.dev.val i.num
    have down' : s.dev.ports[p.val].up = false := down
    refine ⟨_, if_neg ?_, only.keeps, up, dev, port, irq, shown, epoch⟩
    rintro (h | h)
    · exact Bool.false_ne_true (down'.symm.trans h)
    · exact other h
  case known => exact if_pos (by simpa using known)
  case update =>
    have fresh : ¬s.dev.seen.contains (s.input.update.origin.val, s.input.update.epoch) = true := by simpa using new
    refine ⟨_, if_neg fresh, ?_⟩
    rw [linkRecord_off (by exact log)]
    refine ⟨⟨rfl, rfl, rfl⟩, ?_, rfl, rfl, fun down => ?_⟩
    · simp [raiseIrq, modDev]
    · show _ ∈ if _ then _ else _
      rw [show s.input.update.up = false from down, Bool.false_or]
      split
      · next held => simpa using held
      · exact List.mem_append_right _ (List.mem_singleton_self _)
  case round =>
    obtain ⟨n, elapsed, reached⟩ := elapseTo_passes d.received (50 * (d.round - 1)) s
    refine ⟨_, linkDrainRound_early (find_drain m origin epoch sole) early, ?_⟩
    rw [elapsed]
    exact ⟨⟨rfl, rfl, rfl⟩, mem_drainsAfter m origin epoch early, reached⟩
  case declare =>
    obtain ⟨low, some, its, port⟩ := asked
    obtain ⟨only, d⟩ := declareDead_dies log wf up 3
    exact ⟨_, processRequest_acts (fun p _ => declareDead p 3) (.inl rfl) low some its port, ⟨only.keeps, d.advanceHead only.wf⟩, only.passes⟩
  case bring =>
    obtain ⟨low, some, its, port⟩ := asked
    have down' : s.dev.ports[p.val].up = false := down
    have flooded : DevOnly s (floodUpdate p true s) := rfl
    have only : LinkOnly s (writeLink p (floodUpdate p true s)) := flooded.writeLink wf p
    have stays : (floodUpdate p true s).dev.ports[p.val].up = false := (congrArg Port.up (modPort_self p _ _)).trans down'
    refine ⟨_, processRequest_acts (fun p _ s => if s.dev.ports[p.val].up then s else writeLink p (floodUpdate p true s)) (.inr (.inl rfl))
      low some its port, ?_⟩
    rw [if_neg (by simp [down'])]
    exact ⟨only.keeps, only.passes, rfl, stays⟩
  case pcap =>
    obtain ⟨low, some, its, port⟩ := asked
    obtain ⟨kept, passes, cap, shown⟩ := pcapSet_shows wf (max 1200 (min 3600 (platRead s (0x204 + 16 * platRead s 0x1F0 4) 4))) (by omega)
    refine ⟨_, processRequest_acts (fun _ v s => setPcap (max 1200 (min 3600 v)) s) (.inr (.inr rfl)) low some its port, kept, passes, cap, ?_⟩
    rw [cap]
    exact shown

end Sys2Proof.Machine

namespace Sys2Proof.Machine

/-- Host 0 is up and writes one byte through the window on the user's page of 0x40000000, which is mapped to the first raw page of stack 0 with HW
set. A committed entry of the bounce ring of stack 0, in slot 1, names that page's first block and holds its first byte (R415). -/
def struckByHost : State :=
  let s := userStarted State.reset
  { s with
    mem := s.mem.writeBytes (userTables + 0x2008) (bytesOf 8 (rawBase 0 + 0x5F3))
    dies := s.dies.set 0 { s.dies[0] with bounce := [⟨5, 0, 0, true, true, 0, some (rawBase 0), 1, [(0, 9)], false, 0, .user 0 0, [], 0, 0⟩] }
    dev := { s.dev with hostUp := s.dev.hostUp.set 0 true }
    input := { s.input with bytes := some [7], good := true, num := 0, num2 := 0x40000000, ctx := .user 0 0 } }

/-- The host's write is made, and the struck entry's image, written to its slot of the ring, leaves 5 where 0 stood. -/
theorem struckByHost_rewrites : ∃ t, exec .hostAccess struckByHost = .next t ∧ t.mem.read (rawBase 0 + 256) = 5 := ⟨_, rfl, by decide +kernel⟩

/-- Refutes O54: its state may hold a committed bounce entry whose block is raw memory. A host's write through BAR2 strikes the bytes of committed
entries that it overwrites (R415), and the changed entry is written back to its slot of the ring in raw memory; the statement says that no
byte besides those of the write changes. In `struckByHost` the entry's slot is 256 bytes past the byte that the host writes. -/
theorem not_platformSteps : ¬ Obligations.PlatformSteps := by
  intro h
  have wf : struckByHost.mem.wf = true := by decide +kernel
  have granted : grantedKey struckByHost.input.ctx struckByHost.input.num2 1 struckByHost = some (rawBase 0) := by decide +kernel
  have raw : placeOf struckByHost (rawBase 0) = .raw 0 0 := by decide +kernel
  have opens : physOpen struckByHost 0 (rawBase 0) 1 = true := by decide +kernel
  have before : struckByHost.mem.read (rawBase 0 + 256) = 0 := by decide +kernel
  obtain ⟨-, -, -, -, access, -⟩ := h struckByHost wf
  obtain ⟨-, window⟩ := access [7] rfl rfl
  obtain ⟨-, writes⟩ := window (by decide)
  obtain ⟨t, runs, -, -, rest⟩ := writes (rawBase 0) rfl (by decide) granted rfl
    (fun k hk => ⟨0, 0, by rw [Nat.lt_one_iff.1 hk, Nat.add_zero, raw]⟩) opens
  obtain ⟨u, made, read⟩ := struckByHost_rewrites
  have same : u = t := Host.Outcome.next.inj (made.symm.trans runs)
  have kept := rest (rawBase 0 + 256) (.inr (Nat.add_le_add_left (by decide) _))
  rw [← same, read, before] at kept
  exact absurd kept (by decide)

end Sys2Proof.Machine

namespace Sys2Proof.Machine

/-- Stack 0's ring begins where the first raw page does, and its slot 0 holds a committed entry for byte 8 of its own block. A QUERY descriptor of
core 0 lies in the same slot, and s2 of the system context holds its address. -/
def queriesItsRing : State :=
  let s := State.reset
  { s with
    mem := [(rawBase 0, 5)]
    ctx := { s.ctx with s := s.ctx.s.set 2 (BitVec.ofNat 64 (rawBase 0)) }
    dies := s.dies.set 0 { s.dies[0] with bounce := [⟨2 ^ 24, 0, 0, true, true, 0, some (rawBase 0), 0, [(8, 9)], false, 0, .user 0 0, [], 0, 0⟩] } }

/-- The first result byte that QUERY writes back, FE, is rewritten as the third result strikes the entry (R415, R455). -/
theorem queriesItsRing_rewrites : ∃ t, exec (.bindQuery 1 2) queriesItsRing = .next (land (.s 1) (.word 0) 1 t) ∧ t.mem.read (rawBase 0 + 3) = 1 :=
  ⟨_, rfl, by decide +kernel⟩

theorem queriesItsRing_raw : ∀ k : Fin 128, placeOf queriesItsRing (rawBase 0 + k.val) = .raw 0 k.val := by decide +kernel

/-- Refutes O48: its state may hold a committed bounce entry whose slot of the ring overlaps the descriptor. QUERY writes its results back one after
another; a later one that strikes the entry (R415) has the entry's image written to its slot again, over a result written before it, while
the statement says that FE, SLAB0 and SLAB1 are read at bytes 3 to 5. In `queriesItsRing` byte 3 reads 1, and FE is 0. -/
theorem not_bindOperations : ¬ Obligations.BindOperations := by
  intro h
  have its : rdS queriesItsRing 2 = BitVec.ofNat 64 (rawBase 0) := by decide +kernel
  have base : (BitVec.ofNat 64 (rawBase 0)).toNat = rawBase 0 := by decide +kernel
  have opens : physOpen queriesItsRing (.sys 0 0 : CtxId).stack (rawBase 0) 128 = true := by decide +kernel
  have clean : physPoisoned queriesItsRing (rawBase 0) 128 = false := by decide +kernel
  have present : placeOf queriesItsRing (rawBase 0) ≠ .absent := by decide +kernel
  have query : imgNat (physRead queriesItsRing (rawBase 0) 128) 0 1 = 5 ∧ imgNat (physRead queriesItsRing (rawBase 0) 128) 1 1 = 0 ∧
      imgNat (physRead queriesItsRing (rawBase 0) 128) 2 1 = 0 ∧
      restZero (physRead queriesItsRing (rawBase 0) 128) [(2, 5), (8, 13), (24, 7), (32, 2)] = true := by decide +kernel
  obtain ⟨op, stack, core, rest⟩ := query
  have bound := h queriesItsRing 1 2 0 0 rfl (by decide +kernel) (by decide +kernel)
  rw [its] at bound
  dsimp only at bound
  rw [base] at bound
  obtain ⟨-, -, -, sound⟩ := bound
  obtain ⟨-, acts⟩ := sound (by decide) (by decide) present opens clean
  obtain ⟨-, does⟩ := acts (.bindQuery 1 2, 5, [(2, 5), (8, 13), (24, 7), (32, 2)]) (by simp) op (by omega) rest
  obtain ⟨-, -, -, -, queries, -⟩ := does (by decide +kernel)
  obtain ⟨-, reads⟩ := queries rfl
  have wf : queriesItsRing.mem.wf = true := by decide +kernel
  obtain ⟨t, ends, -, results⟩ := reads (by rw [core]; decide) wf fun q low high => ⟨0, q - rawBase 0, by
    rw [← queriesItsRing_raw ⟨q - rawBase 0, Nat.sub_lt_left_of_lt_add low high⟩, Nat.add_sub_cancel' low]⟩
  obtain ⟨u, runs, byte3⟩ := queriesItsRing_rewrites
  have same : (land (.s 1) (.word 0) 1 u).mem = (land (.s 1) (.word 0) 1 t).mem :=
    congrArg State.mem (Host.Outcome.next.inj (runs.symm.trans ends))
  rw [land_mem, land_mem] at same
  have fe := results 0 (by simp [leBytes])
  rw [← same, Nat.add_zero, byte3, stack, core] at fe
  exact absurd fe (by decide +kernel)

end Sys2Proof.Machine

namespace Sys2Proof.Machine

/-! ## Tasks and their clusters' queues, as the memory system and the units leave them

Serving accesses, writing for the device and ending contexts change what a task has written, touched, retained or suffered, and post records. They
give no task another number, place, record address, run or phase, and neither add a task nor let one go. One lemma for each operation. -/

/-- A task's number, its clusters, the address of its record, its run and its phase. -/
abbrev Standing : Type := Nat × Nat × Nat × Nat × TaskPhase

/-- What of a task its accesses and its faults leave alone. -/
def Task.standing (t : Task) : Standing := (t.id, t.dmask, t.recAt, t.runs, t.phase)

/-- The records that wait to enter the event queue of a cluster. -/
def postingIn (cs : Tbl Cluster) (g : Nat) : List Record := ((Tbl.get? cs g).getD Cluster.blank).posting

/-- The tasks stand as T lists them, and, where Q names the records that wait at each cluster, these wait there. -/
structure Listed (T : List Standing) (Q : Option (Nat → List Record)) (s : State) : Prop where
  tasks : s.tasks.map Task.standing = T
  posting : ∀ q, Q = some q → ∀ g, postingIn s.clusters g = q g

theorem listed_iff {T : List Standing} {Q : Option (Nat → List Record)} {s : State} :
    Listed T Q s ↔ s.tasks.map Task.standing = T ∧ ∀ q, Q = some q → ∀ g, postingIn s.clusters g = q g :=
  ⟨fun h => ⟨h.1, h.2⟩, fun h => ⟨h.1, h.2⟩⟩

/-- The state that an access of global memory leaves lists them, whatever became of the access. -/
def ListedPerf (T : List Standing) (Q : Option (Nat → List Record)) {α : Type} (r : Perf α) : Prop :=
  match r with
  | .ok s _ | .serviced s _ _ | .noSectors s _ | .failed s _ _ | .race s _ _ _ | .overflow s | .remote s _ => Listed T Q s

/-- The state that a waiting access leaves lists them. -/
def ListedPumped (T : List Standing) (Q : Option (Nat → List Record)) (r : Pumped) : Prop :=
  match r with
  | .done s | .waits s _ | .held s _ => Listed T Q s

/-- The state that a barrier arrival leaves lists them. -/
def ListedArrived (T : List Standing) (Q : Option (Nat → List Record)) (r : Arrived) : Prop :=
  match r with
  | .ok s _ | .waits s _ | .later s | .denied s _ => Listed T Q s

/-- The state that a write leaves lists them, whether its sectors were there or not. -/
def ListedExcept (T : List Standing) (Q : Option (Nat → List Record)) (r : Except State State) : Prop :=
  match r with
  | .ok s | .error s => Listed T Q s

/-- The state that an access leaves, if it is made, lists them. -/
def ListedOption (T : List Standing) (Q : Option (Nat → List Record)) {α : Type} (r : Option (Perf α)) : Prop :=
  match r with
  | some x => ListedPerf T Q x
  | none => True

section Listings
variable {s : State} {T : List Standing} {Q : Option (Nat → List Record)}

theorem ListedExcept_map {f : State → State} {r : Except State State} (h : ListedExcept T Q r) (hf : ∀ s, Listed T Q s → Listed T Q (f s)) :
    ListedExcept T Q (r.map f) := by
  cases r with
  | error t => exact h
  | ok x => exact hf x h

theorem foldl_listed {α : Type} {f : State → α → State} (hf : ∀ s x, Listed T Q s → Listed T Q (f s x)) (l : List α) {s : State}
    (h : Listed T Q s) : Listed T Q (l.foldl f s) := by
  induction l generalizing s with
  | nil => exact h
  | cons x l ih => exact ih (hf s x h)

/-- What leaves the queue of a cluster leaves the queues of all. -/
theorem modCluster_listed (g : Nat) (f : Cluster → Cluster) (hf : ∀ c,
  (f c).posting = c.posting) (hs : Listed T Q s) : Listed T Q (modCluster s g f) := by
  refine ⟨hs.tasks, fun q known j => ?_⟩
  by_cases same : j = g
  · subst same
    rw [← hs.posting q known j]
    simp [modCluster, setCluster, postingIn, clusterOf, hf]
  · rw [← hs.posting q known j]
    simp [modCluster, setCluster, postingIn, tbl_get_set_other _ _ same]

/-- Where no queue is named, a cluster may change. -/
theorem setCluster_unqueued (g : Nat) (x : Cluster) (hs : Listed T none s) : Listed T none (setCluster s g x) := by
  grind [setCluster, listed_iff]

theorem modCluster_unqueued (g : Nat) (f : Cluster → Cluster) (hs : Listed T none s) : Listed T none (modCluster s g f) := by
  grind [modCluster, !setCluster_unqueued]

theorem modTask_listed (id : Nat) (f : Task → Task) (hf : ∀ t, (f t).standing = t.standing) (hs : Listed T Q s) : Listed T Q (modTask s id f) := by
  refine ⟨?_, hs.posting⟩
  rw [← hs.tasks, modTask, List.map_map]
  refine List.map_congr_left fun t _ => ?_
  dsimp only [Function.comp]
  split
  · exact hf t
  · rfl

theorem setStack_listed (n : Fin 8) (x : Stack) (hs : Listed T Q s) : Listed T Q (setStack s n x) := by
  grind [setStack, listed_iff]

theorem modStack_listed (n : Fin 8) (f : Stack → Stack) (hs : Listed T Q s) : Listed T Q (modStack s n f) := by
  grind [modStack, !setStack_listed]

theorem modDev_listed (f : Dev → Dev) (hs : Listed T Q s) : Listed T Q (modDev s f) := by
  grind [modDev, listed_iff]

theorem bump_listed (hs : Listed T Q s) : Listed T Q (bump s) := by
  grind [bump, listed_iff]

theorem poke_listed (pa n x : Nat) (hs : Listed T Q s) : Listed T Q (poke s pa n x) := by
  grind [poke, listed_iff]

theorem committedStore_listed (key : Nat) (bs : List Byte) (hs : Listed T Q s) : Listed T Q (committedStore key bs s) := by
  grind [committedStore, listed_iff]

theorem logPad_listed (n w : Nat) (hs : Listed T Q s) : Listed T Q (logPad n w s) := by
  induction n generalizing w s with
  | zero => exact hs
  | succ k ih =>
    grind [logPad, !committedStore_listed]

theorem logBump_listed (off : Nat) (hs : Listed T Q s) : Listed T Q (logBump s off) := by
  grind [logBump, !poke_listed]

theorem logRecord_listed (k : Nat) (bs : List Byte) (hs : Listed T Q s) : Listed T Q (logRecord k bs s) := by
  grind [logRecord, !logBump_listed, !logPad_listed, !committedStore_listed, !poke_listed]

theorem logEntryAt_listed (ty k : Nat) (at_ : Site) (task : Nat) (body : List Byte) (hs : Listed T Q s) :
    Listed T Q (logEntryAt ty k at_ task body s) := by
  grind [logEntryAt, !logRecord_listed]

theorem setDir_listed (n : Fin 8) (page : Nat) (e : DirEnt) (hs : Listed T Q s) : Listed T Q (setDir s n page e) := by
  grind [setDir, !modStack_listed, !poke_listed]

theorem allocate_listed (n : Fin 8) (page k : Nat) (hs : Listed T Q s) : Listed T Q (allocate n page k s) := by
  induction k generalizing s with
  | zero => exact hs
  | succ k ih =>
    grind [allocate, !setDir_listed]

theorem kickSump_listed (n : Fin 8) (hs : Listed T Q s) : Listed T Q (kickSump s n) := by
  grind [kickSump, !modStack_listed]

theorem dropWaiter_listed (unit : Waiter) (n : Fin 8) (hs : Listed T Q s) : Listed T Q (dropWaiter unit s n) := by
  grind [dropWaiter, !modStack_listed]

theorem expandFor_listed (unit : Waiter) (n : Fin 8) (page : Nat) {with' : State} (hs : Listed T Q s) (hs : Listed T Q with') :
    ListedExcept T Q (expandFor unit n page s with') := by
  grind [expandFor, ListedExcept, !dropWaiter_listed, !kickSump_listed, !allocate_listed, !modStack_listed]

theorem recompute_listed (n : Fin 8) (page : Nat) (hs : Listed T Q s) : Listed T Q (recompute s n page) := by
  grind [recompute, !setDir_listed]

theorem writeBounce_listed (n : Fin 8) (e : Bounce) (hs : Listed T Q s) : Listed T Q (writeBounce n e s) := by
  grind [writeBounce, !committedStore_listed]

theorem refreshBp_listed (e : Bounce) (hs : Listed T Q s) : Listed T Q (refreshBp s e) := by
  grind [refreshBp, !setDir_listed]

theorem mapBounce_listed (n : Fin 8) (f : Bounce → Bounce) (hs : Listed T Q s) : Listed T Q (mapBounce n f s) := by
  grind [mapBounce, !writeBounce_listed, !modStack_listed, !refreshBp_listed, !foldl_listed]

theorem strikeBy_listed (hit : Fin 8 → Bounce → Nat → Bool) (hs : Listed T Q s) : Listed T Q (strikeBy hit s) := by
  grind [strikeBy, !mapBounce_listed, !foldl_listed]

theorem strikeAt_listed (key n : Nat) (hs : Listed T Q s) : Listed T Q (strikeAt key n s) := by
  grind [strikeAt, !strikeBy_listed]

theorem translate_listed (a : Acc) (k : Kind) (va : Nat) (hs : Listed T Q s) : Listed T Q (translate a k va s).1 := by
  have marked (p p' at_ : Nat) : Listed T Q (if p' = p then s else poke (strikeAt at_ 8 s) at_ 8 p') := by
    grind [!poke_listed, !strikeAt_listed]
  unfold translate
  extract_lets g n near cached walk agrees hit
  clear_value hit cached walk near
  split
  · dsimp only
    split
    · exact hs
    · exact modCluster_listed _ _ (fun _ => rfl) hs
  · split
    · exact hs
    · next level p at_ =>
      split
      · dsimp only
        exact modStack_listed _ _ (modCluster_listed _ _ (fun _ => rfl) (marked p _ at_))
      · exact hs

theorem translate_eq_listed {a : Acc} {k : Kind} {va : Nat} {t : State} {x : Xlat} (e : translate a k va s = (t, x)) (hs : Listed T Q s) :
    Listed T Q t := by
  have h := translate_listed a k va hs
  rwa [e] at h

theorem strikeBounce_listed (task : Nat) (asid : BitVec 16) (va key n : Nat) (hs : Listed T Q s) :
    Listed T Q (strikeBounce task asid va key n s) := by
  grind [strikeBounce, !strikeBy_listed]

theorem l1gDropLine_listed (g key : Nat) (hs : Listed T Q s) : Listed T Q (l1gDropLine s g key) := by
  grind [l1gDropLine, !modCluster_listed]

theorem noteTouch_listed (id : Nat) (x : Touch) (exempt committed : Bool) (hs : Listed T Q s) :
    Listed T Q (noteTouch id x exempt committed s) := by
  grind [noteTouch, !modTask_listed, Task.standing]

theorem touch_listed (a : Acc) (line : Nat) (write committed : Bool) (hs : Listed T Q s) : Listed T Q (touch s a line write committed) := by
  grind [touch, !noteTouch_listed]

theorem auditRecord_listed (t : Task) (verdict reason : Nat) (sig replay : Word) (mask : Option Nat) (hs : Listed T Q s) :
    Listed T Q (auditRecord t verdict reason sig replay mask s) :=
  logEntryAt_listed _ _ _ _ _ hs

theorem abandonAudit_listed (t : Task) (reason : Nat) (sig replay : Word) (mask : Option Nat) (hs : Listed T Q s) :
    Listed T Q (abandonAudit t reason sig replay mask s) := by
  grind [abandonAudit, !auditRecord_listed, !logBump_listed, !modTask_listed, Task.standing]

theorem noteHostWrite_listed (id : Nat) (hw : Bool) (hs : Listed T Q s) : Listed T Q (noteHostWrite id hw s) := by
  grind [noteHostWrite, !abandonAudit_listed]

theorem versionStore_listed (a : Acc) (key va : Nat) (bs : List Byte) (hs : Listed T Q s) : Listed T Q (versionStore a key va bs s) := by
  grind [versionStore, !modTask_listed, Task.standing, !foldl_listed]

theorem forgetReleases_listed (home key n : Nat) (hs : Listed T Q s) : Listed T Q (forgetReleases home key n s) := by
  grind [forgetReleases, listed_iff]

theorem agenda_listed (es : List Event) (hs : Listed T Q s) : Listed T Q { s with agenda := es } := ⟨hs.tasks, hs.posting⟩

theorem sumpPut_listed (n : Fin 8) (off : Nat) (bs : List Byte) (hs : Listed T Q s) : Listed T Q (sumpPut n off bs s) := by
  unfold sumpPut
  extract_lets st o old v push cfg
  have pushes (op : Instr) (num : Nat) {t : State} (ht : Listed T Q t) : Listed T Q (push t op num) := agenda_listed _ ht
  have sets (f : Sump → Sump) : Listed T Q (cfg f) := modStack_listed _ _ hs
  clear_value push cfg v
  grind

theorem sumpFrom_listed (n : Fin 8) (fuel off : Nat) (bs : List Byte) (hs : Listed T Q s) : Listed T Q (sumpFrom n fuel off bs s) := by
  induction fuel generalizing off bs s with
  | zero => exact hs
  | succ k ih =>
    grind [sumpFrom, !sumpPut_listed]

theorem sumpStore_listed (n : Fin 8) (off : Nat) (bs : List Byte) (hs : Listed T Q s) : Listed T Q (sumpStore n off bs s) := by
  grind [sumpStore, !sumpFrom_listed]

theorem writeLine_listed (a : Acc) (direct exempt : Bool) (va : Nat) (bs : List Byte) (hs : Listed T Q s) :
    ListedPerf T Q (writeLine a direct exempt va bs s) := by
  unfold writeLine
  split
  case h_5 t key hw e =>
    have ht := translate_eq_listed e hs
    clear e
    extract_lets plain full s1 s2 w
    have h1 : Listed T Q s1 := by grind [!noteHostWrite_listed, !touch_listed]
    have h2 : Listed T Q s2 := by grind [!forgetReleases_listed]
    have h3 : Listed T Q w := by grind [!strikeBounce_listed, !committedStore_listed, !versionStore_listed]
    clear_value plain full s1 s2 w
    split
    · exact ht
    split
    · exact ht
    split
    · exact sumpStore_listed _ _ _ ht
    split
    · exact ht
    split
    · exact ht
    split
    · split
      · exact h2
      · exact h3
    · have hx := expandFor_listed a.unit ‹Fin 8› ‹Nat› h2 h3
      split <;> rename_i expanded <;> rw [expanded] at hx
      · refine l1gDropLine_listed _ _ ?_
        split
        · exact recompute_listed _ _ hx
        · exact hx
      · exact hx
    · exact l1gDropLine_listed _ _ h3
  all_goals grind [ListedPerf, translate_eq_listed]

theorem writeLines_listed (a : Acc) (direct exempt : Bool) (fuel va : Nat) (bs : List Byte) (hs : Listed T Q s) :
    ListedPerf T Q (writeLines a direct exempt fuel va bs s) := by
  induction fuel generalizing va bs s with
  | zero => exact hs
  | succ n ih =>
    grind [writeLines, ListedPerf, !writeLine_listed (T := T) (Q := Q)]

theorem writeGlobal_listed (a : Acc) (direct exempt : Bool) (va : Nat) (bs : List Byte) (hs : Listed T Q s) :
    ListedPerf T Q (writeGlobal a direct exempt va bs s) := by
  grind [writeGlobal, ListedPerf, !writeLines_listed (T := T) (Q := Q)]

theorem sendMarked_listed (bad : Bool) (a : Acc) (dev va : Nat) (bs : List Byte) (hs : Listed T Q s) :
    Listed T Q (sendMarked bad a dev va bs s) := by
  grind [sendMarked, !modDev_listed]

theorem sendRemote_listed (a : Acc) (dev va : Nat) (bs : List Byte) (hs : Listed T Q s) : Listed T Q (sendRemote a dev va bs s) := by
  grind [sendRemote, !sendMarked_listed]

theorem physLine_listed (unit : Waiter) (pa : Nat) (bs : List Byte) (hs : Listed T Q s) :
    ListedExcept T Q (physLine unit pa bs s) := by
  unfold physLine
  split
  · exact ListedExcept_map (expandFor_listed unit _ _ hs (committedStore_listed pa bs (strikeAt_listed pa bs.length hs)))
      fun t ht => recompute_listed _ _ ht
  · exact committedStore_listed _ _ (strikeAt_listed _ _ hs)
  · exact sumpStore_listed _ _ _ hs
  · exact hs

theorem physWrite_listed (unit : Waiter) (fuel pa : Nat) (bs : List Byte) (hs : Listed T Q s) :
    ListedExcept T Q (physWrite unit fuel pa bs s) := by
  induction fuel generalizing pa bs s with
  | zero => exact hs
  | succ n ih =>
    grind [physWrite, ListedExcept, !physLine_listed (T := T) (Q := Q)]

theorem physPut_listed (unit : Waiter) (pa : Nat) (bs : List Byte) (hs : Listed T Q s) : ListedExcept T Q (physPut unit pa bs s) := by
  grind [physPut, ListedExcept, !physWrite_listed (T := T) (Q := Q)]

theorem deviceTry_listed (w : Owed) (hs : Listed T Q s) : ListedPerf T Q (deviceTry w s) := by
  grind [deviceTry, ListedPerf, ListedExcept, !physPut_listed (T := T) (Q := Q), !writeGlobal_listed (T := T) (Q := Q)]

theorem joinQueue_listed (w : Owed) (hs : Listed T Q s) : Listed T Q (joinQueue w s) := by
  grind [joinQueue, !kickSump_listed, !modStack_listed]

theorem deviceWrite_listed (use : OwedFor) (who : CtxId) (direct : Bool) (pt : Word) (asid : BitVec 16) (va : Nat) (bs : List Byte)
    (hs : Listed T Q s) : Listed T Q (deviceWrite use who direct pt asid va bs s) := by
  grind [deviceWrite, ListedPerf, !modDev_listed, !bump_listed, !joinQueue_listed, !deviceTry_listed (T := T) (Q := Q), !sendRemote_listed]

end Listings

end Sys2Proof.Machine

namespace Sys2Proof.Machine

/-! ### Operations that also post records -/

section Listings
variable {s : State} {T : List Standing}

theorem setCtx_listed (c : CtxId) (x : Ctx) (hs : Listed T none s) : Listed T none (setCtx s c x) := by
  grind [setCtx, listed_iff]

theorem modCtx_listed (c : CtxId) (f : Ctx → Ctx) (hs : Listed T none s) : Listed T none (modCtx s c f) := by
  grind [modCtx, !setCtx_listed]

theorem setCore_listed (k : Nat) (x : Core) (hs : Listed T none s) : Listed T none (setCore s k x) := by
  grind [setCore, listed_iff]

theorem modCore_listed (k : Nat) (f : Core → Core) (hs : Listed T none s) : Listed T none (modCore s k f) := by
  grind [modCore, !setCore_listed]

theorem postRecord_listed (g : Nat) (r : Record) (hs : Listed T none s) : Listed T none (postRecord s g r) := by
  grind [postRecord, !modCluster_unqueued]

theorem postCtx_listed (c : CtxId) (lo : Word) (kind : Nat) (b14 b15 : BitVec 8) (hs : Listed T none s) :
    Listed T none (postCtx s c lo kind b14 b15) := by
  grind [postCtx, !modTask_listed, Task.standing, !postRecord_listed]

theorem addLate_listed (c : CtxId) (f : LateFault) (hs : Listed T none s) : Listed T none (addLate s c f) := by
  grind [addLate, !modCtx_listed]

theorem platWrite_listed (off n x : Nat) (hs : Listed T none s) : Listed T none (platWrite s off n x) := by
  grind [platWrite, !poke_listed]

theorem raiseIrq_listed (i : Fin 5) (hs : Listed T none s) : Listed T none (raiseIrq s i) := by
  grind [raiseIrq, !modDev_listed]

theorem logEntry_listed (ty k : Nat) (c : Option CtxId) (task : Nat) (body : List Byte) (hs : Listed T none s) :
    Listed T none (logEntry ty k c task body s) := by
  grind [logEntry, !logEntryAt_listed]

theorem hostSend_listed (h : Fin 4) (msg : List Byte) (hs : Listed T none s) : Listed T none (hostSend h msg s) := by
  grind [hostSend, !committedStore_listed, !platWrite_listed]

theorem hostSendAll_listed (msg : List Byte) (hs : Listed T none s) : Listed T none (hostSendAll msg s) := by
  grind [hostSendAll, !hostSend_listed, !foldl_listed]

theorem showTotal_listed (n : Fin 16) (hs : Listed T none s) : Listed T none (showTotal n s) := by
  grind [showTotal, !poke_listed]

theorem crossing_listed (n : Fin 16) (c : Option CtxId) (work : Option Word) (hs : Listed T none s) : Listed T none (crossing n c work s) := by
  unfold crossing
  extract_lets th act task body rec' t
  have ht : Listed T none t := showTotal_listed _ (logRecord_listed _ _ hs)
  clear_value t act rec'
  split <;> grind [!raiseIrq_listed, !hostSendAll_listed, !postCtx_listed, !addLate_listed]

theorem countEvent_listed (c : Option CtxId) (work : Option Word) (n : Fin 16) (hs : Listed T none s) : Listed T none (countEvent c work n s) := by
  grind [countEvent, listed_iff, !showTotal_listed, !crossing_listed, !modDev_listed]

theorem countEvents_listed (c : Option CtxId) (ns : List Nat) (hs : Listed T none s) : Listed T none (countEvents c ns s) := by
  grind [countEvents, !countEvent_listed, !foldl_listed]

theorem countWork_listed (c : CtxId) (bundle : Word) (ns : List Nat) (hs : Listed T none s) : Listed T none (countWork c bundle ns s) := by
  grind [countWork, !countEvent_listed, !foldl_listed]

theorem poisonRecord_listed (c : CtxId) (bundle : Word) (addr level cause : Nat) (hs : Listed T none s) :
    Listed T none (poisonRecord c bundle addr level cause s) := by
  grind [poisonRecord, !logEntry_listed, !countWork_listed]

theorem dropWaiters_listed (unit : Waiter) (hs : Listed T none s) : Listed T none (dropWaiters unit s) := by
  grind [dropWaiters, !dropWaiter_listed, !foldl_listed]

theorem recomputeKey_listed (key : Nat) (hs : Listed T none s) : Listed T none (recomputeKey s key) := by
  grind [recomputeKey, !recompute_listed]

theorem l1gDropAll_listed (g : Nat) (hs : Listed T none s) : Listed T none (l1gDropAll s g) := by
  grind [l1gDropAll, !modCluster_unqueued]

theorem l1gKeep_listed (c : CtxId) (key : Nat) (hs : Listed T none s) : Listed T none (l1gKeep s c key) := by
  unfold l1gKeep
  split
  · exact hs
  · split <;> first | exact hs | (split <;> first | exact hs | exact modCluster_unqueued _ _ hs)

theorem report_listed (c : CtxId) (code : BitVec 8) (va : Nat) (bundle : Word) (hs : Listed T none s) : Listed T none (report c code va bundle s) := by
  grind [report, !modCtx_listed, !postCtx_listed]

theorem postTask_listed (g : Nat) (t : Task) (kind : Nat) (b14 : BitVec 8) (hs : Listed T none s) : Listed T none (postTask s g t kind b14) := by
  grind [postTask, !postRecord_listed]

theorem dropVersion_listed (id : Nat) (hs : Listed T none s) : Listed T none (dropVersion id s) := by
  grind [dropVersion, listed_iff, !modTask_listed (T := T) (Q := none), Task.standing, !mapBounce_listed (T := T) (Q := none),
    !recomputeKey_listed (T := T), !foldl_listed (T := T) (Q := none)]

theorem taskFault_listed (id : Nat) (code : BitVec 8) (hs : Listed T none s) : Listed T none (taskFault id code s) := by
  grind [taskFault, !modCtx_listed (T := T), !modTask_listed (T := T) (Q := none), Task.standing, !dropVersion_listed (T := T),
    !postTask_listed (T := T), !foldl_listed (T := T) (Q := none)]

theorem raceRecord_listed (a : Acc) (va u : Nat) (x : Touch) (hs : Listed T none s) : Listed T none (raceRecord a va u x s) := by
  grind [raceRecord, !logEntry_listed]

theorem raceAt_listed (a : Acc) (va u : Nat) (x : Touch) (hs : Listed T none s) : Listed T none (raceAt a va u x s) := by
  grind [raceAt, !taskFault_listed, !raceRecord_listed, !modCtx_listed]

theorem retain_listed (id line : Nat) (content : State → List Byte) (hs : Listed T none s) : Listed T none (retain id line content s) := by
  grind [retain, !abandonAudit_listed, !modTask_listed, Task.standing]

theorem readPage_listed (a : Acc) (home exempt : Bool) (va n : Nat) (hs : Listed T none s) : ListedPerf T none (readPage a home exempt va n s) := by
  grind [readPage, ListedPerf, !translate_listed (T := T) (Q := none), !poisonRecord_listed (T := T), !noteTouch_listed (T := T) (Q := none),
    !retain_listed (T := T), !l1gKeep_listed (T := T)]

theorem readLines_listed (a : Acc) (home exempt : Bool) (fuel va n : Nat) (hs : Listed T none s) :
    ListedPerf T none (readLines a home exempt fuel va n s) := by
  induction fuel generalizing va n s with
  | zero => exact hs
  | succ k ih =>
    grind [readLines, ListedPerf, !readPage_listed (T := T)]

theorem readMarked_listed (a : Acc) (home exempt : Bool) (va n : Nat) (hs : Listed T none s) :
    ListedPerf T none (readMarked a home exempt va n s) := by
  grind [readMarked, ListedPerf, !readLines_listed (T := T)]

theorem readGlobal_listed (a : Acc) (home exempt : Bool) (va n : Nat) (hs : Listed T none s) :
    ListedPerf T none (readGlobal a home exempt va n s) := by
  grind [readGlobal, ListedPerf, !readMarked_listed (T := T)]

theorem homeRmw_listed (a : Acc) (k : Kind) (va w : Nat) (f : Nat → Option Nat) (hs : Listed T none s) : ListedPerf T none (homeRmw a k va w f s) := by
  unfold homeRmw
  split
  case h_5 t key _ e =>
    have ht := translate_eq_listed e hs
    clear e
    split
    · exact ht
    split
    · exact ht
    split
    · exact ht
    extract_lets u v
    have hu : Listed T none u := by grind [!translate_listed (T := T) (Q := none)]
    have hv : Listed T none v := committedStore_listed _ _ (strikeBounce_listed _ _ _ _ _ hu)
    clear_value u v
    grind [ListedPerf, ListedExcept, !sumpStore_listed, !expandFor_listed (T := T) (Q := none), !l1gDropLine_listed, !recompute_listed]
  all_goals exact translate_eq_listed ‹_› hs

theorem poisonPiece_listed (a : Acc) (va : Nat) (hs : Listed T none s) : Listed T none (poisonPiece a va s) := by
  grind [poisonPiece, listed_iff, !translate_listed (T := T) (Q := none), !modTask_listed, Task.standing]

theorem markDirty_listed (c : CtxId) (p : Nat × Nat) (hs : Listed T none s) : Listed T none (markDirty c p s) := by
  grind [markDirty, !modCtx_listed]

theorem spmWrite_listed (key : Nat) (bs : List Byte) (hs : Listed T none s) : Listed T none (spmWrite key bs s) := by
  grind [spmWrite, listed_iff]

theorem markSpm_listed (gs : List Nat) (hs : Listed T none s) : Listed T none (markSpm gs s) := by
  grind [markSpm, listed_iff, !foldl_listed]

theorem fillLanding_listed (c : CtxId) (id : Nat) (val : RegVal) (hs : Listed T none s) : Listed T none (fillLanding c id val s) := by
  grind [fillLanding, !modCtx_listed]

theorem spoilLanding_listed (c : CtxId) (id : Nat) (hs : Listed T none s) : Listed T none (spoilLanding c id s) := by
  grind [spoilLanding, !modCtx_listed]

theorem lateAccess_listed (c : CtxId) (code : BitVec 8) (va : Nat) (bundle : Word) (hs : Listed T none s) :
    Listed T none (lateAccess c code va bundle s) := by
  grind [lateAccess, !addLate_listed]

theorem failAt_listed (c : CtxId) (code : BitVec 8) (va : Nat) (bundle : Word) (hs : Listed T none s) : Listed T none (failAt c code va bundle s) := by
  grind [failAt, !postCtx_listed, !lateAccess_listed]

theorem putReleases_listed (c : CtxId) (ks : Tbl (List (Nat × Nat))) (home key n : Nat) (hs : Listed T none s) :
    Listed T none (putReleases c ks home key n s) := by
  grind [putReleases, listed_iff, !foldl_listed]

theorem acquireFrom_listed (c : CtxId) (scope : Nat) (rs : List Release) (hs : Listed T none s) : Listed T none (acquireFrom c scope rs s) := by
  grind [acquireFrom, !modCtx_listed]

theorem acquireWord_listed (c : CtxId) (scope key n : Nat) (hs : Listed T none s) : Listed T none (acquireWord c scope key n s) := by
  grind [acquireWord, !acquireFrom_listed]

theorem noteReleases_listed (c : CtxId) (rs : List Release) (hs : Listed T none s) : Listed T none (noteReleases c rs s) := by
  grind [noteReleases, !modCtx_listed, !foldl_listed]

theorem noteRead_listed (c : CtxId) (key n : Nat) (hs : Listed T none s) : Listed T none (noteRead c key n s) := by
  grind [noteRead, !noteReleases_listed]

theorem spoilCopies_listed (clu : Nat) (parts : CopyOp → List (Nat × Nat)) (writer : Option Nat) (hs : Listed T none s) :
    Listed T none (spoilCopies clu parts writer s) := by
  grind [spoilCopies, !setCluster_unqueued]

theorem meetGlobal_listed (a : Acc) (va n : Nat) (writer : Option Nat) (hs : Listed T none s) : Listed T none (meetGlobal a va n writer s) := by
  grind [meetGlobal, !spoilCopies_listed, !foldl_listed]

theorem storePieces_listed (c : CtxId) (ps : List (Nat × List Byte)) (ks : Tbl (List (Nat × Nat))) (hs : Listed T none s) :
    Listed T none (storePieces c ps ks s) := by
  grind [storePieces, listed_iff, !putReleases_listed (T := T), !forgetReleases_listed (T := T) (Q := none), !markDirty_listed (T := T),
    !foldl_listed (T := T) (Q := none)]

theorem performStore_listed (a : Acc) (ps : List (Nat × List Byte)) (rel : Option Nat) (hs : Listed T none s) :
    Listed T none (performStore a ps rel s) := by
  grind [performStore, !storePieces_listed]

theorem readSpans_listed (a : Acc) (sync : Bool) (l : List (Nat × Nat)) (hs : Listed T none s) : ListedPerf T none (readSpans a sync l s) := by
  induction l generalizing s with
  | nil => exact hs
  | cons x l ih =>
    grind [readSpans, ListedPerf, !readGlobal_listed (T := T)]

theorem noteReader_listed (a : Acc) (sync : Bool) (va : Nat) (es : List LogEntry) (hs : Listed T none s) :
    Listed T none (noteReader a sync va es s) := by
  grind [noteReader, !modCore_listed]

theorem readForwarded_listed (a : Acc) (sync : Bool) (va n : Nat) (hs : Listed T none s) : ListedPerf T none (readForwarded a sync va n s) := by
  grind [readForwarded, ListedPerf, !readGlobal_listed (T := T), !readSpans_listed (T := T), !noteReader_listed, !foldl_listed]

theorem readElems_listed (a : Acc) (sync : Bool) (n : Nat) (l : List Nat) (hs : Listed T none s) : ListedPerf T none (readElems a sync n l s) := by
  induction l generalizing s with
  | nil => exact hs
  | cons x l ih =>
    grind [readElems, ListedPerf, !readForwarded_listed (T := T)]

theorem readRemote_listed (a : Acc) (sync : Bool) (l : List Nat) (hs : Listed T none s) : ListedPerf T none (readRemote a sync l s) := by
  induction l generalizing s with
  | nil => exact hs
  | cons va vas ih =>
    have h := readForwarded_listed a sync va 1 hs
    unfold readRemote
    extract_lets here
    have hh : ListedPerf T none here := by grind [ListedPerf]
    clear_value here
    grind [ListedPerf]

theorem readLoad_listed (a : Acc) (sync : Bool) (n : Nat) (vas : List Nat) (hs : Listed T none s) : ListedPerf T none (readLoad a sync n vas s) := by
  grind [readLoad, ListedPerf, !readElems_listed (T := T), !readRemote_listed (T := T)]

theorem enterLog_listed (core : Nat) (e : LogEntry) (hs : Listed T none s) : Listed T none (enterLog core e s) := by
  grind [enterLog, !modCore_listed]

theorem logStore_listed (a : Acc) (va : Nat) (bs : List Byte) (exempt : Bool) (rel : Option (Nat × List (Nat × Nat)))
    (waits : Option (BitVec 8)) (hs : Listed T none s) : Listed T none (logStore a va bs exempt rel waits s) := by
  grind [logStore, !enterLog_listed, !foldl_listed]

theorem addWait_listed (core : Nat) (w : Wait) (hs : Listed T none s) : Listed T none (addWait core w s) := by
  grind [addWait, !modCore_listed]

theorem hold_listed (fill : Bool) (a : Acc) (code : BitVec 8) (va : Nat) (hs : Listed T none s) : Listed T none (hold fill a code va s) := by
  grind [hold, !report_listed, !modCore_listed]

theorem holdSectors_listed (fill : Bool) (a : Acc) (va : Nat) (hs : Listed T none s) : Listed T none (holdSectors fill a va s) := by
  grind [holdSectors, !modCore_listed]

theorem storeOrder_listed (a : Acc) (va n : Nat) (rel : Option (Nat × List (Nat × Nat))) (hs : Listed T none s) :
    Listed T none (storeOrder a va n rel s) := by
  grind [storeOrder, !putReleases_listed, !forgetReleases_listed]

theorem unitPart_listed (a : Acc) (va : Nat) (bs : List Byte) (exempt : Bool) (rel : Option (Nat × List (Nat × Nat))) (hs : Listed T none s) :
    ListedPerf T none (unitPart a va bs exempt rel s) := by
  grind [unitPart, ListedPerf, !writeGlobal_listed (T := T) (Q := none), !storeOrder_listed, !report_listed, !logStore_listed, !failAt_listed,
    !sendRemote_listed]

theorem unitParts_listed (a : Acc) (exempt : Bool) (rel : Option (Nat × List (Nat × Nat))) (l : List (Nat × List Byte)) (logged : Bool)
    (hs : Listed T none s) : ListedPerf T none (unitParts a exempt rel l logged s) := by
  induction l generalizing logged s with
  | nil => grind [unitParts, ListedPerf, !countWork_listed]
  | cons e l ih => grind [unitParts, ListedPerf, !unitPart_listed (T := T)]

theorem unitStore_listed (a : Acc) (va : Nat) (bs : List Byte) (exempt : Bool) (rel : Option (Nat × List (Nat × Nat))) (hs : Listed T none s) :
    ListedOption T none (unitStore a va bs exempt rel s) := by
  grind [unitStore, ListedPerf, ListedOption, !unitParts_listed (T := T)]

theorem loadOrder_listed (a : Acc) (acq : Option Nat) (n : Nat) (vas : List Nat) (hs : Listed T none s) : Listed T none (loadOrder a acq n vas s) := by
  cases acq with
  | some scope =>
    have h := foldl_listed (fun t va h => acquireFrom_listed a.who scope (loadedReleases a va n t) h) vas hs
    grind [loadOrder, !l1gDropAll_listed]
  | none =>
    have h := foldl_listed (fun t va h => noteReleases_listed a.who (loadedReleases a va n t) h) vas hs
    grind [loadOrder]

theorem imageFault_listed (c : CtxId) (sh : LoadShape) (bs : List Byte) (addr issued : Nat) (hs : Listed T none s) :
    Listed T none (imageFault c sh bs addr issued s) := by
  grind [imageFault, !addLate_listed]

theorem localOrder_listed (c : CtxId) (acq : Option Nat) (n : Nat) (keys : List Nat) (hs : Listed T none s) :
    Listed T none (localOrder c acq n keys s) := by
  grind [localOrder, !acquireWord_listed, !noteRead_listed, !foldl_listed]

theorem performLocal_listed (c : CtxId) (id : Nat) (d : RegName) (sh : LoadShape) (keys : List Nat) (acq : Option Nat) (bundle : Word)
    (hs : Listed T none s) : Listed T none (performLocal c id d sh keys acq bundle s) := by
  grind [performLocal, !localOrder_listed, !failAt_listed, !spoilLanding_listed, !fillLanding_listed]

theorem acquireAt_listed (c : CtxId) (scope : Nat) (hs : Listed T none s) : Listed T none (acquireAt c scope s) := by
  grind [acquireAt, !l1gDropAll_listed]

theorem atomEvents_listed (a : Acc) (r : Coded) (hs : Listed T none s) : Listed T none (atomEvents a r s) := by
  grind [atomEvents, !countWork_listed]

theorem atomOrder_listed (a : Acc) (key w oc : Nat) (wrote : Bool) (hs : Listed T none s) : Listed T none (atomOrder a key w oc wrote s) := by
  grind [atomOrder, !noteRead_listed, !putReleases_listed, !acquireAt_listed, !acquireWord_listed, !modCtx_listed]

theorem performAtomLocal_listed (a : Acc) (id : Nat) (fn : AtomFn) (w key : Nat) (v : Word) (oc : Nat) (hs : Listed T none s) :
    Listed T none (performAtomLocal a id fn w key v oc s) := by
  grind [performAtomLocal, listed_iff, !failAt_listed (T := T), !spoilLanding_listed (T := T), !fillLanding_listed (T := T),
    !atomOrder_listed (T := T),
    !markDirty_listed (T := T), !atomEvents_listed (T := T), !foldl_listed (T := T) (Q := none)]

theorem performAtomGlobal_listed (a : Acc) (fn : AtomFn) (w va : Nat) (v : Word) (oc : Nat) (hs : Listed T none s) :
    ListedPerf T none (performAtomGlobal a fn w va v oc s) := by
  grind [performAtomGlobal, ListedPerf, !homeRmw_listed (T := T), !atomOrder_listed, !atomEvents_listed]

theorem unitReduce_listed (a : Acc) (fn : AtomFn) (w va : Nat) (v : Word) (oc : Nat) (hs : Listed T none s) :
    ListedOption T none (unitReduce a fn w va v oc s) := by
  grind [unitReduce, ListedPerf, ListedOption, !countWork_listed (T := T), !enterLog_listed (T := T), !acquireAt_listed (T := T),
    !modCtx_listed (T := T),
    !performAtomGlobal_listed (T := T), !report_listed (T := T), !failAt_listed (T := T), !sendRemote_listed (T := T) (Q := none)]

theorem writeRuns_listed (bad : List Nat) (a : Acc) (exempt : Bool) (rel : Option (Nat × List (Nat × Nat))) (l : List (Nat × List Byte))
    (hs : Listed T none s) : ListedPerf T none (writeRuns bad a exempt rel l s) := by
  induction l generalizing s with
  | nil => exact hs
  | cons x l ih =>
    grind [writeRuns, ListedPerf, !writeGlobal_listed (T := T) (Q := none), !storeOrder_listed, !sendMarked_listed]

theorem performEntry_listed (core : Nat) (e : LogEntry) (hs : Listed T none s) : ListedPerf T none (performEntry core e s) := by
  grind [performEntry, ListedPerf, !writeRuns_listed (T := T), !poisonPiece_listed, !performAtomGlobal_listed (T := T), !sendMarked_listed,
    !foldl_listed]

theorem dropHead_listed (core : Nat) (hs : Listed T none s) : Listed T none (dropHead core s) := by
  grind [dropHead, !modCore_listed]

theorem noteReaders_listed (core : Nat) (e : LogEntry) (hs : Listed T none s) : Listed T none (noteReaders core e s) := by
  grind [noteReaders, !translate_listed (T := T) (Q := none), !noteTouch_listed, !foldl_listed]

theorem replayHead_listed (core : Nat) (hs : Listed T none s) : Listed T none (replayHead core s) := by
  grind [replayHead, ListedPerf, !dropHead_listed, !noteReaders_listed, !performEntry_listed (T := T), !failAt_listed, !raceAt_listed,
    !taskFault_listed, !report_listed, !modCore_listed]

theorem beginBack_listed (c : CtxId) (rg g : Nat) (hs : Listed T none s) : Listed T none (beginBack c rg g s) := by
  grind [beginBack, !modCore_listed, !bump_listed, !modCtx_listed]

theorem logBack_listed (core g : Nat) (e : LogEntry) (hs : Listed T none s) : Listed T none (logBack core g e s) := by
  grind [logBack, !enterLog_listed, !countWork_listed, !modCore_listed]

theorem feedBack_listed (core : Nat) (upto : Option Nat) (fuel : Nat) (hs : Listed T none s) : Listed T none (feedBack core upto fuel s) := by
  induction fuel generalizing s with
  | zero => exact hs
  | succ n ih =>
    grind [feedBack, ListedPerf, !modCore_listed (T := T), !performEntry_listed (T := T), !failAt_listed (T := T), !raceAt_listed (T := T),
      !taskFault_listed (T := T),
    !logBack_listed (T := T), !report_listed (T := T)]

theorem feed_listed (core : Nat) (hs : Listed T none s) : Listed T none (feed core s) := by
  grind [feed, !feedBack_listed]

theorem failWait_listed (w : Wait) (code : BitVec 8) (va : Nat) (hs : Listed T none s) : Listed T none (failWait w code va s) := by
  grind [failWait, !failAt_listed]

theorem pumpLocal_listed (w : Wait) (hs : Listed T none s) : Listed T none (pumpLocal w s) := by
  grind [pumpLocal, !imageFault_listed, !performLocal_listed, !performStore_listed, !performAtomLocal_listed]

theorem loadRead_listed (w : Wait) (d : RegName) (sh : LoadShape) (vas : List Nat) (acq : Option Nat) (r : Perf (List Byte × Option Nat))
    (hr : ListedPerf T none r) : ListedPumped T none (loadRead w d sh vas acq r) := by
  unfold loadRead
  split <;> simp only [ListedPerf] at hr <;>
  grind [ListedPumped, !fillLanding_listed, !loadOrder_listed, !hold_listed, !holdSectors_listed, !failWait_listed,
      !spoilLanding_listed, !raceAt_listed, !taskFault_listed]

theorem pumpGlobal_listed (w : Wait) (hs : Listed T none s) : ListedPumped T none (pumpGlobal w s) := by
  unfold pumpGlobal
  extract_lets a spoiled raced
  have hsp : ∀ t c v, Listed T none t → Listed T none (spoiled t c v) := fun t c v h => failWait_listed _ _ _ (spoilLanding_listed _ _ h)
  have hra : ∀ t v u x, Listed T none t → Listed T none (raced t v u x) := fun t v u x h => raceAt_listed _ _ _ _ (spoilLanding_listed _ _ h)
  clear_value a spoiled raced
  split
  · grind [ListedPumped, !loadRead_listed (T := T), !readLoad_listed (T := T)]
  · have := fun va bs exempt rel => unitStore_listed a va bs exempt rel hs
    grind [ListedPumped, ListedOption, ListedPerf, !unitStore_listed (T := T), !taskFault_listed]
  · grind [ListedPumped, ListedOption, ListedPerf, !unitReduce_listed (T := T), !taskFault_listed, !performAtomGlobal_listed (T := T),
      !fillLanding_listed, !hold_listed, !holdSectors_listed]
  · exact hs

theorem pumpList_listed (core : Nat) (l : List Wait) (blocked : Bool) (hs : Listed T none s) : Listed T none (pumpList core l blocked s) := by
  induction l generalizing blocked s with
  | nil => exact hs
  | cons x l ih =>
    grind [pumpList, ListedPumped, !addWait_listed, !pumpLocal_listed, !feedBack_listed, !pumpGlobal_listed (T := T)]

theorem backRegion_listed (c : CtxId) (rg : Nat) (hs : Listed T none s) : Listed T none (backRegion c rg s) := by
  grind [backRegion, !beginBack_listed, !foldl_listed]

theorem leaveRegions_listed (drop : Bool) (c : CtxId) (hs : Listed T none s) : Listed T none (leaveRegions drop c s) := by
  grind [leaveRegions, !backRegion_listed, !feed_listed, !modCtx_listed, !foldl_listed]

theorem leaveSaving_listed (core : Nat) (hs : Listed T none s) : Listed T none (leaveSaving core s) := by
  grind [leaveSaving, !leaveRegions_listed, !foldl_listed]

theorem pump_listed (core : Nat) (hs : Listed T none s) : Listed T none (pump core s) := by
  grind [pump, !modCore_listed, !leaveSaving_listed, !feed_listed, !pumpList_listed]

theorem putMarked_listed (key : Nat) (bs : List (Byte × Bool)) (hs : Listed T none s) : Listed T none (putMarked key bs s) := by
  grind [putMarked, !spmWrite_listed, !markSpm_listed]

theorem dropWaiting_listed (core : Nat) (c : CtxId) (g : Nat) (hs : Listed T none s) : Listed T none (dropWaiting core c g s) := by
  grind [dropWaiting, !modCore_listed, !spoilLanding_listed, !foldl_listed]

theorem fillGranule_listed (core : Nat) (hs : Listed T none s) : Listed T none (fillGranule core s) := by
  grind [fillGranule, ListedPerf, !pump_listed (T := T), !modCtx_listed (T := T), !putMarked_listed (T := T), !failWait_listed (T := T),
    !dropWaiting_listed (T := T),
    !readMarked_listed (T := T), !hold_listed (T := T), !holdSectors_listed (T := T), !raceAt_listed (T := T), !taskFault_listed (T := T),
    !poisonRecord_listed (T := T)]

theorem releaseUnit_listed (core : Nat) (hs : Listed T none s) : Listed T none (releaseUnit core s) := by
  grind [releaseUnit, !modCore_listed, !fillGranule_listed, !pump_listed]

theorem setChan_listed (n : Nat) (c : Chan) (hs : Listed T none s) : Listed T none (setChan s n c) := by
  grind [setChan, listed_iff]

theorem failClaim_listed (code : BitVec 8) (q : Claim) (hs : Listed T none s) : Listed T none (failClaim code q s) := by
  grind [failClaim, !spoilLanding_listed, !postCtx_listed, !addLate_listed]

theorem closeChan_listed (n : Nat) (inbound : Bool) (hs : Listed T none s) : Listed T none (closeChan n inbound s) := by
  grind [closeChan, !failClaim_listed, !setChan_listed, !foldl_listed]

theorem closeAll_listed (c : CtxId) (hs : Listed T none s) : Listed T none (closeAll c s) := by
  grind [closeAll, !closeChan_listed, !modCtx_listed, !foldl_listed]

theorem noteClock_listed (key : Nat) (who : CtxId) (k : List (Nat × Nat)) (hs : Listed T none s) : Listed T none (noteClock key who k s) := by
  grind [noteClock, listed_iff]

theorem leaveBarriers_listed (c : CtxId) (hs : Listed T none s) : Listed T none (leaveBarriers c s) := by
  grind [leaveBarriers, !modTask_listed, Task.standing]

theorem engineFault_listed (c : CtxId) (cause : BitVec 8) (bundle : Word) (hs : Listed T none s) : Listed T none (engineFault c cause bundle s) := by
  grind [engineFault, !postCtx_listed, !addLate_listed]

theorem clearTok_listed (c : CtxId) (tok : Option KR) (id : Nat) (clock : List (Nat × Nat)) (hs : Listed T none s) :
    Listed T none (clearTok c tok id clock s) := by
  unfold clearTok
  split
  · exact hs
  · split
    · exact modCtx_listed _ _ (noteClock_listed _ _ _ hs)
    · exact hs

theorem endOp_listed (c : CtxId) (id : Nat) (err : Option (BitVec 8)) (clock : List (Nat × Nat)) (hs : Listed T none s) :
    Listed T none (endOp c id err clock s) := by
  grind [endOp, !modCore_listed, !modCluster_unqueued]

theorem modCopy_listed (clu id : Nat) (f : CopyOp → CopyOp) (hs : Listed T none s) : Listed T none (modCopy clu id f s) := by
  grind [modCopy, !modCluster_unqueued]

theorem postEngine_listed (o : CopyOp) (va : Nat) (code : BitVec 8) (hs : Listed T none s) : Listed T none (postEngine o va code s) := by
  grind [postEngine, !postRecord_listed]

theorem leaveTile_listed (o : CopyOp) (hs : Listed T none s) : Listed T none (leaveTile o s) := by
  grind [leaveTile, !modCore_listed]

theorem undoCopy_listed (o : CopyOp) (hs : Listed T none s) : Listed T none (undoCopy o s) := by
  grind [undoCopy, listed_iff, !modTask_listed, Task.standing, !recomputeKey_listed, !foldl_listed]

theorem arrival_listed (o : CopyOp) (va : Nat) (hs : Listed T none s) : ListedArrived T none (arrival o va s) := by
  grind [arrival, ListedPerf, ListedArrived, !homeRmw_listed (T := T), !meetGlobal_listed, !noteHostWrite_listed,
    !translate_listed (T := T) (Q := none), !sendRemote_listed]

theorem finishCopy_listed (clu : Nat) (o : CopyOp) (arrivedAt : Option Nat) (report : Option (BitVec 8)) (hs : Listed T none s) :
    Listed T none (finishCopy clu o arrivedAt report s) := by
  grind [finishCopy, !report_listed (T := T), !postRecord_listed (T := T), !leaveTile_listed (T := T), !modCtx_listed (T := T),
    !modCluster_unqueued (T := T),
    !dropWaiters_listed (T := T), !endOp_listed (T := T), !clearTok_listed (T := T), !engineFault_listed (T := T)]

theorem arriveCopy_listed (clu : Nat) (o : CopyOp) (va : Nat) (hs : Listed T none s) : Listed T none (arriveCopy clu o va s) := by
  grind [arriveCopy, ListedArrived, !arrival_listed (T := T), !finishCopy_listed, !noteClock_listed, !modCopy_listed, !postEngine_listed]

theorem dropBounced_listed (o : CopyOp) (hs : Listed T none s) : Listed T none (dropBounced o s) := by
  grind [dropBounced, !undoCopy_listed, !mapBounce_listed, !foldl_listed]

theorem declineCopy_listed (clu : Nat) (o : CopyOp) (hs : Listed T none s) : Listed T none (declineCopy clu o s) := by
  grind [declineCopy, !modCopy_listed, !finishCopy_listed, !dropBounced_listed]

theorem failOp_listed (c : CtxId) (id : Nat) (quiet : Bool) (code : BitVec 8) (hs : Listed T none s) : Listed T none (failOp c id quiet code s) := by
  grind [failOp, !dropBounced_listed, !modCopy_listed]

theorem dropEntry_listed (n : Fin 8) (e : Bounce) (hs : Listed T none s) : Listed T none (dropEntry n e s) := by
  grind [dropEntry, !mapBounce_listed]

theorem putEntry_listed (a : Acc) (plain : Bool) (block : Nat) (e : Bounce) (hs : Listed T none s) : Listed T none (putEntry a plain block e s) := by
  grind [putEntry, listed_iff, !committedStore_listed (T := T) (Q := none), !versionStore_listed (T := T) (Q := none),
    !modTask_listed (T := T) (Q := none), Task.standing, !foldl_listed (T := T) (Q := none)]

theorem forgetBlock_listed (block : Nat) (hs : Listed T none s) : Listed T none (forgetBlock block s) := by
  grind [forgetBlock, listed_iff]

theorem touchEntry_listed (a : Acc) (block : Nat) (e : Bounce) (hs : Listed T none s) : Listed T none (touchEntry a block e s) := by
  grind [touchEntry, !touch_listed, !foldl_listed]

theorem applyEntry_listed (n : Fin 8) (e : Bounce) (hs : Listed T none s) : Listed T none (applyEntry n e s) := by
  have h := translate_listed (bounceAcc s n e) .write e.va hs
  unfold applyEntry
  extract_lets a
  split <;> rename_i eq <;> rw [eq] at h
  · extract_lets block plain full u w
    have hu : Listed T none u := by grind [!touchEntry_listed]
    have hw : Listed T none w := forgetBlock_listed _ (putEntry_listed _ _ _ _ hu)
    clear_value full u w
    split
    · exact taskFault_listed _ _ (raceRecord_listed _ _ _ _ (failOp_listed _ _ _ _ (dropEntry_listed _ _ h)))
    split
    · exact taskFault_listed _ _ (failOp_listed _ _ _ _ (dropEntry_listed _ _ h))
    split
    · have hx := expandFor_listed a.unit ‹Fin 8› ‹Nat› hu hw
      grind [ListedExcept, !recompute_listed, !dropEntry_listed, !mapBounce_listed, !setDir_listed]
    · refine dropEntry_listed _ _ ?_
      split
      · exact foldl_listed (fun _ r h => sendMarked_listed _ _ _ _ _ h) _ hu
      · exact hw
    · exact dropEntry_listed _ _ hw
  · exact failOp_listed _ _ _ _ (dropEntry_listed _ _ h)
  · exact failOp_listed _ _ _ _ (dropEntry_listed _ _ h)
  · exact h

theorem tryOwed_listed (f : Owed → Bool) (l kept made : List Owed) (hs : Listed T none s) : Listed T none (tryOwed f l kept made s) := by
  induction l generalizing kept made s with
  | nil => exact modDev_listed _ hs
  | cons e l ih => grind [tryOwed, ListedPerf, !deviceTry_listed (T := T) (Q := none), !sendRemote_listed]

theorem retryOwed_listed (f : Owed → Bool) (hs : Listed T none s) : Listed T none (retryOwed f s) := by
  grind [retryOwed, !tryOwed_listed]

theorem retryArrival_listed (g : Nat) (o : CopyOp) (hs : Listed T none s) : Listed T none (retryArrival g o s) := by
  grind [retryArrival, !arriveCopy_listed, !modCopy_listed]

theorem retryUnit_listed (u : Waiter) (hs : Listed T none s) : Listed T none (retryUnit u s) := by
  cases u <;> grind [retryUnit, !replayHead_listed, !releaseUnit_listed, !applyEntry_listed, !retryArrival_listed, !retryOwed_listed]

theorem serve_listed (n : Fin 8) (fuel : Nat) (hs : Listed T none s) : Listed T none (serve n fuel s) := by
  induction fuel generalizing s with
  | zero => exact hs
  | succ k ih =>
    grind [serve, !retryUnit_listed, !dropWaiter_listed]

theorem serveStack_listed (n : Fin 8) (hs : Listed T none s) : Listed T none (serveStack s n) := by
  grind [serveStack, !serve_listed]

theorem serveAll_listed (hs : Listed T none s) : Listed T none (serveAll s) := by
  grind [serveAll, !serveStack_listed, !foldl_listed]

theorem freeCtx_listed (c : CtxId) (hs : Listed T none s) : Listed T none (freeCtx c s) := by
  grind [freeCtx, !modCtx_listed, !foldl_listed]

theorem dropChans_listed (id : Nat) (hs : Listed T none s) : Listed T none (dropChans id s) := by
  grind [dropChans, listed_iff]

theorem dropAccesses_listed (c : CtxId) (hs : Listed T none s) : Listed T none (dropAccesses c s) := by
  grind [dropAccesses, !modCore_listed, !releaseUnit_listed, !pump_listed]

theorem declineAll_listed (c : CtxId) (hs : Listed T none s) : Listed T none (declineAll c s) := by
  grind [declineAll, !declineCopy_listed, !foldl_listed]

theorem killCtx_listed (c : CtxId) (post : Option (BitVec 8 × BitVec 8)) (hs : Listed T none s) : Listed T none (killCtx c post s) := by
  grind [killCtx, !leaveBarriers_listed (T := T), !closeAll_listed (T := T), !modCtx_listed (T := T), !dropAccesses_listed (T := T),
    !declineAll_listed (T := T),
    !postCtx_listed (T := T)]

theorem clearRun_listed (id : Nat) (post : Option (BitVec 8 × BitVec 8)) (hs : Listed T none s) : Listed T none (clearRun id post s) := by
  grind [clearRun, !freeCtx_listed, !killCtx_listed, !dropChans_listed, !foldl_listed]

end Listings

end Sys2Proof.Machine

namespace Sys2Proof.Machine

/-! ## Tasks as a list of standings -/

theorem taskOf_congr {s t : State} (h : t.tasks = s.tasks) (id : Nat) : taskOf t id = taskOf s id := by rw [taskOf, h, taskOf]

theorem taskOf_id {s : State} {id : Nat} {t : Task} (known : taskOf s id = some t) : t.id = id := by
  simpa [taskOf] using List.find?_some known

/-- A list with the same standings finds a task of the same standing under a number, or none where there is none. -/
theorem find_standing {l m : List Task} (same : m.map Task.standing = l.map Task.standing) (id : Nat) :
    (m.find? fun t => t.id = id).map Task.standing = (l.find? fun t => t.id = id).map Task.standing := by
  have through (ts : List Task) : (ts.find? fun t => t.id = id).map Task.standing = (ts.map Task.standing).find? fun x => x.1 = id := by
    rw [List.find?_map]
    rfl
  rw [through, through, same]

section Standings
variable {s t : State}

theorem taskOf_standing (same : t.tasks.map Task.standing = s.tasks.map Task.standing) {id : Nat} {v : Task} (known : taskOf s id = some v) :
    ∃ w, taskOf t id = some w ∧ w.standing = v.standing := by
  have h := find_standing same id
  unfold taskOf at known ⊢
  rw [known] at h
  exact Option.map_eq_some_iff.1 h

theorem taskOf_standing_none (same : t.tasks.map Task.standing = s.tasks.map Task.standing) {id : Nat} (unknown : taskOf s id = none) :
    taskOf t id = none := by
  have h := find_standing same id
  unfold taskOf at unknown ⊢
  rw [unknown] at h
  exact Option.map_eq_none_iff.1 h

/-- Every state lists its own tasks. -/
theorem listed_self (s : State) : Listed (s.tasks.map Task.standing) none s := ⟨rfl, fun _ h => by cases h⟩

end Standings

/-! ## The replay of an audit (R441, R443, R444) -/

/-- From s to t memory has not changed, nor any task but that of number r, which has its phase, its version and its record's address. -/
structure Restarts (r : Nat) (s t : State) : Prop where
  mem : t.mem = s.mem
  others : ∀ j, j ≠ r → taskOf t j = taskOf s j
  own : ∀ w, taskOf s r = some w → ∃ v, taskOf t r = some v ∧ v.phase = w.phase ∧ v.version = w.version ∧ v.recAt = w.recAt

namespace Restarts

variable {r : Nat} {s t u : State}

theorem of_tasks (mem : t.mem = s.mem) (tasks : t.tasks = s.tasks) : Restarts r s t :=
  ⟨mem, fun j _ => taskOf_congr tasks j, fun w known => ⟨w, (taskOf_congr tasks r).trans known, rfl, rfl, rfl⟩⟩

theorem trans (h : Restarts r s t) (g : Restarts r t u) : Restarts r s u := by
  refine ⟨g.mem.trans h.mem, fun j ne => (g.others j ne).trans (h.others j ne), fun w known => ?_⟩
  obtain ⟨v, its, phase, version, recAt⟩ := h.own w known
  obtain ⟨x, there, phase', version', recAt'⟩ := g.own v its
  exact ⟨x, there, phase'.trans phase, version'.trans version, recAt'.trans recAt⟩

theorem foldl {α : Type} {f : State → α → State} (h : ∀ s a, Restarts r s (f s a)) (l : List α) (s : State) : Restarts r s (l.foldl f s) := by
  induction l generalizing s with
  | nil => exact of_tasks rfl rfl
  | cons a l ih => exact (h s a).trans (ih _)

theorem modTask {f : Task → Task} (h : ∀ w, (f w).id = w.id ∧ (f w).phase = w.phase ∧ (f w).version = w.version ∧ (f w).recAt = w.recAt) (s : State) :
    Restarts r s (modTask s r f) :=
  ⟨rfl, fun _ ne => taskOf_modTask_other ne fun w => (h w).1, fun w known => ⟨f w, taskOf_modTask_self known fun w => (h w).1, (h w).2⟩⟩

end Restarts

theorem bindChans_tasks (c : CtxId) (t : Task) (s : State) : (bindChans c t s).tasks = s.tasks := by
  have each (l : List ChanRec) (m : Image) (s : State) : (l.foldl (fun s e => match peerEntry s m t e with
      | some d => bindEntry c t e d s
      | none => s) s).tasks = s.tasks := by
    induction l generalizing s with
    | nil => rfl
    | cons e l ih =>
      rw [List.foldl_cons, ih]
      split
      · exact setCtx_tasks ..
      · rfl
  unfold bindChans
  split
  · rfl
  · exact (each ..).trans (modCtx_tasks ..)

theorem noteStart_keeps (rank : Nat) (s : State) (t : Task) :
    (noteStart rank s t).id = t.id ∧ (noteStart rank s t).phase = t.phase ∧ (noteStart rank s t).version = t.version ∧
      (noteStart rank s t).recAt = t.recAt := by
  unfold noteStart
  split
  · exact ⟨rfl, rfl, rfl, rfl⟩
  · exact ⟨rfl, rfl, rfl, rfl⟩

/-- A start of a context of a task leaves memory and the other tasks. -/
theorem startUser_restarts (c : CtxId) (t : Task) (slot : Nat) (r : SlotRec) (s : State) : Restarts t.id s (startUser c t slot r s) := by
  obtain ⟨cs, ps, zeroed⟩ := zeroSpace_parts c.coreNo r.tbase r.tiles r.soff r.scr (forgetTokens c s)
  unfold startUser
  dsimp only
  rw [zeroed]
  generalize hz : setCtx _ c _ = z
  have first : Restarts t.id s z := by
    subst hz
    exact .of_tasks (setCtx_mem ..) (setCtx_tasks ..)
  generalize hm : modTask z t.id _ = m
  have noted : Restarts t.id z m := by
    subst hm
    refine .modTask (fun w => ?_) z
    exact noteStart_keeps ..
  exact first.trans (noted.trans (.of_tasks ((bindChans_attaches ..).mem.trans rfl) ((bindChans_tasks ..).trans rfl)))

/-- The run that a replay begins with. -/
theorem replayTask_begins (s : State) (t : Task) (k : Nat) (gs : List Nat) (xs : List (Nat × SlotRec)) :
    (replayTask s t k gs xs).id = replayId t.id k ∧ (replayTask s t k gs xs).phase = .dispatched ∧ (replayTask s t k gs xs).version = [] ∧
      (replayTask s t k gs xs).recAt = t.recAt := by
  cases t
  exact ⟨rfl, rfl, rfl, rfl⟩

theorem startReplay_restarts (t : Task) (k : Nat) (gs : List Nat) (xs : List (Nat × SlotRec)) (s : State) :
    Restarts (replayId t.id k) { s with tasks := s.tasks ++ [replayTask s t k gs xs] } (startReplay t k gs xs s) := by
  unfold startReplay
  dsimp only
  refine .foldl (fun s e => .foldl (fun s x => ?_) _ _) _ _
  exact (startUser_restarts _ (replayTask _ t k gs xs) _ _ _).trans (.of_tasks (modCtx_mem ..) (modCtx_tasks ..))

section Start

variable {s : State} {t : Task} {k used : Nat} (next : AuditState)

theorem seekPlace_waits (soon : s.now ≤ placeLimit t) (nowhere : replayPlace s t used = none) : seekPlace t k used next s = s := by
  unfold seekPlace
  rw [if_neg (Nat.not_lt.2 soon), nowhere]

/-- A replay that has found its placement starts, dispatched and with an empty version. -/
theorem seekPlace_starts {gs : List Nat} {xs : List (Nat × SlotRec)} (soon : s.now ≤ placeLimit t) (place : replayPlace s t used = some (gs, xs))
    (known : taskOf s t.id = some t) (fresh : taskOf s (replayId t.id k) = none) (pos : 0 < k) :
    let u := seekPlace t k used next s
    ∃ v w, taskOf u t.id = some v ∧ v.audit = next ∧ taskOf u (replayId t.id k) = some w ∧ w.phase = .dispatched ∧ w.version = [] ∧
      w.recAt = t.recAt ∧ u.mem = s.mem := by
  have ne : t.id ≠ replayId t.id k := (replayId_ne pos).symm
  dsimp only
  unfold seekPlace
  rw [if_neg (Nat.not_lt.2 soon), place]
  dsimp only
  generalize hm : modTask s t.id (fun t => { t with audit := next }) = m
  have its : taskOf m t.id = some { t with audit := next } := by
    subst hm
    exact taskOf_modTask_self known fun _ => rfl
  have unknown : taskOf m (replayId t.id k) = none := by
    subst hm
    exact (taskOf_modTask_other (f := fun t => { t with audit := next }) ne.symm fun _ => rfl).trans fresh
  have mem : m.mem = s.mem := by
    subst hm
    rfl
  obtain ⟨number, phase, version, recAt⟩ := replayTask_begins m t k gs xs
  obtain ⟨same, others, own⟩ := startReplay_restarts t k gs xs m
  generalize replayTask m t k gs xs = first at *
  generalize replayId t.id k = r at *
  have joined : taskOf { m with tasks := m.tasks ++ [first] } r = some first := by
    rw [taskOf, List.find?_append, show m.tasks.find? _ = _ from unknown]
    simp [number]
  obtain ⟨w, its', phase', version', recAt'⟩ := own _ joined
  refine ⟨{ t with audit := next }, w, ?_, rfl, its', phase'.trans phase, version'.trans version, recAt'.trans recAt, same.trans mem⟩
  rw [others _ ne, taskOf, List.find?_append, show m.tasks.find? _ = _ from its]
  rfl

end Start

end Sys2Proof.Machine

namespace Sys2Proof.Machine

/-! ## A replay's end (R441, R443, R444) -/

theorem taskOf_filter_other (s : State) {id j : Nat} (ne : j ≠ id) : taskOf { s with tasks := s.tasks.filter fun u => u.id ≠ id } j = taskOf s j := by
  unfold taskOf
  rw [List.find?_filter]
  refine List.find?_congr fun u _ => ?_
  by_cases its : u.id = j
  · simp [its, ne]
  · simp [its]

/-- A dropped replay's number is no longer known, and every other task stands as it did. -/
theorem dropReplay_standings (id k : Nat) (s : State) : (dropReplay id k s).tasks.map Task.standing =
    ({ s with tasks := s.tasks.filter fun u => u.id ≠ replayId id k } : State).tasks.map Task.standing := by
  unfold dropReplay
  dsimp only
  split
  · next unknown =>
    congr 1
    refine (List.filter_eq_self.2 fun u m => ?_).symm
    have absent := List.find?_eq_none.1 (Option.isNone_iff_eq_none.1 unknown) u m
    simpa using absent
  · have stands := (dropVersion_listed (replayId id k) (clearRun_listed (replayId id k) none (listed_self s))).tasks
    have through (l : List Task) : (l.filter fun u => u.id ≠ replayId id k).map Task.standing =
        (l.map Task.standing).filter fun x => x.1 ≠ replayId id k := by
      rw [List.filter_map]
      rfl
    rw [through, through, stands]

theorem leaveReplay_standings (id k : Nat) (s : State) : (leaveReplay id k s).tasks.map Task.standing =
    ({ s with tasks := s.tasks.filter fun u => u.id ≠ replayId id k } : State).tasks.map Task.standing :=
  (serveAll_listed (listed_self _)).tasks.trans (dropReplay_standings id k s)

section Leave
variable {s : State} {id : Nat}

theorem leaveReplay_gone (k : Nat) : taskOf (leaveReplay id k s) (replayId id k) = none :=
  taskOf_standing_none (leaveReplay_standings id k s) (taskOf_filter_self ..)

theorem leaveReplay_stands {t : Task} {k : Nat} (pos : 0 < k) (known : taskOf s id = some t) :
    ∃ v, taskOf (leaveReplay id k s) id = some v ∧ v.standing = t.standing :=
  taskOf_standing (leaveReplay_standings id k s) ((taskOf_filter_other s (replayId_ne pos).symm).trans known)

end Leave

/-! ### What an audit's end writes -/

section Ends
variable {s : State}

/-- An audit set in a task leaves unknown numbers unknown. -/
theorem taskOf_modTask_none {id j : Nat} {f : Task → Task} (h : ∀ u, (f u).id = u.id) (unknown : taskOf s j = none) :
    taskOf (modTask s id f) j = none := by
  refine List.find?_eq_none.2 fun u m => ?_
  obtain ⟨v, mem, rfl⟩ := List.mem_map.1 m
  have absent := List.find?_eq_none.1 unknown v mem
  split
  · rwa [h]
  · exact absent

/-- An abandoned audit holds its task no longer, and leaves the numbers of the tasks. -/
theorem abandonAudit_ends {t v : Task} (known : taskOf s t.id = some v) (reason : Nat) (sig replay : Word) (mask : Option Nat) :
    ∃ w, taskOf (abandonAudit t reason sig replay mask s) t.id = some w ∧ w.audit = .none := by
  have logged : Listed (s.tasks.map Task.standing) none
      (if logBase (auditRecord t 4 reason sig replay mask s) = 0 then auditRecord t 4 reason sig replay mask s
        else logBump (auditRecord t 4 reason sig replay mask s) 12) := by
    have written := auditRecord_listed t 4 reason sig replay mask (listed_self s)
    split
    · exact written
    · exact logBump_listed _ written
  obtain ⟨w, its, -⟩ := taskOf_standing logged.tasks known
  exact ⟨{ w with audit := .none, retained := [] }, taskOf_modTask_self its fun _ => rfl, rfl⟩

theorem abandonAudit_none {t : Task} {j : Nat} (unknown : taskOf s j = none) (reason : Nat) (sig replay : Word) (mask : Option Nat) :
    taskOf (abandonAudit t reason sig replay mask s) j = none :=
  taskOf_standing_none (abandonAudit_listed t reason sig replay mask (listed_self s)).tasks unknown

theorem foldl_tasks {α : Type} {f : State → α → State} (h : ∀ s a, (f s a).tasks = s.tasks) (l : List α) (s : State) :
    (l.foldl f s).tasks = s.tasks := by
  induction l generalizing s with
  | nil => rfl
  | cons a l ih => rw [List.foldl_cons, ih, h]

/-- A reported mismatch posts a record of kind 10 for its task, and leaves the task's audit (R442). -/
theorem taskFault_mismatch {id : Nat} {v : Task} (known : taskOf s id = some v) :
    taskOf (taskFault id 0x18 s) id = some { v with fault := some 0x18 } ∧
      ∃ rc, (clusterOf (taskFault id 0x18 s) (lowestBit v.dmask)).posting.getLast? = some rc ∧ rc.task = v.id ∧ rc.kind = 10 ∧ rc.b14 = 0x18 := by
  unfold taskFault
  rw [known]
  dsimp only
  rw [if_pos rfl]
  generalize hw : List.foldl _ s (ctxsOf s id) = w
  have tasks : w.tasks = s.tasks := by
    subst hw
    exact foldl_tasks (fun _ _ => modCtx_tasks ..) _ _
  refine ⟨?_, ⟨BitVec.ofNat 64 v.recAt, v.id, lowestBit v.dmask, 0, 10, 0x18, BitVec.ofNat 8 v.runs⟩, ?_, rfl, rfl, rfl⟩
  · exact taskOf_modTask_self (f := fun t => { t with fault := some 0x18 }) ((taskOf_congr tasks id).trans known) fun _ => rfl
  · rw [postTask, posting_postRecord, List.getLast?_append]
    rfl

end Ends

/-! ### AUDIT_REPLAY and AUDIT_VOTE, a case each -/

/-- What the comparison of a replay that has ended takes it to have written (R444). -/
def replayGot (s : State) (w : Task) : Word × Nat :=
  match s.input.outcome with
  | .ran x y => (x, y)
  | _ => (writeSetSig s w, (writeSet s w).length)

section Runs
variable {s : State} {t w : Task}

theorem replayEnd_faulted (h : replayFailed s w = true ∨ s.input.outcome = .faulted) : replayEnd s w = some none :=
  if_pos (by simpa using h)

theorem replayEnd_going (sound : ¬(replayFailed s w = true ∨ s.input.outcome = .faulted)) (going : ¬(allEnded s w = true ∧ taskBusy s w = false)) :
    replayEnd s w = none := by
  rw [replayEnd, if_neg (by simpa using sound), if_neg (by simpa using going)]

theorem replayEnd_complete (sound : ¬(replayFailed s w = true ∨ s.input.outcome = .faulted)) (complete : allEnded s w = true ∧ taskBusy s w = false) :
    replayEnd s w = some (some (replayGot s w)) := by
  rw [replayEnd, if_neg (by simpa using sound), if_pos (by simpa using complete), replayGot]
  cases s.input.outcome <;> rfl

variable (known : taskOf s s.input.task.toNat = some t)
include known

theorem auditReplay_over (rest : t.phase ≠ .completed ∨ t.audit = .none ∨ t.audit = .passed) : exec .auditReplay s = .next s := by
  show execAuditReplay s = _
  unfold execAuditReplay
  rw [known]
  dsimp only
  split
  · rfl
  · next done =>
    rcases rest with h | h | h
    · exact absurd h done
    · rw [h]
    · rw [h]

theorem auditVote_over (rest : t.phase ≠ .completed ∨ t.audit = .none ∨ t.audit = .passed) : exec .auditVote s = .next s := by
  show execAuditVote s = _
  unfold execAuditVote
  rw [known]
  dsimp only
  split
  · rfl
  · next done =>
    rcases rest with h | h | h
    · exact absurd h done
    · rw [h]
    · rw [h]

theorem auditPlacementLimit_over (rest : t.phase ≠ .completed ∨ t.audit = .none ∨ t.audit = .passed) : exec .auditPlacementLimit s = .next s := by
  show execAuditPlacementLimit s = _
  unfold execAuditPlacementLimit
  rw [known]
  refine if_pos ?_
  rcases rest with h | h | h
  · exact .inl h
  · rw [h]
    exact .inr (.inl rfl)
  · rw [h]
    exact .inr (.inl rfl)

variable (done : t.phase = .completed)
include done

theorem auditReplay_sampled (audit : t.audit = .sampled) : exec .auditReplay s = .next (seekPlace t 1 t.dmask .replaying s) := by
  show execAuditReplay s = _
  rw [execAuditReplay, known]
  dsimp only
  rw [if_neg (not_not_intro done), audit]
  dsimp only
  rw [usedClusters, audit]

theorem auditVote_replayed {x : Word} {n mask : Nat} (audit : t.audit = .replayed x n mask) :
    exec .auditVote s = .next (seekPlace t 2 (t.dmask ||| mask) (.voting x n mask) s) := by
  show execAuditVote s = _
  rw [execAuditVote, known]
  dsimp only
  rw [if_neg (not_not_intro done), audit]
  dsimp only
  rw [usedClusters, audit]

section Replay
variable (audit : t.audit = .replaying) (runs : taskOf s (replayId t.id 1) = some w)
include audit runs

theorem auditReplay_going (e : replayEnd s w = none) : exec .auditReplay s = .next s := by
  show execAuditReplay s = _
  rw [execAuditReplay, known]
  dsimp only
  rw [if_neg (not_not_intro done), audit, runs]
  dsimp only
  rw [e]

theorem auditReplay_failed (e : replayEnd s w = some none) :
    exec .auditReplay s = .next (abandonAudit t 4 (writeSetSig s t) 0 (some w.dmask) (leaveReplay t.id 1 s)) := by
  show execAuditReplay s = _
  rw [execAuditReplay, known]
  dsimp only
  rw [if_neg (not_not_intro done), audit, runs]
  dsimp only
  rw [e]

theorem auditReplay_ended {got : Word × Nat} (e : replayEnd s w = some (some got)) : exec .auditReplay s =
    .next (if got = (writeSetSig s t, (writeSet s t).length) then endAudit t.id (leaveReplay t.id 1 s)
      else modTask (leaveReplay t.id 1 s) t.id fun t => { t with audit := .replayed got.1 got.2 w.dmask, waitFrom := s.now }) := by
  show execAuditReplay s = _
  rw [execAuditReplay, known]
  dsimp only
  rw [if_neg (not_not_intro done), audit, runs]
  dsimp only
  rw [e]
  obtain ⟨x, n⟩ := got
  simp only [Prod.mk.injEq]
  split
  · rfl
  · rfl

end Replay

section Vote
variable {x : Word} {n mask : Nat} (audit : t.audit = .voting x n mask) (runs : taskOf s (replayId t.id 2) = some w)
include audit runs

theorem auditVote_going (e : replayEnd s w = none) : exec .auditVote s = .next s := by
  show execAuditVote s = _
  rw [execAuditVote, known]
  dsimp only
  rw [if_neg (not_not_intro done), audit, runs]
  dsimp only
  rw [e]

theorem auditVote_failed (e : replayEnd s w = some none) :
    exec .auditVote s = .next (abandonAudit t 4 (writeSetSig s t) x (some mask) (leaveReplay t.id 2 s)) := by
  show execAuditVote s = _
  rw [execAuditVote, known]
  dsimp only
  rw [if_neg (not_not_intro done), audit, runs]
  dsimp only
  rw [e]

theorem auditVote_ended {got : Word × Nat} (e : replayEnd s w = some (some got)) : exec .auditVote s =
    .next (taskFault t.id 0x18 (endAudit t.id (countEvents none [11] (auditRecord t (verdictOf (writeSetSig s t, (writeSet s t).length) (x, n) got) 0
      (writeSetSig s t) x (some mask) (leaveReplay t.id 2 s))))) := by
  show execAuditVote s = _
  rw [execAuditVote, known]
  dsimp only
  rw [if_neg (not_not_intro done), audit, runs]
  dsimp only
  rw [e]

end Vote

end Runs

/-! ### What the ends leave -/

section Left
variable {s : State} {t : Task} {id : Nat}

/-- A replay that fails abandons the audit. -/
theorem audit_abandoned {k : Nat} (pos : 0 < k) (known : taskOf s t.id = some t) (reason : Nat) (sig replay : Word) (mask : Option Nat) :
    let u := abandonAudit t reason sig replay mask (leaveReplay t.id k s)
    ∃ v, taskOf u t.id = some v ∧ v.audit = .none ∧ taskOf u (replayId t.id k) = none := by
  obtain ⟨v, its, -⟩ := leaveReplay_stands pos known
  obtain ⟨w, there, audit⟩ := abandonAudit_ends its reason sig replay mask
  exact ⟨w, there, audit, abandonAudit_none (leaveReplay_gone k) ..⟩

/-- A replay that ends gives its task's audit another state. -/
theorem audit_moved {k : Nat} (pos : 0 < k) (known : taskOf s t.id = some t) {f : Task → Task} (h : ∀ u, (f u).id = u.id) {a : AuditState}
    (moves : ∀ u, (f u).audit = a) :
    let u := modTask (leaveReplay t.id k s) t.id f
    ∃ v, taskOf u t.id = some v ∧ v.audit = a ∧ taskOf u (replayId t.id k) = none := by
  obtain ⟨v, its, -⟩ := leaveReplay_stands pos known
  exact ⟨f v, taskOf_modTask_self its h, moves v, taskOf_modTask_none h (leaveReplay_gone k)⟩

/-- A vote that ends passes the audit and reports the mismatch at the lowest cluster of its task. -/
theorem audit_voted (known : taskOf s t.id = some t) (verdict : Nat) (sig replay : Word) (mask : Option Nat) :
    let u := taskFault t.id 0x18 (endAudit t.id (countEvents none [11] (auditRecord t verdict 0 sig replay mask (leaveReplay t.id 2 s))))
    (∃ v, taskOf u t.id = some v ∧ v.audit = .passed ∧ taskOf u (replayId t.id 2) = none) ∧
      ∃ rc, (clusterOf u (lowestBit t.dmask)).posting.getLast? = some rc ∧ rc.task = t.id ∧ rc.kind = 10 ∧ rc.b14 = 0x18 := by
  dsimp only
  generalize hy : countEvents none [11] (auditRecord t verdict 0 sig replay mask (leaveReplay t.id 2 s)) = y
  have same : y.tasks.map Task.standing = (leaveReplay t.id 2 s).tasks.map Task.standing := by
    subst hy
    exact (countEvents_listed _ _ (auditRecord_listed _ _ _ _ _ _ (listed_self _))).tasks
  obtain ⟨v, its, stands⟩ := leaveReplay_stands (k := 2) (by decide) known
  obtain ⟨w, there, stands'⟩ := taskOf_standing same its
  have gone : taskOf y (replayId t.id 2) = none := taskOf_standing_none same (leaveReplay_gone 2)
  have ended : taskOf (endAudit t.id y) t.id = some { w with audit := .passed, retained := [] } := taskOf_modTask_self there fun _ => rfl
  obtain ⟨faulted, rc, last, task, kind, b14⟩ := taskFault_mismatch ended
  have place : w.dmask = t.dmask := congrArg (·.2.1) (stands'.trans stands)
  refine ⟨⟨_, faulted, rfl, ?_⟩, rc, ?_, task.trans (taskOf_id there : w.id = t.id), kind, b14⟩
  · exact taskOf_standing_none (taskFault_listed _ _ (listed_self _)).tasks (taskOf_modTask_none (fun _ => rfl) gone)
  · rw [← place]
    exact last

end Left

end Sys2Proof.Machine

namespace Sys2Proof.Machine

/-! ## A placement that is not found in time (R441, R443) -/

section Limit
variable {s : State} {t : Task}

theorem placeLost_abandons (t : Task) (s : State) : ∃ sig replay mask, placeLost t s = abandonAudit t 3 sig replay mask s := by
  unfold placeLost
  split
  · exact ⟨_, _, _, rfl⟩
  · exact ⟨_, _, _, rfl⟩

theorem auditRecord_counts (t : Task) (verdict reason : Nat) (sig replay : Word) (mask : Option Nat) (s : State) :
    OnlyCounts s (auditRecord t verdict reason sig replay mask s) := onlyCounts_logRecord ..

theorem abandonAudit_now (t : Task) (reason : Nat) (sig replay : Word) (mask : Option Nat) (s : State) :
    (abandonAudit t reason sig replay mask s).now = s.now := by
  have logged : (auditRecord t 4 reason sig replay mask s).now = s.now := by rw [auditRecord_counts t 4 reason sig replay mask s]
  unfold abandonAudit
  dsimp only
  split
  · exact logged
  · exact logged

/-- With the error log off, an abandoned audit changes no byte. -/
theorem abandonAudit_bytes (t : Task) (reason : Nat) (sig replay : Word) (mask : Option Nat) (off : s.dev.errlog = 0) :
    SameBytes s (abandonAudit t reason sig replay mask s) := by
  have quiet : auditRecord t 4 reason sig replay mask s = s := logRecord_off off ..
  have none : logBase s = 0 := by rw [logBase, off]; rfl
  unfold abandonAudit
  dsimp only
  rw [quiet, if_pos none]
  exact fun _ => ⟨rfl, rfl, rfl⟩

variable (known : taskOf s s.input.task.toNat = some t)
include known

theorem auditPlacementLimit_seeks {used : Nat} (its : usedClusters t = used) (soon : s.now ≤ placeLimit t) (place : (replayPlace s t used).isSome = true) :
    exec .auditPlacementLimit s = .next s := by
  show execAuditPlacementLimit s = _
  unfold execAuditPlacementLimit
  rw [known]
  exact if_pos (.inr (.inr ⟨soon, by rw [its]; exact place⟩))

theorem auditPlacementLimit_lost (done : t.phase = .completed) {used : Nat} (its : usedClusters t = used)
    (waiting : t.audit = .sampled ∨ ∃ x n mask, t.audit = .replayed x n mask)
    (lost : replayPlace s t used = none ∨ placeLimit t < s.now) : exec .auditPlacementLimit s = .next (placeLost t (reach (placeLimit t) s)) := by
  show execAuditPlacementLimit s = _
  unfold execAuditPlacementLimit
  rw [known]
  refine if_neg ?_
  have waits : (match t.audit with | .sampled | .replayed _ _ _ => true | _ => false) = true := by
    rcases waiting with h | ⟨x, n, mask, h⟩
    · rw [h]
    · rw [h]
  rintro (h | h | ⟨soon, place⟩)
  · exact h done
  · exact absurd (h.symm.trans (congrArg Bool.not waits)) (by decide)
  · rcases lost with nowhere | late
    · rw [its, nowhere] at place
      cases place
    · exact absurd soon (Nat.not_le.2 late)

end Limit

/-! ## Aging and blocking (R377, R380) -/

theorem mem_insertTask {t u : Task} {ts : List Task} : u ∈ insertTask t ts ↔ u = t ∨ u ∈ ts := by
  induction ts with
  | nil => simp [insertTask]
  | cons x ts ih =>
    rw [insertTask]
    split
    · simp
    · simp only [List.mem_cons, ih]
      tauto

theorem mem_sortTasks {u : Task} {ts : List Task} : u ∈ sortTasks ts ↔ u ∈ ts := by
  unfold sortTasks
  induction ts with
  | nil => simp
  | cons x ts ih => rw [List.foldr_cons, mem_insertTask, ih, List.mem_cons]

/-- A change of every task that leaves its number changes the one that is found. -/
theorem taskOf_map {s : State} {id : Nat} {t : Task} {f : Task → Task} (known : taskOf s id = some t) (h : ∀ u, (f u).id = u.id) :
    taskOf { s with tasks := s.tasks.map f } id = some (f t) := by
  have through : ((fun t : Task => decide (t.id = id)) ∘ f) = fun t => decide (t.id = id) := by
    funext u
    simp [h]
  unfold taskOf at *
  rw [List.find?_map, through, known]
  rfl

/-- The first task of a queue that may block does, and no other of the queue. -/
def blockFirst (n : Nat) (first : Option Nat) (u : Task) : Task :=
  if u.phase = .queued ∧ queueStack u = n then { u with blocking := some u.id == first } else u

theorem blockFirst_id (n : Nat) (first : Option Nat) (u : Task) : (blockFirst n first u).id = u.id := by
  unfold blockFirst
  split
  · rfl
  · rfl

section Waits
variable {s : State} {t : Task} (known : taskOf s s.input.task.toNat = some t)
include known

theorem taskAging_moves (queued : t.phase = .queued) (pri : 0 < t.pri) : exec .taskAging s =
    .next (modTask (reach (t.waitFrom + 2 ^ 20) s) s.input.task.toNat fun v =>
      { v with pri := v.pri - 1, waitFrom := (reach (t.waitFrom + 2 ^ 20) s).now }) := by
  show execTaskAging s = _
  unfold execTaskAging
  dsimp only
  rw [known]
  exact if_pos ⟨queued, pri⟩

theorem taskAging_rests (rest : t.phase ≠ .queued ∨ t.pri = 0) : exec .taskAging s = .next s := by
  show execTaskAging s = _
  unfold execTaskAging
  dsimp only
  rw [known]
  exact if_neg fun h => rest.elim (fun n => n h.1) fun n => absurd h.2 (by rw [n]; decide)

/-- A task that waits alone at priority 0 blocks its queue after 2^22 cycles. -/
theorem taskBlocking_blocks (queued : t.phase = .queued) (pri : t.pri = 0) (alone : ∀ v ∈ s.tasks, v.id ≠ s.input.task.toNat → v.phase ≠ .queued) :
    ∃ u v, exec .taskBlocking s = .next u ∧ taskOf u s.input.task.toNat = some v ∧ v.blocking = true ∧ t.waitFrom + 2 ^ 22 ≤ u.now ∧
      u.ctx = s.ctx ∧ SameBytes s u := by
  generalize hn : max s.now (t.waitFrom + 2 ^ 22) = n
  have late : t.waitFrom + 2 ^ 22 ≤ n := by rw [← hn]; exact Nat.le_max_right ..
  generalize hw : ((queuedOn { s with now := n } (queueStack t)).filter fun u => u.pri = 0 ∧ u.waitFrom + 2 ^ 22 ≤ n) = waited
  have own : t ∈ waited := by
    rw [← hw, List.mem_filter, queuedOn, List.mem_filter]
    exact ⟨⟨List.mem_of_find?_eq_some known, by simp [queued]⟩, by simpa [pri] using late⟩
  have only (u : Task) (m : u ∈ waited) : u.id = s.input.task.toNat := by
    rw [← hw] at m
    obtain ⟨inQueue, -⟩ := List.mem_filter.1 m
    obtain ⟨listed, stands⟩ := List.mem_filter.1 inQueue
    by_contra other
    exact alone u listed other (by simp at stands; exact stands.1)
  have head : ((sortTasks waited).head?.map (·.id)) = some s.input.task.toNat := by
    cases sorted : sortTasks waited with
    | nil =>
      have m := mem_sortTasks.2 own
      rw [sorted] at m
      cases m
    | cons u us => exact congrArg some (only u (mem_sortTasks.1 (by rw [sorted]; exact List.mem_cons_self)))
  have runs : exec .taskBlocking s = .next { s with
      now := n
      tasks := s.tasks.map (blockFirst (queueStack t) ((sortTasks waited).head?.map (·.id))) } := by
    show execTaskBlocking s = _
    unfold execTaskBlocking
    dsimp only
    rw [known]
    dsimp only
    rw [if_pos ⟨queued, pri⟩, ← hw, ← hn]
    rfl
  refine ⟨_, _, runs, taskOf_map (s := { s with now := n }) known (blockFirst_id _ _), ?_, late, rfl, fun _ => ⟨rfl, rfl, rfl⟩⟩
  rw [blockFirst, if_pos ⟨queued, rfl⟩, head, taskOf_id known]
  simp

end Waits

/-! ## Completion (R25, R383) -/

theorem mem_putCtx_once {l : List (CtxId × Ctx)} (once : (l.map (·.1)).Nodup) {c : CtxId} {x : Ctx} {e : CtxId × Ctx} (m : e ∈ putCtx l c x) :
    e = (c, x) ∨ (e ∈ l ∧ e.1 ≠ c) := by
  induction l with
  | nil => exact .inl (List.mem_singleton.1 m)
  | cons y l ih =>
    obtain ⟨k, z⟩ := y
    obtain ⟨apart, once⟩ := List.nodup_cons.1 once
    rw [putCtx] at m
    split at m
    · next same =>
      rcases List.mem_cons.1 m with rfl | m
      · exact .inl rfl
      · refine .inr ⟨List.mem_cons_of_mem _ m, fun its => apart (List.mem_map.2 ⟨e, m, ?_⟩)⟩
        exact its.trans same.symm
    · next other =>
      rcases List.mem_cons.1 m with rfl | m
      · exact .inr ⟨List.mem_cons_self, other⟩
      · rcases ih once m with h | ⟨m, ne⟩
        · exact .inl h
        · exact .inr ⟨List.mem_cons_of_mem _ m, ne⟩

theorem putCtx_nodup {l : List (CtxId × Ctx)} (once : (l.map (·.1)).Nodup) (c : CtxId) (x : Ctx) : ((putCtx l c x).map (·.1)).Nodup := by
  induction l with
  | nil => simp [putCtx]
  | cons y l ih =>
    obtain ⟨k, z⟩ := y
    obtain ⟨apart, rest⟩ := List.nodup_cons.1 once
    rw [putCtx]
    split
    · next same => exact same ▸ once
    · next other =>
      refine List.nodup_cons.2 ⟨fun m => ?_, ih rest⟩
      obtain ⟨e, m, its⟩ := List.mem_map.1 m
      rcases mem_putCtx_once rest m with rfl | ⟨m, -⟩
      · exact other its.symm
      · exact apart (List.mem_map.2 ⟨e, m, its⟩)

section Contexts
variable {s : State}

theorem modCtx_nodup (once : (s.parked.map (·.1)).Nodup) (c : CtxId) (f : Ctx → Ctx) : ((modCtx s c f).parked.map (·.1)).Nodup := by
  unfold modCtx setCtx
  split
  · exact once
  · exact putCtx_nodup once c _

/-- A context that changes is listed once, as it has become. -/
theorem mem_allCtx_modCtx (once : (s.parked.map (·.1)).Nodup) {c : CtxId} {f : Ctx → Ctx} {e : CtxId × Ctx} (m : e ∈ allCtx (modCtx s c f)) :
    e = (c, f (getCtx s c)) ∨ (e ∈ allCtx s ∧ e.1 ≠ c) := by
  unfold modCtx setCtx allCtx at *
  split at m
  · next own =>
    rcases List.mem_cons.1 m with rfl | m
    · exact .inl (by rw [own])
    · exact .inr ⟨List.mem_cons_of_mem _ m, by simpa [own] using (List.mem_filter.1 m).2⟩
  · next other =>
    rcases List.mem_cons.1 m with rfl | m
    · exact .inr ⟨List.mem_cons_self, fun h => other h.symm⟩
    · obtain ⟨m, apart⟩ := List.mem_filter.1 m
      rcases mem_putCtx_once once m with h | ⟨m, ne⟩
      · exact .inl h
      · exact .inr ⟨List.mem_cons_of_mem _ (List.mem_filter.2 ⟨m, apart⟩), ne⟩

/-- Once contexts have been freed, each is free or was none of them. -/
theorem mem_allCtx_freed {l : List (CtxId × Ctx)} (once : (s.parked.map (·.1)).Nodup) {e : CtxId × Ctx}
    (m : e ∈ allCtx (l.foldl (fun s e => freeCtx e.1 s) s)) : e.2.run = .free ∨ (e ∈ allCtx s ∧ e.1 ∉ l.map (·.1)) := by
  induction l generalizing s with
  | nil => exact .inr ⟨m, by simp⟩
  | cons d l ih =>
    rcases ih (modCtx_nodup once d.1 _) m with free | ⟨m, apart⟩
    · exact .inl free
    · rcases mem_allCtx_modCtx once m with rfl | ⟨m, ne⟩
      · exact .inl rfl
      · exact .inr ⟨m, by simpa [ne] using apart⟩

/-- The contexts of a task that have been freed carry it no longer. -/
theorem taskCtxs_freed (once : (s.parked.map (·.1)).Nodup) (id : Nat) :
    taskCtxs ((taskCtxs s id).foldl (fun s e => freeCtx e.1 s) s) id = [] := by
  rw [taskCtxs, List.filter_eq_nil_iff]
  intro e m its
  simp only [decide_eq_true_eq] at its
  obtain ⟨task, known, busy⟩ := its
  rcases mem_allCtx_freed once m with free | ⟨m, apart⟩
  · exact busy free
  · exact apart (List.mem_map.2 ⟨e, List.mem_filter.2 ⟨m, by simp [task, known, busy]⟩, rfl⟩)

end Contexts

/-- A core with no histogram has nothing to flush. -/
theorem flushHist_empty {s : State} {core : Nat} (empty : (coreOf s core).hist = []) (id : Nat) : flushHist core id s = s := by
  unfold flushHist
  dsimp only
  rw [empty]
  rfl

theorem taskCtxs_congr {s t : State} (who : t.who = s.who) (ctx : t.ctx = s.ctx) (parked : t.parked = s.parked) (id : Nat) :
    taskCtxs t id = taskCtxs s id := by
  unfold taskCtxs allCtx
  rw [who, ctx, parked]

/-- Freeing contexts leaves the tasks, the clusters and the memories. -/
theorem freed_rest (l : List (CtxId × Ctx)) (s : State) :
    let f := l.foldl (fun s e => freeCtx e.1 s) s
    f.tasks = s.tasks ∧ f.clusters = s.clusters ∧ f.mem = s.mem ∧ f.spm = s.spm ∧ f.rom = s.rom := by
  induction l generalizing s with
  | nil => exact ⟨rfl, rfl, rfl, rfl, rfl⟩
  | cons e l ih =>
    obtain ⟨tasks, clusters, mem, spm, rom⟩ := ih (freeCtx e.1 s)
    exact ⟨tasks.trans (modCtx_tasks ..), clusters.trans (modCtx_clusters ..), mem.trans (modCtx_mem ..), spm.trans (modCtx_spm ..),
      rom.trans (modCtx_rom ..)⟩

/-- The completion of a task leaves the contexts and the memories as they are once its own are free. -/
theorem completed_rest (f : State) (g : Task → Task) (t : Task) (id clu kind : Nat) (b14 : BitVec 8) :
    let u := postTask (modTask (dropChans id (noteVariant t f)) id g) clu t kind b14
    u.who = f.who ∧ u.ctx = f.ctx ∧ u.parked = f.parked ∧ u.mem = f.mem ∧ u.spm = f.spm ∧ u.rom = f.rom := by
  simp [postTask, dropChans, noteVariant]

section Completion
variable {s : State} {t : Task} (known : taskOf s s.input.task.toNat = some t)
include known

theorem taskCompletion_waits (waits : t.phase ≠ .dispatched ∨ allEnded s t = false ∨ taskBusy s t = true ∨ recordsPosted s s.input.task.toNat = false) :
    exec .taskCompletion s = .next s := by
  show execTaskCompletion s = _
  unfold execTaskCompletion
  dsimp only
  rw [known]
  exact if_pos (by simpa using waits)

/-- A task whose contexts have ended completes: they are free, its version stays, and its kind-9 record waits at its lowest cluster. -/
theorem taskCompletion_completes (once : (s.parked.map (·.1)).Nodup) (dispatched : t.phase = .dispatched) (ended : allEnded s t = true)
    (idle : taskBusy s t = false) (posted : recordsPosted s s.input.task.toNat = true) (sound : t.doomed = false)
    (flushed : ∀ e ∈ s.cores, (coreOf s e.1).hist = []) :
    ∃ u v, exec .taskCompletion s = .next u ∧ taskOf u s.input.task.toNat = some v ∧ v.phase = .completed ∧ v.version = t.version ∧
      taskCtxs u s.input.task.toNat = [] ∧ SameBytes s u ∧ (clusterOf u (lowestBit t.dmask)).posting = (clusterOf s (lowestBit t.dmask)).posting ++
        [⟨BitVec.ofNat 64 t.recAt, t.id, lowestBit t.dmask, 0, 9, t.error.getD 0, BitVec.ofNat 8 t.runs⟩] := by
  have still : s.cores.foldl (fun u e => flushHist e.1 s.input.task.toNat u) s = s := foldl_stays fun e m => flushHist_empty (flushed e m) _
  have free := taskCtxs_freed once s.input.task.toNat
  have rest := freed_rest (taskCtxs s s.input.task.toNat) s
  generalize hf : (taskCtxs s s.input.task.toNat).foldl (fun s e => freeCtx e.1 s) s = f at free rest
  obtain ⟨tasks, clusters, mem, spm, rom⟩ := rest
  generalize ha : (if t.audit = .sampled ∧ t.error.isNone = true ∧ (!t.doomed) = true then AuditState.sampled else .none) = audit
  have runs : exec .taskCompletion s = .next (postTask (modTask (dropChans s.input.task.toNat (noteVariant t f)) s.input.task.toNat fun v =>
      { v with phase := .completed, audit := audit, waitFrom := f.now }) (lowestBit t.dmask) t 9 (t.error.getD 0)) := by
    show execTaskCompletion s = _
    unfold execTaskCompletion
    dsimp only
    rw [known]
    dsimp only
    rw [if_neg (by simp [dispatched, ended, idle, posted]), sound, if_neg Bool.false_ne_true, still, hf]
    rw [sound] at ha
    rw [ha]
    rfl
  have its : taskOf (dropChans s.input.task.toNat (noteVariant t f)) s.input.task.toNat = some t :=
    (taskOf_congr (s := s) (by simp [dropChans, noteVariant, tasks]) _).trans known
  obtain ⟨who, ctx, parked, mem', spm', rom'⟩ := completed_rest f (fun v => { v with phase := .completed, audit := audit, waitFrom := f.now }) t
    s.input.task.toNat (lowestBit t.dmask) 9 (t.error.getD 0)
  refine ⟨_, { t with phase := .completed, audit := audit, waitFrom := f.now }, runs, ?_, rfl, rfl, ?_, fun k => ?_, ?_⟩
  · exact taskOf_modTask_self (f := fun v => { v with phase := .completed, audit := audit, waitFrom := f.now }) its fun _ => rfl
  · rw [taskCtxs_congr who ctx parked, free]
  · rw [mem', spm', rom', mem, spm, rom]
    exact ⟨rfl, rfl, rfl⟩
  · rw [postTask, posting_postRecord]
    exact congrArg (fun cs => ((Tbl.get? cs (lowestBit t.dmask)).getD Cluster.blank).posting ++ _) clusters

end Completion

end Sys2Proof.Machine

namespace Sys2Proof.Machine

/-! ## Dispatch (R375, R380) -/

theorem dispatchable_of {s : State} {n : Nat} {t : Task} {gs : List Nat} {xs : List (Nat × SlotRec)} (found : dispatchable s n = some (t, gs, xs)) :
    t.phase = .queued ∧ eligible s t = true := by
  obtain ⟨u, m, its⟩ := List.exists_of_findSome?_eq_some found
  obtain ⟨-, queued⟩ := List.mem_filter.1 (mem_sortTasks.1 m)
  simp only [Bool.and_eq_true, beq_iff_eq] at queued
  split at its
  · next fits =>
    have same : u = t := by
      split at its
      · split at its
        · cases its
        · exact congrArg (·.1) (Option.some.inj its)
      · cases its
    subst same
    exact ⟨queued.1, fits⟩
  · cases its

/-- Every state lists its tasks and the records that wait at its clusters. -/
theorem listed_posting (s : State) : Listed (s.tasks.map Task.standing) (some fun g => (clusterOf s g).posting) s :=
  ⟨rfl, fun _ same _ => by cases same; rfl⟩

section Record
variable {T : List Standing} {Q : Option (Nat → List Record)} {s : State}

/-- Writing a task's record leaves the tasks and the records that wait. -/
theorem writeRecord_listed (t : Task) (hs : Listed T Q s) : Listed T Q (writeRecord t s) := by
  unfold writeRecord
  extract_lets w s1 s2
  have each (off : Nat) (bs : List Byte) {s : State} (hs : Listed T Q s) : Listed T Q (w off bs s) := deviceWrite_listed _ _ _ _ _ _ _ hs
  have head : Listed T Q s1 := each _ _ hs
  have variant : Listed T Q s2 := by
    unfold s2
    split
    · exact each _ _ head
    · exact head
  exact foldl_listed (fun _ _ h => each _ _ (each _ _ h)) _ variant

theorem writeRecord_keeps (t : Task) (s : State) : KeepsContexts s (writeRecord t s) := by
  unfold writeRecord
  extract_lets w s1 s2
  have each (off : Nat) (bs : List Byte) (s : State) : KeepsContexts s (w off bs s) := deviceWrite_keeps ..
  have head : KeepsContexts s s1 := each ..
  have variant : KeepsContexts s1 s2 := .ite (each ..) (.refl _)
  exact head.trans (variant.trans (.foldl (fun _ _ => (each ..).trans (each ..)) _ _))

end Record

theorem posting_postTask (s : State) (g j : Nat) (t : Task) (kind : Nat) (b14 : BitVec 8) : (clusterOf (postTask s g t kind b14) j).posting =
    (clusterOf s j).posting ++ if j = g then [⟨BitVec.ofNat 64 t.recAt, t.id, g, 0, kind, b14, BitVec.ofNat 8 t.runs⟩] else [] := by
  by_cases same : j = g
  · rw [same, postTask, posting_postRecord, if_pos rfl]
  · rw [if_neg same, List.append_nil, postTask, postRecord, clusterOf_modCluster_other _ _ same]

/-- A task announced to clusters is announced to each of them. -/
theorem mem_posting_announced (t : Task) (kind : Nat) (b14 : BitVec 8) {l : List Nat} {g : Nat} (m : g ∈ l) (s : State) :
    (⟨BitVec.ofNat 64 t.recAt, t.id, g, 0, kind, b14, BitVec.ofNat 8 t.runs⟩ : Record) ∈
      (clusterOf (l.foldl (fun s g => postTask s g t kind b14) s) g).posting := by
  have stays (l : List Nat) {r : Record} {s : State} (h : r ∈ (clusterOf s g).posting) :
      r ∈ (clusterOf (l.foldl (fun s g => postTask s g t kind b14) s) g).posting := by
    induction l generalizing s with
    | nil => exact h
    | cons j l ih =>
      refine ih ?_
      rw [posting_postTask]
      exact List.mem_append_left _ h
  induction l generalizing s with
  | nil => cases m
  | cons j l ih =>
    rcases List.mem_cons.1 m with rfl | m
    · refine stays l ?_
      rw [posting_postTask, if_pos rfl]
      exact List.mem_append_right _ (List.mem_singleton_self _)
    · exact ih m _

theorem announced_rest (t : Task) (kind : Nat) (b14 : BitVec 8) (l : List Nat) (s : State) :
    let u := l.foldl (fun s g => postTask s g t kind b14) s
    u.tasks = s.tasks ∧ u.spm = s.spm ∧ u.dev = s.dev := by
  induction l generalizing s with
  | nil => exact ⟨rfl, rfl, rfl⟩
  | cons g l ih => exact ih _

theorem sum_pow (l : List Nat) : l.foldl (fun m g => m + 2 ^ g) 0 = (l.map fun g => 2 ^ g).sum := by
  rw [List.sum_eq_foldl, List.foldl_map]

section Dispatch
variable {s : State} {t : Task} {gs : List Nat} {xs : List (Nat × SlotRec)} (found : dispatchable s s.input.die.val = some (t, gs, xs))
include found

/-- Dispatch writes the record of the run that it begins, and announces it once the record is written. -/
theorem dispatch_runs : ∃ v : Task, (exec .dispatch s = if owes s (.record t.id) = true then .next s
      else if owes (writeRecord v s) (.record t.id) = true then .next (writeRecord v s)
      else .next (gs.foldl (fun s g => postTask s g v 8 0) (modTask (writeRecord v s) t.id fun _ => v))) ∧
    v.id = t.id ∧ v.recAt = t.recAt ∧ v.runs = t.runs ∧ v.phase = .dispatched ∧ v.dmask = (gs.map fun g => 2 ^ g).sum := by
  have runs : exec .dispatch s = execDispatch s := rfl
  rw [← sum_pow, runs]
  unfold execDispatch
  dsimp only
  rw [found]
  dsimp only
  exact ⟨_, rfl, rfl, rfl, rfl, rfl, rfl⟩

theorem dispatch_waits (owed : owes s (.record t.id) = true) : exec .dispatch s = .next s := by
  obtain ⟨v, runs, -⟩ := dispatch_runs found
  rw [runs, if_pos owed]

/-- A dispatch whose record is not owed yet writes it; then it waits for the write or announces the task. -/
theorem dispatch_acts (known : taskOf s t.id = some t) (unowed : owes s (.record t.id) = false) : ∃ u v, exec .dispatch s = .next u ∧
    taskOf u t.id = some v ∧ v.recAt = t.recAt ∧ v.runs = t.runs ∧ u.spm = s.spm ∧
      (owes u (.record t.id) = true → v.phase = .queued ∧ ∀ g, (clusterOf u g).posting = (clusterOf s g).posting) ∧
      (owes u (.record t.id) = false → v.phase = .dispatched ∧ v.dmask = (gs.map fun g => 2 ^ g).sum ∧
        ∀ g ∈ gs, ∃ rc ∈ (clusterOf u g).posting, rc.kind = 8 ∧ rc.task = t.id ∧ rc.lo = BitVec.ofNat 64 t.recAt ∧ rc.b14 = 0) := by
  obtain ⟨v, runs, number, recAt, again, phase, dmask⟩ := dispatch_runs found
  rw [if_neg (by rw [unowed]; exact Bool.false_ne_true)] at runs
  have spm : (writeRecord v s).spm = s.spm := (writeRecord_keeps v s).spm
  have listed := writeRecord_listed v (listed_posting s)
  generalize writeRecord v s = w at runs spm listed
  obtain ⟨x, its, stands⟩ := taskOf_standing listed.tasks known
  by_cases owed : owes w (.record t.id) = true
  · rw [if_pos owed] at runs
    refine ⟨w, x, runs, its, congrArg (·.2.2.1) stands, congrArg (·.2.2.2.1) stands, spm, fun _ => ⟨?_, fun g => listed.posting _ rfl g⟩, fun no => ?_⟩
    · exact (congrArg (·.2.2.2.2) stands).trans (dispatchable_of found).1
    · exact absurd (owed.symm.trans no) (by decide)
  · rw [if_neg owed] at runs
    have rest := announced_rest v 8 0 gs (modTask w t.id fun _ => v)
    have told (g : Nat) (m : g ∈ gs) := mem_posting_announced v 8 0 m (modTask w t.id fun _ => v)
    generalize gs.foldl (fun s g => postTask s g v 8 0) (modTask w t.id fun _ => v) = u at runs rest told
    obtain ⟨tasks, spm', dev⟩ := rest
    have there : taskOf u t.id = some v := by
      rw [taskOf_congr tasks]
      refine (taskOf_map (f := fun y => if y.id = t.id then v else y) its fun y => ?_).trans ?_
      · split
        · next same => exact number.trans same.symm
        · rfl
      · rw [if_pos (taskOf_id its)]
    have same : owes u (.record t.id) = owes w (.record t.id) := by
      unfold owes
      rw [dev]
      rfl
    refine ⟨u, v, runs, there, recAt, again, spm'.trans spm, fun yes => absurd (same.symm.trans yes) owed,
      fun _ => ⟨phase, dmask, fun g m => ?_⟩⟩
    exact ⟨_, told g m, rfl, number, congrArg (BitVec.ofNat 64) recAt, rfl⟩

end Dispatch

end Sys2Proof.Machine

namespace Sys2Proof.Machine

section Audit
variable {s : State} {t w : Task}

/-- A replay of AUDIT_REPLAY ends as its run did (R441, R444). -/
theorem auditReplay_ends (known : taskOf s s.input.task.toNat = some t) (done : t.phase = .completed) (audit : t.audit = .replaying)
    (runs : taskOf s (replayId t.id 1) = some w) :
    let ends (a : AuditState) : Prop := ∃ u v, exec .auditReplay s = .next u ∧ taskOf u t.id = some v ∧ v.audit = a ∧ taskOf u w.id = none
    (replayEnd s w = some none → ends .none) ∧ (∀ got, replayEnd s w = some (some got) →
      ends (if got = (writeSetSig s t, (writeSet s t).length) then .passed else .replayed got.1 got.2 w.dmask)) := by
  have its : taskOf s t.id = some t := by rwa [taskOf_id known]
  rw [taskOf_id runs]
  refine ⟨fun failed => ?_, fun got ended => ?_⟩
  · obtain ⟨v, there, audit', gone⟩ := audit_abandoned (k := 1) (by decide) its 4 (writeSetSig s t) 0 (some w.dmask)
    exact ⟨_, v, auditReplay_failed known done audit runs failed, there, audit', gone⟩
  · have moves := auditReplay_ended known done audit runs ended
    split at moves
    · next same =>
      rw [if_pos same]
      obtain ⟨v, there, audit', gone⟩ := audit_moved (k := 1) (f := fun t => { t with audit := .passed, retained := [] }) (by decide) its
        (fun _ => rfl) fun _ => rfl
      exact ⟨_, v, moves, there, audit', gone⟩
    · next differ =>
      rw [if_neg differ]
      obtain ⟨v, there, audit', gone⟩ := audit_moved (k := 1)
        (f := fun t => { t with audit := .replayed got.1 got.2 w.dmask, waitFrom := s.now }) (by decide) its (fun _ => rfl) fun _ => rfl
      exact ⟨_, v, moves, there, audit', gone⟩

/-- The vote ends as its run did; one that is complete passes the audit and posts the mismatch (R441, R442). -/
theorem auditVote_ends {x : Word} {n mask : Nat} (known : taskOf s s.input.task.toNat = some t) (done : t.phase = .completed)
    (audit : t.audit = .voting x n mask) (runs : taskOf s (replayId t.id 2) = some w) :
    let ends (a : AuditState) : Prop := ∃ u v, exec .auditVote s = .next u ∧ taskOf u t.id = some v ∧ v.audit = a ∧ taskOf u w.id = none
    (replayEnd s w = some none → ends .none) ∧ (∀ got, replayEnd s w = some (some got) → ends .passed ∧ ∃ u rc, exec .auditVote s = .next u ∧
      (clusterOf u (lowestBit t.dmask)).posting.getLast? = some rc ∧ rc.task = t.id ∧ rc.kind = 10 ∧ rc.b14 = 0x18) := by
  have its : taskOf s t.id = some t := by rwa [taskOf_id known]
  rw [taskOf_id runs]
  refine ⟨fun failed => ?_, fun got ended => ?_⟩
  · obtain ⟨v, there, audit', gone⟩ := audit_abandoned (k := 2) (by decide) its 4 (writeSetSig s t) x (some mask)
    exact ⟨_, v, auditVote_failed known done audit runs failed, there, audit', gone⟩
  · have moves := auditVote_ended known done audit runs ended
    generalize hv : verdictOf _ _ _ = verdict at moves
    obtain ⟨⟨v, there, audit', gone⟩, rc, last, task, kind, b14⟩ := audit_voted its verdict (writeSetSig s t) x (some mask)
    exact ⟨⟨_, v, moves, there, audit', gone⟩, _, rc, moves, last, task, kind, b14⟩

/-- AUDIT_PLACEMENT_LIMIT gives the audit up where no placement has been found in time (R441, R443). -/
theorem auditPlacementLimit_ends {used : Nat} (known : taskOf s s.input.task.toNat = some t) (done : t.phase = .completed) (its : usedClusters t = used)
    (waiting : t.audit = .sampled ∨ ∃ x n mask, t.audit = .replayed x n mask) (lost : replayPlace s t used = none ∨ placeLimit t < s.now) :
    ∃ u v, exec .auditPlacementLimit s = .next u ∧ taskOf u t.id = some v ∧ v.audit = .none ∧ placeLimit t ≤ u.now ∧
      (s.dev.errlog = 0 → SameBytes s u) := by
  have here : taskOf s t.id = some t := by rwa [taskOf_id known]
  obtain ⟨sig, replay, mask, abandons⟩ := placeLost_abandons t (reach (placeLimit t) s)
  have runs := auditPlacementLimit_lost known done its waiting lost
  rw [abandons] at runs
  obtain ⟨v, there, audit⟩ := abandonAudit_ends (s := reach (placeLimit t) s) (t := t) here 3 sig replay mask
  refine ⟨_, v, runs, there, audit, ?_, fun off => abandonAudit_bytes (s := reach (placeLimit t) s) t 3 sig replay mask off⟩
  rw [abandonAudit_now]
  exact Nat.le_max_right ..

end Audit

/-- Settles O51: dispatch by `dispatch_acts`, waits by `taskAging_moves` and `taskBlocking_blocks`, completion by `taskCompletion_completes`, and the
audit by `seekPlace_starts`, `auditReplay_ends`, `audit_voted` and `auditPlacementLimit_lost`. -/
theorem taskSteps : Obligations.TaskSteps := by
  intro s t gs xs r lines p id n
  refine ⟨fun none => ?nothing, fun found known once low => ?dispatch, fun known => ⟨fun queued pri => ?aging, fun rest => taskAging_rests known rest,
    fun queued pri alone => taskBlocking_blocks known queued pri alone, fun waits => taskCompletion_waits known waits,
    fun once disp ended idle posted sound flushed => taskCompletion_completes known once disp ended idle posted sound flushed,
    fun rest => ⟨auditReplay_over known rest, auditVote_over known rest, auditPlacementLimit_over known rest⟩, fun done => ?audit⟩⟩
  case nothing =>
    show execDispatch s = _
    unfold execDispatch
    dsimp only
    rw [none]
  case dispatch =>
    obtain ⟨queued, fits⟩ := dispatchable_of found
    exact ⟨queued, fits, dispatch_waits found, dispatch_acts found known⟩
  case aging =>
    refine ⟨_, _, taskAging_moves known queued pri, taskOf_modTask_self (s := reach _ s) known fun _ => rfl, rfl, Nat.le_max_right .., rfl, rfl,
      fun _ => ⟨rfl, rfl, rfl⟩⟩
  case audit =>
    intro orig starts ends faulted complete got
    have number : t.id = id := taskOf_id known
    have its : taskOf s t.id = some t := by rwa [number]
    refine ⟨fun audit => ?sampled, fun audit => ?replayed, fun audit w runs => ?replaying, fun audit w runs => ?voting, fun waits => ?limit⟩
    case sampled =>
      intro soon
      rw [auditReplay_sampled known done audit]
      refine ⟨fun nowhere => congrArg _ (seekPlace_waits _ soon nowhere), fun place fresh => ?_⟩
      rw [← number] at fresh ⊢
      obtain ⟨v, w, h⟩ := seekPlace_starts .replaying soon place its fresh (by decide)
      exact ⟨_, v, w, rfl, h⟩
    case replayed =>
      intro soon
      rw [auditVote_replayed known done audit]
      refine ⟨fun nowhere => congrArg _ (seekPlace_waits _ soon nowhere), fun place fresh => ?_⟩
      rw [← number] at fresh ⊢
      obtain ⟨v, w, h⟩ := seekPlace_starts (.voting r lines p.1) soon place its fresh (by decide)
      exact ⟨_, v, w, rfl, h⟩
    case replaying =>
      have runs' : taskOf s (replayId t.id 1) = some w := by rwa [number]
      obtain ⟨failed, ended⟩ := auditReplay_ends known done audit runs'
      rw [number] at failed ended
      refine ⟨fun f => failed (replayEnd_faulted f), fun f going => auditReplay_going known done audit runs' (replayEnd_going f going),
        fun f whole same => ?_, fun f whole differ => ?_⟩
      · have h := ended _ (replayEnd_complete f whole)
        rwa [if_pos (show replayGot s w = _ from same)] at h
      · have h := ended _ (replayEnd_complete f whole)
        rwa [if_neg (show replayGot s w ≠ _ from differ)] at h
    case voting =>
      have runs' : taskOf s (replayId t.id 2) = some w := by rwa [number]
      obtain ⟨failed, ended⟩ := auditVote_ends known done audit runs'
      rw [number] at failed ended
      exact ⟨fun f => failed (replayEnd_faulted f), fun f going => auditVote_going known done audit runs' (replayEnd_going f going),
        fun f whole => ended _ (replayEnd_complete f whole)⟩
    case limit =>
      have used : usedClusters t = p.2 := by
        rcases waits with ⟨audit, place⟩ | ⟨audit, place⟩
        · rw [usedClusters, audit, place]
        · rw [usedClusters, audit, place]
      have waiting : t.audit = .sampled ∨ ∃ x n mask, t.audit = .replayed x n mask := waits.imp (·.1) fun h => ⟨_, _, _, h.1⟩
      refine ⟨fun soon place => auditPlacementLimit_seeks known used soon place, fun lost => ?_⟩
      have ends := auditPlacementLimit_ends known done used waiting lost
      rwa [number] at ends

end Sys2Proof.Machine
